-- ==== Sys2Proof/Word.lean ====
section
/-! DEFINITION. The word types of the GNC-4816 (R14, R15) and the plainest arithmetic on bit fields. -/

namespace Sys2Proof

/-- One byte (R15). -/
abbrev Byte := BitVec 8
/-- A node ID (R14): bit 16 is 0 for a Gnocon device, 1 for an adapter or a switch endpoint. -/
abbrev Node := BitVec 17
/-- A tag of a request (R300). -/
abbrev Tag := BitVec 14
/-- A line address: folded in a header (R19), DLA line address inside the device (R20). -/
abbrev Line := BitVec 39
/-- A DRAM line address: DFA in the upper 31 bits, line within the frame in the lower 6 (R132). -/
abbrev LineAddr := BitVec 37

/-- A sparse map from an instance number to a record: rising keys, no entry equal to the default.
An instance that is not listed reads as the default that the reader names. -/
abbrev SMap (α : Type) := List (Nat × α)

/-- The bits [hi:lo] of a word, both ends included (R15). -/
def bits {n : Nat} (x : BitVec n) (hi lo : Nat) : BitVec (hi + 1 - lo) := x.extractLsb' lo (hi + 1 - lo)

/-- The field [hi:lo] as a number. -/
def fieldNat {n : Nat} (x : BitVec n) (hi lo : Nat) : Nat := x.toNat / 2 ^ lo % 2 ^ (hi + 1 - lo)

/-- `x` with its bits [lo + w - 1 : lo] replaced by the `w` bits of `v`. -/
def setField {n w : Nat} (x : BitVec n) (lo : Nat) (v : BitVec w) : BitVec n :=
  (x &&& ~~~((BitVec.allOnes w).setWidth n <<< lo)) ||| (v.setWidth n <<< lo)

/-- A `w`-bit value placed at bit `lo` of an `n`-bit word that is otherwise zero. -/
def place {w : Nat} (n lo : Nat) (v : BitVec w) : BitVec n := v.setWidth n <<< lo

/-- One bit from a truth value. -/
def bit1 (b : Bool) : BitVec 1 := if b then 1 else 0

/-- Byte `i` of a word, byte 0 least significant (R15). -/
def byteAt {n : Nat} (x : BitVec n) (i : Nat) : Byte := x.extractLsb' (8 * i) 8

/-- The first `k` bytes of a word, least significant first (R15). -/
def bytesOf {n : Nat} (x : BitVec n) (k : Nat) : List Byte := (List.range k).map (byteAt x)

/-- The word spelled by a list of bytes, least significant first (R15). -/
def wordOf (n : Nat) : List Byte → BitVec n
  | [] => 0
  | b :: r => b.setWidth n ||| (wordOf n r <<< 8)

end Sys2Proof
end

