-- ==== Sys2Proof/Syntax.lean ====
section
/-! DEFINITION. The commands of the block: one constructor per row of spec/opcode_table.json, with the
operands that the row's rule names, and the packets that carry them (Tables 10.2, 10.3, 10.6, 10.8). -/

namespace Sys2Proof

/-- A packet of the request layout as it arrives on an AFL port (Table 10.2) with its continuation slots
(Table 10.4). `line` is the folded line address of R19. -/
structure Req where
  /-- OPCODE [7:0] (Table 10.1): the row that takes the packet writes it. -/
  op : BitVec 8 := 0
  /-- AFL port of arrival. -/
  port : Nat := 0
  /-- SOURCE [41:25]. -/
  src : Node := 0
  /-- DESTINATION [24:8]. -/
  dst : Node := 0
  /-- TAG [55:42]. -/
  tag : Tag := 0
  /-- LINE [94:56]. -/
  line : Line := 0
  /-- CLASS [114:107]. -/
  cls : BitVec 8 := 0
  /-- DEADLINE [106:95]. -/
  deadline : BitVec 12 := 0xFFF
  /-- PAGE_HINT [116:115]. -/
  hint : BitVec 2 := 0
  /-- POISON [123]. -/
  poison : Bool := false
  /-- OPND_SIZE [122:121]. -/
  opndSize : BitVec 2 := 0
  /-- OPND_OFF [120:117]. -/
  opndOff : BitVec 4 := 0
  /-- MASK of WR_PART. -/
  mask : BitVec 64 := 0
  /-- The line of a write or of a dirty eviction. -/
  data : BitVec 512 := 0
  /-- The operand slot of an atomic, or the first slot of SNP_FWD_S. -/
  operand : BitVec 128 := 0
  deriving DecidableEq, Repr, Inhabited

/-- A packet of the response layout as it arrives (Table 10.3) with its line. -/
structure Rsp where
  /-- AFL port of arrival. -/
  port : Nat := 0
  /-- SOURCE [41:25]. -/
  src : Node := 0
  /-- DESTINATION [24:8]. -/
  dst : Node := 0
  /-- TAG [55:42]. -/
  tag : Tag := 0
  /-- STATUS [59:56]. -/
  status : BitVec 4 := 0
  /-- FROM_WB [63]. -/
  fromWb : Bool := false
  /-- SYNTHETIC [62]. -/
  synthetic : Bool := false
  /-- POISON [64]. -/
  poison : Bool := false
  /-- SPECULATIVE [61]. -/
  spec : Bool := false
  /-- PERSISTED [60]. -/
  persisted : Bool := false
  /-- FORWARDED [65]. -/
  fwd : Bool := false
  /-- HOME [88:72]. -/
  home : Node := 0
  /-- The line, or the old value of ATM_DATA in its low bits. -/
  data : BitVec 512 := 0
  deriving DecidableEq, Repr, Inhabited

/-- What the measurement chain gives of a power-path channel in a 1 ms frame (R418, Table 15.2). -/
structure ChanSample where
  /-- Channel n of Table 15.1. -/
  ch : Nat := 0
  /-- Current in mA. -/
  mA : Nat := 0
  /-- Output or input voltage in mV. -/
  mV : Nat := 0
  /-- Average power of the frame in mW. -/
  mW : Nat := 0
  deriving DecidableEq, Repr, Inhabited

/-- A management packet (Table 10.8). -/
structure Mgmt where
  /-- AFL port of arrival. -/
  port : Nat := 0
  /-- SOURCE [41:25]. -/
  src : Node := 0
  /-- DESTINATION [24:8]. -/
  dst : Node := 0
  /-- TAG [55:42]. -/
  tag : Tag := 0
  /-- WIDE [90]. -/
  wide : Bool := false
  /-- BYTE_EN [89:82]. -/
  be : BitVec 8 := 0
  /-- OFFSET [81:56]. -/
  offset : BitVec 26 := 0
  /-- The data of MGMT_WR. -/
  data : BitVec 64 := 0
  deriving DecidableEq, Repr, Inhabited

/-- An SPDM_MSG fragment (R315). -/
structure Spdm where
  /-- AFL port of arrival. -/
  port : Nat := 0
  /-- SOURCE [41:25]. -/
  src : Node := 0
  /-- DESTINATION [24:8]. -/
  dst : Node := 0
  /-- TAG [55:42]. -/
  tag : Tag := 0
  /-- FRAG_LEN [63:56]. -/
  fragLen : BitVec 8 := 0
  /-- FRAG_INDEX [71:64]. -/
  fragIndex : BitVec 8 := 0
  /-- LAST [72]. -/
  last : Bool := false
  /-- MSG_ID [80:73]. -/
  msgId : BitVec 8 := 0
  /-- The fragment's bytes. -/
  bytes : List Byte := []
  deriving DecidableEq, Repr, Inhabited

/-- A private write on the I3C target that carries a register command (Table 17.1). -/
structure I3cFrame where
  /-- OFFSET, bytes 1 to 4. -/
  offset : BitVec 32 := 0
  /-- BYTE_EN, byte 5. -/
  be : BitVec 8 := 0
  /-- DATA of a write. -/
  data : BitVec 64 := 0
  /-- The target works as an I2C target (R461). -/
  i2c : Bool := false
  /-- The CRC byte, in I2C mode. -/
  crc : BitVec 8 := 0
  /-- The frame has the length that its CMD needs. -/
  lenOk : Bool := true
  deriving DecidableEq, Repr, Inhabited

/-- A reservation message of the NoC (R328, R329): between a source and a destination endpoint. -/
structure RsvMsg where
  /-- Source endpoint. -/
  src : Nat := 0
  /-- Destination endpoint. -/
  dst : Nat := 0
  /-- Resource code. -/
  res : BitVec 4 := 0
  /-- Number of entries. -/
  count : Nat := 1
  /-- DUE, or NONE. -/
  due : Option (BitVec 24) := none
  /-- Regulation class. -/
  cls : BitVec 8 := 0
  deriving DecidableEq, Repr, Inhabited

/-- What enumeration and Identify report of an SSD (R4, R211, R216, Table 7.9). -/
structure Identity where
  /-- NVMe NGUID, or EUI-64 zero-extended (R198). -/
  nguid : BitVec 128 := 0
  /-- The bay by its PCIe Physical Slot Number (R216). -/
  bay : Nat := 0
  /-- The position in the bay, by its downstream port (R216). -/
  position : Nat := 0
  /-- Major number of its NVMe version. -/
  nvmeMajor : Nat := 2
  /-- PCIe switch levels above it (R4). -/
  switchLevels : Nat := 0
  /-- LBA data size of the namespace in bytes. -/
  lbaBytes : Nat := 4096
  /-- Protection information is enabled. -/
  protection : Bool := false
  /-- LBAs that AWUPF covers. -/
  awupfLbas : Nat := 1
  /-- Deallocated blocks read as zero. -/
  deallocZero : Bool := true
  /-- MDTS in KiB. -/
  mdtsKib : Nat := 128
  /-- Blocks of the namespace. -/
  blocks : Nat := 0
  deriving DecidableEq, Repr, Inhabited

/-- What the SPD hubs of a channel's DIMMs say (R128, R130). -/
structure Population where
  /-- DIMMs on the channel, 0 to 2. -/
  dimms : Nat := 0
  /-- Width of the RANK field of Table 5.3, 0 to 2. -/
  rankBits : Nat := 0
  /-- Width of the CID field of Table 5.3, 0 to 3. -/
  cidBits : Nat := 0
  /-- Channel capacity in GiB. -/
  gib : Nat := 0
  /-- Lowest maximum rate of the DIMMs in MT/s. -/
  maxRate : Nat := 0
  /-- The SPD was read, checked and obeys R129. -/
  spdOk : Bool := true
  /-- Rows of a bank of the devices. -/
  rows : Nat := 65536
  /-- Kind of the modules: 0 RDIMM, 1 LRDIMM, 2 UDIMM (R4, Table 5.1). -/
  module : Nat := 0
  /-- The modules have ECC, with two 40-bit subchannels. -/
  ecc : Bool := true
  /-- Width of the DRAM devices in bits. -/
  devWidth : Nat := 4
  /-- A single module stands in slot 0 (R129). -/
  slot0 : Bool := true
  /-- Both modules carry the same part number (R129). -/
  sameParts : Bool := true
  /-- The SPD requires JEDEC Refresh Management (R146). -/
  rfm : Bool := false
  /-- Rolling activations of a bank at which the DIMM demands an RFM command (R146). -/
  raaLimit : Nat := 0
  /-- The SPD advertises DDR5 Directed Refresh Management (R144). -/
  drfm : Bool := false
  /-- Manufacturer ID and serial number of slot 0. -/
  id0 : BitVec 48 := 0
  /-- Manufacturer ID and serial number of slot 1, 0 when it is empty. -/
  id1 : BitVec 48 := 0
  deriving DecidableEq, Repr, Inhabited

/-- A region of the SPI NOR that system software writes whole (Table 13.8). -/
inductive NorRegion where
  /-- Boot directory copy 0. -/
  | dir0
  /-- Boot directory copy 1. -/
  | dir1
  /-- Firmware region of copy A (false) or B (true). -/
  | firmware (copyB : Bool)
  /-- Harness region of copy A (false) or B (true). -/
  | harness (copyB : Bool)
  /-- Patch log of copy A (false) or B (true). -/
  | patchLog (copyB : Bool)
  /-- Calibration record slots. -/
  | calibration
  /-- User trims and CAL_DIGEST. -/
  | trims
  deriving DecidableEq, Repr, Inhabited

/-- The commands of the GNC-4816. -/
inductive Instr where
  /-- RD_CUR (R176): Home bank takes an RD_CUR request and returns the current value as DATA_I without granting a copy. -/
  | rdCur (r : Req)
  /-- RD_SHARED (R176): Home bank takes an RD_SHARED request and grants a shareable copy under Table 6.4. -/
  | rdShared (r : Req)
  /-- RD_OWN (R176): Home bank takes an RD_OWN request, invalidates other copies and grants an exclusive copy. -/
  | rdOwn (r : Req)
  /-- UPGRADE (R176): Home bank takes an UPGRADE request for a line held in S or F and grants exclusive permission. -/
  | upgrade (r : Req)
  /-- WR_FULL (R182): Home bank takes an uncached full-line write, invalidates cached copies, stores the line and returns CMP. -/
  | wrFull (r : Req)
  /-- WR_PART (R182): Home bank takes a byte-masked partial write, invalidates copies, holds the bytes unmerged and returns CMP. -/
  | wrPart (r : Req)
  /-- AT_ADD (R183): Home bank executes an atomic add on its copy and returns the old value in ATM_DATA. -/
  | atAdd (r : Req)
  /-- AT_SWAP (R183): Home bank executes an atomic swap and returns the old value. -/
  | atSwap (r : Req)
  /-- AT_CAS (R183): Home bank executes an atomic compare-and-swap and returns the old value. -/
  | atCas (r : Req)
  /-- AT_AND (R183): Home bank executes an atomic AND and returns the old value. -/
  | atAnd (r : Req)
  /-- AT_OR (R183): Home bank executes an atomic OR and returns the old value. -/
  | atOr (r : Req)
  /-- AT_XOR (R183): Home bank executes an atomic XOR and returns the old value. -/
  | atXor (r : Req)
  /-- AT_SMIN (R183): Home bank executes an atomic signed minimum and returns the old value. -/
  | atSmin (r : Req)
  /-- AT_SMAX (R183): Home bank executes an atomic signed maximum and returns the old value. -/
  | atSmax (r : Req)
  /-- AT_UMIN (R183): Home bank executes an atomic unsigned minimum and returns the old value. -/
  | atUmin (r : Req)
  /-- AT_UMAX (R183): Home bank executes an atomic unsigned maximum and returns the old value. -/
  | atUmax (r : Req)
  /-- EVICT_CLEAN (R176): Home bank takes a clean eviction notice, updates the directory entry and returns WB_ACK. -/
  | evictClean (r : Req)
  /-- EVICT_DIRTY (R176): Home bank takes a dirty eviction notice, writes the data to the home copy if the owner is named, and returns WB_ACK. -/
  | evictDirty (r : Req)
  /-- CMP_ACK (R175): Arrival of a requester's CMP_ACK ends the grant and frees the line from busy. -/
  | cmpAck (p : Rsp)
  /-- RSP_I (R177): Home takes a snoop response reporting no copy and updates the entry or orphans the line. -/
  | rspI (p : Rsp)
  /-- RSP_S (R177): Home takes a snoop response reporting the node now holds S or keeps F. -/
  | rspS (p : Rsp)
  /-- RSP_I_CLEAN (R177): Home takes a snoop response reporting a clean E copy dropped to I. -/
  | rspIClean (p : Rsp)
  /-- RSP_I_DATA (R177): Home takes a snoop response with modified data, writes it to the home copy and records the node as I. -/
  | rspIData (p : Rsp)
  /-- RSP_S_DATA (R177): Home takes a snoop response with modified data, writes it to the home copy and records the node as S. -/
  | rspSData (p : Rsp)
  /-- RSP_FWD (R177): Home takes the F holder's report that it forwarded DATA_S to the requester. -/
  | rspFwd (p : Rsp)
  /-- SNP_INV (R179): The device, acting as a caching node, answers an invalidating snoop from another home. -/
  | snpInv (r : Req)
  /-- SNP_SHARE (R179): The device, acting as a caching node, answers a sharing snoop from another home. -/
  | snpShare (r : Req)
  /-- SNP_FWD_S (R179): The device, acting as a caching node, answers a forward snoop from another home. -/
  | snpFwdS (r : Req)
  /-- DATA_E (R179): The device, acting as a requester, receives an exclusive grant and installs the line in E. -/
  | dataE (p : Rsp)
  /-- DATA_S (R179): The device, acting as a requester, receives a shared grant from the home or a forwarding F holder. -/
  | dataS (p : Rsp)
  /-- DATA_F (R165): The device, acting as a requester, receives an F grant. -/
  | dataF (p : Rsp)
  /-- DATA_I (R176): The device, acting as a requester, receives data without a copy. -/
  | dataI (p : Rsp)
  /-- CMP_E (R176): The device, acting as a requester, receives the grant of its UPGRADE. -/
  | cmpE (p : Rsp)
  /-- CMP (R182): The device, acting as a requester, receives the completion of an uncached write. -/
  | cmp (p : Rsp)
  /-- ATM_DATA (R183): The device, acting as a requester, receives the completion of an atomic with its old value. -/
  | atmData (p : Rsp)
  /-- WB_ACK (R180): The device, acting as a caching node, receives acceptance of an eviction notice and frees its writeback buffer entry. -/
  | wbAck (p : Rsp)
  /-- ERR_CMP (R308): The device receives an error completion for a request it sent, which grants no copy. -/
  | errCmp (p : Rsp)
  /-- LATE_ALARM (R309): The device receives a late alarm that revokes an earlier speculative response as ERR_DATA. -/
  | lateAlarm (p : Rsp)
  /-- MGMT_RD (R314): A management read packet accesses the management window and is answered with MGMT_RD_RSP or ERR_CMP. -/
  | mgmtRd (m : Mgmt)
  /-- MGMT_WR (R314): A management write packet accesses the management window and is answered with MGMT_WR_RSP or ERR_CMP. -/
  | mgmtWr (m : Mgmt)
  /-- SPDM_MSG (R315): An SPDM request fragment is reassembled and, at LAST, the SPDM message is processed. -/
  | spdmMsg (m : Spdm)
  /-- LAT_TOL (R312): A port records the partner's latency tolerance and the device re-evaluates its gait. -/
  | latTol (port : Nat) (src : Node) (dst : Node) (noReq : Bool) (scale : BitVec 3) (value : BitVec 10)
  /-- POWER_WARN (R313): A POWER_WARN from a peer device is counted and otherwise ignored. -/
  | powerWarn (port : Nat) (src : Node) (tide : BitVec 64) (cause : BitVec 4)
  /-- SNOOP_TIMEOUT_EXPIRY (R185): In Fabric topology a snoop or CMP_ACK unanswered for SNOOP_TIMEOUT is treated as failed or received. -/
  | snoopTimeoutExpiry (node : Node) (tag : Tag)
  /-- DEVICE_REQUEST_TIMEOUT (R310): In Fabric topology a device request without response within SNOOP_TIMEOUT completes with a synthetic ERR_NODATA. -/
  | deviceRequestTimeout (node : Node) (tag : Tag)
  /-- DRAM_READ_COMPLETE (R114): A DRAM line read returns and is checked under the sealed or plain code, corrected, or found failing. -/
  | dramReadComplete (addr : LineAddr) (err : BitVec 640)
  /-- LINE_REREAD_COMPLETE (R154): The re-read of a line that failed returns, and the line is left as stored or poisoned. -/
  | lineRereadComplete (addr : LineAddr) (err : BitVec 640)
  /-- TAG_TEST_COMPLETE (R117): The sealing unit's tag test for a speculatively forwarded line completes and sends a late alarm or verdict marker. -/
  | tagTestComplete (node : Node) (tag : Tag)
  /-- VERDICT_ARRIVAL (R117): An AFL port receives the verdict of a speculative response, sends the alarm or releases held flits. -/
  | verdictArrival (port : Nat) (node : Node) (tag : Tag)
  /-- KEY_CONTEXT_FILL (R98): A key context missing from the Quay key partition is read, unwrapped and derived into the partition. -/
  | keyContextFill (keyId : BitVec 20)
  /-- WARM_LINE_DECODE (R82): A decompressor tile completes a single-line decode of a Warm bale and forwards the line. -/
  | warmLineDecode (line : Line) (bad : Option Nat)
  /-- DEMAND_FAULT_READ_COMPLETE (R36): The NVMe Read of a demand fault completes; the requested line is decoded or the page poisoned. -/
  | demandFaultReadComplete (page : Nat) (ok : Bool)
  /-- DEMAND_FAULT_INSTALL_COMPLETE (R35): All granules of a faulted page are written, the descriptor becomes Warm and waiting requests are served. -/
  | demandFaultInstallComplete (page : Nat)
  /-- LINE_EVICTION (R31): A dirty line leaves the Quay data partition and is written toward its page, promoting, faulting or allocating as needed. -/
  | lineEviction (line : Line)
  /-- PARTIAL_LINE_MERGE (R29): The stored line read for a merge returns and the held bytes are merged and written back. -/
  | partialLineMerge (line : Line) (err : BitVec 640)
  /-- DECAY_EPOCH_ADVANCE (R60): At each DECAY_PERIOD window start the device's DECAY_EPOCH advances. -/
  | decayEpochAdvance
  /-- SCANNER_VISIT (R63): The tier scanner visits a frame, decays its descriptor and may demote it, move it to Cold or start compaction. -/
  | scannerVisit
  /-- DEMOTION_COMPLETE (R32): All granules of a demoted page are written and the descriptor is updated to Warm or Unbacked in one update. -/
  | demotionComplete (page : Nat)
  /-- PROMOTION_COMPLETE (R52): The four bales are decoded into the new berth and the descriptor becomes Hot. -/
  | promotionComplete (page : Nat)
  /-- COMPACTION_MOVE_COMPLETE (R69): A live run copied into an open granule frame takes its new location in one descriptor update. -/
  | compactionMoveComplete (page : Nat)
  /-- RELOCATION_LINE_COPY (R71): One line of a retiring berth is copied to NEW_DFA and COPIED raised, finishing the relocation at 64. -/
  | relocationLineCopy (page : Nat) (err : BitVec 640)
  /-- REKEY_PAGE_CONVERSION (R123): A rekey engine finishes converting one page to the new key and advances its tide mark. -/
  | rekeyPageConversion (engine : Nat)
  /-- REFRESH_DUE (R141): A rank's refresh interval expires and a same-bank refresh is queued or postponed. -/
  | refreshDue (ch : Nat) (sub : Bool) (rank : Nat) (cid : Nat) (ba : Nat)
  /-- RD_WINDOW_START (R143): At each RD_WINDOW start every row-disturbance table is cleared. -/
  | rdWindowStart
  /-- RD_THRESHOLD_REACHED (R143): A row's activation count reaches RD_THRESHOLD and a mitigation is queued. -/
  | rdThresholdReached (ch : Nat) (bank : Nat) (row : Nat)
  /-- WRITE_DRAIN_ENTRY (R140): The channel enters write drain at DRAIN_HI or opportunistically. -/
  | writeDrainEntry (ch : Nat)
  /-- WRITE_DRAIN_EXIT (R140): The channel leaves write drain at DRAIN_LO or when a read arrives after an opportunistic entry. -/
  | writeDrainExit (ch : Nat)
  /-- THERMAL_SENSOR_READ (R142): Every 16 ms the DIMM thermal sensors are read and refresh interval and activation throttle set. -/
  | thermalSensorRead (ch : Nat) (slot : Nat) (temp : Nat)
  /-- PMIC_STATUS_READ (R131): Every 16 ms PMIC status is read over the sideband bus. -/
  | pmicStatusRead (ch : Nat) (slot : Nat) (fault : Bool)
  /-- PMIC_INTERRUPT (R131): An in-band interrupt from a PMIC triggers a status read. -/
  | pmicInterrupt (ch : Nat) (slot : Nat) (fault : Bool)
  /-- DIMM_ALERT (R155): A DIMM signals a CA parity alert and the controller replays the commands since the last good one. -/
  | dimmAlert (ch : Nat) (sub : Bool) (rank : Nat) (ok : Bool)
  /-- DEV_MARK_WIN_START (R150): At each DEV_MARK_WIN window start every device's correction count is cleared. -/
  | devMarkWinStart
  /-- DEV_MARKED (R150): A device's corrections reach DEV_MARK_TH and the device is marked failed. -/
  | devMarked (ch : Nat) (sub : Bool) (rank : Nat) (cid : Nat) (dev : Nat)
  /-- SCRUB_READ (R152): The scrubber issues a read of the next scrubbed line, when idle or to keep pace. -/
  | scrubRead (ch : Nat)
  /-- SELF_REFRESH_ENTRY (R158): On command from the mode sequencer a channel drains, saves state and enters self-refresh. -/
  | selfRefreshEntry (ch : Nat)
  /-- SELF_REFRESH_EXIT (R159): A channel's domains power on and it leaves self-refresh, restoring calibration and checking read patterns. -/
  | selfRefreshExit (ch : Nat) (patternOk : Bool) (trainOk : Bool)
  /-- FULL_TRAINING (R160): A channel runs full DDR5 training and writes a calibration record. -/
  | fullTraining (ch : Nat) (ok : Bool) (pop : Population)
  /-- CAL_RECORD_RESTORE (R162): At cold start a matching calibration record is restored and checked. -/
  | calRecordRestore (ch : Nat) (checksOk : Bool) (pop : Population)
  /-- DIRTY_CEILING_WINDOW (R192): At each 1 s window start the dirty ceiling C and the Persistence Assured state are recomputed. -/
  | dirtyCeilingWindow
  /-- FLUSH_BW_PROBE (R193): After 600 s without a saturated window a 100 ms compaction probe measures flush bandwidth. -/
  | flushBwProbe (bytes : Nat)
  /-- WB_AGE_EXPIRY (R195): A page dirty for WB_AGE is queued for ledger writeback. -/
  | wbAgeExpiry (page : Nat)
  /-- SEGMENT_WRITES_COMPLETE (R207): All summary and data block writes of a segment complete and the SEG_COMMIT record is written. -/
  | segmentWritesComplete (seq : Nat)
  /-- SEG_COMMIT (R207): The NVMe completion of a SEG_COMMIT updates the mirror, clears DIRTY and sets LEDGER_VALID. -/
  | segCommit (seq : Nat)
  /-- NVME_WRITE_FAILED (R214): A failed ledger Write leaves its segment uncommitted and requeues its pages. -/
  | nvmeWriteFailed (seq : Nat)
  /-- MAP_BLOCK_WRITEBACK (R207): A changed map block is written back and MAP_HORIZON may advance and be recorded. -/
  | mapBlockWriteback (block : Nat)
  /-- HOT_LIST_REWRITE (R201): Every HOT_PERIOD the hot list is rewritten in place. -/
  | hotListRewrite
  /-- SMART_LOG_POLL (R213): Every 1 s the SMART / Health log of each SSD is read. -/
  | smartLogPoll (ssd : Nat) (critical : Bool) (fatal : Bool)
  /-- LEDGER_TIMEOUT_EXPIRY (R214): An NVMe command exceeding LEDGER_TIMEOUT is aborted and the SSD controller reset. -/
  | ledgerTimeoutExpiry (ssd : Nat)
  /-- SSD_RESET_TIMEOUT (R497): An SSD controller reset not completed within LEDGER_TIMEOUT marks the SSD failed. -/
  | ssdResetTimeout (ssd : Nat)
  /-- SSD_READY (R211): An SSD reports ready, is checked by Identify and its queues are created. -/
  | ssdReady (ssd : Nat) (ident : Identity)
  /-- HOLDUP_ENTRY (R217): With no feed qualified the device enters Holdup, withdraws PA, sends POWER_WARN and rests tier operations. -/
  | holdupEntry
  /-- HOLDUP_FREEZE (R220): HOLD_GRACE after Holdup entry the dirty list is closed and written. -/
  | holdupFreeze
  /-- DIRTY_LIST_COMMITTED (R220): The DIRTY_LIST records are committed and the flush of both groups proceeds. -/
  | dirtyListCommitted
  /-- HOLDUP_FLUSH_COMMITTED (R220): The flush is committed; dirty Quay lines go to DRAM, HOLD_DONE is written and SSDs flushed. -/
  | holdupFlushCommitted
  /-- HOLD_DONE_WRITTEN (R220): Step 5 of Holdup ends; DRAM enters self-refresh, links go down and ledger bays are warned. -/
  | holdDoneWritten
  /-- WATCH_ENTRY (R404): BAY_WARN_LEAD after step 6 the bay rails and switchable domains go off and the device enters Watch. -/
  | watchEntry
  /-- HOLDUP_ENERGY_CHECK (R221): Every 1 ms in Holdup e_store is checked and the device releases at RELEASE_RESERVE. -/
  | holdupEnergyCheck (eStore : Nat)
  /-- FEED_RETURN_IN_HOLDUP (R222): A feed that returns during Holdup leads to Recovery with DRAM retained after the flush. -/
  | feedReturnInHoldup
  /-- WATCH_PERIOD_SAMPLE (R405): At each Watch period AON wakes, reads e_store and channel status and compares them. -/
  | watchPeriodSample (eStore : Nat) (slotFault : Option Nat)
  /-- WATCH_EXIT (R406): A qualified feed wakes AON and, with DRAM retained, starts Watch exit toward Recovery. -/
  | watchExit
  /-- TIDE_RESUME (R407): After Watch the crystal is stable and the tide counter resumes with its computed advance. -/
  | tideResume (slowCycles : Nat)
  /-- SLOW_PERIOD_CALIBRATION (R408): At each 1 s window AON measures SLOW_PERIOD and stores it in AON_SLOW_CAL. -/
  | slowPeriodCalibration (crystalCycles : Nat)
  /-- LEDGER_REPLAY (R226): After the manifest is chosen the logbooks are replayed into the overlay and the outage classified. -/
  | ledgerReplay
  /-- MANIFEST_CHOICE (R199): At cold start the valid manifest copy with the highest GENERATION is chosen, or a ledger created, or Maintenance entered. -/
  | manifestChoice
  /-- PENDING_FRAME_RESTORE (R227): A map block read for a pending descriptor frame returns and the frame is restored. -/
  | pendingFrameRestore (frame : Nat)
  /-- BACKGROUND_RESTORE_PAGE (R228): The background restore installs the next map block or hot-list page. -/
  | backgroundRestorePage
  /-- RESTORE_FIRST_PASS_END (R229): The first restore pass ends with PAGE_COUNT and the segment table rebuilt. -/
  | restoreFirstPassEnd
  /-- FEEDS_FAIL_IN_RECOVERY (R230): Both feeds fail in Recovery; the device takes Holdup or turns off every rail. -/
  | feedsFailInRecovery
  /-- BUDGET_WINDOW_START (R239): At each budget window start usage counters reset, scale factors and dirtying classes are set. -/
  | budgetWindowStart
  /-- AGE_LIMIT_EXPIRY (R242): A request that has waited AGE_LIMIT in one queue is ordered as not lowered. -/
  | ageLimitExpiry (src : Node) (tag : Tag)
  /-- OVERDUE_LIMIT_REACHED (R232): A request's slack reaches the overdue limit and it ranks as overdue and is counted. -/
  | overdueLimitReached (src : Node) (tag : Tag)
  /-- CAP_HOLD_RELEASE (R247): A class falls below OUT_CAP and a held request is released from the hold buffer. -/
  | capHoldRelease (port : Nat) (cls : BitVec 8)
  /-- DETECT_STEP (R259): Once per 1 ms in DETECT a receiver-detect step runs on every lane. -/
  | detectStep (port : Nat) (lanes : BitVec 16)
  /-- TS1 (R259): A valid TS1 training set is received and advances training, equalisation, retrain or low-power exit. -/
  | ts1 (port : Nat) (lane : Nat) (ts : BitVec 256)
  /-- TS2 (R261): A valid TS2 is received, selections are agreed, and the port enters ACTIVE, EQ or resumes. -/
  | ts2 (port : Nat) (lane : Nat) (ts : BitVec 256)
  /-- POLL_TIMEOUT (R259): POLL not completed in 24 ms returns the port to DETECT. -/
  | pollTimeout (port : Nat)
  /-- CONFIG_TIMEOUT (R259): CONFIG not completed in 4 ms, or 100 ms after a rejection, returns to DETECT. -/
  | configTimeout (port : Nat)
  /-- EQ_TIMEOUT (R259): EQ not completed in 24 ms retries at the next lower rate or goes to DETECT. -/
  | eqTimeout (port : Nat)
  /-- RETRAIN_TIMEOUT (R259): RETRAIN without a TS2 exchange in 40 µs falls back to EQ. -/
  | retrainTimeout (port : Nat)
  /-- TS1_LOSS_TIMEOUT (R285): No valid TS1 for 1 ms returns the port to DETECT and declares the link lost. -/
  | ts1LossTimeout (port : Nat)
  /-- PAYLOAD_FLIT (R272): A good PAYLOAD flit is received, delivered in SEQ order or discarded, and its ACK, NAK, credits and LMC applied. -/
  | payloadFlit (port : Nat) (flit : BitVec 2048)
  /-- IDLE_FLIT (R272): A good IDLE flit is received, its header fields applied and a gap recorded if SEQ is ahead. -/
  | idleFlit (port : Nat) (flit : BitVec 2048)
  /-- BAD_FLIT (R268): A flit that is not good is discarded, counted and NAK set. -/
  | badFlit (port : Nat) (flit : BitVec 2048)
  /-- ACK_TIMEOUT_EXPIRY (R273): ACK has not advanced for ACK_TIMEOUT with flits unacknowledged and a replay starts. -/
  | ackTimeoutExpiry (port : Nat)
  /-- LANE_FAILED (R277): A lane's corrected symbols reach LANE_ERR_TH in 1 ms, or alignment is lost, and a retrain starts. -/
  | laneFailed (port : Nat) (lane : Nat) (dir : Bool) (symbols : Nat)
  /-- W_PROPOSE (R281): A received width proposal is answered with W_ACCEPT or W_REJECT, resolving crossings. -/
  | wPropose (port : Nat) (id : BitVec 8) (arg : BitVec 16)
  /-- W_ACCEPT (R281): A received width acceptance lets the proposer send the W_SWITCH sequence. -/
  | wAccept (port : Nat) (id : BitVec 8) (arg : BitVec 16)
  /-- W_REJECT (R281): A received width rejection ends the width change exchange. -/
  | wReject (port : Nat) (id : BitVec 8) (arg : BitVec 16)
  /-- W_SWITCH (R281): A received W_SWITCH sequence moves the receiver and then the transmitter to the target lane group. -/
  | wSwitch (port : Nat) (id : BitVec 8) (arg : BitVec 16)
  /-- LP_REQ (R283): A received low-power request is answered with LP_ACK or LP_NAK. -/
  | lpReq (port : Nat) (id : BitVec 8) (arg : BitVec 16)
  /-- LP_ACK (R283): A received LP_ACK leads both ends to send 8 IDLE flits and enter standby or sleep. -/
  | lpAck (port : Nat) (id : BitVec 8) (arg : BitVec 16)
  /-- LP_NAK (R283): A received LP_NAK ends the low-power request. -/
  | lpNak (port : Nat) (id : BitVec 8) (arg : BitVec 16)
  /-- LINK_OFF (R286): A received LINK_OFF ends the session and the port enters OFF. -/
  | linkOff (port : Nat) (id : BitVec 8) (arg : BitVec 16)
  /-- WIDTH_CAP_CHANGE (R279): A change of width cap sends W_PROPOSE in-band or starts a reset-only retrain. -/
  | widthCapChange (port : Nat) (code : BitVec 3)
  /-- LMC_TIMEOUT_EXPIRY (R280): A link management exchange unanswered for LMC_TIMEOUT is abandoned and counted. -/
  | lmcTimeoutExpiry (port : Nat)
  /-- LANE_LOCK_TIMEOUT (R281): Added lanes not locked within 20 µs are answered with W_REJECT LANES. -/
  | laneLockTimeout (port : Nat)
  /-- LOW_POWER_EXIT (R284): An end with traffic sends TS1 to leave standby or sleep. -/
  | lowPowerExit (port : Nat)
  /-- LOW_POWER_EXIT_TIMEOUT (R284): An exit not reaching flits within 40 µs or 100 µs becomes a retrain. -/
  | lowPowerExitTimeout (port : Nat)
  /-- TAG_QUIET_EXPIRY (R292): TAG_QUIET after a synthetic completion the tag may be reused toward the destination. -/
  | tagQuietExpiry (node : Node) (tag : Tag)
  /-- EVENT_MSG (R313): An event whose count advanced sends EVENT_MSG, at most once per event and port per 1 ms window. -/
  | eventMsg (port : Nat) (event : Nat)
  /-- RSV_REQ (R329): A destination receives a reservation request and grants in R241 order or its gateway holds it. -/
  | rsvReq (q : RsvMsg)
  /-- RSV_GRANT (R329): A source receives reservations and injects its waiting packets. -/
  | rsvGrant (q : RsvMsg)
  /-- RSV_REVOKE (R330): A source receives a revoke and returns its unused reservations. -/
  | rsvRevoke (q : RsvMsg)
  /-- RSV_RETURN (R330): A destination receives returned reservations toward its drain count. -/
  | rsvReturn (q : RsvMsg)
  /-- DOMAIN_DRAIN_COMPLETE (R330): Returned plus arrived equals granted and the domain completes its entry and powers down. -/
  | domainDrainComplete (dom : Nat)
  /-- DOMAIN_WAKE (R396): A held reservation request or access wakes a sleeping domain with the wake-table delays. -/
  | domainWake (dom : Nat)
  /-- DOMAIN_WAKE_COMPLETE (R331): A woken domain grants again and its gateway passes held requests in arrival order. -/
  | domainWakeComplete (dom : Nat)
  /-- NOC_UE (R322): A header unit with an uncorrectable word is discarded, logged fatal and a freeze triggered. -/
  | nocUe (router : Nat) (port : Nat)
  /-- BRIDGE_UNIT_REPLAY (R320): A bridge unit that fails its CRC is replayed. -/
  | bridgeUnitReplay (bridge : Nat)
  /-- ROUTE_EPOCH_SWITCH (R332): After every router acknowledges new tables, sources are commanded to stamp the new epoch. -/
  | routeEpochSwitch
  /-- EPOCH_RETIREMENT (R332): The injected and ejected totals of the old epoch are equal and its bank is retired. -/
  | epochRetirement
  /-- ROUTE_STUCK (R333): A bank not retired within ROUTE_DRAIN_LIMIT is logged and a freeze triggered. -/
  | routeStuck
  /-- FREEZE (R335): A freeze stops every router's capture ring and AON starts copying the rings. -/
  | freeze (trigger : BitVec 4)
  /-- FREEZE_DUMP_COMPLETE (R335): AON finishes copying all router rings into the freeze area. -/
  | freezeDumpComplete
  /-- RELEASE (R335): A write of RELEASE releases the held dump and capture resumes. -/
  | release
  /-- RING_ENABLE (R340): A ring context write setting ENABLE checks the queues, pins their pages and starts the ring. -/
  | ringEnable (path : Nat) (ring : Nat) (word : BitVec 32)
  /-- RING_DISABLE (R341): A write clearing ENABLE stops fetching, aborts unstarted commands and disables the ring when idle. -/
  | ringDisable (path : Nat) (ring : Nat) (word : BitVec 32)
  /-- RING_DB_SQ_TAIL (R343): An SQ_TAIL doorbell makes submitted entries available for fetch. -/
  | ringDbSqTail (path : Nat) (node : Node) (ring : Nat) (value : BitVec 32)
  /-- RING_DB_CQ_HEAD (R343): A CQ_HEAD doorbell frees consumed completion entries and may clear the RING_PEND bit. -/
  | ringDbCqHead (path : Nat) (node : Node) (ring : Nat) (value : BitVec 32)
  /-- RING_FETCH (R344): A management complex fetches the next entry of an eligible ring and checks it. -/
  | ringFetch (cpx : Nat)
  /-- COMPLETION_POST (R346): A finished command posts its completion entry into the CQ with the current PHASE. -/
  | completionPost (ring : Nat) (idx : Nat)
  /-- MOVER_UNIT_COMPLETE (R351): A mover completes one 4 KiB unit of a data movement command. -/
  | moverUnitComplete (ring : Nat) (idx : Nat)
  /-- COPY (R351): COPY copies a range line by line through the home banks. -/
  | copy (ring : Nat) (idx : Nat)
  /-- FILL (R351): FILL writes a 64-bit pattern into every word of a range. -/
  | fill (ring : Nat) (idx : Nat)
  /-- COMPARE (R351): COMPARE compares two ranges and reports the first difference. -/
  | compare (ring : Nat) (idx : Nat)
  /-- ZERO (R352): ZERO makes wholly covered pages Unbacked and zero-writes partly covered lines. -/
  | zero (ring : Nat) (idx : Nat)
  /-- PIN_HOT (R65): PIN_HOT pins a range and brings its pages Hot, or is refused at PIN_LIMIT. -/
  | pinHot (ring : Nat) (idx : Nat)
  /-- UNPIN (R65): UNPIN clears PIN on a range, skipping queue pages of enabled rings. -/
  | unpin (ring : Nat) (idx : Nat)
  /-- DEMOTE (R65): DEMOTE demotes pages to Warm or moves them to Cold regardless of hotness. -/
  | demote (ring : Nat) (idx : Nat)
  /-- PREFETCH (R65): PREFETCH opens demand faults for Cold pages and raises their hotness. -/
  | prefetch (ring : Nat) (idx : Nat)
  /-- PERSIST_BARRIER (R353): PERSIST_BARRIER writes back the dirty pages of a range and posts once each is committed. -/
  | persistBarrier (ring : Nat) (idx : Nat)
  /-- SNAPSHOT (R354): SNAPSHOT holds writes at every bank to fix a point and then copies the range as of that point. -/
  | snapshot (ring : Nat) (idx : Nat)
  /-- SNAPSHOT_POINT_FIXED (R354): The last bank acknowledges the hold, the snapshot point is fixed and holds lifted. -/
  | snapshotPointFixed (ring : Nat) (idx : Nat)
  /-- QUERY_TIER (R355): QUERY_TIER writes one tier record per page of a range. -/
  | queryTier (ring : Nat) (idx : Nat)
  /-- SCRUB_RANGE (R356): SCRUB_RANGE reads, checks and corrects every line of Hot and Warm pages in a range. -/
  | scrubRange (ring : Nat) (idx : Nat)
  /-- KEY_LOAD (R95): KEY_LOAD unwraps a key under a KTK, rewraps it under the KWK and makes the entry Active. -/
  | keyLoad (ring : Nat) (idx : Nat)
  /-- KEY_RETIRE (R96): KEY_RETIRE retires an unused Active key and removes its expanded contexts. -/
  | keyRetire (ring : Nat) (idx : Nat)
  /-- REKEY_START (R122): REKEY_START assigns a rekey engine to convert a range from an old key to a new key. -/
  | rekeyStart (ring : Nat) (idx : Nat)
  /-- RETIRE_FRAME (R70): RETIRE_FRAME retires a DRAM frame, relocating its contents. -/
  | retireFrame (ring : Nat) (idx : Nat)
  /-- RETIRE_BANK (R135): RETIRE_BANK retires every frame with a line in a named DRAM bank. -/
  | retireBank (ring : Nat) (idx : Nat)
  /-- CAL_RESTORE_FACTORY (R161): CAL_RESTORE_FACTORY restores factory trims and invalidates every calibration record. -/
  | calRestoreFactory (ring : Nat) (idx : Nat)
  /-- GO (R379): A write of GO to MGT_PATCH_CTL reads, verifies, logs and applies a harness patch. -/
  | go (path : Nat)
  /-- BOOT_COPY_TRY (R375): At cold start the device chooses and verifies an SPI NOR copy, falling back to the other on failure. -/
  | bootCopyTry
  /-- SPI_NOR_WRITE (R376): System software writes a region of the SPI NOR; the running copy is refused and the patch log erased first. -/
  | spiNorWrite (region : NorRegion) (words : List (BitVec 128))
  /-- RESET_N_ASSERT (R388): RESET_N asserted takes the device to Stall. -/
  | resetNAssert (ns : Nat)
  /-- RESET_N_RELEASE (R388): RESET_N released while PWROK is asserted starts Harnessing. -/
  | resetNRelease (ns : Nat)
  /-- PWROK_DEASSERT (R482): PWROK deasserted for 1 µs or more takes the device to Stall. -/
  | pwrokDeassert (ns : Nat)
  /-- PWROK_ASSERT (R388): PWROK asserted while RESET_N is released starts Harnessing. -/
  | pwrokAssert (ns : Nat)
  /-- HARNESSING_COMPLETE (R388): Images verified, channels trained and a ledger chosen; the device enters Recovery or Maintenance. -/
  | harnessingComplete
  /-- SERVICE_ENTRY (R388): Recovery completes and the device enters Service, releasing held requests and writing OPEN. -/
  | serviceEntry
  /-- AON_RESTART (R388): 10 ms after a device-scope reset request the device re-enters Harnessing. -/
  | aonRestart
  /-- DRAIN_TO_STALL (R391): A mode request starts Drain toward Stall. -/
  | drainToStall (path : Nat)
  /-- DRAIN_TO_MAINT (R391): A mode request starts Drain toward Maintenance. -/
  | drainToMaint (path : Nat)
  /-- LEAVE_MAINT (R388): A mode request moves the device from Maintenance to Recovery. -/
  | leaveMaint (path : Nat)
  /-- DRAIN_LIMIT (R391): DRAIN_LIMIT after Drain entry the serving phase ends and is logged. -/
  | drainLimit
  /-- DRAIN_CLEAN_POINT (R391): The final writeback, HOLD_DONE and NVMe Flush complete and the device enters Stall or Maintenance. -/
  | drainCleanPoint
  /-- GAIT_CHANGE (R399): A fall in tolerance or GAIT_MAX moves the device at once to a shallower gait and wakes groups. -/
  | gaitChange
  /-- GAIT_DEEPEN (R399): A deeper gait that has qualified for 1 ms is adopted. -/
  | gaitDeepen
  /-- GROUP_IDLE_EXPIRY (R400): A permitted group idle for GROUP_IDLE starts sleep entry with PREPARE. -/
  | groupIdleExpiry (grp : Nat)
  /-- PREPARE_ALL_AGREED (R403): Every domain agrees and the sequencer sends COMMIT. -/
  | prepareAllAgreed (grp : Nat)
  /-- REFUSE (R402): A domain refuses or withdraws, aborting the entry and starting the back-off. -/
  | refuse (dom : Nat) (reason : BitVec 4)
  /-- PREPARE_ANSWER_TIMEOUT (R402): A missing answer at 2 µs aborts the entry as a refusal. -/
  | prepareAnswerTimeout (dom : Nat)
  /-- BACKOFF_EXPIRY (R402): A group's sleep back-off expires and entry may be tried again. -/
  | backoffExpiry (grp : Nat)
  /-- FAST_TRIP (R422): A channel's fast comparator reaches I_TRIP and the gate is pulled down. -/
  | fastTrip (ch : Nat) (mA : Nat)
  /-- FAULT_TIMER_EXPIRY (R423): A channel's fault timer completes FAULT_TIME at the limit and the channel trips. -/
  | faultTimerExpiry (ch : Nat) (mA : Nat)
  /-- INRUSH_TIMEOUT (R420): A channel whose output has not reached 90% of the bus in time trips. -/
  | inrushTimeout (ch : Nat)
  /-- GATE_FULLY_ON (R419): A channel's gate reaches fully on; it moves to ON and may assert PG. -/
  | gateFullyOn (ch : Nat) (pgOk : Bool)
  /-- PRESENCE_ASSERTED (R427): A slot or bay presence input asserts and debounce starts. -/
  | presenceAsserted (ch : Nat)
  /-- PRESENCE_REMOVED (R427): Presence reads absent for a 1 ms window; the channel goes ABSENT and the loss is propagated. -/
  | presenceRemoved (ch : Nat)
  /-- INSERT_DEBOUNCE_COMPLETE (R427): Insertion debounce completes and the channel starts inrush or stays off. -/
  | insertDebounceComplete (ch : Nat)
  /-- COOLDOWN_ELAPSED (R424): A channel's COOLDOWN elapses and a retry starts. -/
  | cooldownElapsed (ch : Nat)
  /-- RETRY_COUNT_CLEAR (R424): After a full 60 s window holding PG without a trip RETRY_COUNT is cleared. -/
  | retryCountClear (ch : Nat)
  /-- PP_DAMAGED (R425): A gate that will not rise or an output present while off marks the channel DAMAGED. -/
  | ppDamaged (ch : Nat)
  /-- FEED_QUALIFIED (R428): A feed stays in range for FEED_QUAL_TIME and becomes qualified. -/
  | feedQualified (feed : Nat)
  /-- FEED_DISQUALIFIED (R428): A feed's under- or overvoltage, reverse current or trip disqualifies it and the other feed may take the bus. -/
  | feedDisqualified (feed : Nat) (why : BitVec 4)
  /-- FEED_RETURN_HOLD_EXPIRY (R429): The priority feed qualified for FEED_RETURN_HOLD takes the bus by a planned changeover. -/
  | feedReturnHoldExpiry
  /-- BREAK_TIME_EXPIRY (R430): The old feed's gate has been below 1 V for BREAK_TIME and the new feed's inrush starts. -/
  | breakTimeExpiry
  /-- ENERGY_FRAME (R432): Every 1 ms frame the PPD computes e_store and the average channel powers. -/
  | energyFrame (vStore : Nat) (busV : Nat) (samples : List ChanSample)
  /-- STORE_TEST_START (R433): Every STORE_TEST_PERIOD the PPD holds the feed off so HOLD carries the card. -/
  | storeTestStart
  /-- STORE_TEST (R433): At STORE_TEST_TIME the test ends, C_meas is computed and logged. -/
  | storeTest (v2 : Nat) (eOut : Nat)
  /-- PPD_LINK (R434): The PPD link fails; AON reports e_store 0 and raises a fatal event. -/
  | ppdLink
  /-- BAY_WARN_LEAD_EXPIRY (R435): BAY_WARN_LEAD after PWRWARN_N the bay rail is turned off. -/
  | bayWarnLeadExpiry (bay : Nat)
  /-- PERST_DELAY_EXPIRY (R435): PERST_DELAY after a bay asserts PG its PERST_N is released. -/
  | perstDelayExpiry (bay : Nat)
  /-- COMMANDED_OFF (R436): A channel OFF command turns the channel off or is refused. -/
  | commandedOff (path : Nat) (ch : Nat)
  /-- COMMANDED_ON (R436): A channel ON command starts inrush or qualification or is refused. -/
  | commandedOn (path : Nat) (ch : Nat)
  /-- LOG_ENTRY_ARRIVAL (R445): A log entry reaches the AON log writer, is stored or counted lost, and advances its events. -/
  | logEntryArrival (n : Nat)
  /-- LOG_RATE_WINDOW_START (R446): At each 1 ms window the per-block per-cause log entry limit resets. -/
  | logRateWindowStart
  /-- EXTENDED_LOG_COPY (R447): MGT0 copies a log entry into the extended log or counts it in EXT_LOST. -/
  | extendedLogCopy
  /-- AON_LOG_ACK (R445): A write of AON_LOG_ACK frees the named entry and all older ones. -/
  | aonLogAck (path : Nat) (value : BitVec 32)
  /-- EVENT_ACK (R450): A write of an event's ACK records the count seen and clears pending if equal. -/
  | eventAck (path : Nat) (event : Nat) (count : BitVec 48)
  /-- SAMPLER_THRESHOLD (R454): A sampler's count reaches THRESHOLD + 1, arms its block and restarts. -/
  | samplerThreshold (n : Nat)
  /-- SAMPLE_CAPTURE (R455): The first request completing after arming is captured and a sample record written. -/
  | sampleCapture (n : Nat) (op : BitVec 8) (line : Line) (node : Node) (tag : Tag) (cls : BitVec 8) (due : Option (BitVec 24))
  /-- SAMPLE_NO_REQUEST_TIMEOUT (R455): No request completes within 1 ms of arming and a record with NO_REQ is written. -/
  | sampleNoRequestTimeout (n : Nat)
  /-- SAMPLE_RING_CONSUME (R454): A write of MGT_SMP_RD frees consumed sample records. -/
  | sampleRingConsume (path : Nat) (value : BitVec 32)
  /-- FRAME_WIN_START (R457): At each FRAME_WIN window start the frame and bank correction tables are cleared. -/
  | frameWinStart
  /-- FRAME_RETIRED (R458): A frame's corrections reach FRAME_TH and the frame is retired automatically. -/
  | frameRetired (dfa : Nat)
  /-- BANK_SUSPECT (R459): A bank's corrections reach BANK_TH over 4 frames; it is logged and may be retired. -/
  | bankSuspect (bank : Nat)
  /-- PARITY_SWEEP (R466): The parity sweep visits a register and reloads it on a mismatch. -/
  | paritySweep (offset : BitVec 26) (mismatch : Bool)
  /-- WRITE32 (R462): An I3C WRITE32 command writes a 32-bit register with byte enables. -/
  | write32 (f : I3cFrame)
  /-- READ32 (R462): An I3C READ32 command reads a 32-bit register for the following private read. -/
  | read32 (f : I3cFrame)
  /-- WRITE64 (R462): An I3C WRITE64 command writes a designated 64-bit pair. -/
  | write64 (f : I3cFrame)
  /-- READ64 (R462): An I3C READ64 command reads a designated 64-bit pair. -/
  | read64 (f : I3cFrame)
  /-- I3C_PRIVATE_READ (R462): An I3C private read returns the status and data of the last command. -/
  | i3cPrivateRead
  /-- REGISTER_WRITE (R464): A write to a register without behaviour of its own stores enabled bytes after the shared checks. -/
  | registerWrite (path : Nat) (offset : BitVec 26) (be : BitVec 8) (data : BitVec 64) (wide : Bool)
  /-- INDIRECT_DATA_ACCESS (R468): An access to an indirect DATA register reaches the word at OFFSET and may advance it. -/
  | indirectDataAccess (path : Nat) (offset : BitVec 26) (write : Bool) (be : BitVec 4) (data : BitVec 32)
  /-- DEVICE_COLD (R471): A DEVICE_COLD reset request takes the device to Stall, restoring RWS fields. -/
  | deviceCold (path : Nat) (key : BitVec 8) (force : Bool) (inst : Nat)
  /-- DEVICE_WARM (R471): A DEVICE_WARM reset request takes the device to Stall, keeping RWS fields. -/
  | deviceWarm (path : Nat) (key : BitVec 8) (force : Bool) (inst : Nat)
  /-- AFL (R471): An AFL-scope reset returns the port to DETECT without LINK_OFF. -/
  | afl (path : Nat) (key : BitVec 8) (force : Bool) (inst : Nat)
  /-- PE (R471): A PE-scope reset hot-resets the root port. -/
  | pe (path : Nat) (key : BitVec 8) (force : Bool) (inst : Nat)
  /-- BAY (R471): A BAY-scope reset asserts the bay's PERST_N for PERST_DELAY. -/
  | bay (path : Nat) (key : BitVec 8) (force : Bool) (inst : Nat)
  /-- MGT (R471): An MGT-scope reset reloads a management complex's firmware. -/
  | mgt (path : Nat) (key : BitVec 8) (force : Bool) (inst : Nat)
  /-- PROGRAM_OWNER (R471): PROGRAM_OWNER programs an owner key slot from the OTP staging bytes. -/
  | programOwner (path : Nat) (key : BitVec 8) (slot : Nat)
  /-- REVOKE_OWNER (R471): REVOKE_OWNER revokes an owner key slot. -/
  | revokeOwner (path : Nat) (key : BitVec 8) (slot : Nat)
  /-- PROGRAM_BOARD (R471): PROGRAM_BOARD programs the blank board configuration OTP of the PPD. -/
  | programBoard (path : Nat) (key : BitVec 8) (slot : Nat)
  /-- OTP_PROGRAM_DONE (R471): OTP programming and read-back verification complete and RESULT is set. -/
  | otpProgramDone (readBackOk : Bool)
  /-- SVN_COMMIT_FW (R471): AON_SVN_COMMIT with FW raises the firmware SVN floor to the running image. -/
  | svnCommitFw (path : Nat) (key : BitVec 8)
  /-- SVN_COMMIT_HARNESS (R471): AON_SVN_COMMIT with HARNESS raises the harness SVN floor to the running image. -/
  | svnCommitHarness (path : Nat) (key : BitVec 8)
  /-- DISABLE (R474): Writing AFLn_CTL.DISABLE = 1 sends LINK_OFF and holds the port in OFF. -/
  | disable (path : Nat) (port : Nat)
  /-- DISABLE_CLEAR (R474): Writing AFLn_CTL.DISABLE = 0 returns the port to DETECT when enabled. -/
  | disableClear (path : Nat) (port : Nat)
  /-- DIE_HOT (R493): A thermal sensor reaches 105 °C and the excursion is logged once. -/
  | dieHot (sensor : Nat) (temp : Nat)
  /-- THERMTRIP (R493): A sensor reaches 120 °C; AON forces a device reset and lowers the rail enables. -/
  | thermtrip (sensor : Nat) (temp : Nat)
  /-- THERMTRIP_RECOVERY (R493): AON's sensor below 95 °C for 10 s raises the rail enables again. -/
  | thermtripRecovery (temp : Nat)
  /-- XTAL_FAIL (R484): A stopped crystal is detected; AON switches to its internal or the PPD oscillator and logs it. -/
  | xtalFail (slow : Bool)
  /-- REFCLK_LOSS (R484): Loss of an AFL or PCIe reference clock takes down the links of that die or port. -/
  | refclkLoss (pcie : Bool) (inst : Nat)
  /-- DRAM_COMMAND_SLOT (R139): In each command slot of a subchannel the channel controller issues the first eligible command in the order of R139, applying row policy, hit caps and idle closes. -/
  | dramCommandSlot (ch : Nat) (sub : Bool)
  /-- PCIE_PEER_ACCESS (R127): A PCIe peer read or write into the device's memory window arrives at PE0 or PE1 and is served or refused with Completer Abort. -/
  | pciePeerAccess (peNo : Nat) (reqId : BitVec 16) (addr : BitVec 64) (write : Bool) (mask : BitVec 64) (data : BitVec 512)
  /-- DEBUG_ACCESS (R126): A debug access port read or write of DRAM by frame address is performed or refused and logged. -/
  | debugAccess (addr : LineAddr) (write : Bool) (data : BitVec 640)
  /-- LINK_IDLE_ENTRY (R283): A port with no packet to send and every PAYLOAD flit acknowledged sends LP_REQ for the deepest state the gait permits. -/
  | linkIdleEntry (port : Nat)
  /-- DYNAMIC_ADDRESS_ASSIGNMENT (R461): The I3C controller assigns the target a dynamic address with SETDASA or ENTDAA. -/
  | dynamicAddressAssignment (addr : BitVec 7)
  /-- PPD_POWER_ON (R415): A PPD supply input rises, the PPD leaves reset, takes present slots and bays as present and begins qualifying feeds. -/
  | ppdPowerOn (slots : BitVec 32) (bays : BitVec 16)
  /-- AON_SUPPLY_LOSS (R415): All PPD inputs fall below 8.0 V, the AON supply is lost and the tide counter, log, events, HOME_EPOCH, key slots and AON SRAM state are cleared. -/
  | aonSupplyLoss
  deriving DecidableEq, Repr

end Sys2Proof
end

