-- ==== Sys2Proof/Decode.lean ====
section
/-! DEFINITION. The table words of spec/opcode_table.json. No row of that table gives bits: a command is known by its
row, not by a word, so no word spells a command (log entry 6). -/

namespace Sys2Proof

/-- The command that a table word spells: none, since no row of the table gives bits. -/
def decodeTableWord (_nbits _w : Nat) : Option Instr := none

end Sys2Proof
end

