-- ==== Sys2Proof/Config.lean ====
section
/-! DEFINITION. What the spec leaves open: free values and the published algorithms that it names
without giving them. No constant here has a body, so no proof can see a value of it. -/

namespace Sys2Proof

/-- A value that the device draws at random or that the spec does not state (R110, R197, R258): draw
number `k` of a `w`-bit value. Log entry 5. -/
opaque Config.freeValue : (w : Nat) → Nat → BitVec w

/-- SHA-384 of an image, taken over its 16-byte words (R372, R377). Log entry 8. -/
opaque Config.sha384 : List (BitVec 128) → BitVec 384

/-- SHA-384 of a byte string, for the digests of public keys (R371). Log entry 8. -/
opaque Config.sha384Bytes : List Byte → BitVec 384

/-- ECDSA P-384 under FIPS 186-5: public key bytes, digest, signature bytes (R372 step 4). Log entry 8. -/
opaque Config.ecdsaValid : List Byte → BitVec 384 → List Byte → Bool

/-- HSS under SP 800-208: public key bytes, digest, signature bytes (R372 step 5). Log entry 8. -/
opaque Config.hssValid : List Byte → BitVec 384 → List Byte → Bool

/-- The key derivation of R94, R98: input key, label words, output (KWK, working keys). Log entry 8. -/
opaque Config.derive : BitVec 256 → List (BitVec 128) → BitVec 256

/-- The operating point of VDD_CORE, worked out from the fused voltage identifier and the hottest die temperature; the spec gives the
range only (R479). Log entry 8. -/
opaque Config.avsPoint : BitVec 8 → Nat → Nat

/-- The answer to an SPDM 1.3 message (R315): the response bytes to the request bytes. What went before in the session stands behind
the first argument, a draw number. Log entry 8. -/
opaque Config.spdmAnswer : Nat → List Byte → List Byte

/-- The key transport slot that a vendor-defined request in a secure session fills, and its key; none for any other message (R95). Log
entry 8. -/
opaque Config.spdmKtk : Nat → List Byte → Option (BitVec 4 × BitVec 256)

/-- What a port's receiver asks of a lane in training and finds there (R256, R257): EQ_REQ in bits 5 to 0, the preset asked in bits 8
to 6, and whether the error ratio allows EQ_DONE in bit 9; of port, lane and tide value. Log entry 72. -/
opaque Config.rxAdapt : Nat → Nat → BitVec 64 → BitVec 10

/-- The SESSION that a port draws for a new link-layer state, of the port and of a number that no two of its states share (R258). Log entry
72. -/
opaque Config.linkSession : Nat → Nat → BitVec 16

end Sys2Proof
end

