-- ==== Sys2Proof/Machine/State.lean ====
section
/-! DEFINITION. The state of the GNC-4816: every register, memory, queue, counter, mode and pin the spec gives
it, as plain data, and the queue of waiting commands. INVENTORY.md lists every field with its rule and reset value. -/

namespace Sys2Proof.Machine

/-- The operating modes of Table 14.1, in the order of their codes 0 to 7. -/
inductive Mode where
  | stall | harnessing | service | drain | holdup | watch | recovery | maintenance
  deriving DecidableEq, Repr, Inhabited

/-- The snoops of Table 6.3. -/
inductive SnoopKind where
  | inv | share | fwd
  deriving DecidableEq, Repr, Inhabited

/-- The kinds of holder of Table 6.5: a sharer named by a pointer, a member of the domain of a Broadcast entry,
a member under an ANY entry, the owner, the F holder. -/
inductive Holder where
  | sharer | member | any | owner | furnisher
  deriving DecidableEq, Repr, Inhabited

/-- What a transaction in a home bank's request buffer waits for (R173 to R177): snoop responses, the snoop
responses of a recall, the data of its line, the FROM_WB notice, the requester's CMP_ACK. -/
inductive Phase where
  | snoop | recall | data | notice | ack
  deriving DecidableEq, Repr, Inhabited

/-- The cache states of Table 6.1. -/
inductive CState where
  | m | e | s | f | i
  deriving DecidableEq, Repr, Inhabited

/-- The tier operations of R47, and the rewrite of a berth (R104, R106). -/
inductive OpKind where
  | fault | promotion | demotion | compaction | relocation | rekey
  deriving DecidableEq, Repr, Inhabited

/-- The link training states of Table 9.4, in the order of their codes 0 to 6. -/
inductive LinkSt where
  | off | detect | poll | config | eq | active | retrain
  deriving DecidableEq, Repr, Inhabited

/-- A switchable domain (R330, R401): awake, agreed to a PREPARE, draining toward power-off, asleep, waking. -/
inductive DomSt where
  | awake | prepared | entering | asleep | waking
  deriving DecidableEq, Repr, Inhabited

/-- A power group (R400 to R403): awake, PREPARE sent, COMMIT sent, asleep. -/
inductive GrpSt where
  | awake | prepare | commit | asleep
  deriving DecidableEq, Repr, Inhabited

/-- The channel states of Table 15.8, in the order of their codes 0 to 8. -/
inductive PSt where
  | off | absent | debounce | standby | inrush | on | cooldown | latched | damaged
  deriving DecidableEq, Repr, Inhabited

/-- A packet as it stands in the slots of flits: its header slot and its continuation slots (R269, R295). -/
structure Pkt where
  /-- The header slot (Tables 10.2, 10.3, 10.6). -/
  hdr : BitVec 128 := 0
  /-- The continuation slots (Table 10.4). -/
  body : List (BitVec 128) := []
  deriving DecidableEq, Repr, Inhabited

/-- One OTP key slot of R371. -/
structure KeySlot where
  /-- R371: log entry 2: slot blank. -/
  programmed : Bool := false
  /-- R371: log entry 2: not revoked. -/
  revoked : Bool := false
  /-- R371: log entry 2: digest of the ECDSA public key. -/
  ecdsa : BitVec 384 := 0
  /-- R371: log entry 2: digest of the HSS public key. -/
  hss : BitVec 384 := 0
  deriving DecidableEq, Repr, Inhabited

/-- The fuses and OTP of the package (R7, R371, R416, R470). -/
structure Fuses where
  /-- R5, R7: log entry 1: false is the -F variant, true the -H variant. -/
  variantH : Bool := false
  /-- R470: 0x0, the first stepping (Table 17.7 gives HW). -/
  stepping : BitVec 4 := 0
  /-- R470: log entry 2: HW, the device serial number. -/
  serial : BitVec 64 := 0
  /-- R94: log entry 2: the device secret the KWK is derived from. -/
  devSecret : BitVec 256 := 0
  /-- R479: log entry 2: fused voltage identifier. -/
  vid : BitVec 8 := 0
  /-- R371: log entry 2: 4 vendor key slots, blank. -/
  vendorSlot : SMap KeySlot := []
  /-- R371: log entry 2: 4 owner key slots, blank. -/
  ownerSlot : SMap KeySlot := []
  /-- R371: log entry 2: firmware SVN floor, 0 to 64 fuses. -/
  svnFw : Nat := 0
  /-- R371: log entry 2: harness SVN floor, 0 to 64 fuses. -/
  svnHarness : Nat := 0
  /-- R416: log entry 2: board configuration OTP blank. -/
  boardProg : Bool := false
  /-- R416: log entry 2: board OTP words by PPD indirect offset. -/
  board : SMap (BitVec 32) := []
  /-- R161: log entry 2: factory PHY trims by channel. -/
  factoryTrim : SMap (BitVec 64) := []
  deriving DecidableEq, Repr, Inhabited

/-- The save area of one channel in AON SRAM (R158). -/
structure ChSave where
  /-- R158: nothing saved. -/
  valid : Bool := false
  /-- R158: device marks saved (absent: no mark, 0xF). -/
  marks : SMap (BitVec 4) := []
  /-- R158: scrubber position saved. -/
  scrubPos : Nat := 0
  /-- R158: refresh phase saved. -/
  refPhase : SMap Nat := []
  /-- R158: calibration values saved. -/
  phy : SMap (BitVec 32) := []
  deriving DecidableEq, Repr, Inhabited

/-- The always-on island: modes, gaits, persistence status and the other registers of Table 17.6. -/
structure Aon where
  /-- R387, R393: Table 14.4 resets MODE to 0b000. -/
  mode : Mode := .stall
  /-- R393: Table 14.4 resets PREV_MODE to 0b000. -/
  prevMode : Mode := .stall
  /-- R393: Table 14.4 resets CAUSE to 0x01. -/
  modeCause : BitVec 8 := 0x01
  /-- R393: Table 14.4 resets GAIT to 0b00. -/
  gait : BitVec 2 := 0
  /-- R393: Table 14.3 resets GAIT_MAX to 0b11. -/
  gaitMax : BitVec 2 := 3
  /-- R393: Table 14.3 resets MAINT_NEXT to 0. -/
  maintNext : Bool := false
  /-- R393: Table 14.4 resets TOL_SRC to 0b111. -/
  tolSrc : BitVec 3 := 7
  /-- R391: log entry 2: target of the Drain in progress. -/
  drainToMaint : Bool := false
  /-- R391: log entry 2: Drain is past its serving phase. -/
  drainClosing : Bool := false
  /-- R411: Table 14.11: WATCH_PERIOD 0x00A, DRAIN_LIMIT 0x0A, GROUP_IDLE 0x4, BACKOFF_BASE 0. -/
  pwrCfg : BitVec 32 := 0x028A4000
  /-- R470: Table 17.7 resets UNCLEAN to 0. -/
  unclean : Bool := false
  /-- R470: Table 17.7 resets RELEASED to 0. -/
  released : Bool := false
  /-- R470: Table 17.7 resets CASE to 0b00. -/
  rcase : BitVec 2 := 0
  /-- R470: Table 17.7 resets RESTORING to 0. -/
  restoring : Bool := false
  /-- R470: Table 17.7 resets TIME to 0. -/
  resumeMs : BitVec 20 := 0
  /-- R8, R10: log entry 2: tide value at which time to service starts. -/
  returnTide : BitVec 64 := 0
  /-- R459: Table 16.11: AUTO_RETIRE 1, AUTO_BANK 0, BANK_TH 0x040, FRAME_WIN 0x18, FRAME_TH 0x08. -/
  ceCfg : BitVec 32 := 0x84018080
  /-- R190: Table 7.1 resets CHANGE_COUNT to 0. -/
  changeCount : BitVec 16 := 0
  /-- R190: Table 7.1 bits [7:0]: NO_SEGTABLE 1, SSD_NOT_READY 1, CEILING_ZERO 1, NOT_SERVICE 1. -/
  paBits : BitVec 8 := 0xA6
  /-- R191: Table 7.2 resets CEIL_PAGES to 0. -/
  ceilPages : BitVec 32 := 0
  /-- R191: Table 7.2 resets DIRTY_PAGES to 0. -/
  dirtyPages : BitVec 32 := 0
  /-- R388: log entry 3: RESET_N is low (asserted) right after reset. -/
  resetLow : Bool := true
  /-- R388: log entry 3: PWROK is not yet asserted. -/
  pwrok : Bool := false
  /-- R388: log entry 2: a device-scope reset waits for its 10 ms restart (0x12). -/
  restart : Bool := false
  /-- R224: log entry 2: DRAM holds its contents (in self-refresh or in use). -/
  dramRetained : Bool := false
  /-- R230, R388: log entry 2: a write has been accepted since the last start. -/
  writeAccepted : Bool := false
  /-- R493: log entry 2: a DIE_HOT excursion stands. -/
  dieHot : Bool := false
  /-- R493: log entry 2: last reading of each thermal sensor, in degrees C; none reads 0. -/
  sensors : SMap Nat := []
  /-- R493: log entry 2: THERMTRIP holds the rails down. -/
  thermTrip : Bool := false
  /-- R471: Table 17.8 resets RESULT to 0. -/
  otpResult : BitVec 4 := 0
  /-- R471: Table 17.8 resets BUSY to 0. -/
  otpBusy : Bool := false
  /-- R471: log entry 2: operation being programmed. -/
  otpOp : BitVec 4 := 0
  /-- R471: log entry 2: slot being programmed. -/
  otpSlot : BitVec 2 := 0
  /-- R468: log entry 2: OTP staging words (4 KiB). -/
  staging : SMap (BitVec 32) := []
  /-- R468: Table 17.4 resets INC and OFFSET to 0: AON_XIDX, one copy per path. -/
  xidx : SMap (BitVec 32) := []
  /-- R468: Table 17.4: PPD_IDX, one copy per path. -/
  ppdIdx : SMap (BitVec 32) := []
  /-- R461: no dynamic address assigned; the static address 0x4C stands. -/
  i3cAddr : Option (BitVec 7) := none
  /-- R462: log entry 2: status of the last I3C command. -/
  i3cStatus : BitVec 8 := 0
  /-- R462: log entry 2: response data bytes waiting for the private read. -/
  i3cData : List Byte := []
  /-- R461: log entry 2: in Watch, the 4 MHz oscillator was started by an address. -/
  i3cWatch : Bool := false
  /-- R382: Table 13.12 resets PATCH_SEQ to 0. -/
  patchSeq : BitVec 8 := 0
  /-- R382: Table 13.12 resets FMT_MAJOR to 0. -/
  fmtMajor : BitVec 4 := 0
  /-- R382: Table 13.12 resets FMT_MINOR to 0. -/
  fmtMinor : BitVec 4 := 0
  /-- R382: Table 13.12 resets LOG_BROKEN to 0. -/
  logBroken : Bool := false
  /-- R382: Table 13.12 resets FALLBACK to 0. -/
  fallback : Bool := false
  /-- R382: Table 13.12 resets TRIAL to 0. -/
  trial : Bool := false
  /-- R382: Table 13.12 resets COPY to 0. -/
  copyB : Bool := false
  /-- R382: Table 13.12 resets LOADED to 0. -/
  loaded : Bool := false
  /-- R372: log entry 2: digest of the running firmware image. -/
  fwDigest : BitVec 384 := 0
  /-- R372: log entry 2: digest of the running harness image. -/
  hzDigest : BitVec 384 := 0
  /-- R377: log entry 2: effective digest. -/
  effDigest : BitVec 384 := 0
  /-- R471: log entry 2: SVN of the running firmware image. -/
  fwSvn : BitVec 32 := 0
  /-- R471: log entry 2: SVN of the running harness image. -/
  hzSvn : BitVec 32 := 0
  /-- R471: the owner slot that verified the running harness. -/
  hzOwner : Option (BitVec 2) := none
  /-- R479: R479: 0.75 V until the first command. -/
  vddMv : Nat := 750
  /-- R479: log entry 2: operating point worked out in Harnessing, mV; 0 before. -/
  vddPoint : Nat := 0
  /-- R286: set to 0 when the AON supply is applied. -/
  homeEpoch : BitVec 8 := 0
  /-- R126: the model's own field: the line, data and check bits, that the last read through the debug access port returned. -/
  dbgData : BitVec 640 := 0
  deriving DecidableEq, Repr, Inhabited

/-- The tide counter and its calibration (R407, R408). -/
structure AonTime where
  /-- R394, R407: starts at 0 after a loss of the AON supply. -/
  tide : BitVec 64 := 0
  /-- R408: Table 14.9 resets STOPPED to 0. -/
  stopped : Bool := false
  /-- R408: Table 14.10. -/
  slowPeriod : BitVec 32 := 0x01DCD650
  /-- R408: Table 14.9 resets CAL_VALID to 0. -/
  calValid : Bool := false
  /-- R408: Table 14.9 resets LAST_BOUND to 0. -/
  lastBound : BitVec 32 := 0
  /-- R408: Table 14.9 resets CUM_BOUND to 0; kept in ns, read in µs rounded up and saturating. -/
  cumNs : Nat := 0
  /-- R484: log entry 2: the 32.768 kHz crystal has stopped. -/
  slowFail : Bool := false
  /-- R484: log entry 2: the 25 MHz crystal has stopped. -/
  fastFail : Bool := false
  /-- R456: log entry 2: one residency counter per mode. -/
  modeTicks : SMap (BitVec 64) := []
  /-- R456: log entry 2: one residency counter per gait. -/
  gaitTicks : SMap (BitVec 64) := []
  /-- R410: log entry 2: the AON Watch residency counter. -/
  watchTicks : BitVec 64 := 0
  deriving DecidableEq, Repr, Inhabited

/-- The error log of AON (R445 to R447). -/
structure AonLog where
  /-- R444, R445: an empty slot reads as all zero: 512 slots. -/
  slots : SMap (BitVec 512) := []
  /-- R445: Table 16.4 resets HEAD to 0. -/
  head : Nat := 0
  /-- R445: Table 16.4 resets COUNT to 0. -/
  count : Nat := 0
  /-- R445: log entry 2: SEQ of the next entry. -/
  seq : BitVec 24 := 0
  /-- R445: Table 16.5 resets LOST to 0. -/
  lost : BitVec 16 := 0
  /-- R447: Table 16.5 resets EXT_LOST to 0. -/
  extLost : BitVec 16 := 0
  /-- R445: log entry 2: the log writer's rotating pointer. -/
  ptr : Nat := 0
  /-- R445: entries on their way to the log writer. -/
  inbox : List (BitVec 512) := []
  /-- R446: entries written in this 1 ms window, by source and cause. -/
  rate : SMap Nat := []
  deriving DecidableEq, Repr, Inhabited

/-- The event counters and acknowledgements (R448 to R452). -/
structure AonEvents where
  /-- R449, R450: Table 16.7 resets COUNT to 0. -/
  count : SMap (BitVec 48) := []
  /-- R450: Table 16.7 resets ACK to 0. -/
  ack : SMap (BitVec 48) := []
  /-- R450, R451: none: ALERT (bit 1) and NOTIFY (bit 0) at their HW reset of R451. -/
  ctl : SMap (Option (BitVec 2)) := []
  /-- R313: count carried by the last EVENT_MSG, by event and port. -/
  sentCount : SMap (BitVec 48) := []
  /-- R313: an EVENT_MSG went out in this 1 ms window, by event and port. -/
  sentWin : SMap Bool := []
  /-- R451: AON slot of the newest stored entry of a cause. -/
  lastSlot : SMap (Option (BitVec 9)) := []
  /-- R451: class of the newest entry of a cause. -/
  lastClass : SMap (BitVec 2) := []
  /-- R449: base-domain counters saved at step 5 of Table 7.10. -/
  saved : SMap (BitVec 48) := []
  deriving DecidableEq, Repr, Inhabited

/-- Keys and tree state in AON SRAM (R94, R95, R107, R110, R111). -/
structure AonSec where
  /-- R94: not yet derived. -/
  kwk : Option (BitVec 256) := none
  /-- R95: 16 KTK slots, cleared by a cold reset. -/
  ktk : SMap (Option (BitVec 256)) := []
  /-- R110: log entry 2: drawn at tree creation. -/
  kTree : BitVec 256 := 0
  /-- R110: log entry 2: drawn at tree creation. -/
  hTree : BitVec 64 := 0
  /-- R110: log entry 2: drawn at tree creation. -/
  treeNonce : BitVec 64 := 0
  /-- R110: log entry 2: tide value at tree creation. -/
  treeBirth : BitVec 64 := 0
  /-- R107, R110: 8 root entries, zero at tree creation. -/
  root : SMap (BitVec 64) := []
  /-- R111: 4 root entries of the key table's tree. -/
  ktRoot : SMap (BitVec 64) := []
  /-- R404: descriptor valid-map summary saved at step 5 of Table 7.10. -/
  valid : SMap Bool := []
  /-- R158: channel save areas. -/
  chSave : SMap ChSave := []
  deriving DecidableEq, Repr, Inhabited

/-- The freeze dump (R335). -/
structure Freeze where
  /-- R335: Table 11.6. -/
  routersDone : BitVec 8 := 0
  /-- R335: Table 11.6. -/
  ignored : BitVec 8 := 0
  /-- R335: Table 11.6 resets FREEZE_ON_FATAL to 1. -/
  onFatal : Bool := true
  /-- R335: Table 11.6. -/
  held : Bool := false
  /-- R335: log entry 2: the freeze area, ring entry k of router r at 64r + k. -/
  area : SMap (BitVec 256) := []
  deriving DecidableEq, Repr, Inhabited

/-- The output pins and their levels (R435, R452, R480, R485). -/
structure Pins where
  /-- R435: released while the PPD is unpowered (bit set: asserted). -/
  pwrwarn : BitVec 16 := 0
  /-- R394, R435: log entry 3: bay reset outputs held asserted until released (bit set: asserted). -/
  perst : BitVec 16 := 0xFFFF
  /-- R435: low while the PPD is unpowered. -/
  feedPg : Bool := false
  /-- R435: low while the PPD is unpowered. -/
  holdPg : Bool := false
  /-- R452: released while AON is unpowered. -/
  alert : Bool := false
  /-- R435, R480: low while the PPD is unpowered: [0] IO [1] CORE [2] SRAM [3] SERDES [4] SERDESA [5] DDRQ. -/
  railEn : BitVec 6 := 0
  /-- R485: log entry 2: DCHn_DRST_N asserted, by channel. -/
  drst : SMap Bool := []
  deriving DecidableEq, Repr, Inhabited

/-- A line in the Quay data partition (R24, R29). -/
structure QLine where
  /-- R28: bytes held. -/
  data : BitVec 512 := 0
  /-- R29: byte-valid mask. -/
  mask : BitVec 64 := 0
  /-- R31: held modified. -/
  dirty : Bool := false
  /-- R30: held as poisoned. -/
  poison : Bool := false
  /-- R243: class tag. -/
  cls : BitVec 8 := 0
  /-- R30: requester of the newest partial write. -/
  node : BitVec 17 := 0
  /-- R30: tag of the newest partial write. -/
  tag : BitVec 14 := 0
  /-- R243: use order, for the least recently used victim. -/
  stamp : Nat := 0
  deriving DecidableEq, Repr, Inhabited

/-- A snoop the home waits for (R177). -/
structure SnoopOut where
  /-- R177: node snooped. -/
  node : BitVec 17 := 0
  /-- R300: tag in the device's space toward the node. -/
  tag : BitVec 14 := 0
  /-- R172: which snoop was sent. -/
  kind : SnoopKind := .inv
  /-- R177: kind of holder snooped. -/
  holder : Holder := .sharer
  deriving DecidableEq, Repr, Inhabited

/-- A request waiting in a queue the reins order (R241). -/
structure Waiter where
  /-- R241: the request. -/
  req : Req := default
  /-- R231: DUE. -/
  due : Option Nat := none
  /-- R242: has waited AGE_LIMIT. -/
  aged : Bool := false
  /-- R232: ranks as overdue. -/
  overdue : Bool := false
  /-- R241: arrival order. -/
  stamp : Nat := 0
  /-- R36: the demand fault that it waited on has failed. -/
  lost : Bool := false
  deriving DecidableEq, Repr, Inhabited

/-- A request in a home bank's request buffer (R173). -/
structure Txn where
  /-- R173: the request. -/
  req : Req := default
  /-- R173: DLA line address. -/
  line : Nat := 0
  /-- R231: DUE in ticks; none is NONE. -/
  due : Option Nat := none
  /-- R177: snoops not yet answered. -/
  snoops : List SnoopOut := []
  /-- R177: nodes that reported they keep S. -/
  kept : List (BitVec 17) := []
  /-- R177: nodes whose FROM_WB notice is awaited. -/
  wbWait : List (BitVec 17) := []
  /-- R174: what the transaction waits for. -/
  phase : Phase := .snoop
  /-- R177: an F holder has served the requester. -/
  fwdDone : Bool := false
  /-- R177: the node sent SNP_FWD_S. -/
  fwdBy : Option (BitVec 17) := none
  /-- R176: directory entry found when the request started. -/
  entry : BitVec 128 := 0
  /-- R171: directory entry under recall. -/
  victim : Option (BitVec 128) := none
  /-- R177: 1: the F holder reported no copy, 2: it reported S. -/
  fLost : Nat := 0
  /-- R506: ORPHANED reason code, 0 none. -/
  orphan : Nat := 0
  /-- R184: former owner, for the log. -/
  owner : BitVec 17 := 0
  /-- R82, R86: granule address of the run whose decode is in flight. -/
  run : Option Nat := none
  /-- R87: tile that decodes it. -/
  tile : Nat := 0
  /-- R232: overdue. -/
  overdue : Bool := false
  /-- R154: a granule that the decode needs came back uncorrectable once and is read again. -/
  again : Bool := false
  /-- R86: what the decode in flight yields from the granules that it started on. -/
  early : Option (BitVec 512 × Bool) := none
  /-- R59: the access has been counted in HOTNESS. -/
  touched : Bool := false
  /-- R171: it has taken a Free entry of its line's directory set, not yet written. -/
  takes : Bool := false
  deriving DecidableEq, Repr, Inhabited

/-- A speculative response whose verdict is out (R117). -/
structure Spec where
  /-- R117: requester. -/
  node : BitVec 17 := 0
  /-- R117: tag. -/
  tag : BitVec 14 := 0
  /-- R117: DLA line. -/
  line : Nat := 0
  /-- R117: port of the requester. -/
  port : BitVec 2 := 0
  /-- R117: the verdict found: Valid. -/
  good : Bool := true
  /-- R117: the tag test has completed. -/
  done : Bool := false
  /-- R117: its response has been placed in a flit. -/
  sent : Bool := false
  /-- R117: PAYLOAD flits sent since. -/
  flits : Nat := 0
  /-- R234: class of the request. -/
  cls : BitVec 8 := 0
  deriving DecidableEq, Repr, Inhabited

/-- A line of another home in the holding partition (R163, R179). -/
structure RLine where
  /-- R164: cache state. -/
  st : CState := .i
  /-- R179: in the writeback buffer. -/
  wb : Bool := false
  /-- R179: its writeback entry has answered a snoop. -/
  answered : Bool := false
  /-- R164: data. -/
  data : BitVec 512 := 0
  /-- R302: held as poisoned. -/
  poison : Bool := false
  deriving DecidableEq, Repr, Inhabited

/-- A request the device has outstanding over AFL (R310). -/
structure DevReq where
  /-- R300: home node. -/
  dst : BitVec 17 := 0
  /-- R300: tag. -/
  tag : BitVec 14 := 0
  /-- R295: opcode. -/
  op : BitVec 8 := 0
  /-- R300: line address at that home. -/
  line : Nat := 0
  /-- R302: store data to lay down on the grant. -/
  data : BitVec 512 := 0
  /-- R308: status once completed. -/
  status : Option (BitVec 4) := none
  /-- R117, R178: PAYLOAD flits still to come before its speculative data count as valid. -/
  spec : Nat := 0
  /-- R117, R178: opcode and data of a speculative response that do not count as valid yet. -/
  held : Option (BitVec 8 × BitVec 512) := none
  deriving DecidableEq, Repr, Inhabited

/-- An expanded key context of the Quay key partition (R98). -/
structure KeyCtx where
  /-- R98: key ID. -/
  keyId : BitVec 20 := 0
  /-- R98: working key. -/
  kwork : BitVec 256 := 0
  /-- R98: hash key. -/
  h : BitVec 64 := 0
  /-- R98: STATE of the key. -/
  st : BitVec 3 := 0
  deriving DecidableEq, Repr, Inhabited

/-- The completion of a PCIe peer read (R127). -/
structure PeerAns where
  /-- R127: false: Completer Abort, or the read failed. -/
  ok : Bool := false
  /-- R127: Completer Abort: the page is not open to peers. -/
  abort : Bool := false
  /-- R127: data returned. -/
  data : BitVec 512 := 0
  deriving DecidableEq, Repr, Inhabited

/-- The Quay cache banks: data, directory, request buffers, counters and key contexts (R24). -/
structure Quay where
  /-- R24: data partition by DLA line, empty. -/
  lines : SMap (Option QLine) := []
  /-- R167, R168, R170: directory sets by bank and set, cleared at every cold start. -/
  dir : SMap (BitVec 512) := []
  /-- R171: log entry 2: rotating victim pointer per bank. -/
  dirVictim : SMap Nat := []
  /-- R173: request buffers, empty. -/
  txns : List Txn := []
  /-- R173: busy queues, empty. -/
  busy : List Waiter := []
  /-- R174: eviction notices waiting for a busy line. -/
  notices : List Req := []
  /-- R305: parked notices. -/
  parked : List Req := []
  /-- R174: log entry 2: ingress pointer per bank. -/
  ingress : SMap Nat := []
  /-- R243: the model's own field: use order of data lines. -/
  useStamp : Nat := 0
  /-- R117: speculative responses waiting for a verdict. -/
  specs : List Spec := []
  /-- R29: lines whose merge read is out. -/
  merges : List Nat := []
  /-- R98: 256 sets of 16 expanded contexts, empty. -/
  keyCtx : SMap (Option KeyCtx) := []
  /-- R98: log entry 2: rotating pointer per set. -/
  keyPtr : SMap Nat := []
  /-- R103, R107: counter blocks and nodes by level and index, zero. -/
  ctr : SMap (BitVec 512) := []
  /-- R109: dirty counter nodes. -/
  ctrDirty : List Nat := []
  /-- R42, R44: descriptors by page, all zero in a fresh frame. -/
  desc : SMap (BitVec 128) := []
  /-- R163: lines of other homes, by home and line. -/
  remote : SMap RLine := []
  /-- R310: requests the device has outstanding. -/
  devReqs : List DevReq := []
  /-- R292: tags in TAG_QUIET. -/
  quiet : List (BitVec 17 × BitVec 14) := []
  /-- R300: log entry 2: next tag of the device's snoops. -/
  snpTag : BitVec 14 := 0
  /-- R313: POWER_WARN messages received from peers. -/
  peerWarn : Nat := 0
  /-- R170: directory valid map: a 4 KiB directory frame, by bank and frame, has been written; cleared with the directory. -/
  dirValid : SMap Bool := []
  /-- R24, R59: pages whose descriptors the descriptor partition holds, oldest first; empty. -/
  descIn : List Nat := []
  /-- R24, R167: directory sets that the directory partition holds, oldest first; empty. -/
  dirIn : List Nat := []
  /-- R243: lines and classes of read fills that wait for room in the data partition. -/
  fills : List (Nat × BitVec 8) := []
  /-- R305: notices beyond NOTICE_MAX that stay in their port's receive buffer. -/
  parkWait : List Req := []
  /-- R127: the model's own field: what the last read of a PCIe peer at each root port was answered with. -/
  peerAns : SMap (Option PeerAns) := []
  deriving DecidableEq, Repr, Inhabited

/-- A request in a channel's queue (R137). -/
structure DramReq where
  /-- R132: DRAM line address. -/
  addr : Nat := 0
  /-- R133: row. -/
  row : Nat := 0
  /-- R133: bank code as in LOC bits [14:4]. -/
  bank : Nat := 0
  /-- R133: subchannel. -/
  sub : Bool := false
  /-- R136: page hint. -/
  hint : BitVec 2 := 0
  /-- R231: DUE in ticks. -/
  due : Option Nat := none
  /-- R241: regulation class. -/
  cls : BitVec 8 := 0
  /-- R242: has waited AGE_LIMIT. -/
  aged : Bool := false
  /-- R138: a corrective rewrite. -/
  corrective : Bool := false
  /-- R138: the stored form a write carries. -/
  data : BitVec 640 := 0
  /-- R232: ranks as overdue. -/
  overdue : Bool := false
  deriving DecidableEq, Repr, Inhabited

/-- The open row of a bank (R136). -/
structure OpenRow where
  /-- R136: row. -/
  row : Nat := 0
  /-- R136: hint of the last access. -/
  hint : BitVec 2 := 0
  /-- R139: hits since it opened. -/
  hits : Nat := 0
  /-- R136: tide value of the last access. -/
  last : BitVec 64 := 0
  deriving DecidableEq, Repr, Inhabited

/-- A DDR5 channel controller (R128 to R162, R473). -/
structure Channel where
  /-- R140: Table 5.5. -/
  wdrain : BitVec 32 := 0x00103002
  /-- R140: log entry 2: drain was entered opportunistically. -/
  drainOpp : Bool := false
  /-- R473: THROTTLE 0x0. -/
  throttle : BitVec 4 := 0
  /-- R473: OFFLINE_WHY 0b000. -/
  offlineWhy : BitVec 3 := 0
  /-- R473: OFFLINE 0. -/
  offline : Bool := false
  /-- R473: SELF_REFRESH 0. -/
  selfRefresh : Bool := false
  /-- R473: TRAINED 0. -/
  trained : Bool := false
  /-- R473: CAL_RESTORED 0. -/
  calRestored : Bool := false
  /-- R128, R131: log entry 2: what the SPD hubs said at the last Harnessing, no DIMM. -/
  pop : Population := {}
  /-- R473: RATE 0x0000. -/
  rate : BitVec 16 := 0
  /-- R150, R473: log entry 2: DEV_MARK fields, no mark (0xF) in each. -/
  marks : SMap (BitVec 4) := []
  /-- R134: Table 5.4 resets ROW_MASK to 0x0_0000. -/
  xmap : SMap (BitVec 17) := []
  /-- R468: log entry 2: PHY training and trim words. -/
  phy : SMap (BitVec 32) := []
  /-- R468: Table 17.4, one copy per path. -/
  phyIdx : SMap (BitVec 32) := []
  /-- R137: read queue, empty. -/
  readQ : List DramReq := []
  /-- R137: write queue, empty. -/
  writeQ : List DramReq := []
  /-- R136: no row open. -/
  openRows : SMap (Option OpenRow) := []
  /-- R143: row-disturbance tables, cleared. -/
  rowTable : SMap (List (Nat × BitVec 16)) := []
  /-- R143: pending mitigations: bank, row. -/
  mitig : List (Nat × Nat) := []
  /-- R141: postponed refreshes by rank, CID and bank address. -/
  owed : SMap Nat := []
  /-- R158: log entry 2: refresh phase. -/
  refPhase : SMap Nat := []
  /-- R142: log entry 2: halved refresh interval. -/
  halved : Bool := false
  /-- R150: corrections per device in the DEV_MARK_WIN window. -/
  corr : SMap Nat := []
  /-- R142: log entry 2: last temperature of each DIMM, in degrees C. -/
  temps : SMap Nat := []
  /-- R155: consecutive CA parity replays. -/
  replays : Nat := 0
  /-- R151: log entry 2: next channel line address of the scrubber. -/
  scrubPos : Nat := 0
  /-- R152: log entry 2: tide value at the lap's start. -/
  scrubStart : BitVec 64 := 0
  /-- R152: log entry 2: this lap's overrun has been logged. -/
  scrubMissed : Bool := false
  /-- R142: log entry 2: the channel is at or above 95 degrees C. -/
  aboveLimit : Bool := false
  /-- R158: has stopped granting reservations. -/
  drained : Bool := false
  /-- R137: reads that wait for an entry of the read queue, in order of arrival. -/
  readWait : List DramReq := []
  /-- R98: the 64 key contexts that the channel's sealing unit holds, oldest first; empty. -/
  ctxs : List KeyCtx := []
  /-- R146: rolling activation count of each bank. -/
  raa : SMap Nat := []
  /-- R146: banks whose count demands an RFM command, in order. -/
  rfmDue : List Nat := []
  /-- R152: tide value of the last scrub read made at idle; none before the first. -/
  scrubLast : Option (BitVec 64) := none
  deriving DecidableEq, Repr, Inhabited

/-- A DRAM line read that is out (R154). -/
structure LineRead where
  /-- R132: DRAM line address. -/
  addr : Nat := 0
  /-- R154: DLA line it serves. -/
  line : Nat := 0
  /-- R154: it is the re-read. -/
  again : Bool := false
  /-- R118: requester that the log names. -/
  node : BitVec 17 := 0
  /-- R118: tag that the log names. -/
  tag : BitVec 14 := 0
  /-- R138: a write of the line has entered the write queue since the read. -/
  newer : Bool := false
  /-- R120: it is the second read of a merge. -/
  merge : Bool := false
  deriving DecidableEq, Repr, Inhabited

/-- DRAM and the structures in its reserved frames. -/
structure Dram where
  /-- R112: log entry 4: stored bytes, 80 per line; an unlisted byte reads 0. -/
  mem : List Host.Cell := []
  /-- R128: channels DCH0 to DCH15. -/
  ch : SMap Channel := []
  /-- R66: Table 2.5 resets every field to 0. -/
  frameMap : SMap (BitVec 64) := []
  /-- R68: run index of each granule frame, no record valid. -/
  runIdx : SMap (BitVec 512) := []
  /-- R68: open granule frames. -/
  openGran : List Nat := []
  /-- R43: descriptor valid map, clear. -/
  descValid : SMap Bool := []
  /-- R43: on-die summary, clear. -/
  descSummary : SMap Bool := []
  /-- R67: next never-used DFA per die. -/
  fresh : SMap Nat := []
  /-- R67: frames freed since, per die, oldest first. -/
  freed : SMap (List Nat) := []
  /-- R154: line reads that are out. -/
  reads : List LineRead := []
  /-- R93: key context table entries, all zero. -/
  keyTable : SMap (BitVec 512) := []
  /-- R70: frames waiting for one of the 64 relocations. -/
  retireList : List Nat := []
  deriving DecidableEq, Repr, Inhabited

/-- A tier operation of the page operation table (R47). -/
structure PageOp where
  /-- R47: page. -/
  page : Nat := 0
  /-- R47: operation. -/
  kind : OpKind := .fault
  /-- R48: the page is to be poisoned when it ends. -/
  poisonAfter : Bool := false
  /-- R52: dirty lines whose eviction waits. -/
  evict : List Nat := []
  /-- R57: lines to orphan when Hot is reached. -/
  orphan : List Nat := []
  /-- R71: target frame or target tier. -/
  dst : Nat := 0
  /-- R65: bring on to Hot. -/
  pin : Bool := false
  /-- R65: HOTNESS that the install gives at least. -/
  hot : Nat := 0
  /-- R87: tile that compresses. -/
  tile : Nat := 0
  /-- R36: the NVMe Read has completed and verified. -/
  read : Bool := false
  /-- R228: 1: opened by the restore toward Warm, 2: toward Hot. -/
  restore : Nat := 0
  /-- R154: the line being copied failed its check and is read once more. -/
  again : Bool := false
  /-- R233: class of the request or work that opened it. -/
  cls : BitVec 8 := 0
  /-- R233: smallest DUE of the requests it serves. -/
  due : Option Nat := none
  deriving DecidableEq, Repr, Inhabited

/-- An entry of the bank table (R457). -/
structure BankCe where
  /-- R457: corrections. -/
  count : Nat := 0
  /-- R457: last 4 distinct DFAs. -/
  dfas : List Nat := []
  /-- R459: BANK_SUSPECT logged in this window. -/
  logged : Bool := false
  deriving DecidableEq, Repr, Inhabited

/-- Tiers, scanner and retirement (R47 to R73, R457). -/
structure Tier where
  /-- R60: log entry 2: DECAY_EPOCH. -/
  decayEpoch : BitVec 8 := 0
  /-- R47: page operation table, empty. -/
  ops : List PageOp := []
  /-- R61: log entry 2: next frame of the scanner. -/
  scanPos : Nat := 0
  /-- R63: working threshold, starts at COLD_TH (default 4). -/
  scanThr : Nat := 4
  /-- R63: log entry 2: the lap has moved a page to Cold. -/
  lapMoved : Bool := false
  /-- R63: log entry 2: free frames were below COLD_WM at a visit. -/
  lapLow : Bool := false
  /-- R448: log entry 2: scanner laps completed. -/
  laps : Nat := 0
  /-- R86: decodes in flight per run, by granule address. -/
  decodes : SMap Nat := []
  /-- R86: replaced runs whose decodes have not ended. -/
  oldRuns : List (Nat × BitVec 20) := []
  /-- R87: log entry 2: rotating tile pointer per bank. -/
  poolPtr : SMap Nat := []
  /-- R457: frame table of 2,048 entries, empty. -/
  frameTable : List (Nat × Nat) := []
  /-- R457: bank table, empty. -/
  bankTable : SMap BankCe := []
  /-- R47, R57: page and line of orphaned lines that wait for an entry of the page operation table. -/
  orphanWait : List (Nat × Nat) := []
  deriving DecidableEq, Repr, Inhabited

/-- A manifest copy (R198). -/
structure Manifest where
  /-- R198: GENERATION. -/
  generation : BitVec 64 := 0
  /-- R198: LEDGER_ID. -/
  ledgerId : BitVec 128 := 0
  /-- R198: LEDGER_NONCE. -/
  nonce : BitVec 64 := 0
  /-- R198: CAPACITY_GIB. -/
  capacity : BitVec 16 := 0
  /-- R198: SEG_COUNT. -/
  segCount : BitVec 32 := 0
  /-- R198: SSD_COUNT. -/
  ssdCount : BitVec 6 := 0
  /-- R198: FMT_MAJOR. -/
  fmtMajor : BitVec 8 := 1
  /-- R198: FMT_MINOR. -/
  fmtMinor : BitVec 8 := 0
  /-- R198: retired list. -/
  retired : List (BitVec 64) := []
  /-- R198: SSD identity table. -/
  idents : SMap (BitVec 128) := []
  /-- R198: MAGIC. -/
  magic : BitVec 32 := 0x4E414D47
  /-- R198: LOG_BLOCKS. -/
  logBlocks : BitVec 32 := 16384
  /-- R198: KEY_BASE. -/
  keyBase : BitVec 48 := 0
  /-- R198: HOT_BASE. -/
  hotBase : BitVec 48 := 0
  /-- R198: MAP_BASE. -/
  mapBase : BitVec 48 := 0
  /-- R198: SEG_BASE. -/
  segBase : BitVec 48 := 0
  /-- R198: SSD_INDEX. -/
  ssdIndex : BitVec 5 := 0
  /-- R198: CRC words of blocks 0 to 63. -/
  crc : SMap (BitVec 64) := []
  deriving DecidableEq, Repr, Inhabited

/-- One SSD of the ledger set as the device sees it (R211 to R216). -/
structure Ssd where
  /-- R212: log entry 2: absent until it reports. -/
  present : Bool := false
  /-- R211: log entry 2: not ready. -/
  ready : Bool := false
  /-- R214: log entry 2: not marked failed. -/
  failed : Bool := false
  /-- R189: log entry 2: no critical warning. -/
  critical : Bool := false
  /-- R212: log entry 2: not rejected. -/
  rejected : Bool := false
  /-- R198: log entry 2: identity reported. -/
  nguid : BitVec 128 := 0
  /-- R197: log entry 2: namespace size in blocks. -/
  blocks : Nat := 0
  /-- R214: tide values of its controller resets. -/
  resets : List (BitVec 64) := []
  /-- R497: log entry 2: a controller reset is out. -/
  resetting : Bool := false
  /-- R198: manifest copy A. -/
  manifest : Option Manifest := none
  /-- R213: queues not created. -/
  queues : Bool := false
  /-- R197, R199: manifest copy B; `manifest` is copy A. -/
  copyB : Option Manifest := none
  /-- R213: entries of the admin queue; 0 before the queues are created. -/
  adminQ : Nat := 0
  /-- R213: I/O queue pairs. -/
  ioQ : Nat := 0
  /-- R213: entries of an I/O queue. -/
  depth : Nat := 0
  deriving DecidableEq, Repr, Inhabited

/-- A ledger segment (R203, R207, R208). -/
structure Segment where
  /-- R203: SSD. -/
  ssd : BitVec 5 := 0
  /-- R203: first block. -/
  start : Nat := 0
  /-- R203: summary entries, Table 7.7. -/
  entries : List (BitVec 128) := []
  /-- R207: all data writes complete. -/
  written : Bool := false
  /-- R207: SEG_COMMIT complete. -/
  committed : Bool := false
  /-- R207: pages written since their snapshot. -/
  stale : List Nat := []
  /-- R208: live image granules. -/
  live : Nat := 0
  /-- R193: page bytes. -/
  bytes : Nat := 0
  deriving DecidableEq, Repr, Inhabited

/-- A rekey engine (R122 to R125). -/
structure Rekey where
  /-- R122: idle. -/
  active : Bool := false
  /-- R122: first page. -/
  first : Nat := 0
  /-- R122: last page. -/
  last : Nat := 0
  /-- R124: tide mark page. -/
  tide : Nat := 0
  /-- R122: old key. -/
  old : BitVec 20 := 0
  /-- R122: new key. -/
  new : BitVec 20 := 0
  /-- R356: pages converted. -/
  converted : Nat := 0
  /-- R356: issuing ring and SQ index. -/
  ring : Option (Nat × Nat) := none
  /-- R207: GiB of the last REKEY record. -/
  loggedGib : Nat := 0
  /-- R125: class of the ring that issued REKEY_START. -/
  cls : BitVec 8 := 0
  deriving DecidableEq, Repr, Inhabited

/-- The ledger, the dirty ceiling, Holdup and recovery. -/
structure Ledger where
  /-- R197: ledger SSDs by index. -/
  ssd : SMap Ssd := []
  /-- R199: the manifest in use. -/
  manifest : Option Manifest := none
  /-- R206: logbook records with the SSD that holds each, oldest first. -/
  logbook : List (Nat × BitVec 512) := []
  /-- R206: log entry 2: next RSEQ. -/
  rseq : BitVec 64 := 0
  /-- R203: log entry 2: next segment SEQ. -/
  nextSeq : BitVec 64 := 1
  /-- R203: segments by SEQ. -/
  segs : SMap (Option Segment) := []
  /-- R203, R204: granules of the segments on flash, by ledger granule address. -/
  flash : SMap (BitVec 512) := []
  /-- R202: map mirror, all Unbacked. -/
  mirror : SMap (BitVec 128) := []
  /-- R202: map entries on flash. -/
  flashMap : SMap (BitVec 128) := []
  /-- R202, R207: changed map blocks not yet written back, with the lowest segment SEQ that changed each. -/
  mapDirty : SMap Nat := []
  /-- R200: key region entries on flash. -/
  keyFlash : SMap (BitVec 512) := []
  /-- R207: log entry 2: MAP_HORIZON. -/
  horizon : BitVec 64 := 0
  /-- R207: log entry 2: MAP_HORIZON last recorded. -/
  horizonLogged : BitVec 64 := 0
  /-- R201: hot list categories on flash. -/
  hotList : SMap (BitVec 2) := []
  /-- R208: log entry 2: next SSD of the write rotation. -/
  rotate : Nat := 0
  /-- R195: dirty pages queued for writeback. -/
  queue : List Nat := []
  /-- R195: dirty pages, oldest first. -/
  order : List Nat := []
  /-- R220: pages made dirty after Holdup entry. -/
  grace : List Nat := []
  /-- R192: dirty ceiling C in pages; 0 before the first full window. -/
  c : Nat := 0
  /-- R192: complete 1 s windows since Service entry. -/
  windows : Nat := 0
  /-- R192: highest 1 ms card power of the last 64 windows, mW. -/
  powerHist : List Nat := []
  /-- R192: highest 1 ms card power in the current window, mW. -/
  powerMax : Nat := 0
  /-- R432: lowest e_store frame of the current window, mJ. -/
  eLow : Nat := 0
  /-- R193: bytes of the saturated windows, newest first. -/
  bwHist : List Nat := []
  /-- R193: page bytes committed in the current window. -/
  winBytes : Nat := 0
  /-- R193: seconds since the last saturated window. -/
  idleSecs : Nat := 0
  /-- R192: log entry 2: healthy SSDs when flush_bw was measured. -/
  measured : Nat := 0
  /-- R190: segment table not rebuilt (NO_SEGTABLE resets to 1). -/
  segTable : Bool := false
  /-- R220: step of Table 7.10 reached; 0 outside Holdup. -/
  hStep : Nat := 0
  /-- R220: LIST_SEQ of the closed dirty list. -/
  listSeq : BitVec 64 := 0
  /-- R220: the closed dirty list. -/
  listPages : List Nat := []
  /-- R220: HOLD_DONE with ALL_DONE written. -/
  allDone : Bool := false
  /-- R222: a feed returned during Holdup. -/
  feedBack : Bool := false
  /-- R226: replay overlay by page. -/
  overlay : SMap (Option (BitVec 128)) := []
  /-- R227: descriptor frames are pending. -/
  pending : Bool := false
  /-- R227: frames restored since. -/
  restored : SMap Bool := []
  /-- R228: next map block or hot-list page of the background restore. -/
  restorePos : Nat := 0
  /-- R228: 0 idle, 1 map blocks, 2 category 3, 3 category 2, 4 category 1, 5 ended. -/
  restorePhase : Nat := 0
  /-- R122: rekey engines 0 to 15. -/
  engines : SMap Rekey := []
  /-- R353: ring, SQ index and pages each PERSIST_BARRIER waits for. -/
  barriers : List (Nat × Nat × List Nat) := []
  /-- R207: an OPEN record waits for an SSD to be ready (Table 7.11 step 6). -/
  openOwed : Bool := false
  /-- R199: a ledger has been chosen or created. -/
  chosen : Bool := false
  /-- R506: LEDGER_INVALID reason found, 0 none. -/
  inconsistent : Nat := 0
  /-- R220: SSD and first block of the segments that hold the fragments of the closed dirty list. -/
  frags : List (Nat × Nat) := []
  /-- R244: SSDs at Harnessing, by root port. -/
  satSsd : SMap Nat := []
  /-- R200: second copy of the key region. -/
  keyFlash2 : SMap (BitVec 512) := []
  /-- R192: SSDs healthy in the windows of bwHist. -/
  bwSsds : List Nat := []
  /-- R193: time of this window with at least 256 NVMe commands outstanding, ns. -/
  satNs : Nat := 0
  deriving DecidableEq, Repr, Inhabited

/-- Regulation (R231 to R250). -/
structure Reins where
  /-- R239: usage by instance and class, 0. -/
  usage : SMap Nat := []
  /-- R244: SCALE deficit 1,024 - SCALE of each instance, 0 at full capacity. -/
  scale : SMap Nat := []
  /-- R506: row of Table 8.4 behind the SCALE. -/
  scaleWhy : SMap Nat := []
  /-- R246: the model's own field: D reached DIRTY_SOFT × C at the window start. -/
  softHeld : Bool := false
  /-- R475: RNS_OVERSUB instance mask. -/
  overMask : BitVec 40 := 0
  /-- R475: STANDING. -/
  standing : Bool := false
  /-- R245: log entry 2: tide value at which the event was raised. -/
  overSince : BitVec 64 := 0
  /-- R240: lowered by instance and class. -/
  lowered : SMap Bool := []
  /-- R246: classes that set a DIRTY bit in this window. -/
  dirtying : SMap Bool := []
  /-- R246: classes that did in the previous window. -/
  dirtyPrev : SMap Bool := []
  /-- R249: class lowered anywhere in this window. -/
  anyLow : SMap Bool := []
  /-- R247: hold buffers per port, empty. -/
  hold : SMap (List Waiter) := []
  /-- R247: CAP_HOLD_FULL logged in this mode, per port. -/
  capLogged : SMap Bool := []
  /-- R247: outstanding transactions per class. -/
  outst : SMap Nat := []
  /-- R241: requests waiting at reservation points. -/
  waiters : List Waiter := []
  /-- R241: the model's own field: arrival order. -/
  stamp : Nat := 0
  /-- R430: the hold-up store carries the card. -/
  bridging : Bool := false
  /-- R237: class records that take effect at the next window start. -/
  newRec : SMap (Option (BitVec 128)) := []
  /-- R381: none: BUDGET_WINDOW in use until the next window start, where a patch has changed it. -/
  window : Option Nat := none
  /-- R249: responses formed and not yet placed in a flit: requester, tag, DUE and class. -/
  ends : List ((BitVec 17 × BitVec 14) × (Nat × BitVec 8)) := []
  /-- R247: a budget window has started since the mode with budgets was entered. -/
  on : Bool := false
  deriving DecidableEq, Repr, Inhabited

/-- A PAYLOAD flit in the replay buffer (R271). -/
structure Flit where
  /-- R271: SEQ. -/
  seq : BitVec 12 := 0
  /-- R269: packets it completes. -/
  pkts : List Pkt := []
  /-- R274: slots it carries. -/
  slots : Nat := 0
  /-- R271: its SEQ, FLIT_TYPE, SLOT_KIND and slots 1 to 14. -/
  body : BitVec 2048 := 0
  deriving DecidableEq, Repr, Inhabited

/-- A link management exchange (R280). -/
structure Lmc where
  /-- R280: command. -/
  op : BitVec 4 := 0
  /-- R280: LMC_ID. -/
  id : BitVec 8 := 0
  /-- R280: argument. -/
  arg : BitVec 16 := 0
  deriving DecidableEq, Repr, Inhabited

/-- An AFL port (R251 to R294, R474). -/
structure Port where
  /-- R264: STATE 0x0. -/
  st : LinkSt := .off
  /-- R264: LP 0b00. -/
  lp : BitVec 2 := 0
  /-- R264: FEATURES 0x0. -/
  features : BitVec 4 := 0
  /-- R264: VERSION 0b00. -/
  version : BitVec 2 := 0
  /-- R264: RATE 0b11, none. -/
  rate : BitVec 2 := 3
  /-- R264: WIDTH 0b111, none. -/
  width : BitVec 3 := 7
  /-- R264: GROUP 0x0. -/
  group : BitVec 4 := 0
  /-- R264: HELD 0. -/
  held : Bool := false
  /-- R264: RESUMED 0. -/
  resumed : Bool := false
  /-- R474: DISABLE 0. -/
  disable : Bool := false
  /-- R474: the last valid training set; AFLn_PARTNER reads 0 before the first. -/
  partner : BitVec 256 := 0
  /-- R474: a valid training set has been received. -/
  partnerUp : Bool := false
  /-- R258: log entry 2: own SESSION. -/
  session : BitVec 16 := 0
  /-- R258: 0 if none. -/
  peerSession : BitVec 16 := 0
  /-- R262: SEQ 0. -/
  seq : BitVec 12 := 0
  /-- R272: next SEQ expected. -/
  expect : BitVec 12 := 0
  /-- R262: ACK 0xFFF. -/
  ack : BitVec 12 := 0xFFF
  /-- R272: no gap and no error. -/
  nak : Bool := false
  /-- R273: ACK value of the NAK already answered by a replay. -/
  nakSeen : Option (BitVec 12) := none
  /-- R271: replay buffer, empty. -/
  replay : List Flit := []
  /-- R273: consecutive replays from one SEQ. -/
  replays : Nat := 0
  /-- R275: packets delivered and not yet taken from the receive buffer. -/
  rx : List Pkt := []
  /-- R288: egress queue, empty. -/
  egress : List Pkt := []
  /-- R274: log entry 2: request credits the partner advertised. -/
  advReq : BitVec 12 := 0
  /-- R274: log entry 2: response credits the partner advertised. -/
  advRsp : BitVec 12 := 0
  /-- R274: request slots sent. -/
  sentReq : BitVec 12 := 0
  /-- R274: response slots sent. -/
  sentRsp : BitVec 12 := 0
  /-- R266: REQ_CREDIT last received. -/
  freedReq : BitVec 12 := 0
  /-- R266: RSP_CREDIT last received. -/
  freedRsp : BitVec 12 := 0
  /-- R275: request slots the device has freed. -/
  myReq : BitVec 12 := 0
  /-- R275: response slots the device has freed. -/
  myRsp : BitVec 12 := 0
  /-- R269: slots still missing of a packet split over flits. -/
  partSlots : Nat := 0
  /-- R269: it is on the response virtual channel. -/
  partRsp : Bool := false
  /-- R269: header of that packet. -/
  partHdr : BitVec 128 := 0
  /-- R269: its slots so far. -/
  partData : List (BitVec 128) := []
  /-- R279: log entry 2: width cap, x16. -/
  cap : BitVec 3 := 4
  /-- R281: log entry 2: transmitter has moved to the target group. -/
  txSwitch : Bool := false
  /-- R281: log entry 2: receiver has moved to the target group. -/
  rxSwitch : Bool := false
  /-- R280: own exchange outstanding. -/
  lmc : Option Lmc := none
  /-- R281: partner's width change accepted. -/
  lmcAccepted : Option Lmc := none
  /-- R280: log entry 2: next LMC_ID. -/
  lmcNext : BitVec 8 := 0
  /-- R280: last command acted on. -/
  lmcSeen : Option Lmc := none
  /-- R280: answer being sent. -/
  answer : Option Lmc := none
  /-- R474: AFLn_LANE_FAIL. -/
  laneFail : BitVec 16 := 0
  /-- R277: corrected symbols per lane in the 1 ms window. -/
  laneErr : SMap Nat := []
  /-- R277: consecutive flits that were not good. -/
  badRun : Nat := 0
  /-- R277: tide values of retrains started. -/
  retrains : List (BitVec 64) := []
  /-- R277: rate lowered until the next training from DETECT. -/
  lowered : Bool := false
  /-- R259: the lower rate has been tried. -/
  eqTried : Bool := false
  /-- R259: training follows a loss of link. -/
  lossTrain : Bool := false
  /-- R259: consecutive valid training sets per lane in POLL. -/
  tsRun : SMap Nat := []
  /-- R257: lanes on which both ends set EQ_DONE. -/
  eqDone : BitVec 16 := 0
  /-- R263: reason of the last TRAIN_REJECT. -/
  rejectWhy : Nat := 0
  /-- R259: waiting out the 100 ms after a rejection. -/
  rejected : Bool := false
  /-- R312: tolerance received: bit 31 NO_REQ, [29:0] ns. -/
  latTol : Option (BitVec 32) := none
  /-- R468: log entry 2: SerDes words. -/
  serdes : SMap (BitVec 32) := []
  /-- R468: Table 17.4, one copy per path. -/
  serdesIdx : SMap (BitVec 32) := []
  /-- R256: log entry 2: saved transmit coefficients per lane. -/
  coef : SMap (BitVec 32) := []
  /-- R259: lanes with partner termination. -/
  detected : BitVec 16 := 0
  /-- R289: node of the session held. -/
  peerNode : BitVec 17 := 0
  /-- R284: an exit from standby or sleep is in progress. -/
  exiting : Bool := false
  /-- R506: trigger of the retrain in progress. -/
  retrainWhy : Nat := 0
  /-- R269: slots already sent of the packet at the head. -/
  txDone : Nat := 0
  /-- R251: the model's own field: flit time left over from the last tick, in 1/128 flits. -/
  txPhase : Nat := 0
  /-- R254: flits sent since the last IDLE flit. -/
  sinceIdle : Nat := 0
  /-- R288: log entry 2: tide value at which the link was lost. -/
  lossTide : BitVec 64 := 0
  /-- R484: log entry 2: the port's reference clock is lost. -/
  refLost : Bool := false
  /-- R255: lane reversal that POLL found. -/
  laneRev : Option Bool := none
  /-- R257: lanes on which the device's receiver has set EQ_DONE. -/
  myDone : BitVec 16 := 0
  /-- R259: a valid training set has come since the training began. -/
  tsGot : Bool := false
  /-- R258: the training set sent last on each lane. -/
  txTs : SMap (BitVec 256) := []
  /-- R258: the model's own field: number of the SESSION that the next new link-layer state takes, the draws made when it was set (log entry 72). -/
  sessN : Nat := 0
  /-- R281: lanes outside the group that the receiver has locked in a widening. -/
  locked : BitVec 16 := 0
  /-- R281: W_ACCEPT is held while the partner's added lanes are awaited. -/
  accepted : Bool := false
  /-- R281: width and group of a transmitter that has moved before the receiver. -/
  txTo : Option (BitVec 3 × BitVec 4) := none
  /-- R281: flits still to come on the old group, and the width code after them. -/
  rxTo : Option (Nat × Nat) := none
  /-- R279: a changed cap waits until it can be proposed. -/
  capDue : Bool := false
  /-- R381: none: the Table 9.11 parameters in use until the next training from DETECT, where a patch has changed them. -/
  latch : SMap (Option Nat) := []
  /-- R231: opcode, source and tag of the packets of the receive buffer, with the tick of their last flit. -/
  rxAt : List ((BitVec 8 × BitVec 17 × BitVec 14) × Nat) := []
  /-- R253: transmit scrambler of each lane. -/
  txScr : SMap (BitVec 31) := []
  /-- R253: receive descrambler of each lane. -/
  rxScr : SMap (BitVec 31) := []
  /-- R252, R253: the last flit sent, as the lanes carry it. -/
  txLine : BitVec 2048 := 0
  deriving DecidableEq, Repr, Inhabited

/-- A reservation request held at a gateway or a destination (R329). -/
structure RsvReq where
  /-- R329: source endpoint. -/
  src : Nat := 0
  /-- R329: destination endpoint. -/
  dst : Nat := 0
  /-- R328: resource. -/
  res : BitVec 4 := 0
  /-- R328: count asked. -/
  count : Nat := 0
  /-- R328: DUE. -/
  due : Option Nat := none
  /-- R328: class. -/
  cls : BitVec 8 := 0
  /-- R242: has waited AGE_LIMIT. -/
  aged : Bool := false
  /-- R232: ranks as overdue. -/
  overdue : Bool := false
  deriving DecidableEq, Repr, Inhabited

/-- A switchable power domain (R395 to R403). -/
structure Domain where
  /-- R403: log entry 2: awake. -/
  st : DomSt := .awake
  /-- R331: reservation requests held at its gateway. -/
  heldRsv : List RsvReq := []
  /-- R331: a wake event is recorded. -/
  wakeEvent : Bool := false
  /-- R330: reservations granted and neither returned nor used. -/
  inflight : Nat := 0
  /-- R402: refusal counter. -/
  refusals : Nat := 0
  /-- R402: refusal logged since the last success. -/
  refLogged : Bool := false
  /-- R456: awake residency. -/
  awakeT : BitVec 64 := 0
  /-- R456: prepared residency. -/
  prepT : BitVec 64 := 0
  /-- R456: asleep residency. -/
  asleepT : BitVec 64 := 0
  /-- R244: taken out of service by a domain fault. -/
  fault : Bool := false
  deriving DecidableEq, Repr, Inhabited

/-- A power group (R395, R400 to R403). -/
structure Group where
  /-- R401: no entry in progress. -/
  phase : GrpSt := .awake
  /-- R402: back-off in ms, 0 before the first refusal. -/
  backoff : Nat := 0
  /-- R402: the back-off is running. -/
  running : Bool := false
  deriving DecidableEq, Repr, Inhabited

/-- A die-to-die bridge port (R320). -/
structure BridgePort where
  /-- R320: consecutive replays of the unit. -/
  replays : Nat := 0
  /-- R320: up. -/
  down : Bool := false
  deriving DecidableEq, Repr, Inhabited

/-- The on-chip network (R318 to R337). -/
structure Noc where
  /-- R395: 152 switchable domains. -/
  dom : SMap Domain := []
  /-- R395: 16 power groups. -/
  grp : SMap Group := []
  /-- R328: reservations granted, by destination, resource and source. -/
  granted : SMap Nat := []
  /-- R329: reservations a source holds unused. -/
  unused : SMap Nat := []
  /-- R328: entries in use of a destination's resource. -/
  inUse : SMap Nat := []
  /-- R329: reservation requests waiting at destinations. -/
  waiting : List RsvReq := []
  /-- R329: packets that the outstanding RSV_REQ of a source, destination and resource asks for; 0 none. -/
  asked : SMap Nat := []
  /-- R326: route records by bank. -/
  routes : SMap (BitVec 128) := []
  /-- R332: log entry 2: epoch that sources stamp. -/
  epoch : Bool := false
  /-- R332: new tables are written and not yet stamped. -/
  ackPending : Bool := false
  /-- R332: bank not yet retired. -/
  retiring : Option Bool := none
  /-- R332: packets injected per epoch. -/
  injected : SMap Nat := []
  /-- R332: packets ejected per epoch. -/
  ejected : SMap Nat := []
  /-- R320: 16 bridge ports. -/
  bridge : SMap BridgePort := []
  /-- R335: capture ring of each router, newest first. -/
  rings : SMap (List (BitVec 256)) := []
  /-- R322: reservations consumed by discarded headers. -/
  stuckConsumed : Nat := 0
  /-- R324: log entry 2: rotating pointers of reservation grants. -/
  grantPtr : SMap Nat := []
  /-- R323: units that wait in a router's input queue, by router, input port and virtual channel, oldest first. -/
  queues : SMap (List (BitVec 256)) := []
  /-- R323, R334: packets that wait at their source for a credit of the first router, by source endpoint. -/
  fifo : SMap (List (BitVec 256)) := []
  deriving DecidableEq, Repr, Inhabited

/-- A ring command fetched and not yet posted (R344). -/
structure RCmd where
  /-- R344: ring. -/
  ring : Nat := 0
  /-- R348: SQ index. -/
  idx : Nat := 0
  /-- R347: submission entry. -/
  entry : BitVec 512 := 0
  /-- R346: started. -/
  started : Bool := false
  /-- R346: finished, waiting for its post. -/
  finished : Bool := false
  /-- R348: STATUS. -/
  status : BitVec 6 := 0
  /-- R348: DETAIL. -/
  detail : BitVec 8 := 0
  /-- R348: RESULT. -/
  result : BitVec 64 := 0
  /-- R351: bytes done. -/
  pos : Nat := 0
  /-- R351: offset of the first failed line. -/
  firstBad : Option Nat := none
  /-- R351: failed lines. -/
  badCount : Nat := 0
  /-- R345: tick of the fetch. -/
  fetchTick : Nat := 0
  /-- R65: pages whose operation the command waits for. -/
  waits : List Nat := []
  /-- R354: the snapshot point is fixed. -/
  fixed : Bool := false
  /-- R354: source pages already copied. -/
  copied : List Nat := []
  /-- R354: source pages to copy next. -/
  first : List Nat := []
  /-- R346: the ring has faulted or was disabled: nothing is posted. -/
  lost : Bool := false
  deriving DecidableEq, Repr, Inhabited

/-- Ring pairs (R338 to R359). -/
structure Rings where
  /-- R338, R339: Table 12.1 resets every field to 0. -/
  ctx : SMap (BitVec 256) := []
  /-- R468: RING_CTX_IDX per complex and path. -/
  ctxIdx : SMap (BitVec 32) := []
  /-- R344: commands in progress. -/
  cmds : List RCmd := []
  /-- R349: RING_PEND words, 0. -/
  pend : SMap (BitVec 32) := []
  /-- R344: log entry 2: rotating pointer over ring IDs, per complex. -/
  ptr : SMap Nat := []
  /-- R342: last doorbell refusal reason per ring. -/
  refused : SMap Nat := []
  deriving DecidableEq, Repr, Inhabited

/-- A threshold sampler (R454). -/
structure Sampler where
  /-- R454: Table 16.9. -/
  cfg : BitVec 32 := 0
  /-- R454: advances counted. -/
  count : Nat := 0
  /-- R454: armed. -/
  armed : Bool := false
  deriving DecidableEq, Repr, Inhabited

/-- An SPDM reassembly (R315). -/
structure Reassembly where
  /-- R315: none in progress. -/
  active : Bool := false
  /-- R315: MSG_ID. -/
  msgId : BitVec 8 := 0
  /-- R315: next FRAG_INDEX. -/
  nextIdx : BitVec 8 := 0
  /-- R315: bytes so far. -/
  bytes : List Byte := []
  deriving DecidableEq, Repr, Inhabited

/-- Management complexes MGT0 and MGT1 (R379, R454, R457, R476). -/
structure Mgt where
  /-- R379: log entry 2: MGT_PATCH_BASE. -/
  patchBase : BitVec 64 := 0
  /-- R379: Table 13.11 resets every field to 0. -/
  patchStat : BitVec 32 := 0
  /-- R454: log entry 2: MGT_SMP_BASE. -/
  smpBase : BitVec 64 := 0
  /-- R454: log entry 2: MGT_SMP_SIZE_LOG2. -/
  smpSize : BitVec 32 := 6
  /-- R454: log entry 2: MGT_SMP_WR. -/
  smpWr : BitVec 32 := 0
  /-- R454: log entry 2: MGT_SMP_RD. -/
  smpRd : BitVec 32 := 0
  /-- R454: log entry 2: DROPPED. -/
  smpDropped : Bool := false
  /-- R454: 16 samplers, disabled. -/
  smp : SMap Sampler := []
  /-- R447: extended log ring. -/
  xlog : SMap (BitVec 512) := []
  /-- R447: log entry 2: slot of the next entry. -/
  xlogWr : Nat := 0
  /-- R468: MGT_XLOG_IDX per path. -/
  xlogIdx : SMap (BitVec 32) := []
  /-- R447: entries to copy into the extended log. -/
  extQ : List (BitVec 512) := []
  /-- R315: reassembly per port. -/
  spdm : SMap Reassembly := []
  /-- R471: firmware of each complex loaded. -/
  fwRuns : SMap Bool := []
  /-- R381: log entry 2: a POWER_GROUPS patch waits for every domain to be awake. -/
  holdGallop : Bool := false
  deriving DecidableEq, Repr, Inhabited

/-- A patch log entry (R378). -/
structure PatchEnt where
  /-- R378: patch image. -/
  image : List (BitVec 128) := []
  /-- R378: PATCH_SEQ. -/
  seq : BitVec 32 := 0
  /-- R378: COMMIT programmed. -/
  commit : Bool := false
  deriving DecidableEq, Repr, Inhabited

/-- One copy of the images in the SPI NOR (R373). -/
structure NorCopy where
  /-- R373: log entry 2: firmware image, in 16-byte words. -/
  fw : List (BitVec 128) := []
  /-- R373: log entry 2: harness image. -/
  hz : List (BitVec 128) := []
  /-- R378: log entry 2: patch log entries. -/
  log : List PatchEnt := []
  deriving DecidableEq, Repr, Inhabited

/-- The SPI NOR (R373 to R376). -/
structure Nor where
  /-- R374: log entry 2: boot directory copy 0. -/
  dir0 : BitVec 512 := 0
  /-- R374: log entry 2: boot directory copy 1. -/
  dir1 : BitVec 512 := 0
  /-- R373: log entry 2: copy A. -/
  a : NorCopy := {}
  /-- R373: log entry 2: copy B. -/
  b : NorCopy := {}
  /-- R161, R373: log entry 2: calibration record headers, slot 2c + s. -/
  cal : SMap (Option (BitVec 512)) := []
  /-- R161: log entry 2: bodies of the calibration records. -/
  calBody : SMap (SMap (BitVec 32)) := []
  /-- R161: log entry 2: user trims by channel. -/
  trims : SMap (BitVec 64) := []
  /-- R368: log entry 2: CAL_DIGEST. -/
  calDigest : BitVec 64 := 0
  /-- R375: the first copy tried has failed. -/
  triedOther : Bool := false
  deriving DecidableEq, Repr, Inhabited

/-- A power-path channel (R419 to R438). -/
structure PChan where
  /-- R438: STATE 0x0. -/
  st : PSt := .off
  /-- R438: RETRY_COUNT 0. -/
  retry : BitVec 3 := 0
  /-- R438: PRESENT 0 (SLOT, BAY; other channels read 1). -/
  present : Bool := false
  /-- R438: PG 0. -/
  pg : Bool := false
  /-- R438: TIMER 0. -/
  timer : Bool := false
  /-- R438: QUAL 0. -/
  qual : Bool := false
  /-- R438: CARRYING 0. -/
  carrying : Bool := false
  /-- R438: LAST_FAULT 0x0. -/
  lastFault : BitVec 4 := 0
  /-- R438: TRIPS 0. -/
  trips : BitVec 16 := 0
  /-- R438: Table 15.6: OTP at PPD reset; 0 before the PPD leaves reset. -/
  cfg : BitVec 32 := 0
  /-- R438: Table 15.7: OTP at PPD reset; 0 before the PPD leaves reset. -/
  lim : BitVec 32 := 0
  /-- R416, R438: reads 0 while the OTP is blank. -/
  sense : BitVec 32 := 0
  /-- R472: log entry 2: latest current, mA. -/
  measI : BitVec 32 := 0
  /-- R472: log entry 2: latest voltage, mV. -/
  measV : BitVec 32 := 0
  /-- R472: log entry 2: latest 1 ms average power, mW. -/
  power : BitVec 32 := 0
  /-- R428: log entry 2: commanded off. -/
  cmdOff : Bool := false
  /-- R420: waiting for one of the 8 inrush places. -/
  queued : Bool := false
  /-- R436: an OFF waits for BAY_WARN_LEAD. -/
  warned : Bool := false
  deriving DecidableEq, Repr, Inhabited

/-- The power-path die (R413 to R439). -/
structure Ppd where
  /-- R413: 51 channels. -/
  ch : SMap PChan := []
  /-- R437: PPD_PARAMk: deviations from the defaults of Table 15.5. -/
  param : SMap (BitVec 32) := []
  /-- R437: a PPD_PARAMk has been written or loaded. -/
  paramSet : SMap Bool := []
  /-- R432: 0 J while HOLD is not closed-ready. -/
  eStore : BitVec 32 := 0
  /-- R472: log entry 2: V_STORE, mV. -/
  vStore : BitVec 32 := 0
  /-- R432, R437: STORE_C_RATED, default 0 F. -/
  cEff : BitVec 32 := 0
  /-- R472: 0 before the first test. -/
  cMeas : BitVec 32 := 0
  /-- R472: log entry 2: card bus voltage, mV. -/
  busV : BitVec 32 := 0
  /-- R434: log entry 2: the PPD link works. -/
  linkUp : Bool := true
  /-- R415: the PPD is unpowered until PPD_POWER_ON. -/
  powered : Bool := false
  /-- R430: feed a changeover goes to. -/
  newFeed : Option (BitVec 1) := none
  /-- R430: BREAK_TIME has passed. -/
  breakDone : Bool := false
  /-- R433: a store test is in progress. -/
  testing : Bool := false
  /-- R433: V1, mV. -/
  testV1 : BitVec 32 := 0
  /-- R439: tide value of the last good PPD link exchange. -/
  goodTide : BitVec 64 := 0
  /-- R439: old feed of the changeover; 0xF none. -/
  oldFeed : BitVec 4 := 0
  /-- R506: FEED_CHANGE cause. -/
  changeWhy : Nat := 0
  /-- R439: energy that HOLD has delivered in this bridge, µJ. -/
  bridgeUj : Nat := 0
  deriving DecidableEq, Repr, Inhabited
/-- The whole machine. -/
structure State where
  /-- Fuses and OTP. -/
  fuse : Fuses := {}
  /-- The always-on island. -/
  aon : Aon := {}
  /-- The tide counter and the residency counters of AON. -/
  time : AonTime := {}
  /-- The error log. -/
  log : AonLog := {}
  /-- Event counters. -/
  ev : AonEvents := {}
  /-- Keys and tree state of AON SRAM. -/
  sec : AonSec := {}
  /-- The freeze dump. -/
  frz : Freeze := {}
  /-- Output pins. -/
  pin : Pins := {}
  /-- The Quay cache banks. -/
  quay : Quay := {}
  /-- DRAM and its channel controllers. -/
  dram : Dram := {}
  /-- Tiers, scanner and retirement. -/
  tier : Tier := {}
  /-- The ledger. -/
  led : Ledger := {}
  /-- Regulation. -/
  reins : Reins := {}
  /-- AFL ports 0 to 3. -/
  port : SMap Port := []
  /-- The on-chip network and the switchable domains. -/
  noc : Noc := {}
  /-- Command rings. -/
  rings : Rings := {}
  /-- Management complexes. -/
  mgt : Mgt := {}
  /-- The SPI NOR. -/
  nor : Nor := {}
  /-- The power-path die. -/
  ppd : Ppd := {}
  /-- R361, R362: the effective configuration, the 16-byte records of each section by section type; empty until a
  harness image is loaded. -/
  cfg : SMap (List (BitVec 128)) := []
  /-- The model's own counter of free values drawn (log entry 5). -/
  free : Nat := 0
  /-- The model's own queue of commands that wait, first in, first out (log entry 6). -/
  pending : List Instr := []
  deriving DecidableEq, Repr

/-- The machine right after reset: every field at the default of its declaration, which is the reset value of
the field map that names it, or the value of the log entry that its docstring names. -/
def State.reset : State := {}

/-- Why a command stops the model. -/
inductive Fault where
  /-- R482: a low pulse on PWROK or RESET_N longer than 100 ns and shorter than 1 us "has no defined effect".
  Raised by RESET_N_ASSERT and PWROK_DEASSERT. Safe: the model stops where the spec states no effect. -/
  | undefinedPulse
  /-- R132: a DFA beyond the last channel set is invalid, and the spec gives the debug port's access to it no
  effect. Raised by DEBUG_ACCESS. Safe: the model stops where the spec states no effect. -/
  | invalidFrame
  deriving DecidableEq, Repr

/-- Why the model has no meaning for a command. -/
inductive Refusal where
  /-- The command is not modelled; raised by no command when every arm of exec has its meaning. Safe. -/
  | notModelled (mnemonic : String)
  deriving DecidableEq, Repr

end Sys2Proof.Machine
end

