-- ==== Sys2Proof/Machine/Operands.lean ====
section
/-! DEFINITION. The formats of the spec as functions on bit vectors: packet headers, folded addresses, page
descriptors, directory entries, counter blocks, log entries and the DRAM address map. -/

namespace Sys2Proof.Machine

/-! ## Packets -/

/-- A header of the request layout (Table 10.2) with the given LINE field. -/
def reqHdr (op : BitVec 8) (dst src : Node) (tag : Tag) (line : Line) (deadline : BitVec 12) (cls : BitVec 8)
    (hint : BitVec 2) (flags : BitVec 11) : BitVec 128 :=
  place 128 0 op ||| place 128 8 dst ||| place 128 25 src ||| place 128 42 tag ||| place 128 56 line |||
  place 128 95 deadline ||| place 128 107 cls ||| place 128 115 hint ||| place 128 117 flags

/-- The flags and optional fields of a response header (Table 10.3). -/
structure RspFlags where
  /-- PERSISTED [60]. -/
  persisted : Bool := false
  /-- SPECULATIVE [61]. -/
  spec : Bool := false
  /-- SYNTHETIC [62]. -/
  synthetic : Bool := false
  /-- FROM_WB [63]. -/
  fromWb : Bool := false
  /-- POISON [64]. -/
  poison : Bool := false
  /-- FORWARDED [65]. -/
  fwd : Bool := false
  /-- HOME [88:72]. -/
  home : Node := 0
  deriving DecidableEq, Repr, Inhabited

/-- A header of the response layout (Table 10.3). -/
def rspHdr (op : BitVec 8) (dst src : Node) (tag : Tag) (status : BitVec 4) (f : RspFlags) : BitVec 128 :=
  place 128 0 op ||| place 128 8 dst ||| place 128 25 src ||| place 128 42 tag ||| place 128 56 status |||
  place 128 60 (bit1 f.persisted) ||| place 128 61 (bit1 f.spec) ||| place 128 62 (bit1 f.synthetic) |||
  place 128 63 (bit1 f.fromWb) ||| place 128 64 (bit1 f.poison) ||| place 128 65 (bit1 f.fwd) ||| place 128 72 f.home

/-- A header of the message layout (Table 10.6): BODY at [127:42]. -/
def msgHdr (op : BitVec 8) (dst src : Node) (body : BitVec 86) : BitVec 128 :=
  place 128 0 op ||| place 128 8 dst ||| place 128 25 src ||| place 128 42 body

/-- The four continuation slots of a line (Table 10.4): slot k holds bytes 16(k - 1) to 16k - 1. -/
def lineSlots (d : BitVec 512) : List (BitVec 128) :=
  [d.extractLsb' 0 128, d.extractLsb' 128 128, d.extractLsb' 256 128, d.extractLsb' 384 128]

/-- The line that four slots carry. -/
def slotsLine (l : List (BitVec 128)) : BitVec 512 := (l.take 4).zipIdx.foldl (fun x p => x ||| place 512 (128 * p.2) p.1) 0

/-- The OPCODE of a packet. -/
def pktOp (p : Pkt) : BitVec 8 := p.hdr.extractLsb' 0 8
/-- The DESTINATION of a packet. -/
def pktDst (p : Pkt) : Node := p.hdr.extractLsb' 8 17
/-- The SOURCE of a packet. -/
def pktSrc (p : Pkt) : Node := p.hdr.extractLsb' 25 17
/-- The TAG of a packet. -/
def pktTag (p : Pkt) : Tag := p.hdr.extractLsb' 42 14
/-- The STATUS of a response. -/
def pktStatus (p : Pkt) : BitVec 4 := p.hdr.extractLsb' 56 4

/-- Length of a packet in slots, from its header alone (R295, Table 10.1). -/
def pktSlots (hdr : BitVec 128) : Nat :=
  match (hdr.extractLsb' 0 8).toNat with
  | 0x08 | 0x41 | 0x48 | 0x49 | 0x4A | 0x4B | 0x5B | 0x5C => 5
  | 0x09 => 6
  | 0x10 | 0x11 | 0x12 | 0x13 | 0x14 | 0x15 | 0x16 | 0x17 | 0x18 | 0x19 | 0x22 | 0x31 | 0x4E | 0x60 => 2
  | 0x32 | 0x62 => 1 + (fieldNat hdr 63 56 + 15) / 16
  | _ => 1

/-- The virtual channel of an opcode (Table 10.1): true for the response channel, none when reserved. -/
def opVc (op : Nat) : Option Bool :=
  if op ∈ [0x01, 0x02, 0x03, 0x04, 0x08, 0x09, 0x10, 0x11, 0x12, 0x13, 0x14, 0x15, 0x16, 0x17, 0x18, 0x19, 0x20, 0x21,
    0x22, 0x30, 0x31, 0x32] then some false
  else if op ∈ [0x40, 0x41, 0x48, 0x49, 0x4A, 0x4B, 0x4C, 0x4D, 0x4E, 0x4F, 0x50, 0x58, 0x59, 0x5A, 0x5B, 0x5C, 0x5D,
    0x5E, 0x5F, 0x60, 0x61, 0x62, 0x70, 0x71, 0x72, 0x73] then some true
  else none

/-! ## Folded line addresses (R19, R20) -/

/-- Bit positions below 39 that an interleave level takes (R40). -/
def levelBits (waysLog2 granLog2 : Nat) : List Nat := (List.range waysLog2).map (· + granLog2)

/-- Spread the low bits of `x` over the listed positions, ascending: bit j of `x` goes to position `ps[j]`. -/
def scatter (x : Nat) : List Nat → Nat
  | [] => 0
  | p :: ps => (x % 2) * 2 ^ p + scatter (x / 2) ps

/-- Collect the bits of `x` at the listed positions, lowest first. -/
def gather (x : Nat) : List Nat → Nat
  | [] => 0
  | p :: ps => x / 2 ^ p % 2 + 2 * gather x ps

/-- R20: the DLA line address of a folded one. `idx` lists the index positions, ascending. The index positions are
removed, the gaps close toward bit 0, and the removed bits take bits [38:39 - k]. -/
def unfoldLine (idx : List Nat) (l : Line) : Line :=
  let keep := (List.range 39).filter (fun i => !idx.contains i)
  BitVec.ofNat 39 (gather l.toNat (keep ++ idx))

/-- R297: the folded line address of a DLA line address, the inverse of R20. -/
def foldLine (idx : List Nat) (l : Line) : Line :=
  let keep := (List.range 39).filter (fun i => !idx.contains i)
  BitVec.ofNat 39 (scatter l.toNat (keep ++ idx))

/-! ## Page descriptors (Tables 2.1, 2.2) -/

/-- The STATE codes of Table 2.1. -/
inductive PageSt where
  | unbacked | hot | warm | cold | retired | poisoned | orphaned
  deriving DecidableEq, Repr

/-- STATE as its code. -/
def pageStCode : PageSt → BitVec 3
  | .unbacked => 0 | .hot => 1 | .warm => 2 | .cold => 3 | .retired => 4 | .poisoned => 5 | .orphaned => 6

/-- STATE [2:0] of a descriptor; none for the reserved code. -/
def dStateRaw (d : BitVec 128) : Option PageSt :=
  match (d.extractLsb' 0 3).toNat with
  | 0 => some .unbacked | 1 => some .hot | 2 => some .warm | 3 => some .cold
  | 4 => some .retired | 5 => some .poisoned | 6 => some .orphaned | _ => none

def dSealed (d : BitVec 128) : Bool := d.getLsbD 3
def dKey (d : BitVec 128) : BitVec 20 := d.extractLsb' 4 20
def dDirty (d : BitVec 128) : Bool := d.getLsbD 24
def dLedger (d : BitVec 128) : Bool := d.getLsbD 25
def dPin (d : BitVec 128) : Bool := d.getLsbD 26
def dNoComp (d : BitVec 128) : Bool := d.getLsbD 27
/-- HOTNESS [39:32] of a Hot, Warm or Retired descriptor. -/
def dHot (d : BitVec 128) : Nat := fieldNat d 39 32
/-- DECAY_STAMP [47:40] of a Hot, Warm or Retired descriptor. -/
def dStamp (d : BitVec 128) : Nat := fieldNat d 47 40
/-- DFA [78:48] of a Hot descriptor, OLD_DFA of a Retired one. -/
def dDfa (d : BitVec 128) : Nat := fieldNat d 78 48
/-- NEW_DFA [109:79] of a Retired descriptor. -/
def dNewDfa (d : BitVec 128) : Nat := fieldNat d 109 79
/-- COPIED [116:110] of a Retired descriptor. -/
def dCopied (d : BitVec 128) : Nat := fieldNat d 116 110
/-- GRANULE_ADDR [84:48] of a Warm descriptor. -/
def dGranule (d : BitVec 128) : Nat := fieldNat d 84 48
/-- BALE_SIZE of bale b of a Warm descriptor. -/
def dBaleW (d : BitVec 128) (b : Nat) : Nat := fieldNat d (89 + 5 * b) (85 + 5 * b)
/-- BALE_SIZE of bale b of a Cold descriptor. -/
def dBaleC (d : BitVec 128) (b : Nat) : Nat := fieldNat d (98 + 5 * b) (94 + 5 * b)
/-- LEDGER_OFFSET [93:88] of a Cold descriptor. -/
def dLedOff (d : BitVec 128) : Nat := fieldNat d 93 88
/-- LEDGER_ADDR [87:40] of a Cold descriptor. -/
def dLedAddr (d : BitVec 128) : Nat := fieldNat d 87 40
/-- LINE_MASK [127:64] of a Poisoned or Orphaned descriptor. -/
def dMask (d : BitVec 128) : BitVec 64 := d.extractLsb' 64 64
/-- BERTH [63] of a Poisoned or Orphaned descriptor. -/
def dBerth (d : BitVec 128) : Bool := d.getLsbD 63
/-- DFA [62:32] of a Poisoned or Orphaned descriptor. -/
def dPDfa (d : BitVec 128) : Nat := fieldNat d 62 32

/-- The common fields of a descriptor, bits [31:3], with a state written in (R44). -/
def dCommon (d : BitVec 128) (st : PageSt) : BitVec 128 :=
  (d &&& 0x0FFFFFF8) ||| (pageStCode st).setWidth 128

/-- `d` with one common flag bit written. -/
def dFlag (d : BitVec 128) (bit : Nat) (v : Bool) : BitVec 128 := setField d bit (bit1 v)

/-- `d` with SEALED and KEY_ID written (R91). -/
def dSeal (d : BitVec 128) (sealed : Bool) (key : BitVec 20) : BitVec 128 :=
  setField (setField d 3 (bit1 sealed)) 4 key

/-- A Hot descriptor with the common fields of `d`. -/
def mkHot (d : BitVec 128) (dfa hot stamp : Nat) : BitVec 128 :=
  dCommon d .hot ||| place 128 32 (BitVec.ofNat 8 hot) ||| place 128 40 (BitVec.ofNat 8 stamp) |||
  place 128 48 (BitVec.ofNat 31 dfa)

/-- A Warm descriptor with the common fields of `d`. -/
def mkWarm (d : BitVec 128) (granule : Nat) (sizes : List Nat) (hot stamp : Nat) : BitVec 128 :=
  dCommon d .warm ||| place 128 32 (BitVec.ofNat 8 hot) ||| place 128 40 (BitVec.ofNat 8 stamp) |||
  place 128 48 (BitVec.ofNat 37 granule) ||| place 128 85 (BitVec.ofNat 5 (sizes.getD 0 0)) |||
  place 128 90 (BitVec.ofNat 5 (sizes.getD 1 0)) ||| place 128 95 (BitVec.ofNat 5 (sizes.getD 2 0)) |||
  place 128 100 (BitVec.ofNat 5 (sizes.getD 3 0))

/-- A Cold descriptor, or a Cold map entry, with the common fields of `d`. -/
def mkCold (d : BitVec 128) (addr off : Nat) (sizes : List Nat) : BitVec 128 :=
  dCommon d .cold ||| place 128 40 (BitVec.ofNat 48 addr) ||| place 128 88 (BitVec.ofNat 6 off) |||
  place 128 94 (BitVec.ofNat 5 (sizes.getD 0 0)) ||| place 128 99 (BitVec.ofNat 5 (sizes.getD 1 0)) |||
  place 128 104 (BitVec.ofNat 5 (sizes.getD 2 0)) ||| place 128 109 (BitVec.ofNat 5 (sizes.getD 3 0))

/-- A Retired descriptor with the common fields of `d`. -/
def mkRetired (d : BitVec 128) (old new copied hot stamp : Nat) : BitVec 128 :=
  dCommon d .retired ||| place 128 32 (BitVec.ofNat 8 hot) ||| place 128 40 (BitVec.ofNat 8 stamp) |||
  place 128 48 (BitVec.ofNat 31 old) ||| place 128 79 (BitVec.ofNat 31 new) ||| place 128 110 (BitVec.ofNat 7 copied)

/-- A Poisoned or Orphaned descriptor with the common fields of `d`. -/
def mkMasked (d : BitVec 128) (st : PageSt) (berth : Option Nat) (mask : BitVec 64) : BitVec 128 :=
  dCommon d st ||| place 128 64 mask ||| place 128 63 (bit1 berth.isSome) |||
  place 128 32 (BitVec.ofNat 31 (berth.getD 0))

/-- BALE_SIZE values of a Warm descriptor. -/
def dSizesW (d : BitVec 128) : List Nat := (List.range 4).map (dBaleW d)
/-- BALE_SIZE values of a Cold descriptor. -/
def dSizesC (d : BitVec 128) : List Nat := (List.range 4).map (dBaleC d)

/-- R46: a BALE_SIZE of 0 or of 18 to 31 is reserved. -/
def sizesOk (l : List Nat) : Bool := l.all (fun n => 1 ≤ n && n ≤ 17)

/-- R45, R46: a reserved STATE, or a Warm or Cold descriptor with a reserved BALE_SIZE. -/
def dReserved (d : BitVec 128) : Bool :=
  match dStateRaw d with
  | none => true
  | some .warm => !sizesOk (dSizesW d)
  | some .cold => !sizesOk (dSizesC d)
  | some _ => false

/-- The state of a descriptor as every access but QUERY_TIER's storing sees it: a reserved encoding is Poisoned
with every LINE_MASK bit set and no berth (R45). -/
def dView (d : BitVec 128) : BitVec 128 :=
  if dReserved d then mkMasked d .poisoned none (BitVec.allOnes 64) else d

/-- STATE of a descriptor under R45. -/
def dState (d : BitVec 128) : PageSt := (dStateRaw (dView d)).getD .poisoned

/-! ## Directory entries (Table 6.2) -/

/-- DSTATE codes of Table 6.2: 0 Free, 1 Shared, 2 Owned, 3 Broadcast. -/
def eState (e : BitVec 128) : Nat := fieldNat e 44 42
def ePcount (e : BitVec 128) : Nat := fieldNat e 47 45
def eFidx (e : BitVec 128) : Nat := fieldNat e 49 48
def eFvalid (e : BitVec 128) : Bool := e.getLsbD 50
def eAny (e : BitVec 128) : Bool := e.getLsbD 39
def eLine (e : BitVec 128) : Line := e.extractLsb' 0 39
/-- Pointer i of an entry. -/
def ePtr (e : BitVec 128) (i : Nat) : Node := e.extractLsb' (60 + 17 * i) 17
/-- The nodes that an entry's valid pointers name, PTR0 upward. -/
def ePtrs (e : BitVec 128) : List Node := (List.range (min (ePcount e) 4)).map (ePtr e)

/-- A Shared entry: its pointers and the F holder, if any. -/
def mkShared (line : Line) (ptrs : List Node) (f : Option Node) : BitVec 128 :=
  let idx := (f.bind (fun n => ptrs.findIdx? (· == n))).getD 0
  line.setWidth 128 ||| place 128 42 (1 : BitVec 3) ||| place 128 45 (BitVec.ofNat 3 ptrs.length) |||
  place 128 48 (BitVec.ofNat 2 idx) ||| place 128 50 (bit1 f.isSome) ||| place 128 60 (ptrs.getD 0 0) |||
  place 128 77 (ptrs.getD 1 0) ||| place 128 94 (ptrs.getD 2 0) ||| place 128 111 (ptrs.getD 3 0)

/-- An Owned entry. -/
def mkOwned (line : Line) (n : Node) : BitVec 128 :=
  line.setWidth 128 ||| place 128 42 (2 : BitVec 3) ||| place 128 45 (1 : BitVec 3) ||| place 128 60 n

/-- A Broadcast entry. -/
def mkBroadcast (line : Line) : BitVec 128 := line.setWidth 128 ||| place 128 42 (3 : BitVec 3)

/-- R169: a Broadcast entry with ANY. -/
def mkAny : BitVec 128 := place 128 39 (1 : BitVec 1) ||| place 128 42 (3 : BitVec 3)

/-- R169: a reserved DSTATE, or a PCOUNT outside its range. -/
def eBad (e : BitVec 128) : Bool :=
  match eState e with
  | 0 => false
  | 1 => ePcount e == 0 || 4 < ePcount e
  | 2 => ePcount e != 1
  | 3 => ePcount e != 0
  | _ => true

/-- Entry i of a directory set line. -/
def setEntry (s : BitVec 512) (i : Nat) : BitVec 128 := s.extractLsb' (128 * i) 128

/-- The node at F_IDX of a Shared entry that has an F holder. -/
def eFholder (e : BitVec 128) : Option Node := if eState e = 1 && eFvalid e then some (ePtr e (eFidx e)) else none

/-- R167: the set index at 2^m sets: the XOR of successive m-bit groups of LA[38:4]. -/
def dirSet (m : Nat) (la : Line) : Nat :=
  (List.range 35).foldl (fun acc i => if m * i < 35 then acc ^^^ (la.toNat / 2 ^ (4 + m * i) % 2 ^ m) else acc) 0

/-! ## Counter blocks (Table 4.3) -/

def cMajor (c : BitVec 512) : BitVec 64 := c.extractLsb' 0 64
def cMinor (c : BitVec 512) (i : Nat) : BitVec 7 := c.extractLsb' (64 + 7 * i) 7
/-- A block with MAJOR and all minors 0 (R105). -/
def mkCtr (major : BitVec 64) : BitVec 512 := major.setWidth 512

/-! ## Key context table entries (Table 4.1) -/

def kState (e : BitVec 512) : Nat := fieldNat e 322 320
def kSrc (e : BitVec 512) : Bool := e.getLsbD 323
def kDst (e : BitVec 512) : Bool := e.getLsbD 324
def kPages (e : BitVec 512) : Nat := fieldNat e 361 328
def kWrapped (e : BitVec 512) : BitVec 320 := e.extractLsb' 0 320

/-! ## Frame map entries (Table 2.5) and run indexes (R68) -/

def fUse (e : BitVec 64) : Nat := fieldNat e 2 0
def fPage (e : BitVec 64) : Nat := fieldNat e 36 4
def fFill (e : BitVec 64) : Nat := fieldNat e 42 37
def fLive (e : BitVec 64) : Nat := fieldNat e 48 43
def fRuns (e : BitVec 64) : Nat := fieldNat e 52 49
/-- A berth's entry. -/
def mkBerthFrame (page : Nat) : BitVec 64 := 1 ||| place 64 4 (BitVec.ofNat 33 page)
/-- A granule frame's entry. -/
def mkGranFrame (fill live runs : Nat) : BitVec 64 :=
  2 ||| place 64 37 (BitVec.ofNat 6 fill) ||| place 64 43 (BitVec.ofNat 6 live) ||| place 64 49 (BitVec.ofNat 4 runs)
/-- Record i of a run index: its start granule and page when valid. -/
def runRec (x : BitVec 512) (i : Nat) : Option (Nat × Nat) :=
  if x.getLsbD (40 * i + 39) then some (fieldNat x (40 * i + 38) (40 * i + 33), fieldNat x (40 * i + 32) (40 * i)) else none
/-- A run index with record i written. -/
def setRun (x : BitVec 512) (i : Nat) (r : Option (Nat × Nat)) : BitVec 512 :=
  setField x (40 * i) (match r with
    | none => (0 : BitVec 40)
    | some (start, page) => place 40 39 (1 : BitVec 1) ||| place 40 33 (BitVec.ofNat 6 start) ||| (BitVec.ofNat 40 page &&& 0x1FFFFFFFF))

/-! ## Endpoints (R319) and log entries (Table 16.3) -/

/-- Endpoint ID of local port `lp` of router (x, y) on a die. -/
def endpoint (die x y lp : Nat) : BitVec 10 := BitVec.ofNat 10 (die * 512 + y * 64 + x * 8 + lp)
/-- Endpoint of channel controller c. -/
def epDch (c : Nat) : BitVec 10 := endpoint (c / 8) (c % 8) 0 1
/-- Lowest endpoint of Quay bank b. -/
def epQb (b : Nat) : BitVec 10 :=
  let i := b % 8
  if i < 4 then endpoint (b / 8) (2 * i + 1) 2 4 else endpoint (b / 8) (2 * (i - 4)) 3 4
/-- Lowest endpoint of AFL port p. -/
def epAfl (p : Nat) : BitVec 10 := endpoint (p / 2) 0 (2 + 2 * (p % 2)) 1
/-- Endpoint of root port p. -/
def epPe (p : Nat) : BitVec 10 := endpoint p 7 4 1
/-- Endpoint of MGT0, for the functions that R444 lists. -/
def epMgt0 : BitVec 10 := 0x079
/-- Endpoint of AON. -/
def epAon : BitVec 10 := 0x041
/-- SOURCE of the PPD. -/
def epPpd : BitVec 10 := 0x3FF
/-- Endpoint of a cargo tile: tile t is router t of its die, in slice order (R18, R319). -/
def epTile (t : Nat) : BitVec 10 := endpoint (t / 48) (t % 48 % 8) (t % 48 / 8) 0

/-- What a log entry says, before SEQ and TIDE. -/
structure LogRec where
  /-- CAUSE. -/
  cause : BitVec 8
  /-- SOURCE. -/
  src : BitVec 10 := 0x079
  /-- CLASS, when it is not the default class of the cause (R442). -/
  cls : Option (BitVec 2) := none
  /-- ADDR_KIND. -/
  kind : BitVec 4 := 0
  /-- ADDR. -/
  addr : Nat := 0
  /-- NODE. -/
  node : Node := 0
  /-- TAG. -/
  tag : Tag := 0
  /-- KEY_ID. -/
  key : BitVec 20 := 0
  /-- LOC. -/
  loc : BitVec 43 := 0
  /-- ARG0 upward (R444). -/
  args : List Nat := []
  deriving DecidableEq, Repr

/-- R442, Table 16.1: the default class of a cause; the highest class for 0x07, 0x13 and 0x51. -/
def causeClass (c : BitVec 8) : BitVec 2 :=
  let n := c.toNat
  if n ∈ [0x0A, 0x10, 0x11, 0x15, 0x31, 0x32, 0x40, 0x42, 0x47, 0x53, 0x63, 0x68, 0x69, 0x73, 0x75, 0x76] then 0
  else if n ∈ [0x03, 0x04, 0x05, 0x0B, 0x0C, 0x14, 0x18, 0x19, 0x21, 0x22, 0x30, 0x41, 0x43, 0x46, 0x59, 0x5A, 0x60,
    0x62, 0x64, 0x6A, 0x6B, 0x6D, 0x70, 0x74, 0x7D] then 1
  else if n ∈ [0x16, 0x50, 0x61, 0x6E, 0x77, 0x7A, 0x13, 0x51] then 3
  else 2

/-- A cause that the spec defines (R443: 0x00, 0x0D to 0x0F, 0x7F and above are never written). -/
def causeImpl (n : Nat) : Bool :=
  n ∈ [0x01, 0x02, 0x03, 0x04, 0x05, 0x06, 0x07, 0x08, 0x09, 0x0A, 0x0B, 0x0C, 0x10, 0x11, 0x12, 0x13, 0x14, 0x15, 0x16,
    0x17, 0x18, 0x19, 0x20, 0x21, 0x22, 0x30, 0x31, 0x32, 0x40, 0x41, 0x42, 0x43, 0x44, 0x45, 0x46, 0x47, 0x50, 0x51, 0x52,
    0x53, 0x58, 0x59, 0x5A, 0x60, 0x61, 0x62, 0x63, 0x64, 0x65, 0x66, 0x67, 0x68, 0x69, 0x6A, 0x6B, 0x6C, 0x6D, 0x6E, 0x6F,
    0x70, 0x71, 0x72, 0x73, 0x74, 0x75, 0x76, 0x77, 0x78, 0x79, 0x7A, 0x7B, 0x7C, 0x7D, 0x7E]

/-- The ARG words of an entry at [511:320]. -/
def logArgs : Nat → List Nat → BitVec 512
  | _, [] => 0
  | i, a :: r => (if i < 6 then place 512 (320 + 32 * i) (BitVec.ofNat 32 a) else 0) ||| logArgs (i + 1) r

/-- A log entry with SEQ 0 (Table 16.3). -/
def logEntry (r : LogRec) (tide : BitVec 64) : BitVec 512 :=
  place 512 0 r.cause ||| place 512 8 (r.cls.getD (causeClass r.cause)) ||| place 512 10 (1 : BitVec 1) |||
  place 512 12 r.kind ||| place 512 16 r.src ||| place 512 64 tide ||| place 512 128 (BitVec.ofNat 64 r.addr) |||
  place 512 192 r.node ||| place 512 209 r.tag ||| place 512 224 r.key ||| place 512 256 r.loc ||| logArgs 0 r.args

/-- LOC of R444: channel, subchannel, rank, CID, bank group, bank, row, COL line, DEVICE. -/
def mkLoc (ch : Nat) (sub : Nat) (rank cid bg ba row col dev : Nat) : BitVec 43 :=
  BitVec.ofNat 43 (ch % 16 + sub % 2 * 2 ^ 4 + rank % 4 * 2 ^ 5 + cid % 8 * 2 ^ 7 + bg % 8 * 2 ^ 10 + ba % 4 * 2 ^ 13 +
    row % 2 ^ 17 * 2 ^ 15 + col % 128 * 2 ^ 32 + dev % 16 * 2 ^ 39)

/-- The two ARG words of a value wider than 32 bits, low word first (R444). -/
def wide (x : Nat) : List Nat := [x % 2 ^ 32, x / 2 ^ 32 % 2 ^ 32]

/-! ## DRAM address map (R132 to R134) -/

/-- A channel set: its channel list, granularity and frame count. -/
structure ChanSet where
  /-- Channels, in list order. -/
  chans : List Nat := []
  /-- w. -/
  w : Nat := 0
  /-- CH_GRAN_LOG2. -/
  gran : Nat := 2
  /-- Frames of the set. -/
  frames : Nat := 0
  deriving DecidableEq, Repr

/-- A CHANNEL_SET record (Table 13.4), with the frame count that the trained capacity of its channels gives. -/
def parseChanSet (gibOf : Nat → Nat) (r : BitVec 128) : ChanSet :=
  let w := fieldNat r 12 10
  let l := (List.range (2 ^ w)).map (fun k => fieldNat r (19 + 4 * k) (16 + 4 * k))
  { chans := l, w := w, gran := fieldNat r 15 13, frames := 2 ^ w * gibOf (l.getD 0 0) * 2 ^ 18 }

/-- The channel set and the offset in lines that a DRAM line address lies in; none beyond the last set. -/
def findSet : List ChanSet → Nat → Option (ChanSet × Nat)
  | [], _ => none
  | c :: r, a => if a < c.frames * 64 then some (c, a) else findSet r (a - c.frames * 64)

/-- Where a line lies: channel and channel line address (R132). -/
def chanOf (sets : List ChanSet) (a : Nat) : Option (Nat × Nat) :=
  (findSet sets a).map (fun (c, o) =>
    (c.chans.getD (o / 2 ^ c.gran % 2 ^ c.w) 0, o % 2 ^ c.gran + o / 2 ^ (c.gran + c.w) * 2 ^ c.gran))

/-- The fields of a channel line address (Table 5.3) after the XOR of R134. -/
structure Coord where
  /-- Channel. -/
  ch : Nat := 0
  /-- Subchannel. -/
  sub : Nat := 0
  /-- Line within the row. -/
  col : Nat := 0
  /-- Bank group. -/
  bg : Nat := 0
  /-- Bank. -/
  ba : Nat := 0
  /-- Rank. -/
  rank : Nat := 0
  /-- 3DS die. -/
  cid : Nat := 0
  /-- Row. -/
  row : Nat := 0
  deriving DecidableEq, Repr

/-- Parity of a number's bits. -/
def parityNat (n : Nat) : Nat := (List.range 40).foldl (fun acc i => (acc + n / 2 ^ i) % 2) 0

/-- R133, R134: the coordinates of channel line address `a` under the six ROW_MASK values. -/
def coordOf (ch rankBits cidBits : Nat) (mask : Nat → BitVec 17) (a : Nat) : Coord :=
  let row := a / 2 ^ (13 + rankBits + cidBits)
  let x (i : Nat) : Nat := parityNat ((mask i).toNat &&& row)
  { ch := ch, sub := (a % 2 + x 0) % 2, col := a / 2 % 128,
    bg := (a / 256 % 2 + x 1) % 2 + 2 * ((a / 512 % 2 + x 2) % 2) + 4 * ((a / 1024 % 2 + x 3) % 2),
    ba := (a / 2048 % 2 + x 4) % 2 + 2 * ((a / 4096 % 2 + x 5) % 2),
    rank := a / 2 ^ 13 % 2 ^ rankBits, cid := a / 2 ^ (13 + rankBits) % 2 ^ cidBits, row := row }

/-- The bank code of a coordinate: bits [14:0] of LOC (R444). -/
def bankCode (c : Coord) : Nat := fieldNat (mkLoc c.ch c.sub c.rank c.cid c.bg c.ba 0 0 0) 14 0

end Sys2Proof.Machine
end

