-- ==== Sys2Proof/Machine/Bale.lean ====
section
/-! DEFINITION. The bale format (03_bale_format.md, R74 to R84): the header, the single-line decode and the
device's own encoder. A bale is a list of granules (512-bit values), header first. -/

namespace Sys2Proof.Machine

/-! ## Header (Table 3.1) -/

def bZero (h : BitVec 512) (i : Nat) : Bool := h.getLsbD i
def bPoison (h : BitVec 512) (i : Nat) : Bool := h.getLsbD (16 + i)
def bFormat (h : BitVec 512) : Nat := fieldNat h 35 32
def bDictCount (h : BitVec 512) : Nat := fieldNat h 39 36
def bSize (h : BitVec 512) : Nat := fieldNat h 44 40
def bDict (h : BitVec 512) (k : Nat) : BitVec 32 := h.extractLsb' (48 + 32 * k) 32
def bEnd (h : BitVec 512) (i : Nat) : Nat := fieldNat h (314 + 11 * i) (304 + 11 * i)
/-- START[i] (R76). -/
def bStart (h : BitVec 512) (i : Nat) : Nat := if i = 0 then 0 else bEnd h (i - 1)

/-- H1 to H6 of Table 3.5; `size` is the BALE_SIZE of the descriptor or the ledger record. -/
def baleHeaderOk (h : BitVec 512) (size : Nat) : Bool :=
  bFormat h = 1 && bDictCount h ≤ 8 && (List.range 8).all (fun k => k < bDictCount h || bDict h k = 0) &&
  1 ≤ bSize h && bSize h ≤ 17 && bSize h = size &&
  fieldNat h 47 45 = 0 && fieldNat h 511 480 = 0 &&
  (List.range 16).all (fun i => bStart h i ≤ bEnd h i) && bEnd h 15 ≤ 1024 && 1 + (bEnd h 15 + 63) / 64 = size &&
  (List.range 16).all (fun i => !(bZero h i && bPoison h i))

/-- What a single-line decode gives (R80, R82). -/
inductive LineOut where
  /-- The 64 bytes of the line. -/
  | ok (x : BitVec 512)
  /-- A line held as poisoned, with its bytes (R79). -/
  | poisoned (x : BitVec 512)
  /-- A decode failure (R81). -/
  | fail
  deriving DecidableEq, Repr

/-- L1 of Table 3.5: the record's length agrees with the map bits. -/
def baleLenOk (h : BitVec 512) (i len : Nat) : Bool :=
  if bZero h i then len = 0
  else if bPoison h i then len = 64
  else 7 ≤ len && len ≤ 64

/-- A payload of `n` bytes, sign-extended to 32 bits (R78). -/
def sext32 (n : Nat) (l : List Byte) : BitVec 32 :=
  match n with
  | 1 => (wordOf 8 l).signExtend 32
  | 2 => (wordOf 16 l).signExtend 32
  | _ => (wordOf 24 l).signExtend 32

/-- R78: the words of a coded record from word `w` on. `out` holds the bytes produced so far, `p` the payload left. -/
def decodeWords (h : BitVec 512) (base : Nat) (tags : BitVec 48) : Nat → Nat → List Byte → List Byte → Option (List Byte)
  | 0, _, p, out => if p = [] then some out else none
  | n + 1, w, p, out =>
    let put (word : BitVec 32) (k : Nat) : Option (List Byte) :=
      if p.length < k then none else decodeWords h base tags n (w + 1) (p.drop k) (out ++ bytesOf word 4)
    match fieldNat tags (3 * w + 2) (3 * w) with
    | 0 => put 0 0
    | 1 => if w = 0 then none else put (wordOf 32 (out.drop (4 * w - 4))) 0
    | 2 => if bDictCount h = 0 then none else put (bDict h base + sext32 1 (p.take 1)) 1
    | 3 => if bDictCount h = 0 then none else put (bDict h base + sext32 2 (p.take 2)) 2
    | 4 => if bDictCount h = 0 then none else put (bDict h base + sext32 3 (p.take 3)) 3
    | 5 =>
      let s := (p.getD 0 0).toNat
      if 64 ≤ s || 4 * w < s + 4 then none else put (wordOf 32 ((out.drop s).take 4)) 1
    | 6 => put (wordOf 32 (p.take 4)) 4
    | _ => none

/-- R77, R80 L2: a coded record. -/
def decodeRecord (h : BitVec 512) (rcd : List Byte) : Option (BitVec 512) :=
  let hd := (rcd.getD 0 0).toNat
  let base := hd % 8
  if 8 ≤ hd || (1 ≤ bDictCount h && bDictCount h ≤ base) || (bDictCount h = 0 && base != 0) then none
  else (decodeWords h base (wordOf 48 ((rcd.drop 1).take 6)) 16 0 (rcd.drop 7) []).map (wordOf 512)

/-- R82: the body granules, by number within the bale, that the record of line i needs. -/
def recordGranules (h : BitVec 512) (i : Nat) : List Nat :=
  let s := bStart h i; let e := bEnd h i
  if bZero h i || bPoison h i || e ≤ s then []
  else if s / 64 = (e - 1) / 64 then [1 + s / 64] else [1 + s / 64, 1 + (e - 1) / 64]

/-- R80: the line i of a bale whose header has passed. -/
def decodeLine (bale : List (BitVec 512)) (i : Nat) : LineOut :=
  let h := bale.getD 0 0
  let s := bStart h i; let len := bEnd h i - s
  if !baleLenOk h i len then .fail
  else if bZero h i then .ok 0
  else
    let rcd := (((bale.drop 1).drop (s / 64)).take 3).flatMap (fun g => bytesOf g 64)
    let rcd := (rcd.drop (s % 64)).take len
    if bPoison h i then .poisoned (wordOf 512 rcd)
    else if len = 64 then .ok (wordOf 512 rcd)
    else match decodeRecord h rcd with
      | some x => .ok x
      | none => .fail

/-- decode_bale (R82): the sixteen lines, none on a failure. -/
def decodeBale (bale : List (BitVec 512)) (size : Nat) : Option (List (BitVec 512 × Bool)) :=
  if !baleHeaderOk (bale.getD 0 0) size then none
  else (List.range 16).mapM (fun i => match decodeLine bale i with
    | .ok x => some (x, false)
    | .poisoned x => some (x, true)
    | .fail => none)

/-- The four bales of a run of granules (R46). -/
def splitRun : List Nat → List (BitVec 512) → List (List (BitVec 512))
  | [], _ => []
  | n :: r, g => g.take n :: splitRun r (g.drop n)

/-- A page of 64 lines from its run of granules; none on a decode failure. -/
def decodePage (sizes : List Nat) (g : List (BitVec 512)) : Option (List (BitVec 512 × Bool)) :=
  ((sizes.zip (splitRun sizes g)).mapM (fun p => decodeBale p.2 p.1)).map List.flatten

/-! ## The encoder (R83, R84) -/

/-- Word w of a line. -/
def lineWord (x : BitVec 512) (w : Nat) : BitVec 32 := x.extractLsb' (32 * w) 32

/-- The lowest-numbered non-zero word of a line. -/
def firstWord (x : BitVec 512) : BitVec 32 := (((List.range 16).map (lineWord x)).find? (· != 0)).getD 0

/-- build_dictionary of R84. -/
def buildDict : List (BitVec 512 × Bool) → List (BitVec 32) → List (BitVec 32)
  | [], d => d
  | (x, poisoned) :: r, d =>
    let c := firstWord x
    if poisoned || x = 0 || 8 ≤ d.length || d.any (fun b => let k := (c - b).toInt; -32768 ≤ k && k ≤ 32767)
    then buildDict r d else buildDict r (d ++ [c])

/-- The lowest byte offset s of the line, s + 4 ≤ 4w, whose four bytes equal v. -/
def backref (x : BitVec 512) (w : Nat) (v : BitVec 32) : Option Nat :=
  (List.range (4 * w - 3)).find? (fun s => x.extractLsb' (8 * s) 32 = v)

/-- The tag and the payload of word w under dictionary base b (code_line of R84). -/
def codeWord (x : BitVec 512) (b : Option (BitVec 32)) (w : Nat) : BitVec 3 × List Byte :=
  let v := lineWord x w
  let d := b.map (fun c => (v - c).toInt)
  let fits (lo hi : Int) : Bool := match d with | some k => lo ≤ k && k ≤ hi | none => false
  let pay (n : Nat) : List Byte := match b with | some c => bytesOf (v - c) n | none => []
  if v = 0 then (0, [])
  else if w != 0 && v = lineWord x (w - 1) then (1, [])
  else if fits (-128) 127 then (2, pay 1)
  else match (if w = 0 then none else backref x w v) with
    | some s => (5, [BitVec.ofNat 8 s])
    | none =>
      if fits (-32768) 32767 then (3, pay 2)
      else if fits (-8388608) 8388607 then (4, pay 3)
      else (6, bytesOf v 4)

/-- code_line of R84: LINE_HDR, tags and payloads. -/
def codeLine (x : BitVec 512) (dict : List (BitVec 32)) (b : Nat) : List Byte :=
  let ws := (List.range 16).map (codeWord x dict[b]?)
  let tags : BitVec 48 := (ws.zipIdx).foldl (fun acc p => acc ||| place 48 (3 * p.2) p.1.1) 0
  BitVec.ofNat 8 b :: bytesOf tags 6 ++ ws.flatMap Prod.snd

/-- best_record of R84: ties keep the lower index. -/
def bestRecord (x : BitVec 512) (dict : List (BitVec 32)) : List Byte :=
  (List.range (max dict.length 1 - 1)).foldl (fun best k =>
    let r := codeLine x dict (k + 1)
    if r.length < best.length then r else best) (codeLine x dict 0)

/-- The body and the END table of a bale. -/
def encodeBody (dict : List (BitVec 32)) : List (BitVec 512 × Bool) → List Byte → List Nat → List Byte × List Nat
  | [], body, ends => (body, ends)
  | (x, poisoned) :: r, body, ends =>
    let rcd := if poisoned then bytesOf x 64 else if x = 0 then [] else
      let c := bestRecord x dict
      if 64 ≤ c.length then bytesOf x 64 else c
    let body := body ++ rcd
    encodeBody dict r body (ends ++ [body.length])

/-- The header granule (Table 3.1). -/
def baleHeader (lines : List (BitVec 512 × Bool)) (dict : List (BitVec 32)) (size : Nat) (ends : List Nat) : BitVec 512 :=
  let maps : BitVec 512 := (lines.zipIdx).foldl (fun acc p =>
    acc ||| place 512 p.2 (bit1 (!p.1.2 && p.1.1 = 0)) ||| place 512 (16 + p.2) (bit1 p.1.2)) 0
  let ds : BitVec 512 := (dict.zipIdx).foldl (fun acc p => acc ||| place 512 (48 + 32 * p.2) p.1) 0
  let es : BitVec 512 := (ends.zipIdx).foldl (fun acc p => acc ||| place 512 (304 + 11 * p.2) (BitVec.ofNat 11 p.1)) 0
  maps ||| ds ||| es ||| place 512 32 (1 : BitVec 4) ||| place 512 36 (BitVec.ofNat 4 dict.length) |||
  place 512 40 (BitVec.ofNat 5 size)

/-- The granules of a byte string, padded with zero. -/
def granulesOf : Nat → List Byte → List (BitVec 512)
  | 0, _ => []
  | n + 1, l => wordOf 512 (l.take 64) :: granulesOf n (l.drop 64)

/-- encode_bale of R84: the granules of sixteen lines with their poison marks. -/
def encodeBale (lines : List (BitVec 512 × Bool)) : List (BitVec 512) :=
  let dict := buildDict lines []
  let (body, ends) := encodeBody dict lines [] []
  let n := (body.length + 63) / 64
  baleHeader lines dict (1 + n) ends :: granulesOf n body

/-- The four bales of a page of 64 lines. -/
def encodePage (lines : List (BitVec 512 × Bool)) : List (List (BitVec 512)) :=
  (List.range 4).map (fun b => encodeBale ((lines.drop (16 * b)).take 16))

end Sys2Proof.Machine
end

