-- ==== Sys2Proof/Machine/Ops.lean ====
section
/-! DEFINITION. The named operations that every meaning uses: sparse maps, the parts of the state by number, the
effective configuration, the error log, the event counters, Persistence Assured, the egress of packets and the
change of mode. -/

namespace Sys2Proof.Machine

/-! ## Sparse maps -/

/-- The entry of key `k`, `d` when it is not listed. -/
def sget {α : Type} (d : α) : SMap α → Nat → α
  | [], _ => d
  | (j, v) :: r, k => if j = k then v else sget d r k

/-- Remove the entry of key `k`. -/
def sdel {α : Type} : SMap α → Nat → SMap α
  | [], _ => []
  | (j, v) :: r, k => if j = k then sdel r k else (j, v) :: sdel r k

/-- Place an entry before the first greater key. -/
def sins {α : Type} (k : Nat) (v : α) : SMap α → SMap α
  | [] => [(k, v)]
  | (j, w) :: r => if k < j then (k, v) :: (j, w) :: r else (j, w) :: sins k v r

/-- Write entry `k`; a default value removes the entry. -/
def sset {α : Type} [DecidableEq α] (d : α) (m : SMap α) (k : Nat) (v : α) : SMap α :=
  if v = d then sdel m k else sins k v (sdel m k)

/-- Change entry `k`. -/
def smod {α : Type} [DecidableEq α] (d : α) (m : SMap α) (k : Nat) (f : α → α) : SMap α := sset d m k (f (sget d m k))

/-- The canonical form: rising keys, no entry equal to the default. -/
def swf {α : Type} [DecidableEq α] (d : α) : SMap α → Bool
  | [] => true
  | [(_, v)] => v ≠ d
  | (j, v) :: (k, w) :: r => v ≠ d && decide (j < k) && swf d ((k, w) :: r)

/-- The canonical form of DRAM (an unlisted byte reads 0, log entry 4). -/
def Memory.wf (m : List Host.Cell) : Bool := swf (0 : Byte) m

/-! ## Parts of the state by number -/

def portOf (s : State) (p : Nat) : Port := sget {} s.port p
def setPort (p : Nat) (v : Port) (s : State) : State := { s with port := sset {} s.port p v }
def modPort (p : Nat) (f : Port → Port) (s : State) : State := setPort p (f (portOf s p)) s
def chan (s : State) (c : Nat) : Channel := sget {} s.dram.ch c
def setChan (c : Nat) (v : Channel) (s : State) : State := { s with dram.ch := sset {} s.dram.ch c v }
def modChan (c : Nat) (f : Channel → Channel) (s : State) : State := setChan c (f (chan s c)) s
def pch (s : State) (n : Nat) : PChan := sget {} s.ppd.ch n
def setPch (n : Nat) (v : PChan) (s : State) : State := { s with ppd.ch := sset {} s.ppd.ch n v }
def modPch (n : Nat) (f : PChan → PChan) (s : State) : State := setPch n (f (pch s n)) s
def domOf (s : State) (n : Nat) : Domain := sget {} s.noc.dom n
def setDom (n : Nat) (v : Domain) (s : State) : State := { s with noc.dom := sset {} s.noc.dom n v }
def modDom (n : Nat) (f : Domain → Domain) (s : State) : State := setDom n (f (domOf s n)) s
def grpOf (s : State) (g : Nat) : Group := sget {} s.noc.grp g
def setGrp (g : Nat) (v : Group) (s : State) : State := { s with noc.grp := sset {} s.noc.grp g v }
def modGrp (g : Nat) (f : Group → Group) (s : State) : State := setGrp g (f (grpOf s g)) s
def ssdOf (s : State) (i : Nat) : Ssd := sget {} s.led.ssd i
def setSsd (i : Nat) (v : Ssd) (s : State) : State := { s with led.ssd := sset {} s.led.ssd i v }
def modSsd (i : Nat) (f : Ssd → Ssd) (s : State) : State := setSsd i (f (ssdOf s i)) s

/-- Draw a free value (log entry 5). -/
def draw (w : Nat) (s : State) : BitVec w × State := (Config.freeValue w s.free, { s with free := s.free + 1 })

/-- The tick of the tide counter: 16 ns (R16). -/
def tick (s : State) : Nat := s.time.tide.toNat / 16

/-! ## Variant resources (Table 0.1) -/

def numBanks (s : State) : Nat := if s.fuse.variantH then 8 else 16
def numChans (s : State) : Nat := if s.fuse.variantH then 8 else 16
def numPorts (s : State) : Nat := if s.fuse.variantH then 2 else 4
def numDies (s : State) : Nat := if s.fuse.variantH then 1 else 2
def numTiles (s : State) : Nat := if s.fuse.variantH then 48 else 96
def numSlots (s : State) : Nat := if s.fuse.variantH then 16 else 32
def numBays (s : State) : Nat := if s.fuse.variantH then 8 else 16

/-- A domain exists in the variant (Table 13.5). -/
def domExists (s : State) (n : Nat) : Bool :=
  if n < 96 then n < numTiles s else if n < 112 then n - 96 < numChans s else if n < 128 then n - 112 < numChans s
  else if n < 144 then n - 128 < numBanks s else if n < 148 then n - 144 < numPorts s else if n < 150 then n - 148 < numDies s
  else n - 150 < numDies s

/-- VDD_CORE (R397, R479): 0.68 V in Walk while every tile, Quay bank and channel domain is asleep, else the operating point. -/
def coreSupply (s : State) : State :=
  let low := s.aon.gait = 3 && (List.range 144).all (fun n => !domExists s n || (domOf s n).st = .asleep)
  if s.aon.vddPoint = 0 then s else { s with aon.vddMv := if low then 680 else s.aon.vddPoint }

/-! ## The effective configuration (R361 to R367) -/

/-- The records of a section. -/
def sectionRecs (s : State) (ty : Nat) : List (BitVec 128) := sget [] s.cfg ty

/-- The records of a section after its positional part: record 256 of REINS, the end of the route records (R361, R364). -/
def typedRecs (s : State) (ty : Nat) : List (BitVec 128) :=
  let l := sectionRecs s ty
  if ty = 4 then l.drop 256 else if ty = 5 then l.drop (if s.fuse.variantH then 144 else 288) else l

/-- The records of one record type (Table 13.4). -/
def recsOf (s : State) (ty rt : Nat) : List (BitVec 128) := (typedRecs s ty).filter (fun r => fieldNat r 7 0 = rt)

/-- The section that carries a parameter of a parameter table (R361, R363, Table 13.6). -/
def paramSection (table index : Nat) : Nat :=
  match table with
  | 0x02 => 0x03
  | 0x05 => 0x02
  | 0x06 | 0x09 => 0x01
  | 0x07 => 0x09
  | 0x08 => 0x04
  | 0x0B => 0x05
  | _ => if index = 2 || index = 4 then 0x02 else if index = 3 then 0x08 else 0x01

/-- The PARAM record of a parameter with exactly this INSTANCE (R363). -/
def paramRec (s : State) (table index inst : Nat) : Option (BitVec 128) :=
  (recsOf s (paramSection table index) 1).find? (fun r =>
    fieldNat r 15 8 = table && fieldNat r 23 16 = index && fieldNat r 31 24 = inst)

/-- The defaults of the parameter tables, in the units of R363. -/
def paramDefault (h : Bool) (table index : Nat) : Nat :=
  match table with
  | 0x02 => ([8, 16, 256000000, 16, 64, 4, 48, 800, 300, 50, 16, 16, 2500] : List Nat).getD index 0
  | 0x05 => ([160, 8, 32, 60, 1000, 2000, 32000000, 2, 0, 0, 16, 1000000000, 86400000000000, 1000, 90] : List Nat).getD index 0
  | 0x06 => ([if h then 2147483648 else 4294967296, 1, 1, 50000000] : List Nat).getD index 0
  | 0x07 => ([68719476736, 720000, 60000, 40000000, 8000, 8000, 0, 9000, 50000000, 1000000, 5000000, 16384, 4294967296,
      60000000000, 2500, 8, 1000000000, 0, 0] : List Nat).getD index 0
  | 0x08 => ([4096, 8000, 512] : List Nat).getD index 0
  | 0x09 => ([1, 2, 2, 4, 0, 0, 2000, 4000, 4, 3, 1024, 10000, 100000000] : List Nat).getD index 0
  | 0x0B => ([8, 4, 10000000] : List Nat).getD index 0
  | 0x0D => ([0, 1, 0, 0, 8800, 16, 0, 0] : List Nat).getD index 0
  | _ => 0

/-- A parameter: the record of the instance, else the record of all instances, else the default (R363). -/
def paramAt (s : State) (table index inst : Nat) : Nat :=
  match paramRec s table index inst with
  | some r => fieldNat r 127 64
  | none => match paramRec s table index 0xFF with
    | some r => fieldNat r 127 64
    | none => paramDefault s.fuse.variantH table index

/-- A parameter with no instance. -/
def param (s : State) (table index : Nat) : Nat := paramAt s table index 0xFF

/-- ROLE of a port's partner: 0 device, 1 adapter, 2 switch (Table 9.3). -/
def partnerRole (p : Port) : Nat := fieldNat p.partner 42 41
/-- NODE_ID of a port's partner. -/
def partnerNode (p : Port) : Node := p.partner.extractLsb' 24 17

/-- EVENT_TARGET and MGMT_ENABLE of a port: their default is 1 for an adapter partner (R313, R314, Table 13.6). -/
def portBit (s : State) (index p : Nat) : Bool :=
  match paramRec s 0x0D index p, paramRec s 0x0D index 0xFF with
  | some r, _ => fieldNat r 127 64 != 0
  | none, some r => fieldNat r 127 64 != 0
  | none, none => (portOf s p).partnerUp && partnerRole (portOf s p) = 1

def eventTarget (s : State) (p : Nat) : Bool := portBit s 6 p
def mgmtEnable (s : State) (p : Nat) : Bool := portBit s 7 p

/-- NODE_ID (Table 13.6). -/
def nodeId (s : State) : Node := BitVec.ofNat 17 (param s 0x0D 0)
/-- The device operates in Direct topology (R285). -/
def direct (s : State) : Bool := param s 0x0D 1 = 0
/-- LOGICAL_CAPACITY in bytes. -/
def capacity (s : State) : Nat := param s 0x0D 2
/-- Pages of the logical space. -/
def numPages (s : State) : Nat := capacity s / 4096

/-- The index positions of the interleave levels, ascending (R39, R40). -/
def indexBits (s : State) : List Nat :=
  let ps := (recsOf s 1 0x10).flatMap (fun r => levelBits (fieldNat r 12 10) (fieldNat r 17 13))
  (List.range 39).filter (fun i => ps.contains i)

/-- The home bank of a line (R23, R362). -/
def bankOf (s : State) (l : Line) : Nat :=
  let n := if s.fuse.variantH then 3 else 4
  let recs := recsOf s 2 0x24
  if recs.isEmpty then (List.range 13).foldl (fun acc i => acc ^^^ (l.toNat / 2 ^ (n * i) % 2 ^ n)) 0
  else (List.range n).foldl (fun acc j => acc + 2 ^ j *
    (match recs.find? (fun r => fieldNat r 11 8 = j) with
     | some r => parityNat (l.toNat &&& fieldNat r 50 12)
     | none => 0)) 0

/-- The page of a line. -/
def pageOf (l : Line) : Nat := l.toNat / 64
/-- Line 0 of a page. -/
def lineOf (page i : Nat) : Line := BitVec.ofNat 39 (page * 64 + i)
/-- The descriptor bank of a page (R42). -/
def descBank (s : State) (page : Nat) : Nat := bankOf s (lineOf page 0)

/-- The sharing domain of a line (R166, Table 13.4). -/
def domainOf (s : State) (l : Line) : Nat :=
  let g := l.toNat / 2 ^ 24
  match (recsOf s 1 0x12).find? (fun r => fieldNat r 23 8 ≤ g && g < fieldNat r 23 8 + fieldNat r 39 24) with
  | some r => fieldNat r 45 40
  | none => 0

/-- The members of a sharing domain. -/
def domainMembers (s : State) (d : Nat) : List Node :=
  ((recsOf s 1 0x11).filter (fun r => fieldNat r 13 8 = d)).map (fun r => r.extractLsb' 14 17)

/-- The sealed range of a page: KEY_ID and VERIFY_FIRST (R90). -/
def sealRange (s : State) (page : Nat) : Option (BitVec 20 × Bool) :=
  let g := page / 2 ^ 18
  ((recsOf s 8 0x30).find? (fun r => fieldNat r 23 8 ≤ g && g < fieldNat r 23 8 + fieldNat r 39 24)).map
    (fun r => (r.extractLsb' 40 20, r.getLsbD 60))

/-- The designated roles of R236: 0 MGMT, 1 SCRUB, 2 TIER, 3 RESTORE, 4 LEDGER. -/
def designated (s : State) (role : Nat) : Nat :=
  match (recsOf s 4 0x28).find? (fun r => fieldNat r 15 8 = role) with
  | some r => fieldNat r 23 16
  | none => 251 + role

/-- A class record of Table 8.2: shares, deadline, cap, exemption. -/
def mkClass (quay dram tile xfer dl cap : Nat) (exempt : Bool) : BitVec 128 :=
  place 128 11 (BitVec.ofNat 11 quay) ||| place 128 22 (BitVec.ofNat 11 dram) ||| place 128 33 (BitVec.ofNat 11 tile) |||
  place 128 44 (BitVec.ofNat 11 xfer) ||| place 128 55 (BitVec.ofNat 12 dl) ||| place 128 67 (BitVec.ofNat 13 cap) |||
  place 128 80 (bit1 exempt)

/-- The class record of a class (R235, Table 8.2). -/
def classRec (s : State) (c : Nat) : BitVec 128 :=
  match (sectionRecs s 4)[c]? with
  | some r => r
  | none => match c with
    | 0 => mkClass 832 640 448 0 0xFFF 4096 false
    | 251 => mkClass 0 0 0 0 0x03E 64 true
    | 252 => mkClass 0 16 16 0 0xFFF 64 true
    | 253 => mkClass 32 128 128 0 0xFFF 512 true
    | 254 => mkClass 96 160 352 768 0xFFF 1024 true
    | 255 => mkClass 64 80 80 256 0xFFF 1024 true
    | _ => mkClass 0 0 0 0 0xFFF 256 false

/-- OUT_CAP of a class. -/
def outCap (s : State) (c : Nat) : Nat := fieldNat (classRec s c) 79 67
/-- The share of a class of resource 0 QUAY, 1 DRAM, 2 TILE, 3 XFER. -/
def share (s : State) (c res : Nat) : Nat := fieldNat (classRec s c) (21 + 11 * res) (11 + 11 * res)

/-- The role of a tile: 0 decompressor, 1 compressor, 2 mover, 3 scrubber helper (R365). -/
def tileRole (s : State) (t : Nat) : Nat :=
  match (sectionRecs s 7)[t / 32]? with
  | some r => fieldNat r (4 * (t % 32) + 3) (4 * (t % 32))
  | none => let i := t % 48 % 12; if i ≤ 4 then 0 else if i ≤ 8 then 1 else 2

/-- The power group of a switchable domain (R366, Table 13.5). -/
def domGroup (s : State) (n : Nat) : Nat :=
  match (sectionRecs s 6)[n / 32]? with
  | some r => fieldNat r (4 * (n % 32) + 3) (4 * (n % 32))
  | none =>
    if n < 96 then n % 48 / 8 else if n < 128 then 8 else if n < 144 then 9 else if n < 148 then 10
    else if n < 150 then 11 else 15

/-- The REGION records (Table 13.7): code, first DFA, frames. -/
def regions (s : State) : List (Nat × Nat × Nat) :=
  (recsOf s 2 0x22).map (fun r => (fieldNat r 15 8, fieldNat r 46 16, fieldNat r 78 47))

/-- The region that holds a frame. -/
def regionOf (s : State) (dfa : Nat) : Option (Nat × Nat × Nat) :=
  (regions s).find? (fun r => r.2.1 ≤ dfa && dfa < r.2.1 + r.2.2)

/-- The channel sets, in ascending DFA order (R132), with the capacities of the trained DIMMs. -/
def chanSets (s : State) : List ChanSet :=
  ((List.range 4).filterMap (fun k => (recsOf s 2 0x20).find? (fun r => fieldNat r 9 8 = k))).map
    (parseChanSet (fun c => (chan s c).pop.gib))

/-- Frames of all channel sets. -/
def totalFrames (s : State) : Nat := ((chanSets s).map ChanSet.frames).foldl (· + ·) 0

/-- The ROW_MASK of an address bit of a channel (R134): its register. -/
def xmaskOf (s : State) (c i : Nat) : BitVec 17 := sget 0 (chan s c).xmap i

/-- The coordinates of a DRAM line address; none beyond the last set. -/
def coord (s : State) (addr : Nat) : Option Coord :=
  (chanOf (chanSets s) addr).map (fun (c, a) =>
    coordOf c (chan s c).pop.rankBits (chan s c).pop.cidBits (xmaskOf s c) a)

/-- LOC of a DRAM line address, with a device (R444). -/
def locOf (s : State) (addr : Nat) (dev : Nat) : BitVec 43 :=
  match coord s addr with
  | some c => mkLoc c.ch c.sub c.rank c.cid c.bg c.ba c.row c.col dev
  | none => mkLoc 0 0 0 0 0 0 0 0 dev

/-- The die of a frame (R67). -/
def dieOf (s : State) (dfa : Nat) : Nat :=
  match chanOf (chanSets s) (dfa * 64) with
  | some (c, _) => c / 8
  | none => 0

/-! ## Events (R448 to R451) -/

/-- An implemented event ID (Table 16.6, R448). -/
def eventImpl (h : Bool) (id : Nat) : Bool :=
  if id < 0x100 then causeImpl id || 0xFC ≤ id
  else if id < 0x500 then true
  else if id < 0x700 then (id - 0x500) / 32 < (if h then 8 else 16) && (id - 0x500) % 32 < 24
  else if id < 0x900 then (id - 0x700) / 32 < (if h then 8 else 16) && (id - 0x700) % 32 < 24
  else if id < 0x980 then (id - 0x900) / 32 < (if h then 2 else 4) && (id - 0x900) % 32 < 24
  else if id < 0x9A0 then (id - 0x980) / 16 < (if h then 1 else 2)
  else if id < 0x9C0 then (id - 0x9A0) / 16 < (if h then 1 else 2)
  else if id < 0xA26 then
    let n := (id - 0x9C0) / 2
    if h then n < 3 + 16 || (35 ≤ n && n < 43) else n < 51
  else if 0xD00 ≤ id && id < 0x1000 then (id - 0xD00) / 8 < (if h then 48 else 96)
  else false

/-- A sampler that runs counts the advances of the event it watches (R454). -/
def smpAdd (id n : Nat) (m : SMap Sampler) : SMap Sampler :=
  m.map (fun e => if e.2.cfg.getLsbD 31 && fieldNat e.2.cfg 11 0 = id then (e.1, { e.2 with count := e.2.count + n }) else e)

/-- Advance an event by `n`, saturating at 2^48 - 1 (R449). An event that is not implemented does not count. -/
def evAdd (id n : Nat) (s : State) : State :=
  if eventImpl s.fuse.variantH id then
    { s with ev.count := sset 0 s.ev.count id (BitVec.ofNat 48 (min ((sget 0 s.ev.count id).toNat + n) (2 ^ 48 - 1))),
             mgt.smp := smpAdd id n s.mgt.smp }
  else s

def evDch (c e : Nat) (s : State) : State := evAdd (0x500 + 32 * c + e) 1 s
def evQb (b e : Nat) (s : State) : State := evAdd (0x700 + 32 * b + e) 1 s
def evAfl (p e : Nat) (s : State) : State := evAdd (0x900 + 32 * p + e) 1 s
def evPe (p e : Nat) (s : State) : State := evAdd (0x980 + 16 * p + e) 1 s
def evMgt (m e : Nat) (s : State) : State := evAdd (0x9A0 + 16 * m + e) 1 s
def evPp (n e : Nat) (s : State) : State := evAdd (0x9C0 + 2 * n + e) 1 s
def evTile (t e n : Nat) (s : State) : State := evAdd (0xD00 + 8 * t + e) n s

/-- A tile has served units (R448, R453): `n` units of `inp` 64-byte units of input took `pay` payload cycles and `ovh` cycles of
overhead; a unit that fails is overhead throughout. -/
def tileUnits (t n inp pay ovh : Nat) (ok : Bool) (s : State) : State :=
  let s := if ok then evTile t 0 pay (evTile t 1 ovh (evTile t 4 n s)) else evTile t 1 (pay + ovh) (evTile t 6 1 s)
  evTile t 5 inp s
/-- A tile has decoded one line from `inp` granules (Table 3.7): 4 cycles for the header checks, then 12, or 2 for a zero or a poisoned
line. -/
def tileLine (t inp : Nat) (poison ok : Bool) (s : State) : State :=
  if poison || inp ≤ 1 then tileUnits t 1 inp 0 6 ok s else tileUnits t 1 inp 12 4 ok s

/-- ALERT (bit 1) and NOTIFY (bit 0) of an event at their HW reset (R451). -/
def evCtlReset (id : Nat) : BitVec 2 :=
  if id = 0xFE then 3
  else if 0xFC ≤ id && id ≤ 0xFF then 1
  else if id < 0xFC then (if causeImpl id && causeClass (BitVec.ofNat 8 id) ≠ 0 then 1 else 0)
  else if id = 0x9A0 || id = 0x9B0 then 1 else 0

/-- ALERT and NOTIFY of an event. -/
def evCtl (s : State) (id : Nat) : BitVec 2 := (sget none s.ev.ctl id).getD (evCtlReset id)

/-- R450: an event is pending while ACK ≠ COUNT. -/
def evPending (s : State) (id : Nat) : Bool := sget 0 s.ev.count id ≠ sget 0 s.ev.ack id

/-- R452: the level that ALERT_N has: asserted while FATAL_ANY or an event with ALERT is pending. -/
def alertLevel (s : State) : Bool :=
  evPending s 0xFF || (s.ev.count.any (fun e => evPending s e.1 && (evCtl s e.1).getLsbD 1)) ||
  (s.ev.ack.any (fun e => evPending s e.1 && (evCtl s e.1).getLsbD 1))

/-- Drive ALERT_N (R452). -/
def driveAlert (s : State) : State := { s with pin.alert := alertLevel s }

/-! ## The error log (R444 to R446) -/

/-- A condition is detected: its entry goes to the log writer, at most 16 of one cause of one block in a 1 ms
window; a further occurrence only advances the cause's event (R446). -/
def logIt (r : LogRec) (s : State) : State :=
  let k := r.src.toNat * 256 + r.cause.toNat
  if sget 0 s.log.rate k < 16 then
    { s with log.inbox := s.log.inbox ++ [logEntry r s.time.tide], log.rate := sset 0 s.log.rate k (sget 0 s.log.rate k + 1) }
  else evAdd r.cause.toNat 1 { s with ev.lastSlot := sset none s.ev.lastSlot r.cause.toNat none,
                                      ev.lastClass := sset 0 s.ev.lastClass r.cause.toNat (r.cls.getD (causeClass r.cause)) }

/-! ## Packets to link partners (R288, R291, R304) -/

/-- A port carries traffic: ACTIVE, or RETRAIN, which stops flits only for its duration (R276). -/
def portUp (s : State) (p : Nat) : Bool := (portOf s p).st = .active || (portOf s p).st = .retrain

/-- Put a packet into a port's egress queue. A port that is down drops it, unless it holds its state (R288, R291). -/
def sendPkt (p : Nat) (k : Pkt) (s : State) : State :=
  if portUp s p || (portOf s p).held then modPort p (fun q => { q with egress := q.egress ++ [k] }) s else s

/-- The port toward a node: the port whose partner it is, by training or by PARTNER_ID, else a port to a switch, else
the first port that is up, else port 0 (log entry 20). -/
def portTo (s : State) (n : Node) : Nat :=
  let ps := List.range (numPorts s)
  match ps.find? (fun p => (portOf s p).partnerUp && partnerNode (portOf s p) = n) with
  | some p => p
  | none => match ps.find? (fun p => paramAt s 0x09 5 p = 2 ^ 17 + n.toNat) with
    | some p => p
    | none => match ps.find? (fun p => portUp s p && partnerRole (portOf s p) = 2) with
      | some p => p
      | none => (ps.find? (fun p => portUp s p)).getD 0

/-- Send a message to the partner of every trained port (R313). -/
def sendAll (op : BitVec 8) (body : BitVec 86) (s : State) : State :=
  (List.range (numPorts s)).foldl (fun t p =>
    if portUp t p then sendPkt p { hdr := msgHdr op (partnerNode (portOf t p)) (nodeId t) body } t else t) s

/-! ## Persistence Assured (R189, R190) -/

/-- D in pages: the pages with DIRTY = 1 (R191). -/
def dirtyPages (s : State) : Nat := (s.quay.desc.filter (fun e => dDirty e.2)).length

/-- The SSDs of the ledger set: the SSD records of the harness (R197). -/
def ssdIndices (s : State) : List Nat := (recsOf s 9 0x38).map (fun r => fieldNat r 12 8)

/-- An SSD that is not marked failed. -/
def liveSsds (s : State) : List Nat := (ssdIndices s).filter (fun i => !(ssdOf s i).failed)


/-- R208: a segment is free when its live count is 0 and its SEQ is at or below MAP_HORIZON. -/
def segFree (s : State) (seq : Nat) (g : Segment) : Bool := g.live = 0 && seq ≤ s.led.horizon.toNat

/-- R197: free segments on the SSDs of the set that are not marked failed. -/
def freeSegments (s : State) : Nat :=
  let n := match s.led.manifest with | some m => m.segCount.toNat | none => 0
  n * (liveSsds s).length -
    (s.led.segs.filter (fun e => match e.2 with
      | some g => !segFree s e.1 g && (liveSsds s).contains g.ssd.toNat
      | none => false)).length

/-- e_store as AON reports it, in mJ: 0 J while the PPD link is down (R434). -/
def aonEStore (s : State) : Nat := if s.ppd.linkUp then s.ppd.eStore.toNat else 0

/-- The reasons of Table 7.1, bits [7:1], with bit [0] set when none holds. -/
def paReasons (s : State) : BitVec 8 :=
  let d := dirtyPages s
  let b1 := s.aon.mode ≠ .service
  let b2 : Bool := s.led.c = 0
  let b3 : Bool := s.led.c < d
  let b4 := !(pch s 2).qual
  let b5 := (liveSsds s).isEmpty || (liveSsds s).any (fun i => !(ssdOf s i).ready || (ssdOf s i).critical)
  let b6 : Bool := freeSegments s * 240 * 4096 * 4 < 5 * param s 0x07 0
  let b7 := !s.led.segTable
  let r : BitVec 8 := place 8 1 (bit1 b1) ||| place 8 2 (bit1 b2) ||| place 8 3 (bit1 b3) ||| place 8 4 (bit1 b4) |||
    place 8 5 (bit1 b5) ||| place 8 6 (bit1 b6) ||| place 8 7 (bit1 b7)
  if r = 0 then 1 else r

/-- The device reports Persistence Assured (R189): what a completion formed now carries (R190). -/
def assured (s : State) : Bool := (paReasons s).getLsbD 0

/-- Bring AON_PERSIST_STAT up to date; a change of ASSURED raises CHANGE_COUNT and sends PERSIST_STATE (R190, R313). -/
def refreshPA (s : State) : State :=
  let new := paReasons s
  let old := s.aon.paBits
  let t := { s with aon.paBits := new }
  if new.getLsbD 0 = old.getLsbD 0 then t
  else
    let t := { t with aon.changeCount := t.aon.changeCount + 1 }
    sendAll 0x72 (place 86 0 (bit1 (new.getLsbD 0)) ||| place 86 1 t.aon.changeCount ||| place 86 17 (new.extractLsb' 1 7)) t

/-! ## Modes (R387, R388) -/

def modeCode : Mode → Nat
  | .stall => 0 | .harnessing => 1 | .service => 2 | .drain => 3
  | .holdup => 4 | .watch => 5 | .recovery => 6 | .maintenance => 7

/-- A transition of Table 14.2: the mode, PREV_MODE and CAUSE are written and MODE_CHANGE is logged. CAP_HOLD_FULL may
be logged again in the new mode (R247). -/
def changeMode (code : BitVec 8) (m : Mode) (s : State) : State :=
  let old := s.aon.mode
  let t := { s with aon.mode := m, aon.prevMode := old, aon.modeCause := code, reins.capLogged := [],
                    reins.on := s.reins.on && (m = .service || m = .drain || m = .holdup),
                    aon.gait := if m = .service then s.aon.gait else 0,
                    aon.tolSrc := if m = .service then s.aon.tolSrc else 7, aon.i3cWatch := false }
  let t := if m = .service then t else coreSupply t
  refreshPA (logIt { cause := 0x68, src := epAon, args := [modeCode old, modeCode m, code.toNat] } t)

/-- A mode in which the reins apply caps in place of budgets (Table 14.1). -/
def capped (m : Mode) : Bool := m = .harnessing || m = .recovery || m = .maintenance

/-! ## Keys of maps with several indexes -/

/-- A pair of numbers as one key. -/
def key2 (a b : Nat) : Nat := a * 2 ^ 20 + b

end Sys2Proof.Machine
end

