-- ==== Sys2Proof/Machine/Budgets.lean ====
section
/-! DEFINITION. The budgets of the reins: instances, sums and budgets (R238, R239, R244), usage, and the classes that are
lowered (R240, R246). -/

namespace Sys2Proof.Machine

/-- Instances of the regulated resources (R475): the banks, the channels, the tile pools, the root ports. -/
def instQb (b : Nat) : Nat := b
def instDch (c : Nat) : Nat := 16 + c
def instPool (die role : Nat) : Nat := 32 + 3 * die + role
def instPe (p : Nat) : Nat := 38 + p

/-- The instances that the variant has (Table 0.1). -/
def instances (s : State) : List Nat :=
  (List.range (numBanks s)).map instQb ++ (List.range (numChans s)).map instDch ++
  (List.range (3 * numDies s)).map (32 + ·) ++ (List.range (numDies s)).map instPe

/-- The resource of an instance: 0 QUAY, 1 DRAM, 2 TILE, 3 XFER. -/
def instRes (i : Nat) : Nat := if i < 16 then 0 else if i < 32 then 1 else if i < 38 then 2 else 3

/-- SUM of a resource: the sum of its shares (R244). -/
def resSum (s : State) (res : Nat) : Nat := ((List.range 256).map (fun c => share s c res)).foldl (· + ·) 0

/-- SCALE of an instance (R244). -/
def scaleOf (s : State) (i : Nat) : Nat := 1024 - sget 0 s.reins.scale i

/-- Tiles of a role on a die. -/
def poolTiles (s : State) (die role : Nat) : Nat :=
  ((List.range 48).filter (fun t => tileRole s (die * 48 + t) = role)).length

/-- Nominal capacity of an instance of a rate resource in a window (Table 8.3): lines, tile cycles or bytes. -/
def nominal (s : State) (i : Nat) : Nat :=
  let w := s.reins.window.getD (param s 0x08 0)
  match instRes i with
  | 1 => (chan s (i - 16)).rate.toNat * w / 8000
  | 2 => poolTiles s ((i - 32) / 3) ((i - 32) % 3) * 3 * w / 2
  | 3 => 112 * w
  | _ => 0

/-- The budget of a class at an instance with a nominal capacity (R239, R244): the share, scaled by F = SCALE / SUM where
SUM exceeds SCALE. -/
def budgetOf (s : State) (i c nom : Nat) : Nat :=
  let sum := resSum s (instRes i)
  let k := scaleOf s i
  if sum ≤ k then share s c (instRes i) * nom / 1024 else share s c (instRes i) * k * nom / (sum * 1024)

/-- The reins lower classes in the modes that Table 14.1 gives budgets, from the first window start on (R247, R248). -/
def regulates (s : State) : Bool := (s.aon.mode = .service || s.aon.mode = .drain || s.aon.mode = .holdup) && s.reins.on

/-- LEDGER_CLASS is not lowered while D is at DIRTY_SOFT × C (R246). -/
def ledgerSpared (s : State) (c : Nat) : Bool := c = designated s 4 && s.reins.softHeld

/-- The dirty-ceiling rule lowers a class: while D is at DIRTY_SOFT × C, one whose writes made a page dirty in this window or
the one before, and that is not exempt (R246). -/
def dirtyLowered (s : State) (c : Nat) : Bool :=
  s.reins.softHeld && (sget false s.reins.dirtying c || sget false s.reins.dirtyPrev c) && !(classRec s c).getLsbD 80

/-- The class is lowered at an instance by its usage or by the dirty-ceiling rule (R240, R246). -/
def classLowered (s : State) (inst : Nat) (c : BitVec 8) : Bool :=
  regulates s && !ledgerSpared s c.toNat &&
  (sget false s.reins.lowered (inst * 256 + c.toNat) || dirtyLowered s c.toNat)

/-- Usage of a class at an instance of a rate resource: at its budget the class is lowered to the end of the window
(R239, R240). -/
def countUse (inst : Nat) (c : BitVec 8) (n : Nat) (s : State) : State :=
  if !regulates s then s
  else
    let k := inst * 256 + c.toNat
    let u := sget 0 s.reins.usage k + n
    let s := { s with reins.usage := sset 0 s.reins.usage k u }
    if budgetOf s inst c.toNat (nominal s inst) ≤ u && !ledgerSpared s c.toNat then
      { s with reins.lowered := sset false s.reins.lowered k true, reins.anyLow := sset false s.reins.anyLow c.toNat true }
    else s

/-! ## Deadlines and classes of work (R231, R233, R234) -/

/-- R231: DUE of a request that arrives at tick `t`; 0xFFF is NONE. -/
def dueOf (t : Nat) (deadline : BitVec 12) : Option Nat :=
  if deadline = 0xFFF then none else some ((t + deadline.toNat) % 2 ^ 24)

/-- R231 of work that the device starts in a class (R234): DUE from DEFAULT_DEADLINE. -/
def classDue (s : State) (c : Nat) : Option Nat := dueOf (tick s) (BitVec.ofNat 12 (fieldNat (classRec s c) 66 55))

/-- A designated class of R236: 0 MGMT, 1 SCRUB, 2 TIER, 3 RESTORE, 4 LEDGER. -/
def roleClass (s : State) (role : Nat) : BitVec 8 := BitVec.ofNat 8 (designated s role)

/-- TIER_CLASS: the class of the tier scanner, demotion, promotion, compaction and relocation (R234). -/
def deviceClass (s : State) : BitVec 8 := roleClass s 2

/-- The signed reading of a 24-bit difference. -/
def signed24 (x : Nat) : Int := if x % 2 ^ 24 < 2 ^ 23 then (x % 2 ^ 24 : Nat) else (x % 2 ^ 24 : Nat) - (2 ^ 24 : Nat)

/-- R232: the slack of a DUE at tick `t`, in ticks. -/
def slackTicks (due t : Nat) : Int := signed24 (due + 2 ^ 24 - t % 2 ^ 24)

/-- R233: the smaller of two DUEs at tick `t`; NONE is the greatest. -/
def minDue (t : Nat) (a b : Option Nat) : Option Nat :=
  match a, b with
  | some x, some y => if slackTicks y t < slackTicks x t then some y else some x
  | some x, none => some x
  | none, b => b

/-! ## Deadlines met and missed (R249) -/

/-- Count an event of a regulation class (Table 16.6). -/
def classEv (c : BitVec 8) (k n : Nat) (s : State) : State := evAdd (0x100 + 4 * c.toNat + k) n s

/-- A deadline of a class is met, or missed at DUE or later (R249). -/
def judgeDue (cls : BitVec 8) (d : Nat) (s : State) : State :=
  let s := classEv cls 0 1 s
  if slackTicks d (tick s) ≤ 0 then classEv cls 1 1 s else s

/-- Work that the device started itself meets or misses its deadline by the tick at which it completes (R249). -/
def workDone (cls : BitVec 8) (due : Option Nat) (s : State) : State :=
  match due with
  | none => s
  | some d => judgeDue cls d s

/-! ## Root ports -/

/-- The root port of a ledger SSD: bays 0 to 7 stand on PE0, 8 to 15 on PE1 (log entry 22). -/
def peOf (s : State) (ssd : Nat) : Nat :=
  match (recsOf s 9 0x38).find? (fun r => fieldNat r 12 8 = ssd) with
  | some r => if s.fuse.variantH then 0 else fieldNat r 16 13 / 8
  | none => 0
/-- The bay of a ledger SSD (R216). -/
def bayOf (s : State) (ssd : Nat) : Option Nat :=
  ((recsOf s 9 0x38).find? (fun r => fieldNat r 12 8 = ssd)).map (fun r => fieldNat r 16 13)
/-- The ledger SSDs of a bay. -/
def ssdsOfBay (s : State) (bay : Nat) : List Nat := (ssdIndices s).filter (fun i => bayOf s i = some bay)
/-- NVMe data of a class move through the root port of an SSD (Table 8.3). -/
def countXfer (ssd : Nat) (c : BitVec 8) (n : Nat) (s : State) : State := countUse (instPe (peOf s ssd)) c n s

end Sys2Proof.Machine
end

