-- ==== Sys2Proof/Machine/Crypto.lean ====
section
/-! DEFINITION. The sealing unit's arithmetic: AES-256 (FIPS 197, named by R98 to R100; log entry 7), AES key wrap
(NIST SP 800-38F, R93), the tag of R101 and the input block of Table 4.2. -/

namespace Sys2Proof.Machine

/-- Multiplication by x in GF(2^8) with the reduction constant `poly`. -/
def xtime (poly a : Byte) : Byte := (a <<< 1) ^^^ (if a.msb then poly else 0)

/-- Multiplication in GF(2^8) with the reduction constant `poly`, one bit of `b` at a time. -/
def gf8Go (poly : Byte) : Nat → Byte → Byte → Byte
  | 0, _, _ => 0
  | n + 1, a, b => (if b.getLsbD 0 then a else 0) ^^^ gf8Go poly n (xtime poly a) (b >>> 1)

/-- Multiplication in GF(2^8). -/
def gf8 (poly a b : Byte) : Byte := gf8Go poly 8 a b

/-- a^254 in the AES field: the inverse, and 0 for 0. -/
def aesInv (a : Byte) : Byte :=
  let a2 := gf8 0x1B a a; let a3 := gf8 0x1B a2 a; let a6 := gf8 0x1B a3 a3; let a7 := gf8 0x1B a6 a
  let a14 := gf8 0x1B a7 a7; let a15 := gf8 0x1B a14 a; let a30 := gf8 0x1B a15 a15; let a31 := gf8 0x1B a30 a
  let a62 := gf8 0x1B a31 a31; let a63 := gf8 0x1B a62 a; let a126 := gf8 0x1B a63 a63; let a127 := gf8 0x1B a126 a
  gf8 0x1B a127 a127

/-- The AES S-box. -/
def sbox (a : Byte) : Byte :=
  let b := aesInv a
  b ^^^ b.rotateLeft 1 ^^^ b.rotateLeft 2 ^^^ b.rotateLeft 3 ^^^ b.rotateLeft 4 ^^^ 0x63

/-- The inverse AES S-box. -/
def sboxInv (a : Byte) : Byte := aesInv (a.rotateLeft 1 ^^^ a.rotateLeft 3 ^^^ a.rotateLeft 6 ^^^ 0x05)

/-- One word of the AES-256 key schedule: the eight words before it, newest first, and its number. -/
def keyWord (i : Nat) (prev old : List Byte) : List Byte :=
  let t := if i % 8 = 0 then
      match prev with
      | [a, b, c, d] => [sbox b ^^^ ((1 : Byte) <<< (i / 8 - 1)), sbox c, sbox d, sbox a]
      | l => l
    else if i % 8 = 4 then prev.map sbox else prev
  (t.zip old).map (fun p => p.1 ^^^ p.2)

/-- The key schedule, newest word first, after `n` further words. -/
def keySched : Nat → Nat → List (List Byte) → List (List Byte)
  | 0, _, w => w
  | n + 1, i, w => keySched n (i + 1) (keyWord i (w.getD 0 []) (w.getD 7 []) :: w)

/-- Cut a list into pieces of `k`. -/
def chunks {α : Type} (k : Nat) : Nat → List α → List (List α)
  | 0, _ => []
  | n + 1, l => l.take k :: chunks k n (l.drop k)

/-- The fifteen round keys of an AES-256 key, 16 bytes each. -/
def roundKeys (key : BitVec 256) : List (List Byte) :=
  let w := (keySched 52 8 ((chunks 4 8 (bytesOf key 32)).reverse)).reverse
  chunks 16 15 w.flatten

/-- XOR of two byte strings. -/
def xorBytes (a b : List Byte) : List Byte := (a.zip b).map (fun p => p.1 ^^^ p.2)

/-- ShiftRows: byte i of the result is byte `i + 4 (i % 4)` of the state, modulo 16. -/
def shiftRows (st : List Byte) : List Byte := (List.range 16).map (fun i => st.getD ((i + 4 * (i % 4)) % 16) 0)
/-- The inverse of ShiftRows. -/
def shiftRowsInv (st : List Byte) : List Byte := (List.range 16).map (fun i => st.getD ((i + 12 * (i % 4)) % 16) 0)

/-- MixColumns with the given coefficients of row 0. -/
def mixCols (k0 k1 k2 k3 : Byte) (st : List Byte) : List Byte :=
  (List.range 16).map (fun i =>
    let c := 4 * (i / 4)
    let at' (j : Nat) : Byte := st.getD (c + (i + j) % 4) 0
    gf8 0x1B k0 (at' 0) ^^^ gf8 0x1B k1 (at' 1) ^^^ gf8 0x1B k2 (at' 2) ^^^ gf8 0x1B k3 (at' 3))

/-- The rounds of AES after the first AddRoundKey. -/
def aesRounds : List (List Byte) → List Byte → List Byte
  | [], st => st
  | [k], st => xorBytes (shiftRows (st.map sbox)) k
  | k :: r, st => aesRounds r (xorBytes (mixCols 2 3 1 1 (shiftRows (st.map sbox))) k)

/-- The inverse rounds, over the round keys in reverse order. -/
def aesRoundsInv : List (List Byte) → List Byte → List Byte
  | [], st => st
  | [k], st => xorBytes ((shiftRowsInv st).map sboxInv) k
  | k :: r, st => aesRoundsInv r (mixCols 14 11 13 9 (xorBytes ((shiftRowsInv st).map sboxInv) k))

/-- AES-256 on a block, byte 0 at bits [7:0] (R99). -/
def aes256 (key : BitVec 256) (block : BitVec 128) : BitVec 128 :=
  match roundKeys key with
  | [] => 0
  | k :: r => wordOf 128 (aesRounds r (xorBytes (bytesOf block 16) k))

/-- The inverse of AES-256. -/
def aes256Inv (key : BitVec 256) (block : BitVec 128) : BitVec 128 :=
  match (roundKeys key).reverse with
  | [] => 0
  | k :: r => wordOf 128 (aesRoundsInv r (xorBytes (bytesOf block 16) k))

/-- The initial value of AES key wrap: eight bytes 0xA6. -/
def kwIv : List Byte := List.replicate 8 0xA6

/-- The 64-bit step counter t of AES key wrap, most significant byte first. -/
def kwT (t : Nat) : List Byte := (bytesOf (BitVec.ofNat 64 t) 8).reverse

/-- One pass of AES key wrap over the registers. -/
def kwPass (kek : BitVec 256) : Nat → List Byte → List (List Byte) → List Byte × List (List Byte)
  | _, a, [] => (a, [])
  | t, a, r :: rs =>
    let b := bytesOf (aes256 kek (wordOf 128 (a ++ r))) 16
    let (a', rs') := kwPass kek (t + 1) (xorBytes (b.take 8) (kwT t)) rs
    (a', b.drop 8 :: rs')

/-- The six passes of AES key wrap. -/
def kwLoop (kek : BitVec 256) : Nat → Nat → List Byte → List (List Byte) → List Byte × List (List Byte)
  | 0, _, a, rs => (a, rs)
  | n + 1, t, a, rs => let (a', rs') := kwPass kek t a rs; kwLoop kek n (t + rs.length) a' rs'

/-- AES-KW of a 256-bit key: 40 bytes (R93). -/
def kwWrap (kek key : BitVec 256) : BitVec 320 :=
  let (a, rs) := kwLoop kek 6 1 kwIv (chunks 8 4 (bytesOf key 32))
  wordOf 320 (a ++ rs.flatten)

/-- One inverse pass, over the registers from the last to the first. -/
def kwPassInv (kek : BitVec 256) : Nat → List Byte → List (List Byte) → List Byte × List (List Byte)
  | _, a, [] => (a, [])
  | t, a, r :: rs =>
    let b := bytesOf (aes256Inv kek (wordOf 128 (xorBytes a (kwT t) ++ r))) 16
    let (a', rs') := kwPassInv kek (t - 1) (b.take 8) rs
    (a', b.drop 8 :: rs')

/-- The six inverse passes. -/
def kwLoopInv (kek : BitVec 256) : Nat → Nat → List Byte → List (List Byte) → List Byte × List (List Byte)
  | 0, _, a, rs => (a, rs)
  | n + 1, t, a, rs => let (a', rs') := kwPassInv kek t a rs; kwLoopInv kek n (t - rs.length) a' rs'

/-- AES-KW unwrap; none when the integrity check fails (R94, R95). -/
def kwUnwrap (kek : BitVec 256) (w : BitVec 320) : Option (BitVec 256) :=
  match chunks 8 5 (bytesOf w 40) with
  | [] => none
  | a :: rs =>
    let (a', rs') := kwLoopInv kek 6 24 a rs.reverse
    if a' = kwIv then some (wordOf 256 rs'.reverse.flatten) else none

/-- Multiplication in GF(2^64) under x^64 + x^4 + x^3 + x + 1 (R101). -/
def gf64Go : Nat → BitVec 64 → BitVec 64 → BitVec 64
  | 0, _, _ => 0
  | n + 1, a, b => (if b.getLsbD 0 then a else 0) ^^^ gf64Go n ((a <<< 1) ^^^ (if a.msb then 0x1B else 0)) (b >>> 1)

/-- Multiplication in GF(2^64). -/
def gf64 (a b : BitVec 64) : BitVec 64 := gf64Go 64 a b

/-- The forms of Table 4.2. -/
def sealBlock (major : BitVec 64) (minor : BitVec 7) (addr : BitVec 39) (form : BitVec 2) (level : BitVec 3)
    (ghi mask : Bool) (block : BitVec 2) : BitVec 128 :=
  place 128 64 major ||| place 128 57 minor ||| place 128 18 addr ||| place 128 16 form ||| place 128 13 level |||
  place 128 4 (bit1 ghi) ||| place 128 2 (bit1 mask) ||| place 128 0 block

/-- Where a line protected by the sealing unit stands: its counter, FORM, ADDR, GHI and LEVEL (R99, R103, R109, R111, R205). -/
structure SealPos where
  /-- MAJOR. -/
  major : BitVec 64
  /-- MINOR. -/
  minor : BitVec 7
  /-- ADDR. -/
  addr : BitVec 39
  /-- FORM. -/
  form : BitVec 2
  /-- GHI. -/
  ghi : Bool := false
  /-- LEVEL: 0 for data lines and key-table entries, else the level of the node. -/
  level : BitVec 3 := 0
  deriving DecidableEq, Repr

/-- The keystream of a line: four blocks (R100). -/
def keystream (kwork : BitVec 256) (p : SealPos) : BitVec 512 :=
  let b (j : BitVec 2) : BitVec 512 := (aes256 kwork (sealBlock p.major p.minor p.addr p.form p.level p.ghi false j)).setWidth 512
  b 0 ||| (b 1 <<< 128) ||| (b 2 <<< 256) ||| (b 3 <<< 384)

/-- The accumulator of the tag over the first `n` words of a line (R101). -/
def tagAcc (h : BitVec 64) (x : BitVec 512) : Nat → BitVec 64
  | 0 => 0
  | n + 1 => gf64 (tagAcc h x n ^^^ x.extractLsb' (64 * n) 64) h

/-- The tag of a stored line (R101). -/
def lineTag (kwork : BitVec 256) (h : BitVec 64) (key : BitVec 20) (poison : Bool) (p : SealPos) (x : BitVec 512) : BitVec 64 :=
  let m9 : BitVec 64 := place 64 44 key ||| place 64 43 (bit1 poison)
  gf64 (tagAcc h x 8 ^^^ m9) h ^^^
    (aes256 kwork (sealBlock p.major p.minor p.addr p.form p.level p.ghi true 0)).extractLsb' 0 64

/-- R98: the working key of a key ID. -/
def workKey (k : BitVec 256) (nonce : BitVec 64) : BitVec 256 :=
  let d (j : BitVec 128) : BitVec 128 := aes256 k (place 128 64 nonce ||| j)
  (d 2).setWidth 256 <<< 128 ||| (d 1).setWidth 256

/-- R98: the hash key of a key ID, bit 0 forced to 1. -/
def hashKey (k : BitVec 256) (nonce : BitVec 64) : BitVec 64 :=
  (aes256 k (place 128 64 nonce ||| 3)).extractLsb' 0 64 ||| 1

end Sys2Proof.Machine
end

