-- ==== Sys2Proof/Machine/Coding.lean ====
section
/-! DEFINITION. The codes of the spec: CRCs (R198, R258, R267, R462), the placement of a line on the ten DRAM
devices (R112, R113), the plain code (R147 to R149), the sealed check (R114) and the flit code (R267, R268). -/

namespace Sys2Proof.Machine

/-! ## CRCs -/

/-- One byte of a reflected CRC-64 with the polynomial of CRC-64/XZ. -/
def crc64Byte : Nat → BitVec 64 → BitVec 64
  | 0, c => c
  | n + 1, c => crc64Byte n ((c >>> 1) ^^^ (if c.getLsbD 0 then 0xC96C5795D7870F42 else 0))

/-- CRC-64/XZ (initial value and final XOR all ones). -/
def crc64 (l : List Byte) : BitVec 64 :=
  l.foldl (fun c b => crc64Byte 8 (c ^^^ b.setWidth 64)) (BitVec.allOnes 64) ^^^ BitVec.allOnes 64

/-- The product of two residues of the reflected CRC-64 polynomial; bit 63 stands for x^0. -/
def crcMul (a b : BitVec 64) : BitVec 64 :=
  ((List.range 64).foldl (fun (t : BitVec 64 × BitVec 64) i =>
    (if a.getLsbD (63 - i) then t.1 ^^^ t.2 else t.1, crc64Byte 1 t.2)) (0, b)).1

/-- x^(8 · 2^k) as a residue. -/
def crcShift : Nat → BitVec 64
  | 0 => crc64Byte 8 ((1 : BitVec 64) <<< 63)
  | k + 1 => let h := crcShift k; crcMul h h

/-- CRC-64/XZ of a list of bytes and `n` zero bytes after it. -/
def crc64Pad (l : List Byte) (n : Nat) : BitVec 64 :=
  (List.range 16).foldl (fun c k => if n.testBit k then crcMul c (crcShift k) else c) (crc64 l ^^^ BitVec.allOnes 64) ^^^ BitVec.allOnes 64

/-- One byte of the reflected CRC-32. -/
def crc32Byte : Nat → BitVec 32 → BitVec 32
  | 0, c => c
  | n + 1, c => crc32Byte n ((c >>> 1) ^^^ (if c.getLsbD 0 then 0xEDB88320 else 0))
/-- CRC-32 (ISO-HDLC) (R161). -/
def crc32 (l : List Byte) : BitVec 32 :=
  l.foldl (fun c b => crc32Byte 8 (c ^^^ b.setWidth 32)) (BitVec.allOnes 32) ^^^ BitVec.allOnes 32

/-- One byte of the CRC-16 of R258. -/
def crc16Byte : Nat → BitVec 16 → BitVec 16
  | 0, c => c
  | n + 1, c => crc16Byte n ((c <<< 1) ^^^ (if c.msb then 0x1021 else 0))

/-- CRC-16, polynomial 0x1021, initial value 0xFFFF, no reflection (R258). -/
def crc16 (l : List Byte) : BitVec 16 := l.foldl (fun c b => crc16Byte 8 (c ^^^ place 16 8 b)) 0xFFFF

/-- One byte of the CRC-8 of R202 and R462. -/
def crc8Byte : Nat → Byte → Byte
  | 0, c => c
  | n + 1, c => crc8Byte n ((c <<< 1) ^^^ (if c.msb then 0x07 else 0))

/-- CRC-8, polynomial 0x07, initial value 0x00 (R202, R462). -/
def crc8 (l : List Byte) : Byte := l.foldl (fun c b => crc8Byte 8 (c ^^^ b)) 0

/-- R202: a map entry with its CHK8 over bits [119:0] in bits [127:120]. -/
def withChk8 (e : BitVec 128) : BitVec 128 := setField e 120 (crc8 (bytesOf e 15))

/-- R202: CHK8 of a map entry matches. -/
def chk8Ok (e : BitVec 128) : Bool := crc8 (bytesOf e 15) = e.extractLsb' 120 8

/-! ## A line on ten devices (R112) -/

/-- The contribution of device d, 0 to 7, of a line: bits [4b+3:4b] are nibble d of bytes 4b to 4b + 3 (R112). -/
def devWord (x : BitVec 512) (d : Nat) : BitVec 64 :=
  BitVec.ofNat 64 ((List.range 16).foldl (fun acc b => acc + x.toNat / 2 ^ (32 * b + 4 * d) % 16 * 16 ^ b) 0)

/-- The ten words D_0 to D_9 of a stored line. -/
def devs (st : BitVec 640) : List (BitVec 64) := (List.range 10).map (fun d => st.extractLsb' (64 * d) 64)

/-- The stored line of ten words. -/
def ofDevs : List (BitVec 64) → BitVec 640
  | [] => 0
  | w :: r => w.setWidth 640 ||| (ofDevs r <<< 64)

/-- The 64 bytes that the eight data devices hold (R112). -/
def devLine (l : List (BitVec 64)) : BitVec 512 :=
  BitVec.ofNat 512 ((List.range 16).foldl (fun acc b =>
    acc + (List.range 8).foldl (fun a d => a + (l.getD d 0).toNat / 16 ^ b % 16 * 16 ^ d) 0 * 2 ^ (32 * b)) 0)

/-- The data words of a line. -/
def dataDevs (x : BitVec 512) : List (BitVec 64) := (List.range 8).map (devWord x)

/-- α^n in the field of R147. -/
def alpha : Nat → Byte
  | 0 => 1
  | n + 1 => xtime 0x1D (alpha n)

/-- S1-style sum of a column: XOR of c_k · α^k, Horner from the last symbol (R147). -/
def synd1 : List Byte → Byte
  | [] => 0
  | c :: r => c ^^^ xtime 0x1D (synd1 r)

/-- S0: XOR of the symbols. -/
def synd0 : List Byte → Byte
  | [] => 0
  | c :: r => c ^^^ synd0 r

/-- Codeword j of ten words: byte j of each (R113). -/
def codeword (l : List (BitVec 64)) (j : Nat) : List Byte := l.map (fun w => byteAt w j)

/-- The check symbols c_8 and c_9 of codeword j (R147). -/
def plainCheck (l : List (BitVec 64)) (j : Nat) : Byte × Byte :=
  let a := synd0 (codeword l j); let b := synd1 (codeword l j)
  let c8 := gf8 0x1D (alpha 222) b ^^^ gf8 0x1D (alpha 231) a
  (c8, a ^^^ c8)

/-- A line stored under the plain code, with the poison pattern of R148 when it is poisoned. -/
def plainStore (x : BitVec 512) (poison : Bool) : BitVec 640 :=
  let l := dataDevs x
  let ck := (List.range 8).map (plainCheck l)
  let d8 := wordOf 64 (ck.map (fun p => p.1 ^^^ (if poison then 0x3A else 0)))
  let d9 := wordOf 64 (ck.map (fun p => p.2 ^^^ (if poison then 0x1D else 0)))
  ofDevs (l ++ [d8, d9])

/-- The syndromes of the eight codewords. -/
def plainSynd (l : List (BitVec 64)) : List (Byte × Byte) :=
  (List.range 8).map (fun j => (synd0 (codeword l j), synd1 (codeword l j)))

/-- Whether device e explains every codeword with non-zero syndromes (R149). -/
def explains (s : List (Byte × Byte)) (e : Nat) : Bool :=
  s.all (fun p => p = (0, 0) || (p.1 != 0 && p.2 = gf8 0x1D p.1 (alpha e)))

/-- What a check of a stored line finds (R114, R149). -/
inductive Check where
  /-- The line is good: its stored form after correction, and the device corrected, if any. -/
  | valid (st : BitVec 640) (dev : Option Nat)
  /-- The line is stored poisoned. -/
  | poisoned (st : BitVec 640) (dev : Option Nat)
  /-- Uncorrectable under R149, Fail under R114. -/
  | fail
  deriving DecidableEq, Repr

/-- R149: the device that explains the syndromes: none when no device does, some none when they are clean. -/
def singleDevice (s : List (Byte × Byte)) (mark : Option Nat) : Option (Option Nat) :=
  if s.all (· = (0, 0)) then some none
  else ((match mark with | some m => [m] | none => List.range 10).find? (explains s)).map some

/-- R149: correct device e by the S0 of every codeword. -/
def correctAt (l : List (BitVec 64)) (s : List (Byte × Byte)) (e : Nat) : List (BitVec 64) :=
  l.set e ((l.getD e 0) ^^^ wordOf 64 (s.map Prod.fst))

/-- R149: the plain decode of a stored line. -/
def plainCheckLine (st : BitVec 640) (mark : Option Nat) : Check :=
  let l := devs st
  let sn := plainSynd l
  let sp := sn.map (fun p => (p.1 ^^^ 0x27, p.2))
  match singleDevice sn mark, singleDevice sp mark with
  | some e, none => .valid (match e with | none => st | some d => ofDevs (correctAt l sn d)) e
  | none, some e => .poisoned (match e with | none => st | some d => ofDevs (correctAt l sp d)) e
  | _, _ => .fail

/-- The keys and the position under which a sealed line is stored. -/
structure SealKey where
  /-- Working key. -/
  kwork : BitVec 256
  /-- Hash key. -/
  h : BitVec 64
  /-- KEY_ID. -/
  key : BitVec 20
  /-- Counter and address. -/
  pos : SealPos
  deriving DecidableEq, Repr

/-- 64 stored bytes with their check bits in sealed mode: the bytes on devices 0 to 7, the tag on device 8, parity on device 9
(R113, R115). Counter-tree nodes and key-table lines are stored so in plaintext (R100). -/
def tagStore (k : SealKey) (c : BitVec 512) (poison : Bool) : BitVec 640 :=
  let l := dataDevs c ++ [lineTag k.kwork k.h k.key poison k.pos c]
  ofDevs (l ++ [l.foldl (· ^^^ ·) 0])

/-- A data line stored sealed: its ciphertext under its tag (R100, R113, R115). -/
def sealStore (k : SealKey) (x : BitVec 512) (poison : Bool) : BitVec 640 := tagStore k (x ^^^ keystream k.kwork k.pos) poison

/-- The plaintext of a sealed stored line. -/
def sealOpen (k : SealKey) (st : BitVec 640) : BitVec 512 := devLine (devs st) ^^^ keystream k.kwork k.pos

/-- R114: the tag test: some false for Valid, some true for Poisoned, none for Fail. -/
def tagTest (k : SealKey) (l : List (BitVec 64)) : Option Bool :=
  let c := devLine l
  if l.getD 8 0 = lineTag k.kwork k.h k.key false k.pos c then some false
  else if l.getD 8 0 = lineTag k.kwork k.h k.key true k.pos c then some true else none

/-- R114: trial d of a line whose parity does not match. -/
def sealTrial (l : List (BitVec 64)) (d : Nat) : List (BitVec 64) :=
  let l' := if d < 9 then l.set d ((l.set d 0).foldl (· ^^^ ·) 0) else l
  l'.set 9 ((l'.take 9).foldl (· ^^^ ·) 0)

/-- R114: the check of a sealed stored line. -/
def sealCheckLine (k : SealKey) (st : BitVec 640) (mark : Option Nat) : Check :=
  let l := devs st
  if l.foldl (· ^^^ ·) 0 = 0 then
    match tagTest k l with
    | some false => .valid st none
    | some true => .poisoned st none
    | none => .fail
  else
    match (match mark with | some m => [m] | none => List.range 10).filterMap (fun d =>
      (tagTest k (sealTrial l d)).map (fun r => (d, r))) with
    | [(d, false)] => .valid (ofDevs (sealTrial l d)) (some d)
    | [(d, true)] => .poisoned (ofDevs (sealTrial l d)) (some d)
    | _ => .fail

/-! ## The flit code (R267, R268) -/

/-- Codeword m of a flit (R267). -/
def flitWord (f : BitVec 2048) (m : Nat) : List Byte :=
  (List.range 62).map (fun k => byteAt f (4 * k + m)) ++ [byteAt f (248 + m), byteAt f (252 + m)]

/-- R268: the byte of the flit and the value that correct codeword m; none when it is uncorrectable. -/
def flitFix (f : BitVec 2048) (m : Nat) : Option (List (Nat × Byte)) :=
  let c := flitWord f m
  let s0 := synd0 c; let s1 := synd1 c
  if s0 = 0 && s1 = 0 then some []
  else if s0 = 0 then none
  else match (List.range 64).find? (fun e => gf8 0x1D s0 (alpha e) = s1) with
    | some e => some [(if e < 62 then 4 * e + m else if e = 62 then 248 + m else 252 + m, s0)]
    | none => none

/-- XOR corrections into a flit. -/
def applyFix (f : BitVec 2048) (l : List (Nat × Byte)) : BitVec 2048 :=
  l.foldl (fun g p => g ^^^ place 2048 (8 * p.1) p.2) f

/-- R268: the corrected flit with its number of corrected symbols by byte, when the flit is good. -/
def flitDecode (f : BitVec 2048) : Option (BitVec 2048 × List Nat) :=
  match flitFix f 0, flitFix f 1, flitFix f 2, flitFix f 3 with
  | some a, some b, some c, some d =>
    let l := a ++ b ++ c ++ d
    let g := applyFix f l
    if crc64 (bytesOf g 240) = g.extractLsb' 1920 64 then some (g, l.map Prod.fst) else none
  | _, _, _, _ => none

/-- The check symbols of codeword m over its 62 symbols: c_62 and c_63 that make both syndromes zero (R267). -/
def flitCheck (f : BitVec 2048) (m : Nat) : Byte × Byte :=
  let c := (List.range 62).map (fun k => byteAt f (4 * k + m))
  let a := synd0 c; let b := synd1 c
  let c62 := gf8 0x1D (b ^^^ gf8 0x1D a (alpha 63)) (alpha 168)
  (c62, a ^^^ c62)

/-- A flit of its first 240 bytes with CRC and FEC (R267). -/
def flitEncode (f : BitVec 2048) : BitVec 2048 :=
  let f := setField f 1920 (crc64 (bytesOf f 240))
  let ck := (List.range 4).map (flitCheck f)
  setField (setField f 1984 (wordOf 32 (ck.map Prod.fst))) 2016 (wordOf 32 (ck.map Prod.snd))

end Sys2Proof.Machine
end

