-- ==== Sys2Proof/Machine/Store.lean ====
section
/-! DEFINITION. Operations over DRAM and what lies in it: stored lines and the write queues, descriptors, frames and
runs, counters, keys, and the lines of a berth in their stored form. -/

namespace Sys2Proof.Machine

/-! ## Stored lines -/

/-- The 80 stored bytes of a line (R112, log entry 4). -/
def readStored (m : List Host.Cell) (addr : Nat) : BitVec 640 :=
  wordOf 640 ((List.range 80).map (fun i => sget 0 m (addr * 80 + i)))

/-- Write the 80 stored bytes of a line. -/
def writeStored (m : List Host.Cell) (addr : Nat) (x : BitVec 640) : List Host.Cell :=
  (List.range 80).foldl (fun n i => sset 0 n (addr * 80 + i) (byteAt x i)) m

/-- A request of a channel's queue for a DRAM line address. -/
def mkDramReq (c : Coord) (addr : Nat) (cls : BitVec 8) : DramReq :=
  { cls := cls, addr := addr, row := c.row, bank := bankCode c, sub := c.sub = 1 }

/-- What a read of a DRAM line finds: the entry of the write queue that holds it, else the stored bytes (R138). -/
def dramContent (s : State) (addr : Nat) : BitVec 640 :=
  match coord s addr with
  | none => readStored s.dram.mem addr
  | some c => match (chan s c.ch).writeQ.find? (fun q => q.addr = addr) with
    | some q => q.data
    | none => readStored s.dram.mem addr

/-- A write of a channel is issued: the stored form lies in DRAM, and its column command counts for its class (R238, R453). -/
def storeWrite (c : Nat) (q : DramReq) (s : State) : State :=
  evDch c 0 (countUse (instDch c) q.cls 1 (evDch c 5 { s with dram.mem := writeStored s.dram.mem q.addr q.data }))

/-- The oldest write of a queue is stored. -/
def popWrite (c : Nat) (s : State) : State :=
  match (chan s c).writeQ with
  | [] => s
  | q :: r => storeWrite c q (modChan c (fun ch => { ch with writeQ := r }) s)

/-- The class, DUE and page hint that a piece of work gives its DRAM accesses (R136, R233, R234). -/
structure Work where
  /-- Class. -/
  cls : BitVec 8
  /-- DUE. -/
  due : Option Nat := none
  /-- Page hint. -/
  hint : Option (BitVec 2) := none
  deriving DecidableEq, Repr

/-- Work that the device starts in a designated class, now (R234). -/
def roleWork (s : State) (role : Nat) : Work := { cls := roleClass s role, due := classDue s (designated s role) }

/-- The writes that entered the write queues since `old` belong to a piece of work (R233, R234). -/
def chargeWrites (w : Work) (old s : State) : State :=
  { s with dram.ch := s.dram.ch.map (fun e =>
      let was := (chan old e.1).writeQ
      (e.1, { e.2 with writeQ := e.2.writeQ.map (fun q =>
        if was.contains q then q else { q with cls := w.cls, due := w.due, hint := w.hint.getD q.hint }) })) }

/-- Do a piece of work: the writes that it makes carry its class, DUE and hint. -/
def doWork (w : Work) (f : State → State) (s : State) : State := chargeWrites w s (f s)

/-- Whole-berth and run accesses of tiles and movers: TIER_CLASS unless a piece of work charges them, hint 0b11 (R136). -/
def streamWork (s : State) : Work := { roleWork s 2 with hint := some 3 }

/-- A write of a line has entered the queue after the reads of it that are out (R138). -/
def markOver (addr : Nat) (s : State) : State :=
  { s with dram.reads := s.dram.reads.map (fun r => if r.addr = addr then { r with newer := true } else r) }

/-- A write of a line enters the write queue of its channel: an entry for the line is replaced in place (R138). At a full queue the
requester waits for an entry: the channel issues its oldest write first (R137, log entry 91). It runs in TIER_CLASS unless a piece of
work charges it. -/
def dramWrite (addr : Nat) (st : BitVec 640) (s : State) : State :=
  let s := markOver addr s
  match coord s addr with
  | none => { s with dram.mem := writeStored s.dram.mem addr st }
  | some c =>
    if (chan s c.ch).writeQ.any (fun q => q.addr = addr) then
      let s := if (chan s c.ch).writeQ.any (fun q => q.addr = addr && q.corrective) then evDch c.ch 23 s else s
      modChan c.ch (fun ch => { ch with writeQ := ch.writeQ.map (fun q =>
        if q.addr = addr then { q with data := st, corrective := false } else q) }) s
    else
      let s := if 64 ≤ (chan s c.ch).writeQ.length then popWrite c.ch s else s
      modChan c.ch (fun ch => { ch with writeQ := ch.writeQ ++
        [{ mkDramReq c addr (deviceClass s) with data := st, due := classDue s (designated s 2) }] }) s

/-- A corrective rewrite: it enters the write queue only when no write of the line stands in it (R138). -/
def correctiveRewrite (addr : Nat) (st : BitVec 640) (s : State) : State :=
  match coord s addr with
  | none => { s with dram.mem := writeStored s.dram.mem addr st }
  | some c =>
    if (chan s c.ch).writeQ.any (fun q => q.addr = addr) then evDch c.ch 23 s
    else
      let s := if 64 ≤ (chan s c.ch).writeQ.length then popWrite c.ch s else s
      modChan c.ch (fun ch => { ch with writeQ := ch.writeQ ++ [{ mkDramReq c addr (deviceClass s) with data := st, corrective := true }] }) s

/-- Every write that waits is stored: the queues of a channel are empty (R140, Table 5.9). -/
def drainWrites (c : Nat) (s : State) : State :=
  let q := (chan s c).writeQ
  q.foldl (fun t r => storeWrite c r t) (modChan c (fun ch => { ch with writeQ := [] }) s)

/-- A read enters the read queue while that holds fewer than 128 entries, else it waits for a reservation (R137). -/
def pushRead (c : Nat) (q : DramReq) (s : State) : State :=
  modChan c (fun ch => if ch.readQ.length < 128 then { ch with readQ := ch.readQ ++ [q] } else { ch with readWait := ch.readWait ++ [q] }) s

/-- Freed entries of the read queue are granted to the reads that wait, in their order of arrival (R137). -/
def refillReads (ch : Channel) : Channel :=
  let n := 128 - ch.readQ.length
  { ch with readQ := ch.readQ ++ ch.readWait.take n, readWait := ch.readWait.drop n }

/-- A read of a line is sent to its channel for DLA line `line` (R137). A read that the write queue answers makes no DRAM access
(R138). -/
def dramRead (addr line : Nat) (hint : BitVec 2) (due : Option Nat) (cls : BitVec 8) (s : State) : State :=
  let s := { s with dram.reads := s.dram.reads ++ [{ addr := addr, line := line }] }
  match coord s addr with
  | none => s
  | some c =>
    if (chan s c.ch).writeQ.any (fun q => q.addr = addr) then evDch c.ch 16 s
    else pushRead c.ch { mkDramReq c addr cls with hint := hint, due := due } s

/-- The device marked failed of the rank and CID that holds a line (R150): 0xF is no mark. -/
def markOf (s : State) (addr : Nat) : Option Nat :=
  match coord s addr with
  | none => none
  | some c =>
    let m := sget 0xF (chan s c.ch).marks (32 * c.sub + c.rank * 2 ^ (chan s c.ch).pop.cidBits + c.cid)
    if m = 0xF then none else some m.toNat

/-- A line of an offline channel set reads as Uncorrectable (R156). -/
def lineOffline (s : State) (addr : Nat) : Bool :=
  match findSet (chanSets s) addr with
  | some (cs, _) => cs.chans.any (fun c => (chan s c).offline)
  | none => false

/-! ## The counter tree and the tree of the key table (R107 to R111) -/

/-- The key of a counter node in the map: level and index. -/
def ctrKey (level idx : Nat) : Nat := level * 2 ^ 40 + idx
/-- The key of a node of the counter tree, or of the key table's tree (`kt`), whose entries are its level 0 (R111). -/
def treeKey (kt : Bool) (level idx : Nat) : Nat := ctrKey (if kt then level + 8 else level) idx
/-- The highest level in DRAM of a tree (R107, R111). -/
def treeTop (kt : Bool) : Nat := if kt then 3 else 5

/-- The line of a region with a code at an index; none when the region is not placed. -/
def regionLine (s : State) (code idx : Nat) : Option Nat :=
  ((regions s).find? (fun r => r.1 = code)).map (fun r => r.2.1 * 64 + idx)

/-- Where a copy of a node is stored: at its level's region base plus its index (R107), the second copy of levels 3 to 5 in a
region of its own (R108). The levels 1 to 3 of the key table's tree follow each other in region 0x10 (DESIGN CHOICE, log entry 90). -/
def nodeLine (s : State) (kt : Bool) (level idx copy : Nat) : Option Nat :=
  if kt then
    if copy ≠ 0 then none
    else match level with
      | 0 => regionLine s 0x0F idx
      | 1 => regionLine s 0x10 idx
      | 2 => regionLine s 0x10 (16384 + idx)
      | _ => regionLine s 0x10 (16640 + idx)
  else if copy = 0 then regionLine s (6 + level) idx
  else if 3 ≤ level then regionLine s (9 + level) idx else none

/-- A node or entry that the Quay cache holds: it is trusted while it stays there (R109). -/
def heldNode (s : State) (kt : Bool) (level idx : Nat) : Option (BitVec 512) :=
  let k := treeKey kt level idx
  let x := if kt && level = 0 then sget 0 s.dram.keyTable idx else sget 0 s.quay.ctr k
  if x ≠ 0 || s.quay.ctrDirty.contains k then some x else none

/-- Root entry `idx` of a tree as the counter of its node (R107, R111). -/
def rootCtr (s : State) (kt : Bool) (idx : Nat) : BitVec 64 × BitVec 7 :=
  (sget 0 (if kt then s.sec.ktRoot else s.sec.root) idx, 0)

/-- The keys and the position under which a node or entry is stored: K_tree and H_tree, FORM 0b10 or 0b11, KEY_ID 0 (R99, R101,
R109, R111). -/
def nodeSeal (s : State) (kt : Bool) (level idx : Nat) (ctr : BitVec 64 × BitVec 7) : SealKey :=
  { kwork := s.sec.kTree, h := s.sec.hTree, key := 0,
    pos := { major := ctr.1, minor := ctr.2, addr := BitVec.ofNat 39 idx, form := if kt then 3 else 2,
             level := BitVec.ofNat 3 level } }

/-- The check of a copy of a node as a read finds it, with the bits `err` wrong (R109, R114). -/
def nodeCheck (s : State) (kt : Bool) (level idx : Nat) (ctr : BitVec 64 × BitVec 7) (a : Nat) (err : BitVec 640) : Check :=
  if lineOffline s a then .fail else sealCheckLine (nodeSeal s kt level idx ctr) (dramContent s a ^^^ err) (markOf s a)

/-- The content of a node or entry that verified. -/
def nodeValue : Check → Option (BitVec 512)
  | .valid st _ => some (devLine (devs st))
  | _ => none

/-- A node read from DRAM: a child whose counter reads (0, 0) has never been written and is all zero; the second copy serves
when the first is uncorrectable (R108, R109). -/
def nodeStored (s : State) (kt : Bool) (level idx : Nat) (ctr : BitVec 64 × BitVec 7) : Option (BitVec 512) :=
  if ctr = (0, 0) then some 0
  else ([0, 1].filterMap (fun c => (nodeLine s kt level idx c).bind (fun a => nodeValue (nodeCheck s kt level idx ctr a 0)))).head?

/-- The counter of a child in its parent's content (R107). -/
def slotCtr (p : BitVec 512) (idx : Nat) : BitVec 64 × BitVec 7 := (cMajor p, cMinor p (idx % 64))

/-- The content of a node `up` levels below the top: as the Quay cache holds it, else as read and verified; none when it, or a
node above it, fails (R109). -/
def nodeAt (s : State) (kt : Bool) : Nat → Nat → Option (BitVec 512)
  | 0, idx => (heldNode s kt (treeTop kt) idx).orElse (fun _ => nodeStored s kt (treeTop kt) idx (rootCtr s kt idx))
  | n + 1, idx => (heldNode s kt (treeTop kt - (n + 1)) idx).orElse (fun _ =>
      (nodeAt s kt n (idx / 64)).bind (fun p => nodeStored s kt (treeTop kt - (n + 1)) idx (slotCtr p idx)))

/-- The counter of a node in its parent slot or root entry; none when the parent fails. -/
def nodeCtr (s : State) (kt : Bool) (level idx : Nat) : Option (BitVec 64 × BitVec 7) :=
  if treeTop kt ≤ level then some (rootCtr s kt idx)
  else (nodeAt s kt (treeTop kt - (level + 1)) (idx / 64)).map (fun p => slotCtr p idx)

/-- Put the content of a node or entry into the Quay cache. -/
def holdNode (kt : Bool) (level idx : Nat) (x : BitVec 512) (s : State) : State :=
  if kt && level = 0 then { s with dram.keyTable := sset 0 s.dram.keyTable idx x }
  else { s with quay.ctr := sset 0 s.quay.ctr (treeKey kt level idx) x }

/-- Write a node or entry in the Quay cache; it is dirty until it goes to DRAM (R109). -/
def setNode (kt : Bool) (level idx : Nat) (x : BitVec 512) (s : State) : State :=
  let k := treeKey kt level idx
  let s := holdNode kt level idx x s
  { s with quay.ctrDirty := if s.quay.ctrDirty.contains k then s.quay.ctrDirty else s.quay.ctrDirty ++ [k] }

/-- Store the copies of a node under a counter (R108, R109). -/
def storeNode (kt : Bool) (level idx : Nat) (ctr : BitVec 64 × BitVec 7) (x : BitVec 512) (poison : Bool) (s : State) : State :=
  [0, 1].foldl (fun t c => match nodeLine t kt level idx c with
    | some a => dramWrite a (tagStore (nodeSeal t kt level idx ctr) x poison) t
    | none => t) s

/-- The bytes of a node as stored, whatever its check says. -/
def rawNode (s : State) (kt : Bool) (level idx : Nat) : BitVec 512 :=
  match nodeLine s kt level idx 0 with
  | some a => devLine (devs (dramContent s a))
  | none => 0

/-- A dirty node goes from the Quay cache to DRAM: its parent slot advances as a line's minor does (R104, R109), and a slot that
overflows has all 64 children rewritten under (MAJOR + 1, 0); a child that fails is stored poisoned. A root entry counts on. -/
def writeNode (kt : Bool) (level idx : Nat) (s : State) : State :=
  let x := (heldNode s kt level idx).getD 0
  let s := { s with quay.ctrDirty := s.quay.ctrDirty.filter (· ≠ treeKey kt level idx) }
  if treeTop kt ≤ level then
    let r := (rootCtr s kt idx).1 + 1
    storeNode kt level idx (r, 0) x false
      (if kt then { s with sec.ktRoot := sset 0 s.sec.ktRoot idx r } else { s with sec.root := sset 0 s.sec.root idx r })
  else
    let up := treeTop kt - (level + 1)
    let p := (nodeAt s kt up (idx / 64)).getD 0
    let m := cMinor p (idx % 64)
    if m = 127 then
      let major := cMajor p + 1
      (List.range 64).foldl (fun t j =>
        let c := idx / 64 * 64 + j
        match (if c = idx then some x else nodeAt s kt (up + 1) c) with
        | some y => storeNode kt level c (major, 0) y false t
        | none => storeNode kt level c (major, 0) (rawNode s kt level c) true t)
        (setNode kt (level + 1) (idx / 64) (mkCtr major) s)
    else
      storeNode kt level idx (cMajor p, m + 1) x false
        (setNode kt (level + 1) (idx / 64) (setField p (64 + 7 * (idx % 64)) (m + 1)) s)

/-- Capacity of a partition of the Quay cache in entries: KiB per bank from the QUAY record, else Table 1.3 (R24, R362). -/
def quayPart (s : State) (hi lo dflt size : Nat) : Nat :=
  numBanks s * (match (recsOf s 2 0x23).head? with | some r => fieldNat r hi lo | none => dflt) * 1024 / size

/-- Nodes that the counter partition holds (R24). -/
def ctrCap (s : State) : Nat := quayPart s 55 40 1024 64

/-- Bring the counter partition back within its capacity: the node with the lowest key leaves, and is written to DRAM when it is
dirty (R24, R109; DESIGN CHOICE, log entry 90: the spec names no victim). -/
def ctrRoom : Nat → State → State
  | 0, s => s
  | n + 1, s =>
    if s.quay.ctr.length ≤ ctrCap s then s
    else match s.quay.ctr with
      | [] => s
      | (k, _) :: _ =>
        let s := if s.quay.ctrDirty.contains k then
          writeNode (8 ≤ k / 2 ^ 40) (k / 2 ^ 40 % 8) (k % 2 ^ 40) s else s
        ctrRoom n { s with quay.ctr := sdel s.quay.ctr k }

/-! ## The manifest (R197 to R199, Tables 7.4, 7.5) -/

def ceilDiv (a b : Nat) : Nat := (a + b - 1) / b
/-- N: the SSD count. -/
def ledgerN (s : State) : Nat := max 1 (match s.led.manifest with | some m => m.ssdCount.toNat | none => (ssdIndices s).length)
/-- LOG_BLOCKS of the ledger (Table 7.5); of the harness while no ledger is chosen. -/
def logBlocks (s : State) : Nat := match s.led.manifest with | some m => m.logBlocks.toNat | none => param s 0x07 11
def keyBase (s : State) : Nat := 128 + logBlocks s
def hotBase (s : State) : Nat := keyBase s + 2 * ceilDiv 16384 (ledgerN s)
def mapBase (s : State) : Nat := hotBase s + ceilDiv (numPages s) (16384 * ledgerN s)
def segBase (s : State) : Nat := mapBase s + ceilDiv (numPages s) (256 * ledgerN s)
/-- An SSD that can be read: present, ready, neither rejected nor failed. -/
def ssdUp (s : State) (i : Nat) : Bool := (ssdOf s i).present && (ssdOf s i).ready && !(ssdOf s i).rejected && !(ssdOf s i).failed

/-- The header of a manifest copy (Table 7.5). -/
def manHeader (m : Manifest) : BitVec 1024 :=
  place 1024 0 m.magic ||| place 1024 32 m.fmtMajor ||| place 1024 40 m.fmtMinor ||| place 1024 48 m.capacity |||
  place 1024 64 m.generation ||| place 1024 128 m.ledgerId ||| place 1024 256 m.nonce ||| place 1024 320 m.ssdIndex |||
  place 1024 325 m.ssdCount ||| place 1024 384 m.logBlocks ||| place 1024 416 m.keyBase ||| place 1024 464 m.hotBase |||
  place 1024 512 m.mapBase ||| place 1024 560 m.segBase ||| place 1024 608 m.segCount |||
  place 1024 640 (BitVec.ofNat 16 m.retired.length)

/-- The CRC of a block of a copy: block 0 holds the header and the identity table, blocks 1 to 63 hold 511 entries each of the retired
list (R198). -/
def manCrc (m : Manifest) (k : Nat) : BitVec 64 :=
  if k = 0 then crc64Pad (bytesOf (manHeader m) 128 ++ (List.range 32).flatMap (fun i => bytesOf (sget 0 m.idents i) 16)) (4088 - 640)
  else
    let l := (m.retired.drop ((k - 1) * 511)).take 511
    crc64Pad (l.flatMap (fun e => bytesOf e 8)) (4088 - 8 * l.length)

/-- A copy is valid when the CRCs of its 64 blocks match (R199). -/
def manValid (m : Manifest) : Bool := (List.range 64).all (fun k => sget 0 m.crc k = manCrc m k)

/-- The newest valid copy of an SSD, and whether it is copy A. -/
def ssdCopy (d : Ssd) : Option (Bool × Manifest) :=
  match d.manifest.filter manValid, d.copyB.filter manValid with
  | some a, some b => if a.generation.toNat < b.generation.toNat then some (false, b) else some (true, a)
  | some a, none => some (true, a)
  | none, some b => some (false, b)
  | none, none => none

/-- The copy of a manifest for one SSD, with the CRCs of its blocks. -/
def manFor (m : Manifest) (i : Nat) : Manifest :=
  let m := { m with ssdIndex := BitVec.ofNat 5 i }
  { m with crc := (List.range 64).foldl (fun c k => sset 0 c k (manCrc m k)) [] }

/-- Write the manifest to every SSD that can be written, with GENERATION raised by 1, into the copy that does not hold the newest valid
manifest (R199). -/
def writeManifest (m : Manifest) (s : State) : State :=
  let m := { m with generation := m.generation + 1 }
  let put (i : Nat) (d : Ssd) : Ssd :=
    if !ssdUp s i then d
    else match ssdCopy d with
      | some (true, _) => { d with copyB := some (manFor m i) }
      | _ => { d with manifest := some (manFor m i) }
  { s with led.manifest := some m, led.ssd := s.led.ssd.map (fun e => (e.1, put e.1 e.2)) }

/-! ## Keys (R93 to R98) -/

/-- The entry of a key ID: as the device holds it, else read and verified; one that fails its check is handled as Empty (R93, R94). -/
def keyEntry (s : State) (k : BitVec 20) : BitVec 512 := (nodeAt s true 3 k.toNat).getD 0
/-- The device writes an entry (R93, R111). -/
def setKeyEntry (k : BitVec 20) (e : BitVec 512) (s : State) : State := setNode true 0 k.toNat e s

/-- The expanded context that the Quay key partition holds for a key ID (R98). -/
def heldCtx (s : State) (k : BitVec 20) : Option KeyCtx :=
  (List.range 16).findSome? (fun i => (sget none s.quay.keyCtx (k.toNat % 256 * 16 + i)).filter (fun c => c.keyId = k))

/-- The expanded context of an Active key: as the key partition holds it, else unwrapped under the KWK and derived under TREE_NONCE;
none when the unwrap fails (R94, R98). -/
def keyCtxOf (s : State) (k : BitVec 20) : Option (BitVec 256 × BitVec 64) :=
  if kState (keyEntry s k) = 1 then
    match heldCtx s k with
    | some c => some (c.kwork, c.h)
    | none => match s.sec.kwk with
      | some kwk => (kwUnwrap kwk (kWrapped (keyEntry s k))).map (fun key =>
          (workKey key s.sec.treeNonce, hashKey key s.sec.treeNonce))
      | none => none
  else none

/-- STATE of a key ID as accesses and commands see it: an Active entry whose unwrap fails is handled as Empty (R94). -/
def keyState (s : State) (k : BitVec 20) : Nat :=
  if kState (keyEntry s k) = 1 && (keyCtxOf s k).isNone then 0 else kState (keyEntry s k)

/-- Raise or lower PAGE_COUNT (R97). -/
def keyCount (k : BitVec 20) (up : Bool) (s : State) : State :=
  let e := keyEntry s k
  let n := if up then kPages e + 1 else kPages e - 1
  setKeyEntry k (setField e 328 (BitVec.ofNat 34 n)) s

/-! ## Counters (R103 to R107) -/

/-- The counter block of a page. -/
def ctrOf (s : State) (page : Nat) : BitVec 512 := (nodeAt s false 5 page).getD 0
/-- Write the counter block of a page. -/
def setCtr (page : Nat) (c : BitVec 512) (s : State) : State := ctrRoom 8 (setNode false 0 page c s)

/-! ## Descriptors (R42 to R48) -/

/-- The descriptor of a page as stored. -/
def descRaw (s : State) (page : Nat) : BitVec 128 := sget 0 s.quay.desc page
/-- The descriptor of a page as accesses see it (R45). -/
def descOf (s : State) (page : Nat) : BitVec 128 := dView (descRaw s page)

/-- One Quay-held update of a descriptor (R48): PAGE_COUNT follows SEALED and KEY_ID (R97), the valid map and its
summary cover the frame (R43), and Persistence Assured follows D. -/
def setDesc (page : Nat) (d : BitVec 128) (s : State) : State :=
  let o := descRaw s page
  let s := { s with quay.desc := sset 0 s.quay.desc page d,
                    dram.descValid := sset false s.dram.descValid (page / 256) true,
                    dram.descSummary := sset false s.dram.descSummary (page / 256 / 32768) true }
  let same := dSealed o = dSealed d && dKey o = dKey d
  let s := if dSealed o && !same then keyCount (dKey o) false s else s
  let s := if dSealed d && !same then keyCount (dKey d) true s else s
  if dDirty o = dDirty d then s else refreshPA s

/-- Change a descriptor. -/
def modDesc (page : Nat) (f : BitVec 128 → BitVec 128) (s : State) : State := setDesc page (f (descOf s page)) s

/-- R105: a placement under MAJOR + 1 that ends in Poisoned commits the counter as well. -/
def burnMajor (page : Nat) (s : State) : State :=
  if dSealed (descOf s page) then setCtr page (mkCtr (cMajor (ctrOf s page) + 1)) s else s

/-- SOURCE of an entry about a DRAM line: its channel (R444). -/
def chanSrc (s : State) (addr : Nat) : BitVec 10 :=
  match coord s addr with
  | some c => epDch c.ch
  | none => epMgt0

/-- The key context of a sealed page is not available: its accesses return ERR_DATA (R94). -/
def keyGone (s : State) (page : Nat) : Bool := dSealed (descOf s page) && (keyCtxOf s (dKey (descOf s page))).isNone
/-- R94: an Active entry that does not unwrap is logged by the bank that asks for it; one handled as Empty already is not
logged again. -/
def logKeyGone (page : Nat) (s : State) : State :=
  let k := dKey (descOf s page)
  if kState (keyEntry s k) = 1 then logIt { cause := 0x02, src := epQb (descBank s page), key := k } s else s

/-- The berth line of line i of a page (R56, R71): its DRAM line address. -/
def lineAddr (d : BitVec 128) (i : Nat) : Option Nat :=
  match dState d with
  | .hot => some (dDfa d * 64 + i)
  | .retired => some ((if i < dCopied d then dNewDfa d else dDfa d) * 64 + i)
  | .poisoned | .orphaned => if dBerth d then some (dPDfa d * 64 + i) else none
  | _ => none

/-- A LINE_MASK bit is set: the line returns ERR_DATA (R56). -/
def lineMasked (d : BitVec 128) (i : Nat) : Bool :=
  (dState d = .poisoned || dState d = .orphaned) && (dMask d).getLsbD i

/-- R60: HOTNESS and DECAY_STAMP of a descriptor brought to the current epoch. -/
def decay (s : State) (d : BitVec 128) : BitVec 128 :=
  match dState d with
  | .hot | .warm | .retired =>
    let el := (s.tier.decayEpoch.toNat + 256 - dStamp d) % 256
    setField (setField d 32 (BitVec.ofNat 8 (dHot d / 2 ^ min el 8))) 40 s.tier.decayEpoch
  | _ => d

/-- R59, R60: an access decays the counter and adds its increment, saturating. -/
def touch (s : State) (isWrite : Bool) (d : BitVec 128) : BitVec 128 :=
  match dState d with
  | .hot | .warm | .retired =>
    let d := decay s d
    setField d 32 (BitVec.ofNat 8 (min 255 (dHot d + param s 0x02 (if isWrite then 1 else 0))))
  | _ => d

/-! ## Frames (R66 to R68) -/

/-- The frame map entry of a frame; the frames of the harness's regions read USE = 0b011. -/
def frameEntry (s : State) (dfa : Nat) : BitVec 64 :=
  if (regionOf s dfa).isSome then 3 else sget 0 s.dram.frameMap dfa
def setFrame (dfa : Nat) (e : BitVec 64) (s : State) : State := { s with dram.frameMap := sset 0 s.dram.frameMap dfa e }

/-- Frames of the tiering pool. -/
def poolSize (s : State) : Nat := totalFrames s - ((regions s).map (fun r => r.2.2)).foldl (· + ·) 0
/-- Free frames of the pool. -/
def freeFrames (s : State) : Nat := poolSize s - s.dram.frameMap.length
/-- Free frames stand below a watermark, given in units of 0.01% (Table 2.4). -/
def belowWm (s : State) (idx : Nat) : Bool := freeFrames s * 10000 < param s 0x02 idx * poolSize s
/-- Free frames stand at or below a watermark (R228). -/
def atWm (s : State) (idx : Nat) : Bool := freeFrames s * 10000 ≤ param s 0x02 idx * poolSize s
/-- Free frames stand at or below RESERVE_WM (R67). -/
def atReserve (s : State) : Bool := freeFrames s * 10000 ≤ param s 0x02 9 * poolSize s

/-- The first frame after the channel set that holds a frame (R132). -/
def setEnd : List ChanSet → Nat → Nat → Nat
  | [], _, d => d + 1
  | c :: r, base, d => if d < base + c.frames then base + c.frames else setEnd r (base + c.frames) d

/-- The next frame of a die that has never been used, from `d` upward. Regions are stepped over, and so is the rest of a channel
set in which none of 16 frames in a row is the die's, since R132 repeats the dies of its frames at least that often. -/
def nextFresh (s : State) (die : Nat) : Nat → Nat → Option Nat
  | 0, _ => none
  | n + 1, d =>
    if totalFrames s ≤ d then none
    else match regionOf s d with
      | some r => nextFresh s die n (r.2.1 + max r.2.2 1)
      | none =>
        if dieOf s d ≠ die then
          nextFresh s die n (if (List.range 16).any (fun k => dieOf s (d + k) = die) then d + 1 else setEnd (chanSets s) 0 d)
        else if sget 0 s.dram.frameMap d ≠ 0 then nextFresh s die n (d + 1)
        else some d

/-- Take the frame at the head of a die's free list (R67): never-used frames in ascending order, then the frames freed
since, oldest first. -/
def takeFrame (die : Nat) (s : State) : Option (Nat × State) :=
  match nextFresh s die 65536 (sget 0 s.dram.fresh die) with
  | some d => some (d, { s with dram.fresh := sset 0 s.dram.fresh die (d + 1) })
  | none => match sget [] s.dram.freed die with
    | d :: r => some (d, { s with dram.freed := sset [] s.dram.freed die r })
    | [] => none

/-- Allocate a frame from a die's list, else from the other die's (R67). While free frames are at or below RESERVE_WM
only the `always` uses are served. -/
def allocFrame (die : Nat) (always : Bool) (s : State) : Option (Nat × State) :=
  if atReserve s && !always then none
  else match takeFrame die s with
    | some r => some r
    | none => if s.fuse.variantH then none else takeFrame (1 - die) s

/-- Mark a frame retired (R70): it is never allocated again. -/
def markRetired (dfa : Nat) (s : State) : State :=
  setFrame dfa 4 { s with dram.retireList := s.dram.retireList.filter (· ≠ dfa), dram.freed := s.dram.freed.map (fun e => (e.1, e.2.filter (· ≠ dfa))) |>.filter (fun e => !e.2.isEmpty) }

/-- Return a frame to its die's free list, in the order in which frames become free; a retired frame stays retired, and
a frame that waits for its retirement is marked retired (R70, R73). -/
def freeFrame (dfa : Nat) (s : State) : State :=
  if fUse (sget 0 s.dram.frameMap dfa) = 4 then s
  else if s.dram.retireList.contains dfa then markRetired dfa s
  else
    let s := setFrame dfa 0 s
    { s with dram.freed := sset [] s.dram.freed (dieOf s dfa) (sget [] s.dram.freed (dieOf s dfa) ++ [dfa]) }

/-- The open granule frame with the lowest DFA that has room for a run of `g` granules (R68). -/
def openFor (s : State) (g : Nat) : Option Nat :=
  (s.dram.openGran.filter (fun f => let e := frameEntry s f; fFill e + g ≤ 63 && fRuns e < 12)).min?

/-- Close the open frame with the least room when OPEN_GRANULE_FRAMES frames are open (R68); of several, the one opened first
(DESIGN CHOICE, log entry 99). -/
def closeFullest (s : State) : State :=
  if s.dram.openGran.length < param s 0x02 11 then s
  else
    let m := (s.dram.openGran.map (fun f => fFill (frameEntry s f))).foldl max 0
    match s.dram.openGran.find? (fun f => fFill (frameEntry s f) = m) with
    | some f => { s with dram.openGran := s.dram.openGran.filter (· ≠ f) }
    | none => s

/-- A granule frame with room for `g` granules: an open one, else a free frame that is opened (R68); at or below RESERVE_WM a
frame is opened for the `always` uses only (R67). -/
def granFrame (die g : Nat) (always : Bool) (s : State) : Option (Nat × State) :=
  match openFor s g with
  | some f => some (f, s)
  | none => (allocFrame die always s).map (fun (f, s) =>
      let s := closeFullest s
      (f, setFrame f (mkGranFrame 0 0 0) { s with dram.openGran := s.dram.openGran ++ [f] }))

/-- Append a run of `g` granules of a page at FILL of frame `f`: its granule address (R68). It takes the lowest free record of the run
index (DESIGN CHOICE, log entry 99). -/
def placeRun (f page g : Nat) (s : State) : Nat × State :=
  let e := frameEntry s f
  let x := sget 0 s.dram.runIdx f
  let i := ((List.range 12).find? (fun i => (runRec x i).isNone)).getD 0
  (f * 64 + fFill e,
   setFrame f (mkGranFrame (fFill e + g) (fLive e + g) (fRuns e + 1))
     { s with dram.runIdx := sset 0 s.dram.runIdx f (setRun x i (some (fFill e, page))) })

/-- Free a run (R68): its record is cleared and LIVE lowered; a frame whose LIVE is 0 returns to the free list. -/
def freeRun (gaddr g : Nat) (s : State) : State :=
  let f := gaddr / 64
  let e := frameEntry s f
  let x := sget 0 s.dram.runIdx f
  let x' := match (List.range 12).find? (fun i => ((runRec x i).map Prod.fst) = some (gaddr % 64)) with
    | some i => setRun x i none
    | none => x
  if fLive e ≤ g then
    freeFrame f { s with dram.runIdx := sset 0 s.dram.runIdx f 0, dram.openGran := s.dram.openGran.filter (· ≠ f) }
  else setFrame f (mkGranFrame (fFill e) (fLive e - g) (fRuns e)) { s with dram.runIdx := sset 0 s.dram.runIdx f x' }

/-- Free a run that a descriptor update has replaced, once no decode of it is in flight (R86). -/
def retireRun (gaddr : Nat) (sizes : List Nat) (s : State) : State :=
  let g := sizes.foldl (· + ·) 0
  if sget 0 s.tier.decodes gaddr = 0 then freeRun gaddr g s
  else { s with tier.oldRuns := s.tier.oldRuns ++ [(gaddr, BitVec.ofNat 20 g)] }

/-! ## Lines of berths and runs in stored form -/

/-- The position of a berth line (R103). -/
def berthPos (c : BitVec 512) (page i : Nat) : SealPos :=
  { major := cMajor c, minor := cMinor c i, addr := lineOf page i, form := 0 }
/-- The position of a granule of a page's run (R103). -/
def runPos (major : BitVec 64) (page g : Nat) : SealPos :=
  { major := major, minor := 0, addr := lineOf page g, form := 1 }

/-- The keys of a page with a position; none when the key context is not available (R94). -/
def sealKeyOf (s : State) (key : BitVec 20) (p : SealPos) : Option SealKey :=
  (keyCtxOf s key).map (fun k => { kwork := k.1, h := k.2, key := key, pos := p })

/-- The stored form of a line of a page: plain or sealed (R113, R115, R148). -/
def storedForm (s : State) (isSealed : Bool) (key : BitVec 20) (p : SealPos) (x : BitVec 512) (poison : Bool) :
    Option (BitVec 640) :=
  if isSealed then (sealKeyOf s key p).map (fun k => sealStore k x poison) else some (plainStore x poison)

/-- What a read line of a page holds: its bytes and whether it is poisoned; none for Fail and Uncorrectable. -/
def readCheck (s : State) (isSealed : Bool) (key : BitVec 20) (p : SealPos) (addr : Nat) (st : BitVec 640) :
    Check × Option (BitVec 512 × Bool) :=
  if lineOffline s addr then (.fail, none)
  else if isSealed then
    match sealKeyOf s key p with
    | none => (.fail, none)
    | some k => match sealCheckLine k st (markOf s addr) with
      | .valid t d => (.valid t d, some (sealOpen k t, false))
      | .poisoned t d => (.poisoned t d, some (sealOpen k t, true))
      | .fail => (.fail, none)
  else match plainCheckLine st (markOf s addr) with
    | .valid t d => (.valid t d, some (devLine (devs t), false))
    | .poisoned t d => (.poisoned t d, some (devLine (devs t), true))
    | .fail => (.fail, none)

/-- Line i of a page's berth as it is stored now. -/
def berthLine (s : State) (page i : Nat) : Option (BitVec 512 × Bool) :=
  let d := descOf s page
  match lineAddr d i with
  | none => none
  | some a => (readCheck s (dSealed d) (dKey d) (berthPos (ctrOf s page) page i) a (dramContent s a)).2

/-- The plaintext of a stored line whatever its check says: the bytes as read (R116, R120). -/
def rawLine (s : State) (isSealed : Bool) (key : BitVec 20) (p : SealPos) (st : BitVec 640) : BitVec 512 :=
  if isSealed then match sealKeyOf s key p with
    | some k => sealOpen k st
    | none => 0
  else devLine (devs st)

/-- Write a line in stored form; nothing is stored when the key context is not available (R94). -/
def putForm (addr : Nat) (f : Option (BitVec 640)) (s : State) : State :=
  match f with
  | some st => dramWrite addr st s
  | none => s

/-- Rewrite all 64 lines of a berth under (MAJOR + 1, 0), line `skip` with new content when it is given (R104, R106). A
line that fails verification is written poisoned and logged. -/
def rewriteBerth (page : Nat) (new : Option (Nat × BitVec 512 × Bool)) (s : State) : State :=
  let d := descOf s page
  let c := ctrOf s page
  let c' := mkCtr (cMajor c + 1)
  let s' := (List.range 64).foldl (fun t j =>
    match lineAddr d j with
    | none => t
    | some a =>
      let old := (readCheck s (dSealed d) (dKey d) (berthPos c page j) a (dramContent s a)).2
      let (x, p, bad) : BitVec 512 × Bool × Bool := match new with
        | some (i, x, p) => if i = j then (x, p, false) else match old with
          | some (y, q) => (y, q, false)
          | none => (rawLine s (dSealed d) (dKey d) (berthPos c page j) (dramContent s a), true, true)
        | none => match old with
          | some (y, q) => (y, q, false)
          | none => (rawLine s (dSealed d) (dKey d) (berthPos c page j) (dramContent s a), true, true)
      let t := putForm a (storedForm t (dSealed d) (dKey d) (berthPos c' page j) x p) t
      if bad then logIt { cause := 0x12, src := chanSrc s a, kind := 1, addr := (lineOf page j).toNat * 64, loc := locOf s a 0xF, key := dKey d } t
      else t) s
  setCtr page c' s'

/-- Write new content into line i of a page's berth: a sealed line takes a fresh counter (R104, R115). -/
def writeBerth (page i : Nat) (x : BitVec 512) (poison : Bool) (s : State) : State :=
  let d := descOf s page
  match lineAddr d i with
  | none => s
  | some a =>
    if !dSealed d then dramWrite a (plainStore x poison) s
    else
      let c := ctrOf s page
      if cMinor c i = 127 then rewriteBerth page (some (i, x, poison)) s
      else
        let c' := setField c (64 + 7 * i) (cMinor c i + 1)
        putForm a (storedForm s true (dKey d) (berthPos c' page i) x poison) (setCtr page c' s)

/-- Fill a new berth with 64 lines under (MAJOR + 1, 0) (R105), with hint 0b11 (R136); the descriptor is written by the caller. -/
def fillBerth (page dfa : Nat) (isSealed : Bool) (key : BitVec 20) (lines : List (BitVec 512 × Bool)) (s : State) : State :=
  let c' := mkCtr (cMajor (ctrOf s page) + 1)
  let s := doWork (streamWork s) (fun s => (List.range 64).foldl (fun t j =>
    let (x, p) := lines.getD j (0, false)
    putForm (dfa * 64 + j) (storedForm t isSealed key (berthPos c' page j) x p) t) s) s
  if isSealed then setCtr page c' s else s

/-- Write a page's bales as a run under (MAJOR + 1, 0) (R103, R105), with hint 0b11 (R136). -/
def fillRun (page gaddr : Nat) (isSealed : Bool) (key : BitVec 20) (g : List (BitVec 512)) (s : State) : State :=
  let c' := mkCtr (cMajor (ctrOf s page) + 1)
  let s := doWork (streamWork s) (fun s => (g.zipIdx).foldl (fun t p =>
    putForm (gaddr + p.2) (storedForm t isSealed key (runPos (cMajor c') page p.2) p.1 false) t) s) s
  if isSealed then setCtr page c' s else s

/-- Granule g of a Warm page as it is stored now; a poisoned granule fails (R81). -/
def runGranule (s : State) (page : Nat) (d : BitVec 128) (g : Nat) : Option (BitVec 512) :=
  let a := dGranule d + g
  match (readCheck s (dSealed d) (dKey d) (runPos (cMajor (ctrOf s page)) page g) a (dramContent s a)).2 with
  | some (x, false) => some x
  | _ => none

/-- The granules of a Warm page's run that a line needs: the header granule of its bale, and the body granules of its record; a zero
line and a poisoned line need no body (R76, R82). -/
def neededGranules (s : State) (page i : Nat) : List Nat :=
  let d := descOf s page
  let off := ((dSizesW d).take (i / 16)).foldl (· + ·) 0
  match runGranule s page d off with
  | none => [off]
  | some h => off :: (recordGranules h (i % 16)).map (off + ·)

/-- One line of a Warm page (R80, R82): the header granule and the body granules of its record; none when a granule that is read
or the decode of this line fails. -/
def warmLine (s : State) (page i : Nat) : Option (BitVec 512 × Bool) :=
  let d := descOf s page
  let b := i / 16
  let off := ((dSizesW d).take b).foldl (· + ·) 0
  match runGranule s page d off with
  | none => none
  | some h =>
    if !baleHeaderOk h (dBaleW d b) then none
    else
      let need := recordGranules h (i % 16)
      match need.mapM (fun g => runGranule s page d (off + g)) with
      | none => none
      | some body =>
        let bale := (List.range (dBaleW d b)).map (fun g => if g = 0 then h else
          match need.findIdx? (· = g) with | some j => body.getD j 0 | none => 0)
        match decodeLine bale (i % 16) with
        | .ok x => some (x, false)
        | .poisoned x => some (x, true)
        | .fail => none

/-- DRAM reads that an engine of the device makes for a class, in command slots of their channels (R233, R238); the write queue
answers a line that it holds (R138). -/
def readNow (cls : BitVec 8) (addr : Nat) (s : State) : State :=
  match coord s addr with
  | none => s
  | some c =>
    if (chan s c.ch).writeQ.any (fun q => q.addr = addr) then evDch c.ch 16 s
    else evDch c.ch 0 (countUse (instDch c.ch) cls 1 (evDch c.ch 4 s))

/-- The DRAM line addresses of a page's berth or run. -/
def pageAddrs (s : State) (page : Nat) : List Nat :=
  let d := descOf s page
  match dState d with
  | .warm => (List.range ((dSizesW d).foldl (· + ·) 0)).map (dGranule d + ·)
  | _ => (List.range 64).filterMap (lineAddr d)

/-- A tile, a mover or an engine reads a whole page for a class. -/
def readPage (cls : BitVec 8) (page : Nat) (s : State) : State := (pageAddrs s page).foldl (fun t a => readNow cls a t) s

/-- All granules of a Warm page's run. -/
def readRun (s : State) (page : Nat) : Option (List (BitVec 512)) :=
  let d := descOf s page
  (List.range ((dSizesW d).foldl (· + ·) 0)).mapM (runGranule s page d)

/-- The 64 lines of a Warm page; none when a granule or a decode fails (R55). -/
def warmLines (s : State) (page : Nat) : Option (List (BitVec 512 × Bool)) :=
  (readRun s page).bind (decodePage (dSizesW (descOf s page)))

end Sys2Proof.Machine
end

