-- ==== Sys2Proof/Machine/Flags.lean ====
section
/-! DEFINITION. The computed conditions that responses and orderings rest on: deadlines and slack (R231, R232), the
class of a request, the choices of Table 6.4, and the results of atomics (R183). -/

namespace Sys2Proof.Machine

/-! ## Deadlines -/



/-- R232: the slack has fallen to -2^22 ticks or below. -/
def overdueAt (due : Option Nat) (t : Nat) : Bool :=
  match due with
  | none => false
  | some d => slackTicks d t ≤ -4194304

/-- R233: the deadline field of a request or snoop that the device sends. -/
def sendDeadline (due : Option Nat) (t : Nat) : BitVec 12 :=
  match due with
  | none => 0xFFF
  | some d => let k := slackTicks d t
    if k < 0 then 0 else if 0xFFE < k then 0xFFE else BitVec.ofInt 12 k


/-! ## The home's choices (Table 6.4) -/

/-- The kinds of directory entry that Table 6.4 tells apart. -/
inductive EntryKind where
  | none | shared | owned | broadcast | any
  deriving DecidableEq, Repr

/-- The kind of an entry found by a lookup. -/
def entryKind (e : BitVec 128) : EntryKind :=
  match eState e with
  | 1 => .shared
  | 2 => .owned
  | 3 => if eAny e then .any else .broadcast
  | _ => .none

/-- An uncached write or an atomic. -/
def isStore (op : BitVec 8) : Bool := 0x08 ≤ op.toNat && op.toNat ≤ 0x19
/-- An atomic (Table 10.1). -/
def isAtomic (op : BitVec 8) : Bool := 0x10 ≤ op.toNat && op.toNat ≤ 0x19

/-- The snoops of Table 6.4: node, snoop, kind of holder. `hit` says that the line is in the Quay data partition. -/
def planSnoops (members : List Node) (fwdEnable hit : Bool) (e : BitVec 128) (op : BitVec 8) (req : Node) :
    List (Node × SnoopKind × Holder) :=
  let others (l : List Node) : List Node := l.filter (· ≠ req)
  match entryKind e with
  | .none => []
  | .shared =>
    if op = 0x01 then []
    else if op = 0x02 then
      match eFholder e with
      | some f => if ePcount e < 4 && fwdEnable && !hit && f ≠ req then [(f, .fwd, .furnisher)] else []
      | none => []
    else (others (ePtrs e)).map (fun n => (n, .inv, .sharer))
  | .owned => (others [ePtr e 0]).map (fun n => (n, if op = 0x01 || op = 0x02 then .share else .inv, .owner))
  | .broadcast => if op = 0x01 || op = 0x02 then [] else (others members).map (fun n => (n, .inv, .member))
  | .any => (others members).map (fun n => (n, if op = 0x01 || op = 0x02 then .share else .inv, .any))

/-- The grant of Table 6.4: DATA_E 0x48, DATA_S 0x49, DATA_F 0x4A, DATA_I 0x4B, CMP_E 0x4C. -/
def grantOp (grantE : Bool) (e : BitVec 128) (op : BitVec 8) (req : Node) : BitVec 8 :=
  if op = 0x01 then 0x4B
  else if op = 0x02 then
    match entryKind e with
    | .none => if grantE then 0x48 else 0x4A
    | .shared => if ePcount e < 4 && !eFvalid e then 0x4A else 0x49
    | .owned => 0x4A
    | .broadcast | .any => 0x49
  else if op = 0x04 && entryKind e = .shared && (ePtrs e).contains req then 0x4C
  else 0x48

/-- "Entry after" of Table 6.4, with what the snooped nodes reported (Table 6.5): `kept` lists nodes that keep S,
`fLost` is 1 when the F holder reported no copy and 2 when it reported S. The zero entry is Free. -/
def entryAfter (grantE : Bool) (e : BitVec 128) (line : Line) (op : BitVec 8) (req : Node) (kept : List Node)
    (fLost : Nat) : BitVec 128 :=
  match entryKind e with
  | .any => e
  | .none =>
    if op = 0x02 then (if grantE then mkOwned line req else mkShared line [req] (some req))
    else if op = 0x03 || op = 0x04 then mkOwned line req else 0
  | .shared =>
    if op = 0x01 then e
    else if op = 0x02 then
      let ps := if fLost = 1 then (ePtrs e).filter (fun n => some n ≠ eFholder e) else ePtrs e
      if ps.contains req then (if fLost = 0 then e else mkShared line ps none)
      else if ps.length < 4 then
        mkShared line (ps ++ [req])
          (if eFvalid e then (if fLost = 0 then eFholder e else none) else some req)
      else mkBroadcast line
    else if op = 0x03 || op = 0x04 then mkOwned line req else 0
  | .owned =>
    let o := ePtr e 0
    if op = 0x01 then (if kept.contains o then mkShared line [o] none else 0)
    else if op = 0x02 then (if kept.contains o then mkShared line [o, req] (some req) else mkShared line [req] (some req))
    else if op = 0x03 || op = 0x04 then mkOwned line req else 0
  | .broadcast =>
    if op = 0x01 || op = 0x02 then e else if op = 0x03 || op = 0x04 then mkOwned line req else 0

/-- The entry after a request that ends in an error and grants nothing: the snooped holders as they reported. -/
def entryOnError (e : BitVec 128) (line : Line) (op : BitVec 8) (req : Node) (kept : List Node) (fLost : Nat) : BitVec 128 :=
  if op = 0x02 && entryKind e = .shared then
    (if fLost = 0 then e
     else mkShared line (if fLost = 1 then (ePtrs e).filter (fun n => some n ≠ eFholder e) else ePtrs e) none)
  else if op = 0x01 || op = 0x02 then entryAfter true e line 0x01 req kept fLost
  else if entryKind e = .any then e else 0

/-! ## Atomics (R183, R303) -/

/-- The operand of an atomic is naturally aligned and of a defined size (R183). -/
def atomicOk (r : Req) : Bool := r.opndSize = 0 || (r.opndSize = 1 && !r.opndOff.getLsbD 0)

/-- The result of an atomic of width `w` on the old value (R183): operand `a`, second operand `b` of AT_CAS. -/
def atomicResult (w : Nat) (op : BitVec 8) (old a b : BitVec w) : BitVec w :=
  match op.toNat with
  | 0x10 => old + a
  | 0x11 => a
  | 0x12 => if old = a then b else old
  | 0x13 => old &&& a
  | 0x14 => old ||| a
  | 0x15 => old ^^^ a
  | 0x16 => if a.slt old then a else old
  | 0x17 => if old.slt a then a else old
  | 0x18 => if a.ult old then a else old
  | 0x19 => if old.ult a then a else old
  | _ => old

/-- An atomic on a line: the new line and the old value, zero-extended from 4 B (R183, R303, Table 10.4). -/
def atomicLine (r : Req) (x : BitVec 512) : BitVec 512 × BitVec 64 :=
  let lo := 32 * r.opndOff.toNat
  if r.opndSize = 1 then
    let old : BitVec 64 := x.extractLsb' lo 64
    (setField x lo (atomicResult 64 r.op old (r.operand.extractLsb' 0 64) (r.operand.extractLsb' 64 64)), old)
  else
    let old : BitVec 32 := x.extractLsb' lo 32
    (setField x lo (atomicResult 32 r.op old (r.operand.extractLsb' 0 32) (r.operand.extractLsb' 64 32)), old.setWidth 64)

/-- Lay the bytes that `mask` enables over a line (R29). -/
def overlay (mask : BitVec 64) (new old : BitVec 512) : BitVec 512 :=
  (List.range 64).foldl (fun acc i => if mask.getLsbD i then setField acc (8 * i) (byteAt new i) else acc) old

end Sys2Proof.Machine
end

