-- ==== Sys2Proof/Machine/Pages.lean ====
section
/-! DEFINITION. Operations on pages: the page operation table, the transitions of Table 2.3 that several commands share,
frame retirement, and the eviction and merge of lines of the Quay data partition. -/

namespace Sys2Proof.Machine

/-! ## The page operation table (R47) -/

def opOf (s : State) (page : Nat) : Option PageOp := s.tier.ops.find? (fun o => o.page = page)
def setOps (f : List PageOp → List PageOp) (s : State) : State := { s with tier.ops := f s.tier.ops }
/-- Change the operation of a page. -/
def modOp (page : Nat) (f : PageOp → PageOp) (s : State) : State :=
  setOps (fun l => l.map (fun o => if o.page = page then f o else o)) s
def endOp (page : Nat) (s : State) : State := setOps (fun l => l.filter (fun o => o.page ≠ page)) s
def opCount (s : State) (k : OpKind) : Nat := (s.tier.ops.filter (fun o => o.kind = k)).length
/-- The table has room: 8,192 entries (R47). -/
def opRoom (s : State) : Bool := s.tier.ops.length < 8192
/-- The device's own work of a class that is under way: tier operations that no request opened (R234, R247). -/
def ownWork (s : State) (c : BitVec 8) : Nat := (s.tier.ops.filter (fun o => o.cls = c && (o.kind ≠ .fault || o.restore ≠ 0))).length
/-- Work of a class may start: without budgets, below the class's OUT_CAP (R247). -/
def capRoom (s : State) (c : BitVec 8) : Bool := !capped s.aon.mode || sget 0 s.reins.outst c.toNat + ownWork s c < outCap s c.toNat
/-- An operation of TIER_CLASS may start (R47, R247). -/
def ownRoom (s : State) : Bool := opRoom s && capRoom s (deviceClass s)
/-- Another demand fault may open: 4,096 per device (R35). -/
def faultRoom (s : State) : Bool := opRoom s && opCount s .fault < 4096
/-- Tier operations may start: not in Holdup, where they are at rest (R219). -/
def tierRuns (s : State) : Bool := s.aon.mode ≠ .holdup

/-- The die that holds a page's descriptor bank (R67). -/
def descDie (s : State) (page : Nat) : Nat := descBank s page / 8

/-! ## Cargo tiles (R87) -/

/-- The tiles of a die that hold a role. -/
def tilesOf (s : State) (die role : Nat) : List Nat :=
  ((List.range 48).map (· + 48 * die)).filter (fun t => tileRole s t = role)
/-- Line decodes in a tile's queue. -/
def lineLoad (s : State) (t : Nat) : Nat := (s.quay.txns.filter (fun x => x.run.isSome && x.tile = t)).length
/-- Pages in a compressor tile's queue. -/
def packLoad (s : State) (t : Nat) : Nat := (s.tier.ops.filter (fun o => o.kind = .demotion && o.tile = t)).length

/-- The role of a tile in use: a tile keeps its role for what it has accepted, and a change waits for its queue to drain (R88). -/
def roleNow (s : State) (t : Nat) : Nat := if lineLoad s t ≠ 0 then 0 else if packLoad s t ≠ 0 then 1 else tileRole s t
/-- The tiles of a die that take work of a role. -/
def tilesFor (s : State) (die role : Nat) : List Nat := (tilesOf s die role).filter (fun t => roleNow s t = role)

/-- The tiles that a home bank may use for a role, in the order of its rotating pointer: its own die, then the other. -/
def tileOrder (s : State) (bank role : Nat) : List Nat :=
  let p := sget 0 s.tier.poolPtr (bank * 4 + role)
  let turn (l : List Nat) : List Nat := l.rotateLeft (p % max l.length 1)
  turn (tilesFor s (bank / 8) role) ++ (if s.fuse.variantH then [] else turn (tilesFor s (1 - bank / 8) role))

/-- The first tile of a list with room in its queue. A sleeping tile counts as full while an awake tile of its die has room
(R400). -/
def pickTile (s : State) (l : List Nat) (room : Nat → Bool) : Option Nat :=
  let awake (t : Nat) : Bool := (domOf s t).st ≠ .asleep
  l.find? (fun t => room t && (awake t || !l.any (fun x => x / 48 = t / 48 && room x && awake x)))

/-- Work placed on a sleeping tile is a wake event of its domain (R331, R396). -/
def wakeTile (t : Nat) (s : State) : State :=
  if (domOf s t).st = .asleep then modDom t (fun d => { d with wakeEvent := true }) s else s

/-- Place work on a tile: full queues are skipped and counted; none when every queue is full. The pointer, one per bank and role, is the
same for both dies and counts each placement (DESIGN CHOICE, log entry 98: R87 says only that it rotates). -/
def placeTile (bank role cap : Nat) (load : Nat → Nat) (s : State) : Option (Nat × State) :=
  let l := tileOrder s bank role
  (pickTile s l (fun t => load t < cap)).map (fun t =>
    let s := (l.takeWhile (fun x => cap ≤ load x)).foldl (fun u x => evTile x 7 1 u) s
    (t, wakeTile t { s with tier.poolPtr := smod 0 s.tier.poolPtr (bank * 4 + role) (· + 1) }))

/-- A decompressor of the device has room in its queue. -/
def decodeRoom (s : State) (bank : Nat) : Bool := (tileOrder s bank 0).any (fun t => lineLoad s t < 32)

/-- DLA of a line as a log address (R444). -/
def dla (l : Line) : Nat := l.toNat * 64

/-! ## Corrections (R138, R149, R457) -/

/-- The bank code of a DRAM line address as a number, with its row space: a key of the bank table. -/
def bankKeyOf (s : State) (addr : Nat) : Option Nat := (coord s addr).map bankCode

/-- A correction counts for the frame and the bank (R457). -/
def countCorrection (addr : Nat) (s : State) : State :=
  let dfa := addr / 64
  let ft := s.tier.frameTable
  let ft :=
    if ft.any (fun e => e.1 = dfa) then ft.map (fun e => if e.1 = dfa then (e.1, e.2 + 1) else e)
    else if ft.length < 2048 then ft ++ [(dfa, 1)]
    else
      let low := (ft.map Prod.snd).foldl min (ft.headD (0, 0)).2
      let i := (ft.findIdx? (fun e => e.2 = low)).getD 0
      ft.set i (dfa, 1)
  let s := { s with tier.frameTable := ft }
  match bankKeyOf s addr with
  | none => s
  | some b =>
    let e := sget {} s.tier.bankTable b
    let ds := if e.dfas.contains dfa then e.dfas else (e.dfas ++ [dfa]).drop ((e.dfas.length + 1) - 4)
    { s with tier.bankTable := sset {} s.tier.bankTable b { e with count := e.count + 1, dfas := ds } }

/-- The key of a device's correction count: rank-and-CID index, subchannel and device (R150). -/
def devKey (s : State) (c : Coord) (dev : Nat) : Nat :=
  (32 * c.sub + c.rank * 2 ^ (chan s c.ch).pop.cidBits + c.cid) * 16 + dev

/-- A read of a line was corrected at a device: it is rewritten, unless a write of the line entered the queue after the read (`newer`,
R138); it is logged CE_DEVICE with record `r` and counted, unless the device is marked failed (R114, R149, R457). -/
def correctedAs (r : LogRec) (addr : Nat) (st : BitVec 640) (dev : Nat) (newer : Bool) (s : State) : State :=
  match coord s addr with
  | none => s
  | some c =>
    let s := evDch c.ch 12 s
    let s := if newer then evDch c.ch 23 s else correctiveRewrite addr st s
    if markOf s addr = some dev then s
    else
      let s := logIt { r with cause := 0x10, addr := r.addr, src := epDch c.ch, loc := locOf s addr dev } s
      let s := modChan c.ch (fun ch => { ch with corr := smod 0 ch.corr (devKey s c dev) (· + 1) }) s
      countCorrection addr s

/-- The entry that names a line of a berth by its DLA, a granule of a run by its DRAM line address and its page (R157). -/
def lineRec (s : State) (addr line : Nat) : LogRec :=
  if fUse (frameEntry s (addr / 64)) = 2 then { cause := 0x10, kind := 2, addr := addr, args := wide (line / 64) }
  else { cause := 0x10, kind := 1, addr := line * 64 }

/-- What a check found about correction, acted on (R114, R149); `newer` says that a write of the line has entered since the read. -/
def noteCheck (addr line : Nat) (k : Check) (newer : Bool) (s : State) : State :=
  match k with
  | .valid t (some d) => correctedAs (lineRec s addr line) addr t d newer s
  | .poisoned t (some d) => correctedAs (lineRec s addr line) addr t d newer s
  | _ => s

/-- A read of a line that failed at first has passed: CE_TRANSIENT, which counts as no correction (R154, R457). -/
def noteTransient (r : LogRec) (addr : Nat) (s : State) : State :=
  match coord s addr with
  | some c => logIt { r with cause := 0x11, src := epDch c.ch, loc := locOf s addr 0xF } (evDch c.ch 14 s)
  | none => s

/-- The check of a granule of a Warm page's run. -/
def granuleCheck (s : State) (page : Nat) (d : BitVec 128) (g : Nat) : Check :=
  let a := dGranule d + g
  (readCheck s (dSealed d) (dKey d) (runPos (cMajor (ctrOf s page)) page g) a (dramContent s a)).1

/-- Granules of a Warm page's run are read for a class; what was corrected is rewritten and noted (R114, R149). -/
def readGranules (cls : BitVec 8) (page : Nat) (gs : List Nat) (s : State) : State :=
  let d := descOf s page
  gs.foldl (fun t g => noteCheck (dGranule d + g) (page * 64) (granuleCheck s page d g) false (readNow cls (dGranule d + g) t)) s

/-- The key context of a line that a channel's sealing unit uses is one of the 64 that the unit holds; the oldest leaves (R98;
DESIGN CHOICE, log entry 92: the spec names no victim). -/
def useCtx (addr : Nat) (isSealed : Bool) (k : BitVec 20) (s : State) : State :=
  match coord s addr, keyCtxOf s k with
  | some c, some x =>
    if isSealed then
      let held := (chan s c.ch).ctxs.filter (fun y => y.keyId ≠ k)
      let mine : KeyCtx := { keyId := k, kwork := x.1, h := x.2, st := 1 }
      modChan c.ch (fun ch => { ch with ctxs := held.drop (held.length - 63) ++ [mine] }) s
    else s
  | _, _ => s

/-- A key context leaves the Quay key partition and every sealing unit (R96). -/
def dropCtx (k : BitVec 20) (s : State) : State :=
  { s with quay.keyCtx := s.quay.keyCtx.filter (fun e => (e.2.map KeyCtx.keyId) ≠ some k),
           dram.ch := s.dram.ch.map (fun e => (e.1, { e.2 with ctxs := e.2.ctxs.filter (fun y => y.keyId ≠ k) })) }

/-- Count an uncorrectable line of a channel. -/
def countUncorrectable (addr : Nat) (s : State) : State :=
  match coord s addr with
  | some c => evDch c.ch 13 s
  | none => s

/-! ## Starting tier operations -/

/-- A tier operation that the device starts on its own, now, in TIER_CLASS (R234). -/
def newOp (s : State) (page : Nat) (kind : OpKind) : PageOp :=
  { page := page, kind := kind, cls := deviceClass s, due := classDue s (designated s 2) }

/-- A demand fault opened for a piece of work has its class, and the smallest DUE of those that it serves (R233). -/
def PageOp.servedTo (t : Nat) (w : Work) (o : PageOp) : PageOp := { o with due := minDue t o.due w.due }

/-- Open a demand fault for a Cold page in the class and DUE of the work that needs it, or join the one that is open (R35, R233); a page
with another operation, or a full table, leaves the caller waiting (R47). In Holdup demand faults are abandoned (R219). -/
def openFault (w : Work) (page : Nat) (f : PageOp → PageOp) (s : State) : State :=
  if !tierRuns s then s
  else match opOf s page with
  | some o => if o.kind = .fault then modOp page (fun o => f (o.servedTo (tick s) w)) s else s
  | none =>
    if faultRoom s then
      evQb (descBank s page) 18 (setOps (· ++ [f { page := page, kind := .fault, cls := w.cls, due := w.due }]) s)
    else s

/-- Start a promotion of a Warm page. `force` marks the uses that R67 serves below the reserve. -/
def startPromotion (force : Bool) (page : Nat) (f : PageOp → PageOp) (s : State) : State :=
  match opOf s page with
  | some o => if o.kind = .promotion then modOp page f s else s
  | none =>
    if (force || (!atReserve s && tierRuns s)) && ownRoom s then
      evQb (descBank s page) 21 (setOps (· ++ [f (newOp s page .promotion)]) s)
    else s

/-- R59, R61, R64: an access adds to HOTNESS, and a Warm page that reaches PROMOTE_TH is promoted. -/
def touchPage (page : Nat) (isWrite : Bool) (s : State) : State :=
  let d := descOf s page
  match dState d with
  | .hot | .warm | .retired =>
    let d := touch s isWrite d
    let s := setDesc page d s
    if dState d = .warm && param s 0x02 4 ≤ dHot d && (opOf s page).isNone then startPromotion false page id s else s
  | _ => s

/-- A demotion stops: the page stays Hot, its granules take no frame, and a sealed berth is rewritten under (MAJOR + 1, 0) (R32, R106). -/
def abortDemotion (page : Nat) (s : State) : State :=
  let tile : Option Nat := (opOf s page).map PageOp.tile
  let s := evQb (descBank s page) 23 (endOp page s)
  let s := match tile with | some t => evTile t 1 1536 s | none => s
  if dSealed (descOf s page) then rewriteBerth page none s else s

/-! ## Poisoned and Orphaned pages (Table 2.3, R45, R57) -/

/-- Poison a page now. -/
def poisonNow (page : Nat) (s : State) : State :=
  let d := descOf s page
  let all := BitVec.allOnes 64
  match dState d with
  | .hot => setDesc page (mkMasked d .poisoned (some (dDfa d)) all) s
  | .warm => retireRun (dGranule d) (dSizesW d) (setDesc page (mkMasked d .poisoned none all) s)
  | .retired => setDesc page (mkMasked d .poisoned (some (dNewDfa d)) all) s
  | .poisoned | .orphaned => setDesc page (mkMasked d .poisoned (if dBerth d then some (dPDfa d) else none) all) s
  | .unbacked | .cold => setDesc page (mkMasked d .poisoned none all) s

/-- Poison a page; while a tier operation holds it, when that operation ends (R48, Table 2.3). -/
def poisonPage (page : Nat) (s : State) : State :=
  if (opOf s page).isSome then modOp page (fun o => { o with poisonAfter := true }) s else poisonNow page s

/-- The granules from a start to the next valid record of a frame, or to FILL: no run that starts there is longer. -/
def runSpan (s : State) (f st : Nat) : Nat :=
  let x := sget 0 s.dram.runIdx f
  let next := ((List.range 12).filterMap (fun j => (runRec x j).map Prod.fst)).filter (fun y => st < y)
  (next.min?).getD (fFill (frameEntry s f)) - st

/-- The granules of a run as its page's descriptor, or the entry of a replaced run, gives them. -/
def knownRun (s : State) (f st page : Nat) : Option Nat :=
  let d := descOf s page
  match s.tier.oldRuns.find? (fun r => r.1 = f * 64 + st) with
  | some r => some r.2.toNat
  | none => if dState d = .warm && dGranule d = f * 64 + st then some ((dSizesW d).foldl (· + ·) 0) else none

/-- The length of a run whose descriptor is lost: what LIVE leaves over the other runs of its frame, and no more than its span
(R45, R68; DEDUCED, log entry 93). -/
def lostRun (s : State) (f st : Nat) : Nat :=
  let x := sget 0 s.dram.runIdx f
  let others := ((List.range 12).filterMap (fun j => match runRec x j with
    | some (b, p) => if b = st then none else some ((knownRun s f b p).getD (runSpan s f b))
    | none => none)).foldl (· + ·) 0
  min (runSpan s f st) (fLive (frameEntry s f) - others)

/-- R45: the first access to a page whose descriptor is reserved stores its Poisoned form, frees what the frame map and the
run indexes assign to the page once no decode of it is in flight (R86), and logs DESC_FAULT. -/
def descFix (page : Nat) (s : State) : State :=
  if !dReserved (descRaw s page) then s
  else
    let fs := s.dram.frameMap.filter (fun e => fUse e.2 = 1 && fPage e.2 = page)
    let s := { s with quay.desc := sset 0 s.quay.desc page (dView (descRaw s page)) }
    let s := fs.foldl (fun t e => freeFrame e.1 t) s
    let runs := s.dram.runIdx.flatMap (fun e => (List.range 12).filterMap (fun i =>
      match runRec e.2 i with
      | some (st, p) => if p = page && !s.tier.oldRuns.any (fun r => r.1 = e.1 * 64 + st) then some (e.1, st) else none
      | none => none))
    let s := runs.foldl (fun t r => retireRun (r.1 * 64 + r.2) [lostRun t r.1 r.2] t) s
    logIt { cause := 0x06, src := epQb (descBank s page), kind := 4, addr := page } s

/-! ## Errors in the trees (R110, R111, R121, Table 4.7) -/

/-- The entry of UE_RESERVED: coordinates without a device, the DRAM line address and the region code (Table 5.7, R157, R506). -/
def logReserved (cls : BitVec 2) (code addr : Nat) (s : State) : State :=
  logIt { cause := 0x13, cls := some cls, kind := 2, addr := addr, loc := locOf s addr 0xF, args := [code],
          src := chanSrc s addr } s

/-- The entry that names a line of a reserved frame by its DRAM line address (R157). -/
def reservedRec (addr : Nat) : LogRec := { cause := 0x10, kind := 2, addr := addr }

/-- The tree, level and copy of the region code of a tree, with the index of a line of the region (R107, R108, R111, Table 13.7). -/
def treeOf (code idx : Nat) : Option (Bool × Nat × Nat × Nat) :=
  if 0x06 ≤ code && code ≤ 0x0B then some (false, code - 6, idx, 0)
  else if 0x0C ≤ code && code ≤ 0x0E then some (false, code - 9, idx, 1)
  else if code = 0x0F then some (true, 0, idx, 0)
  else if code = 0x10 then
    some (if idx < 16384 then (true, 1, idx, 0) else if idx < 16640 then (true, 2, idx - 16384, 0) else (true, 3, idx - 16640, 0))
  else none

/-- MAJOR of a counter block that is reinitialised (R110). -/
def freshMajor (s : State) : BitVec 64 := s.time.tide - s.sec.treeBirth + 1

/-- A counter node is lost: the sealed pages beneath it are poisoned, and the node and its descendants are reinitialised under R110
(R121, Table 4.7): what the Quay cache holds of them, and each block of a sealed page beneath, which no older value may serve again. -/
def nodeLost (level idx : Nat) (s : State) : State :=
  let beneath (p : Nat) : Bool := p / 64 ^ level = idx
  let pages := (s.quay.desc.filter (fun e => dSealed e.2 && beneath e.1)).map Prod.fst
  let s := pages.foldl (fun t p => poisonPage p t) s
  let c := mkCtr (freshMajor s)
  let held := (s.quay.ctr.filter (fun e => let l := e.1 / 2 ^ 40; l ≤ level && e.1 % 2 ^ 40 / 64 ^ (level - l) = idx)).map Prod.fst
  let blocks := pages.flatMap (fun p => (List.range (level + 1)).map (fun l => treeKey false l (p / 64 ^ l)))
  (held ++ blocks ++ [treeKey false level idx]).eraseDups.foldl (fun t k => setNode false (k / 2 ^ 40) (k % 2 ^ 40) c t) s

/-- A key-table line or a node of its tree is lost: the keys beneath it read as Empty from then on, and the failed key is logged
(R94, R111, Table 5.7). -/
def keyLineLost (level idx : Nat) (s : State) : State :=
  if level = 0 then
    let k := BitVec.ofNat 20 idx
    setKeyEntry k 0 (dropCtx k (logIt { cause := 0x02, key := k } s))
  else setNode true level idx (mkCtr (freshMajor s)) s

/-- A node on the path to a page's counter, or a key entry, is read into the Quay cache (R109): what was corrected is noted, the
second copy serves and restores a failed first one (R108, R121), and a node that is lost takes its outcome. -/
def loadNode (kt : Bool) (level idx : Nat) (s : State) : State :=
  if (heldNode s kt level idx).isSome then s
  else match nodeCtr s kt level idx with
  | none => s
  | some ctr =>
    if ctr = (0, 0) then s
    else match nodeLine s kt level idx 0 with
    | none => s
    | some a =>
      let s := readNow (deviceClass s) a s
      let k := nodeCheck s kt level idx ctr a 0
      match nodeValue k with
      | some x => holdNode kt level idx x (match k with
          | .valid t (some d) => correctedAs (reservedRec a) a t d false s
          | _ => s)
      | none =>
        let code := if kt then (if level = 0 then 0x0F else 0x10) else 6 + level
        match nodeStored s kt level idx ctr with
        | some x => holdNode kt level idx x (dramWrite a (tagStore (nodeSeal s kt level idx ctr) x false) (logReserved 0 code a s))
        | none =>
          let s := logReserved (if !kt && 1 ≤ level then 3 else 2) code a (countUncorrectable a s)
          if kt then keyLineLost level idx s else nodeLost level idx s

/-- The path of a sealed page's counter block is read from the root down, and its key entry with it (R25, R109). -/
def loadCtr (page : Nat) (s : State) : State :=
  if !dSealed (descOf s page) then s
  else
    let s := if (heldNode s false 0 page).isNone then evQb (descBank s page) 7 s else s
    let s := ([5, 4, 3, 2, 1, 0] : List Nat).foldl (fun t l => loadNode false l (page / 64 ^ l) t) s
    let k := (dKey (descOf s page)).toNat
    let s := ([3, 2, 1, 0] : List Nat).foldl (fun t l => loadNode true l (k / 64 ^ l) t) s
    ctrRoom 8 s

/-! ## Orphaned lines (R57) -/

/-- A line that is to be orphaned waits for an entry of the page operation table (R47). -/
def orphanLater (page i : Nat) (s : State) : State :=
  if s.tier.orphanWait.contains (page, i) then s else { s with tier.orphanWait := s.tier.orphanWait ++ [(page, i)] }

/-- Set the LINE_MASK bit of an orphaned line, with the transition of Table 2.3, or start what force come first (R57). -/
def orphanNow (page i : Nat) (s : State) : State :=
  let d := descOf s page
  let bit := (1 : BitVec 64) <<< i
  match dState d with
  | .hot => setDesc page (mkMasked d .orphaned (some (dDfa d)) bit) s
  | .unbacked => setDesc page (mkMasked d .orphaned none bit) s
  | .poisoned => setDesc page (mkMasked d .poisoned (if dBerth d then some (dPDfa d) else none) (dMask d ||| bit)) s
  | .orphaned => setDesc page (mkMasked d .orphaned (if dBerth d then some (dPDfa d) else none) (dMask d ||| bit)) s
  | .warm => if ownRoom s then setOps (· ++ [{ newOp s page .promotion with orphan := [i] }]) s else orphanLater page i s
  | .cold => if faultRoom s then setOps (· ++ [{ newOp s page .fault with orphan := [i] }]) s else orphanLater page i s
  | .retired => if ownRoom s then setOps (· ++ [{ newOp s page .relocation with orphan := [i] }]) s else orphanLater page i s

/-- Lines that wait for an entry take their transition while entries are free; a line whose page an operation holds goes with it (R47,
R57). -/
def retryOrphans (s : State) : State :=
  s.tier.orphanWait.foldl (fun t x => match opOf t x.1 with
    | some _ => modOp x.1 (fun o => { o with orphan := if o.orphan.contains x.2 then o.orphan else o.orphan ++ [x.2] }) t
    | none => orphanNow x.1 x.2 t) { s with tier.orphanWait := [] }

/-- Remove a line from the Quay data partition. -/
def dropLine (l : Line) (s : State) : State := { s with quay.lines := sset none s.quay.lines l.toNat none }

/-- Declare a line orphaned (R57, R184). Its stale home copy leaves the Quay cache. While its page is Retired, or in another operation,
the line is orphaned when that operation ends (DESIGN CHOICE, log entry 94: R57 and Table 2.3 list no such case). -/
def orphanLine (l : Line) (s : State) : State :=
  let s := dropLine l s
  let page := pageOf l
  let i := l.toNat % 64
  match opOf s page with
  | none => orphanNow page i s
  | some o =>
    if o.kind = .demotion then orphanNow page i (abortDemotion page s)
    else modOp page (fun o => { o with orphan := o.orphan ++ [i] }) s

/-- A line that reads ERR_DATA now: its LINE_MASK bit is set, or it waits to be set (R56, R57). -/
def lineGone (s : State) (l : Line) : Bool :=
  lineMasked (descOf s (pageOf l)) (l.toNat % 64) ||
  (match opOf s (pageOf l) with | some o => o.orphan.contains (l.toNat % 64) | none => false) ||
  s.tier.orphanWait.contains (pageOf l, l.toNat % 64)

/-! ## Frame retirement (R70 to R73) -/

/-- Record a retirement in the manifest's list of at most 32,193 entries (R198). -/
def recordRetired (entry : BitVec 64) (addr : Nat) (s : State) : State :=
  match s.led.manifest with
  | none => s
  | some m =>
    if m.retired.length < 32193 then writeManifest { m with retired := m.retired ++ [entry] } s
    else logIt { cause := 0x7D, kind := 2, addr := addr } s

/-- Start moving the runs of a granule frame (R69, R73). -/
def startCompaction (dfa : Nat) (s : State) : State :=
  let x := sget 0 s.dram.runIdx dfa
  (List.range 12).foldl (fun t i => match runRec x i with
    | some (_, page) => if (opOf t page).isNone && ownRoom t then
        setOps (· ++ [{ newOp t page .compaction with dst := dfa }]) t else t
    | none => t) s

/-- A frame waits for its retirement. -/
def addRetire (dfa : Nat) (s : State) : State :=
  if s.dram.retireList.contains dfa then s else { s with dram.retireList := s.dram.retireList ++ [dfa] }

/-- Relocate the berth of a Hot page to a new frame (R71); beyond 64 relocations, or without a frame, the frame waits. The berth of a
Poisoned or Orphaned page waits until the page frees it or is Hot again (DESIGN CHOICE, log entry 95: only a Hot page becomes
Retired). -/
def startRelocation (dfa page : Nat) (s : State) : State :=
  let d := descOf s page
  if dState d = .hot && dDfa d = dfa && (opOf s page).isNone && ownRoom s && opCount s .relocation < 64 then
    match allocFrame (descDie s page) true s with
    | some (nf, s) =>
      let s := setFrame nf (mkBerthFrame page) s
      let s := { s with dram.retireList := s.dram.retireList.filter (· ≠ dfa) }
      setOps (· ++ [{ newOp s page .relocation with dst := nf }])
        (setDesc page (mkRetired d dfa nf 0 (dHot d) (dStamp d)) s)
    | none => addRetire dfa s
  else addRetire dfa s

/-- Carry a retirement forward: a free frame is marked at once, a berth is relocated, the runs of a granule frame move. -/
def pursueRetire (dfa : Nat) (s : State) : State :=
  let e := frameEntry s dfa
  match fUse e with
  | 0 => markRetired dfa s
  | 1 => startRelocation dfa (fPage e) s
  | 2 => startCompaction dfa (addRetire dfa { s with dram.openGran := s.dram.openGran.filter (· ≠ dfa) })
  | _ => s

/-- Being relocated: a Retired page leaves this frame. -/
def beingRelocated (s : State) (dfa : Nat) : Bool :=
  s.dram.retireList.contains dfa || s.tier.ops.any (fun o => o.kind = .relocation && dDfa (descOf s o.page) = dfa)

/-- Retire a frame of the pool with a reason of R506: 1 command, 2 CE threshold, 3 uncorrectable line, 4 bank (R70). -/
def retireFrame (dfa reason : Nat) (s : State) : State :=
  if (regionOf s dfa).isSome || totalFrames s ≤ dfa || fUse (frameEntry s dfa) = 4 || beingRelocated s dfa then s
  else
    let s := logIt { cause := 0x0B, kind := 2, addr := dfa * 64, args := [reason] } s
    let s := if reason = 4 then s else recordRetired (place 64 62 (1 : BitVec 2) ||| BitVec.ofNat 64 dfa) (dfa * 64) s
    pursueRetire dfa s

/-- R458: the frame of an uncorrectable line of a berth or a run is retired when AUTO_RETIRE = 1. -/
def autoRetire (addr : Nat) (s : State) : State :=
  if s.aon.ceCfg.getLsbD 31 then retireFrame (addr / 64) 3 s else s

/-! ## Moves to Cold and failures (R54, R55, Table 5.7) -/

/-- The descriptor that a move to Cold gives a page: its mirror entry with DIRTY = 0, or Unbacked when the ledger records it
as zero (R54, R202). -/
def coldDesc (s : State) (page : Nat) : BitVec 128 :=
  let m := sget 0 s.led.mirror page
  if dStateRaw m = some .cold then m &&& BitVec.ofNat 128 (2 ^ 114 - 1)
  else dFlag (dCommon (descOf s page) .unbacked) 24 false

/-- The ledger's record allows a move to Cold: zero, or an image of at most 63 granules (R54). -/
def coldImageOk (s : State) (page : Nat) : Bool :=
  let m := sget 0 s.led.mirror page
  dStateRaw m ≠ some .cold || (dSizesC m).foldl (· + ·) 0 ≤ 63

/-- R54: the page may move to Cold. -/
def coldOk (s : State) (page : Nat) : Bool :=
  let d := descOf s page
  !dDirty d && dLedger d && !dPin d && coldImageOk s page

/-- Free the berth or run that a descriptor names. -/
def freeStorage (d : BitVec 128) (s : State) : State :=
  match dState d with
  | .hot => freeFrame (dDfa d) s
  | .warm => retireRun (dGranule d) (dSizesW d) s
  | .retired => markRetired (dDfa d) (freeFrame (dNewDfa d) s)
  | .poisoned | .orphaned => if dBerth d then freeFrame (dPDfa d) s else s
  | _ => s

/-- A page of a rekey's range that takes the old key again, with an older image, is to be converted: the tide mark falls back to it, so
that every page below the mark stays on another key (R124). -/
def remark (page : Nat) (s : State) : State :=
  let d := descOf s page
  { s with led.engines := s.led.engines.map (fun e =>
      if e.2.active && e.2.first ≤ page && page ≤ e.2.last && dSealed d && dKey d = e.2.old && page < e.2.tide then
        (e.1, { e.2 with tide := page })
      else e) }

/-- Move a page to Cold and free its berth or run (Table 2.3). -/
def moveToCold (page : Nat) (s : State) : State :=
  let d := descOf s page
  freeStorage d (remark page (setDesc page (coldDesc s page) s))

/-- A page whose storage failed: with a clean ledger image it moves to Cold, else it is poisoned (R55, R72). PIN and an image above 63
granules do not bar this move (DESIGN CHOICE, log entry 96: R55 and R72 name DIRTY and LEDGER_VALID alone, R54 all four). -/
def coldOrPoison (page : Nat) (s : State) : State :=
  let d := descOf s page
  if !dDirty d && dLedger d then moveToCold page s else poisonPage page s

/-- R55: a Warm bale failed decode or verification. -/
def baleFail (page : Nat) (s : State) : State :=
  let d := descOf s page
  let clean := !dDirty d && dLedger d
  let s := logIt { cause := 0x07, src := epQb (descBank s page), cls := some (if clean then 1 else 2), kind := 2, addr := dGranule d,
                   args := wide page ++ [if clean then 1 else 2] } s
  coldOrPoison page s

/-- Table 5.7, R157, R458: a granule of a run stays uncorrectable. -/
def granuleLost (page addr : Nat) (s : State) : State :=
  let s := countUncorrectable addr s
  autoRetire addr (logIt { cause := 0x12, kind := 2, addr := addr, loc := locOf s addr 0xF, args := wide page,
                           key := if dSealed (descOf s page) then dKey (descOf s page) else 0,
                           src := chanSrc s addr } s)

/-- R55: a run cannot be read or decoded whole: the first granule that fails its check is logged, and the bale has failed. -/
def runFail (page : Nat) (s : State) : State :=
  let d := descOf s page
  let n := (dSizesW d).foldl (· + ·) 0
  match (List.range n).find? (fun g => (runGranule s page d g).isNone) with
  | some g => baleFail page (granuleLost page (dGranule d + g) s)
  | none => baleFail page s

/-- R105: a placement under MAJOR + 1 that ends in Poisoned or Cold commits the counter as well. -/
def runFailBurn (page : Nat) (s : State) : State :=
  let c := mkCtr (cMajor (ctrOf s page) + 1)
  let was := dSealed (descOf s page)
  let s := runFail page s
  if was then setCtr page c s else s

/-! ## Lines of the Quay data partition -/

def qline (s : State) (l : Line) : Option QLine := sget none s.quay.lines l.toNat
def setQline (l : Line) (q : QLine) (s : State) : State := { s with quay.lines := sset none s.quay.lines l.toNat (some q) }

/-- R30: a merge was poisoned. -/
def logMergePoisoned (l : Line) (q : QLine) (s : State) : State :=
  evQb (bankOf s l) 17
    (logIt { cause := 0x01, src := epQb (bankOf s l), kind := 1, addr := dla l, node := q.node, tag := q.tag,
             key := dKey (descOf s (pageOf l)) } s)

/-- What a merge found: the whole line, the line poisoned, or that the page's operation force end first. -/
inductive Merged where
  | line (x : BitVec 512) (poison : Bool)
  | wait
  | lost
  deriving DecidableEq, Repr

/-- A merge over a Warm page: a decompressor tile decodes the one line (R26, R29, R82, R87). A line held as poisoned stays so, and is
logged (R120); when the bale fails, the page follows R55 and the merged line is stored poisoned (R30), or waits for the ledger image. -/
def mergeWarm (l : Line) (q : QLine) (s : State) : Merged × State :=
  let page := pageOf l
  let i := l.toNat % 64
  match placeTile (bankOf s l) 0 32 (lineLoad s) s with
  | none => (.wait, s)
  | some (t, s) =>
    let x := warmLine s page i
    let s := tileLine t (neededGranules s page i).length (x.any Prod.snd) x.isSome (readGranules q.cls page (neededGranules s page i) s)
    match x with
    | some (x, false) => (.line (overlay q.mask q.data x) q.poison, s)
    | some (x, true) => (.line (overlay q.mask q.data x) true, logMergePoisoned l q s)
    | none =>
      let s := runFail page s
      if dState (descOf s page) = .cold then (.wait, openFault { cls := q.cls } page id s)
      else (.line (overlay q.mask q.data 0) true, logMergePoisoned l q s)

/-- The stored line under the held bytes (R29, R30, R58, R120); `err` are the bits that the read returned wrong. A berth line that fails
its check is read once more (R118, R154): `again` marks that second read. -/
def mergeRead (l : Line) (q : QLine) (err : BitVec 640) (again : Bool) (s : State) : Merged × State :=
  let page := pageOf l
  let i := l.toNat % 64
  let d := descOf s page
  match dState d with
  | .unbacked => (.line (overlay q.mask q.data 0) q.poison, s)
  | .cold => (.wait, openFault { cls := q.cls } page id s)
  | .warm => mergeWarm l q s
  | _ =>
    match lineAddr d i with
    | none => (.line (overlay q.mask q.data 0) (q.poison || lineGone s l), s)
    | some a =>
      let st := dramContent s a ^^^ err
      let pos := berthPos (ctrOf s page) page i
      let k := readCheck s (dSealed d) (dKey d) pos a st
      let s := noteCheck a l.toNat k.1 false (useCtx a (dSealed d) (dKey d) (readNow q.cls a s))
      match k.2 with
      | none =>
        if again then (.line (overlay q.mask q.data (rawLine s (dSealed d) (dKey d) pos st)) true,
          logMergePoisoned l q (countUncorrectable a s))
        else (.lost, { s with dram.reads := s.dram.reads ++
          [{ addr := a, line := l.toNat, again := true, merge := true, node := q.node, tag := q.tag }] })
      | some (x, p) =>
        let s := if again then noteTransient (lineRec s a l.toNat) a s else s
        if p then (.line (overlay q.mask q.data x) true, logMergePoisoned l q s)
        else (.line (overlay q.mask q.data x) (q.poison || lineGone s l), s)

/-- A merged line is written back: into the berth of a Hot page that no operation holds, else it stays in the Quay cache (R29, R31). -/
def mergeDone (l : Line) (q : QLine) (x : BitVec 512) (p : Bool) (s : State) : State :=
  let s := { s with quay.merges := s.quay.merges.filter (· ≠ l.toNat) }
  let q := { q with data := x, mask := BitVec.allOnes 64, poison := p }
  if dState (descOf s (pageOf l)) = .hot && (opOf s (pageOf l)).isNone then
    setQline l { q with dirty := false } (doWork { cls := q.cls } (writeBerth (pageOf l) (l.toNat % 64) x p) s)
  else setQline l { q with dirty := true } s

/-- Merge the held bytes of a line and write the result back (R29). -/
def mergeNow (l : Line) (err : BitVec 640) (again : Bool) (s : State) : State :=
  match qline s l with
  | none => s
  | some q =>
    if q.mask = BitVec.allOnes 64 then s
    else
      let s := evQb (bankOf s l) 16 (loadCtr (pageOf l) s)
      match mergeRead l q err again s with
      | (.line x p, s) => mergeDone l q x p s
      | (_, s) => s

/-- A merge read returns: the merge is made for a line that a read of the whole line waits for (R29); no merge is made while its
second read is out. -/
def mergeLine (l : Line) (err : BitVec 640) (s : State) : State :=
  if s.quay.merges.contains l.toNat && !s.dram.reads.any (fun r => r.merge && r.line = l.toNat) then mergeNow l err false s else s

/-- Lines of a berth allocated under R58: the new line, zeros where the mask is clear, poisoned zeros where it is set. -/
def maskedBerth (mask : BitVec 64) (i : Nat) (x : BitVec 512) (p : Bool) : List (BitVec 512 × Bool) :=
  (List.range 64).map (fun j => if j = i then (x, p) else (0, mask.getLsbD j))

/-- An operation that R67 serves at or below RESERVE_WM: an eviction waits on it, or a line that is to be orphaned. -/
def PageOp.always (o : PageOp) : Bool := !o.evict.isEmpty || !o.orphan.isEmpty

/-- A new berth with its lines for a page: the frame, or none when no frame may be allocated (R67). -/
def newBerth (page : Nat) (lines : List (BitVec 512 × Bool)) (always : Bool) (s : State) : Option (Nat × State) :=
  (allocFrame (descDie s page) always s).map (fun (f, s) =>
    (f, fillBerth page f (dSealed (descOf s page)) (dKey (descOf s page)) lines (setFrame f (mkBerthFrame page) s)))

/-- A dirty line leaves the Quay data partition toward its page (R31, R50, R58, R71), its write in the line's class (R243). A line that
must wait for an operation on its page stays. A partly written line whose LINE_MASK bit is set is dropped while the page has no berth
(DESIGN CHOICE, log entry 97: R58 stores its bytes with BERTH = 1 alone). -/
def evictLine (l : Line) (s : State) : State :=
  match qline s l with
  | none => s
  | some q =>
    if !q.dirty then dropLine l s
    else
      let page := pageOf l
      let i := l.toNat % 64
      let later (o : PageOp) : PageOp := { o with evict := if o.evict.contains l.toNat then o.evict else o.evict ++ [l.toNat] }
      let s := loadCtr page s
      if (opOf s page).isSome then modOp page later s
      else
        let d := descOf s page
        match dState d with
        | .warm => startPromotion true page later s
        | .cold => openFault { cls := q.cls } page later s
        | .retired => s
        | st =>
          match (if q.mask = BitVec.allOnes 64 then (Merged.line q.data q.poison, s) else mergeRead l q 0 true s) with
          | (.line x p, s) =>
            let gone := lineGone s l
            (match st with
            | .hot => dropLine l (doWork { cls := q.cls } (writeBerth page i x p) s)
            | .unbacked =>
              if x = 0 && !p then dropLine l s
              else match newBerth page (maskedBerth 0 i x p) true s with
                | some (f, s) =>
                  dropLine l (setDesc page (mkHot (descOf s page) f (param s 0x02 1) s.tier.decayEpoch.toNat) s)
                | none => s
            | _ =>
              if dBerth d then dropLine l (doWork { cls := q.cls } (writeBerth page i x (p || gone)) s)
              else if gone && q.mask ≠ BitVec.allOnes 64 then dropLine l s
              else if x = 0 && !p then dropLine l s
              else match newBerth page (maskedBerth (dMask d) i x (p || gone)) true s with
                | some (f, s) => dropLine l (setDesc page (mkMasked (descOf s page) st (some f) (dMask d)) s)
                | none => s)
          | (_, s) => s

/-! ## Uncorrectable lines and the end of operations -/

/-- R118, Table 5.7: a berth line stays uncorrectable. It is written poisoned with its bytes as read, logged UE_LINE, and
its frame may be retired. A page of an offline channel set that is clean with a ledger image moves to Cold (R156). -/
def lineUncorrectable (page i addr : Nat) (st : BitVec 640) (who : Option (Node × Tag)) (s : State) : State :=
  let d := descOf s page
  let w := who.getD (0, 0)
  let s := countUncorrectable addr s
  let s := logIt { cause := 0x12, kind := 1, addr := page * 4096 + i * 64, loc := locOf s addr 0xF, node := w.1, tag := w.2,
                   key := if dSealed d then dKey d else 0,
                   src := chanSrc s addr } s
  if lineOffline s addr then (if (opOf s page).isNone then coldOrPoison page s else s)
  else if lineAddr d i = some addr then
    autoRetire addr (writeBerth page i (rawLine s (dSealed d) (dKey d) (berthPos (ctrOf s page) page i) st) true s)
  else s

/-- After the descriptor update that ends an operation: what waited on it follows. The page is poisoned if that was asked,
orphaned lines take their transition, waiting evictions proceed, and a frame that waits for its retirement is pursued. -/
def finishOp (page : Nat) (s : State) : State :=
  match opOf s page with
  | none => s
  | some o =>
    let s := endOp page (if o.kind = .fault && o.restore = 0 then s else workDone o.cls o.due s)
    let s := if o.poisonAfter then poisonNow page s else s
    let s := match o.orphan with
      | [] => s
      | l => if dState (descOf s page) = .warm && ownRoom s then setOps (· ++ [{ newOp s page .promotion with orphan := l }]) s
        else if dState (descOf s page) = .cold && faultRoom s then setOps (· ++ [{ newOp s page .fault with orphan := l }]) s
        else l.foldl (fun t i => orphanNow page i t) s
    let s := o.evict.foldl (fun t l => evictLine (BitVec.ofNat 39 l) t) (retryOrphans s)
    let s := if o.pin && dState (descOf s page) = .warm then startPromotion true page (fun p => { p with pin := true }) s else s
    s.dram.retireList.foldl (fun t f => pursueRetire f t) s

end Sys2Proof.Machine
end

