-- ==== Sys2Proof/Machine/Home.lean ====
section
/-! DEFINITION. The home engine: admission of requests, the directory, snoops and their answers, the data of a line, the
response of each request, and the waiting requests that a free line lets start (R173 to R185). -/

namespace Sys2Proof.Machine

/-! ## Receipt -/

/-- The packet that a command names leaves its port's receive buffer, which frees its slots (R275). A command whose packet
is not there is the arrival itself. -/
def takeRx (p : Nat) (op : BitVec 8) (src : Node) (tag : Tag) (s : State) : State :=
  let q := portOf s p
  match q.rx.findIdx? (fun k => pktOp k = op && pktSrc k = src && pktTag k = tag) with
  | none => s
  | some i =>
    let n := match q.rx[i]? with | some k => pktSlots k.hdr | none => 0
    let rx := q.rx.eraseIdx i
    let q := { q with rxAt := q.rxAt.eraseP (fun e => e.1 = (op, src, tag)) }
    if opVc op.toNat = some true then
      setPort p { q with rx := rx, myRsp := if op = 0x5F then q.myRsp else q.myRsp + BitVec.ofNat 12 n } s
    else setPort p { q with rx := rx, myReq := q.myReq + BitVec.ofNat 12 n } s

/-- The tick in which the last flit of a request was received: of its packet in the receive buffer, else now (R231). -/
def rxTick (p : Nat) (op : BitVec 8) (src : Node) (tag : Tag) (s : State) : Nat :=
  (((portOf s p).rxAt.find? (fun k => k.1 = (op, src, tag))).map Prod.snd).getD (tick s)

/-- Log PKT_INVALID with a reason, the position in the list of Table 10.9 (R296, R506). -/
def pktInvalid (port : Nat) (op : BitVec 8) (src : Node) (tag : Tag) (reason : Nat) (s : State) : State :=
  evAfl port 20 (logIt { cause := 0x46, src := epAfl port, node := src, tag := tag, args := [port, op.toNat, reason] } s)

/-- PKT_INVALID of a request that names another node or a DLA that does not exist: its DESTINATION is the second node ID of the entry
(R21, R444). -/
def wrongDest (r : Req) (s : State) : State :=
  evAfl r.port 20 (logIt { cause := 0x46, src := epAfl r.port, node := r.src, tag := r.tag, args := [r.port, r.op.toNat, 4, r.dst.toNat] } s)

/-- A response for a tag that was completed synthetically is counted and discarded (R292). -/
def lateOrInvalid (port : Nat) (op : BitVec 8) (src : Node) (tag : Tag) (s : State) : State :=
  if s.quay.quiet.contains (src, tag) then
    evAfl port 23 s
  else pktInvalid port op src tag 6 s

/-- DLA line of a request (R20). -/
def reqLine (s : State) (r : Req) : Line := unfoldLine (indexBits s) r.line

/-- The device's own work carries its own node ID (R163). -/
def isOwn (s : State) (r : Req) : Bool := r.src = nodeId s

/-! ## Responses -/


/-- A transaction of a class is accepted (R247). -/
def outUp (c : BitVec 8) (s : State) : State := { s with reins.outst := smod 0 s.reins.outst c.toNat (· + 1) }
/-- A transaction of a class has its final response (R247). -/
def outDown (c : BitVec 8) (s : State) : State := { s with reins.outst := smod 0 s.reins.outst c.toNat (· - 1) }


/-- A request's final response is formed: its class has one transaction less (R247), and its deadline is judged when the response is
placed in a transmit flit (R249). An access of a ring command counts for no deadline of its own: its command does (R345). -/
def countEnd (r : Req) (due : Option Nat) (s : State) : State :=
  let s := outDown r.cls s
  match due with
  | none => s
  | some d =>
    if isOwn s r || !(portUp s r.port || (portOf s r.port).held) then s
    else { s with reins.ends := s.reins.ends ++ [((r.src, r.tag), (d, r.cls))] }

/-- Responses are placed in a transmit flit: the deadlines of their requests are met or missed (R249). -/
def placed (l : List Pkt) (s : State) : State :=
  l.foldl (fun t k =>
    let mine (e : (Node × Tag) × (Nat × BitVec 8)) : Bool := e.1 = (pktDst k, pktTag k)
    if opVc (pktOp k).toNat = some true then
      match t.reins.ends.find? mine with
      | none => t
      | some e => judgeDue e.2.2 e.2.1 { t with reins.ends := t.reins.ends.eraseP mine }
    else t) s

/-- A response to work of the device's own needs no packet. A read that a PCIe peer started at root port n carries the tag n + 1, and its
completion is what the peer receives (R127). -/
def ownRsp (r : Req) (op : BitVec 8) (body : List (BitVec 128)) (s : State) : State :=
  if r.tag = 0 || r.op ≠ 0x01 then s
  else { s with quay.peerAns := sset none s.quay.peerAns (r.tag.toNat - 1) (some { ok := op ≠ 0x5E, data := slotsLine body }) }

/-- Send a response to a request's sender. -/
def sendRsp (r : Req) (op : BitVec 8) (status : BitVec 4) (f : RspFlags) (body : List (BitVec 128)) (s : State) : State :=
  if isOwn s r then ownRsp r op body s
  else sendPkt r.port { hdr := rspHdr op r.src (nodeId s) r.tag status f, body := body } s

/-- An ERR_CMP (R308). -/
def sendErr (r : Req) (status : BitVec 4) (s : State) : State := sendRsp r 0x5E status {} [] s

/-! ## The directory (R167 to R171) -/

def dirM (s : State) : Nat := Nat.log2 (param s 0x06 0 / (64 * numBanks s))
/-- The key of a line's set: bank and set index. -/
def dirKey (s : State) (l : Line) : Nat := bankOf s l * 2 ^ dirM s + dirSet (dirM s) l
/-- The set of a line: every entry is Free while the valid map's bit of its frame is clear (R170). -/
def dirLine (s : State) (l : Line) : BitVec 512 :=
  if sget false s.quay.dirValid (dirKey s l / 64) then sget 0 s.quay.dir (dirKey s l) else 0
/-- Write a set line: the first write into a frame writes the whole frame and then sets its bit (R170). -/
def dirPut (k : Nat) (x : BitVec 512) (s : State) : State :=
  if sget false s.quay.dirValid (k / 64) then { s with quay.dir := sset 0 s.quay.dir k x }
  else { s with quay.dir := sset 0 (s.quay.dir.filter (fun e => e.1 / 64 ≠ k / 64)) k x,
                quay.dirValid := sset false s.quay.dirValid (k / 64) true }
/-- The entry of a set that names a line. -/
def dirFind (x : BitVec 512) (l : Line) : Option Nat :=
  (List.range 4).find? (fun i => let e := setEntry x i; eState e ≠ 0 && !(eState e = 3 && eAny e) && eLine e = l)
/-- A set with an ANY entry. -/
def dirAny (x : BitVec 512) : Bool := (List.range 4).any (fun i => let e := setEntry x i; eState e = 3 && eAny e)
/-- A Free entry of a set. -/
def dirFree (x : BitVec 512) : Option Nat := (List.range 4).find? (fun i => eState (setEntry x i) = 0)
/-- The entry that a lookup finds: its own, else an ANY entry of the set, else none (R168, R169). -/
def dirEntry (s : State) (l : Line) : BitVec 128 :=
  let x := dirLine s l
  match dirFind x l with
  | some i => setEntry x i
  | none => if dirAny x then mkAny else 0
/-- Write the entry of a line: in its place, else in a Free entry; the zero entry frees it. An ANY set records nothing. -/
def setDir (l : Line) (e : BitVec 128) (s : State) : State :=
  let x := dirLine s l
  let put (i : Nat) : State := dirPut (dirKey s l) (setField x (128 * i) e) s
  match dirFind x l with
  | some i => put i
  | none => if e = 0 || (eState e = 3 && eAny e) then s else match dirFree x with
    | some i => put i
    | none => s

/-- R169: a set with a reserved entry becomes four Broadcast entries with ANY, logged UE_RESERVED. -/
def dirFix (l : Line) (s : State) : State :=
  let x := dirLine s l
  if (List.range 4).any (fun i => eBad (setEntry x i)) then
    let y : BitVec 512 := (List.range 4).foldl (fun acc i => setField acc (128 * i) mkAny) 0
    logIt { cause := 0x13, cls := some 2, src := epQb (bankOf s l), loc := mkLoc 0 0 0 0 0 0 0 0 0xF, args := [0x20 + bankOf s l] }
      (dirPut (dirKey s l) y s)
  else s

/-! ## The descriptor and directory partitions (R24, R42, R59, R167) -/

/-- A partition that holds the entries of `k`: the newest last, the oldest leaves beyond `cap` (DESIGN CHOICE, log entry 102: the spec
names no victim). -/
def keepIn (k cap : Nat) (l : List Nat) : List Nat := (l ++ [k]).drop (l.length + 1 - cap)

/-- A lookup of a page's descriptor: one that the descriptor partition does not hold is counted and read from the descriptor table, unless
its frame was never written (R25, R42, R43), and stays in the partition. -/
def useDesc (page : Nat) (cls : BitVec 8) (s : State) : State :=
  if s.quay.descIn.contains page then s
  else
    let s := evQb (descBank s page) 6 { s with quay.descIn := keepIn page (quayPart s 39 24 1536 16) s.quay.descIn }
    if sget false s.dram.descValid (page / 256) then
      match regionLine s 1 (page / 4) with
      | some a => readNow cls a s
      | none => s
    else s

/-- A lookup in the directory: a set that the directory partition does not hold is counted and read, unless its frame holds no entry
(R167, R170), and stays in the partition. -/
def useDir (l : Line) (cls : BitVec 8) (s : State) : State :=
  let k := dirKey s l
  if s.quay.dirIn.contains k then s
  else
    let s := evQb (bankOf s l) 8 { s with quay.dirIn := keepIn k (quayPart s 71 56 (if s.fuse.variantH then 1856 else 1920) 64) s.quay.dirIn }
    if sget false s.quay.dirValid (k / 64) then
      match regionLine s (0x20 + bankOf s l) (dirSet (dirM s) l) with
      | some a => readNow cls a s
      | none => s
    else s

/-! ## The miss and writeback holding partition (R24, R163, R305) -/

/-- The distinct caching nodes of the topology. -/
def sharers (t : State) : List Nat := ((recsOf t 1 0x11).map (fun r => fieldNat r 30 14)).dedup
/-- Lines of the holding partition of every bank (Table 1.3, QUAY record). -/
def holdingLines (t : State) : Nat := quayPart t 103 88 64 64
/-- The park reserve: NOTICE_MAX lines for each caching node (R305). -/
def parkReserve (t : State) : Nat := (sharers t).length * param t 0x0D 5
/-- A line of the holding partition is free for a notice. -/
def parkFree (s : State) : Bool := s.quay.parked.length + s.quay.remote.length < holdingLines s
/-- Lines of the partition outside the reserve: other homes' lines use only these. -/
def remoteRoom (s : State) : Nat := holdingLines s - parkReserve s

/-- GRANT_E and FWD_ENABLE (Table 6.7). -/
def grantE (s : State) : Bool := param s 0x06 1 ≠ 0
def fwdEnable (s : State) : Bool := param s 0x06 2 ≠ 0

/-! ## Busy lines (R173, R47) -/

def txnOf (s : State) (line : Nat) : Option Txn := s.quay.txns.find? (fun t => t.line = line)
def modTxn (line : Nat) (f : Txn → Txn) (s : State) : State :=
  { s with quay.txns := s.quay.txns.map (fun t => if t.line = line then f t else t) }
def dropTxn (line : Nat) (s : State) : State := { s with quay.txns := s.quay.txns.filter (fun t => t.line ≠ line) }

/-- A transaction holds the line, as its own or as the victim of a recall. -/
def lineBusy (s : State) (l : Line) : Bool :=
  s.quay.txns.any (fun t => t.line = l.toNat ||
    (match t.victim with | some v => (eLine v) = l | none => false))

/-- The page's operation bars a request: a demand fault and a rekey bar all, the others bar writes; a demotion bars none,
since a write aborts it (R32, R47, R52, R71, R124). -/
def pageBars (s : State) (page : Nat) (writes : Bool) : Bool :=
  match opOf s page with
  | none => false
  | some o => match o.kind with
    | .fault | .rekey => true
    | .demotion => false
    | _ => writes

/-- R227: the descriptor's frame waits for its map block. -/
def framePending (s : State) (page : Nat) : Bool := s.led.pending && !sget false s.led.restored (page / 256)

/-- A SNAPSHOT in progress (R354). -/
def isSnapshot (c : RCmd) : Bool := c.started && !c.finished && fieldNat c.entry 7 0 = 0x0A

/-- The index of a line's page in the source range of a SNAPSHOT. -/
def snapPage (c : RCmd) (l : Line) : Option Nat :=
  let lo := fieldNat c.entry 127 64
  if lo ≤ dla l && dla l < lo + fieldNat c.entry 255 192 then some ((dla l - lo) / 4096) else none

/-- A write of a line waits for this SNAPSHOT: its point is not fixed, or the line's page has not been copied (R354). -/
def snapWants (c : RCmd) (l : Line) : Bool :=
  isSnapshot c && (match snapPage c l with
    | none => false
    | some k => !c.fixed || !(decide (k < c.pos / 4096) || c.copied.contains k))

/-- R354: a write waits for a snapshot of its range. -/
def snapHeld (s : State) (l : Line) (writes : Bool) : Bool := writes && s.rings.cmds.any (fun c => snapWants c l)

/-- R354: a page that a write waits for is copied next. -/
def snapFirst (l : Line) (s : State) : State :=
  { s with rings.cmds := s.rings.cmds.map (fun c => if snapWants c l then
      (match snapPage c l with
       | some k => if c.first.contains k then c else { c with first := c.first ++ [k] }
       | none => c) else c) }

/-! ## Capacity of the Quay data partition (R24, R243) -/

/-- Lines of one bank's data partition (Table 1.3, QUAY record). -/
def dataCap (s : State) : Nat :=
  match (recsOf s 2 0x23)[0]? with
  | some r => fieldNat r 23 8 * 16
  | none => 122880

/-- Lines that a bank holds, with their lines' numbers. -/
def bankLines (s : State) (b : Nat) : List (Nat × QLine) :=
  s.quay.lines.filterMap (fun e => e.2.bind (fun q => if bankOf s (BitVec.ofNat 39 e.1) = b then some (e.1, q) else none))

/-- Lines of a class in a bank: its QUAY usage (R238). -/
def quayUse (s : State) (b : Nat) (c : BitVec 8) : Nat := ((bankLines s b).filter (fun e => e.2.cls = c)).length
/-- The QUAY budget of a class at a bank (R239). -/
def quayBudget (s : State) (b c : Nat) : Nat := budgetOf s b c (dataCap s)

/-- Insert a line by its use order. -/
def insertUse (x : Nat × QLine) : List (Nat × QLine) → List (Nat × QLine)
  | [] => [x]
  | y :: r => if x.2.stamp ≤ y.2.stamp then x :: y :: r else y :: insertUse x r

/-- Lines that may leave a full bank, in the order of R243: of classes that exceed their budget first, each by least
recent use. -/
def victims (s : State) (b : Nat) : List Nat :=
  let c := (bankLines s b).filter (fun e => !lineBusy s (BitVec.ofNat 39 e.1))
  let isOver (e : Nat × QLine) : Bool := quayBudget s b e.2.cls.toNat < quayUse s b e.2.cls
  let sorted (l : List (Nat × QLine)) : List Nat := (l.foldr insertUse []).map Prod.fst
  sorted (c.filter isOver) ++ sorted (c.filter (fun e => !isOver e))

/-- Evict the first victim that can leave at once. -/
def evictOne : List Nat → State → Option State
  | [], _ => none
  | v :: r, s =>
    let t := evictLine (BitVec.ofNat 39 v) s
    if (qline t (BitVec.ofNat 39 v)).isNone then some t else evictOne r t

/-- Room for a line of a bank: none when the set is full and no line can leave. -/
def makeRoom (l : Line) (s : State) : Option State :=
  let b := bankOf s l
  if (qline s l).isSome || (bankLines s b).length < dataCap s then some s else evictOne (victims s b) s

/-- Place a line as the most recently used. -/
def useLine (l : Line) (q : QLine) (s : State) : State :=
  setQline l { q with stamp := s.quay.useStamp } { s with quay.useStamp := s.quay.useStamp + 1 }

/-- Fill a clean line; with no line that can leave, the fill waits until one can (R243). -/
def fillLine (l : Line) (x : BitVec 512) (cls : BitVec 8) (s : State) : State :=
  match makeRoom l s with
  | some s => useLine l { data := x, mask := BitVec.allOnes 64, cls := cls } s
  | none => { s with quay.fills := s.quay.fills.filter (fun e => e.1 ≠ l.toNat) ++ [(l.toNat, cls)] }

/-- A line's fill waits no longer. -/
def dropFill (n : Nat) (s : State) : State := { s with quay.fills := s.quay.fills.filter (fun x => x.1 ≠ n) }

/-- A fill that waits takes its room: the line is filled as the home copy now stands, unless the partition holds it or it is not there to
be read. -/
def placeFill (e : Nat × BitVec 8) (s : State) : Option State :=
  let l : Line := BitVec.ofNat 39 e.1
  if (qline s l).isSome then some (dropFill e.1 s)
  else match berthLine s (pageOf l) (e.1 % 64) with
    | some (x, false) => (makeRoom l (dropFill e.1 s)).map (useLine l { data := x, mask := BitVec.allOnes 64, cls := e.2 })
    | _ => some (dropFill e.1 s)

/-! ## Writes into the home copy (R28 to R31, R42, R45, R58, R91) -/

/-- The key that a page takes when it becomes sealed: its range's, or the new key of a rekey of its range (R91, R124). -/
def newKey (s : State) (page : Nat) : Option (BitVec 20) :=
  (sealRange s page).map (fun k =>
    match s.led.engines.find? (fun e => e.2.active && e.2.first ≤ page && page ≤ e.2.last) with
    | some e => e.2.new
    | none => k.1)

/-- The page would take SEALED with this key at a write (R91). -/
def takesKey (s : State) (page : Nat) : Option (BitVec 20) :=
  let d := descOf s page
  if dState d = .unbacked && !dSealed d then newKey s page else none

/-- Clear a LINE_MASK bit, with the transition when it was the last (R58, Table 2.3). -/
def clearMask (s : State) (d : BitVec 128) (i : Nat) : BitVec 128 :=
  let st := dState d
  if st = .poisoned || st = .orphaned then
    let m := dMask d &&& ~~~((1 : BitVec 64) <<< i)
    if m = 0 then
      (if dBerth d then mkHot d (dPDfa d) (param s 0x02 1) s.tier.decayEpoch.toNat else dCommon d .unbacked)
    else mkMasked d st (if dBerth d then some (dPDfa d) else none) m
  else d

/-- A page becomes dirty: it joins the dirty pages, oldest first, and its writer's class is a dirtying class (R34, R195,
R220, R246). -/
def joinDirty (page : Nat) (cls : Option (BitVec 8)) (s : State) : State :=
  let s := { s with led.order := s.led.order ++ [page] }
  let s := if s.aon.mode = .holdup then { s with led.grace := s.led.grace ++ [page] } else s
  match cls with
  | some c => { s with reins.dirtying := sset false s.reins.dirtying c.toNat true }
  | none => s

/-- A page that was written since its snapshot stays dirty when that segment commits (R34). -/
def staleSegs (page : Nat) (s : State) : State :=
  { s with led.segs := s.led.segs.map (fun e => (e.1, e.2.map (fun g =>
      if !g.committed && g.entries.any (fun x => fieldNat x 32 0 = page) && !g.stale.contains page then
        { g with stale := g.stale ++ [page] } else g))) }

/-- A write to a page that reaches its home bank aborts a demotion in progress (R32). -/
def abortFor (page : Nat) (s : State) : State :=
  match opOf s page with
  | some o => if o.kind = .demotion then abortDemotion page s else s
  | none => s

/-- The report of a write to the descriptor's bank (R42): DIRTY, NO_COMPRESS, SEALED and KEY_ID, HOTNESS and LINE_MASK in
one update; a demotion in progress is aborted (R32). -/
def reportWrite (l : Line) (full : Bool) (cls : BitVec 8) (s : State) : State :=
  let page := pageOf l
  let s := useDesc page cls (abortFor page s)
  let d := descOf s page
  let was := dDirty d
  let d := match takesKey s page with
    | some k => dSeal d true k
    | none => d
  let d := touch s true (dFlag (dFlag d 24 true) 27 false)
  let d := if full then clearMask s d (l.toNat % 64) else d
  let s := setDesc page d (staleSegs page s)
  let s := if was then s else joinDirty page (some cls) s
  if dState d = .warm && param s 0x02 4 ≤ dHot d && (opOf s page).isNone then startPromotion false page id s else s

/-- Lay written bytes over the home copy in the Quay data partition (R28, R29, R302). A request that writes starts only with room for its
line; data that a snoop or a notice brings are stored even when no line can leave (DESIGN CHOICE, log entry 103). -/
def writeQuay (l : Line) (mask : BitVec 64) (x : BitVec 512) (poison : Bool) (cls : BitVec 8) (node : Node) (tag : Tag)
    (s : State) : State :=
  let s := (makeRoom l s).getD s
  let full : Bool := mask = BitVec.allOnes 64
  let q := (qline s l).getD {}
  let q := if full then { q with data := x, mask := mask, poison := poison }
    else { q with data := overlay mask x q.data, mask := q.mask ||| mask, poison := q.poison || poison }
  reportWrite l full cls (useLine l { q with dirty := true, cls := cls, node := node, tag := tag }
    { s with aon.writeAccepted := true, quay.merges := if full then s.quay.merges.filter (· ≠ l.toNat) else s.quay.merges })

/-- Modified data that a node gives up are written to the home copy as a full line; with POISON = 1 the line is stored
poisoned and logged POISON_IN (R182, R302, Table 6.5). A page whose key is not Active stores nothing (R92). -/
def writeHome (l : Line) (x : BitVec 512) (poison : Bool) (cls : BitVec 8) (op : BitVec 8) (node : Node) (tag : Tag)
    (s : State) : State :=
  let s := descFix (pageOf l) s
  let s := if poison then
      logIt { cause := 0x47, src := epQb (bankOf s l), kind := 1, addr := dla l, node := node, tag := tag, args := [op.toNat] } s
    else s
  match takesKey s (pageOf l) with
  | some k =>
    if (keyCtxOf s k).isNone then
      logIt { cause := 0x03, src := epQb (bankOf s l), kind := 1, addr := dla l, key := k, node := node, tag := tag } s
    else writeQuay l (BitVec.allOnes 64) x poison cls node tag s
  | none => writeQuay l (BitVec.allOnes 64) x poison cls node tag s

/-! ## Snoops (R172, R175, R177, Table 6.5) -/

def snoopOp : SnoopKind → BitVec 8
  | .inv => 0x20 | .share => 0x21 | .fwd => 0x22

/-- The next tag toward a node that is neither outstanding nor in TAG_QUIET (R292, R300). -/
def freshTag (s : State) (n : Node) : Nat → Tag → Tag
  | 0, t => t
  | k + 1, t =>
    if s.quay.quiet.contains (n, t) || s.quay.txns.any (fun x => x.snoops.any (fun o => o.node = n && o.tag = t)) ||
        s.quay.devReqs.any (fun d => d.dst = n && d.tag = t) then freshTag s n k (t + 1)
    else t

/-- A node that the device can reach now: in Fabric topology its port is up; in Direct topology a link holds what it cannot
carry (R185, R290, R291). -/
def reachable (s : State) (n : Node) : Bool := direct s || portUp s (portTo s n)

/-- The snoop packet (R297). -/
def snoopPkt (s : State) (t : Txn) (l : Line) (n : Node) (k : SnoopKind) (tag : Tag) : Pkt :=
  { hdr := reqHdr (snoopOp k) n (nodeId s) tag (foldLine (indexBits s) l) (sendDeadline t.due (tick s)) t.req.cls 0 0,
    body := if k = .fwd then [place 128 0 t.req.src ||| place 128 17 t.req.tag] else [] }

/-- Send a snoop and record that its answer is awaited. -/
def sendSnoop (l : Line) (x : Node × SnoopKind × Holder) (t : Txn) (s : State) : Txn × State :=
  let tag := freshTag s x.1 16384 s.quay.snpTag
  let s := { s with quay.snpTag := tag + 1 }
  let s := sendPkt (portTo s x.1) (snoopPkt s t l x.1 x.2.1 tag) s
  let s := evQb (bankOf s l) 10 s
  let s := if x.2.2 = .member || x.2.2 = .any then evQb (bankOf s l) 11 s else s
  ({ t with snoops := t.snoops ++ [{ node := x.1, tag := tag, kind := x.2.1, holder := x.2.2 }] }, s)

/-- What a snooped node reports: a response of Table 6.3, a synthetic error or a timeout. -/
structure Report where
  /-- The opcode of the response; 0 a synthetic error, 1 a timeout. -/
  op : BitVec 8 := 0
  /-- FROM_WB. -/
  fromWb : Bool := false
  /-- POISON. -/
  poison : Bool := false
  /-- The line of RSP_I_DATA and RSP_S_DATA. -/
  data : BitVec 512 := 0
  deriving DecidableEq, Repr

/-- The line that a transaction's snoops concern: the victim's in a recall. -/
def snoopLine (t : Txn) : Line :=
  match t.victim with
  | some v => eLine v
  | none => BitVec.ofNat 39 t.line

/-- Log COH_PROTOCOL (Table 6.8). -/
def cohProtocol (l : Line) (node : Node) (op : BitVec 8) (e : BitVec 128) (s : State) : State :=
  logIt { cause := 0x22, src := epQb (bankOf s l), kind := 1, addr := dla l, node := node, args := [op.toNat, eState e] } s

/-- Log ORPHANED (Table 6.8, R506). -/
def logOrphaned (l : Line) (owner : Node) (reason : Nat) (r : Req) (s : State) : State :=
  logIt { cause := 0x20, src := epQb (bankOf s l), kind := 1, addr := dla l, node := owner, tag := r.tag,
          args := [reason, r.src.toNat] } s

/-- The owner cannot supply its line (R184): the line is orphaned; of a request's own line the transaction notes it, a
victim's line is orphaned at once and the request that needed its entry goes on without an error (DESIGN CHOICE, log entry 104: R184 gives
ERR_DATA to the request whose snoop failed, and a recall's snoop is none of the request's line). -/
def ownerLost (reason : Nat) (o : SnoopOut) (t : Txn) (s : State) : Txn × State :=
  let l := snoopLine t
  ({ t with orphan := if t.victim.isSome then t.orphan else reason, owner := o.node },
   logOrphaned l o.node reason t.req (orphanLine l s))

/-- The home's action on one snoop response (Table 6.5). -/
def snoopReport (o : SnoopOut) (p : Report) (t : Txn) (s : State) : Txn × State :=
  let l := snoopLine t
  let e := match t.victim with | some v => v | none => t.entry
  let t := { t with snoops := t.snoops.filter (fun x => !(x.node = o.node && x.tag = o.tag)) }
  let t := if p.fromWb then { t with wbWait := t.wbWait ++ [o.node] } else t
  let isData : Bool := p.op = 0x5B || p.op = 0x5C
  match o.holder with
  | .sharer | .member =>
    if p.op = 0x5A || isData || p.op = 0x5D then (t, cohProtocol l o.node p.op e s)
    else if p.op = 0x59 then ({ t with kept := t.kept ++ [o.node] }, s)
    else (t, s)
  | .any =>
    if isData then (t, writeHome l p.data p.poison t.req.cls p.op o.node o.tag s)
    else if p.op = 0x5D then (t, cohProtocol l o.node p.op e s)
    else (t, s)
  | .owner =>
    if isData then
      (if p.op = 0x5C then { t with kept := t.kept ++ [o.node] } else t,
       writeHome l p.data p.poison t.req.cls p.op o.node o.tag s)
    else if p.op = 0x5A then (t, s)
    else if p.op = 0x59 then ({ t with kept := t.kept ++ [o.node] }, s)
    else if p.op = 0x5D then ownerLost 3 o t (cohProtocol l o.node p.op e s)
    else ownerLost (if p.op = 0 then 1 else if p.op = 1 then 2 else 3) o t s
  | .furnisher =>
    if p.op = 0x5D then ({ t with fwdDone := true, fwdBy := some o.node }, s)
    else if p.op = 0x59 then ({ t with fLost := 2 }, s)
    else if p.op = 0x5A || isData then ({ t with fLost := 1 }, cohProtocol l o.node p.op e s)
    else ({ t with fLost := 1 }, s)

/-- Send the snoops of a list; a node that cannot be reached in Fabric topology answers with a synthetic error (R291). -/
def sendSnoops (l : Line) : List (Node × SnoopKind × Holder) → Txn → State → Txn × State
  | [], t, s => (t, s)
  | x :: r, t, s =>
    if reachable s x.1 then
      let (t, s) := sendSnoop l x t s
      sendSnoops l r t s
    else
      let (t, s) := snoopReport { node := x.1, tag := s.quay.snpTag, kind := x.2.1, holder := x.2.2 } {} t s
      sendSnoops l r t (evAfl (portTo s x.1) 17 s)

/-! ## The end of a transaction -/

/-- Put a transaction back into the request buffer, or place it there. -/
def putTxn (t : Txn) (s : State) : State :=
  { s with quay.txns := s.quay.txns.filter (fun x => x.line ≠ t.line) ++ [t] }

/-- A transaction that needs no CMP_ACK ends; with an eviction notice still awaited the line stays busy (R177). -/
def closeTxn (t : Txn) (s : State) : State :=
  if t.wbWait.isEmpty then dropTxn t.line s else putTxn { t with phase := .notice, snoops := [], takes := false } s

/-- A grant is sent: the line stays busy until CMP_ACK (R175). -/
def awaitAck (t : Txn) (s : State) : State :=
  if isOwn s t.req then closeTxn t s else putTxn { t with phase := .ack, snoops := [], takes := false } s

def members (s : State) (l : Line) : List Node := domainMembers s (domainOf s l)
def txnLine (t : Txn) : Line := BitVec.ofNat 39 t.line

/-- The entry after a request that is served (Table 6.4). -/
def afterOk (s : State) (t : Txn) : BitVec 128 :=
  entryAfter (grantE s) t.entry (txnLine t) t.req.op t.req.src t.kept t.fLost

/-- Complete a transaction with an error status: nothing is granted or stored (R308). -/
def failWith (status : BitVec 4) (t : Txn) (s : State) : State :=
  let s := setDir (txnLine t) (if t.orphan ≠ 0 then 0 else
    entryOnError t.entry (txnLine t) t.req.op t.req.src t.kept t.fLost) s
  closeTxn t (countEnd t.req t.due (sendErr t.req status s))

/-- Complete a transaction with ERR_DATA. -/
def failTxn (t : Txn) (s : State) : State := failWith 1 t s

/-- Serve a transaction from the line's data: a grant, or an atomic (Table 6.4, R183). -/
def deliver (t : Txn) (x : BitVec 512) (poison spec : Bool) (s : State) : State :=
  if poison then failTxn t s
  else if isAtomic t.req.op then
    let (y, old) := atomicLine t.req x
    let s := evQb (bankOf s (txnLine t)) 15 s
    let s := setDir (txnLine t) (afterOk s t) s
    let s := writeQuay (txnLine t) (BitVec.allOnes 64) y false t.req.cls t.req.src t.req.tag s
    closeTxn t (countEnd t.req t.due (sendRsp t.req 0x4E 0 { persisted := assured s } [old.setWidth 128] s))
  else if 0x01 ≤ t.req.op.toNat && t.req.op.toNat ≤ 0x04 then
    let g := grantOp (grantE s) t.entry t.req.op t.req.src
    let s := setDir (txnLine t) (afterOk s t) s
    awaitAck t (countEnd t.req t.due (sendRsp t.req g 0 { spec := spec } (lineSlots x) s))
  else closeTxn t (setDir (txnLine t) (afterOk s t) s)

/-- The header granule of a line's bale is read (R26, R82): it enters its channel's queue with hint 0b00 (R136). -/
def readHeader (t : Txn) (d : BitVec 128) (s : State) : State :=
  let a := dGranule d + ((dSizesW d).take (t.line % 64 / 16)).foldl (· + ·) 0
  match coord s a with
  | none => s
  | some c =>
    if (chan s c.ch).writeQ.any (fun q => q.addr = a) then evDch c.ch 16 s
    else pushRead c.ch { mkDramReq c a t.req.cls with due := t.due } s

/-- The read of an overdue request is overdue in its channel's queue too (R232). -/
def overdueRead (a : Nat) (s : State) : State :=
  match coord s a with
  | none => s
  | some c => modChan c.ch (fun ch => { ch with readQ := ch.readQ.map (fun q => if q.addr = a then { q with overdue := true } else q) }) s

/-- A request opens a demand fault or waits on the one that is open: the fault takes the class of the request that opened it, and the
smallest DUE of those that it serves (R233). -/
def requestFault (t : Txn) (page : Nat) (s : State) : State := openFault { cls := t.req.cls, due := t.due } page id s

/-- Obtain the line of the home copy (R26, R29, R49, R56): from the Quay data partition, as zeros, or by a DRAM read, a
decode or a demand fault that the transaction waits for. A page whose key context is not available gives ERR_DATA (R94). In Holdup no
demand fault opens, and a request that needs one receives POWER_LOSS (R219). An access counts once in HOTNESS: on a Quay hit only while
its descriptor is in the descriptor partition (R59). A read in an Unbacked page is answered with zeros whatever its key, and verifies
nothing (R49). -/
def obtain (t : Txn) (s : State) : State :=
  let l := txnLine t
  let page := pageOf l
  let s := descFix page s
  let zeros := dState (descOf s page) = .unbacked && (qline s l).isNone && !isAtomic t.req.op
  let s := if zeros then s else loadCtr page s
  let wait (t : Txn) (s : State) : State := putTxn { t with phase := .data, snoops := [] } s
  let heat (s : State) : State := if isAtomic t.req.op || t.touched then s else touchPage page false s
  if lineGone s l then failTxn t s
  else if !zeros && keyGone s page then failTxn t (logKeyGone page s)
  else match qline s l with
  | some q =>
    if q.mask = BitVec.allOnes 64 then
      let s := evQb (bankOf s l) 4 (useLine l q s)
      let s := if s.quay.descIn.contains page then heat s else s
      deliver t q.data q.poison false s
    else wait t (if s.quay.merges.contains l.toNat then s else { s with quay.merges := s.quay.merges ++ [l.toNat] })
  | none =>
    let s := heat (useDesc page t.req.cls (evQb (bankOf s l) 5 s))
    let t := { t with touched := true }
    let d := descOf s page
    match dState d with
    | .unbacked => deliver t 0 false false (evQb (bankOf s l) 20 s)
    | .cold => if s.aon.mode = .holdup then failWith 3 t s else wait t (requestFault t page s)
    | .warm => match placeTile (bankOf s l) 0 32 (lineLoad s) s with
      | none => wait t s
      | some (tl, s) =>
        wait { t with run := some (dGranule d), tile := tl, early := warmLine s page (t.line % 64) }
          (countUse (instPool (tl / 48) 0) t.req.cls 12
            (readHeader t d { s with tier.decodes := smod 0 s.tier.decodes (dGranule d) (· + 1) }))
    | _ => match lineAddr d (l.toNat % 64) with
      | none => deliver t 0 false false (evQb (bankOf s l) 20 s)
      | some a =>
        let s := dramRead a l.toNat t.req.hint t.due t.req.cls s
        wait t (if t.overdue then overdueRead a s else s)

/-- The home has every snoop answer of a request: it acts under Table 6.4. -/
def complete (t : Txn) (s : State) : State :=
  let l := txnLine t
  let r := t.req
  if t.fwdDone then awaitAck t (workDone r.cls t.due (outDown r.cls (setDir l (afterOk s t) s)))
  else if r.op = 0x08 || r.op = 0x09 then
    let s := setDir l (afterOk s t) s
    let s := if r.poison then
        logIt { cause := 0x47, src := epQb (bankOf s l), kind := 1, addr := dla l, node := r.src, tag := r.tag,
                args := [r.op.toNat] } s
      else s
    let s := writeQuay l (if r.op = 0x08 then BitVec.allOnes 64 else r.mask) r.data r.poison r.cls r.src r.tag s
    closeTxn t (countEnd r t.due (sendRsp r 0x4D 0 { persisted := assured s } [] s))
  else if r.op = 0x04 && grantOp (grantE s) t.entry r.op r.src = 0x4C then
    awaitAck t (countEnd r t.due (sendRsp r 0x4C 0 {} [] (setDir l (afterOk s t) s)))
  else if r.op = 0xFF then closeTxn t (countEnd r t.due (setDir l (afterOk s t) s))
  else obtain t s

/-- Start the snoops of a request's own line (Table 6.4), or serve it at once. -/
def launch (t : Txn) (s : State) : State :=
  let l := txnLine t
  let s := useDir l t.req.cls s
  let t := { t with entry := dirEntry s l, victim := none, phase := .snoop }
  let hit := match qline s l with | some q => q.mask = BitVec.allOnes 64 | none => false
  let (t, s) := sendSnoops l (planSnoops (members s l) (fwdEnable s) hit t.entry t.req.op t.req.src) t s
  if t.snoops.isEmpty then (if t.orphan ≠ 0 then failTxn t s else complete t s) else putTxn t s

/-- A transaction with no snoop outstanding goes on; after a recall the victim's entry is freed first (R171). -/
def advance (line : Nat) (s : State) : State :=
  match txnOf s line with
  | none => s
  | some t =>
    if !t.snoops.isEmpty then s
    else match t.phase, t.victim with
      | .recall, some v =>
        let s := setDir (eLine v) 0 s
        let s := if t.wbWait.isEmpty then s else
          putTxn { line := (eLine v).toNat, phase := .notice, wbWait := t.wbWait } s
        launch { t with wbWait := [], kept := [] } s
      | .snoop, _ => if t.orphan ≠ 0 then failTxn t s else complete t s
      | _, _ => s

/-! ## Starting a request -/

/-- Rank of an entry as a recall victim: Shared before Broadcast before Owned (R171). -/
def victimRank (e : BitVec 128) : Nat := match eState e with | 1 => 0 | 3 => 1 | 2 => 2 | _ => 3

/-- The entry that a recall takes from a full set: busy and ANY entries are excluded; within the preferred kind the
bank's rotating pointer picks (R171). -/
def pickVictim (s : State) (l : Line) : Option (BitVec 128) :=
  let x := dirLine s l
  let ok := (List.range 4).filter (fun i => let e := setEntry x i
    eState e ≠ 0 && !(eState e = 3 && eAny e) && !lineBusy s (eLine e) && (opOf s (pageOf (eLine e))).isNone)
  match (ok.map (fun i => victimRank (setEntry x i))).min? with
  | none => none
  | some k =>
    let p := sget 0 s.quay.dirVictim (bankOf s l)
    let kind := ok.filter (fun i => victimRank (setEntry x i) = k)
    ((List.range 4).map (fun j => (p + j) % 4)).find? (fun i => kind.contains i) |>.map (fun i => setEntry x i)

/-- The request that Table 6.4 applies to: outside the line's domain a grant becomes a read of the current value; a WR_PART
with every MASK bit set is a WR_FULL (R166, R301). -/
def effective (s : State) (r : Req) : Req :=
  let l := reqLine s r
  if (r.op = 0x02 || r.op = 0x03) && !isOwn s r && !(members s l).contains r.src then { r with op := 0x01 }
  else if r.op = 0x09 && r.mask = BitVec.allOnes 64 then { r with op := 0x08 }
  else r

/-- A request whose grant needs a new entry (R171). -/
def needsEntry (s : State) (r : Req) : Bool :=
  let l := reqLine s r
  let r := effective s r
  entryKind (dirEntry s l) = .none && entryAfter (grantE s) 0 l r.op r.src [] 0 ≠ 0

/-- Free entries of a line's set that no transaction has taken (R171). -/
def freeDir (s : State) (l : Line) : Nat :=
  ((List.range 4).filter (fun i => eState (setEntry (dirLine s l) i) = 0)).length -
  (s.quay.txns.filter (fun t => t.takes && dirKey s (txnLine t) = dirKey s l)).length

/-- A request whose grant needs a new entry in a full set (R171). -/
def needsRecall (s : State) (r : Req) : Bool := needsEntry s r && freeDir s (reqLine s r) = 0

/-- A request may start: its line is not busy, no operation on its page bars it, its descriptor frame is restored, no
snapshot holds it, and a recall that it needs finds a victim (R47, R171, R173, R227, R243, R354). -/
def canStart (s : State) (r : Req) : Bool :=
  let l := reqLine s r
  !lineBusy s l && !pageBars s (pageOf l) (isStore r.op) && !framePending s (pageOf l) && !snapHeld s l (isStore r.op) &&
  (!needsRecall s r || (pickVictim s l).isSome) && (!isStore r.op || (makeRoom l s).isSome)

/-- R92: the key of a page that a write would seal is not Active. -/
def keyRefuses (s : State) (r : Req) : Option (BitVec 20) :=
  if isStore r.op then
    match takesKey s (pageOf (reqLine s r)) with
    | some k => if (keyCtxOf s k).isNone then some k else none
    | none => none
  else none

/-- Start an accepted request whose line is free (R166, R176, R183, R301). A request that waited on a failed demand fault, and a write
of a page whose key context is not available, end with ERR_DATA (R36, R94). The bank's rotating victim pointer counts each recall (DESIGN
CHOICE, log entry 105). -/
def startReq (w : Waiter) (s : State) : State :=
  let l := reqLine s w.req
  let s := dirFix l (descFix (pageOf l) s)
  let r := effective s w.req
  let t : Txn := { req := r, line := l.toNat, due := w.due, overdue := w.overdue, takes := needsEntry s w.req }
  let err (k : BitVec 4) (s : State) : State := countEnd r w.due (sendErr r k s)
  if w.lost then err 1 s
  else if r.op = 0x09 && r.mask = 0 then
    countEnd r w.due (sendRsp r 0x4D 0 { persisted := assured s } [] s)
  else if isAtomic r.op && !atomicOk r then err 2 s
  else if lineGone s l && r.op ≠ 0x08 && r.op ≠ 0x09 && r.op ≠ 0xFF then err 1 s
  else if isStore r.op && keyGone s (pageOf l) then err 1 (logKeyGone (pageOf l) s)
  else if r.op = 0x04 && !isOwn s r && !(members s l).contains r.src then
    err 2 (logIt { cause := 0x21, src := epQb (bankOf s l), kind := 1, addr := dla l, node := r.src, args := [r.op.toNat] } s)
  else match keyRefuses s r with
  | some k =>
    err 2 (logIt { cause := 0x03, src := epQb (bankOf s l), kind := 1, addr := dla l, key := k, node := r.src, tag := r.tag } s)
  | none =>
    let e := dirEntry s l
    if entryKind e = .owned && ePtr e 0 = r.src then
      err 1 (logOrphaned l r.src 4 r (setDir l 0 (orphanLine l s)))
    else if needsRecall s r then
      match pickVictim s l with
      | none => putTxn t s
      | some v =>
        let b := bankOf s l
        let s := evQb b 12 { s with quay.dirVictim := smod 0 s.quay.dirVictim b (fun p => (p + 1) % 4) }
        let vl := eLine v
        let list : List (Node × SnoopKind × Holder) := match entryKind v with
          | .shared => (ePtrs v).map (fun n => (n, .inv, .sharer))
          | .owned => [(ePtr v 0, .inv, .owner)]
          | _ => (members s vl).map (fun n => (n, .inv, .member))
        let (t, s) := sendSnoops vl list { t with victim := some v, phase := .recall } s
        advance t.line (putTxn t s)
    else launch t s

/-! ## Eviction notices (R174, R180, R305, Table 6.4) -/

/-- The line's transaction waits for this node's notice (R177). -/
def noticeAwaited (s : State) (n : Req) : Bool :=
  s.quay.txns.any (fun t => (t.line = (reqLine s n).toNat || snoopLine t = reqLine s n) && t.wbWait.contains n.src)

/-- The home may take a notice. -/
def noticeReady (s : State) (n : Req) : Bool :=
  noticeAwaited s n || (!lineBusy s (reqLine s n) &&
    (n.op = 0x40 || (!pageBars s (pageOf (reqLine s n)) true && !framePending s (pageOf (reqLine s n)))))

/-- WB_ACK. -/
def sendWbAck (n : Req) (s : State) : State := sendRsp n 0x4F 0 { persisted := assured s } [] s

/-- The home takes a notice under Table 6.4. -/
def takeNotice (n : Req) (s : State) : State :=
  let l := reqLine s n
  let s := dirFix l s
  if noticeAwaited s n then
    let s := sendWbAck n s
    let f (t : Txn) : Txn := if (t.line = l.toNat || snoopLine t = l) && t.wbWait.contains n.src
      then { t with wbWait := t.wbWait.erase n.src } else t
    { s with quay.txns := (s.quay.txns.map f).filter (fun t => !(t.phase = .notice && t.wbWait.isEmpty)) }
  else
    let e := dirEntry s l
    let write (s : State) : State := writeHome l n.data n.poison n.cls n.op n.src n.tag s
    match entryKind e with
    | .owned =>
      if ePtr e 0 = n.src then sendWbAck n (setDir l 0 (if n.op = 0x41 then write s else s)) else sendWbAck n s
    | .shared =>
      if (ePtrs e).contains n.src then
        if n.op = 0x41 then sendWbAck n (cohProtocol l n.src n.op e s)
        else
          let ps := (ePtrs e).filter (· ≠ n.src)
          let f := match eFholder e with | some h => if h = n.src then none else some h | none => none
          sendWbAck n (setDir l (if ps.isEmpty then 0 else mkShared l ps f) s)
      else sendWbAck n s
    | .broadcast => sendWbAck n (if n.op = 0x41 then cohProtocol l n.src n.op e s else s)
    | .any => sendWbAck n (if n.op = 0x41 then write s else s)
    | .none => sendWbAck n s

/-! ## What a free line lets go on (R173, R174, R243) -/

/-- A transaction holds its entry of the request buffer until the home has sent its final message (R173). -/
def holdsEntry (t : Txn) : Bool := t.phase ≠ .ack && t.phase ≠ .notice

/-- Transactions and waiting requests that hold entries of a bank's request buffer. -/
def bankHeld (s : State) (b : Nat) : Nat :=
  (s.quay.txns.filter (fun t => holdsEntry t && bankOf s (txnLine t) = b)).length +
  (s.quay.busy.filter (fun w => bankOf s (reqLine s w.req) = b)).length

/-- No request for the same line waits ahead. -/
def firstForLine (s : State) (w : Waiter) : Bool :=
  match s.quay.busy.find? (fun x => reqLine s x.req = reqLine s w.req) with
  | some x => x.stamp = w.stamp
  | none => true

/-- A transaction waits for data that nothing under way brings. -/
def dataIdle (s : State) (t : Txn) : Bool :=
  t.phase = .data && t.run.isNone && !s.dram.reads.any (fun r => r.line = t.line) && !s.quay.merges.contains t.line &&
  (dState (descOf s (pageOf (txnLine t))) ≠ .warm || decodeRoom s (bankOf s (txnLine t))) &&
  (match opOf s (pageOf (txnLine t)) with
   | some o => o.kind ≠ .fault && dState (descOf s (pageOf (txnLine t))) ≠ .cold
   | none => dState (descOf s (pageOf (txnLine t))) ≠ .cold || faultRoom s)

/-- Entries of a bank's request buffer that a class holds. -/
def classHeld (s : State) (b : Nat) (c : BitVec 8) : Nat :=
  (s.quay.txns.filter (fun t => holdsEntry t && t.req.cls = c && bankOf s (txnLine t) = b)).length +
  (s.quay.busy.filter (fun w => w.req.cls = c && bankOf s (reqLine s w.req) = b)).length

/-- A class is lowered at a bank: by its lines there, or by the dirty-ceiling rule (R240). -/
def bankLowered (s : State) (b : Nat) (c : BitVec 8) : Bool :=
  classLowered s b c || (regulates s && !ledgerSpared s c.toNat && quayBudget s b c.toNat < quayUse s b c)

/-- The order of R241 and R232 among requests at a bank's reservation point, as a rank: lower first. In the modes with caps
the order is by slack alone (R247). -/
def waitRank (s : State) (inst : Nat) (w : Waiter) : Nat × Nat × Int × Nat :=
  (if !regulates s || classHeld s inst w.req.cls < budgetOf s inst w.req.cls.toNat 960 then 0
   else if bankLowered s inst w.req.cls && !w.aged then 2 else 1,
   if w.overdue || overdueAt w.due (tick s) then 0 else match w.due with | some _ => 1 | none => 2,
   match w.due with | some d => if w.overdue || overdueAt w.due (tick s) then 0 else slackTicks d (tick s) | none => 0,
   w.stamp)

/-- Ranks in order. -/
def rankLt (a b : Nat × Nat × Int × Nat) : Bool :=
  if a.1 ≠ b.1 then a.1 < b.1
  else if a.2.1 ≠ b.2.1 then a.2.1 < b.2.1
  else if a.2.2.1 ≠ b.2.2.1 then a.2.2.1 < b.2.2.1
  else a.2.2.2 < b.2.2.2

/-- The first waiter in the order of R241. -/
def bestWaiter (s : State) : List Waiter → Option Waiter
  | [] => none
  | w :: r => match bestWaiter s r with
    | none => some w
    | some x => if rankLt (waitRank s (bankOf s (reqLine s x.req)) x) (waitRank s (bankOf s (reqLine s w.req)) w)
        then some x else some w

/-- A request enters its home bank: it starts, or waits in the busy queue (R173). A write aborts a demotion of its page (R32). -/
def enterBank (w : Waiter) (s : State) : State :=
  let b := bankOf s (reqLine s w.req)
  let s := if isStore w.req.op then abortFor (pageOf (reqLine s w.req)) s else s
  if canStart s w.req && firstForLine s w then startReq w (evQb b 0 s)
  else
    let s := if isStore w.req.op then snapFirst (reqLine s w.req) s else s
    evQb b 9 { evQb b 1 s with quay.busy := s.quay.busy ++ [w] }

/-- The home bank of a notice has one of its 64 entries for notices free (R305). -/
def noticeRoom (s : State) (n : Req) : Bool :=
  (s.quay.notices.filter (fun m => bankOf s (reqLine s m) = bankOf s (reqLine s n))).length < 64

/-- A notice takes a line of the holding partition (R305). -/
def parkNotice (n : Req) (s : State) : State :=
  evQb (bankOf s (reqLine s n)) 14 { s with quay.parked := s.quay.parked ++ [n] }

/-- One thing that can go on: a notice, the oldest waiting request of a free line, a transaction whose data may now be
obtained, a request at the reservation point of a bank with a free entry. -/
def nextReady (s : State) : Option State :=
  match s.quay.notices.findIdx? (noticeReady s) with
  | some i => (s.quay.notices[i]?).map (fun n => takeNotice n { s with quay.notices := s.quay.notices.eraseIdx i })
  | none => match s.quay.parked.findIdx? (noticeAwaited s) with
    | some i => (s.quay.parked[i]?).map (fun n => takeNotice n { s with quay.parked := s.quay.parked.eraseIdx i })
    | none => match s.quay.parked.findIdx? (noticeRoom s) with
      | some i => (s.quay.parked[i]?).map (fun n =>
          { s with quay.parked := s.quay.parked.eraseIdx i, quay.notices := s.quay.notices ++ [n] })
      | none => match s.quay.parkWait with
        | n :: r => if parkFree s then some (parkNotice n (takeRx n.port n.op n.src n.tag { s with quay.parkWait := r })) else waiting s
        | [] => waiting s
where
  /-- The part that looks at requests. -/
  waiting (s : State) : Option State :=
    match s.quay.txns.find? (dataIdle s) with
    | some t => some (obtain t s)
    | none => match s.quay.busy.find? (fun w => firstForLine s w && canStart s w.req) with
      | some w => some (startReq w { s with quay.busy := s.quay.busy.filter (fun x => x.stamp ≠ w.stamp) })
      | none => match bestWaiter s (s.reins.waiters.filter (fun w => bankHeld s (bankOf s (reqLine s w.req)) < 960)) with
        | some w => some (enterBank w { s with reins.waiters := s.reins.waiters.filter (fun x => x.stamp ≠ w.stamp) })
        | none => s.quay.fills.findSome? (fun e => placeFill e s)

/-- Everything that can go on goes on, at most `n` times. -/
def settleN : Nat → State → State
  | 0, s => s
  | n + 1, s => match nextReady s with
    | some t => settleN n t
    | none => s

/-- After each event of the home: what waited and may go on does (R174). -/
def settle (s : State) : State :=
  settleN (2 * (s.quay.notices.length + s.quay.parked.length + s.quay.parkWait.length + s.quay.busy.length + s.quay.txns.length +
    s.reins.waiters.length + s.quay.fills.length)) s

/-! ## Admission -/

/-- A request from the same source with the same tag is outstanding (R300). -/
def duplicate (s : State) (r : Req) : Bool :=
  let same (q : Req) : Bool := q.src = r.src && q.tag = r.tag
  s.quay.txns.any (fun t => same t.req && t.phase ≠ .ack && t.phase ≠ .notice) || s.quay.busy.any (fun w => same w.req) ||
  s.reins.waiters.any (fun w => same w.req) || s.reins.hold.any (fun h => h.2.any (fun w => same w.req))

/-- A request stamped with DUE from the tick of its arrival (R231). -/
def arrive (at' : Nat) (r : Req) (s : State) : Waiter × State :=
  ({ req := r, due := dueOf at' r.deadline, stamp := s.reins.stamp }, { s with reins.stamp := s.reins.stamp + 1 })

/-- A request is admitted: it takes an entry of its home bank, or waits at the reservation point (R173, R243). -/
def admitReq (w : Waiter) (s : State) : State :=
  let s := outUp w.req.cls s
  if bankHeld s (bankOf s (reqLine s w.req)) < 960 then enterBank w s
  else { s with reins.waiters := s.reins.waiters ++ [w] }

/-- A request is stamped and admitted, and what may go on does. -/
def admitNew (at' : Nat) (r : Req) (s : State) : State :=
  let (w, s) := arrive at' r s
  settle (admitReq w s)

/-- A request as its packet (Tables 10.2, 10.4). -/
def reqPkt (r : Req) : Pkt :=
  let flags : BitVec 11 := place 11 6 (bit1 r.poison) ||| place 11 4 r.opndSize ||| place 11 0 r.opndOff
  { hdr := reqHdr r.op r.dst r.src r.tag r.line r.deadline r.cls r.hint flags,
    body := if r.op = 0x08 then lineSlots r.data else if r.op = 0x09 then r.mask.setWidth 128 :: lineSlots r.data
      else if isAtomic r.op then [r.operand] else [] }

/-- A packet stays in its port's receive buffer (R247, R305); one that a command brought goes there. -/
def stayRx (at' : Nat) (r : Req) (s : State) : State :=
  if (portOf s r.port).rx.any (fun k => pktOp k = r.op && pktSrc k = r.src && pktTag k = r.tag) then s
  else modPort r.port (fun q => { q with rx := q.rx ++ [reqPkt r], rxAt := q.rxAt ++ [((r.op, r.src, r.tag), at')] }) s

/-- A port holds a request at its cap; with a full hold buffer the request stays in the receive buffer, so its credits are
not returned, and CAP_HOLD_FULL is logged once per mode entry (R247, R389). -/
def holdReq (at' : Nat) (r : Req) (s : State) : State :=
  let p := r.port
  let l := sget [] s.reins.hold p
  if l.length < 256 then
    let (w, s) := arrive at' r (takeRx p r.op r.src r.tag s)
    evAfl p 16 { s with reins.hold := sset [] s.reins.hold p (l ++ [w]) }
  else
    let s := if sget false s.reins.capLogged p then s else
      logIt { cause := 0x32, args := [p, r.cls.toNat, modeCode s.aon.mode] }
        { s with reins.capLogged := sset false s.reins.capLogged p true }
    stayRx at' r s

/-- R218: before the freeze Holdup serves reads of lines in the Quay cache or in Hot or Warm pages. -/
def holdupServes (s : State) (r : Req) : Bool :=
  let l := reqLine s r
  let st := dState (descOf s (pageOf l))
  s.led.hStep < 2 && (r.op = 0x01 || r.op = 0x02) && ((qline s l).isSome || st = .hot || st = .warm)

/-- An error response to a request that was not accepted: its deadline is judged with it (R249). -/
def endErr (r : Req) (due : Option Nat) (s : State) : State :=
  match due with
  | none => s
  | some d => if portUp s r.port || (portOf s r.port).held then
      { s with reins.ends := s.reins.ends ++ [((r.src, r.tag), (d, r.cls))] } else s

/-- A request on the request virtual channel reaches the device (R21, R300, Table 14.1). -/
def homeRequest (op : BitVec 8) (r : Req) (s : State) : State :=
  let r := { r with op := op }
  if s.aon.mode = .stall || s.aon.mode = .watch then s
  else
    let s := evAfl r.port 14 s
    let at' := rxTick r.port op r.src r.tag s
    let taken := takeRx r.port op r.src r.tag s
    let err (k : BitVec 4) (s : State) : State := endErr r (dueOf at' r.deadline) (sendErr r k s)
    if duplicate s r then pktInvalid r.port op r.src r.tag 5 taken
    else if r.dst ≠ nodeId s || capacity s ≤ dla (reqLine s r) then
      err 2 (wrongDest r taken)
    else match s.aon.mode with
      | .harnessing | .recovery => holdReq at' r s
      | .maintenance => err 2 taken
      | .holdup => if holdupServes s r then admitNew at' r taken else err 3 taken
      | _ => admitNew at' r taken

/-- An eviction notice reaches the device (R173, R174, R218, R305). -/
def homeNotice (op : BitVec 8) (n : Req) (s : State) : State :=
  let n := { n with op := op }
  if s.aon.mode = .stall || s.aon.mode = .watch then s
  else
    let s := evAfl n.port 15 s
    let taken := takeRx n.port op n.src n.tag s
    if n.dst ≠ nodeId s then pktInvalid n.port op n.src n.tag 4 taken
    else if capacity s ≤ dla (reqLine s n) then sendErr n 2 (pktInvalid n.port op n.src n.tag 4 taken)
    else if s.aon.mode = .holdup && 2 ≤ s.led.hStep then sendErr n 3 taken
    else
      let count (s : State) : State := evQb (bankOf s (reqLine s n)) 13 s
      if noticeRoom s n then settle { count taken with quay.notices := s.quay.notices ++ [n] }
      else if parkFree s then settle (parkNotice n (count taken))
      else { stayRx (tick s) n (count s) with quay.parkWait := s.quay.parkWait ++ [n] }

/-- A snoop response reaches the device (R177, R296). -/
def homeSnoopRsp (op : BitVec 8) (p : Rsp) (s : State) : State :=
  if s.aon.mode = .stall || s.aon.mode = .watch then s
  else
    let s := evAfl p.port 15 (takeRx p.port op p.src p.tag s)
    if p.dst ≠ nodeId s then pktInvalid p.port op p.src p.tag 4 s
    else match s.quay.txns.find? (fun t => t.snoops.any (fun o => o.node = p.src && o.tag = p.tag)) with
    | none => lateOrInvalid p.port op p.src p.tag s
    | some t => match t.snoops.find? (fun o => o.node = p.src && o.tag = p.tag) with
      | none => s
      | some o =>
        let (t, s) := snoopReport o { op := op, fromWb := p.fromWb, poison := p.poison, data := p.data } t s
        settle (advance t.line (putTxn t s))

/-- A snoop ends in a synthetic error or a timeout (R177, R185, R291). -/
def snoopFails (node : Node) (tag : Tag) (timeout : Bool) (s : State) : State :=
  match s.quay.txns.find? (fun t => t.snoops.any (fun o => o.node = node && o.tag = tag)) with
  | none => s
  | some t => match t.snoops.find? (fun o => o.node = node && o.tag = tag) with
    | none => s
    | some o =>
      let s := { s with quay.quiet := if s.quay.quiet.contains (node, tag) then s.quay.quiet else s.quay.quiet ++ [(node, tag)] }
      let (t, s) := snoopReport o { op := if timeout then 1 else 0 } t s
      advance t.line (putTxn t s)

/-- A CMP_ACK ends a grant (R175): received, or treated as received (R185, R290, R291). -/
def ackGrant (node : Node) (tag : Tag) (s : State) : State :=
  match s.quay.txns.find? (fun t => t.phase = .ack && t.req.src = node && t.req.tag = tag) with
  | none => s
  | some t => closeTxn t s

end Sys2Proof.Machine
end

