-- ==== Sys2Proof/Machine/Coherence.lean ====
section
/-! DEFINITION. The coherence messages that reach the device as home: requests, uncached writes, atomics, eviction notices,
CMP_ACK and snoop responses (Table 6.3). -/

namespace Sys2Proof.Machine

open Sys2Proof

/-- What every meaning answers: a fault, a refusal, or the next state. -/
abbrev Out := Host.Outcome State Fault Refusal

/-- RD_CUR (R176): Home bank takes an RD_CUR request and returns the current value as DATA_I without granting a copy. -/
def execRdCur (r : Req) (s : State) : Out := .next (homeRequest 0x01 r s)

/-- RD_SHARED (R176): Home bank takes an RD_SHARED request and grants a shareable copy under Table 6.4. -/
def execRdShared (r : Req) (s : State) : Out := .next (homeRequest 0x02 r s)

/-- RD_OWN (R176): Home bank takes an RD_OWN request, invalidates other copies and grants an exclusive copy. -/
def execRdOwn (r : Req) (s : State) : Out := .next (homeRequest 0x03 r s)

/-- UPGRADE (R176): Home bank takes an UPGRADE request for a line held in S or F and grants exclusive permission. -/
def execUpgrade (r : Req) (s : State) : Out := .next (homeRequest 0x04 r s)

/-- WR_FULL (R182): Home bank takes an uncached full-line write, invalidates cached copies, stores the line and returns CMP. -/
def execWrFull (r : Req) (s : State) : Out := .next (homeRequest 0x08 r s)

/-- WR_PART (R182): Home bank takes a byte-masked partial write, invalidates copies, holds the bytes unmerged and returns CMP. -/
def execWrPart (r : Req) (s : State) : Out := .next (homeRequest 0x09 r s)

/-- AT_ADD (R183): Home bank executes an atomic add on its copy and returns the old value in ATM_DATA. -/
def execAtAdd (r : Req) (s : State) : Out := .next (homeRequest 0x10 r s)

/-- AT_SWAP (R183): Home bank executes an atomic swap and returns the old value. -/
def execAtSwap (r : Req) (s : State) : Out := .next (homeRequest 0x11 r s)

/-- AT_CAS (R183): Home bank executes an atomic compare-and-swap and returns the old value. -/
def execAtCas (r : Req) (s : State) : Out := .next (homeRequest 0x12 r s)

/-- AT_AND (R183): Home bank executes an atomic AND and returns the old value. -/
def execAtAnd (r : Req) (s : State) : Out := .next (homeRequest 0x13 r s)

/-- AT_OR (R183): Home bank executes an atomic OR and returns the old value. -/
def execAtOr (r : Req) (s : State) : Out := .next (homeRequest 0x14 r s)

/-- AT_XOR (R183): Home bank executes an atomic XOR and returns the old value. -/
def execAtXor (r : Req) (s : State) : Out := .next (homeRequest 0x15 r s)

/-- AT_SMIN (R183): Home bank executes an atomic signed minimum and returns the old value. -/
def execAtSmin (r : Req) (s : State) : Out := .next (homeRequest 0x16 r s)

/-- AT_SMAX (R183): Home bank executes an atomic signed maximum and returns the old value. -/
def execAtSmax (r : Req) (s : State) : Out := .next (homeRequest 0x17 r s)

/-- AT_UMIN (R183): Home bank executes an atomic unsigned minimum and returns the old value. -/
def execAtUmin (r : Req) (s : State) : Out := .next (homeRequest 0x18 r s)

/-- AT_UMAX (R183): Home bank executes an atomic unsigned maximum and returns the old value. -/
def execAtUmax (r : Req) (s : State) : Out := .next (homeRequest 0x19 r s)

/-- EVICT_CLEAN (R176): Home bank takes a clean eviction notice, updates the directory entry and returns WB_ACK. -/
def execEvictClean (r : Req) (s : State) : Out := .next (homeNotice 0x40 r s)

/-- EVICT_DIRTY (R176): Home bank takes a dirty eviction notice, writes the data to the home copy if the owner is named, and returns WB_ACK. -/
def execEvictDirty (r : Req) (s : State) : Out := .next (homeNotice 0x41 r s)

/-- CMP_ACK (R175, R296): the grant that it matches ends; one that matches none is discarded without a count. -/
def execCmpAck (p : Rsp) (s : State) : Out :=
  if s.aon.mode = .stall || s.aon.mode = .watch then .next s
  else
    let s := evAfl p.port 15 (takeRx p.port 0x50 p.src p.tag s)
    if p.dst ≠ nodeId s then .next (pktInvalid p.port 0x50 p.src p.tag 4 s)
    else .next (settle (ackGrant p.src p.tag s))

/-- RSP_I (R177): Home takes a snoop response reporting no copy and updates the entry or orphans the line. -/
def execRspI (p : Rsp) (s : State) : Out := .next (homeSnoopRsp 0x58 p s)

/-- RSP_S (R177): Home takes a snoop response reporting the node now holds S or keeps F. -/
def execRspS (p : Rsp) (s : State) : Out := .next (homeSnoopRsp 0x59 p s)

/-- RSP_I_CLEAN (R177): Home takes a snoop response reporting a clean E copy dropped to I. -/
def execRspIClean (p : Rsp) (s : State) : Out := .next (homeSnoopRsp 0x5A p s)

/-- RSP_I_DATA (R177): Home takes a snoop response with modified data, writes it to the home copy and records the node as I. -/
def execRspIData (p : Rsp) (s : State) : Out := .next (homeSnoopRsp 0x5B p s)

/-- RSP_S_DATA (R177): Home takes a snoop response with modified data, writes it to the home copy and records the node as S. -/
def execRspSData (p : Rsp) (s : State) : Out := .next (homeSnoopRsp 0x5C p s)

/-- RSP_FWD (R177): Home takes the F holder's report that it forwarded DATA_S to the requester. -/
def execRspFwd (p : Rsp) (s : State) : Out := .next (homeSnoopRsp 0x5D p s)

end Sys2Proof.Machine
end

