-- ==== Sys2Proof/Machine/Caching.lean ====
section
/-! DEFINITION. The device as a caching node and as a requester: snoops from another home (Table 6.6) and the responses to
requests of its own (R163 to R165, R178 to R180, R308 to R310). -/

namespace Sys2Proof.Machine

open Sys2Proof

/-- The key of a line of another home. -/
def remoteKey (home : Node) (line : Line) : Nat := home.toNat * 2 ^ 39 + line.toNat
def remoteOf (s : State) (home : Node) (line : Line) : RLine := sget {} s.quay.remote (remoteKey home line)
def setRemote (home : Node) (line : Line) (v : RLine) (s : State) : State :=
  { s with quay.remote := sset {} s.quay.remote (remoteKey home line) v }

/-- A caching node's answer to a snoop and its line after it (Table 6.6): opcode, data present, line. -/
def cacheAnswer (k : SnoopKind) (x : RLine) : BitVec 8 × Bool × RLine :=
  if x.wb then
    if x.answered then (0x58, false, x)
    else match x.st with
      | .m => (0x5B, true, { x with answered := true })
      | .e => (0x5A, false, { x with answered := true })
      | .i => (0x58, false, x)
      | _ => (0x58, false, { x with answered := true })
  else match x.st, k with
    | .i, _ => (0x58, false, x)
    | .m, .share => (0x5C, true, { x with st := .s })
    | .m, _ => (0x5B, true, {})
    | .e, .share => (0x59, false, { x with st := .s })
    | .e, _ => (0x5A, false, {})
    | .s, .inv => (0x58, false, {})
    | .s, _ => (0x59, false, x)
    | .f, .inv => (0x58, false, {})
    | .f, .share => (0x59, false, x)
    | .f, .fwd => (0x5D, false, x)

/-- A snoop from another home (R178, R179): it is answered from the line's state at once; an F holder forwards DATA_S. -/
def answerSnoop (k : SnoopKind) (r : Req) (s : State) : State :=
  if s.aon.mode = .stall || s.aon.mode = .watch then s
  else
    let op := snoopOp k
    let s := evAfl r.port 14 (takeRx r.port op r.src r.tag s)
    if r.dst ≠ nodeId s then
      sendPkt r.port { hdr := rspHdr 0x5E r.src (nodeId s) r.tag 2 {} } (pktInvalid r.port op r.src r.tag 4 s)
    else
      let x := remoteOf s r.src r.line
      let (a, data, y) := cacheAnswer k x
      let s := setRemote r.src r.line y s
      let s := if a = 0x5D then
          sendPkt (portTo s (r.operand.extractLsb' 0 17))
            { hdr := rspHdr 0x49 (r.operand.extractLsb' 0 17) (nodeId s) (r.operand.extractLsb' 17 14) 0 { fwd := true, home := r.src },
              body := lineSlots x.data } s
        else s
      sendPkt r.port { hdr := rspHdr a r.src (nodeId s) r.tag 0 { fromWb := x.wb && !x.answered && x.st ≠ .i, poison := data && x.poison },
                       body := if data then lineSlots x.data else [] } s

/-- SNP_INV (R179). -/
def execSnpInv (r : Req) (s : State) : Out := .next (answerSnoop .inv r s)
/-- SNP_SHARE (R179). -/
def execSnpShare (r : Req) (s : State) : Out := .next (answerSnoop .share r s)
/-- SNP_FWD_S (R179). -/
def execSnpFwdS (r : Req) (s : State) : Out := .next (answerSnoop .fwd r s)

/-! ## Accesses of the device to lines of another home (R163, R178, R179, R305) -/

/-- A request of the device's own goes out (R178): one is outstanding per line of a home, and none for a line that stands in the
writeback buffer. -/
def issueReq (op : BitVec 8) (home : Node) (line : Line) (data : BitVec 512) (body : List (BitVec 128)) (poison : Bool) (s : State) : State :=
  if s.quay.devReqs.any (fun d => d.dst = home && d.line = line.toNat && d.status.isNone) then s
  else
    let tag := freshTag s home 16384 s.quay.snpTag
    sendPkt (portTo s home)
      { hdr := reqHdr op home (nodeId s) tag line 0xFFF (deviceClass s) 0 (place 11 6 (bit1 poison)), body := body }
      { s with quay.devReqs := s.quay.devReqs ++ [{ dst := home, tag := tag, op := op, line := line.toNat, data := data }],
               quay.snpTag := tag + 1 }

/-- Evict a line of another home (Table 6.6, R178): its notice goes out, and the line waits in the writeback buffer for WB_ACK. -/
def cacheEvict (home : Node) (line : Line) (s : State) : State :=
  let x := remoteOf s home line
  if x.wb || x.st = .i || s.quay.devReqs.any (fun d => d.dst = home && d.line = line.toNat && d.status.isNone) then s
  else
    let dirty : Bool := x.st = .m
    issueReq (if dirty then 0x41 else 0x40) home line x.data (if dirty then lineSlots x.data else []) (dirty && x.poison)
      (setRemote home line { x with wb := true, answered := false, st := if x.st = .f then .s else x.st } s)

/-- Room for a line of another home: beyond the lines outside the park reserve the one with the lowest home and address leaves
(R305; DESIGN CHOICE, log entry 111: the spec names no victim). -/
def remoteFit (s : State) : State :=
  if s.quay.remote.length ≤ remoteRoom s then s
  else match s.quay.remote.find? (fun e => !e.2.wb) with
    | some e => cacheEvict (BitVec.ofNat 17 (e.1 / 2 ^ 39)) (BitVec.ofNat 39 e.1) s
    | none => s

/-- A load, or a store of `st`, of the device to a line of another home (Table 6.6): a hit, or the request of the table. When the park
reserve takes the whole partition only RD_CUR and uncached writes reach the line (R305). -/
def cacheAccess (home : Node) (line : Line) (st : Option (BitVec 512)) (s : State) : State :=
  let x := remoteOf s home line
  if x.wb then s
  else match x.st, st with
    | .i, none => issueReq (if remoteRoom s = 0 then 0x01 else 0x02) home line 0 [] false s
    | .i, some d => if remoteRoom s = 0 then issueReq 0x08 home line d (lineSlots d) false s else issueReq 0x03 home line d [] false s
    | .m, some d | .e, some d => setRemote home line { x with st := .m, data := d, poison := false } s
    | .s, some d | .f, some d => issueReq 0x04 home line d [] false s
    | _, none => s

/-! ## Responses -/

/-- CMP_ACK, which every response to a read or an UPGRADE draws (R178). -/
def sendCmpAck (d : DevReq) (s : State) : State :=
  if 1 ≤ d.op.toNat && d.op.toNat ≤ 4 then
    sendPkt (portTo s d.dst) { hdr := rspHdr 0x50 d.dst (nodeId s) d.tag 0 {} } s
  else s

/-- The line that a grant installs (R164, R179, Table 6.3): DATA_E in E, and an UPGRADE's CMP_E in M with the store's data. -/
def installed (op : BitVec 8) (d : DevReq) (old : RLine) (data : BitVec 512) : RLine :=
  match op.toNat with
  | 0x48 => { st := .e, data := data }
  | 0x49 => { st := .s, data := data }
  | 0x4A => { st := .f, data := data }
  | 0x4C => { st := .m, data := d.data }
  | _ => old

/-- A response completes a request of the device: it installs the copy that it grants, and the store that the request served is laid
down in the line (Table 6.6: a store hits in E). -/
def finishReq (op : BitVec 8) (st : BitVec 4) (data : BitVec 512) (d : DevReq) (s : State) : State :=
  let keep : BitVec 512 := if op = 0x4B || op = 0x4E then data else d.data
  let s := { s with quay.devReqs := s.quay.devReqs.map (fun x =>
    if x.dst = d.dst && x.tag = d.tag && x.status.isNone then { x with status := some st, data := keep, held := none, spec := 0 } else x) }
  if op = 0x5E || op = 0x4B then s
  else
    let line : Line := BitVec.ofNat 39 d.line
    let s := setRemote d.dst line (installed op d (remoteOf s d.dst line) data) s
    remoteFit (if op = 0x48 && (d.op = 0x03 || d.op = 0x04) then cacheAccess d.dst line (some d.data) s else s)

/-- A speculative response waits for two more PAYLOAD flits of its port before its data count as valid (R117, R178). -/
def holdSpec (op : BitVec 8) (data : BitVec 512) (d : DevReq) (s : State) : State :=
  { s with quay.devReqs := s.quay.devReqs.map (fun x =>
    if x.dst = d.dst && x.tag = d.tag && x.status.isNone then { x with held := some (op, data), spec := 2 } else x) }

/-- A PAYLOAD flit arrives at a port: the speculative responses that came before it have one less to wait for (R117). -/
def specFlit (p : Nat) (s : State) : State :=
  let mine (d : DevReq) : Bool := d.held.isSome && d.status.isNone && portTo s d.dst = p
  let due := s.quay.devReqs.filter (fun d => mine d && d.spec ≤ 1)
  let s := { s with quay.devReqs := s.quay.devReqs.map (fun d => if mine d then { d with spec := d.spec - 1 } else d) }
  due.foldl (fun t d => match d.held with
    | some h => finishReq h.1 0 h.2 d t
    | none => t) s

/-- A response to a request of the device. `home` is the node that it is matched by: HOME for a forwarded DATA_S, else
SOURCE (R300). It installs the copy that it grants, completes the request and draws a CMP_ACK. -/
def devResponse (op : BitVec 8) (p : Rsp) (s : State) : State :=
  if s.aon.mode = .stall || s.aon.mode = .watch then s
  else
    let s := evAfl p.port 15 (takeRx p.port op p.src p.tag s)
    let home := if op = 0x49 && p.fwd then p.home else p.src
    if p.dst ≠ nodeId s then pktInvalid p.port op p.src p.tag 4 s
    else match s.quay.devReqs.find? (fun d => d.dst = home && d.tag = p.tag && d.status.isNone) with
    | none => lateOrInvalid p.port op p.src p.tag s
    | some d =>
      if d.held.isSome then lateOrInvalid p.port op p.src p.tag s
      else
        let st : BitVec 4 := if op = 0x5E then (if 5 ≤ p.status.toNat then 2 else p.status) else 0
        sendCmpAck d (if p.spec && op ≠ 0x5E then holdSpec op p.data d s else finishReq op st p.data d s)

/-- DATA_E (R179): the line is installed in E; the store that waits for it is laid down there. -/
def execDataE (p : Rsp) (s : State) : Out := .next (devResponse 0x48 p s)
/-- DATA_S (R179): the line is installed in S. -/
def execDataS (p : Rsp) (s : State) : Out := .next (devResponse 0x49 p s)
/-- DATA_F (R165): the line is installed in F. -/
def execDataF (p : Rsp) (s : State) : Out := .next (devResponse 0x4A p s)
/-- DATA_I (R176): data without a copy. -/
def execDataI (p : Rsp) (s : State) : Out := .next (devResponse 0x4B p s)
/-- CMP_E (R176): the UPGRADE is granted. -/
def execCmpE (p : Rsp) (s : State) : Out := .next (devResponse 0x4C p s)
/-- CMP (R182): an uncached write is complete. -/
def execCmp (p : Rsp) (s : State) : Out := .next (devResponse 0x4D p s)
/-- ATM_DATA (R183): an atomic is complete; its old value is kept. -/
def execAtmData (p : Rsp) (s : State) : Out := .next (devResponse 0x4E p s)

/-- WB_ACK (R180): the writeback buffer entry of the notice is freed. -/
def execWbAck (p : Rsp) (s : State) : Out :=
  if s.aon.mode = .stall || s.aon.mode = .watch then .next s
  else
    let s := evAfl p.port 15 (takeRx p.port 0x4F p.src p.tag s)
    if p.dst ≠ nodeId s then .next (pktInvalid p.port 0x4F p.src p.tag 4 s)
    else match s.quay.devReqs.find? (fun d => d.dst = p.src && d.tag = p.tag && d.status.isNone && (d.op = 0x40 || d.op = 0x41)) with
    | none => .next (lateOrInvalid p.port 0x4F p.src p.tag s)
    | some d =>
      let s := { s with quay.devReqs := s.quay.devReqs.filter (fun x => !(x.dst = d.dst && x.tag = d.tag)) }
      .next (setRemote d.dst d.line {} s)

/-- ERR_CMP (R308, R310, R177): an error for a request grants no copy; an error for a snoop is a synthetic error. -/
def execErrCmp (p : Rsp) (s : State) : Out :=
  if s.aon.mode ≠ .stall && s.aon.mode ≠ .watch && p.dst = nodeId s &&
      s.quay.txns.any (fun t => t.snoops.any (fun o => o.node = p.src && o.tag = p.tag)) then
    .next (homeSnoopRsp 0 p (takeRx p.port 0x5E p.src p.tag s))
  else .next (devResponse 0x5E p s)

/-- LATE_ALARM (R178, R309): the earlier speculative response counts as ERR_DATA and its copy is dropped. -/
def execLateAlarm (p : Rsp) (s : State) : Out :=
  if s.aon.mode = .stall || s.aon.mode = .watch then .next s
  else
    let s := evAfl p.port 15 (takeRx p.port 0x5F p.src p.tag s)
    if p.dst ≠ nodeId s then .next (pktInvalid p.port 0x5F p.src p.tag 4 s)
    else match s.quay.devReqs.find? (fun d => d.dst = p.src && d.tag = p.tag && (d.status = some 0 || d.held.isSome)) with
    | none => .next (lateOrInvalid p.port 0x5F p.src p.tag s)
    | some d =>
      let s := { s with quay.devReqs := s.quay.devReqs.map (fun x =>
        if x.dst = d.dst && x.tag = d.tag && (x.status = some 0 || x.held.isSome) then { x with status := some 1, held := none, spec := 0 } else x) }
      .next (if d.held.isSome then s else setRemote d.dst d.line {} s)

end Sys2Proof.Machine
end

