-- ==== Sys2Proof/Machine/DramRead.lean ====
section
/-! DEFINITION. Line reads that return: from berths (R114 to R119, R149, R154), from reserved frames (Table 5.7), from
Warm bales (R82, R86), and the verdicts and key contexts of the sealing units (R98, R117). -/

namespace Sys2Proof.Machine

open Sys2Proof

/-! ## Lines of reserved frames (Table 5.7, R94, R121) -/

/-- The mirror copy of a region's line can be read (R108, R154). -/
def mirrorGood (s : State) (code idx : Nat) : Bool :=
  match regionLine s code idx with
  | some a => !lineOffline s a
  | none => false

/-- The frames that a lost frame map line covers are retired and their pages poisoned (Table 5.7). -/
def frameLineLost (idx : Nat) (s : State) : State :=
  let fs := (List.range 8).map (fun i => idx * 8 + i)
  let pages := (s.quay.desc.filter (fun e =>
    let d := dView e.2
    match dState d with
    | .hot | .retired => fs.contains (dDfa d)
    | .warm => fs.contains (dGranule d / 64)
    | .poisoned | .orphaned => dBerth d && fs.contains (dPDfa d)
    | _ => false)).map Prod.fst
  let s := pages.foldl (fun t p => poisonPage p t) s
  fs.foldl (fun t f => if (regionOf t f).isSome then t else markRetired f t) s

/-- The pages whose descriptors stand in the frames that a lost valid-map line covers are poisoned (Table 5.7). Those frames are reserved
and belong to no pool, so none is retired (DESIGN CHOICE, log entry 100). -/
def validLineLost (idx : Nat) (s : State) : State :=
  ((s.quay.desc.filter (fun e => e.1 / 256 / 512 = idx)).map Prod.fst).foldl (fun t p => poisonPage p t) s

/-- The content of a line of a reserved frame that the device keeps under the plain code (R147), as the structure in it stands:
descriptors, valid-map bits, frame map entries, map mirror entries, extended log entries, directory sets. -/
def reservedLine (s : State) (code idx : Nat) : BitVec 512 :=
  let four (f : Nat → BitVec 128) : BitVec 512 := (List.range 4).foldl (fun x i => x ||| place 512 (128 * i) (f (idx * 4 + i))) 0
  match code with
  | 0x01 => four (descRaw s)
  | 0x02 | 0x03 => (List.range 512).foldl (fun x i => if sget false s.dram.descValid (idx * 512 + i) then x ||| (1 : BitVec 512) <<< i else x) 0
  | 0x04 | 0x05 => (List.range 8).foldl (fun x i => x ||| place 512 (64 * i) (frameEntry s (idx * 8 + i))) 0
  | 0x11 => four (fun p => sget 0 s.led.mirror p)
  | 0x14 => sget 0 s.mgt.xlog idx
  | _ => if 0x20 ≤ code then sget 0 s.quay.dir ((code - 0x20) * 2 ^ dirM s + idx) else 0

/-- A line of a reserved frame that is kept under the plain code is written as stored (R126): the structure in it takes the content. The
second copy of the valid map and of the frame map follows the first (log entry 108). -/
def putReserved (code idx : Nat) (x : BitVec 512) (s : State) : State :=
  match code with
  | 0x02 => { s with dram.descValid := (List.range 512).foldl (fun m i => sset false m (idx * 512 + i) (x.getLsbD i)) s.dram.descValid }
  | 0x04 => { s with dram.frameMap := (List.range 8).foldl (fun m i => sset 0 m (idx * 8 + i) (x.extractLsb' (64 * i) 64)) s.dram.frameMap }
  | 0x11 => { s with led.mirror := (List.range 4).foldl (fun m i => sset 0 m (idx * 4 + i) (x.extractLsb' (128 * i) 128)) s.led.mirror }
  | 0x14 => { s with mgt.xlog := sset 0 s.mgt.xlog idx x }
  | _ => if 0x20 ≤ code then { s with quay.dir := sset 0 s.quay.dir ((code - 0x20) * 2 ^ dirM s + idx) x } else s

/-- A line as stored, data and check bits: the plain code over the structure that the device keeps in it, where it keeps one (R68, R126,
R147). -/
def lineStored (s : State) (addr : Nat) : BitVec 640 :=
  match regionOf s (addr / 64) with
  | some r => if (treeOf r.1 (addr - r.2.1 * 64)).isSome then dramContent s addr else plainStore (reservedLine s r.1 (addr - r.2.1 * 64)) false
  | none =>
    if addr % 64 = 63 && fUse (frameEntry s (addr / 64)) = 2 then plainStore (sget 0 s.dram.runIdx (addr / 64)) false else dramContent s addr

/-- A line is written as stored: a structure in it takes what the plain code finds there (R68, R126, R147). -/
def putStored (addr : Nat) (st : BitVec 640) (s : State) : State :=
  let s := dramWrite addr st s
  match plainCheckLine st (markOf s addr), regionOf s (addr / 64) with
  | .valid t _, some r => if (treeOf r.1 (addr - r.2.1 * 64)).isSome then s else putReserved r.1 (addr - r.2.1 * 64) (devLine (devs t)) s
  | .valid t _, none =>
    if addr % 64 = 63 && fUse (frameEntry s (addr / 64)) = 2 then
      { s with dram.runIdx := sset 0 s.dram.runIdx (addr / 64) (devLine (devs t)) } else s
  | _, _ => s

/-- The outcome of an uncorrectable node of a tree: the other copy serves and the failed one is rewritten from it, else what lies
beneath is lost (R94, R108, R121, Table 4.7). -/
def nodeFailed (code : Nat) (n : Bool × Nat × Nat × Nat) (addr : Nat) (s : State) : State :=
  let (kt, level, idx, copy) := n
  let other := (nodeCtr s kt level idx).bind (fun ctr => (nodeLine s kt level idx (1 - copy)).bind (fun a =>
    if kt then none else (nodeValue (nodeCheck s kt level idx ctr a 0)).map (fun x => (ctr, x))))
  match other with
  | some (ctr, x) => dramWrite addr (tagStore (nodeSeal s kt level idx ctr) x false) (logReserved 0 code addr s)
  | none =>
    let s := logReserved (if !kt && 1 ≤ level then 3 else 2) code addr s
    if kt then keyLineLost level idx s else nodeLost level idx s

/-- The outcome of an uncorrectable line of a region (Table 5.7). -/
def structLost (code idx addr : Nat) (s : State) : State :=
  match treeOf code idx with
  | some n => nodeFailed code n addr s
  | none =>
  match code with
  | 0x01 =>
    let pages := (List.range 4).map (fun i => idx * 4 + i)
    pages.foldl (fun t p => descFix p { t with quay.desc := sset 0 t.quay.desc p (setField (descRaw t p) 0 (7 : BitVec 3)) })
      (logReserved 2 code addr s)
  | 0x02 | 0x04 =>
    if mirrorGood s (code + 1) idx then logReserved 0 code addr s
    else if code = 0x04 then frameLineLost idx (logReserved 3 code addr s) else validLineLost idx (logReserved 3 code addr s)
  | 0x03 | 0x05 =>
    if mirrorGood s (code - 1) idx then logReserved 0 code addr s
    else if code = 0x05 then frameLineLost idx (logReserved 3 code addr s) else validLineLost idx (logReserved 3 code addr s)
  | 0x14 =>
    logReserved 2 code addr
      { s with mgt.xlog := sset 0 s.mgt.xlog idx 0, log.extLost := if s.log.extLost = 0xFFFF then 0xFFFF else s.log.extLost + 1 }
  | 0x15 => s
  | _ =>
    if 0x20 ≤ code then
      let y : BitVec 512 := (List.range 4).foldl (fun acc i => setField acc (128 * i) mkAny) 0
      logReserved 2 code addr (dirPut ((code - 0x20) * 2 ^ dirM s + idx) y s)
    else logReserved 2 code addr s

/-- The check of a line of a reserved frame that the DRAM returned with the bits `err` wrong: a tree node under R114, and none when its
counter reads (0, 0) and the device does not read it (R109); every other line under the plain code (R147, R149). -/
def structCheck (s : State) (code first addr : Nat) (err : BitVec 640) : Option Check :=
  match treeOf code (addr - first * 64) with
  | some (kt, level, idx, _) => match nodeCtr s kt level idx with
    | none => none
    | some ctr => if ctr = (0, 0) then none else some (nodeCheck s kt level idx ctr addr err)
  | none =>
    if lineOffline s addr then some .fail
    else some (plainCheckLine (plainStore (reservedLine s code (addr - first * 64)) false ^^^ err) (markOf s addr))

/-- A line of a reserved frame returns: a corrected one is rewritten and logged (R114, R149); one that fails is read once more, and what
stays uncorrectable follows Table 5.7 (R154). -/
def structRead (code first addr : Nat) (err : BitVec 640) (again : Bool) (s : State) : State :=
  match structCheck s code first addr err with
  | none => s
  | some (.valid t d) =>
    let s := if again then noteTransient (reservedRec addr) addr s else s
    (match d with
     | some d => correctedAs (reservedRec addr) addr t d false s
     | none => s)
  | some _ =>
    if again then structLost code (addr - first * 64) addr (countUncorrectable addr s)
    else { s with dram.reads := s.dram.reads ++ [{ addr := addr, line := 0, again := true }] }

/-! ## Lines of berths -/

/-- Remove one outstanding read. -/
def dropRead (addr : Nat) (again : Bool) (s : State) : State :=
  match s.dram.reads.findIdx? (fun r => r.addr = addr && r.again = again) with
  | some i => { s with dram.reads := s.dram.reads.eraseIdx i }
  | none => s

/-- A read that returns has left its channel's queue. -/
def dropQueued (addr : Nat) (s : State) : State :=
  match coord s addr with
  | some c => modChan c.ch (fun ch => match ch.readQ.findIdx? (fun q => q.addr = addr) with
    | some i => refillReads { ch with readQ := ch.readQ.eraseIdx i }
    | none => match ch.readWait.findIdx? (fun q => q.addr = addr) with
      | some i => { ch with readWait := ch.readWait.eraseIdx i }
      | none => ch) s
  | none => s

/-- The transaction that waits for data of a line. -/
def waitingTxn (s : State) (line : Nat) : Option Txn := s.quay.txns.find? (fun t => t.line = line && t.phase = .data)

/-- Speculative forwarding applies: a sealed line for an AFL requester whose port has LATE_ALARM, VERIFY_FIRST = 0, a read,
and the parity of the ten devices matches (R116, R119, R260). -/
def specOk (s : State) (page : Nat) (t : Txn) (st : BitVec 640) : Bool :=
  dSealed (descOf s page) && !isOwn s t.req && (portOf s t.req.port).features.getLsbD 0 &&
  !(match sealRange s page with | some k => k.2 | none => false) &&
  1 ≤ t.req.op.toNat && t.req.op.toNat ≤ 4 && (devs st).foldl (· ^^^ ·) 0 = 0

/-- Forward a line before its tag test, and remember its verdict (R116, R117). -/
def forwardSpec (t : Txn) (x : BitVec 512) (good : Bool) (s : State) : State :=
  deliver t x false true { s with quay.specs := s.quay.specs ++
    [{ node := t.req.src, tag := t.req.tag, line := t.line, port := BitVec.ofNat 2 t.req.port, good := good, cls := t.req.cls }] }

/-- The line is read once more (R118, R154) for a transaction; `who` is the requester that the log names. -/
def rereadLine (addr line : Nat) (t : Option Txn) (who : Node × Tag) (s : State) : State :=
  let s := dramRead addr line (match t with | some t => t.req.hint | none => 0) (t.bind Txn.due) (match t with | some t => t.req.cls | none => deviceClass s) s
  { s with dram.reads := match s.dram.reads.findIdx? (fun r => r.addr = addr && !r.again && r.line = line) with
    | some i => s.dram.reads.modify i (fun r => { r with again := true, node := who.1, tag := who.2 })
    | none => s.dram.reads }

/-- A berth line returns (R114, R116, R119, R149, R154); `newer`: a write of the line has entered since the read (R138). -/
def berthRead (addr line : Nat) (err : BitVec 640) (newer : Bool) (s : State) : State :=
  let l : Line := BitVec.ofNat 39 line
  let page := pageOf l
  let i := line % 64
  let d := descOf s page
  let t := waitingTxn s line
  if lineAddr d i ≠ some addr then
    match t with
    | some t => obtain t s
    | none => s
  else if keyGone s page then
    match t with
    | some t => failTxn t (logKeyGone page s)
    | none => s
  else
    let st := dramContent s addr ^^^ err
    let k := readCheck s (dSealed d) (dKey d) (berthPos (ctrOf s page) page i) addr st
    let s := noteCheck addr line k.1 newer (useCtx addr (dSealed d) (dKey d) s)
    match t with
    | none => (match k.2 with | some _ => s | none => rereadLine addr line none (0, 0) s)
    | some t =>
      let spec := specOk s page t st
      let raw := rawLine s (dSealed d) (dKey d) (berthPos (ctrOf s page) page i) st
      match k.2 with
      | some (x, false) =>
        if spec then forwardSpec t x true s else deliver t x false false (fillLine l x t.req.cls s)
      | some (x, true) => if spec then forwardSpec t x false s else failTxn t s
      | none =>
        let who := (t.req.src, t.req.tag)
        if spec then rereadLine addr line none who (forwardSpec t raw false s) else rereadLine addr line (some t) who s

/-- DRAM_READ_COMPLETE (R114): the line is checked under its code. `err` holds the bits that the DRAM returned wrong. -/
def execDramReadComplete (addr : LineAddr) (err : BitVec 640) (s : State) : Out :=
  match regionOf s (addr.toNat / 64) with
  | some r => .next (settle (structRead r.1 r.2.1 addr.toNat err false s))
  | none => match s.dram.reads.find? (fun r => r.addr = addr.toNat && !r.again) with
    | none => .next s
    | some r => .next (settle (berthRead addr.toNat r.line err r.newer (dropQueued addr.toNat (dropRead addr.toNat false s))))

/-- The re-read of a berth line returns (R118, R154, Table 5.7). -/
def berthReread (addr line : Nat) (err : BitVec 640) (who : Node × Tag) (newer : Bool) (s : State) : State :=
  let l : Line := BitVec.ofNat 39 line
  let page := pageOf l
  let i := line % 64
  let d := descOf s page
  let t := waitingTxn s line
  if lineAddr d i ≠ some addr then
    match t with
    | some t => obtain t s
    | none => s
  else
    let st := dramContent s addr ^^^ err
    let k := readCheck s (dSealed d) (dKey d) (berthPos (ctrOf s page) page i) addr st
    let s := noteCheck addr line k.1 newer (useCtx addr (dSealed d) (dKey d) s)
    match k.2 with
    | some (x, p) =>
      let s := noteTransient { cause := 0x11, kind := 1, addr := line * 64 } addr s
      (match t with
       | some t => if p then failTxn t s else deliver t x false false (fillLine l x t.req.cls s)
       | none => s)
    | none =>
      let s := lineUncorrectable page i addr st (some who) s
      (match t with
       | some t => if dState (descOf s page) = .cold then obtain t s else failTxn t s
       | none => s)

/-- LINE_REREAD_COMPLETE (R154): the line is left as stored, or written poisoned; the second read of a merge completes it (R120). -/
def execLineRereadComplete (addr : LineAddr) (err : BitVec 640) (s : State) : Out :=
  match s.dram.reads.find? (fun r => r.addr = addr.toNat && r.again) with
  | none => .next s
  | some r =>
    let s := dropQueued addr.toNat (dropRead addr.toNat true s)
    match regionOf s (addr.toNat / 64) with
    | some g => .next (settle (structRead g.1 g.2.1 addr.toNat err true s))
    | none =>
      if r.merge then .next (settle (mergeNow (BitVec.ofNat 39 r.line) err true s))
      else .next (settle (berthReread addr.toNat r.line err (r.node, r.tag) r.newer s))

/-! ## Verdicts (R117) -/

/-- TAG_TEST_COMPLETE (R117): on Valid the line fills the Quay cache and a marker leaves; otherwise the alarm leaves, and
the home removes the node from the line's entry (R116, R178). -/
def execTagTestComplete (node : Node) (tag : Tag) (s : State) : Out :=
  match s.quay.specs.find? (fun x => x.node = node && x.tag = tag && !x.done) with
  | none => .next s
  | some x =>
    let s := { s with quay.specs := s.quay.specs.map (fun y =>
      if y.node = node && y.tag = tag && !y.done then { y with done := true } else y) }
    let l : Line := BitVec.ofNat 39 x.line
    if x.good then
      match berthLine s (pageOf l) (x.line % 64) with
      | some (v, false) => .next (if (qline s l).isNone then fillLine l v x.cls s else s)
      | _ => .next s
    else
      let e := dirEntry s l
      let ps := (ePtrs e).filter (· ≠ node)
      let f := match eFholder e with | some h => if h = node then none else some h | none => none
      match entryKind e with
      | .owned => .next (if ePtr e 0 = node then setDir l 0 s else s)
      | .shared => .next (setDir l (if ps.isEmpty then 0 else mkShared l ps f) s)
      | _ => .next s

/-- VERDICT_ARRIVAL (R117): the port sends the alarm ahead of its queue, or lets the flits behind go; it sends nothing on
a marker. -/
def execVerdictArrival (port : Nat) (node : Node) (tag : Tag) (s : State) : Out :=
  match s.quay.specs.find? (fun x => x.node = node && x.tag = tag && x.done && x.port.toNat = port) with
  | none => .next s
  | some x =>
    let s := { s with quay.specs := s.quay.specs.filter (fun y => !(y.node = node && y.tag = tag && y.done)) }
    if x.good then .next s
    else
      let k : Pkt := { hdr := rspHdr 0x5F node (nodeId s) tag 1 {} }
      .next (evAfl port 13 (modPort port (fun q =>
        let i := match q.egress.findIdx? (fun p => pktDst p = node && pktTag p = tag && p.hdr.getLsbD 61) with
          | some i => i + 1
          | none => 0
        { q with egress := q.egress.take i ++ k :: q.egress.drop i }) s))

/-! ## Key contexts and Warm lines -/

/-- A context has accesses in flight: a transaction waits for data of a page under its key (R98). -/
def ctxBusy (s : State) (c : Option KeyCtx) : Bool :=
  match c with
  | none => false
  | some c => s.quay.txns.any (fun t => t.phase = .data && (let d := descOf s (pageOf (txnLine t)); dSealed d && dKey d = c.keyId))

/-- Place an expanded context in the key partition: over the key's own, in a free way of its set, or at the set's rotating
pointer, which skips contexts with accesses in flight (R98). The lowest free way is taken before the pointer turns, and with accesses
in flight on all 16 the way at the pointer is replaced (DESIGN CHOICE, log entry 101). -/
def placeCtx (c : KeyCtx) (s : State) : State :=
  let set := c.keyId.toNat % 256
  let way (i : Nat) : Nat := set * 16 + i
  let put (i : Nat) (s : State) : State := { s with quay.keyCtx := sset none s.quay.keyCtx (way i) (some c) }
  match (List.range 16).find? (fun i => (sget none s.quay.keyCtx (way i)).map KeyCtx.keyId = some c.keyId) with
  | some i => put i s
  | none => match (List.range 16).find? (fun i => (sget none s.quay.keyCtx (way i)).isNone) with
    | some i => put i s
    | none =>
      let p0 := sget 0 s.quay.keyPtr set
      let p := (((List.range 16).map (fun i => (p0 + i) % 16)).find? (fun i => !ctxBusy s (sget none s.quay.keyCtx (way i)))).getD (p0 % 16)
      put p { s with quay.keyPtr := sset 0 s.quay.keyPtr set ((p + 1) % 16) }

/-- KEY_CONTEXT_FILL (R98): the entry is read, unwrapped and derived into the key partition. An Active entry that does not
unwrap is logged KEY_ENTRY_FAIL (R94). -/
def execKeyContextFill (keyId : BitVec 20) (s : State) : Out :=
  if kState (keyEntry s keyId) ≠ 1 then .next s
  else match keyCtxOf s keyId with
  | none => .next (logIt { cause := 0x02, key := keyId } s)
  | some k => .next (placeCtx { keyId := keyId, kwork := k.1, h := k.2, st := 1 } s)

/-- R86: a decode of a run ends; a replaced run whose decodes have ended is freed. -/
def endDecode (g : Nat) (s : State) : State :=
  let s := { s with tier.decodes := smod 0 s.tier.decodes g (· - 1) }
  if sget 0 s.tier.decodes g ≠ 0 then s
  else
    let old := s.tier.oldRuns.filter (fun r => r.1 = g)
    let s := { s with tier.oldRuns := s.tier.oldRuns.filter (fun r => r.1 ≠ g) }
    old.foldl (fun t r => freeRun r.1 r.2.toNat t) s

/-- The reads of a decode: the header granule has left its queue, and the body granules that the line needs are read (R82). -/
def decodeReads (page i g : Nat) (cls : BitVec 8) (s : State) : State :=
  let d := descOf s page
  match neededGranules s page i with
  | [] => s
  | h :: body =>
    readGranules cls page body (noteCheck (g + h) (page * 64) (granuleCheck s page d h) false
      (useCtx (g + h) (dSealed d) (dKey d) (dropQueued (g + h) s)))

/-- A granule that a decode needs came back uncorrectable: it is read once more, and at the second time the bale has failed (R55, R154). -/
def badGranule (t : Txn) (page addr : Nat) (s : State) : State :=
  if t.again then
    baleFail page (granuleLost page addr (tileLine t.tile 1 false false (endDecode (t.run.getD 0) (putTxn { t with run := none, again := false } s))))
  else putTxn { t with again := true } s

/-- WARM_LINE_DECODE (R82): the decoded line goes to its requester; a line held as poisoned gives ERR_DATA; a bale that fails follows
R55. A decode whose run has been replaced completes from the old granules (R86). `bad` names a granule of the run that the DRAM returned
uncorrectable; one that this line does not need is not read. -/
def execWarmLineDecode (line : Line) (bad : Option Nat) (s : State) : Out :=
  match s.quay.txns.find? (fun t => t.line = line.toNat && t.run.isSome) with
  | none => .next s
  | some t =>
    let g := t.run.getD 0
    let page := pageOf line
    let i := line.toNat % 64
    let d := descOf s page
    let here : Bool := dState d = .warm && dGranule d = g
    let x := if here then warmLine s page i else t.early
    let lost := if here then bad.filter (fun k => (neededGranules s page i).contains k) else none
    let done := { t with run := none, again := false }
    match lost with
    | some k => .next (settle (badGranule t page (g + k) s))
    | none =>
      let s := if here then decodeReads page i g t.req.cls s else s
      let s := if t.again then noteTransient { cause := 0x11, kind := 2, addr := g, args := wide page } g s else s
      let s := endDecode g (putTxn done s)
      if keyGone s page then .next (settle (failTxn done (logKeyGone page s)))
      else
        let s := tileLine t.tile (neededGranules s page i).length (x.any Prod.snd) x.isSome s
        match x with
        | some (v, p) => .next (settle (deliver done v p false s))
        | none => .next (settle (if here then runFail page s else failTxn done s))

end Sys2Proof.Machine
end

