-- ==== Sys2Proof/Machine/Ledger.lean ====
section
/-! DEFINITION. The ledger: its layout, segments and images (R197 to R210), snapshots of pages (R33, R34), the logbook
(R206), the map and its mirror (R202), and the failure of SSDs (R214). -/

namespace Sys2Proof.Machine

open Sys2Proof

/-! ## Layout (Table 7.4) -/

/-- A ledger block address (Table 1.2): the SSD index in [47:43], the LBA in [42:0]. -/
def ledBlock (ssd block : Nat) : Nat := ssd * 2 ^ 43 + block
/-- The SSD of a ledger block address. -/
def ledSsd (a : Nat) : Nat := a / 2 ^ 43

/-- NVMe events of a ledger SSD's root port (Table 16.6). -/
def peEv (s : State) (ssd e n : Nat) (t : State) : State := evAdd (0x980 + 16 * peOf s ssd + e) n t

/-- LEDGER_CLASS and RESTORE_CLASS (R236). -/
def ledgerClass (s : State) : BitVec 8 := BitVec.ofNat 8 (designated s 4)
def restoreClass (s : State) : BitVec 8 := BitVec.ofNat 8 (designated s 3)

/-- NVMe Writes of `n` blocks to an SSD: 32 blocks, the least MDTS of Table 7.9, to a command (R207, log entry 35). -/
def nvmeWrite (ssd n : Nat) (cls : BitVec 8) (s : State) : State :=
  countXfer ssd cls (4096 * n) (peEv s ssd 1 (ceilDiv n 32) (peEv s ssd 5 n s))

/-- A key table entry as it stands on flash: with its CRC (R200). -/
def keyOnFlash (e : BitVec 512) : BitVec 512 := setField e 432 (crc64 (bytesOf e 54))

/-- The SSDs of the primary and the second copy of a block of the key region (R200). -/
def keySsd (s : State) (block copy : Nat) : Nat := (block + copy) % ledgerN s

/-- One copy of a block of 64 entries of the key region is written from the table (R200): a copy on an SSD that cannot be written stays. -/
def writeKeyCopy (block copy : Nat) (s : State) : State :=
  if !ssdUp s (keySsd s block copy) then s
  else
    let put (f : SMap (BitVec 512)) : SMap (BitVec 512) := ((List.range 64).map (· + 64 * block)).foldl (fun f i =>
      let e := keyEntry s (BitVec.ofNat 20 i)
      sset 0 f i (if e = 0 then 0 else keyOnFlash e)) f
    nvmeWrite (keySsd s block copy) 1 (ledgerClass s)
      (if copy = 0 then { s with led.keyFlash := put s.led.keyFlash } else { s with led.keyFlash2 := put s.led.keyFlash2 })

/-- KEY_LOAD and KEY_RETIRE write both copies of the entry's block of 64 entries (R200). -/
def flushKeyBlock (k : BitVec 20) (s : State) : State := writeKeyCopy (k.toNat / 64) 1 (writeKeyCopy (k.toNat / 64) 0 s)

/-! ## Segment summaries (Table 7.7) -/

def sumPage (e : BitVec 128) : Nat := fieldNat e 32 0
def sumZero (e : BitVec 128) : Bool := e.getLsbD 33
def sumSealed (e : BitVec 128) : Bool := e.getLsbD 34
def sumKey (e : BitVec 128) : BitVec 20 := e.extractLsb' 35 20
def sumSizes (e : BitVec 128) : List Nat := (List.range 4).map (fun b => fieldNat e (59 + 5 * b) (55 + 5 * b))
def sumOff (e : BitVec 128) : Nat := fieldNat e 88 75
def sumPin (e : BitVec 128) : Bool := e.getLsbD 89
/-- A summary entry. -/
def mkSum (page : Nat) (zero isSealed : Bool) (key : BitVec 20) (sizes : List Nat) (off : Nat) (pin : Bool) : BitVec 128 :=
  place 128 0 (BitVec.ofNat 33 page) ||| place 128 33 (bit1 zero) ||| place 128 34 (bit1 isSealed) |||
  (if isSealed then place 128 35 key else 0) |||
  place 128 55 (BitVec.ofNat 5 (sizes.getD 0 0)) ||| place 128 60 (BitVec.ofNat 5 (sizes.getD 1 0)) |||
  place 128 65 (BitVec.ofNat 5 (sizes.getD 2 0)) ||| place 128 70 (BitVec.ofNat 5 (sizes.getD 3 0)) |||
  place 128 75 (BitVec.ofNat 14 off) ||| place 128 89 (bit1 pin)
/-- Granules of an image: G of the bales and the tag granules (R204). -/
def imageLen (sizes : List Nat) : Nat := let g := sizes.foldl (· + ·) 0; g + ceilDiv g 8
/-- Data granules that a segment uses. -/
def segUsed (g : Segment) : Nat :=
  (g.entries.map (fun e => if sumZero e then 0 else sumOff e + imageLen (sumSizes e))).foldl max 0
/-- The summary of a segment as bytes (Table 7.6). -/
def summaryBytes (s : State) (seq : Nat) (g : Segment) : List Byte :=
  let id : BitVec 64 := match s.led.manifest with | some m => m.ledgerId.extractLsb' 0 64 | none => 0
  let h : BitVec 512 := place 512 0 (0x4D555347 : BitVec 32) ||| place 512 64 (BitVec.ofNat 64 seq) |||
    place 512 128 (BitVec.ofNat 12 g.entries.length) ||| place 512 192 id
  bytesOf h 64 ++ g.entries.flatMap (fun e => bytesOf e 16)

/-! ## The logbook (R206, Table 7.8) -/

/-- A record with its RSEQ and CRC. -/
def mkRecord (ty : BitVec 8) (body : BitVec 512) (rseq : BitVec 64) : BitVec 512 :=
  let r := ty.setWidth 512 ||| body ||| place 512 384 rseq
  r ||| place 512 448 (crc64 (bytesOf r 56))
def recType (r : BitVec 512) : Nat := fieldNat r 7 0
def recSeq (r : BitVec 512) : Nat := fieldNat r 71 8
/-- RSEQ of a record. -/
def recRseq (r : BitVec 512) : Nat := fieldNat r 447 384

/-- The lowest SEQ whose map blocks are not all written back, or that has not committed. -/
def openSeqs (s : State) : List Nat :=
  s.led.mapDirty.map Prod.snd ++ s.led.segs.filterMap (fun e => match e.2 with
    | some g => if g.committed then none else some e.1
    | none => none)
/-- MAP_HORIZON (R207). -/
def mapHorizon (s : State) : Nat :=
  max s.led.horizon.toNat ((match (openSeqs s).min? with | some m => m | none => s.led.nextSeq.toNat) - 1)
/-- The SSD that holds a map block (R202). -/
def mapSsd (s : State) (block : Nat) : Nat := block % ledgerN s
/-- A changed map block can be written back: its SSD can be written, and its frame is restored, so that the mirror holds all of it
(R202, R227). -/
def mapWritable (s : State) (block : Nat) : Bool :=
  sget 0 s.led.mapDirty block ≠ 0 && ssdUp s (mapSsd s block) && (!s.led.pending || sget false s.led.restored block)
/-- A map block is rewritten in place from the mirror, and MAP_HORIZON follows (R202, R207). -/
def putMapBlock (block : Nat) (s : State) : State :=
  let ps := (List.range 256).map (· + 256 * block)
  let s := { s with led.flashMap := ps.foldl (fun f p => sset 0 f p (sget 0 s.led.mirror p)) s.led.flashMap,
                    led.mapDirty := sset 0 s.led.mapDirty block 0 }
  nvmeWrite (mapSsd s block) 1 (ledgerClass s) { s with led.horizon := BitVec.ofNat 64 (mapHorizon s) }

/-- A record is superseded (R206): a SEG_COMMIT by MAP_HORIZON, a REKEY record by a later one of its engine, a DIRTY_LIST record by one
of a later list, any other by a later one of its type (log entry 106). -/
def superseded (s : State) (r : BitVec 512) : Bool :=
  if recType r = 1 then recSeq r ≤ s.led.horizon.toNat
  else s.led.logbook.any (fun x => recType x.2 = recType r && recRseq r < recRseq x.2 &&
    (recType r ≠ 5 || fieldNat x.2 11 8 = fieldNat r 11 8) && (recType r ≠ 3 || recSeq x.2 ≠ recSeq r))

/-- Room for a record in an SSD's ring of LOG_BLOCKS blocks (R206): its oldest block is reused, with its live records copied forward; a
block whose records are all live first forces map writeback. -/
def ringRoom (ssd : Nat) (s : State) : State :=
  let mine := s.led.logbook.filter (fun x => x.1 = ssd)
  if mine.length < 64 * logBlocks s then s
  else
    let old := mine.take 64
    let s := if old.all (fun x => !superseded s x.2) then
        (s.led.mapDirty.map Prod.fst).foldl (fun t b => if mapWritable t b then putMapBlock b t else t) s
      else s
    { s with led.logbook := s.led.logbook.filter (fun x => !old.contains x) ++ old.filter (fun x => !superseded s x.2) }

/-- Add a record to the logbook of an SSD. -/
def addRecord (ssd : Nat) (ty : BitVec 8) (body : BitVec 512) (s : State) : State :=
  let s := ringRoom ssd s
  { s with led.logbook := s.led.logbook ++ [(ssd, mkRecord ty body s.led.rseq)], led.rseq := s.led.rseq + 1 }
/-- The SSD with the lowest index that is ready. -/
def firstReady (s : State) : Option Nat := ((liveSsds s).filter (ssdUp s)).min?
/-- A record of the types that go to the lowest-indexed SSD that is ready; with none ready it cannot be written. -/
def addRec (ty : BitVec 8) (body : BitVec 512) (s : State) : State :=
  match firstReady s with
  | some i => addRecord i ty body s
  | none => s
/-- SEG_COMMIT. -/
def commitBody (s : State) (seq : Nat) (g : Segment) : BitVec 512 :=
  place 512 8 (BitVec.ofNat 64 seq) ||| place 512 72 g.ssd ||| place 512 77 (BitVec.ofNat 40 g.start) |||
  place 512 117 (BitVec.ofNat 12 g.entries.length) ||| place 512 129 (BitVec.ofNat 8 (ceilDiv (segUsed g) 64)) |||
  place 512 137 (crc64 (summaryBytes s seq g))
/-- The SEG_COMMIT of a segment stands in a logbook that can be read, and its SUM_CRC matches the summary (R207, R212). -/
def segRecorded (s : State) (seq : Nat) (g : Segment) : Bool :=
  s.led.logbook.any (fun r => recType r.2 = 1 && recSeq r.2 = seq && ssdUp s r.1) && ssdUp s g.ssd.toNat &&
  s.led.logbook.any (fun r => recType r.2 = 1 && recSeq r.2 = seq && r.2.extractLsb' 137 64 = crc64 (summaryBytes s seq g))
/-- The SEG_COMMIT of a segment has been written. -/
def recorded (s : State) (seq : Nat) : Bool := s.led.logbook.any (fun r => recType r.2 = 1 && recSeq r.2 = seq)
/-- REKEY. -/
def rekeyBody (n : Nat) (e : Rekey) (done : Bool) : BitVec 512 :=
  place 512 8 (BitVec.ofNat 4 n) ||| place 512 12 (BitVec.ofNat 33 e.first) ||| place 512 45 (BitVec.ofNat 33 e.last) |||
  place 512 78 e.old ||| place 512 98 e.new ||| place 512 118 (BitVec.ofNat 33 e.tide) ||| place 512 151 (bit1 done)
/-- OPEN: the next SEQ. -/
def openBody (s : State) : BitVec 512 := place 512 8 s.led.nextSeq
/-- HOLD_DONE. -/
def holdDoneBody (listSeq : BitVec 64) (allDone drain released : Bool) : BitVec 512 :=
  place 512 8 listSeq ||| place 512 72 (bit1 allDone) ||| place 512 73 (bit1 drain) ||| place 512 74 (bit1 released)

/-! ## Images (R204, R205) -/

/-- The ledger working keys of a key ID. -/
def ledgerKeys (s : State) (key : BitVec 20) : Option (BitVec 256 × BitVec 64) :=
  match s.led.manifest, s.sec.kwk with
  | some m, some kwk =>
    if kState (keyEntry s key) = 1 then
      (kwUnwrap kwk (kWrapped (keyEntry s key))).map (fun k => (workKey k m.nonce, hashKey k m.nonce))
    else none
  | _, _ => none

/-- The position of image granule g. -/
def imagePos (seq page g : Nat) : SealPos :=
  { major := BitVec.ofNat 64 seq, minor := 0, addr := lineOf page (g % 64), form := 1, ghi := 64 ≤ g }

/-- An image granule as stored, with its tag; none when the key is not available. -/
def imageGranule (s : State) (isSealed : Bool) (key : BitVec 20) (seq page g : Nat) (x : BitVec 512) :
    Option (BitVec 512 × BitVec 64) :=
  if isSealed then
    (ledgerKeys s key).map (fun k =>
      let c := x ^^^ keystream k.1 (imagePos seq page g)
      (c, lineTag k.1 k.2 key false (imagePos seq page g) c))
  else some (x, crc64 (bytesOf x 64))

/-- Tags, eight to a granule. -/
def tagGranules (tags : List (BitVec 64)) : List (BitVec 512) :=
  (List.range (ceilDiv tags.length 8)).map (fun k =>
    (List.range 8).foldl (fun acc j => acc ||| place 512 (64 * j) (tags.getD (8 * k + j) 0)) 0)

/-- The granules of an image on flash. -/
def imageOf (s : State) (isSealed : Bool) (key : BitVec 20) (seq page : Nat) (g : List (BitVec 512)) :
    Option (List (BitVec 512)) :=
  ((g.zipIdx).mapM (fun p => imageGranule s isSealed key seq page p.2 p.1)).map (fun l =>
    l.map Prod.fst ++ tagGranules (l.map Prod.snd))

/-- Read an image back: every granule is verified. -/
def readImage (s : State) (isSealed : Bool) (key : BitVec 20) (seq page base : Nat) (sizes : List Nat) :
    Option (List (BitVec 512)) :=
  let n := sizes.foldl (· + ·) 0
  (List.range n).mapM (fun g =>
    let c : BitVec 512 := sget 0 s.led.flash (base + g)
    let tag : BitVec 64 := (sget (0 : BitVec 512) s.led.flash (base + n + g / 8)).extractLsb' (64 * (g % 8)) 64
    if isSealed then
      match ledgerKeys s key with
      | none => none
      | some k =>
        if tag = lineTag k.1 k.2 key false (imagePos seq page g) c then some (c ^^^ keystream k.1 (imagePos seq page g)) else none
    else if tag = crc64 (bytesOf c 64) then some c else none)

/-- The segment that holds a ledger block address. -/
def segAt (s : State) (a : Nat) : Option (Nat × Segment) :=
  s.led.segs.findSome? (fun e => match e.2 with
    | some g => if g.ssd.toNat = ledSsd a && g.start ≤ a % 2 ^ 43 && a % 2 ^ 43 < g.start + 256 then some (e.1, g) else none
    | none => none)

/-- The granules of an image as a tile buffer holds them after its read: none when a granule does not verify. -/
def heldImage (s : State) (page : Nat) (d : BitVec 128) : Option (List (BitVec 512)) :=
  match segAt s (dLedAddr d) with
  | none => none
  | some (seq, _) =>
    if sizesOk (dSizesC d) then readImage s (dSealed d) (dKey d) seq page (dLedAddr d * 64 + dLedOff d) (dSizesC d) else none

/-- The granules of the image that a Cold descriptor or map entry names; none when the SSD cannot be read or a granule
does not verify (R36). -/
def entryImage (s : State) (page : Nat) (d : BitVec 128) : Option (List (BitVec 512)) :=
  if ssdUp s (ledSsd (dLedAddr d)) then heldImage s page d else none

/-- The image that an entry names stands on an SSD of the set that is not ready and not marked failed or rejected: what needs it waits
(R216, R224). -/
def imageWaits (s : State) (d : BitVec 128) : Bool :=
  let i := ledSsd (dLedAddr d)
  (ssdIndices s).contains i && !ssdUp s i && !(ssdOf s i).failed && !(ssdOf s i).rejected

/-- The image of a Cold page. -/
def coldImage (s : State) (page : Nat) : Option (List (BitVec 512)) := entryImage s page (descOf s page)
/-- The lines of a Cold page's image. -/
def coldLines (s : State) (page : Nat) : Option (List (BitVec 512 × Bool)) :=
  (coldImage s page).bind (decodePage (dSizesC (descOf s page)))

/-- R36: a demand fault fails. The page is poisoned and logged, dirty lines that force wait stay in the Quay cache as parts
of poisoned lines, every request that waits for it ends with ERR_DATA. -/
def faultFail (page : Nat) (s : State) : State :=
  let d := descOf s page
  let o := opOf s page
  let s := logIt { cause := 0x08, src := epQb (descBank s page), kind := 3, addr := dLedAddr d, args := wide page } (poisonNow page (endOp page s))
  let s := { s with quay.busy := s.quay.busy.map (fun w => if pageOf (reqLine s w.req) = page then { w with lost := true } else w) }
  match o with
  | none => s
  | some o => o.evict.foldl (fun t l =>
      match qline t (BitVec.ofNat 39 l) with
      | some q => logMergePoisoned (BitVec.ofNat 39 l) q (setQline (BitVec.ofNat 39 l) { q with poison := true } t)
      | none => t) s

/-! ## The content of a page (R33, R34) -/

/-- The 64 lines that a page's storage holds, with the rule of each failure applied first (R33). A line that is not
available is poisoned. -/
def storedLines (page : Nat) (s : State) : List (BitVec 512 × Bool) × State :=
  let d := descOf s page
  let masked (s : State) : List (BitVec 512 × Bool) :=
    (List.range 64).map (fun i => (0, lineMasked (descOf s page) i))
  match dState d with
  | .unbacked => (List.replicate 64 (0, false), s)
  | .warm => match warmLines s page with
    | some l => (l, s)
    | none =>
      let s := runFail page s
      if dState (descOf s page) = .cold then
        match coldLines s page with
        | some l => (l, s)
        | none => let s := faultFail page s; (masked s, s)
      else (masked s, s)
  | .cold => match coldLines s page with
    | some l => (l, s)
    | none => let s := faultFail page s; (masked s, s)
  | _ => (List.range 64).foldl (fun acc i =>
      let (l, s) := acc
      match lineAddr d i with
      | none => (l ++ [(0, lineMasked d i)], s)
      | some a => match berthLine s page i with
        | some (x, p) => (l ++ [(x, p || lineMasked d i)], s)
        | none =>
          let st := dramContent s a
          (l ++ [(rawLine s (dSealed d) (dKey d) (berthPos (ctrOf s page) page i) st, true)],
           lineUncorrectable page i a st none s)) ([], s)

/-- The lines of a page that stand in the Quay data partition. -/
def quayLines (s : State) (page : Nat) : List (Option QLine) := (List.range 64).map (fun i => qline s (lineOf page i))

/-- The content of a page (R28, R34): the bytes that the Quay cache holds over what its storage holds. -/
def pageContent (page : Nat) (s : State) : List (BitVec 512 × Bool) × State :=
  let (l, s) := storedLines page s
  let q := quayLines s page
  ((l.zip q).map (fun p => match p.2 with
    | none => p.1
    | some k => if k.mask = BitVec.allOnes 64 then (k.data, k.poison)
        else (overlay k.mask k.data p.1.1, k.poison || p.1.2)), s)

/-! ## Writing segments (R203, R207, R208) -/

/-- A live image's granules in a segment. -/
def addLive (a n : Nat) (up : Bool) (s : State) : State :=
  match segAt s a with
  | some (seq, g) =>
    let g := { g with live := if up then g.live + n else g.live - n }
    { s with led.segs := sset none s.led.segs seq (some g) }
  | none => s

/-- The slots of an SSD that hold no segment in use, lowest first, by a search of `n` slots from `k`. -/
def freeSlot (s : State) (ssd : Nat) : Nat → Nat → Option Nat
  | 0, _ => none
  | n + 1, k =>
    if (match s.led.manifest with | some m => m.segCount.toNat | none => 0) ≤ k then none
    else if s.led.frags.contains (ssd, segBase s + 256 * k) || s.led.segs.any (fun e => match e.2 with
        | some g => g.ssd.toNat = ssd && g.start = segBase s + 256 * k && !(s.led.segTable && segFree s e.1 g)
        | none => false) then freeSlot s ssd n (k + 1)
    else some k

/-- Deallocate what a free segment held at a place (R208). -/
def deallocate (ssd start : Nat) (s : State) : State :=
  let lo := ledBlock ssd start * 64
  { s with led.flash := s.led.flash.filter (fun e => !(lo ≤ e.1 && e.1 < lo + 16384)),
           led.segs := s.led.segs.filter (fun e => match e.2 with
             | some g => !(g.ssd.toNat = ssd && g.start = start)
             | none => true) }

/-- Open a segment on the next SSD of the rotation that has a free one (R208). -/
def openLedgerSegment (s : State) : Option (Nat × State) :=
  let ups := (List.range 32).filter (fun i => (liveSsds s).contains i && ssdUp s i)
  let order := ups.filter (fun i => s.led.rotate ≤ i) ++ ups.filter (fun i => i < s.led.rotate)
  (order.findSome? (fun i => (freeSlot s i (s.led.segs.length + s.led.frags.length + 1) 0).map (fun k => (i, k)))).map (fun (i, k) =>
    let start := segBase s + 256 * k
    let s := peEv s i 3 1 (deallocate i start s)
    let seq := s.led.nextSeq.toNat
    (seq, { s with led.segs := sset none s.led.segs seq (some { ssd := BitVec.ofNat 5 i, start := start }),
                   led.nextSeq := s.led.nextSeq + 1, led.rotate := (i + 1) % 32 }))

/-- The segment being filled that has room for `n` granules and does not hold the page, else a new one. -/
def segmentFor (page n : Nat) (s : State) : Option (Nat × State) :=
  match s.led.segs.reverse.findSome? (fun e => match e.2 with
    | some g => if !g.written && !g.committed && segUsed g + n ≤ 15360 && g.entries.length < 4092 &&
        !g.entries.any (fun x => sumPage x = page) then some e.1 else none
    | none => none) with
  | some seq => some (seq, s)
  | none => openLedgerSegment s

/-- Append an image, or a ZERO entry, of a page to a segment. `clean` marks a copy that changes no DIRTY (R209). -/
def appendImage (seq page : Nat) (isSealed : Bool) (key : BitVec 20) (img : Option (List Nat × List (BitVec 512)))
    (clean pin : Bool) (s : State) : State :=
  match sget none s.led.segs seq with
  | none => s
  | some g =>
    let off := segUsed g
    let (e, data) : BitVec 128 × List (BitVec 512) := match img with
      | none => (mkSum page true isSealed key [] 0 pin, [])
      | some (sizes, d) => (mkSum page false isSealed key sizes off pin, d)
    let base := ledBlock g.ssd.toNat (g.start + 16) * 64 + off
    { s with led.segs := sset none s.led.segs seq (some { g with
               entries := g.entries ++ [e], bytes := g.bytes + 4096, stale := if clean then g.stale ++ [page] else g.stale }),
             led.flash := (data.zipIdx).foldl (fun f p => sset 0 f (base + p.2) p.1) s.led.flash }

/-- A compressor tile encodes a page for a class (R33, R53, R87, R238): none when every queue of compressors is full. -/
def packTile (cls : BitVec 8) (page : Nat) (s : State) : Option (Nat × State) :=
  (placeTile (descBank s page) 1 4 (packLoad s) s).map (fun (t, s) => (t, countUse (instPool (t / 48) 1) cls 1536 s))

/-- The image of a page for the ledger and what reading it does: copies of a Warm page's granules where its run is its content, else a
compressor tile's bales of its 64 lines; no image for an all-zero page (R33, R34). None when no compressor has room, or what the page
holds stands on an SSD that is not ready (R224). -/
def snapImage (page : Nat) (s : State) : Option (Option (List Nat × List (BitVec 512)) × State) :=
  let d := descOf s page
  let direct' : Option (List Nat × List (BitVec 512)) :=
    if dState d = .warm && (quayLines s page).all (fun q => match q with | some q => !q.dirty | none => true)
    then (readRun s page).map (fun g => (dSizesW d, g)) else none
  match direct' with
  | some x => some (some x, readGranules (ledgerClass s) page (List.range (x.2.length)) s)
  | none =>
    let (l, s) := pageContent page (readPage (ledgerClass s) page s)
    if dState (descOf s page) = .cold && imageWaits s (descOf s page) then none
    else if l.all (fun x => x.1 = 0 && !x.2) then some (none, s)
    else (packTile (ledgerClass s) page s).map (fun (t, s) =>
      let b := encodePage l
      (some (b.map List.length, b.flatten), tileUnits t 64 64 1536 0 true s))

/-- Take a snapshot of a dirty page into a segment (R33, R34, R195): none when no segment has room, or the ledger key is not
available. -/
def packPage (page : Nat) (s : State) : Option State :=
  match snapImage page s with
  | none => none
  | some (img, s) =>
    let d := descOf s page
    match segmentFor page (match img with | some x => imageLen x.1 | none => 0) s with
    | none => none
    | some (seq, s) =>
      match img with
      | none => some (appendImage seq page (dSealed d) (dKey d) none false (dPin d) s)
      | some (sizes, g) => (imageOf s (dSealed d) (dKey d) seq page g).map (fun data =>
          appendImage seq page (dSealed d) (dKey d) (some (sizes, data)) false (dPin d) s)

/-- An uncommitted segment holds the page. -/
def inFlight (s : State) (page : Nat) : Bool :=
  s.led.segs.any (fun e => match e.2 with
    | some g => !g.committed && g.entries.any (fun x => sumPage x = page) && !g.stale.contains page
    | none => false)

/-- Write back every queued page that can be read now (R195). -/
def packQueued (s : State) : State :=
  s.led.queue.foldl (fun t p =>
    let drop (u : State) : State := { u with led.queue := u.led.queue.filter (· ≠ p) }
    if !dDirty (descOf t p) || inFlight t p then drop t
    else if pageBars t p false then t
    else match packPage p t with
      | some u => drop u
      | none => t) s

/-- Queue a page for writeback. -/
def queuePage (page : Nat) (s : State) : State :=
  if s.led.queue.contains page then s else { s with led.queue := s.led.queue ++ [page] }

/-- The lag of R207 in bytes, with the segments whose SEG_COMMIT is on its way. -/
def ledgerLag (s : State) : Nat :=
  4096 * ((s.led.segs.map (fun e => match e.2 with
    | some g => if (g.committed || recorded s e.1) && s.led.horizon.toNat < e.1 then g.entries.length else 0
    | none => 0)).foldl (· + ·) 0)
/-- New segments wait for map writeback: not in Holdup (R207). -/
def lagFull (s : State) : Bool := s.aon.mode ≠ .holdup && param s 0x07 12 ≤ ledgerLag s

/-- Map writeback has priority while the lag exceeds half of MAP_LAG (R207): the changed block with the lowest SEQ goes first (DESIGN
CHOICE, log entry 106). Map writeback stops in Holdup (R219). -/
def mapFirst (s : State) : State :=
  if s.aon.mode = .holdup || 2 * ledgerLag s ≤ param s 0x07 12 then s
  else
    let l := s.led.mapDirty.filter (fun e => mapWritable s e.1)
    match (l.map Prod.snd).min? with
    | some q => match l.find? (fun e => e.2 = q) with
      | some e => putMapBlock e.1 s
      | none => s
    | none => s

/-- Write the SEG_COMMIT of every segment whose writes are complete, each while the lag allows (R207). -/
def writeCommits (s : State) : State :=
  s.led.segs.foldl (fun t e => match e.2 with
    | some g =>
      if g.written && !g.committed && !recorded t e.1 then
        let t := mapFirst t
        if lagFull t then t else addRecord g.ssd.toNat 1 (commitBody t e.1 g) t
      else t
    | none => t) s

/-- A map block has changed (R202): the lowest SEQ that changed it is kept. -/
def mapChanged (page seq : Nat) (s : State) : State :=
  let b := page / 256
  if sget 0 s.led.mapDirty b = 0 then { s with led.mapDirty := sset 0 s.led.mapDirty b seq } else s

/-- Write a mirror entry (R202). -/
def setMirror (page seq : Nat) (e : BitVec 128) (s : State) : State :=
  mapChanged page seq { s with led.mirror := sset 0 s.led.mirror page (withChk8 e) }

/-- The granules of the image that a mirror entry names. -/
def mirrorLen (e : BitVec 128) : Nat := if dStateRaw e = some .cold then imageLen (dSizesC e) else 0

/-- The map entry of a summary entry of a segment (R202). -/
def mapEntry (g : Segment) (e : BitVec 128) (pin : Bool) : BitVec 128 :=
  let c : BitVec 128 := dFlag (dSeal 0 (sumSealed e) (if sumSealed e then sumKey e else 0)) 26 pin
  if sumZero e then c
  else mkCold (dFlag c 25 true) (ledBlock g.ssd.toNat (g.start + 16 + sumOff e / 64)) (sumOff e % 64) (sumSizes e)

/-- PIN of a page changed: its mirror entry follows (R202). -/
def pinMirror (page : Nat) (pin : Bool) (s : State) : State :=
  let m := sget 0 s.led.mirror page
  setMirror page s.led.nextSeq.toNat (dFlag (m &&& BitVec.ofNat 128 (2 ^ 120 - 1)) 26 pin) s

/-- A committed segment with a higher SEQ holds the page. -/
def newerCommitted (s : State) (seq page : Nat) : Bool :=
  s.led.segs.any (fun e => match e.2 with
    | some g => seq < e.1 && g.committed && g.entries.any (fun x => sumPage x = page)
    | none => false)

/-- One summary entry of a segment that commits (R202, R207): the mirror, DIRTY and LEDGER_VALID, and a Cold descriptor, which
is a copy of its mirror entry. -/
def commitEntry (seq : Nat) (g : Segment) (e : BitVec 128) (s : State) : State :=
  let page := sumPage e
  if newerCommitted s seq page then s
  else
    let old := sget 0 s.led.mirror page
    let s := if mirrorLen old = 0 then s else addLive (dLedAddr old) (mirrorLen old) false s
    let m := mapEntry g e (dPin (descOf s page))
    let s := addLive (ledBlock g.ssd.toNat g.start) (mirrorLen m) true (setMirror page seq m s)
    let d := descRaw s page
    let cleans := !g.stale.contains page
    let s := if cleans then { s with led.order := s.led.order.filter (· ≠ page), led.grace := s.led.grace.filter (· ≠ page),
                                     led.queue := s.led.queue.filter (· ≠ page) } else s
    let dirty := dDirty d && !cleans
    if dState d = .cold && !sumZero e then setDesc page (dFlag m 24 dirty) s
    else if dState d = .cold then setDesc page (dFlag (dFlag (dCommon d .unbacked) 25 true) 24 dirty) s
    else setDesc page (dFlag (dFlag d 24 dirty) 25 true) s

/-! ## Segment compaction (R209) -/

/-- A committed segment with live images at or below LEDGER_COMPACT of its data granules. -/
def segSparse (s : State) (g : Segment) : Bool :=
  g.committed && 0 < g.live && g.live * 10000 ≤ param s 0x07 14 * segUsed g

/-- The mirror references the image that an entry of a segment holds. -/
def entryLive (s : State) (g : Segment) (e : BitVec 128) : Bool :=
  let m := sget 0 s.led.mirror (sumPage e)
  !sumZero e && dStateRaw m = some .cold && dLedAddr m = ledBlock g.ssd.toNat (g.start + 16 + sumOff e / 64) &&
  dLedOff m = sumOff e % 64

/-- An image that compaction reads fails its check (R205): a Cold page follows R36; a page in DRAM is written again, as when its image is
lost with an SSD (DESIGN CHOICE, log entry 107). -/
def imageLost (page : Nat) (s : State) : State :=
  let d := descOf s page
  if dState d = .cold then (if (opOf s page).isSome then s else faultFail page s)
  else
    let m := sget 0 s.led.mirror page
    let s := logIt { cause := 0x08, src := epQb (descBank s page), kind := 3, addr := dLedAddr m, args := wide page } s
    if dDirty d then s else joinDirty page none (setDesc page (dFlag d 24 true) s)

/-- Copy the live images of a sparse segment into a new segment. A page whose snapshot is on its way is left. -/
def compactSegment (seq : Nat) (s : State) : State :=
  match sget none s.led.segs seq with
  | none => s
  | some g =>
    if !segSparse s g then s
    else (g.entries.filter (entryLive s g)).foldl (fun t e =>
      let page := sumPage e
      if t.led.segs.any (fun x => match x.2 with
          | some h => !h.committed && h.entries.any (fun y => sumPage y = page)
          | none => false) then t
      else if !ssdUp t (ledSsd (dLedAddr (sget 0 t.led.mirror page))) then t
      else match entryImage t page (sget 0 t.led.mirror page) with
        | none => imageLost page t
        | some img => match segmentFor page (imageLen (sumSizes e)) t with
          | none => t
          | some (n, t) => match imageOf t (sumSealed e) (sumKey e) n page img with
            | none => t
            | some data => appendImage n page (sumSealed e) (sumKey e) (some (sumSizes e, data)) true (sumPin e) t) s

/-- Compact every sparse segment; not before the first restore pass has ended, nor in Holdup (R209, R219, R229). -/
def compactLedger (s : State) : State :=
  if !s.led.segTable || s.aon.mode = .holdup then s
  else s.led.segs.foldl (fun t e => compactSegment e.1 t) s

/-! ## Failures (R34, R214) -/

/-- A segment stays uncommitted: its pages are queued for another writeback, and a Cold page whose new image it held for a rekey is
converted again (R34, R123, R214). -/
def failSegment (seq : Nat) (s : State) : State :=
  match sget none s.led.segs seq with
  | none => s
  | some g =>
    if g.committed then s
    else
      let s := { s with led.segs := sset none s.led.segs seq none }
      g.entries.foldl (fun t e =>
        let t := if (opOf t (sumPage e)).any (fun o => o.kind = .rekey) then finishOp (sumPage e) t else t
        if dDirty (descOf t (sumPage e)) then queuePage (sumPage e) t else t) s

/-- A page that stands in DRAM (R215): Hot, Warm or Retired, or Poisoned or Orphaned with its berth. -/
def residentPage (d : BitVec 128) : Bool :=
  match dState d with
  | .hot | .warm | .retired => true
  | .poisoned | .orphaned => dBerth d
  | _ => false

/-- R214: an SSD is marked failed and leaves the rotation. Resident pages whose image is on it become dirty. -/
def markFailed (i reason : Nat) (s : State) : State :=
  if (ssdOf s i).failed then s
  else
    let s := logIt { cause := 0x7C, args := [i, reason] } (modSsd i (fun d => { d with failed := true, resetting := false }) s)
    let segs := s.led.segs.filterMap (fun e => match e.2 with
      | some g => if g.ssd.toNat = i && !g.committed then some e.1 else none
      | none => none)
    let s := segs.foldl (fun t q => failSegment q t) s
    let pages := (s.led.mirror.filter (fun e => dStateRaw e.2 = some .cold && ledSsd (dLedAddr e.2) = i)).map Prod.fst
    let s := pages.foldl (fun t p =>
      let d := descOf t p
      match dState d with
      | .hot | .warm | .retired =>
        if dDirty d then t else joinDirty p none (setDesc p (dFlag d 24 true) t)
      | _ => t) s
    refreshPA (packQueued s)

end Sys2Proof.Machine
end

