-- ==== Sys2Proof/Machine/Tiers.lean ====
section
/-! DEFINITION. The tier operations: demand faults (R35, R36), eviction and merge (R29 to R31), the scanner (R60 to R64),
demotion, promotion, compaction, relocation (R52 to R73) and rekeying (R122 to R125). -/

namespace Sys2Proof.Machine

open Sys2Proof

/-! ## Demand faults (R35, R36) -/

/-- The oldest transaction that waits for data of a page. -/
def faultTxn (s : State) (page : Nat) : Option Txn :=
  s.quay.txns.find? (fun t => t.phase = .data && t.run.isNone && pageOf (txnLine t) = page)

/-- The NVMe Read of a demand fault or of a restore is counted (Table 16.6, R234): its blocks, in the class that it works for. -/
def countRead (page : Nat) (o : PageOp) (ok : Bool) (s : State) : State :=
  let d := descOf s page
  let ssd := ledSsd (dLedAddr d)
  let n := ceilDiv (dLedOff d + imageLen (dSizesC d)) 64
  let s := peEv s ssd 0 1 (peEv s ssd (if o.restore = 0 then 13 else 14) 1 (peEv s ssd 4 n s))
  countXfer ssd o.cls (4096 * n) (if ok then s else peEv s ssd 6 1 s)

/-- DEMAND_FAULT_READ_COMPLETE (R36, Table 1.5): the image is verified and the requested line's bale decoded; the line goes
to the request that opened the fault. `ok` says that the NVMe Read succeeded. -/
def execDemandFaultReadComplete (page : Nat) (ok : Bool) (s : State) : Out :=
  match opOf s page with
  | none => .next s
  | some o =>
    if o.kind ≠ .fault || o.read || (ok && imageWaits s (descOf s page)) then .next s
    else
    let s := countRead page o ok s
    match (if ok then coldImage s page else none) with
    | none => .next (settle (faultFail page (burnMajor page s)))
    | some g =>
      let s := modOp page (fun o => { o with read := true }) s
      match faultTxn s page with
      | none => .next s
      | some t =>
        let sizes := dSizesC (descOf s page)
        let i := t.line % 64
        let bale := (splitRun sizes g).getD (i / 16) []
        let out : LineOut := if baleHeaderOk (bale.getD 0 0) (sizes.getD (i / 16) 0) then decodeLine bale (i % 16) else .fail
        match out with
        | .ok x => .next (settle (deliver t x false false s))
        | .poisoned x => .next (settle (deliver t x true false s))
        | .fail => .next (settle (faultFail page (burnMajor page s)))

/-- The class, DUE and hint of a tier operation's DRAM accesses (R136, R233, R234). -/
def PageOp.work (o : PageOp) : Work := { cls := o.cls, due := o.due, hint := some 3 }

/-- A decompressor tile decodes a whole page for a class (R37, R82, R87, R238): none while every queue is full. -/
def decodeTile (cls : BitVec 8) (page : Nat) (s : State) : Option State :=
  (placeTile (descBank s page) 0 32 (lineLoad s) s).map (fun (t, s) =>
    countUse (instPool (t / 48) 0) cls 768 (tileUnits t 64 ((dSizesC (descOf s page)).foldl (· + ·) 0) 768 16 true s))

/-- Install a page as a Warm run; none when no frame may be allocated (R35, R67, R68, R105). -/
def installWarm (page : Nat) (o : PageOp) (g : List (BitVec 512)) (s : State) : Option State :=
  let d := descOf s page
  (granFrame (descDie s page) g.length o.always s).map (fun (f, s) =>
    let (a, s) := placeRun f page g.length s
    let s := doWork o.work (fillRun page a (dSealed d) (dKey d) g) s
    setDesc page (mkWarm d a (dSizesC d) (max o.hot (param s 0x02 0)) s.tier.decayEpoch.toNat) s)

/-- Install a page as Hot (R82, R227, R228). -/
def installHot (page : Nat) (lines : List (BitVec 512 × Bool)) (o : PageOp) (s : State) : Option State :=
  (newBerth page lines o.always s).map (fun (f, t) =>
    let t := chargeWrites o.work s t
    setDesc page (mkHot (descOf t page) f (max o.hot (param t 0x02 0)) t.tier.decayEpoch.toNat) t)

/-- The image of a demand fault is installed: Warm, or Hot where it exceeds 63 granules (R227) or the restore asks it (R228); an image that
does not decode fails (R36). None while it waits for a frame or a tile. -/
def installImage (page : Nat) (o : PageOp) (g : List (BitVec 512)) (s : State) : Option State :=
  if 63 < g.length || (o.restore = 2 && !atWm s 7) then
    match decodePage (dSizesC (descOf s page)) g with
    | none => some (faultFail page (burnMajor page s))
    | some l => match decodeTile o.cls page s with
      | none => none
      | some t => installHot page l o t
  else installWarm page o g s

/-- DEMAND_FAULT_INSTALL_COMPLETE (R35): the page is Warm and clean, or Hot where its image exceeds 63 granules (R227) or the
restore asks it (R228), and what waited is served. Without a frame that it may take the installation waits (R67). -/
def execDemandFaultInstallComplete (page : Nat) (s : State) : Out :=
  match opOf s page with
  | none => .next s
  | some o =>
    if o.kind ≠ .fault || !o.read then .next s
    else match heldImage s page (descOf s page) with
    | none => .next (settle (faultFail page (burnMajor page s)))
    | some g => match installImage page o g s with
      | none => .next s
      | some s =>
        let s := finishOp page s
        let s := if dState (descOf s page) = .warm && o.hot ≠ 0 && (opOf s page).isNone then startPromotion false page id s else s
        .next (settle s)

/-! ## Eviction and merge (R29 to R31) -/

/-- LINE_EVICTION (R31): a dirty line leaves toward its page. A line of a busy transaction stays. -/
def execLineEviction (line : Line) (s : State) : Out :=
  if lineBusy s line then .next s else .next (settle (evictLine line s))

/-- PARTIAL_LINE_MERGE (R29): `err` holds the bits that the DRAM returned wrong. -/
def execPartialLineMerge (line : Line) (err : BitVec 640) (s : State) : Out := .next (settle (mergeLine line err s))

/-! ## The scanner (R60 to R64) -/

/-- DECAY_EPOCH_ADVANCE (R60): in every mode in which the tide counter runs (R63). -/
def execDecayEpochAdvance (s : State) : Out :=
  if s.aon.mode = .watch || s.time.stopped then .next s
  else .next (evMgt 0 15 { s with tier.decayEpoch := s.tier.decayEpoch + 1 })

/-- Start a demotion of a Hot page on a compressor tile (R53, R67, R87). -/
def startDemotion (page : Nat) (s : State) : State :=
  if (opOf s page).isSome || !ownRoom s || (freeFrames s = 0 && (openFor s 1).isNone) then s
  else match packTile (deviceClass s) page s with
    | none => s
    | some (t, s) => evQb (descBank s page) 22 (setOps (· ++ [{ newOp s page .demotion with tile := t }]) s)

/-- The scanner's visit of a page (R61, R63): its counter decays, and where the scanner acts the page may move to Cold or
be demoted. -/
def visitPage (acts : Bool) (page : Nat) (s : State) : State :=
  if framePending s page then s
  else
    let s := descFix page s
    let s := modDesc page (decay s) s
    let d := descOf s page
    let st := dState d
    if !acts || (opOf s page).isSome then s
    else if belowWm s 8 && (st = .hot || st = .warm) && coldOk s page && dHot d < s.tier.scanThr then
      moveToCold page { s with tier.lapMoved := true }
    else if belowWm s 7 && st = .hot && dHot d < param s 0x02 3 && !dPin d && !dNoComp d then startDemotion page s
    else s

/-- A lap ends (R63): the working threshold of the next lap. -/
def lapEnd (s : State) : State :=
  let th := param s 0x02 5
  let thr := if s.tier.lapMoved || !s.tier.lapLow then th else min 255 (2 * s.tier.scanThr)
  evMgt 0 14 { s with tier.scanPos := 0, tier.scanThr := thr, tier.lapMoved := false, tier.lapLow := false,
                      tier.laps := s.tier.laps + 1 }

/-- SCANNER_VISIT (R61, R63, R69): the next frame of the frame map. -/
def execScannerVisit (s : State) : Out :=
  let m := s.aon.mode
  if !(m = .recovery || m = .service || m = .drain || m = .maintenance) then .next s
  else
    let acts := m = .service || m = .maintenance
    let f := s.tier.scanPos
    let s := if belowWm s 8 then { s with tier.lapLow := true } else s
    let e := frameEntry s f
    let s := match fUse e with
      | 1 => visitPage acts (fPage e) s
      | 2 =>
        let x := sget 0 s.dram.runIdx f
        let s := (List.range 12).foldl (fun t i => match runRec x i with
          | some (_, page) => visitPage acts page t
          | none => t) s
        if acts && !s.dram.openGran.contains f && fUse (frameEntry s f) = 2 && fLive (frameEntry s f) ≤ param s 0x02 10
        then startCompaction f s else s
      | _ => s
    let s := { s with tier.scanPos := f + 1 }
    .next (settle (if totalFrames s ≤ f + 1 then lapEnd s else s))

/-! ## Demotion and promotion (R32, R52, R53) -/

/-- The lines of a Hot page are encoded into a run of a die's granule frames, and its berth is freed; a page of zeros becomes Unbacked,
and one whose run is too long stays Hot with NO_COMP (R53). -/
def demoteLines (page : Nat) (o : PageOp) (l : List (BitVec 512 × Bool)) (s : State) : State :=
  let d := descOf s page
  if l.all (fun x => x.1 = 0 && !x.2) then freeFrame (dDfa d) (setDesc page (dCommon d .unbacked) s)
  else
    let b := encodePage l
    let g := b.flatten
    if param s 0x02 6 < g.length then setDesc page (dFlag d 27 true) s
    else match granFrame (o.tile / 48) g.length true s with
      | none => s
      | some (f, s) =>
        let (a, s) := placeRun f page g.length s
        let s := doWork o.work (fillRun page a (dSealed d) (dKey d) g) s
        freeFrame (dDfa d) (setDesc page (mkWarm d a (b.map List.length) (dHot d) (dStamp d)) s)

/-- DEMOTION_COMPLETE (R32, R53): one descriptor update after all granules are written. -/
def execDemotionComplete (page : Nat) (s : State) : Out :=
  match opOf s page with
  | none => .next s
  | some o =>
    if o.kind ≠ .demotion || dState (descOf s page) ≠ .hot then .next s
    else
      let (l, s) := storedLines page (readPage o.cls page s)
      let s := tileUnits o.tile 64 64 1536 0 true s
      .next (settle (finishOp page (if dState (descOf s page) ≠ .hot then s else demoteLines page o l s)))

/-- The end of a promotion: the four bales are decoded into a new berth and the run is freed. A bale that fails follows
R55; without a frame that it may take the promotion waits (R67). -/
def promoteDone (page : Nat) (s : State) : State :=
  match opOf s page with
  | none => s
  | some o =>
    let d := descOf s page
    if o.kind ≠ .promotion then s
    else if dState d ≠ .warm then finishOp page s
    else match warmLines s page with
      | none => finishOp page (runFailBurn page (readPage o.cls page s))
      | some l => match decodeTile o.cls page s with
        | none => s
        | some u => match newBerth page l o.always (readGranules o.cls page (List.range ((dSizesW d).foldl (· + ·) 0)) u) with
          | none => s
          | some (f, t) =>
            let t := chargeWrites o.work s t
            let t := setDesc page (mkHot (descOf t page) f (dHot d) (dStamp d)) t
            finishOp page (retireRun (dGranule d) (dSizesW d) t)

/-- PROMOTION_COMPLETE (R52, R82). -/
def execPromotionComplete (page : Nat) (s : State) : Out := .next (settle (promoteDone page s))

/-! ## Compaction and relocation (R69, R71, R72) -/

/-- A run of `n` granules takes a place in granule frame `f` in one descriptor update. The granules keep the counter under which they were
sealed (R69). -/
def moveRun (page f n : Nat) (o : PageOp) (s : State) : State :=
  let d := descOf s page
  let (a, s) := placeRun f page n (readGranules o.cls page (List.range n) s)
  let s := doWork o.work (fun s => (List.range n).foldl (fun t g => dramWrite (a + g) (dramContent t (dGranule d + g)) t) s) s
  retireRun (dGranule d) (dSizesW d) (setDesc page (setField d 48 (BitVec.ofNat 37 a)) s)

/-- COMPACTION_MOVE_COMPLETE (R69): a run takes its new place. -/
def execCompactionMoveComplete (page : Nat) (s : State) : Out :=
  match opOf s page with
  | none => .next s
  | some o =>
    let d := descOf s page
    if o.kind ≠ .compaction then .next s
    else if dState d ≠ .warm || dGranule d / 64 ≠ o.dst then .next (settle (finishOp page s))
    else
      let n := (dSizesW d).foldl (· + ·) 0
      let s0 := { s with dram.openGran := s.dram.openGran.filter (· ≠ o.dst) }
      match granFrame (descDie s page) n true s0 with
      | none => .next s
      | some (f, s) => .next (settle (finishOp page (if (readRun s page).isSome then moveRun page f n o s else runFail page s)))

/-- The end of a relocation (Table 2.3): the page is Hot in its new frame, and the old frame is retired. -/
def endRelocation (page : Nat) (s : State) : State :=
  let d := descOf s page
  let poison := match opOf s page with | some o => o.poisonAfter | none => false
  let s := if poison then setDesc page (mkMasked d .poisoned (some (dNewDfa d)) (BitVec.allOnes 64)) s
    else setDesc page (mkHot d (dNewDfa d) (dHot d) (dStamp d)) s
  finishOp page (markRetired (dDfa d) s)

/-- COPIED counts line `i` of a relocation, which ends with the last (R71). -/
def copiedLine (page i : Nat) (s : State) : State :=
  let s := setDesc page (setField (descOf s page) 110 (BitVec.ofNat 7 (i + 1))) s
  settle (if i + 1 = 64 then endRelocation page s else s)

/-- A line of a relocation has failed twice (R72): a clean page with an image moves to Cold; else the line goes on poisoned, as it is
read. -/
def copyLost (page i : Nat) (st : BitVec 640) (s : State) : State :=
  let d := descOf s page
  if !dDirty d && dLedger d then settle (finishOp page (moveToCold page s))
  else
    let pos := berthPos (ctrOf s page) page i
    let s := logIt { cause := 0x09, kind := 1, addr := dla (lineOf page i) } s
    let s := setDesc page (setField d 110 (BitVec.ofNat 7 (i + 1))) s
    let s := writeBerth page i (rawLine s (dSealed d) (dKey d) pos st) true s
    settle (if i + 1 = 64 then endRelocation page s else s)

/-- RELOCATION_LINE_COPY (R71, R72): the next line is copied in stored form to NEW_DFA; `err` holds the bits that the DRAM
returned wrong. A line that fails is read once more by the next command (R118, R154). -/
def execRelocationLineCopy (page : Nat) (err : BitVec 640) (s : State) : Out :=
  match opOf s page with
  | none => .next s
  | some o =>
    let d := descOf s page
    if o.kind ≠ .relocation then .next s
    else if dState d ≠ .retired then .next (settle (finishOp page s))
    else
      let i := dCopied d
      let from' := dDfa d * 64 + i
      let there := dNewDfa d * 64 + i
      let st := dramContent s from' ^^^ err
      let pos := berthPos (ctrOf s page) page i
      let k := readCheck s (dSealed d) (dKey d) pos from' st
      let s := noteCheck from' (lineOf page i).toNat k.1 false (readNow o.cls from' s)
      match k.2 with
      | none =>
        .next (if !o.again then modOp page (fun o => { o with again := true }) s
          else copyLost page i st (modOp page (fun o => { o with again := false }) (countUncorrectable from' s)))
      | some _ =>
        let good := match k.1 with | .valid t _ => t | .poisoned t _ => t | .fail => st
        let s := if o.again then noteTransient (lineRec s from' (lineOf page i).toNat) from' (modOp page (fun o => { o with again := false }) s)
          else s
        .next (copiedLine page i (doWork o.work (dramWrite there good) s))

/-! ## Rekeying (R122 to R125) -/

/-- A ring command ends with a status; it is posted by COMPLETION_POST (R346). -/
def endCmd (ring idx : Nat) (status : BitVec 6) (detail : BitVec 8) (result : BitVec 64) (s : State) : State :=
  { s with rings.cmds := s.rings.cmds.map (fun c => if c.ring = ring && c.idx = idx && !c.finished then
      { c with started := true, finished := true, status := status, detail := detail, result := result } else c) }

def engineOf (s : State) (n : Nat) : Rekey := sget {} s.led.engines n
def setEngine (n : Nat) (e : Rekey) (s : State) : State := { s with led.engines := sset {} s.led.engines n e }

/-- The lowest page of an engine's range, from its tide mark up, that is on the old key (R123). -/
def rekeyNext (s : State) (e : Rekey) : Option Nat :=
  (s.quay.desc.find? (fun x => e.tide ≤ x.1 && x.1 ≤ e.last && dSealed (dView x.2) && dKey (dView x.2) = e.old)).map Prod.fst

/-- The tide mark follows the lowest page not yet converted (R124); at each GiB, and at the end of the range, a REKEY record is
written (R207). Past the end the flags are cleared and the completion is posted (R125). -/
def rekeyAdvance (n : Nat) (s : State) : State :=
  let e := engineOf s n
  if !e.active then s
  else match rekeyNext s e with
    | some p =>
      let e := { e with tide := p }
      if e.loggedGib < (p - e.first) / 2 ^ 18 then
        let e := { e with loggedGib := (p - e.first) / 2 ^ 18 }
        addRec 5 (rekeyBody n e false) (setEngine n e s)
      else setEngine n e s
    | none =>
      let e := { e with tide := e.last + 1 }
      let s := setEngine n { e with active := false } (addRec 5 (rekeyBody n e true) s)
      let clear (k : BitVec 20) (bit : Nat) (used : Bool) (s : State) : State :=
        if used then s else setKeyEntry k (setField (keyEntry s k) bit (0 : BitVec 1)) s
      let s := clear e.old 323 (s.led.engines.any (fun x => x.2.active && x.2.old = e.old)) s
      let s := clear e.new 324 (s.led.engines.any (fun x => x.2.active && x.2.new = e.new)) s
      let s := logIt { cause := 0x0A, args := [n, e.converted] } s
      match e.ring with
      | some (r, i) => endCmd r i 0 0 (place 64 0 (BitVec.ofNat 4 n) ||| place 64 32 (BitVec.ofNat 32 e.converted)) s
      | none => s

/-- A page is converted: it is counted, and the tide mark advances. -/
def rekeyCount (n : Nat) (s : State) : State :=
  let e := engineOf s n
  rekeyAdvance n (setEngine n { e with converted := e.converted + 1 } s)

/-- Line `j` of a berth, read in `s`, is written under a new key and counter; a line already poisoned, or that fails, is written poisoned
and logged (R123). -/
def rekeyLine (s : State) (page : Nat) (new : BitVec 20) (c' : BitVec 512) (j : Nat) (t : State) : State :=
  let d := descOf s page
  match lineAddr d j with
  | none => t
  | some a =>
    let v := (berthLine s page j).getD (rawLine s (dSealed d) (dKey d) (berthPos (ctrOf s page) page j) (dramContent s a), true)
    let t := putForm a (storedForm t true new (berthPos c' page j) v.1 v.2) t
    if v.2 then logIt { cause := 0x12, src := chanSrc s a, kind := 1, addr := dla (lineOf page j), loc := locOf s a 0xF, key := dKey d } t
    else t

/-- The 64 lines of a berth and its descriptor take a new key and (MAJOR + 1, 0) (R123). -/
def rekeyLines (page : Nat) (new : BitVec 20) (s : State) : State :=
  let c' := mkCtr (cMajor (ctrOf s page) + 1)
  setDesc page (dSeal (descOf s page) true new) (setCtr page c' ((List.range 64).foldl (fun t j => rekeyLine s page new c' j t) s))

/-- Rewrite a berth under a new key, in the engine's class (R123, R125). -/
def rekeyBerth (page : Nat) (new : BitVec 20) (cls : BitVec 8) (s : State) : State :=
  doWork { cls := cls, hint := some 3 } (rekeyLines page new) (readPage cls page s)

/-- A Warm page's run takes a new place under the engine's key; without a frame it waits (R123). -/
def rekeyWarm (engine page : Nat) (s : State) : Option State :=
  let e := engineOf s engine
  let d := descOf s page
  match readRun s page with
  | none => some (rekeyAdvance engine (runFailBurn page s))
  | some g => (granFrame (descDie s page) g.length false s).map (fun (f, s) =>
    let (a, s) := placeRun f page g.length (readGranules e.cls page (List.range g.length) s)
    let s := doWork { cls := e.cls, hint := some 3 } (fillRun page a true e.new g) s
    let s := setDesc page (dSeal (setField d 48 (BitVec.ofNat 37 a)) true e.new) s
    rekeyCount engine (retireRun (dGranule d) (dSizesW d) s))

/-- A Cold page's image is written again under the engine's key; the page is converted when the segment commits. It waits for room in the
table, for the SSD of its image, for the lag and for a segment (R123, R207, R216). -/
def rekeyCold (engine page : Nat) (s : State) : Option State :=
  let e := engineOf s engine
  let d := descOf s page
  if !opRoom s || imageWaits s d || lagFull s then none
  else match coldImage s page with
  | none => some (settle (rekeyCount engine (modDesc page (fun d => dSeal d true e.new) (faultFail page s))))
  | some g => match segmentFor page (imageLen (dSizesC d)) s with
    | none => none
    | some (seq, s) => (imageOf s true e.new seq page g).map (fun data =>
        refreshPA (setOps (· ++ [{ newOp s page .rekey with dst := engine, cls := e.cls, due := none }])
          (countXfer (ledSsd (dLedAddr d)) e.cls (64 * g.length) (appendImage seq page true e.new (some (dSizesC d, data)) true (dPin d) s))))

/-- REKEY_PAGE_CONVERSION (R123): the next page of an engine's range is converted. A page that a tier operation holds waits
(R47), and so does every page while descriptor frames are pending (R227) or the device is at rest (R219). A Cold page is
converted when the segment of its new image commits. -/
def execRekeyPageConversion (engine : Nat) (s : State) : Out :=
  let e := engineOf s engine
  let m := s.aon.mode
  if !e.active || s.led.pending || !(m = .service || m = .maintenance || m = .drain) then .next s
  else match rekeyNext s e with
  | none => .next (settle (rekeyAdvance engine s))
  | some page =>
    if (opOf s page).isSome || (s.quay.txns.any (fun t => pageOf (txnLine t) = page)) then .next s
    else
      let d := descOf s page
      match dState d with
      | .warm => .next (match rekeyWarm engine page s with | none => s | some t => settle t)
      | .cold => .next ((rekeyCold engine page s).getD s)
      | _ =>
        if (lineAddr d 0).isSome then .next (settle (rekeyCount engine (rekeyBerth page e.new e.cls s)))
        else .next (settle (rekeyCount engine (setDesc page (dSeal d true e.new) s)))

end Sys2Proof.Machine
end

