-- ==== Sys2Proof/Machine/DramChannel.lean ====
section
/-! DEFINITION. The DDR5 channels (R128 to R162): refresh, row disturbance, drain, temperature, alerts, marks, the scrubber,
self-refresh, training, and the order of commands in a command slot (R139). -/

namespace Sys2Proof.Machine

open Sys2Proof

/-! ## Banks and rows -/

/-- The parameter of Table 5.6 with an index, of a channel. -/
def dchParam (s : State) (c i : Nat) : Nat := paramAt s 0x05 i c

/-- A bank code's subchannel, rank, CID and bank address, as one key (R141). -/
def refKey (sub : Bool) (rank cid ba : Nat) : Nat := (((if sub then 1 else 0) * 4 + rank) * 8 + cid) * 4 + ba
/-- The key of the bank address that a bank code lies in. -/
def refKeyOf (bank : Nat) : Nat := ((bank / 2 ^ 4 % 2 * 4 + bank / 2 ^ 5 % 4) * 8 + bank / 2 ^ 7 % 8) * 4 + bank / 2 ^ 13 % 4

/-- Close the rows of the banks that a test names. -/
def closeRows (f : Nat → Bool) (c : Channel) : Channel := { c with openRows := c.openRows.filter (fun e => !f e.1) }

/-- An activation in a bank's row-disturbance table (R143). -/
def countRow (row : Nat) (t : List (Nat × BitVec 16)) : List (Nat × BitVec 16) :=
  let up (n : BitVec 16) : BitVec 16 := if n = 0xFFFF then n else n + 1
  if t.any (fun e => e.1 = row) then t.map (fun e => if e.1 = row then (e.1, up e.2) else e)
  else if t.length < 32 then t ++ [(row, 1)]
  else
    let low := ((t.map (fun e => e.2.toNat)).min?).getD 0
    match t.findIdx? (fun e => e.2.toNat = low) with
    | some i => t.set i (row, up (BitVec.ofNat 16 low))
    | none => t

/-- A bank's rolling activation count rises; where the SPD requires Refresh Management, a bank at its limit is owed an RFM command
(R146). -/
def countRaa (bank : Nat) (ch : Channel) : Channel :=
  if !ch.pop.rfm then ch
  else
    let n := sget 0 ch.raa bank + 1
    { ch with raa := sset 0 ch.raa bank n,
              rfmDue := if ch.pop.raaLimit ≤ n && !ch.rfmDue.contains bank then ch.rfmDue ++ [bank] else ch.rfmDue }

/-- A row of a bank is activated (R143, R146). -/
def activate (c bank row : Nat) (s : State) : State :=
  evDch c 6 (modChan c (fun ch => countRaa bank { ch with rowTable := smod [] ch.rowTable bank (countRow row) }) s)

/-- An RFM command to a bank (R146): the bank is precharged, and its rolling count falls by the DIMM's limit (PRESUMED, log entry 110). -/
def issueRfm (c bank : Nat) (s : State) : State :=
  evDch c 10 (modChan c (fun ch => closeRows (· = bank) { ch with
    rfmDue := ch.rfmDue.erase bank, raa := smod 0 ch.raa bank (· - ch.pop.raaLimit) }) s)

/-- A channel that takes commands: trained, on line and out of self-refresh. -/
def chanRuns (s : State) (c : Nat) : Bool :=
  c < numChans s && (chan s c).trained && !(chan s c).offline && !(chan s c).selfRefresh

/-! ## Refresh (R141) and row disturbance (R143, R144) -/

/-- A refresh of a bank address: its banks are precharged. -/
def issueRefresh (c key n : Nat) (s : State) : State :=
  evAdd (0x500 + 32 * c + 8) n
    (modChan c (fun ch => closeRows (fun b => refKeyOf b = key) { ch with owed := smod 0 ch.owed key (· - n) }) s)

/-- REFRESH_DUE (R141): with requests queued for the bank address the refresh is postponed, up to four; else it is issued
with every postponed one. -/
def execRefreshDue (ch : Nat) (sub : Bool) (rank cid ba : Nat) (s : State) : Out :=
  if !chanRuns s ch then .next s
  else
    let key := refKey sub rank cid ba
    let c := chan s ch
    let busy := c.readQ.any (fun q => refKeyOf q.bank = key) || c.writeQ.any (fun q => refKeyOf q.bank = key)
    let owed := sget 0 c.owed key
    let s := modChan ch (fun c => { c with refPhase := sset 0 c.refPhase (key / 4) ((ba + 1) % 4) }) s
    if busy && owed < 4 then .next (modChan ch (fun c => { c with owed := smod 0 c.owed key (· + 1) }) s)
    else if busy then .next (issueRefresh ch key 1 (modChan ch (fun c => { c with owed := smod 0 c.owed key (· + 1) }) s))
    else .next (issueRefresh ch key (owed + 1) (modChan ch (fun c => { c with owed := smod 0 c.owed key (· + 1) }) s))

/-- RD_WINDOW_START (R143): every row-disturbance table is cleared; pending mitigations stay. -/
def execRdWindowStart (s : State) : Out :=
  .next ((List.range 16).foldl (fun t c => modChan c (fun ch => { ch with rowTable := [] }) t) s)

/-- RD_THRESHOLD_REACHED (R143): a mitigation is queued and the count is set to 0. -/
def execRdThresholdReached (ch bank row : Nat) (s : State) : Out :=
  let t := sget [] (chan s ch).rowTable bank
  if t.any (fun e => e.1 = row && dchParam s ch 5 ≤ e.2.toNat) then
    .next (modChan ch (fun c => { c with
      rowTable := sset [] c.rowTable bank (t.map (fun e => if e.1 = row then (e.1, 0) else e)), mitig := c.mitig ++ [(bank, row)] }) s)
  else .next s

/-- The victim rows of an aggressor (R144). -/
def victimRows (s : State) (c row : Nat) : List Nat :=
  let m := dchParam s c 8
  let b := dchParam s c 9
  let map (r : Nat) : Nat := if r / 2 ^ b % 2 = 1 then r ^^^ m else r
  let p := map row
  let n := (chan s c).pop.rows
  ((List.range (dchParam s c 7)).flatMap (fun k => (if k + 1 ≤ p then [p - (k + 1)] else []) ++ [p + (k + 1)])).filterMap
    (fun v => if v < n then some (map v) else none)

/-- A mitigation is carried out (R144): the bank is precharged; without DRFM each victim is activated and precharged. -/
def mitigate (c bank row : Nat) (s : State) : State :=
  let s := evDch c 9 (modChan c (closeRows (· = bank)) s)
  if (chan s c).pop.drfm then s else (victimRows s c row).foldl (fun t v => activate c bank v t) s

/-! ## Open rows (R136, R139) -/

/-- The row of a request is open. -/
def rowOpen (c : Channel) (q : DramReq) : Bool :=
  match sget none c.openRows q.bank with
  | some r => r.row = q.row
  | none => false

/-- The open row of a request has served its hit cap while a request for another row of the bank waits (R139). -/
def capped' (s : State) (n : Nat) (q : DramReq) : Bool :=
  let c := chan s n
  match sget none c.openRows q.bank with
  | some r => (if r.hint = 3 then dchParam s n 2 else dchParam s n 1) ≤ r.hits &&
      (c.readQ ++ c.writeQ).any (fun x => x.bank = q.bank && x.row ≠ q.row)
  | none => false

/-- A read is eligible: its row is not capped (R139, R140). -/
def eligible (s : State) (n : Nat) (q : DramReq) : Bool := !(rowOpen (chan s n) q && capped' s n q)

/-! ## Write drain (R140) -/

def drainLo (c : Channel) : Nat := fieldNat c.wdrain 23 16
def drainHi (c : Channel) : Nat := fieldNat c.wdrain 15 8
def draining (c : Channel) : Bool := c.wdrain.getLsbD 0

/-- WRITE_DRAIN_ENTRY (R140): at DRAIN_HI entries, or opportunistically when no read is eligible. -/
def execWriteDrainEntry (ch : Nat) (s : State) : Out :=
  let c := chan s ch
  let full := drainHi c ≤ c.writeQ.length
  let opp := c.wdrain.getLsbD 1 && !c.writeQ.isEmpty && !c.readQ.any (eligible s ch)
  if !chanRuns s ch || draining c || !(full || opp) then .next s
  else .next (evDch ch 11 (setChan ch { c with wdrain := c.wdrain ||| 1, drainOpp := !full } s))

/-- WRITE_DRAIN_EXIT (R140): at DRAIN_LO entries, or when a read arrives after an opportunistic entry; in Drain and Holdup
modes when both queues are empty. -/
def execWriteDrainExit (ch : Nat) (s : State) : Out :=
  let c := chan s ch
  let low := c.writeQ.length ≤ drainLo c
  let early := c.drainOpp && !c.readQ.isEmpty && c.writeQ.length < drainHi c
  let may := if s.aon.mode = .drain || s.aon.mode = .holdup then c.writeQ.isEmpty && c.readQ.isEmpty else low || early
  if !draining c || !may then .next s
  else .next (setChan ch { c with wdrain := c.wdrain &&& 0xFFFFFFFE, drainOpp := false } s)

/-! ## Offline channels (R156) -/

/-- The channels of a channel's set. -/
def setOf (s : State) (c : Nat) : List Nat := ((chanSets s).find? (fun x => x.chans.contains c)).elim [c] ChanSet.chans

/-- LOC of a channel-originated entry that names no line (R157, R444). -/
def chanLoc (c : Nat) (sub : Bool) (rank cid dev : Nat) : BitVec 43 := mkLoc c (if sub then 1 else 0) rank cid 0 0 0 0 dev

/-- The whole set of a channel goes offline: 1 PMIC, 2 replay, 3 training (R156). -/
def goOffline (c why : Nat) (s : State) : State :=
  if (chan s c).offline then s
  else
    let s := (setOf s c).foldl (fun t x => modChan x (fun ch => { ch with
      offline := true, offlineWhy := if x = c then BitVec.ofNat 3 why else 4, readQ := [], readWait := [], writeQ := [], owed := [],
      mitig := [], raa := [], rfmDue := [], openRows := [] }) t) s
    logIt { cause := 0x16, src := epDch c, loc := chanLoc c false 0 0 0xF, args := [why] } s

/-- A channel that may not be trained: TRAIN_FAIL is logged and its set excluded (R129, R130). -/
def excludeSet (c : Nat) (s : State) : State :=
  let s := logIt { cause := 0x17, src := epDch c, loc := chanLoc c false 0 0 0xF, args := [0] } s
  (setOf s c).foldl (fun t x => modChan x (fun ch => { ch with offline := true, offlineWhy := 4, trained := false }) t) s

/-! ## Temperature and power of the DIMMs (R131, R142, R155) -/

/-- The throttle step of R142 at a temperature. -/
def throttleOf (th t : Nat) : BitVec 4 := if 95 ≤ t then 0xF else if th ≤ t then BitVec.ofNat 4 (min 14 ((t - th) / 2 + 1)) else 0

/-- THERMAL_SENSOR_READ (R142). -/
def execThermalSensorRead (ch slot temp : Nat) (s : State) : Out :=
  let c := chan s ch
  if c.pop.dimms ≤ slot then .next s
  else
    let temps := sset 0 c.temps slot temp
    let t := (temps.map Prod.snd).foldl max 0
    let s := setChan ch { c with temps := temps, halved := 85 ≤ t, throttle := throttleOf (dchParam s ch 14) t,
                                 aboveLimit := 95 ≤ t } s
    if 95 ≤ t && !c.aboveLimit then
      .next (logIt { cause := 0x18, src := epDch ch, loc := chanLoc ch false 0 0 0xF, args := [slot, temp] } s)
    else .next s

/-- PMIC_STATUS_READ (R131, R156): a fault takes the channel set offline. -/
def execPmicStatusRead (ch slot : Nat) (fault : Bool) (s : State) : Out :=
  .next (if fault && slot < (chan s ch).pop.dimms then settle (goOffline ch 1 s) else s)

/-- PMIC_INTERRUPT (R131, R156): the status is read, and a fault takes the channel set offline. -/
def execPmicInterrupt (ch slot : Nat) (fault : Bool) (s : State) : Out :=
  .next (if fault && slot < (chan s ch).pop.dimms then settle (goOffline ch 1 s) else s)

/-- DIMM_ALERT (R155, R156): the commands since the last good one are replayed; the fourth failure takes the set offline. -/
def execDimmAlert (ch : Nat) (sub : Bool) (rank : Nat) (ok : Bool) (s : State) : Out :=
  if !chanRuns s ch then .next s
  else
    let n := (chan s ch).replays + 1
    if 3 < n then .next (settle (goOffline ch 2 (modChan ch (fun c => { c with replays := 0 }) s)))
    else
      let s := evDch ch 19 (modChan ch (fun c => { c with replays := if ok then 0 else n }) s)
      .next (logIt { cause := 0x15, src := epDch ch, loc := chanLoc ch sub rank 0 0xF, args := [n] } s)

/-! ## Calibration records (R161, R162) and device marks (R150) -/

/-- The DEV_MARK fields of a channel at [479:224] of a record. -/
def markBits (c : Channel) : BitVec 512 :=
  (List.range 64).foldl (fun acc k => acc ||| place 512 (224 + 4 * k) (sget (0xF : BitVec 4) c.marks k)) 0
/-- The marks of a record. -/
def markOfRecord (h : BitVec 512) : SMap (BitVec 4) :=
  (List.range 64).foldl (fun m k => sset 0xF m k (h.extractLsb' (224 + 4 * k) 4)) []
/-- The body of a record: the listed PHY words, in order (log entry 21). -/
def bodyBytes (b : SMap (BitVec 32)) : List Byte := b.flatMap (fun e => bytesOf e.2 4)
/-- The CRC of a record. -/
def recordCrc (h : BitVec 512) (b : SMap (BitVec 32)) : BitVec 32 := crc32 (bytesOf h 60 ++ bodyBytes b)
/-- A record is valid. -/
def recordValid (h : BitVec 512) (b : SMap (BitVec 32)) : Bool :=
  fieldNat h 3 0 = 1 && recordCrc h b = h.extractLsb' 480 32 &&
  (List.range 64).all (fun k => let v := fieldNat h (227 + 4 * k) (224 + 4 * k); v ≤ 9 || v = 15)
/-- The slot of a channel that holds its newest valid record. -/
def newestSlot (s : State) (c : Nat) : Option (Nat × BitVec 512) :=
  let at' (i : Nat) : Option (Nat × BitVec 512) := match sget none s.nor.cal i with
    | some h => if recordValid h (sget [] s.nor.calBody i) then some (i, h) else none
    | none => none
  match at' (2 * c), at' (2 * c + 1) with
  | some a, some b => if fieldNat a.2 207 176 < fieldNat b.2 207 176 then some b else some a
  | some a, none => some a
  | none, b => b
/-- Write a record into the slot that does not hold the newest valid one; never in Holdup or Watch. -/
def writeRecord (c : Nat) (s : State) : State :=
  if s.aon.mode = .holdup || s.aon.mode = .watch then s
  else
    let ch := chan s c
    let (slot, n) : Nat × Nat := match newestSlot s c with
      | some (i, h) => (if i = 2 * c then 2 * c + 1 else 2 * c, fieldNat h 207 176 + 1)
      | none => (2 * c, 1)
    let h : BitVec 512 := place 512 0 (1 : BitVec 4) ||| place 512 4 (BitVec.ofNat 4 c) ||| place 512 8 ch.rate |||
      place 512 24 ch.pop.id0 ||| place 512 72 ch.pop.id1 ||| place 512 176 (BitVec.ofNat 32 n) |||
      place 512 208 (BitVec.ofNat 16 (bodyBytes ch.phy).length) ||| markBits ch
    let h := h ||| place 512 480 (recordCrc h ch.phy)
    { s with nor.cal := sset none s.nor.cal slot (some h), nor.calBody := sset [] s.nor.calBody slot ch.phy }

/-- DEV_MARK_WIN_START (R150): every correction count is cleared. -/
def execDevMarkWinStart (s : State) : Out :=
  .next ((List.range 16).foldl (fun t c => modChan c (fun ch => { ch with corr := [] }) t) s)

/-- DEV_MARKED (R150): the corrections of a device have reached DEV_MARK_TH; a rank and CID holds at most one mark. -/
def execDevMarked (ch : Nat) (sub : Bool) (rank cid dev : Nat) (s : State) : Out :=
  let c := chan s ch
  let k := (if sub then 32 else 0) + rank * 2 ^ c.pop.cidBits + cid
  if sget 0 c.corr (k * 16 + dev) < dchParam s ch 10 || sget 0xF c.marks k ≠ 0xF || 9 < dev then .next s
  else
    let s := modChan ch (fun c => { c with marks := sset 0xF c.marks k (BitVec.ofNat 4 dev) }) s
    .next (logIt { cause := 0x14, src := epDch ch, loc := chanLoc ch sub rank cid dev } (writeRecord ch s))

/-! ## The scrubber (R151 to R153) -/

/-- The scrubbed lines of a frame, by their number in the frame. -/
def scrubLines (s : State) (f : Nat) : List Nat :=
  match regionOf s f with
  | some r =>
    let i := f - r.2.1
    if r.1 = 1 then (if sget false s.dram.descValid i then List.range 64 else [])
    else if r.1 = 2 || r.1 = 3 then (if sget false s.dram.descSummary i then List.range 64 else [])
    else []
  | none => match fUse (sget 0 s.dram.frameMap f) with
    | 1 => List.range 64
    | 2 => List.range (fFill (sget 0 s.dram.frameMap f)) ++ [63]
    | _ => []

/-- The frames that may hold scrubbed lines. -/
def scrubFrames (s : State) : List Nat :=
  s.dram.frameMap.map Prod.fst ++ (regions s).flatMap (fun r =>
    if r.1 = 1 then s.dram.descValid.map (fun e => r.2.1 + e.1)
    else if r.1 = 2 || r.1 = 3 then s.dram.descSummary.map (fun e => r.2.1 + e.1) else [])

/-- The next scrubbed line of a channel: channel line address and DRAM line address. -/
def nextScrub (s : State) (c : Nat) : Option (Nat × Nat) :=
  let sets := chanSets s
  let l := (scrubFrames s).flatMap (fun f => (scrubLines s f).filterMap (fun i =>
    match chanOf sets (f * 64 + i) with
    | some (x, a) => if x = c && (chan s c).scrubPos ≤ a then some (a, f * 64 + i) else none
    | none => none))
  match (l.map Prod.fst).min? with
  | none => none
  | some a => l.find? (fun e => e.1 = a)

/-- The page and granule of a run that a granule of a frame belongs to. -/
def runAt (s : State) (f g : Nat) : Option (Nat × Nat) :=
  let x := sget 0 s.dram.runIdx f
  (List.range 12).findSome? (fun i => match runRec x i with
    | some (st, page) =>
      let n := (dSizesW (descOf s page)).foldl (· + ·) 0
      if dGranule (descOf s page) = f * 64 + st && st ≤ g && g < st + n then some (page, g - st) else none
    | none => none)

/-- The run index in granule 63 of a granule frame, under the plain code (R68, R147): the index as the device keeps it. -/
def indexLine (s : State) (f : Nat) : BitVec 640 := plainStore (sget 0 s.dram.runIdx f) false

/-- A scrubbed line is checked, corrected, or takes the outcome of Table 5.7 with no requester (R151, R153); a line that fails is read
once more (R154). A sealed line whose chip parity matches is taken as good. -/
def scrubCheck (cls : BitVec 8) (addr : Nat) (s : State) : State :=
  let f := addr / 64
  let i := addr % 64
  let st := dramContent s addr
  let quick (isSealed : Bool) : Bool := isSealed && (devs st).foldl (· ^^^ ·) 0 = 0 && !lineOffline s addr
  match regionOf s f with
  | some r => structRead r.1 r.2.1 addr 0 false s
  | none =>
  match fUse (sget 0 s.dram.frameMap f) with
  | 1 =>
    let page := fPage (sget 0 s.dram.frameMap f)
    let d := descOf s page
    if lineAddr d i ≠ some addr || quick (dSealed d) then s
    else
      let s := useCtx addr (dSealed d) (dKey d) (loadCtr page s)
      let k := readCheck s (dSealed d) (dKey d) (berthPos (ctrOf s page) page i) addr st
      let s := noteCheck addr (lineOf page i).toNat k.1 false s
      (match k.2 with
      | some _ => s
      | none => lineUncorrectable page i addr st none (readNow cls addr s))
  | 2 =>
    if i = 63 then
      (match plainCheckLine (indexLine s f) (markOf s addr) with
      | .valid t (some e) => correctedAs (reservedRec addr) addr t e false s
      | _ => s)
    else match runAt s f i with
    | none => s
    | some (page, g) =>
      let d := descOf s page
      if quick (dSealed d) then s
      else
        let s := useCtx addr (dSealed d) (dKey d) (loadCtr page s)
        let k := readCheck s (dSealed d) (dKey d) (runPos (cMajor (ctrOf s page)) page g) addr st
        match k.1 with
        | .valid _ _ => noteCheck addr (lineOf page 0).toNat k.1 false s
        | _ => baleFail page (granuleLost page addr (readNow cls addr s))
  | _ => s

/-- A scrub read at idle stays within SCRUB_IDLE_BW, in MB/s (R152). -/
def scrubPaced (s : State) (ch : Nat) : Bool :=
  match (chan s ch).scrubLast with
  | none => dchParam s ch 13 ≠ 0
  | some t => dchParam s ch 13 ≠ 0 && 64000 ≤ (s.time.tide - t).toNat * dchParam s ch 13

/-- A line is scrubbed: the read and the work that it makes are in SCRUB_CLASS (R152, R234). -/
def scrubLine (ch addr : Nat) (s : State) : State :=
  settle (doWork (roleWork s 1) (scrubCheck (roleWork s 1).cls addr) (readNow (roleWork s 1).cls addr (evDch ch 15 s)))

/-- The next scrubbed line of a channel is read (R152); after the last a new lap starts. -/
def scrubNext (ch : Nat) (behind : Bool) (s : State) : State :=
  match nextScrub s ch with
  | none => modChan ch (fun c => { c with scrubPos := 0, scrubStart := s.time.tide, scrubMissed := false }) s
  | some x =>
    scrubLine ch x.2 (modChan ch (fun c => { c with scrubPos := x.1 + 1, scrubLast := if behind then c.scrubLast else some s.time.tide }) s)

/-- SCRUB_READ (R152): the next scrubbed line is read while the read queue holds fewer than 8 entries and SCRUB_IDLE_BW allows, or to keep
pace. -/
def execScrubRead (ch : Nat) (s : State) : Out :=
  let c := chan s ch
  let m := s.aon.mode
  if !chanRuns s ch || m = .holdup || m = .stall || m = .watch || m = .harnessing then .next s
  else
    let lap := dchParam s ch 12
    let past := (s.time.tide - c.scrubStart).toNat
    let behind := c.scrubPos * lap < past * (c.pop.gib * 2 ^ 24)
    let s := if lap ≤ past && !c.scrubMissed then
        logIt { cause := 0x19, src := epDch ch, loc := chanLoc ch false 0 0 0xF, args := wide past }
          (modChan ch (fun c => { c with scrubMissed := true }) s)
      else s
    .next (if (8 ≤ c.readQ.length || !scrubPaced s ch) && !behind then s else scrubNext ch behind s)

/-! ## Self-refresh (R158, R159) -/

/-- A channel enters self-refresh (Table 5.9). Lap time stands still until it leaves (R152): `scrubStart` holds the lap time so far. -/
def enterSelfRefresh (c : Nat) (s : State) : State :=
  if !chanRuns s c then s
  else
    let s := (chan s c).mitig.foldl (fun t m => mitigate c m.1 m.2 t) (drainWrites c s)
    let owed := ((chan s c).owed.map Prod.snd).foldl (· + ·) 0
    let ch := chan s c
    let save : ChSave := { valid := true, marks := ch.marks, scrubPos := ch.scrubPos, refPhase := ch.refPhase, phy := ch.phy }
    let s := setChan c { ch with readQ := [], readWait := [], openRows := [], rowTable := [], mitig := [], owed := [], raa := [],
                                 rfmDue := [], selfRefresh := true,
                                 scrubStart := s.time.tide - ch.scrubStart, drained := true, wdrain := ch.wdrain &&& 0xFFFFFFFE, drainOpp := false } s
    evAdd (0x500 + 32 * c + 8) owed (evDch c 20 { s with sec.chSave := sset {} s.sec.chSave c save })

/-- SELF_REFRESH_ENTRY (R158). -/
def execSelfRefreshEntry (ch : Nat) (s : State) : Out := .next (enterSelfRefresh ch s)

/-! ## Training (R129, R130, R160, R162) -/

/-- The highest rate that a population allows (R130, Table 5.2): 0 when none reaches 6,400 MT/s. -/
def rateFor (s : State) (p : Population) : Nat :=
  let limit := if p.dimms < 2 then 8800 else if p.cidBits = 0 then 8000 else 7200
  let cap := min (min p.maxRate limit) (param s 0x0D 4)
  (([8800, 8000, 7200, 6400] : List Nat).find? (fun r => r ≤ cap)).getD 0

/-- Identically populated (R129). -/
def samePop (a b : Population) : Bool :=
  a.dimms = b.dimms && a.rankBits = b.rankBits && a.cidBits = b.cidBits && a.gib = b.gib && a.rows = b.rows

/-- The DIMMs of Table 5.1, and no others: RDIMMs with ECC of x4 devices, the listed densities, modules of up to 256 GiB (R4, R128), in the
slots and pairs of R129. -/
def popListed (p : Population) : Bool :=
  p.spdOk && 0 < p.dimms && p.dimms ≤ 2 && p.module = 0 && p.ecc && p.devWidth = 4 &&
  (p.rows = 65536 || p.rows = 98304 || p.rows = 131072) && p.gib ≤ 256 * p.dimms && p.slot0 && (p.dimms < 2 || p.sameParts)

/-- The population can be trained: the set is not offline or excluded (R156), the DIMMs are listed, the channels of the set that are already
trained hold the same, and a rate is found. -/
def popTrains (s : State) (c : Nat) (p : Population) : Bool :=
  !(chan s c).offline && popListed p && rateFor s p ≠ 0 && (setOf s c).all (fun x => x = c || !(chan s x).trained || samePop (chan s x).pop p)

/-- The rate that a channel with a population runs at: the lowest of its set (R130). -/
def setRate (s : State) (c : Nat) (p : Population) : Nat :=
  ((((setOf s c).filter (fun x => x ≠ c && (chan s x).trained)).map (fun x => rateFor s (chan s x).pop)).min?).elim (rateFor s p)
    (min (rateFor s p))

/-- Every channel of a set runs at the lowest rate chosen for any of them. -/
def levelRates (c : Nat) (s : State) : State :=
  let on := (setOf s c).filter (fun x => (chan s x).trained)
  let r := ((on.map (fun x => rateFor s (chan s x).pop)).min?).getD 0
  on.foldl (fun t x => modChan x (fun ch => { ch with rate := BitVec.ofNat 16 r }) t) s

/-- Full training has succeeded (R160): new values, which the model leaves free, and a calibration record with the marks. -/
def endTraining (ch : Nat) (marks : SMap (BitVec 4)) (s : State) : State :=
  let (v, s) := draw 32 s
  let s := modChan ch (fun c => { c with trained := true, calRestored := false, marks := marks, phy := sset 0 c.phy 0 v }) s
  writeRecord ch (levelRates ch s)

/-- Full training has failed (R156, R157): the rank and the step of R160 at which it failed, which the model leaves free, are logged, and
the set goes offline. -/
def failTraining (ch : Nat) (s : State) : State :=
  let (r, s) := draw 2 s
  let (k, s) := draw 3 s
  goOffline ch 3 (logIt { cause := 0x17, src := epDch ch, loc := chanLoc ch false r.toNat 0 0xF, args := [k.toNat] } s)

/-- SELF_REFRESH_EXIT (R159): calibration is restored and the read patterns are checked; a failed check leads to full training,
and failed training takes the set offline. -/
def execSelfRefreshExit (ch : Nat) (patternOk trainOk : Bool) (s : State) : Out :=
  let c := chan s ch
  if !c.selfRefresh || c.offline then .next s
  else
    let v := sget {} s.sec.chSave ch
    let s := setChan ch { c with selfRefresh := false, drained := false, scrubStart := s.time.tide - c.scrubStart, marks := if v.valid then v.marks else c.marks,
                                 phy := if v.valid then v.phy else c.phy,
                                 scrubPos := if v.valid then v.scrubPos else c.scrubPos,
                                 refPhase := if v.valid then v.refPhase else c.refPhase } s
    if patternOk then .next s
    else .next (if trainOk then endTraining ch (chan s ch).marks s else settle (failTraining ch s))

/-- FULL_TRAINING (R160): trained values are found and a calibration record is written; a channel that fails goes offline with
its set, and a population that breaks R128 to R130 is excluded. Marks stay while the DIMM identity is the record's, or without a record that
of the DIMMs trained before (R150). -/
def execFullTraining (ch : Nat) (ok : Bool) (pop : Population) (s : State) : Out :=
  if numChans s ≤ ch || s.aon.mode = .stall || s.aon.mode = .watch then .next s
  else
    let was := chan s ch
    let s := modChan ch (fun c => { c with pop := pop }) s
    if (chan s ch).offline then .next s
    else if !popTrains s ch pop then .next (settle (excludeSet ch s))
    else if !ok then .next (settle (failTraining ch s))
    else
      let marks : SMap (BitVec 4) := match newestSlot s ch with
        | some (_, h) => if h.extractLsb' 24 48 = pop.id0 && h.extractLsb' 72 48 = pop.id1 then markOfRecord h else []
        | none => if was.pop.id0 = pop.id0 && was.pop.id1 = pop.id1 then was.marks else []
      .next (endTraining ch marks (modChan ch (fun c => { c with scrubStart := s.time.tide }) s))

/-- CAL_RECORD_RESTORE (R162): the newest valid record is used when it matches the channel and its checks pass. -/
def execCalRecordRestore (ch : Nat) (checksOk : Bool) (pop : Population) (s : State) : Out :=
  if numChans s ≤ ch || s.aon.mode ≠ .harnessing then .next s
  else
    let s := modChan ch (fun c => { c with pop := pop }) s
    if (chan s ch).offline then .next s
    else if !popTrains s ch pop then .next (settle (excludeSet ch s))
    else match newestSlot s ch with
      | none => .next s
      | some (i, h) =>
        if checksOk && fieldNat h 7 4 = ch && fieldNat h 23 8 = setRate s ch pop && h.extractLsb' 24 48 = pop.id0 &&
            h.extractLsb' 72 48 = pop.id1 then
          let s := modChan ch (fun c => { c with trained := true, calRestored := true, marks := markOfRecord h,
                                                 phy := sget [] s.nor.calBody i, scrubStart := s.time.tide }) s
          .next (levelRates ch s)
        else .next s

/-! ## Command slots (R136, R139) -/

/-- Entries of a channel's read or write queue that a class holds. -/
def chanClassHeld (s : State) (n : Nat) (writes : Bool) (c : BitVec 8) : Nat :=
  ((if writes then (chan s n).writeQ else (chan s n).readQ).filter (fun q => q.cls = c)).length

/-- The group of a request in the order of R241: classes below their share of the queue, then classes that are not lowered, then
lowered ones; an aged request is not lowered (R242). In the modes with caps there is one group (R247). -/
def dramGroup (s : State) (n : Nat) (writes : Bool) (q : DramReq) : Nat :=
  if regulates s && chanClassHeld s n writes q.cls < budgetOf s (instDch n) q.cls.toNat (if writes then 64 else 128) then 0
  else if classLowered s (instDch n) q.cls && !q.aged then 2 else 1

/-- The request with the least rank: its group, then the given slack, then arrival. -/
def leastOf (low : DramReq → Nat) (rank : DramReq → Int) : List DramReq → Option DramReq
  | [] => none
  | q :: r => match leastOf low rank r with
    | none => some q
    | some b =>
      if low q = low b then (if rank q ≤ rank b then some q else some b)
      else if low q < low b then some q else some b

/-- Slack of a request for the order of step 4: a request without a deadline comes after all others, and overdue requests are
alike (R232). -/
def dramSlack (t : Nat) (q : DramReq) : Int :=
  if q.overdue then -4194304
  else match q.due with
  | some d => max (-4194304) (slackTicks d t)
  | none => 2 ^ 30

/-- Remove the first request equal to `q`. -/
def dropReq (q : DramReq) (l : List DramReq) : List DramReq := l.erase q

/-- A column command: the read leaves its queue, or the write is stored, and the hint governs the row (R136). -/
def columnCmd (n : Nat) (q : DramReq) (isWrite : Bool) (s : State) : State :=
  let s := if isWrite then storeWrite n q s else evDch n 0 (countUse (instDch n) q.cls 1 (evDch n 4 s))
  let c := chan s n
  let c := if isWrite then { c with writeQ := dropReq q c.writeQ } else refillReads { c with readQ := dropReq q c.readQ }
  let r := (sget none c.openRows q.bank).getD {}
  let s := if 0 < r.hits then evDch n 7 s else s
  let keep := q.hint ≠ 1 || (c.readQ ++ c.writeQ).any (fun x => x.bank = q.bank && x.row = q.row)
  let row : Option OpenRow := if keep then some { row := q.row, hint := q.hint, hits := r.hits + 1, last := s.time.tide } else none
  setChan n { c with openRows := sset none c.openRows q.bank row } s

/-- Idle rows of a subchannel close (R136). -/
def idleClose (n : Nat) (sub : Bool) (s : State) : State :=
  let keep (e : Nat × Option OpenRow) : Bool := match e.2 with
    | none => false
    | some r =>
      let idle := (s.time.tide - r.last).toNat
      let lim := if r.hint = 0 then dchParam s n 3 else dchParam s n 4
      decide (e.1 / 2 ^ 4 % 2 = 1) != sub || decide (idle < lim)
  modChan n (fun c => { c with openRows := c.openRows.filter keep }) s

/-- Step 4 of R139: the row of the remaining request with the least slack is activated, or its bank precharged first. -/
def rowCmd (n : Nat) (q : DramReq) (s : State) : State :=
  match sget none (chan s n).openRows q.bank with
  | some _ => modChan n (closeRows (· = q.bank)) s
  | none =>
    let r : OpenRow := { row := q.row, hint := q.hint, hits := 0, last := s.time.tide }
    activate n q.bank q.row (modChan n (fun c => { c with openRows := sset none c.openRows q.bank (some r) }) s)

/-- What a channel counts in each controller clock (R448): the occupancies of its queues and throttled clocks. A clock has one command slot
of each subchannel. -/
def clockCounts (ch : Nat) (s : State) : State :=
  let c := chan s ch
  let s := evAdd (0x500 + 32 * ch + 22) c.writeQ.length (evAdd (0x500 + 32 * ch + 21) c.readQ.length s)
  if c.throttle = 0 then s else evDch ch 18 s

/-- DRAM_COMMAND_SLOT (R139): the first eligible command of a subchannel in the order of R139. -/
def execDramCommandSlot (ch : Nat) (sub : Bool) (s : State) : Out :=
  if !chanRuns s ch then .next s
  else
    let s := idleClose ch sub (if sub then s else clockCounts ch s)
    let c := chan s ch
    let t := tick s
    let subOf (bank : Nat) : Bool := bank / 2 ^ 4 % 2 = 1
    match c.owed.find? (fun e => 4 ≤ e.2 && (e.1 / 128 = 1) = sub) with
    | some e => .next (issueRefresh ch e.1 1 (evDch ch 1 s))
    | none => match c.mitig.find? (fun m => subOf m.1 = sub) with
      | some m => .next (mitigate ch m.1 m.2 (evDch ch 1 (modChan ch (fun c => { c with mitig := c.mitig.erase m }) s)))
      | none => match c.rfmDue.find? (fun b => subOf b = sub) with
      | some b => .next (issueRfm ch b (evDch ch 1 s))
      | none =>
        let reads := c.readQ.filter (fun q => q.sub = sub)
        let none' := if reads.isEmpty && !c.writeQ.any (fun q => q.sub = sub) then evDch ch 2 s else evDch ch 3 s
        if c.throttle = 0xF || (regulates s && scaleOf s (instDch ch) = 0) then .next none'
        else
          let writes := if draining c then c.writeQ.filter (fun q => q.sub = sub) else []
          let low := dramGroup s ch false
          let lowP := dramGroup s ch (draining c)
          let urgent (q : DramReq) : Bool := rowOpen c q && dramSlack t q * 16 ≤ dchParam s ch 0
          match leastOf low (dramSlack t) (reads.filter urgent) with
          | some q => .next (columnCmd ch q false (evDch ch 17 s))
          | none =>
            let pool := if draining c then writes else reads
            match leastOf lowP (dramSlack t) (pool.filter urgent) with
            | some q => .next (columnCmd ch q (draining c) (evDch ch 17 s))
            | none => match leastOf lowP (fun _ => 0) (pool.filter (fun q => rowOpen c q && !capped' s ch q)) with
              | some q => .next (columnCmd ch q (draining c) s)
              | none => match leastOf lowP (dramSlack t) (pool.filter (fun q => !rowOpen c q)) with
                | some q => .next (rowCmd ch q (evDch ch 1 s))
                | none => .next none'

end Sys2Proof.Machine
end

