-- ==== Sys2Proof/Machine/Reins.lean ====
section
/-! DEFINITION. Regulation: the start of a budget window (R239, R244 to R246), the age limit (R242), the overdue limit (R232)
and the release of held requests (R247). -/

namespace Sys2Proof.Machine

open Sys2Proof

/-- Keep the cause with the lower SCALE; on a tie the lower row stands. -/
def lowerScale (a b : Nat × Nat) : Nat × Nat := if b.1 < a.1 then b else a

/-- SCALE of an instance under Table 8.4, with the row that gives it (0: none). -/
def scaleNow (s : State) (i : Nat) : Nat × Nat :=
  match instRes i with
  | 1 =>
    let c := chan s (i - 16)
    let n := c.throttle.toNat
    let l := (if 1 ≤ n && n ≤ 14 then [(1024 / 2 ^ n, 1)] else []) ++ (if c.aboveLimit then [(0, 2)] else []) ++
      (if c.offline then [(0, 3)] else []) ++ (if s.reins.bridging then [(param s 0x08 2, 4)] else [])
    l.foldl lowerScale (1024, 0)
  | 2 =>
    let l := (tilesOf s ((i - 32) / 3) ((i - 32) % 3))
    let up := l.filter (fun t => !(domOf s t).fault)
    if l.isEmpty then (1024, 0) else lowerScale (1024, 0) (1024 * up.length / l.length, 6)
  | 3 =>
    let n := sget 0 s.led.satSsd (i - 38)
    let up := (ssdIndices s).filter (fun k => peOf s k = i - 38 && (ssdOf s k).present && !(ssdOf s k).failed && !(ssdOf s k).rejected)
    if n = 0 then (1024, 0) else lowerScale (1024, 0) (1024 * up.length / n, 5)
  | _ => (1024, 0)

/-- The class records that replaced ones bring in (R237): a section that is absent takes the records of Table 8.2 first. -/
def takeRecords (s : State) : State :=
  if s.reins.newRec.isEmpty then s
  else
    let old := sectionRecs s 4
    let base := if old.isEmpty then (List.range 256).map (classRec s) else old
    let new := s.reins.newRec.foldl (fun l e => match e.2 with | some r => l.set e.1 r | none => l) base
    { s with cfg := sset [] s.cfg 4 new, reins.newRec := [] }

/-- The classes that were lowered anywhere in the window that ends: by usage, by the dirty-ceiling rule, by QUAY lines. -/
def loweredClasses (s : State) : List Nat :=
  if !regulates s then []
  else (List.range 256).filter (fun c => !ledgerSpared s c &&
    (sget false s.reins.anyLow c || dirtyLowered s c ||
     (List.range (numBanks s)).any (fun b => quayBudget s b c < quayUse s b (BitVec.ofNat 8 c))))

/-- SCALE of every instance at a window start, and the standing OVERSUBSCRIBED event (R244, R245). -/
def takeScales (s : State) : State :=
  let l := (instances s).map (fun i => (i, scaleNow s i))
  let s := { s with reins.scale := l.foldl (fun m e => sset 0 m e.1 (1024 - e.2.1)) s.reins.scale,
                    reins.scaleWhy := l.foldl (fun m e => sset 0 m e.1 e.2.2) s.reins.scaleWhy }
  let above := (instances s).filter (fun i => scaleOf s i < resSum s (instRes i))
  let mask : BitVec 40 := above.foldl (fun m i => m ||| place 40 i (1 : BitVec 1)) 0
  if s.reins.standing then
    if above.isEmpty then
      logIt { cause := 0x31, args := [(s.time.tide - s.reins.overSince).toNat / 1000000] }
        { s with reins.standing := false, reins.overMask := 0 }
    else { s with reins.overMask := s.reins.overMask ||| mask }
  else match above with
    | [] => s
    | i :: _ =>
      if s.aon.mode = .service || s.aon.mode = .drain then
        logIt { cause := 0x30, args := [instRes i + 1, i, scaleOf s i, resSum s (instRes i), sget 0 s.reins.scaleWhy i] }
          { s with reins.standing := true, reins.overMask := mask, reins.overSince := s.time.tide }
      else s

/-- BUDGET_WINDOW_START (R237, R239, R244 to R246, R249): usage returns to 0, replaced class records and changed scales take
effect, D is compared with DIRTY_SOFT × C, and what may be granted now is. -/
def execBudgetWindowStart (s : State) : Out :=
  let s := (loweredClasses s).foldl (fun t c => classEv (BitVec.ofNat 8 c) 3 1 t) s
  let s := takeScales (takeRecords { s with reins.window := none, reins.usage := [], reins.lowered := [], reins.anyLow := [] })
  let soft := param s 0x07 7 * s.led.c ≤ dirtyPages s * 10000
  let m := s.aon.mode
  .next (settle { s with reins.on := m = .service || m = .drain || m = .holdup, reins.softHeld := soft, reins.dirtyPrev := s.reins.dirtying, reins.dirtying := [] })

/-- The DRAM reads that wait for a line get a mark. -/
def markReads (line : Nat) (f : DramReq → DramReq) (s : State) : State :=
  (s.dram.reads.filter (fun r => r.line = line)).foldl (fun t r => match coord t r.addr with
    | some c => modChan c.ch (fun ch => { ch with readQ := ch.readQ.map (fun q => if q.addr = r.addr then f q else q) }) t
    | none => t) s

/-- Mark the first element that a test accepts. -/
def markFirst {α : Type} (p : α → Bool) (f : α → α) : List α → List α
  | [] => []
  | x :: r => if p x then f x :: r else x :: markFirst p f r

/-- Work of the device's own has waited AGE_LIMIT (R242, R455; DESIGN CHOICE, log entry 109): TAG 0 names the oldest waiting write of each
channel, any other TAG the reservation requests of the source endpoint with that number. -/
def ageOwn (tag : Tag) (s : State) : State :=
  if tag = 0 then
    { s with dram.ch := s.dram.ch.map (fun e => (e.1, { e.2 with
        writeQ := markFirst (fun q => !q.aged) (fun q => { q with aged := true }) e.2.writeQ })) }
  else { s with noc.waiting := s.noc.waiting.map (fun q => if q.src = tag.toNat then { q with aged := true } else q) }

/-- AGE_LIMIT_EXPIRY (R242): a request that has waited AGE_LIMIT in a queue is ordered as if its class were not lowered. -/
def execAgeLimitExpiry (src : Node) (tag : Tag) (s : State) : Out :=
  let aged (w : Waiter) : Waiter := if w.req.src = src && w.req.tag = tag then { w with aged := true } else w
  let s := { s with reins.waiters := s.reins.waiters.map aged, quay.busy := s.quay.busy.map aged }
  let s := if src = nodeId s then ageOwn tag s else s
  match s.quay.txns.find? (fun t => t.req.src = src && t.req.tag = tag) with
  | some t => .next (markReads t.line (fun q => { q with aged := true }) s)
  | none => .next s

/-- The reservation requests of a source endpoint reach the overdue limit (R232; DESIGN CHOICE, log entry 109): each is counted once. -/
def overdueOwn (tag : Tag) (s : State) : State :=
  let due (q : RsvReq) : Bool := q.src = tag.toNat && q.due.isSome && !q.overdue
  (s.noc.waiting.filter due).foldl (fun t q => classEv q.cls 2 1 t)
    { s with noc.waiting := s.noc.waiting.map (fun q => if due q then { q with overdue := true } else q) }

/-- OVERDUE_LIMIT_REACHED (R232, R249): a request with a deadline ranks as overdue and is counted once. -/
def execOverdueLimitReached (src : Node) (tag : Tag) (s : State) : Out :=
  let s := if src = nodeId s then overdueOwn tag s else s
  let due (w : Waiter) : Bool := w.req.src = src && w.req.tag = tag && w.due.isSome && !w.overdue
  let mark (w : Waiter) : Waiter := if due w then { w with overdue := true } else w
  match (s.reins.waiters ++ s.quay.busy ++ s.reins.hold.flatMap Prod.snd).find? due with
  | some w =>
    .next (classEv w.req.cls 2 1 { s with reins.waiters := s.reins.waiters.map mark, quay.busy := s.quay.busy.map mark,
                                          reins.hold := s.reins.hold.map (fun h => (h.1, h.2.map mark)) })
  | none =>
    match s.quay.txns.find? (fun t => t.req.src = src && t.req.tag = tag && t.due.isSome && !t.overdue) with
    | some t => .next (classEv t.req.cls 2 1 (markReads t.line (fun q => { q with overdue := true })
        (modTxn t.line (fun t => { t with overdue := true }) s)))
    | none => .next s

/-- A held request leaves the hold buffer: in Maintenance it completes with ERR_NODATA (R390). -/
def releaseHeld (w : Waiter) (s : State) : State :=
  if s.aon.mode = .maintenance then endErr w.req w.due (sendErr w.req 2 s) else settle (admitReq w s)

/-- CAP_HOLD_RELEASE (R247): a class below its OUT_CAP has its oldest held request of a port released. In Harnessing and
Recovery every class stands as at its cap (R389). -/
def execCapHoldRelease (port : Nat) (cls : BitVec 8) (s : State) : Out :=
  let m := s.aon.mode
  let l := sget [] s.reins.hold port
  if !(m = .maintenance || m = .service || m = .drain) || !capRoom s cls then .next s
  else match l.findIdx? (fun w => w.req.cls = cls) with
    | none => .next s
    | some i => match l[i]? with
      | none => .next s
      | some w => .next (releaseHeld w { s with reins.hold := sset [] s.reins.hold port (l.eraseIdx i) })

/-- Every held request of a port is released in arrival order (R247). -/
def releasePort (s : State) (p : Nat) : State :=
  (sget [] s.reins.hold p).foldl (fun t w => releaseHeld w t) { s with reins.hold := sset [] s.reins.hold p [] }

end Sys2Proof.Machine
end

