-- ==== Sys2Proof/Machine/Link.lean ====
section
/-! DEFINITION. The Akfatur link of each port (R251 to R294): training, the link-layer state, flits, replay, credits, width
changes, low-power states, and the loss of a link in Direct and in Fabric topology. -/

namespace Sys2Proof.Machine

open Sys2Proof

/-! ## Parameters and training sets (Tables 9.3, 9.5, 9.11) -/

/-- A parameter of Table 9.11 of a port. One that a patch has changed keeps its old value until the port trains from DETECT (R381). -/
def aflParam (s : State) (p i : Nat) : Nat :=
  let q := portOf s p
  let new := paramAt s 0x09 i p
  if q.st = .off || q.st = .detect then new else (sget none q.latch i).getD new
/-- A training set is accepted only when its CRC matches (R258). -/
def tsValid (t : BitVec 256) : Bool := crc16 (bytesOf t 30) = t.extractLsb' 240 16
/-- A lane with inverted polarity: TS_TYPE reads as 0xB4 or 0xD2 (R255, R258). -/
def tsNorm (t : BitVec 256) : BitVec 256 := if t.extractLsb' 0 8 = (0xB4 : BitVec 8) || t.extractLsb' 0 8 = (0xD2 : BitVec 8) then ~~~t else t
def tsLane (t : BitVec 256) : Nat := fieldNat t 15 8
def tsVerMax (t : BitVec 256) : Nat := fieldNat t 17 16
def tsVerSel (t : BitVec 256) : Nat := fieldNat t 19 18
def tsFeatures (t : BitVec 256) : BitVec 4 := t.extractLsb' 20 4
def tsDirect (t : BitVec 256) : Bool := t.getLsbD 43
def tsRates (t : BitVec 256) : Nat := fieldNat t 46 44
def tsWidths (t : BitVec 256) : Nat := fieldNat t 52 48
def tsWidthSel (t : BitVec 256) : Nat := fieldNat t 55 53
def tsGroup (t : BitVec 256) : Nat := fieldNat t 59 56
def tsRateSel (t : BitVec 256) : Nat := fieldNat t 61 60
def tsSession (t : BitVec 256) : BitVec 16 := t.extractLsb' 64 16
def tsRxAck (t : BitVec 256) : BitVec 12 := t.extractLsb' 80 12
def tsPeerSession (t : BitVec 256) : BitVec 16 := t.extractLsb' 92 16
def tsReqCredits (t : BitVec 256) : BitVec 12 := t.extractLsb' 116 12
def tsRspCredits (t : BitVec 256) : BitVec 12 := t.extractLsb' 128 12
def tsPreset (t : BitVec 256) : Nat := fieldNat t 142 140
def tsEqReq (t : BitVec 256) : Nat := fieldNat t 149 144
def tsEqDone (t : BitVec 256) : Bool := t.getLsbD 150
def tsLaneOk (t : BitVec 256) : BitVec 16 := t.extractLsb' 152 16

/-- The features that the device advertises (R260): LANE_SHED only when WIDTH_MODE is in-band. -/
def myFeatures (s : State) (p : Nat) : BitVec 4 := if aflParam s p 4 = 0 then 0xF else 0xB
/-- The features that a version permits (Table 9.5). -/
def verFeatures (v : Nat) : BitVec 4 := if v = 0 then 0x8 else if v = 1 then 0xB else 0xF
/-- The selected version (R260). -/
def selVersion (s : State) (p : Nat) (t : BitVec 256) : Nat := min (min 2 (tsVerMax t)) (aflParam s p 1)
/-- The negotiated features (R260). -/
def selFeatures (s : State) (p : Nat) (t : BitVec 256) : BitVec 4 := myFeatures s p &&& tsFeatures t &&& verFeatures (selVersion s p t)
/-- The selected rate (R261); none when no rate is shared. -/
def selRate (s : State) (p : Nat) (t : BitVec 256) : Option Nat :=
  ([2, 1, 0] : List Nat).find? (fun r => r ≤ aflParam s p 2 && (r < 2 || selVersion s p t = 2) && tsRates t / 2 ^ r % 2 = 1)
/-- The lanes that the device reports in LANE_OK. -/
def laneOk (q : Port) : BitVec 16 := q.detected &&& ~~~q.laneFail
/-- The width cap of the device on a port, as a width code (R279). -/
def widthCap (s : State) (p : Nat) : Nat := min (portOf s p).cap.toNat (aflParam s p 3)
/-- The lowest aligned group of 2^w lanes that are all set (R261). -/
def laneGroup (ok : BitVec 16) (w : Nat) : Option Nat :=
  ((List.range (16 / 2 ^ w)).map (· * 2 ^ w)).find? (fun g => (List.range (2 ^ w)).all (fun i => ok.getLsbD (g + i)))
/-- The selected width and group (R261): the largest width in both WIDTHS fields, at most `cap`, with a good group. -/
def selWidth (cap widths : Nat) (ok : BitVec 16) : Option (Nat × Nat) :=
  ([4, 3, 2, 1, 0] : List Nat).findSome? (fun w =>
    if w ≤ cap && widths / 2 ^ w % 2 = 1 then (laneGroup ok w).map (fun g => (w, g)) else none)
/-- The width and group of a port with its partner's training set. -/
def portWidth (s : State) (p : Nat) (t : BitVec 256) : Option (Nat × Nat) :=
  selWidth (widthCap s p) (tsWidths t) (laneOk (portOf s p) &&& tsLaneOk t)

/-- The first condition of R263 under which the device rejects a partner, by its position; 0 accepts. -/
def rejectReason (s : State) (p : Nat) (t : BitVec 256) : Nat :=
  let n : Node := t.extractLsb' 24 17
  let role := fieldNat t 42 41
  let want := aflParam s p 5
  let bad (c : BitVec 12) : Bool := c.toNat < 64 || 2048 < c.toNat
  if tsVerMax t = 3 || role = 3 then 1
  else if n = nodeId s then 2
  else if 2 ^ 17 ≤ want && want % 2 ^ 17 ≠ n.toNat then 3
  else if direct s && role = 2 then 4
  else if tsDirect t ≠ direct s then 5
  else if direct s && !(tsFeatures t).getLsbD 3 then 6
  else if bad (tsReqCredits t) || bad (tsRspCredits t) then 7
  else if (selRate s p t).isNone || (portWidth s p t).isNone then 8
  else 0

/-- The mode sequencer permits transmission (Table 14.1; R286: not from Table 7.10 step 6, nor from step 3 of Drain). -/
def txPermitted (s : State) : Bool :=
  s.aon.mode ≠ .stall && s.aon.mode ≠ .watch && !(s.aon.mode = .drain && s.aon.drainClosing) &&
  !(s.aon.mode = .holdup && 6 ≤ s.led.hStep)
/-- A port that the variant has, that is enabled and whose reference clock runs. -/
def portEnabled (s : State) (p : Nat) : Bool :=
  p < numPorts s && aflParam s p 0 ≠ 0 && !(portOf s p).disable && !(portOf s p).refLost

/-! ## Transmit coefficients (R256, R257) -/

/-- Coefficients c(-2), c(-1), c(+1) of a preset as signed bytes (Table 9.2). -/
def presetCoef (n : Nat) : BitVec 32 :=
  let (a, b, c) : Int × Int × Int := match n with
    | 0 => (0, 0, 0) | 1 => (0, -4, 0) | 2 => (0, -8, 0) | 3 => (0, 0, -8)
    | 4 => (0, -4, -8) | 5 => (0, -8, -8) | 6 => (-2, -8, -8) | _ => (-4, -10, -10)
  place 32 0 (BitVec.ofInt 8 a) ||| place 32 8 (BitVec.ofInt 8 b) ||| place 32 16 (BitVec.ofInt 8 c)
/-- The magnitude of c(0): 64 less the others. -/
def mainTap (c : BitVec 32) : Int :=
  64 - ((c.extractLsb' 0 8).toInt.natAbs + (c.extractLsb' 8 8).toInt.natAbs + (c.extractLsb' 16 8).toInt.natAbs : Nat)
/-- Apply one step request (0b01 increase, 0b10 decrease); a step that would break R256 is ignored. -/
def stepCoef (c : BitVec 32) (k req : Nat) : BitVec 32 :=
  let v := (c.extractLsb' (8 * k) 8).toInt
  let w := if req = 1 then v + 1 else if req = 2 then v - 1 else v
  let d := setField c (8 * k) (BitVec.ofInt 8 w)
  if mainTap d < 32 then c else d
/-- Apply the EQ_REQ of a training set. -/
def applyEq (c : BitVec 32) (req : Nat) : BitVec 32 :=
  stepCoef (stepCoef (stepCoef c 0 (req % 4)) 1 (req / 4 % 4)) 2 (req / 16 % 4)
/-- Enter EQ: each lane starts from the preset that the partner asks (R256). -/
def startEq (q : Port) (rate : Nat) : Port :=
  { q with st := .eq, rate := BitVec.ofNat 2 rate, eqDone := 0, myDone := 0,
           coef := (List.range 16).foldl (fun m l => sset 0 m l (presetCoef (tsPreset q.partner))) q.coef }

/-! ## The training set that the device sends (R258, Table 9.3) -/

/-- A new link-layer state's SESSION is never 0 (R258). -/
def nextSession (p : Nat) (q : Port) : BitVec 16 := if Config.linkSession p q.sessN = 0 then 1 else Config.linkSession p q.sessN
/-- The port holds a link-layer state, and its partner, where it has been heard, holds the same session (R276, R288, R289). -/
def holdsSession (q : Port) : Bool :=
  (!q.lossTrain || q.held) && (!q.tsGot || (tsPeerSession q.partner = q.session && tsSession q.partner = q.peerSession))
/-- The device's node ID is the higher one: it leads, and it sends the selections (R261, R282). -/
def leads (s : State) (p : Nat) : Bool := (partnerNode (portOf s p)).toNat < (nodeId s).toNat
/-- VER_SEL, RATE_SEL, WIDTH_SEL and GROUP of a TS2 (R261): the device's own when its node ID is the higher, else the partner's. -/
def tsSel (s : State) (p : Nat) : BitVec 256 :=
  let t := (portOf s p).partner
  if leads s p then
    let (w, g) := (portWidth s p t).getD (0, 0)
    place 256 18 (BitVec.ofNat 2 (selVersion s p t)) ||| place 256 53 (BitVec.ofNat 3 w) ||| place 256 56 (BitVec.ofNat 4 g) |||
    place 256 60 (BitVec.ofNat 2 ((selRate s p t).getD 0))
  else t &&& (place 256 18 (0x3 : BitVec 2) ||| place 256 53 (0x7F : BitVec 7) ||| place 256 60 (0x3 : BitVec 2))
/-- A training set of the device on one of its lanes (Table 9.3). -/
def ownTs (s : State) (p lane : Nat) (ts2 : Bool) : BitVec 256 :=
  let q := portOf s p
  let held := holdsSession q
  let rx := Config.rxAdapt p lane s.time.tide
  let body : BitVec 256 :=
    place 256 0 (if ts2 then (0x2D : BitVec 8) else 0x4B) ||| place 256 8 (BitVec.ofNat 8 lane) ||| place 256 16 (2 : BitVec 2) |||
    (if ts2 then tsSel s p else 0) ||| place 256 20 (myFeatures s p) ||| place 256 24 (nodeId s) ||| place 256 43 (bit1 (direct s)) |||
    place 256 44 (BitVec.ofNat 3 (2 ^ (aflParam s p 2 + 1) - 1)) ||| place 256 48 (BitVec.ofNat 5 (2 ^ (widthCap s p + 1) - 1)) |||
    place 256 64 (if held then q.session else nextSession p q) ||| place 256 80 (if held then q.ack else 0xFFF) |||
    place 256 92 (if held then q.peerSession else 0) ||| place 256 108 s.aon.homeEpoch |||
    place 256 116 (1536 : BitVec 12) ||| place 256 128 (2048 : BitVec 12) ||| place 256 140 (rx.extractLsb' 6 3) |||
    (if q.st = .eq && !q.myDone.getLsbD lane then place 256 144 (rx.extractLsb' 0 6) else 0) |||
    place 256 150 (bit1 (q.myDone.getLsbD lane)) ||| place 256 152 (laneOk q)
  body ||| place 256 240 (crc16 (bytesOf body 30))

/-! ## Lanes and scrambling (R252, R253) -/

/-- The partner's lane that a receive lane carries once reversal is corrected (R255). -/
def trueLane (q : Port) (lane : Nat) : Nat := if q.laneRev = some true then 15 - lane else lane
/-- The port as its transmitter sees it: on the target group once it has moved (R281). -/
def txSide (q : Port) : Port :=
  match q.txTo with
  | some (w, g) => { q with width := w, group := g }
  | none => q

/-- Eight steps of the generator x^31 + x^28 + 1 (R253; DESIGN CHOICE, log entry 112): bit 0 leaves first. The byte that the steps give,
least significant bit first, is the low byte of the generator before them. -/
def scramStep (g : BitVec 31) : BitVec 31 := (g >>> 8) ||| place 31 23 ((g ^^^ (g >>> 3)).extractLsb' 0 8)
/-- The seed of a lane (R253). -/
def laneSeed (lane : Nat) : BitVec 31 := BitVec.ofNat 31 ((lane + 1) * 0x01010101)
/-- Lanes of the port's group, in order. -/
def groupLanes (q : Port) : List Nat := (List.range (2 ^ (min 4 q.width.toNat))).map (q.group.toNat + ·)
/-- The generators of every lane of a port's group, loaded with their seeds. -/
def seeded (q : Port) : SMap (BitVec 31) := (groupLanes q).foldl (fun m l => sset 0 m l (laneSeed l)) []
/-- The generators of both directions are loaded (R253): after a TS2 exchange and after a width switch. -/
def loadScr (q : Port) : Port := { q with txScr := seeded q, rxScr := seeded q }
/-- `n` bytes of a lane's sequence, and the generator after them. -/
def laneBytes : Nat → BitVec 31 → List Byte × BitVec 31
  | 0, g => ([], g)
  | n + 1, g => let (l, g') := laneBytes n (scramStep g); (g.extractLsb' 0 8 :: l, g')
/-- The sequence that one flit meets on its lanes: byte i of the flit is on lane G + (⌊i / 4⌋ mod w), and each lane sends its bytes in
ascending i (R252, R253). -/
def flitKey (q : Port) (m : SMap (BitVec 31)) : BitVec 2048 :=
  let w := 2 ^ (min 4 q.width.toNat)
  let seqs := (groupLanes q).map (fun l => (laneBytes (256 / w) (sget 0 m l)).1)
  (List.range 256).foldl (fun f i => f ||| place 2048 (8 * i) ((seqs.getD (i / 4 % w) []).getD (i / (4 * w) * 4 + i % 4) 0)) 0
/-- The generators after a flit. -/
def scrNext (q : Port) (m : SMap (BitVec 31)) : SMap (BitVec 31) :=
  (groupLanes q).foldl (fun m l => sset 0 m l (laneBytes (256 / 2 ^ (min 4 q.width.toNat)) (sget 0 m l)).2) m
/-- A flit as the lanes bring it, descrambled (R253). -/
def fromLanes (q : Port) (f : BitVec 2048) : BitVec 2048 := f ^^^ flitKey q q.rxScr

/-- The link header fields that every flit carries from the port's current state (R266, R271): ACK, NAK, credits and the link
management command, an answer first. A proposal whose W_ACCEPT is held is not repeated (R280). -/
def hdrNow (q : Port) : BitVec 2048 :=
  let m : Lmc := match q.answer with
    | some m => m
    | none => match q.lmc with
      | some m => if m.op = 4 || q.accepted then {} else m
      | none => {}
  place 2048 16 q.ack ||| place 2048 28 (bit1 q.nak) ||| place 2048 32 q.myReq ||| place 2048 44 q.myRsp |||
  place 2048 84 m.op ||| place 2048 88 m.id ||| place 2048 96 m.arg
/-- A flit leaves on the lanes of a port: header, CRC, FEC and scrambling (R252, R253, R266, R267). -/
def transmit (body : BitVec 2048) (q : Port) : Port :=
  { q with txLine := flitEncode (body ||| hdrNow q) ^^^ flitKey (txSide q) q.txScr, txScr := scrNext (txSide q) q.txScr }

/-! ## Link-layer state (R262, R276) -/

/-- A link management exchange and a width change are abandoned (Table 9.10). -/
def dropExchange (q : Port) : Port :=
  { q with lmc := none, lmcAccepted := none, answer := none, txSwitch := false, rxSwitch := false, locked := 0, accepted := false,
           txTo := none, rxTo := none }

/-- A new link-layer state (R262): SEQ 0, ACK 0xFFF, an empty replay buffer and the advertised credits. The latency tolerance
of the old session is dropped (R312). -/
def freshLink (p : Nat) (q : Port) : Port :=
  { dropExchange q with
    seq := 0, expect := 0, ack := 0xFFF, nak := false, nakSeen := none, replay := [], replays := 0, rx := [], egress := [],
    rxAt := [], advReq := tsReqCredits q.partner, advRsp := tsRspCredits q.partner, sentReq := 0, sentRsp := 0, freedReq := 0,
    freedRsp := 0, myReq := 0, myRsp := 0, partSlots := 0, partHdr := 0, partData := [], txDone := 0,
    session := nextSession p q, peerSession := tsSession q.partner, lmcSeen := none, latTol := none,
    peerNode := partnerNode q, held := false, resumed := false, badRun := 0 }

/-- Drop the flits that an ACK acknowledges; ACK has then advanced (R271, R273). -/
def acked (a : BitVec 12) (q : Port) : Port :=
  match q.replay.findIdx? (fun f => f.seq = a) with
  | some i => { q with replay := q.replay.drop (i + 1), replays := 0, nakSeen := none }
  | none => q

/-- Every unacknowledged flit is sent again in SEQ order (R273), with an IDLE flit between where 2,047 have gone without one (R254). -/
def resend (p : Nat) (s : State) : State :=
  let q := portOf s p
  let n := q.replay.length
  if n = 0 then s
  else
    let idle : Nat := if 2047 < q.sinceIdle + n then 1 else 0
    let s := evAdd (0x900 + 32 * p + 4) (n + idle) (evAdd (0x900 + 32 * p + 1) (14 * n) s)
    let s := evAdd (0x900 + 32 * p + 22) idle (evAdd (0x900 + 32 * p + 3) (14 * idle) s)
    let s := modPort p (fun q => q.replay.foldl (fun q f =>
      let q := if 2047 ≤ q.sinceIdle then transmit (place 2048 4 f.seq) { q with sinceIdle := 0 } else q
      transmit f.body { q with sinceIdle := q.sinceIdle + 1 }) q) s
    if q.nak then evAdd (0x900 + 32 * p + 9) (n + idle) s else s

/-- 8 consecutive IDLE flits, the k-th with a link management command (R280, R283, R286). -/
def idleBurst (p : Nat) (m : Nat → Option Lmc) (s : State) : State :=
  let s := evAdd (0x900 + 32 * p + 22) 8 (evAdd (0x900 + 32 * p + 4) 8 s)
  modPort p (fun q =>
    let sent := (List.range 8).foldl (fun q k => transmit (place 2048 4 q.seq) { q with answer := (m k).or q.answer }) q
    { sent with answer := q.answer, sinceIdle := 0 }) s

/-- The device sends LINK_OFF on a link that runs: 8 consecutive flits, with the power-loss argument 0 or the port-disabled argument 1
(R280, R286, Table 9.9). -/
def sendLinkOff (p : Nat) (arg : BitVec 16) (s : State) : State :=
  if (portOf s p).st = .active && (portOf s p).lp = 0 then idleBurst p (fun _ => some { op := 8, id := (portOf s p).lmcNext, arg := arg }) s else s

/-! ## The end of a session, and the loss of a link (R285 to R291) -/

/-- Snoops outstanding through a port, by node and tag. -/
def portSnoops (s : State) (p : Nat) : List (Node × Tag) :=
  s.quay.txns.flatMap (fun t => (t.snoops.filter (fun o => portTo s o.node = p)).map (fun o => (o.node, o.tag)))
/-- Grants whose CMP_ACK is awaited from nodes routed through a port. -/
def portGrants (s : State) (p : Nat) : List (Node × Tag) :=
  (s.quay.txns.filter (fun t => t.phase = .ack && portTo s t.req.src = p)).map (fun t => (t.req.src, t.req.tag))
/-- Requests that the device has outstanding through a port. -/
def portReqs (s : State) (p : Nat) : List DevReq := s.quay.devReqs.filter (fun d => d.status.isNone && portTo s d.dst = p)

/-- A request of the device completes with ERR_NODATA and SYNTHETIC; its tag rests for TAG_QUIET (R290 to R292). -/
def synthetic (p : Nat) (d : DevReq) (s : State) : State :=
  let s := { s with quay.quiet := if s.quay.quiet.contains (d.dst, d.tag) then s.quay.quiet else s.quay.quiet ++ [(d.dst, d.tag)] }
  let notice : Bool := d.op = 0x40 || d.op = 0x41
  let s := { s with quay.devReqs := if notice then s.quay.devReqs.filter (fun x => !(x.dst = d.dst && x.tag = d.tag))
    else s.quay.devReqs.map (fun x => if x.dst = d.dst && x.tag = d.tag && x.status.isNone then { x with status := some 2 } else x) }
  let s := if notice then setRemote d.dst d.line {} s else s
  evAfl p 17 s

/-- R290: the state held for a partner is settled: its snoops are issued again, its CMP_ACKs count as received, and the other
requests complete synthetically. -/
def settleHeld (p : Nat) (s : State) : State :=
  let snoops := portSnoops s p
  let grants := portGrants s p
  let reqs := portReqs s p
  let s := modPort p (fun q => { q with egress := [], replay := [], txDone := 0 }) s
  let s := grants.foldl (fun t g => ackGrant g.1 g.2 t) s
  let s := reqs.foldl (fun t d => synthetic p d t) s
  let s := snoops.foldl (fun t n => match t.quay.txns.find? (fun x => x.snoops.any (fun o => o.node = n.1 && o.tag = n.2)) with
    | none => t
    | some x => match x.snoops.find? (fun o => o.node = n.1 && o.tag = n.2) with
      | none => t
      | some o => sendPkt p (snoopPkt t x (snoopLine x) n.1 o.kind n.2) t) s
  settle s

/-- The copies that the device holds of lines whose home it reaches through a port are dropped, without a notice (R185), and responses
lost with the port count for no deadline. -/
def dropCopies (p : Nat) (s : State) : State :=
  { s with quay.remote := s.quay.remote.filter (fun e => portTo s (BitVec.ofNat 17 (e.1 / 2 ^ 39)) ≠ p),
           reins.ends := s.reins.ends.filter (fun e => portTo s e.1.1 ≠ p) }

/-- R291: in Fabric topology a lost link keeps nothing. -/
def dropAll (p : Nat) (s : State) : State :=
  let snoops := portSnoops s p
  let grants := portGrants s p
  let reqs := portReqs s p
  let s := modPort p (fun q => { dropExchange q with egress := [], replay := [], txDone := 0, partSlots := 0, partHdr := 0,
                                                     partData := [], latTol := none, held := false }) s
  let s := dropCopies p (reqs.foldl (fun t d => synthetic p d t) s)
  let s := snoops.foldl (fun t n => evAfl p 17 (snoopFails n.1 n.2 false t)) s
  let s := grants.foldl (fun t g => ackGrant g.1 g.2 t) s
  settle s

/-- LINK_DOWN is logged with the transactions outstanding with the partner (Table 9.12). -/
def logDown (p reason : Nat) (s : State) : State :=
  logIt { cause := 0x41, src := epAfl p, args := [p, reason, if direct s then 1 else 2,
    (portSnoops s p).length + (portReqs s p).length] } s

/-- The link is lost without LINK_OFF (R285, R288, R291): the port trains again from DETECT, and in Direct topology it holds its
state. -/
def linkLost (p reason : Nat) (s : State) : State :=
  let s := logDown p reason s
  let down (q : Port) : Port := { dropExchange q with st := .detect, lp := 0, exiting := false, lossTrain := true, tsRun := [],
                                                      detected := 0, eqDone := 0, myDone := 0, tsGot := false, txTs := [],
                                                      resumed := false, lossTide := s.time.tide }
  if direct s then modPort p (fun q => { down q with held := true }) s
  else dropAll p (modPort p down s)

/-- LINK_OFF, sent or received, ends the session (R286): the port enters OFF. In Direct topology what is held is settled when a
new session starts (R290); in Fabric topology nothing is kept (R291). -/
def endSession (p : Nat) (s : State) : State :=
  let q := portOf s p
  let live := q.st = .active || q.st = .retrain || q.held
  let s := if live then logDown p 3 s else s
  let keep := live && direct s
  let s := modPort p (fun q => { dropExchange q with st := .off, lp := 0, exiting := false, lossTrain := true, tsRun := [],
                                                     detected := 0, eqDone := 0, myDone := 0, tsGot := false, txTs := [],
                                                     held := keep, resumed := false, rx := [],
                                                     session := 0, peerSession := 0, lossTide := s.time.tide }) s
  if live && !direct s then dropAll p s else s

/-- The port returns to DETECT from POLL, CONFIG or a training that never reached ACTIVE. -/
def backToDetect (p : Nat) (s : State) : State :=
  modPort p (fun q => { q with st := .detect, tsRun := [], detected := 0, eqDone := 0, myDone := 0, tsGot := false, txTs := [],
                               rejected := false, lossTrain := true }) s

/-- EQ or RETRAIN fails for good: the link is lost if it was up (R259, R285). -/
def trainFails (p reason : Nat) (s : State) : State :=
  if (portOf s p).lossTrain then backToDetect p s else linkLost p reason s

/-! ## Entry to ACTIVE (R262, R276, R289, R290) -/

/-- LINK_UP is logged (Table 9.12). -/
def logUp (p : Nat) (s : State) : State :=
  let q := portOf s p
  logIt { cause := 0x40, src := epAfl p, node := partnerNode q,
          args := [p, q.version.toNat, q.rate.toNat, q.width.toNat, partnerRole q, if q.resumed then 1 else 0] } s

/-- A session that both ends hold, with the same node (R289). -/
def resumes (s : State) (p : Nat) : Bool :=
  let q := portOf s p
  direct s && q.held && q.features.getLsbD 3 && q.session ≠ 0 && tsPeerSession q.partner = q.session &&
  tsSession q.partner = q.peerSession && q.peerSession ≠ 0 && partnerNode q = q.peerNode

/-- A request that a link held for longer than the overdue limit ranks as overdue and is counted (R232, R249, R288). -/
def markHeldOverdue (p : Nat) (s : State) : State :=
  if (s.time.tide - (portOf s p).lossTide).toNat ≤ 67108864 then s
  else s.quay.txns.foldl (fun t x =>
    if !x.overdue && x.due.isSome && x.snoops.any (fun o => portTo s o.node = p) then
      classEv x.req.cls 2 1 (modTxn x.line (fun y => { y with overdue := true }) t)
    else t) s

/-- A retrain preserves the link-layer state when each end still holds the other's session (R262, R276, R289). -/
def keepsState (q : Port) : Bool := tsPeerSession q.partner = q.session && tsSession q.partner = q.peerSession

/-- The port enters ACTIVE with a new link-layer state; its next SESSION is another value (R258, R262). -/
def newLink (p : Nat) (q : Port) (s : State) : State :=
  let s := { s with free := s.free + 1 }
  setPort p (loadScr { freshLink p q with st := .active, sessN := s.free, txTs := [] }) s

/-- The port enters ACTIVE. A retrain whose partner no longer holds the session starts a new link-layer state (R262), and what was
held or outstanding is settled as at a new session (R290, R291). -/
def enterActive (p : Nat) (s : State) : State :=
  let q := portOf s p
  if !q.lossTrain && !keepsState q then
    let s := newLink p { q with exiting := false, retrainWhy := 0 } s
    let s := logIt { cause := 0x42, src := epAfl p, args := [p, q.retrainWhy, q.rate.toNat, q.width.toNat] } s
    if direct s then settleHeld p s else dropAll p s
  else if !q.lossTrain then
    let q' := { acked (tsRxAck q.partner) q with st := .active, exiting := false, retrainWhy := 0, txTs := [] }
    let s := resend p (setPort p (loadScr q') s)
    logIt { cause := 0x42, src := epAfl p, args := [p, q.retrainWhy, q.rate.toNat, q.width.toNat] } s
  else if resumes s p then
    let q' := { acked (tsRxAck q.partner) q with st := .active, held := false, resumed := true, lossTrain := false, rejectWhy := 0,
                                                 txTs := [] }
    resend p (logUp p (markHeldOverdue p (setPort p (loadScr q') s)))
  else
    let held := q.held
    let s := newLink p { q with lossTrain := false, rejectWhy := 0 } s
    let s := logUp p s
    if held then settleHeld p (markHeldOverdue p s) else s

/-- Enter RETRAIN, or EQ at the next lower rate when RETRAIN_LIMIT retrains have started within 1 s (R276 to R278). -/
def startRetrain (p why : Nat) (s : State) : State :=
  let q := portOf s p
  let recent := q.retrains.filter (fun t => (s.time.tide - t).toNat < 1000000000)
  let q := { dropExchange q with st := .retrain, lp := 0, exiting := false, lossTrain := false, retrainWhy := why, eqDone := 0, tsGot := false,
                                 eqTried := false, laneErr := [], badRun := 0, retrains := recent ++ [s.time.tide] }
  let q := if aflParam s p 9 ≤ recent.length && 0 < q.rate.toNat then
      { startEq q (q.rate.toNat - 1) with lowered := true, eqTried := true } else q
  evAfl p 10 (setPort p q s)

/-! ## Training commands -/

/-- DETECT_STEP (R259): a receiver-detect step; a port in OFF that is enabled and may transmit has entered DETECT. -/
def execDetectStep (port : Nat) (lanes : BitVec 16) (s : State) : Out :=
  let q := portOf s port
  if !portEnabled s port || !txPermitted s || !(q.st = .off || q.st = .detect) then .next s
  else if lanes = 0 then .next (setPort port { q with st := .detect, lossTrain := true } s)
  else .next (setPort port { q with st := .poll, sessN := s.free, latch := [], detected := lanes, tsRun := [], eqDone := 0, lossTrain := true, laneFail := 0,
                                    laneErr := [], lowered := false, rejected := false, eqTried := false, laneRev := none, tsGot := false,
                                    coef := (List.range 16).foldl (fun m l => sset 0 m l (presetCoef 4)) q.coef } s)

/-- The lane that a training set names: the receive lane itself or, where all lanes of the port are so, its mirror (R255). -/
def laneFits (q : Port) (lane : Nat) (t : BitVec 256) : Bool :=
  match q.laneRev with
  | some _ => tsLane t = trueLane q lane
  | none => tsLane t = lane || tsLane t = 15 - lane

/-- A lane counts a valid training set in POLL; when every detected lane has 16, the port enters CONFIG. -/
def pollLane (p lane : Nat) (t : BitVec 256) (s : State) : State :=
  let q := portOf s p
  if !laneFits q lane t || !q.detected.getLsbD lane then s
  else
    let q := { q with partner := t, partnerUp := true, tsGot := true, laneRev := some (tsLane t ≠ lane),
                      tsRun := smod 0 q.tsRun lane (· + 1) }
    let all := (List.range 16).all (fun l => !q.detected.getLsbD l || 16 ≤ sget 0 q.tsRun l)
    setPort p (if all then { q with st := .config } else q) s

/-- The partner is judged in CONFIG (R263). -/
def judge (p : Nat) (s : State) : State :=
  let q := portOf s p
  let r := rejectReason s p q.partner
  if r = 0 then s
  else
    let s := if r = q.rejectWhy then s else
      logIt { cause := 0x44, src := epAfl p, node := partnerNode q, args := [p, r, partnerRole q] } s
    setPort p { q with rejected := true, rejectWhy := r } s

/-- The lane belongs to the port's lane group. -/
def inGroup (q : Port) (lane : Nat) : Bool :=
  q.width.toNat ≤ 4 && q.group.toNat ≤ lane && lane < q.group.toNat + 2 ^ q.width.toNat

/-! ## Width changes (R279 to R282) -/

/-- A width change that lanes allow: the largest width up to `w` with a good group. -/
def widthUpTo (q : Port) (w : Nat) : Option (Nat × Nat) := selWidth w 0x1F (laneOk q &&& tsLaneOk q.partner)
/-- Every lane that the change to width code `w` adds is locked (R281); a narrowing adds none. -/
def addedLocked (q : Port) (w : Nat) : Bool :=
  match widthUpTo q w with
  | some (v, g) => (List.range 16).all (fun l => !(g ≤ l && l < g + 2 ^ v) || inGroup q l || q.locked.getLsbD l)
  | none => true
/-- Start an exchange of the device's own. -/
def startLmc (op : BitVec 4) (arg : BitVec 16) (q : Port) : Port :=
  { q with lmc := some { op := op, id := q.lmcNext, arg := arg }, lmcNext := q.lmcNext + 1, accepted := false }
/-- Answer an exchange of the partner. -/
def answerLmc (op : BitVec 4) (id : BitVec 8) (arg : Nat) (q : Port) : Port :=
  { q with answer := some { op := op, id := id, arg := BitVec.ofNat 16 arg } }
/-- Both directions have moved: the change is complete, and the scramblers are loaded (R253, R281). A transmitter that moved before has
loaded its own. -/
def finishWidth (p w : Nat) (s : State) : State :=
  let q := portOf s p
  match widthUpTo q w with
  | some (v, g) =>
    let q' := { dropExchange q with width := BitVec.ofNat 3 v, group := BitVec.ofNat 4 g }
    let q' := { q' with rxScr := seeded q', txScr := if q.txTo.isSome then q.txScr else seeded q' }
    evAfl p 11 (setPort p q' s)
  | none => setPort p (dropExchange q) s
/-- The W_SWITCH sequence: 8 consecutive IDLE flits with COUNT from 7 to 0; the transmitter then moves to the target group and loads
its scramblers (R280, R281). -/
def sendSwitch (p : Nat) (id : BitVec 8) (w : Nat) (s : State) : State :=
  let s := idleBurst p (fun k => some { op := 4, id := id, arg := BitVec.ofNat 16 (w + 16 * (7 - k)) }) s
  modPort p (fun q => match widthUpTo q w with
    | some (v, g) =>
      let q := { q with txSwitch := true, txTo := some (BitVec.ofNat 3 v, BitVec.ofNat 4 g) }
      { q with txScr := seeded (txSide q) }
    | none => { q with txSwitch := true }) s
/-- The proposer holds W_ACCEPT and the lanes that join the group are locked: it sends its W_SWITCH sequence (R281). -/
def proposerSwitch (p : Nat) (id : BitVec 8) (w : Nat) (s : State) : State :=
  modPort p (fun q => { q with lmc := some { op := 4, id := id, arg := BitVec.ofNat 16 w }, accepted := false }) (sendSwitch p id w s)
/-- TS1 on a lane outside the group locks that lane in a widening; once the last added lane is locked, the end that was asked answers
W_ACCEPT, and the proposer that holds W_ACCEPT switches (R278, R281). -/
def lockLane (p lane : Nat) (s : State) : State :=
  let q := portOf s p
  let asked : Bool := match q.lmc with | some m => m.op = 1 | none => false
  if !asked && q.lmcAccepted.isNone then s
  else
    let q := { q with locked := q.locked ||| place 16 lane (1 : BitVec 1) }
    let q := match q.lmcAccepted with
      | some m => if !q.txSwitch && addedLocked q (fieldNat m.arg 2 0) then answerLmc 2 m.id (fieldNat m.arg 2 0) q else q
      | none => q
    let s := setPort p q s
    match q.lmc with
    | some m => if q.accepted && addedLocked q (fieldNat m.arg 2 0) then proposerSwitch p m.id (fieldNat m.arg 2 0) s else s
    | none => s

/-- EQ_DONE of a lane: the partner's, as its training set says, and the device's, as its receiver measures (R257). -/
def noteEq (p lane : Nat) (t : BitVec 256) (s : State) : State :=
  let l := trueLane (portOf s p) lane
  let one : BitVec 16 := place 16 l (1 : BitVec 1)
  modPort p (fun q => { q with partner := t, partnerUp := true,
                               eqDone := if tsEqDone t then q.eqDone ||| one else q.eqDone,
                               myDone := if (Config.rxAdapt p l s.time.tide).getLsbD 9 then q.myDone ||| one else q.myDone }) s

/-- A training set that is not valid ends the run of 16 of its lane in POLL (R259). -/
def breakRun (p lane : Nat) (s : State) : State :=
  if (portOf s p).st = .poll then modPort p (fun q => { q with tsRun := sset 0 q.tsRun lane 0 }) s else s

/-- TS1 (R257, R259, R263, R278, R284): a training set that is not valid is not accepted. -/
def execTs1 (port lane : Nat) (ts : BitVec 256) (s : State) : Out :=
  let t := tsNorm ts
  let q := portOf s port
  if !tsValid t || t.extractLsb' 0 8 ≠ (0x4B : BitVec 8) then .next (breakRun port lane s)
  else match q.st with
  | .off => .next s
  | .detect => .next s
  | .poll => .next (pollLane port lane t s)
  | .config => .next (if q.rejected then s else judge port (setPort port { q with partner := t, partnerUp := true, tsGot := true } s))
  | .eq => .next (noteEq port lane t (setPort port { q with coef := smod 0 q.coef (trueLane q lane) (fun c => applyEq c (tsEqReq t)) } s))
  | .active =>
    if !inGroup q (trueLane q lane) then .next (if q.lp = 0 then lockLane port (trueLane q lane) s else s)
    else if q.lp ≠ 0 then .next (setPort port { q with partner := t, exiting := true } s)
    else .next (startRetrain port 5 (setPort port { q with partner := t } s))
  | .retrain => .next (setPort port { q with partner := t, partnerUp := true, tsGot := true } s)

/-- The selections of a TS2 agree with R260 and R261. -/
def agrees (s : State) (p : Nat) (t : BitVec 256) : Bool :=
  selRate s p t = some (tsRateSel t) && portWidth s p t = some (tsWidthSel t, tsGroup t) && tsVerSel t = selVersion s p t

/-- A TS2 in CONFIG: the partner's words judge the session, and both sides agree on the lanes and the rate (R259, R261, R289). -/
def ts2Config (port : Nat) (t : BitVec 256) (s : State) : State :=
  if (portOf s port).rejected then s
  else
    let s := judge port (modPort port (fun q => { q with partner := t, partnerUp := true, tsGot := true }) s)
    let q := portOf s port
    if q.rejected || !agrees s port t then s
    else
      let q := { q with version := BitVec.ofNat 2 (tsVerSel t), features := selFeatures s port t, rate := BitVec.ofNat 2 (tsRateSel t),
                        width := BitVec.ofNat 3 (tsWidthSel t), group := BitVec.ofNat 4 (tsGroup t), eqTried := false }
      if 0 < tsRateSel t then setPort port (startEq q (tsRateSel t)) s else enterActive port (setPort port q s)

/-- Both ends have set EQ_DONE on every lane of the group (R257). -/
def eqEnded (q : Port) : Bool := (List.range 16).all (fun l => !inGroup q l || (q.eqDone.getLsbD l && q.myDone.getLsbD l))

/-- A TS2 in EQ: ACTIVE when every lane of the group is done at both ends (R257, R259). -/
def ts2Eq (port lane : Nat) (t : BitVec 256) (s : State) : State :=
  let s := noteEq port lane t s
  if eqEnded (portOf s port) then enterActive port s else s

/-- A TS2 in RETRAIN: the width is chosen again (R261, R276). -/
def ts2Retrain (port : Nat) (t : BitVec 256) (s : State) : State :=
  let q := { portOf s port with partner := t, partnerUp := true }
  let q := match portWidth (setPort port q s) port t with
    | some (w, g) => { q with width := BitVec.ofNat 3 w, group := BitVec.ofNat 4 g }
    | none => q
  enterActive port (setPort port q s)

/-- A TS2 in ACTIVE: the way out of a low-power state (R284). -/
def ts2Active (port : Nat) (t : BitVec 256) (s : State) : State :=
  let q := portOf s port
  if q.lp = 0 then s
  else resend port (setPort port (loadScr { acked (tsRxAck t) q with partner := t, lp := 0, exiting := false }) s)

/-- TS2 (R259, R261, R276, R284, R289): the selections are agreed, EQ ends, a retrain or a low-power exit ends, or the port
enters ACTIVE. A TS2 that disagrees returns the port to the start of CONFIG. -/
def execTs2 (port lane : Nat) (ts : BitVec 256) (s : State) : Out :=
  let t := tsNorm ts
  if !tsValid t || t.extractLsb' 0 8 ≠ (0x2D : BitVec 8) then .next (breakRun port lane s)
  else match (portOf s port).st with
  | .poll => .next (pollLane port lane t s)
  | .config => .next (ts2Config port t s)
  | .eq => .next (ts2Eq port lane t s)
  | .retrain => .next (ts2Retrain port t s)
  | .active => .next (ts2Active port t s)
  | _ => .next s

/-- POLL_TIMEOUT (Table 9.4). -/
def execPollTimeout (port : Nat) (s : State) : Out :=
  .next (if (portOf s port).st = .poll then backToDetect port s else s)

/-- CONFIG_TIMEOUT (Table 9.4): after 4 ms, or 100 ms after a rejection. -/
def execConfigTimeout (port : Nat) (s : State) : Out :=
  .next (if (portOf s port).st = .config then backToDetect port s else s)

/-- EQ_TIMEOUT (Table 9.4): EQ at the next lower rate, once per training; else DETECT. -/
def execEqTimeout (port : Nat) (s : State) : Out :=
  let q := portOf s port
  if q.st ≠ .eq then .next s
  else if !q.eqTried && 0 < q.rate.toNat then .next (setPort port { startEq q (q.rate.toNat - 1) with eqTried := true } s)
  else .next (trainFails port 2 s)

/-- RETRAIN_TIMEOUT (Table 9.4): EQ at the current rate. -/
def execRetrainTimeout (port : Nat) (s : State) : Out :=
  let q := portOf s port
  .next (if q.st = .retrain then setPort port { startEq q q.rate.toNat with eqTried := false } s else s)

/-- TS1_LOSS_TIMEOUT (R259, R285): no valid TS1 for 1 ms in RETRAIN or EQ. -/
def execTs1LossTimeout (port : Nat) (s : State) : Out :=
  .next (if (portOf s port).st = .retrain || (portOf s port).st = .eq then trainFails port 1 s else s)

/-! ## Replay (R273) -/

/-- A replay starts, or the REPLAY_LIMIT-th from one SEQ becomes a retrain. -/
def startReplay (p : Nat) (s : State) : State :=
  let q := portOf s p
  if q.replay.isEmpty then s
  else if aflParam s p 8 ≤ q.replays + 1 then startRetrain p 1 (setPort p { q with replays := 0 } s)
  else resend p (evAfl p 8 (setPort p { q with replays := q.replays + 1, nakSeen := (q.replay[0]?).map (fun f => f.seq - 1) } s))

/-- ACK_TIMEOUT_EXPIRY (R273). -/
def execAckTimeoutExpiry (port : Nat) (s : State) : Out :=
  .next (if (portOf s port).st = .active && (portOf s port).lp = 0 then startReplay port s else s)

/-! ## Link management (R279 to R284, Table 9.10) -/

/-- LANE_SHED is negotiated. -/
def inBand (q : Port) : Bool := q.features.getLsbD 2
/-- The link of a port runs. -/
def linkRuns (s : State) (p : Nat) : Bool := (portOf s p).st = .active
/-- A proposal is accepted with its target. W_ACCEPT goes out once the added lanes are locked (R281). -/
def acceptWidth (id : BitVec 8) (w : Nat) (q : Port) : Port :=
  let q := { q with lmcAccepted := some { op := 2, id := id, arg := BitVec.ofNat 16 w } }
  if addedLocked q w then answerLmc 2 id w q else { q with answer := none }
/-- The deepest link state that the gait permits (Table 14.7). -/
def deepestLp (s : State) : Nat := min 2 s.aon.gait.toNat
/-- No packet to send, and every PAYLOAD flit acknowledged (R283). -/
def linkIdle (q : Port) : Bool := q.egress.isEmpty && q.replay.isEmpty
/-- Both ends send 8 IDLE flits and enter the state (R283). -/
def enterLp (p lp : Nat) (s : State) : State :=
  evAfl p (if lp = 1 then 18 else 19) (modPort p (fun q => { q with lp := BitVec.ofNat 2 lp, lmc := none, answer := none })
    (idleBurst p (fun _ => none) s))

/-- A proposal is accepted: target = min(proposed, own cap), limited by lanes (R281). -/
def onPropose (p : Nat) (id : BitVec 8) (arg : BitVec 16) (s : State) : State :=
  let q := portOf s p
  let w := fieldNat arg 2 0
  if 4 < w then s
  else if !inBand q then setPort p (answerLmc 3 id 2 q) s
  else if q.lmcAccepted.isSome || q.txSwitch then setPort p (answerLmc 3 id 1 q) s
  else
    let own : Option Nat := match q.lmc with | some m => if m.op = 1 then some (fieldNat m.arg 2 0) else none | none => none
    match own with
    | some v =>
      if leads s p then s
      else match widthUpTo q (min v w) with
        | some (t, _) => setPort p (acceptWidth id t { q with lmc := none }) s
        | none => setPort p { answerLmc 3 id 4 q with lmc := none } s
    | none =>
      match widthUpTo q (min w (widthCap s p)) with
      | some (t, _) =>
        if t = q.width.toNat then setPort p (answerLmc 3 id 3 q) s
        else setPort p (acceptWidth id t q) s
      | none => setPort p (answerLmc 3 id 4 q) s

/-- W_ACCEPT of the outstanding proposal: the W_SWITCH sequence is sent and the transmitter moves, in a widening once the partner's added
lanes are locked. -/
def onAccept (p : Nat) (id : BitVec 8) (arg : BitVec 16) (s : State) : State :=
  let q := portOf s p
  let w := fieldNat arg 2 0
  match q.lmc with
  | some m =>
    if !(m.op = 1 && m.id = id) then s
    else if addedLocked q w then proposerSwitch p id w s
    else setPort p { q with lmc := some { m with arg := BitVec.ofNat 16 w }, accepted := true } s
  | none => s

/-- W_REJECT ends the exchange; one refused as BUSY may be proposed again (Table 9.10). -/
def onReject (p : Nat) (id : BitVec 8) (arg : BitVec 16) (s : State) : State :=
  let q := portOf s p
  match q.lmc with
  | some m => if m.op = 1 && m.id = id then
      setPort p { q with lmc := none, accepted := false, locked := 0, capDue := q.capDue || fieldNat arg 3 0 = 1 } s else s
  | none => s

/-- W_SWITCH: the end that accepted sends its own sequence and moves its transmitter; `moved` is what the receiver does. -/
def onSwitch (p : Nat) (id : BitVec 8) (arg : BitVec 16) (moved : Nat → State → State) (s : State) : State :=
  let q := portOf s p
  let mine : Bool := match q.lmc with | some m => m.op = 4 && m.id = id | none => false
  let theirs : Bool := match q.lmcAccepted with | some m => m.id = id | none => false
  if mine || theirs then
    let s := if theirs && !mine then sendSwitch p id (fieldNat arg 2 0) s else s
    moved (fieldNat arg 2 0) (modPort p (fun q => { q with rxSwitch := true }) s)
  else s
/-- A flit with W_SWITCH says how many flits are still to come on the old group: its COUNT (R281). -/
def switchFlit (p : Nat) (arg : BitVec 16) (w : Nat) (s : State) : State :=
  modPort p (fun q => { q with rxTo := some (fieldNat arg 7 4, w) }) s
/-- A flit has come while a receiver is about to move: after the one with COUNT = 0 it receives on the target group (R281). -/
def countSwitch (p : Nat) (s : State) : State :=
  match (portOf s p).rxTo with
  | none => s
  | some (0, w) => finishWidth p w s
  | some (n + 1, w) => modPort p (fun q => { q with rxTo := some (n, w) }) s

/-- LP_REQ (R283, Table 9.10). -/
def onLpReq (p : Nat) (id : BitVec 8) (arg : BitVec 16) (s : State) : State :=
  let q := portOf s p
  let ask := fieldNat arg 1 0
  let own : Option Nat := match q.lmc with | some m => if m.op = 5 then some (fieldNat m.arg 1 0) else none | none => none
  let wide : Bool := (match q.lmc with | some m => m.op = 1 || m.op = 4 | none => false) || q.lmcAccepted.isSome
  match own with
  | some v =>
    if leads s p then s else enterLp p (min ask v) (setPort p (answerLmc 6 id (min ask v) q) s)
  | none =>
    if wide || !linkIdle q || q.lp ≠ 0 then setPort p (answerLmc 7 id 1 q) s
    else if deepestLp s = 0 || ask = 0 || 2 < ask then setPort p (answerLmc 7 id 2 q) s
    else enterLp p (min ask (deepestLp s)) (setPort p (answerLmc 6 id (min ask (deepestLp s)) q) s)

/-- LP_ACK of the outstanding request. -/
def onLpAck (p : Nat) (id : BitVec 8) (arg : BitVec 16) (s : State) : State :=
  match (portOf s p).lmc with
  | some m => if m.op = 5 && m.id = id && (fieldNat arg 1 0 = 1 || fieldNat arg 1 0 = 2) then enterLp p (fieldNat arg 1 0) s else s
  | none => s

/-- LP_NAK ends the request. -/
def onLpNak (p : Nat) (id : BitVec 8) (s : State) : State :=
  let q := portOf s p
  match q.lmc with
  | some m => if m.op = 5 && m.id = id then setPort p { q with lmc := none } s else s
  | none => s

/-- A receiver acts on a given LMC_OP and LMC_ID once (R280). -/
def onceLmc (p : Nat) (op : BitVec 4) (id : BitVec 8) (arg : BitVec 16) (f : State → State) (s : State) : State :=
  let q := portOf s p
  if !linkRuns s p then s
  else match q.lmcSeen with
  | some m => if m.op = op && m.id = id then s else f (setPort p { q with lmcSeen := some { op := op, id := id, arg := arg } } s)
  | none => f (setPort p { q with lmcSeen := some { op := op, id := id, arg := arg } } s)

/-- W_PROPOSE (R281, R282). -/
def execWPropose (port : Nat) (id : BitVec 8) (arg : BitVec 16) (s : State) : Out := .next (onceLmc port 1 id arg (onPropose port id arg) s)
/-- W_ACCEPT (R281). -/
def execWAccept (port : Nat) (id : BitVec 8) (arg : BitVec 16) (s : State) : Out := .next (onceLmc port 2 id arg (onAccept port id arg) s)
/-- W_REJECT (R281). -/
def execWReject (port : Nat) (id : BitVec 8) (arg : BitVec 16) (s : State) : Out := .next (onceLmc port 3 id arg (onReject port id arg) s)
/-- W_SWITCH (R281): the whole sequence has come, and the receiver moves. -/
def execWSwitch (port : Nat) (id : BitVec 8) (arg : BitVec 16) (s : State) : Out :=
  .next (onceLmc port 4 id arg (onSwitch port id arg (finishWidth port)) s)
/-- LP_REQ (R283). -/
def execLpReq (port : Nat) (id : BitVec 8) (arg : BitVec 16) (s : State) : Out := .next (onceLmc port 5 id arg (onLpReq port id arg) s)
/-- LP_ACK (R283). -/
def execLpAck (port : Nat) (id : BitVec 8) (arg : BitVec 16) (s : State) : Out := .next (onceLmc port 6 id arg (onLpAck port id arg) s)
/-- LP_NAK (R283). -/
def execLpNak (port : Nat) (id : BitVec 8) (arg : BitVec 16) (s : State) : Out := .next (onceLmc port 7 id arg (onLpNak port id) s)
/-- LINK_OFF (R286): the session ends and the port enters OFF. -/
def execLinkOff (port : Nat) (_id : BitVec 8) (_arg : BitVec 16) (s : State) : Out :=
  .next (if linkRuns s port then endSession port s else s)

/-- The link management command of a good flit's header (R272, R280). -/
def headerLmc (p : Nat) (h : BitVec 128) (s : State) : State :=
  let id : BitVec 8 := h.extractLsb' 88 8
  let arg : BitVec 16 := h.extractLsb' 96 16
  match fieldNat h 87 84 with
  | 1 => onceLmc p 1 id arg (onPropose p id arg) s
  | 2 => onceLmc p 2 id arg (onAccept p id arg) s
  | 3 => onceLmc p 3 id arg (onReject p id arg) s
  | 4 => onceLmc p 4 id arg (onSwitch p id arg (switchFlit p arg)) s
  | 5 => onceLmc p 5 id arg (onLpReq p id arg) s
  | 6 => onceLmc p 6 id arg (onLpAck p id arg) s
  | 7 => onceLmc p 7 id arg (onLpNak p id) s
  | 8 => if linkRuns s p then endSession p s else s
  | _ => s

/-- The width that the device's cap asks for is proposed (R279, R281). -/
def proposeWidth (p : Nat) (s : State) : State :=
  let q := portOf s p
  match selWidth (widthCap s p) (tsWidths q.partner) (laneOk q &&& tsLaneOk q.partner) with
  | some (w, _) => setPort p (if w = q.width.toNat then { q with capDue := false }
      else startLmc 1 (BitVec.ofNat 16 w) { q with capDue := false }) s
  | none => setPort p { q with capDue := false } s
/-- A proposal can be made: the link runs with LANE_SHED, flits flow, and no exchange is under way. -/
def mayPropose (s : State) (p : Nat) : Bool :=
  let q := portOf s p
  linkRuns s p && inBand q && q.lp = 0 && q.lmc.isNone && q.lmcAccepted.isNone

/-- WIDTH_CAP_CHANGE (R279, R281): in-band the width is proposed, at once or once the exchange under way has ended; else a retrain
starts. -/
def execWidthCapChange (port : Nat) (code : BitVec 3) (s : State) : Out :=
  if 4 < code.toNat || (portOf s port).cap = code then .next s
  else
    let s := modPort port (fun q => { q with cap := code }) s
    if !linkRuns s port then .next s
    else if !inBand (portOf s port) then .next (startRetrain port 3 s)
    else if mayPropose s port then .next (proposeWidth port s)
    else .next (modPort port (fun q => { q with capDue := true }) s)

/-- LMC_TIMEOUT_EXPIRY (R280): the exchange is abandoned and counted, and a transmitter that had moved returns to its group. An answer
that nothing answers is no longer repeated. -/
def execLmcTimeoutExpiry (port : Nat) (s : State) : Out :=
  let q := portOf s port
  let q' := if q.txTo.isSome then { dropExchange q with txScr := seeded q } else dropExchange q
  if q.lmc.isSome || q.lmcAccepted.isSome then .next (evAfl port 12 (setPort port q' s)) else .next (setPort port { q with answer := none } s)

/-- LANE_LOCK_TIMEOUT (R281): a widening whose added lanes have not locked is answered W_REJECT LANES. -/
def execLaneLockTimeout (port : Nat) (s : State) : Out :=
  let q := portOf s port
  match q.lmcAccepted with
  | some m => if !addedLocked q (fieldNat m.arg 2 0) && !q.rxSwitch then
      .next (setPort port { answerLmc 3 m.id 4 q with lmcAccepted := none, locked := 0 } s) else .next s
  | none => .next s

/-- LINK_IDLE_ENTRY (R283): an idle link asks for the deepest state that the gait permits. -/
def execLinkIdleEntry (port : Nat) (s : State) : Out :=
  let q := portOf s port
  if !linkRuns s port || q.lp ≠ 0 || !linkIdle q || q.lmc.isSome || q.lmcAccepted.isSome || deepestLp s = 0 then .next s
  else .next (setPort port (startLmc 5 (BitVec.ofNat 16 (deepestLp s)) q) s)

/-- LOW_POWER_EXIT (R284): an end with traffic sends TS1. -/
def execLowPowerExit (port : Nat) (s : State) : Out :=
  .next (if linkRuns s port && (portOf s port).lp ≠ 0 then modPort port (fun q => { q with exiting := true }) s else s)

/-- LOW_POWER_EXIT_TIMEOUT (R284): the exit becomes a retrain. -/
def execLowPowerExitTimeout (port : Nat) (s : State) : Out :=
  .next (if linkRuns s port && (portOf s port).lp ≠ 0 && (portOf s port).exiting then startRetrain port 4 s else s)

/-- TAG_QUIET_EXPIRY (R292): the tag may be used again toward the node. -/
def execTagQuietExpiry (node : Node) (tag : Tag) (s : State) : Out :=
  .next { s with quay.quiet := s.quay.quiet.filter (fun q => !(q.1 = node && q.2 = tag)) }

/-- LANE_FAILED (R277): the lane leaves LANE_OK and a retrain starts. `dir` true names the receive direction of the partner. -/
def execLaneFailed (port lane : Nat) (dir : Bool) (symbols : Nat) (s : State) : Out :=
  let q := portOf s port
  let n := max symbols (sget 0 q.laneErr lane)
  if !linkRuns s port || 16 ≤ lane || (n < aflParam s port 10 && q.badRun < 8) then .next s
  else
    let s := setPort port { q with laneFail := if dir then q.laneFail else q.laneFail ||| place 16 lane (1 : BitVec 1) } s
    let s := logIt { cause := 0x43, src := epAfl port, args := [port, lane, if dir then 1 else 0, n] } s
    .next (startRetrain port 2 s)

/-! ## Flits received (R265 to R275, R296) -/

def slotOf (f : BitVec 2048) (i : Nat) : BitVec 128 := f.extractLsb' (128 * i) 128
def slotKind (f : BitVec 2048) (i : Nat) : Nat := fieldNat f (57 + 2 * (i - 1)) (56 + 2 * (i - 1))

/-- A packet complete in the receive buffer is checked (R296): its opcode, what the link permits, its virtual channel. An
invalid one leaves the buffer, answered with ERR_CMP on the request virtual channel. -/
def acceptPkt (p : Nat) (rsp : Bool) (k : Pkt) (s : State) : State :=
  let q := portOf s p
  let op := pktOp k
  let reason : Nat := match opVc op.toNat with
    | none => 1
    | some v =>
      if v ≠ rsp then 3
      else if op = 0x5F && !q.features.getLsbD 0 then 2
      else if op = 0x70 && !q.features.getLsbD 1 then 2
      else if (op = 0x71 || op = 0x72 || op = 0x73) && pktDst k ≠ nodeId s then 4
      else if op = 0x60 || op = 0x61 || op = 0x62 then 6 else 0
  let n := BitVec.ofNat 12 (pktSlots k.hdr)
  let freed (s : State) : State := modPort p (fun q => if rsp then { q with myRsp := q.myRsp + n } else { q with myReq := q.myReq + n }) s
  if reason = 0 then
    if op = 0x72 || op = 0x73 then evAfl p 15 (freed s)
    else setPort p { q with rx := q.rx ++ [k], rxAt := q.rxAt ++ [((op, pktSrc k, pktTag k), tick s)] } s
  else
    let s := pktInvalid p op (pktSrc k) (pktTag k) reason (freed s)
    if rsp then s else sendPkt p { hdr := rspHdr 0x5E (pktSrc k) (nodeId s) (pktTag k) 2 {} } s

/-- The slots of a delivered flit from slot `i` (R269). A violation ends with its slot. -/
def takeSlots (p : Nat) (f : BitVec 2048) : Nat → Nat → State → Option Nat × State
  | 0, _, s => (none, s)
  | n + 1, i, s =>
    let q := portOf s p
    let x := slotOf f i
    match slotKind f i with
    | 0 => takeSlots p f n (i + 1) s
    | 3 =>
      if q.partSlots = 0 then (some i, s)
      else if q.partSlots = 1 then
        let rsp : Bool := q.partRsp
        let k : Pkt := { hdr := q.partHdr, body := q.partData ++ [x] }
        takeSlots p f n (i + 1) (acceptPkt p rsp k (setPort p { q with partSlots := 0, partHdr := 0, partData := [] } s))
      else takeSlots p f n (i + 1) (setPort p { q with partSlots := q.partSlots - 1, partData := q.partData ++ [x] } s)
    | v =>
      if q.partSlots ≠ 0 then (some i, s)
      else if pktSlots x ≤ 1 then takeSlots p f n (i + 1) (acceptPkt p (v = 2) { hdr := x } s)
      else takeSlots p f n (i + 1) (setPort p { q with partSlots := pktSlots x - 1, partHdr := x, partData := [], partRsp := v = 2 } s)

/-- The header fields of a good flit: ACK, NAK, credits, link management (R271 to R275, R280). -/
def takeHeader (p : Nat) (f : BitVec 2048) (s : State) : State :=
  let h : BitVec 128 := slotOf f 0
  let a : BitVec 12 := h.extractLsb' 16 12
  let s := modPort p (fun q => { acked a q with freedReq := h.extractLsb' 32 12, freedRsp := h.extractLsb' 44 12 }) s
  let s := if h.getLsbD 28 && (portOf s p).nakSeen ≠ some a then
      startReplay p s else s
  headerLmc p h s

/-- Corrected symbols are counted against their lanes (R252, R268). -/
def countFixes (p : Nat) (fixes : List Nat) (s : State) : State :=
  let s := evAdd (0x900 + 32 * p + 6) fixes.length s
  modPort p (fun q => { q with laneErr := fixes.foldl (fun m i => smod 0 m (q.group.toNat + i / 4 % 2 ^ (min 4 q.width.toNat)) (· + 1)) q.laneErr }) s

/-- What a flit that the lanes bring does, descrambled first (R253, R268, R272). -/
def takeFlit (p : Nat) (f : BitVec 2048) (s : State) : State :=
  match flitDecode (fromLanes (portOf s p) f) with
  | none => evAfl p 7 (modPort p (fun q => { q with nak := true, badRun := q.badRun + 1, rxScr := scrNext q q.rxScr }) s)
  | some (f, fixes) =>
    let s := evAfl p 5 (countFixes p fixes (modPort p (fun q => { q with badRun := 0, rxScr := scrNext q q.rxScr }) s))
    let seq : BitVec 12 := f.extractLsb' 4 12
    let q := portOf s p
    match fieldNat f 3 0 with
    | 1 =>
      if seq = q.expect then
        let s := specFlit p (setPort p { q with expect := q.expect + 1, ack := seq, nak := false } s)
        match takeSlots p f 14 1 s with
        | (none, s) => takeHeader p f s
        | (some i, s) =>
          linkLost p 4 (logIt { cause := 0x45, src := epAfl p, args := [p, seq.toNat, i] } s)
      else takeHeader p f s
    | 0 => takeHeader p f (if 0 < (seq - q.expect).toNat && (seq - q.expect).toNat < 2048 then setPort p { q with nak := true } s else s)
    | _ => s

/-- A flit arrives (R272); a receiver that is about to move counts it (R281). -/
def receiveFlit (p : Nat) (f : BitVec 2048) (s : State) : State :=
  if !linkRuns s p || (portOf s p).lp ≠ 0 then s else countSwitch p (takeFlit p f s)

/-- PAYLOAD_FLIT (R272). -/
def execPayloadFlit (port : Nat) (flit : BitVec 2048) (s : State) : Out := .next (receiveFlit port flit s)
/-- IDLE_FLIT (R272). -/
def execIdleFlit (port : Nat) (flit : BitVec 2048) (s : State) : Out := .next (receiveFlit port flit s)
/-- BAD_FLIT (R268, R272). -/
def execBadFlit (port : Nat) (flit : BitVec 2048) (s : State) : Out := .next (receiveFlit port flit s)

/-! ## Flits sent (R117, R254, R266, R270, R271, R274) -/

/-- Credits available toward the partner (R274). -/
def availReq (q : Port) : BitVec 12 := q.advReq - (q.sentReq - q.freedReq)
def availRsp (q : Port) : BitVec 12 := q.advRsp - (q.sentRsp - q.freedRsp)
/-- The packet is on the response virtual channel. -/
def isRspPkt (k : Pkt) : Bool := opVc (pktOp k).toNat = some true
/-- There is credit for every slot of a packet; a late alarm needs none (R270). -/
def creditFor (q : Port) (k : Pkt) : Bool :=
  pktOp k = 0x5F || decide (pktSlots k.hdr ≤ (if isRspPkt k then availRsp q else availReq q).toNat)
/-- A waiting late alarm whose speculative response has left the queue: the verdict cannot overtake the data (R117). -/
def alarmFree (q : Port) (i : Nat) : Bool :=
  match q.egress[i]? with
  | none => false
  | some k => pktOp k = 0x5F && (q.egress.take i).all (fun d => !(pktDst d = pktDst k && pktTag d = pktTag k && d.hdr.getLsbD 61))
/-- The next packet to place: the one begun, else a late alarm that its data no longer waits behind (R117), else the oldest of a virtual channel with credit. -/
def nextPkt (q : Port) : Option Nat :=
  if 0 < q.txDone then some 0
  else match (List.range q.egress.length).find? (alarmFree q) with
    | some i => some i
    | none =>
      let first (rsp : Bool) : Option Nat := q.egress.findIdx? (fun k => isRspPkt k = rsp)
      let ok (o : Option Nat) : Option Nat := o.bind (fun i => (q.egress[i]?).bind (fun k => if creditFor q k then some i else none))
      match ok (first false), ok (first true) with
      | some a, some b => some (min a b)
      | some a, none => some a
      | none, b => b

/-- The slots of a packet with their SLOT_KINDs (Tables 9.7, 10.4). -/
def pktKinds (k : Pkt) : List (BitVec 2 × BitVec 128) := ((if isRspPkt k then 2 else 1), k.hdr) :: k.body.map (fun x => (3, x))

/-- Fill a flit: packets completed, payload slots and overhead slots used, and the slots with their kinds. -/
def fillFlit : Nat → Nat → Port → Port × List Pkt × Nat × Nat × List (BitVec 2 × BitVec 128)
  | 0, _, q => (q, [], 0, 0, [])
  | n + 1, room, q =>
    if room = 0 then (q, [], 0, 0, [])
    else match nextPkt q with
    | none => (q, [], 0, 0, [])
    | some i => match q.egress[i]? with
      | none => (q, [], 0, 0, [])
      | some k =>
        let from' := (pktKinds k).drop q.txDone
        let total := pktSlots k.hdr
        let left := total - q.txDone
        let use := min left room
        let q := if q.txDone = 0 && pktOp k ≠ 0x5F then
            (if isRspPkt k then { q with sentRsp := q.sentRsp + BitVec.ofNat 12 total }
             else { q with sentReq := q.sentReq + BitVec.ofNat 12 total }) else q
        let q := if use = left then { q with egress := q.egress.eraseIdx i, txDone := 0 }
          else { q with egress := k :: q.egress.eraseIdx i, txDone := q.txDone + use }
        let ovh : Bool := pktOp k = 0x5F || 0x70 ≤ (pktOp k).toNat
        let (q, ks, a, b, l) := fillFlit n (room - use) q
        (q, (if use = left then k :: ks else ks), (if ovh then a else a + use), (if ovh then b + use else b), from'.take use ++ l)

/-- A PAYLOAD flit of its SEQ and its slots (R266): SEQ, FLIT_TYPE, SLOT_KIND and slots 1 to 14. -/
def flitBody (seq : BitVec 12) (l : List (BitVec 2 × BitVec 128)) : BitVec 2048 :=
  (List.range l.length).foldl (fun f i => match l[i]? with
    | some x => f ||| place 2048 (56 + 2 * i) x.1 ||| place 2048 (128 * (i + 1)) x.2
    | none => f) (1 ||| place 2048 4 seq)

/-- A port holds PAYLOAD flits back after one flit that follows a speculative response without its verdict, so that an alarm still goes
out in the second (R117; DEDUCED, log entry 113). -/
def specStall (s : State) (p : Nat) : Bool := s.quay.specs.any (fun x => x.port.toNat = p && x.sent && 1 ≤ x.flits)

/-- Slots of one block event. -/
def aflSlots (p k n : Nat) (s : State) : State := if n = 0 then s else evAdd (0x900 + 32 * p + k) n s

/-- An IDLE flit: its 14 slots find nothing, or a packet that cannot go (R453). -/
def sendIdle (p : Nat) (s : State) : State :=
  let q := portOf s p
  aflSlots p (if q.egress.isEmpty then 2 else 3) 14 (evAfl p 22 (setPort p (transmit (place 2048 4 q.seq) { q with sinceIdle := 0 }) s))

/-- One flit of a port in ACTIVE: a PAYLOAD flit when a packet can go, else an IDLE flit; at least one in 2,048 is IDLE. -/
def sendFlit (p : Nat) (s : State) : State :=
  let q := portOf s p
  let s := evAfl p 4 s
  let s := if q.nak then evAfl p 9 s else s
  if 2047 ≤ q.sinceIdle || 1024 ≤ q.replay.length || specStall s p || (nextPkt q).isNone then sendIdle p s
  else
    let (q, ks, a, b, l) := fillFlit 14 14 q
    let flit : Flit := { seq := q.seq, pkts := ks, slots := a + b, body := flitBody q.seq l }
    let s := setPort p (transmit flit.body { q with seq := q.seq + 1, replay := q.replay ++ [flit], sinceIdle := q.sinceIdle + 1 }) s
    let s := placed ks s
    let carries (x : Spec) : Bool := ks.any (fun k => pktDst k = x.node && pktTag k = x.tag && k.hdr.getLsbD 61 && opVc (pktOp k).toNat = some true)
    let s := { s with quay.specs := s.quay.specs.map (fun x => if x.port.toNat ≠ p then x
      else if x.sent then { x with flits := x.flits + 1 } else if carries x then { x with sent := true } else x) }
    aflSlots p (if q.egress.isEmpty then 2 else 3) (14 - (a + b)) (aflSlots p 1 b (aflSlots p 0 a s))

/-- `n` flits. -/
def sendFlits (p : Nat) : Nat → State → State
  | 0, s => s
  | n + 1, s => sendFlits p n (sendFlit p s)

/-- The flit time of one tick of 16 ns, in 1/128 flits: rate × width (R251). -/
def flitRate (q : Port) : Nat := 28 * 2 ^ q.rate.toNat * 2 ^ q.width.toNat

/-- The lanes on which a port sends training sets, and whether they are TS2 (Table 9.4, R261, R278, R281, R284). -/
def trainsOn (s : State) (p : Nat) : List Nat × Bool :=
  let q := portOf s p
  let all := List.range 16
  let group := all.filter (inGroup q)
  let detected := all.filter (fun l => q.detected.getLsbD l)
  let capped : List Nat := match widthUpTo q (widthCap s p) with
    | some (w, g) => all.filter (fun l => g ≤ l && l < g + 2 ^ w)
    | none => []
  let heard2 : Bool := q.partner.extractLsb' 0 8 = (0x2D : BitVec 8)
  let added (w : Nat) : List Nat := match widthUpTo q w with
    | some (v, g) => all.filter (fun l => g ≤ l && l < g + 2 ^ v && !inGroup q l)
    | none => []
  match q.st with
  | .off => ([], false)
  | .detect => ([], false)
  | .poll => (detected, false)
  | .config => (detected, !q.rejected && q.tsGot && (leads s p || heard2))
  | .eq => (group, eqEnded q)
  | .retrain => (all.filter (fun l => inGroup q l || capped.contains l), q.tsGot)
  | .active =>
    if q.lp ≠ 0 then (if q.exiting then group else [], false)
    else match q.lmcAccepted, q.lmc with
      | some m, _ => (added (fieldNat m.arg 2 0), false)
      | none, some m => (if m.op = 1 then added (fieldNat m.arg 2 0) else [], false)
      | none, none => ([], false)
/-- The training sets that a port sends in a tick, one on each lane that trains (R258). -/
def sendTs (p : Nat) (s : State) : State :=
  let l := trainsOn s p
  setPort p { portOf s p with txTs := l.1.foldl (fun m i => sset 0 m i (ownTs s p i l.2)) [] } s

/-- A port sends what one tick of the tide counter has time for, and proposes a width that it could not propose before. -/
def portTick (p : Nat) (s : State) : State :=
  let s := if (portOf s p).st = .off then s else sendTs p s
  let s := if (portOf s p).capDue && mayPropose s p then proposeWidth p s else s
  let q := portOf s p
  let x := txSide q
  if q.st ≠ .active || q.lp ≠ 0 || 2 < x.rate.toNat || 4 < x.width.toNat then s
  else
    let t := q.txPhase + flitRate x
    sendFlits p (t / 128) (setPort p { q with txPhase := t % 128 } s)

end Sys2Proof.Machine
end

