-- ==== Sys2Proof/Machine/Noc.lean ====
section
/-! DEFINITION. The on-chip network (R318 to R337): reservations, domains that power down and wake, route epochs, the bridge and
the freeze dump. -/

namespace Sys2Proof.Machine

open Sys2Proof

/-! ## Domains of endpoints (Tables 11.1, 13.5) -/

/-- The switchable domain that an endpoint belongs to; none for AON. -/
def epDomain (e : Nat) : Option Nat :=
  let die := e / 512
  let y := e / 64 % 8
  let x := e / 8 % 8
  let lp := e % 8
  if lp = 0 && y < 6 then some (48 * die + 8 * y + x)
  else if y = 0 && lp = 1 then some (96 + 8 * die + x)
  else if y = 2 && x % 2 = 1 && 4 ≤ lp then some (128 + 8 * die + x / 2)
  else if y = 3 && x % 2 = 0 && 4 ≤ lp then some (132 + 8 * die + x / 2)
  else if x = 0 && (y = 2 || y = 4) && (lp = 1 || lp = 2) then some (144 + 2 * die + (y - 2) / 2)
  else if x = 7 && y = 4 && lp = 1 then some (148 + die)
  else if x = 7 && y = 1 && lp = 1 then some (150 + die)
  else none

/-- The instance of the reins that orders a domain's grants (R241); ports and management complexes have none (R475). -/
def domInst (s : State) (n : Nat) : Option Nat :=
  if n < 96 then some (instPool (n / 48) (min 2 (tileRole s n))) else if n < 128 then some (instDch ((n - 96) % 16))
  else if n < 144 then some (instQb (n - 128)) else if n = 148 || n = 149 then some (instPe (n - 148)) else none

/-- Reservable entries of a destination's resource (R87, R137, R328): resource 0 of a bank its request entries, 1 its notice
entries; resource 0 of a channel its read entries, 1 its write entries; none where the spec gives no number (log entry 23). -/
def rsvCap (s : State) (e : Nat) (res : BitVec 4) : Option Nat :=
  match epDomain e with
  | none => none
  | some n =>
    if n < 96 then (if tileRole s n = 0 then some 32 else if tileRole s n = 1 then some 4 else none)
    else if n < 112 then some (if res = 0 then 128 else 64)
    else if 128 ≤ n && n < 144 then some (if res = 0 then 960 else 64)
    else none

/-- Keys of the counts of R328 and R329. -/
def dstKey (dst : Nat) (res : BitVec 4) : Nat := dst * 16 + res.toNat
def rsvKey (src dst : Nat) (res : BitVec 4) : Nat := src * 2 ^ 14 + dstKey dst res

/-! ## Routes and the capture rings (R326, R335) -/

/-- The default output of a router toward another (R326): 0 N, 1 E, 2 S, 3 W, 4 local, 5 B0, 6 B1. -/
def defaultOut (r d : Nat) : Nat :=
  let (rx, ry, dx, dy) := (r % 8, r % 48 / 8, d % 8, d % 48 / 8)
  if rx < dx then 1 else if dx < rx then 3
  else if r / 48 ≠ d / 48 then (if ry < 5 then 0 else if dy % 2 = 0 then 5 else 6)
  else if ry < dy then 0 else if dy < ry then 2 else 4

/-- The output of a router toward another in the tables of an epoch; a record not listed holds the default. -/
def routeOut (s : State) (epoch : Bool) (r d : Nat) : Nat :=
  match s.noc.routes.find? (fun e => e.1 = (if epoch then 288 else 0) + 3 * r + d / 32) with
  | some e => fieldNat e.2 (4 * (d % 32) + 2) (4 * (d % 32))
  | none => defaultOut r d

/-- The router that an output leads to, with the input port there. -/
def routeStep (r out : Nat) : Option (Nat × Nat) :=
  match out with
  | 0 => some (r + 8, 2) | 1 => some (r + 1, 3) | 2 => some (r - 8, 0) | 3 => some (r - 1, 1)
  | 5 => some ((r + 48) % 96, 10) | 6 => some ((r + 48) % 96, 11)
  | _ => none

/-- The NoC header of a reservation packet (Tables 11.2, 11.4). -/
def rsvHeader (s : State) (op : BitVec 8) (src dst : Nat) (q : RsvMsg) : BitVec 256 :=
  place 256 0 op ||| place 256 8 (1 : BitVec 1) ||| place 256 9 (bit1 s.noc.epoch) ||| place 256 14 (bit1 q.due.isNone) |||
  place 256 16 (BitVec.ofNat 10 dst) ||| place 256 26 (BitVec.ofNat 10 src) ||| place 256 48 (q.due.getD 0) |||
  place 256 72 q.cls ||| place 256 160 q.res ||| place 256 164 (BitVec.ofNat 8 q.count)

/-- A router forwards a header: its ring keeps the last 64, newest first, while capture runs. -/
def capture (r inP outP : Nat) (h : BitVec 256) (s : State) : State :=
  if s.frz.held then s
  else
    let e := h ||| place 256 240 (BitVec.ofNat 16 (tick s * 32)) ||| place 256 236 (BitVec.ofNat 4 inP) ||| place 256 232 (BitVec.ofNat 4 outP)
    { s with noc.rings := sset [] s.noc.rings r ((e :: sget [] s.noc.rings r).take 64) }

def bridgeOf (s : State) (b : Nat) : BridgePort := sget {} s.noc.bridge b
/-- The bridge port at an output of a router (R320). -/
def bridgeAt (s : State) (r out : Nat) : BridgePort := bridgeOf s (2 * (r % 8) + (out - 5))

/-- The queue of a router input and virtual channel (R323). -/
def queueKey (r inP : Nat) (h : BitVec 256) : Nat := (r * 16 + inP) * 2 + fieldNat h 8 8
def routerQueue (s : State) (r inP : Nat) (h : BitVec 256) : List (BitVec 256) := sget [] s.noc.queues (queueKey r inP h)
/-- The link-level credits that a router input has left (R323): one for each of its queue's 8 units. -/
def linkCredits (s : State) (r inP : Nat) (h : BitVec 256) : Nat := 8 - (routerQueue s r inP h).length
/-- A unit waits in the queue of a router input. -/
def waitUnit (r inP : Nat) (h : BitVec 256) (s : State) : State :=
  { s with noc.queues := sset [] s.noc.queues (queueKey r inP h) (routerQueue s r inP h ++ [h]) }

/-- Whether a header leaves the mesh, and its path from router to router. It waits in the queue of a router input behind what
waits there, before a bridge port that is down (R320), and while the next router has no credit (R323). -/
def forward (d lp : Nat) (h : BitVec 256) : Nat → Nat → Nat → State → Bool × State
  | 0, _, _, s => (true, s)
  | n + 1, r, inP, s =>
    let out := routeOut s s.noc.epoch r d
    if !(routerQueue s r inP h).isEmpty || ((out = 5 || out = 6) && (bridgeAt s r out).down) then (false, waitUnit r inP h s)
    else match routeStep r out with
    | some (r', inP') =>
      if linkCredits s r' inP' h = 0 then (false, waitUnit r inP h s)
      else forward d lp h n r' inP' (capture r inP (if 5 ≤ out then 5 + out else out) h s)
    | none => (true, capture r inP (4 + lp) h s)

def epRouter (e : Nat) : Nat := e / 512 * 48 + e / 64 % 8 * 8 + e / 8 % 8

/-- A reservation packet crosses the mesh from one endpoint to another: whether it arrives, and the state. With no credit of its first
router it waits at its source (R334). -/
def sendRsv (op : BitVec 8) (src dst : Nat) (q : RsvMsg) (s : State) : Bool × State :=
  let h := rsvHeader s op src dst q
  let r := epRouter src
  let e := if s.noc.epoch then 1 else 0
  if !(sget [] s.noc.fifo src).isEmpty || linkCredits s r (4 + src % 8) h = 0 then
    (false, { s with noc.fifo := sset [] s.noc.fifo src (sget [] s.noc.fifo src ++ [h]) })
  else
    let (there, s) := forward (epRouter dst) (dst % 8) h 25 r (4 + src % 8) s
    (there, { s with noc.injected := smod 0 s.noc.injected e (· + 1),
                     noc.ejected := if there then smod 0 s.noc.ejected e (· + 1) else s.noc.ejected })

/-! ## Freeze (R335) -/

/-- A freeze: a trigger while a dump is held is ignored and counted. -/
def freezeNow (trigger : Nat) (s : State) : State :=
  if s.frz.held then { s with frz.ignored := if s.frz.ignored = 0xFF then 0xFF else s.frz.ignored + 1 }
  else logIt { cause := 0x53, src := epAon, args := trigger :: wide s.time.tide.toNat }
    { s with frz.held := true, frz.routersDone := 0 }

/-- FREEZE (R335). -/
def execFreeze (trigger : BitVec 4) (s : State) : Out := .next (freezeNow trigger.toNat s)

/-- FREEZE_DUMP_COMPLETE (R335): every ring is copied, oldest entry first. -/
def execFreezeDumpComplete (s : State) : Out :=
  if !s.frz.held || s.frz.routersDone ≠ 0 then .next s
  else
    let n := 48 * numDies s
    let area := (List.range n).foldl (fun m r => ((sget [] s.noc.rings r).reverse.zipIdx).foldl (fun m e =>
      sset 0 m (64 * r + e.2) e.1) m) []
    .next { s with frz.area := area, frz.routersDone := BitVec.ofNat 8 n }

/-- A held dump is released and capture resumes (Table 11.6). -/
def releaseDump (s : State) : State := if s.frz.held then { s with frz.held := false, frz.routersDone := 0 } else s

/-- RELEASE (Table 11.6). -/
def execRelease (s : State) : Out := .next (releaseDump s)

/-! ## Reservations (R328, R329, R331) -/

/-- Entries of a destination's queue that a class holds. -/
def rsvHeld (s : State) (n : Nat) (res : BitVec 4) (c : BitVec 8) : Nat :=
  if n < 96 then
    if tileRole s n = 0 then (s.quay.txns.filter (fun t => t.run.isSome && t.tile = n && t.req.cls = c)).length
    else if c = deviceClass s then packLoad s n else 0
  else if n < 112 then chanClassHeld s (n - 96) (res ≠ 0) c
  else if 128 ≤ n && n < 144 then classHeld s (n - 128) c
  else 0

/-- The group of R241 of a waiting request at its instance; one that has waited AGE_LIMIT stands as if its class were not lowered (R242). -/
def rsvGroup (s : State) (q : RsvReq) : Nat :=
  match epDomain q.dst with
  | none => 1
  | some n => match domInst s n with
    | none => 1
    | some i =>
      let low : Bool := !q.aged && (if 128 ≤ n && n < 144 then bankLowered s (n - 128) q.cls else classLowered s i q.cls)
      match rsvCap s q.dst q.res with
      | some k => if regulates s && rsvHeld s n q.res q.cls < budgetOf s i q.cls.toNat k then 0 else if low then 2 else 1
      | none => if low then 2 else 1

/-- The rank of a waiting request under R241. -/
def rsvRank (s : State) (q : RsvReq) : Nat × Nat × Int :=
  let late : Bool := q.overdue || overdueAt q.due (tick s)
  (rsvGroup s q,
   if late then 0 else match q.due with | some _ => 1 | none => 2,
   match q.due with | some d => if late then 0 else slackTicks d (tick s) | none => 0)

/-- Earlier in the order of R241. -/
def rsvLt (a b : Nat × Nat × Int) : Bool :=
  if a.1 ≠ b.1 then a.1 < b.1 else if a.2.1 ≠ b.2.1 then a.2.1 < b.2.1 else a.2.2 < b.2.2

/-- The first request in the order of R241; arrival order on a tie. -/
def bestRsv (s : State) : List RsvReq → Option RsvReq
  | [] => none
  | q :: r => match bestRsv s r with
    | none => some q
    | some x => if rsvLt (rsvRank s x) (rsvRank s q) then some x else some q

/-- The destination grants: an awake domain, a channel that still grants, and a port whose egress queue of 4,096 slots has room (R288). -/
def mayGrant (s : State) (e : Nat) : Bool :=
  match epDomain e with
  | none => true
  | some n => ((domOf s n).st = .awake || (domOf s n).st = .prepared) && !(96 ≤ n && n < 112 && (chan s (n - 96)).drained) &&
      !(144 ≤ n && n < 148 && 4096 ≤ ((portOf s (n - 144)).egress.map (fun k => pktSlots k.hdr)).sum)

/-- Entries of a destination's resource that work occupies already (R173, R305, R137, R87). -/
def rsvBusy (s : State) (e : Nat) (res : BitVec 4) : Nat :=
  match epDomain e with
  | none => 0
  | some n =>
    if n < 96 then
      if tileRole s n = 0 then (s.quay.txns.filter (fun t => t.run.isSome && t.tile = n)).length else packLoad s n
    else if n < 112 then (if res = 0 then (chan s (n - 96)).readQ.length else (chan s (n - 96)).writeQ.length)
    else if 128 ≤ n && n < 144 then
      (if res = 0 then bankHeld s (n - 128) else (s.quay.notices.filter (fun m => bankOf s (reqLine s m) = n - 128)).length)
    else 0

/-- Entries left of a destination's resource for a request of `n`: one reservation for each free entry (R173, R328). -/
def rsvRoom (s : State) (e : Nat) (res : BitVec 4) (n : Nat) : Nat :=
  match rsvCap s e res with
  | none => n
  | some c => min n (c - rsvBusy s e res - sget 0 s.noc.inUse (dstKey e res))

/-- Grant to one request: RSV_GRANT goes to its source. -/
def grantRsv (q : RsvReq) (n : Nat) (s : State) : State :=
  let s := { s with noc.waiting := s.noc.waiting.erase q,
                    noc.inUse := smod 0 s.noc.inUse (dstKey q.dst q.res) (· + n),
                    noc.granted := smod 0 s.noc.granted (rsvKey q.src q.dst q.res) (· + n) }
  let s := match epDomain q.dst with
    | some d => modDom d (fun x => { x with inflight := x.inflight + n }) s
    | none => s
  (sendRsv 0x81 q.dst q.src { src := q.src, dst := q.dst, res := q.res, count := n, due := q.due.map (BitVec.ofNat 24), cls := q.cls } s).2

/-- A destination grants in the order of R241 while entries are free. -/
def grantAll (dst : Nat) (res : BitVec 4) : Nat → State → State
  | 0, s => s
  | k + 1, s =>
    if !mayGrant s dst then s
    else match bestRsv s (s.noc.waiting.filter (fun q => q.dst = dst && q.res = res)) with
    | none => s
    | some q =>
      let n := rsvRoom s dst res q.count
      if n = 0 then s else grantAll dst res k (grantRsv q n s)

/-- Reservations leave a source's hold: used or returned. -/
def dropGrants (src dst : Nat) (res : BitVec 4) (n : Nat) (s : State) : State :=
  let s := { s with noc.inUse := smod 0 s.noc.inUse (dstKey dst res) (· - n),
                    noc.granted := smod 0 s.noc.granted (rsvKey src dst res) (· - n) }
  match epDomain dst with
  | some d => modDom d (fun x => { x with inflight := x.inflight - n }) s
  | none => s

/-- Freed entries that no RSV_REQ waits for go to the source that freed them, while it holds fewer than POOL_MAX unused reservations
(R329; DESIGN CHOICE, log entry 23: the destination may do so, and does). -/
def poolGrant (src dst : Nat) (res : BitVec 4) (freed : Nat) (s : State) : State :=
  let k := rsvKey src dst res
  let n := min (rsvRoom s dst res freed) (param s 0x0B 0 - sget 0 s.noc.unused k)
  if n = 0 || !mayGrant s dst || s.noc.waiting.any (fun q => q.dst = dst && q.res = res) then s
  else
    let s := { s with noc.inUse := smod 0 s.noc.inUse (dstKey dst res) (· + n), noc.granted := smod 0 s.noc.granted k (· + n),
                      noc.unused := smod 0 s.noc.unused k (· + n) }
    let s := match epDomain dst with
      | some d => modDom d (fun x => { x with inflight := x.inflight + n }) s
      | none => s
    (sendRsv 0x81 dst src { src := src, dst := dst, res := res, count := n, due := none, cls := 0 } s).2

/-- RSV_REQ (R329, R331): ordered at an awake destination, held at the gateway of one that is entering, asleep or waking. -/
def execRsvReq (q : RsvMsg) (s : State) : Out :=
  let k := rsvKey q.src q.dst q.res
  if q.count = 0 || 255 < q.count || sget 0 s.noc.asked k ≠ 0 then .next s
  else
    let r : RsvReq := { src := q.src, dst := q.dst, res := q.res, count := q.count, due := q.due.map BitVec.toNat, cls := q.cls }
    let (there, s) := sendRsv 0x80 q.src q.dst q { s with noc.asked := sset 0 s.noc.asked k q.count }
    if !there then .next s else
    let held := match epDomain q.dst with
      | some n => if (domOf s n).st = .awake || (domOf s n).st = .prepared then none else some n
      | none => none
    match held with
    | some n => .next (modDom n (fun d => { d with heldRsv := d.heldRsv ++ [r], wakeEvent := true }) s)
    | none => .next (grantAll q.dst q.res (s.noc.waiting.length + 1) { s with noc.waiting := s.noc.waiting ++ [r] })

/-- RSV_GRANT (R328, R329): the source injects the packets that wait, each of which uses a reservation that its destination frees
again; the rest stays unused. -/
def execRsvGrant (q : RsvMsg) (s : State) : Out :=
  let k := rsvKey q.src q.dst q.res
  let asked := sget 0 s.noc.asked k
  let n := min q.count (sget 0 s.noc.granted k - sget 0 s.noc.unused k)
  if asked = 0 || n = 0 then .next s
  else
    let used := min n asked
    let e := if s.noc.epoch then 1 else 0
    let s := { s with noc.asked := sset 0 s.noc.asked k 0, noc.unused := smod 0 s.noc.unused k (· + (n - used)),
                      noc.injected := smod 0 s.noc.injected e (· + used), noc.ejected := smod 0 s.noc.ejected e (· + used) }
    .next (poolGrant q.src q.dst q.res used (grantAll q.dst q.res (s.noc.waiting.length + 1) (dropGrants q.src q.dst q.res used s)))

/-- RSV_REVOKE (R330): the source returns its unused reservations. -/
def execRsvRevoke (q : RsvMsg) (s : State) : Out :=
  let k := rsvKey q.src q.dst q.res
  let n := sget 0 s.noc.unused k
  if n = 0 then .next s
  else .next (sendRsv 0x83 q.src q.dst { q with count := n } { s with noc.unused := sset 0 s.noc.unused k 0 }).2

/-- RSV_RETURN (R330): returned reservations count toward the drain of their destination. -/
def execRsvReturn (q : RsvMsg) (s : State) : Out :=
  let k := rsvKey q.src q.dst q.res
  let n := min q.count (sget 0 s.noc.granted k - sget 0 s.noc.unused k)
  .next (grantAll q.dst q.res (s.noc.waiting.length + 1) (dropGrants q.src q.dst q.res n s))

/-! ## Domains (R330, R331, R396) -/

/-- The domains of a power group that the variant has (R366). -/
def groupDoms (s : State) (g : Nat) : List Nat := (List.range 152).filter (fun n => domGroup s n = g && domExists s n)

/-- Every domain of a group is asleep: the entry has succeeded, its back-off is cleared and its refusals may be logged again
(R402, R403). -/
def groupAsleep (g : Nat) (s : State) : State :=
  if (groupDoms s g).all (fun n => (domOf s n).st = .asleep) then
    (groupDoms s g).foldl (fun t n => modDom n (fun d => { d with refLogged := false, refusals := 0 }) t)
      (modGrp g (fun x => { x with phase := .asleep, backoff := 0, running := false }) s)
  else s

/-- The domains of a group start to wake, as one unit (R395, R396). -/
def wakeGroup (g : Nat) (s : State) : State :=
  coreSupply ((groupDoms s g).foldl (fun t n =>
      modDom n (fun d => if d.st = .asleep then { d with st := .waking, wakeEvent := false } else d) t)
    (modGrp g (fun x => { x with phase := if x.phase = .asleep then .awake else x.phase }) s))

/-- DOMAIN_DRAIN_COMPLETE (R330, R331): nothing granted is outstanding, so the domain completes its entry and powers down. A
recorded wake event starts the wake once the entry of the group has ended. -/
def execDomainDrainComplete (dom : Nat) (s : State) : Out :=
  let d := domOf s dom
  if d.st ≠ .entering || d.inflight ≠ 0 then .next s
  else
    let s := if 96 ≤ dom && dom < 112 then enterSelfRefresh (dom - 96) s else s
    let g := domGroup s dom
    let s := coreSupply (groupAsleep g (modDom dom (fun d => { d with st := .asleep }) s))
    if (grpOf s g).phase = .asleep && (groupDoms s g).any (fun n => (domOf s n).wakeEvent) then .next (wakeGroup g s) else .next s

/-- DOMAIN_WAKE (R396): a held reservation request or an access wakes a sleeping domain with its group; while the entry is in
progress the wake is recorded. -/
def execDomainWake (dom : Nat) (s : State) : Out :=
  match (domOf s dom).st with
  | .asleep =>
    let g := domGroup s dom
    if (groupDoms s g).any (fun n => (domOf s n).st = .entering) then .next (modDom dom (fun d => { d with wakeEvent := true }) s)
    else .next (wakeGroup g s)
  | .entering => .next (modDom dom (fun d => { d with wakeEvent := true }) s)
  | _ => .next s

/-- DOMAIN_WAKE_COMPLETE (R331): a woken domain grants again, and its gateway passes the held requests in arrival order. A channel
grants once it has left self-refresh (Table 11.9). -/
def execDomainWakeComplete (dom : Nat) (s : State) : Out :=
  let d := domOf s dom
  if d.st ≠ .waking || (96 ≤ dom && dom < 112 && (chan s (dom - 96)).selfRefresh) then .next s
  else
    let s := setDom dom { d with st := .awake, heldRsv := [], wakeEvent := false } s
    .next (d.heldRsv.foldl (fun t q =>
      grantAll q.dst q.res (t.noc.waiting.length + 1) { t with noc.waiting := t.noc.waiting ++ [q] }) s)

/-! ## Errors of the mesh and the bridge (R320, R322) -/

/-- NOC_UE (R322): the header is discarded, its reservation stays consumed, and a freeze is triggered. -/
def execNocUe (router port : Nat) (s : State) : Out :=
  let e := if s.noc.epoch then 1 else 0
  let s := { s with noc.stuckConsumed := s.noc.stuckConsumed + 1, noc.injected := smod 0 s.noc.injected e (· + 1) }
  .next (freezeNow 3 (logIt { cause := 0x50, src := epTile router, args := [router / 48, router % 48, port, 0] } s))

/-- BRIDGE_UNIT_REPLAY (R320): the eighth consecutive replay takes the port down. -/
def execBridgeUnitReplay (bridge : Nat) (s : State) : Out :=
  let b := bridgeOf s bridge
  if b.down || s.fuse.variantH then .next s
  else if b.replays + 1 < 8 then .next { s with noc.bridge := sset {} s.noc.bridge bridge { b with replays := b.replays + 1 } }
  else
    let s := { s with noc.bridge := sset {} s.noc.bridge bridge { b with replays := 8, down := true } }
    let all := (List.range 16).all (fun k => (bridgeOf s k).down)
    .next (logIt { cause := 0x51, cls := some (if all then 3 else 2), src := endpoint 0 (bridge / 2) 5 0, args := [bridge / 2, bridge % 2] } s)

/-! ## Route epochs (R332, R333) -/

/-- ROUTE_EPOCH_SWITCH (R332): every router has acknowledged the new tables, so sources stamp the new epoch. -/
def execRouteEpochSwitch (s : State) : Out :=
  .next (if s.noc.ackPending && s.noc.retiring.isNone then evMgt 0 8
    { s with noc.epoch := !s.noc.epoch, noc.retiring := some s.noc.epoch, noc.ackPending := false } else s)

/-- EPOCH_RETIREMENT (R332): the totals of the old epoch are equal, and its bank is retired. -/
def execEpochRetirement (s : State) : Out :=
  match s.noc.retiring with
  | none => .next s
  | some e =>
    let k := if e then 1 else 0
    .next (if sget 0 s.noc.injected k = sget 0 s.noc.ejected k then { s with noc.retiring := none } else s)

/-- ROUTE_STUCK (R333): the bank is not retired within ROUTE_DRAIN_LIMIT; both epochs go on being routed. -/
def execRouteStuck (s : State) : Out :=
  match s.noc.retiring with
  | none => .next s
  | some e =>
    let k := if e then 1 else 0
    let i := sget 0 s.noc.injected k
    let j := sget 0 s.noc.ejected k
    if i = j then .next s
    else .next (freezeNow 4 (logIt { cause := 0x52, args := k :: wide i ++ wide j } s))

end Sys2Proof.Machine
end

