-- ==== Sys2Proof/Machine/Movers.lean ====
section
/-! DEFINITION. The accesses that the device makes itself for ring commands: a line read as RD_CUR, a line written as WR_FULL,
ZERO of a page, pins, and the movers (R51, R65, R87, R351, R352, R359). -/

namespace Sys2Proof.Machine

open Sys2Proof

/-! ## Lines (R163, R351) -/

/-- Start a transaction of the device's own at a line's home bank: RD_CUR (0x01), WR_PART (0x09), or the invalidation of every
copy (0xFF, log entry 31). A line with one under way is left. -/
def startOwn (op : BitVec 8) (l : Line) (cls : BitVec 8) (deadline : BitVec 12) (s : State) : State :=
  if lineBusy s l then s
  else
    let (w, s) := arrive (tick s) { op := op, src := nodeId s, dst := nodeId s, line := foldLine (indexBits s) l, cls := cls,
                                    deadline := deadline } s
    admitReq w s

/-- The snoops that an access of the device's own needs (Table 6.4). -/
def ownSnoops (s : State) (op : BitVec 8) (l : Line) : List (Node × SnoopKind × Holder) :=
  planSnoops (members s l) (fwdEnable s) true (dirEntry s l) op (nodeId s)

/-- What a read of a line gives now: its bytes, ERR_DATA, or nothing yet (log entry 31). -/
inductive Got where
  | bytes (x : BitVec 512)
  | err
  | later
  deriving DecidableEq, Repr

/-- A line of a Warm page: a decompressor tile decodes it (R26, R82, R87); a bale that fails follows R55. -/
def storedWarm (l : Line) (cls : BitVec 8) (s : State) : Got × State :=
  let page := pageOf l
  let i := l.toNat % 64
  match placeTile (bankOf s l) 0 32 (lineLoad s) s with
  | none => (.later, s)
  | some (t, s) =>
    let x := warmLine s page i
    let s := tileLine t (neededGranules s page i).length (x.any Prod.snd) x.isSome (readGranules cls page (neededGranules s page i) s)
    match x with
    | some (x, false) => (.bytes x, fillLine l x cls s)
    | some (_, true) => (.err, s)
    | none => (.later, runFail page s)

/-- The line of a page's storage, which fills the Quay data partition (R26, R49, R56, Table 5.7). A berth line that fails its check is
read a second time (R154). -/
def storedNow (l : Line) (w : Work) (s : State) : Got × State :=
  let page := pageOf l
  let i := l.toNat % 64
  let s := loadCtr page s
  let d := descOf s page
  match dState d with
  | .unbacked => (.bytes 0, evQb (bankOf s l) 20 s)
  | .cold => (.later, openFault w page id s)
  | .warm => if keyGone s page then (.err, logKeyGone page s) else storedWarm l w.cls s
  | _ => match lineAddr d i with
    | none => (.bytes 0, evQb (bankOf s l) 20 s)
    | some a =>
      if keyGone s page then (.err, logKeyGone page s)
      else
        let st := dramContent s a
        let k := readCheck s (dSealed d) (dKey d) (berthPos (ctrOf s page) page i) a st
        let s := noteCheck a l.toNat k.1 false (useCtx a (dSealed d) (dKey d) (readNow w.cls a s))
        match k.2 with
        | some (x, false) => (.bytes x, fillLine l x w.cls s)
        | some (_, true) => (.err, s)
        | none =>
          let s := lineUncorrectable page i a st none (readNow w.cls a s)
          if dState (descOf s page) = .cold then (.later, openFault w page id s) else (.err, s)

/-- The work of a ring command's access: its class, and DUE from its deadline (R231, R233, R345). -/
def accessWork (cls : BitVec 8) (deadline : BitVec 12) (s : State) : Work := { cls := cls, due := dueOf (tick s) deadline }

/-- Read a line as RD_CUR under the device's own node ID (R351). An owner's copy is snooped first; a line that is busy, Cold or
held by a tier operation comes later. -/
def readLine (l : Line) (cls : BitVec 8) (deadline : BitVec 12) (s : State) : Got × State :=
  let page := pageOf l
  if lineBusy s l || pageBars s page false || framePending s page then (.later, s)
  else
    let s := dirFix l (descFix page s)
    if lineGone s l then (.err, s)
    else if !(ownSnoops s 0x01 l).isEmpty then (.later, startOwn 0x01 l cls deadline s)
    else
      let b := bankOf s l
      match qline s l with
      | some q =>
        let s := touchPage page false (evQb b 4 s)
        if q.mask = BitVec.allOnes 64 then ((if q.poison then .err else .bytes q.data), s)
        else
          let s := mergeNow l 0 true s
          (match qline s l with
           | some q => if q.mask = BitVec.allOnes 64 then ((if q.poison then .err else .bytes q.data), s) else (.later, s)
           | none => (.later, s))
      | none => storedNow l (accessWork cls deadline s) (touchPage page false (evQb b 5 s))

/-- A write of a line can be made now; else what it waits for is started (R351, R354, log entry 31). -/
def storeReady (l : Line) (cls : BitVec 8) (deadline : BitVec 12) (s : State) : Bool × State :=
  let page := pageOf l
  if lineBusy s l || pageBars s page true || framePending s page then (false, s)
  else if snapHeld s l true then (false, snapFirst l s)
  else
    let s := dirFix l (descFix page s)
    if !(ownSnoops s 0x08 l).isEmpty then (false, startOwn 0xFF l cls deadline s)
    else ((makeRoom l s).isSome, s)

/-- Write a line as WR_FULL (R28, R302, R351); a page whose key is not Active stores nothing (R92). It says whether the line was
stored. -/
def storeLine (l : Line) (x : BitVec 512) (poison : Bool) (cls : BitVec 8) (s : State) : Bool × State :=
  let page := pageOf l
  match (takesKey s page).filter (fun k => (keyCtxOf s k).isNone) with
  | some k => (false, logIt { cause := 0x03, src := epQb (bankOf s l), kind := 1, addr := dla l, key := k, node := nodeId s } s)
  | none =>
    let s := if entryKind (dirEntry s l) = .any then s else setDir l 0 s
    let s := if poison then logIt { cause := 0x47, src := epQb (bankOf s l), kind := 1, addr := dla l, node := nodeId s, args := [8] } s
      else s
    (true, writeQuay l (BitVec.allOnes 64) x poison cls (nodeId s) 0 s)

/-- Read the lines of a list: none when one comes later. -/
def readLines (cls : BitVec 8) (deadline : BitVec 12) : List Line → State → Option (List Got) × State
  | [], s => (some [], s)
  | l :: r, s =>
    let (g, s) := readLine l cls deadline s
    let (t, s) := readLines cls deadline r s
    (if g = .later then none else t.map (g :: ·), s)

/-- Every line of a list can be written now. -/
def storesReady (cls : BitVec 8) (deadline : BitVec 12) : List Line → State → Bool × State
  | [], s => (true, s)
  | l :: r, s =>
    let (a, s) := storeReady l cls deadline s
    let (b, s) := storesReady cls deadline r s
    (a && b, s)

/-- Write lines, poisoned where a read gave ERR_DATA; the positions in the list that were not stored. -/
def storeLines (cls : BitVec 8) : Nat → List (Line × Got) → State → List Nat × State
  | _, [], s => ([], s)
  | i, (l, g) :: r, s =>
    let (ok, s) := match g with
      | .bytes x => storeLine l x false cls s
      | _ => storeLine l 0 true cls s
    let (bad, s) := storeLines cls (i + 1) r s
    (if ok then bad else i :: bad, s)

/-- The `n` bytes from a DLA as lines. -/
def linesOf (a n : Nat) : List Line := (List.range (n / 64)).map (fun i => BitVec.ofNat 39 (a / 64 + i))

/-! ## ZERO of a page (R51, R352) -/

/-- The descriptor that ZERO leaves (R51). -/
def zeroDesc (d : BitVec 128) : BitVec 128 :=
  dFlag (dFlag (dFlag 0 26 (dPin d)) 25 (dLedger d)) 24 (dLedger d)

/-- Make a wholly covered page Unbacked: none while a line of it or an operation on it holds it up; the copies of caching nodes
are invalidated first (R352). -/
def zeroPage (page : Nat) (cls : BitVec 8) (deadline : BitVec 12) (s : State) : Bool × State :=
  let ls := linesOf (page * 4096) 4096
  if framePending s page || (opOf s page).isSome || ls.any (fun l => lineBusy s l) then (false, s)
  else if ls.any (fun l => snapHeld s l true) then (false, snapFirst (lineOf page 0) s)
  else
    let s := ls.foldl (fun t l => dirFix l t) (descFix page s)
    let copies := ls.filter (fun l => !(ownSnoops s 0x08 l).isEmpty)
    if !copies.isEmpty then (false, copies.foldl (fun t l => startOwn 0xFF l cls deadline t) s)
    else
      let s := ls.foldl (fun t l => setDir l 0 (dropLine l t)) s
      let s := { s with quay.merges := s.quay.merges.filter (fun m => m / 64 ≠ page) }
      let d := descOf s page
      let z := zeroDesc d
      let s := setDesc page z (freeStorage d (staleSegs page s))
      if dDirty z && !dDirty d then (true, joinDirty page (some cls) s)
      else if dDirty d && !dDirty z then
        (true, { s with led.order := s.led.order.filter (· ≠ page), led.grace := s.led.grace.filter (· ≠ page),
                        led.queue := s.led.queue.filter (· ≠ page) })
      else (true, s)

/-! ## Pins and tiers (R65, R340) -/

/-- A descriptor holds a pinned berth: PIN, and a berth in its state (Tables 2.2, 2.4). -/
def pinnedBerth (d : BitVec 128) : Bool :=
  dPin d && (match dState d with
    | .hot | .retired => true
    | .poisoned | .orphaned => dBerth d
    | _ => false)

/-- Pinned berths of the device. -/
def pinnedBerths (s : State) : Nat := (s.quay.desc.filter (fun e => pinnedBerth (dView e.2))).length

/-- The pages of a list that would add to the pinned berths. -/
def pinNeed (s : State) (ps : List Nat) : Nat :=
  (ps.filter (fun p => !pinnedBerth (descOf s p))).length

/-- The pages can be pinned within PIN_LIMIT (Table 2.4). -/
def pinFits (s : State) (ps : List Nat) : Bool :=
  (pinnedBerths s + pinNeed s ps) * 10000 ≤ param s 0x02 12 * poolSize s

/-- Bring a page on toward Hot (R65): a zero berth for an Unbacked page, a promotion for a Warm one, a demand fault and then a
promotion for a Cold one, in the class of the command. -/
def bringHot (cls : BitVec 8) (page : Nat) (s : State) : State :=
  if framePending s page then s
  else
    let s := descFix page s
    match opOf s page with
    | some _ => modOp page (fun o => { o with pin := true }) s
    | none => match dState (descOf s page) with
      | .unbacked => match allocFrame (descDie s page) false s with
        | none => s
        | some (f, s) =>
          let d := descOf s page
          let s := doWork { cls := cls } (fillBerth page f (dSealed d) (dKey d) (List.replicate 64 (0, false))) (setFrame f (mkBerthFrame page) s)
          setDesc page (mkHot d f (param s 0x02 1) s.tier.decayEpoch.toNat) s
      | .warm => startPromotion false page (fun o => { o with pin := true }) s
      | .cold => openFault { cls := cls } page (fun o => { o with pin := true }) s
      | _ => s

/-- The page has reached what PIN_HOT brings it to, or can go no further (R65). -/
def pinDone (s : State) (page : Nat) : Bool :=
  (opOf s page).isNone && !framePending s page &&
  (match dState (descOf s page) with | .unbacked | .warm | .cold => false | _ => true)

/-- Set or clear PIN of a page, in its descriptor and in the map mirror (R65, R202). -/
def setPin (page : Nat) (v : Bool) (s : State) : State :=
  let s := descFix page s
  let d := descOf s page
  if dPin d = v then s else pinMirror page v (setDesc page (dFlag d 26 v) s)

/-- Pin a page and bring it to Hot (R65). -/
def pinPage (cls : BitVec 8) (page : Nat) (s : State) : State := bringHot cls page (setPin page true s)

/-! ## Movers (R87, R351) -/

/-- The mover tiles that a management complex may use: its die's, then the other die's (R351). -/
def moverOrder (s : State) (cpx : Nat) : List Nat :=
  let p := sget 0 s.tier.poolPtr (4 * (16 + cpx) + 2)
  let turn (l : List Nat) : List Nat := l.rotateLeft (p % max l.length 1)
  turn (tilesFor s cpx 2) ++ (if s.fuse.variantH then [] else turn (tilesFor s (1 - cpx) 2))

/-- A mover has moved `n` lines of a unit: 6 tile cycles for each (R238, log entry 32). -/
def moverUnit (cpx : Nat) (cls : BitVec 8) (n : Nat) (s : State) : State :=
  match pickTile s (moverOrder s cpx) (fun _ => true) with
  | none => s
  | some t =>
    let s := wakeTile t { s with tier.poolPtr := smod 0 s.tier.poolPtr (4 * (16 + cpx) + 2) (· + 1) }
    countUse (instPool (t / 48) 2) cls (6 * n) (tileUnits t 1 n (6 * n) 0 true s)

end Sys2Proof.Machine
end

