-- ==== Sys2Proof/Machine/Rings.lean ====
section
/-! DEFINITION. Command rings (R338 to R359): contexts, doorbells, fetch, checks, the commands and their completions. -/

namespace Sys2Proof.Machine

open Sys2Proof

/-! ## Answers of register accesses (R462, R467) -/

/-- A register access ends: ERR_REG is counted by the serving management complex, and an access over I3C leaves its status for
the private read (R462, R467). -/
def regDone (path : Nat) (cpx : Option Nat) (ok : Bool) (s : State) : State :=
  let s := if path = 0 then { s with aon.i3cStatus := if ok then 0 else 1, aon.i3cData := [] } else s
  match cpx, ok with
  | some m, false => evMgt m 4 s
  | _, _ => s

/-! ## Ring contexts (Table 12.1) -/

def ctxOf (s : State) (r : Nat) : BitVec 256 := sget 0 s.rings.ctx r
def setCtx (r : Nat) (c : BitVec 256) (s : State) : State := { s with rings.ctx := sset 0 s.rings.ctx r c }
def modCtx (r : Nat) (f : BitVec 256 → BitVec 256) (s : State) : State := setCtx r (f (ctxOf s r)) s
def rEnable (c : BitVec 256) : Bool := c.getLsbD 0
def rNotify (c : BitVec 256) : Bool := c.getLsbD 1
def rPriv (c : BitVec 256) : Bool := c.getLsbD 2
def rOwnerAny (c : BitVec 256) : Bool := c.getLsbD 12
/-- The class that a ring runs in: class 0 when BOUND = 0. -/
def rClass (c : BitVec 256) : BitVec 8 := if c.getLsbD 13 then c.extractLsb' 14 8 else 0
def rInflight (c : BitVec 256) : Nat := fieldNat c 29 22 + 1
def rCmdVer (c : BitVec 256) : Nat := fieldNat c 33 30
def rSqLog (c : BitVec 256) : Nat := fieldNat c 38 34
def rCqLog (c : BitVec 256) : Nat := fieldNat c 43 39
def rSqBase (c : BitVec 256) : Nat := fieldNat c 76 44
def rCqBase (c : BitVec 256) : Nat := fieldNat c 109 77
def rOwner (c : BitVec 256) : Node := c.extractLsb' 111 17
/-- STATE: 0 disabled, 1 running, 2 stopping, 3 fault. -/
def rState (c : BitVec 256) : Nat := fieldNat c 161 160
def rPhase (c : BitVec 256) : Bool := c.getLsbD 162
def rInProg (c : BitVec 256) : Nat := fieldNat c 191 176
def rSqHead (c : BitVec 256) : Nat := fieldNat c 207 192
def rSqTail (c : BitVec 256) : Nat := fieldNat c 223 208
def rCqHead (c : BitVec 256) : Nat := fieldNat c 239 224
def rCqTail (c : BitVec 256) : Nat := fieldNat c 255 240
def rSetState (v : BitVec 2) (c : BitVec 256) : BitVec 256 := setField c 160 v
def rSetErr (v : BitVec 8) (c : BitVec 256) : BitVec 256 := setField c 168 v
def rSetInProg (n : Nat) (c : BitVec 256) : BitVec 256 := setField c 176 (BitVec.ofNat 16 n)

/-- The management complex that holds a ring's context (R338). -/
def cpxOf (s : State) (r : Nat) : Nat := if s.fuse.variantH then 0 else r / 16384

/-- Queue pages: first page and number, of the SQ and of the CQ. -/
def sqPages (c : BitVec 256) : Nat × Nat := (rSqBase c, 2 ^ (rSqLog c - 6))
def cqPages (c : BitVec 256) : Nat × Nat := (rCqBase c, 2 ^ (rCqLog c - 8))
def pagesOf (q : Nat × Nat) : List Nat := (List.range q.2).map (· + q.1)
def touching (a b : Nat × Nat) : Bool := a.1 < b.1 + b.2 && b.1 < a.1 + a.2

/-- The queues of the enabled rings other than `r`. -/
def otherQueues (s : State) (r : Nat) : List (Nat × Nat) :=
  (s.rings.ctx.filter (fun e => e.1 ≠ r && rEnable e.2)).flatMap (fun e => [sqPages e.2, cqPages e.2])

/-- A page of a queue of an enabled ring (R340). -/
def queuePageOf (s : State) (page : Nat) : Bool :=
  s.rings.ctx.any (fun e => rEnable e.2 && ((pagesOf (sqPages e.2)).contains page || (pagesOf (cqPages e.2)).contains page))

/-- The checks of R340, in the order of their codes (Table 12.7, log entry 33): 0 when all hold. -/
def enableCheck (s : State) (r : Nat) (c : BitVec 256) : BitVec 8 :=
  let sq := sqPages c
  let cq := cqPages c
  let sizes := 6 ≤ rSqLog c && rSqLog c ≤ 16 && 8 ≤ rCqLog c && rCqLog c ≤ 16
  if !sizes then 0x12
  else if numPages s < sq.1 + sq.2 || numPages s < cq.1 + cq.2 then 0x10
  else if touching sq cq || (otherQueues s r).any (fun q => touching q sq || touching q cq) then 0x11
  else if rCmdVer c ≠ 1 then 0x13
  else if !pinFits s (pagesOf sq ++ pagesOf cq) then 0x14
  else 0

/-- A ring starts (R340). -/
def startRing (r : Nat) (c : BitVec 256) (s : State) : State :=
  let c := c &&& BitVec.ofNat 256 (2 ^ 128 - 1) ||| place 256 160 (1 : BitVec 2) ||| place 256 162 (1 : BitVec 1) |||
    place 256 168 (c.extractLsb' 168 8)
  (pagesOf (sqPages c) ++ pagesOf (cqPages c)).foldl (fun t p => pinPage (rClass c) p t)
    (setCtx r c { s with rings.refused := sset 0 s.rings.refused r 0 })

/-- R341 step 4: a stopping ring with nothing in progress is disabled. -/
def settleRing (r : Nat) (s : State) : State :=
  let c := ctxOf s r
  if rState c = 2 && rInProg c = 0 then setCtx r (rSetState 0 c) s else s

def modCmd (ring idx : Nat) (f : RCmd → RCmd) (s : State) : State :=
  { s with rings.cmds := s.rings.cmds.map (fun c => if c.ring = ring && c.idx = idx then f c else c) }
def cmdOf (s : State) (ring idx : Nat) : Option RCmd := s.rings.cmds.find? (fun c => c.ring = ring && c.idx = idx)

/-- A write clears ENABLE (R341): commands that have not started are aborted; in fault nothing is posted (R346). -/
def stopRing (r : Nat) (s : State) : State :=
  let c := ctxOf s r
  let s := { s with rings.cmds := s.rings.cmds.map (fun x => if x.ring = r && !x.started then
      { x with started := true, finished := true, status := 0x0A } else x) }
  settleRing r (setCtx r (rSetState 2 (setField c 0 (0 : BitVec 1))) s)

/-- A write of word `w` of a ring's context (R339): the new state, or ERR_REG with the state that it leaves. -/
def ctxWrite (path r w : Nat) (v : BitVec 32) (s : State) : Bool × State :=
  let c := ctxOf s r
  if 4 ≤ w then (true, s)
  else
    let v := if w = 0 then v &&& 0xFFFFF007 else if w = 3 then v &&& 0xFFFFBFFF else v
    let n := setField c (32 * w) v
    if rPriv n ≠ rPriv c && path ≠ 0 then (false, s)
    else if rEnable c then
      if n = setField c 0 (0 : BitVec 1) then (true, stopRing r s) else (false, s)
    else if rEnable n then
      if rState c ≠ 0 then (false, s)
      else
        let e := enableCheck s r n
        if e ≠ 0 then (false, setCtx r (rSetErr e c) s) else (true, startRing r n s)
    else (true, setCtx r n s)

/-- The ring's complex is one that the device has. -/
def ringExists (s : State) (r : Nat) : Bool := r < 32768 && (s.aon.mode ≠ .stall && s.aon.mode ≠ .watch)

/-- RING_ENABLE (R340): a write of word 0 of a ring's context. -/
def execRingEnable (path ring : Nat) (word : BitVec 32) (s : State) : Out :=
  if !ringExists s ring then .next (regDone path none false s)
  else
    let (ok, s) := ctxWrite path ring 0 (word ||| 1) s
    .next (settle (regDone path (some (cpxOf s ring)) ok s))

/-- RING_DISABLE (R341): a write of word 0 of a ring's context that clears ENABLE. -/
def execRingDisable (path ring : Nat) (word : BitVec 32) (s : State) : Out :=
  if !ringExists s ring then .next (regDone path none false s)
  else
    let (ok, s) := ctxWrite path ring 0 (word &&& 0xFFFFFFFE) s
    .next (settle (regDone path (some (cpxOf s ring)) ok s))

/-! ## Doorbells (R342, R343) -/

/-- Why a doorbell is refused (Table 12.7): 0 when it is not. -/
def doorbellReason (path : Nat) (node : Node) (c : BitVec 256) (value log2 : Nat) : Nat :=
  if path ≠ 0 && !rOwnerAny c && node ≠ rOwner c then 1
  else if rState c ≠ 1 then 2
  else if 2 ^ log2 ≤ value then 3
  else 0

/-- A doorbell is refused, logged once for each change of reason (R342). -/
def refuseDoorbell (node : Node) (r reason : Nat) (s : State) : State :=
  let s := evMgt (cpxOf s r) 9 s
  if sget 0 s.rings.refused r = reason then s
  else logIt { cause := 0x59, node := node, args := [r, reason] } { s with rings.refused := sset 0 s.rings.refused r reason }

/-- A write of a doorbell register (R342, R343); whether it was accepted. -/
def doorbell (path : Nat) (node : Node) (r : Nat) (cq : Bool) (value : BitVec 32) (s : State) : Bool × State :=
  let c := ctxOf s r
  let v := fieldNat value 15 0
  match doorbellReason path node c v (if cq then rCqLog c else rSqLog c) with
  | 0 =>
    let s := { s with rings.refused := sset 0 s.rings.refused r 0 }
    if cq then
      let c := setField c 224 (BitVec.ofNat 16 v)
      let s := setCtx r c s
      (true, if rCqHead c = rCqTail c then
        { s with rings.pend := smod 0 s.rings.pend (r / 32) (fun w => setField w (r % 32) (0 : BitVec 1)) } else s)
    else (true, setCtx r (setField c 208 (BitVec.ofNat 16 v)) s)
  | k => (false, refuseDoorbell node r k s)

/-- RING_DB_SQ_TAIL (R343). -/
def execRingDbSqTail (path : Nat) (node : Node) (ring : Nat) (value : BitVec 32) (s : State) : Out :=
  if !ringExists s ring then .next (regDone path none false s)
  else
    let (ok, s) := doorbell path node ring false value s
    .next (regDone path (some (cpxOf s ring)) ok s)

/-- RING_DB_CQ_HEAD (R343, R349). -/
def execRingDbCqHead (path : Nat) (node : Node) (ring : Nat) (value : BitVec 32) (s : State) : Out :=
  if !ringExists s ring then .next (regDone path none false s)
  else
    let (ok, s) := doorbell path node ring true value s
    .next (regDone path (some (cpxOf s ring)) ok s)

/-! ## Submission entries (Tables 12.2 and 12.5) -/

def eOp (e : BitVec 512) : Nat := fieldNat e 7 0
def eFence (e : BitVec 512) : Bool := e.getLsbD 8
def eCmdId (e : BitVec 512) : BitVec 16 := e.extractLsb' 16 16
def eDeadline (e : BitVec 512) : BitVec 12 := e.extractLsb' 32 12
def eSrc (e : BitVec 512) : Nat := fieldNat e 127 64
def eDst (e : BitVec 512) : Nat := fieldNat e 191 128
def eLen (e : BitVec 512) : Nat := fieldNat e 255 192
def eArg0 (e : BitVec 512) : BitVec 64 := e.extractLsb' 256 64
def eArg2 (e : BitVec 512) : BitVec 64 := e.extractLsb' 384 64
/-- Operand field k, 0 SRC to 6 ARG3. -/
def eField (e : BitVec 512) (k : Nat) : Nat := fieldNat e (64 * k + 127) (64 * k + 64)

/-- What Table 12.5 says of a command: privileged, the bits that each operand field may set, the alignment of SRC, DST and
LENGTH (0: none), the fields that are addresses, the greatest LENGTH. -/
structure CmdSpec where
  /-- Priv column. -/
  priv : Bool := false
  /-- Bits of SRC, DST, LENGTH and ARG0 to ARG3 that the command uses. -/
  masks : List Nat := []
  /-- Align column. -/
  align : Nat := 0
  /-- Fields that hold a DLA: 0 SRC, 1 DST. -/
  addrs : List Nat := []
  /-- Upper limit of LENGTH. -/
  limit : Nat := 2 ^ 40
  deriving DecidableEq, Repr

def allBits : Nat := 2 ^ 64 - 1

/-- Table 12.5; none for a reserved opcode. -/
def cmdSpec (op : Nat) : Option CmdSpec :=
  let f := allBits
  match op with
  | 0x01 => some { masks := [f, f, f], align := 64, addrs := [0, 1] }
  | 0x02 => some { masks := [0, f, f, f], align := 64, addrs := [1] }
  | 0x03 => some { masks := [f, f, f], align := 64, addrs := [0, 1] }
  | 0x04 => some { masks := [0, f, f], align := 64, addrs := [1] }
  | 0x05 => some { priv := true, masks := [0, f, f], align := 4096, addrs := [1] }
  | 0x06 => some { priv := true, masks := [0, f, f], align := 4096, addrs := [1] }
  | 0x07 => some { priv := true, masks := [0, f, f, 1], align := 4096, addrs := [1] }
  | 0x08 => some { masks := [0, f, f], align := 4096, addrs := [1] }
  | 0x09 => some { masks := [f, 0, f], align := 4096, addrs := [0] }
  | 0x0A => some { priv := true, masks := [f, f, f], align := 4096, addrs := [0, 1], limit := 2 ^ 30 }
  | 0x0B => some { masks := [f, f, f], align := 4096, addrs := [0], limit := 2 ^ 30 }
  | 0x0C => some { priv := true, masks := [0, f, f], align := 4096, addrs := [1] }
  | 0x10 => some { priv := true, masks := [f, f, f, f, f, 0xF000FFFFF] }
  | 0x11 => some { priv := true, masks := [0, 0, 0, 0xFFFFF] }
  | 0x12 => some { priv := true, masks := [f, 0, f, 0xFFFFF000FFFFF], align := 4096, addrs := [0] }
  | 0x13 => some { priv := true, masks := [0, 0, 0, 0x7FFFFFFF] }
  | 0x14 => some { priv := true, masks := [0, 0, 0, 0x7FFF] }
  | 0x15 => some { priv := true, masks := [] }
  | _ => none

/-- Byte offset of operand field k in the entry. -/
def fieldOff (k : Nat) : BitVec 8 := BitVec.ofNat 8 (8 + 8 * k)

/-- The first field that breaks R347 or R350: its byte offset. -/
def fieldCheck (p : CmdSpec) (e : BitVec 512) : Option (BitVec 8) :=
  if fieldNat e 15 9 ≠ 0 then some 1
  else if fieldNat e 63 44 ≠ 0 then some 5
  else match (List.range 7).find? (fun k =>
    let v := eField e k
    let a := if eOp e = 0x0B && k = 1 then 64 else p.align
    v &&& (allBits - p.masks.getD k 0) ≠ 0 || (k < 3 && p.masks.getD k 0 ≠ 0 && a ≠ 0 && v % a ≠ 0) ||
    (k = 2 && p.align ≠ 0 && p.limit < v)) with
  | some k => some (fieldOff k)
  | none =>
    if (eOp e = 0x01 || eOp e = 0x0A) && eSrc e < eDst e + eLen e && eDst e < eSrc e + eLen e then some 16 else none

/-- A bank that the DIMMs have: coded as a bank entry of the retired list (R198). -/
def bankExists (s : State) (b : Nat) : Bool :=
  let c := b % 16
  let p := (chan s c).pop
  c < numChans s && (chanSets s).any (fun x => x.chans.contains c) && b / 32 % 4 < 2 ^ p.rankBits && b / 128 % 8 < 2 ^ p.cidBits

/-- The first field that is out of range (R350, Table 12.4). -/
def rangeCheck (s : State) (p : CmdSpec) (e : BitVec 512) : Option (BitVec 8) :=
  let bad (k n : Nat) : Bool := capacity s ≤ eField e k || capacity s < eField e k + n
  match p.addrs.find? (fun k => bad k (eLen e)) with
  | some k => some (fieldOff k)
  | none =>
    if eOp e = 0x0B && bad 1 (eLen e / 4096 * 16) then some 16
    else if eOp e = 0x13 && totalFrames s ≤ (eArg0 e).toNat then some 32
    else if eOp e = 0x14 && !bankExists s (eArg0 e).toNat then some 32
    else none

/-- Checks 1 to 4 of R350: STATUS and DETAIL of the first that fails. -/
def checkEntry (s : State) (c : BitVec 256) (e : BitVec 512) : Option (BitVec 6 × BitVec 8) :=
  match cmdSpec (eOp e) with
  | none => some (1, 0)
  | some p =>
    if rCmdVer c ≠ 1 then some (1, 0)
    else if p.priv && !rPriv c then some (4, 0)
    else match fieldCheck p e with
      | some o => some (2, o)
      | none => (rangeCheck s p e).map (fun o => (3, o))

/-! ## Fetch (R344, R357) -/

/-- A ring moves to fault (R344, R346): what has not started is dropped, what is in progress posts nothing. -/
def ringFault (r : Nat) (reason : BitVec 8) (s : State) : State :=
  let c := ctxOf s r
  let gone := (s.rings.cmds.filter (fun x => x.ring = r && !x.started)).length
  let s := { s with rings.cmds := (s.rings.cmds.filter (fun x => x.ring ≠ r || x.started)).map (fun x =>
      if x.ring = r then { x with lost := true } else x) }
  let c := rSetErr reason (rSetInProg (rInProg c - gone) (if rState c = 1 then rSetState 3 c else c))
  settleRing r (logIt { cause := 0x58, args := [r, reason.toNat] } (setCtx r c s))

/-- A ring is eligible for fetch (R344). -/
def ringEligible (s : State) (r : Nat) : Bool :=
  let c := ctxOf s r
  let n := 2 ^ rCqLog c
  rState c = 1 && rSqHead c ≠ rSqTail c && rInProg c < rInflight c &&
  (rCqTail c + n - rCqHead c) % n + rInProg c + 1 < n &&
  (s.aon.mode = .service || (s.aon.mode = .maintenance && rPriv c &&
    sget 0 s.reins.outst (rClass c).toNat < outCap s (rClass c).toNat))

/-- The ring whose entry a complex fetches next: rings of lowered classes last, else by the rotating pointer (R241, R344). -/
def pickRing (s : State) (cpx : Nat) : Option Nat :=
  let busy := ((s.rings.ctx.filter (fun e => cpxOf s e.1 = cpx)).map (fun e => rInProg e.2)).foldl (· + ·) 0
  if 4096 ≤ busy then none
  else
    let l := (s.rings.ctx.map Prod.fst).filter (fun r => cpxOf s r = cpx && ringEligible s r)
    let p := sget 0 s.rings.ptr cpx
    let turn := l.filter (fun r => p ≤ r) ++ l.filter (fun r => r < p)
    let low (r : Nat) : Bool := regulates s && !ledgerSpared s (rClass (ctxOf s r)).toNat && dirtyLowered s (rClass (ctxOf s r)).toNat
    match turn.find? (fun r => !low r) with
    | some r => some r
    | none => turn.head?

/-- RING_FETCH (R344, R345, R347, R350): the entry at SQ_HEAD is read as RD_CUR and checked. -/
def execRingFetch (cpx : Nat) (s : State) : Out :=
  match pickRing s cpx with
  | none => .next s
  | some r =>
    let c := ctxOf s r
    let i := rSqHead c
    match readLine (BitVec.ofNat 39 (rSqBase c * 64 + i)) (rClass c) 0xFFF s with
    | (.later, s) => .next (settle s)
    | (.err, s) => .next (settle (ringFault r 1 s))
    | (.bytes x, s) =>
      let c := rSetInProg (rInProg c + 1) (setField c 192 (BitVec.ofNat 16 ((i + 1) % 2 ^ rSqLog c)))
      let cmd : RCmd := { ring := r, idx := i, entry := x, fetchTick := tick s }
      let cmd := match checkEntry s c x with
        | some (st, d) => { cmd with started := true, finished := true, status := st, detail := d }
        | none => cmd
      .next (settle (outUp (rClass c) (evMgt cpx 1 (setCtx r c
        { s with rings.cmds := s.rings.cmds ++ [cmd], rings.ptr := sset 0 s.rings.ptr cpx ((r + 1) % 32768) }))))

/-! ## Starting commands (R346) -/

/-- The commands of a ring that were fetched before this one and are not yet posted. -/
def earlier (s : State) (c : RCmd) : List RCmd :=
  (s.rings.cmds.takeWhile (fun x => !(x.ring = c.ring && x.idx = c.idx))).filter (fun x => x.ring = c.ring)

/-- R346: commands of a ring start in SQ order; FENCE, PERSIST_BARRIER and SNAPSHOT wait for every earlier entry's completion;
at most 4 SNAPSHOTs are in progress (R354). -/
def mayStart (s : State) (c : RCmd) : Bool :=
  let e := earlier s c
  e.all RCmd.started && (!(eFence c.entry || eOp c.entry = 9 || eOp c.entry = 10) || e.isEmpty) &&
  (eOp c.entry ≠ 10 || (s.rings.cmds.filter isSnapshot).length < 4)

/-- Run a command of an opcode: it starts, once it may, with `first`, and goes on with `more` (R346). -/
def runCmd (op : Nat) (first more : RCmd → State → State) (ring idx : Nat) (s : State) : Out :=
  match cmdOf s ring idx with
  | none => .next s
  | some c =>
    if eOp c.entry ≠ op || c.finished then .next s
    else if c.started then .next (settle (more c s))
    else if !mayStart s c then .next s
    else .next (settle (first { c with started := true } (modCmd ring idx (fun x => { x with started := true }) s)))

/-- The class of a command's ring. -/
def cmdClass (s : State) (c : RCmd) : BitVec 8 := rClass (ctxOf s c.ring)
/-- A command ends. -/
def finish (c : RCmd) (status : BitVec 6) (detail : BitVec 8) (result : Nat) (s : State) : State :=
  endCmd c.ring c.idx status detail (BitVec.ofNat 64 result) s
def saveCmd (c : RCmd) (s : State) : State := modCmd c.ring c.idx (fun _ => c) s
/-- A count in bits [31:0] and another in bits [63:32] of RESULT. -/
def twoCounts (a b : Nat) : Nat := a % 2 ^ 32 + b % 2 ^ 32 * 2 ^ 32
/-- The pages of a range. -/
def rangePages (a n : Nat) : List Nat := (List.range (n / 4096)).map (· + a / 4096)
/-- A ranged command starts: LENGTH 0 ends it with SUCCESS (R350). -/
def startRange (c : RCmd) (s : State) : State := if eLen c.entry = 0 then finish c 0 0 0 s else s

/-! ## Data movement (R345, R351) -/

/-- Length of the unit at a DLA: the rest of its page, or one line where the range ends within the page (R345). -/
def unitLen (a left : Nat) : Nat := if 4096 - a % 4096 ≤ left then 4096 - a % 4096 else min left 64

/-- Lines that were not available are counted, and the first is kept (R351). -/
def noteBad (at' : Nat) (bad : List Nat) (c : RCmd) : RCmd :=
  match bad with
  | [] => c
  | i :: _ => { c with firstBad := some (c.firstBad.getD (at' + 64 * i)), badCount := c.badCount + bad.length }

/-- The end of COPY and FILL: DATA_ERROR with one log entry where lines were not available (R351). -/
def endMove (c : RCmd) (base : Nat) (s : State) : State :=
  match c.firstBad with
  | none => finish c 0 0 c.pos s
  | some o =>
    finish c 7 0 (if eOp c.entry = 1 then o else c.pos)
      (logIt { cause := 0x5A, kind := 1, addr := base + o, args := [c.ring, (eCmdId c.entry).toNat, c.badCount] } s)

/-- `n` bytes of a command are done; at the end of its range it ends. -/
def movedOn (c : RCmd) (n base : Nat) (s : State) : State :=
  let c := { c with pos := c.pos + n }
  let s := saveCmd c (moverUnit (cpxOf s c.ring) (cmdClass s c) (n / 64) s)
  if eLen c.entry ≤ c.pos then endMove c base s else s

/-- Lines whose read gave ERR_DATA, by position. -/
def errPlaces (l : List Got) : List Nat := (l.zipIdx.filter (fun p => p.1 = .err)).map Prod.snd

/-- The positions of both lists, rising. -/
def mergePlaces (n : Nat) (a b : List Nat) : List Nat := (List.range n).filter (fun i => a.contains i || b.contains i)

/-- A page that is Unbacked with no line of it in the Quay cache or in a directory entry (R351, log entry 34). -/
def plainUnbacked (s : State) (page : Nat) : Bool :=
  dState (descOf s page) = .unbacked && (opOf s page).isNone && !framePending s page &&
  (linesOf (page * 4096) 4096).all (fun l => (qline s l).isNone && entryKind (dirEntry s l) = .none && !lineBusy s l)

/-- One unit of COPY (R351). -/
def copyUnit (c : RCmd) (s : State) : State :=
  let a := eSrc c.entry + c.pos
  let b := eDst c.entry + c.pos
  let n := unitLen b (eLen c.entry - c.pos)
  let cls := cmdClass s c
  let dl := eDeadline c.entry
  if n = 4096 && a % 4096 = 0 && plainUnbacked s (a / 4096) then
    let (ok, s) := zeroPage (b / 4096) cls dl s
    if ok then movedOn c n (eSrc c.entry) s else s
  else match readLines cls dl (linesOf a n) s with
    | (none, s) => s
    | (some g, s) =>
      let (ready, s) := storesReady cls dl (linesOf b n) s
      if !ready then s
      else
        let (lost, s) := storeLines cls 0 ((linesOf b n).zip g) s
        movedOn (noteBad c.pos (mergePlaces (n / 64) (errPlaces g) lost) c) n (eSrc c.entry) s

/-- A line of a 64-bit pattern. -/
def patternLine (p : BitVec 64) : BitVec 512 := (List.range 8).foldl (fun x i => x ||| place 512 (64 * i) p) 0

/-- One unit of FILL. -/
def fillUnit (c : RCmd) (s : State) : State :=
  let b := eDst c.entry + c.pos
  let n := unitLen b (eLen c.entry - c.pos)
  let cls := cmdClass s c
  let (ready, s) := storesReady cls (eDeadline c.entry) (linesOf b n) s
  if !ready then s
  else
    let (lost, s) := storeLines cls 0 ((linesOf b n).map (fun l => (l, Got.bytes (patternLine (eArg0 c.entry))))) s
    movedOn (noteBad c.pos lost c) n (eDst c.entry) s

/-- The first byte in which two lines differ. -/
def diffByte (x y : BitVec 512) : Option Nat := (List.range 64).find? (fun i => byteAt x i ≠ byteAt y i)

/-- What comparing lines in order finds first: nothing, a line that is not available, a difference at an offset. -/
def compareLines : Nat → List (Got × Got) → Option (Option Nat)
  | _, [] => none
  | o, (.bytes x, .bytes y) :: r => match diffByte x y with
    | some i => some (some (o + i))
    | none => compareLines (o + 64) r
  | _, _ :: _ => some none

/-- One unit of COMPARE. -/
def compareUnit (c : RCmd) (s : State) : State :=
  let a := eSrc c.entry + c.pos
  let b := eDst c.entry + c.pos
  let n := unitLen b (eLen c.entry - c.pos)
  let cls := cmdClass s c
  let dl := eDeadline c.entry
  let (g, s) := readLines cls dl (linesOf a n) s
  let (h, s) := readLines cls dl (linesOf b n) s
  match g, h with
  | some g, some h =>
    let s := moverUnit (cpxOf s c.ring) cls (n / 64) s
    (match compareLines c.pos (g.zip h) with
     | some none => finish c 7 0 0 s
     | some (some o) => finish c 8 0 o s
     | none =>
       let c := { c with pos := c.pos + n }
       if eLen c.entry ≤ c.pos then finish c 0 0 (eLen c.entry) (saveCmd c s) else saveCmd c s)
  | _, _ => s

/-- The position after page `k` of a SNAPSHOT is copied: it passes the pages copied out of turn. -/
def snapPos (copied : List Nat) : Nat → Nat → Nat
  | 0, k => k
  | n + 1, k => if copied.contains k then snapPos copied n (k + 1) else k

/-- One page of SNAPSHOT: the next that a write waits for, else the lowest not yet copied (R354). -/
def snapUnit (c : RCmd) (s : State) : State :=
  if !c.fixed then s
  else
    let k := match c.first.find? (fun i => !c.copied.contains i && c.pos / 4096 ≤ i) with
      | some i => i
      | none => c.pos / 4096
    let a := eSrc c.entry + 4096 * k
    let b := eDst c.entry + 4096 * k
    let cls := cmdClass s c
    let dl := eDeadline c.entry
    match readLines cls dl (linesOf a 4096) s with
    | (none, s) => s
    | (some g, s) =>
      let (ready, s) := storesReady cls dl (linesOf b 4096) s
      if !ready then s
      else
        let (lost, s) := storeLines cls 0 ((linesOf b 4096).zip g) s
        let copied := k :: c.copied
        let pos := 4096 * snapPos copied (copied.length + 1) (c.pos / 4096)
        let c := noteBad (4096 * k) lost
          { c with copied := copied.filter (fun i => pos / 4096 ≤ i), first := c.first.filter (· ≠ k), pos := pos }
        let s := saveCmd c (moverUnit (cpxOf s c.ring) cls 64 s)
        if eLen c.entry ≤ pos then
          (if c.firstBad.isSome then finish c 7 0 (eLen c.entry) s else finish c 0 0 (eLen c.entry) s)
        else s

/-- MOVER_UNIT_COMPLETE (R351): the next unit of a COPY, FILL, COMPARE or SNAPSHOT in progress. A unit that must wait for
another node, for a tier operation or for a held line starts what it waits for. -/
def execMoverUnitComplete (ring idx : Nat) (s : State) : Out :=
  match cmdOf s ring idx with
  | none => .next s
  | some c =>
    if !c.started || c.finished then .next s
    else match eOp c.entry with
      | 0x01 => .next (settle (copyUnit c s))
      | 0x02 => .next (settle (fillUnit c s))
      | 0x03 => .next (settle (compareUnit c s))
      | 0x0A => .next (settle (snapUnit c s))
      | _ => .next s

/-- COPY (R351): it starts; its units are MOVER_UNIT_COMPLETE. -/
def execCopy (ring idx : Nat) (s : State) : Out := runCmd 0x01 startRange (fun _ s => s) ring idx s
/-- FILL (R351). -/
def execFill (ring idx : Nat) (s : State) : Out := runCmd 0x02 startRange (fun _ s => s) ring idx s
/-- COMPARE (R351). -/
def execCompare (ring idx : Nat) (s : State) : Out := runCmd 0x03 startRange (fun _ s => s) ring idx s

/-! ## ZERO (R352) -/

/-- ZERO goes on page by page, as far as it can now. -/
def zeroMore (ring idx : Nat) : Nat → State → State
  | 0, s => s
  | k + 1, s => match cmdOf s ring idx with
    | none => s
    | some c =>
      let b := eDst c.entry + c.pos
      let n := unitLen b (eLen c.entry - c.pos)
      let cls := cmdClass s c
      let dl := eDeadline c.entry
      let (done, s, c) : Bool × State × RCmd :=
        if n = 4096 then let (ok, s) := zeroPage (b / 4096) cls dl s; (ok, s, c)
        else
          let (ready, s) := storesReady cls dl (linesOf b n) s
          if !ready then (false, s, c)
          else
            let (lost, s) := storeLines cls 0 ((linesOf b n).map (fun l => (l, Got.bytes 0))) s
            (true, s, noteBad c.pos lost c)
      if !done then s
      else
        let c := { c with pos := c.pos + n }
        if eLen c.entry ≤ c.pos then endMove c (eDst c.entry) (saveCmd c s) else zeroMore ring idx k (saveCmd c s)

/-- The rest of a ZERO. -/
def zeroRest (c : RCmd) (s : State) : State := zeroMore c.ring c.idx (eLen c.entry / 64) s

/-- ZERO (R51, R352): given again it goes on where a page or a line held it up. -/
def execZero (ring idx : Nat) (s : State) : Out :=
  runCmd 0x04 (fun c s => if eLen c.entry = 0 then finish c 0 0 0 s else zeroRest c s) zeroRest ring idx s

/-! ## Tier commands (R65) -/

/-- PIN_HOT goes on: pages that are not yet Hot are brought on; when all are done it ends. -/
def pinMore (c : RCmd) (s : State) : State :=
  let s := c.waits.foldl (fun t p => if pinDone t p then t else bringHot (cmdClass t c) p t) s
  let left := c.waits.filter (fun p => !pinDone s p)
  let s := saveCmd { c with waits := left } s
  if left.isEmpty then finish c 0 0 (eLen c.entry / 4096) s else s

/-- PIN_HOT (R65, R356): the whole range or none of it. -/
def execPinHot (ring idx : Nat) (s : State) : Out :=
  runCmd 0x05 (fun c s =>
    let ps := rangePages (eDst c.entry) (eLen c.entry)
    if eLen c.entry = 0 then finish c 0 0 0 s
    else if !pinFits s ps then finish c 5 1 0 s
    else pinMore { c with waits := ps } (ps.foldl (fun t p => setPin p true t) s)) pinMore ring idx s

/-- UNPIN (R65, R340): queue pages of enabled rings are skipped. -/
def execUnpin (ring idx : Nat) (s : State) : Out :=
  runCmd 0x06 (fun c s =>
    let ps := rangePages (eDst c.entry) (eLen c.entry)
    let skip := ps.filter (queuePageOf s)
    let act := ps.filter (fun p => !queuePageOf s p)
    finish c 0 0 (twoCounts act.length skip.length) (act.foldl (fun t p => setPin p false t) s)) (fun _ s => s) ring idx s

/-- One page of DEMOTE: whether it was moved, skipped, started or must wait (R65). -/
inductive Demoted where
  | moved | skipped | started | waits
  deriving DecidableEq, Repr

/-- One page of DEMOTE. -/
def demotePage (toCold : Bool) (page : Nat) (s : State) : Demoted × State :=
  if (opOf s page).isSome || framePending s page then (.waits, s)
  else
    let s := descFix page s
    let d := descOf s page
    let st := dState d
    if dPin d || !(st = .hot || st = .warm) then (.skipped, s)
    else if toCold && coldOk s page then (.moved, moveToCold page s)
    else if st = .warm then (.skipped, s)
    else if freeFrames s = 0 && (openFor s 1).isNone then (.skipped, s)
    else
      let s := startDemotion page s
      (if (opOf s page).isSome then .started else .waits, s)

/-- DEMOTE goes on: demotions that have ended are counted, pages that waited are tried. RESULT holds the counts so far. -/
def demoteMore (c : RCmd) (s : State) : State :=
  let ended := c.waits.filter (fun p => match opOf s p with | some o => o.kind ≠ .demotion | none => true)
  let moved := (ended.filter (fun p => dState (descOf s p) ≠ .hot)).length
  let c := { c with waits := c.waits.filter (fun p => !ended.contains p),
                    result := BitVec.ofNat 64 (twoCounts (fieldNat c.result 31 0 + moved)
                      (fieldNat c.result 63 32 + (ended.length - moved))) }
  let (c, s) := c.first.foldl (fun (x : RCmd × State) p =>
    let (r, t) := demotePage ((eArg0 c.entry).getLsbD 0) p x.2
    let k := x.1
    let add (a b : Nat) : BitVec 64 := BitVec.ofNat 64 (twoCounts (fieldNat k.result 31 0 + a) (fieldNat k.result 63 32 + b))
    match r with
    | .moved => ({ k with result := add 1 0 }, t)
    | .skipped => ({ k with result := add 0 1 }, t)
    | .started => ({ k with waits := k.waits ++ [p] }, t)
    | .waits => ({ k with first := k.first ++ [p] }, t)) ({ c with first := [] }, s)
  let s := saveCmd c s
  if c.waits.isEmpty && c.first.isEmpty then finish c 0 0 c.result.toNat s else s

/-- DEMOTE (R65). -/
def execDemote (ring idx : Nat) (s : State) : Out :=
  runCmd 0x07 (fun c s => demoteMore { c with first := rangePages (eDst c.entry) (eLen c.entry) } s) demoteMore ring idx s

/-- PREFETCH goes on: it ends when every fault has completed (R65). `first` lists pages whose fault has opened. -/
def prefetchMore (c : RCmd) (s : State) : State :=
  let todo := c.waits.filter (fun p => !framePending s p)
  let pend := c.waits.filter (fun p => framePending s p)
  let (c, s) := todo.foldl (fun (x : RCmd × State) p =>
    let (k, t) := x
    let t := descFix p t
    if dState (descOf t p) = .cold then
      let t := openFault (accessWork (cmdClass t c) (eDeadline c.entry) t) p (fun o => { o with hot := max o.hot (param t 0x02 4) }) t
      if (match opOf t p with | some o => o.kind = .fault | none => false) && !k.first.contains p then
        ({ k with first := k.first ++ [p], result := k.result + 1 }, t) else (k, t)
    else (k, t)) (c, s)
  let left := (todo ++ pend).filter (fun p => framePending s p || dState (descOf s p) = .cold)
  let s := saveCmd { c with waits := left } s
  if left.isEmpty then finish c 0 0 c.result.toNat s else s

/-- PREFETCH (R65). -/
def execPrefetch (ring idx : Nat) (s : State) : Out :=
  runCmd 0x08 (fun c s => prefetchMore { c with waits := rangePages (eDst c.entry) (eLen c.entry) } s) prefetchMore ring idx s

/-! ## PERSIST_BARRIER and SNAPSHOT (R353, R354) -/

/-- A barrier ends when its set is empty: RESULT holds the pages of the set (R353). -/
def barrierEnd (c : RCmd) (s : State) : State :=
  match s.led.barriers.find? (fun b => b.1 = c.ring && b.2.1 = c.idx) with
  | some b =>
    if b.2.2.all (fun p => !dDirty (descOf s p)) then
      finish c 0 0 c.result.toNat { s with led.barriers := s.led.barriers.filter (fun x => !(x.1 = c.ring && x.2.1 = c.idx)) }
    else s
  | none => s

/-- PERSIST_BARRIER (R353): the dirty pages of the range, or of the whole space, are written back at once, each by a snapshot that
begins after this step. -/
def execPersistBarrier (ring idx : Nat) (s : State) : Out :=
  runCmd 0x09 (fun c s =>
    let lo := eSrc c.entry / 4096
    let ps := (s.quay.desc.filter (fun e => dDirty (dView e.2) &&
      (eLen c.entry = 0 || (lo ≤ e.1 && e.1 < lo + eLen c.entry / 4096)))).map Prod.fst
    let s := ps.foldl (fun t p => queuePage p (staleSegs p t)) s
    let s := { s with led.queue := s.led.queue.filter (fun p => ps.contains p) ++ s.led.queue.filter (fun p => !ps.contains p),
                      led.barriers := s.led.barriers ++ [(ring, idx, ps)] }
    let c := { c with result := BitVec.ofNat 64 ps.length }
    barrierEnd c (packQueued (saveCmd c s))) barrierEnd ring idx s

/-- SNAPSHOT (R354): the hold is sent to every bank; writes of source lines wait from now on. -/
def execSnapshot (ring idx : Nat) (s : State) : Out := runCmd 0x0A startRange (fun _ s => s) ring idx s

/-- SNAPSHOT_POINT_FIXED (R354): the last bank has acknowledged; the holds are lifted, but for pages not yet copied. -/
def execSnapshotPointFixed (ring idx : Nat) (s : State) : Out :=
  match cmdOf s ring idx with
  | none => .next s
  | some c =>
    if !isSnapshot c || c.fixed then .next s
    else .next (settle (modCmd ring idx (fun x => { x with fixed := true }) s))

/-! ## QUERY_TIER and SCRUB_RANGE (R355, R356) -/

/-- The record of Table 12.6. -/
def tierRecord (s : State) (page : Nat) : BitVec 128 :=
  let d := descOf s page
  let st := dState d
  let hot := if st = .hot || st = .warm || st = .retired then dHot (decay s d) else 0
  let g := if st = .warm then (dSizesW d).foldl (· + ·) 0 else if st = .cold then (dSizesC d).foldl (· + ·) 0 else 0
  let mask : BitVec 64 := if st = .poisoned || st = .orphaned then dMask d else 0
  place 128 64 mask ||| place 128 40 (BitVec.ofNat 7 g) ||| place 128 32 (BitVec.ofNat 8 hot) |||
  (d &&& BitVec.ofNat 128 (2 ^ 32 - 1))

/-- Write the records of pages as lines from a line on, four to a line; a last line that is not full is written in part. The
number of lines that were not stored is counted. -/
def storeRecords (cls : BitVec 8) : Nat → Line → List (BitVec 128) → State → Nat × State
  | 0, _, _, s => (0, s)
  | n + 1, l, rs, s =>
    match rs with
    | [] => (0, s)
    | _ =>
      let four := rs.take 4
      let x : BitVec 512 := (four.zipIdx).foldl (fun acc p => acc ||| place 512 (128 * p.2) p.1) 0
      let (ok, s) := if four.length = 4 then storeLine l x false cls s
        else match (takesKey s (pageOf l)).filter (fun k => (keyCtxOf s k).isNone) with
          | some _ => storeLine l x false cls s
          | none => (true, writeQuay l (BitVec.ofNat 64 (2 ^ (16 * four.length) - 1)) x false cls (nodeId s) 0
              (if entryKind (dirEntry s l) = .any then s else setDir l 0 s))
      let (bad, s) := storeRecords cls n (l + 1) (rs.drop 4) s
      (if ok then bad else bad + 1, s)

/-- QUERY_TIER (R355): one record a page, written when every line of the output can be; given again it tries once more. -/
def queryMore (c : RCmd) (s : State) : State :=
  let ps := rangePages (eSrc c.entry) (eLen c.entry)
  let n := (ps.length + 3) / 4
  let cls := cmdClass s c
  if ps.any (framePending s) then s
  else
    let (ready, s) := storesReady cls (eDeadline c.entry) (linesOf (eDst c.entry) (64 * n)) s
    if !ready then s
    else
      let s := ps.foldl (fun t p => if dReserved (descRaw t p) then logIt { cause := 0x06, src := epQb (descBank t p), kind := 4, addr := p } t else t) s
      let (bad, s) := storeRecords cls n (BitVec.ofNat 39 (eDst c.entry / 64)) (ps.map (tierRecord s)) s
      finish c (if bad = 0 then 0 else 7) 0 ps.length s

/-- QUERY_TIER (R355). -/
def execQueryTier (ring idx : Nat) (s : State) : Out :=
  runCmd 0x0B (fun c s => if eLen c.entry = 0 then finish c 0 0 0 s else queryMore c s) queryMore ring idx s

/-- What SCRUB_RANGE finds in a stored line: it is corrected, or, on a second read that fails as well, lost (R114, R149, R154,
Table 5.7). The reads are the ring's (R234). -/
def scrubOne (cls : BitVec 8) (page addr line : Nat) (pos : SealPos) (lost : State → State) (x : Nat × Nat × State) :
    Nat × Nat × State :=
  let (a, b, s) := x
  let d := descOf s page
  if dSealed d && (keyCtxOf s (dKey d)).isNone then x
  else
    let s := useCtx addr (dSealed d) (dKey d) (readNow cls addr s)
    let k := (readCheck s (dSealed d) (dKey d) pos addr (dramContent s addr)).1
    match k with
    | .fail => (a, b + 1, lost (readNow cls addr s))
    | .valid _ (some _) | .poisoned _ (some _) => (a + 1, b, noteCheck addr line k false s)
    | _ => (a, b, s)

/-- One page of SCRUB_RANGE: every line of a Hot page, every granule of a Warm run (R356). -/
def scrubPage (cls : BitVec 8) (page : Nat) (x : Nat × Nat × State) : Nat × Nat × State :=
  match dState (descOf x.2.2 page) with
  | .hot => (List.range 64).foldl (fun y i =>
      let s := y.2.2
      let d := descOf s page
      match dState d, lineAddr d i with
      | .hot, some a => scrubOne cls page a (lineOf page i).toNat (berthPos (ctrOf s page) page i)
          (lineUncorrectable page i a (dramContent s a) none) y
      | _, _ => y) x
  | .warm => (List.range ((dSizesW (descOf x.2.2 page)).foldl (· + ·) 0)).foldl (fun y g =>
      let s := y.2.2
      let d := descOf s page
      if dState d ≠ .warm || (opOf s page).any (fun o => o.poisonAfter) then y
      else scrubOne cls page (dGranule d + g) (lineOf page 0).toNat (runPos (cMajor (ctrOf s page)) page g)
        (fun t => baleFail page (granuleLost page (dGranule d + g) t)) y) x
  | _ => x

/-- SCRUB_RANGE (R356). -/
def execScrubRange (ring idx : Nat) (s : State) : Out :=
  runCmd 0x0C (fun c s =>
    let (a, b, s) := (rangePages (eDst c.entry) (eLen c.entry)).foldl (fun y p => scrubPage (cmdClass s c) p y) (0, 0, s)
    finish c 0 0 (twoCounts a b) s) (fun _ s => s) ring idx s

/-! ## Keys (R95, R96, R122, R356) -/

/-- The table entry of a loaded key (Table 4.1): the key wrapped under the key-wrapping key, STATE Active, the pages that use it and the
tide time of the load. -/
def loadedEntry (kwk : BitVec 256) (key : BitVec 256) (pages : Nat) (tide : BitVec 64) : BitVec 512 :=
  (kwWrap kwk key).setWidth 512 ||| place 512 320 (1 : BitVec 3) ||| place 512 328 (BitVec.ofNat 34 pages) ||| place 512 368 tide

/-- The key that a transport key unwraps, with the key-wrapping key; none where there is no key-wrapping key or the integrity check of
RFC 3394 fails. -/
def transportedKey (s : State) (ktk : BitVec 256) (w : BitVec 320) : Option (BitVec 256 × BitVec 256) :=
  s.sec.kwk.bind (fun kwk => (kwUnwrap ktk w).map (fun key => (kwk, key)))

/-- The effect of KEY_LOAD (R95, R356): the transport key unwraps the key, the key-wrapping key wraps it into the key table, and the
context is placed. -/
def keyLoadRun (c : RCmd) (s : State) : State :=
  let k : BitVec 20 := (eArg2 c.entry).extractLsb' 0 20
  let e := keyEntry s k
  if keyState s k = 1 then finish c 5 2 0 s
  else match sget none s.sec.ktk (fieldNat (eArg2 c.entry) 35 32) with
    | none => finish c 6 1 0 s
    | some ktk => match transportedKey s ktk (c.entry.extractLsb' 64 320) with
      | none => finish c 6 2 0 s
      | some (kwk, key) =>
        let s := flushKeyBlock k (setKeyEntry k (loadedEntry kwk key (kPages e) s.time.tide) s)
        finish c 0 0 0 (placeCtx { keyId := k, st := 1, kwork := workKey key s.sec.treeNonce, h := hashKey key s.sec.treeNonce } s)

/-- KEY_LOAD (R95, R356). -/
def execKeyLoad (ring idx : Nat) (s : State) : Out := runCmd 0x10 keyLoadRun (fun _ s => s) ring idx s

/-- The first restore pass is running (R229). -/
def firstPass (s : State) : Bool := 1 ≤ s.led.restorePhase && s.led.restorePhase ≤ 4 && !s.led.segTable

/-- KEY_RETIRE (R96, R356). -/
def execKeyRetire (ring idx : Nat) (s : State) : Out :=
  runCmd 0x11 (fun c s =>
    let k : BitVec 20 := (eArg0 c.entry).extractLsb' 0 20
    let e := keyEntry s k
    if keyState s k ≠ 1 then finish c 5 2 0 s
    else if firstPass s then finish c 5 8 0 s
    else if kPages e ≠ 0 || kSrc e || kDst e then finish c 5 3 0 s
    else
      let n := place 512 320 (2 : BitVec 3) ||| place 512 368 (e.extractLsb' 368 64)
      finish c 0 0 0 (flushKeyBlock k (setKeyEntry k n (dropCtx k s))))
    (fun _ s => s) ring idx s

/-- REKEY_START (R122, R356): the free engine with the lowest number takes the range; the completion is posted when the rekey
ends. -/
def execRekeyStart (ring idx : Nat) (s : State) : Out :=
  runCmd 0x12 (fun c s =>
    let old : BitVec 20 := (eArg0 c.entry).extractLsb' 0 20
    let new : BitVec 20 := (eArg0 c.entry).extractLsb' 32 20
    let lo := eSrc c.entry / 4096
    let hi := lo + eLen c.entry / 4096 - 1
    if eLen c.entry = 0 then finish c 0 0 0 s
    else if keyState s old ≠ 1 || keyState s new ≠ 1 || old = new then finish c 5 2 0 s
    else match (List.range 16).find? (fun n => !(engineOf s n).active) with
      | none => finish c 5 4 0 s
      | some n =>
        if s.led.engines.any (fun e => e.2.active && e.2.first ≤ hi && lo ≤ e.2.last) then finish c 5 5 0 s
        else
          let s := setKeyEntry old (setField (keyEntry s old) 323 (1 : BitVec 1)) s
          let s := setKeyEntry new (setField (keyEntry s new) 324 (1 : BitVec 1)) s
          let e : Rekey := { active := true, first := lo, last := hi, tide := lo, old := old, new := new, ring := some (ring, idx),
                             cls := cmdClass s c }
          addRec 5 (rekeyBody n e false) (setEngine n e s)) (fun _ s => s) ring idx s

/-! ## Retirement and calibration (R70, R135, R161, R356) -/

/-- NOT_RECORDED: the retired list is full, or there is no manifest to hold it. -/
def listFull (s : State) : Bool :=
  match s.led.manifest with
  | some m => 32193 ≤ m.retired.length
  | none => true

/-- The command ends when its frames are retired. -/
def retireMore (c : RCmd) (s : State) : State :=
  let left := c.waits.filter (fun f => fUse (frameEntry s f) ≠ 4)
  let s := saveCmd { c with waits := left } s
  if left.isEmpty then finish c 0 c.detail c.result.toNat s else s

/-- RETIRE_FRAME (R70 to R73, R356): it posts after relocation. -/
def execRetireFrame (ring idx : Nat) (s : State) : Out :=
  runCmd 0x13 (fun c s =>
    let f := (eArg0 c.entry).toNat
    if (regionOf s f).isSome then finish c 5 6 0 s
    else if fUse (frameEntry s f) = 4 then finish c 0 0 0 s
    else retireMore { c with waits := [f], detail := if listFull s then 1 else 0 } (retireFrame f 1 s)) retireMore ring idx s

/-- A frame has a line in a bank. -/
def frameInBank (s : State) (b f : Nat) : Bool :=
  (List.range 64).any (fun i => match coord s (f * 64 + i) with | some c => bankCode c = b | none => false)

/-- RETIRE_BANK (R135, R356): one bank entry is recorded, and every frame with a line in the bank is retired. -/
def execRetireBank (ring idx : Nat) (s : State) : Out :=
  runCmd 0x14 (fun c s =>
    let b := (eArg0 c.entry).toNat
    let fs := (List.range (totalFrames s)).filter (frameInBank s b)
    if fs.any (fun f => (regionOf s f).isSome) then finish c 5 6 0 s
    else
      let new := fs.filter (fun f => fUse (frameEntry s f) ≠ 4)
      let full := listFull s
      let s := recordRetired (place 64 62 (2 : BitVec 2) ||| BitVec.ofNat 64 b) 0 s
      retireMore { c with waits := new, result := BitVec.ofNat 64 new.length, detail := if full then 1 else 0 }
        (new.foldl (fun t f => retireFrame f 4 t) s)) retireMore ring idx s

/-- CAL_RESTORE_FACTORY (R161, R356): the user trims take the factory values and every record is invalid. -/
def execCalRestoreFactory (ring idx : Nat) (s : State) : Out :=
  runCmd 0x15 (fun c s =>
    if !(s.aon.mode = .service || s.aon.mode = .maintenance) then finish c 5 7 0 s
    else finish c 0 0 0 { s with nor.trims := s.fuse.factoryTrim, nor.cal := [], nor.calBody := [] }) (fun _ s => s) ring idx s

/-! ## Completions (R346, R348, R349) -/

/-- The completion entry (Table 12.3). -/
def cqEntry (c : RCmd) (x : BitVec 256) (persisted : Bool) : BitVec 128 :=
  place 128 64 c.result ||| place 128 48 (BitVec.ofNat 16 (rSqHead x)) ||| place 128 32 (eCmdId c.entry) |||
  place 128 16 (BitVec.ofNat 16 c.idx) ||| place 128 8 c.detail ||| place 128 2 c.status ||| place 128 1 (bit1 persisted) |||
  place 128 0 (bit1 (rPhase x))

/-- A command leaves the ring: IN_PROGRESS and the class's outstanding count fall, and a stopping ring may end. -/
def dropCmd (c : RCmd) (s : State) : State :=
  let x := ctxOf s c.ring
  let s := { s with rings.cmds := s.rings.cmds.filter (fun y => !(y.ring = c.ring && y.idx = c.idx)) }
  settleRing c.ring (setCtx c.ring (rSetInProg (rInProg x - 1) x) (outDown (rClass x) s))

/-- The deadline of a command is met when it is posted before fetch tick + DEADLINE (R345, R249). -/
def cmdDeadline (c : RCmd) (s : State) : State :=
  match dueOf c.fetchTick (eDeadline c.entry) with
  | none => s
  | some d => judgeDue (cmdClass s c) d s

/-- What a posted completion counts (R345, R349). -/
def countPost (c : RCmd) (s : State) : State :=
  let m := cpxOf s c.ring
  let s := cmdDeadline c s
  let s := if c.status = 0 then s else evMgt m 2 s
  let s := if eOp c.entry = 9 then evMgt m 10 s else if eOp c.entry = 10 then evMgt m 11 s else s
  if rNotify (ctxOf s c.ring) then
    evMgt m 0 { s with rings.pend := smod 0 s.rings.pend (c.ring / 32) (fun w => setField w (c.ring % 32) (1 : BitVec 1)) }
  else s

/-- Post a finished command: a WR_PART of 16 bytes into CQ entry CQ_TAIL, or a ring fault when its line is poisoned or Orphaned
(R346). -/
def postCmd (c : RCmd) (s : State) : State :=
  if c.lost then dropCmd c s
  else
    let x := ctxOf s c.ring
    let t := rCqTail x
    let l : Line := BitVec.ofNat 39 (rCqBase x * 64 + t / 4)
    let bad := lineGone s l || (match qline s l, berthLine s (pageOf l) (l.toNat % 64) with
      | some q, _ => q.poison
      | none, some (_, p) => p
      | none, none => false)
    if bad then dropCmd c (ringFault c.ring 2 s)
    else
      let w := cqEntry c x (assured s)
      let (r, s) := arrive (tick s) { op := 0x09, src := nodeId s, dst := nodeId s, line := foldLine (indexBits s) l, cls := rClass x,
                                      mask := BitVec.ofNat 64 (0xFFFF * 2 ^ (16 * (t % 4))), data := place 512 (128 * (t % 4)) w } s
      let t' := (t + 1) % 2 ^ rCqLog x
      let y := setField (setField x 240 (BitVec.ofNat 16 t')) 128 (x.extractLsb' 128 32 + 1)
      let y := if t' = 0 then setField y 162 (bit1 (!rPhase x)) else y
      dropCmd c (countPost c (admitReq r (setCtx c.ring y s)))

/-- What a command in progress waits for may have ended: it is looked at again. -/
def pollCmd (c : RCmd) (s : State) : State :=
  if !c.started || c.finished then s
  else match eOp c.entry with
    | 0x05 => pinMore c s
    | 0x07 => demoteMore c s
    | 0x08 => prefetchMore c s
    | 0x09 => barrierEnd c s
    | 0x13 | 0x14 => retireMore c s
    | _ => s

/-- COMPLETION_POST (R346, R348): a command that has finished posts its completion. -/
def execCompletionPost (ring idx : Nat) (s : State) : Out :=
  match cmdOf s ring idx with
  | none => .next s
  | some c =>
    let s := pollCmd c s
    match cmdOf s ring idx with
    | some c => if c.finished then .next (settle (postCmd c s)) else .next (settle s)
    | none => .next (settle s)

/-! ## Holdup and resets (R338, R357) -/

/-- Holdup entry (R357): what each command becomes. -/
def holdupRings (s : State) : State :=
  { s with led.barriers := [],
           rings.cmds := s.rings.cmds.map (fun c =>
    let op := eOp c.entry
    if c.finished then c
    else if !c.started then { c with started := true, finished := true, status := 9 }
    else if op = 0x01 || op = 0x02 || op = 0x03 || op = 0x04 then
      { c with finished := true, status := 9, result := BitVec.ofNat 64 c.pos }
    else if op = 0x10 || op = 0x12 || op = 0x13 || op = 0x14 then c
    else { c with finished := true, status := 9, result := 0 }) }

/-- Every ring context returns to its reset value (R338). -/
def resetRings (s : State) : State :=
  { s with rings.ctx := [], rings.cmds := [], rings.pend := [], rings.refused := [], rings.ptr := [], led.barriers := [],
           led.engines := s.led.engines.map (fun e => (e.1, { e.2 with ring := none })) }

end Sys2Proof.Machine
end

