-- ==== Sys2Proof/Machine/Writeback.lean ====
section
/-! DEFINITION. Ledger writeback: the dirty ceiling (R191 to R196), segments and map blocks (R201 to R209), and the SSDs
(R211 to R214, R497). -/

namespace Sys2Proof.Machine

open Sys2Proof

/-! ## The dirty ceiling (R192, R193) -/

/-- Compressor tiles of the device. -/
def compressors (s : State) : Nat := ((List.range (numDies s)).map (fun d => poolTiles s d 1)).foldl (· + ·) 0
/-- Healthy SSDs of the ledger set. -/
def healthySsds (s : State) : Nat := ((liveSsds s).filter (fun i => (ssdOf s i).present && (ssdOf s i).ready && !(ssdOf s i).rejected)).length

/-- The lowest figure of the last 16 saturated windows, with the SSDs that were healthy when it was measured (R192, R193). -/
def lowestBw (s : State) : Option (Nat × Nat) :=
  ((s.led.bwHist.zip s.led.bwSsds).take 16).foldl (fun m x => match m with
    | some y => if y.1 ≤ x.1 then some y else some x
    | none => some x) none

/-- flush_bw in bytes per second, with measured_ssds (R192, R193). FLUSH_BW_BOOT is measured with no SSDs: the SSDs that are healthy now
stand for them (DESIGN CHOICE, log entry 114). -/
def flushBw (s : State) : Nat × Nat :=
  let boot := (param s 0x07 5 * 1000000, healthySsds s)
  match lowestBw s with
  | none => boot
  | some m => if 16 ≤ s.led.bwHist.length || m.1 ≤ boot.1 then m else boot

/-- p_hold in mW (R192). -/
def pHold (s : State) : Nat := max (param s 0x07 6) (s.led.powerHist.foldl max 0)

/-- The procedure dirty_ceiling of R192: C in pages. Energies are in mJ, powers in mW, times in ns. -/
def dirtyCeiling (s : State) (eStore : Nat) : Nat :=
  let p := pHold s
  let e := min (eStore - param s 0x07 2) (param s 0x07 1)
  if p = 0 || e * 1000000000 ≤ param s 0x07 3 * p then 0
  else
    let bw := min (flushBw s).1 (compressors s * 4000000000)
    let num := (e * 1000000000 - param s 0x07 3 * p) * bw * healthySsds s * param s 0x07 4
    min (num / (p * 1000000000 * (flushBw s).2 * 10000 * 4096)) (param s 0x07 0 / 4096)

/-- Queue every dirty page, oldest first (R195, R391). -/
def queueAll (s : State) : State := s.led.order.foldl (fun t p => if dDirty (descOf t p) then queuePage p t else t) s

/-- Publish C and D (R191). -/
def publishLevels (s : State) : State :=
  { s with aon.ceilPages := BitVec.ofNat 32 s.led.c, aon.dirtyPages := BitVec.ofNat 32 (dirtyPages s) }

/-- NVMe Writes of ledger writeback that are outstanding: those of the segments whose writes have not completed, 32 blocks to a command
(R193, R207, log entry 35). -/
def writesOut (s : State) : Nat :=
  (s.led.segs.map (fun e => match e.2 with
    | some g => if g.written || g.committed || g.entries.isEmpty then 0
        else ceilDiv (ceilDiv (64 + 16 * g.entries.length) 4096 + ceilDiv (segUsed g) 64) 32
    | none => 0)).foldl (· + ·) 0

/-- The window was saturated: at least 256 NVMe commands were outstanding for at least 90 % of it (R193). -/
def saturated (s : State) : Bool := 900000000 ≤ s.led.satNs

/-- A figure of flush_bw with the SSDs that are healthy now (R192, R193). -/
def recordBw (bytes : Nat) (s : State) : State :=
  let n := healthySsds s
  { s with led.bwHist := (bytes :: s.led.bwHist).take 16, led.bwSsds := (n :: s.led.bwSsds).take 16, led.idleSecs := 0, led.measured := n }

/-- The window that ends is counted (R192, R193): its highest card power, and its page bytes when it was saturated. The part of a window
in which Service was entered counts for neither. -/
def closeWindow (s : State) : State :=
  let s := if s.led.windows = 0 then s else
    let s := { s with led.powerHist := (s.led.powerMax :: s.led.powerHist).take 64 }
    if saturated s then recordBw s.led.winBytes s else { s with led.idleSecs := s.led.idleSecs + 1 }
  { s with led.windows := s.led.windows + 1, led.winBytes := 0, led.satNs := 0, led.powerMax := 0, led.eLow := aonEStore s }

/-- The Drain serving phase ends and closing starts (R391 step 3): every trained port sends LINK_OFF and enters OFF, and the
remaining dirty pages are written back. -/
def startClosing (s : State) : State :=
  if s.aon.mode ≠ .drain || s.aon.drainClosing then s
  else
    let s := { s with aon.drainClosing := true }
    packQueued (queueAll ((List.range (numPorts s)).foldl (fun t p =>
      if (portOf t p).st = .off && !(portOf t p).held then t else endSession p (sendLinkOff p 1 t)) s))

/-- DIRTY_CEILING_WINDOW (R192): at the start of a 1 s window C is computed, and Persistence Assured follows (R189, R190). While
D ≥ DIRTY_SOFT × C every dirty page is written back (R195); in Drain the serving phase ends when D = 0 (R391). -/
def execDirtyCeilingWindow (s : State) : Out :=
  let m := s.aon.mode
  if m = .stall || m = .watch then .next s
  else if !(m = .service || m = .drain) then .next (refreshPA (publishLevels s))
  else
    let e := s.led.eLow
    let s := closeWindow s
    let c := if s.led.windows ≤ 1 then 0 else dirtyCeiling s e
    let s := publishLevels { s with led.c := c }
    let s := if m = .drain || param s 0x07 7 * c ≤ dirtyPages s * 10000 then queueAll s else s
    let s := refreshPA (packQueued s)
    .next (settle (if dirtyPages s = 0 then startClosing s else s))

/-- FLUSH_BW_PROBE (R193): after 600 s without a saturated window the ledger is compacted for 100 ms; `bytes` page bytes were
committed, which counts as a window at ten times the figure. -/
def execFlushBwProbe (bytes : Nat) (s : State) : Out :=
  if s.led.idleSecs < 600 || s.aon.mode ≠ .service then .next s
  else
    .next (settle (refreshPA (recordBw (10 * bytes) (compactLedger s))))

/-! ## Writeback of pages (R195, R203, R207) -/

/-- WB_AGE_EXPIRY (R195): a page that has been dirty for WB_AGE is written back. -/
def execWbAgeExpiry (page : Nat) (s : State) : Out :=
  if !dDirty (descOf s page) then .next s else .next (settle (refreshPA (packQueued (queuePage page s))))

/-- SEGMENT_WRITES_COMPLETE (R207): the summary and data blocks are on flash, and the SEG_COMMIT is written while the lag
allows. -/
def execSegmentWritesComplete (seq : Nat) (s : State) : Out :=
  match sget none s.led.segs seq with
  | none => .next s
  | some g =>
    if g.written || g.committed || g.entries.isEmpty then .next s
    else
      let s := nvmeWrite g.ssd.toNat (ceilDiv (64 + 16 * g.entries.length) 4096 + ceilDiv (segUsed g) 64) (ledgerClass s) s
      .next (writeCommits { s with led.segs := sset none s.led.segs seq (some { g with written := true }) })

/-- A rekey of a Cold page ends with the segment of its new image (R123, R207). -/
def endColdRekey (page : Nat) (s : State) : State :=
  match opOf s page with
  | some o => if o.kind = .rekey then rekeyCount o.dst (finishOp page s) else s
  | none => s

/-- A page of a barrier's set has a segment that holds a snapshot begun after the barrier's step 1 (R353). -/
def barrierPage (page : Nat) (s : State) : State :=
  { s with led.barriers := s.led.barriers.map (fun b => (b.1, b.2.1, b.2.2.filter (· ≠ page))) }

/-- SEG_COMMIT (R207): the mirror, DIRTY and LEDGER_VALID follow the summary; what waited on the segment goes on, and segments
that became sparse are compacted (R209). -/
def execSegCommit (seq : Nat) (s : State) : Out :=
  match sget none s.led.segs seq with
  | none => .next s
  | some g =>
    if !g.written || g.committed || !recorded s seq then .next s
    else
      let s := nvmeWrite g.ssd.toNat 1 (ledgerClass s) (peEv s g.ssd.toNat 9 1 s)
      let s := { s with led.segs := sset none s.led.segs seq (some { g with committed := true }),
                        led.winBytes := s.led.winBytes + g.bytes }
      let s := g.entries.foldl (fun t e => commitEntry seq g e t) s
      let s := g.entries.foldl (fun t e =>
        let t := endColdRekey (sumPage e) t
        if g.stale.contains (sumPage e) then t else barrierPage (sumPage e) t) s
      .next (settle (refreshPA (packQueued (compactLedger s))))

/-- NVME_WRITE_FAILED (R214, R34): the segment stays uncommitted and its pages are queued again. -/
def execNvmeWriteFailed (seq : Nat) (s : State) : Out :=
  match sget none s.led.segs seq with
  | none => .next s
  | some g =>
    if g.committed then .next s
    else .next (settle (refreshPA (packQueued (failSegment seq (peEv s g.ssd.toNat 6 1 s)))))

/-! ## The map and the hot list (R201, R202, R207) -/

/-- Segment data above the recorded MAP_HORIZON and up to a horizon. -/
def horizonData (s : State) (h : Nat) : Nat :=
  4096 * ((s.led.segs.map (fun e => match e.2 with
    | some g => if s.led.horizonLogged.toNat < e.1 && e.1 ≤ h then g.entries.length else 0
    | none => 0)).foldl (· + ·) 0)

/-- MAP_HORIZON advances; it is recorded at each 256 MiB of segment data (R207). -/
def advanceHorizon (s : State) : State :=
  let h := mapHorizon s
  let s := { s with led.horizon := BitVec.ofNat 64 h }
  if 268435456 ≤ horizonData s h then
    addRec 2 (place 512 8 (BitVec.ofNat 64 h)) { s with led.horizonLogged := BitVec.ofNat 64 h }
  else s

/-- MAP_BLOCK_WRITEBACK (R202, R207): a changed map block is rewritten in place. Map writeback stops in Holdup (R219). -/
def execMapBlockWriteback (block : Nat) (s : State) : Out :=
  let m := s.aon.mode
  if !mapWritable s block || !(m = .service || m = .drain || m = .maintenance) then .next s
  else .next (settle (refreshPA (packQueued (writeCommits (advanceHorizon (putMapBlock block s))))))

/-- The hot-list category of a page (R201). -/
def hotCategory (s : State) (page : Nat) : BitVec 2 :=
  let d := descOf s page
  match dState d with
  | .warm => 1
  | .hot | .retired => if param s 0x02 4 ≤ dHot (decay s d) || dPin d then 3 else 2
  | _ => 0

/-- The SSD of the hot list block of a page: 16,384 pages to a block (R201). -/
def hotSsd (s : State) (page : Nat) : Nat := page / 16384 % ledgerN s
/-- The hot list blocks of the SSDs that `on` names are rewritten in place from the descriptors (R201). -/
def writeHotList (on : Nat → Bool) (s : State) : State :=
  let kept := s.led.hotList.filter (fun e => !on (hotSsd s e.1))
  { s with led.hotList := s.quay.desc.foldl (fun l e => if on (hotSsd s e.1) then sset 0 l e.1 (hotCategory s e.1) else l) kept }

/-- HOT_LIST_REWRITE (R201): the list is rewritten in place; a block on an SSD that cannot be written stays. -/
def execHotListRewrite (s : State) : Out :=
  let m := s.aon.mode
  if !(m = .service || m = .drain || m = .maintenance) then .next s
  else .next (writeHotList (ssdUp s) s)

/-! ## The SSDs (R211 to R214, R497) -/

/-- SMART_LOG_POLL (R213, R214): a critical warning or a fatal controller status marks the SSD failed. -/
def execSmartLogPoll (ssd : Nat) (critical fatal : Bool) (s : State) : Out :=
  if !(ssdIndices s).contains ssd || !(ssdOf s ssd).present || !(ssdOf s ssd).ready then .next s
  else
    let s := modSsd ssd (fun d => { d with critical := critical }) (peEv s ssd 12 1 s)
    .next (settle (if critical then markFailed ssd 2 s else if fatal then markFailed ssd 3 s else refreshPA s))

/-- Segments on their way to an SSD are lost with its commands; their pages are queued again. -/
def loseWrites (ssd : Nat) (s : State) : State :=
  (s.led.segs.filterMap (fun e => match e.2 with
    | some g => if g.ssd.toNat = ssd && !g.committed then some e.1 else none
    | none => none)).foldl (fun t q => failSegment q t) s

/-- An NVMe command of an SSD ends as a timeout (R214): it is aborted and the controller is reset; a third reset within 60 s marks the
SSD failed. -/
def nvmeTimeout (ssd : Nat) (s : State) : State :=
  let d := ssdOf s ssd
  if !(ssdIndices s).contains ssd || !d.present || d.failed then s
  else
    let resets := d.resets.filter (fun t => (s.time.tide - t).toNat < 60000000000) ++ [s.time.tide]
    let s := peEv s ssd 7 1 (peEv s ssd 8 1 s)
    let s := loseWrites ssd (modSsd ssd (fun d => { d with resets := resets, resetting := true, ready := false, queues := false }) s)
    if 3 ≤ resets.length then markFailed ssd 1 s else refreshPA (packQueued s)

/-- LEDGER_TIMEOUT_EXPIRY (R214). -/
def execLedgerTimeoutExpiry (ssd : Nat) (s : State) : Out := .next (settle (nvmeTimeout ssd s))

/-- SSD_RESET_TIMEOUT (R497): a controller reset that did not complete marks the SSD failed. -/
def execSsdResetTimeout (ssd : Nat) (s : State) : Out :=
  if (ssdOf s ssd).resetting then .next (settle (markFailed ssd 5 s)) else .next s

/-- Blocks that an SSD of the set must have (R197, Table 7.9); with no manifest, room for one segment (DESIGN CHOICE, log entry 115: R41
and Table 7.9 ask for the logical capacity and give no number of segments). -/
def needBlocks (s : State) : Nat :=
  segBase s + 256 * (match s.led.manifest with | some m => m.segCount.toNat | none => 1)

/-- An OPEN record that waits for an SSD is written (R207, Table 7.11 step 6). -/
def payOpen (s : State) : State :=
  if s.led.openOwed && (firstReady s).isSome then
    addRec 6 (openBody s) { s with led.openOwed := false }
  else s

/-- The first item of Table 7.9 checked by Identify that an SSD fails, by its row; 0 when it meets all (R211). -/
def failedItem (s : State) (d : Identity) : Nat :=
  if d.nvmeMajor < 2 || 1 < d.switchLevels then 1
  else if d.lbaBytes ≠ 4096 || d.protection then 2
  else if d.awupfLbas = 0 then 3
  else if !d.deallocZero then 4
  else if d.mdtsKib < 128 then 5
  else if d.blocks < needBlocks s then 9
  else 0

/-- The SSD stands where the harness record of its index says: its bay, by its slot number, and its position there (R216). -/
def inPlace (s : State) (ssd : Nat) (d : Identity) : Bool :=
  (recsOf s 9 0x38).any (fun r => fieldNat r 12 8 = ssd && fieldNat r 16 13 = d.bay && fieldNat r 49 49 = d.position)

/-- Queues of an SSD (R213): an admin queue of 64 entries, and IO_QUEUES pairs whose depth follows the SSDs that its root port serves. -/
def makeQueues (s : State) (ssd : Nat) (d : Ssd) : Ssd :=
  let n := ((ssdIndices s).filter (fun i => peOf s i = peOf s ssd)).length
  { d with queues := true, adminQ := 64, ioQ := param s 0x07 15, depth := (if n ≤ 16 then 2048 else 1024) / param s 0x07 15 }

/-- SSD_READY (R211, R212, R213, R216): the checked items of Table 7.9; an SSD that fails one is rejected and logged. Its queues
are created. An SSD that comes back rejoins the set only with the identity that the manifest records. One that stands in another place
than the record of this index names is not the SSD of the set. -/
def execSsdReady (ssd : Nat) (ident : Identity) (s : State) : Out :=
  let m := s.aon.mode
  if !(ssdIndices s).contains ssd || !inPlace s ssd ident || m = .stall || m = .watch || m = .holdup then .next s
  else
    let item := failedItem s ident
    let d := { ssdOf s ssd with present := true, resetting := false, nguid := ident.nguid, blocks := ident.blocks }
    if item ≠ 0 then
      .next (refreshPA (logIt { cause := 0x7B, args := [(bayOf s ssd).getD 0, item] }
        (setSsd ssd { d with rejected := true, ready := false, queues := false } s)))
    else
      let known : Bool := !s.led.chosen || (match s.led.manifest with
        | some m => sget 0 m.idents ssd = ident.nguid
        | none => true)
      let d := { d with rejected := false, ready := known && !d.failed, queues := false }
      let s := setSsd ssd (if d.ready then makeQueues s ssd d else d) s
      .next (settle (refreshPA (packQueued (payOpen s))))

end Sys2Proof.Machine
end

