-- ==== Sys2Proof/Machine/PowerPath.lean ====
section
/-! DEFINITION. The power-path die: its channels, feeds, the hold-up store and its outputs (R413 to R439), its registers
(R438, R472), and the device rails that AON sequences (R480, R481). -/

namespace Sys2Proof.Machine

open Sys2Proof

/-! ## Channels and parameters (Tables 15.1, 15.5, 15.5a) -/

def isFeed (n : Nat) : Bool := n < 2
def isSlot (n : Nat) : Bool := 3 ≤ n && n < 35
def isBay (n : Nat) : Bool := 35 ≤ n && n < 51
/-- A channel that the variant has (R6). -/
def chExists (s : State) (n : Nat) : Bool :=
  if s.fuse.variantH then n < 19 || (35 ≤ n && n < 43) else n < 51

/-- PPD_CHn_CFG of Table 15.5a. -/
def cfgDefault (n : Nat) : BitVec 32 :=
  let mk (retries cooldown fault dv : Nat) : BitVec 32 := place 32 29 (BitVec.ofNat 3 retries) |||
    place 32 25 (BitVec.ofNat 4 cooldown) ||| place 32 21 (BitVec.ofNat 4 fault) ||| place 32 13 (BitVec.ofNat 8 dv) ||| 0x1000
  if isFeed n then mk 3 6 5 12 else if n = 2 then mk 0 0 5 0 else mk 3 6 4 24
/-- PPD_CHn_LIM of Table 15.5a. -/
def limDefault (n : Nat) : BitVec 32 :=
  let mk (lim trip : Nat) : BitVec 32 := place 32 0 (BitVec.ofNat 16 lim) ||| place 32 16 (BitVec.ofNat 16 trip)
  if isFeed n then mk 6000 9000 else if n = 2 then mk 12000 16000 else if isSlot n then mk 300 500 else mk 350 600
def cRetries (c : BitVec 32) : Nat := fieldNat c 31 29
def cAutoOn (c : BitVec 32) : Bool := c.getLsbD 12

/-- The defaults of the parameters of Table 15.5, in the units of Table 17.9. -/
def ppdDefault (k : Nat) : Nat :=
  ([10800, 10200, 14500, 20000, 0, 10000000, 10, 200000, 200000, 100000, 6000, 0, 9000, 24, 20000] : List Nat).getD k 0
/-- PPD_PARAMk. -/
def ppdParam (s : State) (k : Nat) : Nat := if sget false s.ppd.paramSet k then (sget 0 s.ppd.param k).toNat else ppdDefault k
/-- The range of PPD_PARAMk (Table 15.5), given FEED_UV_RISE. -/
def ppdRange (rise k v : Nat) : Bool :=
  match k with
  | 0 => 9000 ≤ v && v ≤ 13000
  | 1 => 9000 ≤ v && v + 200 ≤ rise
  | 2 => 12500 ≤ v && v ≤ 15500
  | 3 => 1000 ≤ v && v ≤ 1000000
  | 4 => v ≤ 2
  | 5 => v ≤ 600000000
  | 6 => 4 ≤ v && v ≤ 100
  | 7 => 10000 ≤ v && v ≤ 2000000
  | 8 => 20000 ≤ v && v ≤ 2000000
  | 9 => 20000 ≤ v && v ≤ 1000000
  | 10 => 1000 ≤ v && v ≤ 40000
  | 11 => v ≤ 1000000
  | 12 => 5000 ≤ v && v ≤ 10000
  | 13 => v ≤ 168
  | 14 => 5000 ≤ v && v ≤ 100000
  | _ => false

/-- A mode in which a slot or a bay leaves DEBOUNCE for INRUSH (R427). -/
def powersRails (m : Mode) : Bool :=
  m = .harnessing || m = .recovery || m = .service || m = .drain || m = .maintenance

/-! ## The store and the outputs (R432, R435) -/

/-- HOLD is closed-ready (R432): ON with its gate fully on, no fault, V_STORE above V_STORE_MIN. -/
def holdReady (s : State) : Bool :=
  (pch s 2).st = .on && (pch s 2).pg && !(pch s 2).timer && ppdParam s 10 < s.ppd.vStore.toNat

/-- The squares of two voltages apart, 0 when the first is the lower. -/
def sqDiff (a b : Nat) : Nat := a * a - b * b
/-- e_store in mJ (R432): STORE_EFF × ½ × C_EFF × (V_STORE² − V_STORE_MIN²). -/
def eStoreOf (eff cEff v vMin : Nat) : Nat := eff * cEff * sqDiff v vMin / 20000000000
/-- C_EFF (R432): the lower of STORE_C_RATED and the latest measured capacitance. -/
def cEffOf (rated meas : Nat) : Nat := if meas = 0 then rated else min rated meas
/-- C_meas in mF (R433): 2 × E_out / (STORE_EFF × (V1² − V2²)). -/
def cMeasOf (eOut eff v1 v2 : Nat) : Nat := 20000000000 * eOut / (eff * sqDiff v1 v2)

/-- A feed is qualified. -/
def anyFeed (s : State) : Bool := (pch s 0).qual || (pch s 1).qual

/-- Bring QUAL of HOLD, e_store, FEED_PG and HOLD_PG up to date (R432, R435). -/
def ppdOutputs (s : State) : State :=
  let r := holdReady s
  let s := modPch 2 (fun c => { c with qual := r }) s
  let s := if r then s else { s with ppd.eStore := 0 }
  refreshPA { s with pin.holdPg := r, pin.feedPg := anyFeed s && !(pch s 2).carrying }

/-! ## Gates (R419, R420, R435) -/

/-- SSDs of a bay are no longer ready while its rail is off (R216). -/
def bayDark (bay : Nat) (s : State) : State :=
  (ssdsOfBay s bay).foldl (fun t i => modSsd i (fun d => { d with ready := false, queues := false }) t) s

/-- A bay's rail goes down: its reset output is asserted (R435). -/
def bayReset (n : Nat) (s : State) : State :=
  if isBay n then bayDark (n - 35) { s with pin.perst := s.pin.perst ||| (1 <<< (n - 35)) } else s
/-- PWRWARN_N of a bay is asserted (R435). -/
def bayWarn (n : Nat) (s : State) : State :=
  if isBay n then { s with pin.pwrwarn := s.pin.pwrwarn ||| (1 <<< (n - 35)) } else s

/-- SLOT and BAY channels in INRUSH. -/
def inInrush (s : State) : Nat := ((List.range 48).filter (fun k => (pch s (k + 3)).st = .inrush)).length
/-- A channel enters INRUSH; a bay's PWRWARN_N is released (R435). -/
def beginInrush (n : Nat) (s : State) : State :=
  let s := evPp n 1 (modPch n (fun c => { c with st := .inrush, queued := false, warned := false }) s)
  if isBay n then { s with pin.pwrwarn := s.pin.pwrwarn &&& ~~~((1 : BitVec 16) <<< (n - 35)) } else s
/-- At most 8 SLOT and BAY channels are in INRUSH; the others wait in ascending channel number (R420). -/
def fillInrush (s : State) : State :=
  (List.range 48).foldl (fun t k => if (pch t (k + 3)).queued && inInrush t < 8 then beginInrush (k + 3) t else t) s
/-- A slot or a bay is to be powered. -/
def wantInrush (n : Nat) (s : State) : State := fillInrush (modPch n (fun c => { c with queued := true }) s)

/-- A channel's gate is pulled down and PG drops. -/
def gateDown (st : PSt) (n : Nat) (s : State) : State :=
  bayReset n (modPch n (fun c => { c with st := st, pg := false, timer := false, carrying := false, queued := false,
                                          warned := false }) s)

/-- The commanded-off row of Table 15.4. A channel that is OFF, ABSENT or DAMAGED stays as it is. -/
def turnOff (n : Nat) (s : State) : State :=
  let c := pch s n
  if c.st = .off || c.st = .absent || c.st = .damaged then modPch n (fun c => { c with queued := false, warned := false }) s
  else modPch n (fun c => { c with retry := 0 }) (gateDown .off n s)

/-- PWRWARN_N is asserted for a bay whose rail turns off BAY_WARN_LEAD later (R435). -/
def warnBay (bay : Nat) (s : State) : State :=
  let c := pch s (bay + 35)
  if !chExists s (bay + 35) || c.st = .off || c.st = .absent || c.st = .damaged then s
  else bayWarn (bay + 35) (modPch (bay + 35) (fun c => { c with warned := true }) s)

/-- Every slot rail turns off; DRAM loses its contents (R221, R223, R391, R406). -/
def cutSlots (s : State) : State :=
  let s := (List.range 32).foldl (fun t k => turnOff (k + 3) t) s
  { s with aon.dramRetained := false, dram.mem := [] }
/-- Every bay rail turns off; PWRWARN_N is asserted for the bays that the variant has (R6, R435). -/
def cutBays (s : State) : State :=
  (List.range 16).foldl (fun t k => if chExists t (k + 35) then turnOff (k + 35) (bayWarn (k + 35) t) else t) s
/-- Every slot and bay that is present and may be powered is powered (R421, R427). -/
def powerRails (s : State) : State :=
  if !s.fuse.boardProg then s
  else (List.range 48).foldl (fun t k =>
    let c := pch t (k + 3)
    if chExists t (k + 3) && c.st = .off && c.present && !c.cmdOff && cAutoOn c.cfg then wantInrush (k + 3) t else t) s

/-- Device rails (R480, R481): all on, all off, and as Watch leaves them. -/
def railsUp (s : State) : State := { s with pin.railEn := 0x3F }
def railsDown (s : State) : State := { s with pin.railEn := 0 }
def railsWatch (s : State) : State := { s with pin.railEn := 0x21 }

/-! ## Feeds (R428 to R431) -/

/-- A changeover starts (R430): the old feed's gates are down and HOLD carries the card while it is closed-ready. The new
feed's inrush waits for BREAK_TIME, unless no feed carried the bus. -/
def startChange (old : Option Nat) (new why : Nat) (s : State) : State :=
  let s := match old with
    | some _ => s
    | none => beginInrush new s
  let s := if holdReady s then modPch 2 (fun c => { c with carrying := true }) s else s
  { s with ppd.newFeed := some (BitVec.ofNat 1 new), ppd.breakDone := old.isNone, ppd.changeWhy := why,
           ppd.oldFeed := (match old with | some o => BitVec.ofNat 4 o | none => 0xF), ppd.bridgeUj := 0,
           reins.bridging := true }

/-- The feed that carried the bus, or was about to, is gone: the other takes it if it is qualified (R429, R431). -/
def loseFeed (f why : Nat) (wasCarrying : Bool) (s : State) : State :=
  if !wasCarrying && s.ppd.newFeed ≠ some (BitVec.ofNat 1 f) then s
  else
    let s := { s with ppd.testing := false, ppd.newFeed := none, ppd.breakDone := false, reins.bridging := false }
    let s := if holdReady s then modPch 2 (fun c => { c with carrying := true }) s else s
    if (pch s (1 - f)).qual then startChange (some f) (1 - f) why s else s

/-- A feed is disqualified (R428): FEED_LOST is logged. -/
def dropFeed (f : Nat) (st : PSt) (reason : Nat) (s : State) : State :=
  let was := (pch s f).carrying
  let s := logIt { cause := 0x74, src := epPpd, args := [f, reason] }
    (modPch f (fun c => { c with qual := false, lastFault := if reason = 0 then c.lastFault else BitVec.ofNat 4 reason })
      (gateDown st f s))
  ppdOutputs (loseFeed f 1 was s)

/-! ## Trips (R422 to R425) -/

/-- A channel in INRUSH or ON trips (Table 15.4). -/
def trip (n fault mA : Nat) (s : State) : State :=
  let c := pch s n
  if !(c.st = .inrush || c.st = .on) then s
  else
    let latch := c.retry.toNat = (if n = 2 then 0 else cRetries c.cfg)
    let retry := if c.retry = 7 then 7 else c.retry + 1
    let trips := if c.trips = 0xFFFF then 0xFFFF else c.trips + 1
    let was := c.carrying
    let s := gateDown (if latch then .latched else .cooldown) n s
    let s := modPch n (fun c => { c with retry := retry, trips := trips, lastFault := BitVec.ofNat 4 fault,
                                         measI := BitVec.ofNat 32 mA }) s
    let s := bayWarn n (evPp n 0 (logIt { cause := 0x70, src := epPpd, args := [n, fault, mA, retry.toNat] } s))
    let s := if latch then logIt { cause := 0x71, src := epPpd, args := [n, trips.toNat] } s else s
    if isFeed n then
      let s := logIt { cause := 0x74, src := epPpd, args := [n, fault] } (modPch n (fun c => { c with qual := false }) s)
      ppdOutputs (loseFeed n 1 was s)
    else fillInrush (ppdOutputs s)

/-- FAST_TRIP (R422): the sense voltage reaches the trip level. -/
def execFastTrip (ch mA : Nat) (s : State) : Out := .next (trip ch 1 mA s)

/-- FAULT_TIMER_EXPIRY (R423): the current stood at the limit for FAULT_TIME. -/
def execFaultTimerExpiry (ch mA : Nat) (s : State) : Out := .next (trip ch 2 mA s)

/-- INRUSH_TIMEOUT (R420): the output has not reached 90% of the card bus voltage in time. -/
def execInrushTimeout (ch : Nat) (s : State) : Out :=
  if (pch s ch).st = .inrush then .next (trip ch 8 0 s) else .next s

/-- The new feed asserts PG: the bridge ends and FEED_CHANGE is logged (R430, R439). -/
def endChange (f : Nat) (s : State) : State :=
  if s.ppd.newFeed = some (BitVec.ofNat 1 f) then
    let s := logIt { cause := 0x73, src := epPpd, args := [s.ppd.oldFeed.toNat, f, s.ppd.changeWhy, s.ppd.bridgeUj / 1000] } s
    { s with ppd.newFeed := none, ppd.breakDone := false, reins.bridging := false }
  else s

/-- GATE_FULLY_ON (R419, R426): INRUSH ends in ON; PG is asserted when its conditions hold and no fault timer runs. -/
def execGateFullyOn (ch : Nat) (pgOk : Bool) (s : State) : Out :=
  let c := pch s ch
  if !(c.st = .inrush || (c.st = .on && !c.pg)) then .next s
  else
    let s := modPch ch (fun c => { c with st := .on, pg := pgOk, timer := !pgOk, carrying := isFeed ch || c.carrying }) s
    let s := if isFeed ch then modPch 2 (fun c => { c with carrying := false }) s else s
    let s := if isFeed ch && pgOk then endChange ch s else s
    .next (settle (ppdOutputs (fillInrush s)))

/-! ## Presence (R427) -/

/-- PRESENCE_ASSERTED (R427): debounce starts. -/
def execPresenceAsserted (ch : Nat) (s : State) : Out :=
  let c := pch s ch
  if !(isSlot ch || isBay ch) || !chExists s ch || c.st ≠ .absent then .next s
  else .next (logIt { cause := 0x75, src := epPpd, args := [ch, 1] }
    (modPch ch (fun c => { c with st := .debounce, present := true, retry := 0, lastFault := 0 }) s))

/-- PRESENCE_REMOVED (R427): the channel goes ABSENT; a slot of a trained channel is a PMIC fault (R156), a bay a presence loss of
its SSDs (R214). -/
def execPresenceRemoved (ch : Nat) (s : State) : Out :=
  let c := pch s ch
  if !(isSlot ch || isBay ch) || !chExists s ch || !c.present then .next s
  else
    let s := if c.st = .damaged then s else bayWarn ch (gateDown .absent ch s)
    let s := modPch ch (fun c => { c with present := false, retry := 0, lastFault := 0, cmdOff := false }) s
    let s := logIt { cause := 0x75, src := epPpd, args := [ch, 2] } s
    let live := s.aon.mode ≠ .stall && s.aon.mode ≠ .watch
    let s := if isSlot ch && live && (chan s ((ch - 3) / 2)).trained then goOffline ((ch - 3) / 2) 1 s else s
    let s := if isBay ch then (ssdsOfBay s (ch - 35)).foldl (fun t i =>
        let was := (ssdOf t i).present
        let t := modSsd i (fun d => { d with present := false, ready := false, queues := false }) t
        if live && was then markFailed i 4 t else t) s else s
    .next (settle (fillInrush (refreshPA s)))

/-- INSERT_DEBOUNCE_COMPLETE (R427): INRUSH when AUTO_ON = 1 and the mode permits, otherwise OFF. -/
def execInsertDebounceComplete (ch : Nat) (s : State) : Out :=
  let c := pch s ch
  if !(isSlot ch || isBay ch) || c.st ≠ .debounce then .next s
  else if cAutoOn c.cfg && powersRails s.aon.mode && s.fuse.boardProg then .next (wantInrush ch s)
  else .next (modPch ch (fun c => { c with st := .off }) s)

/-- COOLDOWN_ELAPSED (R424): a retry starts. -/
def execCooldownElapsed (ch : Nat) (s : State) : Out :=
  if (pch s ch).st ≠ .cooldown then .next s
  else if isFeed ch then .next (modPch ch (fun c => { c with st := .debounce }) s)
  else .next (wantInrush ch s)

/-- RETRY_COUNT_CLEAR (R424): a full 60 s window with PG and without a trip. -/
def execRetryCountClear (ch : Nat) (s : State) : Out :=
  if (pch s ch).pg then .next (modPch ch (fun c => { c with retry := 0 }) s) else .next s

/-- The damage test that a channel can fail now (R425): LAST_FAULT 3 gate will not rise, 4 output while off; 0 none. -/
def damageTest (n : Nat) (c : PChan) : Nat :=
  if isFeed n then (if c.st = .inrush then 3 else 0)
  else if n = 2 then (if c.st = .on && !c.pg then 3 else 0)
  else if c.st = .off || c.st = .absent || c.st = .cooldown || c.st = .latched then 4 else 0

/-- PP_DAMAGED (R425): the channel is DAMAGED until the PPD supply is lost. -/
def execPpDamaged (ch : Nat) (s : State) : Out :=
  let t := damageTest ch (pch s ch)
  if t = 0 || !chExists s ch then .next s
  else
    let was := (pch s ch).carrying
    let s := modPch ch (fun c => { c with lastFault := BitVec.ofNat 4 t, qual := false }) (gateDown .damaged ch s)
    let s := bayWarn ch (logIt { cause := 0x72, src := epPpd, args := [ch, t] } s)
    let s := if isFeed ch then
        loseFeed ch 1 was (logIt { cause := 0x74, src := epPpd, args := [ch, t] } s) else s
    .next (ppdOutputs s)

/-! ## Feed events (R428 to R431) -/

/-- At a cold start the other feed became qualified in this same tick and is in its inrush, but FEED_PRIORITY names this one, or is None and
this one is FEEDA (R429). -/
def priorityWins (feed : Nat) (s : State) : Bool :=
  s.aon.mode = .stall && s.ppd.newFeed = some (BitVec.ofNat 1 (1 - feed)) && (pch s (1 - feed)).st = .inrush &&
    s.aon.returnTide = s.time.tide && (ppdParam s 4 = feed || (feed = 0 && 1 < ppdParam s 4))

/-- FEED_QUALIFIED (R428, R429): the feed takes the bus when no feed carries it, or by FEED_PRIORITY at a cold start. At a cold start AON
then enables the device rails (R394, R480); the time to service is counted from here (R8). -/
def execFeedQualified (feed : Nat) (s : State) : Out :=
  let c := pch s feed
  if !s.ppd.powered || c.st ≠ .debounce || c.cmdOff then .next s
  else
    let first := !anyFeed s
    let s := modPch feed (fun c => { c with qual := true, st := .standby }) s
    let s := if first then { s with aon.returnTide := s.time.tide } else s
    let s := if first && s.aon.mode = .stall && s.pin.railEn = 0 && !s.aon.thermTrip then railsUp s else s
    let s := if (pch s (1 - feed)).carrying then s
      else if s.ppd.newFeed.isSome then (if priorityWins feed s then startChange none feed 0 (gateDown .standby (1 - feed) s) else s)
      else startChange none feed 0 s
    .next (ppdOutputs s)

/-- FEED_DISQUALIFIED (R428): input undervoltage 5, overvoltage 6 or reverse current 7. -/
def execFeedDisqualified (feed : Nat) (why : BitVec 4) (s : State) : Out :=
  if !(pch s feed).qual || !(why = 5 || why = 6 || why = 7) then .next s
  else .next (settle (dropFeed feed .debounce why.toNat s))

/-- FEED_RETURN_HOLD_EXPIRY (R429): the feed that FEED_PRIORITY names takes the bus by a planned changeover. -/
def execFeedReturnHoldExpiry (s : State) : Out :=
  let f := ppdParam s 4
  if 1 < f || !(pch s f).qual || (pch s f).st ≠ .standby || !(pch s (1 - f)).carrying || s.ppd.newFeed.isSome then .next s
  else
    let s := gateDown .standby (1 - f) s
    .next (ppdOutputs (startChange (some (1 - f)) f 2 s))

/-- BREAK_TIME_EXPIRY (R430): the new feed's inrush starts. -/
def execBreakTimeExpiry (s : State) : Out :=
  match s.ppd.newFeed with
  | none => .next s
  | some f =>
    if s.ppd.breakDone || s.ppd.testing || (pch s f.toNat).st ≠ .standby then .next s
    else .next (beginInrush f.toNat { s with ppd.breakDone := true })

/-! ## The store (R432, R433) -/

/-- Card power of a frame (R418): the averages of FEEDA, FEEDB and HOLD together. -/
def cardPower (s : State) : Nat := (pch s 0).power.toNat + (pch s 1).power.toNat + (pch s 2).power.toNat

/-- One channel's measurements (R418). -/
def takeSample (x : ChanSample) (s : State) : State :=
  if chExists s x.ch then modPch x.ch (fun c => { c with measI := BitVec.ofNat 32 x.mA, measV := BitVec.ofNat 32 x.mV,
                                                         power := BitVec.ofNat 32 x.mW }) s else s

/-- ENERGY_FRAME (R418, R432): e_store and the average powers of a 1 ms frame. The lowest e_store and the highest card power of the
window are kept for R192. -/
def execEnergyFrame (vStore busV : Nat) (samples : List ChanSample) (s : State) : Out :=
  if !s.ppd.powered then .next s
  else
    let s := samples.foldl (fun t x => takeSample x t) { s with ppd.vStore := BitVec.ofNat 32 vStore, ppd.busV := BitVec.ofNat 32 busV }
    let s := ppdOutputs s
    let s := if holdReady s then
        { s with ppd.eStore := BitVec.ofNat 32 (eStoreOf (ppdParam s 12) s.ppd.cEff.toNat s.ppd.vStore.toNat (ppdParam s 10)) } else s
    let s := if (pch s 2).carrying then { s with ppd.bridgeUj := s.ppd.bridgeUj + (pch s 2).power.toNat } else s
    .next { s with led.eLow := min s.led.eLow (aonEStore s), led.powerMax := max s.led.powerMax (cardPower s),
                   ppd.goodTide := if s.ppd.linkUp then s.time.tide else s.ppd.goodTide }

/-- The feed that carries the bus. -/
def carrier (s : State) : Option Nat := (List.range 2).find? (fun f => (pch s f).carrying)

/-- STORE_TEST_START (R433): in Service, with a feed carrying and HOLD closed-ready, the feed's FETs are held off. -/
def execStoreTestStart (s : State) : Out :=
  match carrier s with
  | none => .next s
  | some f =>
    if s.aon.mode ≠ .service || !holdReady s || s.ppd.newFeed.isSome || s.ppd.testing then .next s
    else
      let s := startChange (some f) f 3 (gateDown .standby f s)
      .next (ppdOutputs { s with ppd.testing := true, ppd.testV1 := s.ppd.vStore })

/-- STORE_TEST (R433): the test ends, the feed's inrush starts, and C_meas and C_EFF are taken, unless V1 − V2 is less than 0.5% of
V1. -/
def execStoreTest (v2 eOut : Nat) (s : State) : Out :=
  match s.ppd.testing, s.ppd.newFeed with
  | true, some f =>
    let v1 := s.ppd.testV1.toNat
    let s := beginInrush f.toNat { s with ppd.testing := false, ppd.breakDone := true, ppd.vStore := BitVec.ofNat 32 v2 }
    if (v1 - v2) * 200 < v1 then .next (ppdOutputs s)
    else
      let c := cMeasOf eOut (ppdParam s 12) v1 v2
      let e := cEffOf (ppdParam s 11) c
      let s := { s with ppd.cMeas := BitVec.ofNat 32 c, ppd.cEff := BitVec.ofNat 32 e }
      .next (ppdOutputs (logIt { cause := 0x76, src := epPpd, args := [eOut, v1, v2, c, e] } s))
  | _, _ => .next s

/-- PPD_LINK (R434): the link fails; AON reports e_store as 0 J and logs a fatal-class entry. -/
def execPpdLink (s : State) : Out :=
  if !s.ppd.linkUp then .next s
  else .next (logIt { cause := 0x77, src := epAon, args := wide s.ppd.goodTide.toNat }
    { s with ppd.linkUp := false, led.eLow := 0 })

/-! ## Bay outputs (R435) -/

/-- BAY_WARN_LEAD_EXPIRY (R435): the rail of a warned bay turns off. -/
def execBayWarnLeadExpiry (bay : Nat) (s : State) : Out :=
  if (pch s (bay + 35)).warned then .next (refreshPA (fillInrush (turnOff (bay + 35) s))) else .next s

/-- PERST_DELAY_EXPIRY (R435): PERST_DELAY after PG, or after a BAY-scope reset, the reset output is released. -/
def execPerstDelayExpiry (bay : Nat) (s : State) : Out :=
  if (pch s (bay + 35)).pg then .next { s with pin.perst := s.pin.perst &&& ~~~((1 : BitVec 16) <<< bay) } else .next s

/-! ## Commands (R436) -/

/-- The channel's bay holds a ledger SSD that is not marked failed. -/
def ledgerBay (s : State) (n : Nat) : Bool := isBay n && (ssdsOfBay s (n - 35)).any (fun i => !(ssdOf s i).failed)

/-- An OFF command is refused (R436). -/
def offRefused (s : State) (n : Nat) : Bool :=
  let m := s.aon.mode
  (isFeed n && (pch s n).carrying && !(pch s (1 - n)).qual) ||
  (n = 2 && (m = .holdup || m = .watch)) ||
  (isSlot n && (chan s ((n - 3) / 2)).trained && !(m = .stall || m = .maintenance)) ||
  (ledgerBay s n && m ≠ .maintenance)

/-- A write of OFF to PPD_CHn_CMD (R436). -/
def chanOff (n : Nat) (s : State) : Bool × State :=
  let c := pch s n
  if !chExists s n || c.st = .damaged || !s.ppd.linkUp || offRefused s n then (false, s)
  else if c.st = .off || c.st = .absent then (true, modPch n (fun c => { c with queued := false, cmdOff := c.cmdOff || c.queued }) s)
  else
    let s := modPch n (fun c => { c with cmdOff := true }) s
    if isBay n && (c.st = .on || c.st = .inrush) then (true, warnBay (n - 35) s)
    else
      let s := modPch n (fun c => { c with qual := false }) (turnOff n s)
      let s := if isFeed n then loseFeed n 4 c.carrying s else s
      (true, fillInrush (ppdOutputs s))

/-- A write of ON to PPD_CHn_CMD (R436). While the board configuration OTP is blank only the feeds are powered (R416). -/
def chanOn (n : Nat) (s : State) : Bool × State :=
  let c := pch s n
  if !chExists s n || c.st = .damaged || !s.ppd.linkUp then (false, s)
  else if !(c.st = .off || c.st = .latched) || (!isFeed n && !s.fuse.boardProg) then (true, s)
  else
    let s := modPch n (fun c => { c with cmdOff := false, retry := 0 }) s
    if isFeed n then (true, modPch n (fun c => { c with st := .debounce }) s)
    else if n = 2 then (true, ppdOutputs (modPch n (fun c => { c with st := .on }) s))
    else (true, wantInrush n s)

/-- COMMANDED_OFF (R436). -/
def execCommandedOff (path ch : Nat) (s : State) : Out :=
  let (ok, s) := chanOff ch s
  .next (settle (regDone path none ok s))

/-- COMMANDED_ON (R436). -/
def execCommandedOn (path ch : Nat) (s : State) : Out :=
  let (ok, s) := chanOn ch s
  .next (regDone path none ok s)

/-! ## Registers of the PPD (R438, R472) -/

/-- STATE codes of Table 15.3. -/
def pStCode : PSt → BitVec 4
  | .off => 0 | .absent => 1 | .debounce => 2 | .standby => 3 | .inrush => 4 | .on => 5 | .cooldown => 6 | .latched => 7 | .damaged => 8

/-- PPD_CHn_STAT (Table 15.8). -/
def chanStat (n : Nat) (c : PChan) : BitVec 32 :=
  place 32 28 (pStCode c.st) ||| place 32 25 c.retry ||| place 32 24 (bit1 (c.present || n < 3)) ||| place 32 23 (bit1 c.pg) |||
  place 32 22 (bit1 c.timer) ||| place 32 21 (bit1 c.qual) ||| place 32 20 (bit1 c.carrying) ||| place 32 16 c.lastFault |||
  place 32 0 c.trips

/-- A read of the PPD indirect space (Table 17.9); none is ERR_REG. -/
def ppdRead (s : State) (off : Nat) : Option (BitVec 32) :=
  if off % 4 ≠ 0 || !s.ppd.linkUp then none
  else if off < 51 * 32 then
    let n := off / 32
    let c := pch s n
    if !chExists s n then none
    else some (match off % 32 / 4 with
      | 0 => c.cfg | 1 => c.lim | 2 => chanStat n c | 3 => c.sense | 4 => 0 | 5 => c.measI | 6 => c.measV | _ => c.power)
  else if 0x800 ≤ off && off < 0x83C then some (BitVec.ofNat 32 (ppdParam s ((off - 0x800) / 4)))
  else match off with
    | 0x900 => some s.ppd.eStore
    | 0x904 => some s.ppd.vStore
    | 0x908 => some s.ppd.cEff
    | 0x90C => some s.ppd.cMeas
    | 0x910 => some s.ppd.busV
    | _ => none

/-- The board OTP value of a PPD register. -/
def boardWord (s : State) (off : Nat) : BitVec 32 := sget 0 s.fuse.board off

/-- A value that PPD_CHn_CFG accepts (R416, Table 15.6): fields in range, none above its OTP value. -/
def cfgOk (s : State) (n : Nat) (v : BitVec 32) : Bool :=
  let otp := boardWord s (32 * n)
  fieldNat v 28 25 ≤ 9 && fieldNat v 24 21 ≤ 8 && (n = 2 || 1 ≤ fieldNat v 20 13) && (n ≠ 2 || fieldNat v 31 29 = 0) &&
  (!s.fuse.boardProg || (fieldNat v 31 29 ≤ fieldNat otp 31 29 && fieldNat v 24 21 ≤ fieldNat otp 24 21 &&
    fieldNat v 20 13 ≤ fieldNat otp 20 13))
/-- A value that PPD_CHn_LIM accepts (R416, Table 15.7). -/
def limOk (s : State) (n : Nat) (v : BitVec 32) : Bool :=
  let otp := boardWord s (32 * n + 4)
  fieldNat v 15 0 < fieldNat v 31 16 &&
  (!s.fuse.boardProg || (fieldNat v 31 16 ≤ fieldNat otp 31 16 && fieldNat v 15 0 ≤ fieldNat otp 15 0))

/-- A write of PPD_PARAMk (R437, R472). -/
def ppdParamWrite (k : Nat) (v : BitVec 32) (s : State) : Bool × State :=
  let rise := if k = 0 then v.toNat else ppdParam s 0
  let fall := if k = 1 then v.toNat else ppdParam s 1
  if !ppdRange rise k v.toNat || !ppdRange rise 1 fall then (false, s)
  else
    let s := { s with ppd.param := sset 0 s.ppd.param k v, ppd.paramSet := sset false s.ppd.paramSet k true }
    (true, ppdOutputs { s with ppd.cEff := BitVec.ofNat 32 (cEffOf (ppdParam s 11) s.ppd.cMeas.toNat) })

/-- A write of a whole word of the PPD indirect space; a write to a read-only word changes nothing. -/
def ppdWrite (off : Nat) (v : BitVec 32) (s : State) : Bool × State :=
  if off % 4 ≠ 0 || !s.ppd.linkUp then (false, s)
  else if off < 51 * 32 then
    let n := off / 32
    if !chExists s n then (false, s)
    else match off % 32 / 4 with
      | 0 => let v := v &&& 0xFFFFF000
        if cfgOk s n v then (true, modPch n (fun c => { c with cfg := v }) s) else (false, s)
      | 1 => if limOk s n v then (true, modPch n (fun c => { c with lim := v }) s) else (false, s)
      | 4 => if fieldNat v 1 0 = 1 then chanOff n s else if fieldNat v 1 0 = 2 then chanOn n s else (false, s)
      | _ => (true, s)
  else if 0x800 ≤ off && off < 0x83C then ppdParamWrite ((off - 0x800) / 4) v s
  else (decide (off = 0x900 || off = 0x904 || off = 0x908 || off = 0x90C || off = 0x910), s)

/-! ## PPD reset (R415, R416, R421) -/

/-- The registers of a channel at PPD reset: the board OTP, or Table 15.5a while it is blank. -/
def freshChan (s : State) (n : Nat) : PChan :=
  if s.fuse.boardProg then
    { cfg := boardWord s (32 * n), lim := boardWord s (32 * n + 4), sense := boardWord s (32 * n + 12) }
  else { cfg := cfgDefault n, lim := limDefault n }

/-- PPD_PARAMk at PPD reset: the board OTP, or the defaults of Table 15.5 while it is blank (R416, R437). -/
def freshParams (s : State) : State :=
  let ks := List.range 15
  let p : SMap (BitVec 32) := if s.fuse.boardProg then ks.foldl (fun m k => sset 0 m k (boardWord s (0x800 + 4 * k))) [] else []
  let f : SMap Bool := if s.fuse.boardProg then ks.foldl (fun m k => sset false m k true) [] else []
  { s with ppd.param := p, ppd.paramSet := f }

/-- The RW registers of the PPD return to their reset values with a device-scope reset (R17; DEDUCED, log entry 116): the settings, limits
and parameters; the channels run on. -/
def ppdRegs (s : State) : State :=
  if !s.ppd.powered then s
  else
    let s := (List.range 51).foldl (fun t n => modPch n (fun c => { c with cfg := (freshChan t n).cfg, lim := (freshChan t n).lim }) t)
      (freshParams s)
    ppdOutputs { s with ppd.cEff := BitVec.ofNat 32 (cEffOf (ppdParam s 11) s.ppd.cMeas.toNat) }

/-- The state of a channel when the PPD leaves reset: feeds begin to qualify, HOLD is on with AUTO_ON, a slot or bay is present
without debounce or ABSENT (R416, R421). -/
def startChan (s : State) (slots : BitVec 32) (bays : BitVec 16) (n : Nat) : PChan :=
  let c := freshChan s n
  if !chExists s n then c
  else if isFeed n then { c with st := .debounce }
  else if n = 2 then { c with st := if s.fuse.boardProg && cAutoOn c.cfg then .on else .off }
  else
    let here := if isSlot n then slots.getLsbD (n - 3) else bays.getLsbD (n - 35)
    { c with present := here, st := if here then .off else .absent }

/-- The PPD leaves reset. -/
def ppdReset (slots : BitVec 32) (bays : BitVec 16) (s : State) : State :=
  let s := freshParams { s with ppd := { powered := true, oldFeed := 0xF } }
  let s := (List.range 51).foldl (fun t n => setPch n (startChan t slots bays n) t) s
  ppdOutputs { s with ppd.cEff := BitVec.ofNat 32 (ppdParam s 11), pin.pwrwarn := 0, pin.perst := 0xFFFF }

end Sys2Proof.Machine
end

