-- ==== Sys2Proof/Machine/Resets.lean ====
section
/-! DEFINITION. What a loss of power to the dies, a loss of DRAM contents and a reset leave (R17, R338, R382, R449, R457, R471),
and the entries to Stall, Harnessing and Recovery that several commands share. -/

namespace Sys2Proof.Machine

open Sys2Proof

/-- Map the values of a sparse map; default values leave it. -/
def smapv {α β : Type} [DecidableEq β] (d : β) (f : α → β) (m : SMap α) : SMap β :=
  (m.map (fun e => (e.1, f e.2))).filter (fun e => e.2 ≠ d)

/-! ## The dies lose power -/

/-- A domain keeps its residency counters only. -/
def restDomain (d : Domain) : Domain := { awakeT := d.awakeT, prepT := d.prepT, asleepT := d.asleepT }

/-- Every block but AON is off, as in Stall and in Watch (R404, R463): what stands in no DRAM frame, no AON store and no register
is lost. RW registers of blocks keep their value until a reset restores it (R465). -/
def diesOff (s : State) : State :=
  { s with
    quay := { desc := s.quay.desc }, tier := { decayEpoch := s.tier.decayEpoch, orphanWait := s.tier.orphanWait }, reins := {},
    noc := { dom := smapv {} restDomain s.noc.dom, routes := s.noc.routes, epoch := s.noc.epoch },
    rings := {}, mgt := { xlog := s.mgt.xlog, xlogWr := s.mgt.xlogWr, extQ := s.mgt.extQ }, dram.reads := [], dram.keyTable := [],
    dram.ch := smapv {} (fun c => { c with readQ := [], readWait := [], ctxs := [] }) s.dram.ch, led.barriers := [],
    led.ssd := smapv {} (fun d => { d with ready := false, queues := false, resetting := false }) s.led.ssd }

/-! ## DRAM loses its contents -/

/-- A segment whose SEG_COMMIT has been written exists for recovery; no other does (R207). -/
def survives (s : State) (e : Nat × Option Segment) : Option (Nat × Option Segment) :=
  match e.2 with
  | some g => if g.committed || recorded s e.1 then
      some (e.1, some { ssd := g.ssd, start := g.start, entries := g.entries, written := true, committed := true }) else none
  | none => none

/-- DRAM is not retained (R67, R225, R447): what stood in DRAM frames is lost, and so is the on-die state that covers it. What is
on flash stays. -/
def dramLost (s : State) : State :=
  { s with
    quay := { s.quay with lines := [], desc := [], ctr := [], ctrDirty := [], merges := [], fills := [], descIn := [], keyCtx := [], keyPtr := [] },
    dram := { ch := smapv {} (fun c => { c with ctxs := [] }) s.dram.ch }, tier := { decayEpoch := s.tier.decayEpoch },
    led := { ssd := s.led.ssd, manifest := s.led.manifest, logbook := s.led.logbook, rseq := s.led.rseq, nextSeq := s.led.nextSeq,
             flash := s.led.flash, flashMap := s.led.flashMap, keyFlash := s.led.keyFlash, keyFlash2 := s.led.keyFlash2,
             hotList := s.led.hotList,
             horizon := s.led.horizon, horizonLogged := s.led.horizonLogged, frags := s.led.frags, satSsd := s.led.satSsd,
             segs := s.led.segs.filterMap (survives s) },
    mgt := { s.mgt with xlog := [], xlogWr := 0 }, sec := { s.sec with chSave := [], valid := [] }, ev.saved := [],
    aon.dramRetained := false, aon.writeAccepted := false, aon.restoring := false }

/-- A new counter tree (R110, R111): the roots are zero, and its keys, nonce and birth are new. No key context and no node of an earlier
tree stays on the dies. -/
def createTree (s : State) : State :=
  let (k, s) := draw 256 s
  let (h, s) := draw 64 s
  let (n, s) := draw 64 s
  { s with sec.kTree := k, sec.hTree := h ||| 1, sec.treeNonce := n, sec.treeBirth := s.time.tide, sec.root := [], sec.ktRoot := [],
           quay.ctr := [], quay.ctrDirty := [], quay.keyCtx := [], quay.keyPtr := [], dram.keyTable := [],
           dram.ch := smapv {} (fun c => { c with ctxs := [] }) s.dram.ch }

/-! ## Entry to Stall -/

/-- A set that went offline is excluded at the next cold start (R156); a set that was only excluded is tried again. -/
def staysOffline (s : State) (c : Nat) : Bool :=
  (chan s c).offline && (setOf s c).any (fun x => (chan s x).offline && (chan s x).offlineWhy ≠ 4)

/-- The state after any entry to Stall: the dies are off, no AFL port runs, and DRAM is not retained. -/
def toStall (code : BitVec 8) (s : State) : State :=
  let s := dramLost (diesOff s)
  let s := { s with port := [], aon.drainToMaint := false, aon.drainClosing := false, led.hStep := 0, aon.tolSrc := 7,
                    aon.ceilPages := 0, aon.dirtyPages := 0,
                    dram.ch := ((List.range 16).filter (staysOffline s)).foldl (fun m c => smod {} m c (fun x =>
                      { x with offline := true, offlineWhy := 4 }))
                      (smapv {} (fun c => { marks := c.marks, scrubPos := c.scrubPos }) s.dram.ch) }
  changeMode code .stall s

/-- Every rail is turned off: slots, bays and device rails (R221, R230, R481). -/
def allRailsOff (s : State) : State := railsDown (cutBays (cutSlots s))

/-- RWS fields and what else a cold reset restores (R17, R95, R190, R335, R424, R438, R471): AON_FREEZE_CTL and the result of the last
OTP operation are at their reset values. -/
def coldFields (s : State) : State :=
  { s with frz.onFatal := true, frz.routersDone := 0, frz.ignored := 0, frz.held := false, aon.otpResult := 0, aon.maintNext := false, aon.pwrCfg := 0x028A4000, aon.ceCfg := 0x84018080, ev.ctl := [], sec.ktk := [],
           aon.changeCount := 0, dram.ch := smapv {} (fun c => { c with marks := [] }) s.dram.ch,
           ppd.ch := smapv {} (fun c => { c with retry := 0, trips := 0 }) s.ppd.ch }

/-- A device-scope reset (Table 14.2, 0x01): RW fields return to their reset values, and a cold one restores RWS fields (R17,
R471). AON stays powered: the tide counter, the log and the events carry on. -/
def deviceReset (cold : Bool) (s : State) : State :=
  let s := toStall 0x01 (ppdRegs { s with aon.gaitMax := 3, aon.xidx := [], aon.ppdIdx := [], aon.restart := false })
  driveAlert (if cold then coldFields s else s)

/-! ## Entry to Harnessing -/

/-- An event held in the base domain of its die (R449): neither a cause, a class nor a power-path event. -/
def baseEvent (id : Nat) : Bool := 0x100 ≤ id && !(0x9C0 ≤ id && id < 0xA26)

/-- Base-domain counters are cleared (R449, R456). -/
def clearBase (s : State) : State :=
  { s with ev.count := s.ev.count.filter (fun e => !baseEvent e.1), ev.ack := s.ev.ack.filter (fun e => !baseEvent e.1),
           noc.dom := smapv {} (fun d => { d with awakeT := 0, prepT := 0, asleepT := 0 }) s.noc.dom, time.gaitTicks := [] }

/-- Harnessing may be entered: both reset inputs are high, and the board configuration OTP is not blank (R388, R416). -/
def mayHarness (s : State) : Bool := !s.aon.resetLow && s.aon.pwrok && s.aon.mode = .stall && s.fuse.boardProg

/-- Harnessing starts (R394, R485): base counters are cleared, no harness image is in effect yet, slot and bay rails rise, and the
DDR5 resets are asserted because DRAM is not retained. -/
def enterHarnessing (code : BitVec 8) (s : State) : State :=
  let s := changeMode code .harnessing (clearBase s)
  let s := { s with
                    cfg := [], aon.loaded := false, aon.fallback := false, aon.trial := false, aon.logBroken := false,
                    aon.patchSeq := 0, aon.fmtMajor := 0, aon.fmtMinor := 0, aon.restart := false,
                    nor.triedOther := false, led.chosen := false, led.inconsistent := 0, led.satSsd := [],
                    led.ssd := smapv {} (fun (d : Ssd) => { d with failed := false, rejected := false, resets := [] }) s.led.ssd }
  let hot := s.aon.sensors.foldl (fun m e => max m e.2) 0
  let point := 700 + Config.avsPoint s.fuse.vid hot % 151
  let s := { s with aon.vddPoint := point, aon.vddMv := point, pin.drst :=
                      (List.range (numChans s)).foldl (fun m c => sset false m c true) [] }
  driveAlert (powerRails s)

/-! ## Entry to Recovery -/

/-- The directory is reset (R170, R286): HOME_EPOCH is raised. -/
def resetDirectory (s : State) : State :=
  { s with quay.dir := [], quay.dirVictim := [], quay.dirValid := [], quay.dirIn := [], aon.homeEpoch := s.aon.homeEpoch + 1 }

/-- A port starts a new session: what it holds in Direct topology is settled when the session starts (R286, R290). -/
def newSession (s : State) (p : Nat) : State :=
  let q := portOf s p
  let s := if q.st = .active || q.st = .retrain then linkLost p 0 s else s
  modPort p (fun q => { q with session := 0, peerSession := 0, resumed := false }) s

/-- Base-domain counters come back as they were saved (R449). -/
def restoreBase (s : State) : State :=
  if s.ev.saved = [] then s
  else
    let kept := s.ev.count.filter (fun e => !baseEvent e.1)
    { s with ev.count := s.ev.saved.foldl (fun m e => sset 0 m e.1 e.2) kept, ev.saved := [] }

/-- Recovery starts (R170, R338, R382, R457): the directory, the rings and the management registers are reset, the correction
tables are cleared, the rails are up, and every port starts a new session. -/
def enterRecovery (code : BitVec 8) (s : State) : State :=
  let s := resetRings (resetDirectory s)
  let s := { s with mgt := { xlog := s.mgt.xlog, xlogWr := s.mgt.xlogWr, extQ := s.mgt.extQ, fwRuns := s.mgt.fwRuns }, tier.frameTable := [],
                    tier.bankTable := [], tier.scanThr := min 255 (param s 0x02 5), led.hStep := 0, led.allDone := false,
                    led.feedBack := false, aon.drainToMaint := false, aon.drainClosing := false }
  let s := changeMode code .recovery (restoreBase s)
  (List.range (numPorts s)).foldl newSession (powerRails (railsUp s))

end Sys2Proof.Machine
end

