-- ==== Sys2Proof/Machine/Holdup.lean ====
section
/-! DEFINITION. Holdup, Watch and recovery: the dirty list and the flush (R217 to R222), Watch (R223, R404 to R410), and the
restore of a ledger (R199, R224 to R230). -/

namespace Sys2Proof.Machine

open Sys2Proof

/-! ## Holdup entry (R217 to R219) -/

/-- An NVMe Flush on every SSD that is ready. -/
def flushSsds (s : State) : State :=
  ((liveSsds s).filter (ssdUp s)).foldl (fun t i => peEv t i 2 1 t) s

/-- A request that waits for a demand fault receives POWER_LOSS (R219). -/
def faultWaits (s : State) (t : Txn) : Bool :=
  t.phase = .data && t.run.isNone && dState (descOf s (pageOf (txnLine t))) = .cold

/-- Tier operations are brought to rest (R219): demand faults are abandoned. The lines that they carried to be orphaned wait again
(R57, log entry 94). -/
def restTiers (s : State) : State :=
  let waits := s.quay.txns.filter (faultWaits s)
  let demotions := (s.tier.ops.filter (fun o => o.kind = .demotion)).map PageOp.page
  let lines := (s.tier.ops.filter (fun o => o.kind = .fault)).flatMap (fun o => o.orphan.map (fun i => (o.page, i)))
  let s := setOps (fun l => l.filter (fun o => !(o.kind = .compaction || o.kind = .fault)))
    { s with tier.orphanWait := s.tier.orphanWait ++ lines.filter (fun x => !s.tier.orphanWait.contains x) }
  let s := demotions.foldl (fun t p => abortDemotion p t) s
  settle (waits.foldl (fun t x => failWith 3 x t) s)

/-- PWRWARN_N of every bay outside the ledger set, or of every ledger bay (Table 7.10 steps 1 and 6). -/
def warnBays (ledger : Bool) (s : State) : State :=
  (List.range 16).foldl (fun t k => if ledgerBay t (k + 35) = ledger then warnBay k t else t) s

/-- Holdup starts (Table 7.10 step 1): PA is withdrawn, POWER_WARN is sent, and operations and commands come to rest. Requests that
the ports hold were accepted before, and go on. -/
def startHoldup (code : BitVec 8) (s : State) : State :=
  let s := changeMode code .holdup s
  let s := sendAll 0x71 (place 86 0 (1 : BitVec 4) ||| place 86 4 s.time.tide) s
  let s := { s with
    led.hStep := 1, led.grace := [], led.listPages := [], led.listSeq := 0, led.frags := [], led.allDone := false,
    led.feedBack := false, aon.drainToMaint := false, aon.drainClosing := false, aon.released := false,
    mgt.patchStat := s.mgt.patchStat &&& 0xFFFFFFFC }
  let s := warnBays false (restTiers (holdupRings s))
  settle ((List.range (numPorts s)).foldl releasePort s)

/-- HOLDUP_ENTRY (R217): no feed is qualified. -/
def execHoldupEntry (s : State) : Out :=
  let m := s.aon.mode
  if anyFeed s || !(m = .service || m = .drain || m = .maintenance) then .next s else .next (startHoldup 0x08 s)

/-- FEEDS_FAIL_IN_RECOVERY (R230; Table 14.2, 0x09, 0x0A). -/
def execFeedsFailInRecovery (s : State) : Out :=
  let m := s.aon.mode
  if anyFeed s then .next s
  else if m = .recovery && s.aon.dramRetained then .next (startHoldup 0x09 s)
  else if (m = .recovery || m = .harnessing) && !s.aon.dramRetained && !s.aon.writeAccepted then .next (toStall 0x0A (allRailsOff s))
  else .next s

/-! ## The dirty list (R220) -/

/-- The pages of the list: those dirty at entry, oldest first, then those of the grace period. -/
def listOf (s : State) : List Nat :=
  let d := s.led.order.filter (fun p => dDirty (descOf s p))
  d.filter (fun p => !s.led.grace.contains p) ++ d.filter (fun p => s.led.grace.contains p)

/-- The list in fragments of up to 131,072 entries. -/
def fragments : Nat → List Nat → List (List Nat)
  | 0, _ => []
  | n + 1, l => match l with
    | [] => []
    | _ => l.take 131072 :: fragments n (l.drop 131072)

/-- The granules of a fragment: eight entries to a granule. -/
def fragGranules (l : List Nat) : List (BitVec 512) :=
  (List.range (ceilDiv l.length 8)).map (fun k =>
    (List.range 8).foldl (fun x j => x ||| place 512 (64 * j) (BitVec.ofNat 64 (l.getD (8 * k + j) 0))) 0)

/-- A fragment goes into a free segment; with none it is not written. -/
def writeFrag (l : List Nat) (s : State) : State :=
  let ups := (List.range 32).filter (fun i => (liveSsds s).contains i && ssdUp s i)
  match ups.findSome? (fun i => (freeSlot s i (s.led.segs.length + s.led.frags.length + 1) 0).map (fun k => (i, k))) with
  | none => s
  | some (i, k) =>
    let start := segBase s + 256 * k
    let s := deallocate i start s
    let base := ledBlock i start * 64
    nvmeWrite i (ceilDiv l.length 512) (ledgerClass s)
      { s with led.frags := s.led.frags ++ [(i, start)],
               led.flash := ((fragGranules l).zipIdx).foldl (fun f p => sset 0 f (base + p.2) p.1) s.led.flash }

/-- HOLDUP_FREEZE (R220): the dirty list is closed and written. -/
def execHoldupFreeze (s : State) : Out :=
  if s.aon.mode ≠ .holdup || s.led.hStep ≠ 1 then .next s
  else
    let l := listOf s
    let s := { s with led.hStep := 2, led.listPages := l, led.listSeq := s.led.nextSeq, led.nextSeq := s.led.nextSeq + 1, led.frags := [] }
    .next ((fragments (l.length + 1) l).foldl (fun t f => writeFrag f t) s)

/-- The bytes of `n` blocks of an SSD as they stand on flash. -/
def flashBytes (s : State) (ssd start n : Nat) : List Byte :=
  (List.range (64 * n)).flatMap (fun g => bytesOf (sget (0 : BitVec 512) s.led.flash (ledBlock ssd start * 64 + g)) 64)

/-- DIRTY_LIST record of a fragment (Table 7.8). -/
def listBody (s : State) (frag count entries : Nat) (at' : Nat × Nat) : BitVec 512 :=
  let blocks := ceilDiv entries 512
  place 512 8 s.led.listSeq ||| place 512 72 (BitVec.ofNat 5 at'.1) ||| place 512 77 (BitVec.ofNat 40 at'.2) |||
  place 512 117 (BitVec.ofNat 9 blocks) ||| place 512 126 (BitVec.ofNat 18 entries) ||| place 512 144 (BitVec.ofNat 16 frag) |||
  place 512 160 (BitVec.ofNat 16 count) ||| place 512 176 (crc64 (flashBytes s at'.1 at'.2 blocks))

/-- The DIRTY_LIST records of the closed list. -/
def writeList (s : State) : State :=
  let cs := fragments (s.led.listPages.length + 1) s.led.listPages
  if cs = [] then addRec 3 (place 512 8 s.led.listSeq) s
  else ((cs.zip s.led.frags).zipIdx).foldl (fun t x => addRec 3 (listBody t x.2 cs.length x.1.1.length x.1.2) t) s

/-- Segments not yet committed whose SEG_COMMIT is not written are given up; the flush writes their pages under a higher SEQ. -/
def giveUpSegs (s : State) : State :=
  (s.led.segs.filterMap (fun e => match e.2 with
    | some g => if g.committed || recorded s e.1 then none else some e.1
    | none => none)).foldl (fun t q => failSegment q t) s

/-- DIRTY_LIST_COMMITTED (R220): the flush proceeds with the first group and then the second. -/
def execDirtyListCommitted (s : State) : Out :=
  if s.aon.mode ≠ .holdup || s.led.hStep ≠ 2 then .next s
  else
    let s := giveUpSegs (writeList { s with led.hStep := 3 })
    let s := s.led.listPages.foldl (fun t p => queuePage p t) { s with led.queue := [] }
    .next (settle (packQueued s))

/-! ## The end of the flush (Table 7.10 steps 5 to 7) -/

/-- A dirty line of the Quay cache goes to DRAM. A Cold page needs none: its image on flash holds the line. -/
def flushLine (l : Nat) (s : State) : State :=
  let line := BitVec.ofNat 39 l
  match qline s line with
  | none => s
  | some q =>
    if !q.dirty then s
    else if dState (descOf s (pageOf line)) = .cold then dropLine line s
    else promoteDone (pageOf line) (evictLine line s)

/-- The dirty nodes of a level go to DRAM, each advancing its parent slot or root entry (R109); levels from 8 are those of the key
table's tree (R111). -/
def flushLevel (s : State) (level : Nat) : State :=
  (s.quay.ctrDirty.filter (fun k => k / 2 ^ 40 = level)).foldl (fun t k => writeNode (8 ≤ level) (level % 8) (k % 2 ^ 40) t) s

/-- Dirty Quay data, key entries, counters and nodes go to DRAM, the children before their parents (Table 7.10 step 5), in LEDGER_CLASS
(R248). -/
def flushQuay (s : State) : State :=
  doWork (roleWork s 4) (fun s =>
    ([0, 1, 2, 3, 4, 5, 8, 9, 10, 11] : List Nat).foldl flushLevel ((s.quay.lines.map Prod.fst).foldl (fun t l => flushLine l t) s)) s

/-- REKEY records of the engines that run. -/
def rekeyRecords (s : State) : State :=
  s.led.engines.foldl (fun t e => if e.2.active then addRec 5 (rekeyBody e.1 e.2 false) t else t) s

/-- Step 5 of Table 7.10: Quay data and counters go to DRAM, REKEY records and HOLD_DONE are written, the SSDs are flushed, and
AON saves the base-domain counters and the valid-map summary (R404, R449). -/
def endFlush (s : State) : State :=
  let s := rekeyRecords (flushQuay s)
  let s := flushSsds (addRec 4 (holdDoneBody s.led.listSeq true false false) s)
  { s with led.hStep := 5, led.allDone := true, sec.valid := s.dram.descSummary,
           ev.saved := s.ev.count.filter (fun e => baseEvent e.1) }

/-- HOLDUP_FLUSH_COMMITTED (R220): no page is dirty and no tier operation is in progress; while pages are dirty, or operations run,
the flush goes on. -/
def execHoldupFlushCommitted (s : State) : Out :=
  if s.aon.mode ≠ .holdup || s.led.hStep ≠ 3 then .next s
  else if dirtyPages s ≠ 0 || s.tier.ops ≠ [] then .next (settle (packQueued (queueAll s)))
  else .next (endFlush s)

/-- WATCH_ENTRY (R404, R407): bay rails and domains go off, the device rails as Watch leaves them, and the tide counter stops. -/
def execWatchEntry (s : State) : Out :=
  if s.aon.mode ≠ .holdup || s.led.hStep ≠ 6 then .next s
  else
    let s := diesOff (railsWatch (cutBays s))
    .next (changeMode 0x0C .watch { s with led.hStep := 0, led.allDone := false, time.stopped := true })

/-! ## Release (R221, R223, R406) -/

/-- HOLDUP_RELEASE (R221). Before the freeze a fresh LIST_SEQ is drawn. -/
def releaseHoldup (s : State) : State :=
  let s := if s.led.hStep < 2 then { s with led.listSeq := s.led.nextSeq, led.nextSeq := s.led.nextSeq + 1 } else s
  let s := flushSsds (addRec 4 (holdDoneBody s.led.listSeq false false true) s)
  { toStall 0x0E (allRailsOff s) with aon.released := true }

/-- HOLDUP_ENERGY_CHECK (R221): AON reads e_store, 0 J while the PPD link is down (R434). -/
def execHoldupEnergyCheck (eStore : Nat) (s : State) : Out :=
  let e := if s.ppd.linkUp then eStore else 0
  if s.aon.mode ≠ .holdup || s.led.hStep < 1 || 5 ≤ s.led.hStep || param s 0x07 2 < e then .next s
  else .next (releaseHoldup s)

/-- The first SLOT channel that has faulted. -/
def slotFaulted (s : State) : Option Nat :=
  (List.range 32).find? (fun k => let st := (pch s (k + 3)).st
    chExists s (k + 3) && (st = .cooldown || st = .latched || st = .damaged))

/-- WATCH_RELEASE (R406): reason 1 energy, 2 slot fault with its SLOT channel. -/
def releaseWatch (reason eStore slot : Nat) (s : State) : State :=
  let s := logIt { cause := 0x6B, src := epAon, args := [reason, eStore, slot] } s
  { toStall 0x10 (allRailsOff s) with aon.released := true }

/-- WATCH_PERIOD_SAMPLE (R405, R406). -/
def execWatchPeriodSample (eStore : Nat) (slotFault : Option Nat) (s : State) : Out :=
  let e := if s.ppd.linkUp then eStore else 0
  if s.aon.mode ≠ .watch then .next s
  else if e ≤ param s 0x07 2 then .next (releaseWatch 1 e 0 s)
  else match slotFault.orElse (fun _ => slotFaulted s) with
    | some k => .next (releaseWatch 2 e k s)
    | none => .next s

/-! ## Time across sleep (R407 to R410) -/

/-- The advance of R407 in ns. While the slow crystal is stopped the count is in PPD ticks of 2 µs (R484). -/
def tideAdvance (s : State) (count : Nat) : Nat :=
  if s.time.slowFail then count * 2000 / 16 * 16 else count * s.time.slowPeriod.toNat / 1024 / 16 * 16

/-- LAST_BOUND of an advance in ns (R408, R484). -/
def tideBound (s : State) (adv : Nat) : Nat := (if s.time.slowFail then ceilDiv (2 * adv) 100 else ceilDiv (2 * adv) 10000) + 16

/-- The feed that woke AON returned while the counter stood: at a tide value of the advance that no command gives, a free value (R8,
R10, log entry 80). With no feed qualified the time to service is still to start. -/
def feedReturn (t n : Nat) (s : State) : State :=
  if !anyFeed s then s
  else
    let (r, s) := draw 64 s
    { s with aon.returnTide := BitVec.ofNat 64 (t + r.toNat % (n + 1) * 16) }

/-- TIDE_RESUME (R407 to R410): the counter advances; windows that ended end once, DECAY_EPOCH by at most 8. -/
def execTideResume (slowCycles : Nat) (s : State) : Out :=
  if !s.time.stopped || s.aon.mode = .watch then .next s
  else
    let adv := tideAdvance s slowCycles
    let bound := tideBound s adv
    let period := max 1 (param s 0x02 2)
    let t := s.time.tide.toNat
    let epochs := min 8 ((t + adv) / period - t / period)
    let n : BitVec 64 := BitVec.ofNat 64 (adv / 16)
    let s := { s with
      time.tide := s.time.tide + BitVec.ofNat 64 adv, time.stopped := false, time.cumNs := s.time.cumNs + bound,
      time.lastBound := BitVec.ofNat 32 (min bound (2 ^ 32 - 1)), time.watchTicks := s.time.watchTicks + n,
      time.modeTicks := smod 0 s.time.modeTicks 5 (· + n),
      tier.decayEpoch := s.tier.decayEpoch + BitVec.ofNat 8 epochs, log.rate := [], ev.sentWin := [] }
    let s := feedReturn t (adv / 16) (evAdd 0x9AF epochs s)
    .next ((List.range 152).foldl (fun u d => modDom d (fun x => { x with asleepT := x.asleepT + n }) u) s)

/-- SLOW_PERIOD_CALIBRATION (R408). -/
def execSlowPeriodCalibration (crystalCycles : Nat) (s : State) : Out :=
  if s.aon.mode = .watch || s.time.stopped || s.time.slowFail || s.time.fastFail then .next s
  else .next { s with time.slowPeriod := BitVec.ofNat 32 (crystalCycles * 40), time.calValid := true }

/-! ## The manifest (R198, R199) -/

/-- The SSDs of the set that hold a valid manifest copy, with the newest of each. -/
def copies (s : State) : List (Nat × Manifest) :=
  ((ssdIndices s).filter (ssdUp s)).filterMap (fun i => (ssdCopy (ssdOf s i)).map (fun c => (i, c.2)))

/-- The copy with the highest GENERATION. -/
def newest (l : List (Nat × Manifest)) : Option Manifest :=
  l.foldl (fun b x => match b with
    | none => some x.2
    | some m => if m.generation.toNat < x.2.generation.toNat then some x.2 else b) none

/-- The first inconsistency of R199: the SSD and the reason of Table 16.3a. -/
def manifestFault (s : State) (m : Manifest) : Option (Nat × Nat) :=
  match (copies s).find? (fun x => x.2.ledgerId ≠ m.ledgerId) with
  | some x => some (x.1, 1)
  | none => match ((ssdIndices s).filter (ssdUp s)).find? (fun i => sget 0 m.idents i ≠ (ssdOf s i).nguid) with
    | some i => some (i, 2)
    | none => if m.fmtMajor = 1 && m.fmtMinor = 0 then none else some ((ssdIndices s).headD 0, 3)

/-- A new ledger (R197, R199): every region other than the manifests reads as zero. -/
def createLedger (s : State) : State :=
  let gen := match newest (copies s) with | some m => m.generation | none => 0
  let s := { s with
    led.manifest := none, led.logbook := [], led.rseq := 0, led.nextSeq := 1, led.segs := [], led.flash := [], led.flashMap := [],
    led.mapDirty := [], led.keyFlash := [], led.keyFlash2 := [], led.hotList := [], led.horizon := 0, led.horizonLogged := 0,
    led.frags := [] }
  let (id, s) := draw 128 s
  let (nonce, s) := draw 64 s
  let ups := (ssdIndices s).filter (ssdUp s)
  let s := ups.foldl (fun t i => peEv t i 3 1 t) s
  let b := ((ups.map (fun i => (ssdOf s i).blocks)).min?).getD 0
  let m : Manifest := { generation := gen, ledgerId := id, nonce := nonce, capacity := BitVec.ofNat 16 (capacity s / 2 ^ 30),
                        segCount := BitVec.ofNat 32 ((b - segBase s) / 256), ssdCount := BitVec.ofNat 6 (ssdIndices s).length,
                        logBlocks := BitVec.ofNat 32 (logBlocks s), keyBase := BitVec.ofNat 48 (keyBase s),
                        hotBase := BitVec.ofNat 48 (hotBase s), mapBase := BitVec.ofNat 48 (mapBase s),
                        segBase := BitVec.ofNat 48 (segBase s),
                        idents := ups.foldl (fun t i => sset 0 t i (ssdOf s i).nguid) [] }
  { writeManifest m s with led.chosen := true, led.inconsistent := 0 }

/-- LEDGER_INVALID (R199). -/
def ledgerInvalid (ssd reason : Nat) (s : State) : State :=
  { logIt { cause := 0x78, args := [ssd, reason] } s with led.inconsistent := reason, led.chosen := false }

/-- MANIFEST_CHOICE (R199): in Harnessing, or in Maintenance while no ledger is chosen. -/
def execManifestChoice (s : State) : Out :=
  let m := s.aon.mode
  let missing := (ssdIndices s).find? (fun i => !ssdUp s i)
  if !(m = .harnessing || (m = .maintenance && !s.led.chosen)) || !s.aon.loaded then .next s
  else if param s 0x07 17 ≠ 0 && (ssdIndices s).any (ssdUp s) then .next (createLedger s)
  else match missing with
    | some i => if param s 0x07 18 = 0 || !(ssdIndices s).any (ssdUp s) then .next (ledgerInvalid i 4 s) else .next (choose s)
    | none => .next (choose s)
where
  /-- Choose the newest copy, or create a ledger when there is none. -/
  choose (s : State) : State :=
    match newest (copies s) with
    | none => createLedger s
    | some m => match manifestFault s m with
      | some (i, r) => ledgerInvalid i r s
      | none => { s with led.manifest := some m, led.chosen := true, led.inconsistent := 0 }

/-! ## Replay (R226) -/

/-- The records of the logbooks that can be read (R212, R226). -/
def readRecords (s : State) : List (BitVec 512) := (s.led.logbook.filter (fun r => ssdUp s r.1)).map Prod.snd
/-- Those of a type. -/
def recordsOf (s : State) (ty : Nat) : List (BitVec 512) := (readRecords s).filter (fun r => recType r = ty)
/-- The record with the highest RSEQ. -/
def newestRec (l : List (BitVec 512)) : Option (BitVec 512) :=
  l.foldl (fun b r => match b with
    | none => some r
    | some x => if recRseq x < recRseq r then some r else b) none

/-- A summary entry of a segment above the horizon enters the overlay, and its map block has changed. -/
def replayEntry (seq : Nat) (g : Segment) (s : State) (e : BitVec 128) : State :=
  mapChanged (sumPage e) seq { s with led.overlay := sset none s.led.overlay (sumPage e) (some (mapEntry g e (sumPin e))) }

/-- 32-byte slots of the replay overlay: region 0x13 (Table 13.7). -/
def overlaySlots (s : State) : Nat := ((regions s).filter (fun r => r.1 = 0x13)).foldl (fun n r => n + r.2.2 * 128) 0

/-- Distinct pages of segments. -/
def segPages (l : List (Nat × Segment)) : List Nat := (l.flatMap (fun e => e.2.entries.map sumPage)).dedup

/-- The oldest segments go straight to the map blocks, with the advanced MAP_HORIZON recorded, until the rest fits the overlay. -/
def fitOverlay : List (Nat × Segment) → State → State
  | [], s => s
  | (q, g) :: r, s =>
    if overlaySlots s = 0 || (segPages ((q, g) :: r)).length ≤ overlaySlots s then s
    else
      let h : BitVec 64 := BitVec.ofNat 64 q
      let s := (segPages [(q, g)]).foldl (fun t p => nvmeWrite (mapSsd t (p / 256)) 1 (restoreClass t) t) s
      fitOverlay r (addRec 2 (place 512 8 h) { s with
        led.flashMap := g.entries.foldl (fun f e => sset 0 f (sumPage e) (withChk8 (mapEntry g e (sumPin e)))) s.led.flashMap,
        led.horizon := h, led.horizonLogged := h })

/-- The segments above the newest MAP_HORIZON whose SEG_COMMIT is recorded with a matching SUM_CRC, in SEQ order (R207, R226). -/
def aboveHorizon (s : State) : List (Nat × Segment) :=
  s.led.segs.filterMap (fun e => e.2.bind (fun g =>
    if s.led.horizon.toNat < e.1 && segRecorded s e.1 g then some (e.1, g) else none))

/-- Every SEG_COMMIT above the newest MAP_HORIZON, in SEQ order. -/
def replaySegs (s : State) : State :=
  let s := fitOverlay (aboveHorizon s) s
  (aboveHorizon s).foldl (fun t e => e.2.entries.foldl (replayEntry e.1 e.2) t) s

/-- The rekey engines come back from the newest REKEY record of each whose DONE = 0. -/
def replayRekeys (s : State) : State :=
  (List.range 16).foldl (fun t n => match newestRec ((recordsOf t 5).filter (fun r => fieldNat r 11 8 = n)) with
    | none => t
    | some r =>
      if r.getLsbD 151 then t
      else
        let old : BitVec 20 := r.extractLsb' 78 20
        let new : BitVec 20 := r.extractLsb' 98 20
        let e : Rekey := { active := true, first := fieldNat r 44 12, last := fieldNat r 77 45, tide := fieldNat r 150 118,
                           old := old, new := new, loggedGib := (fieldNat r 150 118 - fieldNat r 44 12) / 2 ^ 18 }
        let t := setKeyEntry old (setField (keyEntry t old) 323 (1 : BitVec 1)) t
        setEngine n e (setKeyEntry new (setField (keyEntry t new) 324 (1 : BitVec 1)) t)) s

/-- An entry of the key region whose CRC matches: of the primary copy, else of the second, each when its SSD can be read (R200, R212). -/
def keyCopy (s : State) (k : Nat) : Option (BitVec 512) :=
  ([(0, s.led.keyFlash), (1, s.led.keyFlash2)] : List (Nat × SMap (BitVec 512))).findSome? (fun c =>
    let e := sget 0 c.2 k
    if ssdUp s (keySsd s (k / 64) c.1) && crc64 (bytesOf e 54) = e.extractLsb' 432 64 then some e else none)

/-- The key table comes back from the key region (R200): an entry whose CRC fails in both copies is Empty and logged; PAGE_COUNT and the
flags of a rekey are not read back. -/
def replayKeys (s : State) : State :=
  ((s.led.keyFlash.map Prod.fst ++ s.led.keyFlash2.map Prod.fst).dedup).foldl (fun t k => match keyCopy t k with
    | some e => setKeyEntry (BitVec.ofNat 20 k) (setField (setField (setField e 432 (0 : BitVec 64)) 328 (0 : BitVec 34)) 323 (0 : BitVec 2)) t
    | none => logIt { cause := 0x02, src := epMgt0, key := BitVec.ofNat 20 k, args := [0] } t) s

/-- The frames of the retired list are marked (R70, R198). -/
def replayRetired (s : State) : State :=
  let l := match s.led.manifest with | some m => m.retired | none => []
  l.foldl (fun t e =>
    match fieldNat e 63 62 with
    | 1 => markRetired (fieldNat e 30 0) t
    | 2 => ((List.range (totalFrames t)).filter (frameInBank t (fieldNat e 14 0))).foldl (fun u f => markRetired f u) t
    | _ => t) s


/-- How an outage ended (R226). -/
inductive Outage where
  | clean
  | incomplete (listSeq : Nat)
  | unclean
  deriving DecidableEq, Repr

/-- The DIRTY_LIST records of a list. -/
def listRecs (s : State) (seq : Nat) : List (BitVec 512) := (recordsOf s 3).filter (fun r => recSeq r = seq)

/-- A DIRTY_LIST record whose fragment can be read, with matching LIST_CRC. -/
def fragOk (s : State) (r : BitVec 512) : Bool :=
  ssdUp s (fieldNat r 76 72) && crc64 (flashBytes s (fieldNat r 76 72) (fieldNat r 116 77) (fieldNat r 125 117)) = r.extractLsb' 176 64

/-- The dirty list of a LIST_SEQ is complete in the logbook. -/
def listComplete (s : State) (seq : Nat) : Bool :=
  match listRecs s seq with
  | [] => false
  | r :: _ =>
    let n := fieldNat r 175 160
    n = 0 || (List.range n).all (fun f => (listRecs s seq).any (fun q => fieldNat q 159 144 = f && fragOk s q))

/-- The classification by the newest HOLD_DONE, DIRTY_LIST and OPEN records. -/
def classify (s : State) : Outage :=
  match newestRec (recordsOf s 4), newestRec (recordsOf s 6) with
  | none, none => .clean
  | none, some _ => .unclean
  | some h, o =>
    if o.any (fun x => recRseq h < recRseq x) then .unclean
    else if h.getLsbD 72 then .clean
    else if listComplete s (recSeq h) then .incomplete (recSeq h) else .unclean

/-- The page numbers of a complete list. -/
def listedPages (s : State) (seq : Nat) : List Nat :=
  (listRecs s seq).flatMap (fun r =>
    let base := ledBlock (fieldNat r 76 72) (fieldNat r 116 77) * 64
    (List.range (fieldNat r 143 126)).map (fun i =>
      fieldNat (sget (0 : BitVec 512) s.led.flash (base + i / 8)) (64 * (i % 8) + 63) (64 * (i % 8))))

/-- The map entry that a page has now: its overlay entry, else the entry on flash. -/
def mapNow (s : State) (page : Nat) : BitVec 128 := (sget none s.led.overlay page).getD (sget 0 s.led.flashMap page)

/-- A segment above LIST_SEQ that exists for recovery holds the page. -/
def inLater (s : State) (seq page : Nat) : Bool :=
  s.led.segs.any (fun e => match e.2 with
    | some g => seq < e.1 && segRecorded s e.1 g && g.entries.any (fun x => sumPage x = page)
    | none => false)

/-- A listed page that no later segment holds is lost: Poisoned with every LINE_MASK bit set, and logged LEDGER_LOST. -/
def losePage (s : State) (page : Nat) : State :=
  logIt { cause := 0x79, kind := 4, addr := page }
    { s with led.overlay := sset none s.led.overlay page (some (mkMasked (mapNow s page) .poisoned none (BitVec.allOnes 64))) }

/-- What the classification does. -/
def applyOutage (o : Outage) (s : State) : State :=
  match o with
  | .clean => { s with aon.unclean := false }
  | .incomplete q => ((listedPages s q).filter (fun p => !inLater s q p)).foldl losePage { s with aon.unclean := false }
  | .unclean => logIt { cause := 0x7A, args := wide ((((readRecords s).map recRseq).max?).getD 0) }
      { s with aon.unclean := true }

/-- LEDGER_REPLAY (R110, R225 to R227): after it every descriptor frame is pending. It is made whenever no ledger has been replayed since
DRAM lost its contents, also where DRAM has been retained through a Holdup of Maintenance (DESIGN CHOICE, log entry 117). -/
def execLedgerReplay (s : State) : Out :=
  if s.aon.mode ≠ .recovery || !s.led.chosen || s.led.pending || s.led.segTable then .next s
  else
    let h := match newestRec (recordsOf s 2) with | some r => recSeq r | none => 0
    let s := createTree (dramLost s)
    let s := replayRetired { s with led.horizon := BitVec.ofNat 64 h, led.horizonLogged := BitVec.ofNat 64 h }
    let s := replaySegs (replayRekeys (replayKeys s))
    let s := applyOutage (classify s) s
    .next { s with led.pending := true, led.restored := [], led.restorePhase := 1, led.restorePos := 0, aon.restoring := true }

/-! ## Restore (R227 to R229) -/

/-- The descriptor that a map entry restores, and whether its CHK8 failed. An entry that cannot be read, or whose image stands on an
SSD that is missing, is Poisoned (R212, R227). -/
def restoredDesc (s : State) (page : Nat) : BitVec 128 × Bool :=
  let poison (e : BitVec 128) : BitVec 128 := mkMasked e .poisoned none (BitVec.allOnes 64)
  let image (e : BitVec 128) : BitVec 128 :=
    if dStateRaw e = some .cold then
      if ssdUp s (ledSsd (dLedAddr e)) then e &&& BitVec.ofNat 128 (2 ^ 114 - 1) else poison e
    else if dStateRaw e = some .poisoned then e
    else dCommon e .unbacked
  match sget none s.led.overlay page with
  | some e => (image e, false)
  | none =>
    let e := sget 0 s.led.flashMap page
    if !ssdUp s (mapSsd s (page / 256)) then (poison 0, false)
    else if !chk8Ok e then (poison 0, true)
    else (image e, false)

/-- One page of a restored frame: its descriptor and its mirror entry. -/
def restorePage (s : State) (page : Nat) : State :=
  let (d, bad) := restoredDesc s page
  let m := mapNow s page
  let m := if dStateRaw m = some .poisoned || bad then sget 0 s.led.flashMap page else withChk8 m
  let s := if d = 0 then s else setDesc page d s
  let s := { s with led.mirror := sset 0 s.led.mirror page m }
  if bad then logIt { cause := 0x7E, kind := 4, addr := page } s else s

/-- A pending frame is restored from its map block. -/
def restoreFrame (frame : Nat) (s : State) : State :=
  let ssd := mapSsd s frame
  let s := countXfer ssd (restoreClass s) 4096 (peEv s ssd 0 1 (peEv s ssd 4 1 (peEv s ssd 14 1 s)))
  let ps := ((List.range 256).map (· + 256 * frame)).filter (· < numPages s)
  let s := ps.foldl restorePage s
  { s with led.restored := sset false s.led.restored frame true }

/-- PENDING_FRAME_RESTORE (R227). -/
def execPendingFrameRestore (frame : Nat) (s : State) : Out :=
  if !s.led.pending || sget false s.led.restored frame || numPages s ≤ 256 * frame then .next s
  else .next (settle (restoreFrame frame s))

/-- The next page of a hot-list category, from `pos` upward. -/
def nextHot (s : State) (cat pos : Nat) : Option Nat :=
  (s.led.hotList.find? (fun e => pos ≤ e.1 && e.2.toNat = cat && e.1 < numPages s && ssdUp s (e.1 / 16384 % ledgerN s))).map Prod.fst

/-- The background restore ends. -/
def endRestore (s : State) : State := { s with led.restorePhase := 5, aon.restoring := false }

/-- One page of the hot list: a Cold page is read toward Hot or Warm in RESTORE_CLASS; any other is skipped, an open fault is joined, and
a Cold page that another operation holds is waited for. -/
def restoreHot (cat : Nat) (s : State) : State :=
  match nextHot s cat s.led.restorePos with
  | none => if s.led.restorePhase = 4 then endRestore s
      else { s with led.restorePhase := s.led.restorePhase + 1, led.restorePos := 0 }
  | some p =>
    let s := descFix p s
    if dState (descOf s p) ≠ .cold then { s with led.restorePos := p + 1 }
    else if (opOf s p).any (fun o => o.kind ≠ .fault) || ((opOf s p).isNone && !(faultRoom s && capRoom s (restoreClass s))) then s
    else
      let goal := if 2 ≤ cat && !atWm s 7 then 2 else 1
      { openFault (roleWork s 3) p (fun o => { o with restore := max o.restore goal }) s with led.restorePos := p + 1 }

/-- BACKGROUND_RESTORE_PAGE (R228): the map blocks in ascending order, then the hot-list categories 3, 2 and 1. -/
def execBackgroundRestorePage (s : State) : Out :=
  let m := s.aon.mode
  if !(m = .recovery || m = .service || m = .drain || m = .maintenance) then .next s
  else match s.led.restorePhase with
    | 1 =>
      let f := s.led.restorePos
      if numPages s ≤ 256 * f then .next { s with led.restorePhase := 2, led.restorePos := 0 }
      else
        let s := if sget false s.led.restored f then s else restoreFrame f s
        .next (settle { s with led.restorePos := f + 1 })
    | 2 => .next (if atWm s 8 then endRestore s else restoreHot 3 s)
    | 3 => .next (if atWm s 8 then endRestore s else restoreHot 2 s)
    | 4 => .next (if atWm s 8 then endRestore s else restoreHot 1 s)
    | _ => .next s

/-- The live image granules of a segment: those that the mirror references (R208). -/
def liveOf (s : State) (g : Segment) : Nat :=
  ((s.led.mirror.filter (fun e => dStateRaw e.2 = some .cold && ledSsd (dLedAddr e.2) = g.ssd.toNat &&
    g.start ≤ dLedAddr e.2 % 2 ^ 43 && dLedAddr e.2 % 2 ^ 43 < g.start + 256)).map (fun e => mirrorLen e.2)).foldl (· + ·) 0

/-- RESTORE_FIRST_PASS_END (R229): PAGE_COUNT and the segment table stand. -/
def execRestoreFirstPassEnd (s : State) : Out :=
  if s.led.restorePhase < 2 || s.led.segTable then .next s
  else
    let s := { s with led.segs := s.led.segs.map (fun e => (e.1, e.2.map (fun g => { g with live := liveOf s g }))),
                      led.segTable := true, led.pending := false, led.overlay := [], led.restored := [] }
    .next (settle (refreshPA (packQueued s)))

end Sys2Proof.Machine
end

