-- ==== Sys2Proof/Machine/Images.lean ====
section
/-! DEFINITION. Harness images: the container (R360 to R368), verification (R370 to R372), the content checks of Table 13.13, and the
change that a patch makes to the configuration (R380). -/

namespace Sys2Proof.Machine

open Sys2Proof

/-! ## The container (R360, Tables 13.1, 13.2) -/

/-- The 128-byte header of an image. -/
def imgHeader (im : List (BitVec 128)) : BitVec 1024 := ((im.take 8).reverse).foldl (fun a w => (a <<< 128) ||| w.setWidth 1024) 0
def imgKind (im : List (BitVec 128)) : Nat := fieldNat (imgHeader im) 51 48
def imgVariant (im : List (BitVec 128)) : Nat := fieldNat (imgHeader im) 55 52
def imgMinor (im : List (BitVec 128)) : Nat := fieldNat (imgHeader im) 39 32
def imgMajor (im : List (BitVec 128)) : Nat := fieldNat (imgHeader im) 47 40
def imgCount (im : List (BitVec 128)) : Nat := fieldNat (imgHeader im) 63 56
def imgSigned (im : List (BitVec 128)) : Nat := fieldNat (imgHeader im) 95 64
def imgSigLen (im : List (BitVec 128)) : Nat := fieldNat (imgHeader im) 127 96
def imgSvn (im : List (BitVec 128)) : BitVec 32 := (imgHeader im).extractLsb' 128 32
def imgPatchSeq (im : List (BitVec 128)) : Nat := fieldNat (imgHeader im) 191 160
def imgSerial (im : List (BitVec 128)) : BitVec 64 := (imgHeader im).extractLsb' 256 64
def imgBase (im : List (BitVec 128)) : BitVec 384 := (imgHeader im).extractLsb' 320 384

/-- A section directory entry. -/
structure Sec where
  /-- TYPE. -/
  ty : Nat
  /-- OFFSET. -/
  off : Nat
  /-- LENGTH. -/
  len : Nat
  /-- FIRST. -/
  first : Nat
  /-- OPTIONAL. -/
  opt : Bool
  /-- The reserved bits. -/
  rest : BitVec 128
  deriving DecidableEq, Repr

/-- The section directory. -/
def imgSecs (im : List (BitVec 128)) : List Sec :=
  ((im.drop 8).take (imgCount im)).map (fun r =>
    { ty := fieldNat r 7 0, off := fieldNat r 47 16, len := fieldNat r 79 48, first := fieldNat r 103 80, opt := r.getLsbD 104,
      rest := r &&& ~~~(BitVec.ofNat 128 (2 ^ 105 - 1 - 2 ^ 16 + 2 ^ 8)) })

/-- The records of a section. -/
def secRecs (im : List (BitVec 128)) (c : Sec) : List (BitVec 128) := (im.drop (c.off / 16)).take (c.len / 16)

/-- The size limit of a kind of image: 1 harness image, 2 patch, 3 firmware. -/
def imgLimit (kind : Nat) : Nat := if kind = 1 then 8 * 2 ^ 20 else if kind = 2 then 2 ^ 20 else 12 * 2 ^ 20

/-- Step 1 of R372. -/
def headerOk (kind : Nat) (im : List (BitVec 128)) : Bool :=
  let n := imgSigned im + imgSigLen im
  fieldNat (imgHeader im) 31 0 = 0x534E5248 && imgMajor im = 1 && imgKind im = kind && imgSigned im % 64 = 0 &&
  decide (imgSigLen im ≤ 8192) && decide (n ≤ imgLimit kind) && decide (n ≤ 16 * im.length) && decide (1 ≤ imgCount im) &&
  decide (imgCount im ≤ 32) && decide (128 + 16 * imgCount im ≤ imgSigned im) &&
  (imgSecs im).all (fun c => decide (128 + 16 * imgCount im ≤ c.off) && decide (c.off + c.len ≤ imgSigned im))

/-- Step 2 of R372: D. -/
def imgDigest (im : List (BitVec 128)) : BitVec 384 := Config.sha384 (im.take (imgSigned im / 16))

/-! ## Signatures (R370 to R372) -/

/-- The bytes of the signature block. -/
def sigBlock (im : List (BitVec 128)) : List Byte :=
  ((im.drop (imgSigned im / 16)).flatMap (fun w => bytesOf w 16)).take (imgSigLen im)

def bytesAt (b : List Byte) (i n : Nat) : List Byte := (b.drop i).take n
def numAt (b : List Byte) (i n : Nat) : Nat := (wordOf 64 (bytesAt b i n)).toNat

/-- The OTP slot that a signature block names, when its kind is permitted for the image, and it is programmed and not revoked. -/
def namedSlot (s : State) (kind : Nat) (b : List Byte) : Option KeySlot :=
  let byte := numAt b 0 1
  let owner := decide (128 ≤ byte)
  let slots := if owner then s.fuse.ownerSlot else s.fuse.vendorSlot
  let k := sget {} slots (byte % 4)
  let may := if kind = 3 then !owner else owner || !s.fuse.ownerSlot.any (fun e => e.2.programmed)
  if may && k.programmed && !k.revoked then some k else none

/-- Steps 3 to 5 of R372: 0 when the slot and both signatures hold, else the step that fails. -/
def sigStep (s : State) (kind : Nat) (im : List (BitVec 128)) : Nat :=
  let b := sigBlock im
  let pub := bytesAt b 4 97
  let sig := bytesAt b 104 96
  let hpub := bytesAt b 208 (numAt b 200 2)
  let hsig := bytesAt b (208 + numAt b 200 2) (numAt b 204 4)
  let whole := 208 + numAt b 200 2 + numAt b 204 4 ≤ b.length
  match namedSlot s kind b with
  | none => 3
  | some k =>
    if !whole || Config.sha384Bytes pub ≠ k.ecdsa || Config.sha384Bytes hpub ≠ k.hss then 3
    else if !Config.ecdsaValid pub (imgDigest im) sig then 4
    else if !Config.hssValid hpub (imgDigest im) hsig then 5
    else 0

/-- The owner slot that a signature block names. -/
def ownerOf (im : List (BitVec 128)) : Option (BitVec 2) :=
  let byte := numAt (sigBlock im) 0 1
  if 128 ≤ byte then some (BitVec.ofNat 2 byte) else none

/-- SVN is at least the floor (R371, R372). -/
def svnOk (s : State) (kind : Nat) (im : List (BitVec 128)) : Bool :=
  (if kind = 3 then s.fuse.svnFw else s.fuse.svnHarness) ≤ (imgSvn im).toNat
/-- VARIANT matches AON_DEVICE_ID, and the image is for this device (R372). -/
def targetOk (s : State) (im : List (BitVec 128)) : Bool :=
  imgVariant im = (if s.fuse.variantH then 2 else 1) && (imgSerial im = 0 || imgSerial im = s.fuse.serial)

/-- Steps 1 to 6 of R372: 0, or the first step that fails. -/
def verifySteps (s : State) (kind : Nat) (im : List (BitVec 128)) : Nat :=
  if !headerOk kind im then 1
  else match sigStep s kind im with
    | 0 => if svnOk s kind im && targetOk s im then 0 else 6
    | n => n

/-! ## Records (R361 to R368) -/

/-- The highest bit that a typed record of a section uses; none for a record type that the section does not have (Table 13.4). -/
def recTop (ty rt : Nat) : Option Nat :=
  match ty, rt with
  | 1, 0x10 => some 21 | 1, 0x11 => some 30 | 1, 0x12 => some 45
  | 2, 0x20 => some 79 | 2, 0x21 => some 31 | 2, 0x22 => some 80 | 2, 0x23 => some 103 | 2, 0x24 => some 50 | 2, 0x25 => some 27
  | 4, 0x28 => some 23 | 8, 0x30 => some 60 | 9, 0x38 => some 49 | 0x0A, 0x40 => some 63
  | _, _ => none

/-- The record types of Table 13.4. -/
def recTypes : List Nat := [0x01, 0x10, 0x11, 0x12, 0x20, 0x21, 0x22, 0x23, 0x24, 0x25, 0x28, 0x30, 0x38, 0x40]

/-- Bits of a typed record that are unused below its highest used bit. -/
def recGap (rt : Nat) : Nat :=
  match rt with
  | 0x40 => 2 ^ 16 - 2 ^ 13 + (2 ^ 32 - 2 ^ 29) | _ => 0

/-- A parameter that a parameter table of this manual has, with a value (R363). -/
def paramKnown (table index : Nat) : Bool :=
  match table with
  | 0x02 => index < 13 | 0x05 => index < 15 | 0x06 => index < 4 | 0x07 => index < 19 | 0x08 => index < 3
  | 0x09 => index < 13 | 0x0B => index < 3 | 0x0D => index < 8 | _ => false

def pTable (r : BitVec 128) : Nat := fieldNat r 15 8
def pIndex (r : BitVec 128) : Nat := fieldNat r 23 16
def pInst (r : BitVec 128) : Nat := fieldNat r 31 24
def pValue (r : BitVec 128) : Nat := fieldNat r 127 64
def isParam (r : BitVec 128) : Bool := fieldNat r 7 0 = 1

/-- A PARAM record may stand in a section of a type, with reserved bits 0 (R363, Table 13.3). The sections that hold no PARAM are
POWER_GROUPS, TILE_ROLES and CALIBRATION. -/
def paramPlaced (ty : Nat) (r : BitVec 128) : Bool := paramSection (pTable r) (pIndex r) = ty && fieldNat r 63 33 = 0

/-- One typed record as a reader takes it: unknown content that a later minor version marks as optional becomes an empty record
(R383); none when check 0x01 fails. -/
def readRec (later opt : Bool) (ty : Nat) (r : BitVec 128) : Option (BitVec 128) :=
  let rt := fieldNat r 7 0
  if rt = 0 then (if r = 0 then some 0 else none)
  else if rt = 1 then
    if paramKnown (pTable r) (pIndex r) then (if paramPlaced ty r then some r else none)
    else if later && r.getLsbD 32 then some 0 else none
  else match recTop ty rt with
    | some hi => if r.toNat / 2 ^ (hi + 1) = 0 && r.toNat &&& recGap rt = 0 then some r else none
    | none => if later && opt && !recTypes.contains rt
        then some 0 else none

/-- Records of the positional part of a section (R361, R364 to R366). -/
def posLen (h : Bool) (ty : Nat) : Nat :=
  match ty with
  | 4 => 256 | 5 => if h then 144 else 288 | 6 => 5 | 7 => 3 | _ => 0
/-- A section with positional records only. -/
def positional (ty : Nat) : Bool := ty = 6 || ty = 7

/-- The records of a section as a reader takes them: its first `n` are positional. -/
def readRecs (later opt : Bool) (ty n : Nat) (l : List (BitVec 128)) : Option (List (BitVec 128)) :=
  ((l.drop n).mapM (readRec later opt ty)).map (fun t => l.take n ++ t)

/-- No two PARAM records of a section set the same parameter with equal INSTANCE (R363). -/
def noDup : List (BitVec 128) → Bool
  | [] => true
  | r :: l => (!isParam r || !l.any (fun q => isParam q && q.extractLsb' 8 24 = r.extractLsb' 8 24)) && noDup l

/-! ## Check 0x01: the container -/

/-- Sections do not overlap. -/
def secsApart : List Sec → Bool
  | [] => true
  | c :: l => l.all (fun d => decide (c.off + c.len ≤ d.off) || decide (d.off + d.len ≤ c.off)) && secsApart l

/-- Every padding byte before SIGNED_LEN is 0. -/
def paddingOk (im : List (BitVec 128)) : Bool :=
  let cs := imgSecs im
  ((im.take (imgSigned im / 16)).zipIdx).all (fun p =>
    p.1 = 0 || decide (p.2 < 8 + imgCount im) || cs.any (fun c => decide (c.off ≤ 16 * p.2) && decide (16 * p.2 < c.off + c.len)))

/-- The header and the directory under check 0x01, for a harness image or a patch. -/
def containerOk (patch : Bool) (im : List (BitVec 128)) : Bool :=
  let cs := imgSecs im
  let later := decide (0 < imgMinor im)
  let known (c : Sec) : Bool := decide (1 ≤ c.ty) && decide (c.ty ≤ 0x0A)
  fieldNat (imgHeader im) 1023 704 = 0 &&
  (if patch then 1 ≤ imgPatchSeq im && imgPatchSeq im ≤ 255 else imgPatchSeq im = 0 && imgBase im = 0) &&
  cs.all (fun c => c.off % 64 = 0 && c.len % 16 = 0 && c.rest = 0 && (patch || c.first = 0) && (known c || (later && c.opt))) &&
  secsApart cs && decide ((cs.map Sec.ty).Nodup) && paddingOk im &&
  (patch || [1, 2, 9].all (fun t => (cs.map Sec.ty).contains t))

/-- The sections of a harness image as a reader takes them; none when check 0x01 fails. -/
def imageCfg (h : Bool) (im : List (BitVec 128)) : Option (SMap (List (BitVec 128))) :=
  if !containerOk false im then none
  else
    ((imgSecs im).filter (fun c => c.ty ≤ 0x0A)).foldl (fun m c => m.bind (fun m =>
      let l := secRecs im c
      let n := posLen h c.ty
      if l.length < n || (positional c.ty && l.length ≠ n) then none
      else (readRecs (0 < imgMinor im) c.opt c.ty n l).map (fun r => sset [] m c.ty r))) (some [])

/-! ## The content checks on a configuration (Table 13.13) -/

/-- The range of a parameter (Tables 2.4, 5.6, 6.7, 7.3, 8.6, 9.11, 11.7, 13.6), in the units of R363. -/
def paramRange (table index : Nat) : Nat × Nat :=
  match table with
  | 0x02 => ([(0, 64), (0, 64), (16000000, 16000000000), (0, 254), (1, 255), (0, 255), (16, 60), (100, 5000), (50, 5000),
      (10, 5000), (0, 48), (2, 64), (0, 7500)] : List (Nat × Nat)).getD index (0, 0)
  | 0x05 => ([(0, 4000), (1, 64), (1, 128), (0, 1020), (100, 16000), (250, 65535), (1000000, 64000000), (1, 2), (0, 0x1FFFF),
      (0, 16), (2, 1024), (1000000, 60000000000), (3600000000000, 604800000000000), (0, 8000), (70, 95)] : List (Nat × Nat)).getD index (0, 0)
  | 0x06 => ([(2 ^ 29, 2 ^ 34), (0, 1), (0, 1), (1000000, 10000000000)] : List (Nat × Nat)).getD index (0, 0)
  | 0x07 => ([(2 ^ 30, 2 ^ 36), (50000, 20000000), (10000, 1000000), (10000000, 500000000), (5000, 10000), (1000, 224000),
      (0, 5000000), (5000, 10000), (0, 10000000000), (0, 10000000), (0, 100000000), (4096, 262144), (2 ^ 28, 2 ^ 36),
      (10000000000, 3600000000000), (500, 7500), (1, 64), (100000000, 30000000000), (0, 1), (0, 1)] : List (Nat × Nat)).getD index (0, 0)
  | 0x08 => ([(256, 1048576), (1000, 1000000), (0, 1024)] : List (Nat × Nat)).getD index (0, 0)
  | 0x09 => ([(0, 1), (0, 2), (0, 2), (0, 4), (0, 1), (0, 2 ^ 18 - 1), (0, 1000000), (1000, 64000), (1, 15), (1, 15), (16, 65535),
      (1000, 100000), (1000000, 10000000000)] : List (Nat × Nat)).getD index (0, 0)
  | 0x0B => ([(0, 32), (1, 16), (1000000, 1000000000)] : List (Nat × Nat)).getD index (0, 0)
  | _ => ([(0, 0xFFFF), (0, 1), (0, 2 ^ 64 - 1), (0, 2 ^ 64 - 1), (6400, 8800), (1, 64), (0, 1), (0, 1)] : List (Nat × Nat)).getD index (0, 0)

/-- A number is a power of two. -/
def isPow2 (n : Nat) : Bool := n ≠ 0 && n = 2 ^ n.log2

/-- A value lies in a parameter's range. -/
def valueOk (table index v : Nat) : Bool :=
  decide ((paramRange table index).1 ≤ v) && decide (v ≤ (paramRange table index).2) &&
  (match table, index with
   | 0x05, 3 => v % 4 = 0
   | 0x06, 0 | 0x08, 0 => isPow2 v
   | 0x09, 5 => v = 0 || 2 ^ 17 ≤ v
   | 0x0D, 4 => v % 800 = 0
   | _, _ => true)

/-- The instances that a parameter may name (R363); 0 for one that takes 0xFF alone. -/
def instLimit (t : State) (table index : Nat) : Nat :=
  if table = 0x05 then numChans t else if table = 0x09 || (table = 0x0D && 6 ≤ index) then numPorts t else 0

/-- The PARAM records of every section. -/
def allParams (t : State) : List (BitVec 128) := ([1, 2, 3, 4, 5, 8, 9] : List Nat).flatMap (fun ty => recsOf t ty 1)

def chk (code : Nat) (ok : Bool) : Nat := if ok then 0 else code
/-- The first check of a list that fails; 0 when none does. -/
def firstFault (l : List Nat) : Nat := (l.find? (· ≠ 0)).getD 0

/-- 0x01 over the records: no duplicate parameter, and INSTANCE 0xFF where a parameter has no instances. -/
def check01 (t : State) : Bool :=
  ([1, 2, 3, 4, 5, 8, 9] : List Nat).all (fun ty => noDup (typedRecs t ty)) &&
  (allParams t).all (fun r => pInst r = 0xFF || 0 < instLimit t (pTable r) (pIndex r)) &&
  (recsOf t 2 0x22).all (fun r => let c := fieldNat r 15 8; (1 ≤ c && c ≤ 0x15) || (0x20 ≤ c && c ≤ 0x2F)) &&
  (recsOf t 4 0x28).all (fun r => fieldNat r 15 8 ≤ 4) && (recsOf t 2 0x21).all (fun r => fieldNat r 14 12 ≤ 5) &&
  ((sectionRecs t 6)[4]?.all (fun r => fieldNat r 127 96 = 0))

/-- 0x02: the resources that records name exist in the variant (R7). -/
def check02 (t : State) : Bool :=
  (allParams t).all (fun r => pInst r = 0xFF || pInst r < instLimit t (pTable r) (pIndex r)) &&
  (recsOf t 2 0x20).all (fun r => (parseChanSet (fun _ => 0) r).chans.all (· < numChans t)) &&
  (recsOf t 2 0x21).all (fun r => fieldNat r 11 8 < numChans t) && (recsOf t 2 0x25).all (fun r => fieldNat r 11 8 < numChans t) &&
  (recsOf t 2 0x22).all (fun r => fieldNat r 15 8 < 0x20 || fieldNat r 15 8 - 0x20 < numBanks t) &&
  (recsOf t 2 0x24).all (fun r => 2 ^ fieldNat r 11 8 < numBanks t) && (recsOf t 9 0x38).all (fun r => fieldNat r 16 13 < numBays t) &&
  (recsOf t 0x0A 0x40).all (fun r => fieldNat r 11 8 < (if r.getLsbD 12 then numPorts t else numChans t))

/-- 0x03: the interleave fields (R39, R40). -/
def check03 (t : State) : Bool :=
  let l := recsOf t 1 0x10
  let used := l.filter (fun r => fieldNat r 12 10 ≠ 0)
  let ps := used.flatMap (fun r => levelBits (fieldNat r 12 10) (fieldNat r 17 13))
  l.all (fun r => fieldNat r 9 8 ≤ 2) && decide ((l.map (fun r => fieldNat r 9 8)).Nodup) &&
  used.all (fun r => fieldNat r 12 10 ≤ 4 && fieldNat r 17 13 ≤ 24 && fieldNat r 21 18 < 2 ^ fieldNat r 12 10) &&
  decide ps.Nodup && ps.all (· < 39)

/-- 0x04: LOGICAL_CAPACITY (R41). -/
def check04 (t : State) : Bool :=
  capacity t % 2 ^ 30 = 0 && decide (2 ^ 30 ≤ capacity t) && decide (capacity t ≤ (if t.fuse.variantH then 2 ^ 44 else 2 ^ 45))

/-- 0x05: the channel sets (R132). -/
def check05 (t : State) : Bool :=
  let l := recsOf t 2 0x20
  let sets := l.map (parseChanSet (fun _ => 0))
  let ks := l.map (fun r => fieldNat r 9 8)
  decide (1 ≤ l.length) && decide (l.length ≤ 4) && decide ks.Nodup && ks.all (· < l.length) &&
  l.all (fun r => let w := fieldNat r 12 10
    w ≤ (if t.fuse.variantH then 3 else 4) && fieldNat r 15 13 ≤ 6 && fieldNat r 79 16 < 2 ^ (4 * 2 ^ w)) &&
  decide ((sets.flatMap ChanSet.chans).Nodup)

/-- 0x07: the QUAY record and the bank hash. -/
def check07 (t : State) : Bool :=
  let q := recsOf t 2 0x23
  let hs := (recsOf t 2 0x24).map (fun r => fieldNat r 11 8)
  decide (q.length ≤ 1) && decide hs.Nodup && (hs.isEmpty || 2 ^ hs.length = numBanks t) &&
  q.all (fun r =>
    let (dat, des, ctr, dir, key, hold) := (fieldNat r 23 8, fieldNat r 39 24, fieldNat r 55 40, fieldNat r 71 56, fieldNat r 87 72, fieldNat r 103 88)
    decide (dat + des + ctr + dir + key + hold = 12288) && key = (if t.fuse.variantH then 128 else 64) && 1024 ≤ dat && 256 ≤ des &&
    256 ≤ dir && 16 ≤ hold && (64 ≤ ctr || (ctr = 0 && param t 0x0D 3 = 0)))

/-- 0x08: every parameter in its range and order (R62). NODE_ID is required. -/
def check08 (t : State) : Bool :=
  (allParams t).all (fun r => valueOk (pTable r) (pIndex r) (pValue r)) && (paramRec t 0x0D 0 0xFF).isSome &&
  decide (param t 0x02 3 < param t 0x02 4) && decide (param t 0x02 8 ≤ param t 0x02 7) && decide (param t 0x02 9 ≤ param t 0x02 8) &&
  (List.range (numChans t)).all (fun c => paramAt t 0x05 1 c ≤ paramAt t 0x05 2 c)

/-- 0x09: the reins (R237). -/
def check09 (t : State) : Bool :=
  ((sectionRecs t 4).take 256).all (fun r => fieldNat r 127 81 = 0 && fieldNat r 10 0 = 0 && 1 ≤ fieldNat r 79 67 && fieldNat r 79 67 ≤ 4096) &&
  (List.range 4).all (fun res => resSum t res ≤ 1024) && decide (((List.range 5).map (designated t)).Nodup) &&
  decide (((recsOf t 4 0x28).map (fun r => fieldNat r 15 8)).Nodup)

/-- The output of a router toward another in a ROUTES section. -/
def secOut (l : List (BitVec 128)) (r d : Nat) : Nat := fieldNat (l.getD (3 * r + d / 32) 0) (4 * (d % 32) + 3) (4 * (d % 32))

/-- An output of a router exists: a neighbour on the mesh, the local port, or a bridge port (R320, R326). -/
def outExists (h : Bool) (r out : Nat) : Bool :=
  let (x, y) := (r % 8, r % 48 / 8)
  match out with
  | 0 => y < 5 | 1 => x < 7 | 2 => 0 < y | 3 => 0 < x | 4 => true | 5 | 6 => y = 5 && !h | _ => false

/-- A walk over the tables reaches its destination within the hops given. -/
def reaches (l : List (BitVec 128)) (d : Nat) : Nat → Nat → Bool
  | 0, r => r = d && secOut l r d = 4
  | n + 1, r => let o := secOut l r d
    if r = d then o = 4 else match routeStep r o with
      | some (r', _) => reaches l d n r'
      | none => false

/-- 0x0A: routes (R327). An absent section gives the default tables. -/
def check0A (t : State) : Bool :=
  let l := sectionRecs t 5
  let n := if t.fuse.variantH then 48 else 96
  l.isEmpty || (List.range n).all (fun r => (List.range n).all (fun d => outExists t.fuse.variantH r (secOut l r d))) &&
    (List.range n).all (fun r => (List.range n).all (fun d => reaches l d 24 r))


/-- 0x0C: topology (R166, R285, R305). -/
def check0C (t : State) : Bool :=
  let partners := (List.range (numPorts t)).filterMap (fun p => let v := paramAt t 0x09 5 p; if 2 ^ 17 ≤ v then some (v % 2 ^ 17) else none)
  (!direct t || ((sharers t ++ partners).dedup).length ≤ 4) && (sharers t).length * param t 0x0D 5 ≤ holdingLines t &&
  (List.range 64).all (fun d => (domainMembers t d).length ≤ 1024)

/-- 0x0D: SEAL_SPAN and the sealed ranges (R90), in GiB. -/
def check0D (t : State) : Bool :=
  let span := param t 0x0D 3
  let l := (recsOf t 8 0x30).map (fun r => (fieldNat r 23 8, fieldNat r 39 24))
  span % 2 ^ 30 = 0 && decide (span ≤ capacity t) && decide (l.length ≤ 1024) && l.all (fun g => (g.1 + g.2) * 2 ^ 30 ≤ span) &&
  (l.zipIdx).all (fun a => (l.zipIdx).all (fun b => a.2 = b.2 || decide (a.1.1 + a.1.2 ≤ b.1.1) || decide (b.1.1 + b.1.2 ≤ a.1.1)))

/-- 0x0E: tile roles (R365). -/
def check0E (t : State) : Bool :=
  (List.range (numTiles t)).all (fun k => tileRole t k ≤ 3) &&
  (List.range (numDies t)).all (fun d => (List.range 3).all (fun r => !(tilesOf t d r).isEmpty))

/-- 0x0F: the ledger set. -/
def check0F (t : State) : Bool :=
  let l := recsOf t 9 0x38
  decide (1 ≤ l.length) && decide (l.length ≤ 32) && decide ((ssdIndices t).Nodup) && (ssdIndices t).all (· < l.length) &&
  decide ((l.map (fun r => (fieldNat r 16 13, r.getLsbD 49))).Nodup)

/-- 0x10: CAL items (R368). -/
def check10 (t : State) : Bool :=
  (recsOf t 0x0A 0x40).all (fun r =>
    let item := fieldNat r 23 16
    let v := fieldNat r 63 32
    if r.getLsbD 12 then item = 1 && v ≤ 7 else 1 ≤ item && item ≤ 9 && (item < 8 || v ≤ 200))

/-- The checks that the device runs before training: 0, or the code of the first that fails. -/
def checkCfg (t : State) : Nat :=
  firstFault [chk 0x01 (check01 t), chk 0x02 (check02 t), chk 0x03 (check03 t), chk 0x04 (check04 t), chk 0x05 (check05 t),
    chk 0x07 (check07 t), chk 0x08 (check08 t), chk 0x09 (check09 t), chk 0x0A (check0A t), chk 0x0C (check0C t),
    chk 0x0D (check0D t), chk 0x0E (check0E t), chk 0x0F (check0F t), chk 0x10 (check10 t)]

/-! ## Check 0x06, after training (R369, Table 13.7) -/

/-- The channels that a frame of a channel set lies on. -/
def regionChans (t : State) (r : Nat × Nat × Nat) : List Nat :=
  match findSet (chanSets t) (r.2.1 * 64) with
  | some (c, _) => c.chans
  | none => []

/-- The minimum size of a region in bytes; 0 for one that the configuration does not need. -/
def regionMin (t : State) (code : Nat) : Nat :=
  let c := capacity t
  let s := param t 0x0D 3
  let level (l : Nat) : Nat := ceilDiv (s / 4096) (64 ^ l) * 64
  match code with
  | 0x01 | 0x11 => c / 256
  | 0x02 | 0x03 => ceilDiv c (2 ^ 23)
  | 0x04 | 0x05 => 8 * totalFrames t
  | 0x06 | 0x07 | 0x08 | 0x09 | 0x0A | 0x0B => level (code - 6)
  | 0x0C | 0x0D | 0x0E => level (code - 9)
  | 0x0F => 64 * 2 ^ 20
  | 0x10 => 16644 * 64
  | 0x12 => 16 * ((match t.led.manifest with | some m => m.segCount.toNat | none => 0) * (ssdIndices t).length)
  | 0x13 => 3 * 2 ^ 29
  | 0x14 => 2 ^ 20
  | _ => if 0x20 ≤ code && code < 0x20 + numBanks t then param t 0x06 0 / numBanks t else 0

/-- Two regions lie apart: on the other die, or in the -H variant on other channels. -/
def regionsApart (t : State) (a b : Nat × Nat × Nat) : Bool :=
  if t.fuse.variantH then (regionChans t a).all (fun c => !(regionChans t b).contains c)
  else (regionChans t a).all (fun c => (regionChans t b).all (fun d => c / 8 ≠ d / 8))

/-- The (rank, CID) combinations of each channel of the set that a frame has a line on. -/
def frameRanks (t : State) (f : Nat) : List (Nat × Nat × Nat) :=
  ((List.range 64).filterMap (fun i => (coord t (f * 64 + i)).map (fun c => (c.ch, c.rank, c.cid)))).dedup

/-- The training area of a channel set: four frames with lines on every rank and CID of every channel. -/
def trainAreaOk (t : State) (k : Nat) : Bool :=
  (recsOf t 2 0x22).any (fun r =>
    fieldNat r 15 8 = 0x15 && fieldNat r 80 79 = k &&
    (match (chanSets t)[k]? with
     | none => false
     | some c =>
       let fs := ((List.range (fieldNat r 78 47)).map (· + fieldNat r 46 16)).map (frameRanks t)
       c.chans.all (fun ch => (List.range (2 ^ (chan t ch).pop.rankBits)).all (fun rk => (List.range (2 ^ (chan t ch).pop.cidBits)).all (fun cid =>
         4 ≤ (fs.filter (fun l => l.contains (ch, rk, cid))).length)))))

/-- 0x06. -/
def check06 (t : State) : Bool :=
  let rs := regions t
  let apart (a b : Nat) : Bool := rs.all (fun x => x.1 ≠ a || rs.all (fun y => y.1 ≠ b || regionsApart t x y))
  rs.all (fun r => r.2.1 + r.2.2 ≤ totalFrames t) &&
  (rs.zipIdx).all (fun a => (rs.zipIdx).all (fun b => a.2 = b.2 || decide (a.1.2.1 + a.1.2.2 ≤ b.1.2.1) || decide (b.1.2.1 + b.1.2.2 ≤ a.1.2.1))) &&
  ((List.range 0x15 ++ (List.range 16).map (· + 0x20)).all (fun c => regionMin t c = 0 ||
    rs.any (fun r => r.1 = c && regionMin t c ≤ r.2.2 * 4096))) &&
  (List.range (chanSets t).length).all (trainAreaOk t) &&
  apart 0x02 0x03 && apart 0x04 0x05 && apart 0x09 0x0C && apart 0x0A 0x0D && apart 0x0B 0x0E

/-- The population that differs from a POPULATION record: channel, expected and found capacity (R384). -/
def populationFault (t : State) : Option (Nat × Nat × Nat) :=
  (recsOf t 2 0x25).findSome? (fun r =>
    let c := fieldNat r 11 8
    let found := if (chan t c).trained then (chan t c).pop.gib else 0
    if fieldNat r 27 12 = found then none else some (c, fieldNat r 27 12, found))

/-! ## What a patch changes (R380, Table 13.3) -/

/-- The records of a section in the effective configuration: an absent section has the default positional records. -/
def effSection (s : State) (ty : Nat) : List (BitVec 128) :=
  let l := sectionRecs s ty
  let nib (n : Nat) (f : Nat → Nat) (j : Nat) : BitVec 128 :=
    (List.range 32).foldl (fun r k => if 32 * j + k < n then r ||| place 128 (4 * k) (BitVec.ofNat 4 (f (32 * j + k))) else r) 0
  if !l.isEmpty then l
  else match ty with
    | 4 => (List.range 256).map (classRec s)
    | 5 => (List.range (posLen s.fuse.variantH 5)).map (fun i => nib (if s.fuse.variantH then 48 else 96) (fun d => defaultOut (i / 3) d) (i % 3))
    | 6 => (List.range 5).map (nib 152 (domGroup s))
    | 7 => (List.range 3).map (nib (numTiles s) (tileRole s))
    | _ => []

/-- Records `new` take the places from `first` of a section; a PARAM record that they bring replaces the record that sets the same
parameter with the same INSTANCE. -/
def placeRecs (pos first : Nat) (new old : List (BitVec 128)) : List (BitVec 128) :=
  let sets (q : BitVec 128) : Bool := isParam q && new.any (fun r => isParam r && r.extractLsb' 8 24 = q.extractLsb' 8 24)
  let kept := (old.zipIdx).map (fun p => if pos ≤ p.2 && sets p.1 then 0 else p.1)
  kept.take first ++ new ++ kept.drop (first + new.length)

/-- One section of a patch on a section: none when the range or the append is refused, or a record is not readable. -/
def patchSection (s : State) (im : List (BitVec 128)) (c : Sec) : Option (List (BitVec 128)) :=
  let old := effSection s c.ty
  let pos := posLen s.fuse.variantH c.ty
  let new := secRecs im c
  let first := if c.first = 0xFFFFFF then old.length else c.first
  if c.first = 0xFFFFFF && positional c.ty then none
  else if c.first ≠ 0xFFFFFF && old.length < first + new.length then none
  else (readRecs (0 < imgMinor im) c.opt c.ty (pos - first) new).map (fun r => placeRecs pos first r old)

/-- The sections of a patch in ascending TYPE order. -/
def patchSecs (im : List (BitVec 128)) : List Sec :=
  (List.range 11).filterMap (fun ty => (imgSecs im).find? (fun c => c.ty = ty && 1 ≤ ty))

/-- The configuration that a patch is applied to: with the class records that wait for the next budget window (R237, R380). -/
def nextCfg (s : State) : State := { s with cfg := (takeRecords s).cfg }

/-- The configuration after a patch. -/
def patchCfg (s : State) (im : List (BitVec 128)) : Option (SMap (List (BitVec 128))) :=
  if !containerOk true im then none
  else (patchSecs im).foldl (fun m c => m.bind (fun m => (patchSection s im c).map (fun l => sset [] m c.ty l))) (some s.cfg)

/-- A record may be changed by a patch in Service, or in Maintenance (Table 13.3). -/
def changeable (maint : Bool) (ty pos i : Nat) (r : BitVec 128) : Bool :=
  if i < pos then true
  else if fieldNat r 7 0 = 0 then true
  else if isParam r then
    match pTable r with
    | 0x06 => pIndex r ≠ 0
    | 0x09 => pIndex r ≠ 4
    | 0x0D => 6 ≤ pIndex r
    | 0x05 => pIndex r ≠ 8 && pIndex r ≠ 9
    | 0x07 => pIndex r ≠ 11 && pIndex r ≠ 17 && pIndex r ≠ 18
    | _ => true
  else (ty = 8 && fieldNat r 7 0 = 0x30) || (maint && ty = 9 && fieldNat r 7 0 = 0x38)

/-- The first section of a patch that changes a record which may not be changed: its type. -/
def notLive (s : State) (maint : Bool) (im : List (BitVec 128)) : Option Nat :=
  ((patchSecs im).find? (fun c =>
    let old := effSection s c.ty
    let pos := posLen s.fuse.variantH c.ty
    let first := if c.first = 0xFFFFFF then old.length else c.first
    let new := secRecs im c
    !((new.zipIdx).all (fun p => changeable maint c.ty pos (first + p.2) p.1 &&
      changeable maint c.ty pos (first + p.2) (old.getD (first + p.2) 0))))).map Sec.ty

end Sys2Proof.Machine
end

