-- ==== Sys2Proof/Machine/Harness.lean ====
section
/-! DEFINITION. Boot from the SPI NOR, writes of it, the reload at Recovery, and harness patches (R373 to R386). -/

namespace Sys2Proof.Machine

open Sys2Proof

/-! ## Refused sleep entries (R402), which a POWER_GROUPS change makes too -/

/-- BACKOFF_BASE in ms (Table 14.11): 2 to the code's power. -/
def backoffBase (s : State) : Nat := 2 ^ fieldNat s.aon.pwrCfg 11 9

/-- A sleep entry is aborted: agreed domains resume, the refusal is counted and logged once until an entry of the group succeeds,
and the back-off doubles up to 64 ms. -/
def refuseEntry (g dom reason : Nat) (s : State) : State :=
  let s := (groupDoms s g).foldl (fun t n => modDom n (fun d => if d.st = .prepared then { d with st := .awake } else d) t) s
  let d := domOf s dom
  let x := grpOf s g
  let s := setDom dom { d with refusals := d.refusals + 1, refLogged := true } s
  let s := if d.refLogged then s else logIt { cause := 0x69, src := epAon, args := [g, dom, reason, d.refusals + 1] } s
  evMgt 0 13 (setGrp g { x with phase := .awake, running := true,
                                backoff := if x.backoff = 0 then backoffBase s else min 64 (2 * x.backoff) } s)

/-! ## The boot directory (R374, R375) -/

def dirSeq (d : BitVec 512) : Nat := fieldNat d 63 32
def dirPrefersB (d : BitVec 512) : Bool := fieldNat d 71 64 = 1
def dirTrial (d : BitVec 512) : Bool := fieldNat d 79 72 = 1
def dirUsed (d : BitVec 512) : Bool := fieldNat d 391 384 = 0
/-- A boot directory copy is valid when MAGIC and CRC match. -/
def dirValid (d : BitVec 512) : Bool := fieldNat d 31 0 = 0x52444248 && crc64 (bytesOf d 40) = d.extractLsb' 320 64

/-- The directory copy in use: false names copy 0. Copy 0 wins a tie. -/
def dirInUse (s : State) : Option Bool :=
  match dirValid s.nor.dir0, dirValid s.nor.dir1 with
  | false, false => none
  | true, false => some false
  | false, true => some true
  | true, true => some (dirSeq s.nor.dir0 < dirSeq s.nor.dir1)

def dirCopy (s : State) (one : Bool) : BitVec 512 := if one then s.nor.dir1 else s.nor.dir0
def setDirCopy (one : Bool) (d : BitVec 512) (s : State) : State := if one then { s with nor.dir1 := d } else { s with nor.dir0 := d }

/-- A directory that names a copy with TRIAL = 0x00, with the other bytes left erased. -/
def mkDir (seq : Nat) (copyB : Bool) : BitVec 512 :=
  let d : BitVec 512 := BitVec.ofNat 512 0x52444248 ||| place 512 32 (BitVec.ofNat 32 seq) ||| place 512 64 (bit1 copyB)
  d ||| place 512 320 (crc64 (bytesOf d 40)) ||| place 512 384 (BitVec.allOnes 128)

/-- BOOT_DIRECTORY_CONFIRM (R375): the first entry to Service after a trial boot, or after a boot from the copy that was not tried
first, writes a directory that names the running copy, into the copy that is not in use. -/
def confirmBoot (s : State) : State :=
  let named : Bool := (dirInUse s).any (fun one =>
    let d := dirCopy s one
    !dirTrial d && (dirPrefersB d == s.aon.copyB))
  if s.aon.trial || (s.aon.fallback && !named) then
    let (into, seq) := match dirInUse s with
      | some one => (!one, dirSeq (dirCopy s one) + 1)
      | none => (false, 1)
    { setDirCopy into (mkDir seq s.aon.copyB) s with aon.trial := false }
  else s

/-! ## Loading a configuration (R377, R378) -/

def norCopy (s : State) (copyB : Bool) : NorCopy := if copyB then s.nor.b else s.nor.a
def setNorCopy (copyB : Bool) (c : NorCopy) (s : State) : State := if copyB then { s with nor.b := c } else { s with nor.a := c }

/-- The effective digest after a patch (R377): both digests as three 16-byte words each. -/
def chainDigest (eff d : BitVec 384) : BitVec 384 :=
  Config.sha384 (([eff, d] : List (BitVec 384)).flatMap (fun x => [x.extractLsb' 0 128, x.extractLsb' 128 128, x.extractLsb' 256 128]))

/-- R372 and the chain of R379 on a patch: CODE and DETAIL of Table 13.11, (0, 0) when it is accepted. `signed` is false at the reload
of R377, where digests take the place of the signatures. -/
def patchFault (s : State) (isSigned maint : Bool) (im : List (BitVec 128)) : Nat × Nat :=
  let step := if isSigned then verifySteps s 2 im else if headerOk 2 im then 0 else 1
  if step = 1 then (0x02, 1)
  else if step = 6 then (if svnOk s 2 im then (0x05, 0) else (0x04, 0))
  else if step ≠ 0 then (0x03, 0)
  else if imgBase im ≠ s.aon.effDigest then (0x06, 0)
  else if imgPatchSeq im ≠ s.aon.patchSeq.toNat + 1 then (0x07, 0)
  else match notLive (nextCfg s) maint im, patchCfg (nextCfg s) im with
    | some ty, _ => (0x08, ty)
    | none, none => (0x09, 0x01)
    | none, some c => match checkCfg { s with cfg := c } with
      | 0 => (0, 0)
      | k => (0x09, k)

/-- A patch that is accepted replaces the configuration, the effective digest and PATCH_SEQ. -/
def takePatch (im : List (BitVec 128)) (s : State) : State :=
  { s with cfg := (patchCfg (nextCfg s) im).getD s.cfg, aon.effDigest := chainDigest s.aon.effDigest (imgDigest im),
           aon.patchSeq := BitVec.ofNat 8 (imgPatchSeq im) }

/-- PATCH_LOG_LOAD (R378): committed entries in order, up to the first that fails. -/
def loadLog (isSigned copyB : Bool) : Nat → List PatchEnt → State → State
  | _, [], s => s
  | i, e :: l, s =>
    if !e.commit then loadLog isSigned copyB (i + 1) l s
    else if patchFault s isSigned true e.image = (0, 0) then loadLog isSigned copyB (i + 1) l (takePatch e.image s)
    else logIt { cause := 0x65, args := [if copyB then 1 else 0, i] } { s with aon.logBroken := true }

/-- The digest of the CALIBRATION section that CAL_DIGEST is compared with (R368). -/
def calDigest (s : State) : BitVec 64 := (Config.sha384 (sectionRecs s 0x0A)).extractLsb' 0 64

/-- The ROW_MASK that the harness gives an address bit of a channel (R134, Table 13.4). -/
def harnessMask (s : State) (c i : Nat) : BitVec 17 :=
  match (recsOf s 2 0x21).find? (fun r => fieldNat r 11 8 = c && fieldNat r 14 12 = i) with
  | some r => r.extractLsb' 15 17
  | none => BitVec.ofNat 17 (([0, 0x49, 0x92, 0x124, 0x600, 0x1800] : List Nat).getD i 0)

/-- What the device takes from a configuration when it loads it in Harnessing: the address maps, the route tables of the epoch
stamped, and the calibration records, which a changed CALIBRATION section invalidates (R134, R326, R368). -/
def loadConfig (s : State) : State :=
  let s := (List.range (numChans s)).foldl (fun t c =>
    modChan c (fun ch => { ch with xmap := (List.range 6).foldl (fun m i => sset 0 m i (harnessMask s c i)) [] }) t) s
  let rs := (sectionRecs s 5).take (posLen s.fuse.variantH 5)
  let base := if s.noc.epoch then 288 else 0
  let s := { s with noc.routes := rs.zipIdx.map (fun p => (base + p.2, p.1)), noc.ackPending := false, noc.retiring := none,
                    tier.scanThr := min 255 (param s 0x02 5) }
  if s.nor.calDigest = calDigest s then s
  else { s with nor.cal := [], nor.calBody := [], nor.calDigest := calDigest s }

/-- Try a copy (R375): its firmware is verified and loaded, the KWK is derived (R94), and the firmware verifies the harness image and
applies the patch log. A failure names the image kind and the failing step or check. -/
def tryCopy (copyB : Bool) (s : State) : Option (Nat × Nat) × State :=
  let c := norCopy s copyB
  match verifySteps s 3 c.fw with
  | 0 =>
    let s := { s with sec.kwk := some (Config.derive s.fuse.devSecret []), aon.fwDigest := imgDigest c.fw, aon.fwSvn := imgSvn c.fw,
                      mgt.fwRuns := (List.range (numDies s)).foldl (fun m k => sset false m k true) [] }
    (match verifySteps s 1 c.hz with
     | 0 => match imageCfg s.fuse.variantH c.hz with
       | none => (some (1, 0x01), s)
       | some cfg => match checkCfg { s with cfg := cfg } with
         | 0 =>
           let s := { s with cfg := cfg, aon.hzDigest := imgDigest c.hz, aon.hzSvn := imgSvn c.hz, aon.hzOwner := ownerOf c.hz,
                             aon.effDigest := imgDigest c.hz, aon.patchSeq := 0, aon.logBroken := false, aon.loaded := true,
                             aon.copyB := copyB, aon.fmtMajor := BitVec.ofNat 4 (imgMajor c.hz), aon.fmtMinor := BitVec.ofNat 4 (imgMinor c.hz) }
           (none, loadConfig (loadLog true copyB 0 c.log s))
         | k => (some (1, k), s)
     | n => (some (1, n), s))
  | n => (some (3, n), s)

/-- Try a copy and log BOOT_COPY_FAIL when it fails. -/
def tryLogged (copyB : Bool) (s : State) : Option (Nat × Nat) × State :=
  match tryCopy copyB s with
  | (none, s) => (none, s)
  | (some (kind, k), s) => (some (kind, k), logIt { cause := 0x60, args := [if copyB then 1 else 0, kind, k] } s)

/-- Choose and load a copy (R375): false when both fail. -/
def bootCopies (s : State) : Bool × State :=
  let d := (dirInUse s).map (dirCopy s)
  let pref : Bool := d.any dirPrefersB
  let trial : Bool := d.any dirTrial
  let used : Bool := d.any dirUsed
  let (first, isTrial, s) :=
    if trial && used then (!pref, false, logIt { cause := 0x62, args := [if pref then 1 else 0] } s)
    else if trial then
      (pref, true, match dirInUse s with
        | some one => setDirCopy one (setField (dirCopy s one) 384 (0 : BitVec 8)) s
        | none => s)
    else (pref, false, s)
  match tryLogged first s with
  | (none, s) => (true, { s with aon.trial := isTrial, aon.fallback := false, nor.triedOther := false })
  | (some (_, a), s) => match tryLogged (!first) { s with nor.triedOther := true } with
    | (none, s) => (true, { s with aon.trial := false, aon.fallback := true })
    | (some (_, b), s) => (false, logIt { cause := 0x61, args := if first then [b, a] else [a, b] } s)

/-- BOOT_COPY_TRY (R375): the first copy, then the other; when both fail the device is in Stall (Table 14.2, 0x05). -/
def execBootCopyTry (s : State) : Out :=
  if s.aon.mode ≠ .harnessing || s.aon.loaded then .next s
  else match bootCopies s with
    | (true, s) => .next (settle (refreshPA s))
    | (false, s) => .next (toStall 0x05 s)

/-! ## Writes of the SPI NOR (R373, R376) -/

/-- SPI_NOR_WRITE (R376): the regions of the running copy, the patch logs and the calibration records are refused; a write of a harness
region first erases that copy's patch log. -/
def execSpiNorWrite (region : NorRegion) (words : List (BitVec 128)) (s : State) : Out :=
  let running (c : Bool) : Bool := s.aon.loaded && (c == s.aon.copyB)
  let line : BitVec 512 := (List.range 4).foldl (fun x i => x ||| place 512 (128 * i) (words.getD i (BitVec.allOnes 128))) 0
  match region with
  | .dir0 => .next { s with nor.dir0 := line }
  | .dir1 => .next { s with nor.dir1 := line }
  | .firmware c => .next (if running c then s else setNorCopy c { norCopy s c with fw := words } s)
  | .harness c => .next (if running c then s else setNorCopy c { norCopy s c with hz := words, log := [] } s)
  | .patchLog _ => .next s
  | .calibration => .next s
  | .trims => .next { s with
      nor.trims := (List.range (numChans s)).foldl (fun m c => sset 0 m c ((words.getD c 0).extractLsb' 0 64)) [],
      nor.calDigest := (words.getD 16 0).extractLsb' 0 64 }

/-! ## The reload at Recovery (R377) -/

/-- The configuration that the NOR copy in AON_HARNESS_STAT holds, with its effective digest. -/
def reloaded (s : State) : State :=
  let c := norCopy s s.aon.copyB
  let t := { s with cfg := (imageCfg s.fuse.variantH c.hz).getD [], aon.effDigest := imgDigest c.hz, aon.patchSeq := 0 }
  loadLog false s.aon.copyB 0 c.log t

/-- The measurement that differs from AON: 1 firmware, 2 harness image, 3 effective digest. -/
def mismatch (s : State) : Option Nat :=
  let c := norCopy s s.aon.copyB
  if imgDigest c.fw ≠ s.aon.fwDigest then some 1
  else if imgDigest c.hz ≠ s.aon.hzDigest then some 2
  else if (reloaded s).aon.effDigest ≠ s.aon.effDigest then some 3
  else none

/-- Recovery with DRAM retained reloads the images. On a mismatch DRAM is released and recovery goes on as without it, with the copy
chosen again; with no copy left the device is in Stall. -/
def reload (s : State) : State :=
  match mismatch s with
  | none => { s with cfg := (reloaded s).cfg, mgt.fwRuns := (List.range (numDies s)).foldl (fun m k => sset false m k true) [] }
  | some k =>
    let s := dramLost (logIt { cause := 0x66, args := [k] } s)
    let s := { s with dram.ch := smapv {} (fun (c : Channel) => ({ marks := c.marks, scrubPos := c.scrubPos, pop := c.pop } : Channel)) s.dram.ch }
    match bootCopies s with
    | (true, s) => s
    | (false, s) => toStall 0x05 s

/-! ## Patches (R379 to R382) -/

/-- MGT_PATCH_STAT. -/
def mkPatchStat (detail code : Nat) (wait busy : Bool) : BitVec 32 :=
  place 32 24 (BitVec.ofNat 8 detail) ||| place 32 8 (BitVec.ofNat 8 code) ||| place 32 1 (bit1 wait) ||| place 32 0 (bit1 busy)
def patchBusy (s : State) : Bool := s.mgt.patchStat.getLsbD 0

/-- A patch is rejected (R379): nothing has changed. -/
def rejectPatch (code detail seq : Nat) (s : State) : State :=
  evMgt 0 7 (logIt { cause := 0x64, args := [code, detail, seq] }
    { s with mgt.patchStat := mkPatchStat detail code false false, mgt.holdGallop := false })

/-- The bytes that an entry takes in a patch log (R378). -/
def entrySize (e : PatchEnt) : Nat := 64 + ceilDiv (16 * e.image.length) 64 * 64

/-- The log of the running copy cannot hold another entry. -/
def logFull (s : State) (im : List (BitVec 128)) : Bool :=
  let l := (norCopy s s.aon.copyB).log
  255 ≤ l.length || 4 * 2 ^ 20 < ((l ++ [({ image := im } : PatchEnt)]).map entrySize).foldl (· + ·) 0

/-- Every domain is woken and entries in prepare are aborted, before a POWER_GROUPS change (R381). -/
def wakeAll (s : State) : State :=
  let s := (List.range 16).foldl (fun t g =>
    let t := if (grpOf t g).phase = .prepare then refuseEntry g (((groupDoms t g).head?).getD 0) 4 t else t
    wakeGroup g t) { s with mgt.holdGallop := true, aon.gait := 0 }
  (List.range 152).foldl (fun t n => modDom n (fun d => if d.st = .entering then { d with wakeEvent := true } else d) t) s

/-- The key region copies of an SSD are rebuilt from the table in DRAM (R200, R215). -/
def rebuildKeys (i : Nat) (s : State) : State :=
  (List.range 16384).foldl (fun t b => ([0, 1] : List Nat).foldl (fun t c => if keySsd t b c = i then writeKeyCopy b c t else t) t) s

/-- What a replaced SSD holds (R215): its share of the map is written from the mirror, and its images, records and segments are gone. -/
def replacedFlash (i n : Nat) (s : State) : State :=
  let kept := s.led.flashMap.filter (fun (e : Nat × BitVec 128) => e.1 / 256 % n ≠ i)
  let fresh := s.led.mirror.filter (fun (e : Nat × BitVec 128) => e.1 / 256 % n = i)
  { s with
    led.flashMap := fresh.foldl (fun f (e : Nat × BitVec 128) => sset 0 f e.1 e.2) kept,
    led.flash := s.led.flash.filter (fun (e : Nat × BitVec 512) => ledSsd (e.1 / 64) ≠ i),
    led.logbook := s.led.logbook.filter (fun (e : Nat × BitVec 512) => e.1 ≠ i),
    led.segs := s.led.segs.filter (fun (e : Nat × Option Segment) => e.2.any (fun (g : Segment) => g.ssd.toNat ≠ i)) }

/-- The pages whose image was on a replaced SSD (R215): a Cold one is poisoned and logged, a resident one is dirty again. -/
def lostImages (i : Nat) (s : State) : State :=
  let pages := (s.led.mirror.filter (fun (e : Nat × BitVec 128) => dStateRaw e.2 = some PageSt.cold && ledSsd (dLedAddr e.2) = i)).map Prod.fst
  pages.foldl (fun t p =>
    let d := descOf t p
    if dState d = .cold then logIt { cause := 0x79, kind := 4, addr := p } (setDesc p (mkMasked d .poisoned none (BitVec.allOnes 64)) t)
    else if residentPage d && !dDirty d then joinDirty p none (setDesc p (dFlag d 24 true) t)
    else t) s

/-- SSD_REPLACEMENT (R215): an SSD record that a patch replaces. The manifest takes the new identity, the SSD's key copies, hot list and map
blocks are rebuilt, and pages with an image on the old SSD become DIRTY or Poisoned. -/
def replaceSsd (i : Nat) (s : State) : State :=
  match s.led.manifest with
  | none => s
  | some m =>
    let s := modSsd i (fun d =>
      let d := { d with failed := false, resets := [], ready := d.present && !d.rejected, manifest := none, copyB := none }
      if d.ready then makeQueues s i d else d) s
    let s := writeManifest { m with idents := sset 0 m.idents i (ssdOf s i).nguid } s
    let n := ledgerN s
    let share (total : Nat) : Nat := ((List.range total).filter (fun b => b % n = i)).length
    let s := nvmeWrite i (share (ceilDiv (numPages s) 256) + share (ceilDiv (numPages s) 16384)) (ledgerClass s) s
    let s := writeHotList (· = i) (rebuildKeys i s)
    lostImages i (replacedFlash i n s)

/-- What a patch puts into effect (R237, R332, R381): class records wait for the next budget window, route records for the new epoch, the
window length for the next window, parameters of Table 9.11 for the port's next training from DETECT. -/
def applyPatch (im : List (BitVec 128)) (s : State) : State :=
  let old := s
  let s := takePatch im s
  let had (ty : Nat) : Bool := (patchSecs im).any (fun c => c.ty = ty)
  let pos := (sectionRecs s 4).take 256
  let s := if pos.isEmpty then s
    else
      let was := (List.range 256).map (classRec old)
      { s with cfg := sset [] s.cfg 4 (was ++ (sectionRecs s 4).drop 256),
               reins.newRec := (pos.zipIdx).foldl (fun m p => if was.getD p.2 0 = p.1 then m else sset none m p.2 (some p.1)) [] }
  let s := if param s 0x08 0 = param old 0x08 0 then s else { s with reins.window := some (s.reins.window.getD (param old 0x08 0)) }
  let s := (List.range (numPorts s)).foldl (fun t p => (List.range 13).foldl (fun t i =>
    if paramAt t 0x09 i p = paramAt old 0x09 i p then t
    else modPort p (fun q => if (sget none q.latch i).isSome then q else { q with latch := sset none q.latch i (some (paramAt old 0x09 i p)) }) t) t) s
  let s := if !had 5 || effSection old 5 = effSection s 5 then s
    else
      let base := if s.noc.epoch then 0 else 288
      let rs := ((sectionRecs s 5).take (posLen s.fuse.variantH 5)).zipIdx.map (fun p => (base + p.2, p.1))
      { s with noc.routes := s.noc.routes.filter (fun e => e.1 / 288 ≠ base / 288) ++ rs, noc.ackPending := true }
  let changed := (ssdIndices s).filter (fun i => (recsOf s 9 0x38).find? (fun r => fieldNat r 12 8 = i) ≠ (recsOf old 9 0x38).find? (fun r => fieldNat r 12 8 = i))
  let swapped := if had 9 && s.aon.mode = .maintenance then
      changed ++ ((ssdIndices s).filter (fun i => (ssdOf s i).failed && !changed.contains i &&
        (patchSecs im).any (fun c => c.ty = 9 && (secRecs im c).any (fun r => fieldNat r 7 0 = 0x38 && fieldNat r 12 8 = i))))
    else []
  swapped.foldl (fun t i => replaceSsd i t) s

/-- Steps 4 to 6 of R379. -/
def commitPatch (im : List (BitVec 128)) (s : State) : State :=
  let c := norCopy s s.aon.copyB
  let e : PatchEnt := { image := im, seq := BitVec.ofNat 32 (imgPatchSeq im), commit := true }
  let s := applyPatch im (setNorCopy s.aon.copyB { c with log := c.log ++ [e] } s)
  let types := ((patchSecs im).map (fun c => 2 ^ c.ty)).foldl (· + ·) 0
  let s := evMgt 0 6 (logIt { cause := 0x63, args := [imgPatchSeq im, types] }
    { s with mgt.patchStat := mkPatchStat 0 1 false false, mgt.holdGallop := false })
  settle (refreshPA (packQueued s))

/-- The words of lines that were read; none when one gave an error. -/
def wordsOf (l : List Got) : Option (List (BitVec 128)) :=
  (l.mapM (fun (g : Got) => match g with | .bytes x => some (lineSlots x) | _ => none)).map List.flatten

/-- The image has been read: steps 1 and 3 of R379, then the commit. A route patch waits for the previous bank; a POWER_GROUPS patch for
every domain to be awake. -/
def judgePatch (im : List (BitVec 128)) (s : State) : State :=
  let names (ty : Nat) : Bool := headerOk 2 im && (imgSecs im).any (fun c => c.ty = ty)
  if names 5 && (s.noc.retiring.isSome || s.noc.ackPending) then { s with mgt.patchStat := mkPatchStat 0 0 true true }
  else match patchFault s true (s.aon.mode = .maintenance) im with
    | (0, _) =>
      if logFull s im then rejectPatch 0x0A 0 (imgPatchSeq im) s
      else if names 6 && !(List.range 152).all (fun n => !domExists s n || (domOf s n).st = .awake) then
        (if s.mgt.holdGallop then s else wakeAll s)
      else commitPatch im s
    | (code, detail) => rejectPatch code detail (imgPatchSeq im) s

/-- A patch in progress goes on (R379): the image is read as RD_CUR in MGMT_CLASS; lines that come later leave it busy (log entry 31). -/
def runPatch (s : State) : State :=
  let a := s.mgt.patchBase.toNat % 2 ^ 45 / 64 * 64
  let cls := BitVec.ofNat 8 (designated s 0)
  let dl := BitVec.ofNat 12 (fieldNat (classRec s (designated s 0)) 66 55)
  if !patchBusy s || (s.mgt.patchStat.getLsbD 1 && (s.noc.retiring.isSome || s.noc.ackPending)) then s
  else if capacity s < a + 128 then rejectPatch 0x0D 0 0 s
  else match readLines cls dl (linesOf a 128) s with
    | (none, s) => s
    | (some l, s) => match wordsOf l with
      | none => rejectPatch 0x0D 0 0 s
      | some h =>
        let n := imgSigned h + imgSigLen h
        if 2 ^ 20 < n || fieldNat (imgHeader h) 31 0 ≠ 0x534E5248 then rejectPatch 0x02 1 (imgPatchSeq h) s
        else if capacity s < a + n then rejectPatch 0x0D 0 (imgPatchSeq h) s
        else match readLines cls dl (linesOf a (ceilDiv (max n 128) 64 * 64)) s with
          | (none, s) => s
          | (some l, s) => match wordsOf l with
            | none => rejectPatch 0x0D 0 (imgPatchSeq h) s
            | some im => judgePatch (im.take (ceilDiv n 16)) s

/-- A write of GO (R379): accepted in Service and Maintenance; while a patch is processed it completes with ERR_REG. -/
def startPatch (s : State) : Bool × State :=
  let m := s.aon.mode
  if patchBusy s then (false, s)
  else if m = .service || m = .maintenance then (true, settle (runPatch { s with mgt.patchStat := mkPatchStat 0 0 false true }))
  else (true, rejectPatch 0x0C 0 0 s)

/-- GO (R379). -/
def execGo (path : Nat) (s : State) : Out :=
  let m := s.aon.mode
  if m = .stall || m = .watch || !sget false s.mgt.fwRuns 0 then .next (regDone path none false s)
  else
    let (ok, s) := startPatch s
    .next (regDone path (some 0) ok s)

end Sys2Proof.Machine
end

