-- ==== Sys2Proof/Machine/Modes.lean ====
section
/-! DEFINITION. Operating modes: the reset inputs, the entries to Recovery, Maintenance and Service, Drain, gaits, and the two-phase sleep
entry (R377, R387 to R403, R482). -/

namespace Sys2Proof.Machine

open Sys2Proof

/-! ## Access paths (R460) -/

/-- The management complex that serves an access over a path to AON: none over I3C (R460). -/
def aonCpx (path : Nat) : Option Nat := if path = 0 then none else if path ≤ 4 then some ((path - 1) / 2) else some (path - 5)

/-- A path can carry a write of AON_MODE_CTL (R314, R393, R460): I3C, a port that carries traffic with MGMT_ENABLE = 1, or firmware that
runs. -/
def pathOk (s : State) (path : Nat) : Bool :=
  path = 0 || (1 ≤ path && path ≤ 4 && portUp s (path - 1) && mgmtEnable s (path - 1)) || (5 ≤ path && sget false s.mgt.fwRuns (path - 5))

/-! ## Reset inputs (R388, R482) -/

/-- RESET_N asserted or PWROK deasserted: under 100 ns it is filtered out, from 1 µs it is transition 0x01. Between them the spec states no
effect. The device's return is a cold one (R17). -/
def resetPulse (ns : Nat) (f : State → State) (s : State) : Out :=
  if ns < 100 then .next s else if ns < 1000 then .fault .undefinedPulse else .next (f (deviceReset true s))

/-- RESET_N_ASSERT (R388). -/
def execResetNAssert (ns : Nat) (s : State) : Out :=
  if s.aon.resetLow then .next s else resetPulse ns (fun t => { t with aon.resetLow := true }) s

/-- PWROK_DEASSERT (R482). -/
def execPwrokDeassert (ns : Nat) (s : State) : Out :=
  if !s.aon.pwrok then .next s else resetPulse ns (fun t => { t with aon.pwrok := false }) s

/-- RESET_N_RELEASE (R388): with PWROK asserted, Stall is left for Harnessing. -/
def execResetNRelease (ns : Nat) (s : State) : Out :=
  if ns < 100 || !s.aon.resetLow then .next s
  else
    let s := { s with aon.resetLow := false }
    .next (if mayHarness s then enterHarnessing 0x02 s else s)

/-- PWROK_ASSERT (R388): with RESET_N released, Stall is left for Harnessing. -/
def execPwrokAssert (ns : Nat) (s : State) : Out :=
  if ns < 100 || s.aon.pwrok then .next s
  else
    let s := { s with aon.pwrok := true }
    .next (if mayHarness s then enterHarnessing 0x02 s else s)

/-- AON_RESTART (R388, R471): 10 ms after a DEVICE_COLD or DEVICE_WARM request. -/
def execAonRestart (s : State) : Out :=
  .next (if s.aon.restart && mayHarness s then enterHarnessing 0x12 s else s)

/-! ## Entries to Recovery (R222, R377, R406) -/

/-- Recovery after Holdup or Watch: DRAM has been retained (R222, R223), and the images are reloaded and compared (Table 7.11). -/
def recover (code : BitVec 8) (s : State) : State := settle (reload { enterRecovery code s with aon.dramRetained := true })

/-- HOLD_DONE_WRITTEN (R220, R222): with a feed back the device enters Recovery, and the time to service runs from here; otherwise DRAM enters self-refresh, the links go
down and the ledger bays are warned. -/
def execHoldDoneWritten (s : State) : Out :=
  if s.aon.mode ≠ .holdup || s.led.hStep ≠ 5 then .next s
  else if s.led.feedBack then .next (recover 0x0D { s with aon.returnTide := s.time.tide })
  else
    let s := (List.range (numChans s)).foldl (fun t c => enterSelfRefresh c t) s
    let s := (List.range (numPorts s)).foldl (fun t p =>
      if (portOf t p).st = .off && !(portOf t p).held then t else endSession p (sendLinkOff p 0 t)) { s with led.hStep := 6 }
    .next (warnBays true s)

/-- FEED_RETURN_IN_HOLDUP (R222): before step 6 the flush ends first; after it the device enters Recovery at once. -/
def execFeedReturnInHoldup (s : State) : Out :=
  if s.aon.mode ≠ .holdup || !anyFeed s then .next s
  else if s.led.hStep = 6 then .next (recover 0x0D { s with aon.returnTide := s.time.tide })
  else .next { s with led.feedBack := true, aon.returnTide := s.time.tide }

/-- WATCH_EXIT (R223, R406): a qualified feed wakes AON and the device enters Recovery. When a SLOT channel has faulted, DRAM is
released, and the feed leads to a cold start. -/
def execWatchExit (s : State) : Out :=
  if s.aon.mode ≠ .watch || !anyFeed s then .next s
  else match slotFaulted s with
    | some k => .next (railsUp (releaseWatch 2 (aonEStore s) k s))
    | none => .next (recover 0x0F s)

/-! ## The end of Harnessing (R388, R384) -/

/-- The images are loaded and every channel of the channel sets has trained or is offline. -/
def trained (s : State) : Bool :=
  s.aon.loaded && ((chanSets s).flatMap ChanSet.chans).all (fun c => (chan s c).trained || (chan s c).offline)

/-- HARNESSING_COMPLETE (R384, R388): a population that differs from the image, an inconsistent ledger or MAINT_NEXT leads to Maintenance,
with a new counter tree (R110), and a ledger that is chosen leads to Recovery. -/
def execHarnessingComplete (s : State) : Out :=
  if s.aon.mode ≠ .harnessing || !trained s || !(s.led.chosen || s.led.inconsistent ≠ 0) then .next s
  else
    let s := { s with pin.drst := [], led.satSsd := (List.range 2).foldl (fun m p =>
      sset 0 m p (((ssdIndices s).filter (fun i => ssdUp s i && peOf s i = p)).length)) [] }
    let bad := (populationFault s).orElse (fun _ => if check06 s then none else some (0, 0, 0))
    let s := match bad with
      | some (c, e, f) => logIt { cause := 0x67, args := [c, e, f] } s
      | none => s
    if bad.isSome || s.led.inconsistent ≠ 0 || s.aon.maintNext then
      .next (settle (resetDirectory (changeMode 0x04 .maintenance (createTree { s with aon.maintNext := false }))))
    else .next (settle (enterRecovery 0x03 s))

/-! ## Gaits (R397 to R399) -/

/-- Exit time of a gait in ns (Table 14.7). -/
def gaitExit (g : Nat) : Nat := ([0, 2000, 40000, 600000] : List Nat).getD g 600000

/-- What a port contributes to T: the tolerance in ns and its TOL_SRC code (R312, R399). -/
def tolOf (s : State) (p : Nat) : Option (Nat × Nat) :=
  let q := portOf s p
  let dflt := (aflParam s p 6, 4)
  if !portUp s p && !q.held then none
  else match q.latTol with
    | some v => if !q.features.getLsbD 1 then some dflt else if v.getLsbD 31 then none else some (fieldNat v 29 0, p)
    | none => some dflt

/-- T with its source; the first of equal contributions (R312). -/
def tolerance (s : State) : Nat × Nat :=
  ((List.range (numPorts s)).filterMap (tolOf s)).foldl (fun (b : Option (Nat × Nat)) x =>
    match b with
    | some y => if x.1 < y.1 then some x else b
    | none => some x) none |>.getD (param s 0x09 6, 4)

/-- The deepest gait that GAIT_MAX, T and the mode permit (R399); a POWER_GROUPS change holds Gallop (R381). -/
def gaitGoal (s : State) : Nat :=
  if s.aon.mode ≠ .service || s.mgt.holdGallop then 0
  else (([3, 2, 1] : List Nat).find? (fun g => g ≤ s.aon.gaitMax.toNat && gaitExit g ≤ (tolerance s).1)).getD 0

/-- Wake delays of a domain in ns: power-on with restore, and stagger (Table 14.6). -/
def wakeOf (n : Nat) : Nat × Nat := if n < 96 then (700, 50) else if n < 128 then (61000, 250) else (800, 100)

/-- The longest wake of domains powered one per stagger interval; a channel controller and its PHY are one step (R395, R396). -/
def wakeTime (l : List Nat) (off : Nat) : List Nat → Nat
  | [] => 0
  | n :: r =>
    if 112 ≤ n && n < 128 && l.contains (n - 16) then wakeTime l off r
    else max (off + (wakeOf n).1) (wakeTime l (off + (wakeOf n).2) r)

/-- A gait permits a group to sleep (R397). -/
def gaitPermits (s : State) (g grp : Nat) : Bool :=
  let l := groupDoms s grp
  grp < 15 && !l.isEmpty && wakeTime l 0 l ≤ gaitExit g &&
  l.all (fun n => if n < 96 then 1 ≤ g else if n < 128 then g = 3 else n < 144 && 2 ≤ g)

/-- Groups that the gait does not permit are woken; an entry that has only been prepared is given up. -/
def wakeUnpermitted (s : State) : State :=
  (List.range 15).foldl (fun t g =>
    if gaitPermits t t.aon.gait.toNat g then t
    else match (grpOf t g).phase with
      | .asleep => wakeGroup g t
      | .prepare => (groupDoms t g).foldl (fun u n => modDom n (fun d => if d.st = .prepared then { d with st := .awake } else d) u)
          (modGrp g (fun x => { x with phase := .awake }) t)
      | .commit => (groupDoms t g).foldl (fun u n => modDom n (fun d => { d with wakeEvent := true }) u) t
      | .awake => t) s

/-- The gait changes: the back-off of every group returns to its base (R402). -/
def setGait (g : Nat) (s : State) : State :=
  let s := { s with aon.gait := BitVec.ofNat 2 g, noc.grp := smapv {} (fun (x : Group) => { x with backoff := 0 }) s.noc.grp }
  coreSupply (wakeUnpermitted s)

/-- TOL_SRC follows T in Service. -/
def noteTol (s : State) : State :=
  if s.aon.mode = .service then { s with aon.tolSrc := BitVec.ofNat 3 (tolerance s).2 } else s

/-- T or GAIT_MAX may have fallen: a shallower gait is taken at once (R399). -/
def gaitFall (s : State) : State :=
  let s := noteTol s
  if s.aon.mode = .service && gaitGoal s < s.aon.gait.toNat then setGait (gaitGoal s) s else s

/-- GAIT_CHANGE (R399). -/
def execGaitChange (s : State) : Out := .next (gaitFall s)

/-- GAIT_DEEPEN (R399): the deeper gait has qualified for 1 ms. -/
def execGaitDeepen (s : State) : Out :=
  let s := noteTol s
  .next (if s.aon.mode = .service && s.aon.gait.toNat < gaitGoal s then setGait (gaitGoal s) s else s)

/-! ## Two-phase sleep entry (R400 to R403) -/

/-- A domain holds work or a reservation that it granted (R400). -/
def domBusy (s : State) (n : Nat) : Bool :=
  (domOf s n).inflight ≠ 0 || !(domOf s n).heldRsv.isEmpty ||
  (if n < 96 then lineLoad s n ≠ 0 || packLoad s n ≠ 0
   else if n < 128 then
     let c := chan s ((n - 96) % 16)
     !c.readQ.isEmpty || !c.writeQ.isEmpty
   else if n < 144 then s.quay.txns.any (fun t => bankOf s (BitVec.ofNat 39 t.line) = n - 128)
   else false)

/-- A domain's bar (R401): a refresh postponed to its limit or a pending mitigation. -/
def domBar (s : State) (n : Nat) : Bool :=
  if 96 ≤ n && n < 112 then
    let c := chan s (n - 96)
    !c.mitig.isEmpty || c.owed.any (fun e => 4 ≤ e.2)
  else false

/-- GROUP_IDLE_EXPIRY (R400, R401): PREPARE is sent to the domains of an idle group that the gait permits, and each that can agrees. -/
def execGroupIdleExpiry (grp : Nat) (s : State) : Out :=
  let x := grpOf s grp
  let l := groupDoms s grp
  if s.aon.mode ≠ .service || s.mgt.holdGallop || !gaitPermits s s.aon.gait.toNat grp || x.phase ≠ .awake || x.running ||
      !l.all (fun n => (domOf s n).st = .awake && !domBusy s n) then .next s
  else
    let s := setGrp grp { x with phase := .prepare } s
    .next (l.foldl (fun t n => if domBar t n then t else modDom n (fun d => { d with st := .prepared }) t) s)

/-- R330 step 1: RSV_REVOKE goes to every source that holds unused reservations of a domain. -/
def revokeAll (n : Nat) (s : State) : State :=
  (s.noc.unused.filter (fun e => epDomain (e.1 / 16 % 1024) = some n)).foldl (fun t e =>
    let q : RsvMsg := { src := e.1 / 2 ^ 14, dst := e.1 / 16 % 1024, res := BitVec.ofNat 4 e.1, count := e.2 }
    (sendRsv 0x82 q.dst q.src q t).2) s

/-- PREPARE_ALL_AGREED (R330, R403): COMMIT is sent, and every domain stops granting. -/
def execPrepareAllAgreed (grp : Nat) (s : State) : Out :=
  let l := groupDoms s grp
  if (grpOf s grp).phase ≠ .prepare || !l.all (fun n => (domOf s n).st = .prepared && !domBusy s n) then .next s
  else
    let s := evMgt 0 12 (modGrp grp (fun x => { x with phase := .commit }) s)
    .next (l.foldl (fun t n => revokeAll n (modDom n (fun d => { d with st := .entering }) t)) s)

/-- REFUSE (R402): a domain refuses, or withdraws before COMMIT. -/
def execRefuse (dom : Nat) (reason : BitVec 4) (s : State) : Out :=
  let g := domGroup s dom
  .next (if (grpOf s g).phase = .prepare && 1 ≤ reason.toNat && reason.toNat ≤ 4 then refuseEntry g dom reason.toNat s else s)

/-- PREPARE_ANSWER_TIMEOUT (R402): no answer at 2 µs. -/
def execPrepareAnswerTimeout (dom : Nat) (s : State) : Out :=
  let g := domGroup s dom
  .next (if (grpOf s g).phase = .prepare then refuseEntry g dom 5 s else s)

/-- BACKOFF_EXPIRY (R402): entry may be tried again. -/
def execBackoffExpiry (grp : Nat) (s : State) : Out := .next (modGrp grp (fun x => { x with running := false }) s)

/-! ## Service (R388, R389) -/

/-- Recovery is complete: the ledger has been replayed since DRAM lost its contents (Table 7.12 step 10), and with DRAM retained every
channel is out of self-refresh (Table 7.11 step 5). -/
def recovered (s : State) : Bool :=
  (s.led.pending || s.led.segTable) && (!s.aon.dramRetained || (List.range (numChans s)).all (fun c => !(chan s c).selfRefresh))

/-- SERVICE_ENTRY (R10, R192, R207, R375, R388): budgets apply, the ceiling starts again, held requests are released, the OPEN record is
written as soon as an SSD is ready, and the boot is confirmed. -/
def execServiceEntry (s : State) : Out :=
  if s.aon.mode ≠ .recovery || !recovered s then .next s
  else
    let ms := (s.time.tide - s.aon.returnTide).toNat / 1000000
    let s := { s with aon.rcase := if s.aon.dramRetained then 1 else 2, aon.dramRetained := true,
                      aon.resumeMs := BitVec.ofNat 20 (min ms 1048575), led.windows := 0, led.c := 0, led.powerHist := [],
                      led.bwHist := [], led.bwSsds := [], led.idleSecs := 0, led.measured := 0, led.satNs := 0, led.winBytes := 0,
                      led.openOwed := true }
    let s := noteTol (changeMode 0x06 .service s)
    let s := confirmBoot (payOpen s)
    .next (settle ((List.range (numPorts s)).foldl releasePort s))

/-! ## Drain (R391) -/

/-- A request of AON_MODE_CTL enters Drain: PA is withdrawn and every dirty page is written back. -/
def startDrain (maint : Bool) (s : State) : State :=
  let s := changeMode 0x07 .drain { s with aon.drainToMaint := maint, aon.drainClosing := false }
  settle (packQueued (queueAll s))

/-- A REQ of AON_MODE_CTL: ERR_REG where Table 14.2 does not permit it (R393). -/
def modeReq (ok : State → Bool) (f : State → State) (path : Nat) (s : State) : Out :=
  if !pathOk s path then .next s
  else if ok s then .next (regDone path (aonCpx path) true (f s))
  else .next (regDone path (aonCpx path) false s)

/-- DRAIN_TO_STALL (R391): from Service and Maintenance. -/
def execDrainToStall (path : Nat) (s : State) : Out :=
  modeReq (fun s => s.aon.mode = .service || s.aon.mode = .maintenance) (startDrain false) path s

/-- DRAIN_TO_MAINT (R391): from Service. -/
def execDrainToMaint (path : Nat) (s : State) : Out := modeReq (fun s => s.aon.mode = .service) (startDrain true) path s

/-- LEAVE_MAINT (R388): from Maintenance, with the conditions of Harnessing's end met. -/
def execLeaveMaint (path : Nat) (s : State) : Out :=
  modeReq (fun s => s.aon.mode = .maintenance && trained s && s.led.chosen) (fun s => settle (enterRecovery 0x11 s)) path s

/-- DRAIN_LIMIT (R391): the serving phase ends. -/
def execDrainLimit (s : State) : Out :=
  if s.aon.mode ≠ .drain || s.aon.drainClosing then .next s
  else .next (settle (startClosing (logIt { cause := 0x6A, src := epAon, args := [dirtyPages s] } s)))

/-- The highest committed SEQ. -/
def topSeq (s : State) : Nat :=
  s.led.segs.foldl (fun n e => if e.2.any (fun (g : Segment) => g.committed) then max n e.1 else n) 0

/-- DRAIN_CLEAN_POINT (R391 steps 3 to 5): nothing is dirty and every port is off. HOLD_DONE with ALL_DONE and DRAIN is written and the SSDs are
flushed; the device enters Stall with its rails off, or Maintenance, where the ports train again. -/
def execDrainCleanPoint (s : State) : Out :=
  if s.aon.mode ≠ .drain || !s.aon.drainClosing || dirtyPages s ≠ 0 then .next s
  else
    let maint := s.aon.drainToMaint
    let s := flushSsds (addRec 4 (holdDoneBody (BitVec.ofNat 64 (topSeq s)) true true false) s)
    let s := { s with aon.drainToMaint := false, aon.drainClosing := false }
    if maint then .next (settle ((List.range (numPorts s)).foldl newSession (changeMode 0x0B .maintenance s)))
    else .next (toStall 0x0B (allRailsOff (warnBays true (warnBays false s))))

end Sys2Proof.Machine
end

