-- ==== Sys2Proof/Machine/Logs.lean ====
section
/-! DEFINITION. The error log, the event messages, threshold samplers and the correction tables (R313, R444 to R459). -/

namespace Sys2Proof.Machine

open Sys2Proof

/-! ## The log writer (R445 to R447) -/

/-- The SOURCE values of the reporting blocks of the variant, ascending (R444, R445). -/
def logSources (s : State) : List Nat :=
  let eps := (List.range (numTiles s)).map (fun t => (epTile t).toNat) ++ (List.range (numChans s)).map (fun c => (epDch c).toNat) ++
    (List.range (numBanks s)).map (fun b => (epQb b).toNat) ++ (List.range (numPorts s)).map (fun p => (epAfl p).toNat) ++
    (List.range (numDies s)).flatMap (fun d => [(epPe d).toNat, 512 * d + epMgt0.toNat]) ++ [epAon.toNat, epPpd.toNat]
  (List.range 1024).filter (fun e => eps.contains e)

/-- SOURCE of an entry. -/
def entSource (e : BitVec 512) : Nat := fieldNat e 25 16
/-- CAUSE of an entry. -/
def entCause (e : BitVec 512) : Nat := fieldNat e 7 0
/-- CLASS of an entry. -/
def entClass (e : BitVec 512) : BitVec 2 := e.extractLsb' 8 2
/-- SEQ of an entry. -/
def entSeq (e : BitVec 512) : BitVec 24 := e.extractLsb' 40 24

/-- Place of an entry in a cycle: the distance of its SOURCE from the rotating pointer (R445). -/
def arrivalRank (srcs : List Nat) (ptr : Nat) (e : BitVec 512) : Nat :=
  ((srcs.findIdx? (fun x => entSource e ≤ x)).getD 0 + srcs.length - ptr % srcs.length) % srcs.length

/-- Insert an entry after those of no greater rank. -/
def insertEntry (rank : BitVec 512 → Nat) (e : BitVec 512) : List (BitVec 512) → List (BitVec 512)
  | [] => [e]
  | x :: r => if rank e < rank x then e :: x :: r else x :: insertEntry rank e r

/-- The order in which entries of one AON cycle are taken (R445). -/
def arrivalOrder (rank : BitVec 512 → Nat) (l : List (BitVec 512)) : List (BitVec 512) :=
  l.foldl (fun acc e => insertEntry rank e acc) []

/-- An entry of a class is stored with this number of unread entries (R445). -/
def logStored (count : Nat) (cls : BitVec 2) : Bool := count ≤ 447 || (count < 512 && 2 ≤ cls.toNat)

/-- One entry reaches the log writer (R445, R448, R451): it takes SEQ, is stored or raises LOST, advances the cause event and the class
event, goes to the extended log, and of the fatal class triggers a freeze under FREEZE_ON_FATAL. -/
def takeEntry (s : State) (e : BitVec 512) : State :=
  let x := setField e 40 s.log.seq
  let cls := entClass e
  let cause := entCause e
  let keep := logStored s.log.count cls
  let slot := (s.log.head + s.log.count) % 512
  let s := if keep then { s with log.slots := sset 0 s.log.slots slot x, log.count := s.log.count + 1 }
    else { s with log.lost := if s.log.lost = 0xFFFF then 0xFFFF else s.log.lost + 1 }
  let s := { s with
    log.seq := s.log.seq + 1, mgt.extQ := s.mgt.extQ ++ [x],
    ev.lastSlot := sset none s.ev.lastSlot cause (if keep then some (BitVec.ofNat 9 slot) else none),
    ev.lastClass := sset 0 s.ev.lastClass cause cls }
  let s := evAdd (0xFC + cls.toNat) 1 (evAdd cause 1 s)
  if cls = 3 && s.frz.onFatal then freezeNow 2 s else s

/-- LOG_ENTRY_ARRIVAL (R445): the oldest `n` entries on their way reach the log writer in one AON cycle. -/
def execLogEntryArrival (n : Nat) (s : State) : Out :=
  let now := s.log.inbox.take n
  let srcs := logSources s
  let order := arrivalOrder (arrivalRank srcs s.log.ptr) now
  let s := { s with log.inbox := s.log.inbox.drop n,
                    log.ptr := if 2 ≤ now.length then (s.log.ptr + 1) % srcs.length else s.log.ptr }
  .next (driveAlert (order.foldl takeEntry s))

/-- The 1 ms windows of R313 and R446 start anew. -/
def newWindow (s : State) : State := { s with log.rate := [], ev.sentWin := [] }

/-- LOG_RATE_WINDOW_START (R446). -/
def execLogRateWindowStart (s : State) : Out := .next (newWindow s)

/-- MGT0 cannot copy entries: Stall, Watch, and Holdup after step 5 of Table 7.10 (R447). -/
def extBlocked (s : State) : Bool :=
  s.aon.mode = .stall || s.aon.mode = .watch || (s.aon.mode = .holdup && 6 ≤ s.led.hStep)

/-- EXTENDED_LOG_COPY (R447): the oldest entry not yet copied goes into the ring of 16,384, or raises EXT_LOST. -/
def execExtendedLogCopy (s : State) : Out :=
  match s.mgt.extQ with
  | [] => .next s
  | e :: r =>
    if extBlocked s then
      .next { s with mgt.extQ := r, log.extLost := if s.log.extLost = 0xFFFF then 0xFFFF else s.log.extLost + 1 }
    else
      .next { s with mgt.extQ := r, mgt.xlog := sset 0 s.mgt.xlog s.mgt.xlogWr e, mgt.xlogWr := (s.mgt.xlogWr + 1) % 16384 }

/-- The number of unread entries up to the one that a SEQ names; none names no unread entry (R445). -/
def ackCount (s : State) (seq : BitVec 24) : Option Nat :=
  ((List.range s.log.count).find? (fun i => entSeq (sget 0 s.log.slots ((s.log.head + i) % 512)) = seq)).map (· + 1)

/-- The oldest `k` entries are freed; an empty slot reads as all zero (R444, R445). -/
def freeEntries (k : Nat) (s : State) : State :=
  { s with log.slots := (List.range k).foldl (fun m i => sdel m ((s.log.head + i) % 512)) s.log.slots,
           log.head := (s.log.head + k) % 512, log.count := s.log.count - k }

/-- A write of AON_LOG_ACK (R445). -/
def logAck (v : BitVec 32) (s : State) : Bool × State :=
  match ackCount s (v.extractLsb' 0 24) with
  | some k => (true, freeEntries k s)
  | none => (false, s)

/-- AON_LOG_ACK (R445). -/
def execAonLogAck (path : Nat) (value : BitVec 32) (s : State) : Out :=
  if !pathOk s path then .next s
  else
    let (ok, s) := logAck value s
    .next (regDone path (aonCpx path) ok s)

/-! ## Events (R313, R450 to R452) -/

/-- A write of an event's ACK (R450). -/
def eventAck (id : Nat) (v : BitVec 48) (s : State) : Bool × State :=
  if !eventImpl s.fuse.variantH id || sget 0 s.ev.count id < v then (false, s)
  else (true, driveAlert { s with ev.ack := sset 0 s.ev.ack id v })

/-- EVENT_ACK (R450). -/
def execEventAck (path event : Nat) (count : BitVec 48) (s : State) : Out :=
  if !pathOk s path then .next s
  else
    let (ok, s) := eventAck event count s
    .next (regDone path (aonCpx path) ok s)

/-- The body of an EVENT_MSG (Table 10.7, R451). -/
def eventBody (s : State) (id : Nat) : BitVec 86 :=
  let slot := if id < 0xFC then sget none s.ev.lastSlot id else none
  let cls := if id < 0xFC then sget 0 s.ev.lastClass id else 0
  place 86 1 (bit1 slot.isNone) ||| place 86 2 (BitVec.ofNat 12 id) ||| place 86 14 (sget 0 s.ev.count id) |||
    place 86 62 (slot.getD 0x1FF) ||| place 86 71 cls

/-- An event has an EVENT_MSG to send on a port (R313, R450). -/
def eventDue (s : State) (port id : Nat) : Bool :=
  eventImpl s.fuse.variantH id && (evCtl s id).getLsbD 0 && portUp s port && eventTarget s port &&
    decide (sget 0 s.ev.count id ≠ sget 0 s.ev.sentCount (key2 id port)) && !sget false s.ev.sentWin (key2 id port)

/-- EVENT_MSG (R313): an event whose count has advanced since its last message on the port, once in each 1 ms window. -/
def execEventMsg (port event : Nat) (s : State) : Out :=
  if !eventDue s port event then .next s
  else
    let k := key2 event port
    let s := sendPkt port { hdr := msgHdr 0x73 (partnerNode (portOf s port)) (nodeId s) (eventBody s event) } s
    .next { s with ev.sentCount := sset 0 s.ev.sentCount k (sget 0 s.ev.count event), ev.sentWin := sset false s.ev.sentWin k true }

/-! ## Threshold samplers (R454, R455) -/

def smpOf (s : State) (n : Nat) : Sampler := sget {} s.mgt.smp n
def setSmp (n : Nat) (v : Sampler) (s : State) : State := { s with mgt.smp := sset {} s.mgt.smp n v }
/-- ENABLE of a sampler. -/
def smpOn (p : Sampler) : Bool := p.cfg.getLsbD 31

/-- SAMPLER_THRESHOLD (R454): with THRESHOLD + 1 advances counted, the block is armed and the count starts from 0 again. -/
def execSamplerThreshold (n : Nat) (s : State) : Out :=
  let p := smpOf s n
  if 16 ≤ n || !smpOn p || p.count ≤ fieldNat p.cfg 27 12 then .next s
  else .next (setSmp n { p with armed := true, count := 0 } s)

/-- The sample record (Table 16.10), but for the request fields. -/
def smpRecord (s : State) (n skid : Nat) (noReq : Bool) : BitVec 512 :=
  place 512 84 (BitVec.ofNat 4 n) ||| place 512 82 (bit1 noReq) ||| place 512 76 (BitVec.ofNat 6 skid) |||
    place 512 64 ((smpOf s n).cfg.extractLsb' 0 12) ||| place 512 0 s.time.tide

/-- The request fields of a sample record (Table 16.10). -/
def smpRequest (op : BitVec 8) (line : Line) (node : Node) (tag : Tag) (cls : BitVec 8) (due : Option (BitVec 24)) : BitVec 512 :=
  place 512 160 line ||| place 512 145 tag ||| place 512 128 node ||| place 512 120 cls ||| place 512 96 (due.getD 0) |||
    place 512 88 op ||| place 512 83 (bit1 due.isNone)

/-- The line of the next sample record. -/
def smpLine (s : State) : Line :=
  BitVec.ofNat 39 (s.mgt.smpBase.toNat / 64 + s.mgt.smpWr.toNat % 2 ^ s.mgt.smpSize.toNat)

/-- The next record would overwrite one that is not consumed, or lies outside the logical space. -/
def smpFull (s : State) : Bool :=
  2 ^ s.mgt.smpSize.toNat ≤ (s.mgt.smpWr - s.mgt.smpRd).toNat || capacity s ≤ (smpLine s).toNat * 64

/-- A sample record is written as a WR_FULL in MGMT_CLASS, or dropped (R454); while its line cannot be written the sampler stays armed
(log entry 31). -/
def writeSample (n : Nat) (req : BitVec 512) (noReq : Bool) (s : State) : State :=
  let cls := BitVec.ofNat 8 (designated s 0)
  if smpFull s then setSmp n { smpOf s n with armed := false } { s with mgt.smpDropped := true }
  else
    let (ready, s) := storeReady (smpLine s) cls (BitVec.ofNat 12 (fieldNat (classRec s (designated s 0)) 66 55)) s
    if !ready then s
    else
      let (skid, s) := if noReq then (0, s) else draw 6 s
      let x := smpRecord s n (skid.toNat % 33) noReq ||| req
      let (_, s) := storeLine (smpLine s) x false cls s
      setSmp n { smpOf s n with armed := false } { s with mgt.smpWr := s.mgt.smpWr + 1 }

/-- SAMPLE_CAPTURE (R454, R455): SKID is a free value of at most 32 (log entry 5). -/
def execSampleCapture (n : Nat) (op : BitVec 8) (line : Line) (node : Node) (tag : Tag) (cls : BitVec 8) (due : Option (BitVec 24))
    (s : State) : Out :=
  if 16 ≤ n || !(smpOf s n).armed then .next s
  else .next (settle (writeSample n (smpRequest op line node tag cls due) false s))

/-- SAMPLE_NO_REQUEST_TIMEOUT (R455): a record with NO_REQ = 1 and zero request fields. -/
def execSampleNoRequestTimeout (n : Nat) (s : State) : Out :=
  if 16 ≤ n || !(smpOf s n).armed then .next s else .next (settle (writeSample n 0 true s))

/-- SAMPLE_RING_CONSUME (R454): a write of MGT_SMP_RD. -/
def execSampleRingConsume (path : Nat) (value : BitVec 32) (s : State) : Out :=
  if s.aon.mode = .stall || s.aon.mode = .watch then .next (regDone path none false s)
  else .next (regDone path (some 0) true { s with mgt.smpRd := value })

/-! ## Corrections and retirement (R457 to R459) -/

/-- FRAME_WIN_START (R457): both tables are cleared. -/
def execFrameWinStart (s : State) : Out := .next { s with tier.frameTable := [], tier.bankTable := [] }

/-- Corrections of a frame in this window (R457). -/
def frameCorrections (s : State) (dfa : Nat) : Nat :=
  match s.tier.frameTable.find? (fun e => e.1 = dfa) with
  | some e => e.2
  | none => 0

/-- FRAME_RETIRED (R458): the count has reached FRAME_TH and AUTO_RETIRE = 1. -/
def execFrameRetired (dfa : Nat) (s : State) : Out :=
  if s.aon.ceCfg.getLsbD 31 && fieldNat s.aon.ceCfg 11 4 ≤ frameCorrections s dfa then .next (settle (retireFrame dfa 2 s)) else .next s

/-- RETIRE_BANK as the device runs it itself (R135, R459): the bank entry is recorded and every frame with a line in it is retired. -/
def autoRetireBank (bank : Nat) (frames : List Nat) (s : State) : State :=
  let s := recordRetired (place 64 62 (2 : BitVec 2) ||| BitVec.ofNat 64 bank) 0 s
  frames.foldl (fun t f => if fUse (frameEntry t f) = 4 then t else retireFrame f 4 t) s

/-- BANK_SUSPECT (R459): the count has reached BANK_TH over 4 distinct frames. It is logged once per window, with reason 1 when RETIRE_BANK
is refused under R135. -/
def execBankSuspect (bank : Nat) (s : State) : Out :=
  let e := sget {} s.tier.bankTable bank
  if e.count < fieldNat s.aon.ceCfg 29 20 || e.dfas.length < 4 || e.logged then .next s
  else
    let s := { s with tier.bankTable := sset {} s.tier.bankTable bank { e with logged := true } }
    let auto := s.aon.ceCfg.getLsbD 30
    let frames := if auto then (List.range (totalFrames s)).filter (frameInBank s bank) else []
    let refused := frames.any (fun f => (regionOf s f).isSome)
    let s := logIt { cause := 0x0C, loc := BitVec.ofNat 43 (bank % 2 ^ 15) ||| place 43 39 (0xF : BitVec 4),
                     args := [e.count, e.dfas.length, if refused then 1 else 0] } s
    .next (settle (if auto && !refused then autoRetireBank bank frames s else s))

end Sys2Proof.Machine
end

