-- ==== Sys2Proof/Machine/Registers.lean ====
section
/-! DEFINITION. The management window (R460 to R476): its blocks and registers, the rules of every access, the indirect windows, resets
and OTP through AON, the I3C target and the parity sweep. -/

namespace Sys2Proof.Machine

open Sys2Proof

/-! ## The window (R463, Table 17.2) -/

/-- The blocks of Table 17.2. -/
inductive Blk where
  | aon | dch | qb | afl | pe | mgt | rns | tile | db | none
  deriving DecidableEq, Repr

/-- The block of an offset, its instance, and the offset within it (Table 17.2). A doorbell register's instance is its ring. -/
def blkOf (off : Nat) : Blk × Nat × Nat :=
  if off < 0x40000 then (.aon, 0, off)
  else if 0x100000 ≤ off && off < 0x200000 then (.dch, (off - 0x100000) / 0x10000, off % 0x10000)
  else if 0x200000 ≤ off && off < 0x300000 then (.qb, (off - 0x200000) / 0x10000, off % 0x10000)
  else if 0x300000 ≤ off && off < 0x340000 then (.afl, (off - 0x300000) / 0x10000, off % 0x10000)
  else if 0x340000 ≤ off && off < 0x360000 then (.pe, (off - 0x340000) / 0x10000, off % 0x10000)
  else if 0x380000 ≤ off && off < 0x400000 then (.mgt, (off - 0x380000) / 0x40000, off % 0x40000)
  else if 0x400000 ≤ off && off < 0x410000 then (.rns, 0, off % 0x10000)
  else if 0x800000 ≤ off && off < 0x860000 then (.tile, (off - 0x800000) / 0x1000, off % 0x1000)
  else if 0x1000000 ≤ off && off < 0x1040000 then (.db, (off - 0x1000000) / 8, off % 8)
  else (.none, 0, 0)

/-- A block that the variant has (R6). -/
def blkPresent (s : State) : Blk → Nat → Bool
  | .aon, _ | .rns, _ | .db, _ => true
  | .dch, i => i < numChans s
  | .qb, i => i < numBanks s
  | .afl, i => i < numPorts s
  | .pe, i | .mgt, i => i < numDies s
  | .tile, i => i < numTiles s
  | .none, _ => false

/-- In Stall and in Watch every block but AON is off (R463). -/
def diesDark (s : State) : Bool := s.aon.mode = .stall || s.aon.mode = .watch

/-- The switchable domain of a block (Table 13.5). -/
def blkDomain : Blk → Nat → Option Nat
  | .dch, i => some (96 + i)
  | .qb, i => some (128 + i)
  | .afl, i => some (144 + i)
  | .pe, i => some (148 + i)
  | .mgt, i => some (150 + i)
  | .tile, i => some i
  | _, _ => none

/-- An access to a block whose domain sleeps in a gait wakes it and completes after the exit (R331, R463). -/
def wakeBlk (b : Blk) (i : Nat) (s : State) : State :=
  match blkDomain b i with
  | some n => match (domOf s n).st with
    | .asleep => wakeGroup (domGroup s n) s
    | .entering => modDom n (fun d => { d with wakeEvent := true }) s
    | _ => s
  | none => s

/-- The endpoint of a block, as the SOURCE of its log entries (R444). -/
def blkEndpoint : Blk → Nat → BitVec 10
  | .aon, _ | .none, _ => epAon
  | .dch, i => epDch i
  | .qb, i => epQb i
  | .afl, i => epAfl i
  | .pe, i => epPe i
  | .mgt, i => BitVec.ofNat 10 (512 * i) ||| epMgt0
  | .rns, _ | .db, _ => epMgt0
  | .tile, i => epTile i

/-- The management complex that serves an access (R467): the one whose block it reaches, else that of the path; none for an access over
I3C that AON alone serves (R460). -/
def serving (s : State) (path : Nat) (off : Nat) : Option Nat :=
  match blkOf off with
  | (.mgt, m, _) => some (m % numDies s)
  | (.db, r, _) => some (cpxOf s r)
  | (.aon, _, _) => aonCpx path
  | _ => some ((aonCpx path).getD 0)

/-! ## Indirect windows (R468) -/

def idxInc (x : BitVec 32) : Bool := x.getLsbD 31
def idxOff (x : BitVec 32) : Nat := fieldNat x 30 0

/-- Size of the spaces of Table 17.5. -/
def aonSpace : Nat := 0x41000
def ppdSpace : Nat := 0x914
def phySpace : Nat := 0x10000
def ringSpace : Nat := 0x100000
def xlogSpace : Nat := 0x100000

/-- Word `o` of the AON indirect space (R335, R445, Table 17.5). -/
def aonIndirect (s : State) (o : Nat) : Option (BitVec 32) :=
  if o < 0x8000 then some ((sget 0 s.log.slots (o / 64)).extractLsb' (8 * (o % 64)) 32)
  else if 0x10000 ≤ o && o < 0x40000 then some ((sget 0 s.frz.area ((o - 0x10000) / 32)).extractLsb' (8 * (o % 32)) 32)
  else if 0x40000 ≤ o && o < 0x41000 then some (sget 0 s.aon.staging ((o - 0x40000) / 4))
  else none

/-- A write of the AON indirect space: the staging words are stored; log slots and freeze area are read-only (R17). -/
def aonIndirectWrite (o : Nat) (v : BitVec 32) (s : State) : Bool × State :=
  if 0x40000 ≤ o && o < 0x41000 then (true, { s with aon.staging := sset 0 s.aon.staging ((o - 0x40000) / 4) v })
  else ((aonIndirect s o).isSome, s)

/-- The IDX register of a window for a path, by the window offset of IDX or of DATA. -/
def idxOf (s : State) (path off : Nat) : BitVec 32 :=
  match blkOf off with
  | (.aon, _, r) => if r < 0x68 then sget 0 s.aon.xidx path else sget 0 s.aon.ppdIdx path
  | (.dch, c, _) => sget 0 (chan s c).phyIdx path
  | (.afl, p, _) => sget 0 (portOf s p).serdesIdx path
  | (.mgt, m, r) => if r < 0x50 then sget 0 s.rings.ctxIdx (key2 m path) else sget 0 s.mgt.xlogIdx path
  | _ => 0

/-- Store the IDX register of a window for a path. -/
def setIdx (path off : Nat) (v : BitVec 32) (s : State) : State :=
  match blkOf off with
  | (.aon, _, r) => if r < 0x68 then { s with aon.xidx := sset 0 s.aon.xidx path v } else { s with aon.ppdIdx := sset 0 s.aon.ppdIdx path v }
  | (.dch, c, _) => modChan c (fun x => { x with phyIdx := sset 0 x.phyIdx path v }) s
  | (.afl, p, _) => modPort p (fun x => { x with serdesIdx := sset 0 x.serdesIdx path v }) s
  | (.mgt, m, r) => if r < 0x50 then { s with rings.ctxIdx := sset 0 s.rings.ctxIdx (key2 m path) v }
      else { s with mgt.xlogIdx := sset 0 s.mgt.xlogIdx path v }
  | _ => s

/-- The space of the window of an IDX or DATA register; none for any other register (Table 17.5). -/
def idxSpace (off : Nat) : Option Nat :=
  match blkOf off with
  | (.aon, _, r) => if r = 0x60 || r = 0x64 then some aonSpace else if r = 0x68 || r = 0x6C then some ppdSpace else none
  | (.dch, _, r) | (.afl, _, r) => if r = 0x40 || r = 0x44 then some phySpace else none
  | (.mgt, m, r) => if r = 0x40 || r = 0x44 then some ringSpace else if m = 0 && (r = 0x50 || r = 0x54) then some xlogSpace else none
  | _ => none

/-- The register is an IDX register. -/
def isIdx (off : Nat) : Bool := (idxSpace off).isSome && off % 8 = 0
/-- The register is a DATA register. -/
def isData (off : Nat) : Bool := (idxSpace off).isSome && off % 8 = 4

/-- A write of IDX: an OFFSET beyond the space or not a multiple of 4 B is ERR_REG (R468). -/
def idxWrite (path off : Nat) (v : BitVec 32) (s : State) : Bool × State :=
  if (idxSpace off).getD 0 ≤ idxOff v || idxOff v % 4 ≠ 0 then (false, s) else (true, setIdx path off v s)

/-- After a DATA access that completes OK with INC = 1, OFFSET has advanced by 4 B (R468). -/
def stepIdx (path off : Nat) (s : State) : State :=
  if isData off && idxInc (idxOf s path off) then
    setIdx path off (0x80000000 ||| BitVec.ofNat 32 ((idxOff (idxOf s path off) + 4) % 2 ^ 31)) s
  else s

/-- A read of the word that DATA reaches. -/
def dataRead (s : State) (path off : Nat) : Option (BitVec 32) :=
  let o := idxOff (idxOf s path off)
  match blkOf off with
  | (.aon, _, r) => if r < 0x68 then aonIndirect s o else ppdRead s o
  | (.dch, c, _) => if o < phySpace then some (sget 0 (chan s c).phy (o / 4)) else none
  | (.afl, p, _) => if o < phySpace then some (sget 0 (portOf s p).serdes (o / 4)) else none
  | (.mgt, m, r) =>
    if r < 0x50 then
      (if o < ringSpace && cpxOf s (o / 32) = m then some ((ctxOf s (o / 32)).extractLsb' (8 * (o % 32)) 32) else none)
    else if o < xlogSpace then some ((sget 0 s.mgt.xlog (o / 64)).extractLsb' (8 * (o % 64)) 32) else none
  | _ => none

/-- A write of the word that DATA reaches. -/
def dataWrite (path off : Nat) (v : BitVec 32) (s : State) : Bool × State :=
  let o := idxOff (idxOf s path off)
  match blkOf off with
  | (.aon, _, r) => if r < 0x68 then aonIndirectWrite o v s else ppdWrite o v s
  | (.dch, c, _) => (true, modChan c (fun x => { x with phy := sset 0 x.phy (o / 4) v }) s)
  | (.afl, p, _) => (true, modPort p (fun x => { x with serdes := sset 0 x.serdes (o / 4) v }) s)
  | (.mgt, _, r) => if r < 0x50 then ctxWrite path (o / 32) (o % 32 / 4) v s else (true, s)
  | _ => (false, s)

/-! ## Registers of AON (R470, Tables 17.6, 17.7) -/

/-- AON_DEVICE_ID (Table 17.7). -/
def deviceId (s : State) : BitVec 32 :=
  place 32 28 s.fuse.stepping ||| (if s.fuse.variantH then 0x025300FF else 0x01FFFFFF)
/-- AON_MODE_STAT (Table 14.4). -/
def modeStat (s : State) : BitVec 32 :=
  place 32 24 s.aon.modeCause ||| place 32 16 (BitVec.ofNat 3 (modeCode s.aon.prevMode)) ||| place 32 8 s.aon.tolSrc |||
    place 32 4 s.aon.gait ||| BitVec.ofNat 32 (modeCode s.aon.mode)
/-- CUM_BOUND in µs, rounded up, saturating (Table 14.9). -/
def cumBound (s : State) : Nat := min (2 ^ 24 - 1) ((s.time.cumNs + 999) / 1000)
/-- AON_TIDE_STAT (Table 14.9). -/
def tideStat (s : State) : BitVec 64 :=
  place 64 40 (BitVec.ofNat 24 (cumBound s)) ||| place 64 33 (bit1 s.time.calValid) ||| place 64 32 (bit1 s.time.stopped) |||
    s.time.lastBound.setWidth 64
/-- AON_RESUME_STAT (Table 17.7). -/
def resumeStat (s : State) : BitVec 32 :=
  place 32 31 (bit1 s.aon.unclean) ||| place 32 30 (bit1 s.aon.released) ||| place 32 28 s.aon.rcase |||
    place 32 27 (bit1 s.aon.restoring) ||| s.aon.resumeMs.setWidth 32
/-- AON_HARNESS_STAT (Table 13.12): the device reads format versions up to 1.0 (R383). -/
def harnessStat (s : State) : BitVec 32 :=
  place 32 24 s.aon.patchSeq ||| place 32 20 s.aon.fmtMajor ||| place 32 16 s.aon.fmtMinor ||| place 32 12 (1 : BitVec 4) |||
    place 32 4 (bit1 s.aon.logBroken) ||| place 32 3 (bit1 s.aon.fallback) ||| place 32 2 (bit1 s.aon.trial) |||
    place 32 1 (bit1 s.aon.copyB) ||| place 32 0 (bit1 s.aon.loaded)
/-- AON_FREEZE_CTL (Table 11.6). -/
def freezeCtl (s : State) : BitVec 32 :=
  place 32 24 s.frz.routersDone ||| place 32 8 s.frz.ignored ||| place 32 3 (bit1 s.frz.onFatal) ||| place 32 2 (bit1 s.frz.held)

/-- Word `w` of the record of an event (Table 16.7). -/
def eventWord (s : State) (id w : Nat) : BitVec 32 :=
  let n := sget 0 s.ev.count id
  let a := sget 0 s.ev.ack id
  let impl := eventImpl s.fuse.variantH id
  match w with
  | 0 => n.extractLsb' 0 32
  | 1 => place 32 31 (bit1 (n = BitVec.allOnes 48)) ||| (n.extractLsb' 32 16).setWidth 32
  | 2 => a.extractLsb' 0 32
  | 3 => (a.extractLsb' 32 16).setWidth 32
  | 4 =>
    let cls : BitVec 2 := if !impl then 0 else if id < 0xFC then causeClass (BitVec.ofNat 8 id) else if id < 0x100 then BitVec.ofNat 2 (id - 0xFC)
      else 0
    if impl then place 32 5 (bit1 (evPending s id)) ||| place 32 4 (1 : BitVec 1) ||| place 32 2 cls ||| (evCtl s id).setWidth 32 else 0
  | _ => 0

/-- A write of a word of an event's record (R450, R451): an unimplemented event, or an ACK above COUNT, is ERR_REG. -/
def eventWordWrite (id w : Nat) (v : BitVec 32) (s : State) : Bool × State :=
  if !eventImpl s.fuse.variantH id then (false, s)
  else match w with
    | 2 => eventAck id (setField (sget 0 s.ev.ack id) 0 v) s
    | 3 => eventAck id (setField (sget 0 s.ev.ack id) 32 (v.extractLsb' 0 16)) s
    | 4 =>
      let c : BitVec 2 := v.extractLsb' 0 2
      (true, driveAlert { s with ev.ctl := sset none s.ev.ctl id (if c = evCtlReset id then none else some c) })
    | _ => (true, s)

/-- A register of AON below the event window. -/
def aonRead (s : State) (path r : Nat) : Option (BitVec 32) :=
  match r with
  | 0x00 => some (deviceId s)
  | 0x08 => some (s.fuse.serial.extractLsb' 0 32)
  | 0x0C => some (s.fuse.serial.extractLsb' 32 32)
  | 0x10 => some (place 32 11 (bit1 s.aon.maintNext) ||| place 32 4 s.aon.gaitMax)
  | 0x14 => some (modeStat s)
  | 0x18 => some s.aon.pwrCfg
  | 0x1C => some 0
  | 0x20 => some (s.time.tide.extractLsb' 0 32)
  | 0x24 => some (s.time.tide.extractLsb' 32 32)
  | 0x28 => some ((tideStat s).extractLsb' 0 32)
  | 0x2C => some ((tideStat s).extractLsb' 32 32)
  | 0x30 => some s.time.slowPeriod
  | 0x34 => some (resumeStat s)
  | 0x38 => some (place 32 16 s.aon.changeCount ||| s.aon.paBits.setWidth 32)
  | 0x40 => some s.aon.dirtyPages
  | 0x44 => some s.aon.ceilPages
  | 0x48 => some (harnessStat s)
  | 0x4C => some (place 32 16 (BitVec.ofNat 10 s.log.count) ||| BitVec.ofNat 32 s.log.head)
  | 0x50 => some (place 32 16 s.log.extLost ||| s.log.lost.setWidth 32)
  | 0x54 => some 0
  | 0x58 => some s.aon.ceCfg
  | 0x5C => some (freezeCtl s)
  | 0x60 | 0x68 => some (idxOf s path r)
  | 0x64 | 0x6C => dataRead s path r
  | 0x70 => some (place 32 8 s.aon.otpResult ||| place 32 0 (bit1 s.aon.otpBusy))
  | 0x74 => some 0
  | _ => none

/-! ## Requests through AON_MODE_CTL, AON_RESET_CTL, AON_OTP_CTL and AON_SVN_COMMIT (R393, R471) -/

/-- A REQ value of AON_MODE_CTL that the mode permits; 0 makes no request (R393). -/
def reqOkay (s : State) (req : Nat) : Bool :=
  match req with
  | 0 => true
  | 1 => s.aon.mode = .service || s.aon.mode = .maintenance
  | 2 => s.aon.mode = .service
  | 3 => s.aon.mode = .maintenance && trained s && s.led.chosen
  | _ => false

/-- A write of AON_MODE_CTL (R393, Table 14.3). -/
def modeCtl (v : BitVec 32) (s : State) : Bool × State :=
  if !reqOkay s (fieldNat v 3 0) then (false, s)
  else
    let s := gaitFall { s with aon.maintNext := v.getLsbD 11, aon.gaitMax := v.extractLsb' 4 2 }
    (true, match fieldNat v 3 0 with
      | 1 => startDrain false s
      | 2 => startDrain true s
      | 3 => settle (enterRecovery 0x11 s)
      | _ => s)

/-- A write of AON_PWR_CFG (R411, Table 14.11): every field in its range. -/
def pwrCfgWrite (v : BitVec 32) (s : State) : Bool × State :=
  if 1 ≤ fieldNat v 31 22 && fieldNat v 31 22 ≤ 1000 && 1 ≤ fieldNat v 21 16 && fieldNat v 15 12 ≤ 13 && fieldNat v 11 9 ≤ 6 then
    (true, { s with aon.pwrCfg := v &&& 0xFFFFFE00 })
  else (false, s)

/-- A write of AON_CE_CFG (Table 16.11). -/
def ceCfgWrite (v : BitVec 32) (s : State) : Bool × State :=
  if 1 ≤ fieldNat v 29 20 && 1 ≤ fieldNat v 19 12 && 1 ≤ fieldNat v 11 4 then (true, { s with aon.ceCfg := v &&& 0xFFFFFFF0 })
  else (false, s)

/-- A write of AON_FREEZE_CTL (Table 11.6): RELEASE, then FREEZE. -/
def freezeWrite (v : BitVec 32) (s : State) : State :=
  let s := { s with frz.onFatal := v.getLsbD 3 }
  let s := if v.getLsbD 1 then releaseDump s else s
  if v.getLsbD 0 then freezeNow 1 s else s

/-- Scopes of AON_RESET_CTL that need FORCE for a device reset: Service, Drain, Holdup, Watch, Recovery (R471). -/
def needsForce (m : Mode) : Bool := m = .service || m = .drain || m = .holdup || m = .watch || m = .recovery

/-- A device-scope reset request (R471): transition 0x01, then transition 0x12 after 10 ms. The rails that a Stall had turned off rise
again. -/
def resetDevice (cold : Bool) (s : State) : State :=
  let s := deviceReset cold s
  let s := { s with aon.restart := true }
  if s.aon.thermTrip then s else railsUp s

/-- The SSDs of a root port whose commands end as timeouts (R214, R471, R484). -/
def portTimeouts (pe : Nat) (s : State) : State :=
  ((ssdIndices s).filter (fun i => peOf s i = pe)).foldl (fun t i => nvmeTimeout i t) s

/-- A write of AON_RESET_CTL (R471, Table 17.8): only through I3C, with KEY 0xA5. -/
def resetReq (path : Nat) (key : BitVec 8) (scope inst : Nat) (force : Bool) (s : State) : Bool × State :=
  if path ≠ 0 || key ≠ 0xA5 then (false, s)
  else match scope with
    | 1 => if needsForce s.aon.mode && !force then (false, s) else (true, resetDevice true s)
    | 2 => if needsForce s.aon.mode && !force then (false, s) else (true, resetDevice false s)
    | 3 =>
      if numPorts s ≤ inst || diesDark s then (false, s)
      else if portUp s inst || (portOf s inst).st = .eq then (true, linkLost inst 5 s)
      else if (portOf s inst).st = .off then (true, s)
      else (true, backToDetect inst s)
    | 4 => if numDies s ≤ inst || diesDark s then (false, s) else (true, settle (portTimeouts inst s))
    | 5 =>
      if numBays s ≤ inst || (ledgerBay s (inst + 35) && s.aon.mode ≠ .maintenance) then (false, s)
      else (true, settle (refreshPA (bayReset (inst + 35) s)))
    | 6 =>
      if numDies s ≤ inst || diesDark s || !(s.aon.mode = .maintenance || force) then (false, s)
      else (true, { s with mgt.fwRuns := sset false s.mgt.fwRuns inst true })
    | _ => (false, s)

/-- A row of AON_RESET_CTL. -/
def resetRow (path : Nat) (key : BitVec 8) (scope inst : Nat) (force : Bool) (s : State) : Out :=
  if !pathOk s path || (path = 0 && s.aon.otpBusy) then .next s
  else
    let (ok, s) := resetReq path key scope inst force s
    .next (regDone path (aonCpx path) ok s)

/-- DEVICE_COLD (R471). -/
def execDeviceCold (path : Nat) (key : BitVec 8) (force : Bool) (inst : Nat) (s : State) : Out := resetRow path key 1 inst force s
/-- DEVICE_WARM (R471). -/
def execDeviceWarm (path : Nat) (key : BitVec 8) (force : Bool) (inst : Nat) (s : State) : Out := resetRow path key 2 inst force s
/-- AFL (R471). -/
def execAfl (path : Nat) (key : BitVec 8) (force : Bool) (inst : Nat) (s : State) : Out := resetRow path key 3 inst force s
/-- PE (R471). -/
def execPe (path : Nat) (key : BitVec 8) (force : Bool) (inst : Nat) (s : State) : Out := resetRow path key 4 inst force s
/-- BAY (R471). -/
def execBay (path : Nat) (key : BitVec 8) (force : Bool) (inst : Nat) (s : State) : Out := resetRow path key 5 inst force s
/-- MGT (R471). -/
def execMgt (path : Nat) (key : BitVec 8) (force : Bool) (inst : Nat) (s : State) : Out := resetRow path key 6 inst force s

/-- Why an OTP operation is not done, as a RESULT code: 2 mode, 3 slot in use, 5 not blank; 0 it may start (R471). -/
def otpRefusal (s : State) (op slot : Nat) : BitVec 4 :=
  match op with
  | 1 => if s.aon.mode ≠ .maintenance then 2 else if (sget {} s.fuse.ownerSlot slot).programmed then 3 else 0
  | 2 => if s.aon.mode ≠ .maintenance then 2 else if s.aon.hzOwner = some (BitVec.ofNat 2 slot) then 3 else 0
  | _ => if s.fuse.boardProg then 5 else if s.aon.mode ≠ .stall then 2 else 0

/-- A write of AON_OTP_CTL (R471): only through I3C, with KEY 0xA5 and an OP that is not reserved. A refusal is told by RESULT; otherwise
programming starts and the I3C status reads BUSY. -/
def otpReq (path : Nat) (key : BitVec 8) (op slot : Nat) (s : State) : Bool × State :=
  if path ≠ 0 || key ≠ 0xA5 || op = 0 || 3 < op then (false, s)
  else
    let r := otpRefusal s op slot
    if r ≠ 0 then (true, { s with aon.otpResult := r })
    else (true, { s with aon.otpResult := 0, aon.otpBusy := true, aon.otpOp := BitVec.ofNat 4 op, aon.otpSlot := BitVec.ofNat 2 slot })

/-- While an OTP operation runs, the I3C status reads BUSY (R471). -/
def busyStatus (s : State) : State := if s.aon.otpBusy then { s with aon.i3cStatus := 2 } else s

/-- A row of AON_OTP_CTL. -/
def otpRow (path : Nat) (key : BitVec 8) (op slot : Nat) (s : State) : Out :=
  if !pathOk s path || (path = 0 && s.aon.otpBusy) then .next s
  else
    let (ok, s) := otpReq path key op slot s
    .next (busyStatus (regDone path (aonCpx path) ok s))

/-- PROGRAM_OWNER (R471). -/
def execProgramOwner (path : Nat) (key : BitVec 8) (slot : Nat) (s : State) : Out := otpRow path key 1 slot s
/-- REVOKE_OWNER (R471). -/
def execRevokeOwner (path : Nat) (key : BitVec 8) (slot : Nat) (s : State) : Out := otpRow path key 2 slot s
/-- PROGRAM_BOARD (R471). -/
def execProgramBoard (path : Nat) (key : BitVec 8) (slot : Nat) (s : State) : Out := otpRow path key 3 slot s

/-- `n` staging words from word `w`, as one number. -/
def stagingBits (s : State) (w n : Nat) : BitVec 384 :=
  (List.range n).foldl (fun acc i => acc ||| place 384 (32 * i) (sget 0 s.aon.staging (w + i))) 0

/-- The words of the board configuration OTP that PROGRAM_BOARD writes: every CFG, LIM and global parameter register as it stands, and the
staging words as sense resistances (R416, R471). -/
def boardWords (s : State) : List (Nat × BitVec 32) :=
  (List.range 51).flatMap (fun n => [(32 * n, (pch s n).cfg), (32 * n + 4, (pch s n).lim), (32 * n + 12, sget 0 s.aon.staging n)]) ++
    (List.range 15).map (fun k => (0x800 + 4 * k, BitVec.ofNat 32 (ppdParam s k)))

/-- Free values in place of what a failed programming leaves in each word. -/
def freeWords : List (Nat × BitVec 32) → State → List (Nat × BitVec 32) × State
  | [], s => ([], s)
  | e :: r, s =>
    let (v, s) := draw 32 s
    let (l, s) := freeWords r s
    ((e.1, v) :: l, s)

/-- What the fuses hold after an OTP operation; after a failed read-back the fuses it addressed hold free values (log entry 5). -/
def otpWrite (ok : Bool) (s : State) : State :=
  let k := s.aon.otpSlot.toNat
  let set (v : KeySlot) (s : State) : State := { s with fuse.ownerSlot := sset {} s.fuse.ownerSlot k v }
  match s.aon.otpOp.toNat with
  | 1 =>
    if ok then set { programmed := true, ecdsa := stagingBits s 0 12, hss := stagingBits s 12 12 } s
    else
      let (p, s) := draw 1 s
      let (e, s) := draw 384 s
      let (h, s) := draw 384 s
      set { programmed := p = 1, ecdsa := e, hss := h } s
  | 2 =>
    let old := sget {} s.fuse.ownerSlot k
    if ok then set { old with revoked := true } s
    else
      let (p, s) := draw 1 s
      set { old with revoked := p = 1 } s
  | _ =>
    if ok then { s with fuse.boardProg := true, fuse.board := (boardWords s).foldl (fun m e => sset 0 m e.1 e.2) [] }
    else
      let (p, s) := draw 1 s
      let (l, s) := freeWords (boardWords s) s
      { s with fuse.boardProg := p = 1, fuse.board := l.foldl (fun m e => sset 0 m e.1 e.2) [] }

/-- OTP_PROGRAM_DONE (R471): programming and read-back are over. -/
def execOtpProgramDone (readBackOk : Bool) (s : State) : Out :=
  if !s.aon.otpBusy then .next s
  else
    let s := otpWrite readBackOk s
    .next { s with aon.otpBusy := false, aon.otpResult := if readBackOk then 1 else 4, aon.i3cStatus := 0 }

/-- A write of AON_SVN_COMMIT (R471): only through I3C, with KEY 0xA5, in Service or Maintenance. A floor is a count of fuses, which only
rises, to at most 64. -/
def svnReq (path : Nat) (key : BitVec 8) (fw hz : Bool) (s : State) : Bool × State :=
  if path ≠ 0 || key ≠ 0xA5 || !(s.aon.mode = .service || s.aon.mode = .maintenance) then (false, s)
  else
    (true, { s with fuse.svnFw := if fw then max s.fuse.svnFw (min 64 s.aon.fwSvn.toNat) else s.fuse.svnFw,
                    fuse.svnHarness := if hz then max s.fuse.svnHarness (min 64 s.aon.hzSvn.toNat) else s.fuse.svnHarness })

/-- A row of AON_SVN_COMMIT. -/
def svnRow (path : Nat) (key : BitVec 8) (fw hz : Bool) (s : State) : Out :=
  if !pathOk s path || (path = 0 && s.aon.otpBusy) then .next s
  else
    let (ok, s) := svnReq path key fw hz s
    .next (regDone path (aonCpx path) ok s)

/-- SVN_COMMIT_FW (R471). -/
def execSvnCommitFw (path : Nat) (key : BitVec 8) (s : State) : Out := svnRow path key true false s
/-- SVN_COMMIT_HARNESS (R471). -/
def execSvnCommitHarness (path : Nat) (key : BitVec 8) (s : State) : Out := svnRow path key false true s

/-- A write of a register of AON below the event window. Writes to read-only registers are ignored without error (R17). -/
def aonWrite (path r : Nat) (v : BitVec 32) (s : State) : Bool × State :=
  match r with
  | 0x10 => modeCtl v s
  | 0x18 => pwrCfgWrite v s
  | 0x1C => resetReq path (v.extractLsb' 24 8) (fieldNat v 23 20) (fieldNat v 19 16) (v.getLsbD 15) s
  | 0x54 => logAck v s
  | 0x58 => ceCfgWrite v s
  | 0x5C => (true, freezeWrite v s)
  | 0x60 | 0x68 => idxWrite path r v s
  | 0x64 | 0x6C => dataWrite path r v s
  | 0x70 => otpReq path (v.extractLsb' 24 8) (fieldNat v 19 16) (fieldNat v 15 14) s
  | 0x74 => svnReq path (v.extractLsb' 24 8) (v.getLsbD 0) (v.getLsbD 1) s
  | _ => (true, s)

/-! ## Parameters (R469) -/

/-- Parameters of a table. -/
def tableLen (t : Nat) : Nat :=
  match t with
  | 0x02 => 13 | 0x05 => 15 | 0x06 => 4 | 0x07 => 19 | 0x08 => 3 | 0x09 => 13 | 0x0B => 3 | 0x0D => 8 | _ => 0

/-- Block offset `r` lies in a parameter pair of one of the tables: the table and the index. -/
def paramPair (tables : List Nat) (r : Nat) : Option (Nat × Nat) :=
  if r < 0x2000 || 0x3000 ≤ r then none
  else
    let t := (r - 0x2000) / 0x100
    let k := r % 0x100 / 8
    if tables.contains t && k < tableLen t then some (t, k) else none

/-- A word of a parameter pair. -/
def paramWord (s : State) (tables : List Nat) (inst r : Nat) : Option (BitVec 32) :=
  (paramPair tables r).map (fun p => (BitVec.ofNat 64 (paramAt s p.1 p.2 inst)).extractLsb' (8 * (r % 8)) 32)

/-! ## Channel controllers (R473, Table 17.10) -/

/-- DCHn_STAT. -/
def dchStat (c : Channel) : BitVec 32 :=
  place 32 28 c.throttle ||| place 32 25 c.offlineWhy ||| place 32 24 (bit1 c.offline) ||| place 32 23 (bit1 c.selfRefresh) |||
    place 32 22 (bit1 c.trained) ||| place 32 21 (bit1 c.calRestored) ||| c.rate.setWidth 32
/-- DCHn_DEVMARKk. -/
def devMarks (c : Channel) (k : Nat) : BitVec 32 :=
  (List.range 8).foldl (fun acc j => acc ||| place 32 (4 * j) (sget (0xF : BitVec 4) c.marks (8 * k + j))) 0

/-- A register of DCHn. -/
def dchRead (s : State) (c path r : Nat) : Option (BitVec 32) :=
  if r = 0 then some (chan s c).wdrain
  else if r = 4 then some (dchStat (chan s c))
  else if 0x20 ≤ r && r < 0x38 then some ((sget 0 (chan s c).xmap ((r - 0x20) / 4)).setWidth 32)
  else if r = 0x40 then some (idxOf s path (0x100000 + 0x10000 * c + r))
  else if r = 0x44 then dataRead s path (0x100000 + 0x10000 * c + r)
  else if 0x80 ≤ r && r < 0xA0 then some (devMarks (chan s c) ((r - 0x80) / 4))
  else paramWord s [0x05] c r

/-- A write of a register of DCHn (R134, R140, R473). -/
def dchWrite (c path r : Nat) (v : BitVec 32) (s : State) : Bool × State :=
  let o := 0x100000 + 0x10000 * c + r
  if r = 0 then
    if 8 ≤ fieldNat v 15 8 && fieldNat v 15 8 ≤ 64 && fieldNat v 23 16 + 8 ≤ fieldNat v 15 8 then
      (true, modChan c (fun x => { x with wdrain := v &&& 0x00FFFF02 ||| x.wdrain &&& 1 }) s)
    else (false, s)
  else if 0x20 ≤ r && r < 0x38 then
    if s.aon.mode = .harnessing then
      (true, modChan c (fun x => { x with xmap := sset 0 x.xmap ((r - 0x20) / 4) (v.extractLsb' 0 17) }) s)
    else (false, s)
  else if r = 0x40 then idxWrite path o v s
  else if r = 0x44 then dataWrite path o v s
  else (!(0x80 ≤ r && r < 0xA0), s)

/-! ## AFL ports (R264, R474, Table 17.11) -/

/-- State codes of Table 9.4. -/
def linkCode : LinkSt → BitVec 4
  | .off => 0 | .detect => 1 | .poll => 2 | .config => 3 | .eq => 4 | .active => 5 | .retrain => 6
/-- AFLn_LINK_STAT (Table 9.6). -/
def linkStat (s : State) (q : Port) : BitVec 32 :=
  place 32 28 q.lp ||| place 32 24 (linkCode q.st) ||| place 32 20 q.features ||| place 32 18 q.version ||| place 32 16 q.rate |||
    place 32 13 q.width ||| place 32 9 q.group ||| place 32 8 (bit1 (direct s)) ||| place 32 7 (bit1 q.held) |||
    place 32 6 (bit1 q.resumed) ||| place 32 0 (bit1 (q.st = .active))
/-- AFLn_PARTNER (Table 17.11): the last valid training set, 0 before the first. -/
def partnerReg (q : Port) : BitVec 64 :=
  let t := q.partner
  if !q.partnerUp then 0
  else (t.extractLsb' 24 17).setWidth 64 ||| place 64 17 (t.extractLsb' 41 2) ||| place 64 19 (bit1 (tsDirect t)) |||
    place 64 20 (t.extractLsb' 16 2) ||| place 64 22 (tsFeatures t) ||| place 64 26 (t.extractLsb' 44 3) |||
    place 64 29 (t.extractLsb' 48 5) ||| place 64 34 (tsReqCredits t) ||| place 64 46 (tsRspCredits t)
/-- AFLn_LAT_TOL (Table 17.11). -/
def latTolReg (q : Port) : BitVec 32 :=
  match q.latTol with
  | some v => 0x80000000 ||| place 32 30 (bit1 (v.getLsbD 31)) ||| (v.extractLsb' 0 30).setWidth 32
  | none => 0

/-- A register of AFLn. -/
def aflRead (s : State) (p path r : Nat) : Option (BitVec 32) :=
  let q := portOf s p
  match r with
  | 0x00 => some (linkStat s q)
  | 0x04 => some ((bit1 q.disable).setWidth 32)
  | 0x08 => some ((partnerReg q).extractLsb' 0 32)
  | 0x0C => some ((partnerReg q).extractLsb' 32 32)
  | 0x10 => some (place 32 31 (bit1 (!(sget [] s.reins.hold p).isEmpty)) ||| place 32 16 (availRsp q) ||| (availReq q).setWidth 32)
  | 0x14 => some (place 32 12 (BitVec.ofNat 11 q.replay.length) ||| q.seq.setWidth 32)
  | 0x18 => some (latTolReg q)
  | 0x1C => some (q.laneFail.setWidth 32)
  | 0x40 => some (idxOf s path (0x300000 + 0x10000 * p + r))
  | 0x44 => dataRead s path (0x300000 + 0x10000 * p + r)
  | _ => paramWord s [0x09] p r

/-- DISABLE = 1 sends LINK_OFF and holds the port in OFF; 0 returns it to DETECT when PORT_ENABLE = 1 (R286, R474). -/
def portDisable (p : Nat) (d : Bool) (s : State) : State :=
  let q := portOf s p
  if d = q.disable then s
  else if d then modPort p (fun q => { q with disable := true }) (endSession p (sendLinkOff p 1 s))
  else
    let s := modPort p (fun q => { q with disable := false }) s
    if portEnabled s p && txPermitted s && q.st = .off then modPort p (fun q => { q with st := .detect }) s else s

/-- A write of a register of AFLn. -/
def aflWrite (p path r : Nat) (v : BitVec 32) (s : State) : Bool × State :=
  match r with
  | 0x04 => (true, portDisable p (v.getLsbD 0) s)
  | 0x40 => idxWrite path (0x300000 + 0x10000 * p + r) v s
  | 0x44 => dataWrite path (0x300000 + 0x10000 * p + r) v s
  | _ => (true, s)

/-! ## Management complexes (R476, Table 17.13) -/

/-- The sampler watches an event of a DCH, QB, AFL, PE or TILE block that the variant has (R454). -/
def smpEventOk (s : State) (id : Nat) : Bool :=
  eventImpl s.fuse.variantH id && ((0x500 ≤ id && id < 0x9A0) || (0xD00 ≤ id && id < 0x1000))

/-- A write of MGT_SMPn_CFG (R454): a sampler that is enabled, or whose event changes, counts from 0. -/
def smpWrite (n : Nat) (v : BitVec 32) (s : State) : Bool × State :=
  let v := v &&& 0x8FFFFFFF
  let p := smpOf s n
  if !smpEventOk s (fieldNat v 11 0) then (false, s)
  else
    let keep := smpOn p && v.getLsbD 31 && fieldNat v 11 0 = fieldNat p.cfg 11 0
    (true, setSmp n { cfg := v, count := if keep then p.count else 0, armed := keep && p.armed } s)

/-- REKEY<n>_TIDE (R124). -/
def rekeyTide (s : State) (n : Nat) : BitVec 64 :=
  let e := sget {} s.led.engines n
  place 64 63 (bit1 e.active) ||| (BitVec.ofNat 33 e.tide).setWidth 64

/-- A register of MGTm. -/
def mgtRead (s : State) (m path r : Nat) : Option (BitVec 32) :=
  if r = 0 then some 1
  else if r = 0x40 then some (idxOf s path (0x380000 + 0x40000 * m + r))
  else if r = 0x44 then dataRead s path (0x380000 + 0x40000 * m + r)
  else if m ≠ 0 then none
  else if 0x80 ≤ r && r < 0xC0 then some (smpOf s ((r - 0x80) / 4)).cfg
  else if 0x100 ≤ r && r < 0x180 then some ((rekeyTide s ((r - 0x100) / 8)).extractLsb' (8 * (r % 8)) 32)
  else if 0x10000 ≤ r && r < 0x11000 then some (sget 0 s.rings.pend ((r - 0x10000) / 4))
  else match r with
    | 0x10 => some (s.mgt.patchBase.extractLsb' 0 32)
    | 0x14 => some (s.mgt.patchBase.extractLsb' 32 32)
    | 0x18 => some 0
    | 0x1C => some s.mgt.patchStat
    | 0x50 => some (idxOf s path (0x380000 + r))
    | 0x54 => dataRead s path (0x380000 + r)
    | 0x58 => some (BitVec.ofNat 32 s.mgt.xlogWr)
    | 0x60 => some (s.mgt.smpBase.extractLsb' 0 32)
    | 0x64 => some (s.mgt.smpBase.extractLsb' 32 32)
    | 0x68 => some s.mgt.smpSize
    | 0x6C => some s.mgt.smpWr
    | 0x70 => some s.mgt.smpRd
    | 0x74 => some ((bit1 s.mgt.smpDropped).setWidth 32)
    | _ => paramWord s [0x02, 0x07, 0x0B, 0x0D] 0xFF r

/-- A write of a register of MGTm. MGT_PATCH_BASE holds the DLA in bits [44:0]; MGT_SMP_BASE a 4 KiB-aligned DLA, and MGT_SMP_SIZE_LOG2 6 to
16 (R379, R454). -/
def mgtWrite (m path r : Nat) (v : BitVec 32) (s : State) : Bool × State :=
  if r = 0x40 then idxWrite path (0x380000 + 0x40000 * m + r) v s
  else if r = 0x44 then dataWrite path (0x380000 + 0x40000 * m + r) v s
  else if m ≠ 0 then (true, s)
  else if 0x80 ≤ r && r < 0xC0 then smpWrite ((r - 0x80) / 4) v s
  else match r with
    | 0x10 => (true, { s with mgt.patchBase := setField s.mgt.patchBase 0 v })
    | 0x14 => (true, { s with mgt.patchBase := setField s.mgt.patchBase 32 (v &&& 0x1FFF) })
    | 0x18 => if v.getLsbD 0 then startPatch s else (true, s)
    | 0x50 => idxWrite path (0x380000 + r) v s
    | 0x54 => dataWrite path (0x380000 + r) v s
    | 0x60 => if fieldNat v 11 0 ≠ 0 then (false, s) else (true, { s with mgt.smpBase := setField s.mgt.smpBase 0 v })
    | 0x64 => (true, { s with mgt.smpBase := setField s.mgt.smpBase 32 v })
    | 0x68 => if 6 ≤ v.toNat && v.toNat ≤ 16 then (true, { s with mgt.smpSize := v }) else (false, s)
    | 0x70 => (true, { s with mgt.smpRd := v })
    | _ => (true, s)

/-! ## Reins, tiles and doorbells (R342, R475, R476) -/

/-- RNS_INSTi (Table 17.12). -/
def instReg (s : State) (i : Nat) : BitVec 32 :=
  let sum := resSum s (instRes i)
  place 32 31 (bit1 (decide (scaleOf s i < sum))) ||| place 32 16 (BitVec.ofNat 11 sum) ||| BitVec.ofNat 32 (scaleOf s i)
/-- RNS_OVERSUB. -/
def oversubReg (s : State) : BitVec 64 := place 64 63 (bit1 s.reins.standing) ||| s.reins.overMask.setWidth 64

/-- A register of RNS. -/
def rnsRead (s : State) (r : Nat) : Option (BitVec 32) :=
  if r = 0 then some (BitVec.ofNat 32 (designated s 0 + 2 ^ 8 * designated s 1 + 2 ^ 16 * designated s 2 + 2 ^ 24 * designated s 3))
  else if r = 4 then some (BitVec.ofNat 32 (designated s 4))
  else if r = 8 || r = 12 then some ((oversubReg s).extractLsb' (8 * (r - 8)) 32)
  else if 0x100 ≤ r && r < 0x1A0 then
    (if (instances s).contains ((r - 0x100) / 4) then some (instReg s ((r - 0x100) / 4)) else none)
  else if 0x1000 ≤ r && r < 0x2000 then some ((classRec s ((r - 0x1000) / 16)).extractLsb' (8 * (r % 16)) 32)
  else paramWord s [0x08] 0xFF r

/-- TILE_STAT. -/
def tileStat (s : State) (t : Nat) : BitVec 32 :=
  place 32 2 (BitVec.ofNat 7 (lineLoad s t + packLoad s t)) ||| BitVec.ofNat 32 (roleNow s t % 4)

/-! ## Any register -/

/-- A read of the register at a 4-byte-aligned offset of a block that is on; none is ERR_REG (R463). -/
def regRead (s : State) (path off : Nat) : Option (BitVec 32) :=
  match blkOf off with
  | (.aon, _, r) => if 0x20000 ≤ r then some (eventWord s ((r - 0x20000) / 32) (r % 32 / 4)) else aonRead s path r
  | (.dch, c, r) => dchRead s c path r
  | (.qb, b, r) => paramWord s [0x06] b r
  | (.afl, p, r) => aflRead s p path r
  | (.mgt, m, r) => mgtRead s m path r
  | (.rns, _, r) => rnsRead s r
  | (.tile, t, r) => if r = 0 then some (tileStat s t) else none
  | (.db, n, r) => some (if r = 0 then BitVec.ofNat 32 (rSqTail (ctxOf s n)) else BitVec.ofNat 32 (rCqHead (ctxOf s n)))
  | _ => none

/-- A write of the whole word `v` to the register at an offset that reads; `m` marks the bits of the enabled bytes. False is ERR_REG. A
doorbell acts when a byte of its field is enabled (R342). -/
def regWrite (path : Nat) (node : Node) (off : Nat) (v m : BitVec 32) (s : State) : Bool × State :=
  match blkOf off with
  | (.aon, _, r) => if 0x20000 ≤ r then eventWordWrite ((r - 0x20000) / 32) (r % 32 / 4) v s else aonWrite path r v s
  | (.dch, c, r) => dchWrite c path r v s
  | (.afl, p, r) => aflWrite p path r v s
  | (.mgt, c, r) => mgtWrite c path r v s
  | (.db, n, r) => if fieldNat m 15 0 = 0 then (true, s) else doorbell path node n (r ≠ 0) v s
  | _ => (true, s)

/-- A designated 64-bit pair starts at this 8-byte-aligned offset (R464, Tables 16.7, 17.6, 17.10 to 17.13). -/
def isPair (off : Nat) : Bool :=
  match blkOf off with
  | (.aon, _, r) => r = 0x08 || r = 0x20 || r = 0x28 || r = 0x40 || (0x20000 ≤ r && r % 32 < 16)
  | (.dch, _, r) => (paramPair [0x05] r).isSome
  | (.qb, _, r) => (paramPair [0x06] r).isSome
  | (.afl, _, r) => r = 0x08 || (paramPair [0x09] r).isSome
  | (.mgt, _, r) => r = 0x10 || r = 0x60 || (0x100 ≤ r && r < 0x180) || (paramPair [0x02, 0x07, 0x0B, 0x0D] r).isSome
  | (.rns, _, r) => r = 0x08 || (paramPair [0x08] r).isSome
  | (.db, _, _) => true
  | _ => false

/-- A write of a designated pair (R464): the ACK of an event is one 48-bit value (R450); the words of another pair stand for themselves. -/
def pairWrite (path : Nat) (node : Node) (off : Nat) (v m : BitVec 64) (s : State) : Bool × State :=
  let words (s : State) : Bool × State :=
    let (a, t) := regWrite path node off (v.extractLsb' 0 32) (m.extractLsb' 0 32) s
    let (b, t) := regWrite path node (off + 4) (v.extractLsb' 32 32) (m.extractLsb' 32 32) t
    (a && b, t)
  match blkOf off with
  | (.aon, _, r) =>
    if 0x20000 ≤ r && r % 32 = 8 then eventAck ((r - 0x20000) / 32) (v.extractLsb' 0 48) s else words s
  | _ => words s

/-- The bits of the enabled bytes (R464). -/
def byteMask (n : Nat) (be : BitVec 8) : BitVec n :=
  (List.range 8).foldl (fun acc i => if be.getLsbD i then acc ||| place n (8 * i) (0xFF : BitVec 8) else acc) 0

/-- What an access gives: whether it completes OK, and the data that a read returns. -/
structure Answer where
  /-- OK; false is ERR_REG. -/
  ok : Bool := false
  /-- The enabled bytes of a read, 0 in the others. -/
  data : BitVec 64 := 0
  deriving DecidableEq, Repr

/-- The width, alignment and byte enables of an access breach R464, or its block is absent or off (R463). -/
def accessBad (s : State) (off : Nat) (wide : Bool) (be : BitVec 8) : Bool :=
  let (b, i, _) := blkOf off
  off % (if wide then 8 else 4) ≠ 0 || (!wide && 16 ≤ be.toNat) || (wide && !isPair off) || !blkPresent s b i ||
    (b ≠ .aon && diesDark s)

/-- A 64-bit access of a pair. -/
def accessWide (path : Nat) (node : Node) (off : Nat) (write : Bool) (be : BitVec 8) (data : BitVec 64) (s : State) : Answer × State :=
  match regRead s path off, regRead s path (off + 4) with
  | some lo, some hi =>
    let old := lo.setWidth 64 ||| place 64 32 hi
    let m := byteMask 64 be
    if write then
      let (ok, s) := pairWrite path node off (old &&& ~~~m ||| data &&& m) m s
      ({ ok := ok }, s)
    else ({ ok := true, data := old &&& m }, s)
  | _, _ => ({}, s)

/-- A 32-bit access. -/
def accessWord (path : Nat) (node : Node) (off : Nat) (write : Bool) (be : BitVec 8) (data : BitVec 64) (s : State) : Answer × State :=
  match regRead s path off with
  | some old =>
    let m : BitVec 32 := byteMask 32 be
    if write then
      let (ok, t) := regWrite path node off (old &&& ~~~m ||| data.extractLsb' 0 32 &&& m) m s
      ({ ok := ok }, if ok then stepIdx path off t else t)
    else ({ ok := true, data := (old &&& m).setWidth 64 }, stepIdx path off s)
  | none => ({}, s)

/-- An access to the management window (R463 to R468). `node` is its source, which a doorbell checks. -/
def access (path : Nat) (node : Node) (off : Nat) (wide write : Bool) (be : BitVec 8) (data : BitVec 64) (s : State) : Answer × State :=
  if accessBad s off wide be then ({}, s)
  else
    let s := wakeBlk (blkOf off).1 (blkOf off).2.1 s
    if wide then accessWide path node off write be data s else accessWord path node off write be data s

/-- The source that an access over a path carries: the partner's node on a port, the device's own for I3C and firmware. -/
def pathNode (s : State) (path : Nat) : Node := if 1 ≤ path && path ≤ 4 then partnerNode (portOf s (path - 1)) else nodeId s

/-- The response that an access over I3C leaves for the private read (R462). -/
def leaveData (path n : Nat) (a : Answer) (write : Bool) (s : State) : State :=
  if path = 0 && a.ok && !write then { s with aon.i3cData := bytesOf a.data n } else s

/-- An access that a row names: carried by a path that can, answered, counted (R460, R467). -/
def accessRow (path off : Nat) (wide write : Bool) (be : BitVec 8) (data : BitVec 64) (s : State) : State :=
  if !pathOk s path || (path = 0 && s.aon.otpBusy) then s
  else
    let (a, s) := access path (pathNode s path) off wide write be data s
    busyStatus (leaveData path (if wide then 8 else 4) a write (regDone path (serving s path off) a.ok s))

/-- REGISTER_WRITE (R464). -/
def execRegisterWrite (path : Nat) (offset : BitVec 26) (be : BitVec 8) (data : BitVec 64) (wide : Bool) (s : State) : Out :=
  .next (accessRow path offset.toNat wide true be data s)

/-- INDIRECT_DATA_ACCESS (R468): a 32-bit access to a DATA register. -/
def execIndirectDataAccess (path : Nat) (offset : BitVec 26) (write : Bool) (be : BitVec 4) (data : BitVec 32) (s : State) : Out :=
  if isData offset.toNat then .next (accessRow path offset.toNat false write (be.setWidth 8) (data.setWidth 64) s) else .next s

/-- A row that writes AFLn_CTL. -/
def disableRow (path port : Nat) (d : Bool) (s : State) : Out :=
  .next (accessRow path (0x300004 + 0x10000 * port) false true 0xF (if d then 1 else 0) s)
/-- DISABLE (R474). -/
def execDisable (path port : Nat) (s : State) : Out := disableRow path port true s
/-- DISABLE_CLEAR (R474). -/
def execDisableClear (path port : Nat) (s : State) : Out := disableRow path port false s

/-! ## The I3C target (R461, R462) -/

/-- In Watch the first address of an I3C-mode controller is answered with NACK while the oscillator starts; while a command is BUSY every
private write is (R461). -/
def i3cNack (f : I3cFrame) (s : State) : Bool := s.aon.otpBusy || (s.aon.mode = .watch && !f.i2c && !s.aon.i3cWatch)

/-- The bytes of a command before its CRC (Table 17.1). -/
def frameBytes (cmd : Byte) (n : Nat) (f : I3cFrame) : List Byte := cmd :: (bytesOf f.offset 4 ++ f.be :: bytesOf f.data n)

/-- A private write with a command: `n` data bytes follow (R462). FRAME: wrong length or failed CRC, no effect. -/
def i3cCommand (cmd : Byte) (n : Nat) (wide write : Bool) (f : I3cFrame) (s : State) : Out :=
  if i3cNack f s then .next { s with aon.i3cWatch := s.aon.mode = .watch }
  else if !f.lenOk || (f.i2c && crc8 (frameBytes cmd n f) ≠ f.crc) then .next { s with aon.i3cStatus := 3, aon.i3cData := [] }
  else if 2 ^ 26 ≤ f.offset.toNat then .next (regDone 0 none false s)
  else .next (accessRow 0 f.offset.toNat wide write f.be f.data s)

/-- WRITE32 (R462). -/
def execWrite32 (f : I3cFrame) (s : State) : Out := i3cCommand 1 4 false true f s
/-- READ32 (R462). -/
def execRead32 (f : I3cFrame) (s : State) : Out := i3cCommand 2 0 false false f s
/-- WRITE64 (R462). -/
def execWrite64 (f : I3cFrame) (s : State) : Out := i3cCommand 3 8 true true f s
/-- READ64 (R462). -/
def execRead64 (f : I3cFrame) (s : State) : Out := i3cCommand 4 0 true false f s

/-- I3C_PRIVATE_READ (R462): the response is returned; a further read with no command between returns the status and no data. While BUSY only
the status is returned. -/
def execI3cPrivateRead (s : State) : Out := if s.aon.otpBusy then .next s else .next { s with aon.i3cData := [] }

/-- DYNAMIC_ADDRESS_ASSIGNMENT (R461): SETDASA or ENTDAA. -/
def execDynamicAddressAssignment (addr : BitVec 7) (s : State) : Out := .next { s with aon.i3cAddr := some addr }

/-! ## Parity (R466) -/

/-- Reload a register of AON or an event record. -/
def reloadAon (r : Nat) (s : State) : Option State :=
  if 0x20000 ≤ r then
    let id := (r - 0x20000) / 32
    if !eventImpl s.fuse.variantH id then none
    else match r % 32 / 4 with
      | 2 => some (driveAlert { s with ev.ack := smod 0 s.ev.ack id (fun a => setField a 0 (0 : BitVec 32)) })
      | 3 => some (driveAlert { s with ev.ack := smod 0 s.ev.ack id (fun a => setField a 32 (0 : BitVec 16)) })
      | 4 => some (driveAlert { s with ev.ctl := sset none s.ev.ctl id none })
      | _ => none
  else match r with
    | 0x00 | 0x08 | 0x0C => some s
    | 0x10 => some { s with aon.maintNext := false, aon.gaitMax := 3 }
    | 0x18 => some { s with aon.pwrCfg := 0x028A4000 }
    | 0x58 => some { s with aon.ceCfg := 0x84018080 }
    | 0x5C => some { s with frz.onFatal := true }
    | 0x60 => some { s with aon.xidx := [] }
    | 0x68 => some { s with aon.ppdIdx := [] }
    | _ => none

/-- Reload the register at an offset from its source: the effective configuration, OTP, or its reset value (R466). An RO register loaded from
the harness or from OTP is computed from its source in this model. None: the register carries no parity. An IDX register has one copy per
path, and each is reloaded. -/
def reloadReg (off : Nat) (s : State) : Option State :=
  match blkOf off with
  | (.aon, _, r) => reloadAon r s
  | (.dch, c, r) =>
    if r = 0 then some (modChan c (fun x => { x with wdrain := 0x00103002 ||| x.wdrain &&& 1 }) s)
    else if 0x20 ≤ r && r < 0x38 then
      some (modChan c (fun x => { x with xmap := sset 0 x.xmap ((r - 0x20) / 4) (harnessMask s c ((r - 0x20) / 4)) }) s)
    else if r = 0x40 then some (modChan c (fun x => { x with phyIdx := [] }) s)
    else (paramPair [0x05] r).map (fun _ => s)
  | (.qb, _, r) => (paramPair [0x06] r).map (fun _ => s)
  | (.afl, p, r) =>
    if r = 4 then some (portDisable p false s)
    else if r = 0x40 then some (modPort p (fun x => { x with serdesIdx := [] }) s)
    else (paramPair [0x09] r).map (fun _ => s)
  | (.mgt, m, r) =>
    if r = 0x40 then some { s with rings.ctxIdx := s.rings.ctxIdx.filter (fun e => e.1 / 2 ^ 20 ≠ m) }
    else if m ≠ 0 then none
    else if 0x80 ≤ r && r < 0xC0 then some (setSmp ((r - 0x80) / 4) {} s)
    else match r with
      | 0x10 => some { s with mgt.patchBase := setField s.mgt.patchBase 0 (0 : BitVec 32) }
      | 0x14 => some { s with mgt.patchBase := setField s.mgt.patchBase 32 (0 : BitVec 32) }
      | 0x50 => some { s with mgt.xlogIdx := [] }
      | 0x60 => some { s with mgt.smpBase := setField s.mgt.smpBase 0 (0 : BitVec 32) }
      | 0x64 => some { s with mgt.smpBase := setField s.mgt.smpBase 32 (0 : BitVec 32) }
      | 0x68 => some { s with mgt.smpSize := 6 }
      | 0x70 => some { s with mgt.smpRd := 0 }
      | _ => (paramPair [0x02, 0x07, 0x0B, 0x0D] r).map (fun _ => s)
  | (.rns, _, r) => if r < 8 || (0x1000 ≤ r && r < 0x2000) || (paramPair [0x08] r).isSome then some s else none
  | _ => none

/-- PARITY_SWEEP (R466): a mismatch reloads the register and logs CONFIG_FAULT with its offset. -/
def execParitySweep (offset : BitVec 26) (mismatch : Bool) (s : State) : Out :=
  let off := offset.toNat
  let (b, i, _) := blkOf off
  if !mismatch || off % 4 ≠ 0 || !blkPresent s b i || (b ≠ .aon && diesDark s) then .next s
  else match reloadReg off s with
    | some s => .next (logIt { cause := 0x6C, src := blkEndpoint b i, kind := 5, addr := off } s)
    | none => .next s

end Sys2Proof.Machine
end

