-- ==== Sys2Proof/Machine/Messages.lean ====
section
/-! DEFINITION. Management packets, SPDM messages, the messages of link partners, and the timeouts of Fabric topology (R185, R310 to
R315). -/

namespace Sys2Proof.Machine

open Sys2Proof

/-! ## Packets of the management class (R314, R315, R389) -/

/-- An answer in the response layout to a packet of the request layout. -/
def answerPkt (port : Nat) (op : BitVec 8) (dst : Node) (tag : Tag) (status : BitVec 4) (body : List (BitVec 128)) (s : State) : State :=
  sendPkt port { hdr := rspHdr op dst (nodeId s) tag status {}, body := body } s

/-- In Harnessing and Recovery a management or SPDM packet waits while MGMT_CLASS is at its OUT_CAP (R389). -/
def mgmtWaits (s : State) : Bool :=
  (s.aon.mode = .harnessing || s.aon.mode = .recovery) && outCap s (designated s 0) ≤ sget 0 s.reins.outst (designated s 0)

/-- The packet stays in the receive buffer until it can be served. -/
def keepRx (port : Nat) (k : Pkt) (s : State) : State :=
  if (portOf s port).rx.any (fun x => pktOp x = pktOp k && pktSrc x = pktSrc k && pktTag x = pktTag k) then s
  else modPort port (fun q => { q with rx := q.rx ++ [k] }) s

/-- A management or SPDM packet reaches the device (R21, R300, R314): what answers or discards it before it is served, and what serves
it. -/
def mgmtClass (port : Nat) (op : BitVec 8) (src dst : Node) (tag : Tag) (k : Pkt) (serve : State → State) (s : State) : State :=
  if diesDark s then s
  else if mgmtWaits s then keepRx port k s
  else
    let s := evAfl port 14 (takeRx port op src tag s)
    if duplicate s { src := src, tag := tag } then pktInvalid port op src tag 5 s
    else if dst ≠ nodeId s then answerPkt port 0x5E src tag 2 [] (pktInvalid port op src tag 4 s)
    else if !mgmtEnable s port then answerPkt port 0x5E src tag 2 [] s
    else serve s

/-- A management packet as it stands in a receive buffer (Tables 10.4, 10.8). -/
def mgmtPkt (op : BitVec 8) (m : Mgmt) : Pkt :=
  { hdr := place 128 0 op ||| place 128 8 m.dst ||| place 128 25 m.src ||| place 128 42 m.tag ||| place 128 56 m.offset |||
      place 128 82 m.be ||| place 128 90 (bit1 m.wide),
    body := if op = 0x31 then [m.data.setWidth 128] else [] }

/-- A management access over a port (R314): it is answered with MGMT_RD_RSP or MGMT_WR_RSP, or with ERR_CMP and ERR_REG. -/
def mgmtAccess (write : Bool) (m : Mgmt) (s : State) : State :=
  let path := m.port + 1
  let (a, s) := access path m.src m.offset.toNat m.wide write m.be m.data s
  let s := evMgt (m.port / 2) 3 (regDone path (serving s path m.offset.toNat) a.ok s)
  let s := if !a.ok then answerPkt m.port 0x5E m.src m.tag 4 [] s
    else if write then answerPkt m.port 0x61 m.src m.tag 0 [] s
    else answerPkt m.port 0x60 m.src m.tag 0 [a.data.setWidth 128] s
  settle s

/-- MGMT_RD (R314). -/
def execMgmtRd (m : Mgmt) (s : State) : Out := .next (mgmtClass m.port 0x30 m.src m.dst m.tag (mgmtPkt 0x30 m) (mgmtAccess false m) s)
/-- MGMT_WR (R314). -/
def execMgmtWr (m : Mgmt) (s : State) : Out := .next (mgmtClass m.port 0x31 m.src m.dst m.tag (mgmtPkt 0x31 m) (mgmtAccess true m) s)

/-! ## SPDM (R95, R315) -/

/-- The header of an SPDM_MSG or SPDM_RSP fragment (R315). -/
def spdmHdr (op : BitVec 8) (dst src : Node) (tag : Tag) (len idx : Nat) (last : Bool) (msgId : BitVec 8) : BitVec 128 :=
  place 128 0 op ||| place 128 8 dst ||| place 128 25 src ||| place 128 42 tag ||| place 128 56 (BitVec.ofNat 8 len) |||
    place 128 64 (BitVec.ofNat 8 idx) ||| place 128 72 (bit1 last) ||| place 128 73 msgId

/-- Bytes in 16-byte slots. -/
def byteSlots (l : List Byte) : List (BitVec 128) := (List.range (ceilDiv l.length 16)).map (fun i => wordOf 128 ((l.drop (16 * i)).take 16))

/-- The fragments of an SPDM answer of `l`, 208 bytes each. -/
def spdmFragments (dst src : Node) (tag : Tag) (msgId : BitVec 8) (l : List Byte) : List Pkt :=
  let n := ceilDiv l.length 208
  (List.range n).map (fun i =>
    let part := (l.drop (208 * i)).take 208
    { hdr := spdmHdr 0x62 dst src tag part.length i (i + 1 = n) msgId, body := byteSlots part })

/-- The key of a reassembly: port and MSG_ID. -/
def spdmKey (m : Spdm) : Nat := m.port * 256 + m.msgId.toNat

/-- A whole SPDM message is processed (R315): the answer goes out in fragments, and a key transport slot that it names is filled (R95). -/
def spdmDone (m : Spdm) (bytes : List Byte) (s : State) : State :=
  let k := s.free
  let s := evMgt (m.port / 2) 5 { s with free := k + 1 }
  let s := match Config.spdmKtk k bytes with
    | some (slot, key) => { s with sec.ktk := sset none s.sec.ktk slot.toNat (some key) }
    | none => s
  (spdmFragments m.src (nodeId s) m.tag m.msgId (Config.spdmAnswer k bytes)).foldl (fun t p => sendPkt m.port p t) s

/-- An SPDM fragment (R315): one with a gap, a length of 0 B or above 208 B, or of a second message with the MSG_ID in progress ends the
reassembly and is logged PKT_INVALID. -/
def spdmFragment (m : Spdm) (s : State) : State :=
  let r := sget {} s.mgt.spdm (spdmKey m)
  let next := if r.active then r.nextIdx else 0
  let clear (s : State) : State := { s with mgt.spdm := sset {} s.mgt.spdm (spdmKey m) {} }
  if m.fragLen = 0 || 208 < m.fragLen.toNat || m.fragIndex ≠ next || (r.active && m.fragIndex = 0) then
    pktInvalid m.port 0x32 m.src m.tag 7 (clear s)
  else
    let bytes := r.bytes ++ m.bytes.take m.fragLen.toNat
    if m.last then spdmDone m bytes (clear s)
    else { s with mgt.spdm := sset {} s.mgt.spdm (spdmKey m) { active := true, msgId := m.msgId, nextIdx := next + 1, bytes := bytes } }

/-- SPDM_MSG (R315). -/
def execSpdmMsg (m : Spdm) (s : State) : Out :=
  let k : Pkt := { hdr := spdmHdr 0x32 m.dst m.src m.tag m.fragLen.toNat m.fragIndex.toNat m.last m.msgId, body := byteSlots m.bytes }
  .next (mgmtClass m.port 0x32 m.src m.dst m.tag k (spdmFragment m) s)

/-! ## Messages (R312, R313) -/

/-- A latency tolerance as a port keeps it: NO_REQ at bit 31, nanoseconds in [29:0], saturating (R312, Table 17.11). -/
def tolWord (noReq : Bool) (scale : BitVec 3) (value : BitVec 10) : BitVec 32 :=
  if noReq then 0x80000000 else BitVec.ofNat 32 (min (value.toNat * 32 ^ scale.toNat) (2 ^ 30 - 1))

/-- LAT_TOL (R312): the port keeps it and the gait is chosen anew. A reserved SCALE is discarded and counted; on a link without the feature
the packet is invalid (R296). -/
def execLatTol (port : Nat) (src dst : Node) (noReq : Bool) (scale : BitVec 3) (value : BitVec 10) (s : State) : Out :=
  if diesDark s then .next s
  else
    let tag : Tag := place 14 0 value ||| place 14 10 scale ||| place 14 13 (bit1 noReq)
    let s := evAfl port 15 (takeRx port 0x70 src tag s)
    if dst ≠ nodeId s then .next (pktInvalid port 0x70 src tag 4 s)
    else if !(portOf s port).features.getLsbD 1 then .next (pktInvalid port 0x70 src tag 2 s)
    else
      let s := evAfl port 21 s
      if !noReq && 6 ≤ scale.toNat then .next s
      else .next (gaitFall (modPort port (fun q => { q with latTol := some (tolWord noReq scale value) }) s))

/-- POWER_WARN (R313): a peer's message is counted, and no action is taken. -/
def execPowerWarn (port : Nat) (src : Node) (tide : BitVec 64) (cause : BitVec 4) (s : State) : Out :=
  if diesDark s then .next s
  else
    let tag : Tag := place 14 0 cause ||| place 14 4 (tide.extractLsb' 0 10)
    .next (evAfl port 15 { takeRx port 0x71 src tag s with quay.peerWarn := s.quay.peerWarn + 1 })

/-! ## Timeouts of Fabric topology (R177, R185, R310) -/

/-- SNOOP_TIMEOUT_EXPIRY (R185): a snoop of the node under the tag has failed; else a CMP_ACK of the node's request is treated as received. -/
def execSnoopTimeoutExpiry (node : Node) (tag : Tag) (s : State) : Out :=
  if direct s then .next s
  else if s.quay.txns.any (fun t => t.snoops.any (fun o => o.node = node && o.tag = tag)) then .next (settle (snoopFails node tag true s))
  else .next (settle (ackGrant node tag s))

/-- DEVICE_REQUEST_TIMEOUT (R310): the device's own request completes with a synthetic ERR_NODATA, and its tag rests for TAG_QUIET (R292). -/
def execDeviceRequestTimeout (node : Node) (tag : Tag) (s : State) : Out :=
  if direct s then .next s
  else match s.quay.devReqs.find? (fun d => d.dst = node && d.tag = tag && d.status.isNone) with
    | some d => .next (synthetic (portTo s node) d s)
    | none => .next s

end Sys2Proof.Machine
end

