-- ==== Sys2Proof/Machine/Electrical.lean ====
section
/-! DEFINITION. Thermal supervision, lost clocks, the debug access port, PCIe peers, and the supplies of the PPD and of AON (R126,
R127, R415, R484, R493). -/

namespace Sys2Proof.Machine

open Sys2Proof

/-! ## Thermal supervision (R493) -/

/-- AON's own thermal sensor; sensors 8d to 8d + 7 are die d's. -/
def aonSensor : Nat := 16
/-- A thermal sensor that the variant has (R6). -/
def sensorExists (s : State) (sensor : Nat) : Bool := sensor = aonSensor || sensor < 8 * numDies s

/-- A thermal sensor is read: DIE_HOT is logged once per excursion, which ends when every sensor reads below 100 °C. -/
def readSensor (sensor temp : Nat) (s : State) : State :=
  let s := { s with aon.sensors := sset 0 s.aon.sensors sensor temp }
  let s := { s with aon.dieHot := s.aon.dieHot && s.aon.sensors.any (fun e => 100 ≤ e.2) }
  if 105 ≤ temp && !s.aon.dieHot then logIt { cause := 0x6D, src := epAon } { s with aon.dieHot := true } else s

/-- DIE_HOT (R493): a reading of a thermal sensor. -/
def execDieHot (sensor : Nat) (temp : Nat) (s : State) : Out :=
  if sensorExists s sensor then .next (driveAlert (readSensor sensor temp s)) else .next s

/-- THERMTRIP (R493): from 120 °C, AON forces a device-scope reset, and only the DDRQ and IO rails stay enabled. -/
def execThermtrip (sensor : Nat) (temp : Nat) (s : State) : Out :=
  if !sensorExists s sensor then .next s
  else
    let s := readSensor sensor temp s
    if temp < 120 || s.aon.thermTrip then .next (driveAlert s)
    else
      let s := railsWatch (deviceReset false s)
      .next (driveAlert (logIt { cause := 0x6E, src := epAon } { s with aon.thermTrip := true }))

/-- THERMTRIP_RECOVERY (R493): AON's own sensor has read below 95 °C for 10 s. -/
def execThermtripRecovery (temp : Nat) (s : State) : Out :=
  let s := readSensor aonSensor temp s
  if !s.aon.thermTrip || 95 ≤ temp then .next s
  else .next (railsUp { s with aon.thermTrip := false })

/-! ## Lost clocks (R484) -/

/-- XTAL_FAIL (R484): a stopped 25 MHz crystal leaves the tide counter on the internal oscillator and CAL_VALID at 0. The crystal that Watch
stops has not failed. -/
def execXtalFail (slow : Bool) (s : State) : Out :=
  if slow then
    if s.time.slowFail then .next s
    else .next (driveAlert (logIt { cause := 0x6F, src := epAon } { s with time.slowFail := true }))
  else if s.time.fastFail || s.time.stopped then .next s
  else .next (driveAlert (logIt { cause := 0x6F, src := epAon } { s with time.fastFail := true, time.calValid := false }))

/-- The AFL reference of a port's die is lost: its link goes down, and training stops (R288, R291). -/
def portRefLost (s : State) (p : Nat) : State :=
  let q := portOf s p
  let s := if portUp s p then linkLost p 0 s else if q.st = .off then s else backToDetect p s
  modPort p (fun q => { q with refLost := true }) s

/-- REFCLK_LOSS (R484): the ports of a die, or the SSDs of a root port, lose their links. -/
def execRefclkLoss (pcie : Bool) (inst : Nat) (s : State) : Out :=
  if diesDark s || numDies s ≤ inst then .next s
  else if pcie then .next (settle (portTimeouts inst s))
  else .next (settle (((List.range (numPorts s)).filter (fun p => p / 2 = inst)).foldl portRefLost s))

/-! ## PCIe peers (R127) -/

/-- A page that a PCIe peer may reach: SEALED = 0, outside every sealed range. -/
def peerOpen (s : State) (page : Nat) : Bool := !dSealed (descOf s page) && (sealRange s page).isNone

/-- PCIE_PEER_ACCESS (R127): an accepted access runs as one of the device's own, RD_CUR or WR_PART, in LEDGER_CLASS, under a tag that
names its root port; its completion holds the data. A refused one is logged: a read is answered with Completer Abort, a write is
discarded. -/
def execPciePeerAccess (peNo : Nat) (reqId : BitVec 16) (addr : BitVec 64) (write : Bool) (mask : BitVec 64) (data : BitVec 512)
    (s : State) : Out :=
  let l : Line := BitVec.ofNat 39 (addr.toNat / 64)
  if diesDark s || numDies s ≤ peNo || capacity s ≤ addr.toNat then .next s
  else if !peerOpen s (pageOf l) then
    let s := if write then s else { s with quay.peerAns := sset none s.quay.peerAns peNo (some { abort := true }) }
    .next (driveAlert (evPe peNo 10 (logIt { cause := 0x05, src := epPe peNo, kind := 1, addr := addr.toNat,
                                             args := [reqId.toNat, peNo] } s)))
  else
    let op : BitVec 8 := if write then 0x09 else 0x01
    let r : Req := { op := op, src := nodeId s, dst := nodeId s, tag := BitVec.ofNat 14 (peNo + 1), line := foldLine (indexBits s) l,
                     cls := BitVec.ofNat 8 (designated s 4),
                     deadline := BitVec.ofNat 12 (fieldNat (classRec s (designated s 4)) 66 55), mask := mask, data := data }
    if s.aon.mode = .service || s.aon.mode = .drain || (s.aon.mode = .holdup && holdupServes s r) then .next (admitNew (tick s) r s)
    else .next s

/-! ## The debug access port (R126) -/

/-- A frame that the debug access port may not reach: a berth of a sealed page, a granule frame with a run of one, and the counter,
key-table and descriptor frames (Table 13.7). -/
def debugBarred (s : State) (dfa : Nat) : Bool :=
  let e := frameEntry s dfa
  let x := sget 0 s.dram.runIdx dfa
  (fUse e = 1 && dSealed (descOf s (fPage e))) ||
  (fUse e = 2 && (List.range 12).any (fun i => match runRec x i with
    | some (_, page) => dSealed (descOf s page)
    | none => false)) ||
  (match regionOf s dfa with
    | some (code, _) => code = 1 || (6 ≤ code && code ≤ 0x10)
    | none => false)

/-- DEBUG_ACCESS (R126): a line as stored, data and check bits. A refused access is logged: a read returns zeros, a write has no effect. A
frame beyond the last channel set is invalid (R132). A channel set that is offline answers nothing (R156). -/
def execDebugAccess (addr : LineAddr) (write : Bool) (data : BitVec 640) (s : State) : Out :=
  if diesDark s || !s.aon.loaded then .next s
  else if totalFrames s ≤ addr.toNat / 64 then .fault .invalidFrame
  else if debugBarred s (addr.toNat / 64) then
    let s := if write then s else { s with aon.dbgData := 0 }
    .next (driveAlert (logIt { cause := 0x04, src := epAon, kind := 2, addr := addr.toNat, args := [if write then 2 else 1] } s))
  else if lineOffline s addr.toNat then .next s
  else if write then .next (putStored addr.toNat data s)
  else .next { s with aon.dbgData := lineStored s addr.toNat }

/-! ## Supplies (R415) -/

/-- PPD_POWER_ON (R415): the PPD leaves reset. -/
def execPpdPowerOn (slots : BitVec 32) (bays : BitVec 16) (s : State) : Out :=
  if s.ppd.powered then .next s else .next (ppdReset slots bays s)

/-- AON_SUPPLY_LOSS (R415): with every PPD input below 8.0 V only fuses, OTP, the SPI NOR and the SSDs keep what they hold. -/
def execAonSupplyLoss (s : State) : Out :=
  let s := dramLost (diesOff s)
  .next { fuse := s.fuse, nor := { s.nor with triedOther := false }, led := s.led, free := s.free, pending := s.pending }

end Sys2Proof.Machine
end

