-- ==== Sys2Proof/Machine/Dispatch.lean ====
section
/-! DEFINITION. The dispatch of the commands to their meanings: one arm per row of spec/opcode_table.json. -/

namespace Sys2Proof.Machine

open Sys2Proof

/-- The effect of a command on everything but the queue. -/
def exec (i : Instr) (s : State) : Host.Outcome State Fault Refusal :=
  match i with
  | .rdCur r => Sys2Proof.Machine.execRdCur r s
  | .rdShared r => Sys2Proof.Machine.execRdShared r s
  | .rdOwn r => Sys2Proof.Machine.execRdOwn r s
  | .upgrade r => Sys2Proof.Machine.execUpgrade r s
  | .wrFull r => Sys2Proof.Machine.execWrFull r s
  | .wrPart r => Sys2Proof.Machine.execWrPart r s
  | .atAdd r => Sys2Proof.Machine.execAtAdd r s
  | .atSwap r => Sys2Proof.Machine.execAtSwap r s
  | .atCas r => Sys2Proof.Machine.execAtCas r s
  | .atAnd r => Sys2Proof.Machine.execAtAnd r s
  | .atOr r => Sys2Proof.Machine.execAtOr r s
  | .atXor r => Sys2Proof.Machine.execAtXor r s
  | .atSmin r => Sys2Proof.Machine.execAtSmin r s
  | .atSmax r => Sys2Proof.Machine.execAtSmax r s
  | .atUmin r => Sys2Proof.Machine.execAtUmin r s
  | .atUmax r => Sys2Proof.Machine.execAtUmax r s
  | .evictClean r => Sys2Proof.Machine.execEvictClean r s
  | .evictDirty r => Sys2Proof.Machine.execEvictDirty r s
  | .cmpAck p => Sys2Proof.Machine.execCmpAck p s
  | .rspI p => Sys2Proof.Machine.execRspI p s
  | .rspS p => Sys2Proof.Machine.execRspS p s
  | .rspIClean p => Sys2Proof.Machine.execRspIClean p s
  | .rspIData p => Sys2Proof.Machine.execRspIData p s
  | .rspSData p => Sys2Proof.Machine.execRspSData p s
  | .rspFwd p => Sys2Proof.Machine.execRspFwd p s
  | .snpInv r => Sys2Proof.Machine.execSnpInv r s
  | .snpShare r => Sys2Proof.Machine.execSnpShare r s
  | .snpFwdS r => Sys2Proof.Machine.execSnpFwdS r s
  | .dataE p => Sys2Proof.Machine.execDataE p s
  | .dataS p => Sys2Proof.Machine.execDataS p s
  | .dataF p => Sys2Proof.Machine.execDataF p s
  | .dataI p => Sys2Proof.Machine.execDataI p s
  | .cmpE p => Sys2Proof.Machine.execCmpE p s
  | .cmp p => Sys2Proof.Machine.execCmp p s
  | .atmData p => Sys2Proof.Machine.execAtmData p s
  | .wbAck p => Sys2Proof.Machine.execWbAck p s
  | .errCmp p => Sys2Proof.Machine.execErrCmp p s
  | .lateAlarm p => Sys2Proof.Machine.execLateAlarm p s
  | .mgmtRd m => Sys2Proof.Machine.execMgmtRd m s
  | .mgmtWr m => Sys2Proof.Machine.execMgmtWr m s
  | .spdmMsg m => Sys2Proof.Machine.execSpdmMsg m s
  | .latTol port src dst noReq scale value => Sys2Proof.Machine.execLatTol port src dst noReq scale value s
  | .powerWarn port src tide cause => Sys2Proof.Machine.execPowerWarn port src tide cause s
  | .snoopTimeoutExpiry node tag => Sys2Proof.Machine.execSnoopTimeoutExpiry node tag s
  | .deviceRequestTimeout node tag => Sys2Proof.Machine.execDeviceRequestTimeout node tag s
  | .dramReadComplete addr err => Sys2Proof.Machine.execDramReadComplete addr err s
  | .lineRereadComplete addr err => Sys2Proof.Machine.execLineRereadComplete addr err s
  | .tagTestComplete node tag => Sys2Proof.Machine.execTagTestComplete node tag s
  | .verdictArrival port node tag => Sys2Proof.Machine.execVerdictArrival port node tag s
  | .keyContextFill keyId => Sys2Proof.Machine.execKeyContextFill keyId s
  | .warmLineDecode line bad => Sys2Proof.Machine.execWarmLineDecode line bad s
  | .demandFaultReadComplete page ok => Sys2Proof.Machine.execDemandFaultReadComplete page ok s
  | .demandFaultInstallComplete page => Sys2Proof.Machine.execDemandFaultInstallComplete page s
  | .lineEviction line => Sys2Proof.Machine.execLineEviction line s
  | .partialLineMerge line err => Sys2Proof.Machine.execPartialLineMerge line err s
  | .decayEpochAdvance => Sys2Proof.Machine.execDecayEpochAdvance s
  | .scannerVisit => Sys2Proof.Machine.execScannerVisit s
  | .demotionComplete page => Sys2Proof.Machine.execDemotionComplete page s
  | .promotionComplete page => Sys2Proof.Machine.execPromotionComplete page s
  | .compactionMoveComplete page => Sys2Proof.Machine.execCompactionMoveComplete page s
  | .relocationLineCopy page err => Sys2Proof.Machine.execRelocationLineCopy page err s
  | .rekeyPageConversion engine => Sys2Proof.Machine.execRekeyPageConversion engine s
  | .refreshDue ch sub rank cid ba => Sys2Proof.Machine.execRefreshDue ch sub rank cid ba s
  | .rdWindowStart => Sys2Proof.Machine.execRdWindowStart s
  | .rdThresholdReached ch bank row => Sys2Proof.Machine.execRdThresholdReached ch bank row s
  | .writeDrainEntry ch => Sys2Proof.Machine.execWriteDrainEntry ch s
  | .writeDrainExit ch => Sys2Proof.Machine.execWriteDrainExit ch s
  | .thermalSensorRead ch slot temp => Sys2Proof.Machine.execThermalSensorRead ch slot temp s
  | .pmicStatusRead ch slot fault => Sys2Proof.Machine.execPmicStatusRead ch slot fault s
  | .pmicInterrupt ch slot fault => Sys2Proof.Machine.execPmicInterrupt ch slot fault s
  | .dimmAlert ch sub rank ok => Sys2Proof.Machine.execDimmAlert ch sub rank ok s
  | .devMarkWinStart => Sys2Proof.Machine.execDevMarkWinStart s
  | .devMarked ch sub rank cid dev => Sys2Proof.Machine.execDevMarked ch sub rank cid dev s
  | .scrubRead ch => Sys2Proof.Machine.execScrubRead ch s
  | .selfRefreshEntry ch => Sys2Proof.Machine.execSelfRefreshEntry ch s
  | .selfRefreshExit ch patternOk trainOk => Sys2Proof.Machine.execSelfRefreshExit ch patternOk trainOk s
  | .fullTraining ch ok pop => Sys2Proof.Machine.execFullTraining ch ok pop s
  | .calRecordRestore ch checksOk pop => Sys2Proof.Machine.execCalRecordRestore ch checksOk pop s
  | .dirtyCeilingWindow => Sys2Proof.Machine.execDirtyCeilingWindow s
  | .flushBwProbe bytes => Sys2Proof.Machine.execFlushBwProbe bytes s
  | .wbAgeExpiry page => Sys2Proof.Machine.execWbAgeExpiry page s
  | .segmentWritesComplete seq => Sys2Proof.Machine.execSegmentWritesComplete seq s
  | .segCommit seq => Sys2Proof.Machine.execSegCommit seq s
  | .nvmeWriteFailed seq => Sys2Proof.Machine.execNvmeWriteFailed seq s
  | .mapBlockWriteback block => Sys2Proof.Machine.execMapBlockWriteback block s
  | .hotListRewrite => Sys2Proof.Machine.execHotListRewrite s
  | .smartLogPoll ssd critical fatal => Sys2Proof.Machine.execSmartLogPoll ssd critical fatal s
  | .ledgerTimeoutExpiry ssd => Sys2Proof.Machine.execLedgerTimeoutExpiry ssd s
  | .ssdResetTimeout ssd => Sys2Proof.Machine.execSsdResetTimeout ssd s
  | .ssdReady ssd ident => Sys2Proof.Machine.execSsdReady ssd ident s
  | .holdupEntry => Sys2Proof.Machine.execHoldupEntry s
  | .holdupFreeze => Sys2Proof.Machine.execHoldupFreeze s
  | .dirtyListCommitted => Sys2Proof.Machine.execDirtyListCommitted s
  | .holdupFlushCommitted => Sys2Proof.Machine.execHoldupFlushCommitted s
  | .holdDoneWritten => Sys2Proof.Machine.execHoldDoneWritten s
  | .watchEntry => Sys2Proof.Machine.execWatchEntry s
  | .holdupEnergyCheck eStore => Sys2Proof.Machine.execHoldupEnergyCheck eStore s
  | .feedReturnInHoldup => Sys2Proof.Machine.execFeedReturnInHoldup s
  | .watchPeriodSample eStore slotFault => Sys2Proof.Machine.execWatchPeriodSample eStore slotFault s
  | .watchExit => Sys2Proof.Machine.execWatchExit s
  | .tideResume slowCycles => Sys2Proof.Machine.execTideResume slowCycles s
  | .slowPeriodCalibration crystalCycles => Sys2Proof.Machine.execSlowPeriodCalibration crystalCycles s
  | .ledgerReplay => Sys2Proof.Machine.execLedgerReplay s
  | .manifestChoice => Sys2Proof.Machine.execManifestChoice s
  | .pendingFrameRestore frame => Sys2Proof.Machine.execPendingFrameRestore frame s
  | .backgroundRestorePage => Sys2Proof.Machine.execBackgroundRestorePage s
  | .restoreFirstPassEnd => Sys2Proof.Machine.execRestoreFirstPassEnd s
  | .feedsFailInRecovery => Sys2Proof.Machine.execFeedsFailInRecovery s
  | .budgetWindowStart => Sys2Proof.Machine.execBudgetWindowStart s
  | .ageLimitExpiry src tag => Sys2Proof.Machine.execAgeLimitExpiry src tag s
  | .overdueLimitReached src tag => Sys2Proof.Machine.execOverdueLimitReached src tag s
  | .capHoldRelease port cls => Sys2Proof.Machine.execCapHoldRelease port cls s
  | .detectStep port lanes => Sys2Proof.Machine.execDetectStep port lanes s
  | .ts1 port lane ts => Sys2Proof.Machine.execTs1 port lane ts s
  | .ts2 port lane ts => Sys2Proof.Machine.execTs2 port lane ts s
  | .pollTimeout port => Sys2Proof.Machine.execPollTimeout port s
  | .configTimeout port => Sys2Proof.Machine.execConfigTimeout port s
  | .eqTimeout port => Sys2Proof.Machine.execEqTimeout port s
  | .retrainTimeout port => Sys2Proof.Machine.execRetrainTimeout port s
  | .ts1LossTimeout port => Sys2Proof.Machine.execTs1LossTimeout port s
  | .payloadFlit port flit => Sys2Proof.Machine.execPayloadFlit port flit s
  | .idleFlit port flit => Sys2Proof.Machine.execIdleFlit port flit s
  | .badFlit port flit => Sys2Proof.Machine.execBadFlit port flit s
  | .ackTimeoutExpiry port => Sys2Proof.Machine.execAckTimeoutExpiry port s
  | .laneFailed port lane dir symbols => Sys2Proof.Machine.execLaneFailed port lane dir symbols s
  | .wPropose port id arg => Sys2Proof.Machine.execWPropose port id arg s
  | .wAccept port id arg => Sys2Proof.Machine.execWAccept port id arg s
  | .wReject port id arg => Sys2Proof.Machine.execWReject port id arg s
  | .wSwitch port id arg => Sys2Proof.Machine.execWSwitch port id arg s
  | .lpReq port id arg => Sys2Proof.Machine.execLpReq port id arg s
  | .lpAck port id arg => Sys2Proof.Machine.execLpAck port id arg s
  | .lpNak port id arg => Sys2Proof.Machine.execLpNak port id arg s
  | .linkOff port id arg => Sys2Proof.Machine.execLinkOff port id arg s
  | .widthCapChange port code => Sys2Proof.Machine.execWidthCapChange port code s
  | .lmcTimeoutExpiry port => Sys2Proof.Machine.execLmcTimeoutExpiry port s
  | .laneLockTimeout port => Sys2Proof.Machine.execLaneLockTimeout port s
  | .lowPowerExit port => Sys2Proof.Machine.execLowPowerExit port s
  | .lowPowerExitTimeout port => Sys2Proof.Machine.execLowPowerExitTimeout port s
  | .tagQuietExpiry node tag => Sys2Proof.Machine.execTagQuietExpiry node tag s
  | .eventMsg port event => Sys2Proof.Machine.execEventMsg port event s
  | .rsvReq q => Sys2Proof.Machine.execRsvReq q s
  | .rsvGrant q => Sys2Proof.Machine.execRsvGrant q s
  | .rsvRevoke q => Sys2Proof.Machine.execRsvRevoke q s
  | .rsvReturn q => Sys2Proof.Machine.execRsvReturn q s
  | .domainDrainComplete dom => Sys2Proof.Machine.execDomainDrainComplete dom s
  | .domainWake dom => Sys2Proof.Machine.execDomainWake dom s
  | .domainWakeComplete dom => Sys2Proof.Machine.execDomainWakeComplete dom s
  | .nocUe router port => Sys2Proof.Machine.execNocUe router port s
  | .bridgeUnitReplay bridge => Sys2Proof.Machine.execBridgeUnitReplay bridge s
  | .routeEpochSwitch => Sys2Proof.Machine.execRouteEpochSwitch s
  | .epochRetirement => Sys2Proof.Machine.execEpochRetirement s
  | .routeStuck => Sys2Proof.Machine.execRouteStuck s
  | .freeze trigger => Sys2Proof.Machine.execFreeze trigger s
  | .freezeDumpComplete => Sys2Proof.Machine.execFreezeDumpComplete s
  | .release => Sys2Proof.Machine.execRelease s
  | .ringEnable path ring word => Sys2Proof.Machine.execRingEnable path ring word s
  | .ringDisable path ring word => Sys2Proof.Machine.execRingDisable path ring word s
  | .ringDbSqTail path node ring value => Sys2Proof.Machine.execRingDbSqTail path node ring value s
  | .ringDbCqHead path node ring value => Sys2Proof.Machine.execRingDbCqHead path node ring value s
  | .ringFetch cpx => Sys2Proof.Machine.execRingFetch cpx s
  | .completionPost ring idx => Sys2Proof.Machine.execCompletionPost ring idx s
  | .moverUnitComplete ring idx => Sys2Proof.Machine.execMoverUnitComplete ring idx s
  | .copy ring idx => Sys2Proof.Machine.execCopy ring idx s
  | .fill ring idx => Sys2Proof.Machine.execFill ring idx s
  | .compare ring idx => Sys2Proof.Machine.execCompare ring idx s
  | .zero ring idx => Sys2Proof.Machine.execZero ring idx s
  | .pinHot ring idx => Sys2Proof.Machine.execPinHot ring idx s
  | .unpin ring idx => Sys2Proof.Machine.execUnpin ring idx s
  | .demote ring idx => Sys2Proof.Machine.execDemote ring idx s
  | .prefetch ring idx => Sys2Proof.Machine.execPrefetch ring idx s
  | .persistBarrier ring idx => Sys2Proof.Machine.execPersistBarrier ring idx s
  | .snapshot ring idx => Sys2Proof.Machine.execSnapshot ring idx s
  | .snapshotPointFixed ring idx => Sys2Proof.Machine.execSnapshotPointFixed ring idx s
  | .queryTier ring idx => Sys2Proof.Machine.execQueryTier ring idx s
  | .scrubRange ring idx => Sys2Proof.Machine.execScrubRange ring idx s
  | .keyLoad ring idx => Sys2Proof.Machine.execKeyLoad ring idx s
  | .keyRetire ring idx => Sys2Proof.Machine.execKeyRetire ring idx s
  | .rekeyStart ring idx => Sys2Proof.Machine.execRekeyStart ring idx s
  | .retireFrame ring idx => Sys2Proof.Machine.execRetireFrame ring idx s
  | .retireBank ring idx => Sys2Proof.Machine.execRetireBank ring idx s
  | .calRestoreFactory ring idx => Sys2Proof.Machine.execCalRestoreFactory ring idx s
  | .go path => Sys2Proof.Machine.execGo path s
  | .bootCopyTry => Sys2Proof.Machine.execBootCopyTry s
  | .spiNorWrite region words => Sys2Proof.Machine.execSpiNorWrite region words s
  | .resetNAssert ns => Sys2Proof.Machine.execResetNAssert ns s
  | .resetNRelease ns => Sys2Proof.Machine.execResetNRelease ns s
  | .pwrokDeassert ns => Sys2Proof.Machine.execPwrokDeassert ns s
  | .pwrokAssert ns => Sys2Proof.Machine.execPwrokAssert ns s
  | .harnessingComplete => Sys2Proof.Machine.execHarnessingComplete s
  | .serviceEntry => Sys2Proof.Machine.execServiceEntry s
  | .aonRestart => Sys2Proof.Machine.execAonRestart s
  | .drainToStall path => Sys2Proof.Machine.execDrainToStall path s
  | .drainToMaint path => Sys2Proof.Machine.execDrainToMaint path s
  | .leaveMaint path => Sys2Proof.Machine.execLeaveMaint path s
  | .drainLimit => Sys2Proof.Machine.execDrainLimit s
  | .drainCleanPoint => Sys2Proof.Machine.execDrainCleanPoint s
  | .gaitChange => Sys2Proof.Machine.execGaitChange s
  | .gaitDeepen => Sys2Proof.Machine.execGaitDeepen s
  | .groupIdleExpiry grp => Sys2Proof.Machine.execGroupIdleExpiry grp s
  | .prepareAllAgreed grp => Sys2Proof.Machine.execPrepareAllAgreed grp s
  | .refuse dom reason => Sys2Proof.Machine.execRefuse dom reason s
  | .prepareAnswerTimeout dom => Sys2Proof.Machine.execPrepareAnswerTimeout dom s
  | .backoffExpiry grp => Sys2Proof.Machine.execBackoffExpiry grp s
  | .fastTrip ch mA => Sys2Proof.Machine.execFastTrip ch mA s
  | .faultTimerExpiry ch mA => Sys2Proof.Machine.execFaultTimerExpiry ch mA s
  | .inrushTimeout ch => Sys2Proof.Machine.execInrushTimeout ch s
  | .gateFullyOn ch pgOk => Sys2Proof.Machine.execGateFullyOn ch pgOk s
  | .presenceAsserted ch => Sys2Proof.Machine.execPresenceAsserted ch s
  | .presenceRemoved ch => Sys2Proof.Machine.execPresenceRemoved ch s
  | .insertDebounceComplete ch => Sys2Proof.Machine.execInsertDebounceComplete ch s
  | .cooldownElapsed ch => Sys2Proof.Machine.execCooldownElapsed ch s
  | .retryCountClear ch => Sys2Proof.Machine.execRetryCountClear ch s
  | .ppDamaged ch => Sys2Proof.Machine.execPpDamaged ch s
  | .feedQualified feed => Sys2Proof.Machine.execFeedQualified feed s
  | .feedDisqualified feed why => Sys2Proof.Machine.execFeedDisqualified feed why s
  | .feedReturnHoldExpiry => Sys2Proof.Machine.execFeedReturnHoldExpiry s
  | .breakTimeExpiry => Sys2Proof.Machine.execBreakTimeExpiry s
  | .energyFrame vStore busV samples => Sys2Proof.Machine.execEnergyFrame vStore busV samples s
  | .storeTestStart => Sys2Proof.Machine.execStoreTestStart s
  | .storeTest v2 eOut => Sys2Proof.Machine.execStoreTest v2 eOut s
  | .ppdLink => Sys2Proof.Machine.execPpdLink s
  | .bayWarnLeadExpiry bay => Sys2Proof.Machine.execBayWarnLeadExpiry bay s
  | .perstDelayExpiry bay => Sys2Proof.Machine.execPerstDelayExpiry bay s
  | .commandedOff path ch => Sys2Proof.Machine.execCommandedOff path ch s
  | .commandedOn path ch => Sys2Proof.Machine.execCommandedOn path ch s
  | .logEntryArrival n => Sys2Proof.Machine.execLogEntryArrival n s
  | .logRateWindowStart => Sys2Proof.Machine.execLogRateWindowStart s
  | .extendedLogCopy => Sys2Proof.Machine.execExtendedLogCopy s
  | .aonLogAck path value => Sys2Proof.Machine.execAonLogAck path value s
  | .eventAck path event count => Sys2Proof.Machine.execEventAck path event count s
  | .samplerThreshold n => Sys2Proof.Machine.execSamplerThreshold n s
  | .sampleCapture n op line node tag cls due => Sys2Proof.Machine.execSampleCapture n op line node tag cls due s
  | .sampleNoRequestTimeout n => Sys2Proof.Machine.execSampleNoRequestTimeout n s
  | .sampleRingConsume path value => Sys2Proof.Machine.execSampleRingConsume path value s
  | .frameWinStart => Sys2Proof.Machine.execFrameWinStart s
  | .frameRetired dfa => Sys2Proof.Machine.execFrameRetired dfa s
  | .bankSuspect bank => Sys2Proof.Machine.execBankSuspect bank s
  | .paritySweep offset mismatch => Sys2Proof.Machine.execParitySweep offset mismatch s
  | .write32 f => Sys2Proof.Machine.execWrite32 f s
  | .read32 f => Sys2Proof.Machine.execRead32 f s
  | .write64 f => Sys2Proof.Machine.execWrite64 f s
  | .read64 f => Sys2Proof.Machine.execRead64 f s
  | .i3cPrivateRead => Sys2Proof.Machine.execI3cPrivateRead s
  | .registerWrite path offset be data wide => Sys2Proof.Machine.execRegisterWrite path offset be data wide s
  | .indirectDataAccess path offset write be data => Sys2Proof.Machine.execIndirectDataAccess path offset write be data s
  | .deviceCold path key force inst => Sys2Proof.Machine.execDeviceCold path key force inst s
  | .deviceWarm path key force inst => Sys2Proof.Machine.execDeviceWarm path key force inst s
  | .afl path key force inst => Sys2Proof.Machine.execAfl path key force inst s
  | .pe path key force inst => Sys2Proof.Machine.execPe path key force inst s
  | .bay path key force inst => Sys2Proof.Machine.execBay path key force inst s
  | .mgt path key force inst => Sys2Proof.Machine.execMgt path key force inst s
  | .programOwner path key slot => Sys2Proof.Machine.execProgramOwner path key slot s
  | .revokeOwner path key slot => Sys2Proof.Machine.execRevokeOwner path key slot s
  | .programBoard path key slot => Sys2Proof.Machine.execProgramBoard path key slot s
  | .otpProgramDone readBackOk => Sys2Proof.Machine.execOtpProgramDone readBackOk s
  | .svnCommitFw path key => Sys2Proof.Machine.execSvnCommitFw path key s
  | .svnCommitHarness path key => Sys2Proof.Machine.execSvnCommitHarness path key s
  | .disable path port => Sys2Proof.Machine.execDisable path port s
  | .disableClear path port => Sys2Proof.Machine.execDisableClear path port s
  | .dieHot sensor temp => Sys2Proof.Machine.execDieHot sensor temp s
  | .thermtrip sensor temp => Sys2Proof.Machine.execThermtrip sensor temp s
  | .thermtripRecovery temp => Sys2Proof.Machine.execThermtripRecovery temp s
  | .xtalFail slow => Sys2Proof.Machine.execXtalFail slow s
  | .refclkLoss pcie inst => Sys2Proof.Machine.execRefclkLoss pcie inst s
  | .dramCommandSlot ch sub => Sys2Proof.Machine.execDramCommandSlot ch sub s
  | .pciePeerAccess peNo reqId addr write mask data => Sys2Proof.Machine.execPciePeerAccess peNo reqId addr write mask data s
  | .debugAccess addr write data => Sys2Proof.Machine.execDebugAccess addr write data s
  | .linkIdleEntry port => Sys2Proof.Machine.execLinkIdleEntry port s
  | .dynamicAddressAssignment addr => Sys2Proof.Machine.execDynamicAddressAssignment addr s
  | .ppdPowerOn slots bays => Sys2Proof.Machine.execPpdPowerOn slots bays s
  | .aonSupplyLoss => Sys2Proof.Machine.execAonSupplyLoss s

end Sys2Proof.Machine
end

