-- ==== Sys2Proof/Machine/Tick.lean ====
section
/-! DEFINITION. One tick of the tide counter, which passes on an empty queue (R407, R410, R456; log entry 6). -/

namespace Sys2Proof.Machine

open Sys2Proof

/-- The fast clock runs: AON has its supply and the tide counter is not stopped by Watch (R407, R415). -/
def clockRuns (s : State) : Bool := s.ppd.powered && !s.time.stopped

/-- The residency counters of a domain advance (R410, R456): with the dies off every domain is asleep. -/
def tickDomain (dark : Bool) (d : Domain) : Domain :=
  if dark then { d with asleepT := d.asleepT + 1 }
  else match d.st with
    | .prepared => { d with prepT := d.prepT + 1 }
    | .asleep => { d with asleepT := d.asleepT + 1 }
    | _ => { d with awakeT := d.awakeT + 1 }

/-- The residency counters of every domain. -/
def tickDomains (s : State) : SMap Domain :=
  ((List.range 152).filter (domExists s)).map (fun n => (n, tickDomain (diesDark s) (domOf s n)))

/-- The counters that a tick advances: the tide counter by 16 ns, the counter of the mode, in Service the counter of the gait, and the
domains' (R407, R456). -/
def tickCounters (s : State) : State :=
  let gait := if s.aon.mode = .service then smod 0 s.time.gaitTicks s.aon.gait.toNat (· + 1) else s.time.gaitTicks
  { s with time.tide := s.time.tide + 16, time.modeTicks := smod 0 s.time.modeTicks (modeCode s.aon.mode) (· + 1),
           time.gaitTicks := gait, noc.dom := tickDomains s }

/-- The slots of a pipe that have elapsed and are in no category yet are Idle or, with work present, Held (R453). -/
def fillSlots (base elapsed : Nat) (held : Bool) (s : State) : State :=
  let seen := ((List.range 4).map (fun e => (sget 0 s.ev.count (base + e)).toNat)).sum
  if elapsed ≤ seen then s else evAdd (base + (if held then 3 else 2)) (elapsed - seen) s

/-- The slots of the tiles and of the home pipelines in a tick: 24 tile cycles and 32 NoC cycles while the domain's clock runs; and the
occupancy of the request buffers, summed per cycle (R448, R453; log entry 12). -/
def tickSlots (s : State) : State :=
  let s := (List.range (numTiles s)).foldl (fun t k =>
    fillSlots (0xD00 + 8 * k) (24 * (domOf t k).awakeT.toNat) (lineLoad t k ≠ 0 || packLoad t k ≠ 0) t) s
  (List.range (numBanks s)).foldl (fun t b =>
    let held := bankHeld t b
    let waits := t.quay.busy.any (fun w => bankOf t (reqLine t w.req) = b)
    let t := fillSlots (0x700 + 32 * b) (32 * (domOf t (128 + b)).awakeT.toNat) waits t
    if held = 0 || (domOf t (128 + b)).st ≠ .awake then t else evAdd (0x700 + 32 * b + 19) (32 * held) t) s

/-- A 1 ms boundary (R16): the lane error counts of the ports and the windows of the log and of EVENT_MSG start again (R277, R313,
R446). -/
def tickMs (s : State) : State :=
  if s.time.tide.toNat % 1000000 = 0 then
    newWindow { s with port := smapv {} (fun (q : Port) => { q with laneErr := [] }) s.port }
  else s

/-- Work that goes on by itself: the flits of each port, and a harness patch that waits (R251, R379). -/
def tickWork (s : State) : State :=
  let s := (List.range (numPorts s)).foldl (fun t p => portTick p t) s
  if patchBusy s && (s.aon.mode = .service || s.aon.mode = .drain || s.aon.mode = .maintenance) then runPatch s else s

/-- Time with at least 256 NVMe commands of ledger writeback outstanding counts toward a saturated window (R193). -/
def tickSat (s : State) : State := if 256 ≤ writesOut s then { s with led.satNs := s.led.satNs + 16 } else s

/-- One tick of the tide counter. -/
def tideTick (s : State) : State :=
  if clockRuns s then driveAlert (tickWork (tickMs (tickSat (tickSlots (tickCounters s))))) else s

end Sys2Proof.Machine
end

