-- ==== Sys2Proof/Machine/Step.lean ====
section
/-! DEFINITION. The step of the block: the command at the front of the queue, or one tick of the tide counter. -/

namespace Sys2Proof.Machine

/-- One step: the command at the front of the queue runs on the state with the queue's rest; on an empty queue one
tick of the tide counter passes (log entry 6). -/
def step (s : State) : Host.Outcome State Fault Refusal :=
  match s.pending with
  | [] => .next (tideTick s)
  | c :: r => exec c { s with pending := r }

/-- The state with the command that a table word spells in front of its queue. No row of spec/opcode_table.json gives
bits, so no word spells a command and the state is unchanged (log entry 6). -/
def State.withFetchWord (s : State) (nbits w : Nat) : State :=
  match decodeTableWord nbits w with
  | some c => { s with pending := c :: s.pending }
  | none => s

end Sys2Proof.Machine
end

