-- ==== Sys2Proof/Machine/Parts.lean ====
section
/-! DEFINITION. The parts of the state, what it is to change only some of them, and the invariant of memory: the terms of the frame of
every command. -/

namespace Sys2Proof

open Sys2Proof.Machine

/-- The invariant that every step keeps: DRAM is held in its canonical form. -/
def Inv (s : State) : Prop := Memory.wf s.dram.mem = true

/-- The parts of the state that an operation may change. MODE with PREV_MODE and CAUSE, the tide counter and the stored bytes of DRAM
are parts of their own. -/
structure Parts where
  fuse : Bool := false
  aon : Bool := false
  mode : Bool := false
  time : Bool := false
  tide : Bool := false
  log : Bool := false
  ev : Bool := false
  sec : Bool := false
  frz : Bool := false
  pin : Bool := false
  quay : Bool := false
  dram : Bool := false
  mem : Bool := false
  tier : Bool := false
  led : Bool := false
  reins : Bool := false
  port : Bool := false
  noc : Bool := false
  rings : Bool := false
  mgt : Bool := false
  nor : Bool := false
  ppd : Bool := false
  cfg : Bool := false
  free : Bool := false
  pending : Bool := false
  deriving DecidableEq, Repr

/-- Every part of `p` is one of `q`. -/
def Parts.le (p q : Parts) : Bool :=
  (!p.fuse || q.fuse) && (!p.aon || q.aon) && (!p.mode || q.mode) && (!p.time || q.time) && (!p.tide || q.tide) && (!p.log || q.log) &&
  (!p.ev || q.ev) && (!p.sec || q.sec) && (!p.frz || q.frz) && (!p.pin || q.pin) && (!p.quay || q.quay) && (!p.dram || q.dram) &&
  (!p.mem || q.mem) && (!p.tier || q.tier) && (!p.led || q.led) && (!p.reins || q.reins) && (!p.port || q.port) && (!p.noc || q.noc) &&
  (!p.rings || q.rings) && (!p.mgt || q.mgt) && (!p.nor || q.nor) && (!p.ppd || q.ppd) && (!p.cfg || q.cfg) && (!p.free || q.free) &&
  (!p.pending || q.pending)

/-- AON with MODE or all else put aside. -/
def eraseAon (all mode : Bool) (a : Aon) : Aon :=
  let b := cond all { mode := a.mode, prevMode := a.prevMode, modeCause := a.modeCause } a
  cond mode { b with mode := .stall, prevMode := .stall, modeCause := 0 } b

/-- The times of AON with the tide counter or all else put aside. -/
def eraseTime (all tide : Bool) (a : AonTime) : AonTime :=
  let b := cond all { tide := a.tide } a
  cond tide { b with tide := 0 } b

/-- DRAM with its stored bytes or all else put aside. -/
def eraseDram (all mem : Bool) (a : Dram) : Dram :=
  let b := cond all { mem := a.mem } a
  cond mem { b with mem := [] } b

/-- The state with the parts of `p` put aside. -/
def erase (p : Parts) (s : State) : State :=
  { fuse := cond p.fuse {} s.fuse, aon := eraseAon p.aon p.mode s.aon, time := eraseTime p.time p.tide s.time, log := cond p.log {} s.log,
    ev := cond p.ev {} s.ev, sec := cond p.sec {} s.sec, frz := cond p.frz {} s.frz, pin := cond p.pin {} s.pin,
    quay := cond p.quay {} s.quay, dram := eraseDram p.dram p.mem s.dram, tier := cond p.tier {} s.tier, led := cond p.led {} s.led,
    reins := cond p.reins {} s.reins, port := cond p.port [] s.port, noc := cond p.noc {} s.noc, rings := cond p.rings {} s.rings,
    mgt := cond p.mgt {} s.mgt, nor := cond p.nor {} s.nor, ppd := cond p.ppd {} s.ppd, cfg := cond p.cfg [] s.cfg,
    free := cond p.free 0 s.free, pending := cond p.pending [] s.pending }

/-- From `s` to `t` nothing has changed but the parts of `p`. -/
def ChangesOnly (p : Parts) (s t : State) : Prop := erase p t = erase p s

end Sys2Proof
end

