-- ==== Sys2Proof/Safety.lean ====
section
/-! DEFINITION. What the statements speak of: the parts of the state that each command may change, a home with nothing waiting, and the
frames of one register of a kind. -/

namespace Sys2Proof

open Sys2Proof.Machine

/-- The stored byte of DRAM at a byte address (80 bytes to a line, log entry 4). -/
def memByte (s : State) (a : Nat) : Byte := sget 0 s.dram.mem a

/-- Nothing waits at the home banks beside the transactions: no queued request, no eviction notice, no fill. -/
abbrev HomeIdle (s : State) : Prop :=
  s.quay.busy = [] ∧ s.quay.notices = [] ∧ s.quay.parked = [] ∧ s.quay.parkWait = [] ∧ s.quay.fills = [] ∧ s.reins.waiters = []

/-- Nothing waits at the home banks, and no transaction is open. -/
abbrev Quiet (s : State) : Prop := s.quay.txns = [] ∧ HomeIdle s

/-- What a settled home may change: the home banks and all that they set going. -/
def homeParts : Parts :=
  { aon := true, log := true, ev := true, sec := true, quay := true, dram := true, mem := true,
    tier := true, led := true, reins := true, port := true, noc := true, rings := true, mgt := true }

/-- The parts of the state that a command may change; it changes no other (the frame of every command). -/
def footprint : Instr → Parts
  | .rdCur _ | .rdShared _ | .rdOwn _ | .upgrade _ | .wrFull _ | .wrPart _ | .atAdd _ | .atSwap _ | .atCas _ | .atAnd _ | .atOr _
  | .atXor _ | .atSmin _ | .atSmax _ | .atUmin _ | .atUmax _ | .evictClean _ | .evictDirty _ | .cmpAck _ | .rspI _ | .rspS _
  | .rspIClean _ | .rspIData _ | .rspSData _ | .rspFwd _ => homeParts
  | .snpInv _ | .snpShare _ | .snpFwdS _ | .dataE _ | .dataS _ | .dataF _ | .dataI _ | .cmpE _ | .cmp _ | .atmData _ | .wbAck _
    => { log := true, ev := true, quay := true, port := true, mgt := true }
  | .errCmp _ => homeParts
  | .lateAlarm _ => { log := true, ev := true, quay := true, port := true, mgt := true }
  | .mgmtRd _ | .mgmtWr _
    => { homeParts with fuse := true, mode := true, frz := true, pin := true, nor := true, ppd := true, cfg := true }
  | .spdmMsg _ => { log := true, ev := true, sec := true, port := true, mgt := true, free := true }
  | .latTol _ _ _ _ _ _ => { aon := true, log := true, ev := true, port := true, noc := true, mgt := true }
  | .powerWarn _ _ _ _ => { ev := true, quay := true, port := true, mgt := true }
  | .snoopTimeoutExpiry _ _ => homeParts
  | .deviceRequestTimeout _ _ => { ev := true, quay := true, mgt := true }
  | .dramReadComplete _ _ | .lineRereadComplete _ _ => homeParts
  | .tagTestComplete _ _
    => { aon := true, log := true, ev := true, sec := true, quay := true, dram := true, mem := true, tier := true, led := true, reins := true, port := true, noc := true, mgt := true }
  | .verdictArrival _ _ _ => { ev := true, quay := true, port := true, mgt := true }
  | .keyContextFill _ => { log := true, ev := true, quay := true, mgt := true }
  | .warmLineDecode _ _ | .demandFaultReadComplete _ _ => homeParts
  | .demandFaultInstallComplete _ => { homeParts with pin := true }
  | .lineEviction _ | .partialLineMerge _ _ => homeParts
  | .decayEpochAdvance => { ev := true, tier := true, mgt := true }
  | .scannerVisit => homeParts
  | .demotionComplete _ | .promotionComplete _ | .compactionMoveComplete _ | .relocationLineCopy _ _ => { homeParts with pin := true }
  | .rekeyPageConversion _ => homeParts
  | .refreshDue _ _ _ _ _ => { ev := true, dram := true, mgt := true }
  | .rdWindowStart | .rdThresholdReached _ _ _ => { dram := true }
  | .writeDrainEntry _ => { ev := true, dram := true, mgt := true }
  | .writeDrainExit _ => { dram := true }
  | .thermalSensorRead _ _ _ => { log := true, ev := true, dram := true, mgt := true }
  | .pmicStatusRead _ _ _ | .pmicInterrupt _ _ _ | .dimmAlert _ _ _ _ => homeParts
  | .devMarkWinStart => { dram := true }
  | .devMarked _ _ _ _ _ => { log := true, ev := true, dram := true, mgt := true, nor := true }
  | .scrubRead _ => homeParts
  | .selfRefreshEntry _ => { ev := true, sec := true, dram := true, mem := true, reins := true, mgt := true }
  | .selfRefreshExit _ _ _ | .fullTraining _ _ _ => { homeParts with nor := true, free := true }
  | .calRecordRestore _ _ _ | .dirtyCeilingWindow | .flushBwProbe _ | .wbAgeExpiry _ => homeParts
  | .segmentWritesComplete _ => { ev := true, led := true, reins := true, mgt := true }
  | .segCommit _ | .nvmeWriteFailed _ => { homeParts with pin := true }
  | .mapBlockWriteback _ => homeParts
  | .hotListRewrite => { led := true }
  | .smartLogPoll _ _ _ | .ledgerTimeoutExpiry _ | .ssdResetTimeout _ => { homeParts with pin := true }
  | .ssdReady _ _ => homeParts
  | .holdupEntry => { homeParts with mode := true, pin := true, ppd := true }
  | .holdupFreeze => { ev := true, led := true, reins := true, mgt := true }
  | .dirtyListCommitted | .holdupFlushCommitted => { homeParts with pin := true }
  | .holdDoneWritten => { homeParts with mode := true, pin := true, nor := true, ppd := true, cfg := true }
  | .watchEntry
    => { aon := true, mode := true, time := true, log := true, ev := true, pin := true, quay := true, dram := true, tier := true, led := true, reins := true, port := true, noc := true, rings := true, mgt := true, ppd := true }
  | .holdupEnergyCheck _ => { homeParts with mode := true, pin := true, ppd := true }
  | .feedReturnInHoldup => { homeParts with mode := true, pin := true, nor := true, ppd := true, cfg := true }
  | .watchPeriodSample _ _ => { homeParts with mode := true, pin := true, ppd := true }
  | .watchExit => { homeParts with mode := true, pin := true, nor := true, ppd := true, cfg := true }
  | .tideResume _
    => { aon := true, time := true, tide := true, log := true, ev := true, tier := true, noc := true, mgt := true, free := true }
  | .slowPeriodCalibration _ => { time := true }
  | .ledgerReplay
    => { aon := true, log := true, ev := true, sec := true, quay := true, dram := true, mem := true, tier := true, led := true, reins := true, mgt := true, free := true }
  | .manifestChoice => { log := true, ev := true, led := true, mgt := true, free := true }
  | .pendingFrameRestore _ | .backgroundRestorePage | .restoreFirstPassEnd => homeParts
  | .feedsFailInRecovery => { homeParts with mode := true, pin := true, ppd := true }
  | .budgetWindowStart => { homeParts with cfg := true }
  | .ageLimitExpiry _ _ => { quay := true, dram := true, reins := true, noc := true }
  | .overdueLimitReached _ _ => { ev := true, quay := true, dram := true, reins := true, noc := true, mgt := true }
  | .capHoldRelease _ _ => homeParts
  | .detectStep _ _ => { port := true }
  | .ts1 _ _ _ => { log := true, ev := true, port := true, mgt := true }
  | .ts2 _ _ _ => { homeParts with free := true }
  | .pollTimeout _ | .configTimeout _ => { port := true }
  | .eqTimeout _ => homeParts
  | .retrainTimeout _ => { port := true }
  | .ts1LossTimeout _ | .payloadFlit _ _ | .idleFlit _ _ | .badFlit _ _ => homeParts
  | .ackTimeoutExpiry _ => { ev := true, port := true, mgt := true }
  | .laneFailed _ _ _ _ => { log := true, ev := true, port := true, mgt := true }
  | .wPropose _ _ _ => { port := true }
  | .wAccept _ _ _ => { ev := true, port := true, mgt := true }
  | .wReject _ _ _ => { port := true }
  | .wSwitch _ _ _ | .lpReq _ _ _ | .lpAck _ _ _ => { ev := true, port := true, mgt := true }
  | .lpNak _ _ _ => { port := true }
  | .linkOff _ _ _ => homeParts
  | .widthCapChange _ _ | .lmcTimeoutExpiry _ => { ev := true, port := true, mgt := true }
  | .laneLockTimeout _ | .lowPowerExit _ => { port := true }
  | .lowPowerExitTimeout _ => { ev := true, port := true, mgt := true }
  | .tagQuietExpiry _ _ => { quay := true }
  | .eventMsg _ _ => { ev := true, port := true }
  | .rsvReq _ | .rsvGrant _ | .rsvRevoke _ | .rsvReturn _ => { noc := true }
  | .domainDrainComplete _ => { aon := true, ev := true, sec := true, dram := true, mem := true, reins := true, noc := true, mgt := true }
  | .domainWake _ => { aon := true, noc := true }
  | .domainWakeComplete _ => { noc := true }
  | .nocUe _ _ => { log := true, ev := true, frz := true, noc := true, mgt := true }
  | .bridgeUnitReplay _ => { log := true, ev := true, noc := true, mgt := true }
  | .routeEpochSwitch => { ev := true, noc := true, mgt := true }
  | .epochRetirement => { noc := true }
  | .routeStuck | .freeze _ => { log := true, ev := true, frz := true, mgt := true }
  | .freezeDumpComplete | .release => { frz := true }
  | .ringEnable _ _ _ | .ringDisable _ _ _ => { homeParts with pin := true }
  | .ringDbSqTail _ _ _ _ | .ringDbCqHead _ _ _ _ => { aon := true, log := true, ev := true, rings := true, mgt := true }
  | .ringFetch _ => homeParts
  | .completionPost _ _ => { homeParts with pin := true }
  | .moverUnitComplete _ _ | .copy _ _ | .fill _ _ | .compare _ _ | .zero _ _ => homeParts
  | .pinHot _ _ => { homeParts with pin := true }
  | .unpin _ _ | .demote _ _ | .prefetch _ _ | .persistBarrier _ _ | .snapshot _ _ | .snapshotPointFixed _ _ | .queryTier _ _
  | .scrubRange _ _ | .keyLoad _ _ | .keyRetire _ _ | .rekeyStart _ _ | .retireFrame _ _ | .retireBank _ _ => homeParts
  | .calRestoreFactory _ _ => { homeParts with nor := true }
  | .go _ => { homeParts with nor := true, cfg := true }
  | .bootCopyTry => { homeParts with mode := true, nor := true, cfg := true }
  | .spiNorWrite _ _ => { nor := true }
  | .resetNAssert _ => { homeParts with mode := true, frz := true, pin := true, ppd := true }
  | .resetNRelease _
    => { aon := true, mode := true, time := true, log := true, ev := true, pin := true, led := true, reins := true, port := true, noc := true, mgt := true, nor := true, ppd := true, cfg := true }
  | .pwrokDeassert _ => { homeParts with mode := true, frz := true, pin := true, ppd := true }
  | .pwrokAssert _
    => { aon := true, mode := true, time := true, log := true, ev := true, pin := true, led := true, reins := true, port := true, noc := true, mgt := true, nor := true, ppd := true, cfg := true }
  | .harnessingComplete => { homeParts with mode := true, pin := true, ppd := true, free := true }
  | .serviceEntry => { homeParts with mode := true, nor := true }
  | .aonRestart
    => { aon := true, mode := true, time := true, log := true, ev := true, pin := true, led := true, reins := true, port := true, noc := true, mgt := true, nor := true, ppd := true, cfg := true }
  | .drainToStall _ | .drainToMaint _ => { homeParts with mode := true }
  | .leaveMaint _ => { homeParts with mode := true, pin := true, ppd := true }
  | .drainLimit => homeParts
  | .drainCleanPoint => { homeParts with mode := true, pin := true, ppd := true }
  | .gaitChange | .gaitDeepen => { aon := true, noc := true }
  | .groupIdleExpiry _ => { noc := true }
  | .prepareAllAgreed _ => { ev := true, noc := true, mgt := true }
  | .refuse _ _ | .prepareAnswerTimeout _ => { log := true, ev := true, noc := true, mgt := true }
  | .backoffExpiry _ => { noc := true }
  | .fastTrip _ _ | .faultTimerExpiry _ _ | .inrushTimeout _
    => { aon := true, log := true, ev := true, pin := true, led := true, reins := true, port := true, mgt := true, ppd := true }
  | .gateFullyOn _ _ => { homeParts with pin := true, ppd := true }
  | .presenceAsserted _ => { log := true, ev := true, mgt := true, ppd := true }
  | .presenceRemoved _ => { homeParts with pin := true, ppd := true }
  | .insertDebounceComplete _ | .cooldownElapsed _ => { ev := true, pin := true, mgt := true, ppd := true }
  | .retryCountClear _ => { ppd := true }
  | .ppDamaged _
    => { aon := true, log := true, ev := true, pin := true, led := true, reins := true, port := true, mgt := true, ppd := true }
  | .feedQualified _ => { aon := true, ev := true, pin := true, led := true, reins := true, port := true, mgt := true, ppd := true }
  | .feedDisqualified _ _ => { homeParts with pin := true, ppd := true }
  | .feedReturnHoldExpiry => { aon := true, ev := true, pin := true, led := true, reins := true, port := true, mgt := true, ppd := true }
  | .breakTimeExpiry => { ev := true, pin := true, mgt := true, ppd := true }
  | .energyFrame _ _ _ => { aon := true, pin := true, led := true, port := true, ppd := true }
  | .storeTestStart => { aon := true, ev := true, pin := true, led := true, reins := true, port := true, mgt := true, ppd := true }
  | .storeTest _ _ => { aon := true, log := true, ev := true, pin := true, port := true, mgt := true, ppd := true }
  | .ppdLink => { log := true, ev := true, led := true, mgt := true, ppd := true }
  | .bayWarnLeadExpiry _ => { aon := true, ev := true, pin := true, led := true, port := true, mgt := true, ppd := true }
  | .perstDelayExpiry _ => { pin := true }
  | .commandedOff _ _ => { homeParts with pin := true, ppd := true }
  | .commandedOn _ _ => { aon := true, ev := true, pin := true, port := true, mgt := true, ppd := true }
  | .logEntryArrival _ => { log := true, ev := true, frz := true, pin := true, mgt := true }
  | .logRateWindowStart => { log := true, ev := true }
  | .extendedLogCopy => { log := true, mgt := true }
  | .aonLogAck _ _ => { aon := true, log := true, ev := true, mgt := true }
  | .eventAck _ _ _ => { aon := true, ev := true, pin := true, mgt := true }
  | .samplerThreshold _ => { mgt := true }
  | .sampleCapture _ _ _ _ _ _ _ | .sampleNoRequestTimeout _ => { homeParts with free := true }
  | .sampleRingConsume _ _ => { aon := true, ev := true, mgt := true }
  | .frameWinStart => { tier := true }
  | .frameRetired _ | .bankSuspect _ => homeParts
  | .paritySweep _ _ => { homeParts with frz := true, pin := true }
  | .write32 _ | .read32 _ | .write64 _ | .read64 _
    => { homeParts with fuse := true, mode := true, frz := true, pin := true, nor := true, ppd := true, cfg := true }
  | .i3cPrivateRead => { aon := true }
  | .registerWrite _ _ _ _ _ | .indirectDataAccess _ _ _ _ _
    => { homeParts with fuse := true, mode := true, frz := true, pin := true, nor := true, ppd := true, cfg := true }
  | .deviceCold _ _ _ _ | .deviceWarm _ _ _ _ | .afl _ _ _ _ | .pe _ _ _ _ | .bay _ _ _ _ | .mgt _ _ _ _
    => { homeParts with mode := true, frz := true, pin := true, ppd := true }
  | .programOwner _ _ _ | .revokeOwner _ _ _ | .programBoard _ _ _ => { aon := true, ev := true, mgt := true }
  | .otpProgramDone _ => { fuse := true, aon := true, free := true }
  | .svnCommitFw _ _ | .svnCommitHarness _ _ => { fuse := true, aon := true, ev := true, mgt := true }
  | .disable _ _ | .disableClear _ _
    => { homeParts with fuse := true, mode := true, frz := true, pin := true, nor := true, ppd := true, cfg := true }
  | .dieHot _ _ => { aon := true, log := true, ev := true, pin := true, mgt := true }
  | .thermtrip _ _ => { homeParts with mode := true, frz := true, pin := true, ppd := true }
  | .thermtripRecovery _ => { aon := true, log := true, ev := true, pin := true, mgt := true }
  | .xtalFail _ => { time := true, log := true, ev := true, pin := true, mgt := true }
  | .refclkLoss _ _ => { homeParts with pin := true }
  | .dramCommandSlot _ _ => { ev := true, dram := true, mem := true, reins := true, mgt := true }
  | .pciePeerAccess _ _ _ _ _ _ => { homeParts with pin := true }
  | .debugAccess _ _ _
    => { aon := true, log := true, ev := true, pin := true, quay := true, dram := true, mem := true, led := true, reins := true, mgt := true }
  | .linkIdleEntry _ => { port := true }
  | .dynamicAddressAssignment _ => { aon := true }
  | .ppdPowerOn _ _ => { aon := true, pin := true, port := true, ppd := true }
  | .aonSupplyLoss
    => { homeParts with mode := true, time := true, tide := true, frz := true, pin := true, nor := true, ppd := true, cfg := true }

/-! ## Frames of one register of a kind -/

/-- Of the ports only port `p` has changed. -/
def OtherPortsKept (p : Nat) (s t : State) : Prop := ∀ q, q ≠ p → portOf t q = portOf s q
/-- Port `p` has changed, and nothing else has. -/
def OnlyPort (p : Nat) (s t : State) : Prop := ChangesOnly { port := true } s t ∧ OtherPortsKept p s t
/-- DRAM channel `c` has changed, and nothing else has. -/
def OnlyChan (c : Nat) (s t : State) : Prop := ChangesOnly { dram := true } s t ∧ ∀ d, d ≠ c → chan t d = chan s d
/-- Of the power-path channels only channel `n` has changed. -/
def OtherPchKept (n : Nat) (s t : State) : Prop := ∀ k, k ≠ n → pch t k = pch s k

/-! ## Packets and lines -/

/-- From `s` to `t` the egress queue of port `p` has grown, and `k` is the last packet of it. -/
def Sent (p : Nat) (k : Pkt) (s t : State) : Prop := ∃ pre, (portOf t p).egress = (portOf s p).egress ++ pre ++ [k]

/-- The directory's set of a line reads `x` in `t`, and every other set reads as before (R170). -/
def SetIs (s t : State) (l : Line) (x : BitVec 512) : Prop :=
  dirLine t l = x ∧ ∀ m, dirKey s m ≠ dirKey s l → dirLine t m = dirLine s m

/-- A line of a page that holds no storage and no key, with no operation on it, of which the Quay data partition holds nothing and
has room: a write of it is stored at once. -/
structure Untouched (s : State) (l : Line) : Prop where
  page : descRaw s (pageOf l) = 0
  line : qline s l = none
  room : (bankLines s (bankOf s l)).length < dataCap s
  plain : sealRange s (pageOf l) = none
  ops : s.tier.ops = []

/-- A request that its home bank takes up at once: Service mode, nothing waiting, a line of the device's own space that no command moves,
and a requester of the line's sharing domain behind a port that is up. -/
structure AtHome (s : State) (r : Req) : Prop where
  mode : s.aon.mode = .service
  quiet : Quiet s
  hold : s.reins.hold = []
  restored : s.led.pending = false
  cmds : s.rings.cmds = []
  home : r.dst = nodeId s
  other : r.src ≠ nodeId s
  inside : dla (reqLine s r) < capacity s
  member : (members s (reqLine s r)).contains r.src = true
  up : portUp s r.port = true

/-- A request that its home bank serves at once, of an untouched line. -/
structure ServedAtOnce (s : State) (r : Req) : Prop extends AtHome s r where
  line : Untouched s (reqLine s r)

/-- The transactions of `t` are one grant of the line to the requester, which its CMP_ACK ends. -/
def GrantOpen (l : Line) (r : Req) (t : State) : Prop :=
  ∃ x, t.quay.txns = [x] ∧ x.line = l.toNat ∧ x.phase = .ack ∧ x.req.src = r.src ∧ x.req.tag = r.tag

/-- The ten atomics with their opcodes (Table 10.1). -/
def atomicRows : List ((Req → Instr) × BitVec 8) :=
  [(.atAdd, 0x10), (.atSwap, 0x11), (.atCas, 0x12), (.atAnd, 0x13), (.atOr, 0x14), (.atXor, 0x15), (.atSmin, 0x16), (.atSmax, 0x17),
   (.atUmin, 0x18), (.atUmax, 0x19)]

/-- The last two snoops of a request are outstanding, and the response of the first arrives. -/
structure SnoopAwaited (s : State) (p : Rsp) (x : Txn) (a b : SnoopOut) : Prop where
  mode : s.aon.mode = .service
  txns : s.quay.txns = [x]
  snoops : x.snoops = [a, b]
  phase : x.phase = .snoop
  own : x.victim = none
  rest : HomeIdle s
  home : p.dst = nodeId s
  answers : a.node = p.src ∧ a.tag = p.tag
  other : b.node ≠ p.src
  now : p.fromWb = false

/-- A response to the one request that the device has outstanding, with room for one more line of another home. -/
structure ReplyAwaited (s : State) (p : Rsp) (d : DevReq) : Prop where
  mode : s.aon.mode = .service
  reqs : s.quay.devReqs = [d]
  named : d.dst = p.src ∧ d.tag = p.tag
  home : p.dst = nodeId s
  room : s.quay.remote.length < remoteRoom s

/-! ## Memory reads and page operations -/

/-- One transaction waits for the data of its line, on behalf of a node that read it with RD_CUR; nothing else waits at the home. -/
structure DataAwaited (s : State) (t : Txn) : Prop where
  txns : s.quay.txns = [t]
  rest : HomeIdle s
  phase : t.phase = .data
  op : t.req.op = 0x01
  other : t.req.src ≠ nodeId s
  up : portUp s t.req.port = true

/-- The line has gone to the requester as DATA_I, and its transaction waits for CMP_ACK. -/
def Delivered (s : State) (t : Txn) (x : BitVec 512) (u : State) : Prop :=
  (∃ f, Sent t.req.port { hdr := rspHdr 0x4B t.req.src (nodeId s) t.req.tag 0 f, body := lineSlots x } s u) ∧
  ∃ y, u.quay.txns = [y] ∧ y.phase = .ack ∧ y.line = t.line

/-- An unsealed line of DRAM, read with wrong bits `err`, checks Valid and uncorrected as the code word `y` (R114, R149). -/
def ReadsAs (s : State) (addr : Nat) (err y : BitVec 640) : Prop :=
  lineOffline s addr = false ∧ plainCheckLine (dramContent s addr ^^^ err) (markOf s addr) = .valid y none

/-- The berth of an unsealed page holds the line at an address, and the Quay data partition has room for the line. -/
structure BerthLine (s : State) (line addr : Nat) : Prop where
  range : line < 2 ^ 39
  place : lineAddr (descOf s (line / 64)) (line % 64) = some addr
  plain : dSealed (descOf s (line / 64)) = false
  room : (bankLines s (bankOf s (BitVec.ofNat 39 line))).length < dataCap s
  frame : regionOf s (addr / 64) = none

/-- The page operation table holds one operation, of this page and kind, with nothing deferred to its end; no frame waits for its
retirement, and nothing waits at the home. -/
structure OpAlone (s : State) (page : Nat) (k : OpKind) (o : PageOp) : Prop where
  ops : s.tier.ops = [o]
  page : o.page = page
  kind : o.kind = k
  after : o.poisonAfter = false ∧ o.orphan = [] ∧ o.evict = [] ∧ o.pin = false ∧ o.hot = 0 ∧ o.restore = 0
  retire : s.dram.retireList = []
  waits : s.tier.orphanWait = []
  quiet : Quiet s

/-- The berth of an unsealed page holds the line at an address of the pool, no write of it waits, and nothing waits at the home. -/
structure BerthScrub (s : State) (addr : Nat) : Prop where
  pool : regionOf s (addr / 64) = none
  berth : fUse (frameEntry s (addr / 64)) = 1
  place : lineAddr (descOf s (fPage (frameEntry s (addr / 64)))) (addr % 64) = some addr
  plain : dSealed (descOf s (fPage (frameEntry s (addr / 64)))) = false
  there : (coord s addr).isSome = true
  online : lineOffline s addr = false
  writes : ∀ x, coord s addr = some x → (chan s x.ch).writeQ = []
  quiet : Quiet s

/-- The descriptor of the page is `d`, and no operation holds the page. -/
def PageIs (t : State) (page : Nat) (d : BitVec 128) : Prop := descRaw t page = d ∧ opOf t page = none

/-! ## The ledger -/

/-- Nothing is queued for writeback, and nothing waits at the home. -/
structure LedgerRests (s : State) : Prop where
  queue : s.led.queue = []
  quiet : Quiet s

/-- The mode is `m`, entered from `old` by transition `code` of Table 14.2. -/
def Entered (t : State) (old m : Mode) (code : BitVec 8) : Prop := t.aon.mode = m ∧ t.aon.prevMode = old ∧ t.aon.modeCause = code

/-! ## Ring commands -/

/-- One command stands in the rings, fetched and not yet started, with opcode `op`; no tier operation runs, no descriptor frame is
pending, and nothing waits at the home. -/
structure CommandAlone (s : State) (c : RCmd) (op : Nat) : Prop where
  cmds : s.rings.cmds = [c]
  op : eOp c.entry = op
  fresh : c.started = false ∧ c.finished = false ∧ c.pos = 0 ∧ c.waits = [] ∧ c.first = [] ∧ c.firstBad = none ∧ c.result = 0 ∧ c.detail = 0
  ops : s.tier.ops = []
  restored : s.led.pending = false
  quiet : Quiet s

/-- The command has ended with a status, a detail and a result, and waits for its completion to be posted. -/
def Ended (t : State) (c : RCmd) (status : BitVec 6) (detail : BitVec 8) (result : Nat) : Prop :=
  ∃ d, t.rings.cmds = [d] ∧ d.ring = c.ring ∧ d.idx = c.idx ∧ d.entry = c.entry ∧ d.finished = true ∧ d.status = status ∧
    d.detail = detail ∧ d.result = BitVec.ofNat 64 result

/-! ## Boot -/

/-- A copy of the SPI NOR that boots: its firmware and its harness image pass the verification of R372, and the image passes every check
of Table 13.13. -/
def CopyGood (s : State) (b : Bool) : Prop :=
  verifySteps s 3 (norCopy s b).fw = 0 ∧ verifySteps s 1 (norCopy s b).hz = 0 ∧
  ∃ c, imageCfg s.fuse.variantH (norCopy s b).hz = some c ∧ checkCfg { s with cfg := c } = 0

/-- The directory asks for no trial boot, and the copy to try first is `first` (copy A without a valid directory). -/
def FirstCopy (s : State) (first : Bool) : Prop :=
  (dirInUse s = none ∧ first = false) ∨
  ∃ one, dirInUse s = some one ∧ dirTrial (dirCopy s one) = false ∧ dirPrefersB (dirCopy s one) = first

/-- The device has booted copy `b`: `other` says that it is not the one that was tried first. -/
def Booted (s t : State) (b other : Bool) : Prop :=
  t.aon.loaded = true ∧ t.aon.copyB = b ∧ t.aon.fallback = other ∧ t.aon.hzDigest = imgDigest (norCopy s b).hz ∧
  t.aon.fwDigest = imgDigest (norCopy s b).fw ∧ t.aon.mode = s.aon.mode

/-! ## Accesses over I3C -/

/-- A command over I3C has ended with a status (0 OK, 1 ERR_REG, 3 FRAME), and the private read takes these bytes. -/
def i3cDone (st : BitVec 8) (l : List Byte) (s : State) : State := { s with aon := { s.aon with i3cStatus := st, i3cData := l } }

/-- An OTP operation of AON_OTP_CTL runs: the I3C status reads BUSY. -/
def otpStarted (op slot : Nat) (s : State) : State :=
  i3cDone 2 [] { s with aon := { s.aon with
    otpResult := 0, otpBusy := true, otpOp := BitVec.ofNat 4 op, otpSlot := BitVec.ofNat 2 slot } }

end Sys2Proof
end

