-- ==== Sys2Proof/Certificates/Slice0/Obligations.lean ====
section
/-! DEFINITION. The statements for the provers. Each docstring names the rules of spec/ that its statement formalises. -/

open Sys2Proof Sys2Proof.Machine

/-- R259, Table 9.4: training. A receiver-detect step that finds lanes takes an OFF or DETECT port into POLL; a TS1 in EQ applies the
coefficient request of its lane (R257); a TS2 of the session ends a retrain; the timeouts return the port to DETECT, or to EQ at a lower or the same
rate; in Direct topology a lost retrain leaves the port in DETECT with its state held (R288). No other port changes. -/
def Obligations.LinkTrains : Prop :=
  (∀ (s : State) (p : Nat) (lanes : BitVec 16), portEnabled s p = true → txPermitted s = true → lanes ≠ 0 →
    ((portOf s p).st = .off ∨ (portOf s p).st = .detect) →
    ∃ t, exec (.detectStep p lanes) s = .next t ∧ (portOf t p).st = .poll ∧ (portOf t p).detected = lanes ∧
      (portOf t p).laneFail = 0 ∧ OnlyPort p s t) ∧
  (∀ (s : State) (p lane : Nat) (ts : BitVec 256), tsValid (tsNorm ts) = true → (tsNorm ts).extractLsb' 0 8 = (0x4B : BitVec 8) →
    (portOf s p).st = .eq →
    ∃ t, exec (.ts1 p lane ts) s = .next t ∧ (portOf t p).st = .eq ∧ (portOf t p).partner = tsNorm ts ∧
      sget 0 (portOf t p).coef (trueLane (portOf s p) lane) =
        applyEq (sget 0 (portOf s p).coef (trueLane (portOf s p) lane)) (tsEqReq (tsNorm ts)) ∧ OnlyPort p s t) ∧
  (∀ (s : State) (p lane : Nat) (ts : BitVec 256), tsValid (tsNorm ts) = true → (tsNorm ts).extractLsb' 0 8 = (0x2D : BitVec 8) →
    (portOf s p).st = .retrain → (portOf s p).lossTrain = false →
    tsPeerSession (tsNorm ts) = (portOf s p).session → tsSession (tsNorm ts) = (portOf s p).peerSession →
    ∃ t, exec (.ts2 p lane ts) s = .next t ∧ (portOf t p).st = .active ∧ (portOf t p).partner = tsNorm ts ∧ OtherPortsKept p s t) ∧
  (∀ (s : State) (p : Nat), (portOf s p).st = .poll →
    ∃ t, exec (.pollTimeout p) s = .next t ∧ (portOf t p).st = .detect ∧ OnlyPort p s t) ∧
  (∀ (s : State) (p : Nat), (portOf s p).st = .config →
    ∃ t, exec (.configTimeout p) s = .next t ∧ (portOf t p).st = .detect ∧ OnlyPort p s t) ∧
  (∀ (s : State) (p : Nat), (portOf s p).st = .eq → (portOf s p).eqTried = false → 0 < (portOf s p).rate.toNat →
    ∃ t, exec (.eqTimeout p) s = .next t ∧ (portOf t p).st = .eq ∧ (portOf t p).rate.toNat = (portOf s p).rate.toNat - 1 ∧
      (portOf t p).eqTried = true ∧ OnlyPort p s t) ∧
  (∀ (s : State) (p : Nat), (portOf s p).st = .retrain →
    ∃ t, exec (.retrainTimeout p) s = .next t ∧ (portOf t p).st = .eq ∧ (portOf t p).rate = (portOf s p).rate ∧ OnlyPort p s t) ∧
  (∀ (s : State) (p : Nat), (portOf s p).st = .retrain → (portOf s p).lossTrain = false → direct s = true →
    ∃ t, exec (.ts1LossTimeout p) s = .next t ∧ (portOf t p).st = .detect ∧ (portOf t p).held = true ∧
      (portOf t p).session = (portOf s p).session ∧ (portOf t p).replay = (portOf s p).replay ∧ OtherPortsKept p s t)

/-- R277, R280 to R284: link management of a link in ACTIVE. A width proposal that the lanes allow is accepted, and answered once the lanes
it adds are locked; an accepted proposal moves the transmitter, at once or when the added lanes are locked, a rejected one ends, a switch
completes the change; a power request that the gait permits is entered, a refused one ends; LINK_OFF takes the port to OFF in Direct
topology; a new width cap out of the band retrains; timers end an exchange. No other port changes. -/
def Obligations.LinkManages : Prop :=
  (∀ (s : State) (p : Nat) (id : BitVec 8) (arg : BitVec 16) (w g : Nat), linkRuns s p = true → (portOf s p).lmcSeen = none →
    inBand (portOf s p) = true → (portOf s p).lmcAccepted = none → (portOf s p).txSwitch = false → (portOf s p).lmc = none →
    fieldNat arg 2 0 ≤ 4 → widthUpTo (portOf s p) (min (fieldNat arg 2 0) (widthCap s p)) = some (w, g) →
    w ≠ (portOf s p).width.toNat →
    ∃ t, exec (.wPropose p id arg) s = .next t ∧
      (portOf t p).answer = (if addedLocked (portOf s p) w then some { op := 2, id := id, arg := BitVec.ofNat 16 w } else none) ∧
      (portOf t p).lmcAccepted = some { op := 2, id := id, arg := BitVec.ofNat 16 w } ∧ (portOf t p).width = (portOf s p).width ∧
      OnlyPort p s t) ∧
  (∀ (s : State) (p : Nat) (id : BitVec 8) (arg : BitVec 16) (m : Lmc), linkRuns s p = true → (portOf s p).lmcSeen = none →
    (portOf s p).lmc = some m → m.op = 1 → m.id = id →
    (addedLocked (portOf s p) (fieldNat arg 2 0) = true →
      ∃ t, exec (.wAccept p id arg) s = .next t ∧ (portOf t p).txSwitch = true ∧
        (portOf t p).lmc = some { op := 4, id := id, arg := BitVec.ofNat 16 (fieldNat arg 2 0) } ∧
        ChangesOnly { port := true, ev := true, mgt := true } s t ∧ OtherPortsKept p s t) ∧
    (addedLocked (portOf s p) (fieldNat arg 2 0) = false →
      ∃ t, exec (.wAccept p id arg) s = .next t ∧ (portOf t p).accepted = true ∧ (portOf t p).txSwitch = (portOf s p).txSwitch ∧
        OnlyPort p s t) ∧
    (∃ t, exec (.wReject p id arg) s = .next t ∧ (portOf t p).lmc = none ∧ (portOf t p).width = (portOf s p).width ∧
      OnlyPort p s t)) ∧
  (∀ (s : State) (p : Nat) (id : BitVec 8) (arg : BitVec 16) (m : Lmc) (w g : Nat), linkRuns s p = true →
    (portOf s p).lmcSeen = none → (portOf s p).lmc = some m → m.op = 4 → m.id = id →
    widthUpTo (portOf s p) (fieldNat arg 2 0) = some (w, g) →
    ∃ t, exec (.wSwitch p id arg) s = .next t ∧ (portOf t p).width = BitVec.ofNat 3 w ∧ (portOf t p).group = BitVec.ofNat 4 g ∧
      (portOf t p).lmc = none ∧ OtherPortsKept p s t) ∧
  (∀ (s : State) (p : Nat) (id : BitVec 8) (arg : BitVec 16), linkRuns s p = true → (portOf s p).lmcSeen = none →
    (portOf s p).lmc = none → (portOf s p).lmcAccepted = none → linkIdle (portOf s p) = true → (portOf s p).lp = 0 →
    deepestLp s ≠ 0 → (fieldNat arg 1 0 = 1 ∨ fieldNat arg 1 0 = 2) →
    ∃ t, exec (.lpReq p id arg) s = .next t ∧ (portOf t p).lp = BitVec.ofNat 2 (min (fieldNat arg 1 0) (deepestLp s)) ∧
      OtherPortsKept p s t) ∧
  (∀ (s : State) (p : Nat) (id : BitVec 8) (arg : BitVec 16) (m : Lmc), linkRuns s p = true → (portOf s p).lmcSeen = none →
    (portOf s p).lmc = some m → m.op = 5 → m.id = id →
    ((fieldNat arg 1 0 = 1 ∨ fieldNat arg 1 0 = 2) →
      ∃ t, exec (.lpAck p id arg) s = .next t ∧ (portOf t p).lp = BitVec.ofNat 2 (fieldNat arg 1 0) ∧ OtherPortsKept p s t) ∧
    (∃ t, exec (.lpNak p id arg) s = .next t ∧ (portOf t p).lmc = none ∧ (portOf t p).lp = (portOf s p).lp ∧ OnlyPort p s t)) ∧
  (∀ (s : State) (p : Nat) (id : BitVec 8) (arg : BitVec 16), linkRuns s p = true → direct s = true →
    ∃ t, exec (.linkOff p id arg) s = .next t ∧ (portOf t p).st = .off ∧ (portOf t p).session = 0 ∧ OtherPortsKept p s t) ∧
  (∀ (s : State) (p : Nat) (code : BitVec 3), linkRuns s p = true → inBand (portOf s p) = false → code.toNat ≤ 4 →
    (portOf s p).cap ≠ code → (portOf s p).retrains = [] → aflParam s p 9 ≠ 0 →
    ∃ t, exec (.widthCapChange p code) s = .next t ∧ (portOf t p).cap = code ∧ (portOf t p).st = .retrain ∧ OtherPortsKept p s t) ∧
  (∀ (s : State) (p : Nat), (portOf s p).lmc.isSome = true →
    ∃ t, exec (.lmcTimeoutExpiry p) s = .next t ∧ (portOf t p).lmc = none ∧ (portOf t p).lmcAccepted = none ∧
      (portOf t p).width = (portOf s p).width ∧ OtherPortsKept p s t) ∧
  (∀ (s : State) (p : Nat) (m : Lmc), (portOf s p).lmcAccepted = some m → addedLocked (portOf s p) (fieldNat m.arg 2 0) = false →
    (portOf s p).rxSwitch = false →
    ∃ t, exec (.laneLockTimeout p) s = .next t ∧ (portOf t p).answer = some { op := 3, id := m.id, arg := 4 } ∧
      (portOf t p).lmcAccepted = none ∧ OnlyPort p s t)

/-- R253, R268, R272, R273, R277, R283, R284: the rest of a link in ACTIVE. An idle link asks for low power, and leaves it with a retrain
when the exit takes too long; a late acknowledgement starts a replay; a failed lane is dropped by a retrain; a flit is descrambled as it
arrives: a good PAYLOAD flit in sequence advances the expected SEQ, an IDLE flit carries credits, a flit that fails FEC is NAKed. -/
def Obligations.LinkCarries : Prop :=
  (∀ (s : State) (p : Nat), linkRuns s p = true → (portOf s p).lp = 0 → linkIdle (portOf s p) = true → (portOf s p).lmc = none →
    (portOf s p).lmcAccepted = none → deepestLp s ≠ 0 →
    ∃ t, exec (.linkIdleEntry p) s = .next t ∧ OnlyPort p s t ∧
      (portOf t p).lmc = some { op := 5, id := (portOf s p).lmcNext, arg := BitVec.ofNat 16 (deepestLp s) }) ∧
  (∀ (s : State) (p : Nat), linkRuns s p = true → (portOf s p).lp ≠ 0 →
    (∃ t, exec (.lowPowerExit p) s = .next t ∧ (portOf t p).exiting = true ∧ (portOf t p).lp = (portOf s p).lp ∧ OnlyPort p s t) ∧
    ((portOf s p).exiting = true → (portOf s p).retrains = [] → aflParam s p 9 ≠ 0 →
      ∃ t, exec (.lowPowerExitTimeout p) s = .next t ∧ (portOf t p).st = .retrain ∧ (portOf t p).lp = 0 ∧ OtherPortsKept p s t)) ∧
  (∀ (s : State) (p : Nat), (portOf s p).st = .active → (portOf s p).lp = 0 → (portOf s p).replay ≠ [] →
    (portOf s p).replays + 1 < aflParam s p 8 →
    ∃ t, exec (.ackTimeoutExpiry p) s = .next t ∧ (portOf t p).replays = (portOf s p).replays + 1 ∧
      (portOf t p).replay = (portOf s p).replay ∧ OtherPortsKept p s t) ∧
  (∀ (s : State) (p lane symbols : Nat), linkRuns s p = true → lane < 16 → aflParam s p 10 ≤ symbols → (portOf s p).retrains = [] →
    aflParam s p 9 ≠ 0 →
    ∃ t, exec (.laneFailed p lane false symbols) s = .next t ∧ (portOf t p).st = .retrain ∧
      (portOf t p).laneFail = (portOf s p).laneFail ||| place 16 lane (1 : BitVec 1) ∧ OtherPortsKept p s t) ∧
  (∀ (s : State) (p : Nat) (flit f : BitVec 2048) (fixes : List Nat), linkRuns s p = true → (portOf s p).lp = 0 →
    flitDecode (fromLanes (portOf s p) flit) = some (f, fixes) → fieldNat f 3 0 = 1 → f.extractLsb' 4 12 = (portOf s p).expect →
    (∀ i, i < 15 → slotKind f i = 0) → (slotOf f 0).getLsbD 28 = false → fieldNat (slotOf f 0) 87 84 = 0 →
    (∀ d ∈ s.quay.devReqs, d.held = none) →
    ∃ t, exec (.payloadFlit p flit) s = .next t ∧ (portOf t p).expect = (portOf s p).expect + 1 ∧
      (portOf t p).ack = (portOf s p).expect ∧ (portOf t p).nak = false ∧ OtherPortsKept p s t) ∧
  (∀ (s : State) (p : Nat) (flit f : BitVec 2048) (fixes : List Nat), linkRuns s p = true → (portOf s p).lp = 0 →
    flitDecode (fromLanes (portOf s p) flit) = some (f, fixes) → fieldNat f 3 0 = 0 → f.extractLsb' 4 12 = (portOf s p).expect →
    (slotOf f 0).getLsbD 28 = false → fieldNat (slotOf f 0) 87 84 = 0 →
    ∃ t, exec (.idleFlit p flit) s = .next t ∧ (portOf t p).expect = (portOf s p).expect ∧
      (portOf t p).freedReq = (slotOf f 0).extractLsb' 32 12 ∧ (portOf t p).freedRsp = (slotOf f 0).extractLsb' 44 12 ∧
      OtherPortsKept p s t) ∧
  (∀ (s : State) (p : Nat) (flit : BitVec 2048), linkRuns s p = true → (portOf s p).lp = 0 →
    flitDecode (fromLanes (portOf s p) flit) = none →
    ∃ t, exec (.badFlit p flit) s = .next t ∧ (portOf t p).nak = true ∧ (portOf t p).badRun = (portOf s p).badRun + 1 ∧
      (portOf t p).expect = (portOf s p).expect ∧ OtherPortsKept p s t)

/-- R176, Table 6.4, R26, R175: reads of a line that no node holds and whose page is Unbacked. RD_CUR returns zeros as DATA_I and grants
nothing; RD_SHARED grants the first copy, Exclusive with GRANT_E = 1 and Forward with GRANT_E = 0; RD_OWN grants it exclusively. The line
stays busy until CMP_ACK. No stored byte changes. -/
def Obligations.ReadsAreServed : Prop :=
  ∀ (s : State) (r : Req), ServedAtOnce s r → dirLine s (reqLine s r) = 0 →
    (∃ t f, exec (.rdCur r) s = .next t ∧
      Sent r.port { hdr := rspHdr 0x4B r.src (nodeId s) r.tag 0 f, body := lineSlots 0 } s t ∧ t.quay.dir = s.quay.dir ∧
      GrantOpen (reqLine s r) r t ∧ t.quay.lines = s.quay.lines ∧ t.dram.mem = s.dram.mem) ∧
    (∃ t f, exec (.rdShared r) s = .next t ∧
      Sent r.port { hdr := rspHdr (if grantE s then 0x48 else 0x4A) r.src (nodeId s) r.tag 0 f, body := lineSlots 0 } s t ∧
      SetIs s t (reqLine s r) (setField (0 : BitVec 512) 0
        (if grantE s then mkOwned (reqLine s r) r.src else mkShared (reqLine s r) [r.src] (some r.src))) ∧
      GrantOpen (reqLine s r) r t ∧ t.quay.lines = s.quay.lines ∧ t.dram.mem = s.dram.mem) ∧
    (∃ t f, exec (.rdOwn r) s = .next t ∧
      Sent r.port { hdr := rspHdr 0x48 r.src (nodeId s) r.tag 0 f, body := lineSlots 0 } s t ∧
      SetIs s t (reqLine s r) (setField (0 : BitVec 512) 0 (mkOwned (reqLine s r) r.src)) ∧
      GrantOpen (reqLine s r) r t ∧ t.quay.lines = s.quay.lines ∧ t.dram.mem = s.dram.mem)

/-- R176, Table 6.4: an UPGRADE by the only sharer is granted CMP_E without data, and its entry becomes Owned. -/
def Obligations.UpgradeIsGranted : Prop :=
  ∀ (s : State) (r : Req) (i : Nat), ServedAtOnce s r →
    (List.range 4).any (fun k => eBad (setEntry (dirLine s (reqLine s r)) k)) = false →
    dirFind (dirLine s (reqLine s r)) (reqLine s r) = some i →
    entryKind (setEntry (dirLine s (reqLine s r)) i) = .shared → ePtrs (setEntry (dirLine s (reqLine s r)) i) = [r.src] →
    ∃ t f, exec (.upgrade r) s = .next t ∧ Sent r.port { hdr := rspHdr 0x4C r.src (nodeId s) r.tag 0 f } s t ∧
      t.quay.dir = sset 0 s.quay.dir (dirKey s (reqLine s r))
        (setField (dirLine s (reqLine s r)) (128 * i) (mkOwned (reqLine s r) r.src)) ∧
      GrantOpen (reqLine s r) r t ∧ t.quay.lines = s.quay.lines ∧ t.dram.mem = s.dram.mem

/-- R182, R28, R29, R195: an uncached write of a line that no node holds is held in the Quay data partition, the page becomes dirty, and
CMP is returned. A WR_FULL holds every byte; a WR_PART holds the bytes of its mask over zeros, unmerged. No stored byte of DRAM
changes. -/
def Obligations.WritesAreHeld : Prop :=
  ∀ (s : State) (r : Req), ServedAtOnce s r → dirLine s (reqLine s r) = 0 → r.poison = false →
    (∃ t f q, exec (.wrFull r) s = .next t ∧ Sent r.port { hdr := rspHdr 0x4D r.src (nodeId s) r.tag 0 f } s t ∧
      qline t (reqLine s r) = some q ∧ q.data = r.data ∧ q.mask = BitVec.allOnes 64 ∧ q.dirty = true ∧ q.poison = false ∧
      dDirty (descRaw t (pageOf (reqLine s r))) = true ∧ t.quay.txns = [] ∧ t.quay.dir = s.quay.dir ∧ t.dram.mem = s.dram.mem) ∧
    (r.mask ≠ 0 → r.mask ≠ BitVec.allOnes 64 →
      ∃ t f q, exec (.wrPart r) s = .next t ∧ Sent r.port { hdr := rspHdr 0x4D r.src (nodeId s) r.tag 0 f } s t ∧
        qline t (reqLine s r) = some q ∧ q.data = overlay r.mask r.data 0 ∧ q.mask = r.mask ∧ q.dirty = true ∧
        dDirty (descRaw t (pageOf (reqLine s r))) = true ∧ t.quay.txns = [] ∧ t.quay.dir = s.quay.dir ∧ t.dram.mem = s.dram.mem)

/-- R183: each of the ten atomics on a line that no node holds stores its result and returns the old value in ATM_DATA. -/
def Obligations.AtomicsAreExecuted : Prop :=
  ∀ k ∈ atomicRows, ∀ (s : State) (r : Req), ServedAtOnce s r → dirLine s (reqLine s r) = 0 → atomicOk r = true →
    ∃ t f q, exec (k.1 r) s = .next t ∧
      Sent r.port { hdr := rspHdr 0x4E r.src (nodeId s) r.tag 0 f,
                    body := [(atomicLine { r with op := k.2 } 0).2.setWidth 128] } s t ∧
      qline t (reqLine s r) = some q ∧ q.data = (atomicLine { r with op := k.2 } 0).1 ∧ q.mask = BitVec.allOnes 64 ∧
      q.dirty = true ∧ dDirty (descRaw t (pageOf (reqLine s r))) = true ∧ t.quay.txns = [] ∧ t.dram.mem = s.dram.mem

/-- R174, R176, R180, Table 6.4: an eviction notice of the owner frees the entry and is answered WB_ACK; a dirty one first writes its line
to the home copy. -/
def Obligations.NoticesAreTaken : Prop :=
  ∀ (s : State) (r : Req) (i : Nat), ServedAtOnce s r →
    (List.range 4).any (fun k => eBad (setEntry (dirLine s (reqLine s r)) k)) = false →
    dirFind (dirLine s (reqLine s r)) (reqLine s r) = some i →
    entryKind (setEntry (dirLine s (reqLine s r)) i) = .owned → ePtr (setEntry (dirLine s (reqLine s r)) i) 0 = r.src →
    (∃ t f, exec (.evictClean r) s = .next t ∧ Sent r.port { hdr := rspHdr 0x4F r.src (nodeId s) r.tag 0 f } s t ∧
      t.quay.dir = sset 0 s.quay.dir (dirKey s (reqLine s r)) (setField (dirLine s (reqLine s r)) (128 * i) (0 : BitVec 128)) ∧
      t.quay.lines = s.quay.lines ∧ t.quay.notices = [] ∧ t.dram.mem = s.dram.mem) ∧
    (r.poison = false →
      ∃ t f q, exec (.evictDirty r) s = .next t ∧ Sent r.port { hdr := rspHdr 0x4F r.src (nodeId s) r.tag 0 f } s t ∧
        t.quay.dir = sset 0 s.quay.dir (dirKey s (reqLine s r)) (setField (dirLine s (reqLine s r)) (128 * i) (0 : BitVec 128)) ∧
        qline t (reqLine s r) = some q ∧ q.data = r.data ∧ q.mask = BitVec.allOnes 64 ∧ q.dirty = true ∧ t.quay.notices = [] ∧
        t.dram.mem = s.dram.mem)

/-- R175, R177, R296, Table 6.5: CMP_ACK ends the grant that it matches. A snoop response with another snoop still outstanding leaves the
transaction waiting for that one: RSP_I drops the holder, RSP_S keeps it as a sharer, RSP_I_CLEAN loses nothing, RSP_I_DATA and
RSP_S_DATA store the modified line in the home copy, RSP_FWD says that the requester is served, and ERR_CMP of an owner orphans the
line. -/
def Obligations.AnswersReachHome : Prop :=
  (∀ (s : State) (p : Rsp) (x : Txn), s.aon.mode = .service → s.quay.txns = [x] → x.phase = .ack → x.wbWait = [] →
    x.req.src = p.src → x.req.tag = p.tag → p.dst = nodeId s →
    HomeIdle s →
    ∃ t, exec (.cmpAck p) s = .next t ∧ t.quay.txns = [] ∧ t.quay.dir = s.quay.dir ∧ t.quay.lines = s.quay.lines ∧
      t.dram.mem = s.dram.mem) ∧
  (∀ (s : State) (p : Rsp) (x : Txn) (a b : SnoopOut), SnoopAwaited s p x a b → a.holder = .sharer →
    (∃ t, exec (.rspI p) s = .next t ∧ t.quay.txns = [{ x with snoops := [b] }] ∧ t.quay.lines = s.quay.lines) ∧
    (∃ t, exec (.rspS p) s = .next t ∧ t.quay.txns = [{ x with snoops := [b], kept := x.kept ++ [a.node] }] ∧
      t.quay.lines = s.quay.lines)) ∧
  (∀ (s : State) (p : Rsp) (x : Txn) (a b : SnoopOut), SnoopAwaited s p x a b → a.holder = .owner →
    (∃ t, exec (.rspIClean p) s = .next t ∧ t.quay.txns = [{ x with snoops := [b] }] ∧ t.quay.lines = s.quay.lines) ∧
    (Untouched s (txnLine x) → p.poison = false →
      (∃ t q, exec (.rspIData p) s = .next t ∧ t.quay.txns = [{ x with snoops := [b] }] ∧
        qline t (txnLine x) = some q ∧ q.data = p.data ∧ q.dirty = true) ∧
      (∃ t q, exec (.rspSData p) s = .next t ∧ t.quay.txns = [{ x with snoops := [b], kept := x.kept ++ [a.node] }] ∧
        qline t (txnLine x) = some q ∧ q.data = p.data ∧ q.dirty = true))) ∧
  (∀ (s : State) (p : Rsp) (x : Txn) (a b : SnoopOut), SnoopAwaited s p x a b → a.holder = .furnisher →
    (∃ t, exec (.rspFwd p) s = .next t ∧ t.quay.txns = [{ x with snoops := [b], fwdDone := true, fwdBy := some a.node }] ∧
      t.quay.lines = s.quay.lines)) ∧
  (∀ (s : State) (p : Rsp) (x : Txn) (a b : SnoopOut), SnoopAwaited s p x a b → a.holder = .owner →
    (∃ t, exec (.errCmp p) s = .next t ∧ t.quay.txns = [{ x with snoops := [b], orphan := 1, owner := a.node }]))

/-- R178, R179, Table 6.6: a snoop that reaches the device is answered from the state of its line at once: Table 6.6 gives the response, the
data that go with it and the line after it. -/
def Obligations.SnoopsAreAnswered : Prop :=
  ∀ k ∈ ([(.snpInv, .inv), (.snpShare, .share), (.snpFwdS, .fwd)] : List ((Req → Instr) × SnoopKind)), ∀ (s : State) (r : Req),
    s.aon.mode = .service → r.dst = nodeId s → portUp s r.port = true →
    ∃ t f, exec (k.1 r) s = .next t ∧
      Sent r.port { hdr := rspHdr (cacheAnswer k.2 (remoteOf s r.src r.line)).1 r.src (nodeId s) r.tag 0 f,
                    body := if (cacheAnswer k.2 (remoteOf s r.src r.line)).2.1 then lineSlots (remoteOf s r.src r.line).data else [] }
        s t ∧
      remoteOf t r.src r.line = (cacheAnswer k.2 (remoteOf s r.src r.line)).2.2 ∧
      (∀ n l, remoteKey n l ≠ remoteKey r.src r.line → remoteOf t n l = remoteOf s n l) ∧
      ChangesOnly { log := true, ev := true, quay := true, port := true, mgt := true } s t

/-- R117, R164, R178 to R180, R308, R309: a response to a request of the device. DATA_S, DATA_F, CMP_E and CMP install the copy that they
grant, and so does DATA_E, in which a waiting store is laid down at once; DATA_I and ATM_DATA keep the data; each ends with status OK. The
data of a speculative response wait for two more flits. WB_ACK frees the entry of the writeback buffer; ERR_CMP grants nothing; LATE_ALARM
turns an earlier response into ERR_DATA and drops its copy, and one that still waits is never installed. -/
def Obligations.RepliesAreTaken : Prop :=
  (∀ k ∈ ([(.dataE, 0x48), (.dataS, 0x49), (.dataF, 0x4A), (.cmpE, 0x4C), (.cmp, 0x4D)] : List ((Rsp → Instr) × BitVec 8)),
    ∀ (s : State) (p : Rsp) (d : DevReq), ReplyAwaited s p d → d.status = none → d.held = none → p.fwd = false →
      (p.spec = false →
        ∃ t, exec (k.1 p) s = .next t ∧ t.quay.devReqs = [{ d with status := some 0, spec := 0 }] ∧
          remoteOf t d.dst d.line = (if k.2 = 0x48 ∧ (d.op = 0x03 ∨ d.op = 0x04) then { st := .m, data := d.data }
            else installed k.2 d (remoteOf s d.dst d.line) p.data)) ∧
      (p.spec = true →
        ∃ t, exec (k.1 p) s = .next t ∧ t.quay.devReqs = [{ d with held := some (k.2, p.data), spec := 2 }] ∧
          remoteOf t d.dst d.line = remoteOf s d.dst d.line)) ∧
  (∀ k ∈ ([(.dataI, 0x4B), (.atmData, 0x4E)] : List ((Rsp → Instr) × BitVec 8)),
    ∀ (s : State) (p : Rsp) (d : DevReq), ReplyAwaited s p d → d.status = none → d.held = none → p.spec = false →
      ∃ t, exec (k.1 p) s = .next t ∧ t.quay.devReqs = [{ d with status := some 0, data := p.data, spec := 0 }] ∧
        remoteOf t d.dst d.line = remoteOf s d.dst d.line) ∧
  (∀ (s : State) (p : Rsp) (d : DevReq), ReplyAwaited s p d → d.status = none → (d.op = 0x40 ∨ d.op = 0x41) →
    ∃ t, exec (.wbAck p) s = .next t ∧ t.quay.devReqs = [] ∧ remoteOf t d.dst d.line = {}) ∧
  (∀ (s : State) (p : Rsp) (d : DevReq), ReplyAwaited s p d → d.status = none → d.held = none → s.quay.txns = [] → p.status.toNat < 5 →
    ∃ t, exec (.errCmp p) s = .next t ∧ t.quay.devReqs = [{ d with status := some p.status, spec := 0 }] ∧
      remoteOf t d.dst d.line = remoteOf s d.dst d.line) ∧
  (∀ (s : State) (p : Rsp) (d : DevReq), ReplyAwaited s p d →
    (d.status = some 0 → d.held = none →
      ∃ t, exec (.lateAlarm p) s = .next t ∧ t.quay.devReqs = [{ d with status := some 1, spec := 0 }] ∧ remoteOf t d.dst d.line = {}) ∧
    (d.status = none → d.held.isSome = true →
      ∃ t, exec (.lateAlarm p) s = .next t ∧ t.quay.devReqs = [{ d with status := some 1, held := none, spec := 0 }] ∧
        remoteOf t d.dst d.line = remoteOf s d.dst d.line))

/-- R114, R149, R154: the read of a berth line that returns good is delivered to the request that waits for it and fills the Quay data
partition; so is a re-read that returns good. -/
def Obligations.LinesReturn : Prop :=
  ∀ (s : State) (a : LineAddr) (err y : BitVec 640) (r : LineRead) (t : Txn), s.dram.reads = [r] → r.addr = a.toNat →
    DataAwaited s t → r.line = t.line → BerthLine s t.line a.toNat → ReadsAs s a.toNat err y →
    (r.again = false → ∃ u q, exec (.dramReadComplete a err) s = .next u ∧ Delivered s t (devLine (devs y)) u ∧ u.dram.reads = [] ∧
      qline u (BitVec.ofNat 39 t.line) = some q ∧ q.data = devLine (devs y) ∧ q.mask = BitVec.allOnes 64 ∧ q.dirty = false ∧
      u.dram.mem = s.dram.mem) ∧
    (r.again = true → r.merge = false →
      ∃ u q, exec (.lineRereadComplete a err) s = .next u ∧ Delivered s t (devLine (devs y)) u ∧ u.dram.reads = [] ∧
      qline u (BitVec.ofNat 39 t.line) = some q ∧ q.data = devLine (devs y) ∧ q.mask = BitVec.allOnes 64 ∧ q.dirty = false ∧
      u.dram.mem = s.dram.mem)

/-- R82, R98, R116, R117: a Warm line that decodes goes to its requester; a good verdict leaves the tag test as a marker and fills the
Quay data partition, the port sends nothing on it; a bad verdict leaves the port as LATE_ALARM; the key context of an Active entry is
expanded into a way of its set, and one that does not unwrap fills nothing. -/
def Obligations.VerdictsAndContexts : Prop :=
  (∀ (s : State) (l : Line) (t : Txn) (x : BitVec 512), DataAwaited s t → t.line = l.toNat →
    t.run = some (dGranule (descOf s (pageOf l))) → dState (descOf s (pageOf l)) = .warm →
    warmLine s (pageOf l) (l.toNat % 64) = some (x, false) → keyGone s (pageOf l) = false →
    (∀ k ∈ neededGranules s (pageOf l) (l.toNat % 64), ∃ y, granuleCheck s (pageOf l) (descOf s (pageOf l)) k = .valid y none) →
    ∃ u, exec (.warmLineDecode l none) s = .next u ∧ Delivered s t x u) ∧
  (∀ (s : State) (n : Node) (g : Tag) (x : Spec) (v : BitVec 512), s.quay.specs = [x] → x.node = n → x.tag = g → x.done = false →
    x.good = true → berthLine s (pageOf (BitVec.ofNat 39 x.line)) (x.line % 64) = some (v, false) →
    qline s (BitVec.ofNat 39 x.line) = none →
    (bankLines s (bankOf s (BitVec.ofNat 39 x.line))).length < dataCap s →
    ∃ u q, exec (.tagTestComplete n g) s = .next u ∧ u.quay.specs = [{ x with done := true }] ∧
      qline u (BitVec.ofNat 39 x.line) = some q ∧ q.data = v ∧ q.dirty = false ∧ u.quay.dir = s.quay.dir) ∧
  (∀ (s : State) (n : Node) (g : Tag) (p : Nat) (x : Spec), s.quay.specs = [x] → x.node = n → x.tag = g → x.done = true →
    x.port.toNat = p →
    (x.good = true → ∃ u, exec (.verdictArrival p n g) s = .next u ∧ u.quay.specs = [] ∧ u.port = s.port) ∧
    (x.good = false → (portOf s p).egress = [] → ∃ u, exec (.verdictArrival p n g) s = .next u ∧ u.quay.specs = [] ∧
      (portOf u p).egress = [{ hdr := rspHdr 0x5F n (nodeId s) g 1 {} }] ∧ OtherPortsKept p s u)) ∧
  (∀ (s : State) (k : BitVec 20), kState (keyEntry s k) = 1 →
    ∃ u, exec (.keyContextFill k) s = .next u ∧ u.quay.lines = s.quay.lines ∧ u.quay.desc = s.quay.desc ∧
      match keyCtxOf s k with
      | some (w, h) => ∃ i, i < 16 ∧ sget none u.quay.keyCtx (k.toNat % 256 * 16 + i) = some { keyId := k, kwork := w, h := h, st := 1 }
      | none => u.quay.keyCtx = s.quay.keyCtx)

/-- R35, R36, R52 to R55, R69, R71, R72, R123: page operations end in one descriptor update. A verified demand fault is noted and then
installed as a Warm run; a demotion of a page of zeros leaves it Unbacked; a promotion makes the page Hot; a compaction moves the run; a
relocation copies the next line; a rekey engine puts an unbacked page on the new key. -/
def Obligations.PageOperationsEnd : Prop :=
  (∀ (s : State) (page : Nat) (o : PageOp) (g : List (BitVec 512)), OpAlone s page .fault o → coldImage s page = some g →
    (o.read = false → ∃ u, exec (.demandFaultReadComplete page true) s = .next u ∧ u.tier.ops = [{ o with read := true }] ∧
      u.quay.desc = s.quay.desc) ∧
    (o.read = true → g.length ≤ 63 → (granFrame (descDie s page) g.length o.always s).isSome = true →
      ∃ u a, exec (.demandFaultInstallComplete page) s = .next u ∧
        PageIs u page (mkWarm (descOf s page) a (dSizesC (descOf s page)) (param s 0x02 0) s.tier.decayEpoch.toNat))) ∧
  (∀ (s v : State) (page : Nat) (o : PageOp) (l : List (BitVec 512 × Bool)), OpAlone s page .demotion o →
    dState (descOf s page) = .hot → storedLines page (readPage o.cls page s) = (l, v) → OpAlone v page .demotion o →
    dState (descOf v page) = .hot → (∀ x ∈ l, x = (0, false)) →
    ∃ u, exec (.demotionComplete page) s = .next u ∧ PageIs u page (dCommon (descOf v page) .unbacked)) ∧
  (∀ (s v w : State) (page : Nat) (o : PageOp) (l : List (BitVec 512 × Bool)), OpAlone s page .promotion o →
    dState (descOf s page) = .warm → warmLines s page = some l → decodeTile o.cls page s = some v →
    readGranules o.cls page (List.range ((dSizesW (descOf s page)).foldl (· + ·) 0)) v = w → OpAlone w page .promotion o →
    descOf w page = descOf s page → (newBerth page l o.always w).isSome = true →
    ∃ u f, exec (.promotionComplete page) s = .next u ∧
      PageIs u page (mkHot (descOf s page) f (dHot (descOf s page)) (dStamp (descOf s page)))) ∧
  (∀ (s : State) (page f : Nat) (o : PageOp), OpAlone s page .compaction o → dState (descOf s page) = .warm →
    dGranule (descOf s page) / 64 = o.dst → openFor s ((dSizesW (descOf s page)).foldl (· + ·) 0) = some f → f ≠ o.dst →
    (o.dst ∉ s.dram.openGran) → (readRun s page).isSome = true →
    ∃ u a, exec (.compactionMoveComplete page) s = .next u ∧ a / 64 = f ∧
      PageIs u page (setField (descOf s page) 48 (BitVec.ofNat 37 a))) ∧
  (∀ (s : State) (page : Nat) (o : PageOp) (err y : BitVec 640), OpAlone s page .relocation o →
    dState (descOf s page) = .retired → dSealed (descOf s page) = false → dCopied (descOf s page) < 63 →
    ReadsAs s (dDfa (descOf s page) * 64 + dCopied (descOf s page)) err y →
    ∃ u, exec (.relocationLineCopy page err) s = .next u ∧ u.tier.ops = [{ o with again := false }] ∧
      descRaw u page = setField (descOf s page) 110 (BitVec.ofNat 7 (dCopied (descOf s page) + 1))) ∧
  (∀ (s : State) (n page : Nat), (engineOf s n).active = true → s.led.pending = false → s.aon.mode = .service →
    rekeyNext s (engineOf s n) = some page → Quiet s → opOf s page = none → dState (descOf s page) = .unbacked →
    ∃ u, exec (.rekeyPageConversion n) s = .next u ∧ PageIs u page (dSeal (descOf s page) true (engineOf s n).new))

/-- R29, R31, R60, R61, R63: a line that leaves clean is dropped, and a dirty one of a Hot page is written to its berth, as stored under the
plain code where the page is not sealed; a merge that a read waits for, over an Unbacked page, completes the held line with zeros; the
decay epoch counts; a scanner visit passes to the next frame, and the visit of a berth decays its page. -/
def Obligations.LinesAndScanner : Prop :=
  (∀ (s : State) (l : Line) (q : QLine), Quiet s → qline s l = some q → q.dirty = false →
    ∃ u, exec (.lineEviction l) s = .next u ∧ qline u l = none ∧ u.quay.desc = s.quay.desc ∧ u.dram = s.dram) ∧
  (∀ (s v : State) (l : Line) (q : QLine) (a : Nat), Quiet s → qline s l = some q → q.dirty = true → q.mask = BitVec.allOnes 64 →
    loadCtr (pageOf l) s = v → Quiet v → opOf v (pageOf l) = none → dState (descOf v (pageOf l)) = .hot →
    lineAddr (descOf v (pageOf l)) (l.toNat % 64) = some a →
    ∃ u, exec (.lineEviction l) s = .next u ∧ qline u l = none ∧
      (dSealed (descOf v (pageOf l)) = false → dramContent u a = plainStore q.data q.poison)) ∧
  (∀ (s v : State) (l : Line) (q : QLine) (err : BitVec 640), Quiet s → qline s l = some q → q.mask ≠ BitVec.allOnes 64 →
    s.quay.merges.contains l.toNat = true → (∀ r ∈ s.dram.reads, r.merge = false) → loadCtr (pageOf l) s = v → Quiet v →
    dState (descOf v (pageOf l)) = .unbacked →
    ∃ u, exec (.partialLineMerge l err) s = .next u ∧ u.dram.mem = v.dram.mem ∧
      qline u l = some { q with data := overlay q.mask q.data 0, mask := BitVec.allOnes 64, dirty := true }) ∧
  (∀ s : State, s.aon.mode ≠ .watch → s.time.stopped = false →
    ∃ u, exec .decayEpochAdvance s = .next u ∧ u.tier.decayEpoch = s.tier.decayEpoch + 1 ∧ u.tier.ops = s.tier.ops) ∧
  (∀ s : State, s.aon.mode = .recovery → s.tier.scanPos + 1 < totalFrames s → Quiet s →
    (fUse (frameEntry s s.tier.scanPos) = 0 →
      ∃ u, exec .scannerVisit s = .next u ∧ u.tier.scanPos = s.tier.scanPos + 1 ∧ u.quay.desc = s.quay.desc) ∧
    (fUse (frameEntry s s.tier.scanPos) = 1 → framePending s (fPage (frameEntry s s.tier.scanPos)) = false →
      dReserved (descRaw s (fPage (frameEntry s s.tier.scanPos))) = false →
      ∃ u, exec .scannerVisit s = .next u ∧ u.tier.scanPos = s.tier.scanPos + 1 ∧
        descRaw u (fPage (frameEntry s s.tier.scanPos)) = decay s (descOf s (fPage (frameEntry s s.tier.scanPos)))))

/-- R139 to R144: refresh, row disturbance and write drain of a channel. A refresh with nothing queued leaves no refresh owed, one with
requests queued is postponed; a window clears the row tables; a threshold queues a mitigation; a drain is entered at DRAIN_HI and left at
DRAIN_LO. -/
def Obligations.ChannelsRefreshAndDrain : Prop :=
  (∀ (s : State) (c : Nat) (sub : Bool) (rank cid ba : Nat), chanRuns s c = true →
    ((chan s c).readQ = [] → (chan s c).writeQ = [] →
      ∃ u, exec (.refreshDue c sub rank cid ba) s = .next u ∧ sget 0 (chan u c).owed (refKey sub rank cid ba) = 0 ∧
        (chan u c).mitig = (chan s c).mitig ∧ u.dram.mem = s.dram.mem) ∧
    ((∃ q ∈ (chan s c).readQ, refKeyOf q.bank = refKey sub rank cid ba) → sget 0 (chan s c).owed (refKey sub rank cid ba) < 4 →
      ∃ u, exec (.refreshDue c sub rank cid ba) s = .next u ∧ OnlyChan c s u ∧ (chan u c).readQ = (chan s c).readQ ∧
        sget 0 (chan u c).owed (refKey sub rank cid ba) = sget 0 (chan s c).owed (refKey sub rank cid ba) + 1)) ∧
  (∀ s : State, ∃ u, exec .rdWindowStart s = .next u ∧ ∀ c, c < 16 → (chan u c).rowTable = [] ∧ (chan u c).mitig = (chan s c).mitig) ∧
  (∀ (s : State) (c bank row : Nat) (n : BitVec 16), (row, n) ∈ sget [] (chan s c).rowTable bank → dchParam s c 5 ≤ n.toNat →
    ∃ u, exec (.rdThresholdReached c bank row) s = .next u ∧ (chan u c).mitig = (chan s c).mitig ++ [(bank, row)] ∧
      (∀ m, (row, m) ∈ sget [] (chan u c).rowTable bank → m = 0) ∧ OnlyChan c s u) ∧
  (∀ (s : State) (c : Nat), chanRuns s c = true → draining (chan s c) = false → drainHi (chan s c) ≤ (chan s c).writeQ.length →
    ∃ u, exec (.writeDrainEntry c) s = .next u ∧ draining (chan u c) = true ∧ (chan u c).writeQ = (chan s c).writeQ) ∧
  (∀ (s : State) (c : Nat), s.aon.mode = .service → draining (chan s c) = true → (chan s c).writeQ.length ≤ drainLo (chan s c) →
    ∃ u, exec (.writeDrainExit c) s = .next u ∧ draining (chan u c) = false ∧ (chan u c).writeQ = (chan s c).writeQ ∧ OnlyChan c s u)

/-- R131, R142, R150, R155, R156: temperature, DIMM power, alerts and device marks. A PMIC fault takes the channel offline with reason 1;
a first alert is replayed; a device whose corrections reach DEV_MARK_TH is marked. -/
def Obligations.ChannelsAreWatched : Prop :=
  (∀ (s : State) (c slot temp : Nat), slot < (chan s c).pop.dimms →
    ∃ u, exec (.thermalSensorRead c slot temp) s = .next u ∧ (chan u c).temps = sset 0 (chan s c).temps slot temp ∧
      (chan u c).halved = decide (85 ≤ ((sset 0 (chan s c).temps slot temp).map Prod.snd).foldl max 0) ∧
      (chan u c).throttle = throttleOf (dchParam s c 14) (((sset 0 (chan s c).temps slot temp).map Prod.snd).foldl max 0)) ∧
  (∀ k ∈ ([Instr.pmicStatusRead, Instr.pmicInterrupt] : List (Nat → Nat → Bool → Instr)), ∀ (s : State) (c slot : Nat),
    slot < (chan s c).pop.dimms → (chan s c).offline = false → Quiet s →
    (∃ u, exec (k c slot true) s = .next u ∧ (chan u c).offline = true ∧ (chan u c).offlineWhy = 1 ∧ (chan u c).readQ = [] ∧
      u.dram.mem = s.dram.mem) ∧
    exec (k c slot false) s = .next s) ∧
  (∀ (s : State) (c : Nat) (sub ok : Bool) (rank : Nat), chanRuns s c = true → (chan s c).replays < 3 →
    ∃ u, exec (.dimmAlert c sub rank ok) s = .next u ∧ (chan u c).replays = (if ok then 0 else (chan s c).replays + 1) ∧
      (chan u c).offline = false) ∧
  (∀ s : State, ∃ u, exec .devMarkWinStart s = .next u ∧ ∀ c, c < 16 → (chan u c).corr = [] ∧ (chan u c).marks = (chan s c).marks) ∧
  (∀ (s : State) (c rank cid dev k : Nat) (sub : Bool), k = (if sub then 32 else 0) + rank * 2 ^ (chan s c).pop.cidBits + cid →
    dchParam s c 10 ≤ sget 0 (chan s c).corr (k * 16 + dev) → sget 0xF (chan s c).marks k = 0xF → dev ≤ 9 →
    ∃ u, exec (.devMarked c sub rank cid dev) s = .next u ∧ sget 0xF (chan u c).marks k = BitVec.ofNat 4 dev ∧
      ∀ j, j ≠ k → sget 0xF (chan u c).marks j = sget 0xF (chan s c).marks j)

/-- R139, R151 to R153, R158 to R162: the scrubber, self-refresh and training of a channel, and a command slot. A scrub read passes a
good line, rewrites a corrected one, and starts a new lap after the last line. A slot with one read opens the row of the read, and serves
it when the row is open. -/
def Obligations.ChannelsTrainAndServe : Prop :=
  (∀ (s : State) (c : Nat), chanRuns s c = true → s.aon.mode = .service → (chan s c).readQ.length < 8 → scrubPaced s c = true →
    (s.time.tide - (chan s c).scrubStart).toNat < dchParam s c 12 →
    (nextScrub s c = none →
      ∃ u, exec (.scrubRead c) s = .next u ∧ (chan u c).scrubPos = 0 ∧ (chan u c).scrubStart = s.time.tide ∧ OnlyChan c s u) ∧
    (∀ (a addr : Nat) (y : BitVec 640), nextScrub s c = some (a, addr) → BerthScrub s addr →
      (plainCheckLine (dramContent s addr) (markOf s addr) = .valid y none →
        ∃ u, exec (.scrubRead c) s = .next u ∧ (chan u c).scrubPos = a + 1 ∧ u.dram.mem = s.dram.mem ∧ u.quay.desc = s.quay.desc) ∧
      (∀ dev, plainCheckLine (dramContent s addr) (markOf s addr) = .valid y (some dev) →
        ∃ u, exec (.scrubRead c) s = .next u ∧ (chan u c).scrubPos = a + 1 ∧ dramContent u addr = y))) ∧
  (∀ (s : State) (c : Nat), chanRuns s c = true →
    ∃ u, exec (.selfRefreshEntry c) s = .next u ∧ (chan u c).selfRefresh = true ∧ (chan u c).drained = true ∧ (chan u c).writeQ = [] ∧
      sget {} u.sec.chSave c = { valid := true, marks := (chan s c).marks, scrubPos := (chan s c).scrubPos,
                                 refPhase := (chan s c).refPhase, phy := (chan s c).phy }) ∧
  (∀ (s : State) (c : Nat) (ok : Bool), (chan s c).selfRefresh = true → (chan s c).offline = false →
    (sget {} s.sec.chSave c).valid = true →
    ∃ u, exec (.selfRefreshExit c true ok) s = .next u ∧ (chan u c).selfRefresh = false ∧
      (chan u c).marks = (sget {} s.sec.chSave c).marks ∧ (chan u c).phy = (sget {} s.sec.chSave c).phy ∧
      (chan u c).scrubPos = (sget {} s.sec.chSave c).scrubPos ∧ OnlyChan c s u) ∧
  (∀ (s : State) (c : Nat) (pop : Population), c < numChans s → s.aon.mode = .harnessing →
    popTrains (modChan c (fun x => { x with pop := pop }) s) c pop = true →
    (∃ u, exec (.fullTraining c true pop) s = .next u ∧ (chan u c).trained = true ∧ (chan u c).calRestored = false ∧
      (chan u c).pop = pop ∧ (chan u c).scrubStart = s.time.tide ∧ u.dram.mem = s.dram.mem) ∧
    (∀ (i : Nat) (h : BitVec 512), newestSlot s c = some (i, h) → fieldNat h 7 4 = c →
      fieldNat h 23 8 = setRate (modChan c (fun x => { x with pop := pop }) s) c pop →
      h.extractLsb' 24 48 = pop.id0 → h.extractLsb' 72 48 = pop.id1 →
      ∃ u, exec (.calRecordRestore c true pop) s = .next u ∧ (chan u c).trained = true ∧ (chan u c).calRestored = true ∧
        (chan u c).marks = markOfRecord h ∧ (chan u c).phy = sget [] s.nor.calBody i ∧ u.nor = s.nor)) ∧
  (∀ (s : State) (c : Nat) (sub : Bool) (q : DramReq), chanRuns s c = true → (chan s c).owed = [] → (chan s c).mitig = [] →
    (chan s c).rfmDue = [] → (chan s c).readQ = [q] → (chan s c).readWait = [] → (chan s c).writeQ = [] → q.sub = sub →
    (chan s c).throttle ≠ 0xF → (regulates s = true → scaleOf s (instDch c) ≠ 0) → draining (chan s c) = false →
    ((chan s c).openRows = [] →
      ∃ u, exec (.dramCommandSlot c sub) s = .next u ∧ (chan u c).readQ = [q] ∧ u.dram.mem = s.dram.mem ∧
        sget none (chan u c).openRows q.bank = some { row := q.row, hint := q.hint, hits := 0, last := s.time.tide }) ∧
    (∀ r : OpenRow, (chan s c).openRows = [(q.bank, some r)] → r.row = q.row → r.last = s.time.tide → dchParam s c 3 ≠ 0 →
      dchParam s c 4 ≠ 0 →
      ∃ u, exec (.dramCommandSlot c sub) s = .next u ∧ (chan u c).readQ = [] ∧ u.dram.mem = s.dram.mem))

/-- R191 to R193, R195, R201, R202, R207, R209, R214: the writeback of pages. A window closes and publishes its ceiling; a probe compacts a
sparse segment into a new one and counts as a window of ten times its bytes; a page that reaches WB_AGE is queued, and leaves the queue
when its snapshot stands in a segment; a segment whose writes complete is marked written and its SEG_COMMIT goes to the logbook, and a
segment that commits cleans its page; a failed segment is given up and its dirty page is queued again; a map block goes to flash; the hot
list is rewritten on the SSDs that can be written. -/
def Obligations.PagesAreWrittenBack : Prop :=
  (∀ s : State, s.aon.mode = .service → LedgerRests s → s.led.order = [] →
    ∃ t, exec .dirtyCeilingWindow s = .next t ∧ t.led.windows = s.led.windows + 1 ∧ t.led.winBytes = 0 ∧ t.led.powerMax = 0 ∧
      t.aon.ceilPages = BitVec.ofNat 32 t.led.c ∧ t.aon.dirtyPages = BitVec.ofNat 32 (dirtyPages s) ∧
      (s.led.windows = 0 → t.led.c = 0)) ∧
  (∀ (s : State) (n : Nat), s.aon.mode = .service → 600 ≤ s.led.idleSecs → Quiet s →
    (s.led.segs = [] →
      ∃ t, exec (.flushBwProbe n) s = .next t ∧ t.led.bwHist = (10 * n :: s.led.bwHist).take 16 ∧ t.led.idleSecs = 0) ∧
    (∀ (q m : Nat) (g : Segment) (e : BitVec 128) (img data : List (BitVec 512)) (u : State), s.led.segTable = true →
      s.led.segs = [(q, some g)] → segSparse s g = true → g.entries = [e] → entryLive s g e = true →
      ssdUp s (ledSsd (dLedAddr (sget 0 s.led.mirror (sumPage e)))) = true →
      entryImage s (sumPage e) (sget 0 s.led.mirror (sumPage e)) = some img →
      segmentFor (sumPage e) (imageLen (sumSizes e)) s = some (m, u) → imageOf u (sumSealed e) (sumKey e) m (sumPage e) img = some data →
      ∃ t h x, exec (.flushBwProbe n) s = .next t ∧ t.led.bwHist = (10 * n :: s.led.bwHist).take 16 ∧ t.led.idleSecs = 0 ∧
        sget none t.led.segs m = some h ∧ h.entries = [x] ∧ sumPage x = sumPage e ∧ h.stale = [sumPage e] ∧ h.committed = false)) ∧
  (∀ (s : State) (page : Nat), LedgerRests s → dDirty (descOf s page) = true → inFlight s page = false →
    (pageBars s page false = true → ∃ t, exec (.wbAgeExpiry page) s = .next t ∧ t.led.queue = [page]) ∧
    (∀ (u : State) (g : List (BitVec 512)), pageBars s page false = false → page < 2 ^ 33 → s.led.segs = [] →
      dState (descOf s page) = .warm → readRun s page = some g → (∀ q ∈ quayLines s page, q = none) →
      packPage page (queuePage page s) = some u → Quiet u →
      ∃ t, exec (.wbAgeExpiry page) s = .next t ∧ t.led.queue = [] ∧ inFlight t page = true ∧ t.led.segs = u.led.segs ∧
        t.led.flash = u.led.flash)) ∧
  (∀ (s : State) (seq : Nat) (g : Segment), sget none s.led.segs seq = some g → g.written = false → g.committed = false →
    g.entries ≠ [] →
    (∃ t, exec (.segmentWritesComplete seq) s = .next t ∧ sget none t.led.segs seq = some { g with written := true } ∧
      t.led.order = s.led.order ∧ t.quay.desc = s.quay.desc) ∧
    (s.led.segs = [(seq, some g)] → seq < 2 ^ 64 → s.led.mapDirty = [] → recorded s seq = false → 0 < param s 0x07 12 →
      ∃ t r, exec (.segmentWritesComplete seq) s = .next t ∧ (g.ssd.toNat, r) ∈ t.led.logbook ∧ recType r = 1 ∧ recSeq r = seq ∧
        recRseq r = s.led.rseq.toNat)) ∧
  (∀ (s : State) (seq : Nat) (g : Segment) (e : BitVec 128), LedgerRests s → s.led.segs = [(seq, some g)] → g.written = true →
    g.committed = false → recorded s seq = true → g.entries = [e] → g.stale = [] → s.led.segTable = false →
    opOf s (sumPage e) = none → dState (descRaw s (sumPage e)) = .warm → dReserved (descRaw s (sumPage e)) = false →
    ∃ t h, exec (.segCommit seq) s = .next t ∧ sget none t.led.segs seq = some h ∧ h.committed = true ∧
      dDirty (descRaw t (sumPage e)) = false ∧ dLedger (descRaw t (sumPage e)) = true ∧ sumPage e ∉ t.led.order) ∧
  (∀ (s : State) (seq : Nat) (g : Segment), LedgerRests s → sget none s.led.segs seq = some g → g.committed = false →
    ((∀ e ∈ g.entries, dDirty (descOf s (sumPage e)) = false ∧ opOf s (sumPage e) = none) →
      ∃ t, exec (.nvmeWriteFailed seq) s = .next t ∧ t.led.segs = sset none s.led.segs seq none ∧ t.led.queue = []) ∧
    (∀ e, g.entries = [e] → s.led.segs = [(seq, some g)] → dDirty (descOf s (sumPage e)) = true → pageBars s (sumPage e) false = true →
      (∀ o, opOf s (sumPage e) = some o → o.kind ≠ .rekey) →
      ∃ t, exec (.nvmeWriteFailed seq) s = .next t ∧ t.led.segs = [] ∧ t.led.queue = [sumPage e])) ∧
  (∀ (s : State) (block : Nat), s.aon.mode = .service → LedgerRests s → mapWritable s block = true →
    ∃ t, exec (.mapBlockWriteback block) s = .next t ∧ sget 0 t.led.mapDirty block = 0 ∧
      ∀ i, i < 256 → sget 0 t.led.flashMap (i + 256 * block) = sget 0 s.led.mirror (i + 256 * block)) ∧
  (∀ s : State, s.aon.mode = .service →
    ∃ t, exec .hotListRewrite s = .next t ∧ ∀ page, sget 0 t.led.hotList page =
      (if ssdUp s (hotSsd s page) then hotCategory s page else sget 0 s.led.hotList page))

/-- R211 to R214, R497, Table 7.9: the SSDs. A critical warning marks an SSD failed; a command that times out resets its controller, and a
reset that does not complete marks it failed; an SSD whose items hold is ready, one that fails an item is rejected. -/
def Obligations.SsdsAreWatched : Prop :=
  (∀ (s : State) (i : Nat) (critical : Bool), (ssdIndices s).contains i = true → (ssdOf s i).present = true → (ssdOf s i).ready = true →
    LedgerRests s → s.led.segs = [] → s.led.mirror = [] →
    ∃ t, exec (.smartLogPoll i critical false) s = .next t ∧ (ssdOf t i).critical = critical ∧
      (ssdOf t i).failed = (critical || (ssdOf s i).failed)) ∧
  (∀ (s : State) (i : Nat), (ssdIndices s).contains i = true → (ssdOf s i).present = true → (ssdOf s i).failed = false →
    (ssdOf s i).resets = [] → LedgerRests s → s.led.segs = [] →
    ∃ t, exec (.ledgerTimeoutExpiry i) s = .next t ∧ (ssdOf t i).resetting = true ∧ (ssdOf t i).ready = false ∧
      (ssdOf t i).resets = [s.time.tide] ∧ (ssdOf t i).failed = false) ∧
  (∀ (s : State) (i : Nat), (ssdOf s i).resetting = true → (ssdOf s i).failed = false → LedgerRests s → s.led.segs = [] →
    s.led.mirror = [] →
    ∃ t, exec (.ssdResetTimeout i) s = .next t ∧ (ssdOf t i).failed = true ∧ (ssdOf t i).resetting = false) ∧
  (∀ (s : State) (i : Nat) (d : Identity), (ssdIndices s).contains i = true → s.aon.mode = .harnessing →
    inPlace s i d = true →
    (failedItem s d = 0 → s.led.chosen = false → (ssdOf s i).failed = false → s.led.openOwed = false → LedgerRests s →
      ∃ t, exec (.ssdReady i d) s = .next t ∧ (ssdOf t i).ready = true ∧ (ssdOf t i).queues = true ∧ (ssdOf t i).adminQ = 64 ∧
        (ssdOf t i).ioQ = param s 0x07 15 ∧ (ssdOf t i).present = true ∧ (ssdOf t i).rejected = false ∧ (ssdOf t i).nguid = d.nguid ∧
        (ssdOf t i).blocks = d.blocks) ∧
    (failedItem s d ≠ 0 →
      ∃ t, exec (.ssdReady i d) s = .next t ∧ (ssdOf t i).rejected = true ∧ (ssdOf t i).ready = false))

/-- R217 to R223, R404 to R406, Table 7.10: an outage. With no qualified feed the device enters Holdup; the dirty list is closed under a
fresh LIST_SEQ; the flush begins, and ends when nothing is dirty; DRAM enters self-refresh; Watch stops the tide counter; low energy
releases DRAM in Holdup and in Watch; a feed that returns is noted, and from Watch leads to Recovery. -/
def Obligations.OutageIsHeld : Prop :=
  (∀ s : State, anyFeed s = false → s.aon.mode = .service → Quiet s → s.tier.ops = [] → s.reins.hold = [] →
    ∃ t, exec .holdupEntry s = .next t ∧ Entered t .service .holdup 0x08 ∧ t.led.hStep = 1 ∧ t.led.feedBack = false) ∧
  (∀ s : State, s.aon.mode = .holdup → s.led.hStep = 1 →
    ∃ t, exec .holdupFreeze s = .next t ∧ t.led.hStep = 2 ∧ t.led.listPages = listOf s ∧ t.led.listSeq = s.led.nextSeq ∧
      t.led.nextSeq = s.led.nextSeq + 1 ∧ t.quay.desc = s.quay.desc) ∧
  (∀ s : State, s.aon.mode = .holdup → s.led.hStep = 2 → LedgerRests s → s.led.segs = [] →
    (s.led.listPages = [] →
      ∃ t, exec .dirtyListCommitted s = .next t ∧ t.led.hStep = 3 ∧ t.led.queue = [] ∧ t.quay.desc = s.quay.desc ∧
        (∀ i, firstReady s = some i → ∃ r, (i, r) ∈ t.led.logbook ∧ recType r = 3 ∧ recSeq r = s.led.listSeq.toNat)) ∧
    (∀ (page i : Nat) (f : Nat × Nat), s.led.listPages = [page] → s.led.frags = [f] → firstReady s = some i →
      dDirty (descOf s page) = true →
      (pageBars s page false = true →
        ∃ t r, exec .dirtyListCommitted s = .next t ∧ t.led.hStep = 3 ∧ t.led.queue = [page] ∧ (i, r) ∈ t.led.logbook ∧
          recType r = 3 ∧ recSeq r = s.led.listSeq.toNat) ∧
      (∀ u, pageBars s page false = false → packPage page { writeList { s with led.hStep := 3 } with led.queue := [page] } = some u →
        Quiet u →
        ∃ t, exec .dirtyListCommitted s = .next t ∧ t.led.hStep = u.led.hStep ∧ t.led.segs = u.led.segs ∧ t.led.flash = u.led.flash ∧
          t.led.queue = u.led.queue.filter (· ≠ page)))) ∧
  (∀ s : State, s.aon.mode = .holdup → s.led.hStep = 3 → dirtyPages s = 0 → s.tier.ops = [] →
    ∃ t, exec .holdupFlushCommitted s = .next t ∧ t.led.hStep = 5 ∧ t.led.allDone = true ∧ t.sec.valid = t.dram.descSummary ∧
      (∀ i, firstReady s = some i → ∃ r, (i, r) ∈ t.led.logbook ∧ recType r = 4 ∧ recSeq r = s.led.listSeq.toNat) ∧
      (s.quay.lines = [] → t.sec.valid = s.dram.descSummary ∧ t.quay.desc = s.quay.desc)) ∧
  (∀ s : State, s.aon.mode = .holdup → s.led.hStep = 5 → s.led.feedBack = false →
    (∀ p, (portOf s p).st = .off ∧ (portOf s p).held = false) →
    ∃ t, exec .holdDoneWritten s = .next t ∧ t.led.hStep = 6 ∧ t.aon.mode = .holdup ∧
      ∀ c, chanRuns s c = true → (chan t c).selfRefresh = true) ∧
  (∀ s : State, s.aon.mode = .holdup → s.led.hStep = 6 →
    ∃ t, exec .watchEntry s = .next t ∧ Entered t .holdup .watch 0x0C ∧ t.time.stopped = true ∧ t.led.hStep = 0 ∧
      t.pin.railEn = 0x21) ∧
  (∀ (s : State) (e : Nat), s.aon.mode = .holdup → 1 ≤ s.led.hStep → s.led.hStep < 5 → e ≤ param s 0x07 2 →
    ∃ t, exec (.holdupEnergyCheck e) s = .next t ∧ Entered t .holdup .stall 0x0E ∧ t.aon.released = true ∧
      t.aon.dramRetained = false) ∧
  (∀ s : State, s.aon.mode = .holdup → anyFeed s = true → s.led.hStep ≠ 6 →
    exec .feedReturnInHoldup s = .next { s with led.feedBack := true, aon.returnTide := s.time.tide }) ∧
  (∀ (s : State) (e : Nat), s.aon.mode = .watch →
    (e ≤ param s 0x07 2 → ∃ t, exec (.watchPeriodSample e none) s = .next t ∧ Entered t .watch .stall 0x10 ∧ t.aon.released = true) ∧
    (param s 0x07 2 < e → s.ppd.linkUp = true → slotFaulted s = none → exec (.watchPeriodSample e none) s = .next s)) ∧
  (∀ s : State, s.aon.mode = .watch → anyFeed s = true → slotFaulted s = none → s.aon.dramRetained = false → Quiet s → s.port = [] →
    ∃ t, exec .watchExit s = .next t ∧ Entered t .watch .recovery 0x0F ∧ t.led.hStep = 0)

/-- R199, R225 to R230, R407, R408: the return from an outage. The tide counter advances by the counted cycles; the slow period is
calibrated; the newest manifest is chosen; a replay leaves every frame pending; frames are restored one by one to what their map entries
say; a page of the hot list is read in RESTORE_CLASS; the first pass ends; feeds that fail in Recovery lead to Holdup with DRAM
retained. -/
def Obligations.OutageIsRecovered : Prop :=
  (∀ (s : State) (n : Nat), s.time.stopped = true → s.aon.mode ≠ .watch → s.time.slowFail = false →
    ∃ t, exec (.tideResume n) s = .next t ∧ t.time.stopped = false ∧
      t.time.tide = s.time.tide + BitVec.ofNat 64 (n * s.time.slowPeriod.toNat / 1024 / 16 * 16) ∧
      t.time.lastBound = BitVec.ofNat 32 (min (tideBound s (n * s.time.slowPeriod.toNat / 1024 / 16 * 16)) (2 ^ 32 - 1)) ∧
      t.log.rate = []) ∧
  (∀ (s : State) (n : Nat), s.aon.mode ≠ .watch → s.time.stopped = false → s.time.slowFail = false → s.time.fastFail = false →
    exec (.slowPeriodCalibration n) s = .next { s with time.slowPeriod := BitVec.ofNat 32 (n * 40), time.calValid := true }) ∧
  (∀ (s : State) (m : Manifest), s.aon.mode = .harnessing → s.aon.loaded = true → param s 0x07 17 = 0 →
    (∀ i ∈ ssdIndices s, ssdUp s i = true) → newest (copies s) = some m → manifestFault s m = none →
    exec .manifestChoice s = .next { s with led.manifest := some m, led.chosen := true, led.inconsistent := 0 }) ∧
  (∀ s : State, s.aon.mode = .recovery → s.led.chosen = true → s.led.pending = false → s.led.segTable = false →
    ∃ t, exec .ledgerReplay s = .next t ∧ t.led.pending = true ∧ t.led.restored = [] ∧ t.led.restorePhase = 1 ∧
      t.led.restorePos = 0 ∧ t.aon.restoring = true) ∧
  (∀ (s : State) (f : Nat), Quiet s → s.led.pending = true → sget false s.led.restored f = false → 256 * f < numPages s →
    ∃ t, exec (.pendingFrameRestore f) s = .next t ∧ t.led.restored = sset false s.led.restored f true ∧
      ∀ page, 256 * f ≤ page → page < 256 * f + 256 → page < numPages s → (restoredDesc s page).1 ≠ 0 →
        descRaw t page = (restoredDesc s page).1) ∧
  (∀ s : State, s.aon.mode = .recovery → s.led.restorePhase = 1 →
    (numPages s ≤ 256 * s.led.restorePos →
      exec .backgroundRestorePage s = .next { s with led.restorePhase := 2, led.restorePos := 0 }) ∧
    (256 * s.led.restorePos < numPages s → Quiet s →
      ∃ t, exec .backgroundRestorePage s = .next t ∧ t.led.restorePos = s.led.restorePos + 1 ∧
        sget false t.led.restored s.led.restorePos = true ∧
        (sget false s.led.restored s.led.restorePos = false → ∀ page, 256 * s.led.restorePos ≤ page →
          page < 256 * s.led.restorePos + 256 → page < numPages s → (restoredDesc s page).1 ≠ 0 →
          descRaw t page = (restoredDesc s page).1))) ∧
  (∀ (s v : State) (cat p : Nat), s.aon.mode = .recovery → cat = 5 - s.led.restorePhase → 2 ≤ s.led.restorePhase → s.led.restorePhase ≤ 4 →
    atWm s 8 = false → nextHot s cat s.led.restorePos = some p → descFix p s = v → dState (descOf v p) = .cold → opOf v p = none →
    faultRoom v = true → capRoom v (restoreClass v) = true →
    ∃ t o, exec .backgroundRestorePage s = .next t ∧ t.led.restorePos = p + 1 ∧ t.tier.ops = v.tier.ops ++ [o] ∧ o.page = p ∧
      o.kind = .fault ∧ o.cls = (roleWork v 3).cls ∧ (2 ≤ cat → atWm v 7 = false → o.restore = 2)) ∧
  (∀ s : State, 2 ≤ s.led.restorePhase → s.led.segTable = false → LedgerRests s →
    ∃ t, exec .restoreFirstPassEnd s = .next t ∧ t.led.segTable = true ∧ t.led.pending = false ∧ t.led.overlay = [] ∧
      t.quay.desc = s.quay.desc) ∧
  (∀ s : State, anyFeed s = false → s.aon.mode = .recovery → s.aon.dramRetained = true → Quiet s → s.tier.ops = [] →
    s.reins.hold = [] →
    ∃ t, exec .feedsFailInRecovery s = .next t ∧ Entered t .recovery .holdup 0x09 ∧ t.led.hStep = 1) ∧
  (∀ s : State, anyFeed s = false → s.aon.mode = .harnessing → s.aon.dramRetained = false → s.aon.writeAccepted = false →
    ∃ t, exec .feedsFailInRecovery s = .next t ∧ Entered t .harnessing .stall 0x0A)

/-- R232, R237, R239, R242, R247, R390: a budget window starts with no usage; a request that has waited AGE_LIMIT is no longer lowered; one
past OVERDUE_LIMIT ranks as overdue; a held request leaves its port's buffer, in Service to be served at its home, in Maintenance with
ERR_NODATA. -/
def Obligations.ReinsAreApplied : Prop :=
  (∀ s : State, Quiet s →
    ∃ t, exec .budgetWindowStart s = .next t ∧ t.reins.usage = [] ∧ t.reins.lowered = [] ∧ t.reins.anyLow = [] ∧
      t.reins.dirtying = [] ∧ t.reins.dirtyPrev = s.reins.dirtying ∧ t.quay = s.quay ∧ t.dram = s.dram) ∧
  (∀ (s : State) (w : Waiter), s.quay.txns = [] → s.reins.waiters = [] → s.quay.busy = [w] →
    exec (.ageLimitExpiry w.req.src w.req.tag) s = .next { s with quay.busy := [{ w with aged := true }] }) ∧
  (∀ (s : State) (w : Waiter) (d : Nat), s.reins.waiters = [] → s.quay.busy = [w] → w.due = some d → w.overdue = false →
    ∃ t, exec (.overdueLimitReached w.req.src w.req.tag) s = .next t ∧ t.quay.busy = [{ w with overdue := true }] ∧
      t.quay.txns = s.quay.txns) ∧
  (∀ (s : State) (p : Nat) (w : Waiter), s.aon.mode = .maintenance → sget [] s.reins.hold p = [w] →
    capRoom s w.req.cls = true → w.req.src ≠ nodeId s → portUp s w.req.port = true →
    ∃ t, exec (.capHoldRelease p w.req.cls) s = .next t ∧ sget [] t.reins.hold p = [] ∧
      Sent w.req.port { hdr := rspHdr 0x5E w.req.src (nodeId s) w.req.tag 2 {} } s t) ∧
  (∀ (s : State) (p : Nat) (w : Waiter), sget [] s.reins.hold p = [w] → w.req.op = 0x01 → w.lost = false → capRoom s w.req.cls = true →
    ServedAtOnce { s with reins.hold := sset [] s.reins.hold p [] } w.req → dirLine s (reqLine s w.req) = 0 →
    ∃ t f, exec (.capHoldRelease p w.req.cls) s = .next t ∧ sget [] t.reins.hold p = [] ∧
      Sent w.req.port { hdr := rspHdr 0x4B w.req.src (nodeId s) w.req.tag 0 f, body := lineSlots 0 } s t ∧
      GrantOpen (reqLine s w.req) w.req t ∧ t.dram.mem = s.dram.mem)

/-- R328 to R331: reservations. A request to a destination that grants is granted what is free; one to a sleeping domain is held at its
gateway and wakes it; a grant is used, and what it frees may be pooled up to POOL_MAX (log entry 23); unused reservations are revoked and
returned. -/
def Obligations.ReservationsAreKept : Prop :=
  (∀ (s : State) (q : RsvMsg), 1 ≤ q.count → q.count ≤ 255 → sget 0 s.noc.asked (rsvKey q.src q.dst q.res) = 0 → s.noc.waiting = [] →
    s.noc.bridge = [] → s.noc.queues = [] → s.noc.fifo = [] →
    (mayGrant s q.dst = true → rsvRoom s q.dst q.res q.count ≠ 0 →
      ∃ t, exec (.rsvReq q) s = .next t ∧ t.noc.waiting = [] ∧ sget 0 t.noc.asked (rsvKey q.src q.dst q.res) = q.count ∧
        sget 0 t.noc.granted (rsvKey q.src q.dst q.res) =
          sget 0 s.noc.granted (rsvKey q.src q.dst q.res) + rsvRoom s q.dst q.res q.count) ∧
    (∀ n, epDomain q.dst = some n → (domOf s n).st = .asleep →
      ∃ t, exec (.rsvReq q) s = .next t ∧ (domOf t n).wakeEvent = true ∧ (domOf t n).heldRsv.length = (domOf s n).heldRsv.length + 1 ∧
        t.noc.waiting = [] ∧ t.noc.granted = s.noc.granted)) ∧
  (∀ (s : State) (q : RsvMsg), s.noc.waiting = [] → 1 ≤ q.count → q.count ≤ sget 0 s.noc.asked (rsvKey q.src q.dst q.res) →
    q.count + sget 0 s.noc.unused (rsvKey q.src q.dst q.res) ≤ sget 0 s.noc.granted (rsvKey q.src q.dst q.res) →
    ∃ t p, exec (.rsvGrant q) s = .next t ∧ sget 0 t.noc.asked (rsvKey q.src q.dst q.res) = 0 ∧
      sget 0 t.noc.unused (rsvKey q.src q.dst q.res) = sget 0 s.noc.unused (rsvKey q.src q.dst q.res) + p ∧
      sget 0 t.noc.granted (rsvKey q.src q.dst q.res) = sget 0 s.noc.granted (rsvKey q.src q.dst q.res) - q.count + p ∧
      p ≤ param s 0x0B 0 - sget 0 s.noc.unused (rsvKey q.src q.dst q.res)) ∧
  (∀ (s : State) (q : RsvMsg), sget 0 s.noc.unused (rsvKey q.src q.dst q.res) ≠ 0 →
    ∃ t, exec (.rsvRevoke q) s = .next t ∧ sget 0 t.noc.unused (rsvKey q.src q.dst q.res) = 0 ∧ t.noc.granted = s.noc.granted ∧
      t.noc.dom = s.noc.dom) ∧
  (∀ (s : State) (q : RsvMsg), s.noc.waiting = [] →
    q.count + sget 0 s.noc.unused (rsvKey q.src q.dst q.res) ≤ sget 0 s.noc.granted (rsvKey q.src q.dst q.res) →
    ∃ t, exec (.rsvReturn q) s = .next t ∧ t.noc.asked = s.noc.asked ∧
      sget 0 t.noc.granted (rsvKey q.src q.dst q.res) = sget 0 s.noc.granted (rsvKey q.src q.dst q.res) - q.count)

/-- R330, R331, R396: a domain whose grants are all used powers down; a wake event wakes it; a woken domain grants again. -/
def Obligations.DomainsSleepAndWake : Prop :=
  (∀ (s : State) (n : Nat), (domOf s n).st = .entering → (domOf s n).inflight = 0 → (∀ k, (domOf s k).wakeEvent = false) →
    ∃ t, exec (.domainDrainComplete n) s = .next t ∧ (domOf t n).st = .asleep) ∧
  (∀ (s : State) (n : Nat), n < 152 → domExists s n = true → (domOf s n).st = .asleep →
    (∀ k ∈ groupDoms s (domGroup s n), (domOf s k).st ≠ .entering) →
    ∃ t, exec (.domainWake n) s = .next t ∧ (domOf t n).st = .waking ∧ (domOf t n).wakeEvent = false) ∧
  (∀ (s : State) (n : Nat), n < 96 → (domOf s n).st = .waking → (domOf s n).heldRsv = [] →
    exec (.domainWakeComplete n) s = .next (setDom n { domOf s n with st := .awake, heldRsv := [], wakeEvent := false } s))

/-- R320, R322, R332, R333, R335, Table 11.6: errors of the mesh and the bridge, route epochs and the freeze. The eighth consecutive
replay takes a bridge port down; the sources stamp a new epoch and the old one retires when its totals are equal; a freeze holds the
capture until it is released, and a trigger while a dump is held is counted. -/
def Obligations.MeshIsWatched : Prop :=
  (∀ (s : State) (r p : Nat), s.frz.held = false →
    ∃ t, exec (.nocUe r p) s = .next t ∧ t.frz.held = true ∧ t.noc.stuckConsumed = s.noc.stuckConsumed + 1 ∧ t.noc.dom = s.noc.dom) ∧
  (∀ (s : State) (b : Nat), (bridgeOf s b).down = false → s.fuse.variantH = false →
    ((bridgeOf s b).replays < 7 → exec (.bridgeUnitReplay b) s =
      .next { s with noc.bridge := sset {} s.noc.bridge b { bridgeOf s b with replays := (bridgeOf s b).replays + 1 } }) ∧
    ((bridgeOf s b).replays = 7 → ∃ t, exec (.bridgeUnitReplay b) s = .next t ∧ (bridgeOf t b).down = true)) ∧
  (∀ s : State, s.noc.ackPending = true → s.noc.retiring = none →
    ∃ t, exec .routeEpochSwitch s = .next t ∧ t.noc.epoch = (!s.noc.epoch) ∧ t.noc.retiring = some s.noc.epoch ∧
      t.noc.ackPending = false ∧ t.noc.routes = s.noc.routes) ∧
  (∀ (s : State) (e : Bool), s.noc.retiring = some e →
    (sget 0 s.noc.injected (if e then 1 else 0) = sget 0 s.noc.ejected (if e then 1 else 0) →
      exec .epochRetirement s = .next { s with noc.retiring := none }) ∧
    (sget 0 s.noc.injected (if e then 1 else 0) ≠ sget 0 s.noc.ejected (if e then 1 else 0) → s.frz.held = false →
      ∃ t, exec .routeStuck s = .next t ∧ t.frz.held = true ∧ t.noc = s.noc)) ∧
  (∀ (s : State) (k : BitVec 4), s.frz.held = false →
    ∃ t, exec (.freeze k) s = .next t ∧ t.frz = { s.frz with held := true, routersDone := 0 } ∧ t.noc = s.noc) ∧
  (∀ (s : State) (k : BitVec 4), s.frz.held = true → s.frz.ignored ≠ 0xFF →
    exec (.freeze k) s = .next { s with frz.ignored := s.frz.ignored + 1 }) ∧
  (∀ s : State, s.frz.held = true → s.frz.routersDone = 0 →
    ∃ t, exec .freezeDumpComplete s = .next t ∧ t.frz.routersDone = BitVec.ofNat 8 (48 * numDies s) ∧ t.frz.held = true ∧
      t.noc = s.noc) ∧
  (∀ s : State, s.frz.held = true → exec .release s = .next { s with frz.held := false, frz.routersDone := 0 })

/-- R335, R336: the freeze area holds each router's capture ring, the oldest header first. -/
def Obligations.DumpHoldsTheRings : Prop :=
  ∀ (s t : State) (r i : Nat) (h : BitVec 256), s.frz.held = true → s.frz.routersDone = 0 → exec .freezeDumpComplete s = .next t →
    (∀ k, (sget [] s.noc.rings k).length ≤ 64) → r < 48 * numDies s → (sget [] s.noc.rings r).reverse[i]? = some h →
    sget 0 t.frz.area (64 * r + i) = h

/-- R338 to R346, R348: rings. A ring whose context passes the checks runs, and one that is disabled with nothing in progress stops;
doorbells move SQ_TAIL and CQ_HEAD; a fetched entry that passes its checks is a command; a finished command is posted as 16 bytes at
CQ_TAIL. -/
def Obligations.RingsRun : Prop :=
  (∀ (s : State) (r : Nat) (w : BitVec 32), ringExists s r = true → Quiet s → rEnable (ctxOf s r) = false → rState (ctxOf s r) = 0 →
    enableCheck s r (setField (ctxOf s r) 0 ((w ||| 1) &&& 0xFFFFF007)) = 0 →
    ∃ t, exec (.ringEnable 0 r w) s = .next t ∧ rState (ctxOf t r) = 1 ∧ rEnable (ctxOf t r) = true ∧ rPhase (ctxOf t r) = true ∧
      rSqHead (ctxOf t r) = 0 ∧ rSqTail (ctxOf t r) = 0 ∧ rInProg (ctxOf t r) = 0 ∧ t.aon.i3cStatus = 0) ∧
  (∀ (s : State) (r : Nat) (w : BitVec 32), ringExists s r = true → Quiet s → s.rings.cmds = [] →
    (ctxOf s r).extractLsb' 0 32 = w → w &&& 0xFFFFF007 = w → rEnable (ctxOf s r) = true → rInProg (ctxOf s r) = 0 →
    ∃ t, exec (.ringDisable 0 r w) s = .next t ∧ rState (ctxOf t r) = 0 ∧ rEnable (ctxOf t r) = false) ∧
  (∀ (s : State) (r : Nat) (n : Node) (v : BitVec 32), ringExists s r = true → rState (ctxOf s r) = 1 →
    (fieldNat v 15 0 < 2 ^ rSqLog (ctxOf s r) →
      ∃ t, exec (.ringDbSqTail 0 n r v) s = .next t ∧ ctxOf t r = setField (ctxOf s r) 208 (BitVec.ofNat 16 (fieldNat v 15 0)) ∧
        t.rings.pend = s.rings.pend) ∧
    (fieldNat v 15 0 < 2 ^ rCqLog (ctxOf s r) →
      ∃ t, exec (.ringDbCqHead 0 n r v) s = .next t ∧ ctxOf t r = setField (ctxOf s r) 224 (BitVec.ofNat 16 (fieldNat v 15 0)))) ∧
  (∀ (s u : State) (m r : Nat) (x : BitVec 512), pickRing s m = some r →
    readLine (BitVec.ofNat 39 (rSqBase (ctxOf s r) * 64 + rSqHead (ctxOf s r))) (rClass (ctxOf s r)) 0xFFF s = (.bytes x, u) → Quiet u →
    checkEntry u (rSetInProg (rInProg (ctxOf s r) + 1)
      (setField (ctxOf s r) 192 (BitVec.ofNat 16 ((rSqHead (ctxOf s r) + 1) % 2 ^ rSqLog (ctxOf s r))))) x = none →
    ∃ t, exec (.ringFetch m) s = .next t ∧
      t.rings.cmds = u.rings.cmds ++ [{ ring := r, idx := rSqHead (ctxOf s r), entry := x, fetchTick := tick u }]) ∧
  (∀ (s : State) (c : RCmd) (l : Line), s.rings.cmds = [c] → c.finished = true → c.lost = false → Quiet s → s.led.pending = false →
    l = BitVec.ofNat 39 (rCqBase (ctxOf s c.ring) * 64 + rCqTail (ctxOf s c.ring) / 4) → Untouched s l → dirLine s l = 0 →
    unfoldLine (indexBits s) (foldLine (indexBits s) l) = l →
    ∃ t q, exec (.completionPost c.ring c.idx) s = .next t ∧ t.rings.cmds = [] ∧
      rCqTail (ctxOf t c.ring) = (rCqTail (ctxOf s c.ring) + 1) % 2 ^ rCqLog (ctxOf s c.ring) % 2 ^ 16 ∧ qline t l = some q ∧
      q.mask = BitVec.ofNat 64 (0xFFFF * 2 ^ (16 * (rCqTail (ctxOf s c.ring) % 4))) ∧
      q.data = overlay (BitVec.ofNat 64 (0xFFFF * 2 ^ (16 * (rCqTail (ctxOf s c.ring) % 4))))
        (place 512 (128 * (rCqTail (ctxOf s c.ring) % 4)) (cqEntry c (ctxOf s c.ring) (assured s))) 0)

/-- R346, R350, R351, R352, R354: data movement. COPY, FILL, COMPARE and SNAPSHOT start; a LENGTH of 0 ends with SUCCESS; a unit of FILL
stores its pattern, a unit of COPY what its source holds, a unit of COMPARE ends where the lines are equal; ZERO of a page leaves it with
no storage and no line in the Quay data partition; a SNAPSHOT's point is fixed once. -/
def Obligations.MoversRun : Prop :=
  (∀ k ∈ ([(.copy, 0x01), (.fill, 0x02), (.compare, 0x03), (.snapshot, 0x0A)] : List ((Nat → Nat → Instr) × Nat)),
    ∀ (s : State) (c : RCmd), CommandAlone s c k.2 →
      (eLen c.entry ≠ 0 → exec (k.1 c.ring c.idx) s = .next { s with rings.cmds := [{ c with started := true }] }) ∧
      (eLen c.entry = 0 → ∃ t, exec (k.1 c.ring c.idx) s = .next t ∧ Ended t c 0 0 0 ∧ t.quay = s.quay)) ∧
  (∀ (s : State) (c : RCmd) (l : Line), s.rings.cmds = [c] → eOp c.entry = 0x02 → c.started = true → c.finished = false → c.pos = 0 →
    c.firstBad = none → eLen c.entry = 64 → eDst c.entry = l.toNat * 64 → Quiet s → s.led.pending = false → Untouched s l →
    dirLine s l = 0 →
    ∃ t q, exec (.moverUnitComplete c.ring c.idx) s = .next t ∧ qline t l = some q ∧ q.data = patternLine (eArg0 c.entry) ∧
      q.mask = BitVec.allOnes 64 ∧ q.dirty = true ∧ Ended t c 0 0 64 ∧ t.dram.mem = s.dram.mem) ∧
  (∀ (s : State) (c : RCmd) (a l : Line), s.rings.cmds = [c] → c.started = true → c.finished = false → c.pos = 0 → c.firstBad = none →
    eLen c.entry = 64 → eSrc c.entry = a.toNat * 64 → eDst c.entry = l.toNat * 64 → pageOf a ≠ pageOf l → Quiet s →
    s.led.pending = false → Untouched s a → Untouched s l → dirLine s a = 0 → dirLine s l = 0 →
    (eOp c.entry = 0x01 →
      ∃ t q, exec (.moverUnitComplete c.ring c.idx) s = .next t ∧ qline t l = some q ∧ q.data = 0 ∧ q.mask = BitVec.allOnes 64 ∧
        q.dirty = true ∧ Ended t c 0 0 64) ∧
    (eOp c.entry = 0x03 →
      ∃ t, exec (.moverUnitComplete c.ring c.idx) s = .next t ∧ qline t l = none ∧ Ended t c 0 0 64)) ∧
  (∀ (s : State) (c : RCmd) (page : Nat), CommandAlone s c 0x04 → eLen c.entry = 4096 → eDst c.entry = page * 4096 → page < 2 ^ 33 →
    s.quay.dir = [] → dReserved (descRaw s page) = false →
    ∃ t, exec (.zero c.ring c.idx) s = .next t ∧ Ended t c 0 0 4096 ∧ descRaw t page = zeroDesc (descOf s page) ∧
      ∀ l, pageOf l = page → qline t l = none) ∧
  (∀ (s : State) (c : RCmd), s.rings.cmds = [c] → isSnapshot c = true → c.fixed = false → Quiet s →
    exec (.snapshotPointFixed c.ring c.idx) s = .next { s with rings.cmds := [{ c with fixed := true }] })

/-- R65, R353, R355, R356: the commands over pages, on one page. PIN_HOT and UNPIN write PIN; DEMOTE moves a clean page to its ledger
copy; PREFETCH opens the demand fault of a Cold page; PERSIST_BARRIER ends when nothing is dirty, and else writes its pages back and waits
for them; QUERY_TIER writes the record of Table 12.6; SCRUB_RANGE finds nothing wrong in good lines. -/
def Obligations.PageCommandsRun : Prop :=
  (∀ (s : State) (c : RCmd) (page : Nat), CommandAlone s c 0x05 → eLen c.entry = 4096 → eDst c.entry = page * 4096 →
    dState (descOf s page) = .hot → dPin (descOf s page) = false → dReserved (descRaw s page) = false → pinFits s [page] = true →
    ∃ t, exec (.pinHot c.ring c.idx) s = .next t ∧ Ended t c 0 0 1 ∧ descRaw t page = dFlag (descOf s page) 26 true) ∧
  (∀ (s : State) (c : RCmd) (page : Nat), CommandAlone s c 0x06 → eLen c.entry = 4096 → eDst c.entry = page * 4096 →
    dPin (descOf s page) = true → dReserved (descRaw s page) = false → queuePageOf s page = false →
    ∃ t, exec (.unpin c.ring c.idx) s = .next t ∧ Ended t c 0 0 1 ∧ descRaw t page = dFlag (descOf s page) 26 false) ∧
  (∀ (s : State) (c : RCmd) (page : Nat), CommandAlone s c 0x07 → eLen c.entry = 4096 → eDst c.entry = page * 4096 →
    (eArg0 c.entry).getLsbD 0 = true → dState (descOf s page) = .hot → dReserved (descRaw s page) = false → coldOk s page = true →
    ∃ t, exec (.demote c.ring c.idx) s = .next t ∧ Ended t c 0 0 1 ∧ descRaw t page = coldDesc s page) ∧
  (∀ (s : State) (c : RCmd) (page : Nat), CommandAlone s c 0x08 → eLen c.entry = 4096 → eDst c.entry = page * 4096 →
    s.aon.mode = .service → dState (descOf s page) = .cold →
    ∃ t, exec (.prefetch c.ring c.idx) s = .next t ∧
      t.tier.ops = [{ page := page, kind := .fault, hot := param s 0x02 4, cls := cmdClass s c,
                      due := dueOf (tick s) (eDeadline c.entry) }]) ∧
  (∀ (s : State) (c : RCmd), CommandAlone s c 0x09 → s.led.queue = [] → s.led.barriers = [] →
    (∀ e ∈ s.quay.desc, dDirty (dView e.2) = false) →
    ∃ t, exec (.persistBarrier c.ring c.idx) s = .next t ∧ Ended t c 0 0 0 ∧ t.led.barriers = [] ∧ t.quay.desc = s.quay.desc) ∧
  (∀ (s : State) (c : RCmd) (page : Nat) (d : BitVec 128) (g : List (BitVec 512)), CommandAlone s c 0x09 → eLen c.entry = 0 →
    s.led.queue = [] → s.led.barriers = [] → s.led.segs = [] → s.quay.desc = [(page, d)] → page < 2 ^ 33 → dDirty (dView d) = true →
    dState (dView d) = .warm → dSealed (dView d) = false → readRun s page = some g → (∀ q ∈ quayLines s page, q = none) →
    ∃ t x, exec (.persistBarrier c.ring c.idx) s = .next t ∧ t.led.barriers = [(c.ring, c.idx, [page])] ∧ t.rings.cmds = [x] ∧
      x.started = true ∧ x.finished = false ∧ x.result = 1 ∧ (page ∈ t.led.queue ∨ inFlight t page = true)) ∧
  (∀ (s : State) (c : RCmd) (page : Nat) (l : Line), CommandAlone s c 0x0B → eLen c.entry = 4096 → eSrc c.entry = page * 4096 →
    eDst c.entry = l.toNat * 64 → dReserved (descRaw s page) = false → Untouched s l → dirLine s l = 0 →
    ∃ t q, exec (.queryTier c.ring c.idx) s = .next t ∧ Ended t c 0 0 1 ∧ qline t l = some q ∧ q.mask = 0xFFFF ∧
      q.data = overlay 0xFFFF (place 512 0 (tierRecord s page)) 0) ∧
  (∀ (s : State) (c : RCmd) (page : Nat), CommandAlone s c 0x0C → eLen c.entry = 4096 → eDst c.entry = page * 4096 →
    dState (descOf s page) = .hot → dSealed (descOf s page) = false →
    (∀ i, i < 64 → ∃ y, ReadsAs s (dDfa (descOf s page) * 64 + i) 0 y) →
    ∃ t, exec (.scrubRange c.ring c.idx) s = .next t ∧ Ended t c 0 0 0 ∧ t.dram = s.dram ∧ t.quay = s.quay)

/-- R95, R96, R122, R135, R161, R356: the commands over keys, frames and calibration. KEY_LOAD enters the key that the transport key
unwraps, and ends with status 6 where it unwraps none; KEY_RETIRE retires a key without pages, REKEY_START takes the free engine;
RETIRE_FRAME marks a free frame, RETIRE_BANK retires the free frames of a bank and ends when every frame of the bank is retired;
CAL_RESTORE_FACTORY restores the factory trims. -/
def Obligations.SystemCommandsRun : Prop :=
  (∀ (s : State) (c : RCmd) (ktk : BitVec 256), CommandAlone s c 0x10 →
    keyState s ((eArg2 c.entry).extractLsb' 0 20) ≠ 1 → sget none s.sec.ktk (fieldNat (eArg2 c.entry) 35 32) = some ktk →
    ∃ t, exec (.keyLoad c.ring c.idx) s = .next t ∧
      match transportedKey s ktk (c.entry.extractLsb' 64 320) with
      | some (kwk, key) => Ended t c 0 0 0 ∧ keyEntry t ((eArg2 c.entry).extractLsb' 0 20) =
          loadedEntry kwk key (kPages (keyEntry s ((eArg2 c.entry).extractLsb' 0 20))) s.time.tide
      | none => Ended t c 6 2 0 ∧ t.dram = s.dram) ∧
  (∀ (s : State) (c : RCmd) (k : BitVec 20), CommandAlone s c 0x11 → k = (eArg0 c.entry).extractLsb' 0 20 → keyState s k = 1 →
    firstPass s = false → kPages (keyEntry s k) = 0 → kSrc (keyEntry s k) = false → kDst (keyEntry s k) = false →
    ∃ t, exec (.keyRetire c.ring c.idx) s = .next t ∧ Ended t c 0 0 0 ∧ kState (keyEntry t k) = 2 ∧ kWrapped (keyEntry t k) = 0 ∧
      ∀ e ∈ t.quay.keyCtx, e.2.map KeyCtx.keyId ≠ some k) ∧
  (∀ (s : State) (c : RCmd) (old new : BitVec 20), CommandAlone s c 0x12 → old = (eArg0 c.entry).extractLsb' 0 20 →
    new = (eArg0 c.entry).extractLsb' 32 20 → eLen c.entry ≠ 0 → keyState s old = 1 → keyState s new = 1 →
    old ≠ new → s.led.engines = [] →
    ∃ t, exec (.rekeyStart c.ring c.idx) s = .next t ∧ t.rings.cmds = [{ c with started := true }] ∧ kSrc (keyEntry t old) = true ∧
      kDst (keyEntry t new) = true ∧
      engineOf t 0 = { active := true, first := eSrc c.entry / 4096, last := eSrc c.entry / 4096 + eLen c.entry / 4096 - 1,
                       tide := eSrc c.entry / 4096, old := old, new := new, ring := some (c.ring, c.idx), cls := cmdClass s c }) ∧
  (∀ (s : State) (c : RCmd), CommandAlone s c 0x13 → regionOf s (eArg0 c.entry).toNat = none → (eArg0 c.entry).toNat < totalFrames s →
    fUse (frameEntry s (eArg0 c.entry).toNat) = 0 → s.dram.retireList = [] →
    ∃ t, exec (.retireFrame c.ring c.idx) s = .next t ∧ Ended t c 0 (if listFull s then 1 else 0) 0 ∧
      fUse (frameEntry t (eArg0 c.entry).toNat) = 4) ∧
  (∀ (s : State) (c : RCmd), CommandAlone s c 0x14 →
    (∀ f, f < totalFrames s → frameInBank s (eArg0 c.entry).toNat f = true → regionOf s f = none ∧ fUse (frameEntry s f) = 4) →
    ∃ t, exec (.retireBank c.ring c.idx) s = .next t ∧ Ended t c 0 (if listFull s then 1 else 0) 0 ∧
      t.dram.frameMap = s.dram.frameMap) ∧
  (∀ (s : State) (c : RCmd), CommandAlone s c 0x14 → s.dram.retireList = [] →
    (∀ f, f < totalFrames s → frameInBank s (eArg0 c.entry).toNat f = true → regionOf s f = none ∧
      (fUse (frameEntry s f) = 0 ∨ fUse (frameEntry s f) = 4)) →
    ∃ t n, exec (.retireBank c.ring c.idx) s = .next t ∧ Ended t c 0 (if listFull s then 1 else 0) n ∧
      ∀ f, f < totalFrames s → frameInBank s (eArg0 c.entry).toNat f = true → fUse (frameEntry t f) = 4) ∧
  (∀ (s : State) (c : RCmd), CommandAlone s c 0x15 → s.aon.mode = .service →
    ∃ t, exec (.calRestoreFactory c.ring c.idx) s = .next t ∧ Ended t c 0 0 0 ∧ t.nor.trims = s.fuse.factoryTrim ∧ t.nor.cal = [] ∧
      t.nor.calBody = [])

/-- R420, R422 to R425: a trip. A fast trip, a fault timer and an inrush timeout pull the channel's gate down: the channel is COOLDOWN, or
LATCHED when its retries are used, PG drops, the trip is counted and LAST_FAULT says why. A slot's or a bay's trip leaves the other
channels as they are, but for HOLD's QUAL, when no channel waits for its inrush. -/
def Obligations.ChannelsTrip : Prop :=
  (∀ k ∈ ([(.fastTrip, 1), (.faultTimerExpiry, 2)] : List ((Nat → Nat → Instr) × BitVec 4)), ∀ (s : State) (n mA : Nat),
    ((pch s n).st = .inrush ∨ (pch s n).st = .on) →
    ∃ t, exec (k.1 n mA) s = .next t ∧
      (pch t n).st = (if (pch s n).retry.toNat = (if n = 2 then 0 else cRetries (pch s n).cfg) then .latched else .cooldown) ∧
      (pch t n).pg = false ∧ (pch t n).timer = false ∧ (pch t n).lastFault = k.2 ∧
      (pch t n).retry = (if (pch s n).retry = 7 then 7 else (pch s n).retry + 1) ∧
      (pch t n).trips = (if (pch s n).trips = 0xFFFF then 0xFFFF else (pch s n).trips + 1) ∧ (pch t n).cfg = (pch s n).cfg ∧
      (3 ≤ n → (∀ j, (pch s j).queued = false) → ∀ j, j ≠ n → j ≠ 2 → pch t j = pch s j)) ∧
  (∀ (s : State) (n : Nat), (pch s n).st = .inrush →
    ∃ t, exec (.inrushTimeout n) s = .next t ∧ (pch t n).lastFault = 8 ∧ (pch t n).pg = false ∧
      ((pch t n).st = .latched ∨ (pch t n).st = .cooldown))

/-- R419, R420, R424 to R427: presence, inrush and damage. A channel whose gate is fully on is ON and asserts PG, and a feed then carries the
bus and ends its changeover; an inserted module debounces and rises when AUTO_ON and the mode permit, and a removed one is ABSENT; a
cooled channel tries again; a full window clears RETRY_COUNT; a channel that fails a damage test is DAMAGED. -/
def Obligations.ChannelsPowerUp : Prop :=
  (∀ (s : State) (n : Nat), (pch s n).st = .inrush → (pch s n).queued = false → Quiet s →
    ∃ t, exec (.gateFullyOn n true) s = .next t ∧ (pch t n).st = .on ∧ (pch t n).pg = true ∧ (pch t n).timer = false ∧
      (isFeed n = true → (pch t n).carrying = true ∧ (pch t 2).carrying = false) ∧
      (isFeed n = true → s.ppd.newFeed = some (BitVec.ofNat 1 n) → t.ppd.newFeed = none ∧ t.reins.bridging = false)) ∧
  (∀ (s : State) (n : Nat), (isSlot n = true ∨ isBay n = true) → chExists s n = true →
    ((pch s n).st = .absent →
      ∃ t, exec (.presenceAsserted n) s = .next t ∧ (pch t n).st = .debounce ∧ (pch t n).present = true ∧ (pch t n).retry = 0 ∧
        ∀ j, j ≠ n → pch t j = pch s j) ∧
    ((pch s n).present = true → (pch s n).st ≠ .damaged →
      ∃ t, exec (.presenceRemoved n) s = .next t ∧ (pch t n).st = .absent ∧ (pch t n).present = false ∧ (pch t n).pg = false) ∧
    ((pch s n).st = .debounce → cAutoOn (pch s n).cfg = false →
      exec (.insertDebounceComplete n) s = .next (setPch n { pch s n with st := .off } s)) ∧
    ((∀ j, (pch s j).queued = false) → inInrush s < 8 →
      ((pch s n).st = .debounce → cAutoOn (pch s n).cfg = true → powersRails s.aon.mode = true → s.fuse.boardProg = true →
        ∃ t, exec (.insertDebounceComplete n) s = .next t ∧ (pch t n).st = .inrush ∧ ∀ j, j ≠ n → pch t j = pch s j) ∧
      ((pch s n).st = .cooldown →
        ∃ t, exec (.cooldownElapsed n) s = .next t ∧ (pch t n).st = .inrush ∧ (pch t n).retry = (pch s n).retry))) ∧
  (∀ (s : State) (n : Nat), isFeed n = true → (pch s n).st = .cooldown →
    exec (.cooldownElapsed n) s = .next (setPch n { pch s n with st := .debounce } s)) ∧
  (∀ (s : State) (n : Nat), (pch s n).pg = true →
    exec (.retryCountClear n) s = .next (setPch n { pch s n with retry := 0 } s)) ∧
  (∀ (s : State) (n : Nat), chExists s n = true → damageTest n (pch s n) ≠ 0 →
    ∃ t, exec (.ppDamaged n) s = .next t ∧ (pch t n).st = .damaged ∧ (pch t n).pg = false ∧
      (pch t n).lastFault = BitVec.ofNat 4 (damageTest n (pch s n)))

/-- R428 to R431, R436: feeds and commands. A feed that qualifies takes a bus that no feed carries, and stands by otherwise; a disqualified
feed gives way to the other feed or to HOLD; the preferred feed takes the bus back after its hold time; the new feed's inrush starts
after the break time; OFF and ON act on a channel unless they are refused, which is ERR_REG. -/
def Obligations.FeedsCarryTheBus : Prop :=
  (∀ (s : State) (f : Nat), f < 2 → s.ppd.powered = true → (pch s f).st = .debounce → (pch s f).cmdOff = false →
    s.ppd.newFeed = none →
    ((pch s (1 - f)).carrying = false →
      ∃ t, exec (.feedQualified f) s = .next t ∧ (pch t f).qual = true ∧ (pch t f).st = .inrush ∧
        t.ppd.newFeed = some (BitVec.ofNat 1 f)) ∧
    ((pch s (1 - f)).carrying = true →
      ∃ t, exec (.feedQualified f) s = .next t ∧ (pch t f).qual = true ∧ (pch t f).st = .standby ∧ t.ppd.newFeed = none ∧
        pch t (1 - f) = pch s (1 - f))) ∧
  (∀ (s : State) (f : Nat) (why : BitVec 4), f < 2 → (why = 5 ∨ why = 6 ∨ why = 7) → (pch s f).qual = true →
    (pch s f).carrying = true → holdReady s = true →
    ∃ t, exec (.feedDisqualified f why) s = .next t ∧ (pch t f).qual = false ∧ (pch t f).st = .debounce ∧
      (pch t f).carrying = false ∧ (pch t f).lastFault = why ∧ (pch t 2).carrying = true ∧
      t.ppd.newFeed = (if (pch s (1 - f)).qual then some (BitVec.ofNat 1 (1 - f)) else none)) ∧
  (∀ (s : State) (f : Nat), f < 2 → ppdParam s 4 = f → (pch s f).qual = true → (pch s f).st = .standby →
    (pch s (1 - f)).carrying = true → s.ppd.newFeed = none → holdReady s = true →
    ∃ t, exec .feedReturnHoldExpiry s = .next t ∧ t.ppd.newFeed = some (BitVec.ofNat 1 f) ∧ (pch t (1 - f)).st = .standby ∧
      (pch t (1 - f)).carrying = false ∧ (pch t 2).carrying = true ∧ t.ppd.breakDone = false) ∧
  (∀ (s : State) (f : BitVec 1), s.ppd.newFeed = some f → s.ppd.breakDone = false → s.ppd.testing = false →
    (pch s f.toNat).st = .standby →
    ∃ t, exec .breakTimeExpiry s = .next t ∧ (pch t f.toNat).st = .inrush ∧ t.ppd.breakDone = true ∧ t.ppd.newFeed = some f ∧
      ∀ j, j ≠ f.toNat → pch t j = pch s j) ∧
  (∀ (s : State) (n : Nat), chExists s n = true → s.ppd.linkUp = true → (pch s n).st = .on → Quiet s →
    (offRefused s n = true → exec (.commandedOff 0 n) s = .next (i3cDone 1 [] s)) ∧
    (offRefused s n = false → isBay n = false →
      ∃ t, exec (.commandedOff 0 n) s = .next t ∧ (pch t n).st = .off ∧ (pch t n).cmdOff = true ∧ t.aon.i3cStatus = 0) ∧
    (offRefused s n = false → isBay n = true →
      ∃ t, exec (.commandedOff 0 n) s = .next t ∧ (pch t n).st = .on ∧ (pch t n).warned = true ∧
        t.pin.pwrwarn.getLsbD (n - 35) = true ∧ t.aon.i3cStatus = 0)) ∧
  (∀ (s : State) (n : Nat), chExists s n = true → s.ppd.linkUp = true → ((pch s n).st = .off ∨ (pch s n).st = .latched) →
    (isFeed n = true → ∃ t, exec (.commandedOn 0 n) s = .next t ∧ (pch t n).st = .debounce ∧ (pch t n).cmdOff = false ∧
      t.aon.i3cStatus = 0) ∧
    (n = 2 → s.fuse.boardProg = true → ∃ t, exec (.commandedOn 0 n) s = .next t ∧ (pch t n).st = .on ∧ (pch t n).cmdOff = false ∧
      t.aon.i3cStatus = 0) ∧
    (3 ≤ n → s.fuse.boardProg = true → (∀ j, (pch s j).queued = false) → inInrush s < 8 →
      ∃ t, exec (.commandedOn 0 n) s = .next t ∧ (pch t n).st = .inrush ∧ (pch t n).cmdOff = false ∧ (pch t n).retry = 0 ∧
        t.aon.i3cStatus = 0))

/-- R432 to R435: the hold-up store and the bay outputs. A frame takes e_store by the formula of R432 while HOLD is closed-ready; a store
test hands the bus to HOLD and takes C_meas and C_EFF from the energy that HOLD delivered; a lost PPD link makes e_store read 0 J; a
warned bay turns off, its reset output with it, and the output is released after PERST_DELAY. -/
def Obligations.StoreIsMeasured : Prop :=
  (∀ (s : State) (v b : Nat), s.ppd.powered = true → (pch s 2).st = .on → (pch s 2).pg = true → (pch s 2).timer = false →
    ppdParam s 10 < v → v < 2 ^ 32 →
    ∃ t, exec (.energyFrame v b []) s = .next t ∧ t.ppd.vStore = BitVec.ofNat 32 v ∧ t.ppd.busV = BitVec.ofNat 32 b ∧
      t.ppd.eStore = BitVec.ofNat 32 (eStoreOf (ppdParam s 12) s.ppd.cEff.toNat v (ppdParam s 10)) ∧ t.pin.holdPg = true) ∧
  (∀ (s : State) (v b : Nat) (x : ChanSample), s.ppd.powered = true → chExists s x.ch = true →
    ∃ t, exec (.energyFrame v b [x]) s = .next t ∧ (pch t x.ch).measI = BitVec.ofNat 32 x.mA ∧
      (pch t x.ch).measV = BitVec.ofNat 32 x.mV ∧ (pch t x.ch).power = BitVec.ofNat 32 x.mW ∧ (pch t x.ch).st = (pch s x.ch).st) ∧
  (∀ (s : State) (f : Nat), s.aon.mode = .service → f < 2 → (pch s f).carrying = true → (pch s (1 - f)).carrying = false →
    holdReady s = true → s.ppd.newFeed = none → s.ppd.testing = false →
    ∃ t, exec .storeTestStart s = .next t ∧ t.ppd.testing = true ∧ t.ppd.testV1 = s.ppd.vStore ∧ (pch t f).st = .standby ∧
      (pch t f).carrying = false ∧ (pch t 2).carrying = true ∧ t.ppd.newFeed = some (BitVec.ofNat 1 f)) ∧
  (∀ (s : State) (f : BitVec 1) (v2 e : Nat), s.ppd.testing = true → s.ppd.newFeed = some f →
    (s.ppd.testV1.toNat ≤ (s.ppd.testV1.toNat - v2) * 200 →
      ∃ t, exec (.storeTest v2 e) s = .next t ∧ t.ppd.testing = false ∧ (pch t f.toNat).st = .inrush ∧
        t.ppd.cMeas = BitVec.ofNat 32 (cMeasOf e (ppdParam s 12) s.ppd.testV1.toNat v2) ∧
        t.ppd.cEff = BitVec.ofNat 32 (cEffOf (ppdParam s 11) (cMeasOf e (ppdParam s 12) s.ppd.testV1.toNat v2))) ∧
    ((s.ppd.testV1.toNat - v2) * 200 < s.ppd.testV1.toNat →
      ∃ t, exec (.storeTest v2 e) s = .next t ∧ t.ppd.testing = false ∧ (pch t f.toNat).st = .inrush ∧
        t.ppd.cMeas = s.ppd.cMeas ∧ t.ppd.cEff = s.ppd.cEff)) ∧
  (∀ s : State, s.ppd.linkUp = true →
    ∃ t, exec .ppdLink s = .next t ∧ t.ppd.linkUp = false ∧ aonEStore t = 0 ∧ t.led.eLow = 0 ∧ t.ppd.ch = s.ppd.ch) ∧
  (∀ (s : State) (b : Nat), b < 16 → (pch s (b + 35)).warned = true → (pch s (b + 35)).st = .on →
    ∃ t, exec (.bayWarnLeadExpiry b) s = .next t ∧ (pch t (b + 35)).st = .off ∧ (pch t (b + 35)).pg = false ∧
      t.pin.perst.getLsbD b = true) ∧
  (∀ (s : State) (b : Nat), (pch s (b + 35)).pg = true →
    exec (.perstDelayExpiry b) s = .next { s with pin.perst := s.pin.perst &&& ~~~((1 : BitVec 16) <<< b) })

/-- R415, R484, R493: thermal supervision, lost clocks and supplies. DIE_HOT is logged once per excursion; at 120 °C the device is reset and
only the DDRQ and IO rails stay on until AON reads below 95 °C; a lost clock is noted; the PPD starts from its defaults when it is
powered; without the AON supply only fuses, the SPI NOR and the SSDs keep what they hold. -/
def Obligations.HeatClocksAndSupplies : Prop :=
  (∀ (s : State) (i temp : Nat), sensorExists s i = true → 105 ≤ temp → s.aon.dieHot = false →
    sget 0 s.log.rate (epAon.toNat * 256 + 0x6D) < 16 →
    ∃ t, exec (.dieHot i temp) s = .next t ∧ t.aon.dieHot = true ∧ sget 0 t.aon.sensors i = temp ∧
      t.log.inbox = s.log.inbox ++ [logEntry { cause := 0x6D, src := epAon } s.time.tide] ∧ t.aon.mode = s.aon.mode) ∧
  (∀ (s : State) (i temp : Nat), sensorExists s i = false →
    exec (.dieHot i temp) s = .next s ∧ exec (.thermtrip i temp) s = .next s) ∧
  (∀ (s : State) (i temp : Nat), sensorExists s i = true → temp < 105 →
    ∃ t, exec (.dieHot i temp) s = .next t ∧ sget 0 t.aon.sensors i = temp ∧ t.log = s.log) ∧
  (∀ (s : State) (i temp : Nat), sensorExists s i = true → 120 ≤ temp → s.aon.thermTrip = false →
    ∃ t, exec (.thermtrip i temp) s = .next t ∧ Entered t s.aon.mode .stall 0x01 ∧ t.aon.thermTrip = true ∧ t.pin.railEn = 0x21 ∧
      t.dram.mem = [] ∧ t.time = s.time ∧ t.nor = s.nor ∧ t.fuse = s.fuse) ∧
  (∀ (s : State) (temp : Nat), temp < 95 → s.aon.thermTrip = true →
    ∃ t, exec (.thermtripRecovery temp) s = .next t ∧ t.aon.thermTrip = false ∧ t.pin.railEn = 0x3F ∧ t.aon.mode = s.aon.mode) ∧
  (∀ s : State, s.time.slowFail = false →
    ∃ t, exec (.xtalFail true) s = .next t ∧ t.time = { s.time with slowFail := true }) ∧
  (∀ s : State, s.time.fastFail = false → s.time.stopped = false →
    ∃ t, exec (.xtalFail false) s = .next t ∧ t.time = { s.time with fastFail := true, calValid := false }) ∧
  (∀ (s : State) (d : Nat), diesDark s = false → d < numDies s → Quiet s → (∀ p, portUp s p = false) →
    ∃ t, exec (.refclkLoss false d) s = .next t ∧
      (∀ p, p < numPorts s → p / 2 = d → (portOf t p).refLost = true ∧ ((portOf t p).st = .off ∨ (portOf t p).st = .detect)) ∧
      (∀ p, p / 2 ≠ d → portOf t p = portOf s p)) ∧
  (∀ (s : State) (d : Nat), diesDark s = false → d < numDies s → LedgerRests s → s.led.segs = [] → (∀ i, (ssdOf s i).resets = []) →
    (ssdIndices s).Nodup →
    ∃ t, exec (.refclkLoss true d) s = .next t ∧ ∀ i ∈ ssdIndices s, peOf s i = d → (ssdOf s i).present = true →
      (ssdOf s i).failed = false → (ssdOf t i).resetting = true ∧ (ssdOf t i).ready = false) ∧
  (∀ (s : State) (slots : BitVec 32) (bays : BitVec 16), s.ppd.powered = false → s.fuse.boardProg = false → s.fuse.variantH = false →
    ∃ t, exec (.ppdPowerOn slots bays) s = .next t ∧ t.ppd.powered = true ∧ t.pin.perst = 0xFFFF ∧
      (∀ f, f < 2 → pch t f = { st := .debounce, cfg := cfgDefault f, lim := limDefault f }) ∧ (pch t 2).st = .off ∧
      (∀ n, 3 ≤ n → n < 51 → pch t n =
        { st := if (if isSlot n then slots.getLsbD (n - 3) else bays.getLsbD (n - 35)) then .off else .absent,
          present := if isSlot n then slots.getLsbD (n - 3) else bays.getLsbD (n - 35), cfg := cfgDefault n, lim := limDefault n })) ∧
  (∀ s : State, ∃ t, exec .aonSupplyLoss s = .next t ∧ t.fuse = s.fuse ∧ t.nor = { s.nor with triedOther := false } ∧
    t.led.flash = s.led.flash ∧ t.led.manifest = s.led.manifest ∧ t.led.logbook = s.led.logbook ∧ t.aon = State.reset.aon ∧
    t.dram = State.reset.dram ∧ t.ppd = State.reset.ppd ∧ t.time = State.reset.time ∧ t.port = [])

/-- R126, R127: accesses from outside. A PCIe peer's write of an untouched line of an unsealed page is held in the Quay data partition like
one of the device's own; an access of a sealed page is logged, a write is discarded and a read is answered with Completer Abort; the
debug access port stores a line of an allowed frame as given, returns a line as stored, and is refused at a barred frame, where a read
returns zeros. -/
def Obligations.OutsidersAreConfined : Prop :=
  (∀ (s : State) (pe : Nat) (id : BitVec 16) (a : BitVec 64) (m : BitVec 64) (x : BitVec 512) (l : Line),
    s.aon.mode = .service → pe < numDies s → a.toNat < capacity s → Quiet s → s.reins.hold = [] → s.rings.cmds = [] →
    s.led.pending = false → l = BitVec.ofNat 39 (a.toNat / 64) → unfoldLine (indexBits s) (foldLine (indexBits s) l) = l →
    Untouched s l → dirLine s l = 0 → m ≠ 0 → m ≠ BitVec.allOnes 64 →
    ∃ t q, exec (.pciePeerAccess pe id a true m x) s = .next t ∧ qline t l = some q ∧ q.mask = m ∧ q.data = overlay m x 0 ∧
      q.dirty = true ∧ t.quay.txns = [] ∧ t.dram.mem = s.dram.mem) ∧
  (∀ (s : State) (pe : Nat) (id : BitVec 16) (a : BitVec 64) (w : Bool) (m : BitVec 64) (x : BitVec 512),
    diesDark s = false → pe < numDies s → a.toNat < capacity s → dSealed (descOf s (pageOf (BitVec.ofNat 39 (a.toNat / 64)))) = true →
    sget 0 s.log.rate ((epPe pe).toNat * 256 + 5) < 16 →
    ∃ t, exec (.pciePeerAccess pe id a w m x) s = .next t ∧
      t.log.inbox = s.log.inbox ++ [logEntry { cause := 0x05, src := epPe pe, kind := 1, addr := a.toNat, args := [id.toNat, pe] }
        s.time.tide] ∧ t.dram = s.dram ∧
      t.quay = if w then s.quay else { s.quay with peerAns := sset none s.quay.peerAns pe (some { abort := true }) }) ∧
  (∀ (s : State) (a : LineAddr) (x : BitVec 640), diesDark s = false → s.aon.loaded = true → a.toNat / 64 < totalFrames s →
    (∀ c, (chan s c).writeQ.length < 64) →
    (debugBarred s (a.toNat / 64) = false → lineOffline s a.toNat = false →
      (∃ t, exec (.debugAccess a true x) s = .next t ∧ dramContent t a.toNat = x ∧
        (∀ b, b ≠ a.toNat → dramContent t b = dramContent s b) ∧ (regionOf s (a.toNat / 64) = none → t.quay = s.quay)) ∧
      exec (.debugAccess a false x) s = .next { s with aon.dbgData := lineStored s a.toNat }) ∧
    (∀ w : Bool, debugBarred s (a.toNat / 64) = false → lineOffline s a.toNat = true → exec (.debugAccess a w x) s = .next s) ∧
    (∀ w : Bool, debugBarred s (a.toNat / 64) = true →
      ∃ t, exec (.debugAccess a w x) s = .next t ∧ t.dram = s.dram ∧ t.quay = s.quay ∧
        t.aon.dbgData = if w then s.aon.dbgData else 0)) ∧
  (∀ (s : State) (a : LineAddr) (w : Bool) (x : BitVec 640), diesDark s = false → s.aon.loaded = true →
    totalFrames s ≤ a.toNat / 64 → exec (.debugAccess a w x) s = .fault .invalidFrame)

/-- R388, R482, Table 14.2: the reset inputs. From 1 µs, RESET_N asserted or PWROK deasserted resets the device to Stall (0x01), and DRAM
is not retained; a pulse under 100 ns is filtered out; between them the spec states no effect and the model stops (log entry 37). With
both inputs high again, a device with a programmed board configuration enters Harnessing (0x02), and after an AON restart too (0x12). -/
def Obligations.ResetInputsAct : Prop :=
  (∀ (s : State) (ns : Nat), s.aon.resetLow = false →
    (1000 ≤ ns → ∃ t, exec (.resetNAssert ns) s = .next t ∧ Entered t s.aon.mode .stall 0x01 ∧ t.aon.resetLow = true ∧
      t.dram.mem = [] ∧ t.fuse = s.fuse ∧ t.nor = s.nor ∧ t.time = s.time) ∧
    (ns < 100 → exec (.resetNAssert ns) s = .next s) ∧
    (100 ≤ ns → ns < 1000 → exec (.resetNAssert ns) s = .fault .undefinedPulse)) ∧
  (∀ (s : State) (ns : Nat), s.aon.pwrok = true →
    (1000 ≤ ns → ∃ t, exec (.pwrokDeassert ns) s = .next t ∧ Entered t s.aon.mode .stall 0x01 ∧ t.aon.pwrok = false ∧
      t.dram.mem = [] ∧ t.fuse = s.fuse ∧ t.nor = s.nor ∧ t.time = s.time) ∧
    (ns < 100 → exec (.pwrokDeassert ns) s = .next s) ∧
    (100 ≤ ns → ns < 1000 → exec (.pwrokDeassert ns) s = .fault .undefinedPulse)) ∧
  (∀ (s : State) (ns : Nat), 100 ≤ ns → s.aon.mode = .stall → s.fuse.boardProg = true →
    (s.aon.resetLow = true → s.aon.pwrok = true →
      ∃ t, exec (.resetNRelease ns) s = .next t ∧ Entered t .stall .harnessing 0x02 ∧ t.aon.resetLow = false) ∧
    (s.aon.resetLow = false → s.aon.pwrok = false →
      ∃ t, exec (.pwrokAssert ns) s = .next t ∧ Entered t .stall .harnessing 0x02 ∧ t.aon.pwrok = true)) ∧
  (∀ s : State, s.aon.restart = true → mayHarness s = true →
    ∃ t, exec .aonRestart s = .next t ∧ Entered t .stall .harnessing 0x12 ∧ t.aon.restart = false)

/-- R373, R375, R376: boot and the SPI NOR. The copy that the directory prefers boots when its images verify, else the other, else the
device returns to Stall (0x05). A write reaches the directory and the copy that does not run, whose patch log it erases with a harness
image; the running copy, the patch logs and the calibration area are refused. -/
def Obligations.BootChoosesACopy : Prop :=
  (∀ (s : State) (f : Bool), s.aon.mode = .harnessing → s.aon.loaded = false → Quiet s → FirstCopy s f →
    ∃ t, exec .bootCopyTry s = .next t ∧
      (CopyGood s f → Booted s t f false) ∧ (¬ CopyGood s f → CopyGood s (!f) → Booted s t (!f) true) ∧
      (¬ CopyGood s f → ¬ CopyGood s (!f) → Entered t .harnessing .stall 0x05)) ∧
  (∀ (s : State) (c : Bool) (w : List (BitVec 128)),
    ((s.aon.loaded = false ∨ c ≠ s.aon.copyB) →
      (∃ t, exec (.spiNorWrite (.firmware c) w) s = .next t ∧ norCopy t c = { norCopy s c with fw := w } ∧
        norCopy t (!c) = norCopy s (!c) ∧ t.nor.dir0 = s.nor.dir0 ∧ t.nor.dir1 = s.nor.dir1) ∧
      (∃ t, exec (.spiNorWrite (.harness c) w) s = .next t ∧ norCopy t c = { norCopy s c with hz := w, log := [] } ∧
        norCopy t (!c) = norCopy s (!c) ∧ t.nor.dir0 = s.nor.dir0 ∧ t.nor.dir1 = s.nor.dir1)) ∧
    (s.aon.loaded = true → c = s.aon.copyB →
      exec (.spiNorWrite (.firmware c) w) s = .next s ∧ exec (.spiNorWrite (.harness c) w) s = .next s) ∧
    exec (.spiNorWrite (.patchLog c) w) s = .next s ∧ exec (.spiNorWrite .calibration w) s = .next s ∧
    (∃ t, exec (.spiNorWrite .trims w) s = .next t ∧ t.nor.a = s.nor.a ∧ t.nor.b = s.nor.b ∧
      ∀ k, k < numChans s → sget 0 t.nor.trims k = (w.getD k 0).extractLsb' 0 64)) ∧
  (∀ (s : State) (a b c d : BitVec 128),
    exec (.spiNorWrite .dir0 [a, b, c, d]) s =
      .next { s with nor.dir0 := place 512 0 a ||| place 512 128 b ||| place 512 256 c ||| place 512 384 d } ∧
    exec (.spiNorWrite .dir1 [a, b, c, d]) s =
      .next { s with nor.dir1 := place 512 0 a ||| place 512 128 b ||| place 512 256 c ||| place 512 384 d })

/-- R379, Table 13.11: a harness patch. GO outside Service and Maintenance is answered with CODE MODE, and while a patch is processed with
ERR_REG; in Service and Maintenance the image is read, and it is committed as DONE with the next PATCH_SEQ and the chained digest when
every check passes, and rejected with its CODE otherwise. -/
def Obligations.PatchesAreJudged : Prop :=
  (∀ s : State, s.aon.mode ≠ .stall → s.aon.mode ≠ .watch → sget false s.mgt.fwRuns 0 = true →
    (patchBusy s = true → ∃ t, exec (.go 0) s = .next t ∧ t.aon.i3cStatus = 1 ∧ t.mgt.patchStat = s.mgt.patchStat ∧
      t.aon.patchSeq = s.aon.patchSeq ∧ t.cfg = s.cfg) ∧
    (patchBusy s = false → s.aon.mode ≠ .service → s.aon.mode ≠ .maintenance →
      ∃ t, exec (.go 0) s = .next t ∧ t.aon.i3cStatus = 0 ∧ t.mgt.patchStat = mkPatchStat 0 0x0C false false ∧
        t.aon.patchSeq = s.aon.patchSeq ∧ t.cfg = s.cfg)) ∧
  (∀ (s u v : State) (h im : List (BitVec 128)) (l k : List Got) (a n : Nat), s.aon.mode = .service →
    sget false s.mgt.fwRuns 0 = true → patchBusy s = false → a = s.mgt.patchBase.toNat % 2 ^ 45 / 64 * 64 →
    n = imgSigned h + imgSigLen h → a + max n 128 ≤ capacity s →
    readLines (BitVec.ofNat 8 (designated s 0)) (BitVec.ofNat 12 (fieldNat (classRec s (designated s 0)) 66 55)) (linesOf a 128)
      { s with mgt.patchStat := mkPatchStat 0 0 false true } = (some l, u) → wordsOf l = some h →
    fieldNat (imgHeader h) 31 0 = 0x534E5248 → n ≤ 2 ^ 20 → capacity u = capacity s →
    readLines (BitVec.ofNat 8 (designated s 0)) (BitVec.ofNat 12 (fieldNat (classRec s (designated s 0)) 66 55))
      (linesOf a (ceilDiv (max n 128) 64 * 64)) u = (some k, v) → wordsOf k = some im → Quiet v → v.led.queue = [] → v.aon.mode = .service →
    (∀ c ∈ imgSecs (im.take (ceilDiv n 16)), c.ty ≠ 5 ∧ c.ty ≠ 6) →
    ∃ t, exec (.go 0) s = .next t ∧ t.aon.i3cStatus = 0 ∧
      (patchFault v true false (im.take (ceilDiv n 16)) = (0, 0) → logFull v (im.take (ceilDiv n 16)) = false →
        t.mgt.patchStat = mkPatchStat 0 1 false false ∧ t.aon.patchSeq = BitVec.ofNat 8 (imgPatchSeq (im.take (ceilDiv n 16))) ∧
        t.aon.effDigest = chainDigest v.aon.effDigest (imgDigest (im.take (ceilDiv n 16)))) ∧
      (∀ code detail, code ≠ 0 → patchFault v true false (im.take (ceilDiv n 16)) = (code, detail) →
        t.mgt.patchStat = mkPatchStat detail code false false ∧ t.cfg = v.cfg ∧ t.aon.patchSeq = v.aon.patchSeq ∧
        t.aon.effDigest = v.aon.effDigest))

/-- R388, R391, R393, R10, Table 14.2: the way to Service and out of it. Harnessing ends in Recovery (0x03), or in Maintenance with
MAINT_NEXT (0x04); a complete recovery enters Service (0x06); DRAIN_TO_STALL and DRAIN_TO_MAINT enter Drain (0x07), and ERR_REG answers
them where Table 14.2 has no such transition; LEAVE_MAINT enters Recovery (0x11); DRAIN_LIMIT closes the serving phase with every port
OFF; the clean point enters Stall or Maintenance (0x0B). -/
def Obligations.ModesFollowTheTable : Prop :=
  (∀ s : State, s.aon.mode = .harnessing → trained s = true → s.led.chosen = true → s.led.inconsistent = 0 →
    populationFault s = none → check06 s = true →
    (s.aon.maintNext = false → ∃ t, exec .harnessingComplete s = .next t ∧ Entered t .harnessing .recovery 0x03) ∧
    (s.aon.maintNext = true → ∃ t, exec .harnessingComplete s = .next t ∧ Entered t .harnessing .maintenance 0x04)) ∧
  (∀ s : State, s.aon.mode = .recovery → recovered s = true → Quiet s → s.reins.hold = [] →
    ∃ t, exec .serviceEntry s = .next t ∧ Entered t .recovery .service 0x06 ∧ t.aon.dramRetained = true ∧
      t.aon.rcase = (if s.aon.dramRetained then 1 else 2) ∧ t.led.c = 0 ∧ t.aon.trial = false) ∧
  (∀ s : State, LedgerRests s → s.led.order = [] →
    (s.aon.mode = .service ∨ s.aon.mode = .maintenance → ∃ t, exec (.drainToStall 0) s = .next t ∧
      Entered t s.aon.mode .drain 0x07 ∧ t.aon.drainToMaint = false ∧ t.aon.drainClosing = false ∧ t.aon.i3cStatus = 0) ∧
    (s.aon.mode = .service → ∃ t, exec (.drainToMaint 0) s = .next t ∧ Entered t .service .drain 0x07 ∧ t.aon.drainToMaint = true ∧
      t.aon.drainClosing = false ∧ t.aon.i3cStatus = 0)) ∧
  (∀ s : State, s.aon.mode ≠ .service →
    (s.aon.mode ≠ .maintenance → exec (.drainToStall 0) s = .next (i3cDone 1 [] s)) ∧
    exec (.drainToMaint 0) s = .next (i3cDone 1 [] s)) ∧
  (∀ s : State, s.aon.mode = .maintenance → trained s = true → s.led.chosen = true →
    ∃ t, exec (.leaveMaint 0) s = .next t ∧ Entered t .maintenance .recovery 0x11 ∧ t.aon.i3cStatus = 0) ∧
  (∀ s : State, s.aon.mode = .drain → s.aon.drainClosing = false → LedgerRests s → s.led.order = [] → direct s = true →
    ∃ t, exec .drainLimit s = .next t ∧ t.aon.drainClosing = true ∧ t.aon.mode = .drain ∧
      ∀ p, p < numPorts s → (portOf t p).st = .off) ∧
  (∀ s : State, s.aon.mode = .drain → s.aon.drainClosing = true → dirtyPages s = 0 →
    (s.aon.drainToMaint = false → ∃ t, exec .drainCleanPoint s = .next t ∧ Entered t .drain .stall 0x0B ∧ t.dram.mem = []) ∧
    (s.aon.drainToMaint = true → Quiet s → (∀ p, portUp s p = false) → ∃ t, exec .drainCleanPoint s = .next t ∧ Entered t .drain .maintenance 0x0B ∧
      t.dram.mem = s.dram.mem))

/-- R399 to R403: gaits and sleep entry. In Service the gait falls at once to the deepest that GAIT_MAX and the tolerance permit, and deepens
to it after 1 ms; an idle group is prepared, and its entry is committed when every domain agrees; a refusal or a missing answer aborts
it, is counted and starts the back-off, which doubles up to 64 ms; an expired back-off lets the group try again. -/
def Obligations.GaitsAndSleepEntries : Prop :=
  (∀ s : State, s.aon.mode = .service →
    (gaitGoal s < s.aon.gait.toNat →
      ∃ t, exec .gaitChange s = .next t ∧ t.aon.gait = BitVec.ofNat 2 (gaitGoal s) ∧ t.aon.gaitMax = s.aon.gaitMax ∧
        t.aon.tolSrc = BitVec.ofNat 3 (tolerance s).2) ∧
    (s.aon.gait.toNat ≤ gaitGoal s →
      exec .gaitChange s = .next { s with aon.tolSrc := BitVec.ofNat 3 (tolerance s).2 }) ∧
    (s.aon.gait.toNat < gaitGoal s →
      ∃ t, exec .gaitDeepen s = .next t ∧ t.aon.gait = BitVec.ofNat 2 (gaitGoal s) ∧ t.aon.gaitMax = s.aon.gaitMax)) ∧
  (∀ (s : State) (g : Nat), s.aon.mode = .service → s.mgt.holdGallop = false → gaitPermits s s.aon.gait.toNat g = true →
    (grpOf s g).phase = .awake → (grpOf s g).running = false →
    (∀ n ∈ groupDoms s g, (domOf s n).st = .awake ∧ domBusy s n = false) →
    ∃ t, exec (.groupIdleExpiry g) s = .next t ∧ (grpOf t g).phase = .prepare ∧
      (∀ n ∈ groupDoms s g, (domOf t n).st = if domBar s n then .awake else .prepared) ∧
      (∀ n, n ∉ groupDoms s g → domOf t n = domOf s n)) ∧
  (∀ (s : State) (g : Nat), (grpOf s g).phase = .prepare →
    (∀ n ∈ groupDoms s g, (domOf s n).st = .prepared ∧ domBusy s n = false) →
    ∃ t, exec (.prepareAllAgreed g) s = .next t ∧ (grpOf t g).phase = .commit ∧
      (∀ n ∈ groupDoms s g, (domOf t n).st = .entering) ∧ (∀ n, n ∉ groupDoms s g → domOf t n = domOf s n)) ∧
  (∀ (s : State) (n : Nat), (grpOf s (domGroup s n)).phase = .prepare →
    (∀ r : BitVec 4, 1 ≤ r.toNat → r.toNat ≤ 4 →
      ∃ t, exec (.refuse n r) s = .next t ∧ (grpOf t (domGroup s n)).phase = .awake ∧ (grpOf t (domGroup s n)).running = true ∧
        (grpOf t (domGroup s n)).backoff = (if (grpOf s (domGroup s n)).backoff = 0 then backoffBase s
          else min 64 (2 * (grpOf s (domGroup s n)).backoff)) ∧
        (domOf t n).refusals = (domOf s n).refusals + 1 ∧
        ∀ m ∈ groupDoms s (domGroup s n), (domOf t m).st ≠ .prepared) ∧
    (∃ t, exec (.prepareAnswerTimeout n) s = .next t ∧ (grpOf t (domGroup s n)).phase = .awake ∧
      (grpOf t (domGroup s n)).running = true ∧ (domOf t n).refusals = (domOf s n).refusals + 1 ∧
      ∀ m ∈ groupDoms s (domGroup s n), (domOf t m).st ≠ .prepared)) ∧
  (∀ (s : State) (g : Nat),
    exec (.backoffExpiry g) s = .next (setGrp g { grpOf s g with running := false } s))

/-- R314, R315: management packets and SPDM. On a port with MGMT_ENABLE, a read of a register is answered MGMT_RD_RSP with its value, a
write takes effect and is answered MGMT_WR_RSP, and an offset that no block holds is answered ERR_CMP with ERR_REG. The first fragment
of an SPDM message waits for the others, a last one ends the reassembly, and one out of sequence discards it. -/
def Obligations.ManagementIsServed : Prop :=
  (∀ (s : State) (m : Mgmt), s.aon.mode = .service → Quiet s → s.reins.hold = [] → m.dst = nodeId s → mgmtEnable s m.port = true →
    portUp s m.port = true →
    (m.offset = 0x58 → m.wide = false → m.be = 0x0F →
      (∃ t, exec (.mgmtRd m) s = .next t ∧ t.aon.ceCfg = s.aon.ceCfg ∧
        Sent m.port { hdr := rspHdr 0x60 m.src (nodeId s) m.tag 0 {}, body := [s.aon.ceCfg.setWidth 128] } s t) ∧
      (1 ≤ fieldNat m.data 29 20 → 1 ≤ fieldNat m.data 19 12 → 1 ≤ fieldNat m.data 11 4 →
        ∃ t, exec (.mgmtWr m) s = .next t ∧ t.aon.ceCfg = m.data.extractLsb' 0 32 &&& 0xFFFFFFF0 ∧
          Sent m.port { hdr := rspHdr 0x61 m.src (nodeId s) m.tag 0 {}, body := [] } s t)) ∧
    (m.offset = 0x50000 →
      (∃ t, exec (.mgmtRd m) s = .next t ∧
        Sent m.port { hdr := rspHdr 0x5E m.src (nodeId s) m.tag 4 {}, body := [] } s t) ∧
      (∃ t, exec (.mgmtWr m) s = .next t ∧
        Sent m.port { hdr := rspHdr 0x5E m.src (nodeId s) m.tag 4 {}, body := [] } s t))) ∧
  (∀ (s : State) (m : Spdm), s.aon.mode = .service → Quiet s → s.reins.hold = [] → m.dst = nodeId s → mgmtEnable s m.port = true →
    (1 ≤ m.fragLen.toNat → m.fragLen.toNat ≤ 208 → m.fragIndex = 0 → (sget {} s.mgt.spdm (spdmKey m)).active = false →
      (sget {} s.mgt.spdm (spdmKey m)).bytes = [] →
      (m.last = false → ∃ t, exec (.spdmMsg m) s = .next t ∧ sget {} t.mgt.spdm (spdmKey m) =
        { active := true, msgId := m.msgId, nextIdx := 1, bytes := m.bytes.take m.fragLen.toNat }) ∧
      (m.last = true → ∃ t, exec (.spdmMsg m) s = .next t ∧ (sget {} t.mgt.spdm (spdmKey m)).active = false ∧
        t.sec.ktk = (match Config.spdmKtk s.free (m.bytes.take m.fragLen.toNat) with
          | some (k, key) => sset none s.sec.ktk k.toNat (some key)
          | none => s.sec.ktk))) ∧
    (m.fragIndex ≠ 0 → (sget {} s.mgt.spdm (spdmKey m)).active = false →
      ∃ t, exec (.spdmMsg m) s = .next t ∧ sget {} t.mgt.spdm (spdmKey m) = {} ∧ t.sec = s.sec))

/-- R177, R185, R292, R310, R312, R313: messages and timeouts of the links. A LAT_TOL is kept by its port in nanoseconds; a peer's POWER_WARN is
counted; an event that is due on a port is sent there once in a window; a tag rests until TAG_QUIET has passed; a late CMP_ACK counts
as received and a late snoop response as failed; the device's own late request completes as ERR_NODATA. -/
def Obligations.MessagesAndTimeouts : Prop :=
  (∀ (s : State) (p : Nat) (src dst : Node) (noReq : Bool) (scale : BitVec 3) (v : BitVec 10), diesDark s = false → dst = nodeId s →
    (portOf s p).features.getLsbD 1 = true → (noReq = true ∨ scale.toNat < 6) →
    ∃ t, exec (.latTol p src dst noReq scale v) s = .next t ∧
      (portOf t p).latTol = some (if noReq then 0x80000000 else BitVec.ofNat 32 (min (v.toNat * 32 ^ scale.toNat) (2 ^ 30 - 1)))) ∧
  (∀ (s : State) (p : Nat) (src : Node) (tide : BitVec 64) (c : BitVec 4), diesDark s = false →
    ∃ t, exec (.powerWarn p src tide c) s = .next t ∧ t.quay.peerWarn = s.quay.peerWarn + 1 ∧ t.pin = s.pin ∧ t.aon = s.aon) ∧
  (∀ (s : State) (p e : Nat), eventDue s p e = true →
    ∃ t, exec (.eventMsg p e) s = .next t ∧
      Sent p { hdr := msgHdr 0x73 (partnerNode (portOf s p)) (nodeId s) (eventBody s e) } s t ∧
      sget false t.ev.sentWin (key2 e p) = true ∧ sget 0 t.ev.sentCount (key2 e p) = sget 0 s.ev.count e ∧ eventDue t p e = false) ∧
  (∀ (s : State) (n : Node) (g : Tag),
    exec (.tagQuietExpiry n g) s = .next { s with quay.quiet := s.quay.quiet.filter (fun q => !(q.1 = n && q.2 = g)) }) ∧
  (∀ (s : State) (n : Node) (g : Tag) (x : Txn), direct s = false → s.quay.txns = [x] → HomeIdle s →
    (x.phase = .ack → x.snoops = [] → x.wbWait = [] → x.req.src = n → x.req.tag = g →
      ∃ t, exec (.snoopTimeoutExpiry n g) s = .next t ∧ t.quay.txns = [] ∧ t.quay.dir = s.quay.dir ∧ t.quay.lines = s.quay.lines) ∧
    (∀ a b : SnoopOut, x.snoops = [a, b] → x.phase = .snoop → x.victim = none → a.node = n → a.tag = g → a.holder = .owner →
      b.node ≠ n →
      ∃ t, exec (.snoopTimeoutExpiry n g) s = .next t ∧ t.quay.quiet.contains (n, g) = true ∧
        t.quay.txns = [{ x with snoops := [b], orphan := 2, owner := n }])) ∧
  (∀ (s : State) (n : Node) (g : Tag) (d : DevReq), direct s = false → s.quay.devReqs = [d] → d.dst = n → d.tag = g →
    d.status = none →
    ∃ t, exec (.deviceRequestTimeout n g) s = .next t ∧ t.quay.quiet.contains (n, g) = true ∧
      t.quay.devReqs = if d.op = 0x40 ∨ d.op = 0x41 then [] else [{ d with status := some 2 }])

/-- R444 to R447, R450: the error log and events. An entry that arrives takes the next SEQ and the next free slot, or raises LOST when its
class may not be stored; it is copied to the extended log, or raises EXT_LOST; AON_LOG_ACK frees the entries up to the one whose SEQ is
written; a new window lets every source log again; the ACK of an event up to its COUNT is stored, and one above it is ERR_REG. -/
def Obligations.TheLogKeepsEntries : Prop :=
  (∀ (s : State) (e : BitVec 512) (n : Nat), s.log.inbox = [e] → 1 ≤ n →
    (s.log.count ≤ 447 → ∃ t, exec (.logEntryArrival n) s = .next t ∧
      sget 0 t.log.slots ((s.log.head + s.log.count) % 512) = setField e 40 s.log.seq ∧ t.log.count = s.log.count + 1 ∧
      t.log.head = s.log.head ∧ t.log.seq = s.log.seq + 1 ∧ t.log.lost = s.log.lost) ∧
    (447 < s.log.count → (entClass e).toNat < 2 → s.log.lost ≠ 0xFFFF → ∃ t, exec (.logEntryArrival n) s = .next t ∧
      t.log.slots = s.log.slots ∧ t.log.count = s.log.count ∧ t.log.seq = s.log.seq + 1 ∧ t.log.lost = s.log.lost + 1)) ∧
  (∀ s : State, exec .logRateWindowStart s = .next { s with log.rate := [], ev.sentWin := [] }) ∧
  (∀ (s : State) (e : BitVec 512) (r : List (BitVec 512)), s.mgt.extQ = e :: r →
    (s.aon.mode = .service → exec .extendedLogCopy s =
      .next { s with mgt.extQ := r, mgt.xlog := sset 0 s.mgt.xlog s.mgt.xlogWr e, mgt.xlogWr := (s.mgt.xlogWr + 1) % 16384 }) ∧
    (s.aon.mode = .stall ∨ s.aon.mode = .watch → s.log.extLost ≠ 0xFFFF →
      exec .extendedLogCopy s = .next { s with mgt.extQ := r, log.extLost := s.log.extLost + 1 })) ∧
  (∀ (s : State) (k : Nat) (v : BitVec 32), k < s.log.count →
    entSeq (sget 0 s.log.slots ((s.log.head + k) % 512)) = v.extractLsb' 0 24 →
    (∀ i, i < k → entSeq (sget 0 s.log.slots ((s.log.head + i) % 512)) ≠ v.extractLsb' 0 24) →
    ∃ t, exec (.aonLogAck 0 v) s = .next t ∧ t.log.count = s.log.count - (k + 1) ∧ t.log.head = (s.log.head + (k + 1)) % 512 ∧
      t.aon.i3cStatus = 0 ∧ t.log.seq = s.log.seq) ∧
  (∀ (s : State) (v : BitVec 32), (∀ i, i < s.log.count → entSeq (sget 0 s.log.slots ((s.log.head + i) % 512)) ≠ v.extractLsb' 0 24) →
    exec (.aonLogAck 0 v) s = .next (i3cDone 1 [] s)) ∧
  (∀ (s : State) (id : Nat) (v : BitVec 48), eventImpl s.fuse.variantH id = true →
    (v ≤ sget 0 s.ev.count id → ∃ t, exec (.eventAck 0 id v) s = .next t ∧ sget 0 t.ev.ack id = v ∧ t.ev.count = s.ev.count ∧
      t.aon.i3cStatus = 0) ∧
    (sget 0 s.ev.count id < v → exec (.eventAck 0 id v) s = .next (i3cDone 1 [] s)))

/-- R454 to R459: samplers and corrections. A sampler that has counted its threshold is armed and counts from 0; the record goes to the next
line of the ring with the tide and its sampler, or is dropped when the ring is full; MGT_SMP_RD consumes; a new window clears the
correction tables; a frame at FRAME_TH is retired and a bank at BANK_TH is reported once, and retired with AUTO_RETIRE_BANK. -/
def Obligations.SamplesAndCorrections : Prop :=
  (∀ (s : State) (n : Nat), n < 16 → smpOn (smpOf s n) = true → fieldNat (smpOf s n).cfg 27 12 < (smpOf s n).count →
    exec (.samplerThreshold n) s = .next (setSmp n { smpOf s n with armed := true, count := 0 } s)) ∧
  (∀ (s : State) (n : Nat) (op : BitVec 8) (line : Line) (node : Node) (g : Tag) (cls : BitVec 8) (due : Option (BitVec 24)),
    n < 16 → (smpOf s n).armed = true → Quiet s →
    (smpFull s = true →
      ∃ t, exec (.sampleCapture n op line node g cls due) s = .next t ∧ t.mgt.smpDropped = true ∧ (smpOf t n).armed = false ∧
        t.quay = s.quay ∧ t.mgt.smpWr = s.mgt.smpWr) ∧
    (smpFull s = false → s.led.pending = false → s.rings.cmds = [] → Untouched s (smpLine s) → dirLine s (smpLine s) = 0 →
      (∃ t q, exec (.sampleCapture n op line node g cls due) s = .next t ∧ qline t (smpLine s) = some q ∧ q.dirty = true ∧
        q.mask = BitVec.allOnes 64 ∧ q.data.extractLsb' 0 64 = s.time.tide ∧ q.data.extractLsb' 160 39 = line ∧
        q.data.extractLsb' 88 8 = op ∧ q.data.getLsbD 82 = false ∧ q.data.extractLsb' 84 4 = BitVec.ofNat 4 n ∧
        t.mgt.smpWr = s.mgt.smpWr + 1 ∧ (smpOf t n).armed = false) ∧
      (∃ t q, exec (.sampleNoRequestTimeout n) s = .next t ∧ qline t (smpLine s) = some q ∧ q.dirty = true ∧
        q.mask = BitVec.allOnes 64 ∧ q.data.extractLsb' 0 64 = s.time.tide ∧ q.data.getLsbD 82 = true ∧
        q.data.extractLsb' 84 4 = BitVec.ofNat 4 n ∧ q.data.extractLsb' 88 424 = 0 ∧
        t.mgt.smpWr = s.mgt.smpWr + 1 ∧ (smpOf t n).armed = false))) ∧
  (∀ (s : State) (v : BitVec 32), s.aon.mode ≠ .stall → s.aon.mode ≠ .watch →
    exec (.sampleRingConsume 0 v) s = .next (i3cDone 0 [] { s with mgt.smpRd := v })) ∧
  (∀ s : State, exec .frameWinStart s = .next { s with tier.frameTable := [], tier.bankTable := [] }) ∧
  (∀ (s : State) (dfa : Nat), s.aon.ceCfg.getLsbD 31 = true → fieldNat s.aon.ceCfg 11 4 ≤ frameCorrections s dfa → Quiet s →
    dfa < totalFrames s → regionOf s dfa = none → fUse (frameEntry s dfa) = 0 → s.tier.ops = [] → s.dram.retireList = [] →
    ∃ t, exec (.frameRetired dfa) s = .next t ∧ fUse (frameEntry t dfa) = 4 ∧ ∀ f, f ≠ dfa → frameEntry t f = frameEntry s f) ∧
  (∀ (s : State) (b : Nat), fieldNat s.aon.ceCfg 29 20 ≤ (sget {} s.tier.bankTable b).count → Quiet s →
    4 ≤ (sget {} s.tier.bankTable b).dfas.length → (sget {} s.tier.bankTable b).logged = false →
    (s.aon.ceCfg.getLsbD 30 = false →
      ∃ t, exec (.bankSuspect b) s = .next t ∧ (sget {} t.tier.bankTable b).logged = true ∧ t.dram = s.dram) ∧
    (s.aon.ceCfg.getLsbD 30 = true → s.tier.ops = [] → s.dram.retireList = [] →
      (∀ f, f < totalFrames s → frameInBank s b f = true → regionOf s f = none ∧ fUse (frameEntry s f) = 0) →
      ∃ t, exec (.bankSuspect b) s = .next t ∧ (sget {} t.tier.bankTable b).logged = true ∧
        ∀ f, f < totalFrames s → frameInBank s b f = true → fUse (frameEntry t f) = 4))

/-- R461 to R468: the management window. A 32-bit or 64-bit access over I3C reads or writes the register at its offset; a read leaves its data
for the private read, which takes them; a breach is ERR_REG and a frame of the wrong length FRAME, without effect; DATA reaches the word
that IDX names and INC advances it; a parity mismatch reloads the register. -/
def Obligations.TheWindowReadsAndWrites : Prop :=
  (∀ (s : State) (f : I3cFrame), s.aon.otpBusy = false → s.aon.mode = .service → f.i2c = false → f.lenOk = true →
    (f.offset = 0x58 → f.be = 0x0F →
      (1 ≤ fieldNat f.data 29 20 → 1 ≤ fieldNat f.data 19 12 → 1 ≤ fieldNat f.data 11 4 →
        exec (.write32 f) s = .next (i3cDone 0 [] { s with aon.ceCfg := f.data.extractLsb' 0 32 &&& 0xFFFFFFF0 })) ∧
      exec (.read32 f) s = .next (i3cDone 0 (bytesOf s.aon.ceCfg 4) s)) ∧
    (f.offset = 0 → f.be = 0x0F →
      exec (.read32 f) s = .next (i3cDone 0 (bytesOf (deviceId s) 4) s)) ∧
    (f.offset = 0x380010 → f.be = 0xFF → (domOf s 150).st = .awake →
      exec (.write64 f) s = .next (i3cDone 0 [] { s with mgt.patchBase := f.data &&& 0x1FFFFFFFFFFF })) ∧
    (f.offset = 0x20 → f.be = 0xFF →
      exec (.read64 f) s = .next (i3cDone 0 (bytesOf s.time.tide 8) s)) ∧
    (f.offset = 0x5A → ∀ c ∈ ([.write32, .read32, .write64, .read64] : List (I3cFrame → Instr)),
      exec (c f) s = .next (i3cDone 1 [] s))) ∧
  (∀ (s : State) (f : I3cFrame), s.aon.otpBusy = false → s.aon.mode ≠ .watch → f.lenOk = false →
    ∀ c ∈ ([.write32, .read32, .write64, .read64] : List (I3cFrame → Instr)),
      exec (c f) s = .next (i3cDone 3 [] s)) ∧
  (∀ s : State, s.aon.otpBusy = false → exec .i3cPrivateRead s = .next { s with aon.i3cData := [] }) ∧
  (∀ (s : State) (a : BitVec 7), exec (.dynamicAddressAssignment a) s = .next { s with aon.i3cAddr := some a }) ∧
  (∀ (s : State) (d : BitVec 64), s.aon.otpBusy = false → 1 ≤ fieldNat d 31 22 → fieldNat d 31 22 ≤ 1000 → 1 ≤ fieldNat d 21 16 →
    fieldNat d 15 12 ≤ 13 → fieldNat d 11 9 ≤ 6 →
    exec (.registerWrite 0 0x18 0x0F d false) s =
      .next (i3cDone 0 [] { s with aon.pwrCfg := d.extractLsb' 0 32 &&& 0xFFFFFE00 })) ∧
  (∀ (s : State) (k : Nat) (d : BitVec 32), s.aon.otpBusy = false → k < 0x400 →
    sget 0 s.aon.xidx 0 = 0x80040000 + BitVec.ofNat 32 (4 * k) →
    (∃ t, exec (.indirectDataAccess 0 0x64 true 0xF d) s = .next t ∧ sget 0 t.aon.staging k = d ∧
      sget 0 t.aon.xidx 0 = 0x80040000 + BitVec.ofNat 32 (4 * k + 4) ∧ t.aon.i3cStatus = 0) ∧
    (∃ t, exec (.indirectDataAccess 0 0x64 false 0xF d) s = .next t ∧ t.aon.staging = s.aon.staging ∧
      t.aon.i3cData = bytesOf (sget 0 s.aon.staging k) 4 ∧ sget 0 t.aon.xidx 0 = 0x80040000 + BitVec.ofNat 32 (4 * k + 4))) ∧
  (∀ s : State, exec (.paritySweep 0x58 false) s = .next s ∧
    ∃ t, exec (.paritySweep 0x58 true) s = .next t ∧ t.aon = { s.aon with ceCfg := 0x84018080 } ∧
      (sget 0 s.log.rate (epAon.toNat * 256 + 0x6C) < 16 → t.log.inbox = s.log.inbox ++
        [logEntry { cause := 0x6C, src := epAon, kind := 5, addr := 0x58 } s.time.tide]))

/-- R471, R474, Table 17.8: resets and port control. AON_RESET_CTL acts only over I3C with its key, and a device reset in an operating mode
only with FORCE; a cold or warm reset enters Stall (0x01) and restarts; AFL returns a port to DETECT, PE resets the SSDs of a root port,
BAY asserts a bay's reset output, MGT lets firmware run; DISABLE holds a port OFF and DISABLE = 0 lets it train again. -/
def Obligations.ResetsActThroughAon : Prop :=
  (∀ (s : State) (force : Bool) (i : Nat), s.aon.otpBusy = false → (needsForce s.aon.mode = false ∨ force = true) →
    (∃ t, exec (.deviceCold 0 0xA5 force i) s = .next t ∧ Entered t s.aon.mode .stall 0x01 ∧ t.aon.restart = true ∧
      t.dram.mem = [] ∧ t.aon.ceCfg = 0x84018080 ∧ t.aon.i3cStatus = 0) ∧
    (∃ t, exec (.deviceWarm 0 0xA5 force i) s = .next t ∧ Entered t s.aon.mode .stall 0x01 ∧ t.aon.restart = true ∧
      t.dram.mem = [] ∧ t.aon.ceCfg = s.aon.ceCfg ∧ t.aon.i3cStatus = 0)) ∧
  (∀ (s : State) (i : Nat), s.aon.otpBusy = false → needsForce s.aon.mode = true →
    exec (.deviceCold 0 0xA5 false i) s = .next (i3cDone 1 [] s) ∧
    exec (.deviceWarm 0 0xA5 false i) s = .next (i3cDone 1 [] s)) ∧
  (∀ c ∈ ([.deviceCold, .deviceWarm, .afl, .pe, .bay, .mgt] : List (Nat → BitVec 8 → Bool → Nat → Instr)),
    ∀ (s : State) (key : BitVec 8) (force : Bool) (i : Nat), s.aon.otpBusy = false → key ≠ 0xA5 →
      exec (c 0 key force i) s = .next (i3cDone 1 [] s)) ∧
  (∀ (s : State) (force : Bool) (i : Nat), s.aon.otpBusy = false → diesDark s = false →
    (i < numPorts s → portUp s i = false → (portOf s i).st ≠ .eq →
      ∃ t, exec (.afl 0 0xA5 force i) s = .next t ∧ (portOf t i).st = (if (portOf s i).st = .off then .off else .detect) ∧
        t.aon.i3cStatus = 0 ∧ OtherPortsKept i s t) ∧
    (i < numPorts s → portUp s i = true → direct s = true →
      ∃ t, exec (.afl 0 0xA5 force i) s = .next t ∧ (portOf t i).st = .detect ∧ (portOf t i).held = true ∧ t.aon.i3cStatus = 0 ∧
        OtherPortsKept i s t) ∧
    (i < numDies s → LedgerRests s → s.led.segs = [] → (∀ k, (ssdOf s k).resets = []) → (ssdIndices s).Nodup →
      ∃ t, exec (.pe 0 0xA5 force i) s = .next t ∧ t.aon.i3cStatus = 0 ∧
        ∀ k ∈ ssdIndices s, peOf s k = i → (ssdOf s k).present = true → (ssdOf s k).failed = false →
          (ssdOf t k).resetting = true ∧ (ssdOf t k).ready = false) ∧
    (i < numBays s → (ledgerBay s (i + 35) = false ∨ s.aon.mode = .maintenance) → Quiet s →
      ∃ t, exec (.bay 0 0xA5 force i) s = .next t ∧ t.pin.perst.getLsbD i = true ∧ t.aon.i3cStatus = 0 ∧
        (∀ k ∈ ssdsOfBay s i, (ssdOf t k).ready = false)) ∧
    (i < numDies s → (s.aon.mode = .maintenance ∨ force = true) →
      exec (.mgt 0 0xA5 force i) s = .next (i3cDone 0 [] { s with mgt.fwRuns := sset false s.mgt.fwRuns i true }))) ∧
  (∀ (s : State) (p : Nat), s.aon.otpBusy = false → diesDark s = false → p < numPorts s → direct s = true →
    ((portOf s p).disable = false →
      ∃ t, exec (.disable 0 p) s = .next t ∧ (portOf t p).disable = true ∧ (portOf t p).st = .off ∧ t.aon.i3cStatus = 0) ∧
    ((portOf s p).disable = true → (portOf s p).st = .off → aflParam s p 0 ≠ 0 → (portOf s p).refLost = false → txPermitted s = true →
      ∃ t, exec (.disableClear 0 p) s = .next t ∧ (portOf t p).disable = false ∧ (portOf t p).st = .detect ∧ t.aon.i3cStatus = 0))

/-- R416, R471: OTP and the version floors. An operation that may run leaves the I3C status BUSY until it is done; PROGRAM_OWNER takes its key
digests from the staging words, REVOKE_OWNER revokes its slot, PROGRAM_BOARD takes the registers of the PPD; a failed read-back is
RESULT 4; a floor rises to the running version and never falls. -/
def Obligations.FusesAreProgrammed : Prop :=
  (∀ (s : State) (k : Nat), s.aon.otpBusy = false → k < 4 →
    (s.aon.mode = .maintenance → (sget {} s.fuse.ownerSlot k).programmed = false →
      exec (.programOwner 0 0xA5 k) s = .next (otpStarted 1 k s)) ∧
    (s.aon.mode = .maintenance → s.aon.hzOwner ≠ some (BitVec.ofNat 2 k) →
      exec (.revokeOwner 0 0xA5 k) s = .next (otpStarted 2 k s)) ∧
    (s.aon.mode = .stall → s.fuse.boardProg = false →
      exec (.programBoard 0 0xA5 k) s = .next (otpStarted 3 k s)) ∧
    (s.aon.mode ≠ .maintenance → ∃ t, exec (.programOwner 0 0xA5 k) s = .next t ∧ t.aon.otpResult = 2 ∧ t.fuse = s.fuse ∧
      t.aon.otpBusy = false)) ∧
  (∀ s : State, s.aon.otpBusy = true →
    (s.aon.otpOp = 1 → ∃ t, exec (.otpProgramDone true) s = .next t ∧ t.aon.otpBusy = false ∧ t.aon.otpResult = 1 ∧
      sget {} t.fuse.ownerSlot s.aon.otpSlot.toNat =
        { programmed := true, ecdsa := stagingBits s 0 12, hss := stagingBits s 12 12 } ∧ t.fuse.board = s.fuse.board) ∧
    (s.aon.otpOp = 2 → ∃ t, exec (.otpProgramDone true) s = .next t ∧ t.aon.otpBusy = false ∧ t.aon.otpResult = 1 ∧
      sget {} t.fuse.ownerSlot s.aon.otpSlot.toNat = { sget {} s.fuse.ownerSlot s.aon.otpSlot.toNat with revoked := true }) ∧
    (s.aon.otpOp = 3 → ∃ t, exec (.otpProgramDone true) s = .next t ∧ t.aon.otpBusy = false ∧ t.aon.otpResult = 1 ∧
      t.fuse.boardProg = true ∧ (∀ n, n < 51 → sget 0 t.fuse.board (32 * n) = (pch s n).cfg ∧
        sget 0 t.fuse.board (32 * n + 4) = (pch s n).lim ∧ sget 0 t.fuse.board (32 * n + 12) = sget 0 s.aon.staging n)) ∧
    ∃ t, exec (.otpProgramDone false) s = .next t ∧ t.aon.otpBusy = false ∧ t.aon.otpResult = 4) ∧
  (∀ s : State, s.aon.otpBusy = false → (s.aon.mode = .service ∨ s.aon.mode = .maintenance) →
    exec (.svnCommitFw 0 0xA5) s = .next (i3cDone 0 [] { s with
        fuse.svnFw := max s.fuse.svnFw (min 64 s.aon.fwSvn.toNat) }) ∧
    exec (.svnCommitHarness 0 0xA5) s =
      .next (i3cDone 0 [] { s with
        fuse.svnHarness := max s.fuse.svnHarness (min 64 s.aon.hzSvn.toNat) }))

/-- R49: reads of a line in an Unbacked page, whatever key ID or flags its descriptor holds and whatever sealed range it lies in. RD_CUR,
RD_SHARED and RD_OWN are answered with zeros; DRAM, the key contexts and the descriptors stand as they are, and nothing is logged. -/
def Obligations.UnbackedReadsZero : Prop :=
  ∀ c ∈ ([.rdCur, .rdShared, .rdOwn] : List (Req → Instr)), ∀ (s : State) (r : Req), AtHome s r → dirLine s (reqLine s r) = 0 →
    qline s (reqLine s r) = none → s.tier.ops = [] → dState (descOf s (pageOf (reqLine s r))) = .unbacked →
    ∃ t op f, exec (c r) s = .next t ∧ Sent r.port { hdr := rspHdr op r.src (nodeId s) r.tag 0 f, body := lineSlots 0 } s t ∧
      t.dram = s.dram ∧ t.quay.desc = s.quay.desc ∧ t.sec = s.sec ∧ t.log = s.log

/-- R92: a write into a sealed range whose key context is not Active. It completes with ERR_NODATA, stores nothing, and is logged with its
DLA, KEY_ID, requester and tag. -/
def Obligations.UnkeyedWritesFail : Prop :=
  ∀ c ∈ ([.wrFull, .wrPart] : List (Req → Instr)), ∀ (s : State) (r : Req) (k : BitVec 20) (v : Bool), AtHome s r →
    dirLine s (reqLine s r) = 0 → qline s (reqLine s r) = none → s.tier.ops = [] → descRaw s (pageOf (reqLine s r)) = 0 →
    sealRange s (pageOf (reqLine s r)) = some (k, v) → s.led.engines = [] → keyCtxOf s k = none → r.mask ≠ 0 →
    ∃ t, exec (c r) s = .next t ∧ Sent r.port { hdr := rspHdr 0x5E r.src (nodeId s) r.tag 2 {}, body := [] } s t ∧
      t.quay.lines = s.quay.lines ∧ t.quay.desc = s.quay.desc ∧ t.dram = s.dram ∧
      (sget 0 s.log.rate ((epQb (bankOf s (reqLine s r))).toNat * 256 + 3) < 16 →
        t.log.inbox = s.log.inbox ++ [logEntry
          { cause := 0x03, src := epQb (bankOf s (reqLine s r)), kind := 1, addr := dla (reqLine s r), key := k, node := r.src, tag := r.tag }
          s.time.tide])

/-- R191: AON_PERSIST_LEVEL. A 64-bit read returns CEIL_PAGES above DIRTY_PAGES, and both change together, at the start of a 1 s window, to
C and D of that window. -/
def Obligations.PersistLevelIsOnePair : Prop :=
  (∀ (s : State) (f : I3cFrame), s.aon.otpBusy = false → s.aon.mode = .service → f.i2c = false → f.lenOk = true → f.offset = 0x40 →
    f.be = 0xFF → exec (.read64 f) s = .next (i3cDone 0 (bytesOf (s.aon.ceilPages ++ s.aon.dirtyPages) 8) s)) ∧
  (∀ s : State, s.aon.mode = .service → LedgerRests s → s.led.order = [] →
    ∃ t, exec .dirtyCeilingWindow s = .next t ∧ t.aon.ceilPages = BitVec.ofNat 32 t.led.c ∧
      t.aon.dirtyPages = BitVec.ofNat 32 (dirtyPages s))

/-- R10: the time to service. At the entry to Service, AON_RESUME_STAT records the time since a feed returned in units of 1 ms, within 1 ms,
and whether DRAM had been retained (case 1) or not (case 2), for a time that the field can hold. -/
def Obligations.TimeToServiceIsRecorded : Prop :=
  ∀ s : State, s.aon.mode = .recovery → recovered s = true → Quiet s → s.reins.hold = [] →
    (s.time.tide - s.aon.returnTide).toNat / 1000000 < 2 ^ 20 →
    ∃ t, exec .serviceEntry s = .next t ∧
      t.aon.resumeMs.toNat * 1000000 < (s.time.tide - s.aon.returnTide).toNat + 1000000 ∧
      (s.time.tide - s.aon.returnTide).toNat < t.aon.resumeMs.toNat * 1000000 + 1000000 ∧
      t.aon.rcase = (if s.aon.dramRetained then 1 else 2)

/-- R183, R303: the arithmetic of the atomics, on an operand of 8 B at the start of the line and on one of 4 B: addition wraps, SMIN and SMAX
compare as two's-complement integers, UMIN and UMAX as unsigned ones, CAS swaps on equality; the old value is returned, and no other
byte of the line changes. -/
def Obligations.AtomicsCompute : Prop :=
  (∀ (x : BitVec 512) (r : Req) (old a b : BitVec 64), r.opndOff = 0 → r.opndSize = 1 → old = x.extractLsb' 0 64 →
    a = r.operand.extractLsb' 0 64 → b = r.operand.extractLsb' 64 64 →
    ∀ k ∈ ([(0x10, old + a), (0x11, a), (0x12, if old = a then b else old), (0x13, old &&& a), (0x14, old ||| a), (0x15, old ^^^ a),
        (0x16, if a.toInt < old.toInt then a else old), (0x17, if old.toInt < a.toInt then a else old),
        (0x18, if a.toNat < old.toNat then a else old), (0x19, if old.toNat < a.toNat then a else old)] : List (BitVec 8 × BitVec 64)),
      (atomicLine { r with op := k.1 } x).2 = old ∧ (atomicLine { r with op := k.1 } x).1.extractLsb' 0 64 = k.2 ∧
      (atomicLine { r with op := k.1 } x).1.extractLsb' 64 448 = x.extractLsb' 64 448) ∧
  (∀ (x : BitVec 512) (r : Req) (old a b : BitVec 32), r.opndOff = 0 → r.opndSize = 0 → old = x.extractLsb' 0 32 →
    a = r.operand.extractLsb' 0 32 → b = r.operand.extractLsb' 64 32 →
    ∀ k ∈ ([(0x10, old + a), (0x11, a), (0x12, if old = a then b else old), (0x13, old &&& a), (0x14, old ||| a), (0x15, old ^^^ a),
        (0x16, if a.toInt < old.toInt then a else old), (0x17, if old.toInt < a.toInt then a else old),
        (0x18, if a.toNat < old.toNat then a else old), (0x19, if old.toNat < a.toNat then a else old)] : List (BitVec 8 × BitVec 32)),
      (atomicLine { r with op := k.1 } x).2 = old.setWidth 64 ∧ (atomicLine { r with op := k.1 } x).1.extractLsb' 0 32 = k.2 ∧
      (atomicLine { r with op := k.1 } x).1.extractLsb' 32 480 = x.extractLsb' 32 480)

/-- The block's step (log entry 6): with a command at the front of the queue, a step is that command on the state with the queue's rest. -/
def Obligations.FrontCommandRuns : Prop :=
  ∀ (c : Instr) (l : List Instr) (s : State), step { s with pending := c :: l } = exec c { s with pending := l }

/-- R407, R456, log entry 6 (the model's choice): on an empty queue one tick of the tide counter passes while AON's clock runs: the tide
advances by 16 ns and the residency counter of the mode by one, and no mode, fuse or power-path register changes. -/
def Obligations.EmptyQueueTicks : Prop :=
  ∀ s : State, s.pending = [] →
    (clockRuns s = false → step s = .next s) ∧
    (clockRuns s = true → ∃ t, step s = .next t ∧ t.time.tide = s.time.tide + 16 ∧
      sget 0 t.time.modeTicks (modeCode s.aon.mode) = sget 0 s.time.modeTicks (modeCode s.aon.mode) + 1 ∧
      t.aon.mode = s.aon.mode ∧ t.fuse = s.fuse ∧ t.ppd = s.ppd ∧ t.pending = [])

/-- State.reset: the values that Tables 7.1, 11.6, 14.3, 14.4, 14.9, 14.10, 14.11, 15.3, 16.4, 16.5, 16.11, 17.7 and 17.8 give registers at
reset, AON_DEVICE_ID of the -F variant (log entry 1), empty queues, and DRAM in its canonical form (with the reset pin levels of log
entry 3). -/
def Obligations.ResetValues : Prop :=
  Inv State.reset ∧ State.reset.pending = [] ∧ State.reset.quay.txns = [] ∧ modeStat State.reset = 0x01000700 ∧
  deviceId State.reset = 0x01FFFFFF ∧ aonRead State.reset 0 0x10 = some 0x30 ∧ aonRead State.reset 0 0x18 = some 0x028A4000 ∧
  tideStat State.reset = 0 ∧ aonRead State.reset 0 0x30 = some 0x01DCD650 ∧ aonRead State.reset 0 0x34 = some 0 ∧
  aonRead State.reset 0 0x38 = some 0xA6 ∧ aonRead State.reset 0 0x4C = some 0 ∧ aonRead State.reset 0 0x50 = some 0 ∧
  aonRead State.reset 0 0x58 = some 0x84018080 ∧ aonRead State.reset 0 0x5C = some 0x08 ∧ aonRead State.reset 0 0x70 = some 0 ∧
  State.reset.mgt.patchStat = 0 ∧ (∀ p, linkCode (portOf State.reset p).st = 0) ∧ (∀ n, (pch State.reset n).st = .off) ∧
  (∀ l, qline State.reset l = none) ∧ (∀ p, descRaw State.reset p = 0) ∧ Quiet State.reset

/-- Every command has an effect: exec answers a next state, but for a low pulse of RESET_N or PWROK between 100 ns and 1 µs (R482) and an
access of the debug port to a frame beyond the last channel set (R132), where the spec states no effect. No command is refused. -/
def Obligations.CommandsAlwaysAnswer : Prop :=
  ∀ (c : Instr) (s : State), (∃ t, exec c s = .next t) ∨
    (exec c s = .fault .undefinedPulse ∧ ∃ ns, 100 ≤ ns ∧ ns < 1000 ∧
      ((c = .resetNAssert ns ∧ s.aon.resetLow = false) ∨ (c = .pwrokDeassert ns ∧ s.aon.pwrok = true))) ∨
    (exec c s = .fault .invalidFrame ∧ ∃ a w x, c = .debugAccess a w x ∧ diesDark s = false ∧ s.aon.loaded = true ∧
      totalFrames s ≤ a.toNat / 64)

/-- The frame of every command: a next state differs from the state before only in the parts that `footprint` names for the command; the
queue is in none of them. -/
def Obligations.CommandsKeepTheirFrame : Prop :=
  ∀ (c : Instr) (s t : State), exec c s = .next t → ChangesOnly (footprint c) s t ∧ t.pending = s.pending ∧
    ((footprint c).mem = false → ∀ a, memByte t a = memByte s a) ∧ ((footprint c).port = false → ∀ p, portOf t p = portOf s p) ∧
    ((footprint c).mode = false → t.aon.mode = s.aon.mode)

/-- The invariant of memory (log entry 4): every step keeps DRAM's stored bytes in their canonical form. -/
def Obligations.StepKeepsInv : Prop :=
  ∀ s t : State, Inv s → step s = .next t → Inv t
end

