-- ==== Sys2Proof/Laws/Maps.lean ====
section
/-! SUPPORT. Sparse maps and memory: reading what was written, and the canonical form that every write keeps. -/

namespace Sys2Proof.Laws

open Sys2Proof Sys2Proof.Machine

variable {α : Type}

theorem sget_sdel_same (d : α) (m : SMap α) (k : Nat) : sget d (sdel m k) k = d := by
  induction m with
  | nil => rfl
  | cons e r ih =>
    obtain ⟨j, v⟩ := e
    by_cases h : j = k <;> simp [sdel, sget, h, ih]

theorem sget_sdel_other (d : α) (m : SMap α) {k j : Nat} (h : j ≠ k) : sget d (sdel m k) j = sget d m j := by
  induction m with
  | nil => rfl
  | cons e r ih =>
    obtain ⟨i, v⟩ := e
    by_cases hi : i = k
    · subst hi; simp [sdel, sget, ih, Ne.symm h]
    · by_cases hj : i = j
      · subst hj; simp [sdel, sget, hi]
      · simp [sdel, sget, hi, hj, ih]

theorem sget_sins_same (d : α) (m : SMap α) (k : Nat) (v : α) (h : sget d m k = d ∨ True) :
    (∀ e ∈ m, e.1 ≠ k) → sget d (sins k v m) k = v := by
  induction m with
  | nil => intro _; simp [sins, sget]
  | cons e r ih =>
    obtain ⟨i, w⟩ := e
    intro hm
    have hi : i ≠ k := hm (i, w) (by simp)
    have hr : ∀ e ∈ r, e.1 ≠ k := fun e he => hm e (by simp [he])
    by_cases hk : k < i
    · simp [sins, sget, hk]
    · simp [sins, sget, hk, hi, ih (Or.inr trivial) hr]

theorem sget_sins_other (d : α) (m : SMap α) {k j : Nat} (v : α) (h : j ≠ k) : sget d (sins k v m) j = sget d m j := by
  induction m with
  | nil => simp [sins, sget, Ne.symm h]
  | cons e r ih =>
    obtain ⟨i, w⟩ := e
    by_cases hk : k < i
    · simp [sins, sget, hk, Ne.symm h]
    · by_cases hj : i = j
      · subst hj; simp [sins, sget, hk]
      · simp [sins, sget, hk, hj, ih]

theorem sdel_keys (m : SMap α) (k : Nat) : ∀ e ∈ sdel m k, e.1 ≠ k := by
  induction m with
  | nil => simp [sdel]
  | cons e r ih =>
    obtain ⟨i, w⟩ := e
    by_cases hi : i = k
    · simp only [sdel, hi, if_true]; exact ih
    · simp only [sdel, hi, if_false, List.mem_cons]
      rintro e (rfl | he)
      · exact hi
      · exact ih e he

/-- Reading the entry that was written. -/
@[simp] theorem sget_sset_same [DecidableEq α] (d : α) (m : SMap α) (k : Nat) (v : α) : sget d (sset d m k v) k = v := by
  unfold sset
  split
  · next h => rw [sget_sdel_same, h]
  · exact sget_sins_same d _ k v (Or.inr trivial) (sdel_keys m k)

/-- Reading another entry than the one that was written. -/
@[simp] theorem sget_sset_other [DecidableEq α] (d : α) (m : SMap α) {k j : Nat} (v : α) (h : j ≠ k) :
    sget d (sset d m k v) j = sget d m j := by
  unfold sset
  split
  · exact sget_sdel_other d m h
  · rw [sget_sins_other d _ v h, sget_sdel_other d m h]

/-- Reading after a write. -/
theorem sget_sset [DecidableEq α] (d : α) (m : SMap α) (k j : Nat) (v : α) :
    sget d (sset d m k v) j = if j = k then v else sget d m j := by
  by_cases h : j = k
  · subst h; simp
  · simp [h]

/-- Every key of the list is above `k`. -/
def above (k : Nat) (m : SMap α) : Prop := ∀ e ∈ m, k < e.1

/-- The canonical form, said entry by entry. -/
theorem swf_cons [DecidableEq α] (d : α) (j : Nat) (v : α) (r : SMap α) :
    swf d ((j, v) :: r) = true ↔ v ≠ d ∧ above j r ∧ swf d r = true := by
  induction r generalizing j v with
  | nil => simp [swf, above]
  | cons e t ih =>
    obtain ⟨k, w⟩ := e
    simp only [swf, Bool.and_eq_true, decide_eq_true_eq]
    constructor
    · rintro ⟨⟨hv, hk⟩, hr⟩
      refine ⟨by simpa using hv, ?_, hr⟩
      have ht := (ih k w).1 hr
      intro e he
      rcases List.mem_cons.1 he with rfl | he
      · exact hk
      · exact Nat.lt_trans hk (ht.2.1 e he)
    · rintro ⟨hv, ha, hr⟩
      exact ⟨⟨by simpa using hv, ha (k, w) (by simp)⟩, hr⟩

theorem above_sdel (j : Nat) {m : SMap α} (k : Nat) (h : above j m) : above j (sdel m k) := by
  induction m with
  | nil => exact h
  | cons e r ih =>
    obtain ⟨i, w⟩ := e
    have hr : above j r := fun e he => h e (by simp [he])
    by_cases hi : i = k
    · simp only [sdel, hi, if_true]; exact ih hr
    · simp only [sdel, hi, if_false]
      intro e he
      rcases List.mem_cons.1 he with rfl | he
      · exact h _ (by simp)
      · exact ih hr e he

theorem above_sins (j : Nat) {m : SMap α} (k : Nat) (v : α) (h : above j m) (hk : j < k) : above j (sins k v m) := by
  induction m with
  | nil => intro e he; simp [sins] at he; subst he; exact hk
  | cons e r ih =>
    obtain ⟨i, w⟩ := e
    have hr : above j r := fun e he => h e (by simp [he])
    by_cases hi : k < i
    · simp only [sins, hi, if_true]
      intro e he
      rcases List.mem_cons.1 he with rfl | he
      · exact hk
      · exact h e he
    · simp only [sins, hi, if_false]
      intro e he
      rcases List.mem_cons.1 he with rfl | he
      · exact h _ (by simp)
      · exact ih hr e he

theorem swf_sdel [DecidableEq α] (d : α) {m : SMap α} (k : Nat) (h : swf d m = true) : swf d (sdel m k) = true := by
  induction m with
  | nil => exact h
  | cons e r ih =>
    obtain ⟨i, w⟩ := e
    have hc := (swf_cons d i w r).1 h
    by_cases hi : i = k
    · simp only [sdel, hi, if_true]; exact ih hc.2.2
    · simp only [sdel, hi, if_false]
      exact (swf_cons d i w _).2 ⟨hc.1, above_sdel i k hc.2.1, ih hc.2.2⟩

theorem swf_sins [DecidableEq α] (d : α) {m : SMap α} (k : Nat) {v : α} (hv : v ≠ d) (hk : ∀ e ∈ m, e.1 ≠ k) (h : swf d m = true) :
    swf d (sins k v m) = true := by
  induction m with
  | nil => simpa [sins, swf] using hv
  | cons e r ih =>
    obtain ⟨i, w⟩ := e
    have hc := (swf_cons d i w r).1 h
    by_cases hi : k < i
    · simp only [sins, hi, if_true]
      refine (swf_cons d k v _).2 ⟨hv, ?_, h⟩
      intro e he
      rcases List.mem_cons.1 he with rfl | he
      · exact hi
      · exact Nat.lt_trans hi (hc.2.1 e he)
    · simp only [sins, hi, if_false]
      have hne : i ≠ k := hk (i, w) (by simp)
      exact (swf_cons d i w _).2 ⟨hc.1, above_sins i k v hc.2.1 (by omega), ih (fun e he => hk e (by simp [he])) hc.2.2⟩

/-- A write keeps the canonical form. -/
theorem swf_sset [DecidableEq α] (d : α) {m : SMap α} (k : Nat) (v : α) (h : swf d m = true) : swf d (sset d m k v) = true := by
  unfold sset
  split
  · exact swf_sdel d k h
  · next hv => exact swf_sins d k hv (sdel_keys m k) (swf_sdel d k h)

/-- A write of the 80 stored bytes of a line keeps the canonical form of DRAM. -/
theorem writeStored_wf (m : List Host.Cell) (addr : Nat) (x : BitVec 640) (h : Memory.wf m = true) :
    Memory.wf (writeStored m addr x) = true := by
  unfold writeStored
  generalize List.range 80 = l
  induction l generalizing m with
  | nil => exact h
  | cons i r ih => exact ih _ (swf_sset 0 (addr * 80 + i) (byteAt x i) h)

/-- Writes of any number of lines keep the canonical form of DRAM. -/
theorem writeAll_wf (l : List DramReq) (m : List Host.Cell) (h : Memory.wf m = true) :
    Memory.wf (l.foldl (fun m r => writeStored m r.addr r.data) m) = true := by
  induction l generalizing m with
  | nil => exact h
  | cons q r ih => exact ih _ (writeStored_wf m q.addr q.data h)

end Sys2Proof.Laws
end

