-- ==== Sys2Proof/Laws/Copies.lean ====
section
/-! SUPPORT. Manifest copies: a copy carries the CRCs that make it valid. -/

namespace Sys2Proof.Laws

open Sys2Proof Sys2Proof.Machine

theorem sget_foldl_sset {α : Type} [DecidableEq α] (d : α) (f : Nat → α) :
    ∀ (l : List Nat) (m : SMap α) (k : Nat),
      sget d (l.foldl (fun c k => sset d c k (f k)) m) k = if k ∈ l then f k else sget d m k := by
  intro l
  induction l with
  | nil => intro m k; simp
  | cons a r ih =>
    intro m k
    simp only [List.foldl_cons, ih, List.mem_cons]
    by_cases hr : k ∈ r
    · simp [hr]
    · by_cases ha : k = a
      · subst ha; simp [hr, sget_sset_same]
      · simp [hr, ha, sget_sset_other]

theorem manCrc_crc (m : Manifest) (c : SMap (BitVec 64)) (k : Nat) : manCrc { m with crc := c } k = manCrc m k := rfl

/-- Every copy that is written is valid (R199). -/
theorem manFor_valid (m : Manifest) (i : Nat) : manValid (manFor m i) = true := by
  refine List.all_eq_true.2 fun k hk => ?_
  simp only [manFor, sget_foldl_sset, hk, if_true]
  exact decide_eq_true rfl

/-- An SSD whose copy B is not valid and whose copy A was written holds copy A. -/
theorem ssdCopy_written (d : Ssd) (m : Manifest) (i : Nat) (h : d.manifest = some (manFor m i)) (hb : d.copyB = none) :
    ssdCopy d = some (true, manFor m i) := by
  simp [ssdCopy, h, hb, Option.filter, manFor_valid]

/-- A single copy that names the one SSD of the set and has a format the device knows is consistent (R199). -/
theorem manifestFault_single (s : State) (m : Manifest) (c : copies s = [(0, m)]) (i : ssdIndices s = [0]) (u : ssdUp s 0 = true)
    (h : sget 0#128 m.idents 0 = (ssdOf s 0).nguid) (f : m.fmtMajor = 1) (g : m.fmtMinor = 0) : manifestFault s m = none := by
  simp [manifestFault, c, i, u, h, f, g]

end Sys2Proof.Laws
end

