-- ==== Sys2Proof/Laws/State.lean ====
section
/-! SUPPORT. The parts of the state by number: what is read after a part is written, and what each write leaves alone. -/

namespace Sys2Proof.Laws

open Sys2Proof Sys2Proof.Machine

/-! ## Ports -/

@[simp] theorem portOf_setPort (a : Nat) (v : Port) (s : State) : portOf (setPort a v s) a = v := sget_sset_same ..
theorem portOf_setPort_other {a b : Nat} (h : b ≠ a) (v : Port) (s : State) : portOf (setPort a v s) b = portOf s b :=
  sget_sset_other _ _ _ h
@[simp] theorem portOf_modPort (a : Nat) (f : Port → Port) (s : State) : portOf (modPort a f s) a = f (portOf s a) := sget_sset_same ..
theorem portOf_modPort_other {a b : Nat} (h : b ≠ a) (f : Port → Port) (s : State) : portOf (modPort a f s) b = portOf s b :=
  sget_sset_other _ _ _ h
@[simp] theorem setPort_fuse (a : Nat) (v : Port) (s : State) : (setPort a v s).fuse = s.fuse := rfl
@[simp] theorem modPort_fuse (a : Nat) (f : Port → Port) (s : State) : (modPort a f s).fuse = s.fuse := rfl
@[simp] theorem setPort_aon (a : Nat) (v : Port) (s : State) : (setPort a v s).aon = s.aon := rfl
@[simp] theorem modPort_aon (a : Nat) (f : Port → Port) (s : State) : (modPort a f s).aon = s.aon := rfl
@[simp] theorem setPort_time (a : Nat) (v : Port) (s : State) : (setPort a v s).time = s.time := rfl
@[simp] theorem modPort_time (a : Nat) (f : Port → Port) (s : State) : (modPort a f s).time = s.time := rfl
@[simp] theorem setPort_log (a : Nat) (v : Port) (s : State) : (setPort a v s).log = s.log := rfl
@[simp] theorem modPort_log (a : Nat) (f : Port → Port) (s : State) : (modPort a f s).log = s.log := rfl
@[simp] theorem setPort_ev (a : Nat) (v : Port) (s : State) : (setPort a v s).ev = s.ev := rfl
@[simp] theorem modPort_ev (a : Nat) (f : Port → Port) (s : State) : (modPort a f s).ev = s.ev := rfl
@[simp] theorem setPort_sec (a : Nat) (v : Port) (s : State) : (setPort a v s).sec = s.sec := rfl
@[simp] theorem modPort_sec (a : Nat) (f : Port → Port) (s : State) : (modPort a f s).sec = s.sec := rfl
@[simp] theorem setPort_frz (a : Nat) (v : Port) (s : State) : (setPort a v s).frz = s.frz := rfl
@[simp] theorem modPort_frz (a : Nat) (f : Port → Port) (s : State) : (modPort a f s).frz = s.frz := rfl
@[simp] theorem setPort_pin (a : Nat) (v : Port) (s : State) : (setPort a v s).pin = s.pin := rfl
@[simp] theorem modPort_pin (a : Nat) (f : Port → Port) (s : State) : (modPort a f s).pin = s.pin := rfl
@[simp] theorem setPort_quay (a : Nat) (v : Port) (s : State) : (setPort a v s).quay = s.quay := rfl
@[simp] theorem modPort_quay (a : Nat) (f : Port → Port) (s : State) : (modPort a f s).quay = s.quay := rfl
@[simp] theorem setPort_dram (a : Nat) (v : Port) (s : State) : (setPort a v s).dram = s.dram := rfl
@[simp] theorem modPort_dram (a : Nat) (f : Port → Port) (s : State) : (modPort a f s).dram = s.dram := rfl
@[simp] theorem setPort_tier (a : Nat) (v : Port) (s : State) : (setPort a v s).tier = s.tier := rfl
@[simp] theorem modPort_tier (a : Nat) (f : Port → Port) (s : State) : (modPort a f s).tier = s.tier := rfl
@[simp] theorem setPort_led (a : Nat) (v : Port) (s : State) : (setPort a v s).led = s.led := rfl
@[simp] theorem modPort_led (a : Nat) (f : Port → Port) (s : State) : (modPort a f s).led = s.led := rfl
@[simp] theorem setPort_reins (a : Nat) (v : Port) (s : State) : (setPort a v s).reins = s.reins := rfl
@[simp] theorem modPort_reins (a : Nat) (f : Port → Port) (s : State) : (modPort a f s).reins = s.reins := rfl
@[simp] theorem setPort_noc (a : Nat) (v : Port) (s : State) : (setPort a v s).noc = s.noc := rfl
@[simp] theorem modPort_noc (a : Nat) (f : Port → Port) (s : State) : (modPort a f s).noc = s.noc := rfl
@[simp] theorem setPort_rings (a : Nat) (v : Port) (s : State) : (setPort a v s).rings = s.rings := rfl
@[simp] theorem modPort_rings (a : Nat) (f : Port → Port) (s : State) : (modPort a f s).rings = s.rings := rfl
@[simp] theorem setPort_mgt (a : Nat) (v : Port) (s : State) : (setPort a v s).mgt = s.mgt := rfl
@[simp] theorem modPort_mgt (a : Nat) (f : Port → Port) (s : State) : (modPort a f s).mgt = s.mgt := rfl
@[simp] theorem setPort_nor (a : Nat) (v : Port) (s : State) : (setPort a v s).nor = s.nor := rfl
@[simp] theorem modPort_nor (a : Nat) (f : Port → Port) (s : State) : (modPort a f s).nor = s.nor := rfl
@[simp] theorem setPort_ppd (a : Nat) (v : Port) (s : State) : (setPort a v s).ppd = s.ppd := rfl
@[simp] theorem modPort_ppd (a : Nat) (f : Port → Port) (s : State) : (modPort a f s).ppd = s.ppd := rfl
@[simp] theorem setPort_cfg (a : Nat) (v : Port) (s : State) : (setPort a v s).cfg = s.cfg := rfl
@[simp] theorem modPort_cfg (a : Nat) (f : Port → Port) (s : State) : (modPort a f s).cfg = s.cfg := rfl
@[simp] theorem setPort_free (a : Nat) (v : Port) (s : State) : (setPort a v s).free = s.free := rfl
@[simp] theorem modPort_free (a : Nat) (f : Port → Port) (s : State) : (modPort a f s).free = s.free := rfl
@[simp] theorem setPort_pending (a : Nat) (v : Port) (s : State) : (setPort a v s).pending = s.pending := rfl
@[simp] theorem modPort_pending (a : Nat) (f : Port → Port) (s : State) : (modPort a f s).pending = s.pending := rfl

/-! ## DRAM channels -/

@[simp] theorem chan_setChan (a : Nat) (v : Channel) (s : State) : chan (setChan a v s) a = v := sget_sset_same ..
theorem chan_setChan_other {a b : Nat} (h : b ≠ a) (v : Channel) (s : State) : chan (setChan a v s) b = chan s b :=
  sget_sset_other _ _ _ h
@[simp] theorem chan_modChan (a : Nat) (f : Channel → Channel) (s : State) : chan (modChan a f s) a = f (chan s a) := sget_sset_same ..
theorem chan_modChan_other {a b : Nat} (h : b ≠ a) (f : Channel → Channel) (s : State) : chan (modChan a f s) b = chan s b :=
  sget_sset_other _ _ _ h
@[simp] theorem setChan_fuse (a : Nat) (v : Channel) (s : State) : (setChan a v s).fuse = s.fuse := rfl
@[simp] theorem modChan_fuse (a : Nat) (f : Channel → Channel) (s : State) : (modChan a f s).fuse = s.fuse := rfl
@[simp] theorem setChan_aon (a : Nat) (v : Channel) (s : State) : (setChan a v s).aon = s.aon := rfl
@[simp] theorem modChan_aon (a : Nat) (f : Channel → Channel) (s : State) : (modChan a f s).aon = s.aon := rfl
@[simp] theorem setChan_time (a : Nat) (v : Channel) (s : State) : (setChan a v s).time = s.time := rfl
@[simp] theorem modChan_time (a : Nat) (f : Channel → Channel) (s : State) : (modChan a f s).time = s.time := rfl
@[simp] theorem setChan_log (a : Nat) (v : Channel) (s : State) : (setChan a v s).log = s.log := rfl
@[simp] theorem modChan_log (a : Nat) (f : Channel → Channel) (s : State) : (modChan a f s).log = s.log := rfl
@[simp] theorem setChan_ev (a : Nat) (v : Channel) (s : State) : (setChan a v s).ev = s.ev := rfl
@[simp] theorem modChan_ev (a : Nat) (f : Channel → Channel) (s : State) : (modChan a f s).ev = s.ev := rfl
@[simp] theorem setChan_sec (a : Nat) (v : Channel) (s : State) : (setChan a v s).sec = s.sec := rfl
@[simp] theorem modChan_sec (a : Nat) (f : Channel → Channel) (s : State) : (modChan a f s).sec = s.sec := rfl
@[simp] theorem setChan_frz (a : Nat) (v : Channel) (s : State) : (setChan a v s).frz = s.frz := rfl
@[simp] theorem modChan_frz (a : Nat) (f : Channel → Channel) (s : State) : (modChan a f s).frz = s.frz := rfl
@[simp] theorem setChan_pin (a : Nat) (v : Channel) (s : State) : (setChan a v s).pin = s.pin := rfl
@[simp] theorem modChan_pin (a : Nat) (f : Channel → Channel) (s : State) : (modChan a f s).pin = s.pin := rfl
@[simp] theorem setChan_quay (a : Nat) (v : Channel) (s : State) : (setChan a v s).quay = s.quay := rfl
@[simp] theorem modChan_quay (a : Nat) (f : Channel → Channel) (s : State) : (modChan a f s).quay = s.quay := rfl
@[simp] theorem setChan_tier (a : Nat) (v : Channel) (s : State) : (setChan a v s).tier = s.tier := rfl
@[simp] theorem modChan_tier (a : Nat) (f : Channel → Channel) (s : State) : (modChan a f s).tier = s.tier := rfl
@[simp] theorem setChan_led (a : Nat) (v : Channel) (s : State) : (setChan a v s).led = s.led := rfl
@[simp] theorem modChan_led (a : Nat) (f : Channel → Channel) (s : State) : (modChan a f s).led = s.led := rfl
@[simp] theorem setChan_reins (a : Nat) (v : Channel) (s : State) : (setChan a v s).reins = s.reins := rfl
@[simp] theorem modChan_reins (a : Nat) (f : Channel → Channel) (s : State) : (modChan a f s).reins = s.reins := rfl
@[simp] theorem setChan_port (a : Nat) (v : Channel) (s : State) : (setChan a v s).port = s.port := rfl
@[simp] theorem modChan_port (a : Nat) (f : Channel → Channel) (s : State) : (modChan a f s).port = s.port := rfl
@[simp] theorem setChan_noc (a : Nat) (v : Channel) (s : State) : (setChan a v s).noc = s.noc := rfl
@[simp] theorem modChan_noc (a : Nat) (f : Channel → Channel) (s : State) : (modChan a f s).noc = s.noc := rfl
@[simp] theorem setChan_rings (a : Nat) (v : Channel) (s : State) : (setChan a v s).rings = s.rings := rfl
@[simp] theorem modChan_rings (a : Nat) (f : Channel → Channel) (s : State) : (modChan a f s).rings = s.rings := rfl
@[simp] theorem setChan_mgt (a : Nat) (v : Channel) (s : State) : (setChan a v s).mgt = s.mgt := rfl
@[simp] theorem modChan_mgt (a : Nat) (f : Channel → Channel) (s : State) : (modChan a f s).mgt = s.mgt := rfl
@[simp] theorem setChan_nor (a : Nat) (v : Channel) (s : State) : (setChan a v s).nor = s.nor := rfl
@[simp] theorem modChan_nor (a : Nat) (f : Channel → Channel) (s : State) : (modChan a f s).nor = s.nor := rfl
@[simp] theorem setChan_ppd (a : Nat) (v : Channel) (s : State) : (setChan a v s).ppd = s.ppd := rfl
@[simp] theorem modChan_ppd (a : Nat) (f : Channel → Channel) (s : State) : (modChan a f s).ppd = s.ppd := rfl
@[simp] theorem setChan_cfg (a : Nat) (v : Channel) (s : State) : (setChan a v s).cfg = s.cfg := rfl
@[simp] theorem modChan_cfg (a : Nat) (f : Channel → Channel) (s : State) : (modChan a f s).cfg = s.cfg := rfl
@[simp] theorem setChan_free (a : Nat) (v : Channel) (s : State) : (setChan a v s).free = s.free := rfl
@[simp] theorem modChan_free (a : Nat) (f : Channel → Channel) (s : State) : (modChan a f s).free = s.free := rfl
@[simp] theorem setChan_pending (a : Nat) (v : Channel) (s : State) : (setChan a v s).pending = s.pending := rfl
@[simp] theorem modChan_pending (a : Nat) (f : Channel → Channel) (s : State) : (modChan a f s).pending = s.pending := rfl

/-! ## Power-path channels -/

@[simp] theorem pch_setPch (a : Nat) (v : PChan) (s : State) : pch (setPch a v s) a = v := sget_sset_same ..
theorem pch_setPch_other {a b : Nat} (h : b ≠ a) (v : PChan) (s : State) : pch (setPch a v s) b = pch s b :=
  sget_sset_other _ _ _ h
@[simp] theorem pch_modPch (a : Nat) (f : PChan → PChan) (s : State) : pch (modPch a f s) a = f (pch s a) := sget_sset_same ..
theorem pch_modPch_other {a b : Nat} (h : b ≠ a) (f : PChan → PChan) (s : State) : pch (modPch a f s) b = pch s b :=
  sget_sset_other _ _ _ h
@[simp] theorem setPch_fuse (a : Nat) (v : PChan) (s : State) : (setPch a v s).fuse = s.fuse := rfl
@[simp] theorem modPch_fuse (a : Nat) (f : PChan → PChan) (s : State) : (modPch a f s).fuse = s.fuse := rfl
@[simp] theorem setPch_aon (a : Nat) (v : PChan) (s : State) : (setPch a v s).aon = s.aon := rfl
@[simp] theorem modPch_aon (a : Nat) (f : PChan → PChan) (s : State) : (modPch a f s).aon = s.aon := rfl
@[simp] theorem setPch_time (a : Nat) (v : PChan) (s : State) : (setPch a v s).time = s.time := rfl
@[simp] theorem modPch_time (a : Nat) (f : PChan → PChan) (s : State) : (modPch a f s).time = s.time := rfl
@[simp] theorem setPch_log (a : Nat) (v : PChan) (s : State) : (setPch a v s).log = s.log := rfl
@[simp] theorem modPch_log (a : Nat) (f : PChan → PChan) (s : State) : (modPch a f s).log = s.log := rfl
@[simp] theorem setPch_ev (a : Nat) (v : PChan) (s : State) : (setPch a v s).ev = s.ev := rfl
@[simp] theorem modPch_ev (a : Nat) (f : PChan → PChan) (s : State) : (modPch a f s).ev = s.ev := rfl
@[simp] theorem setPch_sec (a : Nat) (v : PChan) (s : State) : (setPch a v s).sec = s.sec := rfl
@[simp] theorem modPch_sec (a : Nat) (f : PChan → PChan) (s : State) : (modPch a f s).sec = s.sec := rfl
@[simp] theorem setPch_frz (a : Nat) (v : PChan) (s : State) : (setPch a v s).frz = s.frz := rfl
@[simp] theorem modPch_frz (a : Nat) (f : PChan → PChan) (s : State) : (modPch a f s).frz = s.frz := rfl
@[simp] theorem setPch_pin (a : Nat) (v : PChan) (s : State) : (setPch a v s).pin = s.pin := rfl
@[simp] theorem modPch_pin (a : Nat) (f : PChan → PChan) (s : State) : (modPch a f s).pin = s.pin := rfl
@[simp] theorem setPch_quay (a : Nat) (v : PChan) (s : State) : (setPch a v s).quay = s.quay := rfl
@[simp] theorem modPch_quay (a : Nat) (f : PChan → PChan) (s : State) : (modPch a f s).quay = s.quay := rfl
@[simp] theorem setPch_dram (a : Nat) (v : PChan) (s : State) : (setPch a v s).dram = s.dram := rfl
@[simp] theorem modPch_dram (a : Nat) (f : PChan → PChan) (s : State) : (modPch a f s).dram = s.dram := rfl
@[simp] theorem setPch_tier (a : Nat) (v : PChan) (s : State) : (setPch a v s).tier = s.tier := rfl
@[simp] theorem modPch_tier (a : Nat) (f : PChan → PChan) (s : State) : (modPch a f s).tier = s.tier := rfl
@[simp] theorem setPch_led (a : Nat) (v : PChan) (s : State) : (setPch a v s).led = s.led := rfl
@[simp] theorem modPch_led (a : Nat) (f : PChan → PChan) (s : State) : (modPch a f s).led = s.led := rfl
@[simp] theorem setPch_reins (a : Nat) (v : PChan) (s : State) : (setPch a v s).reins = s.reins := rfl
@[simp] theorem modPch_reins (a : Nat) (f : PChan → PChan) (s : State) : (modPch a f s).reins = s.reins := rfl
@[simp] theorem setPch_port (a : Nat) (v : PChan) (s : State) : (setPch a v s).port = s.port := rfl
@[simp] theorem modPch_port (a : Nat) (f : PChan → PChan) (s : State) : (modPch a f s).port = s.port := rfl
@[simp] theorem setPch_noc (a : Nat) (v : PChan) (s : State) : (setPch a v s).noc = s.noc := rfl
@[simp] theorem modPch_noc (a : Nat) (f : PChan → PChan) (s : State) : (modPch a f s).noc = s.noc := rfl
@[simp] theorem setPch_rings (a : Nat) (v : PChan) (s : State) : (setPch a v s).rings = s.rings := rfl
@[simp] theorem modPch_rings (a : Nat) (f : PChan → PChan) (s : State) : (modPch a f s).rings = s.rings := rfl
@[simp] theorem setPch_mgt (a : Nat) (v : PChan) (s : State) : (setPch a v s).mgt = s.mgt := rfl
@[simp] theorem modPch_mgt (a : Nat) (f : PChan → PChan) (s : State) : (modPch a f s).mgt = s.mgt := rfl
@[simp] theorem setPch_nor (a : Nat) (v : PChan) (s : State) : (setPch a v s).nor = s.nor := rfl
@[simp] theorem modPch_nor (a : Nat) (f : PChan → PChan) (s : State) : (modPch a f s).nor = s.nor := rfl
@[simp] theorem setPch_cfg (a : Nat) (v : PChan) (s : State) : (setPch a v s).cfg = s.cfg := rfl
@[simp] theorem modPch_cfg (a : Nat) (f : PChan → PChan) (s : State) : (modPch a f s).cfg = s.cfg := rfl
@[simp] theorem setPch_free (a : Nat) (v : PChan) (s : State) : (setPch a v s).free = s.free := rfl
@[simp] theorem modPch_free (a : Nat) (f : PChan → PChan) (s : State) : (modPch a f s).free = s.free := rfl
@[simp] theorem setPch_pending (a : Nat) (v : PChan) (s : State) : (setPch a v s).pending = s.pending := rfl
@[simp] theorem modPch_pending (a : Nat) (f : PChan → PChan) (s : State) : (modPch a f s).pending = s.pending := rfl

/-! ## Domains -/

@[simp] theorem domOf_setDom (a : Nat) (v : Domain) (s : State) : domOf (setDom a v s) a = v := sget_sset_same ..
theorem domOf_setDom_other {a b : Nat} (h : b ≠ a) (v : Domain) (s : State) : domOf (setDom a v s) b = domOf s b :=
  sget_sset_other _ _ _ h
@[simp] theorem domOf_modDom (a : Nat) (f : Domain → Domain) (s : State) : domOf (modDom a f s) a = f (domOf s a) := sget_sset_same ..
theorem domOf_modDom_other {a b : Nat} (h : b ≠ a) (f : Domain → Domain) (s : State) : domOf (modDom a f s) b = domOf s b :=
  sget_sset_other _ _ _ h
@[simp] theorem setDom_fuse (a : Nat) (v : Domain) (s : State) : (setDom a v s).fuse = s.fuse := rfl
@[simp] theorem modDom_fuse (a : Nat) (f : Domain → Domain) (s : State) : (modDom a f s).fuse = s.fuse := rfl
@[simp] theorem setDom_aon (a : Nat) (v : Domain) (s : State) : (setDom a v s).aon = s.aon := rfl
@[simp] theorem modDom_aon (a : Nat) (f : Domain → Domain) (s : State) : (modDom a f s).aon = s.aon := rfl
@[simp] theorem setDom_time (a : Nat) (v : Domain) (s : State) : (setDom a v s).time = s.time := rfl
@[simp] theorem modDom_time (a : Nat) (f : Domain → Domain) (s : State) : (modDom a f s).time = s.time := rfl
@[simp] theorem setDom_log (a : Nat) (v : Domain) (s : State) : (setDom a v s).log = s.log := rfl
@[simp] theorem modDom_log (a : Nat) (f : Domain → Domain) (s : State) : (modDom a f s).log = s.log := rfl
@[simp] theorem setDom_ev (a : Nat) (v : Domain) (s : State) : (setDom a v s).ev = s.ev := rfl
@[simp] theorem modDom_ev (a : Nat) (f : Domain → Domain) (s : State) : (modDom a f s).ev = s.ev := rfl
@[simp] theorem setDom_sec (a : Nat) (v : Domain) (s : State) : (setDom a v s).sec = s.sec := rfl
@[simp] theorem modDom_sec (a : Nat) (f : Domain → Domain) (s : State) : (modDom a f s).sec = s.sec := rfl
@[simp] theorem setDom_frz (a : Nat) (v : Domain) (s : State) : (setDom a v s).frz = s.frz := rfl
@[simp] theorem modDom_frz (a : Nat) (f : Domain → Domain) (s : State) : (modDom a f s).frz = s.frz := rfl
@[simp] theorem setDom_pin (a : Nat) (v : Domain) (s : State) : (setDom a v s).pin = s.pin := rfl
@[simp] theorem modDom_pin (a : Nat) (f : Domain → Domain) (s : State) : (modDom a f s).pin = s.pin := rfl
@[simp] theorem setDom_quay (a : Nat) (v : Domain) (s : State) : (setDom a v s).quay = s.quay := rfl
@[simp] theorem modDom_quay (a : Nat) (f : Domain → Domain) (s : State) : (modDom a f s).quay = s.quay := rfl
@[simp] theorem setDom_dram (a : Nat) (v : Domain) (s : State) : (setDom a v s).dram = s.dram := rfl
@[simp] theorem modDom_dram (a : Nat) (f : Domain → Domain) (s : State) : (modDom a f s).dram = s.dram := rfl
@[simp] theorem setDom_tier (a : Nat) (v : Domain) (s : State) : (setDom a v s).tier = s.tier := rfl
@[simp] theorem modDom_tier (a : Nat) (f : Domain → Domain) (s : State) : (modDom a f s).tier = s.tier := rfl
@[simp] theorem setDom_led (a : Nat) (v : Domain) (s : State) : (setDom a v s).led = s.led := rfl
@[simp] theorem modDom_led (a : Nat) (f : Domain → Domain) (s : State) : (modDom a f s).led = s.led := rfl
@[simp] theorem setDom_reins (a : Nat) (v : Domain) (s : State) : (setDom a v s).reins = s.reins := rfl
@[simp] theorem modDom_reins (a : Nat) (f : Domain → Domain) (s : State) : (modDom a f s).reins = s.reins := rfl
@[simp] theorem setDom_port (a : Nat) (v : Domain) (s : State) : (setDom a v s).port = s.port := rfl
@[simp] theorem modDom_port (a : Nat) (f : Domain → Domain) (s : State) : (modDom a f s).port = s.port := rfl
@[simp] theorem setDom_rings (a : Nat) (v : Domain) (s : State) : (setDom a v s).rings = s.rings := rfl
@[simp] theorem modDom_rings (a : Nat) (f : Domain → Domain) (s : State) : (modDom a f s).rings = s.rings := rfl
@[simp] theorem setDom_mgt (a : Nat) (v : Domain) (s : State) : (setDom a v s).mgt = s.mgt := rfl
@[simp] theorem modDom_mgt (a : Nat) (f : Domain → Domain) (s : State) : (modDom a f s).mgt = s.mgt := rfl
@[simp] theorem setDom_nor (a : Nat) (v : Domain) (s : State) : (setDom a v s).nor = s.nor := rfl
@[simp] theorem modDom_nor (a : Nat) (f : Domain → Domain) (s : State) : (modDom a f s).nor = s.nor := rfl
@[simp] theorem setDom_ppd (a : Nat) (v : Domain) (s : State) : (setDom a v s).ppd = s.ppd := rfl
@[simp] theorem modDom_ppd (a : Nat) (f : Domain → Domain) (s : State) : (modDom a f s).ppd = s.ppd := rfl
@[simp] theorem setDom_cfg (a : Nat) (v : Domain) (s : State) : (setDom a v s).cfg = s.cfg := rfl
@[simp] theorem modDom_cfg (a : Nat) (f : Domain → Domain) (s : State) : (modDom a f s).cfg = s.cfg := rfl
@[simp] theorem setDom_free (a : Nat) (v : Domain) (s : State) : (setDom a v s).free = s.free := rfl
@[simp] theorem modDom_free (a : Nat) (f : Domain → Domain) (s : State) : (modDom a f s).free = s.free := rfl
@[simp] theorem setDom_pending (a : Nat) (v : Domain) (s : State) : (setDom a v s).pending = s.pending := rfl
@[simp] theorem modDom_pending (a : Nat) (f : Domain → Domain) (s : State) : (modDom a f s).pending = s.pending := rfl

/-! ## Power groups -/

@[simp] theorem grpOf_setGrp (a : Nat) (v : Group) (s : State) : grpOf (setGrp a v s) a = v := sget_sset_same ..
theorem grpOf_setGrp_other {a b : Nat} (h : b ≠ a) (v : Group) (s : State) : grpOf (setGrp a v s) b = grpOf s b :=
  sget_sset_other _ _ _ h
@[simp] theorem grpOf_modGrp (a : Nat) (f : Group → Group) (s : State) : grpOf (modGrp a f s) a = f (grpOf s a) := sget_sset_same ..
theorem grpOf_modGrp_other {a b : Nat} (h : b ≠ a) (f : Group → Group) (s : State) : grpOf (modGrp a f s) b = grpOf s b :=
  sget_sset_other _ _ _ h
@[simp] theorem setGrp_fuse (a : Nat) (v : Group) (s : State) : (setGrp a v s).fuse = s.fuse := rfl
@[simp] theorem modGrp_fuse (a : Nat) (f : Group → Group) (s : State) : (modGrp a f s).fuse = s.fuse := rfl
@[simp] theorem setGrp_aon (a : Nat) (v : Group) (s : State) : (setGrp a v s).aon = s.aon := rfl
@[simp] theorem modGrp_aon (a : Nat) (f : Group → Group) (s : State) : (modGrp a f s).aon = s.aon := rfl
@[simp] theorem setGrp_time (a : Nat) (v : Group) (s : State) : (setGrp a v s).time = s.time := rfl
@[simp] theorem modGrp_time (a : Nat) (f : Group → Group) (s : State) : (modGrp a f s).time = s.time := rfl
@[simp] theorem setGrp_log (a : Nat) (v : Group) (s : State) : (setGrp a v s).log = s.log := rfl
@[simp] theorem modGrp_log (a : Nat) (f : Group → Group) (s : State) : (modGrp a f s).log = s.log := rfl
@[simp] theorem setGrp_ev (a : Nat) (v : Group) (s : State) : (setGrp a v s).ev = s.ev := rfl
@[simp] theorem modGrp_ev (a : Nat) (f : Group → Group) (s : State) : (modGrp a f s).ev = s.ev := rfl
@[simp] theorem setGrp_sec (a : Nat) (v : Group) (s : State) : (setGrp a v s).sec = s.sec := rfl
@[simp] theorem modGrp_sec (a : Nat) (f : Group → Group) (s : State) : (modGrp a f s).sec = s.sec := rfl
@[simp] theorem setGrp_frz (a : Nat) (v : Group) (s : State) : (setGrp a v s).frz = s.frz := rfl
@[simp] theorem modGrp_frz (a : Nat) (f : Group → Group) (s : State) : (modGrp a f s).frz = s.frz := rfl
@[simp] theorem setGrp_pin (a : Nat) (v : Group) (s : State) : (setGrp a v s).pin = s.pin := rfl
@[simp] theorem modGrp_pin (a : Nat) (f : Group → Group) (s : State) : (modGrp a f s).pin = s.pin := rfl
@[simp] theorem setGrp_quay (a : Nat) (v : Group) (s : State) : (setGrp a v s).quay = s.quay := rfl
@[simp] theorem modGrp_quay (a : Nat) (f : Group → Group) (s : State) : (modGrp a f s).quay = s.quay := rfl
@[simp] theorem setGrp_dram (a : Nat) (v : Group) (s : State) : (setGrp a v s).dram = s.dram := rfl
@[simp] theorem modGrp_dram (a : Nat) (f : Group → Group) (s : State) : (modGrp a f s).dram = s.dram := rfl
@[simp] theorem setGrp_tier (a : Nat) (v : Group) (s : State) : (setGrp a v s).tier = s.tier := rfl
@[simp] theorem modGrp_tier (a : Nat) (f : Group → Group) (s : State) : (modGrp a f s).tier = s.tier := rfl
@[simp] theorem setGrp_led (a : Nat) (v : Group) (s : State) : (setGrp a v s).led = s.led := rfl
@[simp] theorem modGrp_led (a : Nat) (f : Group → Group) (s : State) : (modGrp a f s).led = s.led := rfl
@[simp] theorem setGrp_reins (a : Nat) (v : Group) (s : State) : (setGrp a v s).reins = s.reins := rfl
@[simp] theorem modGrp_reins (a : Nat) (f : Group → Group) (s : State) : (modGrp a f s).reins = s.reins := rfl
@[simp] theorem setGrp_port (a : Nat) (v : Group) (s : State) : (setGrp a v s).port = s.port := rfl
@[simp] theorem modGrp_port (a : Nat) (f : Group → Group) (s : State) : (modGrp a f s).port = s.port := rfl
@[simp] theorem setGrp_rings (a : Nat) (v : Group) (s : State) : (setGrp a v s).rings = s.rings := rfl
@[simp] theorem modGrp_rings (a : Nat) (f : Group → Group) (s : State) : (modGrp a f s).rings = s.rings := rfl
@[simp] theorem setGrp_mgt (a : Nat) (v : Group) (s : State) : (setGrp a v s).mgt = s.mgt := rfl
@[simp] theorem modGrp_mgt (a : Nat) (f : Group → Group) (s : State) : (modGrp a f s).mgt = s.mgt := rfl
@[simp] theorem setGrp_nor (a : Nat) (v : Group) (s : State) : (setGrp a v s).nor = s.nor := rfl
@[simp] theorem modGrp_nor (a : Nat) (f : Group → Group) (s : State) : (modGrp a f s).nor = s.nor := rfl
@[simp] theorem setGrp_ppd (a : Nat) (v : Group) (s : State) : (setGrp a v s).ppd = s.ppd := rfl
@[simp] theorem modGrp_ppd (a : Nat) (f : Group → Group) (s : State) : (modGrp a f s).ppd = s.ppd := rfl
@[simp] theorem setGrp_cfg (a : Nat) (v : Group) (s : State) : (setGrp a v s).cfg = s.cfg := rfl
@[simp] theorem modGrp_cfg (a : Nat) (f : Group → Group) (s : State) : (modGrp a f s).cfg = s.cfg := rfl
@[simp] theorem setGrp_free (a : Nat) (v : Group) (s : State) : (setGrp a v s).free = s.free := rfl
@[simp] theorem modGrp_free (a : Nat) (f : Group → Group) (s : State) : (modGrp a f s).free = s.free := rfl
@[simp] theorem setGrp_pending (a : Nat) (v : Group) (s : State) : (setGrp a v s).pending = s.pending := rfl
@[simp] theorem modGrp_pending (a : Nat) (f : Group → Group) (s : State) : (modGrp a f s).pending = s.pending := rfl

/-! ## SSDs -/

@[simp] theorem ssdOf_setSsd (a : Nat) (v : Ssd) (s : State) : ssdOf (setSsd a v s) a = v := sget_sset_same ..
theorem ssdOf_setSsd_other {a b : Nat} (h : b ≠ a) (v : Ssd) (s : State) : ssdOf (setSsd a v s) b = ssdOf s b :=
  sget_sset_other _ _ _ h
@[simp] theorem ssdOf_modSsd (a : Nat) (f : Ssd → Ssd) (s : State) : ssdOf (modSsd a f s) a = f (ssdOf s a) := sget_sset_same ..
theorem ssdOf_modSsd_other {a b : Nat} (h : b ≠ a) (f : Ssd → Ssd) (s : State) : ssdOf (modSsd a f s) b = ssdOf s b :=
  sget_sset_other _ _ _ h
@[simp] theorem setSsd_fuse (a : Nat) (v : Ssd) (s : State) : (setSsd a v s).fuse = s.fuse := rfl
@[simp] theorem modSsd_fuse (a : Nat) (f : Ssd → Ssd) (s : State) : (modSsd a f s).fuse = s.fuse := rfl
@[simp] theorem setSsd_aon (a : Nat) (v : Ssd) (s : State) : (setSsd a v s).aon = s.aon := rfl
@[simp] theorem modSsd_aon (a : Nat) (f : Ssd → Ssd) (s : State) : (modSsd a f s).aon = s.aon := rfl
@[simp] theorem setSsd_time (a : Nat) (v : Ssd) (s : State) : (setSsd a v s).time = s.time := rfl
@[simp] theorem modSsd_time (a : Nat) (f : Ssd → Ssd) (s : State) : (modSsd a f s).time = s.time := rfl
@[simp] theorem setSsd_log (a : Nat) (v : Ssd) (s : State) : (setSsd a v s).log = s.log := rfl
@[simp] theorem modSsd_log (a : Nat) (f : Ssd → Ssd) (s : State) : (modSsd a f s).log = s.log := rfl
@[simp] theorem setSsd_ev (a : Nat) (v : Ssd) (s : State) : (setSsd a v s).ev = s.ev := rfl
@[simp] theorem modSsd_ev (a : Nat) (f : Ssd → Ssd) (s : State) : (modSsd a f s).ev = s.ev := rfl
@[simp] theorem setSsd_sec (a : Nat) (v : Ssd) (s : State) : (setSsd a v s).sec = s.sec := rfl
@[simp] theorem modSsd_sec (a : Nat) (f : Ssd → Ssd) (s : State) : (modSsd a f s).sec = s.sec := rfl
@[simp] theorem setSsd_frz (a : Nat) (v : Ssd) (s : State) : (setSsd a v s).frz = s.frz := rfl
@[simp] theorem modSsd_frz (a : Nat) (f : Ssd → Ssd) (s : State) : (modSsd a f s).frz = s.frz := rfl
@[simp] theorem setSsd_pin (a : Nat) (v : Ssd) (s : State) : (setSsd a v s).pin = s.pin := rfl
@[simp] theorem modSsd_pin (a : Nat) (f : Ssd → Ssd) (s : State) : (modSsd a f s).pin = s.pin := rfl
@[simp] theorem setSsd_quay (a : Nat) (v : Ssd) (s : State) : (setSsd a v s).quay = s.quay := rfl
@[simp] theorem modSsd_quay (a : Nat) (f : Ssd → Ssd) (s : State) : (modSsd a f s).quay = s.quay := rfl
@[simp] theorem setSsd_dram (a : Nat) (v : Ssd) (s : State) : (setSsd a v s).dram = s.dram := rfl
@[simp] theorem modSsd_dram (a : Nat) (f : Ssd → Ssd) (s : State) : (modSsd a f s).dram = s.dram := rfl
@[simp] theorem setSsd_tier (a : Nat) (v : Ssd) (s : State) : (setSsd a v s).tier = s.tier := rfl
@[simp] theorem modSsd_tier (a : Nat) (f : Ssd → Ssd) (s : State) : (modSsd a f s).tier = s.tier := rfl
@[simp] theorem setSsd_reins (a : Nat) (v : Ssd) (s : State) : (setSsd a v s).reins = s.reins := rfl
@[simp] theorem modSsd_reins (a : Nat) (f : Ssd → Ssd) (s : State) : (modSsd a f s).reins = s.reins := rfl
@[simp] theorem setSsd_port (a : Nat) (v : Ssd) (s : State) : (setSsd a v s).port = s.port := rfl
@[simp] theorem modSsd_port (a : Nat) (f : Ssd → Ssd) (s : State) : (modSsd a f s).port = s.port := rfl
@[simp] theorem setSsd_noc (a : Nat) (v : Ssd) (s : State) : (setSsd a v s).noc = s.noc := rfl
@[simp] theorem modSsd_noc (a : Nat) (f : Ssd → Ssd) (s : State) : (modSsd a f s).noc = s.noc := rfl
@[simp] theorem setSsd_rings (a : Nat) (v : Ssd) (s : State) : (setSsd a v s).rings = s.rings := rfl
@[simp] theorem modSsd_rings (a : Nat) (f : Ssd → Ssd) (s : State) : (modSsd a f s).rings = s.rings := rfl
@[simp] theorem setSsd_mgt (a : Nat) (v : Ssd) (s : State) : (setSsd a v s).mgt = s.mgt := rfl
@[simp] theorem modSsd_mgt (a : Nat) (f : Ssd → Ssd) (s : State) : (modSsd a f s).mgt = s.mgt := rfl
@[simp] theorem setSsd_nor (a : Nat) (v : Ssd) (s : State) : (setSsd a v s).nor = s.nor := rfl
@[simp] theorem modSsd_nor (a : Nat) (f : Ssd → Ssd) (s : State) : (modSsd a f s).nor = s.nor := rfl
@[simp] theorem setSsd_ppd (a : Nat) (v : Ssd) (s : State) : (setSsd a v s).ppd = s.ppd := rfl
@[simp] theorem modSsd_ppd (a : Nat) (f : Ssd → Ssd) (s : State) : (modSsd a f s).ppd = s.ppd := rfl
@[simp] theorem setSsd_cfg (a : Nat) (v : Ssd) (s : State) : (setSsd a v s).cfg = s.cfg := rfl
@[simp] theorem modSsd_cfg (a : Nat) (f : Ssd → Ssd) (s : State) : (modSsd a f s).cfg = s.cfg := rfl
@[simp] theorem setSsd_free (a : Nat) (v : Ssd) (s : State) : (setSsd a v s).free = s.free := rfl
@[simp] theorem modSsd_free (a : Nat) (f : Ssd → Ssd) (s : State) : (modSsd a f s).free = s.free := rfl
@[simp] theorem setSsd_pending (a : Nat) (v : Ssd) (s : State) : (setSsd a v s).pending = s.pending := rfl
@[simp] theorem modSsd_pending (a : Nat) (f : Ssd → Ssd) (s : State) : (modSsd a f s).pending = s.pending := rfl

/-! ## Events and the log -/

@[simp] theorem evAdd_fuse (id n : Nat) (s : State) : (evAdd id n s).fuse = s.fuse := by
  unfold evAdd; split <;> rfl
@[simp] theorem evAdd_aon (id n : Nat) (s : State) : (evAdd id n s).aon = s.aon := by
  unfold evAdd; split <;> rfl
@[simp] theorem evAdd_time (id n : Nat) (s : State) : (evAdd id n s).time = s.time := by
  unfold evAdd; split <;> rfl
@[simp] theorem evAdd_log (id n : Nat) (s : State) : (evAdd id n s).log = s.log := by
  unfold evAdd; split <;> rfl
@[simp] theorem evAdd_sec (id n : Nat) (s : State) : (evAdd id n s).sec = s.sec := by
  unfold evAdd; split <;> rfl
@[simp] theorem evAdd_frz (id n : Nat) (s : State) : (evAdd id n s).frz = s.frz := by
  unfold evAdd; split <;> rfl
@[simp] theorem evAdd_pin (id n : Nat) (s : State) : (evAdd id n s).pin = s.pin := by
  unfold evAdd; split <;> rfl
@[simp] theorem evAdd_quay (id n : Nat) (s : State) : (evAdd id n s).quay = s.quay := by
  unfold evAdd; split <;> rfl
@[simp] theorem evAdd_dram (id n : Nat) (s : State) : (evAdd id n s).dram = s.dram := by
  unfold evAdd; split <;> rfl
@[simp] theorem evAdd_tier (id n : Nat) (s : State) : (evAdd id n s).tier = s.tier := by
  unfold evAdd; split <;> rfl
@[simp] theorem evAdd_led (id n : Nat) (s : State) : (evAdd id n s).led = s.led := by
  unfold evAdd; split <;> rfl
@[simp] theorem evAdd_reins (id n : Nat) (s : State) : (evAdd id n s).reins = s.reins := by
  unfold evAdd; split <;> rfl
@[simp] theorem evAdd_port (id n : Nat) (s : State) : (evAdd id n s).port = s.port := by
  unfold evAdd; split <;> rfl
@[simp] theorem evAdd_noc (id n : Nat) (s : State) : (evAdd id n s).noc = s.noc := by
  unfold evAdd; split <;> rfl
@[simp] theorem evAdd_rings (id n : Nat) (s : State) : (evAdd id n s).rings = s.rings := by
  unfold evAdd; split <;> rfl
@[simp] theorem evAdd_nor (id n : Nat) (s : State) : (evAdd id n s).nor = s.nor := by
  unfold evAdd; split <;> rfl
@[simp] theorem evAdd_ppd (id n : Nat) (s : State) : (evAdd id n s).ppd = s.ppd := by
  unfold evAdd; split <;> rfl
@[simp] theorem evAdd_cfg (id n : Nat) (s : State) : (evAdd id n s).cfg = s.cfg := by
  unfold evAdd; split <;> rfl
@[simp] theorem evAdd_free (id n : Nat) (s : State) : (evAdd id n s).free = s.free := by
  unfold evAdd; split <;> rfl
@[simp] theorem evAdd_pending (id n : Nat) (s : State) : (evAdd id n s).pending = s.pending := by
  unfold evAdd; split <;> rfl
@[simp] theorem evDch_fuse (a b : Nat) (s : State) : (evDch a b s).fuse = s.fuse := by
  simp [evDch]
@[simp] theorem evDch_aon (a b : Nat) (s : State) : (evDch a b s).aon = s.aon := by
  simp [evDch]
@[simp] theorem evDch_time (a b : Nat) (s : State) : (evDch a b s).time = s.time := by
  simp [evDch]
@[simp] theorem evDch_log (a b : Nat) (s : State) : (evDch a b s).log = s.log := by
  simp [evDch]
@[simp] theorem evDch_sec (a b : Nat) (s : State) : (evDch a b s).sec = s.sec := by
  simp [evDch]
@[simp] theorem evDch_frz (a b : Nat) (s : State) : (evDch a b s).frz = s.frz := by
  simp [evDch]
@[simp] theorem evDch_pin (a b : Nat) (s : State) : (evDch a b s).pin = s.pin := by
  simp [evDch]
@[simp] theorem evDch_quay (a b : Nat) (s : State) : (evDch a b s).quay = s.quay := by
  simp [evDch]
@[simp] theorem evDch_dram (a b : Nat) (s : State) : (evDch a b s).dram = s.dram := by
  simp [evDch]
@[simp] theorem evDch_tier (a b : Nat) (s : State) : (evDch a b s).tier = s.tier := by
  simp [evDch]
@[simp] theorem evDch_led (a b : Nat) (s : State) : (evDch a b s).led = s.led := by
  simp [evDch]
@[simp] theorem evDch_reins (a b : Nat) (s : State) : (evDch a b s).reins = s.reins := by
  simp [evDch]
@[simp] theorem evDch_port (a b : Nat) (s : State) : (evDch a b s).port = s.port := by
  simp [evDch]
@[simp] theorem evDch_noc (a b : Nat) (s : State) : (evDch a b s).noc = s.noc := by
  simp [evDch]
@[simp] theorem evDch_rings (a b : Nat) (s : State) : (evDch a b s).rings = s.rings := by
  simp [evDch]
@[simp] theorem evDch_nor (a b : Nat) (s : State) : (evDch a b s).nor = s.nor := by
  simp [evDch]
@[simp] theorem evDch_ppd (a b : Nat) (s : State) : (evDch a b s).ppd = s.ppd := by
  simp [evDch]
@[simp] theorem evDch_cfg (a b : Nat) (s : State) : (evDch a b s).cfg = s.cfg := by
  simp [evDch]
@[simp] theorem evDch_free (a b : Nat) (s : State) : (evDch a b s).free = s.free := by
  simp [evDch]
@[simp] theorem evDch_pending (a b : Nat) (s : State) : (evDch a b s).pending = s.pending := by
  simp [evDch]
@[simp] theorem evQb_fuse (a b : Nat) (s : State) : (evQb a b s).fuse = s.fuse := by
  simp [evQb]
@[simp] theorem evQb_aon (a b : Nat) (s : State) : (evQb a b s).aon = s.aon := by
  simp [evQb]
@[simp] theorem evQb_time (a b : Nat) (s : State) : (evQb a b s).time = s.time := by
  simp [evQb]
@[simp] theorem evQb_log (a b : Nat) (s : State) : (evQb a b s).log = s.log := by
  simp [evQb]
@[simp] theorem evQb_sec (a b : Nat) (s : State) : (evQb a b s).sec = s.sec := by
  simp [evQb]
@[simp] theorem evQb_frz (a b : Nat) (s : State) : (evQb a b s).frz = s.frz := by
  simp [evQb]
@[simp] theorem evQb_pin (a b : Nat) (s : State) : (evQb a b s).pin = s.pin := by
  simp [evQb]
@[simp] theorem evQb_quay (a b : Nat) (s : State) : (evQb a b s).quay = s.quay := by
  simp [evQb]
@[simp] theorem evQb_dram (a b : Nat) (s : State) : (evQb a b s).dram = s.dram := by
  simp [evQb]
@[simp] theorem evQb_tier (a b : Nat) (s : State) : (evQb a b s).tier = s.tier := by
  simp [evQb]
@[simp] theorem evQb_led (a b : Nat) (s : State) : (evQb a b s).led = s.led := by
  simp [evQb]
@[simp] theorem evQb_reins (a b : Nat) (s : State) : (evQb a b s).reins = s.reins := by
  simp [evQb]
@[simp] theorem evQb_port (a b : Nat) (s : State) : (evQb a b s).port = s.port := by
  simp [evQb]
@[simp] theorem evQb_noc (a b : Nat) (s : State) : (evQb a b s).noc = s.noc := by
  simp [evQb]
@[simp] theorem evQb_rings (a b : Nat) (s : State) : (evQb a b s).rings = s.rings := by
  simp [evQb]
@[simp] theorem evQb_nor (a b : Nat) (s : State) : (evQb a b s).nor = s.nor := by
  simp [evQb]
@[simp] theorem evQb_ppd (a b : Nat) (s : State) : (evQb a b s).ppd = s.ppd := by
  simp [evQb]
@[simp] theorem evQb_cfg (a b : Nat) (s : State) : (evQb a b s).cfg = s.cfg := by
  simp [evQb]
@[simp] theorem evQb_free (a b : Nat) (s : State) : (evQb a b s).free = s.free := by
  simp [evQb]
@[simp] theorem evQb_pending (a b : Nat) (s : State) : (evQb a b s).pending = s.pending := by
  simp [evQb]
@[simp] theorem evAfl_fuse (a b : Nat) (s : State) : (evAfl a b s).fuse = s.fuse := by
  simp [evAfl]
@[simp] theorem evAfl_aon (a b : Nat) (s : State) : (evAfl a b s).aon = s.aon := by
  simp [evAfl]
@[simp] theorem evAfl_time (a b : Nat) (s : State) : (evAfl a b s).time = s.time := by
  simp [evAfl]
@[simp] theorem evAfl_log (a b : Nat) (s : State) : (evAfl a b s).log = s.log := by
  simp [evAfl]
@[simp] theorem evAfl_sec (a b : Nat) (s : State) : (evAfl a b s).sec = s.sec := by
  simp [evAfl]
@[simp] theorem evAfl_frz (a b : Nat) (s : State) : (evAfl a b s).frz = s.frz := by
  simp [evAfl]
@[simp] theorem evAfl_pin (a b : Nat) (s : State) : (evAfl a b s).pin = s.pin := by
  simp [evAfl]
@[simp] theorem evAfl_quay (a b : Nat) (s : State) : (evAfl a b s).quay = s.quay := by
  simp [evAfl]
@[simp] theorem evAfl_dram (a b : Nat) (s : State) : (evAfl a b s).dram = s.dram := by
  simp [evAfl]
@[simp] theorem evAfl_tier (a b : Nat) (s : State) : (evAfl a b s).tier = s.tier := by
  simp [evAfl]
@[simp] theorem evAfl_led (a b : Nat) (s : State) : (evAfl a b s).led = s.led := by
  simp [evAfl]
@[simp] theorem evAfl_reins (a b : Nat) (s : State) : (evAfl a b s).reins = s.reins := by
  simp [evAfl]
@[simp] theorem evAfl_port (a b : Nat) (s : State) : (evAfl a b s).port = s.port := by
  simp [evAfl]
@[simp] theorem evAfl_noc (a b : Nat) (s : State) : (evAfl a b s).noc = s.noc := by
  simp [evAfl]
@[simp] theorem evAfl_rings (a b : Nat) (s : State) : (evAfl a b s).rings = s.rings := by
  simp [evAfl]
@[simp] theorem evAfl_nor (a b : Nat) (s : State) : (evAfl a b s).nor = s.nor := by
  simp [evAfl]
@[simp] theorem evAfl_ppd (a b : Nat) (s : State) : (evAfl a b s).ppd = s.ppd := by
  simp [evAfl]
@[simp] theorem evAfl_cfg (a b : Nat) (s : State) : (evAfl a b s).cfg = s.cfg := by
  simp [evAfl]
@[simp] theorem evAfl_free (a b : Nat) (s : State) : (evAfl a b s).free = s.free := by
  simp [evAfl]
@[simp] theorem evAfl_pending (a b : Nat) (s : State) : (evAfl a b s).pending = s.pending := by
  simp [evAfl]
@[simp] theorem evPe_fuse (a b : Nat) (s : State) : (evPe a b s).fuse = s.fuse := by
  simp [evPe]
@[simp] theorem evPe_aon (a b : Nat) (s : State) : (evPe a b s).aon = s.aon := by
  simp [evPe]
@[simp] theorem evPe_time (a b : Nat) (s : State) : (evPe a b s).time = s.time := by
  simp [evPe]
@[simp] theorem evPe_log (a b : Nat) (s : State) : (evPe a b s).log = s.log := by
  simp [evPe]
@[simp] theorem evPe_sec (a b : Nat) (s : State) : (evPe a b s).sec = s.sec := by
  simp [evPe]
@[simp] theorem evPe_frz (a b : Nat) (s : State) : (evPe a b s).frz = s.frz := by
  simp [evPe]
@[simp] theorem evPe_pin (a b : Nat) (s : State) : (evPe a b s).pin = s.pin := by
  simp [evPe]
@[simp] theorem evPe_quay (a b : Nat) (s : State) : (evPe a b s).quay = s.quay := by
  simp [evPe]
@[simp] theorem evPe_dram (a b : Nat) (s : State) : (evPe a b s).dram = s.dram := by
  simp [evPe]
@[simp] theorem evPe_tier (a b : Nat) (s : State) : (evPe a b s).tier = s.tier := by
  simp [evPe]
@[simp] theorem evPe_led (a b : Nat) (s : State) : (evPe a b s).led = s.led := by
  simp [evPe]
@[simp] theorem evPe_reins (a b : Nat) (s : State) : (evPe a b s).reins = s.reins := by
  simp [evPe]
@[simp] theorem evPe_port (a b : Nat) (s : State) : (evPe a b s).port = s.port := by
  simp [evPe]
@[simp] theorem evPe_noc (a b : Nat) (s : State) : (evPe a b s).noc = s.noc := by
  simp [evPe]
@[simp] theorem evPe_rings (a b : Nat) (s : State) : (evPe a b s).rings = s.rings := by
  simp [evPe]
@[simp] theorem evPe_nor (a b : Nat) (s : State) : (evPe a b s).nor = s.nor := by
  simp [evPe]
@[simp] theorem evPe_ppd (a b : Nat) (s : State) : (evPe a b s).ppd = s.ppd := by
  simp [evPe]
@[simp] theorem evPe_cfg (a b : Nat) (s : State) : (evPe a b s).cfg = s.cfg := by
  simp [evPe]
@[simp] theorem evPe_free (a b : Nat) (s : State) : (evPe a b s).free = s.free := by
  simp [evPe]
@[simp] theorem evPe_pending (a b : Nat) (s : State) : (evPe a b s).pending = s.pending := by
  simp [evPe]
@[simp] theorem evMgt_fuse (a b : Nat) (s : State) : (evMgt a b s).fuse = s.fuse := by
  simp [evMgt]
@[simp] theorem evMgt_aon (a b : Nat) (s : State) : (evMgt a b s).aon = s.aon := by
  simp [evMgt]
@[simp] theorem evMgt_time (a b : Nat) (s : State) : (evMgt a b s).time = s.time := by
  simp [evMgt]
@[simp] theorem evMgt_log (a b : Nat) (s : State) : (evMgt a b s).log = s.log := by
  simp [evMgt]
@[simp] theorem evMgt_sec (a b : Nat) (s : State) : (evMgt a b s).sec = s.sec := by
  simp [evMgt]
@[simp] theorem evMgt_frz (a b : Nat) (s : State) : (evMgt a b s).frz = s.frz := by
  simp [evMgt]
@[simp] theorem evMgt_pin (a b : Nat) (s : State) : (evMgt a b s).pin = s.pin := by
  simp [evMgt]
@[simp] theorem evMgt_quay (a b : Nat) (s : State) : (evMgt a b s).quay = s.quay := by
  simp [evMgt]
@[simp] theorem evMgt_dram (a b : Nat) (s : State) : (evMgt a b s).dram = s.dram := by
  simp [evMgt]
@[simp] theorem evMgt_tier (a b : Nat) (s : State) : (evMgt a b s).tier = s.tier := by
  simp [evMgt]
@[simp] theorem evMgt_led (a b : Nat) (s : State) : (evMgt a b s).led = s.led := by
  simp [evMgt]
@[simp] theorem evMgt_reins (a b : Nat) (s : State) : (evMgt a b s).reins = s.reins := by
  simp [evMgt]
@[simp] theorem evMgt_port (a b : Nat) (s : State) : (evMgt a b s).port = s.port := by
  simp [evMgt]
@[simp] theorem evMgt_noc (a b : Nat) (s : State) : (evMgt a b s).noc = s.noc := by
  simp [evMgt]
@[simp] theorem evMgt_rings (a b : Nat) (s : State) : (evMgt a b s).rings = s.rings := by
  simp [evMgt]
@[simp] theorem evMgt_nor (a b : Nat) (s : State) : (evMgt a b s).nor = s.nor := by
  simp [evMgt]
@[simp] theorem evMgt_ppd (a b : Nat) (s : State) : (evMgt a b s).ppd = s.ppd := by
  simp [evMgt]
@[simp] theorem evMgt_cfg (a b : Nat) (s : State) : (evMgt a b s).cfg = s.cfg := by
  simp [evMgt]
@[simp] theorem evMgt_free (a b : Nat) (s : State) : (evMgt a b s).free = s.free := by
  simp [evMgt]
@[simp] theorem evMgt_pending (a b : Nat) (s : State) : (evMgt a b s).pending = s.pending := by
  simp [evMgt]
@[simp] theorem evPp_fuse (a b : Nat) (s : State) : (evPp a b s).fuse = s.fuse := by
  simp [evPp]
@[simp] theorem evPp_aon (a b : Nat) (s : State) : (evPp a b s).aon = s.aon := by
  simp [evPp]
@[simp] theorem evPp_time (a b : Nat) (s : State) : (evPp a b s).time = s.time := by
  simp [evPp]
@[simp] theorem evPp_log (a b : Nat) (s : State) : (evPp a b s).log = s.log := by
  simp [evPp]
@[simp] theorem evPp_sec (a b : Nat) (s : State) : (evPp a b s).sec = s.sec := by
  simp [evPp]
@[simp] theorem evPp_frz (a b : Nat) (s : State) : (evPp a b s).frz = s.frz := by
  simp [evPp]
@[simp] theorem evPp_pin (a b : Nat) (s : State) : (evPp a b s).pin = s.pin := by
  simp [evPp]
@[simp] theorem evPp_quay (a b : Nat) (s : State) : (evPp a b s).quay = s.quay := by
  simp [evPp]
@[simp] theorem evPp_dram (a b : Nat) (s : State) : (evPp a b s).dram = s.dram := by
  simp [evPp]
@[simp] theorem evPp_tier (a b : Nat) (s : State) : (evPp a b s).tier = s.tier := by
  simp [evPp]
@[simp] theorem evPp_led (a b : Nat) (s : State) : (evPp a b s).led = s.led := by
  simp [evPp]
@[simp] theorem evPp_reins (a b : Nat) (s : State) : (evPp a b s).reins = s.reins := by
  simp [evPp]
@[simp] theorem evPp_port (a b : Nat) (s : State) : (evPp a b s).port = s.port := by
  simp [evPp]
@[simp] theorem evPp_noc (a b : Nat) (s : State) : (evPp a b s).noc = s.noc := by
  simp [evPp]
@[simp] theorem evPp_rings (a b : Nat) (s : State) : (evPp a b s).rings = s.rings := by
  simp [evPp]
@[simp] theorem evPp_nor (a b : Nat) (s : State) : (evPp a b s).nor = s.nor := by
  simp [evPp]
@[simp] theorem evPp_ppd (a b : Nat) (s : State) : (evPp a b s).ppd = s.ppd := by
  simp [evPp]
@[simp] theorem evPp_cfg (a b : Nat) (s : State) : (evPp a b s).cfg = s.cfg := by
  simp [evPp]
@[simp] theorem evPp_free (a b : Nat) (s : State) : (evPp a b s).free = s.free := by
  simp [evPp]
@[simp] theorem evPp_pending (a b : Nat) (s : State) : (evPp a b s).pending = s.pending := by
  simp [evPp]
@[simp] theorem evTile_fuse (a b c : Nat) (s : State) : (evTile a b c s).fuse = s.fuse := by
  simp [evTile]
@[simp] theorem evTile_aon (a b c : Nat) (s : State) : (evTile a b c s).aon = s.aon := by
  simp [evTile]
@[simp] theorem evTile_time (a b c : Nat) (s : State) : (evTile a b c s).time = s.time := by
  simp [evTile]
@[simp] theorem evTile_log (a b c : Nat) (s : State) : (evTile a b c s).log = s.log := by
  simp [evTile]
@[simp] theorem evTile_sec (a b c : Nat) (s : State) : (evTile a b c s).sec = s.sec := by
  simp [evTile]
@[simp] theorem evTile_frz (a b c : Nat) (s : State) : (evTile a b c s).frz = s.frz := by
  simp [evTile]
@[simp] theorem evTile_pin (a b c : Nat) (s : State) : (evTile a b c s).pin = s.pin := by
  simp [evTile]
@[simp] theorem evTile_quay (a b c : Nat) (s : State) : (evTile a b c s).quay = s.quay := by
  simp [evTile]
@[simp] theorem evTile_dram (a b c : Nat) (s : State) : (evTile a b c s).dram = s.dram := by
  simp [evTile]
@[simp] theorem evTile_tier (a b c : Nat) (s : State) : (evTile a b c s).tier = s.tier := by
  simp [evTile]
@[simp] theorem evTile_led (a b c : Nat) (s : State) : (evTile a b c s).led = s.led := by
  simp [evTile]
@[simp] theorem evTile_reins (a b c : Nat) (s : State) : (evTile a b c s).reins = s.reins := by
  simp [evTile]
@[simp] theorem evTile_port (a b c : Nat) (s : State) : (evTile a b c s).port = s.port := by
  simp [evTile]
@[simp] theorem evTile_noc (a b c : Nat) (s : State) : (evTile a b c s).noc = s.noc := by
  simp [evTile]
@[simp] theorem evTile_rings (a b c : Nat) (s : State) : (evTile a b c s).rings = s.rings := by
  simp [evTile]
@[simp] theorem evTile_nor (a b c : Nat) (s : State) : (evTile a b c s).nor = s.nor := by
  simp [evTile]
@[simp] theorem evTile_ppd (a b c : Nat) (s : State) : (evTile a b c s).ppd = s.ppd := by
  simp [evTile]
@[simp] theorem evTile_cfg (a b c : Nat) (s : State) : (evTile a b c s).cfg = s.cfg := by
  simp [evTile]
@[simp] theorem evTile_free (a b c : Nat) (s : State) : (evTile a b c s).free = s.free := by
  simp [evTile]
@[simp] theorem evTile_pending (a b c : Nat) (s : State) : (evTile a b c s).pending = s.pending := by
  simp [evTile]
@[simp] theorem logIt_fuse (r : LogRec) (s : State) : (logIt r s).fuse = s.fuse := by
  unfold logIt; dsimp only; split <;> simp
@[simp] theorem logIt_aon (r : LogRec) (s : State) : (logIt r s).aon = s.aon := by
  unfold logIt; dsimp only; split <;> simp
@[simp] theorem logIt_time (r : LogRec) (s : State) : (logIt r s).time = s.time := by
  unfold logIt; dsimp only; split <;> simp
@[simp] theorem logIt_sec (r : LogRec) (s : State) : (logIt r s).sec = s.sec := by
  unfold logIt; dsimp only; split <;> simp
@[simp] theorem logIt_frz (r : LogRec) (s : State) : (logIt r s).frz = s.frz := by
  unfold logIt; dsimp only; split <;> simp
@[simp] theorem logIt_pin (r : LogRec) (s : State) : (logIt r s).pin = s.pin := by
  unfold logIt; dsimp only; split <;> simp
@[simp] theorem logIt_quay (r : LogRec) (s : State) : (logIt r s).quay = s.quay := by
  unfold logIt; dsimp only; split <;> simp
@[simp] theorem logIt_dram (r : LogRec) (s : State) : (logIt r s).dram = s.dram := by
  unfold logIt; dsimp only; split <;> simp
@[simp] theorem logIt_tier (r : LogRec) (s : State) : (logIt r s).tier = s.tier := by
  unfold logIt; dsimp only; split <;> simp
@[simp] theorem logIt_led (r : LogRec) (s : State) : (logIt r s).led = s.led := by
  unfold logIt; dsimp only; split <;> simp
@[simp] theorem logIt_reins (r : LogRec) (s : State) : (logIt r s).reins = s.reins := by
  unfold logIt; dsimp only; split <;> simp
@[simp] theorem logIt_port (r : LogRec) (s : State) : (logIt r s).port = s.port := by
  unfold logIt; dsimp only; split <;> simp
@[simp] theorem logIt_noc (r : LogRec) (s : State) : (logIt r s).noc = s.noc := by
  unfold logIt; dsimp only; split <;> simp
@[simp] theorem logIt_rings (r : LogRec) (s : State) : (logIt r s).rings = s.rings := by
  unfold logIt; dsimp only; split <;> simp
@[simp] theorem logIt_nor (r : LogRec) (s : State) : (logIt r s).nor = s.nor := by
  unfold logIt; dsimp only; split <;> simp
@[simp] theorem logIt_ppd (r : LogRec) (s : State) : (logIt r s).ppd = s.ppd := by
  unfold logIt; dsimp only; split <;> simp
@[simp] theorem logIt_cfg (r : LogRec) (s : State) : (logIt r s).cfg = s.cfg := by
  unfold logIt; dsimp only; split <;> simp
@[simp] theorem logIt_free (r : LogRec) (s : State) : (logIt r s).free = s.free := by
  unfold logIt; dsimp only; split <;> simp
@[simp] theorem logIt_pending (r : LogRec) (s : State) : (logIt r s).pending = s.pending := by
  unfold logIt; dsimp only; split <;> simp
@[simp] theorem driveAlert_fuse (s : State) : (driveAlert s).fuse = s.fuse := by
  rfl
@[simp] theorem driveAlert_aon (s : State) : (driveAlert s).aon = s.aon := by
  rfl
@[simp] theorem driveAlert_time (s : State) : (driveAlert s).time = s.time := by
  rfl
@[simp] theorem driveAlert_log (s : State) : (driveAlert s).log = s.log := by
  rfl
@[simp] theorem driveAlert_ev (s : State) : (driveAlert s).ev = s.ev := by
  rfl
@[simp] theorem driveAlert_sec (s : State) : (driveAlert s).sec = s.sec := by
  rfl
@[simp] theorem driveAlert_frz (s : State) : (driveAlert s).frz = s.frz := by
  rfl
@[simp] theorem driveAlert_quay (s : State) : (driveAlert s).quay = s.quay := by
  rfl
@[simp] theorem driveAlert_dram (s : State) : (driveAlert s).dram = s.dram := by
  rfl
@[simp] theorem driveAlert_tier (s : State) : (driveAlert s).tier = s.tier := by
  rfl
@[simp] theorem driveAlert_led (s : State) : (driveAlert s).led = s.led := by
  rfl
@[simp] theorem driveAlert_reins (s : State) : (driveAlert s).reins = s.reins := by
  rfl
@[simp] theorem driveAlert_port (s : State) : (driveAlert s).port = s.port := by
  rfl
@[simp] theorem driveAlert_noc (s : State) : (driveAlert s).noc = s.noc := by
  rfl
@[simp] theorem driveAlert_rings (s : State) : (driveAlert s).rings = s.rings := by
  rfl
@[simp] theorem driveAlert_mgt (s : State) : (driveAlert s).mgt = s.mgt := by
  rfl
@[simp] theorem driveAlert_nor (s : State) : (driveAlert s).nor = s.nor := by
  rfl
@[simp] theorem driveAlert_ppd (s : State) : (driveAlert s).ppd = s.ppd := by
  rfl
@[simp] theorem driveAlert_cfg (s : State) : (driveAlert s).cfg = s.cfg := by
  rfl
@[simp] theorem driveAlert_free (s : State) : (driveAlert s).free = s.free := by
  rfl
@[simp] theorem driveAlert_pending (s : State) : (driveAlert s).pending = s.pending := by
  rfl
@[simp] theorem draw_fuse (w : Nat) (s : State) : ((draw w s).2).fuse = s.fuse := by
  rfl
@[simp] theorem draw_aon (w : Nat) (s : State) : ((draw w s).2).aon = s.aon := by
  rfl
@[simp] theorem draw_time (w : Nat) (s : State) : ((draw w s).2).time = s.time := by
  rfl
@[simp] theorem draw_log (w : Nat) (s : State) : ((draw w s).2).log = s.log := by
  rfl
@[simp] theorem draw_ev (w : Nat) (s : State) : ((draw w s).2).ev = s.ev := by
  rfl
@[simp] theorem draw_sec (w : Nat) (s : State) : ((draw w s).2).sec = s.sec := by
  rfl
@[simp] theorem draw_frz (w : Nat) (s : State) : ((draw w s).2).frz = s.frz := by
  rfl
@[simp] theorem draw_pin (w : Nat) (s : State) : ((draw w s).2).pin = s.pin := by
  rfl
@[simp] theorem draw_quay (w : Nat) (s : State) : ((draw w s).2).quay = s.quay := by
  rfl
@[simp] theorem draw_dram (w : Nat) (s : State) : ((draw w s).2).dram = s.dram := by
  rfl
@[simp] theorem draw_tier (w : Nat) (s : State) : ((draw w s).2).tier = s.tier := by
  rfl
@[simp] theorem draw_led (w : Nat) (s : State) : ((draw w s).2).led = s.led := by
  rfl
@[simp] theorem draw_reins (w : Nat) (s : State) : ((draw w s).2).reins = s.reins := by
  rfl
@[simp] theorem draw_port (w : Nat) (s : State) : ((draw w s).2).port = s.port := by
  rfl
@[simp] theorem draw_noc (w : Nat) (s : State) : ((draw w s).2).noc = s.noc := by
  rfl
@[simp] theorem draw_rings (w : Nat) (s : State) : ((draw w s).2).rings = s.rings := by
  rfl
@[simp] theorem draw_mgt (w : Nat) (s : State) : ((draw w s).2).mgt = s.mgt := by
  rfl
@[simp] theorem draw_nor (w : Nat) (s : State) : ((draw w s).2).nor = s.nor := by
  rfl
@[simp] theorem draw_ppd (w : Nat) (s : State) : ((draw w s).2).ppd = s.ppd := by
  rfl
@[simp] theorem draw_cfg (w : Nat) (s : State) : ((draw w s).2).cfg = s.cfg := by
  rfl
@[simp] theorem draw_pending (w : Nat) (s : State) : ((draw w s).2).pending = s.pending := by
  rfl
/-! ## A home with nothing waiting -/

/-- Nothing waits, so nothing goes on. -/
theorem settle_quiet {s : State} (a : s.quay.txns = []) (b : s.quay.busy = []) (c : s.quay.notices = []) (d : s.quay.parked = [])
    (e : s.reins.waiters = []) (f : s.quay.parkWait = []) (g : s.quay.fills = []) : settle s = s := by
  simp [settle, a, b, c, d, e, f, g, settleN]

end Sys2Proof.Laws
end

