-- ==== Sys2Proof/Laws/Within.lean ====
section
/-! SUPPORT. What an operation may change: a part of the state that it does not touch is the same after it, and DRAM stays in its
canonical form. The files W*.lean beside this one hold one such lemma for each operation of the machine. -/

namespace Sys2Proof.Laws

open Sys2Proof Sys2Proof.Machine

theorem Parts.le_refl (p : Parts) : p.le p = true := by
  obtain ⟨a1, a2, a3, a4, a5, a6, a7, a8, a9, b1, b2, b3, b4, b5, b6, b7, b8, b9, c1, c2, c3, c4, c5, c6, c7⟩ := p
  simp [Parts.le]

theorem le_one {a b c : Bool} (h : (!a || b) = true) (k : (!b || c) = true) : (!a || c) = true := by
  cases a <;> cases b <;> simp_all

theorem Parts.le_trans {p q r : Parts} (h : p.le q = true) (k : q.le r = true) : p.le r = true := by
  simp only [Parts.le, Bool.and_eq_true] at h k ⊢
  obtain ⟨⟨⟨⟨⟨⟨⟨⟨⟨⟨⟨⟨⟨⟨⟨⟨⟨⟨⟨⟨⟨⟨⟨⟨h1, h2⟩, h3⟩, h4⟩, h5⟩, h6⟩, h7⟩, h8⟩, h9⟩, h10⟩, h11⟩, h12⟩, h13⟩, h14⟩, h15⟩, h16⟩, h17⟩, h18⟩, h19⟩,
    h20⟩, h21⟩, h22⟩, h23⟩, h24⟩, h25⟩ := h
  obtain ⟨⟨⟨⟨⟨⟨⟨⟨⟨⟨⟨⟨⟨⟨⟨⟨⟨⟨⟨⟨⟨⟨⟨⟨k1, k2⟩, k3⟩, k4⟩, k5⟩, k6⟩, k7⟩, k8⟩, k9⟩, k10⟩, k11⟩, k12⟩, k13⟩, k14⟩, k15⟩, k16⟩, k17⟩, k18⟩, k19⟩,
    k20⟩, k21⟩, k22⟩, k23⟩, k24⟩, k25⟩ := k
  exact ⟨⟨⟨⟨⟨⟨⟨⟨⟨⟨⟨⟨⟨⟨⟨⟨⟨⟨⟨⟨⟨⟨⟨⟨le_one h1 k1, le_one h2 k2⟩, le_one h3 k3⟩, le_one h4 k4⟩, le_one h5 k5⟩, le_one h6 k6⟩, le_one h7 k7⟩,
    le_one h8 k8⟩, le_one h9 k9⟩, le_one h10 k10⟩, le_one h11 k11⟩, le_one h12 k12⟩, le_one h13 k13⟩, le_one h14 k14⟩, le_one h15 k15⟩,
    le_one h16 k16⟩, le_one h17 k17⟩, le_one h18 k18⟩, le_one h19 k19⟩, le_one h20 k20⟩, le_one h21 k21⟩, le_one h22 k22⟩,
    le_one h23 k23⟩, le_one h24 k24⟩, le_one h25 k25⟩

/-- From `r` to `s` only the parts of `p` have changed, and DRAM has kept its canonical form. -/
structure Within (p : Parts) (r s : State) : Prop where
  same : erase p s = erase p r
  wf : Inv r → Inv s

/-- The same of an answer: it holds of every next state. -/
structure WOut (p : Parts) (r : State) (o : Out) : Prop where
  imp : ∀ t, o = .next t → Within p r t
/-- The same of a state that may be absent. -/
structure WO (p : Parts) (r : State) (o : Option State) : Prop where
  imp : ∀ t, o = some t → Within p r t
/-- The same of a state with a value that may be absent. -/
structure WO2 {α : Type} (p : Parts) (r : State) (o : Option (α × State)) : Prop where
  imp : ∀ a t, o = some (a, t) → Within p r t

theorem Within.refl (p : Parts) (s : State) : Within p s s := ⟨rfl, id⟩

theorem Within.trans {p : Parts} {r s t : State} (h : Within p r s) (k : Within p s t) : Within p r t :=
  ⟨k.same.trans h.same, fun w => k.wf (h.wf w)⟩

theorem cond_erase {α : Type} {a b : Bool} (h : (!a || b) = true) (d x : α) : cond b d (cond a d x) = cond b d x := by
  cases a <;> cases b <;> simp_all

theorem eraseAon_erase {a b c d : Bool} (h : (!a || c) = true) (k : (!b || d) = true) (x : Aon) :
    eraseAon c d (eraseAon a b x) = eraseAon c d x := by
  cases a <;> cases b <;> cases c <;> cases d <;> simp_all [eraseAon]

theorem eraseTime_erase {a b c d : Bool} (h : (!a || c) = true) (k : (!b || d) = true) (x : AonTime) :
    eraseTime c d (eraseTime a b x) = eraseTime c d x := by
  cases a <;> cases b <;> cases c <;> cases d <;> simp_all [eraseTime]

theorem eraseDram_erase {a b c d : Bool} (h : (!a || c) = true) (k : (!b || d) = true) (x : Dram) :
    eraseDram c d (eraseDram a b x) = eraseDram c d x := by
  cases a <;> cases b <;> cases c <;> cases d <;> simp_all [eraseDram]

theorem erase_erase {p q : Parts} (h : p.le q = true) (s : State) : erase q (erase p s) = erase q s := by
  simp only [Parts.le, Bool.and_eq_true] at h
  obtain ⟨⟨⟨⟨⟨⟨⟨⟨⟨⟨⟨⟨⟨⟨⟨⟨⟨⟨⟨⟨⟨⟨⟨⟨h1, h2⟩, h3⟩, h4⟩, h5⟩, h6⟩, h7⟩, h8⟩, h9⟩, h10⟩, h11⟩, h12⟩, h13⟩, h14⟩, h15⟩, h16⟩, h17⟩, h18⟩, h19⟩,
    h20⟩, h21⟩, h22⟩, h23⟩, h24⟩, h25⟩ := h
  simp only [erase, cond_erase h1, eraseAon_erase h2 h3, eraseTime_erase h4 h5, cond_erase h6, cond_erase h7, cond_erase h8,
    cond_erase h9, cond_erase h10, cond_erase h11, eraseDram_erase h12 h13, cond_erase h14, cond_erase h15, cond_erase h16,
    cond_erase h17, cond_erase h18, cond_erase h19, cond_erase h20, cond_erase h21, cond_erase h22, cond_erase h23, cond_erase h24,
    cond_erase h25]

/-- An operation that changes less may stand where more may change. -/
theorem Within.mono {p q : Parts} {r s : State} (h : Within p r s) (k : p.le q = true) : Within q r s :=
  ⟨by rw [← erase_erase k s, ← erase_erase k r, h.same], h.wf⟩

/-- An operation after what has gone before. -/
theorem Within.to {p q : Parts} {r s t : State} (h : Within p s t) (k : p.le q = true) (g : Within q r s) : Within q r t :=
  g.trans (h.mono k)

theorem wout_to {p q : Parts} {r s : State} {o : Out} (h : WOut p s o) (k : p.le q = true) (g : Within q r s) : WOut q r o :=
  ⟨fun t e => (h.imp t e).to k g⟩
theorem wo_to {p q : Parts} {r s : State} {o : Option State} (h : WO p s o) (k : p.le q = true) (g : Within q r s) : WO q r o :=
  ⟨fun t e => (h.imp t e).to k g⟩
theorem wo2_to {α : Type} {p q : Parts} {r s : State} {o : Option (α × State)} (h : WO2 p s o) (k : p.le q = true) (g : Within q r s) :
    WO2 q r o := ⟨fun a t e => (h.imp a t e).to k g⟩

theorem w_ite {p : Parts} {r a b : State} {c : Prop} [Decidable c] (ha : Within p r a) (hb : Within p r b) :
    Within p r (if c then a else b) := by split <;> assumption
theorem w_ite_snd {α : Type} {p : Parts} {r : State} {a b : α × State} {c : Prop} [Decidable c] (ha : Within p r a.2)
    (hb : Within p r b.2) : Within p r (if c then a else b).2 := by split <;> assumption
theorem wout_ite {p : Parts} {r : State} {a b : Out} {c : Prop} [Decidable c] (ha : WOut p r a) (hb : WOut p r b) :
    WOut p r (if c then a else b) := by split <;> assumption
theorem wo_ite {p : Parts} {r : State} {a b : Option State} {c : Prop} [Decidable c] (ha : WO p r a) (hb : WO p r b) :
    WO p r (if c then a else b) := by split <;> assumption
theorem wo2_ite {α : Type} {p : Parts} {r : State} {a b : Option (α × State)} {c : Prop} [Decidable c] (ha : WO2 p r a)
    (hb : WO2 p r b) : WO2 p r (if c then a else b) := by split <;> assumption

theorem wout_next {p : Parts} {r t : State} (h : Within p r t) : WOut p r (.next t) := by
  constructor; intro u e; cases e; exact h
theorem wout_fault {p : Parts} {r : State} {f : Fault} : WOut p r (.fault f) := by
  constructor; intro u e; cases e
theorem wo_none {p : Parts} {r : State} : WO p r none := by
  constructor; intro u e; cases e
theorem wo_some {p : Parts} {r t : State} (h : Within p r t) : WO p r (some t) := by
  constructor; intro u e; cases e; exact h
theorem wo2_none {α : Type} {p : Parts} {r : State} : WO2 (α := α) p r none := by
  constructor; intro a u e; cases e
theorem wo2_some {α : Type} {p : Parts} {r t : State} {a : α} (h : Within p r t) : WO2 p r (some (a, t)) := by
  constructor; intro b u e; cases e; exact h

theorem wo_eq {p : Parts} {r t : State} {x : Option State} (e : x = some t) (h : WO p r x) : WO p r (some t) := e ▸ h
theorem wo2_eq {α : Type} {p : Parts} {r : State} {y : α × State} {x : Option (α × State)} (e : x = some y) (h : WO2 p r x) :
    WO2 p r (some y) := e ▸ h
theorem wo2_map {α β : Type} {p : Parts} {r : State} {x : Option (α × State)} {f : α × State → β × State} (h : WO2 p r x)
    (hf : ∀ a t, Within p r t → Within p r (f (a, t)).2) : WO2 p r (x.map f) := by
  constructor
  intro b u e
  cases x with
  | none => cases e
  | some y =>
    have k := hf y.1 y.2 (h.imp y.1 y.2 rfl)
    simp only [Option.map_some, Option.some.injEq] at e
    rw [show (f (y.1, y.2)) = (b, u) from e] at k
    exact k

theorem wo2_mapAny {α β : Type} {p : Parts} {r : State} {x : Option α} {f : α → β × State} (hf : ∀ a, Within p r (f a).2) :
    WO2 p r (x.map f) := by
  constructor
  intro b u e
  cases x with
  | none => cases e
  | some a =>
    simp only [Option.map_some, Option.some.injEq] at e
    have k := hf a
    rw [e] at k
    exact k
theorem wo_map2 {α : Type} {p : Parts} {r : State} {x : Option (α × State)} {f : α × State → State} (h : WO2 p r x)
    (hf : ∀ a t, Within p r t → Within p r (f (a, t))) : WO p r (x.map f) := by
  constructor
  intro u e
  cases x with
  | none => cases e
  | some y =>
    simp only [Option.map_some, Option.some.injEq] at e
    exact e ▸ hf y.1 y.2 (h.imp y.1 y.2 rfl)
theorem wo_mapS {p : Parts} {r : State} {x : Option State} {f : State → State} (h : WO p r x)
    (hf : ∀ t, Within p r t → Within p r (f t)) : WO p r (x.map f) := by
  constructor
  intro u e
  cases x with
  | none => cases e
  | some y => cases e; exact hf y (h.imp y rfl)

theorem wo_findSome {α : Type} {p : Parts} {r : State} {l : List α} {f : α → Option State} (h : ∀ a, WO p r (f a)) :
    WO p r (l.findSome? f) := by
  constructor
  intro u e
  obtain ⟨a, -, k⟩ := List.exists_of_findSome?_eq_some e
  exact (h a).imp u k

theorem wo_map {α : Type} {p : Parts} {r : State} {x : Option α} {f : α → State} (hf : ∀ a, Within p r (f a)) :
    WO p r (x.map f) := by
  constructor
  intro u e
  cases x with
  | none => cases e
  | some a =>
    simp only [Option.map_some, Option.some.injEq] at e
    exact e ▸ hf a

theorem w_getD {p : Parts} {r d : State} {x : Option State} (h : WO p r x) (k : Within p r d) : Within p r (x.getD d) := by
  cases x with
  | none => exact k
  | some t => exact h.imp t rfl

theorem w_snd {α : Type} {p : Parts} {r t : State} {a : α} {x : α × State} (e : x = (a, t)) (h : Within p r x.2) : Within p r t := by
  subst e; exact h
theorem w_of_some {p : Parts} {r t : State} {x : Option State} (e : x = some t) (h : WO p r x) : Within p r t := h.imp t e
theorem w_of_some2 {α : Type} {p : Parts} {r t : State} {a : α} {x : Option (α × State)} (e : x = some (a, t)) (h : WO2 p r x) :
    Within p r t := h.imp a t e

theorem w_foldl {α : Type} {p : Parts} {r s : State} {l : List α} {f : State → α → State} (h : Within p r s)
    (hf : ∀ t a, Within p r t → Within p r (f t a)) : Within p r (l.foldl f s) := by
  induction l generalizing s with
  | nil => exact h
  | cons a l ih => exact ih (hf s a h)

theorem w_foldl2 {α β : Type} {p : Parts} {r s : State} {a : β} {l : List α} {f : β × State → α → β × State} (h : Within p r s)
    (hf : ∀ b t x, Within p r t → Within p r (f (b, t) x).2) : Within p r (l.foldl f (a, s)).2 := by
  induction l generalizing a s with
  | nil => exact h
  | cons x l ih => exact ih (a := (f (a, s) x).1) (s := (f (a, s) x).2) (hf a s x h)

theorem w_foldl3 {α β γ : Type} {p : Parts} {r : State} {x : β × γ × State} {l : List α} {f : β × γ × State → α → β × γ × State}
    (h : Within p r x.2.2) (hf : ∀ y a, Within p r y.2.2 → Within p r (f y a).2.2) : Within p r (l.foldl f x).2.2 := by
  induction l generalizing x with
  | nil => exact h
  | cons a l ih => exact ih (hf x a h)
theorem w_snd3 {α β : Type} {p : Parts} {r t : State} {a : α} {b : β} {x : α × β × State} (e : x = (a, b, t))
    (h : Within p r x.2.2) : Within p r t := by subst e; exact h

theorem keep_cond {α : Type} {b : Bool} {x y d : α} (h : b = true ∨ x = y) : cond b d x = cond b d y := by
  rcases h with h | h <;> subst h <;> rfl

theorem keep_aon {a m : Bool} {x y : Aon}
    (h : (a = true ∧ m = true) ∨ (a = true ∧ x.mode = y.mode ∧ x.prevMode = y.prevMode ∧ x.modeCause = y.modeCause) ∨ x = y) :
    eraseAon a m x = eraseAon a m y := by
  rcases h with ⟨h, k⟩ | ⟨h, k, k', k''⟩ | h
  · subst h k; rfl
  · subst h; simp [eraseAon, k, k', k'']
  · rw [h]

theorem keep_time {a m : Bool} {x y : AonTime} (h : (a = true ∧ m = true) ∨ (a = true ∧ x.tide = y.tide) ∨ x = y) :
    eraseTime a m x = eraseTime a m y := by
  rcases h with ⟨h, k⟩ | ⟨h, k⟩ | h
  · subst h k; rfl
  · subst h; simp [eraseTime, k]
  · rw [h]

theorem keep_dram {a m : Bool} {x y : Dram} (h : (a = true ∧ m = true) ∨ (a = true ∧ x.mem = y.mem) ∨ x = y) :
    eraseDram a m x = eraseDram a m y := by
  rcases h with ⟨h, k⟩ | ⟨h, k⟩ | h
  · subst h k; rfl
  · subst h; simp [eraseDram, k]
  · rw [h]

/-- A record update of parts that may change; what it does to the stored bytes keeps their canonical form. -/
theorem w_mem {p : Parts} {r u : State} {f1 f2 f3 f4 f5 f6 f7 f8 f9 f10 f11 f12 f13 f14 f15 f16 f17 f18 f19 f20 f21}
    (h : Within p r u) (m : Memory.wf u.dram.mem = true → Memory.wf f10.mem = true)
    (h1 : p.fuse = true ∨ f1 = u.fuse)
    (h2 : (p.aon = true ∧ p.mode = true) ∨ (p.aon = true ∧ f2.mode = u.aon.mode ∧ f2.prevMode = u.aon.prevMode ∧ f2.modeCause = u.aon.modeCause) ∨
      f2 = u.aon)
    (h3 : (p.time = true ∧ p.tide = true) ∨ (p.time = true ∧ f3.tide = u.time.tide) ∨ f3 = u.time)
    (h4 : p.log = true ∨ f4 = u.log)
    (h5 : p.ev = true ∨ f5 = u.ev)
    (h6 : p.sec = true ∨ f6 = u.sec)
    (h7 : p.frz = true ∨ f7 = u.frz)
    (h8 : p.pin = true ∨ f8 = u.pin)
    (h9 : p.quay = true ∨ f9 = u.quay)
    (h10 : (p.dram = true ∧ p.mem = true) ∨ (p.dram = true ∧ f10.mem = u.dram.mem) ∨ f10 = u.dram)
    (h11 : p.tier = true ∨ f11 = u.tier)
    (h12 : p.led = true ∨ f12 = u.led)
    (h13 : p.reins = true ∨ f13 = u.reins)
    (h14 : p.port = true ∨ f14 = u.port)
    (h15 : p.noc = true ∨ f15 = u.noc)
    (h16 : p.rings = true ∨ f16 = u.rings)
    (h17 : p.mgt = true ∨ f17 = u.mgt)
    (h18 : p.nor = true ∨ f18 = u.nor)
    (h19 : p.ppd = true ∨ f19 = u.ppd)
    (h20 : p.cfg = true ∨ f20 = u.cfg)
    (h21 : p.free = true ∨ f21 = u.free) :
    Within p r ⟨f1, f2, f3, f4, f5, f6, f7, f8, f9, f10, f11, f12, f13, f14, f15, f16, f17, f18, f19, f20, f21, u.pending⟩ :=
  ⟨Eq.trans (by
      simp only [erase, keep_aon h2, keep_time h3, keep_dram h10, keep_cond h1, keep_cond h4, keep_cond h5, keep_cond h6, keep_cond h7, keep_cond h8, keep_cond h9, keep_cond h11, keep_cond h12, keep_cond h13, keep_cond h14, keep_cond h15, keep_cond h16, keep_cond h17, keep_cond h18, keep_cond h19, keep_cond h20, keep_cond h21]) h.same,
    fun w => m (h.wf w)⟩

/-- A record update of parts that may change and of no stored byte. -/
theorem w_upd {p : Parts} {r u : State} {f1 f2 f3 f4 f5 f6 f7 f8 f9 f10 f11 f12 f13 f14 f15 f16 f17 f18 f19 f20 f21}
    (h : Within p r u) (m : f10.mem = u.dram.mem)
    (h1 : p.fuse = true ∨ f1 = u.fuse)
    (h2 : (p.aon = true ∧ p.mode = true) ∨ (p.aon = true ∧ f2.mode = u.aon.mode ∧ f2.prevMode = u.aon.prevMode ∧ f2.modeCause = u.aon.modeCause) ∨
      f2 = u.aon)
    (h3 : (p.time = true ∧ p.tide = true) ∨ (p.time = true ∧ f3.tide = u.time.tide) ∨ f3 = u.time)
    (h4 : p.log = true ∨ f4 = u.log)
    (h5 : p.ev = true ∨ f5 = u.ev)
    (h6 : p.sec = true ∨ f6 = u.sec)
    (h7 : p.frz = true ∨ f7 = u.frz)
    (h8 : p.pin = true ∨ f8 = u.pin)
    (h9 : p.quay = true ∨ f9 = u.quay)
    (h10 : (p.dram = true ∧ p.mem = true) ∨ (p.dram = true ∧ f10.mem = u.dram.mem) ∨ f10 = u.dram)
    (h11 : p.tier = true ∨ f11 = u.tier)
    (h12 : p.led = true ∨ f12 = u.led)
    (h13 : p.reins = true ∨ f13 = u.reins)
    (h14 : p.port = true ∨ f14 = u.port)
    (h15 : p.noc = true ∨ f15 = u.noc)
    (h16 : p.rings = true ∨ f16 = u.rings)
    (h17 : p.mgt = true ∨ f17 = u.mgt)
    (h18 : p.nor = true ∨ f18 = u.nor)
    (h19 : p.ppd = true ∨ f19 = u.ppd)
    (h20 : p.cfg = true ∨ f20 = u.cfg)
    (h21 : p.free = true ∨ f21 = u.free) :
    Within p r ⟨f1, f2, f3, f4, f5, f6, f7, f8, f9, f10, f11, f12, f13, f14, f15, f16, f17, f18, f19, f20, f21, u.pending⟩ :=
  w_mem h (fun w => by rw [m]; exact w) h1 h2 h3 h4 h5 h6 h7 h8 h9 h10 h11 h12 h13 h14 h15 h16 h17 h18 h19 h20 h21

/-! ## One part at a time -/

theorem w_fuse {p : Parts} {r u : State} {f} (h : Within p r u) (k : p.fuse = true) :
    Within p r ⟨f, u.aon, u.time, u.log, u.ev, u.sec, u.frz, u.pin, u.quay, u.dram, u.tier, u.led, u.reins, u.port, u.noc, u.rings, u.mgt, u.nor, u.ppd, u.cfg, u.free, u.pending⟩ :=
  w_upd h rfl (.inl k) (.inr (.inr rfl)) (.inr (.inr rfl)) (.inr rfl) (.inr rfl) (.inr rfl) (.inr rfl) (.inr rfl) (.inr rfl) (.inr (.inr rfl)) (.inr rfl) (.inr rfl) (.inr rfl) (.inr rfl) (.inr rfl) (.inr rfl) (.inr rfl) (.inr rfl) (.inr rfl) (.inr rfl) (.inr rfl)
theorem w_aon {p : Parts} {r u : State} {f} (h : Within p r u) (k : p.aon = true) (m : f.mode = u.aon.mode ∧ f.prevMode = u.aon.prevMode ∧ f.modeCause = u.aon.modeCause) :
    Within p r ⟨u.fuse, f, u.time, u.log, u.ev, u.sec, u.frz, u.pin, u.quay, u.dram, u.tier, u.led, u.reins, u.port, u.noc, u.rings, u.mgt, u.nor, u.ppd, u.cfg, u.free, u.pending⟩ :=
  w_upd h rfl (.inr rfl) (.inr (.inl ⟨k, m⟩)) (.inr (.inr rfl)) (.inr rfl) (.inr rfl) (.inr rfl) (.inr rfl) (.inr rfl) (.inr rfl) (.inr (.inr rfl)) (.inr rfl) (.inr rfl) (.inr rfl) (.inr rfl) (.inr rfl) (.inr rfl) (.inr rfl) (.inr rfl) (.inr rfl) (.inr rfl) (.inr rfl)
theorem w_time {p : Parts} {r u : State} {f} (h : Within p r u) (k : p.time = true) (m : f.tide = u.time.tide) :
    Within p r ⟨u.fuse, u.aon, f, u.log, u.ev, u.sec, u.frz, u.pin, u.quay, u.dram, u.tier, u.led, u.reins, u.port, u.noc, u.rings, u.mgt, u.nor, u.ppd, u.cfg, u.free, u.pending⟩ :=
  w_upd h rfl (.inr rfl) (.inr (.inr rfl)) (.inr (.inl ⟨k, m⟩)) (.inr rfl) (.inr rfl) (.inr rfl) (.inr rfl) (.inr rfl) (.inr rfl) (.inr (.inr rfl)) (.inr rfl) (.inr rfl) (.inr rfl) (.inr rfl) (.inr rfl) (.inr rfl) (.inr rfl) (.inr rfl) (.inr rfl) (.inr rfl) (.inr rfl)
theorem w_log {p : Parts} {r u : State} {f} (h : Within p r u) (k : p.log = true) :
    Within p r ⟨u.fuse, u.aon, u.time, f, u.ev, u.sec, u.frz, u.pin, u.quay, u.dram, u.tier, u.led, u.reins, u.port, u.noc, u.rings, u.mgt, u.nor, u.ppd, u.cfg, u.free, u.pending⟩ :=
  w_upd h rfl (.inr rfl) (.inr (.inr rfl)) (.inr (.inr rfl)) (.inl k) (.inr rfl) (.inr rfl) (.inr rfl) (.inr rfl) (.inr rfl) (.inr (.inr rfl)) (.inr rfl) (.inr rfl) (.inr rfl) (.inr rfl) (.inr rfl) (.inr rfl) (.inr rfl) (.inr rfl) (.inr rfl) (.inr rfl) (.inr rfl)
theorem w_ev {p : Parts} {r u : State} {f} (h : Within p r u) (k : p.ev = true) :
    Within p r ⟨u.fuse, u.aon, u.time, u.log, f, u.sec, u.frz, u.pin, u.quay, u.dram, u.tier, u.led, u.reins, u.port, u.noc, u.rings, u.mgt, u.nor, u.ppd, u.cfg, u.free, u.pending⟩ :=
  w_upd h rfl (.inr rfl) (.inr (.inr rfl)) (.inr (.inr rfl)) (.inr rfl) (.inl k) (.inr rfl) (.inr rfl) (.inr rfl) (.inr rfl) (.inr (.inr rfl)) (.inr rfl) (.inr rfl) (.inr rfl) (.inr rfl) (.inr rfl) (.inr rfl) (.inr rfl) (.inr rfl) (.inr rfl) (.inr rfl) (.inr rfl)
theorem w_sec {p : Parts} {r u : State} {f} (h : Within p r u) (k : p.sec = true) :
    Within p r ⟨u.fuse, u.aon, u.time, u.log, u.ev, f, u.frz, u.pin, u.quay, u.dram, u.tier, u.led, u.reins, u.port, u.noc, u.rings, u.mgt, u.nor, u.ppd, u.cfg, u.free, u.pending⟩ :=
  w_upd h rfl (.inr rfl) (.inr (.inr rfl)) (.inr (.inr rfl)) (.inr rfl) (.inr rfl) (.inl k) (.inr rfl) (.inr rfl) (.inr rfl) (.inr (.inr rfl)) (.inr rfl) (.inr rfl) (.inr rfl) (.inr rfl) (.inr rfl) (.inr rfl) (.inr rfl) (.inr rfl) (.inr rfl) (.inr rfl) (.inr rfl)
theorem w_frz {p : Parts} {r u : State} {f} (h : Within p r u) (k : p.frz = true) :
    Within p r ⟨u.fuse, u.aon, u.time, u.log, u.ev, u.sec, f, u.pin, u.quay, u.dram, u.tier, u.led, u.reins, u.port, u.noc, u.rings, u.mgt, u.nor, u.ppd, u.cfg, u.free, u.pending⟩ :=
  w_upd h rfl (.inr rfl) (.inr (.inr rfl)) (.inr (.inr rfl)) (.inr rfl) (.inr rfl) (.inr rfl) (.inl k) (.inr rfl) (.inr rfl) (.inr (.inr rfl)) (.inr rfl) (.inr rfl) (.inr rfl) (.inr rfl) (.inr rfl) (.inr rfl) (.inr rfl) (.inr rfl) (.inr rfl) (.inr rfl) (.inr rfl)
theorem w_pin {p : Parts} {r u : State} {f} (h : Within p r u) (k : p.pin = true) :
    Within p r ⟨u.fuse, u.aon, u.time, u.log, u.ev, u.sec, u.frz, f, u.quay, u.dram, u.tier, u.led, u.reins, u.port, u.noc, u.rings, u.mgt, u.nor, u.ppd, u.cfg, u.free, u.pending⟩ :=
  w_upd h rfl (.inr rfl) (.inr (.inr rfl)) (.inr (.inr rfl)) (.inr rfl) (.inr rfl) (.inr rfl) (.inr rfl) (.inl k) (.inr rfl) (.inr (.inr rfl)) (.inr rfl) (.inr rfl) (.inr rfl) (.inr rfl) (.inr rfl) (.inr rfl) (.inr rfl) (.inr rfl) (.inr rfl) (.inr rfl) (.inr rfl)
theorem w_quay {p : Parts} {r u : State} {f} (h : Within p r u) (k : p.quay = true) :
    Within p r ⟨u.fuse, u.aon, u.time, u.log, u.ev, u.sec, u.frz, u.pin, f, u.dram, u.tier, u.led, u.reins, u.port, u.noc, u.rings, u.mgt, u.nor, u.ppd, u.cfg, u.free, u.pending⟩ :=
  w_upd h rfl (.inr rfl) (.inr (.inr rfl)) (.inr (.inr rfl)) (.inr rfl) (.inr rfl) (.inr rfl) (.inr rfl) (.inr rfl) (.inl k) (.inr (.inr rfl)) (.inr rfl) (.inr rfl) (.inr rfl) (.inr rfl) (.inr rfl) (.inr rfl) (.inr rfl) (.inr rfl) (.inr rfl) (.inr rfl) (.inr rfl)
theorem w_dram {p : Parts} {r u : State} {f} (h : Within p r u) (k : p.dram = true) (m : f.mem = u.dram.mem) :
    Within p r ⟨u.fuse, u.aon, u.time, u.log, u.ev, u.sec, u.frz, u.pin, u.quay, f, u.tier, u.led, u.reins, u.port, u.noc, u.rings, u.mgt, u.nor, u.ppd, u.cfg, u.free, u.pending⟩ :=
  w_upd h m (.inr rfl) (.inr (.inr rfl)) (.inr (.inr rfl)) (.inr rfl) (.inr rfl) (.inr rfl) (.inr rfl) (.inr rfl) (.inr rfl) (.inr (.inl ⟨k, m⟩)) (.inr rfl) (.inr rfl) (.inr rfl) (.inr rfl) (.inr rfl) (.inr rfl) (.inr rfl) (.inr rfl) (.inr rfl) (.inr rfl) (.inr rfl)
theorem w_tier {p : Parts} {r u : State} {f} (h : Within p r u) (k : p.tier = true) :
    Within p r ⟨u.fuse, u.aon, u.time, u.log, u.ev, u.sec, u.frz, u.pin, u.quay, u.dram, f, u.led, u.reins, u.port, u.noc, u.rings, u.mgt, u.nor, u.ppd, u.cfg, u.free, u.pending⟩ :=
  w_upd h rfl (.inr rfl) (.inr (.inr rfl)) (.inr (.inr rfl)) (.inr rfl) (.inr rfl) (.inr rfl) (.inr rfl) (.inr rfl) (.inr rfl) (.inr (.inr rfl)) (.inl k) (.inr rfl) (.inr rfl) (.inr rfl) (.inr rfl) (.inr rfl) (.inr rfl) (.inr rfl) (.inr rfl) (.inr rfl) (.inr rfl)
theorem w_led {p : Parts} {r u : State} {f} (h : Within p r u) (k : p.led = true) :
    Within p r ⟨u.fuse, u.aon, u.time, u.log, u.ev, u.sec, u.frz, u.pin, u.quay, u.dram, u.tier, f, u.reins, u.port, u.noc, u.rings, u.mgt, u.nor, u.ppd, u.cfg, u.free, u.pending⟩ :=
  w_upd h rfl (.inr rfl) (.inr (.inr rfl)) (.inr (.inr rfl)) (.inr rfl) (.inr rfl) (.inr rfl) (.inr rfl) (.inr rfl) (.inr rfl) (.inr (.inr rfl)) (.inr rfl) (.inl k) (.inr rfl) (.inr rfl) (.inr rfl) (.inr rfl) (.inr rfl) (.inr rfl) (.inr rfl) (.inr rfl) (.inr rfl)
theorem w_reins {p : Parts} {r u : State} {f} (h : Within p r u) (k : p.reins = true) :
    Within p r ⟨u.fuse, u.aon, u.time, u.log, u.ev, u.sec, u.frz, u.pin, u.quay, u.dram, u.tier, u.led, f, u.port, u.noc, u.rings, u.mgt, u.nor, u.ppd, u.cfg, u.free, u.pending⟩ :=
  w_upd h rfl (.inr rfl) (.inr (.inr rfl)) (.inr (.inr rfl)) (.inr rfl) (.inr rfl) (.inr rfl) (.inr rfl) (.inr rfl) (.inr rfl) (.inr (.inr rfl)) (.inr rfl) (.inr rfl) (.inl k) (.inr rfl) (.inr rfl) (.inr rfl) (.inr rfl) (.inr rfl) (.inr rfl) (.inr rfl) (.inr rfl)
theorem w_port {p : Parts} {r u : State} {f} (h : Within p r u) (k : p.port = true) :
    Within p r ⟨u.fuse, u.aon, u.time, u.log, u.ev, u.sec, u.frz, u.pin, u.quay, u.dram, u.tier, u.led, u.reins, f, u.noc, u.rings, u.mgt, u.nor, u.ppd, u.cfg, u.free, u.pending⟩ :=
  w_upd h rfl (.inr rfl) (.inr (.inr rfl)) (.inr (.inr rfl)) (.inr rfl) (.inr rfl) (.inr rfl) (.inr rfl) (.inr rfl) (.inr rfl) (.inr (.inr rfl)) (.inr rfl) (.inr rfl) (.inr rfl) (.inl k) (.inr rfl) (.inr rfl) (.inr rfl) (.inr rfl) (.inr rfl) (.inr rfl) (.inr rfl)
theorem w_noc {p : Parts} {r u : State} {f} (h : Within p r u) (k : p.noc = true) :
    Within p r ⟨u.fuse, u.aon, u.time, u.log, u.ev, u.sec, u.frz, u.pin, u.quay, u.dram, u.tier, u.led, u.reins, u.port, f, u.rings, u.mgt, u.nor, u.ppd, u.cfg, u.free, u.pending⟩ :=
  w_upd h rfl (.inr rfl) (.inr (.inr rfl)) (.inr (.inr rfl)) (.inr rfl) (.inr rfl) (.inr rfl) (.inr rfl) (.inr rfl) (.inr rfl) (.inr (.inr rfl)) (.inr rfl) (.inr rfl) (.inr rfl) (.inr rfl) (.inl k) (.inr rfl) (.inr rfl) (.inr rfl) (.inr rfl) (.inr rfl) (.inr rfl)
theorem w_rings {p : Parts} {r u : State} {f} (h : Within p r u) (k : p.rings = true) :
    Within p r ⟨u.fuse, u.aon, u.time, u.log, u.ev, u.sec, u.frz, u.pin, u.quay, u.dram, u.tier, u.led, u.reins, u.port, u.noc, f, u.mgt, u.nor, u.ppd, u.cfg, u.free, u.pending⟩ :=
  w_upd h rfl (.inr rfl) (.inr (.inr rfl)) (.inr (.inr rfl)) (.inr rfl) (.inr rfl) (.inr rfl) (.inr rfl) (.inr rfl) (.inr rfl) (.inr (.inr rfl)) (.inr rfl) (.inr rfl) (.inr rfl) (.inr rfl) (.inr rfl) (.inl k) (.inr rfl) (.inr rfl) (.inr rfl) (.inr rfl) (.inr rfl)
theorem w_mgt {p : Parts} {r u : State} {f} (h : Within p r u) (k : p.mgt = true) :
    Within p r ⟨u.fuse, u.aon, u.time, u.log, u.ev, u.sec, u.frz, u.pin, u.quay, u.dram, u.tier, u.led, u.reins, u.port, u.noc, u.rings, f, u.nor, u.ppd, u.cfg, u.free, u.pending⟩ :=
  w_upd h rfl (.inr rfl) (.inr (.inr rfl)) (.inr (.inr rfl)) (.inr rfl) (.inr rfl) (.inr rfl) (.inr rfl) (.inr rfl) (.inr rfl) (.inr (.inr rfl)) (.inr rfl) (.inr rfl) (.inr rfl) (.inr rfl) (.inr rfl) (.inr rfl) (.inl k) (.inr rfl) (.inr rfl) (.inr rfl) (.inr rfl)
theorem w_nor {p : Parts} {r u : State} {f} (h : Within p r u) (k : p.nor = true) :
    Within p r ⟨u.fuse, u.aon, u.time, u.log, u.ev, u.sec, u.frz, u.pin, u.quay, u.dram, u.tier, u.led, u.reins, u.port, u.noc, u.rings, u.mgt, f, u.ppd, u.cfg, u.free, u.pending⟩ :=
  w_upd h rfl (.inr rfl) (.inr (.inr rfl)) (.inr (.inr rfl)) (.inr rfl) (.inr rfl) (.inr rfl) (.inr rfl) (.inr rfl) (.inr rfl) (.inr (.inr rfl)) (.inr rfl) (.inr rfl) (.inr rfl) (.inr rfl) (.inr rfl) (.inr rfl) (.inr rfl) (.inl k) (.inr rfl) (.inr rfl) (.inr rfl)
theorem w_ppd {p : Parts} {r u : State} {f} (h : Within p r u) (k : p.ppd = true) :
    Within p r ⟨u.fuse, u.aon, u.time, u.log, u.ev, u.sec, u.frz, u.pin, u.quay, u.dram, u.tier, u.led, u.reins, u.port, u.noc, u.rings, u.mgt, u.nor, f, u.cfg, u.free, u.pending⟩ :=
  w_upd h rfl (.inr rfl) (.inr (.inr rfl)) (.inr (.inr rfl)) (.inr rfl) (.inr rfl) (.inr rfl) (.inr rfl) (.inr rfl) (.inr rfl) (.inr (.inr rfl)) (.inr rfl) (.inr rfl) (.inr rfl) (.inr rfl) (.inr rfl) (.inr rfl) (.inr rfl) (.inr rfl) (.inl k) (.inr rfl) (.inr rfl)
theorem w_cfg {p : Parts} {r u : State} {f} (h : Within p r u) (k : p.cfg = true) :
    Within p r ⟨u.fuse, u.aon, u.time, u.log, u.ev, u.sec, u.frz, u.pin, u.quay, u.dram, u.tier, u.led, u.reins, u.port, u.noc, u.rings, u.mgt, u.nor, u.ppd, f, u.free, u.pending⟩ :=
  w_upd h rfl (.inr rfl) (.inr (.inr rfl)) (.inr (.inr rfl)) (.inr rfl) (.inr rfl) (.inr rfl) (.inr rfl) (.inr rfl) (.inr rfl) (.inr (.inr rfl)) (.inr rfl) (.inr rfl) (.inr rfl) (.inr rfl) (.inr rfl) (.inr rfl) (.inr rfl) (.inr rfl) (.inr rfl) (.inl k) (.inr rfl)
theorem w_free {p : Parts} {r u : State} {f} (h : Within p r u) (k : p.free = true) :
    Within p r ⟨u.fuse, u.aon, u.time, u.log, u.ev, u.sec, u.frz, u.pin, u.quay, u.dram, u.tier, u.led, u.reins, u.port, u.noc, u.rings, u.mgt, u.nor, u.ppd, u.cfg, f, u.pending⟩ :=
  w_upd h rfl (.inr rfl) (.inr (.inr rfl)) (.inr (.inr rfl)) (.inr rfl) (.inr rfl) (.inr rfl) (.inr rfl) (.inr rfl) (.inr rfl) (.inr (.inr rfl)) (.inr rfl) (.inr rfl) (.inr rfl) (.inr rfl) (.inr rfl) (.inr rfl) (.inr rfl) (.inr rfl) (.inr rfl) (.inr rfl) (.inl k)

/-! ## What stays: a part that is not among those that change -/

theorem keeps_fuse {p : Parts} {r s : State} (h : ChangesOnly p r s) (k : p.fuse = false) : s.fuse = r.fuse := by
  have e := congrArg State.fuse h
  simpa [erase, k] using e
theorem keeps_log {p : Parts} {r s : State} (h : ChangesOnly p r s) (k : p.log = false) : s.log = r.log := by
  have e := congrArg State.log h
  simpa [erase, k] using e
theorem keeps_ev {p : Parts} {r s : State} (h : ChangesOnly p r s) (k : p.ev = false) : s.ev = r.ev := by
  have e := congrArg State.ev h
  simpa [erase, k] using e
theorem keeps_sec {p : Parts} {r s : State} (h : ChangesOnly p r s) (k : p.sec = false) : s.sec = r.sec := by
  have e := congrArg State.sec h
  simpa [erase, k] using e
theorem keeps_frz {p : Parts} {r s : State} (h : ChangesOnly p r s) (k : p.frz = false) : s.frz = r.frz := by
  have e := congrArg State.frz h
  simpa [erase, k] using e
theorem keeps_pin {p : Parts} {r s : State} (h : ChangesOnly p r s) (k : p.pin = false) : s.pin = r.pin := by
  have e := congrArg State.pin h
  simpa [erase, k] using e
theorem keeps_quay {p : Parts} {r s : State} (h : ChangesOnly p r s) (k : p.quay = false) : s.quay = r.quay := by
  have e := congrArg State.quay h
  simpa [erase, k] using e
theorem keeps_tier {p : Parts} {r s : State} (h : ChangesOnly p r s) (k : p.tier = false) : s.tier = r.tier := by
  have e := congrArg State.tier h
  simpa [erase, k] using e
theorem keeps_led {p : Parts} {r s : State} (h : ChangesOnly p r s) (k : p.led = false) : s.led = r.led := by
  have e := congrArg State.led h
  simpa [erase, k] using e
theorem keeps_reins {p : Parts} {r s : State} (h : ChangesOnly p r s) (k : p.reins = false) : s.reins = r.reins := by
  have e := congrArg State.reins h
  simpa [erase, k] using e
theorem keeps_port {p : Parts} {r s : State} (h : ChangesOnly p r s) (k : p.port = false) : s.port = r.port := by
  have e := congrArg State.port h
  simpa [erase, k] using e
theorem keeps_noc {p : Parts} {r s : State} (h : ChangesOnly p r s) (k : p.noc = false) : s.noc = r.noc := by
  have e := congrArg State.noc h
  simpa [erase, k] using e
theorem keeps_rings {p : Parts} {r s : State} (h : ChangesOnly p r s) (k : p.rings = false) : s.rings = r.rings := by
  have e := congrArg State.rings h
  simpa [erase, k] using e
theorem keeps_mgt {p : Parts} {r s : State} (h : ChangesOnly p r s) (k : p.mgt = false) : s.mgt = r.mgt := by
  have e := congrArg State.mgt h
  simpa [erase, k] using e
theorem keeps_nor {p : Parts} {r s : State} (h : ChangesOnly p r s) (k : p.nor = false) : s.nor = r.nor := by
  have e := congrArg State.nor h
  simpa [erase, k] using e
theorem keeps_ppd {p : Parts} {r s : State} (h : ChangesOnly p r s) (k : p.ppd = false) : s.ppd = r.ppd := by
  have e := congrArg State.ppd h
  simpa [erase, k] using e
theorem keeps_cfg {p : Parts} {r s : State} (h : ChangesOnly p r s) (k : p.cfg = false) : s.cfg = r.cfg := by
  have e := congrArg State.cfg h
  simpa [erase, k] using e
theorem keeps_free {p : Parts} {r s : State} (h : ChangesOnly p r s) (k : p.free = false) : s.free = r.free := by
  have e := congrArg State.free h
  simpa [erase, k] using e
theorem keeps_pending {p : Parts} {r s : State} (h : ChangesOnly p r s) (k : p.pending = false) : s.pending = r.pending := by
  have e := congrArg State.pending h
  simpa [erase, k] using e
theorem keeps_aon {p : Parts} {r s : State} (h : ChangesOnly p r s) (k : p.aon = false) (m : p.mode = false) : s.aon = r.aon := by
  have e := congrArg State.aon h
  simpa [erase, eraseAon, k, m] using e
theorem keeps_mode {p : Parts} {r s : State} (h : ChangesOnly p r s) (m : p.mode = false) :
    s.aon.mode = r.aon.mode ∧ s.aon.prevMode = r.aon.prevMode ∧ s.aon.modeCause = r.aon.modeCause := by
  have e := congrArg State.aon h
  cases k : p.aon
  · have e : s.aon = r.aon := by simpa [erase, eraseAon, k, m] using e
    simp [e]
  · have a := congrArg Aon.mode e
    have b := congrArg Aon.prevMode e
    have c := congrArg Aon.modeCause e
    simp only [erase, eraseAon, k, m, cond_true, cond_false] at a b c
    exact ⟨a, b, c⟩
theorem keeps_time {p : Parts} {r s : State} (h : ChangesOnly p r s) (k : p.time = false) (m : p.tide = false) : s.time = r.time := by
  have e := congrArg State.time h
  simpa [erase, eraseTime, k, m] using e
theorem keeps_tide {p : Parts} {r s : State} (h : ChangesOnly p r s) (m : p.tide = false) : s.time.tide = r.time.tide := by
  have e := congrArg State.time h
  cases k : p.time
  · have e : s.time = r.time := by simpa [erase, eraseTime, k, m] using e
    simp [e]
  · have a := congrArg AonTime.tide e
    simp only [erase, eraseTime, k, m, cond_true, cond_false] at a
    exact a
theorem keeps_dram {p : Parts} {r s : State} (h : ChangesOnly p r s) (k : p.dram = false) (m : p.mem = false) : s.dram = r.dram := by
  have e := congrArg State.dram h
  simpa [erase, eraseDram, k, m] using e
theorem keeps_mem {p : Parts} {r s : State} (h : ChangesOnly p r s) (m : p.mem = false) : s.dram.mem = r.dram.mem := by
  have e := congrArg State.dram h
  cases k : p.dram
  · have e : s.dram = r.dram := by simpa [erase, eraseDram, k, m] using e
    simp [e]
  · have a := congrArg Dram.mem e
    simp only [erase, eraseDram, k, m, cond_true, cond_false] at a
    exact a

end Sys2Proof.Laws
end

