-- ==== Sys2Proof/Laws/WOps.lean ====
section
/-! SUPPORT. What each operation of Machine/Ops.lean may change. -/

namespace Sys2Proof.Laws

open Sys2Proof Sys2Proof.Machine

theorem setPort_within (p : Nat) (v : Port) (s : State) : Within { port := true } s (setPort p v s) := by
  unfold setPort
  repeat' (first
    | exact rfl
    | exact Or.inl rfl
    | exact Or.inr rfl
    | exact And.intro rfl (And.intro rfl rfl)
    | exact Or.inl ⟨rfl, rfl⟩
    | exact Or.inr (Or.inl ⟨rfl, rfl⟩)
    | exact Or.inr (Or.inl ⟨rfl, rfl, rfl, rfl⟩)
    | exact Or.inr (Or.inr rfl)
    | with_reducible assumption
    | with_reducible exact Within.refl _ _
    | (intro _ _ _ _)
    | (intro _ _ _)
    | (intro _ _)
    | (intro _)
    | with_reducible apply w_ite
    | with_reducible apply w_foldl
    | with_reducible apply w_foldl2
    | with_reducible apply w_ite_snd
    | dsimp only
    | split
    | with_reducible refine w_port ?_ ?_)

theorem modPort_within (p : Nat) (f : Port → Port) (s : State) : Within { port := true } s (modPort p f s) := by
  unfold modPort
  repeat' (first
    | exact rfl
    | exact Or.inl rfl
    | exact Or.inr rfl
    | exact And.intro rfl (And.intro rfl rfl)
    | exact Or.inl ⟨rfl, rfl⟩
    | exact Or.inr (Or.inl ⟨rfl, rfl⟩)
    | exact Or.inr (Or.inl ⟨rfl, rfl, rfl, rfl⟩)
    | exact Or.inr (Or.inr rfl)
    | with_reducible assumption
    | with_reducible exact Within.refl _ _
    | (intro _ _ _ _)
    | (intro _ _ _)
    | (intro _ _)
    | (intro _)
    | with_reducible apply w_ite
    | with_reducible apply w_foldl
    | with_reducible apply w_foldl2
    | with_reducible apply Within.to (setPort_within ..))

theorem setChan_within (c : Nat) (v : Channel) (s : State) : Within { dram := true } s (setChan c v s) := by
  unfold setChan
  repeat' (first
    | exact rfl
    | exact Or.inl rfl
    | exact Or.inr rfl
    | exact And.intro rfl (And.intro rfl rfl)
    | exact Or.inl ⟨rfl, rfl⟩
    | exact Or.inr (Or.inl ⟨rfl, rfl⟩)
    | exact Or.inr (Or.inl ⟨rfl, rfl, rfl, rfl⟩)
    | exact Or.inr (Or.inr rfl)
    | with_reducible assumption
    | with_reducible exact Within.refl _ _
    | (intro _ _ _ _)
    | (intro _ _ _)
    | (intro _ _)
    | (intro _)
    | with_reducible apply w_ite
    | with_reducible apply w_foldl
    | with_reducible apply w_foldl2
    | with_reducible apply w_ite_snd
    | dsimp only
    | split
    | with_reducible refine w_dram ?_ ?_ ?_)

theorem modChan_within (c : Nat) (f : Channel → Channel) (s : State) : Within { dram := true } s (modChan c f s) := by
  unfold modChan
  repeat' (first
    | exact rfl
    | exact Or.inl rfl
    | exact Or.inr rfl
    | exact And.intro rfl (And.intro rfl rfl)
    | exact Or.inl ⟨rfl, rfl⟩
    | exact Or.inr (Or.inl ⟨rfl, rfl⟩)
    | exact Or.inr (Or.inl ⟨rfl, rfl, rfl, rfl⟩)
    | exact Or.inr (Or.inr rfl)
    | with_reducible assumption
    | with_reducible exact Within.refl _ _
    | (intro _ _ _ _)
    | (intro _ _ _)
    | (intro _ _)
    | (intro _)
    | with_reducible apply w_ite
    | with_reducible apply w_foldl
    | with_reducible apply w_foldl2
    | with_reducible apply Within.to (setChan_within ..))

theorem setPch_within (n : Nat) (v : PChan) (s : State) : Within { ppd := true } s (setPch n v s) := by
  unfold setPch
  repeat' (first
    | exact rfl
    | exact Or.inl rfl
    | exact Or.inr rfl
    | exact And.intro rfl (And.intro rfl rfl)
    | exact Or.inl ⟨rfl, rfl⟩
    | exact Or.inr (Or.inl ⟨rfl, rfl⟩)
    | exact Or.inr (Or.inl ⟨rfl, rfl, rfl, rfl⟩)
    | exact Or.inr (Or.inr rfl)
    | with_reducible assumption
    | with_reducible exact Within.refl _ _
    | (intro _ _ _ _)
    | (intro _ _ _)
    | (intro _ _)
    | (intro _)
    | with_reducible apply w_ite
    | with_reducible apply w_foldl
    | with_reducible apply w_foldl2
    | with_reducible apply w_ite_snd
    | dsimp only
    | split
    | with_reducible refine w_ppd ?_ ?_)

theorem modPch_within (n : Nat) (f : PChan → PChan) (s : State) : Within { ppd := true } s (modPch n f s) := by
  unfold modPch
  repeat' (first
    | exact rfl
    | exact Or.inl rfl
    | exact Or.inr rfl
    | exact And.intro rfl (And.intro rfl rfl)
    | exact Or.inl ⟨rfl, rfl⟩
    | exact Or.inr (Or.inl ⟨rfl, rfl⟩)
    | exact Or.inr (Or.inl ⟨rfl, rfl, rfl, rfl⟩)
    | exact Or.inr (Or.inr rfl)
    | with_reducible assumption
    | with_reducible exact Within.refl _ _
    | (intro _ _ _ _)
    | (intro _ _ _)
    | (intro _ _)
    | (intro _)
    | with_reducible apply w_ite
    | with_reducible apply w_foldl
    | with_reducible apply w_foldl2
    | with_reducible apply Within.to (setPch_within ..))

theorem setDom_within (n : Nat) (v : Domain) (s : State) : Within { noc := true } s (setDom n v s) := by
  unfold setDom
  repeat' (first
    | exact rfl
    | exact Or.inl rfl
    | exact Or.inr rfl
    | exact And.intro rfl (And.intro rfl rfl)
    | exact Or.inl ⟨rfl, rfl⟩
    | exact Or.inr (Or.inl ⟨rfl, rfl⟩)
    | exact Or.inr (Or.inl ⟨rfl, rfl, rfl, rfl⟩)
    | exact Or.inr (Or.inr rfl)
    | with_reducible assumption
    | with_reducible exact Within.refl _ _
    | (intro _ _ _ _)
    | (intro _ _ _)
    | (intro _ _)
    | (intro _)
    | with_reducible apply w_ite
    | with_reducible apply w_foldl
    | with_reducible apply w_foldl2
    | with_reducible apply w_ite_snd
    | dsimp only
    | split
    | with_reducible refine w_noc ?_ ?_)

theorem modDom_within (n : Nat) (f : Domain → Domain) (s : State) : Within { noc := true } s (modDom n f s) := by
  unfold modDom
  repeat' (first
    | exact rfl
    | exact Or.inl rfl
    | exact Or.inr rfl
    | exact And.intro rfl (And.intro rfl rfl)
    | exact Or.inl ⟨rfl, rfl⟩
    | exact Or.inr (Or.inl ⟨rfl, rfl⟩)
    | exact Or.inr (Or.inl ⟨rfl, rfl, rfl, rfl⟩)
    | exact Or.inr (Or.inr rfl)
    | with_reducible assumption
    | with_reducible exact Within.refl _ _
    | (intro _ _ _ _)
    | (intro _ _ _)
    | (intro _ _)
    | (intro _)
    | with_reducible apply w_ite
    | with_reducible apply w_foldl
    | with_reducible apply w_foldl2
    | with_reducible apply Within.to (setDom_within ..))

theorem setGrp_within (g : Nat) (v : Group) (s : State) : Within { noc := true } s (setGrp g v s) := by
  unfold setGrp
  repeat' (first
    | exact rfl
    | exact Or.inl rfl
    | exact Or.inr rfl
    | exact And.intro rfl (And.intro rfl rfl)
    | exact Or.inl ⟨rfl, rfl⟩
    | exact Or.inr (Or.inl ⟨rfl, rfl⟩)
    | exact Or.inr (Or.inl ⟨rfl, rfl, rfl, rfl⟩)
    | exact Or.inr (Or.inr rfl)
    | with_reducible assumption
    | with_reducible exact Within.refl _ _
    | (intro _ _ _ _)
    | (intro _ _ _)
    | (intro _ _)
    | (intro _)
    | with_reducible apply w_ite
    | with_reducible apply w_foldl
    | with_reducible apply w_foldl2
    | with_reducible apply w_ite_snd
    | dsimp only
    | split
    | with_reducible refine w_noc ?_ ?_)

theorem modGrp_within (g : Nat) (f : Group → Group) (s : State) : Within { noc := true } s (modGrp g f s) := by
  unfold modGrp
  repeat' (first
    | exact rfl
    | exact Or.inl rfl
    | exact Or.inr rfl
    | exact And.intro rfl (And.intro rfl rfl)
    | exact Or.inl ⟨rfl, rfl⟩
    | exact Or.inr (Or.inl ⟨rfl, rfl⟩)
    | exact Or.inr (Or.inl ⟨rfl, rfl, rfl, rfl⟩)
    | exact Or.inr (Or.inr rfl)
    | with_reducible assumption
    | with_reducible exact Within.refl _ _
    | (intro _ _ _ _)
    | (intro _ _ _)
    | (intro _ _)
    | (intro _)
    | with_reducible apply w_ite
    | with_reducible apply w_foldl
    | with_reducible apply w_foldl2
    | with_reducible apply Within.to (setGrp_within ..))

theorem setSsd_within (i : Nat) (v : Ssd) (s : State) : Within { led := true } s (setSsd i v s) := by
  unfold setSsd
  repeat' (first
    | exact rfl
    | exact Or.inl rfl
    | exact Or.inr rfl
    | exact And.intro rfl (And.intro rfl rfl)
    | exact Or.inl ⟨rfl, rfl⟩
    | exact Or.inr (Or.inl ⟨rfl, rfl⟩)
    | exact Or.inr (Or.inl ⟨rfl, rfl, rfl, rfl⟩)
    | exact Or.inr (Or.inr rfl)
    | with_reducible assumption
    | with_reducible exact Within.refl _ _
    | (intro _ _ _ _)
    | (intro _ _ _)
    | (intro _ _)
    | (intro _)
    | with_reducible apply w_ite
    | with_reducible apply w_foldl
    | with_reducible apply w_foldl2
    | with_reducible apply w_ite_snd
    | dsimp only
    | split
    | with_reducible refine w_led ?_ ?_)

theorem modSsd_within (i : Nat) (f : Ssd → Ssd) (s : State) : Within { led := true } s (modSsd i f s) := by
  unfold modSsd
  repeat' (first
    | exact rfl
    | exact Or.inl rfl
    | exact Or.inr rfl
    | exact And.intro rfl (And.intro rfl rfl)
    | exact Or.inl ⟨rfl, rfl⟩
    | exact Or.inr (Or.inl ⟨rfl, rfl⟩)
    | exact Or.inr (Or.inl ⟨rfl, rfl, rfl, rfl⟩)
    | exact Or.inr (Or.inr rfl)
    | with_reducible assumption
    | with_reducible exact Within.refl _ _
    | (intro _ _ _ _)
    | (intro _ _ _)
    | (intro _ _)
    | (intro _)
    | with_reducible apply w_ite
    | with_reducible apply w_foldl
    | with_reducible apply w_foldl2
    | with_reducible apply Within.to (setSsd_within ..))

theorem draw_within (w : Nat) (s : State) : Within { free := true } s (draw w s).2 := by
  unfold draw
  repeat' (first
    | exact rfl
    | exact Or.inl rfl
    | exact Or.inr rfl
    | exact And.intro rfl (And.intro rfl rfl)
    | exact Or.inl ⟨rfl, rfl⟩
    | exact Or.inr (Or.inl ⟨rfl, rfl⟩)
    | exact Or.inr (Or.inl ⟨rfl, rfl, rfl, rfl⟩)
    | exact Or.inr (Or.inr rfl)
    | with_reducible assumption
    | with_reducible exact Within.refl _ _
    | (intro _ _ _ _)
    | (intro _ _ _)
    | (intro _ _)
    | (intro _)
    | with_reducible apply w_ite
    | with_reducible apply w_foldl
    | with_reducible apply w_foldl2
    | with_reducible apply w_ite_snd
    | dsimp only
    | split
    | with_reducible refine w_free ?_ ?_)

theorem coreSupply_within (s : State) : Within { aon := true } s (coreSupply s) := by
  unfold coreSupply
  repeat' (first
    | exact rfl
    | exact Or.inl rfl
    | exact Or.inr rfl
    | exact And.intro rfl (And.intro rfl rfl)
    | exact Or.inl ⟨rfl, rfl⟩
    | exact Or.inr (Or.inl ⟨rfl, rfl⟩)
    | exact Or.inr (Or.inl ⟨rfl, rfl, rfl, rfl⟩)
    | exact Or.inr (Or.inr rfl)
    | with_reducible assumption
    | with_reducible exact Within.refl _ _
    | (intro _ _ _ _)
    | (intro _ _ _)
    | (intro _ _)
    | (intro _)
    | with_reducible apply w_ite
    | with_reducible apply w_foldl
    | with_reducible apply w_foldl2
    | with_reducible apply w_ite_snd
    | dsimp only
    | split
    | with_reducible refine w_aon ?_ ?_ ?_)

theorem evAdd_within (id n : Nat) (s : State) : Within { ev := true, mgt := true } s (evAdd id n s) := by
  unfold evAdd
  repeat' (first
    | exact rfl
    | exact Or.inl rfl
    | exact Or.inr rfl
    | exact And.intro rfl (And.intro rfl rfl)
    | exact Or.inl ⟨rfl, rfl⟩
    | exact Or.inr (Or.inl ⟨rfl, rfl⟩)
    | exact Or.inr (Or.inl ⟨rfl, rfl, rfl, rfl⟩)
    | exact Or.inr (Or.inr rfl)
    | with_reducible assumption
    | with_reducible exact Within.refl _ _
    | (intro _ _ _ _)
    | (intro _ _ _)
    | (intro _ _)
    | (intro _)
    | with_reducible apply w_ite
    | with_reducible apply w_foldl
    | with_reducible apply w_foldl2
    | with_reducible apply w_ite_snd
    | dsimp only
    | split
    | with_reducible refine w_ev ?_ ?_
    | with_reducible refine w_mgt ?_ ?_
    | with_reducible refine w_upd ?_ ?_ ?_ ?_ ?_ ?_ ?_ ?_ ?_ ?_ ?_ ?_ ?_ ?_ ?_ ?_ ?_ ?_ ?_ ?_ ?_ ?_ ?_)

theorem evDch_within (c e : Nat) (s : State) : Within { ev := true, mgt := true } s (evDch c e s) := by
  unfold evDch
  repeat' (first
    | exact rfl
    | exact Or.inl rfl
    | exact Or.inr rfl
    | exact And.intro rfl (And.intro rfl rfl)
    | exact Or.inl ⟨rfl, rfl⟩
    | exact Or.inr (Or.inl ⟨rfl, rfl⟩)
    | exact Or.inr (Or.inl ⟨rfl, rfl, rfl, rfl⟩)
    | exact Or.inr (Or.inr rfl)
    | with_reducible assumption
    | with_reducible exact Within.refl _ _
    | (intro _ _ _ _)
    | (intro _ _ _)
    | (intro _ _)
    | (intro _)
    | with_reducible apply w_ite
    | with_reducible apply w_foldl
    | with_reducible apply w_foldl2
    | with_reducible apply Within.to (evAdd_within ..))

theorem evQb_within (b e : Nat) (s : State) : Within { ev := true, mgt := true } s (evQb b e s) := by
  unfold evQb
  repeat' (first
    | exact rfl
    | exact Or.inl rfl
    | exact Or.inr rfl
    | exact And.intro rfl (And.intro rfl rfl)
    | exact Or.inl ⟨rfl, rfl⟩
    | exact Or.inr (Or.inl ⟨rfl, rfl⟩)
    | exact Or.inr (Or.inl ⟨rfl, rfl, rfl, rfl⟩)
    | exact Or.inr (Or.inr rfl)
    | with_reducible assumption
    | with_reducible exact Within.refl _ _
    | (intro _ _ _ _)
    | (intro _ _ _)
    | (intro _ _)
    | (intro _)
    | with_reducible apply w_ite
    | with_reducible apply w_foldl
    | with_reducible apply w_foldl2
    | with_reducible apply Within.to (evAdd_within ..))

theorem evAfl_within (p e : Nat) (s : State) : Within { ev := true, mgt := true } s (evAfl p e s) := by
  unfold evAfl
  repeat' (first
    | exact rfl
    | exact Or.inl rfl
    | exact Or.inr rfl
    | exact And.intro rfl (And.intro rfl rfl)
    | exact Or.inl ⟨rfl, rfl⟩
    | exact Or.inr (Or.inl ⟨rfl, rfl⟩)
    | exact Or.inr (Or.inl ⟨rfl, rfl, rfl, rfl⟩)
    | exact Or.inr (Or.inr rfl)
    | with_reducible assumption
    | with_reducible exact Within.refl _ _
    | (intro _ _ _ _)
    | (intro _ _ _)
    | (intro _ _)
    | (intro _)
    | with_reducible apply w_ite
    | with_reducible apply w_foldl
    | with_reducible apply w_foldl2
    | with_reducible apply Within.to (evAdd_within ..))

theorem evPe_within (p e : Nat) (s : State) : Within { ev := true, mgt := true } s (evPe p e s) := by
  unfold evPe
  repeat' (first
    | exact rfl
    | exact Or.inl rfl
    | exact Or.inr rfl
    | exact And.intro rfl (And.intro rfl rfl)
    | exact Or.inl ⟨rfl, rfl⟩
    | exact Or.inr (Or.inl ⟨rfl, rfl⟩)
    | exact Or.inr (Or.inl ⟨rfl, rfl, rfl, rfl⟩)
    | exact Or.inr (Or.inr rfl)
    | with_reducible assumption
    | with_reducible exact Within.refl _ _
    | (intro _ _ _ _)
    | (intro _ _ _)
    | (intro _ _)
    | (intro _)
    | with_reducible apply w_ite
    | with_reducible apply w_foldl
    | with_reducible apply w_foldl2
    | with_reducible apply Within.to (evAdd_within ..))

theorem evMgt_within (m e : Nat) (s : State) : Within { ev := true, mgt := true } s (evMgt m e s) := by
  unfold evMgt
  repeat' (first
    | exact rfl
    | exact Or.inl rfl
    | exact Or.inr rfl
    | exact And.intro rfl (And.intro rfl rfl)
    | exact Or.inl ⟨rfl, rfl⟩
    | exact Or.inr (Or.inl ⟨rfl, rfl⟩)
    | exact Or.inr (Or.inl ⟨rfl, rfl, rfl, rfl⟩)
    | exact Or.inr (Or.inr rfl)
    | with_reducible assumption
    | with_reducible exact Within.refl _ _
    | (intro _ _ _ _)
    | (intro _ _ _)
    | (intro _ _)
    | (intro _)
    | with_reducible apply w_ite
    | with_reducible apply w_foldl
    | with_reducible apply w_foldl2
    | with_reducible apply Within.to (evAdd_within ..))

theorem evPp_within (n e : Nat) (s : State) : Within { ev := true, mgt := true } s (evPp n e s) := by
  unfold evPp
  repeat' (first
    | exact rfl
    | exact Or.inl rfl
    | exact Or.inr rfl
    | exact And.intro rfl (And.intro rfl rfl)
    | exact Or.inl ⟨rfl, rfl⟩
    | exact Or.inr (Or.inl ⟨rfl, rfl⟩)
    | exact Or.inr (Or.inl ⟨rfl, rfl, rfl, rfl⟩)
    | exact Or.inr (Or.inr rfl)
    | with_reducible assumption
    | with_reducible exact Within.refl _ _
    | (intro _ _ _ _)
    | (intro _ _ _)
    | (intro _ _)
    | (intro _)
    | with_reducible apply w_ite
    | with_reducible apply w_foldl
    | with_reducible apply w_foldl2
    | with_reducible apply Within.to (evAdd_within ..))

theorem evTile_within (t e n : Nat) (s : State) : Within { ev := true, mgt := true } s (evTile t e n s) := by
  unfold evTile
  repeat' (first
    | exact rfl
    | exact Or.inl rfl
    | exact Or.inr rfl
    | exact And.intro rfl (And.intro rfl rfl)
    | exact Or.inl ⟨rfl, rfl⟩
    | exact Or.inr (Or.inl ⟨rfl, rfl⟩)
    | exact Or.inr (Or.inl ⟨rfl, rfl, rfl, rfl⟩)
    | exact Or.inr (Or.inr rfl)
    | with_reducible assumption
    | with_reducible exact Within.refl _ _
    | (intro _ _ _ _)
    | (intro _ _ _)
    | (intro _ _)
    | (intro _)
    | with_reducible apply w_ite
    | with_reducible apply w_foldl
    | with_reducible apply w_foldl2
    | with_reducible apply Within.to (evAdd_within ..))

theorem tileUnits_within (t n inp pay ovh : Nat) (ok : Bool) (s : State) : Within { ev := true, mgt := true } s (tileUnits t n inp pay ovh ok s) := by
  unfold tileUnits
  repeat' (first
    | exact rfl
    | exact Or.inl rfl
    | exact Or.inr rfl
    | exact And.intro rfl (And.intro rfl rfl)
    | exact Or.inl ⟨rfl, rfl⟩
    | exact Or.inr (Or.inl ⟨rfl, rfl⟩)
    | exact Or.inr (Or.inl ⟨rfl, rfl, rfl, rfl⟩)
    | exact Or.inr (Or.inr rfl)
    | with_reducible assumption
    | with_reducible exact Within.refl _ _
    | (intro _ _ _ _)
    | (intro _ _ _)
    | (intro _ _)
    | (intro _)
    | with_reducible apply w_ite
    | with_reducible apply w_foldl
    | with_reducible apply w_foldl2
    | with_reducible apply Within.to (evTile_within ..))

theorem tileLine_within (t inp : Nat) (poison ok : Bool) (s : State) : Within { ev := true, mgt := true } s (tileLine t inp poison ok s) := by
  unfold tileLine
  repeat' (first
    | exact rfl
    | exact Or.inl rfl
    | exact Or.inr rfl
    | exact And.intro rfl (And.intro rfl rfl)
    | exact Or.inl ⟨rfl, rfl⟩
    | exact Or.inr (Or.inl ⟨rfl, rfl⟩)
    | exact Or.inr (Or.inl ⟨rfl, rfl, rfl, rfl⟩)
    | exact Or.inr (Or.inr rfl)
    | with_reducible assumption
    | with_reducible exact Within.refl _ _
    | (intro _ _ _ _)
    | (intro _ _ _)
    | (intro _ _)
    | (intro _)
    | with_reducible apply w_ite
    | with_reducible apply w_foldl
    | with_reducible apply w_foldl2
    | with_reducible apply Within.to (tileUnits_within ..))

theorem driveAlert_within (s : State) : Within { pin := true } s (driveAlert s) := by
  unfold driveAlert
  repeat' (first
    | exact rfl
    | exact Or.inl rfl
    | exact Or.inr rfl
    | exact And.intro rfl (And.intro rfl rfl)
    | exact Or.inl ⟨rfl, rfl⟩
    | exact Or.inr (Or.inl ⟨rfl, rfl⟩)
    | exact Or.inr (Or.inl ⟨rfl, rfl, rfl, rfl⟩)
    | exact Or.inr (Or.inr rfl)
    | with_reducible assumption
    | with_reducible exact Within.refl _ _
    | (intro _ _ _ _)
    | (intro _ _ _)
    | (intro _ _)
    | (intro _)
    | with_reducible apply w_ite
    | with_reducible apply w_foldl
    | with_reducible apply w_foldl2
    | with_reducible apply w_ite_snd
    | dsimp only
    | split
    | with_reducible refine w_pin ?_ ?_)

theorem logIt_within (r : LogRec) (s : State) : Within { log := true, ev := true, mgt := true } s (logIt r s) := by
  unfold logIt
  repeat' (first
    | exact rfl
    | exact Or.inl rfl
    | exact Or.inr rfl
    | exact And.intro rfl (And.intro rfl rfl)
    | exact Or.inl ⟨rfl, rfl⟩
    | exact Or.inr (Or.inl ⟨rfl, rfl⟩)
    | exact Or.inr (Or.inl ⟨rfl, rfl, rfl, rfl⟩)
    | exact Or.inr (Or.inr rfl)
    | with_reducible assumption
    | with_reducible exact Within.refl _ _
    | (intro _ _ _ _)
    | (intro _ _ _)
    | (intro _ _)
    | (intro _)
    | with_reducible apply w_ite
    | with_reducible apply w_foldl
    | with_reducible apply w_foldl2
    | with_reducible apply Within.to (evAdd_within ..)
    | with_reducible apply w_ite_snd
    | dsimp only
    | split
    | with_reducible refine w_log ?_ ?_
    | with_reducible refine w_ev ?_ ?_)

theorem sendPkt_within (p : Nat) (k : Pkt) (s : State) : Within { port := true } s (sendPkt p k s) := by
  unfold sendPkt
  repeat' (first
    | exact rfl
    | exact Or.inl rfl
    | exact Or.inr rfl
    | exact And.intro rfl (And.intro rfl rfl)
    | exact Or.inl ⟨rfl, rfl⟩
    | exact Or.inr (Or.inl ⟨rfl, rfl⟩)
    | exact Or.inr (Or.inl ⟨rfl, rfl, rfl, rfl⟩)
    | exact Or.inr (Or.inr rfl)
    | with_reducible assumption
    | with_reducible exact Within.refl _ _
    | (intro _ _ _ _)
    | (intro _ _ _)
    | (intro _ _)
    | (intro _)
    | with_reducible apply w_ite
    | with_reducible apply w_foldl
    | with_reducible apply w_foldl2
    | with_reducible apply Within.to (modPort_within ..))

theorem sendAll_within (op : BitVec 8) (body : BitVec 86) (s : State) : Within { port := true } s (sendAll op body s) := by
  unfold sendAll
  repeat' (first
    | exact rfl
    | exact Or.inl rfl
    | exact Or.inr rfl
    | exact And.intro rfl (And.intro rfl rfl)
    | exact Or.inl ⟨rfl, rfl⟩
    | exact Or.inr (Or.inl ⟨rfl, rfl⟩)
    | exact Or.inr (Or.inl ⟨rfl, rfl, rfl, rfl⟩)
    | exact Or.inr (Or.inr rfl)
    | with_reducible assumption
    | with_reducible exact Within.refl _ _
    | (intro _ _ _ _)
    | (intro _ _ _)
    | (intro _ _)
    | (intro _)
    | with_reducible apply w_ite
    | with_reducible apply w_foldl
    | with_reducible apply w_foldl2
    | with_reducible apply Within.to (sendPkt_within ..))

theorem refreshPA_within (s : State) : Within { aon := true, port := true } s (refreshPA s) := by
  unfold refreshPA
  repeat' (first
    | exact rfl
    | exact Or.inl rfl
    | exact Or.inr rfl
    | exact And.intro rfl (And.intro rfl rfl)
    | exact Or.inl ⟨rfl, rfl⟩
    | exact Or.inr (Or.inl ⟨rfl, rfl⟩)
    | exact Or.inr (Or.inl ⟨rfl, rfl, rfl, rfl⟩)
    | exact Or.inr (Or.inr rfl)
    | with_reducible assumption
    | with_reducible exact Within.refl _ _
    | (intro _ _ _ _)
    | (intro _ _ _)
    | (intro _ _)
    | (intro _)
    | with_reducible apply w_ite
    | with_reducible apply w_foldl
    | with_reducible apply w_foldl2
    | with_reducible apply Within.to (sendAll_within ..)
    | with_reducible apply w_ite_snd
    | dsimp only
    | split
    | with_reducible refine w_aon ?_ ?_ ?_)

theorem changeMode_within (code : BitVec 8) (m : Mode) (s : State) : Within { aon := true, mode := true, log := true, ev := true, reins := true, port := true, mgt := true } s (changeMode code m s) := by
  unfold changeMode
  repeat' (first
    | exact rfl
    | exact Or.inl rfl
    | exact Or.inr rfl
    | exact And.intro rfl (And.intro rfl rfl)
    | exact Or.inl ⟨rfl, rfl⟩
    | exact Or.inr (Or.inl ⟨rfl, rfl⟩)
    | exact Or.inr (Or.inl ⟨rfl, rfl, rfl, rfl⟩)
    | exact Or.inr (Or.inr rfl)
    | with_reducible assumption
    | with_reducible exact Within.refl _ _
    | (intro _ _ _ _)
    | (intro _ _ _)
    | (intro _ _)
    | (intro _)
    | with_reducible apply w_ite
    | with_reducible apply w_foldl
    | with_reducible apply w_foldl2
    | with_reducible apply Within.to (coreSupply_within ..)
    | with_reducible apply Within.to (logIt_within ..)
    | with_reducible apply Within.to (refreshPA_within ..)
    | with_reducible apply w_ite_snd
    | dsimp only
    | split
    | with_reducible refine w_reins ?_ ?_
    | with_reducible refine w_upd ?_ ?_ ?_ ?_ ?_ ?_ ?_ ?_ ?_ ?_ ?_ ?_ ?_ ?_ ?_ ?_ ?_ ?_ ?_ ?_ ?_ ?_ ?_)

end Sys2Proof.Laws
end

