-- ==== Sys2Proof/Laws/WBudgets.lean ====
section
/-! SUPPORT. What each operation of Machine/Budgets.lean may change. -/

namespace Sys2Proof.Laws

open Sys2Proof Sys2Proof.Machine

theorem countUse_within (inst : Nat) (c : BitVec 8) (n : Nat) (s : State) : Within { reins := true } s (countUse inst c n s) := by
  unfold countUse
  repeat' (first
    | exact rfl
    | exact Or.inl rfl
    | exact Or.inr rfl
    | exact And.intro rfl (And.intro rfl rfl)
    | exact Or.inl ⟨rfl, rfl⟩
    | exact Or.inr (Or.inl ⟨rfl, rfl⟩)
    | exact Or.inr (Or.inl ⟨rfl, rfl, rfl, rfl⟩)
    | exact Or.inr (Or.inr rfl)
    | with_reducible assumption
    | with_reducible exact Within.refl _ _
    | (intro _ _ _ _)
    | (intro _ _ _)
    | (intro _ _)
    | (intro _)
    | with_reducible apply w_ite
    | with_reducible apply w_foldl
    | with_reducible apply w_foldl2
    | with_reducible apply w_ite_snd
    | dsimp only
    | split
    | with_reducible refine w_reins ?_ ?_)

theorem classEv_within (c : BitVec 8) (k n : Nat) (s : State) : Within { ev := true, mgt := true } s (classEv c k n s) := by
  unfold classEv
  repeat' (first
    | exact rfl
    | exact Or.inl rfl
    | exact Or.inr rfl
    | exact And.intro rfl (And.intro rfl rfl)
    | exact Or.inl ⟨rfl, rfl⟩
    | exact Or.inr (Or.inl ⟨rfl, rfl⟩)
    | exact Or.inr (Or.inl ⟨rfl, rfl, rfl, rfl⟩)
    | exact Or.inr (Or.inr rfl)
    | with_reducible assumption
    | with_reducible exact Within.refl _ _
    | (intro _ _ _ _)
    | (intro _ _ _)
    | (intro _ _)
    | (intro _)
    | with_reducible apply w_ite
    | with_reducible apply w_foldl
    | with_reducible apply w_foldl2
    | with_reducible apply Within.to (evAdd_within ..))

theorem judgeDue_within (cls : BitVec 8) (d : Nat) (s : State) : Within { ev := true, mgt := true } s (judgeDue cls d s) := by
  unfold judgeDue
  repeat' (first
    | exact rfl
    | exact Or.inl rfl
    | exact Or.inr rfl
    | exact And.intro rfl (And.intro rfl rfl)
    | exact Or.inl ⟨rfl, rfl⟩
    | exact Or.inr (Or.inl ⟨rfl, rfl⟩)
    | exact Or.inr (Or.inl ⟨rfl, rfl, rfl, rfl⟩)
    | exact Or.inr (Or.inr rfl)
    | with_reducible assumption
    | with_reducible exact Within.refl _ _
    | (intro _ _ _ _)
    | (intro _ _ _)
    | (intro _ _)
    | (intro _)
    | with_reducible apply w_ite
    | with_reducible apply w_foldl
    | with_reducible apply w_foldl2
    | with_reducible apply Within.to (classEv_within ..))

theorem workDone_within (cls : BitVec 8) (due : Option Nat) (s : State) : Within { ev := true, mgt := true } s (workDone cls due s) := by
  unfold workDone
  repeat' (first
    | exact rfl
    | exact Or.inl rfl
    | exact Or.inr rfl
    | exact And.intro rfl (And.intro rfl rfl)
    | exact Or.inl ⟨rfl, rfl⟩
    | exact Or.inr (Or.inl ⟨rfl, rfl⟩)
    | exact Or.inr (Or.inl ⟨rfl, rfl, rfl, rfl⟩)
    | exact Or.inr (Or.inr rfl)
    | with_reducible assumption
    | with_reducible exact Within.refl _ _
    | (intro _ _ _ _)
    | (intro _ _ _)
    | (intro _ _)
    | (intro _)
    | with_reducible apply w_ite
    | with_reducible apply w_foldl
    | with_reducible apply w_foldl2
    | with_reducible apply Within.to (judgeDue_within ..)
    | with_reducible apply w_ite_snd
    | dsimp only
    | split)

theorem countXfer_within (ssd : Nat) (c : BitVec 8) (n : Nat) (s : State) : Within { reins := true } s (countXfer ssd c n s) := by
  unfold countXfer
  repeat' (first
    | exact rfl
    | exact Or.inl rfl
    | exact Or.inr rfl
    | exact And.intro rfl (And.intro rfl rfl)
    | exact Or.inl ⟨rfl, rfl⟩
    | exact Or.inr (Or.inl ⟨rfl, rfl⟩)
    | exact Or.inr (Or.inl ⟨rfl, rfl, rfl, rfl⟩)
    | exact Or.inr (Or.inr rfl)
    | with_reducible assumption
    | with_reducible exact Within.refl _ _
    | (intro _ _ _ _)
    | (intro _ _ _)
    | (intro _ _)
    | (intro _)
    | with_reducible apply w_ite
    | with_reducible apply w_foldl
    | with_reducible apply w_foldl2
    | with_reducible apply Within.to (countUse_within ..))

end Sys2Proof.Laws
end

