-- ==== Sys2Proof/Laws/WStore.lean ====
section
/-! SUPPORT. What each operation of Machine/Store.lean may change. -/

namespace Sys2Proof.Laws

open Sys2Proof Sys2Proof.Machine

theorem storeWrite_within (c : Nat) (q : DramReq) (s : State) : Within { ev := true, dram := true, mem := true, reins := true, mgt := true } s (storeWrite c q s) := by
  unfold storeWrite
  repeat' (first
    | exact rfl
    | exact Or.inl rfl
    | exact Or.inr rfl
    | exact And.intro rfl (And.intro rfl rfl)
    | exact Or.inl ⟨rfl, rfl⟩
    | exact Or.inr (Or.inl ⟨rfl, rfl⟩)
    | exact Or.inr (Or.inl ⟨rfl, rfl, rfl, rfl⟩)
    | exact Or.inr (Or.inr rfl)
    | with_reducible assumption
    | with_reducible exact Within.refl _ _
    | (intro _ _ _ _)
    | (intro _ _ _)
    | (intro _ _)
    | (intro _)
    | with_reducible apply w_ite
    | with_reducible apply w_foldl
    | with_reducible apply w_foldl2
    | with_reducible apply Within.to (countUse_within ..)
    | with_reducible apply Within.to (evDch_within ..)
    | with_reducible apply w_ite_snd
    | with_reducible refine w_mem ?_ (fun w => by first | exact writeStored_wf _ _ _ w | exact writeAll_wf _ _ w) ?_ ?_ ?_ ?_ ?_ ?_ ?_ ?_ ?_ ?_ ?_ ?_ ?_ ?_ ?_ ?_ ?_ ?_ ?_ ?_ ?_)

theorem popWrite_within (c : Nat) (s : State) : Within { ev := true, dram := true, mem := true, reins := true, mgt := true } s (popWrite c s) := by
  unfold popWrite
  repeat' (first
    | exact rfl
    | exact Or.inl rfl
    | exact Or.inr rfl
    | exact And.intro rfl (And.intro rfl rfl)
    | exact Or.inl ⟨rfl, rfl⟩
    | exact Or.inr (Or.inl ⟨rfl, rfl⟩)
    | exact Or.inr (Or.inl ⟨rfl, rfl, rfl, rfl⟩)
    | exact Or.inr (Or.inr rfl)
    | with_reducible assumption
    | with_reducible exact Within.refl _ _
    | (intro _ _ _ _)
    | (intro _ _ _)
    | (intro _ _)
    | (intro _)
    | with_reducible apply w_ite
    | with_reducible apply w_foldl
    | with_reducible apply w_foldl2
    | with_reducible apply Within.to (modChan_within ..)
    | with_reducible apply Within.to (storeWrite_within ..)
    | with_reducible apply w_ite_snd
    | dsimp only
    | split)

theorem chargeWrites_within (w : Work) (old s : State) : Within { dram := true } s (chargeWrites w old s) := by
  unfold chargeWrites
  repeat' (first
    | exact rfl
    | exact Or.inl rfl
    | exact Or.inr rfl
    | exact And.intro rfl (And.intro rfl rfl)
    | exact Or.inl ⟨rfl, rfl⟩
    | exact Or.inr (Or.inl ⟨rfl, rfl⟩)
    | exact Or.inr (Or.inl ⟨rfl, rfl, rfl, rfl⟩)
    | exact Or.inr (Or.inr rfl)
    | with_reducible assumption
    | with_reducible exact Within.refl _ _
    | (intro _ _ _ _)
    | (intro _ _ _)
    | (intro _ _)
    | (intro _)
    | with_reducible apply w_ite
    | with_reducible apply w_foldl
    | with_reducible apply w_foldl2
    | with_reducible apply w_ite_snd
    | dsimp only
    | split
    | with_reducible refine w_dram ?_ ?_ ?_)

theorem doWork_within {p : Parts} (hp : Parts.le { dram := true } p = true) (w : Work) (f : State → State) (s : State)
    (h1 : ∀ u, Within p u (f u)) : Within p s (doWork w f s) := by
  unfold doWork
  repeat' (first
    | exact rfl
    | exact Or.inl rfl
    | exact Or.inr rfl
    | exact And.intro rfl (And.intro rfl rfl)
    | exact Or.inl ⟨rfl, rfl⟩
    | exact Or.inr (Or.inl ⟨rfl, rfl⟩)
    | exact Or.inr (Or.inl ⟨rfl, rfl, rfl, rfl⟩)
    | exact Or.inr (Or.inr rfl)
    | with_reducible assumption
    | with_reducible exact Within.refl _ _
    | (intro _ _ _ _)
    | (intro _ _ _)
    | (intro _ _)
    | (intro _)
    | with_reducible apply w_ite
    | with_reducible apply w_foldl
    | with_reducible apply w_foldl2
    | with_reducible apply Within.to (chargeWrites_within ..)
    | with_reducible apply w_ite_snd
    | with_reducible apply Within.to (h1 ..)
    | exact Parts.le_refl _)

theorem markOver_within (addr : Nat) (s : State) : Within { dram := true } s (markOver addr s) := by
  unfold markOver
  repeat' (first
    | exact rfl
    | exact Or.inl rfl
    | exact Or.inr rfl
    | exact And.intro rfl (And.intro rfl rfl)
    | exact Or.inl ⟨rfl, rfl⟩
    | exact Or.inr (Or.inl ⟨rfl, rfl⟩)
    | exact Or.inr (Or.inl ⟨rfl, rfl, rfl, rfl⟩)
    | exact Or.inr (Or.inr rfl)
    | with_reducible assumption
    | with_reducible exact Within.refl _ _
    | (intro _ _ _ _)
    | (intro _ _ _)
    | (intro _ _)
    | (intro _)
    | with_reducible apply w_ite
    | with_reducible apply w_foldl
    | with_reducible apply w_foldl2
    | with_reducible apply w_ite_snd
    | dsimp only
    | split
    | with_reducible refine w_dram ?_ ?_ ?_)

theorem dramWrite_within (addr : Nat) (st : BitVec 640) (s : State) : Within { ev := true, dram := true, mem := true, reins := true, mgt := true } s (dramWrite addr st s) := by
  unfold dramWrite
  repeat' (first
    | exact rfl
    | exact Or.inl rfl
    | exact Or.inr rfl
    | exact And.intro rfl (And.intro rfl rfl)
    | exact Or.inl ⟨rfl, rfl⟩
    | exact Or.inr (Or.inl ⟨rfl, rfl⟩)
    | exact Or.inr (Or.inl ⟨rfl, rfl, rfl, rfl⟩)
    | exact Or.inr (Or.inr rfl)
    | with_reducible assumption
    | with_reducible exact Within.refl _ _
    | (intro _ _ _ _)
    | (intro _ _ _)
    | (intro _ _)
    | (intro _)
    | with_reducible apply w_ite
    | with_reducible apply w_foldl
    | with_reducible apply w_foldl2
    | with_reducible apply Within.to (evDch_within ..)
    | with_reducible apply Within.to (markOver_within ..)
    | with_reducible apply Within.to (modChan_within ..)
    | with_reducible apply Within.to (popWrite_within ..)
    | with_reducible apply w_ite_snd
    | with_reducible refine w_mem ?_ (fun w => by first | exact writeStored_wf _ _ _ w | exact writeAll_wf _ _ w) ?_ ?_ ?_ ?_ ?_ ?_ ?_ ?_ ?_ ?_ ?_ ?_ ?_ ?_ ?_ ?_ ?_ ?_ ?_ ?_ ?_
    | dsimp only
    | split)

theorem correctiveRewrite_within (addr : Nat) (st : BitVec 640) (s : State) : Within { ev := true, dram := true, mem := true, reins := true, mgt := true } s (correctiveRewrite addr st s) := by
  unfold correctiveRewrite
  repeat' (first
    | exact rfl
    | exact Or.inl rfl
    | exact Or.inr rfl
    | exact And.intro rfl (And.intro rfl rfl)
    | exact Or.inl ⟨rfl, rfl⟩
    | exact Or.inr (Or.inl ⟨rfl, rfl⟩)
    | exact Or.inr (Or.inl ⟨rfl, rfl, rfl, rfl⟩)
    | exact Or.inr (Or.inr rfl)
    | with_reducible assumption
    | with_reducible exact Within.refl _ _
    | (intro _ _ _ _)
    | (intro _ _ _)
    | (intro _ _)
    | (intro _)
    | with_reducible apply w_ite
    | with_reducible apply w_foldl
    | with_reducible apply w_foldl2
    | with_reducible apply Within.to (evDch_within ..)
    | with_reducible apply Within.to (modChan_within ..)
    | with_reducible apply Within.to (popWrite_within ..)
    | with_reducible apply w_ite_snd
    | with_reducible refine w_mem ?_ (fun w => by first | exact writeStored_wf _ _ _ w | exact writeAll_wf _ _ w) ?_ ?_ ?_ ?_ ?_ ?_ ?_ ?_ ?_ ?_ ?_ ?_ ?_ ?_ ?_ ?_ ?_ ?_ ?_ ?_ ?_
    | dsimp only
    | split)

theorem drainWrites_within (c : Nat) (s : State) : Within { ev := true, dram := true, mem := true, reins := true, mgt := true } s (drainWrites c s) := by
  unfold drainWrites
  repeat' (first
    | exact rfl
    | exact Or.inl rfl
    | exact Or.inr rfl
    | exact And.intro rfl (And.intro rfl rfl)
    | exact Or.inl ⟨rfl, rfl⟩
    | exact Or.inr (Or.inl ⟨rfl, rfl⟩)
    | exact Or.inr (Or.inl ⟨rfl, rfl, rfl, rfl⟩)
    | exact Or.inr (Or.inr rfl)
    | with_reducible assumption
    | with_reducible exact Within.refl _ _
    | (intro _ _ _ _)
    | (intro _ _ _)
    | (intro _ _)
    | (intro _)
    | with_reducible apply w_ite
    | with_reducible apply w_foldl
    | with_reducible apply w_foldl2
    | with_reducible apply Within.to (modChan_within ..)
    | with_reducible apply Within.to (storeWrite_within ..))

theorem pushRead_within (c : Nat) (q : DramReq) (s : State) : Within { dram := true } s (pushRead c q s) := by
  unfold pushRead
  repeat' (first
    | exact rfl
    | exact Or.inl rfl
    | exact Or.inr rfl
    | exact And.intro rfl (And.intro rfl rfl)
    | exact Or.inl ⟨rfl, rfl⟩
    | exact Or.inr (Or.inl ⟨rfl, rfl⟩)
    | exact Or.inr (Or.inl ⟨rfl, rfl, rfl, rfl⟩)
    | exact Or.inr (Or.inr rfl)
    | with_reducible assumption
    | with_reducible exact Within.refl _ _
    | (intro _ _ _ _)
    | (intro _ _ _)
    | (intro _ _)
    | (intro _)
    | with_reducible apply w_ite
    | with_reducible apply w_foldl
    | with_reducible apply w_foldl2
    | with_reducible apply Within.to (modChan_within ..))

theorem dramRead_within (addr line : Nat) (hint : BitVec 2) (due : Option Nat) (cls : BitVec 8) (s : State) : Within { ev := true, dram := true, mgt := true } s (dramRead addr line hint due cls s) := by
  unfold dramRead
  repeat' (first
    | exact rfl
    | exact Or.inl rfl
    | exact Or.inr rfl
    | exact And.intro rfl (And.intro rfl rfl)
    | exact Or.inl ⟨rfl, rfl⟩
    | exact Or.inr (Or.inl ⟨rfl, rfl⟩)
    | exact Or.inr (Or.inl ⟨rfl, rfl, rfl, rfl⟩)
    | exact Or.inr (Or.inr rfl)
    | with_reducible assumption
    | with_reducible exact Within.refl _ _
    | (intro _ _ _ _)
    | (intro _ _ _)
    | (intro _ _)
    | (intro _)
    | with_reducible apply w_ite
    | with_reducible apply w_foldl
    | with_reducible apply w_foldl2
    | with_reducible apply Within.to (evDch_within ..)
    | with_reducible apply Within.to (pushRead_within ..)
    | with_reducible apply w_ite_snd
    | dsimp only
    | split
    | with_reducible refine w_dram ?_ ?_ ?_)

theorem holdNode_within (kt : Bool) (level idx : Nat) (x : BitVec 512) (s : State) : Within { quay := true, dram := true } s (holdNode kt level idx x s) := by
  unfold holdNode
  repeat' (first
    | exact rfl
    | exact Or.inl rfl
    | exact Or.inr rfl
    | exact And.intro rfl (And.intro rfl rfl)
    | exact Or.inl ⟨rfl, rfl⟩
    | exact Or.inr (Or.inl ⟨rfl, rfl⟩)
    | exact Or.inr (Or.inl ⟨rfl, rfl, rfl, rfl⟩)
    | exact Or.inr (Or.inr rfl)
    | with_reducible assumption
    | with_reducible exact Within.refl _ _
    | (intro _ _ _ _)
    | (intro _ _ _)
    | (intro _ _)
    | (intro _)
    | with_reducible apply w_ite
    | with_reducible apply w_foldl
    | with_reducible apply w_foldl2
    | with_reducible apply w_ite_snd
    | dsimp only
    | split
    | with_reducible refine w_quay ?_ ?_
    | with_reducible refine w_dram ?_ ?_ ?_)

theorem setNode_within (kt : Bool) (level idx : Nat) (x : BitVec 512) (s : State) : Within { quay := true, dram := true } s (setNode kt level idx x s) := by
  unfold setNode
  repeat' (first
    | exact rfl
    | exact Or.inl rfl
    | exact Or.inr rfl
    | exact And.intro rfl (And.intro rfl rfl)
    | exact Or.inl ⟨rfl, rfl⟩
    | exact Or.inr (Or.inl ⟨rfl, rfl⟩)
    | exact Or.inr (Or.inl ⟨rfl, rfl, rfl, rfl⟩)
    | exact Or.inr (Or.inr rfl)
    | with_reducible assumption
    | with_reducible exact Within.refl _ _
    | (intro _ _ _ _)
    | (intro _ _ _)
    | (intro _ _)
    | (intro _)
    | with_reducible apply w_ite
    | with_reducible apply w_foldl
    | with_reducible apply w_foldl2
    | with_reducible apply Within.to (holdNode_within ..)
    | with_reducible apply w_ite_snd
    | dsimp only
    | split
    | with_reducible refine w_quay ?_ ?_)

theorem storeNode_within (kt : Bool) (level idx : Nat) (ctr : BitVec 64 × BitVec 7) (x : BitVec 512) (poison : Bool) (s : State) : Within { ev := true, dram := true, mem := true, reins := true, mgt := true } s (storeNode kt level idx ctr x poison s) := by
  unfold storeNode
  repeat' (first
    | exact rfl
    | exact Or.inl rfl
    | exact Or.inr rfl
    | exact And.intro rfl (And.intro rfl rfl)
    | exact Or.inl ⟨rfl, rfl⟩
    | exact Or.inr (Or.inl ⟨rfl, rfl⟩)
    | exact Or.inr (Or.inl ⟨rfl, rfl, rfl, rfl⟩)
    | exact Or.inr (Or.inr rfl)
    | with_reducible assumption
    | with_reducible exact Within.refl _ _
    | (intro _ _ _ _)
    | (intro _ _ _)
    | (intro _ _)
    | (intro _)
    | with_reducible apply w_ite
    | with_reducible apply w_foldl
    | with_reducible apply w_foldl2
    | with_reducible apply Within.to (dramWrite_within ..)
    | with_reducible apply w_ite_snd
    | with_reducible refine w_snd (by assumption) ?_
    | dsimp only
    | split)

theorem writeNode_within (kt : Bool) (level idx : Nat) (s : State) : Within { ev := true, sec := true, quay := true, dram := true, mem := true, reins := true, mgt := true } s (writeNode kt level idx s) := by
  unfold writeNode
  repeat' (first
    | exact rfl
    | exact Or.inl rfl
    | exact Or.inr rfl
    | exact And.intro rfl (And.intro rfl rfl)
    | exact Or.inl ⟨rfl, rfl⟩
    | exact Or.inr (Or.inl ⟨rfl, rfl⟩)
    | exact Or.inr (Or.inl ⟨rfl, rfl, rfl, rfl⟩)
    | exact Or.inr (Or.inr rfl)
    | with_reducible assumption
    | with_reducible exact Within.refl _ _
    | (intro _ _ _ _)
    | (intro _ _ _)
    | (intro _ _)
    | (intro _)
    | with_reducible apply w_ite
    | with_reducible apply w_foldl
    | with_reducible apply w_foldl2
    | with_reducible apply Within.to (setNode_within ..)
    | with_reducible apply Within.to (storeNode_within ..)
    | with_reducible apply w_ite_snd
    | with_reducible refine w_snd (by assumption) ?_
    | dsimp only
    | split
    | with_reducible refine w_sec ?_ ?_
    | with_reducible refine w_quay ?_ ?_
    | with_reducible refine w_upd ?_ ?_ ?_ ?_ ?_ ?_ ?_ ?_ ?_ ?_ ?_ ?_ ?_ ?_ ?_ ?_ ?_ ?_ ?_ ?_ ?_ ?_ ?_)

theorem ctrRoom_within (n : Nat) (s : State) : Within { ev := true, sec := true, quay := true, dram := true, mem := true, reins := true, mgt := true } s (ctrRoom n s) := by
  induction n generalizing s with
  | zero =>
    unfold ctrRoom
    repeat' (first
      | exact rfl
      | exact Or.inl rfl
      | exact Or.inr rfl
      | exact And.intro rfl (And.intro rfl rfl)
      | exact Or.inl ⟨rfl, rfl⟩
      | exact Or.inr (Or.inl ⟨rfl, rfl⟩)
      | exact Or.inr (Or.inl ⟨rfl, rfl, rfl, rfl⟩)
      | exact Or.inr (Or.inr rfl)
      | with_reducible assumption
      | with_reducible exact Within.refl _ _
      | (intro _ _ _ _)
      | (intro _ _ _)
      | (intro _ _)
      | (intro _)
      | with_reducible apply w_ite
      | with_reducible apply w_foldl
      | with_reducible apply w_foldl2
      | with_reducible apply Within.to (writeNode_within ..)
      | with_reducible apply w_ite_snd
      | with_reducible apply Within.to (ih ..)
      | dsimp only
      | split
      | with_reducible refine w_quay ?_ ?_
      | with_reducible refine w_upd ?_ ?_ ?_ ?_ ?_ ?_ ?_ ?_ ?_ ?_ ?_ ?_ ?_ ?_ ?_ ?_ ?_ ?_ ?_ ?_ ?_ ?_ ?_)
  | succ n ih =>
    unfold ctrRoom
    repeat' (first
      | exact rfl
      | exact Or.inl rfl
      | exact Or.inr rfl
      | exact And.intro rfl (And.intro rfl rfl)
      | exact Or.inl ⟨rfl, rfl⟩
      | exact Or.inr (Or.inl ⟨rfl, rfl⟩)
      | exact Or.inr (Or.inl ⟨rfl, rfl, rfl, rfl⟩)
      | exact Or.inr (Or.inr rfl)
      | with_reducible assumption
      | with_reducible exact Within.refl _ _
      | (intro _ _ _ _)
      | (intro _ _ _)
      | (intro _ _)
      | (intro _)
      | with_reducible apply w_ite
      | with_reducible apply w_foldl
      | with_reducible apply w_foldl2
      | with_reducible apply Within.to (writeNode_within ..)
      | with_reducible apply w_ite_snd
      | with_reducible apply Within.to (ih ..)
      | dsimp only
      | split
      | with_reducible refine w_quay ?_ ?_
      | with_reducible refine w_upd ?_ ?_ ?_ ?_ ?_ ?_ ?_ ?_ ?_ ?_ ?_ ?_ ?_ ?_ ?_ ?_ ?_ ?_ ?_ ?_ ?_ ?_ ?_)

theorem writeManifest_within (m : Manifest) (s : State) : Within { led := true } s (writeManifest m s) := by
  unfold writeManifest
  repeat' (first
    | exact rfl
    | exact Or.inl rfl
    | exact Or.inr rfl
    | exact And.intro rfl (And.intro rfl rfl)
    | exact Or.inl ⟨rfl, rfl⟩
    | exact Or.inr (Or.inl ⟨rfl, rfl⟩)
    | exact Or.inr (Or.inl ⟨rfl, rfl, rfl, rfl⟩)
    | exact Or.inr (Or.inr rfl)
    | with_reducible assumption
    | with_reducible exact Within.refl _ _
    | (intro _ _ _ _)
    | (intro _ _ _)
    | (intro _ _)
    | (intro _)
    | with_reducible apply w_ite
    | with_reducible apply w_foldl
    | with_reducible apply w_foldl2
    | with_reducible apply w_ite_snd
    | dsimp only
    | split
    | with_reducible refine w_led ?_ ?_)

theorem setKeyEntry_within (k : BitVec 20) (e : BitVec 512) (s : State) : Within { quay := true, dram := true } s (setKeyEntry k e s) := by
  unfold setKeyEntry
  repeat' (first
    | exact rfl
    | exact Or.inl rfl
    | exact Or.inr rfl
    | exact And.intro rfl (And.intro rfl rfl)
    | exact Or.inl ⟨rfl, rfl⟩
    | exact Or.inr (Or.inl ⟨rfl, rfl⟩)
    | exact Or.inr (Or.inl ⟨rfl, rfl, rfl, rfl⟩)
    | exact Or.inr (Or.inr rfl)
    | with_reducible assumption
    | with_reducible exact Within.refl _ _
    | (intro _ _ _ _)
    | (intro _ _ _)
    | (intro _ _)
    | (intro _)
    | with_reducible apply w_ite
    | with_reducible apply w_foldl
    | with_reducible apply w_foldl2
    | with_reducible apply Within.to (setNode_within ..))

theorem keyCount_within (k : BitVec 20) (up : Bool) (s : State) : Within { quay := true, dram := true } s (keyCount k up s) := by
  unfold keyCount
  repeat' (first
    | exact rfl
    | exact Or.inl rfl
    | exact Or.inr rfl
    | exact And.intro rfl (And.intro rfl rfl)
    | exact Or.inl ⟨rfl, rfl⟩
    | exact Or.inr (Or.inl ⟨rfl, rfl⟩)
    | exact Or.inr (Or.inl ⟨rfl, rfl, rfl, rfl⟩)
    | exact Or.inr (Or.inr rfl)
    | with_reducible assumption
    | with_reducible exact Within.refl _ _
    | (intro _ _ _ _)
    | (intro _ _ _)
    | (intro _ _)
    | (intro _)
    | with_reducible apply w_ite
    | with_reducible apply w_foldl
    | with_reducible apply w_foldl2
    | with_reducible apply Within.to (setKeyEntry_within ..))

theorem setCtr_within (page : Nat) (c : BitVec 512) (s : State) : Within { ev := true, sec := true, quay := true, dram := true, mem := true, reins := true, mgt := true } s (setCtr page c s) := by
  unfold setCtr
  repeat' (first
    | exact rfl
    | exact Or.inl rfl
    | exact Or.inr rfl
    | exact And.intro rfl (And.intro rfl rfl)
    | exact Or.inl ⟨rfl, rfl⟩
    | exact Or.inr (Or.inl ⟨rfl, rfl⟩)
    | exact Or.inr (Or.inl ⟨rfl, rfl, rfl, rfl⟩)
    | exact Or.inr (Or.inr rfl)
    | with_reducible assumption
    | with_reducible exact Within.refl _ _
    | (intro _ _ _ _)
    | (intro _ _ _)
    | (intro _ _)
    | (intro _)
    | with_reducible apply w_ite
    | with_reducible apply w_foldl
    | with_reducible apply w_foldl2
    | with_reducible apply Within.to (ctrRoom_within ..)
    | with_reducible apply Within.to (setNode_within ..))

theorem setDesc_within (page : Nat) (d : BitVec 128) (s : State) : Within { aon := true, quay := true, dram := true, port := true } s (setDesc page d s) := by
  unfold setDesc
  repeat' (first
    | exact rfl
    | exact Or.inl rfl
    | exact Or.inr rfl
    | exact And.intro rfl (And.intro rfl rfl)
    | exact Or.inl ⟨rfl, rfl⟩
    | exact Or.inr (Or.inl ⟨rfl, rfl⟩)
    | exact Or.inr (Or.inl ⟨rfl, rfl, rfl, rfl⟩)
    | exact Or.inr (Or.inr rfl)
    | with_reducible assumption
    | with_reducible exact Within.refl _ _
    | (intro _ _ _ _)
    | (intro _ _ _)
    | (intro _ _)
    | (intro _)
    | with_reducible apply w_ite
    | with_reducible apply w_foldl
    | with_reducible apply w_foldl2
    | with_reducible apply Within.to (keyCount_within ..)
    | with_reducible apply Within.to (refreshPA_within ..)
    | with_reducible apply w_ite_snd
    | dsimp only
    | split
    | with_reducible refine w_quay ?_ ?_
    | with_reducible refine w_dram ?_ ?_ ?_
    | with_reducible refine w_upd ?_ ?_ ?_ ?_ ?_ ?_ ?_ ?_ ?_ ?_ ?_ ?_ ?_ ?_ ?_ ?_ ?_ ?_ ?_ ?_ ?_ ?_ ?_)

theorem modDesc_within (page : Nat) (f : BitVec 128 → BitVec 128) (s : State) : Within { aon := true, quay := true, dram := true, port := true } s (modDesc page f s) := by
  unfold modDesc
  repeat' (first
    | exact rfl
    | exact Or.inl rfl
    | exact Or.inr rfl
    | exact And.intro rfl (And.intro rfl rfl)
    | exact Or.inl ⟨rfl, rfl⟩
    | exact Or.inr (Or.inl ⟨rfl, rfl⟩)
    | exact Or.inr (Or.inl ⟨rfl, rfl, rfl, rfl⟩)
    | exact Or.inr (Or.inr rfl)
    | with_reducible assumption
    | with_reducible exact Within.refl _ _
    | (intro _ _ _ _)
    | (intro _ _ _)
    | (intro _ _)
    | (intro _)
    | with_reducible apply w_ite
    | with_reducible apply w_foldl
    | with_reducible apply w_foldl2
    | with_reducible apply Within.to (setDesc_within ..))

theorem burnMajor_within (page : Nat) (s : State) : Within { ev := true, sec := true, quay := true, dram := true, mem := true, reins := true, mgt := true } s (burnMajor page s) := by
  unfold burnMajor
  repeat' (first
    | exact rfl
    | exact Or.inl rfl
    | exact Or.inr rfl
    | exact And.intro rfl (And.intro rfl rfl)
    | exact Or.inl ⟨rfl, rfl⟩
    | exact Or.inr (Or.inl ⟨rfl, rfl⟩)
    | exact Or.inr (Or.inl ⟨rfl, rfl, rfl, rfl⟩)
    | exact Or.inr (Or.inr rfl)
    | with_reducible assumption
    | with_reducible exact Within.refl _ _
    | (intro _ _ _ _)
    | (intro _ _ _)
    | (intro _ _)
    | (intro _)
    | with_reducible apply w_ite
    | with_reducible apply w_foldl
    | with_reducible apply w_foldl2
    | with_reducible apply Within.to (setCtr_within ..))

theorem logKeyGone_within (page : Nat) (s : State) : Within { log := true, ev := true, mgt := true } s (logKeyGone page s) := by
  unfold logKeyGone
  repeat' (first
    | exact rfl
    | exact Or.inl rfl
    | exact Or.inr rfl
    | exact And.intro rfl (And.intro rfl rfl)
    | exact Or.inl ⟨rfl, rfl⟩
    | exact Or.inr (Or.inl ⟨rfl, rfl⟩)
    | exact Or.inr (Or.inl ⟨rfl, rfl, rfl, rfl⟩)
    | exact Or.inr (Or.inr rfl)
    | with_reducible assumption
    | with_reducible exact Within.refl _ _
    | (intro _ _ _ _)
    | (intro _ _ _)
    | (intro _ _)
    | (intro _)
    | with_reducible apply w_ite
    | with_reducible apply w_foldl
    | with_reducible apply w_foldl2
    | with_reducible apply Within.to (logIt_within ..))

theorem setFrame_within (dfa : Nat) (e : BitVec 64) (s : State) : Within { dram := true } s (setFrame dfa e s) := by
  unfold setFrame
  repeat' (first
    | exact rfl
    | exact Or.inl rfl
    | exact Or.inr rfl
    | exact And.intro rfl (And.intro rfl rfl)
    | exact Or.inl ⟨rfl, rfl⟩
    | exact Or.inr (Or.inl ⟨rfl, rfl⟩)
    | exact Or.inr (Or.inl ⟨rfl, rfl, rfl, rfl⟩)
    | exact Or.inr (Or.inr rfl)
    | with_reducible assumption
    | with_reducible exact Within.refl _ _
    | (intro _ _ _ _)
    | (intro _ _ _)
    | (intro _ _)
    | (intro _)
    | with_reducible apply w_ite
    | with_reducible apply w_foldl
    | with_reducible apply w_foldl2
    | with_reducible apply w_ite_snd
    | dsimp only
    | split
    | with_reducible refine w_dram ?_ ?_ ?_)

theorem takeFrame_within (die : Nat) (s : State) : WO2 { dram := true } s (takeFrame die s) := by
  unfold takeFrame
  repeat' (first
    | exact rfl
    | exact Or.inl rfl
    | exact Or.inr rfl
    | exact And.intro rfl (And.intro rfl rfl)
    | exact Or.inl ⟨rfl, rfl⟩
    | exact Or.inr (Or.inl ⟨rfl, rfl⟩)
    | exact Or.inr (Or.inl ⟨rfl, rfl, rfl, rfl⟩)
    | exact Or.inr (Or.inr rfl)
    | with_reducible assumption
    | with_reducible exact Within.refl _ _
    | (intro _ _ _ _)
    | (intro _ _ _)
    | (intro _ _)
    | (intro _)
    | with_reducible apply w_ite
    | with_reducible apply w_foldl
    | with_reducible apply w_foldl2
    | with_reducible exact wo_none
    | with_reducible exact wo2_none
    | with_reducible refine wo2_eq (by assumption) ?_
    | with_reducible refine wo_eq (by assumption) ?_
    | with_reducible refine wo2_map ?_ ?_
    | with_reducible refine wo2_mapAny ?_
    | with_reducible refine wo_map2 ?_ ?_
    | with_reducible refine wo_mapS ?_ ?_
    | with_reducible refine wo_map ?_
    | with_reducible apply wo_findSome
    | (intro _)
    | with_reducible apply wo_some
    | with_reducible apply wo2_some
    | with_reducible apply wo_ite
    | with_reducible apply wo2_ite
    | with_reducible apply w_ite_snd
    | dsimp only
    | split
    | with_reducible refine w_dram ?_ ?_ ?_)

theorem allocFrame_within (die : Nat) (always : Bool) (s : State) : WO2 { dram := true } s (allocFrame die always s) := by
  unfold allocFrame
  repeat' (first
    | exact rfl
    | exact Or.inl rfl
    | exact Or.inr rfl
    | exact And.intro rfl (And.intro rfl rfl)
    | exact Or.inl ⟨rfl, rfl⟩
    | exact Or.inr (Or.inl ⟨rfl, rfl⟩)
    | exact Or.inr (Or.inl ⟨rfl, rfl, rfl, rfl⟩)
    | exact Or.inr (Or.inr rfl)
    | with_reducible assumption
    | with_reducible exact Within.refl _ _
    | (intro _ _ _ _)
    | (intro _ _ _)
    | (intro _ _)
    | (intro _)
    | with_reducible apply w_ite
    | with_reducible apply w_foldl
    | with_reducible apply w_foldl2
    | with_reducible exact wo_none
    | with_reducible exact wo2_none
    | with_reducible refine wo2_eq (by assumption) ?_
    | with_reducible refine wo_eq (by assumption) ?_
    | with_reducible refine wo2_map ?_ ?_
    | with_reducible refine wo2_mapAny ?_
    | with_reducible refine wo_map2 ?_ ?_
    | with_reducible refine wo_mapS ?_ ?_
    | with_reducible refine wo_map ?_
    | with_reducible apply wo_findSome
    | (intro _)
    | with_reducible apply wo_some
    | with_reducible apply wo2_some
    | with_reducible apply wo_ite
    | with_reducible apply wo2_ite
    | with_reducible apply wo2_to (takeFrame_within ..)
    | with_reducible apply w_ite_snd
    | with_reducible refine w_of_some2 (by assumption) ?_
    | dsimp only
    | split)

theorem markRetired_within (dfa : Nat) (s : State) : Within { dram := true } s (markRetired dfa s) := by
  unfold markRetired
  repeat' (first
    | exact rfl
    | exact Or.inl rfl
    | exact Or.inr rfl
    | exact And.intro rfl (And.intro rfl rfl)
    | exact Or.inl ⟨rfl, rfl⟩
    | exact Or.inr (Or.inl ⟨rfl, rfl⟩)
    | exact Or.inr (Or.inl ⟨rfl, rfl, rfl, rfl⟩)
    | exact Or.inr (Or.inr rfl)
    | with_reducible assumption
    | with_reducible exact Within.refl _ _
    | (intro _ _ _ _)
    | (intro _ _ _)
    | (intro _ _)
    | (intro _)
    | with_reducible apply w_ite
    | with_reducible apply w_foldl
    | with_reducible apply w_foldl2
    | with_reducible apply Within.to (setFrame_within ..)
    | with_reducible apply w_ite_snd
    | dsimp only
    | split
    | with_reducible refine w_dram ?_ ?_ ?_)

theorem freeFrame_within (dfa : Nat) (s : State) : Within { dram := true } s (freeFrame dfa s) := by
  unfold freeFrame
  repeat' (first
    | exact rfl
    | exact Or.inl rfl
    | exact Or.inr rfl
    | exact And.intro rfl (And.intro rfl rfl)
    | exact Or.inl ⟨rfl, rfl⟩
    | exact Or.inr (Or.inl ⟨rfl, rfl⟩)
    | exact Or.inr (Or.inl ⟨rfl, rfl, rfl, rfl⟩)
    | exact Or.inr (Or.inr rfl)
    | with_reducible assumption
    | with_reducible exact Within.refl _ _
    | (intro _ _ _ _)
    | (intro _ _ _)
    | (intro _ _)
    | (intro _)
    | with_reducible apply w_ite
    | with_reducible apply w_foldl
    | with_reducible apply w_foldl2
    | with_reducible apply Within.to (markRetired_within ..)
    | with_reducible apply Within.to (setFrame_within ..)
    | with_reducible apply w_ite_snd
    | dsimp only
    | split
    | with_reducible refine w_dram ?_ ?_ ?_)

theorem closeFullest_within (s : State) : Within { dram := true } s (closeFullest s) := by
  unfold closeFullest
  repeat' (first
    | exact rfl
    | exact Or.inl rfl
    | exact Or.inr rfl
    | exact And.intro rfl (And.intro rfl rfl)
    | exact Or.inl ⟨rfl, rfl⟩
    | exact Or.inr (Or.inl ⟨rfl, rfl⟩)
    | exact Or.inr (Or.inl ⟨rfl, rfl, rfl, rfl⟩)
    | exact Or.inr (Or.inr rfl)
    | with_reducible assumption
    | with_reducible exact Within.refl _ _
    | (intro _ _ _ _)
    | (intro _ _ _)
    | (intro _ _)
    | (intro _)
    | with_reducible apply w_ite
    | with_reducible apply w_foldl
    | with_reducible apply w_foldl2
    | with_reducible apply w_ite_snd
    | with_reducible refine w_snd (by assumption) ?_
    | dsimp only
    | split
    | with_reducible refine w_dram ?_ ?_ ?_)

theorem granFrame_within (die g : Nat) (always : Bool) (s : State) : WO2 { dram := true } s (granFrame die g always s) := by
  unfold granFrame
  repeat' (first
    | exact rfl
    | exact Or.inl rfl
    | exact Or.inr rfl
    | exact And.intro rfl (And.intro rfl rfl)
    | exact Or.inl ⟨rfl, rfl⟩
    | exact Or.inr (Or.inl ⟨rfl, rfl⟩)
    | exact Or.inr (Or.inl ⟨rfl, rfl, rfl, rfl⟩)
    | exact Or.inr (Or.inr rfl)
    | with_reducible assumption
    | with_reducible exact Within.refl _ _
    | (intro _ _ _ _)
    | (intro _ _ _)
    | (intro _ _)
    | (intro _)
    | with_reducible apply w_ite
    | with_reducible apply w_foldl
    | with_reducible apply w_foldl2
    | with_reducible exact wo_none
    | with_reducible exact wo2_none
    | with_reducible refine wo2_eq (by assumption) ?_
    | with_reducible refine wo_eq (by assumption) ?_
    | with_reducible refine wo2_map ?_ ?_
    | with_reducible refine wo2_mapAny ?_
    | with_reducible refine wo_map2 ?_ ?_
    | with_reducible refine wo_mapS ?_ ?_
    | with_reducible refine wo_map ?_
    | with_reducible apply wo_findSome
    | (intro _)
    | with_reducible apply wo_some
    | with_reducible apply wo2_some
    | with_reducible apply wo_ite
    | with_reducible apply wo2_ite
    | with_reducible apply wo2_to (allocFrame_within ..)
    | with_reducible apply Within.to (closeFullest_within ..)
    | with_reducible apply Within.to (setFrame_within ..)
    | with_reducible apply w_ite_snd
    | with_reducible refine w_of_some2 (by assumption) ?_
    | dsimp only
    | split
    | with_reducible refine w_dram ?_ ?_ ?_)

theorem placeRun_within (f page g : Nat) (s : State) : Within { dram := true } s (placeRun f page g s).2 := by
  unfold placeRun
  repeat' (first
    | exact rfl
    | exact Or.inl rfl
    | exact Or.inr rfl
    | exact And.intro rfl (And.intro rfl rfl)
    | exact Or.inl ⟨rfl, rfl⟩
    | exact Or.inr (Or.inl ⟨rfl, rfl⟩)
    | exact Or.inr (Or.inl ⟨rfl, rfl, rfl, rfl⟩)
    | exact Or.inr (Or.inr rfl)
    | with_reducible assumption
    | with_reducible exact Within.refl _ _
    | (intro _ _ _ _)
    | (intro _ _ _)
    | (intro _ _)
    | (intro _)
    | with_reducible apply w_ite
    | with_reducible apply w_foldl
    | with_reducible apply w_foldl2
    | with_reducible apply Within.to (setFrame_within ..)
    | with_reducible apply w_ite_snd
    | dsimp only
    | split
    | with_reducible refine w_dram ?_ ?_ ?_)

theorem freeRun_within (gaddr g : Nat) (s : State) : Within { dram := true } s (freeRun gaddr g s) := by
  unfold freeRun
  repeat' (first
    | exact rfl
    | exact Or.inl rfl
    | exact Or.inr rfl
    | exact And.intro rfl (And.intro rfl rfl)
    | exact Or.inl ⟨rfl, rfl⟩
    | exact Or.inr (Or.inl ⟨rfl, rfl⟩)
    | exact Or.inr (Or.inl ⟨rfl, rfl, rfl, rfl⟩)
    | exact Or.inr (Or.inr rfl)
    | with_reducible assumption
    | with_reducible exact Within.refl _ _
    | (intro _ _ _ _)
    | (intro _ _ _)
    | (intro _ _)
    | (intro _)
    | with_reducible apply w_ite
    | with_reducible apply w_foldl
    | with_reducible apply w_foldl2
    | with_reducible apply Within.to (freeFrame_within ..)
    | with_reducible apply Within.to (setFrame_within ..)
    | with_reducible apply w_ite_snd
    | dsimp only
    | split
    | with_reducible refine w_dram ?_ ?_ ?_)

theorem retireRun_within (gaddr : Nat) (sizes : List Nat) (s : State) : Within { dram := true, tier := true } s (retireRun gaddr sizes s) := by
  unfold retireRun
  repeat' (first
    | exact rfl
    | exact Or.inl rfl
    | exact Or.inr rfl
    | exact And.intro rfl (And.intro rfl rfl)
    | exact Or.inl ⟨rfl, rfl⟩
    | exact Or.inr (Or.inl ⟨rfl, rfl⟩)
    | exact Or.inr (Or.inl ⟨rfl, rfl, rfl, rfl⟩)
    | exact Or.inr (Or.inr rfl)
    | with_reducible assumption
    | with_reducible exact Within.refl _ _
    | (intro _ _ _ _)
    | (intro _ _ _)
    | (intro _ _)
    | (intro _)
    | with_reducible apply w_ite
    | with_reducible apply w_foldl
    | with_reducible apply w_foldl2
    | with_reducible apply Within.to (freeRun_within ..)
    | with_reducible apply w_ite_snd
    | with_reducible refine w_snd (by assumption) ?_
    | dsimp only
    | split
    | with_reducible refine w_tier ?_ ?_)

theorem putForm_within (addr : Nat) (f : Option (BitVec 640)) (s : State) : Within { ev := true, dram := true, mem := true, reins := true, mgt := true } s (putForm addr f s) := by
  unfold putForm
  repeat' (first
    | exact rfl
    | exact Or.inl rfl
    | exact Or.inr rfl
    | exact And.intro rfl (And.intro rfl rfl)
    | exact Or.inl ⟨rfl, rfl⟩
    | exact Or.inr (Or.inl ⟨rfl, rfl⟩)
    | exact Or.inr (Or.inl ⟨rfl, rfl, rfl, rfl⟩)
    | exact Or.inr (Or.inr rfl)
    | with_reducible assumption
    | with_reducible exact Within.refl _ _
    | (intro _ _ _ _)
    | (intro _ _ _)
    | (intro _ _)
    | (intro _)
    | with_reducible apply w_ite
    | with_reducible apply w_foldl
    | with_reducible apply w_foldl2
    | with_reducible apply Within.to (dramWrite_within ..)
    | with_reducible apply w_ite_snd
    | dsimp only
    | split)

theorem rewriteBerth_within (page : Nat) (new : Option (Nat × BitVec 512 × Bool)) (s : State) : Within { log := true, ev := true, sec := true, quay := true, dram := true, mem := true, reins := true, mgt := true } s (rewriteBerth page new s) := by
  unfold rewriteBerth
  repeat' (first
    | exact rfl
    | exact Or.inl rfl
    | exact Or.inr rfl
    | exact And.intro rfl (And.intro rfl rfl)
    | exact Or.inl ⟨rfl, rfl⟩
    | exact Or.inr (Or.inl ⟨rfl, rfl⟩)
    | exact Or.inr (Or.inl ⟨rfl, rfl, rfl, rfl⟩)
    | exact Or.inr (Or.inr rfl)
    | with_reducible assumption
    | with_reducible exact Within.refl _ _
    | (intro _ _ _ _)
    | (intro _ _ _)
    | (intro _ _)
    | (intro _)
    | with_reducible apply w_ite
    | with_reducible apply w_foldl
    | with_reducible apply w_foldl2
    | with_reducible apply Within.to (logIt_within ..)
    | with_reducible apply Within.to (putForm_within ..)
    | with_reducible apply Within.to (setCtr_within ..)
    | with_reducible apply w_ite_snd
    | with_reducible refine w_snd (by assumption) ?_
    | dsimp only
    | split)

theorem writeBerth_within (page i : Nat) (x : BitVec 512) (poison : Bool) (s : State) : Within { log := true, ev := true, sec := true, quay := true, dram := true, mem := true, reins := true, mgt := true } s (writeBerth page i x poison s) := by
  unfold writeBerth
  repeat' (first
    | exact rfl
    | exact Or.inl rfl
    | exact Or.inr rfl
    | exact And.intro rfl (And.intro rfl rfl)
    | exact Or.inl ⟨rfl, rfl⟩
    | exact Or.inr (Or.inl ⟨rfl, rfl⟩)
    | exact Or.inr (Or.inl ⟨rfl, rfl, rfl, rfl⟩)
    | exact Or.inr (Or.inr rfl)
    | with_reducible assumption
    | with_reducible exact Within.refl _ _
    | (intro _ _ _ _)
    | (intro _ _ _)
    | (intro _ _)
    | (intro _)
    | with_reducible apply w_ite
    | with_reducible apply w_foldl
    | with_reducible apply w_foldl2
    | with_reducible apply Within.to (dramWrite_within ..)
    | with_reducible apply Within.to (putForm_within ..)
    | with_reducible apply Within.to (rewriteBerth_within ..)
    | with_reducible apply Within.to (setCtr_within ..)
    | with_reducible apply w_ite_snd
    | dsimp only
    | split)

theorem fillBerth_within (page dfa : Nat) (isSealed : Bool) (key : BitVec 20) (lines : List (BitVec 512 × Bool)) (s : State) : Within { ev := true, sec := true, quay := true, dram := true, mem := true, reins := true, mgt := true } s (fillBerth page dfa isSealed key lines s) := by
  unfold fillBerth
  repeat' (first
    | exact rfl
    | exact Or.inl rfl
    | exact Or.inr rfl
    | exact And.intro rfl (And.intro rfl rfl)
    | exact Or.inl ⟨rfl, rfl⟩
    | exact Or.inr (Or.inl ⟨rfl, rfl⟩)
    | exact Or.inr (Or.inl ⟨rfl, rfl, rfl, rfl⟩)
    | exact Or.inr (Or.inr rfl)
    | with_reducible assumption
    | with_reducible exact Within.refl _ _
    | (intro _ _ _ _)
    | (intro _ _ _)
    | (intro _ _)
    | (intro _)
    | with_reducible apply w_ite
    | with_reducible apply w_foldl
    | with_reducible apply w_foldl2
    | with_reducible refine Within.to (doWork_within (p := { ev := true, sec := true, quay := true, dram := true, mem := true, reins := true, mgt := true }) (hp := rfl) (h1 := ?_) ..) rfl ?_
    | with_reducible apply Within.to (putForm_within ..)
    | with_reducible apply Within.to (setCtr_within ..))

theorem fillRun_within (page gaddr : Nat) (isSealed : Bool) (key : BitVec 20) (g : List (BitVec 512)) (s : State) : Within { ev := true, sec := true, quay := true, dram := true, mem := true, reins := true, mgt := true } s (fillRun page gaddr isSealed key g s) := by
  unfold fillRun
  repeat' (first
    | exact rfl
    | exact Or.inl rfl
    | exact Or.inr rfl
    | exact And.intro rfl (And.intro rfl rfl)
    | exact Or.inl ⟨rfl, rfl⟩
    | exact Or.inr (Or.inl ⟨rfl, rfl⟩)
    | exact Or.inr (Or.inl ⟨rfl, rfl, rfl, rfl⟩)
    | exact Or.inr (Or.inr rfl)
    | with_reducible assumption
    | with_reducible exact Within.refl _ _
    | (intro _ _ _ _)
    | (intro _ _ _)
    | (intro _ _)
    | (intro _)
    | with_reducible apply w_ite
    | with_reducible apply w_foldl
    | with_reducible apply w_foldl2
    | with_reducible refine Within.to (doWork_within (p := { ev := true, sec := true, quay := true, dram := true, mem := true, reins := true, mgt := true }) (hp := rfl) (h1 := ?_) ..) rfl ?_
    | with_reducible apply Within.to (putForm_within ..)
    | with_reducible apply Within.to (setCtr_within ..))

theorem readNow_within (cls : BitVec 8) (addr : Nat) (s : State) : Within { ev := true, reins := true, mgt := true } s (readNow cls addr s) := by
  unfold readNow
  repeat' (first
    | exact rfl
    | exact Or.inl rfl
    | exact Or.inr rfl
    | exact And.intro rfl (And.intro rfl rfl)
    | exact Or.inl ⟨rfl, rfl⟩
    | exact Or.inr (Or.inl ⟨rfl, rfl⟩)
    | exact Or.inr (Or.inl ⟨rfl, rfl, rfl, rfl⟩)
    | exact Or.inr (Or.inr rfl)
    | with_reducible assumption
    | with_reducible exact Within.refl _ _
    | (intro _ _ _ _)
    | (intro _ _ _)
    | (intro _ _)
    | (intro _)
    | with_reducible apply w_ite
    | with_reducible apply w_foldl
    | with_reducible apply w_foldl2
    | with_reducible apply Within.to (countUse_within ..)
    | with_reducible apply Within.to (evDch_within ..)
    | with_reducible apply w_ite_snd
    | dsimp only
    | split)

theorem readPage_within (cls : BitVec 8) (page : Nat) (s : State) : Within { ev := true, reins := true, mgt := true } s (readPage cls page s) := by
  unfold readPage
  repeat' (first
    | exact rfl
    | exact Or.inl rfl
    | exact Or.inr rfl
    | exact And.intro rfl (And.intro rfl rfl)
    | exact Or.inl ⟨rfl, rfl⟩
    | exact Or.inr (Or.inl ⟨rfl, rfl⟩)
    | exact Or.inr (Or.inl ⟨rfl, rfl, rfl, rfl⟩)
    | exact Or.inr (Or.inr rfl)
    | with_reducible assumption
    | with_reducible exact Within.refl _ _
    | (intro _ _ _ _)
    | (intro _ _ _)
    | (intro _ _)
    | (intro _)
    | with_reducible apply w_ite
    | with_reducible apply w_foldl
    | with_reducible apply w_foldl2
    | with_reducible apply Within.to (readNow_within ..))

end Sys2Proof.Laws
end

