-- ==== Sys2Proof/Laws/WPages.lean ====
section
/-! SUPPORT. What each operation of Machine/Pages.lean may change. -/

namespace Sys2Proof.Laws

open Sys2Proof Sys2Proof.Machine

theorem setOps_within (f : List PageOp → List PageOp) (s : State) : Within { tier := true } s (setOps f s) := by
  unfold setOps
  repeat' (first
    | exact rfl
    | exact Or.inl rfl
    | exact Or.inr rfl
    | exact And.intro rfl (And.intro rfl rfl)
    | exact Or.inl ⟨rfl, rfl⟩
    | exact Or.inr (Or.inl ⟨rfl, rfl⟩)
    | exact Or.inr (Or.inl ⟨rfl, rfl, rfl, rfl⟩)
    | exact Or.inr (Or.inr rfl)
    | with_reducible assumption
    | with_reducible exact Within.refl _ _
    | (intro _ _ _ _)
    | (intro _ _ _)
    | (intro _ _)
    | (intro _)
    | with_reducible apply w_ite
    | with_reducible apply w_foldl
    | with_reducible apply w_foldl2
    | with_reducible apply w_ite_snd
    | dsimp only
    | split
    | with_reducible refine w_tier ?_ ?_)

theorem modOp_within (page : Nat) (f : PageOp → PageOp) (s : State) : Within { tier := true } s (modOp page f s) := by
  unfold modOp
  repeat' (first
    | exact rfl
    | exact Or.inl rfl
    | exact Or.inr rfl
    | exact And.intro rfl (And.intro rfl rfl)
    | exact Or.inl ⟨rfl, rfl⟩
    | exact Or.inr (Or.inl ⟨rfl, rfl⟩)
    | exact Or.inr (Or.inl ⟨rfl, rfl, rfl, rfl⟩)
    | exact Or.inr (Or.inr rfl)
    | with_reducible assumption
    | with_reducible exact Within.refl _ _
    | (intro _ _ _ _)
    | (intro _ _ _)
    | (intro _ _)
    | (intro _)
    | with_reducible apply w_ite
    | with_reducible apply w_foldl
    | with_reducible apply w_foldl2
    | with_reducible apply Within.to (setOps_within ..))

theorem endOp_within (page : Nat) (s : State) : Within { tier := true } s (endOp page s) := by
  unfold endOp
  repeat' (first
    | exact rfl
    | exact Or.inl rfl
    | exact Or.inr rfl
    | exact And.intro rfl (And.intro rfl rfl)
    | exact Or.inl ⟨rfl, rfl⟩
    | exact Or.inr (Or.inl ⟨rfl, rfl⟩)
    | exact Or.inr (Or.inl ⟨rfl, rfl, rfl, rfl⟩)
    | exact Or.inr (Or.inr rfl)
    | with_reducible assumption
    | with_reducible exact Within.refl _ _
    | (intro _ _ _ _)
    | (intro _ _ _)
    | (intro _ _)
    | (intro _)
    | with_reducible apply w_ite
    | with_reducible apply w_foldl
    | with_reducible apply w_foldl2
    | with_reducible apply Within.to (setOps_within ..))

theorem wakeTile_within (t : Nat) (s : State) : Within { noc := true } s (wakeTile t s) := by
  unfold wakeTile
  repeat' (first
    | exact rfl
    | exact Or.inl rfl
    | exact Or.inr rfl
    | exact And.intro rfl (And.intro rfl rfl)
    | exact Or.inl ⟨rfl, rfl⟩
    | exact Or.inr (Or.inl ⟨rfl, rfl⟩)
    | exact Or.inr (Or.inl ⟨rfl, rfl, rfl, rfl⟩)
    | exact Or.inr (Or.inr rfl)
    | with_reducible assumption
    | with_reducible exact Within.refl _ _
    | (intro _ _ _ _)
    | (intro _ _ _)
    | (intro _ _)
    | (intro _)
    | with_reducible apply w_ite
    | with_reducible apply w_foldl
    | with_reducible apply w_foldl2
    | with_reducible apply Within.to (modDom_within ..))

theorem placeTile_within (bank role cap : Nat) (load : Nat → Nat) (s : State) : WO2 { ev := true, tier := true, noc := true, mgt := true } s (placeTile bank role cap load s) := by
  unfold placeTile
  repeat' (first
    | exact rfl
    | exact Or.inl rfl
    | exact Or.inr rfl
    | exact And.intro rfl (And.intro rfl rfl)
    | exact Or.inl ⟨rfl, rfl⟩
    | exact Or.inr (Or.inl ⟨rfl, rfl⟩)
    | exact Or.inr (Or.inl ⟨rfl, rfl, rfl, rfl⟩)
    | exact Or.inr (Or.inr rfl)
    | with_reducible assumption
    | with_reducible exact Within.refl _ _
    | (intro _ _ _ _)
    | (intro _ _ _)
    | (intro _ _)
    | (intro _)
    | with_reducible apply w_ite
    | with_reducible apply w_foldl
    | with_reducible apply w_foldl2
    | with_reducible exact wo_none
    | with_reducible exact wo2_none
    | with_reducible refine wo2_eq (by assumption) ?_
    | with_reducible refine wo_eq (by assumption) ?_
    | with_reducible refine wo2_map ?_ ?_
    | with_reducible refine wo2_mapAny ?_
    | with_reducible refine wo_map2 ?_ ?_
    | with_reducible refine wo_mapS ?_ ?_
    | with_reducible refine wo_map ?_
    | with_reducible apply wo_findSome
    | (intro _)
    | with_reducible apply wo_some
    | with_reducible apply wo2_some
    | with_reducible apply wo_ite
    | with_reducible apply wo2_ite
    | with_reducible apply Within.to (evTile_within ..)
    | with_reducible apply Within.to (wakeTile_within ..)
    | with_reducible apply w_ite_snd
    | with_reducible refine w_snd (by assumption) ?_
    | dsimp only
    | split
    | with_reducible refine w_tier ?_ ?_)

theorem countCorrection_within (addr : Nat) (s : State) : Within { tier := true } s (countCorrection addr s) := by
  unfold countCorrection
  repeat' (first
    | exact rfl
    | exact Or.inl rfl
    | exact Or.inr rfl
    | exact And.intro rfl (And.intro rfl rfl)
    | exact Or.inl ⟨rfl, rfl⟩
    | exact Or.inr (Or.inl ⟨rfl, rfl⟩)
    | exact Or.inr (Or.inl ⟨rfl, rfl, rfl, rfl⟩)
    | exact Or.inr (Or.inr rfl)
    | with_reducible assumption
    | with_reducible exact Within.refl _ _
    | (intro _ _ _ _)
    | (intro _ _ _)
    | (intro _ _)
    | (intro _)
    | with_reducible apply w_ite
    | with_reducible apply w_foldl
    | with_reducible apply w_foldl2
    | with_reducible apply w_ite_snd
    | with_reducible refine w_snd (by assumption) ?_
    | dsimp only
    | split
    | with_reducible refine w_tier ?_ ?_)

theorem correctedAs_within (r : LogRec) (addr : Nat) (st : BitVec 640) (dev : Nat) (newer : Bool) (s : State) : Within { log := true, ev := true, dram := true, mem := true, tier := true, reins := true, mgt := true } s (correctedAs r addr st dev newer s) := by
  unfold correctedAs
  repeat' (first
    | exact rfl
    | exact Or.inl rfl
    | exact Or.inr rfl
    | exact And.intro rfl (And.intro rfl rfl)
    | exact Or.inl ⟨rfl, rfl⟩
    | exact Or.inr (Or.inl ⟨rfl, rfl⟩)
    | exact Or.inr (Or.inl ⟨rfl, rfl, rfl, rfl⟩)
    | exact Or.inr (Or.inr rfl)
    | with_reducible assumption
    | with_reducible exact Within.refl _ _
    | (intro _ _ _ _)
    | (intro _ _ _)
    | (intro _ _)
    | (intro _)
    | with_reducible apply w_ite
    | with_reducible apply w_foldl
    | with_reducible apply w_foldl2
    | with_reducible apply Within.to (correctiveRewrite_within ..)
    | with_reducible apply Within.to (countCorrection_within ..)
    | with_reducible apply Within.to (evDch_within ..)
    | with_reducible apply Within.to (logIt_within ..)
    | with_reducible apply Within.to (modChan_within ..)
    | with_reducible apply w_ite_snd
    | dsimp only
    | split)

theorem noteCheck_within (addr line : Nat) (k : Check) (newer : Bool) (s : State) : Within { log := true, ev := true, dram := true, mem := true, tier := true, reins := true, mgt := true } s (noteCheck addr line k newer s) := by
  unfold noteCheck
  repeat' (first
    | exact rfl
    | exact Or.inl rfl
    | exact Or.inr rfl
    | exact And.intro rfl (And.intro rfl rfl)
    | exact Or.inl ⟨rfl, rfl⟩
    | exact Or.inr (Or.inl ⟨rfl, rfl⟩)
    | exact Or.inr (Or.inl ⟨rfl, rfl, rfl, rfl⟩)
    | exact Or.inr (Or.inr rfl)
    | with_reducible assumption
    | with_reducible exact Within.refl _ _
    | (intro _ _ _ _)
    | (intro _ _ _)
    | (intro _ _)
    | (intro _)
    | with_reducible apply w_ite
    | with_reducible apply w_foldl
    | with_reducible apply w_foldl2
    | with_reducible apply Within.to (correctedAs_within ..)
    | with_reducible apply w_ite_snd
    | dsimp only
    | split)

theorem noteTransient_within (r : LogRec) (addr : Nat) (s : State) : Within { log := true, ev := true, mgt := true } s (noteTransient r addr s) := by
  unfold noteTransient
  repeat' (first
    | exact rfl
    | exact Or.inl rfl
    | exact Or.inr rfl
    | exact And.intro rfl (And.intro rfl rfl)
    | exact Or.inl ⟨rfl, rfl⟩
    | exact Or.inr (Or.inl ⟨rfl, rfl⟩)
    | exact Or.inr (Or.inl ⟨rfl, rfl, rfl, rfl⟩)
    | exact Or.inr (Or.inr rfl)
    | with_reducible assumption
    | with_reducible exact Within.refl _ _
    | (intro _ _ _ _)
    | (intro _ _ _)
    | (intro _ _)
    | (intro _)
    | with_reducible apply w_ite
    | with_reducible apply w_foldl
    | with_reducible apply w_foldl2
    | with_reducible apply Within.to (evDch_within ..)
    | with_reducible apply Within.to (logIt_within ..)
    | with_reducible apply w_ite_snd
    | dsimp only
    | split)

theorem readGranules_within (cls : BitVec 8) (page : Nat) (gs : List Nat) (s : State) : Within { log := true, ev := true, dram := true, mem := true, tier := true, reins := true, mgt := true } s (readGranules cls page gs s) := by
  unfold readGranules
  repeat' (first
    | exact rfl
    | exact Or.inl rfl
    | exact Or.inr rfl
    | exact And.intro rfl (And.intro rfl rfl)
    | exact Or.inl ⟨rfl, rfl⟩
    | exact Or.inr (Or.inl ⟨rfl, rfl⟩)
    | exact Or.inr (Or.inl ⟨rfl, rfl, rfl, rfl⟩)
    | exact Or.inr (Or.inr rfl)
    | with_reducible assumption
    | with_reducible exact Within.refl _ _
    | (intro _ _ _ _)
    | (intro _ _ _)
    | (intro _ _)
    | (intro _)
    | with_reducible apply w_ite
    | with_reducible apply w_foldl
    | with_reducible apply w_foldl2
    | with_reducible apply Within.to (noteCheck_within ..)
    | with_reducible apply Within.to (readNow_within ..))

theorem useCtx_within (addr : Nat) (isSealed : Bool) (k : BitVec 20) (s : State) : Within { dram := true } s (useCtx addr isSealed k s) := by
  unfold useCtx
  repeat' (first
    | exact rfl
    | exact Or.inl rfl
    | exact Or.inr rfl
    | exact And.intro rfl (And.intro rfl rfl)
    | exact Or.inl ⟨rfl, rfl⟩
    | exact Or.inr (Or.inl ⟨rfl, rfl⟩)
    | exact Or.inr (Or.inl ⟨rfl, rfl, rfl, rfl⟩)
    | exact Or.inr (Or.inr rfl)
    | with_reducible assumption
    | with_reducible exact Within.refl _ _
    | (intro _ _ _ _)
    | (intro _ _ _)
    | (intro _ _)
    | (intro _)
    | with_reducible apply w_ite
    | with_reducible apply w_foldl
    | with_reducible apply w_foldl2
    | with_reducible apply Within.to (modChan_within ..)
    | with_reducible apply w_ite_snd
    | dsimp only
    | split)

theorem dropCtx_within (k : BitVec 20) (s : State) : Within { quay := true, dram := true } s (dropCtx k s) := by
  unfold dropCtx
  repeat' (first
    | exact rfl
    | exact Or.inl rfl
    | exact Or.inr rfl
    | exact And.intro rfl (And.intro rfl rfl)
    | exact Or.inl ⟨rfl, rfl⟩
    | exact Or.inr (Or.inl ⟨rfl, rfl⟩)
    | exact Or.inr (Or.inl ⟨rfl, rfl, rfl, rfl⟩)
    | exact Or.inr (Or.inr rfl)
    | with_reducible assumption
    | with_reducible exact Within.refl _ _
    | (intro _ _ _ _)
    | (intro _ _ _)
    | (intro _ _)
    | (intro _)
    | with_reducible apply w_ite
    | with_reducible apply w_foldl
    | with_reducible apply w_foldl2
    | with_reducible apply w_ite_snd
    | dsimp only
    | split
    | with_reducible refine w_quay ?_ ?_
    | with_reducible refine w_dram ?_ ?_ ?_
    | with_reducible refine w_upd ?_ ?_ ?_ ?_ ?_ ?_ ?_ ?_ ?_ ?_ ?_ ?_ ?_ ?_ ?_ ?_ ?_ ?_ ?_ ?_ ?_ ?_ ?_)

theorem countUncorrectable_within (addr : Nat) (s : State) : Within { ev := true, mgt := true } s (countUncorrectable addr s) := by
  unfold countUncorrectable
  repeat' (first
    | exact rfl
    | exact Or.inl rfl
    | exact Or.inr rfl
    | exact And.intro rfl (And.intro rfl rfl)
    | exact Or.inl ⟨rfl, rfl⟩
    | exact Or.inr (Or.inl ⟨rfl, rfl⟩)
    | exact Or.inr (Or.inl ⟨rfl, rfl, rfl, rfl⟩)
    | exact Or.inr (Or.inr rfl)
    | with_reducible assumption
    | with_reducible exact Within.refl _ _
    | (intro _ _ _ _)
    | (intro _ _ _)
    | (intro _ _)
    | (intro _)
    | with_reducible apply w_ite
    | with_reducible apply w_foldl
    | with_reducible apply w_foldl2
    | with_reducible apply Within.to (evDch_within ..)
    | with_reducible apply w_ite_snd
    | dsimp only
    | split)

theorem openFault_within (w : Work) (page : Nat) (f : PageOp → PageOp) (s : State) : Within { ev := true, tier := true, mgt := true } s (openFault w page f s) := by
  unfold openFault
  repeat' (first
    | exact rfl
    | exact Or.inl rfl
    | exact Or.inr rfl
    | exact And.intro rfl (And.intro rfl rfl)
    | exact Or.inl ⟨rfl, rfl⟩
    | exact Or.inr (Or.inl ⟨rfl, rfl⟩)
    | exact Or.inr (Or.inl ⟨rfl, rfl, rfl, rfl⟩)
    | exact Or.inr (Or.inr rfl)
    | with_reducible assumption
    | with_reducible exact Within.refl _ _
    | (intro _ _ _ _)
    | (intro _ _ _)
    | (intro _ _)
    | (intro _)
    | with_reducible apply w_ite
    | with_reducible apply w_foldl
    | with_reducible apply w_foldl2
    | with_reducible apply Within.to (evQb_within ..)
    | with_reducible apply Within.to (modOp_within ..)
    | with_reducible apply Within.to (setOps_within ..)
    | with_reducible apply w_ite_snd
    | dsimp only
    | split)

theorem startPromotion_within (force : Bool) (page : Nat) (f : PageOp → PageOp) (s : State) : Within { ev := true, tier := true, mgt := true } s (startPromotion force page f s) := by
  unfold startPromotion
  repeat' (first
    | exact rfl
    | exact Or.inl rfl
    | exact Or.inr rfl
    | exact And.intro rfl (And.intro rfl rfl)
    | exact Or.inl ⟨rfl, rfl⟩
    | exact Or.inr (Or.inl ⟨rfl, rfl⟩)
    | exact Or.inr (Or.inl ⟨rfl, rfl, rfl, rfl⟩)
    | exact Or.inr (Or.inr rfl)
    | with_reducible assumption
    | with_reducible exact Within.refl _ _
    | (intro _ _ _ _)
    | (intro _ _ _)
    | (intro _ _)
    | (intro _)
    | with_reducible apply w_ite
    | with_reducible apply w_foldl
    | with_reducible apply w_foldl2
    | with_reducible apply Within.to (evQb_within ..)
    | with_reducible apply Within.to (modOp_within ..)
    | with_reducible apply Within.to (setOps_within ..)
    | with_reducible apply w_ite_snd
    | dsimp only
    | split)

theorem touchPage_within (page : Nat) (isWrite : Bool) (s : State) : Within { aon := true, ev := true, quay := true, dram := true, tier := true, port := true, mgt := true } s (touchPage page isWrite s) := by
  unfold touchPage
  repeat' (first
    | exact rfl
    | exact Or.inl rfl
    | exact Or.inr rfl
    | exact And.intro rfl (And.intro rfl rfl)
    | exact Or.inl ⟨rfl, rfl⟩
    | exact Or.inr (Or.inl ⟨rfl, rfl⟩)
    | exact Or.inr (Or.inl ⟨rfl, rfl, rfl, rfl⟩)
    | exact Or.inr (Or.inr rfl)
    | with_reducible assumption
    | with_reducible exact Within.refl _ _
    | (intro _ _ _ _)
    | (intro _ _ _)
    | (intro _ _)
    | (intro _)
    | with_reducible apply w_ite
    | with_reducible apply w_foldl
    | with_reducible apply w_foldl2
    | with_reducible apply Within.to (setDesc_within ..)
    | with_reducible apply Within.to (startPromotion_within ..)
    | with_reducible apply w_ite_snd
    | dsimp only
    | split)

theorem abortDemotion_within (page : Nat) (s : State) : Within { log := true, ev := true, sec := true, quay := true, dram := true, mem := true, tier := true, reins := true, mgt := true } s (abortDemotion page s) := by
  unfold abortDemotion
  repeat' (first
    | exact rfl
    | exact Or.inl rfl
    | exact Or.inr rfl
    | exact And.intro rfl (And.intro rfl rfl)
    | exact Or.inl ⟨rfl, rfl⟩
    | exact Or.inr (Or.inl ⟨rfl, rfl⟩)
    | exact Or.inr (Or.inl ⟨rfl, rfl, rfl, rfl⟩)
    | exact Or.inr (Or.inr rfl)
    | with_reducible assumption
    | with_reducible exact Within.refl _ _
    | (intro _ _ _ _)
    | (intro _ _ _)
    | (intro _ _)
    | (intro _)
    | with_reducible apply w_ite
    | with_reducible apply w_foldl
    | with_reducible apply w_foldl2
    | with_reducible apply Within.to (endOp_within ..)
    | with_reducible apply Within.to (evQb_within ..)
    | with_reducible apply Within.to (evTile_within ..)
    | with_reducible apply Within.to (rewriteBerth_within ..)
    | with_reducible apply w_ite_snd
    | dsimp only
    | split)

theorem poisonNow_within (page : Nat) (s : State) : Within { aon := true, quay := true, dram := true, tier := true, port := true } s (poisonNow page s) := by
  unfold poisonNow
  repeat' (first
    | exact rfl
    | exact Or.inl rfl
    | exact Or.inr rfl
    | exact And.intro rfl (And.intro rfl rfl)
    | exact Or.inl ⟨rfl, rfl⟩
    | exact Or.inr (Or.inl ⟨rfl, rfl⟩)
    | exact Or.inr (Or.inl ⟨rfl, rfl, rfl, rfl⟩)
    | exact Or.inr (Or.inr rfl)
    | with_reducible assumption
    | with_reducible exact Within.refl _ _
    | (intro _ _ _ _)
    | (intro _ _ _)
    | (intro _ _)
    | (intro _)
    | with_reducible apply w_ite
    | with_reducible apply w_foldl
    | with_reducible apply w_foldl2
    | with_reducible apply Within.to (retireRun_within ..)
    | with_reducible apply Within.to (setDesc_within ..)
    | with_reducible apply w_ite_snd
    | dsimp only
    | split)

theorem poisonPage_within (page : Nat) (s : State) : Within { aon := true, quay := true, dram := true, tier := true, port := true } s (poisonPage page s) := by
  unfold poisonPage
  repeat' (first
    | exact rfl
    | exact Or.inl rfl
    | exact Or.inr rfl
    | exact And.intro rfl (And.intro rfl rfl)
    | exact Or.inl ⟨rfl, rfl⟩
    | exact Or.inr (Or.inl ⟨rfl, rfl⟩)
    | exact Or.inr (Or.inl ⟨rfl, rfl, rfl, rfl⟩)
    | exact Or.inr (Or.inr rfl)
    | with_reducible assumption
    | with_reducible exact Within.refl _ _
    | (intro _ _ _ _)
    | (intro _ _ _)
    | (intro _ _)
    | (intro _)
    | with_reducible apply w_ite
    | with_reducible apply w_foldl
    | with_reducible apply w_foldl2
    | with_reducible apply Within.to (modOp_within ..)
    | with_reducible apply Within.to (poisonNow_within ..))

theorem descFix_within (page : Nat) (s : State) : Within { log := true, ev := true, quay := true, dram := true, tier := true, mgt := true } s (descFix page s) := by
  unfold descFix
  repeat' (first
    | exact rfl
    | exact Or.inl rfl
    | exact Or.inr rfl
    | exact And.intro rfl (And.intro rfl rfl)
    | exact Or.inl ⟨rfl, rfl⟩
    | exact Or.inr (Or.inl ⟨rfl, rfl⟩)
    | exact Or.inr (Or.inl ⟨rfl, rfl, rfl, rfl⟩)
    | exact Or.inr (Or.inr rfl)
    | with_reducible assumption
    | with_reducible exact Within.refl _ _
    | (intro _ _ _ _)
    | (intro _ _ _)
    | (intro _ _)
    | (intro _)
    | with_reducible apply w_ite
    | with_reducible apply w_foldl
    | with_reducible apply w_foldl2
    | with_reducible apply Within.to (freeFrame_within ..)
    | with_reducible apply Within.to (logIt_within ..)
    | with_reducible apply Within.to (retireRun_within ..)
    | with_reducible apply w_ite_snd
    | with_reducible refine w_snd (by assumption) ?_
    | dsimp only
    | split
    | with_reducible refine w_quay ?_ ?_)

theorem logReserved_within (cls : BitVec 2) (code addr : Nat) (s : State) : Within { log := true, ev := true, mgt := true } s (logReserved cls code addr s) := by
  unfold logReserved
  repeat' (first
    | exact rfl
    | exact Or.inl rfl
    | exact Or.inr rfl
    | exact And.intro rfl (And.intro rfl rfl)
    | exact Or.inl ⟨rfl, rfl⟩
    | exact Or.inr (Or.inl ⟨rfl, rfl⟩)
    | exact Or.inr (Or.inl ⟨rfl, rfl, rfl, rfl⟩)
    | exact Or.inr (Or.inr rfl)
    | with_reducible assumption
    | with_reducible exact Within.refl _ _
    | (intro _ _ _ _)
    | (intro _ _ _)
    | (intro _ _)
    | (intro _)
    | with_reducible apply w_ite
    | with_reducible apply w_foldl
    | with_reducible apply w_foldl2
    | with_reducible apply Within.to (logIt_within ..))

theorem nodeLost_within (level idx : Nat) (s : State) : Within { aon := true, quay := true, dram := true, tier := true, port := true } s (nodeLost level idx s) := by
  unfold nodeLost
  repeat' (first
    | exact rfl
    | exact Or.inl rfl
    | exact Or.inr rfl
    | exact And.intro rfl (And.intro rfl rfl)
    | exact Or.inl ⟨rfl, rfl⟩
    | exact Or.inr (Or.inl ⟨rfl, rfl⟩)
    | exact Or.inr (Or.inl ⟨rfl, rfl, rfl, rfl⟩)
    | exact Or.inr (Or.inr rfl)
    | with_reducible assumption
    | with_reducible exact Within.refl _ _
    | (intro _ _ _ _)
    | (intro _ _ _)
    | (intro _ _)
    | (intro _)
    | with_reducible apply w_ite
    | with_reducible apply w_foldl
    | with_reducible apply w_foldl2
    | with_reducible apply Within.to (poisonPage_within ..)
    | with_reducible apply Within.to (setNode_within ..))

theorem keyLineLost_within (level idx : Nat) (s : State) : Within { log := true, ev := true, quay := true, dram := true, mgt := true } s (keyLineLost level idx s) := by
  unfold keyLineLost
  repeat' (first
    | exact rfl
    | exact Or.inl rfl
    | exact Or.inr rfl
    | exact And.intro rfl (And.intro rfl rfl)
    | exact Or.inl ⟨rfl, rfl⟩
    | exact Or.inr (Or.inl ⟨rfl, rfl⟩)
    | exact Or.inr (Or.inl ⟨rfl, rfl, rfl, rfl⟩)
    | exact Or.inr (Or.inr rfl)
    | with_reducible assumption
    | with_reducible exact Within.refl _ _
    | (intro _ _ _ _)
    | (intro _ _ _)
    | (intro _ _)
    | (intro _)
    | with_reducible apply w_ite
    | with_reducible apply w_foldl
    | with_reducible apply w_foldl2
    | with_reducible apply Within.to (dropCtx_within ..)
    | with_reducible apply Within.to (logIt_within ..)
    | with_reducible apply Within.to (setKeyEntry_within ..)
    | with_reducible apply Within.to (setNode_within ..))

theorem loadNode_within (kt : Bool) (level idx : Nat) (s : State) : Within { aon := true, log := true, ev := true, quay := true, dram := true, mem := true, tier := true, reins := true, port := true, mgt := true } s (loadNode kt level idx s) := by
  unfold loadNode
  repeat' (first
    | exact rfl
    | exact Or.inl rfl
    | exact Or.inr rfl
    | exact And.intro rfl (And.intro rfl rfl)
    | exact Or.inl ⟨rfl, rfl⟩
    | exact Or.inr (Or.inl ⟨rfl, rfl⟩)
    | exact Or.inr (Or.inl ⟨rfl, rfl, rfl, rfl⟩)
    | exact Or.inr (Or.inr rfl)
    | with_reducible assumption
    | with_reducible exact Within.refl _ _
    | (intro _ _ _ _)
    | (intro _ _ _)
    | (intro _ _)
    | (intro _)
    | with_reducible apply w_ite
    | with_reducible apply w_foldl
    | with_reducible apply w_foldl2
    | with_reducible apply Within.to (correctedAs_within ..)
    | with_reducible apply Within.to (countUncorrectable_within ..)
    | with_reducible apply Within.to (dramWrite_within ..)
    | with_reducible apply Within.to (holdNode_within ..)
    | with_reducible apply Within.to (keyLineLost_within ..)
    | with_reducible apply Within.to (logReserved_within ..)
    | with_reducible apply Within.to (nodeLost_within ..)
    | with_reducible apply Within.to (readNow_within ..)
    | with_reducible apply w_ite_snd
    | dsimp only
    | split)

theorem loadCtr_within (page : Nat) (s : State) : Within { aon := true, log := true, ev := true, sec := true, quay := true, dram := true, mem := true, tier := true, reins := true, port := true, mgt := true } s (loadCtr page s) := by
  unfold loadCtr
  repeat' (first
    | exact rfl
    | exact Or.inl rfl
    | exact Or.inr rfl
    | exact And.intro rfl (And.intro rfl rfl)
    | exact Or.inl ⟨rfl, rfl⟩
    | exact Or.inr (Or.inl ⟨rfl, rfl⟩)
    | exact Or.inr (Or.inl ⟨rfl, rfl, rfl, rfl⟩)
    | exact Or.inr (Or.inr rfl)
    | with_reducible assumption
    | with_reducible exact Within.refl _ _
    | (intro _ _ _ _)
    | (intro _ _ _)
    | (intro _ _)
    | (intro _)
    | with_reducible apply w_ite
    | with_reducible apply w_foldl
    | with_reducible apply w_foldl2
    | with_reducible apply Within.to (ctrRoom_within ..)
    | with_reducible apply Within.to (evQb_within ..)
    | with_reducible apply Within.to (loadNode_within ..))

theorem orphanLater_within (page i : Nat) (s : State) : Within { tier := true } s (orphanLater page i s) := by
  unfold orphanLater
  repeat' (first
    | exact rfl
    | exact Or.inl rfl
    | exact Or.inr rfl
    | exact And.intro rfl (And.intro rfl rfl)
    | exact Or.inl ⟨rfl, rfl⟩
    | exact Or.inr (Or.inl ⟨rfl, rfl⟩)
    | exact Or.inr (Or.inl ⟨rfl, rfl, rfl, rfl⟩)
    | exact Or.inr (Or.inr rfl)
    | with_reducible assumption
    | with_reducible exact Within.refl _ _
    | (intro _ _ _ _)
    | (intro _ _ _)
    | (intro _ _)
    | (intro _)
    | with_reducible apply w_ite
    | with_reducible apply w_foldl
    | with_reducible apply w_foldl2
    | with_reducible apply w_ite_snd
    | dsimp only
    | split
    | with_reducible refine w_tier ?_ ?_)

theorem orphanNow_within (page i : Nat) (s : State) : Within { aon := true, quay := true, dram := true, tier := true, port := true } s (orphanNow page i s) := by
  unfold orphanNow
  repeat' (first
    | exact rfl
    | exact Or.inl rfl
    | exact Or.inr rfl
    | exact And.intro rfl (And.intro rfl rfl)
    | exact Or.inl ⟨rfl, rfl⟩
    | exact Or.inr (Or.inl ⟨rfl, rfl⟩)
    | exact Or.inr (Or.inl ⟨rfl, rfl, rfl, rfl⟩)
    | exact Or.inr (Or.inr rfl)
    | with_reducible assumption
    | with_reducible exact Within.refl _ _
    | (intro _ _ _ _)
    | (intro _ _ _)
    | (intro _ _)
    | (intro _)
    | with_reducible apply w_ite
    | with_reducible apply w_foldl
    | with_reducible apply w_foldl2
    | with_reducible apply Within.to (orphanLater_within ..)
    | with_reducible apply Within.to (setDesc_within ..)
    | with_reducible apply Within.to (setOps_within ..)
    | with_reducible apply w_ite_snd
    | dsimp only
    | split)

theorem retryOrphans_within (s : State) : Within { aon := true, quay := true, dram := true, tier := true, port := true } s (retryOrphans s) := by
  unfold retryOrphans
  repeat' (first
    | exact rfl
    | exact Or.inl rfl
    | exact Or.inr rfl
    | exact And.intro rfl (And.intro rfl rfl)
    | exact Or.inl ⟨rfl, rfl⟩
    | exact Or.inr (Or.inl ⟨rfl, rfl⟩)
    | exact Or.inr (Or.inl ⟨rfl, rfl, rfl, rfl⟩)
    | exact Or.inr (Or.inr rfl)
    | with_reducible assumption
    | with_reducible exact Within.refl _ _
    | (intro _ _ _ _)
    | (intro _ _ _)
    | (intro _ _)
    | (intro _)
    | with_reducible apply w_ite
    | with_reducible apply w_foldl
    | with_reducible apply w_foldl2
    | with_reducible apply Within.to (modOp_within ..)
    | with_reducible apply Within.to (orphanNow_within ..)
    | with_reducible apply w_ite_snd
    | with_reducible refine w_snd (by assumption) ?_
    | dsimp only
    | split
    | with_reducible refine w_tier ?_ ?_)

theorem dropLine_within (l : Line) (s : State) : Within { quay := true } s (dropLine l s) := by
  unfold dropLine
  repeat' (first
    | exact rfl
    | exact Or.inl rfl
    | exact Or.inr rfl
    | exact And.intro rfl (And.intro rfl rfl)
    | exact Or.inl ⟨rfl, rfl⟩
    | exact Or.inr (Or.inl ⟨rfl, rfl⟩)
    | exact Or.inr (Or.inl ⟨rfl, rfl, rfl, rfl⟩)
    | exact Or.inr (Or.inr rfl)
    | with_reducible assumption
    | with_reducible exact Within.refl _ _
    | (intro _ _ _ _)
    | (intro _ _ _)
    | (intro _ _)
    | (intro _)
    | with_reducible apply w_ite
    | with_reducible apply w_foldl
    | with_reducible apply w_foldl2
    | with_reducible apply w_ite_snd
    | dsimp only
    | split
    | with_reducible refine w_quay ?_ ?_)

theorem orphanLine_within (l : Line) (s : State) : Within { aon := true, log := true, ev := true, sec := true, quay := true, dram := true, mem := true, tier := true, reins := true, port := true, mgt := true } s (orphanLine l s) := by
  unfold orphanLine
  repeat' (first
    | exact rfl
    | exact Or.inl rfl
    | exact Or.inr rfl
    | exact And.intro rfl (And.intro rfl rfl)
    | exact Or.inl ⟨rfl, rfl⟩
    | exact Or.inr (Or.inl ⟨rfl, rfl⟩)
    | exact Or.inr (Or.inl ⟨rfl, rfl, rfl, rfl⟩)
    | exact Or.inr (Or.inr rfl)
    | with_reducible assumption
    | with_reducible exact Within.refl _ _
    | (intro _ _ _ _)
    | (intro _ _ _)
    | (intro _ _)
    | (intro _)
    | with_reducible apply w_ite
    | with_reducible apply w_foldl
    | with_reducible apply w_foldl2
    | with_reducible apply Within.to (abortDemotion_within ..)
    | with_reducible apply Within.to (dropLine_within ..)
    | with_reducible apply Within.to (modOp_within ..)
    | with_reducible apply Within.to (orphanNow_within ..)
    | with_reducible apply w_ite_snd
    | dsimp only
    | split)

theorem recordRetired_within (entry : BitVec 64) (addr : Nat) (s : State) : Within { log := true, ev := true, led := true, mgt := true } s (recordRetired entry addr s) := by
  unfold recordRetired
  repeat' (first
    | exact rfl
    | exact Or.inl rfl
    | exact Or.inr rfl
    | exact And.intro rfl (And.intro rfl rfl)
    | exact Or.inl ⟨rfl, rfl⟩
    | exact Or.inr (Or.inl ⟨rfl, rfl⟩)
    | exact Or.inr (Or.inl ⟨rfl, rfl, rfl, rfl⟩)
    | exact Or.inr (Or.inr rfl)
    | with_reducible assumption
    | with_reducible exact Within.refl _ _
    | (intro _ _ _ _)
    | (intro _ _ _)
    | (intro _ _)
    | (intro _)
    | with_reducible apply w_ite
    | with_reducible apply w_foldl
    | with_reducible apply w_foldl2
    | with_reducible apply Within.to (logIt_within ..)
    | with_reducible apply Within.to (writeManifest_within ..)
    | with_reducible apply w_ite_snd
    | dsimp only
    | split)

theorem startCompaction_within (dfa : Nat) (s : State) : Within { tier := true } s (startCompaction dfa s) := by
  unfold startCompaction
  repeat' (first
    | exact rfl
    | exact Or.inl rfl
    | exact Or.inr rfl
    | exact And.intro rfl (And.intro rfl rfl)
    | exact Or.inl ⟨rfl, rfl⟩
    | exact Or.inr (Or.inl ⟨rfl, rfl⟩)
    | exact Or.inr (Or.inl ⟨rfl, rfl, rfl, rfl⟩)
    | exact Or.inr (Or.inr rfl)
    | with_reducible assumption
    | with_reducible exact Within.refl _ _
    | (intro _ _ _ _)
    | (intro _ _ _)
    | (intro _ _)
    | (intro _)
    | with_reducible apply w_ite
    | with_reducible apply w_foldl
    | with_reducible apply w_foldl2
    | with_reducible apply Within.to (setOps_within ..)
    | with_reducible apply w_ite_snd
    | with_reducible refine w_snd (by assumption) ?_
    | dsimp only
    | split)

theorem addRetire_within (dfa : Nat) (s : State) : Within { dram := true } s (addRetire dfa s) := by
  unfold addRetire
  repeat' (first
    | exact rfl
    | exact Or.inl rfl
    | exact Or.inr rfl
    | exact And.intro rfl (And.intro rfl rfl)
    | exact Or.inl ⟨rfl, rfl⟩
    | exact Or.inr (Or.inl ⟨rfl, rfl⟩)
    | exact Or.inr (Or.inl ⟨rfl, rfl, rfl, rfl⟩)
    | exact Or.inr (Or.inr rfl)
    | with_reducible assumption
    | with_reducible exact Within.refl _ _
    | (intro _ _ _ _)
    | (intro _ _ _)
    | (intro _ _)
    | (intro _)
    | with_reducible apply w_ite
    | with_reducible apply w_foldl
    | with_reducible apply w_foldl2
    | with_reducible apply w_ite_snd
    | dsimp only
    | split
    | with_reducible refine w_dram ?_ ?_ ?_)

theorem startRelocation_within (dfa page : Nat) (s : State) : Within { aon := true, quay := true, dram := true, tier := true, port := true } s (startRelocation dfa page s) := by
  unfold startRelocation
  repeat' (first
    | exact rfl
    | exact Or.inl rfl
    | exact Or.inr rfl
    | exact And.intro rfl (And.intro rfl rfl)
    | exact Or.inl ⟨rfl, rfl⟩
    | exact Or.inr (Or.inl ⟨rfl, rfl⟩)
    | exact Or.inr (Or.inl ⟨rfl, rfl, rfl, rfl⟩)
    | exact Or.inr (Or.inr rfl)
    | with_reducible assumption
    | with_reducible exact Within.refl _ _
    | (intro _ _ _ _)
    | (intro _ _ _)
    | (intro _ _)
    | (intro _)
    | with_reducible apply w_ite
    | with_reducible apply w_foldl
    | with_reducible apply w_foldl2
    | with_reducible exact wo_none
    | with_reducible exact wo2_none
    | with_reducible refine wo2_eq (by assumption) ?_
    | with_reducible refine wo_eq (by assumption) ?_
    | with_reducible refine wo2_map ?_ ?_
    | with_reducible refine wo2_mapAny ?_
    | with_reducible refine wo_map2 ?_ ?_
    | with_reducible refine wo_mapS ?_ ?_
    | with_reducible refine wo_map ?_
    | with_reducible apply wo_findSome
    | (intro _)
    | with_reducible apply wo_some
    | with_reducible apply wo2_some
    | with_reducible apply wo_ite
    | with_reducible apply wo2_ite
    | with_reducible apply Within.to (addRetire_within ..)
    | with_reducible apply wo2_to (allocFrame_within ..)
    | with_reducible apply Within.to (setDesc_within ..)
    | with_reducible apply Within.to (setFrame_within ..)
    | with_reducible apply Within.to (setOps_within ..)
    | with_reducible apply w_ite_snd
    | with_reducible refine w_of_some2 (by assumption) ?_
    | dsimp only
    | split
    | with_reducible refine w_dram ?_ ?_ ?_)

theorem pursueRetire_within (dfa : Nat) (s : State) : Within { aon := true, quay := true, dram := true, tier := true, port := true } s (pursueRetire dfa s) := by
  unfold pursueRetire
  repeat' (first
    | exact rfl
    | exact Or.inl rfl
    | exact Or.inr rfl
    | exact And.intro rfl (And.intro rfl rfl)
    | exact Or.inl ⟨rfl, rfl⟩
    | exact Or.inr (Or.inl ⟨rfl, rfl⟩)
    | exact Or.inr (Or.inl ⟨rfl, rfl, rfl, rfl⟩)
    | exact Or.inr (Or.inr rfl)
    | with_reducible assumption
    | with_reducible exact Within.refl _ _
    | (intro _ _ _ _)
    | (intro _ _ _)
    | (intro _ _)
    | (intro _)
    | with_reducible apply w_ite
    | with_reducible apply w_foldl
    | with_reducible apply w_foldl2
    | with_reducible apply Within.to (addRetire_within ..)
    | with_reducible apply Within.to (markRetired_within ..)
    | with_reducible apply Within.to (startCompaction_within ..)
    | with_reducible apply Within.to (startRelocation_within ..)
    | with_reducible apply w_ite_snd
    | dsimp only
    | split
    | with_reducible refine w_dram ?_ ?_ ?_)

theorem retireFrame_within (dfa reason : Nat) (s : State) : Within { aon := true, log := true, ev := true, quay := true, dram := true, tier := true, led := true, port := true, mgt := true } s (retireFrame dfa reason s) := by
  unfold retireFrame
  repeat' (first
    | exact rfl
    | exact Or.inl rfl
    | exact Or.inr rfl
    | exact And.intro rfl (And.intro rfl rfl)
    | exact Or.inl ⟨rfl, rfl⟩
    | exact Or.inr (Or.inl ⟨rfl, rfl⟩)
    | exact Or.inr (Or.inl ⟨rfl, rfl, rfl, rfl⟩)
    | exact Or.inr (Or.inr rfl)
    | with_reducible assumption
    | with_reducible exact Within.refl _ _
    | (intro _ _ _ _)
    | (intro _ _ _)
    | (intro _ _)
    | (intro _)
    | with_reducible apply w_ite
    | with_reducible apply w_foldl
    | with_reducible apply w_foldl2
    | with_reducible apply Within.to (logIt_within ..)
    | with_reducible apply Within.to (pursueRetire_within ..)
    | with_reducible apply Within.to (recordRetired_within ..))

theorem autoRetire_within (addr : Nat) (s : State) : Within { aon := true, log := true, ev := true, quay := true, dram := true, tier := true, led := true, port := true, mgt := true } s (autoRetire addr s) := by
  unfold autoRetire
  repeat' (first
    | exact rfl
    | exact Or.inl rfl
    | exact Or.inr rfl
    | exact And.intro rfl (And.intro rfl rfl)
    | exact Or.inl ⟨rfl, rfl⟩
    | exact Or.inr (Or.inl ⟨rfl, rfl⟩)
    | exact Or.inr (Or.inl ⟨rfl, rfl, rfl, rfl⟩)
    | exact Or.inr (Or.inr rfl)
    | with_reducible assumption
    | with_reducible exact Within.refl _ _
    | (intro _ _ _ _)
    | (intro _ _ _)
    | (intro _ _)
    | (intro _)
    | with_reducible apply w_ite
    | with_reducible apply w_foldl
    | with_reducible apply w_foldl2
    | with_reducible apply Within.to (retireFrame_within ..))

theorem freeStorage_within (d : BitVec 128) (s : State) : Within { dram := true, tier := true } s (freeStorage d s) := by
  unfold freeStorage
  repeat' (first
    | exact rfl
    | exact Or.inl rfl
    | exact Or.inr rfl
    | exact And.intro rfl (And.intro rfl rfl)
    | exact Or.inl ⟨rfl, rfl⟩
    | exact Or.inr (Or.inl ⟨rfl, rfl⟩)
    | exact Or.inr (Or.inl ⟨rfl, rfl, rfl, rfl⟩)
    | exact Or.inr (Or.inr rfl)
    | with_reducible assumption
    | with_reducible exact Within.refl _ _
    | (intro _ _ _ _)
    | (intro _ _ _)
    | (intro _ _)
    | (intro _)
    | with_reducible apply w_ite
    | with_reducible apply w_foldl
    | with_reducible apply w_foldl2
    | with_reducible apply Within.to (freeFrame_within ..)
    | with_reducible apply Within.to (markRetired_within ..)
    | with_reducible apply Within.to (retireRun_within ..)
    | with_reducible apply w_ite_snd
    | dsimp only
    | split)

theorem remark_within (page : Nat) (s : State) : Within { led := true } s (remark page s) := by
  unfold remark
  repeat' (first
    | exact rfl
    | exact Or.inl rfl
    | exact Or.inr rfl
    | exact And.intro rfl (And.intro rfl rfl)
    | exact Or.inl ⟨rfl, rfl⟩
    | exact Or.inr (Or.inl ⟨rfl, rfl⟩)
    | exact Or.inr (Or.inl ⟨rfl, rfl, rfl, rfl⟩)
    | exact Or.inr (Or.inr rfl)
    | with_reducible assumption
    | with_reducible exact Within.refl _ _
    | (intro _ _ _ _)
    | (intro _ _ _)
    | (intro _ _)
    | (intro _)
    | with_reducible apply w_ite
    | with_reducible apply w_foldl
    | with_reducible apply w_foldl2
    | with_reducible apply w_ite_snd
    | dsimp only
    | split
    | with_reducible refine w_led ?_ ?_)

theorem moveToCold_within (page : Nat) (s : State) : Within { aon := true, quay := true, dram := true, tier := true, led := true, port := true } s (moveToCold page s) := by
  unfold moveToCold
  repeat' (first
    | exact rfl
    | exact Or.inl rfl
    | exact Or.inr rfl
    | exact And.intro rfl (And.intro rfl rfl)
    | exact Or.inl ⟨rfl, rfl⟩
    | exact Or.inr (Or.inl ⟨rfl, rfl⟩)
    | exact Or.inr (Or.inl ⟨rfl, rfl, rfl, rfl⟩)
    | exact Or.inr (Or.inr rfl)
    | with_reducible assumption
    | with_reducible exact Within.refl _ _
    | (intro _ _ _ _)
    | (intro _ _ _)
    | (intro _ _)
    | (intro _)
    | with_reducible apply w_ite
    | with_reducible apply w_foldl
    | with_reducible apply w_foldl2
    | with_reducible apply Within.to (freeStorage_within ..)
    | with_reducible apply Within.to (remark_within ..)
    | with_reducible apply Within.to (setDesc_within ..))

theorem coldOrPoison_within (page : Nat) (s : State) : Within { aon := true, quay := true, dram := true, tier := true, led := true, port := true } s (coldOrPoison page s) := by
  unfold coldOrPoison
  repeat' (first
    | exact rfl
    | exact Or.inl rfl
    | exact Or.inr rfl
    | exact And.intro rfl (And.intro rfl rfl)
    | exact Or.inl ⟨rfl, rfl⟩
    | exact Or.inr (Or.inl ⟨rfl, rfl⟩)
    | exact Or.inr (Or.inl ⟨rfl, rfl, rfl, rfl⟩)
    | exact Or.inr (Or.inr rfl)
    | with_reducible assumption
    | with_reducible exact Within.refl _ _
    | (intro _ _ _ _)
    | (intro _ _ _)
    | (intro _ _)
    | (intro _)
    | with_reducible apply w_ite
    | with_reducible apply w_foldl
    | with_reducible apply w_foldl2
    | with_reducible apply Within.to (moveToCold_within ..)
    | with_reducible apply Within.to (poisonPage_within ..))

theorem baleFail_within (page : Nat) (s : State) : Within { aon := true, log := true, ev := true, quay := true, dram := true, tier := true, led := true, port := true, mgt := true } s (baleFail page s) := by
  unfold baleFail
  repeat' (first
    | exact rfl
    | exact Or.inl rfl
    | exact Or.inr rfl
    | exact And.intro rfl (And.intro rfl rfl)
    | exact Or.inl ⟨rfl, rfl⟩
    | exact Or.inr (Or.inl ⟨rfl, rfl⟩)
    | exact Or.inr (Or.inl ⟨rfl, rfl, rfl, rfl⟩)
    | exact Or.inr (Or.inr rfl)
    | with_reducible assumption
    | with_reducible exact Within.refl _ _
    | (intro _ _ _ _)
    | (intro _ _ _)
    | (intro _ _)
    | (intro _)
    | with_reducible apply w_ite
    | with_reducible apply w_foldl
    | with_reducible apply w_foldl2
    | with_reducible apply Within.to (coldOrPoison_within ..)
    | with_reducible apply Within.to (logIt_within ..))

theorem granuleLost_within (page addr : Nat) (s : State) : Within { aon := true, log := true, ev := true, quay := true, dram := true, tier := true, led := true, port := true, mgt := true } s (granuleLost page addr s) := by
  unfold granuleLost
  repeat' (first
    | exact rfl
    | exact Or.inl rfl
    | exact Or.inr rfl
    | exact And.intro rfl (And.intro rfl rfl)
    | exact Or.inl ⟨rfl, rfl⟩
    | exact Or.inr (Or.inl ⟨rfl, rfl⟩)
    | exact Or.inr (Or.inl ⟨rfl, rfl, rfl, rfl⟩)
    | exact Or.inr (Or.inr rfl)
    | with_reducible assumption
    | with_reducible exact Within.refl _ _
    | (intro _ _ _ _)
    | (intro _ _ _)
    | (intro _ _)
    | (intro _)
    | with_reducible apply w_ite
    | with_reducible apply w_foldl
    | with_reducible apply w_foldl2
    | with_reducible apply Within.to (autoRetire_within ..)
    | with_reducible apply Within.to (countUncorrectable_within ..)
    | with_reducible apply Within.to (logIt_within ..))

theorem runFail_within (page : Nat) (s : State) : Within { aon := true, log := true, ev := true, quay := true, dram := true, tier := true, led := true, port := true, mgt := true } s (runFail page s) := by
  unfold runFail
  repeat' (first
    | exact rfl
    | exact Or.inl rfl
    | exact Or.inr rfl
    | exact And.intro rfl (And.intro rfl rfl)
    | exact Or.inl ⟨rfl, rfl⟩
    | exact Or.inr (Or.inl ⟨rfl, rfl⟩)
    | exact Or.inr (Or.inl ⟨rfl, rfl, rfl, rfl⟩)
    | exact Or.inr (Or.inr rfl)
    | with_reducible assumption
    | with_reducible exact Within.refl _ _
    | (intro _ _ _ _)
    | (intro _ _ _)
    | (intro _ _)
    | (intro _)
    | with_reducible apply w_ite
    | with_reducible apply w_foldl
    | with_reducible apply w_foldl2
    | with_reducible apply Within.to (baleFail_within ..)
    | with_reducible apply Within.to (granuleLost_within ..)
    | with_reducible apply w_ite_snd
    | with_reducible refine w_snd (by assumption) ?_
    | dsimp only
    | split)

theorem runFailBurn_within (page : Nat) (s : State) : Within { aon := true, log := true, ev := true, sec := true, quay := true, dram := true, mem := true, tier := true, led := true, reins := true, port := true, mgt := true } s (runFailBurn page s) := by
  unfold runFailBurn
  repeat' (first
    | exact rfl
    | exact Or.inl rfl
    | exact Or.inr rfl
    | exact And.intro rfl (And.intro rfl rfl)
    | exact Or.inl ⟨rfl, rfl⟩
    | exact Or.inr (Or.inl ⟨rfl, rfl⟩)
    | exact Or.inr (Or.inl ⟨rfl, rfl, rfl, rfl⟩)
    | exact Or.inr (Or.inr rfl)
    | with_reducible assumption
    | with_reducible exact Within.refl _ _
    | (intro _ _ _ _)
    | (intro _ _ _)
    | (intro _ _)
    | (intro _)
    | with_reducible apply w_ite
    | with_reducible apply w_foldl
    | with_reducible apply w_foldl2
    | with_reducible apply Within.to (runFail_within ..)
    | with_reducible apply Within.to (setCtr_within ..))

theorem setQline_within (l : Line) (q : QLine) (s : State) : Within { quay := true } s (setQline l q s) := by
  unfold setQline
  repeat' (first
    | exact rfl
    | exact Or.inl rfl
    | exact Or.inr rfl
    | exact And.intro rfl (And.intro rfl rfl)
    | exact Or.inl ⟨rfl, rfl⟩
    | exact Or.inr (Or.inl ⟨rfl, rfl⟩)
    | exact Or.inr (Or.inl ⟨rfl, rfl, rfl, rfl⟩)
    | exact Or.inr (Or.inr rfl)
    | with_reducible assumption
    | with_reducible exact Within.refl _ _
    | (intro _ _ _ _)
    | (intro _ _ _)
    | (intro _ _)
    | (intro _)
    | with_reducible apply w_ite
    | with_reducible apply w_foldl
    | with_reducible apply w_foldl2
    | with_reducible apply w_ite_snd
    | dsimp only
    | split
    | with_reducible refine w_quay ?_ ?_)

theorem logMergePoisoned_within (l : Line) (q : QLine) (s : State) : Within { log := true, ev := true, mgt := true } s (logMergePoisoned l q s) := by
  unfold logMergePoisoned
  repeat' (first
    | exact rfl
    | exact Or.inl rfl
    | exact Or.inr rfl
    | exact And.intro rfl (And.intro rfl rfl)
    | exact Or.inl ⟨rfl, rfl⟩
    | exact Or.inr (Or.inl ⟨rfl, rfl⟩)
    | exact Or.inr (Or.inl ⟨rfl, rfl, rfl, rfl⟩)
    | exact Or.inr (Or.inr rfl)
    | with_reducible assumption
    | with_reducible exact Within.refl _ _
    | (intro _ _ _ _)
    | (intro _ _ _)
    | (intro _ _)
    | (intro _)
    | with_reducible apply w_ite
    | with_reducible apply w_foldl
    | with_reducible apply w_foldl2
    | with_reducible apply Within.to (evQb_within ..)
    | with_reducible apply Within.to (logIt_within ..))

theorem mergeWarm_within (l : Line) (q : QLine) (s : State) : Within { aon := true, log := true, ev := true, quay := true, dram := true, mem := true, tier := true, led := true, reins := true, port := true, noc := true, mgt := true } s (mergeWarm l q s).2 := by
  unfold mergeWarm
  repeat' (first
    | exact rfl
    | exact Or.inl rfl
    | exact Or.inr rfl
    | exact And.intro rfl (And.intro rfl rfl)
    | exact Or.inl ⟨rfl, rfl⟩
    | exact Or.inr (Or.inl ⟨rfl, rfl⟩)
    | exact Or.inr (Or.inl ⟨rfl, rfl, rfl, rfl⟩)
    | exact Or.inr (Or.inr rfl)
    | with_reducible assumption
    | with_reducible exact Within.refl _ _
    | (intro _ _ _ _)
    | (intro _ _ _)
    | (intro _ _)
    | (intro _)
    | with_reducible apply w_ite
    | with_reducible apply w_foldl
    | with_reducible apply w_foldl2
    | with_reducible exact wo_none
    | with_reducible exact wo2_none
    | with_reducible refine wo2_eq (by assumption) ?_
    | with_reducible refine wo_eq (by assumption) ?_
    | with_reducible refine wo2_map ?_ ?_
    | with_reducible refine wo2_mapAny ?_
    | with_reducible refine wo_map2 ?_ ?_
    | with_reducible refine wo_mapS ?_ ?_
    | with_reducible refine wo_map ?_
    | with_reducible apply wo_findSome
    | (intro _)
    | with_reducible apply wo_some
    | with_reducible apply wo2_some
    | with_reducible apply wo_ite
    | with_reducible apply wo2_ite
    | with_reducible apply Within.to (logMergePoisoned_within ..)
    | with_reducible apply Within.to (openFault_within ..)
    | with_reducible apply wo2_to (placeTile_within ..)
    | with_reducible apply Within.to (readGranules_within ..)
    | with_reducible apply Within.to (runFail_within ..)
    | with_reducible apply Within.to (tileLine_within ..)
    | with_reducible apply w_ite_snd
    | with_reducible refine w_of_some2 (by assumption) ?_
    | dsimp only
    | split)

theorem mergeRead_within (l : Line) (q : QLine) (err : BitVec 640) (again : Bool) (s : State) : Within { aon := true, log := true, ev := true, quay := true, dram := true, mem := true, tier := true, led := true, reins := true, port := true, noc := true, mgt := true } s (mergeRead l q err again s).2 := by
  unfold mergeRead
  repeat' (first
    | exact rfl
    | exact Or.inl rfl
    | exact Or.inr rfl
    | exact And.intro rfl (And.intro rfl rfl)
    | exact Or.inl ⟨rfl, rfl⟩
    | exact Or.inr (Or.inl ⟨rfl, rfl⟩)
    | exact Or.inr (Or.inl ⟨rfl, rfl, rfl, rfl⟩)
    | exact Or.inr (Or.inr rfl)
    | with_reducible assumption
    | with_reducible exact Within.refl _ _
    | (intro _ _ _ _)
    | (intro _ _ _)
    | (intro _ _)
    | (intro _)
    | with_reducible apply w_ite
    | with_reducible apply w_foldl
    | with_reducible apply w_foldl2
    | with_reducible apply Within.to (countUncorrectable_within ..)
    | with_reducible apply Within.to (logMergePoisoned_within ..)
    | with_reducible apply Within.to (mergeWarm_within ..)
    | with_reducible apply Within.to (noteCheck_within ..)
    | with_reducible apply Within.to (noteTransient_within ..)
    | with_reducible apply Within.to (openFault_within ..)
    | with_reducible apply Within.to (readNow_within ..)
    | with_reducible apply Within.to (useCtx_within ..)
    | with_reducible apply w_ite_snd
    | with_reducible refine w_snd (by assumption) ?_
    | dsimp only
    | split
    | with_reducible refine w_dram ?_ ?_ ?_)

theorem mergeDone_within (l : Line) (q : QLine) (x : BitVec 512) (p : Bool) (s : State) : Within { log := true, ev := true, sec := true, quay := true, dram := true, mem := true, reins := true, mgt := true } s (mergeDone l q x p s) := by
  unfold mergeDone
  repeat' (first
    | exact rfl
    | exact Or.inl rfl
    | exact Or.inr rfl
    | exact And.intro rfl (And.intro rfl rfl)
    | exact Or.inl ⟨rfl, rfl⟩
    | exact Or.inr (Or.inl ⟨rfl, rfl⟩)
    | exact Or.inr (Or.inl ⟨rfl, rfl, rfl, rfl⟩)
    | exact Or.inr (Or.inr rfl)
    | with_reducible assumption
    | with_reducible exact Within.refl _ _
    | (intro _ _ _ _)
    | (intro _ _ _)
    | (intro _ _)
    | (intro _)
    | with_reducible apply w_ite
    | with_reducible apply w_foldl
    | with_reducible apply w_foldl2
    | with_reducible refine Within.to (doWork_within (p := { log := true, ev := true, sec := true, quay := true, dram := true, mem := true, reins := true, mgt := true }) (hp := rfl) (h1 := ?_) ..) rfl ?_
    | with_reducible apply Within.to (setQline_within ..)
    | with_reducible apply Within.to (writeBerth_within ..)
    | with_reducible apply w_ite_snd
    | dsimp only
    | split
    | with_reducible refine w_quay ?_ ?_)

theorem mergeNow_within (l : Line) (err : BitVec 640) (again : Bool) (s : State) : Within { aon := true, log := true, ev := true, sec := true, quay := true, dram := true, mem := true, tier := true, led := true, reins := true, port := true, noc := true, mgt := true } s (mergeNow l err again s) := by
  unfold mergeNow
  repeat' (first
    | exact rfl
    | exact Or.inl rfl
    | exact Or.inr rfl
    | exact And.intro rfl (And.intro rfl rfl)
    | exact Or.inl ⟨rfl, rfl⟩
    | exact Or.inr (Or.inl ⟨rfl, rfl⟩)
    | exact Or.inr (Or.inl ⟨rfl, rfl, rfl, rfl⟩)
    | exact Or.inr (Or.inr rfl)
    | with_reducible assumption
    | with_reducible exact Within.refl _ _
    | (intro _ _ _ _)
    | (intro _ _ _)
    | (intro _ _)
    | (intro _)
    | with_reducible apply w_ite
    | with_reducible apply w_foldl
    | with_reducible apply w_foldl2
    | with_reducible apply Within.to (evQb_within ..)
    | with_reducible apply Within.to (loadCtr_within ..)
    | with_reducible apply Within.to (mergeDone_within ..)
    | with_reducible apply Within.to (mergeRead_within ..)
    | with_reducible apply w_ite_snd
    | with_reducible refine w_snd (by assumption) ?_
    | dsimp only
    | split)

theorem mergeLine_within (l : Line) (err : BitVec 640) (s : State) : Within { aon := true, log := true, ev := true, sec := true, quay := true, dram := true, mem := true, tier := true, led := true, reins := true, port := true, noc := true, mgt := true } s (mergeLine l err s) := by
  unfold mergeLine
  repeat' (first
    | exact rfl
    | exact Or.inl rfl
    | exact Or.inr rfl
    | exact And.intro rfl (And.intro rfl rfl)
    | exact Or.inl ⟨rfl, rfl⟩
    | exact Or.inr (Or.inl ⟨rfl, rfl⟩)
    | exact Or.inr (Or.inl ⟨rfl, rfl, rfl, rfl⟩)
    | exact Or.inr (Or.inr rfl)
    | with_reducible assumption
    | with_reducible exact Within.refl _ _
    | (intro _ _ _ _)
    | (intro _ _ _)
    | (intro _ _)
    | (intro _)
    | with_reducible apply w_ite
    | with_reducible apply w_foldl
    | with_reducible apply w_foldl2
    | with_reducible apply Within.to (mergeNow_within ..))

theorem newBerth_within (page : Nat) (lines : List (BitVec 512 × Bool)) (always : Bool) (s : State) : WO2 { ev := true, sec := true, quay := true, dram := true, mem := true, reins := true, mgt := true } s (newBerth page lines always s) := by
  unfold newBerth
  repeat' (first
    | exact rfl
    | exact Or.inl rfl
    | exact Or.inr rfl
    | exact And.intro rfl (And.intro rfl rfl)
    | exact Or.inl ⟨rfl, rfl⟩
    | exact Or.inr (Or.inl ⟨rfl, rfl⟩)
    | exact Or.inr (Or.inl ⟨rfl, rfl, rfl, rfl⟩)
    | exact Or.inr (Or.inr rfl)
    | with_reducible assumption
    | with_reducible exact Within.refl _ _
    | (intro _ _ _ _)
    | (intro _ _ _)
    | (intro _ _)
    | (intro _)
    | with_reducible apply w_ite
    | with_reducible apply w_foldl
    | with_reducible apply w_foldl2
    | with_reducible exact wo_none
    | with_reducible exact wo2_none
    | with_reducible refine wo2_eq (by assumption) ?_
    | with_reducible refine wo_eq (by assumption) ?_
    | with_reducible refine wo2_map ?_ ?_
    | with_reducible refine wo2_mapAny ?_
    | with_reducible refine wo_map2 ?_ ?_
    | with_reducible refine wo_mapS ?_ ?_
    | with_reducible refine wo_map ?_
    | with_reducible apply wo_findSome
    | (intro _)
    | with_reducible apply wo_some
    | with_reducible apply wo2_some
    | with_reducible apply wo_ite
    | with_reducible apply wo2_ite
    | with_reducible apply wo2_to (allocFrame_within ..)
    | with_reducible apply Within.to (fillBerth_within ..)
    | with_reducible apply Within.to (setFrame_within ..))

theorem evictLine_within (l : Line) (s : State) : Within { aon := true, log := true, ev := true, sec := true, quay := true, dram := true, mem := true, tier := true, led := true, reins := true, port := true, noc := true, mgt := true } s (evictLine l s) := by
  unfold evictLine
  repeat' (first
    | exact rfl
    | exact Or.inl rfl
    | exact Or.inr rfl
    | exact And.intro rfl (And.intro rfl rfl)
    | exact Or.inl ⟨rfl, rfl⟩
    | exact Or.inr (Or.inl ⟨rfl, rfl⟩)
    | exact Or.inr (Or.inl ⟨rfl, rfl, rfl, rfl⟩)
    | exact Or.inr (Or.inr rfl)
    | with_reducible assumption
    | with_reducible exact Within.refl _ _
    | (intro _ _ _ _)
    | (intro _ _ _)
    | (intro _ _)
    | (intro _)
    | with_reducible apply w_ite
    | with_reducible apply w_foldl
    | with_reducible apply w_foldl2
    | with_reducible exact wo_none
    | with_reducible exact wo2_none
    | with_reducible refine wo2_eq (by assumption) ?_
    | with_reducible refine wo_eq (by assumption) ?_
    | with_reducible refine wo2_map ?_ ?_
    | with_reducible refine wo2_mapAny ?_
    | with_reducible refine wo_map2 ?_ ?_
    | with_reducible refine wo_mapS ?_ ?_
    | with_reducible refine wo_map ?_
    | with_reducible apply wo_findSome
    | (intro _)
    | with_reducible apply wo_some
    | with_reducible apply wo2_some
    | with_reducible apply wo_ite
    | with_reducible apply wo2_ite
    | with_reducible refine Within.to (doWork_within (p := { aon := true, log := true, ev := true, sec := true, quay := true, dram := true, mem := true, tier := true, led := true, reins := true, port := true, noc := true, mgt := true }) (hp := rfl) (h1 := ?_) ..) rfl ?_
    | with_reducible apply Within.to (dropLine_within ..)
    | with_reducible apply Within.to (loadCtr_within ..)
    | with_reducible apply Within.to (mergeRead_within ..)
    | with_reducible apply Within.to (modOp_within ..)
    | with_reducible apply wo2_to (newBerth_within ..)
    | with_reducible apply Within.to (openFault_within ..)
    | with_reducible apply Within.to (setDesc_within ..)
    | with_reducible apply Within.to (startPromotion_within ..)
    | with_reducible apply Within.to (writeBerth_within ..)
    | with_reducible apply w_ite_snd
    | with_reducible refine w_snd (by assumption) ?_
    | with_reducible refine w_of_some2 (by assumption) ?_
    | dsimp only
    | split)

theorem lineUncorrectable_within (page i addr : Nat) (st : BitVec 640) (who : Option (Node × Tag)) (s : State) : Within { aon := true, log := true, ev := true, sec := true, quay := true, dram := true, mem := true, tier := true, led := true, reins := true, port := true, mgt := true } s (lineUncorrectable page i addr st who s) := by
  unfold lineUncorrectable
  repeat' (first
    | exact rfl
    | exact Or.inl rfl
    | exact Or.inr rfl
    | exact And.intro rfl (And.intro rfl rfl)
    | exact Or.inl ⟨rfl, rfl⟩
    | exact Or.inr (Or.inl ⟨rfl, rfl⟩)
    | exact Or.inr (Or.inl ⟨rfl, rfl, rfl, rfl⟩)
    | exact Or.inr (Or.inr rfl)
    | with_reducible assumption
    | with_reducible exact Within.refl _ _
    | (intro _ _ _ _)
    | (intro _ _ _)
    | (intro _ _)
    | (intro _)
    | with_reducible apply w_ite
    | with_reducible apply w_foldl
    | with_reducible apply w_foldl2
    | with_reducible apply Within.to (autoRetire_within ..)
    | with_reducible apply Within.to (coldOrPoison_within ..)
    | with_reducible apply Within.to (countUncorrectable_within ..)
    | with_reducible apply Within.to (logIt_within ..)
    | with_reducible apply Within.to (writeBerth_within ..))

theorem finishOp_within (page : Nat) (s : State) : Within { aon := true, log := true, ev := true, sec := true, pin := true, quay := true, dram := true, mem := true, tier := true, led := true, reins := true, port := true, noc := true, mgt := true } s (finishOp page s) := by
  unfold finishOp
  repeat' (first
    | exact rfl
    | exact Or.inl rfl
    | exact Or.inr rfl
    | exact And.intro rfl (And.intro rfl rfl)
    | exact Or.inl ⟨rfl, rfl⟩
    | exact Or.inr (Or.inl ⟨rfl, rfl⟩)
    | exact Or.inr (Or.inl ⟨rfl, rfl, rfl, rfl⟩)
    | exact Or.inr (Or.inr rfl)
    | with_reducible assumption
    | with_reducible exact Within.refl _ _
    | (intro _ _ _ _)
    | (intro _ _ _)
    | (intro _ _)
    | (intro _)
    | with_reducible apply w_ite
    | with_reducible apply w_foldl
    | with_reducible apply w_foldl2
    | with_reducible apply Within.to (endOp_within ..)
    | with_reducible apply Within.to (evictLine_within ..)
    | with_reducible apply Within.to (orphanNow_within ..)
    | with_reducible apply Within.to (poisonNow_within ..)
    | with_reducible apply Within.to (pursueRetire_within ..)
    | with_reducible apply Within.to (retryOrphans_within ..)
    | with_reducible apply Within.to (setOps_within ..)
    | with_reducible apply Within.to (startPromotion_within ..)
    | with_reducible apply Within.to (workDone_within ..)
    | with_reducible apply w_ite_snd
    | with_reducible refine w_snd (by assumption) ?_
    | dsimp only
    | split)

end Sys2Proof.Laws
end

