-- ==== Sys2Proof/Laws/WHome.lean ====
section
/-! SUPPORT. What each operation of Machine/Home.lean may change. -/

namespace Sys2Proof.Laws

open Sys2Proof Sys2Proof.Machine

theorem takeRx_within (p : Nat) (op : BitVec 8) (src : Node) (tag : Tag) (s : State) : Within { port := true } s (takeRx p op src tag s) := by
  unfold takeRx
  repeat' (first
    | exact rfl
    | exact Or.inl rfl
    | exact Or.inr rfl
    | exact And.intro rfl (And.intro rfl rfl)
    | exact Or.inl ⟨rfl, rfl⟩
    | exact Or.inr (Or.inl ⟨rfl, rfl⟩)
    | exact Or.inr (Or.inl ⟨rfl, rfl, rfl, rfl⟩)
    | exact Or.inr (Or.inr rfl)
    | with_reducible assumption
    | with_reducible exact Within.refl _ _
    | (intro _ _ _ _)
    | (intro _ _ _)
    | (intro _ _)
    | (intro _)
    | with_reducible apply w_ite
    | with_reducible apply w_foldl
    | with_reducible apply w_foldl2
    | with_reducible apply Within.to (setPort_within ..)
    | with_reducible apply w_ite_snd
    | dsimp only
    | split)

theorem pktInvalid_within (port : Nat) (op : BitVec 8) (src : Node) (tag : Tag) (reason : Nat) (s : State) : Within { log := true, ev := true, mgt := true } s (pktInvalid port op src tag reason s) := by
  unfold pktInvalid
  repeat' (first
    | exact rfl
    | exact Or.inl rfl
    | exact Or.inr rfl
    | exact And.intro rfl (And.intro rfl rfl)
    | exact Or.inl ⟨rfl, rfl⟩
    | exact Or.inr (Or.inl ⟨rfl, rfl⟩)
    | exact Or.inr (Or.inl ⟨rfl, rfl, rfl, rfl⟩)
    | exact Or.inr (Or.inr rfl)
    | with_reducible assumption
    | with_reducible exact Within.refl _ _
    | (intro _ _ _ _)
    | (intro _ _ _)
    | (intro _ _)
    | (intro _)
    | with_reducible apply w_ite
    | with_reducible apply w_foldl
    | with_reducible apply w_foldl2
    | with_reducible apply Within.to (evAfl_within ..)
    | with_reducible apply Within.to (logIt_within ..))

theorem wrongDest_within (r : Req) (s : State) : Within { log := true, ev := true, mgt := true } s (wrongDest r s) := by
  unfold wrongDest
  repeat' (first
    | exact rfl
    | exact Or.inl rfl
    | exact Or.inr rfl
    | exact And.intro rfl (And.intro rfl rfl)
    | exact Or.inl ⟨rfl, rfl⟩
    | exact Or.inr (Or.inl ⟨rfl, rfl⟩)
    | exact Or.inr (Or.inl ⟨rfl, rfl, rfl, rfl⟩)
    | exact Or.inr (Or.inr rfl)
    | with_reducible assumption
    | with_reducible exact Within.refl _ _
    | (intro _ _ _ _)
    | (intro _ _ _)
    | (intro _ _)
    | (intro _)
    | with_reducible apply w_ite
    | with_reducible apply w_foldl
    | with_reducible apply w_foldl2
    | with_reducible apply Within.to (evAfl_within ..)
    | with_reducible apply Within.to (logIt_within ..))

theorem lateOrInvalid_within (port : Nat) (op : BitVec 8) (src : Node) (tag : Tag) (s : State) : Within { log := true, ev := true, mgt := true } s (lateOrInvalid port op src tag s) := by
  unfold lateOrInvalid
  repeat' (first
    | exact rfl
    | exact Or.inl rfl
    | exact Or.inr rfl
    | exact And.intro rfl (And.intro rfl rfl)
    | exact Or.inl ⟨rfl, rfl⟩
    | exact Or.inr (Or.inl ⟨rfl, rfl⟩)
    | exact Or.inr (Or.inl ⟨rfl, rfl, rfl, rfl⟩)
    | exact Or.inr (Or.inr rfl)
    | with_reducible assumption
    | with_reducible exact Within.refl _ _
    | (intro _ _ _ _)
    | (intro _ _ _)
    | (intro _ _)
    | (intro _)
    | with_reducible apply w_ite
    | with_reducible apply w_foldl
    | with_reducible apply w_foldl2
    | with_reducible apply Within.to (evAfl_within ..)
    | with_reducible apply Within.to (pktInvalid_within ..))

theorem outUp_within (c : BitVec 8) (s : State) : Within { reins := true } s (outUp c s) := by
  unfold outUp
  repeat' (first
    | exact rfl
    | exact Or.inl rfl
    | exact Or.inr rfl
    | exact And.intro rfl (And.intro rfl rfl)
    | exact Or.inl ⟨rfl, rfl⟩
    | exact Or.inr (Or.inl ⟨rfl, rfl⟩)
    | exact Or.inr (Or.inl ⟨rfl, rfl, rfl, rfl⟩)
    | exact Or.inr (Or.inr rfl)
    | with_reducible assumption
    | with_reducible exact Within.refl _ _
    | (intro _ _ _ _)
    | (intro _ _ _)
    | (intro _ _)
    | (intro _)
    | with_reducible apply w_ite
    | with_reducible apply w_foldl
    | with_reducible apply w_foldl2
    | with_reducible apply w_ite_snd
    | dsimp only
    | split
    | with_reducible refine w_reins ?_ ?_)

theorem outDown_within (c : BitVec 8) (s : State) : Within { reins := true } s (outDown c s) := by
  unfold outDown
  repeat' (first
    | exact rfl
    | exact Or.inl rfl
    | exact Or.inr rfl
    | exact And.intro rfl (And.intro rfl rfl)
    | exact Or.inl ⟨rfl, rfl⟩
    | exact Or.inr (Or.inl ⟨rfl, rfl⟩)
    | exact Or.inr (Or.inl ⟨rfl, rfl, rfl, rfl⟩)
    | exact Or.inr (Or.inr rfl)
    | with_reducible assumption
    | with_reducible exact Within.refl _ _
    | (intro _ _ _ _)
    | (intro _ _ _)
    | (intro _ _)
    | (intro _)
    | with_reducible apply w_ite
    | with_reducible apply w_foldl
    | with_reducible apply w_foldl2
    | with_reducible apply w_ite_snd
    | dsimp only
    | split
    | with_reducible refine w_reins ?_ ?_)

theorem countEnd_within (r : Req) (due : Option Nat) (s : State) : Within { reins := true } s (countEnd r due s) := by
  unfold countEnd
  repeat' (first
    | exact rfl
    | exact Or.inl rfl
    | exact Or.inr rfl
    | exact And.intro rfl (And.intro rfl rfl)
    | exact Or.inl ⟨rfl, rfl⟩
    | exact Or.inr (Or.inl ⟨rfl, rfl⟩)
    | exact Or.inr (Or.inl ⟨rfl, rfl, rfl, rfl⟩)
    | exact Or.inr (Or.inr rfl)
    | with_reducible assumption
    | with_reducible exact Within.refl _ _
    | (intro _ _ _ _)
    | (intro _ _ _)
    | (intro _ _)
    | (intro _)
    | with_reducible apply w_ite
    | with_reducible apply w_foldl
    | with_reducible apply w_foldl2
    | with_reducible apply Within.to (outDown_within ..)
    | with_reducible apply w_ite_snd
    | dsimp only
    | split
    | with_reducible refine w_reins ?_ ?_)

theorem placed_within (l : List Pkt) (s : State) : Within { ev := true, reins := true, mgt := true } s (placed l s) := by
  unfold placed
  repeat' (first
    | exact rfl
    | exact Or.inl rfl
    | exact Or.inr rfl
    | exact And.intro rfl (And.intro rfl rfl)
    | exact Or.inl ⟨rfl, rfl⟩
    | exact Or.inr (Or.inl ⟨rfl, rfl⟩)
    | exact Or.inr (Or.inl ⟨rfl, rfl, rfl, rfl⟩)
    | exact Or.inr (Or.inr rfl)
    | with_reducible assumption
    | with_reducible exact Within.refl _ _
    | (intro _ _ _ _)
    | (intro _ _ _)
    | (intro _ _)
    | (intro _)
    | with_reducible apply w_ite
    | with_reducible apply w_foldl
    | with_reducible apply w_foldl2
    | with_reducible apply Within.to (judgeDue_within ..)
    | with_reducible apply w_ite_snd
    | with_reducible refine w_snd (by assumption) ?_
    | dsimp only
    | split
    | with_reducible refine w_reins ?_ ?_)

theorem ownRsp_within (r : Req) (op : BitVec 8) (body : List (BitVec 128)) (s : State) : Within { quay := true } s (ownRsp r op body s) := by
  unfold ownRsp
  repeat' (first
    | exact rfl
    | exact Or.inl rfl
    | exact Or.inr rfl
    | exact And.intro rfl (And.intro rfl rfl)
    | exact Or.inl ⟨rfl, rfl⟩
    | exact Or.inr (Or.inl ⟨rfl, rfl⟩)
    | exact Or.inr (Or.inl ⟨rfl, rfl, rfl, rfl⟩)
    | exact Or.inr (Or.inr rfl)
    | with_reducible assumption
    | with_reducible exact Within.refl _ _
    | (intro _ _ _ _)
    | (intro _ _ _)
    | (intro _ _)
    | (intro _)
    | with_reducible apply w_ite
    | with_reducible apply w_foldl
    | with_reducible apply w_foldl2
    | with_reducible apply w_ite_snd
    | dsimp only
    | split
    | with_reducible refine w_quay ?_ ?_)

theorem sendRsp_within (r : Req) (op : BitVec 8) (status : BitVec 4) (f : RspFlags) (body : List (BitVec 128)) (s : State) : Within { quay := true, port := true } s (sendRsp r op status f body s) := by
  unfold sendRsp
  repeat' (first
    | exact rfl
    | exact Or.inl rfl
    | exact Or.inr rfl
    | exact And.intro rfl (And.intro rfl rfl)
    | exact Or.inl ⟨rfl, rfl⟩
    | exact Or.inr (Or.inl ⟨rfl, rfl⟩)
    | exact Or.inr (Or.inl ⟨rfl, rfl, rfl, rfl⟩)
    | exact Or.inr (Or.inr rfl)
    | with_reducible assumption
    | with_reducible exact Within.refl _ _
    | (intro _ _ _ _)
    | (intro _ _ _)
    | (intro _ _)
    | (intro _)
    | with_reducible apply w_ite
    | with_reducible apply w_foldl
    | with_reducible apply w_foldl2
    | with_reducible apply Within.to (ownRsp_within ..)
    | with_reducible apply Within.to (sendPkt_within ..))

theorem sendErr_within (r : Req) (status : BitVec 4) (s : State) : Within { quay := true, port := true } s (sendErr r status s) := by
  unfold sendErr
  repeat' (first
    | exact rfl
    | exact Or.inl rfl
    | exact Or.inr rfl
    | exact And.intro rfl (And.intro rfl rfl)
    | exact Or.inl ⟨rfl, rfl⟩
    | exact Or.inr (Or.inl ⟨rfl, rfl⟩)
    | exact Or.inr (Or.inl ⟨rfl, rfl, rfl, rfl⟩)
    | exact Or.inr (Or.inr rfl)
    | with_reducible assumption
    | with_reducible exact Within.refl _ _
    | (intro _ _ _ _)
    | (intro _ _ _)
    | (intro _ _)
    | (intro _)
    | with_reducible apply w_ite
    | with_reducible apply w_foldl
    | with_reducible apply w_foldl2
    | with_reducible apply Within.to (sendRsp_within ..))

theorem dirPut_within (k : Nat) (x : BitVec 512) (s : State) : Within { quay := true } s (dirPut k x s) := by
  unfold dirPut
  repeat' (first
    | exact rfl
    | exact Or.inl rfl
    | exact Or.inr rfl
    | exact And.intro rfl (And.intro rfl rfl)
    | exact Or.inl ⟨rfl, rfl⟩
    | exact Or.inr (Or.inl ⟨rfl, rfl⟩)
    | exact Or.inr (Or.inl ⟨rfl, rfl, rfl, rfl⟩)
    | exact Or.inr (Or.inr rfl)
    | with_reducible assumption
    | with_reducible exact Within.refl _ _
    | (intro _ _ _ _)
    | (intro _ _ _)
    | (intro _ _)
    | (intro _)
    | with_reducible apply w_ite
    | with_reducible apply w_foldl
    | with_reducible apply w_foldl2
    | with_reducible apply w_ite_snd
    | dsimp only
    | split
    | with_reducible refine w_quay ?_ ?_)

theorem setDir_within (l : Line) (e : BitVec 128) (s : State) : Within { quay := true } s (setDir l e s) := by
  unfold setDir
  repeat' (first
    | exact rfl
    | exact Or.inl rfl
    | exact Or.inr rfl
    | exact And.intro rfl (And.intro rfl rfl)
    | exact Or.inl ⟨rfl, rfl⟩
    | exact Or.inr (Or.inl ⟨rfl, rfl⟩)
    | exact Or.inr (Or.inl ⟨rfl, rfl, rfl, rfl⟩)
    | exact Or.inr (Or.inr rfl)
    | with_reducible assumption
    | with_reducible exact Within.refl _ _
    | (intro _ _ _ _)
    | (intro _ _ _)
    | (intro _ _)
    | (intro _)
    | with_reducible apply w_ite
    | with_reducible apply w_foldl
    | with_reducible apply w_foldl2
    | with_reducible apply Within.to (dirPut_within ..)
    | with_reducible apply w_ite_snd
    | dsimp only
    | split)

theorem dirFix_within (l : Line) (s : State) : Within { log := true, ev := true, quay := true, mgt := true } s (dirFix l s) := by
  unfold dirFix
  repeat' (first
    | exact rfl
    | exact Or.inl rfl
    | exact Or.inr rfl
    | exact And.intro rfl (And.intro rfl rfl)
    | exact Or.inl ⟨rfl, rfl⟩
    | exact Or.inr (Or.inl ⟨rfl, rfl⟩)
    | exact Or.inr (Or.inl ⟨rfl, rfl, rfl, rfl⟩)
    | exact Or.inr (Or.inr rfl)
    | with_reducible assumption
    | with_reducible exact Within.refl _ _
    | (intro _ _ _ _)
    | (intro _ _ _)
    | (intro _ _)
    | (intro _)
    | with_reducible apply w_ite
    | with_reducible apply w_foldl
    | with_reducible apply w_foldl2
    | with_reducible apply Within.to (dirPut_within ..)
    | with_reducible apply Within.to (logIt_within ..))

theorem useDesc_within (page : Nat) (cls : BitVec 8) (s : State) : Within { ev := true, quay := true, reins := true, mgt := true } s (useDesc page cls s) := by
  unfold useDesc
  repeat' (first
    | exact rfl
    | exact Or.inl rfl
    | exact Or.inr rfl
    | exact And.intro rfl (And.intro rfl rfl)
    | exact Or.inl ⟨rfl, rfl⟩
    | exact Or.inr (Or.inl ⟨rfl, rfl⟩)
    | exact Or.inr (Or.inl ⟨rfl, rfl, rfl, rfl⟩)
    | exact Or.inr (Or.inr rfl)
    | with_reducible assumption
    | with_reducible exact Within.refl _ _
    | (intro _ _ _ _)
    | (intro _ _ _)
    | (intro _ _)
    | (intro _)
    | with_reducible apply w_ite
    | with_reducible apply w_foldl
    | with_reducible apply w_foldl2
    | with_reducible apply Within.to (evQb_within ..)
    | with_reducible apply Within.to (readNow_within ..)
    | with_reducible apply w_ite_snd
    | dsimp only
    | split
    | with_reducible refine w_quay ?_ ?_)

theorem useDir_within (l : Line) (cls : BitVec 8) (s : State) : Within { ev := true, quay := true, reins := true, mgt := true } s (useDir l cls s) := by
  unfold useDir
  repeat' (first
    | exact rfl
    | exact Or.inl rfl
    | exact Or.inr rfl
    | exact And.intro rfl (And.intro rfl rfl)
    | exact Or.inl ⟨rfl, rfl⟩
    | exact Or.inr (Or.inl ⟨rfl, rfl⟩)
    | exact Or.inr (Or.inl ⟨rfl, rfl, rfl, rfl⟩)
    | exact Or.inr (Or.inr rfl)
    | with_reducible assumption
    | with_reducible exact Within.refl _ _
    | (intro _ _ _ _)
    | (intro _ _ _)
    | (intro _ _)
    | (intro _)
    | with_reducible apply w_ite
    | with_reducible apply w_foldl
    | with_reducible apply w_foldl2
    | with_reducible apply Within.to (evQb_within ..)
    | with_reducible apply Within.to (readNow_within ..)
    | with_reducible apply w_ite_snd
    | dsimp only
    | split
    | with_reducible refine w_quay ?_ ?_)

theorem modTxn_within (line : Nat) (f : Txn → Txn) (s : State) : Within { quay := true } s (modTxn line f s) := by
  unfold modTxn
  repeat' (first
    | exact rfl
    | exact Or.inl rfl
    | exact Or.inr rfl
    | exact And.intro rfl (And.intro rfl rfl)
    | exact Or.inl ⟨rfl, rfl⟩
    | exact Or.inr (Or.inl ⟨rfl, rfl⟩)
    | exact Or.inr (Or.inl ⟨rfl, rfl, rfl, rfl⟩)
    | exact Or.inr (Or.inr rfl)
    | with_reducible assumption
    | with_reducible exact Within.refl _ _
    | (intro _ _ _ _)
    | (intro _ _ _)
    | (intro _ _)
    | (intro _)
    | with_reducible apply w_ite
    | with_reducible apply w_foldl
    | with_reducible apply w_foldl2
    | with_reducible apply w_ite_snd
    | dsimp only
    | split
    | with_reducible refine w_quay ?_ ?_)

theorem dropTxn_within (line : Nat) (s : State) : Within { quay := true } s (dropTxn line s) := by
  unfold dropTxn
  repeat' (first
    | exact rfl
    | exact Or.inl rfl
    | exact Or.inr rfl
    | exact And.intro rfl (And.intro rfl rfl)
    | exact Or.inl ⟨rfl, rfl⟩
    | exact Or.inr (Or.inl ⟨rfl, rfl⟩)
    | exact Or.inr (Or.inl ⟨rfl, rfl, rfl, rfl⟩)
    | exact Or.inr (Or.inr rfl)
    | with_reducible assumption
    | with_reducible exact Within.refl _ _
    | (intro _ _ _ _)
    | (intro _ _ _)
    | (intro _ _)
    | (intro _)
    | with_reducible apply w_ite
    | with_reducible apply w_foldl
    | with_reducible apply w_foldl2
    | with_reducible apply w_ite_snd
    | dsimp only
    | split
    | with_reducible refine w_quay ?_ ?_)

theorem snapFirst_within (l : Line) (s : State) : Within { rings := true } s (snapFirst l s) := by
  unfold snapFirst
  repeat' (first
    | exact rfl
    | exact Or.inl rfl
    | exact Or.inr rfl
    | exact And.intro rfl (And.intro rfl rfl)
    | exact Or.inl ⟨rfl, rfl⟩
    | exact Or.inr (Or.inl ⟨rfl, rfl⟩)
    | exact Or.inr (Or.inl ⟨rfl, rfl, rfl, rfl⟩)
    | exact Or.inr (Or.inr rfl)
    | with_reducible assumption
    | with_reducible exact Within.refl _ _
    | (intro _ _ _ _)
    | (intro _ _ _)
    | (intro _ _)
    | (intro _)
    | with_reducible apply w_ite
    | with_reducible apply w_foldl
    | with_reducible apply w_foldl2
    | with_reducible apply w_ite_snd
    | dsimp only
    | split
    | with_reducible refine w_rings ?_ ?_)

theorem evictOne_within (l : List Nat) (s : State) : WO { aon := true, log := true, ev := true, sec := true, quay := true, dram := true, mem := true, tier := true, led := true, reins := true, port := true, noc := true, mgt := true } s (evictOne l s) := by
  induction l generalizing s with
  | nil =>
    unfold evictOne
    repeat' (first
      | exact rfl
      | exact Or.inl rfl
      | exact Or.inr rfl
      | exact And.intro rfl (And.intro rfl rfl)
      | exact Or.inl ⟨rfl, rfl⟩
      | exact Or.inr (Or.inl ⟨rfl, rfl⟩)
      | exact Or.inr (Or.inl ⟨rfl, rfl, rfl, rfl⟩)
      | exact Or.inr (Or.inr rfl)
      | with_reducible assumption
      | with_reducible exact Within.refl _ _
      | (intro _ _ _ _)
      | (intro _ _ _)
      | (intro _ _)
      | (intro _)
      | with_reducible apply w_ite
      | with_reducible apply w_foldl
      | with_reducible apply w_foldl2
      | with_reducible exact wo_none
      | with_reducible exact wo2_none
      | with_reducible refine wo2_eq (by assumption) ?_
      | with_reducible refine wo_eq (by assumption) ?_
      | with_reducible refine wo2_map ?_ ?_
      | with_reducible refine wo2_mapAny ?_
      | with_reducible refine wo_map2 ?_ ?_
      | with_reducible refine wo_mapS ?_ ?_
      | with_reducible refine wo_map ?_
      | with_reducible apply wo_findSome
      | (intro _)
      | with_reducible apply wo_some
      | with_reducible apply wo2_some
      | with_reducible apply wo_ite
      | with_reducible apply wo2_ite
      | with_reducible apply Within.to (evictLine_within ..)
      | with_reducible apply w_ite_snd
      | with_reducible apply wo_to (ih ..)
      | dsimp only
      | split
      | with_reducible refine w_upd ?_ ?_ ?_ ?_ ?_ ?_ ?_ ?_ ?_ ?_ ?_ ?_ ?_ ?_ ?_ ?_ ?_ ?_ ?_ ?_ ?_ ?_ ?_)
  | cons x r ih =>
    unfold evictOne
    repeat' (first
      | exact rfl
      | exact Or.inl rfl
      | exact Or.inr rfl
      | exact And.intro rfl (And.intro rfl rfl)
      | exact Or.inl ⟨rfl, rfl⟩
      | exact Or.inr (Or.inl ⟨rfl, rfl⟩)
      | exact Or.inr (Or.inl ⟨rfl, rfl, rfl, rfl⟩)
      | exact Or.inr (Or.inr rfl)
      | with_reducible assumption
      | with_reducible exact Within.refl _ _
      | (intro _ _ _ _)
      | (intro _ _ _)
      | (intro _ _)
      | (intro _)
      | with_reducible apply w_ite
      | with_reducible apply w_foldl
      | with_reducible apply w_foldl2
      | with_reducible exact wo_none
      | with_reducible exact wo2_none
      | with_reducible refine wo2_eq (by assumption) ?_
      | with_reducible refine wo_eq (by assumption) ?_
      | with_reducible refine wo2_map ?_ ?_
      | with_reducible refine wo2_mapAny ?_
      | with_reducible refine wo_map2 ?_ ?_
      | with_reducible refine wo_mapS ?_ ?_
      | with_reducible refine wo_map ?_
      | with_reducible apply wo_findSome
      | (intro _)
      | with_reducible apply wo_some
      | with_reducible apply wo2_some
      | with_reducible apply wo_ite
      | with_reducible apply wo2_ite
      | with_reducible apply Within.to (evictLine_within ..)
      | with_reducible apply w_ite_snd
      | with_reducible apply wo_to (ih ..)
      | dsimp only
      | split
      | with_reducible refine w_upd ?_ ?_ ?_ ?_ ?_ ?_ ?_ ?_ ?_ ?_ ?_ ?_ ?_ ?_ ?_ ?_ ?_ ?_ ?_ ?_ ?_ ?_ ?_)

theorem makeRoom_within (l : Line) (s : State) : WO { aon := true, log := true, ev := true, sec := true, quay := true, dram := true, mem := true, tier := true, led := true, reins := true, port := true, noc := true, mgt := true } s (makeRoom l s) := by
  unfold makeRoom
  repeat' (first
    | exact rfl
    | exact Or.inl rfl
    | exact Or.inr rfl
    | exact And.intro rfl (And.intro rfl rfl)
    | exact Or.inl ⟨rfl, rfl⟩
    | exact Or.inr (Or.inl ⟨rfl, rfl⟩)
    | exact Or.inr (Or.inl ⟨rfl, rfl, rfl, rfl⟩)
    | exact Or.inr (Or.inr rfl)
    | with_reducible assumption
    | with_reducible exact Within.refl _ _
    | (intro _ _ _ _)
    | (intro _ _ _)
    | (intro _ _)
    | (intro _)
    | with_reducible apply w_ite
    | with_reducible apply w_foldl
    | with_reducible apply w_foldl2
    | with_reducible exact wo_none
    | with_reducible exact wo2_none
    | with_reducible refine wo2_eq (by assumption) ?_
    | with_reducible refine wo_eq (by assumption) ?_
    | with_reducible refine wo2_map ?_ ?_
    | with_reducible refine wo2_mapAny ?_
    | with_reducible refine wo_map2 ?_ ?_
    | with_reducible refine wo_mapS ?_ ?_
    | with_reducible refine wo_map ?_
    | with_reducible apply wo_findSome
    | (intro _)
    | with_reducible apply wo_some
    | with_reducible apply wo2_some
    | with_reducible apply wo_ite
    | with_reducible apply wo2_ite
    | with_reducible apply wo_to (evictOne_within ..))

theorem useLine_within (l : Line) (q : QLine) (s : State) : Within { quay := true } s (useLine l q s) := by
  unfold useLine
  repeat' (first
    | exact rfl
    | exact Or.inl rfl
    | exact Or.inr rfl
    | exact And.intro rfl (And.intro rfl rfl)
    | exact Or.inl ⟨rfl, rfl⟩
    | exact Or.inr (Or.inl ⟨rfl, rfl⟩)
    | exact Or.inr (Or.inl ⟨rfl, rfl, rfl, rfl⟩)
    | exact Or.inr (Or.inr rfl)
    | with_reducible assumption
    | with_reducible exact Within.refl _ _
    | (intro _ _ _ _)
    | (intro _ _ _)
    | (intro _ _)
    | (intro _)
    | with_reducible apply w_ite
    | with_reducible apply w_foldl
    | with_reducible apply w_foldl2
    | with_reducible apply Within.to (setQline_within ..)
    | with_reducible apply w_ite_snd
    | dsimp only
    | split
    | with_reducible refine w_quay ?_ ?_)

theorem fillLine_within (l : Line) (x : BitVec 512) (cls : BitVec 8) (s : State) : Within { aon := true, log := true, ev := true, sec := true, quay := true, dram := true, mem := true, tier := true, led := true, reins := true, port := true, noc := true, mgt := true } s (fillLine l x cls s) := by
  unfold fillLine
  repeat' (first
    | exact rfl
    | exact Or.inl rfl
    | exact Or.inr rfl
    | exact And.intro rfl (And.intro rfl rfl)
    | exact Or.inl ⟨rfl, rfl⟩
    | exact Or.inr (Or.inl ⟨rfl, rfl⟩)
    | exact Or.inr (Or.inl ⟨rfl, rfl, rfl, rfl⟩)
    | exact Or.inr (Or.inr rfl)
    | with_reducible assumption
    | with_reducible exact Within.refl _ _
    | (intro _ _ _ _)
    | (intro _ _ _)
    | (intro _ _)
    | (intro _)
    | with_reducible apply w_ite
    | with_reducible apply w_foldl
    | with_reducible apply w_foldl2
    | with_reducible exact wo_none
    | with_reducible exact wo2_none
    | with_reducible refine wo2_eq (by assumption) ?_
    | with_reducible refine wo_eq (by assumption) ?_
    | with_reducible refine wo2_map ?_ ?_
    | with_reducible refine wo2_mapAny ?_
    | with_reducible refine wo_map2 ?_ ?_
    | with_reducible refine wo_mapS ?_ ?_
    | with_reducible refine wo_map ?_
    | with_reducible apply wo_findSome
    | (intro _)
    | with_reducible apply wo_some
    | with_reducible apply wo2_some
    | with_reducible apply wo_ite
    | with_reducible apply wo2_ite
    | with_reducible apply wo_to (makeRoom_within ..)
    | with_reducible apply Within.to (useLine_within ..)
    | with_reducible apply w_ite_snd
    | with_reducible refine w_of_some (by assumption) ?_
    | dsimp only
    | split
    | with_reducible refine w_quay ?_ ?_)

theorem dropFill_within (n : Nat) (s : State) : Within { quay := true } s (dropFill n s) := by
  unfold dropFill
  repeat' (first
    | exact rfl
    | exact Or.inl rfl
    | exact Or.inr rfl
    | exact And.intro rfl (And.intro rfl rfl)
    | exact Or.inl ⟨rfl, rfl⟩
    | exact Or.inr (Or.inl ⟨rfl, rfl⟩)
    | exact Or.inr (Or.inl ⟨rfl, rfl, rfl, rfl⟩)
    | exact Or.inr (Or.inr rfl)
    | with_reducible assumption
    | with_reducible exact Within.refl _ _
    | (intro _ _ _ _)
    | (intro _ _ _)
    | (intro _ _)
    | (intro _)
    | with_reducible apply w_ite
    | with_reducible apply w_foldl
    | with_reducible apply w_foldl2
    | with_reducible apply w_ite_snd
    | dsimp only
    | split
    | with_reducible refine w_quay ?_ ?_)

theorem placeFill_within (e : Nat × BitVec 8) (s : State) : WO { aon := true, log := true, ev := true, sec := true, quay := true, dram := true, mem := true, tier := true, led := true, reins := true, port := true, noc := true, mgt := true } s (placeFill e s) := by
  unfold placeFill
  repeat' (first
    | exact rfl
    | exact Or.inl rfl
    | exact Or.inr rfl
    | exact And.intro rfl (And.intro rfl rfl)
    | exact Or.inl ⟨rfl, rfl⟩
    | exact Or.inr (Or.inl ⟨rfl, rfl⟩)
    | exact Or.inr (Or.inl ⟨rfl, rfl, rfl, rfl⟩)
    | exact Or.inr (Or.inr rfl)
    | with_reducible assumption
    | with_reducible exact Within.refl _ _
    | (intro _ _ _ _)
    | (intro _ _ _)
    | (intro _ _)
    | (intro _)
    | with_reducible apply w_ite
    | with_reducible apply w_foldl
    | with_reducible apply w_foldl2
    | with_reducible exact wo_none
    | with_reducible exact wo2_none
    | with_reducible refine wo2_eq (by assumption) ?_
    | with_reducible refine wo_eq (by assumption) ?_
    | with_reducible refine wo2_map ?_ ?_
    | with_reducible refine wo2_mapAny ?_
    | with_reducible refine wo_map2 ?_ ?_
    | with_reducible refine wo_mapS ?_ ?_
    | with_reducible refine wo_map ?_
    | with_reducible apply wo_findSome
    | (intro _)
    | with_reducible apply wo_some
    | with_reducible apply wo2_some
    | with_reducible apply wo_ite
    | with_reducible apply wo2_ite
    | with_reducible apply Within.to (dropFill_within ..)
    | with_reducible apply wo_to (makeRoom_within ..)
    | with_reducible apply Within.to (useLine_within ..)
    | with_reducible apply w_ite_snd
    | with_reducible refine w_of_some (by assumption) ?_
    | dsimp only
    | split)

theorem joinDirty_within (page : Nat) (cls : Option (BitVec 8)) (s : State) : Within { led := true, reins := true } s (joinDirty page cls s) := by
  unfold joinDirty
  repeat' (first
    | exact rfl
    | exact Or.inl rfl
    | exact Or.inr rfl
    | exact And.intro rfl (And.intro rfl rfl)
    | exact Or.inl ⟨rfl, rfl⟩
    | exact Or.inr (Or.inl ⟨rfl, rfl⟩)
    | exact Or.inr (Or.inl ⟨rfl, rfl, rfl, rfl⟩)
    | exact Or.inr (Or.inr rfl)
    | with_reducible assumption
    | with_reducible exact Within.refl _ _
    | (intro _ _ _ _)
    | (intro _ _ _)
    | (intro _ _)
    | (intro _)
    | with_reducible apply w_ite
    | with_reducible apply w_foldl
    | with_reducible apply w_foldl2
    | with_reducible apply w_ite_snd
    | dsimp only
    | split
    | with_reducible refine w_led ?_ ?_
    | with_reducible refine w_reins ?_ ?_
    | with_reducible refine w_upd ?_ ?_ ?_ ?_ ?_ ?_ ?_ ?_ ?_ ?_ ?_ ?_ ?_ ?_ ?_ ?_ ?_ ?_ ?_ ?_ ?_ ?_ ?_)

theorem staleSegs_within (page : Nat) (s : State) : Within { led := true } s (staleSegs page s) := by
  unfold staleSegs
  repeat' (first
    | exact rfl
    | exact Or.inl rfl
    | exact Or.inr rfl
    | exact And.intro rfl (And.intro rfl rfl)
    | exact Or.inl ⟨rfl, rfl⟩
    | exact Or.inr (Or.inl ⟨rfl, rfl⟩)
    | exact Or.inr (Or.inl ⟨rfl, rfl, rfl, rfl⟩)
    | exact Or.inr (Or.inr rfl)
    | with_reducible assumption
    | with_reducible exact Within.refl _ _
    | (intro _ _ _ _)
    | (intro _ _ _)
    | (intro _ _)
    | (intro _)
    | with_reducible apply w_ite
    | with_reducible apply w_foldl
    | with_reducible apply w_foldl2
    | with_reducible apply w_ite_snd
    | dsimp only
    | split
    | with_reducible refine w_led ?_ ?_)

theorem abortFor_within (page : Nat) (s : State) : Within { log := true, ev := true, sec := true, quay := true, dram := true, mem := true, tier := true, reins := true, mgt := true } s (abortFor page s) := by
  unfold abortFor
  repeat' (first
    | exact rfl
    | exact Or.inl rfl
    | exact Or.inr rfl
    | exact And.intro rfl (And.intro rfl rfl)
    | exact Or.inl ⟨rfl, rfl⟩
    | exact Or.inr (Or.inl ⟨rfl, rfl⟩)
    | exact Or.inr (Or.inl ⟨rfl, rfl, rfl, rfl⟩)
    | exact Or.inr (Or.inr rfl)
    | with_reducible assumption
    | with_reducible exact Within.refl _ _
    | (intro _ _ _ _)
    | (intro _ _ _)
    | (intro _ _)
    | (intro _)
    | with_reducible apply w_ite
    | with_reducible apply w_foldl
    | with_reducible apply w_foldl2
    | with_reducible apply Within.to (abortDemotion_within ..)
    | with_reducible apply w_ite_snd
    | dsimp only
    | split)

theorem reportWrite_within (l : Line) (full : Bool) (cls : BitVec 8) (s : State) : Within { aon := true, log := true, ev := true, sec := true, quay := true, dram := true, mem := true, tier := true, led := true, reins := true, port := true, mgt := true } s (reportWrite l full cls s) := by
  unfold reportWrite
  repeat' (first
    | exact rfl
    | exact Or.inl rfl
    | exact Or.inr rfl
    | exact And.intro rfl (And.intro rfl rfl)
    | exact Or.inl ⟨rfl, rfl⟩
    | exact Or.inr (Or.inl ⟨rfl, rfl⟩)
    | exact Or.inr (Or.inl ⟨rfl, rfl, rfl, rfl⟩)
    | exact Or.inr (Or.inr rfl)
    | with_reducible assumption
    | with_reducible exact Within.refl _ _
    | (intro _ _ _ _)
    | (intro _ _ _)
    | (intro _ _)
    | (intro _)
    | with_reducible apply w_ite
    | with_reducible apply w_foldl
    | with_reducible apply w_foldl2
    | with_reducible apply Within.to (abortFor_within ..)
    | with_reducible apply Within.to (joinDirty_within ..)
    | with_reducible apply Within.to (setDesc_within ..)
    | with_reducible apply Within.to (staleSegs_within ..)
    | with_reducible apply Within.to (startPromotion_within ..)
    | with_reducible apply Within.to (useDesc_within ..))

theorem writeQuay_within (l : Line) (mask : BitVec 64) (x : BitVec 512) (poison : Bool) (cls : BitVec 8) (node : Node) (tag : Tag) (s : State) :
    Within { aon := true, log := true, ev := true, sec := true, quay := true, dram := true, mem := true, tier := true, led := true, reins := true, port := true, noc := true, mgt := true } s (writeQuay l mask x poison cls node tag s) := by
  have h : Within { aon := true, log := true, ev := true, sec := true, quay := true, dram := true, mem := true, tier := true, led := true, reins := true, port := true, noc := true, mgt := true } s ((makeRoom l s).getD s) :=
    w_getD (wo_to (makeRoom_within ..) rfl (Within.refl _ _)) (Within.refl _ _)
  unfold writeQuay
  dsimp only
  generalize (makeRoom l s).getD s = u at h ⊢
  repeat' (first
    | exact rfl
    | exact Or.inl rfl
    | exact Or.inr rfl
    | exact And.intro rfl (And.intro rfl rfl)
    | exact Or.inl ⟨rfl, rfl⟩
    | exact Or.inr (Or.inl ⟨rfl, rfl⟩)
    | exact Or.inr (Or.inl ⟨rfl, rfl, rfl, rfl⟩)
    | exact Or.inr (Or.inr rfl)
    | with_reducible assumption
    | with_reducible exact Within.refl _ _
    | (intro _ _ _ _)
    | (intro _ _ _)
    | (intro _ _)
    | (intro _)
    | with_reducible apply w_ite
    | with_reducible apply w_foldl
    | with_reducible apply w_foldl2
    | with_reducible exact wo_none
    | with_reducible exact wo2_none
    | with_reducible refine wo2_eq (by assumption) ?_
    | with_reducible refine wo_eq (by assumption) ?_
    | with_reducible refine wo2_map ?_ ?_
    | with_reducible refine wo2_mapAny ?_
    | with_reducible refine wo_map2 ?_ ?_
    | with_reducible refine wo_mapS ?_ ?_
    | with_reducible refine wo_map ?_
    | with_reducible apply wo_findSome
    | (intro _)
    | with_reducible apply wo_some
    | with_reducible apply wo2_some
    | with_reducible apply wo_ite
    | with_reducible apply wo2_ite
    | with_reducible apply wo_to (makeRoom_within ..)
    | with_reducible apply Within.to (reportWrite_within ..)
    | with_reducible apply Within.to (useLine_within ..)
    | with_reducible apply w_ite_snd
    | with_reducible refine w_of_some (by assumption) ?_
    | with_reducible apply w_getD
    | with_reducible apply wo_to (makeRoom_within ..)
    | dsimp only
    | split
    | with_reducible refine w_aon ?_ ?_ ?_
    | with_reducible refine w_quay ?_ ?_
    | with_reducible refine w_upd ?_ ?_ ?_ ?_ ?_ ?_ ?_ ?_ ?_ ?_ ?_ ?_ ?_ ?_ ?_ ?_ ?_ ?_ ?_ ?_ ?_ ?_ ?_)

theorem writeHome_within (l : Line) (x : BitVec 512) (poison : Bool) (cls : BitVec 8) (op : BitVec 8) (node : Node) (tag : Tag) (s : State) : Within { aon := true, log := true, ev := true, sec := true, quay := true, dram := true, mem := true, tier := true, led := true, reins := true, port := true, noc := true, mgt := true } s (writeHome l x poison cls op node tag s) := by
  unfold writeHome
  repeat' (first
    | exact rfl
    | exact Or.inl rfl
    | exact Or.inr rfl
    | exact And.intro rfl (And.intro rfl rfl)
    | exact Or.inl ⟨rfl, rfl⟩
    | exact Or.inr (Or.inl ⟨rfl, rfl⟩)
    | exact Or.inr (Or.inl ⟨rfl, rfl, rfl, rfl⟩)
    | exact Or.inr (Or.inr rfl)
    | with_reducible assumption
    | with_reducible exact Within.refl _ _
    | (intro _ _ _ _)
    | (intro _ _ _)
    | (intro _ _)
    | (intro _)
    | with_reducible apply w_ite
    | with_reducible apply w_foldl
    | with_reducible apply w_foldl2
    | with_reducible apply Within.to (descFix_within ..)
    | with_reducible apply Within.to (logIt_within ..)
    | with_reducible apply Within.to (writeQuay_within ..)
    | with_reducible apply w_ite_snd
    | dsimp only
    | split)

theorem sendSnoop_within (l : Line) (x : Node × SnoopKind × Holder) (t : Txn) (s : State) : Within { ev := true, quay := true, port := true, mgt := true } s (sendSnoop l x t s).2 := by
  unfold sendSnoop
  repeat' (first
    | exact rfl
    | exact Or.inl rfl
    | exact Or.inr rfl
    | exact And.intro rfl (And.intro rfl rfl)
    | exact Or.inl ⟨rfl, rfl⟩
    | exact Or.inr (Or.inl ⟨rfl, rfl⟩)
    | exact Or.inr (Or.inl ⟨rfl, rfl, rfl, rfl⟩)
    | exact Or.inr (Or.inr rfl)
    | with_reducible assumption
    | with_reducible exact Within.refl _ _
    | (intro _ _ _ _)
    | (intro _ _ _)
    | (intro _ _)
    | (intro _)
    | with_reducible apply w_ite
    | with_reducible apply w_foldl
    | with_reducible apply w_foldl2
    | with_reducible apply Within.to (evQb_within ..)
    | with_reducible apply Within.to (sendPkt_within ..)
    | with_reducible apply w_ite_snd
    | dsimp only
    | split
    | with_reducible refine w_quay ?_ ?_)

theorem cohProtocol_within (l : Line) (node : Node) (op : BitVec 8) (e : BitVec 128) (s : State) : Within { log := true, ev := true, mgt := true } s (cohProtocol l node op e s) := by
  unfold cohProtocol
  repeat' (first
    | exact rfl
    | exact Or.inl rfl
    | exact Or.inr rfl
    | exact And.intro rfl (And.intro rfl rfl)
    | exact Or.inl ⟨rfl, rfl⟩
    | exact Or.inr (Or.inl ⟨rfl, rfl⟩)
    | exact Or.inr (Or.inl ⟨rfl, rfl, rfl, rfl⟩)
    | exact Or.inr (Or.inr rfl)
    | with_reducible assumption
    | with_reducible exact Within.refl _ _
    | (intro _ _ _ _)
    | (intro _ _ _)
    | (intro _ _)
    | (intro _)
    | with_reducible apply w_ite
    | with_reducible apply w_foldl
    | with_reducible apply w_foldl2
    | with_reducible apply Within.to (logIt_within ..))

theorem logOrphaned_within (l : Line) (owner : Node) (reason : Nat) (r : Req) (s : State) : Within { log := true, ev := true, mgt := true } s (logOrphaned l owner reason r s) := by
  unfold logOrphaned
  repeat' (first
    | exact rfl
    | exact Or.inl rfl
    | exact Or.inr rfl
    | exact And.intro rfl (And.intro rfl rfl)
    | exact Or.inl ⟨rfl, rfl⟩
    | exact Or.inr (Or.inl ⟨rfl, rfl⟩)
    | exact Or.inr (Or.inl ⟨rfl, rfl, rfl, rfl⟩)
    | exact Or.inr (Or.inr rfl)
    | with_reducible assumption
    | with_reducible exact Within.refl _ _
    | (intro _ _ _ _)
    | (intro _ _ _)
    | (intro _ _)
    | (intro _)
    | with_reducible apply w_ite
    | with_reducible apply w_foldl
    | with_reducible apply w_foldl2
    | with_reducible apply Within.to (logIt_within ..))

theorem ownerLost_within (reason : Nat) (o : SnoopOut) (t : Txn) (s : State) : Within { aon := true, log := true, ev := true, sec := true, quay := true, dram := true, mem := true, tier := true, reins := true, port := true, mgt := true } s (ownerLost reason o t s).2 := by
  unfold ownerLost
  repeat' (first
    | exact rfl
    | exact Or.inl rfl
    | exact Or.inr rfl
    | exact And.intro rfl (And.intro rfl rfl)
    | exact Or.inl ⟨rfl, rfl⟩
    | exact Or.inr (Or.inl ⟨rfl, rfl⟩)
    | exact Or.inr (Or.inl ⟨rfl, rfl, rfl, rfl⟩)
    | exact Or.inr (Or.inr rfl)
    | with_reducible assumption
    | with_reducible exact Within.refl _ _
    | (intro _ _ _ _)
    | (intro _ _ _)
    | (intro _ _)
    | (intro _)
    | with_reducible apply w_ite
    | with_reducible apply w_foldl
    | with_reducible apply w_foldl2
    | with_reducible apply Within.to (logOrphaned_within ..)
    | with_reducible apply Within.to (orphanLine_within ..))

theorem snoopReport_within (o : SnoopOut) (p : Report) (t : Txn) (s : State) : Within { aon := true, log := true, ev := true, sec := true, quay := true, dram := true, mem := true, tier := true, led := true, reins := true, port := true, noc := true, mgt := true } s (snoopReport o p t s).2 := by
  unfold snoopReport
  repeat' (first
    | exact rfl
    | exact Or.inl rfl
    | exact Or.inr rfl
    | exact And.intro rfl (And.intro rfl rfl)
    | exact Or.inl ⟨rfl, rfl⟩
    | exact Or.inr (Or.inl ⟨rfl, rfl⟩)
    | exact Or.inr (Or.inl ⟨rfl, rfl, rfl, rfl⟩)
    | exact Or.inr (Or.inr rfl)
    | with_reducible assumption
    | with_reducible exact Within.refl _ _
    | (intro _ _ _ _)
    | (intro _ _ _)
    | (intro _ _)
    | (intro _)
    | with_reducible apply w_ite
    | with_reducible apply w_foldl
    | with_reducible apply w_foldl2
    | with_reducible apply Within.to (cohProtocol_within ..)
    | with_reducible apply Within.to (ownerLost_within ..)
    | with_reducible apply Within.to (writeHome_within ..)
    | with_reducible apply w_ite_snd
    | with_reducible refine w_snd (by assumption) ?_
    | dsimp only
    | split)

theorem sendSnoops_within (l : Line) (xs : List (Node × SnoopKind × Holder)) (t : Txn) (s : State) : Within { aon := true, log := true, ev := true, sec := true, quay := true, dram := true, mem := true, tier := true, led := true, reins := true, port := true, noc := true, mgt := true } s (sendSnoops l xs t s).2 := by
  induction xs generalizing t s with
  | nil =>
    unfold sendSnoops
    repeat' (first
      | exact rfl
      | exact Or.inl rfl
      | exact Or.inr rfl
      | exact And.intro rfl (And.intro rfl rfl)
      | exact Or.inl ⟨rfl, rfl⟩
      | exact Or.inr (Or.inl ⟨rfl, rfl⟩)
      | exact Or.inr (Or.inl ⟨rfl, rfl, rfl, rfl⟩)
      | exact Or.inr (Or.inr rfl)
      | with_reducible assumption
      | with_reducible exact Within.refl _ _
      | (intro _ _ _ _)
      | (intro _ _ _)
      | (intro _ _)
      | (intro _)
      | with_reducible apply w_ite
      | with_reducible apply w_foldl
      | with_reducible apply w_foldl2
      | with_reducible apply Within.to (evAfl_within ..)
      | with_reducible apply Within.to (sendSnoop_within ..)
      | with_reducible apply Within.to (snoopReport_within ..)
      | with_reducible apply w_ite_snd
      | with_reducible refine w_snd (by assumption) ?_
      | with_reducible apply Within.to (ih ..)
      | dsimp only
      | split
      | with_reducible refine w_upd ?_ ?_ ?_ ?_ ?_ ?_ ?_ ?_ ?_ ?_ ?_ ?_ ?_ ?_ ?_ ?_ ?_ ?_ ?_ ?_ ?_ ?_ ?_)
  | cons x r ih =>
    unfold sendSnoops
    repeat' (first
      | exact rfl
      | exact Or.inl rfl
      | exact Or.inr rfl
      | exact And.intro rfl (And.intro rfl rfl)
      | exact Or.inl ⟨rfl, rfl⟩
      | exact Or.inr (Or.inl ⟨rfl, rfl⟩)
      | exact Or.inr (Or.inl ⟨rfl, rfl, rfl, rfl⟩)
      | exact Or.inr (Or.inr rfl)
      | with_reducible assumption
      | with_reducible exact Within.refl _ _
      | (intro _ _ _ _)
      | (intro _ _ _)
      | (intro _ _)
      | (intro _)
      | with_reducible apply w_ite
      | with_reducible apply w_foldl
      | with_reducible apply w_foldl2
      | with_reducible apply Within.to (evAfl_within ..)
      | with_reducible apply Within.to (sendSnoop_within ..)
      | with_reducible apply Within.to (snoopReport_within ..)
      | with_reducible apply w_ite_snd
      | with_reducible refine w_snd (by assumption) ?_
      | with_reducible apply Within.to (ih ..)
      | dsimp only
      | split
      | with_reducible refine w_upd ?_ ?_ ?_ ?_ ?_ ?_ ?_ ?_ ?_ ?_ ?_ ?_ ?_ ?_ ?_ ?_ ?_ ?_ ?_ ?_ ?_ ?_ ?_)

theorem putTxn_within (t : Txn) (s : State) : Within { quay := true } s (putTxn t s) := by
  unfold putTxn
  repeat' (first
    | exact rfl
    | exact Or.inl rfl
    | exact Or.inr rfl
    | exact And.intro rfl (And.intro rfl rfl)
    | exact Or.inl ⟨rfl, rfl⟩
    | exact Or.inr (Or.inl ⟨rfl, rfl⟩)
    | exact Or.inr (Or.inl ⟨rfl, rfl, rfl, rfl⟩)
    | exact Or.inr (Or.inr rfl)
    | with_reducible assumption
    | with_reducible exact Within.refl _ _
    | (intro _ _ _ _)
    | (intro _ _ _)
    | (intro _ _)
    | (intro _)
    | with_reducible apply w_ite
    | with_reducible apply w_foldl
    | with_reducible apply w_foldl2
    | with_reducible apply w_ite_snd
    | dsimp only
    | split
    | with_reducible refine w_quay ?_ ?_)

theorem closeTxn_within (t : Txn) (s : State) : Within { quay := true } s (closeTxn t s) := by
  unfold closeTxn
  repeat' (first
    | exact rfl
    | exact Or.inl rfl
    | exact Or.inr rfl
    | exact And.intro rfl (And.intro rfl rfl)
    | exact Or.inl ⟨rfl, rfl⟩
    | exact Or.inr (Or.inl ⟨rfl, rfl⟩)
    | exact Or.inr (Or.inl ⟨rfl, rfl, rfl, rfl⟩)
    | exact Or.inr (Or.inr rfl)
    | with_reducible assumption
    | with_reducible exact Within.refl _ _
    | (intro _ _ _ _)
    | (intro _ _ _)
    | (intro _ _)
    | (intro _)
    | with_reducible apply w_ite
    | with_reducible apply w_foldl
    | with_reducible apply w_foldl2
    | with_reducible apply Within.to (dropTxn_within ..)
    | with_reducible apply Within.to (putTxn_within ..))

theorem awaitAck_within (t : Txn) (s : State) : Within { quay := true } s (awaitAck t s) := by
  unfold awaitAck
  repeat' (first
    | exact rfl
    | exact Or.inl rfl
    | exact Or.inr rfl
    | exact And.intro rfl (And.intro rfl rfl)
    | exact Or.inl ⟨rfl, rfl⟩
    | exact Or.inr (Or.inl ⟨rfl, rfl⟩)
    | exact Or.inr (Or.inl ⟨rfl, rfl, rfl, rfl⟩)
    | exact Or.inr (Or.inr rfl)
    | with_reducible assumption
    | with_reducible exact Within.refl _ _
    | (intro _ _ _ _)
    | (intro _ _ _)
    | (intro _ _)
    | (intro _)
    | with_reducible apply w_ite
    | with_reducible apply w_foldl
    | with_reducible apply w_foldl2
    | with_reducible apply Within.to (closeTxn_within ..)
    | with_reducible apply Within.to (putTxn_within ..))

theorem failWith_within (status : BitVec 4) (t : Txn) (s : State) : Within { quay := true, reins := true, port := true } s (failWith status t s) := by
  unfold failWith
  repeat' (first
    | exact rfl
    | exact Or.inl rfl
    | exact Or.inr rfl
    | exact And.intro rfl (And.intro rfl rfl)
    | exact Or.inl ⟨rfl, rfl⟩
    | exact Or.inr (Or.inl ⟨rfl, rfl⟩)
    | exact Or.inr (Or.inl ⟨rfl, rfl, rfl, rfl⟩)
    | exact Or.inr (Or.inr rfl)
    | with_reducible assumption
    | with_reducible exact Within.refl _ _
    | (intro _ _ _ _)
    | (intro _ _ _)
    | (intro _ _)
    | (intro _)
    | with_reducible apply w_ite
    | with_reducible apply w_foldl
    | with_reducible apply w_foldl2
    | with_reducible apply Within.to (closeTxn_within ..)
    | with_reducible apply Within.to (countEnd_within ..)
    | with_reducible apply Within.to (sendErr_within ..)
    | with_reducible apply Within.to (setDir_within ..))

theorem failTxn_within (t : Txn) (s : State) : Within { quay := true, reins := true, port := true } s (failTxn t s) := by
  unfold failTxn
  repeat' (first
    | exact rfl
    | exact Or.inl rfl
    | exact Or.inr rfl
    | exact And.intro rfl (And.intro rfl rfl)
    | exact Or.inl ⟨rfl, rfl⟩
    | exact Or.inr (Or.inl ⟨rfl, rfl⟩)
    | exact Or.inr (Or.inl ⟨rfl, rfl, rfl, rfl⟩)
    | exact Or.inr (Or.inr rfl)
    | with_reducible assumption
    | with_reducible exact Within.refl _ _
    | (intro _ _ _ _)
    | (intro _ _ _)
    | (intro _ _)
    | (intro _)
    | with_reducible apply w_ite
    | with_reducible apply w_foldl
    | with_reducible apply w_foldl2
    | with_reducible apply Within.to (failWith_within ..))

theorem deliver_within (t : Txn) (x : BitVec 512) (poison spec : Bool) (s : State) : Within { aon := true, log := true, ev := true, sec := true, quay := true, dram := true, mem := true, tier := true, led := true, reins := true, port := true, noc := true, mgt := true } s (deliver t x poison spec s) := by
  unfold deliver
  repeat' (first
    | exact rfl
    | exact Or.inl rfl
    | exact Or.inr rfl
    | exact And.intro rfl (And.intro rfl rfl)
    | exact Or.inl ⟨rfl, rfl⟩
    | exact Or.inr (Or.inl ⟨rfl, rfl⟩)
    | exact Or.inr (Or.inl ⟨rfl, rfl, rfl, rfl⟩)
    | exact Or.inr (Or.inr rfl)
    | with_reducible assumption
    | with_reducible exact Within.refl _ _
    | (intro _ _ _ _)
    | (intro _ _ _)
    | (intro _ _)
    | (intro _)
    | with_reducible apply w_ite
    | with_reducible apply w_foldl
    | with_reducible apply w_foldl2
    | with_reducible apply Within.to (awaitAck_within ..)
    | with_reducible apply Within.to (closeTxn_within ..)
    | with_reducible apply Within.to (countEnd_within ..)
    | with_reducible apply Within.to (evQb_within ..)
    | with_reducible apply Within.to (failTxn_within ..)
    | with_reducible apply Within.to (sendRsp_within ..)
    | with_reducible apply Within.to (setDir_within ..)
    | with_reducible apply Within.to (writeQuay_within ..))

theorem readHeader_within (t : Txn) (d : BitVec 128) (s : State) : Within { ev := true, dram := true, mgt := true } s (readHeader t d s) := by
  unfold readHeader
  repeat' (first
    | exact rfl
    | exact Or.inl rfl
    | exact Or.inr rfl
    | exact And.intro rfl (And.intro rfl rfl)
    | exact Or.inl ⟨rfl, rfl⟩
    | exact Or.inr (Or.inl ⟨rfl, rfl⟩)
    | exact Or.inr (Or.inl ⟨rfl, rfl, rfl, rfl⟩)
    | exact Or.inr (Or.inr rfl)
    | with_reducible assumption
    | with_reducible exact Within.refl _ _
    | (intro _ _ _ _)
    | (intro _ _ _)
    | (intro _ _)
    | (intro _)
    | with_reducible apply w_ite
    | with_reducible apply w_foldl
    | with_reducible apply w_foldl2
    | with_reducible apply Within.to (evDch_within ..)
    | with_reducible apply Within.to (pushRead_within ..)
    | with_reducible apply w_ite_snd
    | with_reducible refine w_snd (by assumption) ?_
    | dsimp only
    | split)

theorem overdueRead_within (a : Nat) (s : State) : Within { dram := true } s (overdueRead a s) := by
  unfold overdueRead
  repeat' (first
    | exact rfl
    | exact Or.inl rfl
    | exact Or.inr rfl
    | exact And.intro rfl (And.intro rfl rfl)
    | exact Or.inl ⟨rfl, rfl⟩
    | exact Or.inr (Or.inl ⟨rfl, rfl⟩)
    | exact Or.inr (Or.inl ⟨rfl, rfl, rfl, rfl⟩)
    | exact Or.inr (Or.inr rfl)
    | with_reducible assumption
    | with_reducible exact Within.refl _ _
    | (intro _ _ _ _)
    | (intro _ _ _)
    | (intro _ _)
    | (intro _)
    | with_reducible apply w_ite
    | with_reducible apply w_foldl
    | with_reducible apply w_foldl2
    | with_reducible apply Within.to (modChan_within ..)
    | with_reducible apply w_ite_snd
    | dsimp only
    | split)

theorem requestFault_within (t : Txn) (page : Nat) (s : State) : Within { ev := true, tier := true, mgt := true } s (requestFault t page s) := by
  unfold requestFault
  repeat' (first
    | exact rfl
    | exact Or.inl rfl
    | exact Or.inr rfl
    | exact And.intro rfl (And.intro rfl rfl)
    | exact Or.inl ⟨rfl, rfl⟩
    | exact Or.inr (Or.inl ⟨rfl, rfl⟩)
    | exact Or.inr (Or.inl ⟨rfl, rfl, rfl, rfl⟩)
    | exact Or.inr (Or.inr rfl)
    | with_reducible assumption
    | with_reducible exact Within.refl _ _
    | (intro _ _ _ _)
    | (intro _ _ _)
    | (intro _ _)
    | (intro _)
    | with_reducible apply w_ite
    | with_reducible apply w_foldl
    | with_reducible apply w_foldl2
    | with_reducible apply Within.to (openFault_within ..))

theorem obtain_within (t : Txn) (s : State) : Within { aon := true, log := true, ev := true, sec := true, quay := true, dram := true, mem := true, tier := true, led := true, reins := true, port := true, noc := true, mgt := true } s (obtain t s) := by
  unfold obtain
  repeat' (first
    | exact rfl
    | exact Or.inl rfl
    | exact Or.inr rfl
    | exact And.intro rfl (And.intro rfl rfl)
    | exact Or.inl ⟨rfl, rfl⟩
    | exact Or.inr (Or.inl ⟨rfl, rfl⟩)
    | exact Or.inr (Or.inl ⟨rfl, rfl, rfl, rfl⟩)
    | exact Or.inr (Or.inr rfl)
    | with_reducible assumption
    | with_reducible exact Within.refl _ _
    | (intro _ _ _ _)
    | (intro _ _ _)
    | (intro _ _)
    | (intro _)
    | with_reducible apply w_ite
    | with_reducible apply w_foldl
    | with_reducible apply w_foldl2
    | with_reducible exact wo_none
    | with_reducible exact wo2_none
    | with_reducible refine wo2_eq (by assumption) ?_
    | with_reducible refine wo_eq (by assumption) ?_
    | with_reducible refine wo2_map ?_ ?_
    | with_reducible refine wo2_mapAny ?_
    | with_reducible refine wo_map2 ?_ ?_
    | with_reducible refine wo_mapS ?_ ?_
    | with_reducible refine wo_map ?_
    | with_reducible apply wo_findSome
    | (intro _)
    | with_reducible apply wo_some
    | with_reducible apply wo2_some
    | with_reducible apply wo_ite
    | with_reducible apply wo2_ite
    | with_reducible apply Within.to (countUse_within ..)
    | with_reducible apply Within.to (deliver_within ..)
    | with_reducible apply Within.to (descFix_within ..)
    | with_reducible apply Within.to (dramRead_within ..)
    | with_reducible apply Within.to (evQb_within ..)
    | with_reducible apply Within.to (failTxn_within ..)
    | with_reducible apply Within.to (failWith_within ..)
    | with_reducible apply Within.to (loadCtr_within ..)
    | with_reducible apply Within.to (logKeyGone_within ..)
    | with_reducible apply Within.to (overdueRead_within ..)
    | with_reducible apply wo2_to (placeTile_within ..)
    | with_reducible apply Within.to (putTxn_within ..)
    | with_reducible apply Within.to (readHeader_within ..)
    | with_reducible apply Within.to (requestFault_within ..)
    | with_reducible apply Within.to (touchPage_within ..)
    | with_reducible apply Within.to (useDesc_within ..)
    | with_reducible apply Within.to (useLine_within ..)
    | with_reducible apply w_ite_snd
    | with_reducible refine w_of_some2 (by assumption) ?_
    | dsimp only
    | split
    | with_reducible refine w_quay ?_ ?_
    | with_reducible refine w_tier ?_ ?_)

theorem complete_within (t : Txn) (s : State) : Within { aon := true, log := true, ev := true, sec := true, quay := true, dram := true, mem := true, tier := true, led := true, reins := true, port := true, noc := true, mgt := true } s (complete t s) := by
  unfold complete
  repeat' (first
    | exact rfl
    | exact Or.inl rfl
    | exact Or.inr rfl
    | exact And.intro rfl (And.intro rfl rfl)
    | exact Or.inl ⟨rfl, rfl⟩
    | exact Or.inr (Or.inl ⟨rfl, rfl⟩)
    | exact Or.inr (Or.inl ⟨rfl, rfl, rfl, rfl⟩)
    | exact Or.inr (Or.inr rfl)
    | with_reducible assumption
    | with_reducible exact Within.refl _ _
    | (intro _ _ _ _)
    | (intro _ _ _)
    | (intro _ _)
    | (intro _)
    | with_reducible apply w_ite
    | with_reducible apply w_foldl
    | with_reducible apply w_foldl2
    | with_reducible apply Within.to (awaitAck_within ..)
    | with_reducible apply Within.to (closeTxn_within ..)
    | with_reducible apply Within.to (countEnd_within ..)
    | with_reducible apply Within.to (logIt_within ..)
    | with_reducible apply Within.to (obtain_within ..)
    | with_reducible apply Within.to (outDown_within ..)
    | with_reducible apply Within.to (sendRsp_within ..)
    | with_reducible apply Within.to (setDir_within ..)
    | with_reducible apply Within.to (workDone_within ..)
    | with_reducible apply Within.to (writeQuay_within ..))

theorem launch_within (t : Txn) (s : State) : Within { aon := true, log := true, ev := true, sec := true, quay := true, dram := true, mem := true, tier := true, led := true, reins := true, port := true, noc := true, mgt := true } s (launch t s) := by
  unfold launch
  repeat' (first
    | exact rfl
    | exact Or.inl rfl
    | exact Or.inr rfl
    | exact And.intro rfl (And.intro rfl rfl)
    | exact Or.inl ⟨rfl, rfl⟩
    | exact Or.inr (Or.inl ⟨rfl, rfl⟩)
    | exact Or.inr (Or.inl ⟨rfl, rfl, rfl, rfl⟩)
    | exact Or.inr (Or.inr rfl)
    | with_reducible assumption
    | with_reducible exact Within.refl _ _
    | (intro _ _ _ _)
    | (intro _ _ _)
    | (intro _ _)
    | (intro _)
    | with_reducible apply w_ite
    | with_reducible apply w_foldl
    | with_reducible apply w_foldl2
    | with_reducible apply Within.to (complete_within ..)
    | with_reducible apply Within.to (failTxn_within ..)
    | with_reducible apply Within.to (putTxn_within ..)
    | with_reducible apply Within.to (sendSnoops_within ..)
    | with_reducible apply Within.to (useDir_within ..))

theorem advance_within (line : Nat) (s : State) : Within { aon := true, log := true, ev := true, sec := true, quay := true, dram := true, mem := true, tier := true, led := true, reins := true, port := true, noc := true, mgt := true } s (advance line s) := by
  unfold advance
  repeat' (first
    | exact rfl
    | exact Or.inl rfl
    | exact Or.inr rfl
    | exact And.intro rfl (And.intro rfl rfl)
    | exact Or.inl ⟨rfl, rfl⟩
    | exact Or.inr (Or.inl ⟨rfl, rfl⟩)
    | exact Or.inr (Or.inl ⟨rfl, rfl, rfl, rfl⟩)
    | exact Or.inr (Or.inr rfl)
    | with_reducible assumption
    | with_reducible exact Within.refl _ _
    | (intro _ _ _ _)
    | (intro _ _ _)
    | (intro _ _)
    | (intro _)
    | with_reducible apply w_ite
    | with_reducible apply w_foldl
    | with_reducible apply w_foldl2
    | with_reducible apply Within.to (complete_within ..)
    | with_reducible apply Within.to (failTxn_within ..)
    | with_reducible apply Within.to (launch_within ..)
    | with_reducible apply Within.to (putTxn_within ..)
    | with_reducible apply Within.to (setDir_within ..)
    | with_reducible apply w_ite_snd
    | dsimp only
    | split)

theorem startReq_within (w : Waiter) (s : State) : Within { aon := true, log := true, ev := true, sec := true, quay := true, dram := true, mem := true, tier := true, led := true, reins := true, port := true, noc := true, mgt := true } s (startReq w s) := by
  unfold startReq
  repeat' (first
    | exact rfl
    | exact Or.inl rfl
    | exact Or.inr rfl
    | exact And.intro rfl (And.intro rfl rfl)
    | exact Or.inl ⟨rfl, rfl⟩
    | exact Or.inr (Or.inl ⟨rfl, rfl⟩)
    | exact Or.inr (Or.inl ⟨rfl, rfl, rfl, rfl⟩)
    | exact Or.inr (Or.inr rfl)
    | with_reducible assumption
    | with_reducible exact Within.refl _ _
    | (intro _ _ _ _)
    | (intro _ _ _)
    | (intro _ _)
    | (intro _)
    | with_reducible apply w_ite
    | with_reducible apply w_foldl
    | with_reducible apply w_foldl2
    | with_reducible apply Within.to (advance_within ..)
    | with_reducible apply Within.to (countEnd_within ..)
    | with_reducible apply Within.to (descFix_within ..)
    | with_reducible apply Within.to (dirFix_within ..)
    | with_reducible apply Within.to (evQb_within ..)
    | with_reducible apply Within.to (launch_within ..)
    | with_reducible apply Within.to (logIt_within ..)
    | with_reducible apply Within.to (logKeyGone_within ..)
    | with_reducible apply Within.to (logOrphaned_within ..)
    | with_reducible apply Within.to (orphanLine_within ..)
    | with_reducible apply Within.to (putTxn_within ..)
    | with_reducible apply Within.to (sendErr_within ..)
    | with_reducible apply Within.to (sendRsp_within ..)
    | with_reducible apply Within.to (sendSnoops_within ..)
    | with_reducible apply Within.to (setDir_within ..)
    | with_reducible apply w_ite_snd
    | with_reducible refine w_snd (by assumption) ?_
    | dsimp only
    | split
    | with_reducible refine w_quay ?_ ?_)

theorem sendWbAck_within (n : Req) (s : State) : Within { quay := true, port := true } s (sendWbAck n s) := by
  unfold sendWbAck
  repeat' (first
    | exact rfl
    | exact Or.inl rfl
    | exact Or.inr rfl
    | exact And.intro rfl (And.intro rfl rfl)
    | exact Or.inl ⟨rfl, rfl⟩
    | exact Or.inr (Or.inl ⟨rfl, rfl⟩)
    | exact Or.inr (Or.inl ⟨rfl, rfl, rfl, rfl⟩)
    | exact Or.inr (Or.inr rfl)
    | with_reducible assumption
    | with_reducible exact Within.refl _ _
    | (intro _ _ _ _)
    | (intro _ _ _)
    | (intro _ _)
    | (intro _)
    | with_reducible apply w_ite
    | with_reducible apply w_foldl
    | with_reducible apply w_foldl2
    | with_reducible apply Within.to (sendRsp_within ..))

theorem takeNotice_within (n : Req) (s : State) : Within { aon := true, log := true, ev := true, sec := true, quay := true, dram := true, mem := true, tier := true, led := true, reins := true, port := true, noc := true, mgt := true } s (takeNotice n s) := by
  unfold takeNotice
  repeat' (first
    | exact rfl
    | exact Or.inl rfl
    | exact Or.inr rfl
    | exact And.intro rfl (And.intro rfl rfl)
    | exact Or.inl ⟨rfl, rfl⟩
    | exact Or.inr (Or.inl ⟨rfl, rfl⟩)
    | exact Or.inr (Or.inl ⟨rfl, rfl, rfl, rfl⟩)
    | exact Or.inr (Or.inr rfl)
    | with_reducible assumption
    | with_reducible exact Within.refl _ _
    | (intro _ _ _ _)
    | (intro _ _ _)
    | (intro _ _)
    | (intro _)
    | with_reducible apply w_ite
    | with_reducible apply w_foldl
    | with_reducible apply w_foldl2
    | with_reducible apply Within.to (cohProtocol_within ..)
    | with_reducible apply Within.to (dirFix_within ..)
    | with_reducible apply Within.to (sendWbAck_within ..)
    | with_reducible apply Within.to (setDir_within ..)
    | with_reducible apply Within.to (writeHome_within ..)
    | with_reducible apply w_ite_snd
    | dsimp only
    | split
    | with_reducible refine w_quay ?_ ?_)

theorem enterBank_within (w : Waiter) (s : State) : Within { aon := true, log := true, ev := true, sec := true, quay := true, dram := true, mem := true, tier := true, led := true, reins := true, port := true, noc := true, rings := true, mgt := true } s (enterBank w s) := by
  unfold enterBank
  repeat' (first
    | exact rfl
    | exact Or.inl rfl
    | exact Or.inr rfl
    | exact And.intro rfl (And.intro rfl rfl)
    | exact Or.inl ⟨rfl, rfl⟩
    | exact Or.inr (Or.inl ⟨rfl, rfl⟩)
    | exact Or.inr (Or.inl ⟨rfl, rfl, rfl, rfl⟩)
    | exact Or.inr (Or.inr rfl)
    | with_reducible assumption
    | with_reducible exact Within.refl _ _
    | (intro _ _ _ _)
    | (intro _ _ _)
    | (intro _ _)
    | (intro _)
    | with_reducible apply w_ite
    | with_reducible apply w_foldl
    | with_reducible apply w_foldl2
    | with_reducible apply Within.to (abortFor_within ..)
    | with_reducible apply Within.to (evQb_within ..)
    | with_reducible apply Within.to (snapFirst_within ..)
    | with_reducible apply Within.to (startReq_within ..)
    | with_reducible apply w_ite_snd
    | dsimp only
    | split
    | with_reducible refine w_quay ?_ ?_)

theorem parkNotice_within (n : Req) (s : State) : Within { ev := true, quay := true, mgt := true } s (parkNotice n s) := by
  unfold parkNotice
  repeat' (first
    | exact rfl
    | exact Or.inl rfl
    | exact Or.inr rfl
    | exact And.intro rfl (And.intro rfl rfl)
    | exact Or.inl ⟨rfl, rfl⟩
    | exact Or.inr (Or.inl ⟨rfl, rfl⟩)
    | exact Or.inr (Or.inl ⟨rfl, rfl, rfl, rfl⟩)
    | exact Or.inr (Or.inr rfl)
    | with_reducible assumption
    | with_reducible exact Within.refl _ _
    | (intro _ _ _ _)
    | (intro _ _ _)
    | (intro _ _)
    | (intro _)
    | with_reducible apply w_ite
    | with_reducible apply w_foldl
    | with_reducible apply w_foldl2
    | with_reducible apply Within.to (evQb_within ..)
    | with_reducible apply w_ite_snd
    | dsimp only
    | split
    | with_reducible refine w_quay ?_ ?_)

theorem nextReady_waiting_within (s : State) : WO { aon := true, log := true, ev := true, sec := true, quay := true, dram := true, mem := true, tier := true, led := true, reins := true, port := true, noc := true, rings := true, mgt := true } s (nextReady.waiting s) := by
  unfold nextReady.waiting
  repeat' (first
    | exact rfl
    | exact Or.inl rfl
    | exact Or.inr rfl
    | exact And.intro rfl (And.intro rfl rfl)
    | exact Or.inl ⟨rfl, rfl⟩
    | exact Or.inr (Or.inl ⟨rfl, rfl⟩)
    | exact Or.inr (Or.inl ⟨rfl, rfl, rfl, rfl⟩)
    | exact Or.inr (Or.inr rfl)
    | with_reducible assumption
    | with_reducible exact Within.refl _ _
    | (intro _ _ _ _)
    | (intro _ _ _)
    | (intro _ _)
    | (intro _)
    | with_reducible apply w_ite
    | with_reducible apply w_foldl
    | with_reducible apply w_foldl2
    | with_reducible exact wo_none
    | with_reducible exact wo2_none
    | with_reducible refine wo2_eq (by assumption) ?_
    | with_reducible refine wo_eq (by assumption) ?_
    | with_reducible refine wo2_map ?_ ?_
    | with_reducible refine wo2_mapAny ?_
    | with_reducible refine wo_map2 ?_ ?_
    | with_reducible refine wo_mapS ?_ ?_
    | with_reducible refine wo_map ?_
    | with_reducible apply wo_findSome
    | (intro _)
    | with_reducible apply wo_some
    | with_reducible apply wo2_some
    | with_reducible apply wo_ite
    | with_reducible apply wo2_ite
    | with_reducible apply Within.to (enterBank_within ..)
    | with_reducible apply Within.to (obtain_within ..)
    | with_reducible apply Within.to (parkNotice_within ..)
    | with_reducible apply wo_to (placeFill_within ..)
    | with_reducible apply Within.to (startReq_within ..)
    | with_reducible apply Within.to (takeNotice_within ..)
    | with_reducible apply Within.to (takeRx_within ..)
    | with_reducible apply w_ite_snd
    | with_reducible refine w_of_some (by assumption) ?_
    | dsimp only
    | split
    | with_reducible refine w_quay ?_ ?_
    | with_reducible refine w_reins ?_ ?_)

theorem nextReady_within (s : State) : WO { aon := true, log := true, ev := true, sec := true, quay := true, dram := true, mem := true, tier := true, led := true, reins := true, port := true, noc := true, rings := true, mgt := true } s (nextReady s) := by
  unfold nextReady
  repeat' (first
    | exact rfl
    | exact Or.inl rfl
    | exact Or.inr rfl
    | exact And.intro rfl (And.intro rfl rfl)
    | exact Or.inl ⟨rfl, rfl⟩
    | exact Or.inr (Or.inl ⟨rfl, rfl⟩)
    | exact Or.inr (Or.inl ⟨rfl, rfl, rfl, rfl⟩)
    | exact Or.inr (Or.inr rfl)
    | with_reducible assumption
    | with_reducible exact Within.refl _ _
    | (intro _ _ _ _)
    | (intro _ _ _)
    | (intro _ _)
    | (intro _)
    | with_reducible apply w_ite
    | with_reducible apply w_foldl
    | with_reducible apply w_foldl2
    | with_reducible exact wo_none
    | with_reducible exact wo2_none
    | with_reducible refine wo2_eq (by assumption) ?_
    | with_reducible refine wo_eq (by assumption) ?_
    | with_reducible refine wo2_map ?_ ?_
    | with_reducible refine wo2_mapAny ?_
    | with_reducible refine wo_map2 ?_ ?_
    | with_reducible refine wo_mapS ?_ ?_
    | with_reducible refine wo_map ?_
    | with_reducible apply wo_findSome
    | (intro _)
    | with_reducible apply wo_some
    | with_reducible apply wo2_some
    | with_reducible apply wo_ite
    | with_reducible apply wo2_ite
    | with_reducible apply Within.to (enterBank_within ..)
    | with_reducible apply Within.to (obtain_within ..)
    | with_reducible apply Within.to (parkNotice_within ..)
    | with_reducible apply wo_to (placeFill_within ..)
    | with_reducible apply Within.to (startReq_within ..)
    | with_reducible apply Within.to (takeNotice_within ..)
    | with_reducible apply Within.to (takeRx_within ..)
    | with_reducible apply w_ite_snd
    | with_reducible refine w_of_some (by assumption) ?_
    | with_reducible apply nextReady_waiting_within
    | dsimp only
    | split
    | with_reducible refine w_quay ?_ ?_)

theorem settleN_within (n : Nat) (s : State) : Within { aon := true, log := true, ev := true, sec := true, quay := true, dram := true, mem := true, tier := true, led := true, reins := true, port := true, noc := true, rings := true, mgt := true } s (settleN n s) := by
  induction n generalizing s with
  | zero =>
    unfold settleN
    repeat' (first
      | exact rfl
      | exact Or.inl rfl
      | exact Or.inr rfl
      | exact And.intro rfl (And.intro rfl rfl)
      | exact Or.inl ⟨rfl, rfl⟩
      | exact Or.inr (Or.inl ⟨rfl, rfl⟩)
      | exact Or.inr (Or.inl ⟨rfl, rfl, rfl, rfl⟩)
      | exact Or.inr (Or.inr rfl)
      | with_reducible assumption
      | with_reducible exact Within.refl _ _
      | (intro _ _ _ _)
      | (intro _ _ _)
      | (intro _ _)
      | (intro _)
      | with_reducible apply w_ite
      | with_reducible apply w_foldl
      | with_reducible apply w_foldl2
      | with_reducible exact wo_none
      | with_reducible exact wo2_none
      | with_reducible refine wo2_eq (by assumption) ?_
      | with_reducible refine wo_eq (by assumption) ?_
      | with_reducible refine wo2_map ?_ ?_
      | with_reducible refine wo2_mapAny ?_
      | with_reducible refine wo_map2 ?_ ?_
      | with_reducible refine wo_mapS ?_ ?_
      | with_reducible refine wo_map ?_
      | with_reducible apply wo_findSome
      | (intro _)
      | with_reducible apply wo_some
      | with_reducible apply wo2_some
      | with_reducible apply wo_ite
      | with_reducible apply wo2_ite
      | with_reducible apply wo_to (nextReady_within ..)
      | with_reducible apply w_ite_snd
      | with_reducible refine w_of_some (by assumption) ?_
      | with_reducible apply Within.to (ih ..)
      | dsimp only
      | split
      | with_reducible refine w_upd ?_ ?_ ?_ ?_ ?_ ?_ ?_ ?_ ?_ ?_ ?_ ?_ ?_ ?_ ?_ ?_ ?_ ?_ ?_ ?_ ?_ ?_ ?_)
  | succ n ih =>
    unfold settleN
    repeat' (first
      | exact rfl
      | exact Or.inl rfl
      | exact Or.inr rfl
      | exact And.intro rfl (And.intro rfl rfl)
      | exact Or.inl ⟨rfl, rfl⟩
      | exact Or.inr (Or.inl ⟨rfl, rfl⟩)
      | exact Or.inr (Or.inl ⟨rfl, rfl, rfl, rfl⟩)
      | exact Or.inr (Or.inr rfl)
      | with_reducible assumption
      | with_reducible exact Within.refl _ _
      | (intro _ _ _ _)
      | (intro _ _ _)
      | (intro _ _)
      | (intro _)
      | with_reducible apply w_ite
      | with_reducible apply w_foldl
      | with_reducible apply w_foldl2
      | with_reducible exact wo_none
      | with_reducible exact wo2_none
      | with_reducible refine wo2_eq (by assumption) ?_
      | with_reducible refine wo_eq (by assumption) ?_
      | with_reducible refine wo2_map ?_ ?_
      | with_reducible refine wo2_mapAny ?_
      | with_reducible refine wo_map2 ?_ ?_
      | with_reducible refine wo_mapS ?_ ?_
      | with_reducible refine wo_map ?_
      | with_reducible apply wo_findSome
      | (intro _)
      | with_reducible apply wo_some
      | with_reducible apply wo2_some
      | with_reducible apply wo_ite
      | with_reducible apply wo2_ite
      | with_reducible apply wo_to (nextReady_within ..)
      | with_reducible apply w_ite_snd
      | with_reducible refine w_of_some (by assumption) ?_
      | with_reducible apply Within.to (ih ..)
      | dsimp only
      | split
      | with_reducible refine w_upd ?_ ?_ ?_ ?_ ?_ ?_ ?_ ?_ ?_ ?_ ?_ ?_ ?_ ?_ ?_ ?_ ?_ ?_ ?_ ?_ ?_ ?_ ?_)

theorem settle_within (s : State) : Within { aon := true, log := true, ev := true, sec := true, quay := true, dram := true, mem := true, tier := true, led := true, reins := true, port := true, noc := true, rings := true, mgt := true } s (settle s) := by
  unfold settle
  repeat' (first
    | exact rfl
    | exact Or.inl rfl
    | exact Or.inr rfl
    | exact And.intro rfl (And.intro rfl rfl)
    | exact Or.inl ⟨rfl, rfl⟩
    | exact Or.inr (Or.inl ⟨rfl, rfl⟩)
    | exact Or.inr (Or.inl ⟨rfl, rfl, rfl, rfl⟩)
    | exact Or.inr (Or.inr rfl)
    | with_reducible assumption
    | with_reducible exact Within.refl _ _
    | (intro _ _ _ _)
    | (intro _ _ _)
    | (intro _ _)
    | (intro _)
    | with_reducible apply w_ite
    | with_reducible apply w_foldl
    | with_reducible apply w_foldl2
    | with_reducible apply Within.to (settleN_within ..))

theorem arrive_within (at' : Nat) (r : Req) (s : State) : Within { reins := true } s (arrive at' r s).2 := by
  unfold arrive
  repeat' (first
    | exact rfl
    | exact Or.inl rfl
    | exact Or.inr rfl
    | exact And.intro rfl (And.intro rfl rfl)
    | exact Or.inl ⟨rfl, rfl⟩
    | exact Or.inr (Or.inl ⟨rfl, rfl⟩)
    | exact Or.inr (Or.inl ⟨rfl, rfl, rfl, rfl⟩)
    | exact Or.inr (Or.inr rfl)
    | with_reducible assumption
    | with_reducible exact Within.refl _ _
    | (intro _ _ _ _)
    | (intro _ _ _)
    | (intro _ _)
    | (intro _)
    | with_reducible apply w_ite
    | with_reducible apply w_foldl
    | with_reducible apply w_foldl2
    | with_reducible apply w_ite_snd
    | dsimp only
    | split
    | with_reducible refine w_reins ?_ ?_)

theorem admitReq_within (w : Waiter) (s : State) : Within { aon := true, log := true, ev := true, sec := true, quay := true, dram := true, mem := true, tier := true, led := true, reins := true, port := true, noc := true, rings := true, mgt := true } s (admitReq w s) := by
  unfold admitReq
  repeat' (first
    | exact rfl
    | exact Or.inl rfl
    | exact Or.inr rfl
    | exact And.intro rfl (And.intro rfl rfl)
    | exact Or.inl ⟨rfl, rfl⟩
    | exact Or.inr (Or.inl ⟨rfl, rfl⟩)
    | exact Or.inr (Or.inl ⟨rfl, rfl, rfl, rfl⟩)
    | exact Or.inr (Or.inr rfl)
    | with_reducible assumption
    | with_reducible exact Within.refl _ _
    | (intro _ _ _ _)
    | (intro _ _ _)
    | (intro _ _)
    | (intro _)
    | with_reducible apply w_ite
    | with_reducible apply w_foldl
    | with_reducible apply w_foldl2
    | with_reducible apply Within.to (enterBank_within ..)
    | with_reducible apply Within.to (outUp_within ..)
    | with_reducible apply w_ite_snd
    | dsimp only
    | split
    | with_reducible refine w_reins ?_ ?_)

theorem admitNew_within (at' : Nat) (r : Req) (s : State) : Within { aon := true, log := true, ev := true, sec := true, quay := true, dram := true, mem := true, tier := true, led := true, reins := true, port := true, noc := true, rings := true, mgt := true } s (admitNew at' r s) := by
  unfold admitNew
  repeat' (first
    | exact rfl
    | exact Or.inl rfl
    | exact Or.inr rfl
    | exact And.intro rfl (And.intro rfl rfl)
    | exact Or.inl ⟨rfl, rfl⟩
    | exact Or.inr (Or.inl ⟨rfl, rfl⟩)
    | exact Or.inr (Or.inl ⟨rfl, rfl, rfl, rfl⟩)
    | exact Or.inr (Or.inr rfl)
    | with_reducible assumption
    | with_reducible exact Within.refl _ _
    | (intro _ _ _ _)
    | (intro _ _ _)
    | (intro _ _)
    | (intro _)
    | with_reducible apply w_ite
    | with_reducible apply w_foldl
    | with_reducible apply w_foldl2
    | with_reducible apply Within.to (admitReq_within ..)
    | with_reducible apply Within.to (arrive_within ..)
    | with_reducible apply Within.to (settle_within ..))

theorem stayRx_within (at' : Nat) (r : Req) (s : State) : Within { port := true } s (stayRx at' r s) := by
  unfold stayRx
  repeat' (first
    | exact rfl
    | exact Or.inl rfl
    | exact Or.inr rfl
    | exact And.intro rfl (And.intro rfl rfl)
    | exact Or.inl ⟨rfl, rfl⟩
    | exact Or.inr (Or.inl ⟨rfl, rfl⟩)
    | exact Or.inr (Or.inl ⟨rfl, rfl, rfl, rfl⟩)
    | exact Or.inr (Or.inr rfl)
    | with_reducible assumption
    | with_reducible exact Within.refl _ _
    | (intro _ _ _ _)
    | (intro _ _ _)
    | (intro _ _)
    | (intro _)
    | with_reducible apply w_ite
    | with_reducible apply w_foldl
    | with_reducible apply w_foldl2
    | with_reducible apply Within.to (modPort_within ..))

theorem holdReq_within (at' : Nat) (r : Req) (s : State) : Within { log := true, ev := true, reins := true, port := true, mgt := true } s (holdReq at' r s) := by
  unfold holdReq
  repeat' (first
    | exact rfl
    | exact Or.inl rfl
    | exact Or.inr rfl
    | exact And.intro rfl (And.intro rfl rfl)
    | exact Or.inl ⟨rfl, rfl⟩
    | exact Or.inr (Or.inl ⟨rfl, rfl⟩)
    | exact Or.inr (Or.inl ⟨rfl, rfl, rfl, rfl⟩)
    | exact Or.inr (Or.inr rfl)
    | with_reducible assumption
    | with_reducible exact Within.refl _ _
    | (intro _ _ _ _)
    | (intro _ _ _)
    | (intro _ _)
    | (intro _)
    | with_reducible apply w_ite
    | with_reducible apply w_foldl
    | with_reducible apply w_foldl2
    | with_reducible apply Within.to (arrive_within ..)
    | with_reducible apply Within.to (evAfl_within ..)
    | with_reducible apply Within.to (logIt_within ..)
    | with_reducible apply Within.to (stayRx_within ..)
    | with_reducible apply Within.to (takeRx_within ..)
    | with_reducible apply w_ite_snd
    | with_reducible refine w_snd (by assumption) ?_
    | dsimp only
    | split
    | with_reducible refine w_reins ?_ ?_)

theorem endErr_within (r : Req) (due : Option Nat) (s : State) : Within { reins := true } s (endErr r due s) := by
  unfold endErr
  repeat' (first
    | exact rfl
    | exact Or.inl rfl
    | exact Or.inr rfl
    | exact And.intro rfl (And.intro rfl rfl)
    | exact Or.inl ⟨rfl, rfl⟩
    | exact Or.inr (Or.inl ⟨rfl, rfl⟩)
    | exact Or.inr (Or.inl ⟨rfl, rfl, rfl, rfl⟩)
    | exact Or.inr (Or.inr rfl)
    | with_reducible assumption
    | with_reducible exact Within.refl _ _
    | (intro _ _ _ _)
    | (intro _ _ _)
    | (intro _ _)
    | (intro _)
    | with_reducible apply w_ite
    | with_reducible apply w_foldl
    | with_reducible apply w_foldl2
    | with_reducible apply w_ite_snd
    | dsimp only
    | split
    | with_reducible refine w_reins ?_ ?_)

theorem homeRequest_within (op : BitVec 8) (r : Req) (s : State) : Within { aon := true, log := true, ev := true, sec := true, quay := true, dram := true, mem := true, tier := true, led := true, reins := true, port := true, noc := true, rings := true, mgt := true } s (homeRequest op r s) := by
  unfold homeRequest
  repeat' (first
    | exact rfl
    | exact Or.inl rfl
    | exact Or.inr rfl
    | exact And.intro rfl (And.intro rfl rfl)
    | exact Or.inl ⟨rfl, rfl⟩
    | exact Or.inr (Or.inl ⟨rfl, rfl⟩)
    | exact Or.inr (Or.inl ⟨rfl, rfl, rfl, rfl⟩)
    | exact Or.inr (Or.inr rfl)
    | with_reducible assumption
    | with_reducible exact Within.refl _ _
    | (intro _ _ _ _)
    | (intro _ _ _)
    | (intro _ _)
    | (intro _)
    | with_reducible apply w_ite
    | with_reducible apply w_foldl
    | with_reducible apply w_foldl2
    | with_reducible apply Within.to (admitNew_within ..)
    | with_reducible apply Within.to (endErr_within ..)
    | with_reducible apply Within.to (evAfl_within ..)
    | with_reducible apply Within.to (holdReq_within ..)
    | with_reducible apply Within.to (pktInvalid_within ..)
    | with_reducible apply Within.to (sendErr_within ..)
    | with_reducible apply Within.to (takeRx_within ..)
    | with_reducible apply Within.to (wrongDest_within ..)
    | with_reducible apply w_ite_snd
    | dsimp only
    | split)

theorem homeNotice_within (op : BitVec 8) (n : Req) (s : State) : Within { aon := true, log := true, ev := true, sec := true, quay := true, dram := true, mem := true, tier := true, led := true, reins := true, port := true, noc := true, rings := true, mgt := true } s (homeNotice op n s) := by
  unfold homeNotice
  repeat' (first
    | exact rfl
    | exact Or.inl rfl
    | exact Or.inr rfl
    | exact And.intro rfl (And.intro rfl rfl)
    | exact Or.inl ⟨rfl, rfl⟩
    | exact Or.inr (Or.inl ⟨rfl, rfl⟩)
    | exact Or.inr (Or.inl ⟨rfl, rfl, rfl, rfl⟩)
    | exact Or.inr (Or.inr rfl)
    | with_reducible assumption
    | with_reducible exact Within.refl _ _
    | (intro _ _ _ _)
    | (intro _ _ _)
    | (intro _ _)
    | (intro _)
    | with_reducible apply w_ite
    | with_reducible apply w_foldl
    | with_reducible apply w_foldl2
    | with_reducible apply Within.to (evAfl_within ..)
    | with_reducible apply Within.to (evQb_within ..)
    | with_reducible apply Within.to (parkNotice_within ..)
    | with_reducible apply Within.to (pktInvalid_within ..)
    | with_reducible apply Within.to (sendErr_within ..)
    | with_reducible apply Within.to (settle_within ..)
    | with_reducible apply Within.to (stayRx_within ..)
    | with_reducible apply Within.to (takeRx_within ..)
    | with_reducible apply w_ite_snd
    | dsimp only
    | split
    | with_reducible refine w_quay ?_ ?_)

theorem homeSnoopRsp_within (op : BitVec 8) (p : Rsp) (s : State) : Within { aon := true, log := true, ev := true, sec := true, quay := true, dram := true, mem := true, tier := true, led := true, reins := true, port := true, noc := true, rings := true, mgt := true } s (homeSnoopRsp op p s) := by
  unfold homeSnoopRsp
  repeat' (first
    | exact rfl
    | exact Or.inl rfl
    | exact Or.inr rfl
    | exact And.intro rfl (And.intro rfl rfl)
    | exact Or.inl ⟨rfl, rfl⟩
    | exact Or.inr (Or.inl ⟨rfl, rfl⟩)
    | exact Or.inr (Or.inl ⟨rfl, rfl, rfl, rfl⟩)
    | exact Or.inr (Or.inr rfl)
    | with_reducible assumption
    | with_reducible exact Within.refl _ _
    | (intro _ _ _ _)
    | (intro _ _ _)
    | (intro _ _)
    | (intro _)
    | with_reducible apply w_ite
    | with_reducible apply w_foldl
    | with_reducible apply w_foldl2
    | with_reducible apply Within.to (advance_within ..)
    | with_reducible apply Within.to (evAfl_within ..)
    | with_reducible apply Within.to (lateOrInvalid_within ..)
    | with_reducible apply Within.to (pktInvalid_within ..)
    | with_reducible apply Within.to (putTxn_within ..)
    | with_reducible apply Within.to (settle_within ..)
    | with_reducible apply Within.to (snoopReport_within ..)
    | with_reducible apply Within.to (takeRx_within ..)
    | with_reducible apply w_ite_snd
    | with_reducible refine w_snd (by assumption) ?_
    | dsimp only
    | split)

theorem snoopFails_within (node : Node) (tag : Tag) (timeout : Bool) (s : State) : Within { aon := true, log := true, ev := true, sec := true, quay := true, dram := true, mem := true, tier := true, led := true, reins := true, port := true, noc := true, mgt := true } s (snoopFails node tag timeout s) := by
  unfold snoopFails
  repeat' (first
    | exact rfl
    | exact Or.inl rfl
    | exact Or.inr rfl
    | exact And.intro rfl (And.intro rfl rfl)
    | exact Or.inl ⟨rfl, rfl⟩
    | exact Or.inr (Or.inl ⟨rfl, rfl⟩)
    | exact Or.inr (Or.inl ⟨rfl, rfl, rfl, rfl⟩)
    | exact Or.inr (Or.inr rfl)
    | with_reducible assumption
    | with_reducible exact Within.refl _ _
    | (intro _ _ _ _)
    | (intro _ _ _)
    | (intro _ _)
    | (intro _)
    | with_reducible apply w_ite
    | with_reducible apply w_foldl
    | with_reducible apply w_foldl2
    | with_reducible apply Within.to (advance_within ..)
    | with_reducible apply Within.to (putTxn_within ..)
    | with_reducible apply Within.to (snoopReport_within ..)
    | with_reducible apply w_ite_snd
    | with_reducible refine w_snd (by assumption) ?_
    | dsimp only
    | split
    | with_reducible refine w_quay ?_ ?_)

theorem ackGrant_within (node : Node) (tag : Tag) (s : State) : Within { quay := true } s (ackGrant node tag s) := by
  unfold ackGrant
  repeat' (first
    | exact rfl
    | exact Or.inl rfl
    | exact Or.inr rfl
    | exact And.intro rfl (And.intro rfl rfl)
    | exact Or.inl ⟨rfl, rfl⟩
    | exact Or.inr (Or.inl ⟨rfl, rfl⟩)
    | exact Or.inr (Or.inl ⟨rfl, rfl, rfl, rfl⟩)
    | exact Or.inr (Or.inr rfl)
    | with_reducible assumption
    | with_reducible exact Within.refl _ _
    | (intro _ _ _ _)
    | (intro _ _ _)
    | (intro _ _)
    | (intro _)
    | with_reducible apply w_ite
    | with_reducible apply w_foldl
    | with_reducible apply w_foldl2
    | with_reducible apply Within.to (closeTxn_within ..)
    | with_reducible apply w_ite_snd
    | dsimp only
    | split)

end Sys2Proof.Laws
end

