-- ==== Sys2Proof/Laws/WCoherence.lean ====
section
/-! SUPPORT. What each operation of Machine/Coherence.lean may change. -/

namespace Sys2Proof.Laws

open Sys2Proof Sys2Proof.Machine

theorem execRdCur_within (r : Req) (s : State) : WOut { aon := true, log := true, ev := true, sec := true, quay := true, dram := true, mem := true, tier := true, led := true, reins := true, port := true, noc := true, rings := true, mgt := true } s (execRdCur r s) := by
  unfold execRdCur
  repeat' (first
    | exact rfl
    | exact Or.inl rfl
    | exact Or.inr rfl
    | exact And.intro rfl (And.intro rfl rfl)
    | exact Or.inl ⟨rfl, rfl⟩
    | exact Or.inr (Or.inl ⟨rfl, rfl⟩)
    | exact Or.inr (Or.inl ⟨rfl, rfl, rfl, rfl⟩)
    | exact Or.inr (Or.inr rfl)
    | with_reducible assumption
    | with_reducible exact Within.refl _ _
    | (intro _ _ _ _)
    | (intro _ _ _)
    | (intro _ _)
    | (intro _)
    | with_reducible apply w_ite
    | with_reducible apply w_foldl
    | with_reducible apply w_foldl2
    | with_reducible apply wout_next
    | with_reducible exact wout_fault
    | with_reducible apply wout_ite
    | with_reducible apply Within.to (homeRequest_within ..))

theorem execRdShared_within (r : Req) (s : State) : WOut { aon := true, log := true, ev := true, sec := true, quay := true, dram := true, mem := true, tier := true, led := true, reins := true, port := true, noc := true, rings := true, mgt := true } s (execRdShared r s) := by
  unfold execRdShared
  repeat' (first
    | exact rfl
    | exact Or.inl rfl
    | exact Or.inr rfl
    | exact And.intro rfl (And.intro rfl rfl)
    | exact Or.inl ⟨rfl, rfl⟩
    | exact Or.inr (Or.inl ⟨rfl, rfl⟩)
    | exact Or.inr (Or.inl ⟨rfl, rfl, rfl, rfl⟩)
    | exact Or.inr (Or.inr rfl)
    | with_reducible assumption
    | with_reducible exact Within.refl _ _
    | (intro _ _ _ _)
    | (intro _ _ _)
    | (intro _ _)
    | (intro _)
    | with_reducible apply w_ite
    | with_reducible apply w_foldl
    | with_reducible apply w_foldl2
    | with_reducible apply wout_next
    | with_reducible exact wout_fault
    | with_reducible apply wout_ite
    | with_reducible apply Within.to (homeRequest_within ..))

theorem execRdOwn_within (r : Req) (s : State) : WOut { aon := true, log := true, ev := true, sec := true, quay := true, dram := true, mem := true, tier := true, led := true, reins := true, port := true, noc := true, rings := true, mgt := true } s (execRdOwn r s) := by
  unfold execRdOwn
  repeat' (first
    | exact rfl
    | exact Or.inl rfl
    | exact Or.inr rfl
    | exact And.intro rfl (And.intro rfl rfl)
    | exact Or.inl ⟨rfl, rfl⟩
    | exact Or.inr (Or.inl ⟨rfl, rfl⟩)
    | exact Or.inr (Or.inl ⟨rfl, rfl, rfl, rfl⟩)
    | exact Or.inr (Or.inr rfl)
    | with_reducible assumption
    | with_reducible exact Within.refl _ _
    | (intro _ _ _ _)
    | (intro _ _ _)
    | (intro _ _)
    | (intro _)
    | with_reducible apply w_ite
    | with_reducible apply w_foldl
    | with_reducible apply w_foldl2
    | with_reducible apply wout_next
    | with_reducible exact wout_fault
    | with_reducible apply wout_ite
    | with_reducible apply Within.to (homeRequest_within ..))

theorem execUpgrade_within (r : Req) (s : State) : WOut { aon := true, log := true, ev := true, sec := true, quay := true, dram := true, mem := true, tier := true, led := true, reins := true, port := true, noc := true, rings := true, mgt := true } s (execUpgrade r s) := by
  unfold execUpgrade
  repeat' (first
    | exact rfl
    | exact Or.inl rfl
    | exact Or.inr rfl
    | exact And.intro rfl (And.intro rfl rfl)
    | exact Or.inl ⟨rfl, rfl⟩
    | exact Or.inr (Or.inl ⟨rfl, rfl⟩)
    | exact Or.inr (Or.inl ⟨rfl, rfl, rfl, rfl⟩)
    | exact Or.inr (Or.inr rfl)
    | with_reducible assumption
    | with_reducible exact Within.refl _ _
    | (intro _ _ _ _)
    | (intro _ _ _)
    | (intro _ _)
    | (intro _)
    | with_reducible apply w_ite
    | with_reducible apply w_foldl
    | with_reducible apply w_foldl2
    | with_reducible apply wout_next
    | with_reducible exact wout_fault
    | with_reducible apply wout_ite
    | with_reducible apply Within.to (homeRequest_within ..))

theorem execWrFull_within (r : Req) (s : State) : WOut { aon := true, log := true, ev := true, sec := true, quay := true, dram := true, mem := true, tier := true, led := true, reins := true, port := true, noc := true, rings := true, mgt := true } s (execWrFull r s) := by
  unfold execWrFull
  repeat' (first
    | exact rfl
    | exact Or.inl rfl
    | exact Or.inr rfl
    | exact And.intro rfl (And.intro rfl rfl)
    | exact Or.inl ⟨rfl, rfl⟩
    | exact Or.inr (Or.inl ⟨rfl, rfl⟩)
    | exact Or.inr (Or.inl ⟨rfl, rfl, rfl, rfl⟩)
    | exact Or.inr (Or.inr rfl)
    | with_reducible assumption
    | with_reducible exact Within.refl _ _
    | (intro _ _ _ _)
    | (intro _ _ _)
    | (intro _ _)
    | (intro _)
    | with_reducible apply w_ite
    | with_reducible apply w_foldl
    | with_reducible apply w_foldl2
    | with_reducible apply wout_next
    | with_reducible exact wout_fault
    | with_reducible apply wout_ite
    | with_reducible apply Within.to (homeRequest_within ..))

theorem execWrPart_within (r : Req) (s : State) : WOut { aon := true, log := true, ev := true, sec := true, quay := true, dram := true, mem := true, tier := true, led := true, reins := true, port := true, noc := true, rings := true, mgt := true } s (execWrPart r s) := by
  unfold execWrPart
  repeat' (first
    | exact rfl
    | exact Or.inl rfl
    | exact Or.inr rfl
    | exact And.intro rfl (And.intro rfl rfl)
    | exact Or.inl ⟨rfl, rfl⟩
    | exact Or.inr (Or.inl ⟨rfl, rfl⟩)
    | exact Or.inr (Or.inl ⟨rfl, rfl, rfl, rfl⟩)
    | exact Or.inr (Or.inr rfl)
    | with_reducible assumption
    | with_reducible exact Within.refl _ _
    | (intro _ _ _ _)
    | (intro _ _ _)
    | (intro _ _)
    | (intro _)
    | with_reducible apply w_ite
    | with_reducible apply w_foldl
    | with_reducible apply w_foldl2
    | with_reducible apply wout_next
    | with_reducible exact wout_fault
    | with_reducible apply wout_ite
    | with_reducible apply Within.to (homeRequest_within ..))

theorem execAtAdd_within (r : Req) (s : State) : WOut { aon := true, log := true, ev := true, sec := true, quay := true, dram := true, mem := true, tier := true, led := true, reins := true, port := true, noc := true, rings := true, mgt := true } s (execAtAdd r s) := by
  unfold execAtAdd
  repeat' (first
    | exact rfl
    | exact Or.inl rfl
    | exact Or.inr rfl
    | exact And.intro rfl (And.intro rfl rfl)
    | exact Or.inl ⟨rfl, rfl⟩
    | exact Or.inr (Or.inl ⟨rfl, rfl⟩)
    | exact Or.inr (Or.inl ⟨rfl, rfl, rfl, rfl⟩)
    | exact Or.inr (Or.inr rfl)
    | with_reducible assumption
    | with_reducible exact Within.refl _ _
    | (intro _ _ _ _)
    | (intro _ _ _)
    | (intro _ _)
    | (intro _)
    | with_reducible apply w_ite
    | with_reducible apply w_foldl
    | with_reducible apply w_foldl2
    | with_reducible apply wout_next
    | with_reducible exact wout_fault
    | with_reducible apply wout_ite
    | with_reducible apply Within.to (homeRequest_within ..))

theorem execAtSwap_within (r : Req) (s : State) : WOut { aon := true, log := true, ev := true, sec := true, quay := true, dram := true, mem := true, tier := true, led := true, reins := true, port := true, noc := true, rings := true, mgt := true } s (execAtSwap r s) := by
  unfold execAtSwap
  repeat' (first
    | exact rfl
    | exact Or.inl rfl
    | exact Or.inr rfl
    | exact And.intro rfl (And.intro rfl rfl)
    | exact Or.inl ⟨rfl, rfl⟩
    | exact Or.inr (Or.inl ⟨rfl, rfl⟩)
    | exact Or.inr (Or.inl ⟨rfl, rfl, rfl, rfl⟩)
    | exact Or.inr (Or.inr rfl)
    | with_reducible assumption
    | with_reducible exact Within.refl _ _
    | (intro _ _ _ _)
    | (intro _ _ _)
    | (intro _ _)
    | (intro _)
    | with_reducible apply w_ite
    | with_reducible apply w_foldl
    | with_reducible apply w_foldl2
    | with_reducible apply wout_next
    | with_reducible exact wout_fault
    | with_reducible apply wout_ite
    | with_reducible apply Within.to (homeRequest_within ..))

theorem execAtCas_within (r : Req) (s : State) : WOut { aon := true, log := true, ev := true, sec := true, quay := true, dram := true, mem := true, tier := true, led := true, reins := true, port := true, noc := true, rings := true, mgt := true } s (execAtCas r s) := by
  unfold execAtCas
  repeat' (first
    | exact rfl
    | exact Or.inl rfl
    | exact Or.inr rfl
    | exact And.intro rfl (And.intro rfl rfl)
    | exact Or.inl ⟨rfl, rfl⟩
    | exact Or.inr (Or.inl ⟨rfl, rfl⟩)
    | exact Or.inr (Or.inl ⟨rfl, rfl, rfl, rfl⟩)
    | exact Or.inr (Or.inr rfl)
    | with_reducible assumption
    | with_reducible exact Within.refl _ _
    | (intro _ _ _ _)
    | (intro _ _ _)
    | (intro _ _)
    | (intro _)
    | with_reducible apply w_ite
    | with_reducible apply w_foldl
    | with_reducible apply w_foldl2
    | with_reducible apply wout_next
    | with_reducible exact wout_fault
    | with_reducible apply wout_ite
    | with_reducible apply Within.to (homeRequest_within ..))

theorem execAtAnd_within (r : Req) (s : State) : WOut { aon := true, log := true, ev := true, sec := true, quay := true, dram := true, mem := true, tier := true, led := true, reins := true, port := true, noc := true, rings := true, mgt := true } s (execAtAnd r s) := by
  unfold execAtAnd
  repeat' (first
    | exact rfl
    | exact Or.inl rfl
    | exact Or.inr rfl
    | exact And.intro rfl (And.intro rfl rfl)
    | exact Or.inl ⟨rfl, rfl⟩
    | exact Or.inr (Or.inl ⟨rfl, rfl⟩)
    | exact Or.inr (Or.inl ⟨rfl, rfl, rfl, rfl⟩)
    | exact Or.inr (Or.inr rfl)
    | with_reducible assumption
    | with_reducible exact Within.refl _ _
    | (intro _ _ _ _)
    | (intro _ _ _)
    | (intro _ _)
    | (intro _)
    | with_reducible apply w_ite
    | with_reducible apply w_foldl
    | with_reducible apply w_foldl2
    | with_reducible apply wout_next
    | with_reducible exact wout_fault
    | with_reducible apply wout_ite
    | with_reducible apply Within.to (homeRequest_within ..))

theorem execAtOr_within (r : Req) (s : State) : WOut { aon := true, log := true, ev := true, sec := true, quay := true, dram := true, mem := true, tier := true, led := true, reins := true, port := true, noc := true, rings := true, mgt := true } s (execAtOr r s) := by
  unfold execAtOr
  repeat' (first
    | exact rfl
    | exact Or.inl rfl
    | exact Or.inr rfl
    | exact And.intro rfl (And.intro rfl rfl)
    | exact Or.inl ⟨rfl, rfl⟩
    | exact Or.inr (Or.inl ⟨rfl, rfl⟩)
    | exact Or.inr (Or.inl ⟨rfl, rfl, rfl, rfl⟩)
    | exact Or.inr (Or.inr rfl)
    | with_reducible assumption
    | with_reducible exact Within.refl _ _
    | (intro _ _ _ _)
    | (intro _ _ _)
    | (intro _ _)
    | (intro _)
    | with_reducible apply w_ite
    | with_reducible apply w_foldl
    | with_reducible apply w_foldl2
    | with_reducible apply wout_next
    | with_reducible exact wout_fault
    | with_reducible apply wout_ite
    | with_reducible apply Within.to (homeRequest_within ..))

theorem execAtXor_within (r : Req) (s : State) : WOut { aon := true, log := true, ev := true, sec := true, quay := true, dram := true, mem := true, tier := true, led := true, reins := true, port := true, noc := true, rings := true, mgt := true } s (execAtXor r s) := by
  unfold execAtXor
  repeat' (first
    | exact rfl
    | exact Or.inl rfl
    | exact Or.inr rfl
    | exact And.intro rfl (And.intro rfl rfl)
    | exact Or.inl ⟨rfl, rfl⟩
    | exact Or.inr (Or.inl ⟨rfl, rfl⟩)
    | exact Or.inr (Or.inl ⟨rfl, rfl, rfl, rfl⟩)
    | exact Or.inr (Or.inr rfl)
    | with_reducible assumption
    | with_reducible exact Within.refl _ _
    | (intro _ _ _ _)
    | (intro _ _ _)
    | (intro _ _)
    | (intro _)
    | with_reducible apply w_ite
    | with_reducible apply w_foldl
    | with_reducible apply w_foldl2
    | with_reducible apply wout_next
    | with_reducible exact wout_fault
    | with_reducible apply wout_ite
    | with_reducible apply Within.to (homeRequest_within ..))

theorem execAtSmin_within (r : Req) (s : State) : WOut { aon := true, log := true, ev := true, sec := true, quay := true, dram := true, mem := true, tier := true, led := true, reins := true, port := true, noc := true, rings := true, mgt := true } s (execAtSmin r s) := by
  unfold execAtSmin
  repeat' (first
    | exact rfl
    | exact Or.inl rfl
    | exact Or.inr rfl
    | exact And.intro rfl (And.intro rfl rfl)
    | exact Or.inl ⟨rfl, rfl⟩
    | exact Or.inr (Or.inl ⟨rfl, rfl⟩)
    | exact Or.inr (Or.inl ⟨rfl, rfl, rfl, rfl⟩)
    | exact Or.inr (Or.inr rfl)
    | with_reducible assumption
    | with_reducible exact Within.refl _ _
    | (intro _ _ _ _)
    | (intro _ _ _)
    | (intro _ _)
    | (intro _)
    | with_reducible apply w_ite
    | with_reducible apply w_foldl
    | with_reducible apply w_foldl2
    | with_reducible apply wout_next
    | with_reducible exact wout_fault
    | with_reducible apply wout_ite
    | with_reducible apply Within.to (homeRequest_within ..))

theorem execAtSmax_within (r : Req) (s : State) : WOut { aon := true, log := true, ev := true, sec := true, quay := true, dram := true, mem := true, tier := true, led := true, reins := true, port := true, noc := true, rings := true, mgt := true } s (execAtSmax r s) := by
  unfold execAtSmax
  repeat' (first
    | exact rfl
    | exact Or.inl rfl
    | exact Or.inr rfl
    | exact And.intro rfl (And.intro rfl rfl)
    | exact Or.inl ⟨rfl, rfl⟩
    | exact Or.inr (Or.inl ⟨rfl, rfl⟩)
    | exact Or.inr (Or.inl ⟨rfl, rfl, rfl, rfl⟩)
    | exact Or.inr (Or.inr rfl)
    | with_reducible assumption
    | with_reducible exact Within.refl _ _
    | (intro _ _ _ _)
    | (intro _ _ _)
    | (intro _ _)
    | (intro _)
    | with_reducible apply w_ite
    | with_reducible apply w_foldl
    | with_reducible apply w_foldl2
    | with_reducible apply wout_next
    | with_reducible exact wout_fault
    | with_reducible apply wout_ite
    | with_reducible apply Within.to (homeRequest_within ..))

theorem execAtUmin_within (r : Req) (s : State) : WOut { aon := true, log := true, ev := true, sec := true, quay := true, dram := true, mem := true, tier := true, led := true, reins := true, port := true, noc := true, rings := true, mgt := true } s (execAtUmin r s) := by
  unfold execAtUmin
  repeat' (first
    | exact rfl
    | exact Or.inl rfl
    | exact Or.inr rfl
    | exact And.intro rfl (And.intro rfl rfl)
    | exact Or.inl ⟨rfl, rfl⟩
    | exact Or.inr (Or.inl ⟨rfl, rfl⟩)
    | exact Or.inr (Or.inl ⟨rfl, rfl, rfl, rfl⟩)
    | exact Or.inr (Or.inr rfl)
    | with_reducible assumption
    | with_reducible exact Within.refl _ _
    | (intro _ _ _ _)
    | (intro _ _ _)
    | (intro _ _)
    | (intro _)
    | with_reducible apply w_ite
    | with_reducible apply w_foldl
    | with_reducible apply w_foldl2
    | with_reducible apply wout_next
    | with_reducible exact wout_fault
    | with_reducible apply wout_ite
    | with_reducible apply Within.to (homeRequest_within ..))

theorem execAtUmax_within (r : Req) (s : State) : WOut { aon := true, log := true, ev := true, sec := true, quay := true, dram := true, mem := true, tier := true, led := true, reins := true, port := true, noc := true, rings := true, mgt := true } s (execAtUmax r s) := by
  unfold execAtUmax
  repeat' (first
    | exact rfl
    | exact Or.inl rfl
    | exact Or.inr rfl
    | exact And.intro rfl (And.intro rfl rfl)
    | exact Or.inl ⟨rfl, rfl⟩
    | exact Or.inr (Or.inl ⟨rfl, rfl⟩)
    | exact Or.inr (Or.inl ⟨rfl, rfl, rfl, rfl⟩)
    | exact Or.inr (Or.inr rfl)
    | with_reducible assumption
    | with_reducible exact Within.refl _ _
    | (intro _ _ _ _)
    | (intro _ _ _)
    | (intro _ _)
    | (intro _)
    | with_reducible apply w_ite
    | with_reducible apply w_foldl
    | with_reducible apply w_foldl2
    | with_reducible apply wout_next
    | with_reducible exact wout_fault
    | with_reducible apply wout_ite
    | with_reducible apply Within.to (homeRequest_within ..))

theorem execEvictClean_within (r : Req) (s : State) : WOut { aon := true, log := true, ev := true, sec := true, quay := true, dram := true, mem := true, tier := true, led := true, reins := true, port := true, noc := true, rings := true, mgt := true } s (execEvictClean r s) := by
  unfold execEvictClean
  repeat' (first
    | exact rfl
    | exact Or.inl rfl
    | exact Or.inr rfl
    | exact And.intro rfl (And.intro rfl rfl)
    | exact Or.inl ⟨rfl, rfl⟩
    | exact Or.inr (Or.inl ⟨rfl, rfl⟩)
    | exact Or.inr (Or.inl ⟨rfl, rfl, rfl, rfl⟩)
    | exact Or.inr (Or.inr rfl)
    | with_reducible assumption
    | with_reducible exact Within.refl _ _
    | (intro _ _ _ _)
    | (intro _ _ _)
    | (intro _ _)
    | (intro _)
    | with_reducible apply w_ite
    | with_reducible apply w_foldl
    | with_reducible apply w_foldl2
    | with_reducible apply wout_next
    | with_reducible exact wout_fault
    | with_reducible apply wout_ite
    | with_reducible apply Within.to (homeNotice_within ..))

theorem execEvictDirty_within (r : Req) (s : State) : WOut { aon := true, log := true, ev := true, sec := true, quay := true, dram := true, mem := true, tier := true, led := true, reins := true, port := true, noc := true, rings := true, mgt := true } s (execEvictDirty r s) := by
  unfold execEvictDirty
  repeat' (first
    | exact rfl
    | exact Or.inl rfl
    | exact Or.inr rfl
    | exact And.intro rfl (And.intro rfl rfl)
    | exact Or.inl ⟨rfl, rfl⟩
    | exact Or.inr (Or.inl ⟨rfl, rfl⟩)
    | exact Or.inr (Or.inl ⟨rfl, rfl, rfl, rfl⟩)
    | exact Or.inr (Or.inr rfl)
    | with_reducible assumption
    | with_reducible exact Within.refl _ _
    | (intro _ _ _ _)
    | (intro _ _ _)
    | (intro _ _)
    | (intro _)
    | with_reducible apply w_ite
    | with_reducible apply w_foldl
    | with_reducible apply w_foldl2
    | with_reducible apply wout_next
    | with_reducible exact wout_fault
    | with_reducible apply wout_ite
    | with_reducible apply Within.to (homeNotice_within ..))

theorem execCmpAck_within (p : Rsp) (s : State) : WOut { aon := true, log := true, ev := true, sec := true, quay := true, dram := true, mem := true, tier := true, led := true, reins := true, port := true, noc := true, rings := true, mgt := true } s (execCmpAck p s) := by
  unfold execCmpAck
  repeat' (first
    | exact rfl
    | exact Or.inl rfl
    | exact Or.inr rfl
    | exact And.intro rfl (And.intro rfl rfl)
    | exact Or.inl ⟨rfl, rfl⟩
    | exact Or.inr (Or.inl ⟨rfl, rfl⟩)
    | exact Or.inr (Or.inl ⟨rfl, rfl, rfl, rfl⟩)
    | exact Or.inr (Or.inr rfl)
    | with_reducible assumption
    | with_reducible exact Within.refl _ _
    | (intro _ _ _ _)
    | (intro _ _ _)
    | (intro _ _)
    | (intro _)
    | with_reducible apply w_ite
    | with_reducible apply w_foldl
    | with_reducible apply w_foldl2
    | with_reducible apply wout_next
    | with_reducible exact wout_fault
    | with_reducible apply wout_ite
    | with_reducible apply Within.to (ackGrant_within ..)
    | with_reducible apply Within.to (evAfl_within ..)
    | with_reducible apply Within.to (pktInvalid_within ..)
    | with_reducible apply Within.to (settle_within ..)
    | with_reducible apply Within.to (takeRx_within ..))

theorem execRspI_within (p : Rsp) (s : State) : WOut { aon := true, log := true, ev := true, sec := true, quay := true, dram := true, mem := true, tier := true, led := true, reins := true, port := true, noc := true, rings := true, mgt := true } s (execRspI p s) := by
  unfold execRspI
  repeat' (first
    | exact rfl
    | exact Or.inl rfl
    | exact Or.inr rfl
    | exact And.intro rfl (And.intro rfl rfl)
    | exact Or.inl ⟨rfl, rfl⟩
    | exact Or.inr (Or.inl ⟨rfl, rfl⟩)
    | exact Or.inr (Or.inl ⟨rfl, rfl, rfl, rfl⟩)
    | exact Or.inr (Or.inr rfl)
    | with_reducible assumption
    | with_reducible exact Within.refl _ _
    | (intro _ _ _ _)
    | (intro _ _ _)
    | (intro _ _)
    | (intro _)
    | with_reducible apply w_ite
    | with_reducible apply w_foldl
    | with_reducible apply w_foldl2
    | with_reducible apply wout_next
    | with_reducible exact wout_fault
    | with_reducible apply wout_ite
    | with_reducible apply Within.to (homeSnoopRsp_within ..))

theorem execRspS_within (p : Rsp) (s : State) : WOut { aon := true, log := true, ev := true, sec := true, quay := true, dram := true, mem := true, tier := true, led := true, reins := true, port := true, noc := true, rings := true, mgt := true } s (execRspS p s) := by
  unfold execRspS
  repeat' (first
    | exact rfl
    | exact Or.inl rfl
    | exact Or.inr rfl
    | exact And.intro rfl (And.intro rfl rfl)
    | exact Or.inl ⟨rfl, rfl⟩
    | exact Or.inr (Or.inl ⟨rfl, rfl⟩)
    | exact Or.inr (Or.inl ⟨rfl, rfl, rfl, rfl⟩)
    | exact Or.inr (Or.inr rfl)
    | with_reducible assumption
    | with_reducible exact Within.refl _ _
    | (intro _ _ _ _)
    | (intro _ _ _)
    | (intro _ _)
    | (intro _)
    | with_reducible apply w_ite
    | with_reducible apply w_foldl
    | with_reducible apply w_foldl2
    | with_reducible apply wout_next
    | with_reducible exact wout_fault
    | with_reducible apply wout_ite
    | with_reducible apply Within.to (homeSnoopRsp_within ..))

theorem execRspIClean_within (p : Rsp) (s : State) : WOut { aon := true, log := true, ev := true, sec := true, quay := true, dram := true, mem := true, tier := true, led := true, reins := true, port := true, noc := true, rings := true, mgt := true } s (execRspIClean p s) := by
  unfold execRspIClean
  repeat' (first
    | exact rfl
    | exact Or.inl rfl
    | exact Or.inr rfl
    | exact And.intro rfl (And.intro rfl rfl)
    | exact Or.inl ⟨rfl, rfl⟩
    | exact Or.inr (Or.inl ⟨rfl, rfl⟩)
    | exact Or.inr (Or.inl ⟨rfl, rfl, rfl, rfl⟩)
    | exact Or.inr (Or.inr rfl)
    | with_reducible assumption
    | with_reducible exact Within.refl _ _
    | (intro _ _ _ _)
    | (intro _ _ _)
    | (intro _ _)
    | (intro _)
    | with_reducible apply w_ite
    | with_reducible apply w_foldl
    | with_reducible apply w_foldl2
    | with_reducible apply wout_next
    | with_reducible exact wout_fault
    | with_reducible apply wout_ite
    | with_reducible apply Within.to (homeSnoopRsp_within ..))

theorem execRspIData_within (p : Rsp) (s : State) : WOut { aon := true, log := true, ev := true, sec := true, quay := true, dram := true, mem := true, tier := true, led := true, reins := true, port := true, noc := true, rings := true, mgt := true } s (execRspIData p s) := by
  unfold execRspIData
  repeat' (first
    | exact rfl
    | exact Or.inl rfl
    | exact Or.inr rfl
    | exact And.intro rfl (And.intro rfl rfl)
    | exact Or.inl ⟨rfl, rfl⟩
    | exact Or.inr (Or.inl ⟨rfl, rfl⟩)
    | exact Or.inr (Or.inl ⟨rfl, rfl, rfl, rfl⟩)
    | exact Or.inr (Or.inr rfl)
    | with_reducible assumption
    | with_reducible exact Within.refl _ _
    | (intro _ _ _ _)
    | (intro _ _ _)
    | (intro _ _)
    | (intro _)
    | with_reducible apply w_ite
    | with_reducible apply w_foldl
    | with_reducible apply w_foldl2
    | with_reducible apply wout_next
    | with_reducible exact wout_fault
    | with_reducible apply wout_ite
    | with_reducible apply Within.to (homeSnoopRsp_within ..))

theorem execRspSData_within (p : Rsp) (s : State) : WOut { aon := true, log := true, ev := true, sec := true, quay := true, dram := true, mem := true, tier := true, led := true, reins := true, port := true, noc := true, rings := true, mgt := true } s (execRspSData p s) := by
  unfold execRspSData
  repeat' (first
    | exact rfl
    | exact Or.inl rfl
    | exact Or.inr rfl
    | exact And.intro rfl (And.intro rfl rfl)
    | exact Or.inl ⟨rfl, rfl⟩
    | exact Or.inr (Or.inl ⟨rfl, rfl⟩)
    | exact Or.inr (Or.inl ⟨rfl, rfl, rfl, rfl⟩)
    | exact Or.inr (Or.inr rfl)
    | with_reducible assumption
    | with_reducible exact Within.refl _ _
    | (intro _ _ _ _)
    | (intro _ _ _)
    | (intro _ _)
    | (intro _)
    | with_reducible apply w_ite
    | with_reducible apply w_foldl
    | with_reducible apply w_foldl2
    | with_reducible apply wout_next
    | with_reducible exact wout_fault
    | with_reducible apply wout_ite
    | with_reducible apply Within.to (homeSnoopRsp_within ..))

theorem execRspFwd_within (p : Rsp) (s : State) : WOut { aon := true, log := true, ev := true, sec := true, quay := true, dram := true, mem := true, tier := true, led := true, reins := true, port := true, noc := true, rings := true, mgt := true } s (execRspFwd p s) := by
  unfold execRspFwd
  repeat' (first
    | exact rfl
    | exact Or.inl rfl
    | exact Or.inr rfl
    | exact And.intro rfl (And.intro rfl rfl)
    | exact Or.inl ⟨rfl, rfl⟩
    | exact Or.inr (Or.inl ⟨rfl, rfl⟩)
    | exact Or.inr (Or.inl ⟨rfl, rfl, rfl, rfl⟩)
    | exact Or.inr (Or.inr rfl)
    | with_reducible assumption
    | with_reducible exact Within.refl _ _
    | (intro _ _ _ _)
    | (intro _ _ _)
    | (intro _ _)
    | (intro _)
    | with_reducible apply w_ite
    | with_reducible apply w_foldl
    | with_reducible apply w_foldl2
    | with_reducible apply wout_next
    | with_reducible exact wout_fault
    | with_reducible apply wout_ite
    | with_reducible apply Within.to (homeSnoopRsp_within ..))

end Sys2Proof.Laws
end

