-- ==== Sys2Proof/Laws/WCaching.lean ====
section
/-! SUPPORT. What each operation of Machine/Caching.lean may change. -/

namespace Sys2Proof.Laws

open Sys2Proof Sys2Proof.Machine

theorem setRemote_within (home : Node) (line : Line) (v : RLine) (s : State) : Within { quay := true } s (setRemote home line v s) := by
  unfold setRemote
  repeat' (first
    | exact rfl
    | exact Or.inl rfl
    | exact Or.inr rfl
    | exact And.intro rfl (And.intro rfl rfl)
    | exact Or.inl ⟨rfl, rfl⟩
    | exact Or.inr (Or.inl ⟨rfl, rfl⟩)
    | exact Or.inr (Or.inl ⟨rfl, rfl, rfl, rfl⟩)
    | exact Or.inr (Or.inr rfl)
    | with_reducible assumption
    | with_reducible exact Within.refl _ _
    | (intro _ _ _ _)
    | (intro _ _ _)
    | (intro _ _)
    | (intro _)
    | with_reducible apply w_ite
    | with_reducible apply w_foldl
    | with_reducible apply w_foldl2
    | with_reducible apply w_ite_snd
    | dsimp only
    | split
    | with_reducible refine w_quay ?_ ?_)

theorem answerSnoop_within (k : SnoopKind) (r : Req) (s : State) : Within { log := true, ev := true, quay := true, port := true, mgt := true } s (answerSnoop k r s) := by
  unfold answerSnoop
  repeat' (first
    | exact rfl
    | exact Or.inl rfl
    | exact Or.inr rfl
    | exact And.intro rfl (And.intro rfl rfl)
    | exact Or.inl ⟨rfl, rfl⟩
    | exact Or.inr (Or.inl ⟨rfl, rfl⟩)
    | exact Or.inr (Or.inl ⟨rfl, rfl, rfl, rfl⟩)
    | exact Or.inr (Or.inr rfl)
    | with_reducible assumption
    | with_reducible exact Within.refl _ _
    | (intro _ _ _ _)
    | (intro _ _ _)
    | (intro _ _)
    | (intro _)
    | with_reducible apply w_ite
    | with_reducible apply w_foldl
    | with_reducible apply w_foldl2
    | with_reducible apply Within.to (evAfl_within ..)
    | with_reducible apply Within.to (pktInvalid_within ..)
    | with_reducible apply Within.to (sendPkt_within ..)
    | with_reducible apply Within.to (setRemote_within ..)
    | with_reducible apply Within.to (takeRx_within ..))

theorem execSnpInv_within (r : Req) (s : State) : WOut { log := true, ev := true, quay := true, port := true, mgt := true } s (execSnpInv r s) := by
  unfold execSnpInv
  repeat' (first
    | exact rfl
    | exact Or.inl rfl
    | exact Or.inr rfl
    | exact And.intro rfl (And.intro rfl rfl)
    | exact Or.inl ⟨rfl, rfl⟩
    | exact Or.inr (Or.inl ⟨rfl, rfl⟩)
    | exact Or.inr (Or.inl ⟨rfl, rfl, rfl, rfl⟩)
    | exact Or.inr (Or.inr rfl)
    | with_reducible assumption
    | with_reducible exact Within.refl _ _
    | (intro _ _ _ _)
    | (intro _ _ _)
    | (intro _ _)
    | (intro _)
    | with_reducible apply w_ite
    | with_reducible apply w_foldl
    | with_reducible apply w_foldl2
    | with_reducible apply wout_next
    | with_reducible exact wout_fault
    | with_reducible apply wout_ite
    | with_reducible apply Within.to (answerSnoop_within ..))

theorem execSnpShare_within (r : Req) (s : State) : WOut { log := true, ev := true, quay := true, port := true, mgt := true } s (execSnpShare r s) := by
  unfold execSnpShare
  repeat' (first
    | exact rfl
    | exact Or.inl rfl
    | exact Or.inr rfl
    | exact And.intro rfl (And.intro rfl rfl)
    | exact Or.inl ⟨rfl, rfl⟩
    | exact Or.inr (Or.inl ⟨rfl, rfl⟩)
    | exact Or.inr (Or.inl ⟨rfl, rfl, rfl, rfl⟩)
    | exact Or.inr (Or.inr rfl)
    | with_reducible assumption
    | with_reducible exact Within.refl _ _
    | (intro _ _ _ _)
    | (intro _ _ _)
    | (intro _ _)
    | (intro _)
    | with_reducible apply w_ite
    | with_reducible apply w_foldl
    | with_reducible apply w_foldl2
    | with_reducible apply wout_next
    | with_reducible exact wout_fault
    | with_reducible apply wout_ite
    | with_reducible apply Within.to (answerSnoop_within ..))

theorem execSnpFwdS_within (r : Req) (s : State) : WOut { log := true, ev := true, quay := true, port := true, mgt := true } s (execSnpFwdS r s) := by
  unfold execSnpFwdS
  repeat' (first
    | exact rfl
    | exact Or.inl rfl
    | exact Or.inr rfl
    | exact And.intro rfl (And.intro rfl rfl)
    | exact Or.inl ⟨rfl, rfl⟩
    | exact Or.inr (Or.inl ⟨rfl, rfl⟩)
    | exact Or.inr (Or.inl ⟨rfl, rfl, rfl, rfl⟩)
    | exact Or.inr (Or.inr rfl)
    | with_reducible assumption
    | with_reducible exact Within.refl _ _
    | (intro _ _ _ _)
    | (intro _ _ _)
    | (intro _ _)
    | (intro _)
    | with_reducible apply w_ite
    | with_reducible apply w_foldl
    | with_reducible apply w_foldl2
    | with_reducible apply wout_next
    | with_reducible exact wout_fault
    | with_reducible apply wout_ite
    | with_reducible apply Within.to (answerSnoop_within ..))

theorem issueReq_within (op : BitVec 8) (home : Node) (line : Line) (data : BitVec 512) (body : List (BitVec 128)) (poison : Bool) (s : State) : Within { quay := true, port := true } s (issueReq op home line data body poison s) := by
  unfold issueReq
  repeat' (first
    | exact rfl
    | exact Or.inl rfl
    | exact Or.inr rfl
    | exact And.intro rfl (And.intro rfl rfl)
    | exact Or.inl ⟨rfl, rfl⟩
    | exact Or.inr (Or.inl ⟨rfl, rfl⟩)
    | exact Or.inr (Or.inl ⟨rfl, rfl, rfl, rfl⟩)
    | exact Or.inr (Or.inr rfl)
    | with_reducible assumption
    | with_reducible exact Within.refl _ _
    | (intro _ _ _ _)
    | (intro _ _ _)
    | (intro _ _)
    | (intro _)
    | with_reducible apply w_ite
    | with_reducible apply w_foldl
    | with_reducible apply w_foldl2
    | with_reducible apply Within.to (sendPkt_within ..)
    | with_reducible apply w_ite_snd
    | dsimp only
    | split
    | with_reducible refine w_quay ?_ ?_)

theorem cacheEvict_within (home : Node) (line : Line) (s : State) : Within { quay := true, port := true } s (cacheEvict home line s) := by
  unfold cacheEvict
  repeat' (first
    | exact rfl
    | exact Or.inl rfl
    | exact Or.inr rfl
    | exact And.intro rfl (And.intro rfl rfl)
    | exact Or.inl ⟨rfl, rfl⟩
    | exact Or.inr (Or.inl ⟨rfl, rfl⟩)
    | exact Or.inr (Or.inl ⟨rfl, rfl, rfl, rfl⟩)
    | exact Or.inr (Or.inr rfl)
    | with_reducible assumption
    | with_reducible exact Within.refl _ _
    | (intro _ _ _ _)
    | (intro _ _ _)
    | (intro _ _)
    | (intro _)
    | with_reducible apply w_ite
    | with_reducible apply w_foldl
    | with_reducible apply w_foldl2
    | with_reducible apply Within.to (issueReq_within ..)
    | with_reducible apply Within.to (setRemote_within ..))

theorem remoteFit_within (s : State) : Within { quay := true, port := true } s (remoteFit s) := by
  unfold remoteFit
  repeat' (first
    | exact rfl
    | exact Or.inl rfl
    | exact Or.inr rfl
    | exact And.intro rfl (And.intro rfl rfl)
    | exact Or.inl ⟨rfl, rfl⟩
    | exact Or.inr (Or.inl ⟨rfl, rfl⟩)
    | exact Or.inr (Or.inl ⟨rfl, rfl, rfl, rfl⟩)
    | exact Or.inr (Or.inr rfl)
    | with_reducible assumption
    | with_reducible exact Within.refl _ _
    | (intro _ _ _ _)
    | (intro _ _ _)
    | (intro _ _)
    | (intro _)
    | with_reducible apply w_ite
    | with_reducible apply w_foldl
    | with_reducible apply w_foldl2
    | with_reducible apply Within.to (cacheEvict_within ..)
    | with_reducible apply w_ite_snd
    | dsimp only
    | split)

theorem cacheAccess_within (home : Node) (line : Line) (st : Option (BitVec 512)) (s : State) : Within { quay := true, port := true } s (cacheAccess home line st s) := by
  unfold cacheAccess
  repeat' (first
    | exact rfl
    | exact Or.inl rfl
    | exact Or.inr rfl
    | exact And.intro rfl (And.intro rfl rfl)
    | exact Or.inl ⟨rfl, rfl⟩
    | exact Or.inr (Or.inl ⟨rfl, rfl⟩)
    | exact Or.inr (Or.inl ⟨rfl, rfl, rfl, rfl⟩)
    | exact Or.inr (Or.inr rfl)
    | with_reducible assumption
    | with_reducible exact Within.refl _ _
    | (intro _ _ _ _)
    | (intro _ _ _)
    | (intro _ _)
    | (intro _)
    | with_reducible apply w_ite
    | with_reducible apply w_foldl
    | with_reducible apply w_foldl2
    | with_reducible apply Within.to (issueReq_within ..)
    | with_reducible apply Within.to (setRemote_within ..)
    | with_reducible apply w_ite_snd
    | dsimp only
    | split)

theorem sendCmpAck_within (d : DevReq) (s : State) : Within { port := true } s (sendCmpAck d s) := by
  unfold sendCmpAck
  repeat' (first
    | exact rfl
    | exact Or.inl rfl
    | exact Or.inr rfl
    | exact And.intro rfl (And.intro rfl rfl)
    | exact Or.inl ⟨rfl, rfl⟩
    | exact Or.inr (Or.inl ⟨rfl, rfl⟩)
    | exact Or.inr (Or.inl ⟨rfl, rfl, rfl, rfl⟩)
    | exact Or.inr (Or.inr rfl)
    | with_reducible assumption
    | with_reducible exact Within.refl _ _
    | (intro _ _ _ _)
    | (intro _ _ _)
    | (intro _ _)
    | (intro _)
    | with_reducible apply w_ite
    | with_reducible apply w_foldl
    | with_reducible apply w_foldl2
    | with_reducible apply Within.to (sendPkt_within ..))

theorem finishReq_within (op : BitVec 8) (st : BitVec 4) (data : BitVec 512) (d : DevReq) (s : State) : Within { quay := true, port := true } s (finishReq op st data d s) := by
  unfold finishReq
  repeat' (first
    | exact rfl
    | exact Or.inl rfl
    | exact Or.inr rfl
    | exact And.intro rfl (And.intro rfl rfl)
    | exact Or.inl ⟨rfl, rfl⟩
    | exact Or.inr (Or.inl ⟨rfl, rfl⟩)
    | exact Or.inr (Or.inl ⟨rfl, rfl, rfl, rfl⟩)
    | exact Or.inr (Or.inr rfl)
    | with_reducible assumption
    | with_reducible exact Within.refl _ _
    | (intro _ _ _ _)
    | (intro _ _ _)
    | (intro _ _)
    | (intro _)
    | with_reducible apply w_ite
    | with_reducible apply w_foldl
    | with_reducible apply w_foldl2
    | with_reducible apply Within.to (cacheAccess_within ..)
    | with_reducible apply Within.to (remoteFit_within ..)
    | with_reducible apply Within.to (setRemote_within ..)
    | with_reducible apply w_ite_snd
    | dsimp only
    | split
    | with_reducible refine w_quay ?_ ?_)

theorem holdSpec_within (op : BitVec 8) (data : BitVec 512) (d : DevReq) (s : State) : Within { quay := true } s (holdSpec op data d s) := by
  unfold holdSpec
  repeat' (first
    | exact rfl
    | exact Or.inl rfl
    | exact Or.inr rfl
    | exact And.intro rfl (And.intro rfl rfl)
    | exact Or.inl ⟨rfl, rfl⟩
    | exact Or.inr (Or.inl ⟨rfl, rfl⟩)
    | exact Or.inr (Or.inl ⟨rfl, rfl, rfl, rfl⟩)
    | exact Or.inr (Or.inr rfl)
    | with_reducible assumption
    | with_reducible exact Within.refl _ _
    | (intro _ _ _ _)
    | (intro _ _ _)
    | (intro _ _)
    | (intro _)
    | with_reducible apply w_ite
    | with_reducible apply w_foldl
    | with_reducible apply w_foldl2
    | with_reducible apply w_ite_snd
    | dsimp only
    | split
    | with_reducible refine w_quay ?_ ?_)

theorem specFlit_within (p : Nat) (s : State) : Within { quay := true, port := true } s (specFlit p s) := by
  unfold specFlit
  repeat' (first
    | exact rfl
    | exact Or.inl rfl
    | exact Or.inr rfl
    | exact And.intro rfl (And.intro rfl rfl)
    | exact Or.inl ⟨rfl, rfl⟩
    | exact Or.inr (Or.inl ⟨rfl, rfl⟩)
    | exact Or.inr (Or.inl ⟨rfl, rfl, rfl, rfl⟩)
    | exact Or.inr (Or.inr rfl)
    | with_reducible assumption
    | with_reducible exact Within.refl _ _
    | (intro _ _ _ _)
    | (intro _ _ _)
    | (intro _ _)
    | (intro _)
    | with_reducible apply w_ite
    | with_reducible apply w_foldl
    | with_reducible apply w_foldl2
    | with_reducible apply Within.to (finishReq_within ..)
    | with_reducible apply w_ite_snd
    | with_reducible refine w_snd (by assumption) ?_
    | dsimp only
    | split
    | with_reducible refine w_quay ?_ ?_)

theorem devResponse_within (op : BitVec 8) (p : Rsp) (s : State) : Within { log := true, ev := true, quay := true, port := true, mgt := true } s (devResponse op p s) := by
  unfold devResponse
  repeat' (first
    | exact rfl
    | exact Or.inl rfl
    | exact Or.inr rfl
    | exact And.intro rfl (And.intro rfl rfl)
    | exact Or.inl ⟨rfl, rfl⟩
    | exact Or.inr (Or.inl ⟨rfl, rfl⟩)
    | exact Or.inr (Or.inl ⟨rfl, rfl, rfl, rfl⟩)
    | exact Or.inr (Or.inr rfl)
    | with_reducible assumption
    | with_reducible exact Within.refl _ _
    | (intro _ _ _ _)
    | (intro _ _ _)
    | (intro _ _)
    | (intro _)
    | with_reducible apply w_ite
    | with_reducible apply w_foldl
    | with_reducible apply w_foldl2
    | with_reducible apply Within.to (evAfl_within ..)
    | with_reducible apply Within.to (finishReq_within ..)
    | with_reducible apply Within.to (holdSpec_within ..)
    | with_reducible apply Within.to (lateOrInvalid_within ..)
    | with_reducible apply Within.to (pktInvalid_within ..)
    | with_reducible apply Within.to (sendCmpAck_within ..)
    | with_reducible apply Within.to (takeRx_within ..)
    | with_reducible apply w_ite_snd
    | dsimp only
    | split)

theorem execDataE_within (p : Rsp) (s : State) : WOut { log := true, ev := true, quay := true, port := true, mgt := true } s (execDataE p s) := by
  unfold execDataE
  repeat' (first
    | exact rfl
    | exact Or.inl rfl
    | exact Or.inr rfl
    | exact And.intro rfl (And.intro rfl rfl)
    | exact Or.inl ⟨rfl, rfl⟩
    | exact Or.inr (Or.inl ⟨rfl, rfl⟩)
    | exact Or.inr (Or.inl ⟨rfl, rfl, rfl, rfl⟩)
    | exact Or.inr (Or.inr rfl)
    | with_reducible assumption
    | with_reducible exact Within.refl _ _
    | (intro _ _ _ _)
    | (intro _ _ _)
    | (intro _ _)
    | (intro _)
    | with_reducible apply w_ite
    | with_reducible apply w_foldl
    | with_reducible apply w_foldl2
    | with_reducible apply wout_next
    | with_reducible exact wout_fault
    | with_reducible apply wout_ite
    | with_reducible apply Within.to (devResponse_within ..))

theorem execDataS_within (p : Rsp) (s : State) : WOut { log := true, ev := true, quay := true, port := true, mgt := true } s (execDataS p s) := by
  unfold execDataS
  repeat' (first
    | exact rfl
    | exact Or.inl rfl
    | exact Or.inr rfl
    | exact And.intro rfl (And.intro rfl rfl)
    | exact Or.inl ⟨rfl, rfl⟩
    | exact Or.inr (Or.inl ⟨rfl, rfl⟩)
    | exact Or.inr (Or.inl ⟨rfl, rfl, rfl, rfl⟩)
    | exact Or.inr (Or.inr rfl)
    | with_reducible assumption
    | with_reducible exact Within.refl _ _
    | (intro _ _ _ _)
    | (intro _ _ _)
    | (intro _ _)
    | (intro _)
    | with_reducible apply w_ite
    | with_reducible apply w_foldl
    | with_reducible apply w_foldl2
    | with_reducible apply wout_next
    | with_reducible exact wout_fault
    | with_reducible apply wout_ite
    | with_reducible apply Within.to (devResponse_within ..))

theorem execDataF_within (p : Rsp) (s : State) : WOut { log := true, ev := true, quay := true, port := true, mgt := true } s (execDataF p s) := by
  unfold execDataF
  repeat' (first
    | exact rfl
    | exact Or.inl rfl
    | exact Or.inr rfl
    | exact And.intro rfl (And.intro rfl rfl)
    | exact Or.inl ⟨rfl, rfl⟩
    | exact Or.inr (Or.inl ⟨rfl, rfl⟩)
    | exact Or.inr (Or.inl ⟨rfl, rfl, rfl, rfl⟩)
    | exact Or.inr (Or.inr rfl)
    | with_reducible assumption
    | with_reducible exact Within.refl _ _
    | (intro _ _ _ _)
    | (intro _ _ _)
    | (intro _ _)
    | (intro _)
    | with_reducible apply w_ite
    | with_reducible apply w_foldl
    | with_reducible apply w_foldl2
    | with_reducible apply wout_next
    | with_reducible exact wout_fault
    | with_reducible apply wout_ite
    | with_reducible apply Within.to (devResponse_within ..))

theorem execDataI_within (p : Rsp) (s : State) : WOut { log := true, ev := true, quay := true, port := true, mgt := true } s (execDataI p s) := by
  unfold execDataI
  repeat' (first
    | exact rfl
    | exact Or.inl rfl
    | exact Or.inr rfl
    | exact And.intro rfl (And.intro rfl rfl)
    | exact Or.inl ⟨rfl, rfl⟩
    | exact Or.inr (Or.inl ⟨rfl, rfl⟩)
    | exact Or.inr (Or.inl ⟨rfl, rfl, rfl, rfl⟩)
    | exact Or.inr (Or.inr rfl)
    | with_reducible assumption
    | with_reducible exact Within.refl _ _
    | (intro _ _ _ _)
    | (intro _ _ _)
    | (intro _ _)
    | (intro _)
    | with_reducible apply w_ite
    | with_reducible apply w_foldl
    | with_reducible apply w_foldl2
    | with_reducible apply wout_next
    | with_reducible exact wout_fault
    | with_reducible apply wout_ite
    | with_reducible apply Within.to (devResponse_within ..))

theorem execCmpE_within (p : Rsp) (s : State) : WOut { log := true, ev := true, quay := true, port := true, mgt := true } s (execCmpE p s) := by
  unfold execCmpE
  repeat' (first
    | exact rfl
    | exact Or.inl rfl
    | exact Or.inr rfl
    | exact And.intro rfl (And.intro rfl rfl)
    | exact Or.inl ⟨rfl, rfl⟩
    | exact Or.inr (Or.inl ⟨rfl, rfl⟩)
    | exact Or.inr (Or.inl ⟨rfl, rfl, rfl, rfl⟩)
    | exact Or.inr (Or.inr rfl)
    | with_reducible assumption
    | with_reducible exact Within.refl _ _
    | (intro _ _ _ _)
    | (intro _ _ _)
    | (intro _ _)
    | (intro _)
    | with_reducible apply w_ite
    | with_reducible apply w_foldl
    | with_reducible apply w_foldl2
    | with_reducible apply wout_next
    | with_reducible exact wout_fault
    | with_reducible apply wout_ite
    | with_reducible apply Within.to (devResponse_within ..))

theorem execCmp_within (p : Rsp) (s : State) : WOut { log := true, ev := true, quay := true, port := true, mgt := true } s (execCmp p s) := by
  unfold execCmp
  repeat' (first
    | exact rfl
    | exact Or.inl rfl
    | exact Or.inr rfl
    | exact And.intro rfl (And.intro rfl rfl)
    | exact Or.inl ⟨rfl, rfl⟩
    | exact Or.inr (Or.inl ⟨rfl, rfl⟩)
    | exact Or.inr (Or.inl ⟨rfl, rfl, rfl, rfl⟩)
    | exact Or.inr (Or.inr rfl)
    | with_reducible assumption
    | with_reducible exact Within.refl _ _
    | (intro _ _ _ _)
    | (intro _ _ _)
    | (intro _ _)
    | (intro _)
    | with_reducible apply w_ite
    | with_reducible apply w_foldl
    | with_reducible apply w_foldl2
    | with_reducible apply wout_next
    | with_reducible exact wout_fault
    | with_reducible apply wout_ite
    | with_reducible apply Within.to (devResponse_within ..))

theorem execAtmData_within (p : Rsp) (s : State) : WOut { log := true, ev := true, quay := true, port := true, mgt := true } s (execAtmData p s) := by
  unfold execAtmData
  repeat' (first
    | exact rfl
    | exact Or.inl rfl
    | exact Or.inr rfl
    | exact And.intro rfl (And.intro rfl rfl)
    | exact Or.inl ⟨rfl, rfl⟩
    | exact Or.inr (Or.inl ⟨rfl, rfl⟩)
    | exact Or.inr (Or.inl ⟨rfl, rfl, rfl, rfl⟩)
    | exact Or.inr (Or.inr rfl)
    | with_reducible assumption
    | with_reducible exact Within.refl _ _
    | (intro _ _ _ _)
    | (intro _ _ _)
    | (intro _ _)
    | (intro _)
    | with_reducible apply w_ite
    | with_reducible apply w_foldl
    | with_reducible apply w_foldl2
    | with_reducible apply wout_next
    | with_reducible exact wout_fault
    | with_reducible apply wout_ite
    | with_reducible apply Within.to (devResponse_within ..))

theorem execWbAck_within (p : Rsp) (s : State) : WOut { log := true, ev := true, quay := true, port := true, mgt := true } s (execWbAck p s) := by
  unfold execWbAck
  repeat' (first
    | exact rfl
    | exact Or.inl rfl
    | exact Or.inr rfl
    | exact And.intro rfl (And.intro rfl rfl)
    | exact Or.inl ⟨rfl, rfl⟩
    | exact Or.inr (Or.inl ⟨rfl, rfl⟩)
    | exact Or.inr (Or.inl ⟨rfl, rfl, rfl, rfl⟩)
    | exact Or.inr (Or.inr rfl)
    | with_reducible assumption
    | with_reducible exact Within.refl _ _
    | (intro _ _ _ _)
    | (intro _ _ _)
    | (intro _ _)
    | (intro _)
    | with_reducible apply w_ite
    | with_reducible apply w_foldl
    | with_reducible apply w_foldl2
    | with_reducible apply wout_next
    | with_reducible exact wout_fault
    | with_reducible apply wout_ite
    | with_reducible apply Within.to (evAfl_within ..)
    | with_reducible apply Within.to (lateOrInvalid_within ..)
    | with_reducible apply Within.to (pktInvalid_within ..)
    | with_reducible apply Within.to (setRemote_within ..)
    | with_reducible apply Within.to (takeRx_within ..)
    | with_reducible apply w_ite_snd
    | dsimp only
    | split
    | with_reducible refine w_quay ?_ ?_)

theorem execErrCmp_within (p : Rsp) (s : State) : WOut { aon := true, log := true, ev := true, sec := true, quay := true, dram := true, mem := true, tier := true, led := true, reins := true, port := true, noc := true, rings := true, mgt := true } s (execErrCmp p s) := by
  unfold execErrCmp
  repeat' (first
    | exact rfl
    | exact Or.inl rfl
    | exact Or.inr rfl
    | exact And.intro rfl (And.intro rfl rfl)
    | exact Or.inl ⟨rfl, rfl⟩
    | exact Or.inr (Or.inl ⟨rfl, rfl⟩)
    | exact Or.inr (Or.inl ⟨rfl, rfl, rfl, rfl⟩)
    | exact Or.inr (Or.inr rfl)
    | with_reducible assumption
    | with_reducible exact Within.refl _ _
    | (intro _ _ _ _)
    | (intro _ _ _)
    | (intro _ _)
    | (intro _)
    | with_reducible apply w_ite
    | with_reducible apply w_foldl
    | with_reducible apply w_foldl2
    | with_reducible apply wout_next
    | with_reducible exact wout_fault
    | with_reducible apply wout_ite
    | with_reducible apply Within.to (devResponse_within ..)
    | with_reducible apply Within.to (homeSnoopRsp_within ..)
    | with_reducible apply Within.to (takeRx_within ..))

theorem execLateAlarm_within (p : Rsp) (s : State) : WOut { log := true, ev := true, quay := true, port := true, mgt := true } s (execLateAlarm p s) := by
  unfold execLateAlarm
  repeat' (first
    | exact rfl
    | exact Or.inl rfl
    | exact Or.inr rfl
    | exact And.intro rfl (And.intro rfl rfl)
    | exact Or.inl ⟨rfl, rfl⟩
    | exact Or.inr (Or.inl ⟨rfl, rfl⟩)
    | exact Or.inr (Or.inl ⟨rfl, rfl, rfl, rfl⟩)
    | exact Or.inr (Or.inr rfl)
    | with_reducible assumption
    | with_reducible exact Within.refl _ _
    | (intro _ _ _ _)
    | (intro _ _ _)
    | (intro _ _)
    | (intro _)
    | with_reducible apply w_ite
    | with_reducible apply w_foldl
    | with_reducible apply w_foldl2
    | with_reducible apply wout_next
    | with_reducible exact wout_fault
    | with_reducible apply wout_ite
    | with_reducible apply Within.to (evAfl_within ..)
    | with_reducible apply Within.to (lateOrInvalid_within ..)
    | with_reducible apply Within.to (pktInvalid_within ..)
    | with_reducible apply Within.to (setRemote_within ..)
    | with_reducible apply Within.to (takeRx_within ..)
    | with_reducible apply w_ite_snd
    | dsimp only
    | split
    | with_reducible refine w_quay ?_ ?_)

end Sys2Proof.Laws
end

