-- ==== Sys2Proof/Laws/WDramRead.lean ====
section
/-! SUPPORT. What each operation of Machine/DramRead.lean may change. -/

namespace Sys2Proof.Laws

open Sys2Proof Sys2Proof.Machine

theorem frameLineLost_within (idx : Nat) (s : State) : Within { aon := true, quay := true, dram := true, tier := true, port := true } s (frameLineLost idx s) := by
  unfold frameLineLost
  repeat' (first
    | exact rfl
    | exact Or.inl rfl
    | exact Or.inr rfl
    | exact And.intro rfl (And.intro rfl rfl)
    | exact Or.inl ⟨rfl, rfl⟩
    | exact Or.inr (Or.inl ⟨rfl, rfl⟩)
    | exact Or.inr (Or.inl ⟨rfl, rfl, rfl, rfl⟩)
    | exact Or.inr (Or.inr rfl)
    | with_reducible assumption
    | with_reducible exact Within.refl _ _
    | (intro _ _ _ _)
    | (intro _ _ _)
    | (intro _ _)
    | (intro _)
    | with_reducible apply w_ite
    | with_reducible apply w_foldl
    | with_reducible apply w_foldl2
    | with_reducible apply Within.to (markRetired_within ..)
    | with_reducible apply Within.to (poisonPage_within ..))

theorem validLineLost_within (idx : Nat) (s : State) : Within { aon := true, quay := true, dram := true, tier := true, port := true } s (validLineLost idx s) := by
  unfold validLineLost
  repeat' (first
    | exact rfl
    | exact Or.inl rfl
    | exact Or.inr rfl
    | exact And.intro rfl (And.intro rfl rfl)
    | exact Or.inl ⟨rfl, rfl⟩
    | exact Or.inr (Or.inl ⟨rfl, rfl⟩)
    | exact Or.inr (Or.inl ⟨rfl, rfl, rfl, rfl⟩)
    | exact Or.inr (Or.inr rfl)
    | with_reducible assumption
    | with_reducible exact Within.refl _ _
    | (intro _ _ _ _)
    | (intro _ _ _)
    | (intro _ _)
    | (intro _)
    | with_reducible apply w_ite
    | with_reducible apply w_foldl
    | with_reducible apply w_foldl2
    | with_reducible apply Within.to (poisonPage_within ..))

theorem putReserved_within (code idx : Nat) (x : BitVec 512) (s : State) : Within { quay := true, dram := true, led := true, mgt := true } s (putReserved code idx x s) := by
  unfold putReserved
  repeat' (first
    | exact rfl
    | exact Or.inl rfl
    | exact Or.inr rfl
    | exact And.intro rfl (And.intro rfl rfl)
    | exact Or.inl ⟨rfl, rfl⟩
    | exact Or.inr (Or.inl ⟨rfl, rfl⟩)
    | exact Or.inr (Or.inl ⟨rfl, rfl, rfl, rfl⟩)
    | exact Or.inr (Or.inr rfl)
    | with_reducible assumption
    | with_reducible exact Within.refl _ _
    | (intro _ _ _ _)
    | (intro _ _ _)
    | (intro _ _)
    | (intro _)
    | with_reducible apply w_ite
    | with_reducible apply w_foldl
    | with_reducible apply w_foldl2
    | with_reducible apply w_ite_snd
    | with_reducible refine w_snd (by assumption) ?_
    | dsimp only
    | split
    | with_reducible refine w_quay ?_ ?_
    | with_reducible refine w_dram ?_ ?_ ?_
    | with_reducible refine w_led ?_ ?_
    | with_reducible refine w_mgt ?_ ?_)

theorem putStored_within (addr : Nat) (st : BitVec 640) (s : State) : Within { ev := true, quay := true, dram := true, mem := true, led := true, reins := true, mgt := true } s (putStored addr st s) := by
  unfold putStored
  repeat' (first
    | exact rfl
    | exact Or.inl rfl
    | exact Or.inr rfl
    | exact And.intro rfl (And.intro rfl rfl)
    | exact Or.inl ⟨rfl, rfl⟩
    | exact Or.inr (Or.inl ⟨rfl, rfl⟩)
    | exact Or.inr (Or.inl ⟨rfl, rfl, rfl, rfl⟩)
    | exact Or.inr (Or.inr rfl)
    | with_reducible assumption
    | with_reducible exact Within.refl _ _
    | (intro _ _ _ _)
    | (intro _ _ _)
    | (intro _ _)
    | (intro _)
    | with_reducible apply w_ite
    | with_reducible apply w_foldl
    | with_reducible apply w_foldl2
    | with_reducible apply Within.to (dramWrite_within ..)
    | with_reducible apply Within.to (putReserved_within ..)
    | with_reducible apply w_ite_snd
    | dsimp only
    | split
    | with_reducible refine w_dram ?_ ?_ ?_)

theorem nodeFailed_within (code : Nat) (n : Bool × Nat × Nat × Nat) (addr : Nat) (s : State) : Within { aon := true, log := true, ev := true, quay := true, dram := true, mem := true, tier := true, reins := true, port := true, mgt := true } s (nodeFailed code n addr s) := by
  unfold nodeFailed
  repeat' (first
    | exact rfl
    | exact Or.inl rfl
    | exact Or.inr rfl
    | exact And.intro rfl (And.intro rfl rfl)
    | exact Or.inl ⟨rfl, rfl⟩
    | exact Or.inr (Or.inl ⟨rfl, rfl⟩)
    | exact Or.inr (Or.inl ⟨rfl, rfl, rfl, rfl⟩)
    | exact Or.inr (Or.inr rfl)
    | with_reducible assumption
    | with_reducible exact Within.refl _ _
    | (intro _ _ _ _)
    | (intro _ _ _)
    | (intro _ _)
    | (intro _)
    | with_reducible apply w_ite
    | with_reducible apply w_foldl
    | with_reducible apply w_foldl2
    | with_reducible apply Within.to (dramWrite_within ..)
    | with_reducible apply Within.to (keyLineLost_within ..)
    | with_reducible apply Within.to (logReserved_within ..)
    | with_reducible apply Within.to (nodeLost_within ..)
    | with_reducible apply w_ite_snd
    | with_reducible refine w_snd (by assumption) ?_
    | dsimp only
    | split)

theorem structLost_within (code idx addr : Nat) (s : State) : Within { aon := true, log := true, ev := true, quay := true, dram := true, mem := true, tier := true, reins := true, port := true, mgt := true } s (structLost code idx addr s) := by
  unfold structLost
  repeat' (first
    | exact rfl
    | exact Or.inl rfl
    | exact Or.inr rfl
    | exact And.intro rfl (And.intro rfl rfl)
    | exact Or.inl ⟨rfl, rfl⟩
    | exact Or.inr (Or.inl ⟨rfl, rfl⟩)
    | exact Or.inr (Or.inl ⟨rfl, rfl, rfl, rfl⟩)
    | exact Or.inr (Or.inr rfl)
    | with_reducible assumption
    | with_reducible exact Within.refl _ _
    | (intro _ _ _ _)
    | (intro _ _ _)
    | (intro _ _)
    | (intro _)
    | with_reducible apply w_ite
    | with_reducible apply w_foldl
    | with_reducible apply w_foldl2
    | with_reducible apply Within.to (descFix_within ..)
    | with_reducible apply Within.to (dirPut_within ..)
    | with_reducible apply Within.to (frameLineLost_within ..)
    | with_reducible apply Within.to (logReserved_within ..)
    | with_reducible apply Within.to (nodeFailed_within ..)
    | with_reducible apply Within.to (validLineLost_within ..)
    | with_reducible apply w_ite_snd
    | with_reducible refine w_snd (by assumption) ?_
    | dsimp only
    | split
    | with_reducible refine w_log ?_ ?_
    | with_reducible refine w_quay ?_ ?_
    | with_reducible refine w_mgt ?_ ?_
    | with_reducible refine w_upd ?_ ?_ ?_ ?_ ?_ ?_ ?_ ?_ ?_ ?_ ?_ ?_ ?_ ?_ ?_ ?_ ?_ ?_ ?_ ?_ ?_ ?_ ?_)

theorem structRead_within (code first addr : Nat) (err : BitVec 640) (again : Bool) (s : State) : Within { aon := true, log := true, ev := true, quay := true, dram := true, mem := true, tier := true, reins := true, port := true, mgt := true } s (structRead code first addr err again s) := by
  unfold structRead
  repeat' (first
    | exact rfl
    | exact Or.inl rfl
    | exact Or.inr rfl
    | exact And.intro rfl (And.intro rfl rfl)
    | exact Or.inl ⟨rfl, rfl⟩
    | exact Or.inr (Or.inl ⟨rfl, rfl⟩)
    | exact Or.inr (Or.inl ⟨rfl, rfl, rfl, rfl⟩)
    | exact Or.inr (Or.inr rfl)
    | with_reducible assumption
    | with_reducible exact Within.refl _ _
    | (intro _ _ _ _)
    | (intro _ _ _)
    | (intro _ _)
    | (intro _)
    | with_reducible apply w_ite
    | with_reducible apply w_foldl
    | with_reducible apply w_foldl2
    | with_reducible apply Within.to (correctedAs_within ..)
    | with_reducible apply Within.to (countUncorrectable_within ..)
    | with_reducible apply Within.to (noteTransient_within ..)
    | with_reducible apply Within.to (structLost_within ..)
    | with_reducible apply w_ite_snd
    | dsimp only
    | split
    | with_reducible refine w_dram ?_ ?_ ?_)

theorem dropRead_within (addr : Nat) (again : Bool) (s : State) : Within { dram := true } s (dropRead addr again s) := by
  unfold dropRead
  repeat' (first
    | exact rfl
    | exact Or.inl rfl
    | exact Or.inr rfl
    | exact And.intro rfl (And.intro rfl rfl)
    | exact Or.inl ⟨rfl, rfl⟩
    | exact Or.inr (Or.inl ⟨rfl, rfl⟩)
    | exact Or.inr (Or.inl ⟨rfl, rfl, rfl, rfl⟩)
    | exact Or.inr (Or.inr rfl)
    | with_reducible assumption
    | with_reducible exact Within.refl _ _
    | (intro _ _ _ _)
    | (intro _ _ _)
    | (intro _ _)
    | (intro _)
    | with_reducible apply w_ite
    | with_reducible apply w_foldl
    | with_reducible apply w_foldl2
    | with_reducible apply w_ite_snd
    | dsimp only
    | split
    | with_reducible refine w_dram ?_ ?_ ?_)

theorem dropQueued_within (addr : Nat) (s : State) : Within { dram := true } s (dropQueued addr s) := by
  unfold dropQueued
  repeat' (first
    | exact rfl
    | exact Or.inl rfl
    | exact Or.inr rfl
    | exact And.intro rfl (And.intro rfl rfl)
    | exact Or.inl ⟨rfl, rfl⟩
    | exact Or.inr (Or.inl ⟨rfl, rfl⟩)
    | exact Or.inr (Or.inl ⟨rfl, rfl, rfl, rfl⟩)
    | exact Or.inr (Or.inr rfl)
    | with_reducible assumption
    | with_reducible exact Within.refl _ _
    | (intro _ _ _ _)
    | (intro _ _ _)
    | (intro _ _)
    | (intro _)
    | with_reducible apply w_ite
    | with_reducible apply w_foldl
    | with_reducible apply w_foldl2
    | with_reducible apply Within.to (modChan_within ..)
    | with_reducible apply w_ite_snd
    | dsimp only
    | split)

theorem forwardSpec_within (t : Txn) (x : BitVec 512) (good : Bool) (s : State) : Within { aon := true, log := true, ev := true, sec := true, quay := true, dram := true, mem := true, tier := true, led := true, reins := true, port := true, noc := true, mgt := true } s (forwardSpec t x good s) := by
  unfold forwardSpec
  repeat' (first
    | exact rfl
    | exact Or.inl rfl
    | exact Or.inr rfl
    | exact And.intro rfl (And.intro rfl rfl)
    | exact Or.inl ⟨rfl, rfl⟩
    | exact Or.inr (Or.inl ⟨rfl, rfl⟩)
    | exact Or.inr (Or.inl ⟨rfl, rfl, rfl, rfl⟩)
    | exact Or.inr (Or.inr rfl)
    | with_reducible assumption
    | with_reducible exact Within.refl _ _
    | (intro _ _ _ _)
    | (intro _ _ _)
    | (intro _ _)
    | (intro _)
    | with_reducible apply w_ite
    | with_reducible apply w_foldl
    | with_reducible apply w_foldl2
    | with_reducible apply Within.to (deliver_within ..)
    | with_reducible apply w_ite_snd
    | dsimp only
    | split
    | with_reducible refine w_quay ?_ ?_)

theorem rereadLine_within (addr line : Nat) (t : Option Txn) (who : Node × Tag) (s : State) : Within { ev := true, dram := true, mgt := true } s (rereadLine addr line t who s) := by
  unfold rereadLine
  repeat' (first
    | exact rfl
    | exact Or.inl rfl
    | exact Or.inr rfl
    | exact And.intro rfl (And.intro rfl rfl)
    | exact Or.inl ⟨rfl, rfl⟩
    | exact Or.inr (Or.inl ⟨rfl, rfl⟩)
    | exact Or.inr (Or.inl ⟨rfl, rfl, rfl, rfl⟩)
    | exact Or.inr (Or.inr rfl)
    | with_reducible assumption
    | with_reducible exact Within.refl _ _
    | (intro _ _ _ _)
    | (intro _ _ _)
    | (intro _ _)
    | (intro _)
    | with_reducible apply w_ite
    | with_reducible apply w_foldl
    | with_reducible apply w_foldl2
    | with_reducible apply Within.to (dramRead_within ..)
    | with_reducible apply w_ite_snd
    | dsimp only
    | split
    | with_reducible refine w_dram ?_ ?_ ?_)

theorem berthRead_within (addr line : Nat) (err : BitVec 640) (newer : Bool) (s : State) : Within { aon := true, log := true, ev := true, sec := true, quay := true, dram := true, mem := true, tier := true, led := true, reins := true, port := true, noc := true, mgt := true } s (berthRead addr line err newer s) := by
  unfold berthRead
  repeat' (first
    | exact rfl
    | exact Or.inl rfl
    | exact Or.inr rfl
    | exact And.intro rfl (And.intro rfl rfl)
    | exact Or.inl ⟨rfl, rfl⟩
    | exact Or.inr (Or.inl ⟨rfl, rfl⟩)
    | exact Or.inr (Or.inl ⟨rfl, rfl, rfl, rfl⟩)
    | exact Or.inr (Or.inr rfl)
    | with_reducible assumption
    | with_reducible exact Within.refl _ _
    | (intro _ _ _ _)
    | (intro _ _ _)
    | (intro _ _)
    | (intro _)
    | with_reducible apply w_ite
    | with_reducible apply w_foldl
    | with_reducible apply w_foldl2
    | with_reducible apply Within.to (deliver_within ..)
    | with_reducible apply Within.to (failTxn_within ..)
    | with_reducible apply Within.to (fillLine_within ..)
    | with_reducible apply Within.to (forwardSpec_within ..)
    | with_reducible apply Within.to (logKeyGone_within ..)
    | with_reducible apply Within.to (noteCheck_within ..)
    | with_reducible apply Within.to (obtain_within ..)
    | with_reducible apply Within.to (rereadLine_within ..)
    | with_reducible apply Within.to (useCtx_within ..)
    | with_reducible apply w_ite_snd
    | dsimp only
    | split)

theorem execDramReadComplete_within (addr : LineAddr) (err : BitVec 640) (s : State) : WOut { aon := true, log := true, ev := true, sec := true, quay := true, dram := true, mem := true, tier := true, led := true, reins := true, port := true, noc := true, rings := true, mgt := true } s (execDramReadComplete addr err s) := by
  unfold execDramReadComplete
  repeat' (first
    | exact rfl
    | exact Or.inl rfl
    | exact Or.inr rfl
    | exact And.intro rfl (And.intro rfl rfl)
    | exact Or.inl ⟨rfl, rfl⟩
    | exact Or.inr (Or.inl ⟨rfl, rfl⟩)
    | exact Or.inr (Or.inl ⟨rfl, rfl, rfl, rfl⟩)
    | exact Or.inr (Or.inr rfl)
    | with_reducible assumption
    | with_reducible exact Within.refl _ _
    | (intro _ _ _ _)
    | (intro _ _ _)
    | (intro _ _)
    | (intro _)
    | with_reducible apply w_ite
    | with_reducible apply w_foldl
    | with_reducible apply w_foldl2
    | with_reducible apply wout_next
    | with_reducible exact wout_fault
    | with_reducible apply wout_ite
    | with_reducible apply Within.to (berthRead_within ..)
    | with_reducible apply Within.to (dropQueued_within ..)
    | with_reducible apply Within.to (dropRead_within ..)
    | with_reducible apply Within.to (settle_within ..)
    | with_reducible apply Within.to (structRead_within ..)
    | with_reducible apply w_ite_snd
    | dsimp only
    | split)

theorem berthReread_within (addr line : Nat) (err : BitVec 640) (who : Node × Tag) (newer : Bool) (s : State) : Within { aon := true, log := true, ev := true, sec := true, quay := true, dram := true, mem := true, tier := true, led := true, reins := true, port := true, noc := true, mgt := true } s (berthReread addr line err who newer s) := by
  unfold berthReread
  repeat' (first
    | exact rfl
    | exact Or.inl rfl
    | exact Or.inr rfl
    | exact And.intro rfl (And.intro rfl rfl)
    | exact Or.inl ⟨rfl, rfl⟩
    | exact Or.inr (Or.inl ⟨rfl, rfl⟩)
    | exact Or.inr (Or.inl ⟨rfl, rfl, rfl, rfl⟩)
    | exact Or.inr (Or.inr rfl)
    | with_reducible assumption
    | with_reducible exact Within.refl _ _
    | (intro _ _ _ _)
    | (intro _ _ _)
    | (intro _ _)
    | (intro _)
    | with_reducible apply w_ite
    | with_reducible apply w_foldl
    | with_reducible apply w_foldl2
    | with_reducible apply Within.to (deliver_within ..)
    | with_reducible apply Within.to (failTxn_within ..)
    | with_reducible apply Within.to (fillLine_within ..)
    | with_reducible apply Within.to (lineUncorrectable_within ..)
    | with_reducible apply Within.to (noteCheck_within ..)
    | with_reducible apply Within.to (noteTransient_within ..)
    | with_reducible apply Within.to (obtain_within ..)
    | with_reducible apply Within.to (useCtx_within ..)
    | with_reducible apply w_ite_snd
    | dsimp only
    | split)

theorem execLineRereadComplete_within (addr : LineAddr) (err : BitVec 640) (s : State) : WOut { aon := true, log := true, ev := true, sec := true, quay := true, dram := true, mem := true, tier := true, led := true, reins := true, port := true, noc := true, rings := true, mgt := true } s (execLineRereadComplete addr err s) := by
  unfold execLineRereadComplete
  repeat' (first
    | exact rfl
    | exact Or.inl rfl
    | exact Or.inr rfl
    | exact And.intro rfl (And.intro rfl rfl)
    | exact Or.inl ⟨rfl, rfl⟩
    | exact Or.inr (Or.inl ⟨rfl, rfl⟩)
    | exact Or.inr (Or.inl ⟨rfl, rfl, rfl, rfl⟩)
    | exact Or.inr (Or.inr rfl)
    | with_reducible assumption
    | with_reducible exact Within.refl _ _
    | (intro _ _ _ _)
    | (intro _ _ _)
    | (intro _ _)
    | (intro _)
    | with_reducible apply w_ite
    | with_reducible apply w_foldl
    | with_reducible apply w_foldl2
    | with_reducible apply wout_next
    | with_reducible exact wout_fault
    | with_reducible apply wout_ite
    | with_reducible apply Within.to (berthReread_within ..)
    | with_reducible apply Within.to (dropQueued_within ..)
    | with_reducible apply Within.to (dropRead_within ..)
    | with_reducible apply Within.to (mergeNow_within ..)
    | with_reducible apply Within.to (settle_within ..)
    | with_reducible apply Within.to (structRead_within ..)
    | with_reducible apply w_ite_snd
    | dsimp only
    | split)

theorem execTagTestComplete_within (node : Node) (tag : Tag) (s : State) : WOut { aon := true, log := true, ev := true, sec := true, quay := true, dram := true, mem := true, tier := true, led := true, reins := true, port := true, noc := true, mgt := true } s (execTagTestComplete node tag s) := by
  unfold execTagTestComplete
  repeat' (first
    | exact rfl
    | exact Or.inl rfl
    | exact Or.inr rfl
    | exact And.intro rfl (And.intro rfl rfl)
    | exact Or.inl ⟨rfl, rfl⟩
    | exact Or.inr (Or.inl ⟨rfl, rfl⟩)
    | exact Or.inr (Or.inl ⟨rfl, rfl, rfl, rfl⟩)
    | exact Or.inr (Or.inr rfl)
    | with_reducible assumption
    | with_reducible exact Within.refl _ _
    | (intro _ _ _ _)
    | (intro _ _ _)
    | (intro _ _)
    | (intro _)
    | with_reducible apply w_ite
    | with_reducible apply w_foldl
    | with_reducible apply w_foldl2
    | with_reducible apply wout_next
    | with_reducible exact wout_fault
    | with_reducible apply wout_ite
    | with_reducible apply Within.to (fillLine_within ..)
    | with_reducible apply Within.to (setDir_within ..)
    | with_reducible apply w_ite_snd
    | dsimp only
    | split
    | with_reducible refine w_quay ?_ ?_)

theorem execVerdictArrival_within (port : Nat) (node : Node) (tag : Tag) (s : State) : WOut { ev := true, quay := true, port := true, mgt := true } s (execVerdictArrival port node tag s) := by
  unfold execVerdictArrival
  repeat' (first
    | exact rfl
    | exact Or.inl rfl
    | exact Or.inr rfl
    | exact And.intro rfl (And.intro rfl rfl)
    | exact Or.inl ⟨rfl, rfl⟩
    | exact Or.inr (Or.inl ⟨rfl, rfl⟩)
    | exact Or.inr (Or.inl ⟨rfl, rfl, rfl, rfl⟩)
    | exact Or.inr (Or.inr rfl)
    | with_reducible assumption
    | with_reducible exact Within.refl _ _
    | (intro _ _ _ _)
    | (intro _ _ _)
    | (intro _ _)
    | (intro _)
    | with_reducible apply w_ite
    | with_reducible apply w_foldl
    | with_reducible apply w_foldl2
    | with_reducible apply wout_next
    | with_reducible exact wout_fault
    | with_reducible apply wout_ite
    | with_reducible apply Within.to (evAfl_within ..)
    | with_reducible apply Within.to (modPort_within ..)
    | with_reducible apply w_ite_snd
    | dsimp only
    | split
    | with_reducible refine w_quay ?_ ?_)

theorem placeCtx_within (c : KeyCtx) (s : State) : Within { quay := true } s (placeCtx c s) := by
  unfold placeCtx
  repeat' (first
    | exact rfl
    | exact Or.inl rfl
    | exact Or.inr rfl
    | exact And.intro rfl (And.intro rfl rfl)
    | exact Or.inl ⟨rfl, rfl⟩
    | exact Or.inr (Or.inl ⟨rfl, rfl⟩)
    | exact Or.inr (Or.inl ⟨rfl, rfl, rfl, rfl⟩)
    | exact Or.inr (Or.inr rfl)
    | with_reducible assumption
    | with_reducible exact Within.refl _ _
    | (intro _ _ _ _)
    | (intro _ _ _)
    | (intro _ _)
    | (intro _)
    | with_reducible apply w_ite
    | with_reducible apply w_foldl
    | with_reducible apply w_foldl2
    | with_reducible apply w_ite_snd
    | dsimp only
    | split
    | with_reducible refine w_quay ?_ ?_)

theorem execKeyContextFill_within (keyId : BitVec 20) (s : State) : WOut { log := true, ev := true, quay := true, mgt := true } s (execKeyContextFill keyId s) := by
  unfold execKeyContextFill
  repeat' (first
    | exact rfl
    | exact Or.inl rfl
    | exact Or.inr rfl
    | exact And.intro rfl (And.intro rfl rfl)
    | exact Or.inl ⟨rfl, rfl⟩
    | exact Or.inr (Or.inl ⟨rfl, rfl⟩)
    | exact Or.inr (Or.inl ⟨rfl, rfl, rfl, rfl⟩)
    | exact Or.inr (Or.inr rfl)
    | with_reducible assumption
    | with_reducible exact Within.refl _ _
    | (intro _ _ _ _)
    | (intro _ _ _)
    | (intro _ _)
    | (intro _)
    | with_reducible apply w_ite
    | with_reducible apply w_foldl
    | with_reducible apply w_foldl2
    | with_reducible apply wout_next
    | with_reducible exact wout_fault
    | with_reducible apply wout_ite
    | with_reducible apply Within.to (logIt_within ..)
    | with_reducible apply Within.to (placeCtx_within ..)
    | with_reducible apply w_ite_snd
    | dsimp only
    | split)

theorem endDecode_within (g : Nat) (s : State) : Within { dram := true, tier := true } s (endDecode g s) := by
  unfold endDecode
  repeat' (first
    | exact rfl
    | exact Or.inl rfl
    | exact Or.inr rfl
    | exact And.intro rfl (And.intro rfl rfl)
    | exact Or.inl ⟨rfl, rfl⟩
    | exact Or.inr (Or.inl ⟨rfl, rfl⟩)
    | exact Or.inr (Or.inl ⟨rfl, rfl, rfl, rfl⟩)
    | exact Or.inr (Or.inr rfl)
    | with_reducible assumption
    | with_reducible exact Within.refl _ _
    | (intro _ _ _ _)
    | (intro _ _ _)
    | (intro _ _)
    | (intro _)
    | with_reducible apply w_ite
    | with_reducible apply w_foldl
    | with_reducible apply w_foldl2
    | with_reducible apply Within.to (freeRun_within ..)
    | with_reducible apply w_ite_snd
    | with_reducible refine w_snd (by assumption) ?_
    | dsimp only
    | split
    | with_reducible refine w_tier ?_ ?_)

theorem decodeReads_within (page i g : Nat) (cls : BitVec 8) (s : State) : Within { log := true, ev := true, dram := true, mem := true, tier := true, reins := true, mgt := true } s (decodeReads page i g cls s) := by
  unfold decodeReads
  repeat' (first
    | exact rfl
    | exact Or.inl rfl
    | exact Or.inr rfl
    | exact And.intro rfl (And.intro rfl rfl)
    | exact Or.inl ⟨rfl, rfl⟩
    | exact Or.inr (Or.inl ⟨rfl, rfl⟩)
    | exact Or.inr (Or.inl ⟨rfl, rfl, rfl, rfl⟩)
    | exact Or.inr (Or.inr rfl)
    | with_reducible assumption
    | with_reducible exact Within.refl _ _
    | (intro _ _ _ _)
    | (intro _ _ _)
    | (intro _ _)
    | (intro _)
    | with_reducible apply w_ite
    | with_reducible apply w_foldl
    | with_reducible apply w_foldl2
    | with_reducible apply Within.to (dropQueued_within ..)
    | with_reducible apply Within.to (noteCheck_within ..)
    | with_reducible apply Within.to (readGranules_within ..)
    | with_reducible apply Within.to (useCtx_within ..)
    | with_reducible apply w_ite_snd
    | dsimp only
    | split)

theorem badGranule_within (t : Txn) (page addr : Nat) (s : State) : Within { aon := true, log := true, ev := true, quay := true, dram := true, tier := true, led := true, port := true, mgt := true } s (badGranule t page addr s) := by
  unfold badGranule
  repeat' (first
    | exact rfl
    | exact Or.inl rfl
    | exact Or.inr rfl
    | exact And.intro rfl (And.intro rfl rfl)
    | exact Or.inl ⟨rfl, rfl⟩
    | exact Or.inr (Or.inl ⟨rfl, rfl⟩)
    | exact Or.inr (Or.inl ⟨rfl, rfl, rfl, rfl⟩)
    | exact Or.inr (Or.inr rfl)
    | with_reducible assumption
    | with_reducible exact Within.refl _ _
    | (intro _ _ _ _)
    | (intro _ _ _)
    | (intro _ _)
    | (intro _)
    | with_reducible apply w_ite
    | with_reducible apply w_foldl
    | with_reducible apply w_foldl2
    | with_reducible apply Within.to (baleFail_within ..)
    | with_reducible apply Within.to (endDecode_within ..)
    | with_reducible apply Within.to (granuleLost_within ..)
    | with_reducible apply Within.to (putTxn_within ..)
    | with_reducible apply Within.to (tileLine_within ..))

theorem execWarmLineDecode_within (line : Line) (bad : Option Nat) (s : State) : WOut { aon := true, log := true, ev := true, sec := true, quay := true, dram := true, mem := true, tier := true, led := true, reins := true, port := true, noc := true, rings := true, mgt := true } s (execWarmLineDecode line bad s) := by
  unfold execWarmLineDecode
  repeat' (first
    | exact rfl
    | exact Or.inl rfl
    | exact Or.inr rfl
    | exact And.intro rfl (And.intro rfl rfl)
    | exact Or.inl ⟨rfl, rfl⟩
    | exact Or.inr (Or.inl ⟨rfl, rfl⟩)
    | exact Or.inr (Or.inl ⟨rfl, rfl, rfl, rfl⟩)
    | exact Or.inr (Or.inr rfl)
    | with_reducible assumption
    | with_reducible exact Within.refl _ _
    | (intro _ _ _ _)
    | (intro _ _ _)
    | (intro _ _)
    | (intro _)
    | with_reducible apply w_ite
    | with_reducible apply w_foldl
    | with_reducible apply w_foldl2
    | with_reducible apply wout_next
    | with_reducible exact wout_fault
    | with_reducible apply wout_ite
    | with_reducible apply Within.to (badGranule_within ..)
    | with_reducible apply Within.to (decodeReads_within ..)
    | with_reducible apply Within.to (deliver_within ..)
    | with_reducible apply Within.to (endDecode_within ..)
    | with_reducible apply Within.to (failTxn_within ..)
    | with_reducible apply Within.to (logKeyGone_within ..)
    | with_reducible apply Within.to (noteTransient_within ..)
    | with_reducible apply Within.to (putTxn_within ..)
    | with_reducible apply Within.to (runFail_within ..)
    | with_reducible apply Within.to (settle_within ..)
    | with_reducible apply Within.to (tileLine_within ..)
    | with_reducible apply w_ite_snd
    | dsimp only
    | split)

end Sys2Proof.Laws
end

