-- ==== Sys2Proof/Laws/WLedger.lean ====
section
/-! SUPPORT. What each operation of Machine/Ledger.lean may change. -/

namespace Sys2Proof.Laws

open Sys2Proof Sys2Proof.Machine

theorem peEv_within (s : State) (ssd e n : Nat) (t : State) : Within { ev := true, mgt := true } t (peEv s ssd e n t) := by
  unfold peEv
  repeat' (first
    | exact rfl
    | exact Or.inl rfl
    | exact Or.inr rfl
    | exact And.intro rfl (And.intro rfl rfl)
    | exact Or.inl ⟨rfl, rfl⟩
    | exact Or.inr (Or.inl ⟨rfl, rfl⟩)
    | exact Or.inr (Or.inl ⟨rfl, rfl, rfl, rfl⟩)
    | exact Or.inr (Or.inr rfl)
    | with_reducible assumption
    | with_reducible exact Within.refl _ _
    | (intro _ _ _ _)
    | (intro _ _ _)
    | (intro _ _)
    | (intro _)
    | with_reducible apply w_ite
    | with_reducible apply w_foldl
    | with_reducible apply w_foldl2
    | with_reducible apply Within.to (evAdd_within ..))

theorem nvmeWrite_within (ssd n : Nat) (cls : BitVec 8) (s : State) : Within { ev := true, reins := true, mgt := true } s (nvmeWrite ssd n cls s) := by
  unfold nvmeWrite
  repeat' (first
    | exact rfl
    | exact Or.inl rfl
    | exact Or.inr rfl
    | exact And.intro rfl (And.intro rfl rfl)
    | exact Or.inl ⟨rfl, rfl⟩
    | exact Or.inr (Or.inl ⟨rfl, rfl⟩)
    | exact Or.inr (Or.inl ⟨rfl, rfl, rfl, rfl⟩)
    | exact Or.inr (Or.inr rfl)
    | with_reducible assumption
    | with_reducible exact Within.refl _ _
    | (intro _ _ _ _)
    | (intro _ _ _)
    | (intro _ _)
    | (intro _)
    | with_reducible apply w_ite
    | with_reducible apply w_foldl
    | with_reducible apply w_foldl2
    | with_reducible apply Within.to (countXfer_within ..)
    | with_reducible apply Within.to (peEv_within ..))

theorem writeKeyCopy_within (block copy : Nat) (s : State) : Within { ev := true, led := true, reins := true, mgt := true } s (writeKeyCopy block copy s) := by
  unfold writeKeyCopy
  repeat' (first
    | exact rfl
    | exact Or.inl rfl
    | exact Or.inr rfl
    | exact And.intro rfl (And.intro rfl rfl)
    | exact Or.inl ⟨rfl, rfl⟩
    | exact Or.inr (Or.inl ⟨rfl, rfl⟩)
    | exact Or.inr (Or.inl ⟨rfl, rfl, rfl, rfl⟩)
    | exact Or.inr (Or.inr rfl)
    | with_reducible assumption
    | with_reducible exact Within.refl _ _
    | (intro _ _ _ _)
    | (intro _ _ _)
    | (intro _ _)
    | (intro _)
    | with_reducible apply w_ite
    | with_reducible apply w_foldl
    | with_reducible apply w_foldl2
    | with_reducible apply Within.to (nvmeWrite_within ..)
    | with_reducible apply w_ite_snd
    | with_reducible refine w_snd (by assumption) ?_
    | dsimp only
    | split
    | with_reducible refine w_led ?_ ?_)

theorem flushKeyBlock_within (k : BitVec 20) (s : State) : Within { ev := true, led := true, reins := true, mgt := true } s (flushKeyBlock k s) := by
  unfold flushKeyBlock
  repeat' (first
    | exact rfl
    | exact Or.inl rfl
    | exact Or.inr rfl
    | exact And.intro rfl (And.intro rfl rfl)
    | exact Or.inl ⟨rfl, rfl⟩
    | exact Or.inr (Or.inl ⟨rfl, rfl⟩)
    | exact Or.inr (Or.inl ⟨rfl, rfl, rfl, rfl⟩)
    | exact Or.inr (Or.inr rfl)
    | with_reducible assumption
    | with_reducible exact Within.refl _ _
    | (intro _ _ _ _)
    | (intro _ _ _)
    | (intro _ _)
    | (intro _)
    | with_reducible apply w_ite
    | with_reducible apply w_foldl
    | with_reducible apply w_foldl2
    | with_reducible apply Within.to (writeKeyCopy_within ..))

theorem putMapBlock_within (block : Nat) (s : State) : Within { ev := true, led := true, reins := true, mgt := true } s (putMapBlock block s) := by
  unfold putMapBlock
  repeat' (first
    | exact rfl
    | exact Or.inl rfl
    | exact Or.inr rfl
    | exact And.intro rfl (And.intro rfl rfl)
    | exact Or.inl ⟨rfl, rfl⟩
    | exact Or.inr (Or.inl ⟨rfl, rfl⟩)
    | exact Or.inr (Or.inl ⟨rfl, rfl, rfl, rfl⟩)
    | exact Or.inr (Or.inr rfl)
    | with_reducible assumption
    | with_reducible exact Within.refl _ _
    | (intro _ _ _ _)
    | (intro _ _ _)
    | (intro _ _)
    | (intro _)
    | with_reducible apply w_ite
    | with_reducible apply w_foldl
    | with_reducible apply w_foldl2
    | with_reducible apply Within.to (nvmeWrite_within ..)
    | with_reducible apply w_ite_snd
    | with_reducible refine w_snd (by assumption) ?_
    | dsimp only
    | split
    | with_reducible refine w_led ?_ ?_)

theorem ringRoom_within (ssd : Nat) (s : State) : Within { ev := true, led := true, reins := true, mgt := true } s (ringRoom ssd s) := by
  unfold ringRoom
  repeat' (first
    | exact rfl
    | exact Or.inl rfl
    | exact Or.inr rfl
    | exact And.intro rfl (And.intro rfl rfl)
    | exact Or.inl ⟨rfl, rfl⟩
    | exact Or.inr (Or.inl ⟨rfl, rfl⟩)
    | exact Or.inr (Or.inl ⟨rfl, rfl, rfl, rfl⟩)
    | exact Or.inr (Or.inr rfl)
    | with_reducible assumption
    | with_reducible exact Within.refl _ _
    | (intro _ _ _ _)
    | (intro _ _ _)
    | (intro _ _)
    | (intro _)
    | with_reducible apply w_ite
    | with_reducible apply w_foldl
    | with_reducible apply w_foldl2
    | with_reducible apply Within.to (putMapBlock_within ..)
    | with_reducible apply w_ite_snd
    | with_reducible refine w_snd (by assumption) ?_
    | dsimp only
    | split
    | with_reducible refine w_led ?_ ?_)

theorem addRecord_within (ssd : Nat) (ty : BitVec 8) (body : BitVec 512) (s : State) : Within { ev := true, led := true, reins := true, mgt := true } s (addRecord ssd ty body s) := by
  unfold addRecord
  repeat' (first
    | exact rfl
    | exact Or.inl rfl
    | exact Or.inr rfl
    | exact And.intro rfl (And.intro rfl rfl)
    | exact Or.inl ⟨rfl, rfl⟩
    | exact Or.inr (Or.inl ⟨rfl, rfl⟩)
    | exact Or.inr (Or.inl ⟨rfl, rfl, rfl, rfl⟩)
    | exact Or.inr (Or.inr rfl)
    | with_reducible assumption
    | with_reducible exact Within.refl _ _
    | (intro _ _ _ _)
    | (intro _ _ _)
    | (intro _ _)
    | (intro _)
    | with_reducible apply w_ite
    | with_reducible apply w_foldl
    | with_reducible apply w_foldl2
    | with_reducible apply Within.to (ringRoom_within ..)
    | with_reducible apply w_ite_snd
    | dsimp only
    | split
    | with_reducible refine w_led ?_ ?_)

theorem addRec_within (ty : BitVec 8) (body : BitVec 512) (s : State) : Within { ev := true, led := true, reins := true, mgt := true } s (addRec ty body s) := by
  unfold addRec
  repeat' (first
    | exact rfl
    | exact Or.inl rfl
    | exact Or.inr rfl
    | exact And.intro rfl (And.intro rfl rfl)
    | exact Or.inl ⟨rfl, rfl⟩
    | exact Or.inr (Or.inl ⟨rfl, rfl⟩)
    | exact Or.inr (Or.inl ⟨rfl, rfl, rfl, rfl⟩)
    | exact Or.inr (Or.inr rfl)
    | with_reducible assumption
    | with_reducible exact Within.refl _ _
    | (intro _ _ _ _)
    | (intro _ _ _)
    | (intro _ _)
    | (intro _)
    | with_reducible apply w_ite
    | with_reducible apply w_foldl
    | with_reducible apply w_foldl2
    | with_reducible apply Within.to (addRecord_within ..)
    | with_reducible apply w_ite_snd
    | dsimp only
    | split)

theorem faultFail_within (page : Nat) (s : State) : Within { aon := true, log := true, ev := true, quay := true, dram := true, tier := true, port := true, mgt := true } s (faultFail page s) := by
  unfold faultFail
  repeat' (first
    | exact rfl
    | exact Or.inl rfl
    | exact Or.inr rfl
    | exact And.intro rfl (And.intro rfl rfl)
    | exact Or.inl ⟨rfl, rfl⟩
    | exact Or.inr (Or.inl ⟨rfl, rfl⟩)
    | exact Or.inr (Or.inl ⟨rfl, rfl, rfl, rfl⟩)
    | exact Or.inr (Or.inr rfl)
    | with_reducible assumption
    | with_reducible exact Within.refl _ _
    | (intro _ _ _ _)
    | (intro _ _ _)
    | (intro _ _)
    | (intro _)
    | with_reducible apply w_ite
    | with_reducible apply w_foldl
    | with_reducible apply w_foldl2
    | with_reducible apply Within.to (endOp_within ..)
    | with_reducible apply Within.to (logIt_within ..)
    | with_reducible apply Within.to (logMergePoisoned_within ..)
    | with_reducible apply Within.to (poisonNow_within ..)
    | with_reducible apply Within.to (setQline_within ..)
    | with_reducible apply w_ite_snd
    | with_reducible refine w_snd (by assumption) ?_
    | dsimp only
    | split
    | with_reducible refine w_quay ?_ ?_)

theorem storedLines_within (page : Nat) (s : State) : Within { aon := true, log := true, ev := true, sec := true, quay := true, dram := true, mem := true, tier := true, led := true, reins := true, port := true, mgt := true } s (storedLines page s).2 := by
  unfold storedLines
  repeat' (first
    | exact rfl
    | exact Or.inl rfl
    | exact Or.inr rfl
    | exact And.intro rfl (And.intro rfl rfl)
    | exact Or.inl ⟨rfl, rfl⟩
    | exact Or.inr (Or.inl ⟨rfl, rfl⟩)
    | exact Or.inr (Or.inl ⟨rfl, rfl, rfl, rfl⟩)
    | exact Or.inr (Or.inr rfl)
    | with_reducible assumption
    | with_reducible exact Within.refl _ _
    | (intro _ _ _ _)
    | (intro _ _ _)
    | (intro _ _)
    | (intro _)
    | with_reducible apply w_ite
    | with_reducible apply w_foldl
    | with_reducible apply w_foldl2
    | with_reducible apply Within.to (faultFail_within ..)
    | with_reducible apply Within.to (lineUncorrectable_within ..)
    | with_reducible apply Within.to (runFail_within ..)
    | with_reducible apply w_ite_snd
    | with_reducible refine w_snd (by assumption) ?_
    | dsimp only
    | split)

theorem pageContent_within (page : Nat) (s : State) : Within { aon := true, log := true, ev := true, sec := true, quay := true, dram := true, mem := true, tier := true, led := true, reins := true, port := true, mgt := true } s (pageContent page s).2 := by
  unfold pageContent
  repeat' (first
    | exact rfl
    | exact Or.inl rfl
    | exact Or.inr rfl
    | exact And.intro rfl (And.intro rfl rfl)
    | exact Or.inl ⟨rfl, rfl⟩
    | exact Or.inr (Or.inl ⟨rfl, rfl⟩)
    | exact Or.inr (Or.inl ⟨rfl, rfl, rfl, rfl⟩)
    | exact Or.inr (Or.inr rfl)
    | with_reducible assumption
    | with_reducible exact Within.refl _ _
    | (intro _ _ _ _)
    | (intro _ _ _)
    | (intro _ _)
    | (intro _)
    | with_reducible apply w_ite
    | with_reducible apply w_foldl
    | with_reducible apply w_foldl2
    | with_reducible apply Within.to (storedLines_within ..))

theorem addLive_within (a n : Nat) (up : Bool) (s : State) : Within { led := true } s (addLive a n up s) := by
  unfold addLive
  repeat' (first
    | exact rfl
    | exact Or.inl rfl
    | exact Or.inr rfl
    | exact And.intro rfl (And.intro rfl rfl)
    | exact Or.inl ⟨rfl, rfl⟩
    | exact Or.inr (Or.inl ⟨rfl, rfl⟩)
    | exact Or.inr (Or.inl ⟨rfl, rfl, rfl, rfl⟩)
    | exact Or.inr (Or.inr rfl)
    | with_reducible assumption
    | with_reducible exact Within.refl _ _
    | (intro _ _ _ _)
    | (intro _ _ _)
    | (intro _ _)
    | (intro _)
    | with_reducible apply w_ite
    | with_reducible apply w_foldl
    | with_reducible apply w_foldl2
    | with_reducible apply w_ite_snd
    | dsimp only
    | split
    | with_reducible refine w_led ?_ ?_)

theorem deallocate_within (ssd start : Nat) (s : State) : Within { led := true } s (deallocate ssd start s) := by
  unfold deallocate
  repeat' (first
    | exact rfl
    | exact Or.inl rfl
    | exact Or.inr rfl
    | exact And.intro rfl (And.intro rfl rfl)
    | exact Or.inl ⟨rfl, rfl⟩
    | exact Or.inr (Or.inl ⟨rfl, rfl⟩)
    | exact Or.inr (Or.inl ⟨rfl, rfl, rfl, rfl⟩)
    | exact Or.inr (Or.inr rfl)
    | with_reducible assumption
    | with_reducible exact Within.refl _ _
    | (intro _ _ _ _)
    | (intro _ _ _)
    | (intro _ _)
    | (intro _)
    | with_reducible apply w_ite
    | with_reducible apply w_foldl
    | with_reducible apply w_foldl2
    | with_reducible apply w_ite_snd
    | dsimp only
    | split
    | with_reducible refine w_led ?_ ?_)

theorem openLedgerSegment_within (s : State) : WO2 { ev := true, led := true, mgt := true } s (openLedgerSegment s) := by
  unfold openLedgerSegment
  repeat' (first
    | exact rfl
    | exact Or.inl rfl
    | exact Or.inr rfl
    | exact And.intro rfl (And.intro rfl rfl)
    | exact Or.inl ⟨rfl, rfl⟩
    | exact Or.inr (Or.inl ⟨rfl, rfl⟩)
    | exact Or.inr (Or.inl ⟨rfl, rfl, rfl, rfl⟩)
    | exact Or.inr (Or.inr rfl)
    | with_reducible assumption
    | with_reducible exact Within.refl _ _
    | (intro _ _ _ _)
    | (intro _ _ _)
    | (intro _ _)
    | (intro _)
    | with_reducible apply w_ite
    | with_reducible apply w_foldl
    | with_reducible apply w_foldl2
    | with_reducible exact wo_none
    | with_reducible exact wo2_none
    | with_reducible refine wo2_eq (by assumption) ?_
    | with_reducible refine wo_eq (by assumption) ?_
    | with_reducible refine wo2_map ?_ ?_
    | with_reducible refine wo2_mapAny ?_
    | with_reducible refine wo_map2 ?_ ?_
    | with_reducible refine wo_mapS ?_ ?_
    | with_reducible refine wo_map ?_
    | with_reducible apply wo_findSome
    | (intro _)
    | with_reducible apply wo_some
    | with_reducible apply wo2_some
    | with_reducible apply wo_ite
    | with_reducible apply wo2_ite
    | with_reducible apply Within.to (deallocate_within ..)
    | with_reducible apply Within.to (peEv_within ..)
    | with_reducible apply w_ite_snd
    | dsimp only
    | split
    | with_reducible refine w_led ?_ ?_)

theorem segmentFor_within (page n : Nat) (s : State) : WO2 { ev := true, led := true, mgt := true } s (segmentFor page n s) := by
  unfold segmentFor
  repeat' (first
    | exact rfl
    | exact Or.inl rfl
    | exact Or.inr rfl
    | exact And.intro rfl (And.intro rfl rfl)
    | exact Or.inl ⟨rfl, rfl⟩
    | exact Or.inr (Or.inl ⟨rfl, rfl⟩)
    | exact Or.inr (Or.inl ⟨rfl, rfl, rfl, rfl⟩)
    | exact Or.inr (Or.inr rfl)
    | with_reducible assumption
    | with_reducible exact Within.refl _ _
    | (intro _ _ _ _)
    | (intro _ _ _)
    | (intro _ _)
    | (intro _)
    | with_reducible apply w_ite
    | with_reducible apply w_foldl
    | with_reducible apply w_foldl2
    | with_reducible exact wo_none
    | with_reducible exact wo2_none
    | with_reducible refine wo2_eq (by assumption) ?_
    | with_reducible refine wo_eq (by assumption) ?_
    | with_reducible refine wo2_map ?_ ?_
    | with_reducible refine wo2_mapAny ?_
    | with_reducible refine wo_map2 ?_ ?_
    | with_reducible refine wo_mapS ?_ ?_
    | with_reducible refine wo_map ?_
    | with_reducible apply wo_findSome
    | (intro _)
    | with_reducible apply wo_some
    | with_reducible apply wo2_some
    | with_reducible apply wo_ite
    | with_reducible apply wo2_ite
    | with_reducible apply wo2_to (openLedgerSegment_within ..)
    | with_reducible apply w_ite_snd
    | with_reducible refine w_of_some2 (by assumption) ?_
    | dsimp only
    | split)

theorem appendImage_within (seq page : Nat) (isSealed : Bool) (key : BitVec 20) (img : Option (List Nat × List (BitVec 512))) (clean pin : Bool) (s : State) : Within { led := true } s (appendImage seq page isSealed key img clean pin s) := by
  unfold appendImage
  repeat' (first
    | exact rfl
    | exact Or.inl rfl
    | exact Or.inr rfl
    | exact And.intro rfl (And.intro rfl rfl)
    | exact Or.inl ⟨rfl, rfl⟩
    | exact Or.inr (Or.inl ⟨rfl, rfl⟩)
    | exact Or.inr (Or.inl ⟨rfl, rfl, rfl, rfl⟩)
    | exact Or.inr (Or.inr rfl)
    | with_reducible assumption
    | with_reducible exact Within.refl _ _
    | (intro _ _ _ _)
    | (intro _ _ _)
    | (intro _ _)
    | (intro _)
    | with_reducible apply w_ite
    | with_reducible apply w_foldl
    | with_reducible apply w_foldl2
    | with_reducible apply w_ite_snd
    | with_reducible refine w_snd (by assumption) ?_
    | dsimp only
    | split
    | with_reducible refine w_led ?_ ?_)

theorem packTile_within (cls : BitVec 8) (page : Nat) (s : State) : WO2 { ev := true, tier := true, reins := true, noc := true, mgt := true } s (packTile cls page s) := by
  unfold packTile
  repeat' (first
    | exact rfl
    | exact Or.inl rfl
    | exact Or.inr rfl
    | exact And.intro rfl (And.intro rfl rfl)
    | exact Or.inl ⟨rfl, rfl⟩
    | exact Or.inr (Or.inl ⟨rfl, rfl⟩)
    | exact Or.inr (Or.inl ⟨rfl, rfl, rfl, rfl⟩)
    | exact Or.inr (Or.inr rfl)
    | with_reducible assumption
    | with_reducible exact Within.refl _ _
    | (intro _ _ _ _)
    | (intro _ _ _)
    | (intro _ _)
    | (intro _)
    | with_reducible apply w_ite
    | with_reducible apply w_foldl
    | with_reducible apply w_foldl2
    | with_reducible exact wo_none
    | with_reducible exact wo2_none
    | with_reducible refine wo2_eq (by assumption) ?_
    | with_reducible refine wo_eq (by assumption) ?_
    | with_reducible refine wo2_map ?_ ?_
    | with_reducible refine wo2_mapAny ?_
    | with_reducible refine wo_map2 ?_ ?_
    | with_reducible refine wo_mapS ?_ ?_
    | with_reducible refine wo_map ?_
    | with_reducible apply wo_findSome
    | (intro _)
    | with_reducible apply wo_some
    | with_reducible apply wo2_some
    | with_reducible apply wo_ite
    | with_reducible apply wo2_ite
    | with_reducible apply Within.to (countUse_within ..)
    | with_reducible apply wo2_to (placeTile_within ..))

theorem snapImage_within (page : Nat) (s : State) : WO2 { aon := true, log := true, ev := true, sec := true, quay := true, dram := true, mem := true, tier := true, led := true, reins := true, port := true, noc := true, mgt := true } s (snapImage page s) := by
  unfold snapImage
  repeat' (first
    | exact rfl
    | exact Or.inl rfl
    | exact Or.inr rfl
    | exact And.intro rfl (And.intro rfl rfl)
    | exact Or.inl ⟨rfl, rfl⟩
    | exact Or.inr (Or.inl ⟨rfl, rfl⟩)
    | exact Or.inr (Or.inl ⟨rfl, rfl, rfl, rfl⟩)
    | exact Or.inr (Or.inr rfl)
    | with_reducible assumption
    | with_reducible exact Within.refl _ _
    | (intro _ _ _ _)
    | (intro _ _ _)
    | (intro _ _)
    | (intro _)
    | with_reducible apply w_ite
    | with_reducible apply w_foldl
    | with_reducible apply w_foldl2
    | with_reducible exact wo_none
    | with_reducible exact wo2_none
    | with_reducible refine wo2_eq (by assumption) ?_
    | with_reducible refine wo_eq (by assumption) ?_
    | with_reducible refine wo2_map ?_ ?_
    | with_reducible refine wo2_mapAny ?_
    | with_reducible refine wo_map2 ?_ ?_
    | with_reducible refine wo_mapS ?_ ?_
    | with_reducible refine wo_map ?_
    | with_reducible apply wo_findSome
    | (intro _)
    | with_reducible apply wo_some
    | with_reducible apply wo2_some
    | with_reducible apply wo_ite
    | with_reducible apply wo2_ite
    | with_reducible apply wo2_to (packTile_within ..)
    | with_reducible apply Within.to (pageContent_within ..)
    | with_reducible apply Within.to (readGranules_within ..)
    | with_reducible apply Within.to (readPage_within ..)
    | with_reducible apply Within.to (tileUnits_within ..)
    | with_reducible apply w_ite_snd
    | with_reducible refine w_snd (by assumption) ?_
    | with_reducible refine w_of_some2 (by assumption) ?_
    | dsimp only
    | split)

theorem packPage_within (page : Nat) (s : State) : WO { aon := true, log := true, ev := true, sec := true, quay := true, dram := true, mem := true, tier := true, led := true, reins := true, port := true, noc := true, mgt := true } s (packPage page s) := by
  unfold packPage
  repeat' (first
    | exact rfl
    | exact Or.inl rfl
    | exact Or.inr rfl
    | exact And.intro rfl (And.intro rfl rfl)
    | exact Or.inl ⟨rfl, rfl⟩
    | exact Or.inr (Or.inl ⟨rfl, rfl⟩)
    | exact Or.inr (Or.inl ⟨rfl, rfl, rfl, rfl⟩)
    | exact Or.inr (Or.inr rfl)
    | with_reducible assumption
    | with_reducible exact Within.refl _ _
    | (intro _ _ _ _)
    | (intro _ _ _)
    | (intro _ _)
    | (intro _)
    | with_reducible apply w_ite
    | with_reducible apply w_foldl
    | with_reducible apply w_foldl2
    | with_reducible exact wo_none
    | with_reducible exact wo2_none
    | with_reducible refine wo2_eq (by assumption) ?_
    | with_reducible refine wo_eq (by assumption) ?_
    | with_reducible refine wo2_map ?_ ?_
    | with_reducible refine wo2_mapAny ?_
    | with_reducible refine wo_map2 ?_ ?_
    | with_reducible refine wo_mapS ?_ ?_
    | with_reducible refine wo_map ?_
    | with_reducible apply wo_findSome
    | (intro _)
    | with_reducible apply wo_some
    | with_reducible apply wo2_some
    | with_reducible apply wo_ite
    | with_reducible apply wo2_ite
    | with_reducible apply Within.to (appendImage_within ..)
    | with_reducible apply wo2_to (segmentFor_within ..)
    | with_reducible apply wo2_to (snapImage_within ..)
    | with_reducible apply w_ite_snd
    | with_reducible refine w_of_some2 (by assumption) ?_
    | dsimp only
    | split)

theorem packQueued_within (s : State) : Within { aon := true, log := true, ev := true, sec := true, quay := true, dram := true, mem := true, tier := true, led := true, reins := true, port := true, noc := true, mgt := true } s (packQueued s) := by
  unfold packQueued
  repeat' (first
    | exact rfl
    | exact Or.inl rfl
    | exact Or.inr rfl
    | exact And.intro rfl (And.intro rfl rfl)
    | exact Or.inl ⟨rfl, rfl⟩
    | exact Or.inr (Or.inl ⟨rfl, rfl⟩)
    | exact Or.inr (Or.inl ⟨rfl, rfl, rfl, rfl⟩)
    | exact Or.inr (Or.inr rfl)
    | with_reducible assumption
    | with_reducible exact Within.refl _ _
    | (intro _ _ _ _)
    | (intro _ _ _)
    | (intro _ _)
    | (intro _)
    | with_reducible apply w_ite
    | with_reducible apply w_foldl
    | with_reducible apply w_foldl2
    | with_reducible exact wo_none
    | with_reducible exact wo2_none
    | with_reducible refine wo2_eq (by assumption) ?_
    | with_reducible refine wo_eq (by assumption) ?_
    | with_reducible refine wo2_map ?_ ?_
    | with_reducible refine wo2_mapAny ?_
    | with_reducible refine wo_map2 ?_ ?_
    | with_reducible refine wo_mapS ?_ ?_
    | with_reducible refine wo_map ?_
    | with_reducible apply wo_findSome
    | (intro _)
    | with_reducible apply wo_some
    | with_reducible apply wo2_some
    | with_reducible apply wo_ite
    | with_reducible apply wo2_ite
    | with_reducible apply wo_to (packPage_within ..)
    | with_reducible apply w_ite_snd
    | with_reducible refine w_snd (by assumption) ?_
    | with_reducible refine w_of_some (by assumption) ?_
    | dsimp only
    | split
    | with_reducible refine w_led ?_ ?_)

theorem queuePage_within (page : Nat) (s : State) : Within { led := true } s (queuePage page s) := by
  unfold queuePage
  repeat' (first
    | exact rfl
    | exact Or.inl rfl
    | exact Or.inr rfl
    | exact And.intro rfl (And.intro rfl rfl)
    | exact Or.inl ⟨rfl, rfl⟩
    | exact Or.inr (Or.inl ⟨rfl, rfl⟩)
    | exact Or.inr (Or.inl ⟨rfl, rfl, rfl, rfl⟩)
    | exact Or.inr (Or.inr rfl)
    | with_reducible assumption
    | with_reducible exact Within.refl _ _
    | (intro _ _ _ _)
    | (intro _ _ _)
    | (intro _ _)
    | (intro _)
    | with_reducible apply w_ite
    | with_reducible apply w_foldl
    | with_reducible apply w_foldl2
    | with_reducible apply w_ite_snd
    | dsimp only
    | split
    | with_reducible refine w_led ?_ ?_)

theorem mapFirst_within (s : State) : Within { ev := true, led := true, reins := true, mgt := true } s (mapFirst s) := by
  unfold mapFirst
  repeat' (first
    | exact rfl
    | exact Or.inl rfl
    | exact Or.inr rfl
    | exact And.intro rfl (And.intro rfl rfl)
    | exact Or.inl ⟨rfl, rfl⟩
    | exact Or.inr (Or.inl ⟨rfl, rfl⟩)
    | exact Or.inr (Or.inl ⟨rfl, rfl, rfl, rfl⟩)
    | exact Or.inr (Or.inr rfl)
    | with_reducible assumption
    | with_reducible exact Within.refl _ _
    | (intro _ _ _ _)
    | (intro _ _ _)
    | (intro _ _)
    | (intro _)
    | with_reducible apply w_ite
    | with_reducible apply w_foldl
    | with_reducible apply w_foldl2
    | with_reducible apply Within.to (putMapBlock_within ..)
    | with_reducible apply w_ite_snd
    | dsimp only
    | split)

theorem writeCommits_within (s : State) : Within { ev := true, led := true, reins := true, mgt := true } s (writeCommits s) := by
  unfold writeCommits
  repeat' (first
    | exact rfl
    | exact Or.inl rfl
    | exact Or.inr rfl
    | exact And.intro rfl (And.intro rfl rfl)
    | exact Or.inl ⟨rfl, rfl⟩
    | exact Or.inr (Or.inl ⟨rfl, rfl⟩)
    | exact Or.inr (Or.inl ⟨rfl, rfl, rfl, rfl⟩)
    | exact Or.inr (Or.inr rfl)
    | with_reducible assumption
    | with_reducible exact Within.refl _ _
    | (intro _ _ _ _)
    | (intro _ _ _)
    | (intro _ _)
    | (intro _)
    | with_reducible apply w_ite
    | with_reducible apply w_foldl
    | with_reducible apply w_foldl2
    | with_reducible apply Within.to (addRecord_within ..)
    | with_reducible apply Within.to (mapFirst_within ..)
    | with_reducible apply w_ite_snd
    | with_reducible refine w_snd (by assumption) ?_
    | dsimp only
    | split)

theorem mapChanged_within (page seq : Nat) (s : State) : Within { led := true } s (mapChanged page seq s) := by
  unfold mapChanged
  repeat' (first
    | exact rfl
    | exact Or.inl rfl
    | exact Or.inr rfl
    | exact And.intro rfl (And.intro rfl rfl)
    | exact Or.inl ⟨rfl, rfl⟩
    | exact Or.inr (Or.inl ⟨rfl, rfl⟩)
    | exact Or.inr (Or.inl ⟨rfl, rfl, rfl, rfl⟩)
    | exact Or.inr (Or.inr rfl)
    | with_reducible assumption
    | with_reducible exact Within.refl _ _
    | (intro _ _ _ _)
    | (intro _ _ _)
    | (intro _ _)
    | (intro _)
    | with_reducible apply w_ite
    | with_reducible apply w_foldl
    | with_reducible apply w_foldl2
    | with_reducible apply w_ite_snd
    | dsimp only
    | split
    | with_reducible refine w_led ?_ ?_)

theorem setMirror_within (page seq : Nat) (e : BitVec 128) (s : State) : Within { led := true } s (setMirror page seq e s) := by
  unfold setMirror
  repeat' (first
    | exact rfl
    | exact Or.inl rfl
    | exact Or.inr rfl
    | exact And.intro rfl (And.intro rfl rfl)
    | exact Or.inl ⟨rfl, rfl⟩
    | exact Or.inr (Or.inl ⟨rfl, rfl⟩)
    | exact Or.inr (Or.inl ⟨rfl, rfl, rfl, rfl⟩)
    | exact Or.inr (Or.inr rfl)
    | with_reducible assumption
    | with_reducible exact Within.refl _ _
    | (intro _ _ _ _)
    | (intro _ _ _)
    | (intro _ _)
    | (intro _)
    | with_reducible apply w_ite
    | with_reducible apply w_foldl
    | with_reducible apply w_foldl2
    | with_reducible apply Within.to (mapChanged_within ..)
    | with_reducible apply w_ite_snd
    | dsimp only
    | split
    | with_reducible refine w_led ?_ ?_)

theorem pinMirror_within (page : Nat) (pin : Bool) (s : State) : Within { led := true } s (pinMirror page pin s) := by
  unfold pinMirror
  repeat' (first
    | exact rfl
    | exact Or.inl rfl
    | exact Or.inr rfl
    | exact And.intro rfl (And.intro rfl rfl)
    | exact Or.inl ⟨rfl, rfl⟩
    | exact Or.inr (Or.inl ⟨rfl, rfl⟩)
    | exact Or.inr (Or.inl ⟨rfl, rfl, rfl, rfl⟩)
    | exact Or.inr (Or.inr rfl)
    | with_reducible assumption
    | with_reducible exact Within.refl _ _
    | (intro _ _ _ _)
    | (intro _ _ _)
    | (intro _ _)
    | (intro _)
    | with_reducible apply w_ite
    | with_reducible apply w_foldl
    | with_reducible apply w_foldl2
    | with_reducible apply Within.to (setMirror_within ..))

theorem commitEntry_within (seq : Nat) (g : Segment) (e : BitVec 128) (s : State) : Within { aon := true, quay := true, dram := true, led := true, port := true } s (commitEntry seq g e s) := by
  unfold commitEntry
  repeat' (first
    | exact rfl
    | exact Or.inl rfl
    | exact Or.inr rfl
    | exact And.intro rfl (And.intro rfl rfl)
    | exact Or.inl ⟨rfl, rfl⟩
    | exact Or.inr (Or.inl ⟨rfl, rfl⟩)
    | exact Or.inr (Or.inl ⟨rfl, rfl, rfl, rfl⟩)
    | exact Or.inr (Or.inr rfl)
    | with_reducible assumption
    | with_reducible exact Within.refl _ _
    | (intro _ _ _ _)
    | (intro _ _ _)
    | (intro _ _)
    | (intro _)
    | with_reducible apply w_ite
    | with_reducible apply w_foldl
    | with_reducible apply w_foldl2
    | with_reducible apply Within.to (addLive_within ..)
    | with_reducible apply Within.to (setDesc_within ..)
    | with_reducible apply Within.to (setMirror_within ..)
    | with_reducible apply w_ite_snd
    | dsimp only
    | split
    | with_reducible refine w_led ?_ ?_)

theorem imageLost_within (page : Nat) (s : State) : Within { aon := true, log := true, ev := true, quay := true, dram := true, tier := true, led := true, reins := true, port := true, mgt := true } s (imageLost page s) := by
  unfold imageLost
  repeat' (first
    | exact rfl
    | exact Or.inl rfl
    | exact Or.inr rfl
    | exact And.intro rfl (And.intro rfl rfl)
    | exact Or.inl ⟨rfl, rfl⟩
    | exact Or.inr (Or.inl ⟨rfl, rfl⟩)
    | exact Or.inr (Or.inl ⟨rfl, rfl, rfl, rfl⟩)
    | exact Or.inr (Or.inr rfl)
    | with_reducible assumption
    | with_reducible exact Within.refl _ _
    | (intro _ _ _ _)
    | (intro _ _ _)
    | (intro _ _)
    | (intro _)
    | with_reducible apply w_ite
    | with_reducible apply w_foldl
    | with_reducible apply w_foldl2
    | with_reducible apply Within.to (faultFail_within ..)
    | with_reducible apply Within.to (joinDirty_within ..)
    | with_reducible apply Within.to (logIt_within ..)
    | with_reducible apply Within.to (setDesc_within ..))

theorem compactSegment_within (seq : Nat) (s : State) : Within { aon := true, log := true, ev := true, quay := true, dram := true, tier := true, led := true, reins := true, port := true, mgt := true } s (compactSegment seq s) := by
  unfold compactSegment
  repeat' (first
    | exact rfl
    | exact Or.inl rfl
    | exact Or.inr rfl
    | exact And.intro rfl (And.intro rfl rfl)
    | exact Or.inl ⟨rfl, rfl⟩
    | exact Or.inr (Or.inl ⟨rfl, rfl⟩)
    | exact Or.inr (Or.inl ⟨rfl, rfl, rfl, rfl⟩)
    | exact Or.inr (Or.inr rfl)
    | with_reducible assumption
    | with_reducible exact Within.refl _ _
    | (intro _ _ _ _)
    | (intro _ _ _)
    | (intro _ _)
    | (intro _)
    | with_reducible apply w_ite
    | with_reducible apply w_foldl
    | with_reducible apply w_foldl2
    | with_reducible exact wo_none
    | with_reducible exact wo2_none
    | with_reducible refine wo2_eq (by assumption) ?_
    | with_reducible refine wo_eq (by assumption) ?_
    | with_reducible refine wo2_map ?_ ?_
    | with_reducible refine wo2_mapAny ?_
    | with_reducible refine wo_map2 ?_ ?_
    | with_reducible refine wo_mapS ?_ ?_
    | with_reducible refine wo_map ?_
    | with_reducible apply wo_findSome
    | (intro _)
    | with_reducible apply wo_some
    | with_reducible apply wo2_some
    | with_reducible apply wo_ite
    | with_reducible apply wo2_ite
    | with_reducible apply Within.to (appendImage_within ..)
    | with_reducible apply Within.to (imageLost_within ..)
    | with_reducible apply wo2_to (segmentFor_within ..)
    | with_reducible apply w_ite_snd
    | with_reducible refine w_snd (by assumption) ?_
    | with_reducible refine w_of_some2 (by assumption) ?_
    | dsimp only
    | split)

theorem compactLedger_within (s : State) : Within { aon := true, log := true, ev := true, quay := true, dram := true, tier := true, led := true, reins := true, port := true, mgt := true } s (compactLedger s) := by
  unfold compactLedger
  repeat' (first
    | exact rfl
    | exact Or.inl rfl
    | exact Or.inr rfl
    | exact And.intro rfl (And.intro rfl rfl)
    | exact Or.inl ⟨rfl, rfl⟩
    | exact Or.inr (Or.inl ⟨rfl, rfl⟩)
    | exact Or.inr (Or.inl ⟨rfl, rfl, rfl, rfl⟩)
    | exact Or.inr (Or.inr rfl)
    | with_reducible assumption
    | with_reducible exact Within.refl _ _
    | (intro _ _ _ _)
    | (intro _ _ _)
    | (intro _ _)
    | (intro _)
    | with_reducible apply w_ite
    | with_reducible apply w_foldl
    | with_reducible apply w_foldl2
    | with_reducible apply Within.to (compactSegment_within ..))

theorem failSegment_within (seq : Nat) (s : State) : Within { aon := true, log := true, ev := true, sec := true, pin := true, quay := true, dram := true, mem := true, tier := true, led := true, reins := true, port := true, noc := true, mgt := true } s (failSegment seq s) := by
  unfold failSegment
  repeat' (first
    | exact rfl
    | exact Or.inl rfl
    | exact Or.inr rfl
    | exact And.intro rfl (And.intro rfl rfl)
    | exact Or.inl ⟨rfl, rfl⟩
    | exact Or.inr (Or.inl ⟨rfl, rfl⟩)
    | exact Or.inr (Or.inl ⟨rfl, rfl, rfl, rfl⟩)
    | exact Or.inr (Or.inr rfl)
    | with_reducible assumption
    | with_reducible exact Within.refl _ _
    | (intro _ _ _ _)
    | (intro _ _ _)
    | (intro _ _)
    | (intro _)
    | with_reducible apply w_ite
    | with_reducible apply w_foldl
    | with_reducible apply w_foldl2
    | with_reducible apply Within.to (finishOp_within ..)
    | with_reducible apply Within.to (queuePage_within ..)
    | with_reducible apply w_ite_snd
    | with_reducible refine w_snd (by assumption) ?_
    | dsimp only
    | split
    | with_reducible refine w_led ?_ ?_)

theorem markFailed_within (i reason : Nat) (s : State) : Within { aon := true, log := true, ev := true, sec := true, pin := true, quay := true, dram := true, mem := true, tier := true, led := true, reins := true, port := true, noc := true, mgt := true } s (markFailed i reason s) := by
  unfold markFailed
  repeat' (first
    | exact rfl
    | exact Or.inl rfl
    | exact Or.inr rfl
    | exact And.intro rfl (And.intro rfl rfl)
    | exact Or.inl ⟨rfl, rfl⟩
    | exact Or.inr (Or.inl ⟨rfl, rfl⟩)
    | exact Or.inr (Or.inl ⟨rfl, rfl, rfl, rfl⟩)
    | exact Or.inr (Or.inr rfl)
    | with_reducible assumption
    | with_reducible exact Within.refl _ _
    | (intro _ _ _ _)
    | (intro _ _ _)
    | (intro _ _)
    | (intro _)
    | with_reducible apply w_ite
    | with_reducible apply w_foldl
    | with_reducible apply w_foldl2
    | with_reducible apply Within.to (failSegment_within ..)
    | with_reducible apply Within.to (joinDirty_within ..)
    | with_reducible apply Within.to (logIt_within ..)
    | with_reducible apply Within.to (modSsd_within ..)
    | with_reducible apply Within.to (packQueued_within ..)
    | with_reducible apply Within.to (refreshPA_within ..)
    | with_reducible apply Within.to (setDesc_within ..)
    | with_reducible apply w_ite_snd
    | with_reducible refine w_snd (by assumption) ?_
    | dsimp only
    | split)

end Sys2Proof.Laws
end

