-- ==== Sys2Proof/Laws/WTiers.lean ====
section
/-! SUPPORT. What each operation of Machine/Tiers.lean may change. -/

namespace Sys2Proof.Laws

open Sys2Proof Sys2Proof.Machine

theorem countRead_within (page : Nat) (o : PageOp) (ok : Bool) (s : State) : Within { ev := true, reins := true, mgt := true } s (countRead page o ok s) := by
  unfold countRead
  repeat' (first
    | exact rfl
    | exact Or.inl rfl
    | exact Or.inr rfl
    | exact And.intro rfl (And.intro rfl rfl)
    | exact Or.inl ⟨rfl, rfl⟩
    | exact Or.inr (Or.inl ⟨rfl, rfl⟩)
    | exact Or.inr (Or.inl ⟨rfl, rfl, rfl, rfl⟩)
    | exact Or.inr (Or.inr rfl)
    | with_reducible assumption
    | with_reducible exact Within.refl _ _
    | (intro _ _ _ _)
    | (intro _ _ _)
    | (intro _ _)
    | (intro _)
    | with_reducible apply w_ite
    | with_reducible apply w_foldl
    | with_reducible apply w_foldl2
    | with_reducible apply Within.to (countXfer_within ..)
    | with_reducible apply Within.to (peEv_within ..))

theorem execDemandFaultReadComplete_within (page : Nat) (ok : Bool) (s : State) : WOut { aon := true, log := true, ev := true, sec := true, quay := true, dram := true, mem := true, tier := true, led := true, reins := true, port := true, noc := true, rings := true, mgt := true } s (execDemandFaultReadComplete page ok s) := by
  unfold execDemandFaultReadComplete
  repeat' (first
    | exact rfl
    | exact Or.inl rfl
    | exact Or.inr rfl
    | exact And.intro rfl (And.intro rfl rfl)
    | exact Or.inl ⟨rfl, rfl⟩
    | exact Or.inr (Or.inl ⟨rfl, rfl⟩)
    | exact Or.inr (Or.inl ⟨rfl, rfl, rfl, rfl⟩)
    | exact Or.inr (Or.inr rfl)
    | with_reducible assumption
    | with_reducible exact Within.refl _ _
    | (intro _ _ _ _)
    | (intro _ _ _)
    | (intro _ _)
    | (intro _)
    | with_reducible apply w_ite
    | with_reducible apply w_foldl
    | with_reducible apply w_foldl2
    | with_reducible apply wout_next
    | with_reducible exact wout_fault
    | with_reducible apply wout_ite
    | with_reducible apply Within.to (burnMajor_within ..)
    | with_reducible apply Within.to (countRead_within ..)
    | with_reducible apply Within.to (deliver_within ..)
    | with_reducible apply Within.to (faultFail_within ..)
    | with_reducible apply Within.to (modOp_within ..)
    | with_reducible apply Within.to (settle_within ..)
    | with_reducible apply w_ite_snd
    | dsimp only
    | split)

theorem decodeTile_within (cls : BitVec 8) (page : Nat) (s : State) : WO { ev := true, tier := true, reins := true, noc := true, mgt := true } s (decodeTile cls page s) := by
  unfold decodeTile
  repeat' (first
    | exact rfl
    | exact Or.inl rfl
    | exact Or.inr rfl
    | exact And.intro rfl (And.intro rfl rfl)
    | exact Or.inl ⟨rfl, rfl⟩
    | exact Or.inr (Or.inl ⟨rfl, rfl⟩)
    | exact Or.inr (Or.inl ⟨rfl, rfl, rfl, rfl⟩)
    | exact Or.inr (Or.inr rfl)
    | with_reducible assumption
    | with_reducible exact Within.refl _ _
    | (intro _ _ _ _)
    | (intro _ _ _)
    | (intro _ _)
    | (intro _)
    | with_reducible apply w_ite
    | with_reducible apply w_foldl
    | with_reducible apply w_foldl2
    | with_reducible exact wo_none
    | with_reducible exact wo2_none
    | with_reducible refine wo2_eq (by assumption) ?_
    | with_reducible refine wo_eq (by assumption) ?_
    | with_reducible refine wo2_map ?_ ?_
    | with_reducible refine wo2_mapAny ?_
    | with_reducible refine wo_map2 ?_ ?_
    | with_reducible refine wo_mapS ?_ ?_
    | with_reducible refine wo_map ?_
    | with_reducible apply wo_findSome
    | (intro _)
    | with_reducible apply wo_some
    | with_reducible apply wo2_some
    | with_reducible apply wo_ite
    | with_reducible apply wo2_ite
    | with_reducible apply Within.to (countUse_within ..)
    | with_reducible apply wo2_to (placeTile_within ..)
    | with_reducible apply Within.to (tileUnits_within ..))

theorem installWarm_within (page : Nat) (o : PageOp) (g : List (BitVec 512)) (s : State) : WO { aon := true, ev := true, sec := true, quay := true, dram := true, mem := true, reins := true, port := true, mgt := true } s (installWarm page o g s) := by
  unfold installWarm
  repeat' (first
    | exact rfl
    | exact Or.inl rfl
    | exact Or.inr rfl
    | exact And.intro rfl (And.intro rfl rfl)
    | exact Or.inl ⟨rfl, rfl⟩
    | exact Or.inr (Or.inl ⟨rfl, rfl⟩)
    | exact Or.inr (Or.inl ⟨rfl, rfl, rfl, rfl⟩)
    | exact Or.inr (Or.inr rfl)
    | with_reducible assumption
    | with_reducible exact Within.refl _ _
    | (intro _ _ _ _)
    | (intro _ _ _)
    | (intro _ _)
    | (intro _)
    | with_reducible apply w_ite
    | with_reducible apply w_foldl
    | with_reducible apply w_foldl2
    | with_reducible exact wo_none
    | with_reducible exact wo2_none
    | with_reducible refine wo2_eq (by assumption) ?_
    | with_reducible refine wo_eq (by assumption) ?_
    | with_reducible refine wo2_map ?_ ?_
    | with_reducible refine wo2_mapAny ?_
    | with_reducible refine wo_map2 ?_ ?_
    | with_reducible refine wo_mapS ?_ ?_
    | with_reducible refine wo_map ?_
    | with_reducible apply wo_findSome
    | (intro _)
    | with_reducible apply wo_some
    | with_reducible apply wo2_some
    | with_reducible apply wo_ite
    | with_reducible apply wo2_ite
    | with_reducible refine Within.to (doWork_within (p := { aon := true, ev := true, sec := true, quay := true, dram := true, mem := true, reins := true, port := true, mgt := true }) (hp := rfl) (h1 := ?_) ..) rfl ?_
    | with_reducible apply Within.to (fillRun_within ..)
    | with_reducible apply wo2_to (granFrame_within ..)
    | with_reducible apply Within.to (placeRun_within ..)
    | with_reducible apply Within.to (setDesc_within ..))

theorem installHot_within (page : Nat) (lines : List (BitVec 512 × Bool)) (o : PageOp) (s : State) : WO { aon := true, ev := true, sec := true, quay := true, dram := true, mem := true, reins := true, port := true, mgt := true } s (installHot page lines o s) := by
  unfold installHot
  repeat' (first
    | exact rfl
    | exact Or.inl rfl
    | exact Or.inr rfl
    | exact And.intro rfl (And.intro rfl rfl)
    | exact Or.inl ⟨rfl, rfl⟩
    | exact Or.inr (Or.inl ⟨rfl, rfl⟩)
    | exact Or.inr (Or.inl ⟨rfl, rfl, rfl, rfl⟩)
    | exact Or.inr (Or.inr rfl)
    | with_reducible assumption
    | with_reducible exact Within.refl _ _
    | (intro _ _ _ _)
    | (intro _ _ _)
    | (intro _ _)
    | (intro _)
    | with_reducible apply w_ite
    | with_reducible apply w_foldl
    | with_reducible apply w_foldl2
    | with_reducible exact wo_none
    | with_reducible exact wo2_none
    | with_reducible refine wo2_eq (by assumption) ?_
    | with_reducible refine wo_eq (by assumption) ?_
    | with_reducible refine wo2_map ?_ ?_
    | with_reducible refine wo2_mapAny ?_
    | with_reducible refine wo_map2 ?_ ?_
    | with_reducible refine wo_mapS ?_ ?_
    | with_reducible refine wo_map ?_
    | with_reducible apply wo_findSome
    | (intro _)
    | with_reducible apply wo_some
    | with_reducible apply wo2_some
    | with_reducible apply wo_ite
    | with_reducible apply wo2_ite
    | with_reducible apply Within.to (chargeWrites_within ..)
    | with_reducible apply wo2_to (newBerth_within ..)
    | with_reducible apply Within.to (setDesc_within ..))

theorem installImage_within (page : Nat) (o : PageOp) (g : List (BitVec 512)) (s : State) : WO { aon := true, log := true, ev := true, sec := true, quay := true, dram := true, mem := true, tier := true, reins := true, port := true, noc := true, mgt := true } s (installImage page o g s) := by
  unfold installImage
  repeat' (first
    | exact rfl
    | exact Or.inl rfl
    | exact Or.inr rfl
    | exact And.intro rfl (And.intro rfl rfl)
    | exact Or.inl ⟨rfl, rfl⟩
    | exact Or.inr (Or.inl ⟨rfl, rfl⟩)
    | exact Or.inr (Or.inl ⟨rfl, rfl, rfl, rfl⟩)
    | exact Or.inr (Or.inr rfl)
    | with_reducible assumption
    | with_reducible exact Within.refl _ _
    | (intro _ _ _ _)
    | (intro _ _ _)
    | (intro _ _)
    | (intro _)
    | with_reducible apply w_ite
    | with_reducible apply w_foldl
    | with_reducible apply w_foldl2
    | with_reducible exact wo_none
    | with_reducible exact wo2_none
    | with_reducible refine wo2_eq (by assumption) ?_
    | with_reducible refine wo_eq (by assumption) ?_
    | with_reducible refine wo2_map ?_ ?_
    | with_reducible refine wo2_mapAny ?_
    | with_reducible refine wo_map2 ?_ ?_
    | with_reducible refine wo_mapS ?_ ?_
    | with_reducible refine wo_map ?_
    | with_reducible apply wo_findSome
    | (intro _)
    | with_reducible apply wo_some
    | with_reducible apply wo2_some
    | with_reducible apply wo_ite
    | with_reducible apply wo2_ite
    | with_reducible apply Within.to (burnMajor_within ..)
    | with_reducible apply wo_to (decodeTile_within ..)
    | with_reducible apply Within.to (faultFail_within ..)
    | with_reducible apply wo_to (installHot_within ..)
    | with_reducible apply wo_to (installWarm_within ..)
    | with_reducible apply w_ite_snd
    | with_reducible refine w_of_some (by assumption) ?_
    | dsimp only
    | split)

theorem execDemandFaultInstallComplete_within (page : Nat) (s : State) : WOut { aon := true, log := true, ev := true, sec := true, pin := true, quay := true, dram := true, mem := true, tier := true, led := true, reins := true, port := true, noc := true, rings := true, mgt := true } s (execDemandFaultInstallComplete page s) := by
  unfold execDemandFaultInstallComplete
  repeat' (first
    | exact rfl
    | exact Or.inl rfl
    | exact Or.inr rfl
    | exact And.intro rfl (And.intro rfl rfl)
    | exact Or.inl ⟨rfl, rfl⟩
    | exact Or.inr (Or.inl ⟨rfl, rfl⟩)
    | exact Or.inr (Or.inl ⟨rfl, rfl, rfl, rfl⟩)
    | exact Or.inr (Or.inr rfl)
    | with_reducible assumption
    | with_reducible exact Within.refl _ _
    | (intro _ _ _ _)
    | (intro _ _ _)
    | (intro _ _)
    | (intro _)
    | with_reducible apply w_ite
    | with_reducible apply w_foldl
    | with_reducible apply w_foldl2
    | with_reducible exact wo_none
    | with_reducible exact wo2_none
    | with_reducible refine wo2_eq (by assumption) ?_
    | with_reducible refine wo_eq (by assumption) ?_
    | with_reducible refine wo2_map ?_ ?_
    | with_reducible refine wo2_mapAny ?_
    | with_reducible refine wo_map2 ?_ ?_
    | with_reducible refine wo_mapS ?_ ?_
    | with_reducible refine wo_map ?_
    | with_reducible apply wo_findSome
    | (intro _)
    | with_reducible apply wo_some
    | with_reducible apply wo2_some
    | with_reducible apply wo_ite
    | with_reducible apply wo2_ite
    | with_reducible apply wout_next
    | with_reducible exact wout_fault
    | with_reducible apply wout_ite
    | with_reducible apply Within.to (burnMajor_within ..)
    | with_reducible apply Within.to (faultFail_within ..)
    | with_reducible apply Within.to (finishOp_within ..)
    | with_reducible apply wo_to (installImage_within ..)
    | with_reducible apply Within.to (settle_within ..)
    | with_reducible apply Within.to (startPromotion_within ..)
    | with_reducible apply w_ite_snd
    | with_reducible refine w_of_some (by assumption) ?_
    | dsimp only
    | split)

theorem execLineEviction_within (line : Line) (s : State) : WOut { aon := true, log := true, ev := true, sec := true, quay := true, dram := true, mem := true, tier := true, led := true, reins := true, port := true, noc := true, rings := true, mgt := true } s (execLineEviction line s) := by
  unfold execLineEviction
  repeat' (first
    | exact rfl
    | exact Or.inl rfl
    | exact Or.inr rfl
    | exact And.intro rfl (And.intro rfl rfl)
    | exact Or.inl ⟨rfl, rfl⟩
    | exact Or.inr (Or.inl ⟨rfl, rfl⟩)
    | exact Or.inr (Or.inl ⟨rfl, rfl, rfl, rfl⟩)
    | exact Or.inr (Or.inr rfl)
    | with_reducible assumption
    | with_reducible exact Within.refl _ _
    | (intro _ _ _ _)
    | (intro _ _ _)
    | (intro _ _)
    | (intro _)
    | with_reducible apply w_ite
    | with_reducible apply w_foldl
    | with_reducible apply w_foldl2
    | with_reducible apply wout_next
    | with_reducible exact wout_fault
    | with_reducible apply wout_ite
    | with_reducible apply Within.to (evictLine_within ..)
    | with_reducible apply Within.to (settle_within ..))

theorem execPartialLineMerge_within (line : Line) (err : BitVec 640) (s : State) : WOut { aon := true, log := true, ev := true, sec := true, quay := true, dram := true, mem := true, tier := true, led := true, reins := true, port := true, noc := true, rings := true, mgt := true } s (execPartialLineMerge line err s) := by
  unfold execPartialLineMerge
  repeat' (first
    | exact rfl
    | exact Or.inl rfl
    | exact Or.inr rfl
    | exact And.intro rfl (And.intro rfl rfl)
    | exact Or.inl ⟨rfl, rfl⟩
    | exact Or.inr (Or.inl ⟨rfl, rfl⟩)
    | exact Or.inr (Or.inl ⟨rfl, rfl, rfl, rfl⟩)
    | exact Or.inr (Or.inr rfl)
    | with_reducible assumption
    | with_reducible exact Within.refl _ _
    | (intro _ _ _ _)
    | (intro _ _ _)
    | (intro _ _)
    | (intro _)
    | with_reducible apply w_ite
    | with_reducible apply w_foldl
    | with_reducible apply w_foldl2
    | with_reducible apply wout_next
    | with_reducible exact wout_fault
    | with_reducible apply wout_ite
    | with_reducible apply Within.to (mergeLine_within ..)
    | with_reducible apply Within.to (settle_within ..))

theorem execDecayEpochAdvance_within (s : State) : WOut { ev := true, tier := true, mgt := true } s (execDecayEpochAdvance s) := by
  unfold execDecayEpochAdvance
  repeat' (first
    | exact rfl
    | exact Or.inl rfl
    | exact Or.inr rfl
    | exact And.intro rfl (And.intro rfl rfl)
    | exact Or.inl ⟨rfl, rfl⟩
    | exact Or.inr (Or.inl ⟨rfl, rfl⟩)
    | exact Or.inr (Or.inl ⟨rfl, rfl, rfl, rfl⟩)
    | exact Or.inr (Or.inr rfl)
    | with_reducible assumption
    | with_reducible exact Within.refl _ _
    | (intro _ _ _ _)
    | (intro _ _ _)
    | (intro _ _)
    | (intro _)
    | with_reducible apply w_ite
    | with_reducible apply w_foldl
    | with_reducible apply w_foldl2
    | with_reducible apply wout_next
    | with_reducible exact wout_fault
    | with_reducible apply wout_ite
    | with_reducible apply Within.to (evMgt_within ..)
    | with_reducible apply w_ite_snd
    | dsimp only
    | split
    | with_reducible refine w_tier ?_ ?_)

theorem startDemotion_within (page : Nat) (s : State) : Within { ev := true, tier := true, reins := true, noc := true, mgt := true } s (startDemotion page s) := by
  unfold startDemotion
  repeat' (first
    | exact rfl
    | exact Or.inl rfl
    | exact Or.inr rfl
    | exact And.intro rfl (And.intro rfl rfl)
    | exact Or.inl ⟨rfl, rfl⟩
    | exact Or.inr (Or.inl ⟨rfl, rfl⟩)
    | exact Or.inr (Or.inl ⟨rfl, rfl, rfl, rfl⟩)
    | exact Or.inr (Or.inr rfl)
    | with_reducible assumption
    | with_reducible exact Within.refl _ _
    | (intro _ _ _ _)
    | (intro _ _ _)
    | (intro _ _)
    | (intro _)
    | with_reducible apply w_ite
    | with_reducible apply w_foldl
    | with_reducible apply w_foldl2
    | with_reducible exact wo_none
    | with_reducible exact wo2_none
    | with_reducible refine wo2_eq (by assumption) ?_
    | with_reducible refine wo_eq (by assumption) ?_
    | with_reducible refine wo2_map ?_ ?_
    | with_reducible refine wo2_mapAny ?_
    | with_reducible refine wo_map2 ?_ ?_
    | with_reducible refine wo_mapS ?_ ?_
    | with_reducible refine wo_map ?_
    | with_reducible apply wo_findSome
    | (intro _)
    | with_reducible apply wo_some
    | with_reducible apply wo2_some
    | with_reducible apply wo_ite
    | with_reducible apply wo2_ite
    | with_reducible apply Within.to (evQb_within ..)
    | with_reducible apply wo2_to (packTile_within ..)
    | with_reducible apply Within.to (setOps_within ..)
    | with_reducible apply w_ite_snd
    | with_reducible refine w_of_some2 (by assumption) ?_
    | dsimp only
    | split)

theorem visitPage_within (acts : Bool) (page : Nat) (s : State) : Within { aon := true, log := true, ev := true, quay := true, dram := true, tier := true, led := true, reins := true, port := true, noc := true, mgt := true } s (visitPage acts page s) := by
  unfold visitPage
  repeat' (first
    | exact rfl
    | exact Or.inl rfl
    | exact Or.inr rfl
    | exact And.intro rfl (And.intro rfl rfl)
    | exact Or.inl ⟨rfl, rfl⟩
    | exact Or.inr (Or.inl ⟨rfl, rfl⟩)
    | exact Or.inr (Or.inl ⟨rfl, rfl, rfl, rfl⟩)
    | exact Or.inr (Or.inr rfl)
    | with_reducible assumption
    | with_reducible exact Within.refl _ _
    | (intro _ _ _ _)
    | (intro _ _ _)
    | (intro _ _)
    | (intro _)
    | with_reducible apply w_ite
    | with_reducible apply w_foldl
    | with_reducible apply w_foldl2
    | with_reducible apply Within.to (descFix_within ..)
    | with_reducible apply Within.to (modDesc_within ..)
    | with_reducible apply Within.to (moveToCold_within ..)
    | with_reducible apply Within.to (startDemotion_within ..)
    | with_reducible apply w_ite_snd
    | dsimp only
    | split
    | with_reducible refine w_tier ?_ ?_)

theorem lapEnd_within (s : State) : Within { ev := true, tier := true, mgt := true } s (lapEnd s) := by
  unfold lapEnd
  repeat' (first
    | exact rfl
    | exact Or.inl rfl
    | exact Or.inr rfl
    | exact And.intro rfl (And.intro rfl rfl)
    | exact Or.inl ⟨rfl, rfl⟩
    | exact Or.inr (Or.inl ⟨rfl, rfl⟩)
    | exact Or.inr (Or.inl ⟨rfl, rfl, rfl, rfl⟩)
    | exact Or.inr (Or.inr rfl)
    | with_reducible assumption
    | with_reducible exact Within.refl _ _
    | (intro _ _ _ _)
    | (intro _ _ _)
    | (intro _ _)
    | (intro _)
    | with_reducible apply w_ite
    | with_reducible apply w_foldl
    | with_reducible apply w_foldl2
    | with_reducible apply Within.to (evMgt_within ..)
    | with_reducible apply w_ite_snd
    | dsimp only
    | split
    | with_reducible refine w_tier ?_ ?_)

theorem execScannerVisit_within (s : State) : WOut { aon := true, log := true, ev := true, sec := true, quay := true, dram := true, mem := true, tier := true, led := true, reins := true, port := true, noc := true, rings := true, mgt := true } s (execScannerVisit s) := by
  unfold execScannerVisit
  repeat' (first
    | exact rfl
    | exact Or.inl rfl
    | exact Or.inr rfl
    | exact And.intro rfl (And.intro rfl rfl)
    | exact Or.inl ⟨rfl, rfl⟩
    | exact Or.inr (Or.inl ⟨rfl, rfl⟩)
    | exact Or.inr (Or.inl ⟨rfl, rfl, rfl, rfl⟩)
    | exact Or.inr (Or.inr rfl)
    | with_reducible assumption
    | with_reducible exact Within.refl _ _
    | (intro _ _ _ _)
    | (intro _ _ _)
    | (intro _ _)
    | (intro _)
    | with_reducible apply w_ite
    | with_reducible apply w_foldl
    | with_reducible apply w_foldl2
    | with_reducible apply wout_next
    | with_reducible exact wout_fault
    | with_reducible apply wout_ite
    | with_reducible apply Within.to (lapEnd_within ..)
    | with_reducible apply Within.to (settle_within ..)
    | with_reducible apply Within.to (startCompaction_within ..)
    | with_reducible apply Within.to (visitPage_within ..)
    | with_reducible apply w_ite_snd
    | with_reducible refine w_snd (by assumption) ?_
    | dsimp only
    | split
    | with_reducible refine w_tier ?_ ?_)

theorem demoteLines_within (page : Nat) (o : PageOp) (l : List (BitVec 512 × Bool)) (s : State) : Within { aon := true, ev := true, sec := true, quay := true, dram := true, mem := true, reins := true, port := true, mgt := true } s (demoteLines page o l s) := by
  unfold demoteLines
  repeat' (first
    | exact rfl
    | exact Or.inl rfl
    | exact Or.inr rfl
    | exact And.intro rfl (And.intro rfl rfl)
    | exact Or.inl ⟨rfl, rfl⟩
    | exact Or.inr (Or.inl ⟨rfl, rfl⟩)
    | exact Or.inr (Or.inl ⟨rfl, rfl, rfl, rfl⟩)
    | exact Or.inr (Or.inr rfl)
    | with_reducible assumption
    | with_reducible exact Within.refl _ _
    | (intro _ _ _ _)
    | (intro _ _ _)
    | (intro _ _)
    | (intro _)
    | with_reducible apply w_ite
    | with_reducible apply w_foldl
    | with_reducible apply w_foldl2
    | with_reducible exact wo_none
    | with_reducible exact wo2_none
    | with_reducible refine wo2_eq (by assumption) ?_
    | with_reducible refine wo_eq (by assumption) ?_
    | with_reducible refine wo2_map ?_ ?_
    | with_reducible refine wo2_mapAny ?_
    | with_reducible refine wo_map2 ?_ ?_
    | with_reducible refine wo_mapS ?_ ?_
    | with_reducible refine wo_map ?_
    | with_reducible apply wo_findSome
    | (intro _)
    | with_reducible apply wo_some
    | with_reducible apply wo2_some
    | with_reducible apply wo_ite
    | with_reducible apply wo2_ite
    | with_reducible refine Within.to (doWork_within (p := { aon := true, ev := true, sec := true, quay := true, dram := true, mem := true, reins := true, port := true, mgt := true }) (hp := rfl) (h1 := ?_) ..) rfl ?_
    | with_reducible apply Within.to (fillRun_within ..)
    | with_reducible apply Within.to (freeFrame_within ..)
    | with_reducible apply wo2_to (granFrame_within ..)
    | with_reducible apply Within.to (placeRun_within ..)
    | with_reducible apply Within.to (setDesc_within ..)
    | with_reducible apply w_ite_snd
    | with_reducible refine w_snd (by assumption) ?_
    | with_reducible refine w_of_some2 (by assumption) ?_
    | dsimp only
    | split)

theorem execDemotionComplete_within (page : Nat) (s : State) : WOut { aon := true, log := true, ev := true, sec := true, pin := true, quay := true, dram := true, mem := true, tier := true, led := true, reins := true, port := true, noc := true, rings := true, mgt := true } s (execDemotionComplete page s) := by
  unfold execDemotionComplete
  repeat' (first
    | exact rfl
    | exact Or.inl rfl
    | exact Or.inr rfl
    | exact And.intro rfl (And.intro rfl rfl)
    | exact Or.inl ⟨rfl, rfl⟩
    | exact Or.inr (Or.inl ⟨rfl, rfl⟩)
    | exact Or.inr (Or.inl ⟨rfl, rfl, rfl, rfl⟩)
    | exact Or.inr (Or.inr rfl)
    | with_reducible assumption
    | with_reducible exact Within.refl _ _
    | (intro _ _ _ _)
    | (intro _ _ _)
    | (intro _ _)
    | (intro _)
    | with_reducible apply w_ite
    | with_reducible apply w_foldl
    | with_reducible apply w_foldl2
    | with_reducible apply wout_next
    | with_reducible exact wout_fault
    | with_reducible apply wout_ite
    | with_reducible apply Within.to (demoteLines_within ..)
    | with_reducible apply Within.to (finishOp_within ..)
    | with_reducible apply Within.to (readPage_within ..)
    | with_reducible apply Within.to (settle_within ..)
    | with_reducible apply Within.to (storedLines_within ..)
    | with_reducible apply Within.to (tileUnits_within ..)
    | with_reducible apply w_ite_snd
    | with_reducible refine w_snd (by assumption) ?_
    | dsimp only
    | split)

theorem promoteDone_within (page : Nat) (s : State) : Within { aon := true, log := true, ev := true, sec := true, pin := true, quay := true, dram := true, mem := true, tier := true, led := true, reins := true, port := true, noc := true, mgt := true } s (promoteDone page s) := by
  unfold promoteDone
  repeat' (first
    | exact rfl
    | exact Or.inl rfl
    | exact Or.inr rfl
    | exact And.intro rfl (And.intro rfl rfl)
    | exact Or.inl ⟨rfl, rfl⟩
    | exact Or.inr (Or.inl ⟨rfl, rfl⟩)
    | exact Or.inr (Or.inl ⟨rfl, rfl, rfl, rfl⟩)
    | exact Or.inr (Or.inr rfl)
    | with_reducible assumption
    | with_reducible exact Within.refl _ _
    | (intro _ _ _ _)
    | (intro _ _ _)
    | (intro _ _)
    | (intro _)
    | with_reducible apply w_ite
    | with_reducible apply w_foldl
    | with_reducible apply w_foldl2
    | with_reducible exact wo_none
    | with_reducible exact wo2_none
    | with_reducible refine wo2_eq (by assumption) ?_
    | with_reducible refine wo_eq (by assumption) ?_
    | with_reducible refine wo2_map ?_ ?_
    | with_reducible refine wo2_mapAny ?_
    | with_reducible refine wo_map2 ?_ ?_
    | with_reducible refine wo_mapS ?_ ?_
    | with_reducible refine wo_map ?_
    | with_reducible apply wo_findSome
    | (intro _)
    | with_reducible apply wo_some
    | with_reducible apply wo2_some
    | with_reducible apply wo_ite
    | with_reducible apply wo2_ite
    | with_reducible apply Within.to (chargeWrites_within ..)
    | with_reducible apply wo_to (decodeTile_within ..)
    | with_reducible apply Within.to (finishOp_within ..)
    | with_reducible apply wo2_to (newBerth_within ..)
    | with_reducible apply Within.to (readGranules_within ..)
    | with_reducible apply Within.to (readPage_within ..)
    | with_reducible apply Within.to (retireRun_within ..)
    | with_reducible apply Within.to (runFailBurn_within ..)
    | with_reducible apply Within.to (setDesc_within ..)
    | with_reducible apply w_ite_snd
    | with_reducible refine w_snd (by assumption) ?_
    | with_reducible refine w_of_some (by assumption) ?_
    | with_reducible refine w_of_some2 (by assumption) ?_
    | dsimp only
    | split)

theorem execPromotionComplete_within (page : Nat) (s : State) : WOut { aon := true, log := true, ev := true, sec := true, pin := true, quay := true, dram := true, mem := true, tier := true, led := true, reins := true, port := true, noc := true, rings := true, mgt := true } s (execPromotionComplete page s) := by
  unfold execPromotionComplete
  repeat' (first
    | exact rfl
    | exact Or.inl rfl
    | exact Or.inr rfl
    | exact And.intro rfl (And.intro rfl rfl)
    | exact Or.inl ⟨rfl, rfl⟩
    | exact Or.inr (Or.inl ⟨rfl, rfl⟩)
    | exact Or.inr (Or.inl ⟨rfl, rfl, rfl, rfl⟩)
    | exact Or.inr (Or.inr rfl)
    | with_reducible assumption
    | with_reducible exact Within.refl _ _
    | (intro _ _ _ _)
    | (intro _ _ _)
    | (intro _ _)
    | (intro _)
    | with_reducible apply w_ite
    | with_reducible apply w_foldl
    | with_reducible apply w_foldl2
    | with_reducible apply wout_next
    | with_reducible exact wout_fault
    | with_reducible apply wout_ite
    | with_reducible apply Within.to (promoteDone_within ..)
    | with_reducible apply Within.to (settle_within ..))

theorem moveRun_within (page f n : Nat) (o : PageOp) (s : State) : Within { aon := true, log := true, ev := true, quay := true, dram := true, mem := true, tier := true, reins := true, port := true, mgt := true } s (moveRun page f n o s) := by
  unfold moveRun
  repeat' (first
    | exact rfl
    | exact Or.inl rfl
    | exact Or.inr rfl
    | exact And.intro rfl (And.intro rfl rfl)
    | exact Or.inl ⟨rfl, rfl⟩
    | exact Or.inr (Or.inl ⟨rfl, rfl⟩)
    | exact Or.inr (Or.inl ⟨rfl, rfl, rfl, rfl⟩)
    | exact Or.inr (Or.inr rfl)
    | with_reducible assumption
    | with_reducible exact Within.refl _ _
    | (intro _ _ _ _)
    | (intro _ _ _)
    | (intro _ _)
    | (intro _)
    | with_reducible apply w_ite
    | with_reducible apply w_foldl
    | with_reducible apply w_foldl2
    | with_reducible refine Within.to (doWork_within (p := { aon := true, log := true, ev := true, quay := true, dram := true, mem := true, tier := true, reins := true, port := true, mgt := true }) (hp := rfl) (h1 := ?_) ..) rfl ?_
    | with_reducible apply Within.to (dramWrite_within ..)
    | with_reducible apply Within.to (placeRun_within ..)
    | with_reducible apply Within.to (readGranules_within ..)
    | with_reducible apply Within.to (retireRun_within ..)
    | with_reducible apply Within.to (setDesc_within ..))

theorem execCompactionMoveComplete_within (page : Nat) (s : State) : WOut { aon := true, log := true, ev := true, sec := true, pin := true, quay := true, dram := true, mem := true, tier := true, led := true, reins := true, port := true, noc := true, rings := true, mgt := true } s (execCompactionMoveComplete page s) := by
  unfold execCompactionMoveComplete
  repeat' (first
    | exact rfl
    | exact Or.inl rfl
    | exact Or.inr rfl
    | exact And.intro rfl (And.intro rfl rfl)
    | exact Or.inl ⟨rfl, rfl⟩
    | exact Or.inr (Or.inl ⟨rfl, rfl⟩)
    | exact Or.inr (Or.inl ⟨rfl, rfl, rfl, rfl⟩)
    | exact Or.inr (Or.inr rfl)
    | with_reducible assumption
    | with_reducible exact Within.refl _ _
    | (intro _ _ _ _)
    | (intro _ _ _)
    | (intro _ _)
    | (intro _)
    | with_reducible apply w_ite
    | with_reducible apply w_foldl
    | with_reducible apply w_foldl2
    | with_reducible exact wo_none
    | with_reducible exact wo2_none
    | with_reducible refine wo2_eq (by assumption) ?_
    | with_reducible refine wo_eq (by assumption) ?_
    | with_reducible refine wo2_map ?_ ?_
    | with_reducible refine wo2_mapAny ?_
    | with_reducible refine wo_map2 ?_ ?_
    | with_reducible refine wo_mapS ?_ ?_
    | with_reducible refine wo_map ?_
    | with_reducible apply wo_findSome
    | (intro _)
    | with_reducible apply wo_some
    | with_reducible apply wo2_some
    | with_reducible apply wo_ite
    | with_reducible apply wo2_ite
    | with_reducible apply wout_next
    | with_reducible exact wout_fault
    | with_reducible apply wout_ite
    | with_reducible apply Within.to (finishOp_within ..)
    | with_reducible apply wo2_to (granFrame_within ..)
    | with_reducible apply Within.to (moveRun_within ..)
    | with_reducible apply Within.to (runFail_within ..)
    | with_reducible apply Within.to (settle_within ..)
    | with_reducible apply w_ite_snd
    | with_reducible refine w_snd (by assumption) ?_
    | with_reducible refine w_of_some2 (by assumption) ?_
    | dsimp only
    | split
    | with_reducible refine w_dram ?_ ?_ ?_)

theorem endRelocation_within (page : Nat) (s : State) : Within { aon := true, log := true, ev := true, sec := true, pin := true, quay := true, dram := true, mem := true, tier := true, led := true, reins := true, port := true, noc := true, mgt := true } s (endRelocation page s) := by
  unfold endRelocation
  repeat' (first
    | exact rfl
    | exact Or.inl rfl
    | exact Or.inr rfl
    | exact And.intro rfl (And.intro rfl rfl)
    | exact Or.inl ⟨rfl, rfl⟩
    | exact Or.inr (Or.inl ⟨rfl, rfl⟩)
    | exact Or.inr (Or.inl ⟨rfl, rfl, rfl, rfl⟩)
    | exact Or.inr (Or.inr rfl)
    | with_reducible assumption
    | with_reducible exact Within.refl _ _
    | (intro _ _ _ _)
    | (intro _ _ _)
    | (intro _ _)
    | (intro _)
    | with_reducible apply w_ite
    | with_reducible apply w_foldl
    | with_reducible apply w_foldl2
    | with_reducible apply Within.to (finishOp_within ..)
    | with_reducible apply Within.to (markRetired_within ..)
    | with_reducible apply Within.to (setDesc_within ..))

theorem copiedLine_within (page i : Nat) (s : State) : Within { aon := true, log := true, ev := true, sec := true, pin := true, quay := true, dram := true, mem := true, tier := true, led := true, reins := true, port := true, noc := true, rings := true, mgt := true } s (copiedLine page i s) := by
  unfold copiedLine
  repeat' (first
    | exact rfl
    | exact Or.inl rfl
    | exact Or.inr rfl
    | exact And.intro rfl (And.intro rfl rfl)
    | exact Or.inl ⟨rfl, rfl⟩
    | exact Or.inr (Or.inl ⟨rfl, rfl⟩)
    | exact Or.inr (Or.inl ⟨rfl, rfl, rfl, rfl⟩)
    | exact Or.inr (Or.inr rfl)
    | with_reducible assumption
    | with_reducible exact Within.refl _ _
    | (intro _ _ _ _)
    | (intro _ _ _)
    | (intro _ _)
    | (intro _)
    | with_reducible apply w_ite
    | with_reducible apply w_foldl
    | with_reducible apply w_foldl2
    | with_reducible apply Within.to (endRelocation_within ..)
    | with_reducible apply Within.to (setDesc_within ..)
    | with_reducible apply Within.to (settle_within ..))

theorem copyLost_within (page i : Nat) (st : BitVec 640) (s : State) : Within { aon := true, log := true, ev := true, sec := true, pin := true, quay := true, dram := true, mem := true, tier := true, led := true, reins := true, port := true, noc := true, rings := true, mgt := true } s (copyLost page i st s) := by
  unfold copyLost
  repeat' (first
    | exact rfl
    | exact Or.inl rfl
    | exact Or.inr rfl
    | exact And.intro rfl (And.intro rfl rfl)
    | exact Or.inl ⟨rfl, rfl⟩
    | exact Or.inr (Or.inl ⟨rfl, rfl⟩)
    | exact Or.inr (Or.inl ⟨rfl, rfl, rfl, rfl⟩)
    | exact Or.inr (Or.inr rfl)
    | with_reducible assumption
    | with_reducible exact Within.refl _ _
    | (intro _ _ _ _)
    | (intro _ _ _)
    | (intro _ _)
    | (intro _)
    | with_reducible apply w_ite
    | with_reducible apply w_foldl
    | with_reducible apply w_foldl2
    | with_reducible apply Within.to (endRelocation_within ..)
    | with_reducible apply Within.to (finishOp_within ..)
    | with_reducible apply Within.to (logIt_within ..)
    | with_reducible apply Within.to (moveToCold_within ..)
    | with_reducible apply Within.to (setDesc_within ..)
    | with_reducible apply Within.to (settle_within ..)
    | with_reducible apply Within.to (writeBerth_within ..))

theorem execRelocationLineCopy_within (page : Nat) (err : BitVec 640) (s : State) : WOut { aon := true, log := true, ev := true, sec := true, pin := true, quay := true, dram := true, mem := true, tier := true, led := true, reins := true, port := true, noc := true, rings := true, mgt := true } s (execRelocationLineCopy page err s) := by
  unfold execRelocationLineCopy
  repeat' (first
    | exact rfl
    | exact Or.inl rfl
    | exact Or.inr rfl
    | exact And.intro rfl (And.intro rfl rfl)
    | exact Or.inl ⟨rfl, rfl⟩
    | exact Or.inr (Or.inl ⟨rfl, rfl⟩)
    | exact Or.inr (Or.inl ⟨rfl, rfl, rfl, rfl⟩)
    | exact Or.inr (Or.inr rfl)
    | with_reducible assumption
    | with_reducible exact Within.refl _ _
    | (intro _ _ _ _)
    | (intro _ _ _)
    | (intro _ _)
    | (intro _)
    | with_reducible apply w_ite
    | with_reducible apply w_foldl
    | with_reducible apply w_foldl2
    | with_reducible apply wout_next
    | with_reducible exact wout_fault
    | with_reducible apply wout_ite
    | with_reducible apply Within.to (copiedLine_within ..)
    | with_reducible apply Within.to (copyLost_within ..)
    | with_reducible apply Within.to (countUncorrectable_within ..)
    | with_reducible refine Within.to (doWork_within (p := { aon := true, log := true, ev := true, sec := true, pin := true, quay := true, dram := true, mem := true, tier := true, led := true, reins := true, port := true, noc := true, rings := true, mgt := true }) (hp := rfl) (h1 := ?_) ..) rfl ?_
    | with_reducible apply Within.to (dramWrite_within ..)
    | with_reducible apply Within.to (finishOp_within ..)
    | with_reducible apply Within.to (modOp_within ..)
    | with_reducible apply Within.to (noteCheck_within ..)
    | with_reducible apply Within.to (noteTransient_within ..)
    | with_reducible apply Within.to (readNow_within ..)
    | with_reducible apply Within.to (settle_within ..)
    | with_reducible apply w_ite_snd
    | dsimp only
    | split)

theorem endCmd_within (ring idx : Nat) (status : BitVec 6) (detail : BitVec 8) (result : BitVec 64) (s : State) : Within { rings := true } s (endCmd ring idx status detail result s) := by
  unfold endCmd
  repeat' (first
    | exact rfl
    | exact Or.inl rfl
    | exact Or.inr rfl
    | exact And.intro rfl (And.intro rfl rfl)
    | exact Or.inl ⟨rfl, rfl⟩
    | exact Or.inr (Or.inl ⟨rfl, rfl⟩)
    | exact Or.inr (Or.inl ⟨rfl, rfl, rfl, rfl⟩)
    | exact Or.inr (Or.inr rfl)
    | with_reducible assumption
    | with_reducible exact Within.refl _ _
    | (intro _ _ _ _)
    | (intro _ _ _)
    | (intro _ _)
    | (intro _)
    | with_reducible apply w_ite
    | with_reducible apply w_foldl
    | with_reducible apply w_foldl2
    | with_reducible apply w_ite_snd
    | dsimp only
    | split
    | with_reducible refine w_rings ?_ ?_)

theorem setEngine_within (n : Nat) (e : Rekey) (s : State) : Within { led := true } s (setEngine n e s) := by
  unfold setEngine
  repeat' (first
    | exact rfl
    | exact Or.inl rfl
    | exact Or.inr rfl
    | exact And.intro rfl (And.intro rfl rfl)
    | exact Or.inl ⟨rfl, rfl⟩
    | exact Or.inr (Or.inl ⟨rfl, rfl⟩)
    | exact Or.inr (Or.inl ⟨rfl, rfl, rfl, rfl⟩)
    | exact Or.inr (Or.inr rfl)
    | with_reducible assumption
    | with_reducible exact Within.refl _ _
    | (intro _ _ _ _)
    | (intro _ _ _)
    | (intro _ _)
    | (intro _)
    | with_reducible apply w_ite
    | with_reducible apply w_foldl
    | with_reducible apply w_foldl2
    | with_reducible apply w_ite_snd
    | dsimp only
    | split
    | with_reducible refine w_led ?_ ?_)

theorem rekeyAdvance_within (n : Nat) (s : State) : Within { log := true, ev := true, quay := true, dram := true, led := true, reins := true, rings := true, mgt := true } s (rekeyAdvance n s) := by
  unfold rekeyAdvance
  repeat' (first
    | exact rfl
    | exact Or.inl rfl
    | exact Or.inr rfl
    | exact And.intro rfl (And.intro rfl rfl)
    | exact Or.inl ⟨rfl, rfl⟩
    | exact Or.inr (Or.inl ⟨rfl, rfl⟩)
    | exact Or.inr (Or.inl ⟨rfl, rfl, rfl, rfl⟩)
    | exact Or.inr (Or.inr rfl)
    | with_reducible assumption
    | with_reducible exact Within.refl _ _
    | (intro _ _ _ _)
    | (intro _ _ _)
    | (intro _ _)
    | (intro _)
    | with_reducible apply w_ite
    | with_reducible apply w_foldl
    | with_reducible apply w_foldl2
    | with_reducible apply Within.to (addRec_within ..)
    | with_reducible apply Within.to (endCmd_within ..)
    | with_reducible apply Within.to (logIt_within ..)
    | with_reducible apply Within.to (setEngine_within ..)
    | with_reducible apply Within.to (setKeyEntry_within ..)
    | with_reducible apply w_ite_snd
    | dsimp only
    | split)

theorem rekeyCount_within (n : Nat) (s : State) : Within { log := true, ev := true, quay := true, dram := true, led := true, reins := true, rings := true, mgt := true } s (rekeyCount n s) := by
  unfold rekeyCount
  repeat' (first
    | exact rfl
    | exact Or.inl rfl
    | exact Or.inr rfl
    | exact And.intro rfl (And.intro rfl rfl)
    | exact Or.inl ⟨rfl, rfl⟩
    | exact Or.inr (Or.inl ⟨rfl, rfl⟩)
    | exact Or.inr (Or.inl ⟨rfl, rfl, rfl, rfl⟩)
    | exact Or.inr (Or.inr rfl)
    | with_reducible assumption
    | with_reducible exact Within.refl _ _
    | (intro _ _ _ _)
    | (intro _ _ _)
    | (intro _ _)
    | (intro _)
    | with_reducible apply w_ite
    | with_reducible apply w_foldl
    | with_reducible apply w_foldl2
    | with_reducible apply Within.to (rekeyAdvance_within ..)
    | with_reducible apply Within.to (setEngine_within ..))

theorem rekeyLine_within (s : State) (page : Nat) (new : BitVec 20) (c' : BitVec 512) (j : Nat) (t : State) : Within { log := true, ev := true, dram := true, mem := true, reins := true, mgt := true } t (rekeyLine s page new c' j t) := by
  unfold rekeyLine
  repeat' (first
    | exact rfl
    | exact Or.inl rfl
    | exact Or.inr rfl
    | exact And.intro rfl (And.intro rfl rfl)
    | exact Or.inl ⟨rfl, rfl⟩
    | exact Or.inr (Or.inl ⟨rfl, rfl⟩)
    | exact Or.inr (Or.inl ⟨rfl, rfl, rfl, rfl⟩)
    | exact Or.inr (Or.inr rfl)
    | with_reducible assumption
    | with_reducible exact Within.refl _ _
    | (intro _ _ _ _)
    | (intro _ _ _)
    | (intro _ _)
    | (intro _)
    | with_reducible apply w_ite
    | with_reducible apply w_foldl
    | with_reducible apply w_foldl2
    | with_reducible apply Within.to (logIt_within ..)
    | with_reducible apply Within.to (putForm_within ..)
    | with_reducible apply w_ite_snd
    | dsimp only
    | split)

theorem rekeyLines_within (page : Nat) (new : BitVec 20) (s : State) : Within { aon := true, log := true, ev := true, sec := true, quay := true, dram := true, mem := true, reins := true, port := true, mgt := true } s (rekeyLines page new s) := by
  unfold rekeyLines
  repeat' (first
    | exact rfl
    | exact Or.inl rfl
    | exact Or.inr rfl
    | exact And.intro rfl (And.intro rfl rfl)
    | exact Or.inl ⟨rfl, rfl⟩
    | exact Or.inr (Or.inl ⟨rfl, rfl⟩)
    | exact Or.inr (Or.inl ⟨rfl, rfl, rfl, rfl⟩)
    | exact Or.inr (Or.inr rfl)
    | with_reducible assumption
    | with_reducible exact Within.refl _ _
    | (intro _ _ _ _)
    | (intro _ _ _)
    | (intro _ _)
    | (intro _)
    | with_reducible apply w_ite
    | with_reducible apply w_foldl
    | with_reducible apply w_foldl2
    | with_reducible apply Within.to (rekeyLine_within ..)
    | with_reducible apply Within.to (setCtr_within ..)
    | with_reducible apply Within.to (setDesc_within ..))

theorem rekeyBerth_within (page : Nat) (new : BitVec 20) (cls : BitVec 8) (s : State) : Within { aon := true, log := true, ev := true, sec := true, quay := true, dram := true, mem := true, reins := true, port := true, mgt := true } s (rekeyBerth page new cls s) := by
  unfold rekeyBerth
  repeat' (first
    | exact rfl
    | exact Or.inl rfl
    | exact Or.inr rfl
    | exact And.intro rfl (And.intro rfl rfl)
    | exact Or.inl ⟨rfl, rfl⟩
    | exact Or.inr (Or.inl ⟨rfl, rfl⟩)
    | exact Or.inr (Or.inl ⟨rfl, rfl, rfl, rfl⟩)
    | exact Or.inr (Or.inr rfl)
    | with_reducible assumption
    | with_reducible exact Within.refl _ _
    | (intro _ _ _ _)
    | (intro _ _ _)
    | (intro _ _)
    | (intro _)
    | with_reducible apply w_ite
    | with_reducible apply w_foldl
    | with_reducible apply w_foldl2
    | with_reducible refine Within.to (doWork_within (p := { aon := true, log := true, ev := true, sec := true, quay := true, dram := true, mem := true, reins := true, port := true, mgt := true }) (hp := rfl) (h1 := ?_) ..) rfl ?_
    | with_reducible apply Within.to (readPage_within ..)
    | with_reducible apply Within.to (rekeyLines_within ..))

theorem rekeyWarm_within (engine page : Nat) (s : State) : WO { aon := true, log := true, ev := true, sec := true, quay := true, dram := true, mem := true, tier := true, led := true, reins := true, port := true, rings := true, mgt := true } s (rekeyWarm engine page s) := by
  unfold rekeyWarm
  repeat' (first
    | exact rfl
    | exact Or.inl rfl
    | exact Or.inr rfl
    | exact And.intro rfl (And.intro rfl rfl)
    | exact Or.inl ⟨rfl, rfl⟩
    | exact Or.inr (Or.inl ⟨rfl, rfl⟩)
    | exact Or.inr (Or.inl ⟨rfl, rfl, rfl, rfl⟩)
    | exact Or.inr (Or.inr rfl)
    | with_reducible assumption
    | with_reducible exact Within.refl _ _
    | (intro _ _ _ _)
    | (intro _ _ _)
    | (intro _ _)
    | (intro _)
    | with_reducible apply w_ite
    | with_reducible apply w_foldl
    | with_reducible apply w_foldl2
    | with_reducible exact wo_none
    | with_reducible exact wo2_none
    | with_reducible refine wo2_eq (by assumption) ?_
    | with_reducible refine wo_eq (by assumption) ?_
    | with_reducible refine wo2_map ?_ ?_
    | with_reducible refine wo2_mapAny ?_
    | with_reducible refine wo_map2 ?_ ?_
    | with_reducible refine wo_mapS ?_ ?_
    | with_reducible refine wo_map ?_
    | with_reducible apply wo_findSome
    | (intro _)
    | with_reducible apply wo_some
    | with_reducible apply wo2_some
    | with_reducible apply wo_ite
    | with_reducible apply wo2_ite
    | with_reducible refine Within.to (doWork_within (p := { aon := true, log := true, ev := true, sec := true, quay := true, dram := true, mem := true, tier := true, led := true, reins := true, port := true, rings := true, mgt := true }) (hp := rfl) (h1 := ?_) ..) rfl ?_
    | with_reducible apply Within.to (fillRun_within ..)
    | with_reducible apply wo2_to (granFrame_within ..)
    | with_reducible apply Within.to (placeRun_within ..)
    | with_reducible apply Within.to (readGranules_within ..)
    | with_reducible apply Within.to (rekeyAdvance_within ..)
    | with_reducible apply Within.to (rekeyCount_within ..)
    | with_reducible apply Within.to (retireRun_within ..)
    | with_reducible apply Within.to (runFailBurn_within ..)
    | with_reducible apply Within.to (setDesc_within ..)
    | with_reducible apply w_ite_snd
    | with_reducible refine w_snd (by assumption) ?_
    | with_reducible refine w_of_some2 (by assumption) ?_
    | dsimp only
    | split)

theorem rekeyCold_within (engine page : Nat) (s : State) : WO { aon := true, log := true, ev := true, sec := true, quay := true, dram := true, mem := true, tier := true, led := true, reins := true, port := true, noc := true, rings := true, mgt := true } s (rekeyCold engine page s) := by
  unfold rekeyCold
  repeat' (first
    | exact rfl
    | exact Or.inl rfl
    | exact Or.inr rfl
    | exact And.intro rfl (And.intro rfl rfl)
    | exact Or.inl ⟨rfl, rfl⟩
    | exact Or.inr (Or.inl ⟨rfl, rfl⟩)
    | exact Or.inr (Or.inl ⟨rfl, rfl, rfl, rfl⟩)
    | exact Or.inr (Or.inr rfl)
    | with_reducible assumption
    | with_reducible exact Within.refl _ _
    | (intro _ _ _ _)
    | (intro _ _ _)
    | (intro _ _)
    | (intro _)
    | with_reducible apply w_ite
    | with_reducible apply w_foldl
    | with_reducible apply w_foldl2
    | with_reducible exact wo_none
    | with_reducible exact wo2_none
    | with_reducible refine wo2_eq (by assumption) ?_
    | with_reducible refine wo_eq (by assumption) ?_
    | with_reducible refine wo2_map ?_ ?_
    | with_reducible refine wo2_mapAny ?_
    | with_reducible refine wo_map2 ?_ ?_
    | with_reducible refine wo_mapS ?_ ?_
    | with_reducible refine wo_map ?_
    | with_reducible apply wo_findSome
    | (intro _)
    | with_reducible apply wo_some
    | with_reducible apply wo2_some
    | with_reducible apply wo_ite
    | with_reducible apply wo2_ite
    | with_reducible apply Within.to (appendImage_within ..)
    | with_reducible apply Within.to (countXfer_within ..)
    | with_reducible apply Within.to (faultFail_within ..)
    | with_reducible apply Within.to (modDesc_within ..)
    | with_reducible apply Within.to (refreshPA_within ..)
    | with_reducible apply Within.to (rekeyCount_within ..)
    | with_reducible apply wo2_to (segmentFor_within ..)
    | with_reducible apply Within.to (setOps_within ..)
    | with_reducible apply Within.to (settle_within ..)
    | with_reducible apply w_ite_snd
    | with_reducible refine w_of_some2 (by assumption) ?_
    | dsimp only
    | split)

theorem execRekeyPageConversion_within (engine : Nat) (s : State) : WOut { aon := true, log := true, ev := true, sec := true, quay := true, dram := true, mem := true, tier := true, led := true, reins := true, port := true, noc := true, rings := true, mgt := true } s (execRekeyPageConversion engine s) := by
  unfold execRekeyPageConversion
  repeat' (first
    | exact rfl
    | exact Or.inl rfl
    | exact Or.inr rfl
    | exact And.intro rfl (And.intro rfl rfl)
    | exact Or.inl ⟨rfl, rfl⟩
    | exact Or.inr (Or.inl ⟨rfl, rfl⟩)
    | exact Or.inr (Or.inl ⟨rfl, rfl, rfl, rfl⟩)
    | exact Or.inr (Or.inr rfl)
    | with_reducible assumption
    | with_reducible exact Within.refl _ _
    | (intro _ _ _ _)
    | (intro _ _ _)
    | (intro _ _)
    | (intro _)
    | with_reducible apply w_ite
    | with_reducible apply w_foldl
    | with_reducible apply w_foldl2
    | with_reducible exact wo_none
    | with_reducible exact wo2_none
    | with_reducible refine wo2_eq (by assumption) ?_
    | with_reducible refine wo_eq (by assumption) ?_
    | with_reducible refine wo2_map ?_ ?_
    | with_reducible refine wo2_mapAny ?_
    | with_reducible refine wo_map2 ?_ ?_
    | with_reducible refine wo_mapS ?_ ?_
    | with_reducible refine wo_map ?_
    | with_reducible apply wo_findSome
    | (intro _)
    | with_reducible apply wo_some
    | with_reducible apply wo2_some
    | with_reducible apply wo_ite
    | with_reducible apply wo2_ite
    | with_reducible apply wout_next
    | with_reducible exact wout_fault
    | with_reducible apply wout_ite
    | with_reducible apply Within.to (rekeyAdvance_within ..)
    | with_reducible apply Within.to (rekeyBerth_within ..)
    | with_reducible apply wo_to (rekeyCold_within ..)
    | with_reducible apply Within.to (rekeyCount_within ..)
    | with_reducible apply wo_to (rekeyWarm_within ..)
    | with_reducible apply Within.to (setDesc_within ..)
    | with_reducible apply Within.to (settle_within ..)
    | with_reducible apply w_ite_snd
    | with_reducible refine w_of_some (by assumption) ?_
    | with_reducible apply w_getD
    | with_reducible apply wo_to (rekeyCold_within ..)
    | dsimp only
    | split)

end Sys2Proof.Laws
end

