-- ==== Sys2Proof/Laws/WDramChannel.lean ====
section
/-! SUPPORT. What each operation of Machine/DramChannel.lean may change. -/

namespace Sys2Proof.Laws

open Sys2Proof Sys2Proof.Machine

theorem activate_within (c bank row : Nat) (s : State) : Within { ev := true, dram := true, mgt := true } s (activate c bank row s) := by
  unfold activate
  repeat' (first
    | exact rfl
    | exact Or.inl rfl
    | exact Or.inr rfl
    | exact And.intro rfl (And.intro rfl rfl)
    | exact Or.inl ⟨rfl, rfl⟩
    | exact Or.inr (Or.inl ⟨rfl, rfl⟩)
    | exact Or.inr (Or.inl ⟨rfl, rfl, rfl, rfl⟩)
    | exact Or.inr (Or.inr rfl)
    | with_reducible assumption
    | with_reducible exact Within.refl _ _
    | (intro _ _ _ _)
    | (intro _ _ _)
    | (intro _ _)
    | (intro _)
    | with_reducible apply w_ite
    | with_reducible apply w_foldl
    | with_reducible apply w_foldl2
    | with_reducible apply Within.to (evDch_within ..)
    | with_reducible apply Within.to (modChan_within ..))

theorem issueRfm_within (c bank : Nat) (s : State) : Within { ev := true, dram := true, mgt := true } s (issueRfm c bank s) := by
  unfold issueRfm
  repeat' (first
    | exact rfl
    | exact Or.inl rfl
    | exact Or.inr rfl
    | exact And.intro rfl (And.intro rfl rfl)
    | exact Or.inl ⟨rfl, rfl⟩
    | exact Or.inr (Or.inl ⟨rfl, rfl⟩)
    | exact Or.inr (Or.inl ⟨rfl, rfl, rfl, rfl⟩)
    | exact Or.inr (Or.inr rfl)
    | with_reducible assumption
    | with_reducible exact Within.refl _ _
    | (intro _ _ _ _)
    | (intro _ _ _)
    | (intro _ _)
    | (intro _)
    | with_reducible apply w_ite
    | with_reducible apply w_foldl
    | with_reducible apply w_foldl2
    | with_reducible apply Within.to (evDch_within ..)
    | with_reducible apply Within.to (modChan_within ..))

theorem issueRefresh_within (c key n : Nat) (s : State) : Within { ev := true, dram := true, mgt := true } s (issueRefresh c key n s) := by
  unfold issueRefresh
  repeat' (first
    | exact rfl
    | exact Or.inl rfl
    | exact Or.inr rfl
    | exact And.intro rfl (And.intro rfl rfl)
    | exact Or.inl ⟨rfl, rfl⟩
    | exact Or.inr (Or.inl ⟨rfl, rfl⟩)
    | exact Or.inr (Or.inl ⟨rfl, rfl, rfl, rfl⟩)
    | exact Or.inr (Or.inr rfl)
    | with_reducible assumption
    | with_reducible exact Within.refl _ _
    | (intro _ _ _ _)
    | (intro _ _ _)
    | (intro _ _)
    | (intro _)
    | with_reducible apply w_ite
    | with_reducible apply w_foldl
    | with_reducible apply w_foldl2
    | with_reducible apply Within.to (evAdd_within ..)
    | with_reducible apply Within.to (modChan_within ..))

theorem execRefreshDue_within (ch : Nat) (sub : Bool) (rank cid ba : Nat) (s : State) : WOut { ev := true, dram := true, mgt := true } s (execRefreshDue ch sub rank cid ba s) := by
  unfold execRefreshDue
  repeat' (first
    | exact rfl
    | exact Or.inl rfl
    | exact Or.inr rfl
    | exact And.intro rfl (And.intro rfl rfl)
    | exact Or.inl ⟨rfl, rfl⟩
    | exact Or.inr (Or.inl ⟨rfl, rfl⟩)
    | exact Or.inr (Or.inl ⟨rfl, rfl, rfl, rfl⟩)
    | exact Or.inr (Or.inr rfl)
    | with_reducible assumption
    | with_reducible exact Within.refl _ _
    | (intro _ _ _ _)
    | (intro _ _ _)
    | (intro _ _)
    | (intro _)
    | with_reducible apply w_ite
    | with_reducible apply w_foldl
    | with_reducible apply w_foldl2
    | with_reducible apply wout_next
    | with_reducible exact wout_fault
    | with_reducible apply wout_ite
    | with_reducible apply Within.to (issueRefresh_within ..)
    | with_reducible apply Within.to (modChan_within ..))

theorem execRdWindowStart_within (s : State) : WOut { dram := true } s (execRdWindowStart s) := by
  unfold execRdWindowStart
  repeat' (first
    | exact rfl
    | exact Or.inl rfl
    | exact Or.inr rfl
    | exact And.intro rfl (And.intro rfl rfl)
    | exact Or.inl ⟨rfl, rfl⟩
    | exact Or.inr (Or.inl ⟨rfl, rfl⟩)
    | exact Or.inr (Or.inl ⟨rfl, rfl, rfl, rfl⟩)
    | exact Or.inr (Or.inr rfl)
    | with_reducible assumption
    | with_reducible exact Within.refl _ _
    | (intro _ _ _ _)
    | (intro _ _ _)
    | (intro _ _)
    | (intro _)
    | with_reducible apply w_ite
    | with_reducible apply w_foldl
    | with_reducible apply w_foldl2
    | with_reducible apply wout_next
    | with_reducible exact wout_fault
    | with_reducible apply wout_ite
    | with_reducible apply Within.to (modChan_within ..))

theorem execRdThresholdReached_within (ch bank row : Nat) (s : State) : WOut { dram := true } s (execRdThresholdReached ch bank row s) := by
  unfold execRdThresholdReached
  repeat' (first
    | exact rfl
    | exact Or.inl rfl
    | exact Or.inr rfl
    | exact And.intro rfl (And.intro rfl rfl)
    | exact Or.inl ⟨rfl, rfl⟩
    | exact Or.inr (Or.inl ⟨rfl, rfl⟩)
    | exact Or.inr (Or.inl ⟨rfl, rfl, rfl, rfl⟩)
    | exact Or.inr (Or.inr rfl)
    | with_reducible assumption
    | with_reducible exact Within.refl _ _
    | (intro _ _ _ _)
    | (intro _ _ _)
    | (intro _ _)
    | (intro _)
    | with_reducible apply w_ite
    | with_reducible apply w_foldl
    | with_reducible apply w_foldl2
    | with_reducible apply wout_next
    | with_reducible exact wout_fault
    | with_reducible apply wout_ite
    | with_reducible apply Within.to (modChan_within ..))

theorem mitigate_within (c bank row : Nat) (s : State) : Within { ev := true, dram := true, mgt := true } s (mitigate c bank row s) := by
  unfold mitigate
  repeat' (first
    | exact rfl
    | exact Or.inl rfl
    | exact Or.inr rfl
    | exact And.intro rfl (And.intro rfl rfl)
    | exact Or.inl ⟨rfl, rfl⟩
    | exact Or.inr (Or.inl ⟨rfl, rfl⟩)
    | exact Or.inr (Or.inl ⟨rfl, rfl, rfl, rfl⟩)
    | exact Or.inr (Or.inr rfl)
    | with_reducible assumption
    | with_reducible exact Within.refl _ _
    | (intro _ _ _ _)
    | (intro _ _ _)
    | (intro _ _)
    | (intro _)
    | with_reducible apply w_ite
    | with_reducible apply w_foldl
    | with_reducible apply w_foldl2
    | with_reducible apply Within.to (activate_within ..)
    | with_reducible apply Within.to (evDch_within ..)
    | with_reducible apply Within.to (modChan_within ..))

theorem execWriteDrainEntry_within (ch : Nat) (s : State) : WOut { ev := true, dram := true, mgt := true } s (execWriteDrainEntry ch s) := by
  unfold execWriteDrainEntry
  repeat' (first
    | exact rfl
    | exact Or.inl rfl
    | exact Or.inr rfl
    | exact And.intro rfl (And.intro rfl rfl)
    | exact Or.inl ⟨rfl, rfl⟩
    | exact Or.inr (Or.inl ⟨rfl, rfl⟩)
    | exact Or.inr (Or.inl ⟨rfl, rfl, rfl, rfl⟩)
    | exact Or.inr (Or.inr rfl)
    | with_reducible assumption
    | with_reducible exact Within.refl _ _
    | (intro _ _ _ _)
    | (intro _ _ _)
    | (intro _ _)
    | (intro _)
    | with_reducible apply w_ite
    | with_reducible apply w_foldl
    | with_reducible apply w_foldl2
    | with_reducible apply wout_next
    | with_reducible exact wout_fault
    | with_reducible apply wout_ite
    | with_reducible apply Within.to (evDch_within ..)
    | with_reducible apply Within.to (setChan_within ..))

theorem execWriteDrainExit_within (ch : Nat) (s : State) : WOut { dram := true } s (execWriteDrainExit ch s) := by
  unfold execWriteDrainExit
  repeat' (first
    | exact rfl
    | exact Or.inl rfl
    | exact Or.inr rfl
    | exact And.intro rfl (And.intro rfl rfl)
    | exact Or.inl ⟨rfl, rfl⟩
    | exact Or.inr (Or.inl ⟨rfl, rfl⟩)
    | exact Or.inr (Or.inl ⟨rfl, rfl, rfl, rfl⟩)
    | exact Or.inr (Or.inr rfl)
    | with_reducible assumption
    | with_reducible exact Within.refl _ _
    | (intro _ _ _ _)
    | (intro _ _ _)
    | (intro _ _)
    | (intro _)
    | with_reducible apply w_ite
    | with_reducible apply w_foldl
    | with_reducible apply w_foldl2
    | with_reducible apply wout_next
    | with_reducible exact wout_fault
    | with_reducible apply wout_ite
    | with_reducible apply Within.to (setChan_within ..))

theorem goOffline_within (c why : Nat) (s : State) : Within { log := true, ev := true, dram := true, mgt := true } s (goOffline c why s) := by
  unfold goOffline
  repeat' (first
    | exact rfl
    | exact Or.inl rfl
    | exact Or.inr rfl
    | exact And.intro rfl (And.intro rfl rfl)
    | exact Or.inl ⟨rfl, rfl⟩
    | exact Or.inr (Or.inl ⟨rfl, rfl⟩)
    | exact Or.inr (Or.inl ⟨rfl, rfl, rfl, rfl⟩)
    | exact Or.inr (Or.inr rfl)
    | with_reducible assumption
    | with_reducible exact Within.refl _ _
    | (intro _ _ _ _)
    | (intro _ _ _)
    | (intro _ _)
    | (intro _)
    | with_reducible apply w_ite
    | with_reducible apply w_foldl
    | with_reducible apply w_foldl2
    | with_reducible apply Within.to (logIt_within ..)
    | with_reducible apply Within.to (modChan_within ..))

theorem excludeSet_within (c : Nat) (s : State) : Within { log := true, ev := true, dram := true, mgt := true } s (excludeSet c s) := by
  unfold excludeSet
  repeat' (first
    | exact rfl
    | exact Or.inl rfl
    | exact Or.inr rfl
    | exact And.intro rfl (And.intro rfl rfl)
    | exact Or.inl ⟨rfl, rfl⟩
    | exact Or.inr (Or.inl ⟨rfl, rfl⟩)
    | exact Or.inr (Or.inl ⟨rfl, rfl, rfl, rfl⟩)
    | exact Or.inr (Or.inr rfl)
    | with_reducible assumption
    | with_reducible exact Within.refl _ _
    | (intro _ _ _ _)
    | (intro _ _ _)
    | (intro _ _)
    | (intro _)
    | with_reducible apply w_ite
    | with_reducible apply w_foldl
    | with_reducible apply w_foldl2
    | with_reducible apply Within.to (logIt_within ..)
    | with_reducible apply Within.to (modChan_within ..))

theorem execThermalSensorRead_within (ch slot temp : Nat) (s : State) : WOut { log := true, ev := true, dram := true, mgt := true } s (execThermalSensorRead ch slot temp s) := by
  unfold execThermalSensorRead
  repeat' (first
    | exact rfl
    | exact Or.inl rfl
    | exact Or.inr rfl
    | exact And.intro rfl (And.intro rfl rfl)
    | exact Or.inl ⟨rfl, rfl⟩
    | exact Or.inr (Or.inl ⟨rfl, rfl⟩)
    | exact Or.inr (Or.inl ⟨rfl, rfl, rfl, rfl⟩)
    | exact Or.inr (Or.inr rfl)
    | with_reducible assumption
    | with_reducible exact Within.refl _ _
    | (intro _ _ _ _)
    | (intro _ _ _)
    | (intro _ _)
    | (intro _)
    | with_reducible apply w_ite
    | with_reducible apply w_foldl
    | with_reducible apply w_foldl2
    | with_reducible apply wout_next
    | with_reducible exact wout_fault
    | with_reducible apply wout_ite
    | with_reducible apply Within.to (logIt_within ..)
    | with_reducible apply Within.to (setChan_within ..))

theorem execPmicStatusRead_within (ch slot : Nat) (fault : Bool) (s : State) : WOut { aon := true, log := true, ev := true, sec := true, quay := true, dram := true, mem := true, tier := true, led := true, reins := true, port := true, noc := true, rings := true, mgt := true } s (execPmicStatusRead ch slot fault s) := by
  unfold execPmicStatusRead
  repeat' (first
    | exact rfl
    | exact Or.inl rfl
    | exact Or.inr rfl
    | exact And.intro rfl (And.intro rfl rfl)
    | exact Or.inl ⟨rfl, rfl⟩
    | exact Or.inr (Or.inl ⟨rfl, rfl⟩)
    | exact Or.inr (Or.inl ⟨rfl, rfl, rfl, rfl⟩)
    | exact Or.inr (Or.inr rfl)
    | with_reducible assumption
    | with_reducible exact Within.refl _ _
    | (intro _ _ _ _)
    | (intro _ _ _)
    | (intro _ _)
    | (intro _)
    | with_reducible apply w_ite
    | with_reducible apply w_foldl
    | with_reducible apply w_foldl2
    | with_reducible apply wout_next
    | with_reducible exact wout_fault
    | with_reducible apply wout_ite
    | with_reducible apply Within.to (goOffline_within ..)
    | with_reducible apply Within.to (settle_within ..))

theorem execPmicInterrupt_within (ch slot : Nat) (fault : Bool) (s : State) : WOut { aon := true, log := true, ev := true, sec := true, quay := true, dram := true, mem := true, tier := true, led := true, reins := true, port := true, noc := true, rings := true, mgt := true } s (execPmicInterrupt ch slot fault s) := by
  unfold execPmicInterrupt
  repeat' (first
    | exact rfl
    | exact Or.inl rfl
    | exact Or.inr rfl
    | exact And.intro rfl (And.intro rfl rfl)
    | exact Or.inl ⟨rfl, rfl⟩
    | exact Or.inr (Or.inl ⟨rfl, rfl⟩)
    | exact Or.inr (Or.inl ⟨rfl, rfl, rfl, rfl⟩)
    | exact Or.inr (Or.inr rfl)
    | with_reducible assumption
    | with_reducible exact Within.refl _ _
    | (intro _ _ _ _)
    | (intro _ _ _)
    | (intro _ _)
    | (intro _)
    | with_reducible apply w_ite
    | with_reducible apply w_foldl
    | with_reducible apply w_foldl2
    | with_reducible apply wout_next
    | with_reducible exact wout_fault
    | with_reducible apply wout_ite
    | with_reducible apply Within.to (goOffline_within ..)
    | with_reducible apply Within.to (settle_within ..))

theorem execDimmAlert_within (ch : Nat) (sub : Bool) (rank : Nat) (ok : Bool) (s : State) : WOut { aon := true, log := true, ev := true, sec := true, quay := true, dram := true, mem := true, tier := true, led := true, reins := true, port := true, noc := true, rings := true, mgt := true } s (execDimmAlert ch sub rank ok s) := by
  unfold execDimmAlert
  repeat' (first
    | exact rfl
    | exact Or.inl rfl
    | exact Or.inr rfl
    | exact And.intro rfl (And.intro rfl rfl)
    | exact Or.inl ⟨rfl, rfl⟩
    | exact Or.inr (Or.inl ⟨rfl, rfl⟩)
    | exact Or.inr (Or.inl ⟨rfl, rfl, rfl, rfl⟩)
    | exact Or.inr (Or.inr rfl)
    | with_reducible assumption
    | with_reducible exact Within.refl _ _
    | (intro _ _ _ _)
    | (intro _ _ _)
    | (intro _ _)
    | (intro _)
    | with_reducible apply w_ite
    | with_reducible apply w_foldl
    | with_reducible apply w_foldl2
    | with_reducible apply wout_next
    | with_reducible exact wout_fault
    | with_reducible apply wout_ite
    | with_reducible apply Within.to (evDch_within ..)
    | with_reducible apply Within.to (goOffline_within ..)
    | with_reducible apply Within.to (logIt_within ..)
    | with_reducible apply Within.to (modChan_within ..)
    | with_reducible apply Within.to (settle_within ..))

theorem writeRecord_within (c : Nat) (s : State) : Within { nor := true } s (writeRecord c s) := by
  unfold writeRecord
  repeat' (first
    | exact rfl
    | exact Or.inl rfl
    | exact Or.inr rfl
    | exact And.intro rfl (And.intro rfl rfl)
    | exact Or.inl ⟨rfl, rfl⟩
    | exact Or.inr (Or.inl ⟨rfl, rfl⟩)
    | exact Or.inr (Or.inl ⟨rfl, rfl, rfl, rfl⟩)
    | exact Or.inr (Or.inr rfl)
    | with_reducible assumption
    | with_reducible exact Within.refl _ _
    | (intro _ _ _ _)
    | (intro _ _ _)
    | (intro _ _)
    | (intro _)
    | with_reducible apply w_ite
    | with_reducible apply w_foldl
    | with_reducible apply w_foldl2
    | with_reducible apply w_ite_snd
    | with_reducible refine w_snd (by assumption) ?_
    | dsimp only
    | split
    | with_reducible refine w_nor ?_ ?_)

theorem execDevMarkWinStart_within (s : State) : WOut { dram := true } s (execDevMarkWinStart s) := by
  unfold execDevMarkWinStart
  repeat' (first
    | exact rfl
    | exact Or.inl rfl
    | exact Or.inr rfl
    | exact And.intro rfl (And.intro rfl rfl)
    | exact Or.inl ⟨rfl, rfl⟩
    | exact Or.inr (Or.inl ⟨rfl, rfl⟩)
    | exact Or.inr (Or.inl ⟨rfl, rfl, rfl, rfl⟩)
    | exact Or.inr (Or.inr rfl)
    | with_reducible assumption
    | with_reducible exact Within.refl _ _
    | (intro _ _ _ _)
    | (intro _ _ _)
    | (intro _ _)
    | (intro _)
    | with_reducible apply w_ite
    | with_reducible apply w_foldl
    | with_reducible apply w_foldl2
    | with_reducible apply wout_next
    | with_reducible exact wout_fault
    | with_reducible apply wout_ite
    | with_reducible apply Within.to (modChan_within ..))

theorem execDevMarked_within (ch : Nat) (sub : Bool) (rank cid dev : Nat) (s : State) : WOut { log := true, ev := true, dram := true, mgt := true, nor := true } s (execDevMarked ch sub rank cid dev s) := by
  unfold execDevMarked
  repeat' (first
    | exact rfl
    | exact Or.inl rfl
    | exact Or.inr rfl
    | exact And.intro rfl (And.intro rfl rfl)
    | exact Or.inl ⟨rfl, rfl⟩
    | exact Or.inr (Or.inl ⟨rfl, rfl⟩)
    | exact Or.inr (Or.inl ⟨rfl, rfl, rfl, rfl⟩)
    | exact Or.inr (Or.inr rfl)
    | with_reducible assumption
    | with_reducible exact Within.refl _ _
    | (intro _ _ _ _)
    | (intro _ _ _)
    | (intro _ _)
    | (intro _)
    | with_reducible apply w_ite
    | with_reducible apply w_foldl
    | with_reducible apply w_foldl2
    | with_reducible apply wout_next
    | with_reducible exact wout_fault
    | with_reducible apply wout_ite
    | with_reducible apply Within.to (logIt_within ..)
    | with_reducible apply Within.to (modChan_within ..)
    | with_reducible apply Within.to (writeRecord_within ..))

theorem scrubCheck_within (cls : BitVec 8) (addr : Nat) (s : State) : Within { aon := true, log := true, ev := true, sec := true, quay := true, dram := true, mem := true, tier := true, led := true, reins := true, port := true, mgt := true } s (scrubCheck cls addr s) := by
  unfold scrubCheck
  repeat' (first
    | exact rfl
    | exact Or.inl rfl
    | exact Or.inr rfl
    | exact And.intro rfl (And.intro rfl rfl)
    | exact Or.inl ⟨rfl, rfl⟩
    | exact Or.inr (Or.inl ⟨rfl, rfl⟩)
    | exact Or.inr (Or.inl ⟨rfl, rfl, rfl, rfl⟩)
    | exact Or.inr (Or.inr rfl)
    | with_reducible assumption
    | with_reducible exact Within.refl _ _
    | (intro _ _ _ _)
    | (intro _ _ _)
    | (intro _ _)
    | (intro _)
    | with_reducible apply w_ite
    | with_reducible apply w_foldl
    | with_reducible apply w_foldl2
    | with_reducible apply Within.to (baleFail_within ..)
    | with_reducible apply Within.to (correctedAs_within ..)
    | with_reducible apply Within.to (granuleLost_within ..)
    | with_reducible apply Within.to (lineUncorrectable_within ..)
    | with_reducible apply Within.to (loadCtr_within ..)
    | with_reducible apply Within.to (noteCheck_within ..)
    | with_reducible apply Within.to (readNow_within ..)
    | with_reducible apply Within.to (structRead_within ..)
    | with_reducible apply Within.to (useCtx_within ..)
    | with_reducible apply w_ite_snd
    | with_reducible refine w_snd (by assumption) ?_
    | dsimp only
    | split)

theorem scrubLine_within (ch addr : Nat) (s : State) : Within { aon := true, log := true, ev := true, sec := true, quay := true, dram := true, mem := true, tier := true, led := true, reins := true, port := true, noc := true, rings := true, mgt := true } s (scrubLine ch addr s) := by
  unfold scrubLine
  refine (settle_within _).to rfl ?_
  refine (doWork_within (p := { aon := true, log := true, ev := true, sec := true, quay := true, dram := true, mem := true, tier := true, led := true, reins := true, port := true, noc := true, rings := true, mgt := true }) rfl _ _ _ (fun u => (scrubCheck_within _ _ u).mono rfl)).to rfl ?_
  refine (readNow_within _ _ _).to rfl ?_
  exact (evDch_within _ _ _).to rfl (Within.refl _ _)

theorem scrubNext_within (ch : Nat) (behind : Bool) (s : State) : Within { aon := true, log := true, ev := true, sec := true, quay := true, dram := true, mem := true, tier := true, led := true, reins := true, port := true, noc := true, rings := true, mgt := true } s (scrubNext ch behind s) := by
  unfold scrubNext
  repeat' (first
    | exact rfl
    | exact Or.inl rfl
    | exact Or.inr rfl
    | exact And.intro rfl (And.intro rfl rfl)
    | exact Or.inl ⟨rfl, rfl⟩
    | exact Or.inr (Or.inl ⟨rfl, rfl⟩)
    | exact Or.inr (Or.inl ⟨rfl, rfl, rfl, rfl⟩)
    | exact Or.inr (Or.inr rfl)
    | with_reducible assumption
    | with_reducible exact Within.refl _ _
    | (intro _ _ _ _)
    | (intro _ _ _)
    | (intro _ _)
    | (intro _)
    | with_reducible apply w_ite
    | with_reducible apply w_foldl
    | with_reducible apply w_foldl2
    | with_reducible apply Within.to (modChan_within ..)
    | with_reducible apply Within.to (scrubLine_within ..)
    | with_reducible apply w_ite_snd
    | dsimp only
    | split)

theorem execScrubRead_within (ch : Nat) (s : State) : WOut { aon := true, log := true, ev := true, sec := true, quay := true, dram := true, mem := true, tier := true, led := true, reins := true, port := true, noc := true, rings := true, mgt := true } s (execScrubRead ch s) := by
  unfold execScrubRead
  repeat' (first
    | exact rfl
    | exact Or.inl rfl
    | exact Or.inr rfl
    | exact And.intro rfl (And.intro rfl rfl)
    | exact Or.inl ⟨rfl, rfl⟩
    | exact Or.inr (Or.inl ⟨rfl, rfl⟩)
    | exact Or.inr (Or.inl ⟨rfl, rfl, rfl, rfl⟩)
    | exact Or.inr (Or.inr rfl)
    | with_reducible assumption
    | with_reducible exact Within.refl _ _
    | (intro _ _ _ _)
    | (intro _ _ _)
    | (intro _ _)
    | (intro _)
    | with_reducible apply w_ite
    | with_reducible apply w_foldl
    | with_reducible apply w_foldl2
    | with_reducible apply wout_next
    | with_reducible exact wout_fault
    | with_reducible apply wout_ite
    | with_reducible apply Within.to (logIt_within ..)
    | with_reducible apply Within.to (modChan_within ..)
    | with_reducible apply Within.to (scrubNext_within ..))

theorem enterSelfRefresh_within (c : Nat) (s : State) : Within { ev := true, sec := true, dram := true, mem := true, reins := true, mgt := true } s (enterSelfRefresh c s) := by
  unfold enterSelfRefresh
  repeat' (first
    | exact rfl
    | exact Or.inl rfl
    | exact Or.inr rfl
    | exact And.intro rfl (And.intro rfl rfl)
    | exact Or.inl ⟨rfl, rfl⟩
    | exact Or.inr (Or.inl ⟨rfl, rfl⟩)
    | exact Or.inr (Or.inl ⟨rfl, rfl, rfl, rfl⟩)
    | exact Or.inr (Or.inr rfl)
    | with_reducible assumption
    | with_reducible exact Within.refl _ _
    | (intro _ _ _ _)
    | (intro _ _ _)
    | (intro _ _)
    | (intro _)
    | with_reducible apply w_ite
    | with_reducible apply w_foldl
    | with_reducible apply w_foldl2
    | with_reducible apply Within.to (drainWrites_within ..)
    | with_reducible apply Within.to (evAdd_within ..)
    | with_reducible apply Within.to (evDch_within ..)
    | with_reducible apply Within.to (mitigate_within ..)
    | with_reducible apply Within.to (setChan_within ..)
    | with_reducible apply w_ite_snd
    | with_reducible refine w_snd (by assumption) ?_
    | dsimp only
    | split
    | with_reducible refine w_sec ?_ ?_)

theorem execSelfRefreshEntry_within (ch : Nat) (s : State) : WOut { ev := true, sec := true, dram := true, mem := true, reins := true, mgt := true } s (execSelfRefreshEntry ch s) := by
  unfold execSelfRefreshEntry
  repeat' (first
    | exact rfl
    | exact Or.inl rfl
    | exact Or.inr rfl
    | exact And.intro rfl (And.intro rfl rfl)
    | exact Or.inl ⟨rfl, rfl⟩
    | exact Or.inr (Or.inl ⟨rfl, rfl⟩)
    | exact Or.inr (Or.inl ⟨rfl, rfl, rfl, rfl⟩)
    | exact Or.inr (Or.inr rfl)
    | with_reducible assumption
    | with_reducible exact Within.refl _ _
    | (intro _ _ _ _)
    | (intro _ _ _)
    | (intro _ _)
    | (intro _)
    | with_reducible apply w_ite
    | with_reducible apply w_foldl
    | with_reducible apply w_foldl2
    | with_reducible apply wout_next
    | with_reducible exact wout_fault
    | with_reducible apply wout_ite
    | with_reducible apply Within.to (enterSelfRefresh_within ..))

theorem levelRates_within (c : Nat) (s : State) : Within { dram := true } s (levelRates c s) := by
  unfold levelRates
  repeat' (first
    | exact rfl
    | exact Or.inl rfl
    | exact Or.inr rfl
    | exact And.intro rfl (And.intro rfl rfl)
    | exact Or.inl ⟨rfl, rfl⟩
    | exact Or.inr (Or.inl ⟨rfl, rfl⟩)
    | exact Or.inr (Or.inl ⟨rfl, rfl, rfl, rfl⟩)
    | exact Or.inr (Or.inr rfl)
    | with_reducible assumption
    | with_reducible exact Within.refl _ _
    | (intro _ _ _ _)
    | (intro _ _ _)
    | (intro _ _)
    | (intro _)
    | with_reducible apply w_ite
    | with_reducible apply w_foldl
    | with_reducible apply w_foldl2
    | with_reducible apply Within.to (modChan_within ..))

theorem endTraining_within (ch : Nat) (marks : SMap (BitVec 4)) (s : State) : Within { dram := true, nor := true, free := true } s (endTraining ch marks s) := by
  unfold endTraining
  repeat' (first
    | exact rfl
    | exact Or.inl rfl
    | exact Or.inr rfl
    | exact And.intro rfl (And.intro rfl rfl)
    | exact Or.inl ⟨rfl, rfl⟩
    | exact Or.inr (Or.inl ⟨rfl, rfl⟩)
    | exact Or.inr (Or.inl ⟨rfl, rfl, rfl, rfl⟩)
    | exact Or.inr (Or.inr rfl)
    | with_reducible assumption
    | with_reducible exact Within.refl _ _
    | (intro _ _ _ _)
    | (intro _ _ _)
    | (intro _ _)
    | (intro _)
    | with_reducible apply w_ite
    | with_reducible apply w_foldl
    | with_reducible apply w_foldl2
    | with_reducible apply Within.to (draw_within ..)
    | with_reducible apply Within.to (levelRates_within ..)
    | with_reducible apply Within.to (modChan_within ..)
    | with_reducible apply Within.to (writeRecord_within ..))

theorem failTraining_within (ch : Nat) (s : State) : Within { log := true, ev := true, dram := true, mgt := true, free := true } s (failTraining ch s) := by
  unfold failTraining
  repeat' (first
    | exact rfl
    | exact Or.inl rfl
    | exact Or.inr rfl
    | exact And.intro rfl (And.intro rfl rfl)
    | exact Or.inl ⟨rfl, rfl⟩
    | exact Or.inr (Or.inl ⟨rfl, rfl⟩)
    | exact Or.inr (Or.inl ⟨rfl, rfl, rfl, rfl⟩)
    | exact Or.inr (Or.inr rfl)
    | with_reducible assumption
    | with_reducible exact Within.refl _ _
    | (intro _ _ _ _)
    | (intro _ _ _)
    | (intro _ _)
    | (intro _)
    | with_reducible apply w_ite
    | with_reducible apply w_foldl
    | with_reducible apply w_foldl2
    | with_reducible apply Within.to (draw_within ..)
    | with_reducible apply Within.to (goOffline_within ..)
    | with_reducible apply Within.to (logIt_within ..))

theorem execSelfRefreshExit_within (ch : Nat) (patternOk trainOk : Bool) (s : State) : WOut { aon := true, log := true, ev := true, sec := true, quay := true, dram := true, mem := true, tier := true, led := true, reins := true, port := true, noc := true, rings := true, mgt := true, nor := true, free := true } s (execSelfRefreshExit ch patternOk trainOk s) := by
  unfold execSelfRefreshExit
  repeat' (first
    | exact rfl
    | exact Or.inl rfl
    | exact Or.inr rfl
    | exact And.intro rfl (And.intro rfl rfl)
    | exact Or.inl ⟨rfl, rfl⟩
    | exact Or.inr (Or.inl ⟨rfl, rfl⟩)
    | exact Or.inr (Or.inl ⟨rfl, rfl, rfl, rfl⟩)
    | exact Or.inr (Or.inr rfl)
    | with_reducible assumption
    | with_reducible exact Within.refl _ _
    | (intro _ _ _ _)
    | (intro _ _ _)
    | (intro _ _)
    | (intro _)
    | with_reducible apply w_ite
    | with_reducible apply w_foldl
    | with_reducible apply w_foldl2
    | with_reducible apply wout_next
    | with_reducible exact wout_fault
    | with_reducible apply wout_ite
    | with_reducible apply Within.to (endTraining_within ..)
    | with_reducible apply Within.to (failTraining_within ..)
    | with_reducible apply Within.to (setChan_within ..)
    | with_reducible apply Within.to (settle_within ..))

theorem execFullTraining_within (ch : Nat) (ok : Bool) (pop : Population) (s : State) : WOut { aon := true, log := true, ev := true, sec := true, quay := true, dram := true, mem := true, tier := true, led := true, reins := true, port := true, noc := true, rings := true, mgt := true, nor := true, free := true } s (execFullTraining ch ok pop s) := by
  unfold execFullTraining
  repeat' (first
    | exact rfl
    | exact Or.inl rfl
    | exact Or.inr rfl
    | exact And.intro rfl (And.intro rfl rfl)
    | exact Or.inl ⟨rfl, rfl⟩
    | exact Or.inr (Or.inl ⟨rfl, rfl⟩)
    | exact Or.inr (Or.inl ⟨rfl, rfl, rfl, rfl⟩)
    | exact Or.inr (Or.inr rfl)
    | with_reducible assumption
    | with_reducible exact Within.refl _ _
    | (intro _ _ _ _)
    | (intro _ _ _)
    | (intro _ _)
    | (intro _)
    | with_reducible apply w_ite
    | with_reducible apply w_foldl
    | with_reducible apply w_foldl2
    | with_reducible apply wout_next
    | with_reducible exact wout_fault
    | with_reducible apply wout_ite
    | with_reducible apply Within.to (endTraining_within ..)
    | with_reducible apply Within.to (excludeSet_within ..)
    | with_reducible apply Within.to (failTraining_within ..)
    | with_reducible apply Within.to (modChan_within ..)
    | with_reducible apply Within.to (settle_within ..))

theorem execCalRecordRestore_within (ch : Nat) (checksOk : Bool) (pop : Population) (s : State) : WOut { aon := true, log := true, ev := true, sec := true, quay := true, dram := true, mem := true, tier := true, led := true, reins := true, port := true, noc := true, rings := true, mgt := true } s (execCalRecordRestore ch checksOk pop s) := by
  unfold execCalRecordRestore
  repeat' (first
    | exact rfl
    | exact Or.inl rfl
    | exact Or.inr rfl
    | exact And.intro rfl (And.intro rfl rfl)
    | exact Or.inl ⟨rfl, rfl⟩
    | exact Or.inr (Or.inl ⟨rfl, rfl⟩)
    | exact Or.inr (Or.inl ⟨rfl, rfl, rfl, rfl⟩)
    | exact Or.inr (Or.inr rfl)
    | with_reducible assumption
    | with_reducible exact Within.refl _ _
    | (intro _ _ _ _)
    | (intro _ _ _)
    | (intro _ _)
    | (intro _)
    | with_reducible apply w_ite
    | with_reducible apply w_foldl
    | with_reducible apply w_foldl2
    | with_reducible apply wout_next
    | with_reducible exact wout_fault
    | with_reducible apply wout_ite
    | with_reducible apply Within.to (excludeSet_within ..)
    | with_reducible apply Within.to (levelRates_within ..)
    | with_reducible apply Within.to (modChan_within ..)
    | with_reducible apply Within.to (settle_within ..)
    | with_reducible apply w_ite_snd
    | dsimp only
    | split)

theorem columnCmd_within (n : Nat) (q : DramReq) (isWrite : Bool) (s : State) : Within { ev := true, dram := true, mem := true, reins := true, mgt := true } s (columnCmd n q isWrite s) := by
  unfold columnCmd
  repeat' (first
    | exact rfl
    | exact Or.inl rfl
    | exact Or.inr rfl
    | exact And.intro rfl (And.intro rfl rfl)
    | exact Or.inl ⟨rfl, rfl⟩
    | exact Or.inr (Or.inl ⟨rfl, rfl⟩)
    | exact Or.inr (Or.inl ⟨rfl, rfl, rfl, rfl⟩)
    | exact Or.inr (Or.inr rfl)
    | with_reducible assumption
    | with_reducible exact Within.refl _ _
    | (intro _ _ _ _)
    | (intro _ _ _)
    | (intro _ _)
    | (intro _)
    | with_reducible apply w_ite
    | with_reducible apply w_foldl
    | with_reducible apply w_foldl2
    | with_reducible apply Within.to (countUse_within ..)
    | with_reducible apply Within.to (evDch_within ..)
    | with_reducible apply Within.to (setChan_within ..)
    | with_reducible apply Within.to (storeWrite_within ..))

theorem idleClose_within (n : Nat) (sub : Bool) (s : State) : Within { dram := true } s (idleClose n sub s) := by
  unfold idleClose
  repeat' (first
    | exact rfl
    | exact Or.inl rfl
    | exact Or.inr rfl
    | exact And.intro rfl (And.intro rfl rfl)
    | exact Or.inl ⟨rfl, rfl⟩
    | exact Or.inr (Or.inl ⟨rfl, rfl⟩)
    | exact Or.inr (Or.inl ⟨rfl, rfl, rfl, rfl⟩)
    | exact Or.inr (Or.inr rfl)
    | with_reducible assumption
    | with_reducible exact Within.refl _ _
    | (intro _ _ _ _)
    | (intro _ _ _)
    | (intro _ _)
    | (intro _)
    | with_reducible apply w_ite
    | with_reducible apply w_foldl
    | with_reducible apply w_foldl2
    | with_reducible apply Within.to (modChan_within ..))

theorem rowCmd_within (n : Nat) (q : DramReq) (s : State) : Within { ev := true, dram := true, mgt := true } s (rowCmd n q s) := by
  unfold rowCmd
  repeat' (first
    | exact rfl
    | exact Or.inl rfl
    | exact Or.inr rfl
    | exact And.intro rfl (And.intro rfl rfl)
    | exact Or.inl ⟨rfl, rfl⟩
    | exact Or.inr (Or.inl ⟨rfl, rfl⟩)
    | exact Or.inr (Or.inl ⟨rfl, rfl, rfl, rfl⟩)
    | exact Or.inr (Or.inr rfl)
    | with_reducible assumption
    | with_reducible exact Within.refl _ _
    | (intro _ _ _ _)
    | (intro _ _ _)
    | (intro _ _)
    | (intro _)
    | with_reducible apply w_ite
    | with_reducible apply w_foldl
    | with_reducible apply w_foldl2
    | with_reducible apply Within.to (activate_within ..)
    | with_reducible apply Within.to (modChan_within ..)
    | with_reducible apply w_ite_snd
    | dsimp only
    | split)

theorem clockCounts_within (ch : Nat) (s : State) : Within { ev := true, mgt := true } s (clockCounts ch s) := by
  unfold clockCounts
  repeat' (first
    | exact rfl
    | exact Or.inl rfl
    | exact Or.inr rfl
    | exact And.intro rfl (And.intro rfl rfl)
    | exact Or.inl ⟨rfl, rfl⟩
    | exact Or.inr (Or.inl ⟨rfl, rfl⟩)
    | exact Or.inr (Or.inl ⟨rfl, rfl, rfl, rfl⟩)
    | exact Or.inr (Or.inr rfl)
    | with_reducible assumption
    | with_reducible exact Within.refl _ _
    | (intro _ _ _ _)
    | (intro _ _ _)
    | (intro _ _)
    | (intro _)
    | with_reducible apply w_ite
    | with_reducible apply w_foldl
    | with_reducible apply w_foldl2
    | with_reducible apply Within.to (evAdd_within ..)
    | with_reducible apply Within.to (evDch_within ..))

theorem execDramCommandSlot_within (ch : Nat) (sub : Bool) (s : State) : WOut { ev := true, dram := true, mem := true, reins := true, mgt := true } s (execDramCommandSlot ch sub s) := by
  unfold execDramCommandSlot
  repeat' (first
    | exact rfl
    | exact Or.inl rfl
    | exact Or.inr rfl
    | exact And.intro rfl (And.intro rfl rfl)
    | exact Or.inl ⟨rfl, rfl⟩
    | exact Or.inr (Or.inl ⟨rfl, rfl⟩)
    | exact Or.inr (Or.inl ⟨rfl, rfl, rfl, rfl⟩)
    | exact Or.inr (Or.inr rfl)
    | with_reducible assumption
    | with_reducible exact Within.refl _ _
    | (intro _ _ _ _)
    | (intro _ _ _)
    | (intro _ _)
    | (intro _)
    | with_reducible apply w_ite
    | with_reducible apply w_foldl
    | with_reducible apply w_foldl2
    | with_reducible apply wout_next
    | with_reducible exact wout_fault
    | with_reducible apply wout_ite
    | with_reducible apply Within.to (clockCounts_within ..)
    | with_reducible apply Within.to (columnCmd_within ..)
    | with_reducible apply Within.to (evDch_within ..)
    | with_reducible apply Within.to (idleClose_within ..)
    | with_reducible apply Within.to (issueRefresh_within ..)
    | with_reducible apply Within.to (issueRfm_within ..)
    | with_reducible apply Within.to (mitigate_within ..)
    | with_reducible apply Within.to (modChan_within ..)
    | with_reducible apply Within.to (rowCmd_within ..)
    | with_reducible apply w_ite_snd
    | dsimp only
    | split)

end Sys2Proof.Laws
end

