-- ==== Sys2Proof/Laws/WMovers.lean ====
section
/-! SUPPORT. What each operation of Machine/Movers.lean may change. -/

namespace Sys2Proof.Laws

open Sys2Proof Sys2Proof.Machine

theorem startOwn_within (op : BitVec 8) (l : Line) (cls : BitVec 8) (deadline : BitVec 12) (s : State) : Within { aon := true, log := true, ev := true, sec := true, quay := true, dram := true, mem := true, tier := true, led := true, reins := true, port := true, noc := true, rings := true, mgt := true } s (startOwn op l cls deadline s) := by
  unfold startOwn
  repeat' (first
    | exact rfl
    | exact Or.inl rfl
    | exact Or.inr rfl
    | exact And.intro rfl (And.intro rfl rfl)
    | exact Or.inl ⟨rfl, rfl⟩
    | exact Or.inr (Or.inl ⟨rfl, rfl⟩)
    | exact Or.inr (Or.inl ⟨rfl, rfl, rfl, rfl⟩)
    | exact Or.inr (Or.inr rfl)
    | with_reducible assumption
    | with_reducible exact Within.refl _ _
    | (intro _ _ _ _)
    | (intro _ _ _)
    | (intro _ _)
    | (intro _)
    | with_reducible apply w_ite
    | with_reducible apply w_foldl
    | with_reducible apply w_foldl2
    | with_reducible apply Within.to (admitReq_within ..)
    | with_reducible apply Within.to (arrive_within ..))

theorem storedWarm_within (l : Line) (cls : BitVec 8) (s : State) : Within { aon := true, log := true, ev := true, sec := true, quay := true, dram := true, mem := true, tier := true, led := true, reins := true, port := true, noc := true, mgt := true } s (storedWarm l cls s).2 := by
  unfold storedWarm
  repeat' (first
    | exact rfl
    | exact Or.inl rfl
    | exact Or.inr rfl
    | exact And.intro rfl (And.intro rfl rfl)
    | exact Or.inl ⟨rfl, rfl⟩
    | exact Or.inr (Or.inl ⟨rfl, rfl⟩)
    | exact Or.inr (Or.inl ⟨rfl, rfl, rfl, rfl⟩)
    | exact Or.inr (Or.inr rfl)
    | with_reducible assumption
    | with_reducible exact Within.refl _ _
    | (intro _ _ _ _)
    | (intro _ _ _)
    | (intro _ _)
    | (intro _)
    | with_reducible apply w_ite
    | with_reducible apply w_foldl
    | with_reducible apply w_foldl2
    | with_reducible exact wo_none
    | with_reducible exact wo2_none
    | with_reducible refine wo2_eq (by assumption) ?_
    | with_reducible refine wo_eq (by assumption) ?_
    | with_reducible refine wo2_map ?_ ?_
    | with_reducible refine wo2_mapAny ?_
    | with_reducible refine wo_map2 ?_ ?_
    | with_reducible refine wo_mapS ?_ ?_
    | with_reducible refine wo_map ?_
    | with_reducible apply wo_findSome
    | (intro _)
    | with_reducible apply wo_some
    | with_reducible apply wo2_some
    | with_reducible apply wo_ite
    | with_reducible apply wo2_ite
    | with_reducible apply Within.to (fillLine_within ..)
    | with_reducible apply wo2_to (placeTile_within ..)
    | with_reducible apply Within.to (readGranules_within ..)
    | with_reducible apply Within.to (runFail_within ..)
    | with_reducible apply Within.to (tileLine_within ..)
    | with_reducible apply w_ite_snd
    | with_reducible refine w_of_some2 (by assumption) ?_
    | dsimp only
    | split)

theorem storedNow_within (l : Line) (w : Work) (s : State) : Within { aon := true, log := true, ev := true, sec := true, quay := true, dram := true, mem := true, tier := true, led := true, reins := true, port := true, noc := true, mgt := true } s (storedNow l w s).2 := by
  unfold storedNow
  repeat' (first
    | exact rfl
    | exact Or.inl rfl
    | exact Or.inr rfl
    | exact And.intro rfl (And.intro rfl rfl)
    | exact Or.inl ⟨rfl, rfl⟩
    | exact Or.inr (Or.inl ⟨rfl, rfl⟩)
    | exact Or.inr (Or.inl ⟨rfl, rfl, rfl, rfl⟩)
    | exact Or.inr (Or.inr rfl)
    | with_reducible assumption
    | with_reducible exact Within.refl _ _
    | (intro _ _ _ _)
    | (intro _ _ _)
    | (intro _ _)
    | (intro _)
    | with_reducible apply w_ite
    | with_reducible apply w_foldl
    | with_reducible apply w_foldl2
    | with_reducible apply Within.to (evQb_within ..)
    | with_reducible apply Within.to (fillLine_within ..)
    | with_reducible apply Within.to (lineUncorrectable_within ..)
    | with_reducible apply Within.to (loadCtr_within ..)
    | with_reducible apply Within.to (logKeyGone_within ..)
    | with_reducible apply Within.to (noteCheck_within ..)
    | with_reducible apply Within.to (openFault_within ..)
    | with_reducible apply Within.to (readNow_within ..)
    | with_reducible apply Within.to (storedWarm_within ..)
    | with_reducible apply Within.to (useCtx_within ..)
    | with_reducible apply w_ite_snd
    | with_reducible refine w_snd (by assumption) ?_
    | dsimp only
    | split)

theorem readLine_within (l : Line) (cls : BitVec 8) (deadline : BitVec 12) (s : State) : Within { aon := true, log := true, ev := true, sec := true, quay := true, dram := true, mem := true, tier := true, led := true, reins := true, port := true, noc := true, rings := true, mgt := true } s (readLine l cls deadline s).2 := by
  unfold readLine
  repeat' (first
    | exact rfl
    | exact Or.inl rfl
    | exact Or.inr rfl
    | exact And.intro rfl (And.intro rfl rfl)
    | exact Or.inl ⟨rfl, rfl⟩
    | exact Or.inr (Or.inl ⟨rfl, rfl⟩)
    | exact Or.inr (Or.inl ⟨rfl, rfl, rfl, rfl⟩)
    | exact Or.inr (Or.inr rfl)
    | with_reducible assumption
    | with_reducible exact Within.refl _ _
    | (intro _ _ _ _)
    | (intro _ _ _)
    | (intro _ _)
    | (intro _)
    | with_reducible apply w_ite
    | with_reducible apply w_foldl
    | with_reducible apply w_foldl2
    | with_reducible apply Within.to (descFix_within ..)
    | with_reducible apply Within.to (dirFix_within ..)
    | with_reducible apply Within.to (evQb_within ..)
    | with_reducible apply Within.to (mergeNow_within ..)
    | with_reducible apply Within.to (startOwn_within ..)
    | with_reducible apply Within.to (storedNow_within ..)
    | with_reducible apply Within.to (touchPage_within ..)
    | with_reducible apply w_ite_snd
    | with_reducible refine w_snd (by assumption) ?_
    | dsimp only
    | split)

theorem storeReady_within (l : Line) (cls : BitVec 8) (deadline : BitVec 12) (s : State) : Within { aon := true, log := true, ev := true, sec := true, quay := true, dram := true, mem := true, tier := true, led := true, reins := true, port := true, noc := true, rings := true, mgt := true } s (storeReady l cls deadline s).2 := by
  unfold storeReady
  repeat' (first
    | exact rfl
    | exact Or.inl rfl
    | exact Or.inr rfl
    | exact And.intro rfl (And.intro rfl rfl)
    | exact Or.inl ⟨rfl, rfl⟩
    | exact Or.inr (Or.inl ⟨rfl, rfl⟩)
    | exact Or.inr (Or.inl ⟨rfl, rfl, rfl, rfl⟩)
    | exact Or.inr (Or.inr rfl)
    | with_reducible assumption
    | with_reducible exact Within.refl _ _
    | (intro _ _ _ _)
    | (intro _ _ _)
    | (intro _ _)
    | (intro _)
    | with_reducible apply w_ite
    | with_reducible apply w_foldl
    | with_reducible apply w_foldl2
    | with_reducible exact wo_none
    | with_reducible exact wo2_none
    | with_reducible refine wo2_eq (by assumption) ?_
    | with_reducible refine wo_eq (by assumption) ?_
    | with_reducible refine wo2_map ?_ ?_
    | with_reducible refine wo2_mapAny ?_
    | with_reducible refine wo_map2 ?_ ?_
    | with_reducible refine wo_mapS ?_ ?_
    | with_reducible refine wo_map ?_
    | with_reducible apply wo_findSome
    | (intro _)
    | with_reducible apply wo_some
    | with_reducible apply wo2_some
    | with_reducible apply wo_ite
    | with_reducible apply wo2_ite
    | with_reducible apply Within.to (descFix_within ..)
    | with_reducible apply Within.to (dirFix_within ..)
    | with_reducible apply wo_to (makeRoom_within ..)
    | with_reducible apply Within.to (snapFirst_within ..)
    | with_reducible apply Within.to (startOwn_within ..)
    | with_reducible apply w_ite_snd)

theorem storeLine_within (l : Line) (x : BitVec 512) (poison : Bool) (cls : BitVec 8) (s : State) : Within { aon := true, log := true, ev := true, sec := true, quay := true, dram := true, mem := true, tier := true, led := true, reins := true, port := true, noc := true, mgt := true } s (storeLine l x poison cls s).2 := by
  unfold storeLine
  repeat' (first
    | exact rfl
    | exact Or.inl rfl
    | exact Or.inr rfl
    | exact And.intro rfl (And.intro rfl rfl)
    | exact Or.inl ⟨rfl, rfl⟩
    | exact Or.inr (Or.inl ⟨rfl, rfl⟩)
    | exact Or.inr (Or.inl ⟨rfl, rfl, rfl, rfl⟩)
    | exact Or.inr (Or.inr rfl)
    | with_reducible assumption
    | with_reducible exact Within.refl _ _
    | (intro _ _ _ _)
    | (intro _ _ _)
    | (intro _ _)
    | (intro _)
    | with_reducible apply w_ite
    | with_reducible apply w_foldl
    | with_reducible apply w_foldl2
    | with_reducible apply Within.to (logIt_within ..)
    | with_reducible apply Within.to (setDir_within ..)
    | with_reducible apply Within.to (writeQuay_within ..)
    | with_reducible apply w_ite_snd
    | dsimp only
    | split)

theorem readLines_within (cls : BitVec 8) (deadline : BitVec 12) (l : List Line) (s : State) : Within { aon := true, log := true, ev := true, sec := true, quay := true, dram := true, mem := true, tier := true, led := true, reins := true, port := true, noc := true, rings := true, mgt := true } s (readLines cls deadline l s).2 := by
  induction l generalizing s with
  | nil =>
    unfold readLines
    repeat' (first
      | exact rfl
      | exact Or.inl rfl
      | exact Or.inr rfl
      | exact And.intro rfl (And.intro rfl rfl)
      | exact Or.inl ⟨rfl, rfl⟩
      | exact Or.inr (Or.inl ⟨rfl, rfl⟩)
      | exact Or.inr (Or.inl ⟨rfl, rfl, rfl, rfl⟩)
      | exact Or.inr (Or.inr rfl)
      | with_reducible assumption
      | with_reducible exact Within.refl _ _
      | (intro _ _ _ _)
      | (intro _ _ _)
      | (intro _ _)
      | (intro _)
      | with_reducible apply w_ite
      | with_reducible apply w_foldl
      | with_reducible apply w_foldl2
      | with_reducible apply Within.to (readLine_within ..)
      | with_reducible apply w_ite_snd
      | with_reducible refine w_snd (by assumption) ?_
      | with_reducible apply Within.to (ih ..)
      | dsimp only
      | split
      | with_reducible refine w_upd ?_ ?_ ?_ ?_ ?_ ?_ ?_ ?_ ?_ ?_ ?_ ?_ ?_ ?_ ?_ ?_ ?_ ?_ ?_ ?_ ?_ ?_ ?_)
  | cons x r ih =>
    unfold readLines
    repeat' (first
      | exact rfl
      | exact Or.inl rfl
      | exact Or.inr rfl
      | exact And.intro rfl (And.intro rfl rfl)
      | exact Or.inl ⟨rfl, rfl⟩
      | exact Or.inr (Or.inl ⟨rfl, rfl⟩)
      | exact Or.inr (Or.inl ⟨rfl, rfl, rfl, rfl⟩)
      | exact Or.inr (Or.inr rfl)
      | with_reducible assumption
      | with_reducible exact Within.refl _ _
      | (intro _ _ _ _)
      | (intro _ _ _)
      | (intro _ _)
      | (intro _)
      | with_reducible apply w_ite
      | with_reducible apply w_foldl
      | with_reducible apply w_foldl2
      | with_reducible apply Within.to (readLine_within ..)
      | with_reducible apply w_ite_snd
      | with_reducible refine w_snd (by assumption) ?_
      | with_reducible apply Within.to (ih ..)
      | dsimp only
      | split
      | with_reducible refine w_upd ?_ ?_ ?_ ?_ ?_ ?_ ?_ ?_ ?_ ?_ ?_ ?_ ?_ ?_ ?_ ?_ ?_ ?_ ?_ ?_ ?_ ?_ ?_)

theorem storesReady_within (cls : BitVec 8) (deadline : BitVec 12) (l : List Line) (s : State) : Within { aon := true, log := true, ev := true, sec := true, quay := true, dram := true, mem := true, tier := true, led := true, reins := true, port := true, noc := true, rings := true, mgt := true } s (storesReady cls deadline l s).2 := by
  induction l generalizing s with
  | nil =>
    unfold storesReady
    repeat' (first
      | exact rfl
      | exact Or.inl rfl
      | exact Or.inr rfl
      | exact And.intro rfl (And.intro rfl rfl)
      | exact Or.inl ⟨rfl, rfl⟩
      | exact Or.inr (Or.inl ⟨rfl, rfl⟩)
      | exact Or.inr (Or.inl ⟨rfl, rfl, rfl, rfl⟩)
      | exact Or.inr (Or.inr rfl)
      | with_reducible assumption
      | with_reducible exact Within.refl _ _
      | (intro _ _ _ _)
      | (intro _ _ _)
      | (intro _ _)
      | (intro _)
      | with_reducible apply w_ite
      | with_reducible apply w_foldl
      | with_reducible apply w_foldl2
      | with_reducible apply Within.to (storeReady_within ..)
      | with_reducible apply w_ite_snd
      | with_reducible refine w_snd (by assumption) ?_
      | with_reducible apply Within.to (ih ..)
      | dsimp only
      | split
      | with_reducible refine w_upd ?_ ?_ ?_ ?_ ?_ ?_ ?_ ?_ ?_ ?_ ?_ ?_ ?_ ?_ ?_ ?_ ?_ ?_ ?_ ?_ ?_ ?_ ?_)
  | cons x r ih =>
    unfold storesReady
    repeat' (first
      | exact rfl
      | exact Or.inl rfl
      | exact Or.inr rfl
      | exact And.intro rfl (And.intro rfl rfl)
      | exact Or.inl ⟨rfl, rfl⟩
      | exact Or.inr (Or.inl ⟨rfl, rfl⟩)
      | exact Or.inr (Or.inl ⟨rfl, rfl, rfl, rfl⟩)
      | exact Or.inr (Or.inr rfl)
      | with_reducible assumption
      | with_reducible exact Within.refl _ _
      | (intro _ _ _ _)
      | (intro _ _ _)
      | (intro _ _)
      | (intro _)
      | with_reducible apply w_ite
      | with_reducible apply w_foldl
      | with_reducible apply w_foldl2
      | with_reducible apply Within.to (storeReady_within ..)
      | with_reducible apply w_ite_snd
      | with_reducible refine w_snd (by assumption) ?_
      | with_reducible apply Within.to (ih ..)
      | dsimp only
      | split
      | with_reducible refine w_upd ?_ ?_ ?_ ?_ ?_ ?_ ?_ ?_ ?_ ?_ ?_ ?_ ?_ ?_ ?_ ?_ ?_ ?_ ?_ ?_ ?_ ?_ ?_)

theorem storeLines_within (cls : BitVec 8) (i : Nat) (l : List (Line × Got)) (s : State) : Within { aon := true, log := true, ev := true, sec := true, quay := true, dram := true, mem := true, tier := true, led := true, reins := true, port := true, noc := true, mgt := true } s (storeLines cls i l s).2 := by
  induction l generalizing i s with
  | nil =>
    unfold storeLines
    repeat' (first
      | exact rfl
      | exact Or.inl rfl
      | exact Or.inr rfl
      | exact And.intro rfl (And.intro rfl rfl)
      | exact Or.inl ⟨rfl, rfl⟩
      | exact Or.inr (Or.inl ⟨rfl, rfl⟩)
      | exact Or.inr (Or.inl ⟨rfl, rfl, rfl, rfl⟩)
      | exact Or.inr (Or.inr rfl)
      | with_reducible assumption
      | with_reducible exact Within.refl _ _
      | (intro _ _ _ _)
      | (intro _ _ _)
      | (intro _ _)
      | (intro _)
      | with_reducible apply w_ite
      | with_reducible apply w_foldl
      | with_reducible apply w_foldl2
      | with_reducible apply Within.to (storeLine_within ..)
      | with_reducible apply w_ite_snd
      | with_reducible refine w_snd (by assumption) ?_
      | with_reducible apply Within.to (ih ..)
      | dsimp only
      | split
      | with_reducible refine w_upd ?_ ?_ ?_ ?_ ?_ ?_ ?_ ?_ ?_ ?_ ?_ ?_ ?_ ?_ ?_ ?_ ?_ ?_ ?_ ?_ ?_ ?_ ?_)
  | cons x r ih =>
    unfold storeLines
    repeat' (first
      | exact rfl
      | exact Or.inl rfl
      | exact Or.inr rfl
      | exact And.intro rfl (And.intro rfl rfl)
      | exact Or.inl ⟨rfl, rfl⟩
      | exact Or.inr (Or.inl ⟨rfl, rfl⟩)
      | exact Or.inr (Or.inl ⟨rfl, rfl, rfl, rfl⟩)
      | exact Or.inr (Or.inr rfl)
      | with_reducible assumption
      | with_reducible exact Within.refl _ _
      | (intro _ _ _ _)
      | (intro _ _ _)
      | (intro _ _)
      | (intro _)
      | with_reducible apply w_ite
      | with_reducible apply w_foldl
      | with_reducible apply w_foldl2
      | with_reducible apply Within.to (storeLine_within ..)
      | with_reducible apply w_ite_snd
      | with_reducible refine w_snd (by assumption) ?_
      | with_reducible apply Within.to (ih ..)
      | dsimp only
      | split
      | with_reducible refine w_upd ?_ ?_ ?_ ?_ ?_ ?_ ?_ ?_ ?_ ?_ ?_ ?_ ?_ ?_ ?_ ?_ ?_ ?_ ?_ ?_ ?_ ?_ ?_)

theorem zeroPage_within (page : Nat) (cls : BitVec 8) (deadline : BitVec 12) (s : State) : Within { aon := true, log := true, ev := true, sec := true, quay := true, dram := true, mem := true, tier := true, led := true, reins := true, port := true, noc := true, rings := true, mgt := true } s (zeroPage page cls deadline s).2 := by
  unfold zeroPage
  repeat' (first
    | exact rfl
    | exact Or.inl rfl
    | exact Or.inr rfl
    | exact And.intro rfl (And.intro rfl rfl)
    | exact Or.inl ⟨rfl, rfl⟩
    | exact Or.inr (Or.inl ⟨rfl, rfl⟩)
    | exact Or.inr (Or.inl ⟨rfl, rfl, rfl, rfl⟩)
    | exact Or.inr (Or.inr rfl)
    | with_reducible assumption
    | with_reducible exact Within.refl _ _
    | (intro _ _ _ _)
    | (intro _ _ _)
    | (intro _ _)
    | (intro _)
    | with_reducible apply w_ite
    | with_reducible apply w_foldl
    | with_reducible apply w_foldl2
    | with_reducible apply Within.to (descFix_within ..)
    | with_reducible apply Within.to (dirFix_within ..)
    | with_reducible apply Within.to (dropLine_within ..)
    | with_reducible apply Within.to (freeStorage_within ..)
    | with_reducible apply Within.to (joinDirty_within ..)
    | with_reducible apply Within.to (setDesc_within ..)
    | with_reducible apply Within.to (setDir_within ..)
    | with_reducible apply Within.to (snapFirst_within ..)
    | with_reducible apply Within.to (staleSegs_within ..)
    | with_reducible apply Within.to (startOwn_within ..)
    | with_reducible apply w_ite_snd
    | with_reducible refine w_snd (by assumption) ?_
    | dsimp only
    | split
    | with_reducible refine w_quay ?_ ?_
    | with_reducible refine w_led ?_ ?_)

theorem bringHot_within (cls : BitVec 8) (page : Nat) (s : State) : Within { aon := true, log := true, ev := true, sec := true, pin := true, quay := true, dram := true, mem := true, tier := true, reins := true, port := true, mgt := true } s (bringHot cls page s) := by
  unfold bringHot
  repeat' (first
    | exact rfl
    | exact Or.inl rfl
    | exact Or.inr rfl
    | exact And.intro rfl (And.intro rfl rfl)
    | exact Or.inl ⟨rfl, rfl⟩
    | exact Or.inr (Or.inl ⟨rfl, rfl⟩)
    | exact Or.inr (Or.inl ⟨rfl, rfl, rfl, rfl⟩)
    | exact Or.inr (Or.inr rfl)
    | with_reducible assumption
    | with_reducible exact Within.refl _ _
    | (intro _ _ _ _)
    | (intro _ _ _)
    | (intro _ _)
    | (intro _)
    | with_reducible apply w_ite
    | with_reducible apply w_foldl
    | with_reducible apply w_foldl2
    | with_reducible exact wo_none
    | with_reducible exact wo2_none
    | with_reducible refine wo2_eq (by assumption) ?_
    | with_reducible refine wo_eq (by assumption) ?_
    | with_reducible refine wo2_map ?_ ?_
    | with_reducible refine wo2_mapAny ?_
    | with_reducible refine wo_map2 ?_ ?_
    | with_reducible refine wo_mapS ?_ ?_
    | with_reducible refine wo_map ?_
    | with_reducible apply wo_findSome
    | (intro _)
    | with_reducible apply wo_some
    | with_reducible apply wo2_some
    | with_reducible apply wo_ite
    | with_reducible apply wo2_ite
    | with_reducible apply wo2_to (allocFrame_within ..)
    | with_reducible apply Within.to (descFix_within ..)
    | with_reducible refine Within.to (doWork_within (p := { aon := true, log := true, ev := true, sec := true, pin := true, quay := true, dram := true, mem := true, tier := true, reins := true, port := true, mgt := true }) (hp := rfl) (h1 := ?_) ..) rfl ?_
    | with_reducible apply Within.to (fillBerth_within ..)
    | with_reducible apply Within.to (modOp_within ..)
    | with_reducible apply Within.to (openFault_within ..)
    | with_reducible apply Within.to (setDesc_within ..)
    | with_reducible apply Within.to (setFrame_within ..)
    | with_reducible apply Within.to (startPromotion_within ..)
    | with_reducible apply w_ite_snd
    | with_reducible refine w_of_some2 (by assumption) ?_
    | dsimp only
    | split)

theorem setPin_within (page : Nat) (v : Bool) (s : State) : Within { aon := true, log := true, ev := true, quay := true, dram := true, tier := true, led := true, port := true, mgt := true } s (setPin page v s) := by
  unfold setPin
  repeat' (first
    | exact rfl
    | exact Or.inl rfl
    | exact Or.inr rfl
    | exact And.intro rfl (And.intro rfl rfl)
    | exact Or.inl ⟨rfl, rfl⟩
    | exact Or.inr (Or.inl ⟨rfl, rfl⟩)
    | exact Or.inr (Or.inl ⟨rfl, rfl, rfl, rfl⟩)
    | exact Or.inr (Or.inr rfl)
    | with_reducible assumption
    | with_reducible exact Within.refl _ _
    | (intro _ _ _ _)
    | (intro _ _ _)
    | (intro _ _)
    | (intro _)
    | with_reducible apply w_ite
    | with_reducible apply w_foldl
    | with_reducible apply w_foldl2
    | with_reducible apply Within.to (descFix_within ..)
    | with_reducible apply Within.to (pinMirror_within ..)
    | with_reducible apply Within.to (setDesc_within ..))

theorem pinPage_within (cls : BitVec 8) (page : Nat) (s : State) : Within { aon := true, log := true, ev := true, sec := true, pin := true, quay := true, dram := true, mem := true, tier := true, led := true, reins := true, port := true, mgt := true } s (pinPage cls page s) := by
  unfold pinPage
  repeat' (first
    | exact rfl
    | exact Or.inl rfl
    | exact Or.inr rfl
    | exact And.intro rfl (And.intro rfl rfl)
    | exact Or.inl ⟨rfl, rfl⟩
    | exact Or.inr (Or.inl ⟨rfl, rfl⟩)
    | exact Or.inr (Or.inl ⟨rfl, rfl, rfl, rfl⟩)
    | exact Or.inr (Or.inr rfl)
    | with_reducible assumption
    | with_reducible exact Within.refl _ _
    | (intro _ _ _ _)
    | (intro _ _ _)
    | (intro _ _)
    | (intro _)
    | with_reducible apply w_ite
    | with_reducible apply w_foldl
    | with_reducible apply w_foldl2
    | with_reducible apply Within.to (bringHot_within ..)
    | with_reducible apply Within.to (setPin_within ..))

theorem moverUnit_within (cpx : Nat) (cls : BitVec 8) (n : Nat) (s : State) : Within { ev := true, tier := true, reins := true, noc := true, mgt := true } s (moverUnit cpx cls n s) := by
  unfold moverUnit
  repeat' (first
    | exact rfl
    | exact Or.inl rfl
    | exact Or.inr rfl
    | exact And.intro rfl (And.intro rfl rfl)
    | exact Or.inl ⟨rfl, rfl⟩
    | exact Or.inr (Or.inl ⟨rfl, rfl⟩)
    | exact Or.inr (Or.inl ⟨rfl, rfl, rfl, rfl⟩)
    | exact Or.inr (Or.inr rfl)
    | with_reducible assumption
    | with_reducible exact Within.refl _ _
    | (intro _ _ _ _)
    | (intro _ _ _)
    | (intro _ _)
    | (intro _)
    | with_reducible apply w_ite
    | with_reducible apply w_foldl
    | with_reducible apply w_foldl2
    | with_reducible apply Within.to (countUse_within ..)
    | with_reducible apply Within.to (tileUnits_within ..)
    | with_reducible apply Within.to (wakeTile_within ..)
    | with_reducible apply w_ite_snd
    | dsimp only
    | split
    | with_reducible refine w_tier ?_ ?_)

end Sys2Proof.Laws
end

