-- ==== Sys2Proof/Laws/WMessages.lean ====
section
/-! SUPPORT. What each operation of Machine/Messages.lean may change. -/

namespace Sys2Proof.Laws

open Sys2Proof Sys2Proof.Machine

theorem answerPkt_within (port : Nat) (op : BitVec 8) (dst : Node) (tag : Tag) (status : BitVec 4) (body : List (BitVec 128)) (s : State) : Within { port := true } s (answerPkt port op dst tag status body s) := by
  unfold answerPkt
  repeat' (first
    | exact rfl
    | exact Or.inl rfl
    | exact Or.inr rfl
    | exact And.intro rfl (And.intro rfl rfl)
    | exact Or.inl ⟨rfl, rfl⟩
    | exact Or.inr (Or.inl ⟨rfl, rfl⟩)
    | exact Or.inr (Or.inl ⟨rfl, rfl, rfl, rfl⟩)
    | exact Or.inr (Or.inr rfl)
    | with_reducible assumption
    | with_reducible exact Within.refl _ _
    | (intro _ _ _ _)
    | (intro _ _ _)
    | (intro _ _)
    | (intro _)
    | with_reducible apply w_ite
    | with_reducible apply w_foldl
    | with_reducible apply w_foldl2
    | with_reducible apply Within.to (sendPkt_within ..))

theorem keepRx_within (port : Nat) (k : Pkt) (s : State) : Within { port := true } s (keepRx port k s) := by
  unfold keepRx
  repeat' (first
    | exact rfl
    | exact Or.inl rfl
    | exact Or.inr rfl
    | exact And.intro rfl (And.intro rfl rfl)
    | exact Or.inl ⟨rfl, rfl⟩
    | exact Or.inr (Or.inl ⟨rfl, rfl⟩)
    | exact Or.inr (Or.inl ⟨rfl, rfl, rfl, rfl⟩)
    | exact Or.inr (Or.inr rfl)
    | with_reducible assumption
    | with_reducible exact Within.refl _ _
    | (intro _ _ _ _)
    | (intro _ _ _)
    | (intro _ _)
    | (intro _)
    | with_reducible apply w_ite
    | with_reducible apply w_foldl
    | with_reducible apply w_foldl2
    | with_reducible apply Within.to (modPort_within ..))

theorem mgmtClass_within {p : Parts} (hp : Parts.le { log := true, ev := true, port := true, mgt := true } p = true) (port : Nat) (op : BitVec 8) (src dst : Node) (tag : Tag)
    (k : Pkt) (serve : State → State) (s : State) (h1 : ∀ u, Within p u (serve u)) :
    Within p s (mgmtClass port op src dst tag k serve s) := by
  have h : Within p s (evAfl port 14 (takeRx port op src tag s)) :=
    Within.to (evAfl_within ..) (Parts.le_trans rfl hp) ((takeRx_within ..).mono (Parts.le_trans rfl hp))
  unfold mgmtClass
  split
  · exact Within.refl _ _
  · split
    · exact (keepRx_within ..).mono (Parts.le_trans rfl hp)
    · dsimp only
      generalize evAfl port 14 (takeRx port op src tag s) = u at h ⊢
      split
      · exact Within.to (pktInvalid_within ..) (Parts.le_trans rfl hp) h
      · split
        · exact Within.to (answerPkt_within ..) (Parts.le_trans rfl hp) (Within.to (pktInvalid_within ..) (Parts.le_trans rfl hp) h)
        · split
          · exact Within.to (answerPkt_within ..) (Parts.le_trans rfl hp) h
          · exact (h1 u).to (Parts.le_refl p) h

theorem mgmtAccess_within (write : Bool) (m : Mgmt) (s : State) : Within { fuse := true, aon := true, mode := true, log := true, ev := true, sec := true, frz := true, pin := true, quay := true, dram := true, mem := true, tier := true, led := true, reins := true, port := true, noc := true, rings := true, mgt := true, nor := true, ppd := true, cfg := true } s (mgmtAccess write m s) := by
  unfold mgmtAccess
  repeat' (first
    | exact rfl
    | exact Or.inl rfl
    | exact Or.inr rfl
    | exact And.intro rfl (And.intro rfl rfl)
    | exact Or.inl ⟨rfl, rfl⟩
    | exact Or.inr (Or.inl ⟨rfl, rfl⟩)
    | exact Or.inr (Or.inl ⟨rfl, rfl, rfl, rfl⟩)
    | exact Or.inr (Or.inr rfl)
    | with_reducible assumption
    | with_reducible exact Within.refl _ _
    | (intro _ _ _ _)
    | (intro _ _ _)
    | (intro _ _)
    | (intro _)
    | with_reducible apply w_ite
    | with_reducible apply w_foldl
    | with_reducible apply w_foldl2
    | with_reducible apply Within.to (access_within ..)
    | with_reducible apply Within.to (answerPkt_within ..)
    | with_reducible apply Within.to (evMgt_within ..)
    | with_reducible apply Within.to (regDone_within ..)
    | with_reducible apply Within.to (settle_within ..))

theorem execMgmtRd_within (m : Mgmt) (s : State) : WOut { fuse := true, aon := true, mode := true, log := true, ev := true, sec := true, frz := true, pin := true, quay := true, dram := true, mem := true, tier := true, led := true, reins := true, port := true, noc := true, rings := true, mgt := true, nor := true, ppd := true, cfg := true } s (execMgmtRd m s) := by
  unfold execMgmtRd
  repeat' (first
    | exact rfl
    | exact Or.inl rfl
    | exact Or.inr rfl
    | exact And.intro rfl (And.intro rfl rfl)
    | exact Or.inl ⟨rfl, rfl⟩
    | exact Or.inr (Or.inl ⟨rfl, rfl⟩)
    | exact Or.inr (Or.inl ⟨rfl, rfl, rfl, rfl⟩)
    | exact Or.inr (Or.inr rfl)
    | with_reducible assumption
    | with_reducible exact Within.refl _ _
    | (intro _ _ _ _)
    | (intro _ _ _)
    | (intro _ _)
    | (intro _)
    | with_reducible apply w_ite
    | with_reducible apply w_foldl
    | with_reducible apply w_foldl2
    | with_reducible apply wout_next
    | with_reducible exact wout_fault
    | with_reducible apply wout_ite
    | with_reducible apply Within.to (mgmtAccess_within ..)
    | with_reducible refine Within.to (mgmtClass_within (p := { fuse := true, aon := true, mode := true, log := true, ev := true, sec := true, frz := true, pin := true, quay := true, dram := true, mem := true, tier := true, led := true, reins := true, port := true, noc := true, rings := true, mgt := true, nor := true, ppd := true, cfg := true }) (hp := rfl) (h1 := ?_) ..) rfl ?_)

theorem execMgmtWr_within (m : Mgmt) (s : State) : WOut { fuse := true, aon := true, mode := true, log := true, ev := true, sec := true, frz := true, pin := true, quay := true, dram := true, mem := true, tier := true, led := true, reins := true, port := true, noc := true, rings := true, mgt := true, nor := true, ppd := true, cfg := true } s (execMgmtWr m s) := by
  unfold execMgmtWr
  repeat' (first
    | exact rfl
    | exact Or.inl rfl
    | exact Or.inr rfl
    | exact And.intro rfl (And.intro rfl rfl)
    | exact Or.inl ⟨rfl, rfl⟩
    | exact Or.inr (Or.inl ⟨rfl, rfl⟩)
    | exact Or.inr (Or.inl ⟨rfl, rfl, rfl, rfl⟩)
    | exact Or.inr (Or.inr rfl)
    | with_reducible assumption
    | with_reducible exact Within.refl _ _
    | (intro _ _ _ _)
    | (intro _ _ _)
    | (intro _ _)
    | (intro _)
    | with_reducible apply w_ite
    | with_reducible apply w_foldl
    | with_reducible apply w_foldl2
    | with_reducible apply wout_next
    | with_reducible exact wout_fault
    | with_reducible apply wout_ite
    | with_reducible apply Within.to (mgmtAccess_within ..)
    | with_reducible refine Within.to (mgmtClass_within (p := { fuse := true, aon := true, mode := true, log := true, ev := true, sec := true, frz := true, pin := true, quay := true, dram := true, mem := true, tier := true, led := true, reins := true, port := true, noc := true, rings := true, mgt := true, nor := true, ppd := true, cfg := true }) (hp := rfl) (h1 := ?_) ..) rfl ?_)

theorem spdmDone_within (m : Spdm) (bytes : List Byte) (s : State) : Within { ev := true, sec := true, port := true, mgt := true, free := true } s (spdmDone m bytes s) := by
  unfold spdmDone
  repeat' (first
    | exact rfl
    | exact Or.inl rfl
    | exact Or.inr rfl
    | exact And.intro rfl (And.intro rfl rfl)
    | exact Or.inl ⟨rfl, rfl⟩
    | exact Or.inr (Or.inl ⟨rfl, rfl⟩)
    | exact Or.inr (Or.inl ⟨rfl, rfl, rfl, rfl⟩)
    | exact Or.inr (Or.inr rfl)
    | with_reducible assumption
    | with_reducible exact Within.refl _ _
    | (intro _ _ _ _)
    | (intro _ _ _)
    | (intro _ _)
    | (intro _)
    | with_reducible apply w_ite
    | with_reducible apply w_foldl
    | with_reducible apply w_foldl2
    | with_reducible apply Within.to (evMgt_within ..)
    | with_reducible apply Within.to (sendPkt_within ..)
    | with_reducible apply w_ite_snd
    | with_reducible refine w_snd (by assumption) ?_
    | dsimp only
    | split
    | with_reducible refine w_sec ?_ ?_
    | with_reducible refine w_free ?_ ?_)

theorem spdmFragment_within (m : Spdm) (s : State) : Within { log := true, ev := true, sec := true, port := true, mgt := true, free := true } s (spdmFragment m s) := by
  unfold spdmFragment
  repeat' (first
    | exact rfl
    | exact Or.inl rfl
    | exact Or.inr rfl
    | exact And.intro rfl (And.intro rfl rfl)
    | exact Or.inl ⟨rfl, rfl⟩
    | exact Or.inr (Or.inl ⟨rfl, rfl⟩)
    | exact Or.inr (Or.inl ⟨rfl, rfl, rfl, rfl⟩)
    | exact Or.inr (Or.inr rfl)
    | with_reducible assumption
    | with_reducible exact Within.refl _ _
    | (intro _ _ _ _)
    | (intro _ _ _)
    | (intro _ _)
    | (intro _)
    | with_reducible apply w_ite
    | with_reducible apply w_foldl
    | with_reducible apply w_foldl2
    | with_reducible apply Within.to (pktInvalid_within ..)
    | with_reducible apply Within.to (spdmDone_within ..)
    | with_reducible apply w_ite_snd
    | dsimp only
    | split
    | with_reducible refine w_mgt ?_ ?_)

theorem execSpdmMsg_within (m : Spdm) (s : State) : WOut { log := true, ev := true, sec := true, port := true, mgt := true, free := true } s (execSpdmMsg m s) := by
  unfold execSpdmMsg
  repeat' (first
    | exact rfl
    | exact Or.inl rfl
    | exact Or.inr rfl
    | exact And.intro rfl (And.intro rfl rfl)
    | exact Or.inl ⟨rfl, rfl⟩
    | exact Or.inr (Or.inl ⟨rfl, rfl⟩)
    | exact Or.inr (Or.inl ⟨rfl, rfl, rfl, rfl⟩)
    | exact Or.inr (Or.inr rfl)
    | with_reducible assumption
    | with_reducible exact Within.refl _ _
    | (intro _ _ _ _)
    | (intro _ _ _)
    | (intro _ _)
    | (intro _)
    | with_reducible apply w_ite
    | with_reducible apply w_foldl
    | with_reducible apply w_foldl2
    | with_reducible apply wout_next
    | with_reducible exact wout_fault
    | with_reducible apply wout_ite
    | with_reducible refine Within.to (mgmtClass_within (p := { log := true, ev := true, sec := true, port := true, mgt := true, free := true }) (hp := rfl) (h1 := ?_) ..) rfl ?_
    | with_reducible apply Within.to (spdmFragment_within ..))

theorem execLatTol_within (port : Nat) (src dst : Node) (noReq : Bool) (scale : BitVec 3) (value : BitVec 10) (s : State) : WOut { aon := true, log := true, ev := true, port := true, noc := true, mgt := true } s (execLatTol port src dst noReq scale value s) := by
  unfold execLatTol
  repeat' (first
    | exact rfl
    | exact Or.inl rfl
    | exact Or.inr rfl
    | exact And.intro rfl (And.intro rfl rfl)
    | exact Or.inl ⟨rfl, rfl⟩
    | exact Or.inr (Or.inl ⟨rfl, rfl⟩)
    | exact Or.inr (Or.inl ⟨rfl, rfl, rfl, rfl⟩)
    | exact Or.inr (Or.inr rfl)
    | with_reducible assumption
    | with_reducible exact Within.refl _ _
    | (intro _ _ _ _)
    | (intro _ _ _)
    | (intro _ _)
    | (intro _)
    | with_reducible apply w_ite
    | with_reducible apply w_foldl
    | with_reducible apply w_foldl2
    | with_reducible apply wout_next
    | with_reducible exact wout_fault
    | with_reducible apply wout_ite
    | with_reducible apply Within.to (evAfl_within ..)
    | with_reducible apply Within.to (gaitFall_within ..)
    | with_reducible apply Within.to (modPort_within ..)
    | with_reducible apply Within.to (pktInvalid_within ..)
    | with_reducible apply Within.to (takeRx_within ..))

theorem execPowerWarn_within (port : Nat) (src : Node) (tide : BitVec 64) (cause : BitVec 4) (s : State) : WOut { ev := true, quay := true, port := true, mgt := true } s (execPowerWarn port src tide cause s) := by
  unfold execPowerWarn
  repeat' (first
    | exact rfl
    | exact Or.inl rfl
    | exact Or.inr rfl
    | exact And.intro rfl (And.intro rfl rfl)
    | exact Or.inl ⟨rfl, rfl⟩
    | exact Or.inr (Or.inl ⟨rfl, rfl⟩)
    | exact Or.inr (Or.inl ⟨rfl, rfl, rfl, rfl⟩)
    | exact Or.inr (Or.inr rfl)
    | with_reducible assumption
    | with_reducible exact Within.refl _ _
    | (intro _ _ _ _)
    | (intro _ _ _)
    | (intro _ _)
    | (intro _)
    | with_reducible apply w_ite
    | with_reducible apply w_foldl
    | with_reducible apply w_foldl2
    | with_reducible apply wout_next
    | with_reducible exact wout_fault
    | with_reducible apply wout_ite
    | with_reducible apply Within.to (evAfl_within ..)
    | with_reducible apply Within.to (takeRx_within ..)
    | with_reducible apply w_ite_snd
    | dsimp only
    | split
    | with_reducible refine w_quay ?_ ?_)

theorem execSnoopTimeoutExpiry_within (node : Node) (tag : Tag) (s : State) : WOut { aon := true, log := true, ev := true, sec := true, quay := true, dram := true, mem := true, tier := true, led := true, reins := true, port := true, noc := true, rings := true, mgt := true } s (execSnoopTimeoutExpiry node tag s) := by
  unfold execSnoopTimeoutExpiry
  repeat' (first
    | exact rfl
    | exact Or.inl rfl
    | exact Or.inr rfl
    | exact And.intro rfl (And.intro rfl rfl)
    | exact Or.inl ⟨rfl, rfl⟩
    | exact Or.inr (Or.inl ⟨rfl, rfl⟩)
    | exact Or.inr (Or.inl ⟨rfl, rfl, rfl, rfl⟩)
    | exact Or.inr (Or.inr rfl)
    | with_reducible assumption
    | with_reducible exact Within.refl _ _
    | (intro _ _ _ _)
    | (intro _ _ _)
    | (intro _ _)
    | (intro _)
    | with_reducible apply w_ite
    | with_reducible apply w_foldl
    | with_reducible apply w_foldl2
    | with_reducible apply wout_next
    | with_reducible exact wout_fault
    | with_reducible apply wout_ite
    | with_reducible apply Within.to (ackGrant_within ..)
    | with_reducible apply Within.to (settle_within ..)
    | with_reducible apply Within.to (snoopFails_within ..))

theorem execDeviceRequestTimeout_within (node : Node) (tag : Tag) (s : State) : WOut { ev := true, quay := true, mgt := true } s (execDeviceRequestTimeout node tag s) := by
  unfold execDeviceRequestTimeout
  repeat' (first
    | exact rfl
    | exact Or.inl rfl
    | exact Or.inr rfl
    | exact And.intro rfl (And.intro rfl rfl)
    | exact Or.inl ⟨rfl, rfl⟩
    | exact Or.inr (Or.inl ⟨rfl, rfl⟩)
    | exact Or.inr (Or.inl ⟨rfl, rfl, rfl, rfl⟩)
    | exact Or.inr (Or.inr rfl)
    | with_reducible assumption
    | with_reducible exact Within.refl _ _
    | (intro _ _ _ _)
    | (intro _ _ _)
    | (intro _ _)
    | (intro _)
    | with_reducible apply w_ite
    | with_reducible apply w_foldl
    | with_reducible apply w_foldl2
    | with_reducible apply wout_next
    | with_reducible exact wout_fault
    | with_reducible apply wout_ite
    | with_reducible apply Within.to (synthetic_within ..)
    | with_reducible apply w_ite_snd
    | dsimp only
    | split)

end Sys2Proof.Laws
end

