-- ==== Sys2Proof/WellFormed.lean ====
section
/-! DEFINITION. The ranges that the spec gives the numbers in a command: ports, channels, ranks, SSDs, rings, pages and
the rest (R7, R26, R133, R197, R338, R395, R413, R460). A command outside them names nothing the device has. -/

namespace Sys2Proof

/-- A packet of the request layout: its port (R7). -/
def reqOk (r : Req) : Bool := decide (r.port < 4)

/-- An SPDM fragment: its port, and FRAG_LEN counts its bytes (R315). -/
def spdmOk (m : Spdm) : Bool := decide (m.port < 4) && decide (m.bytes.length = m.fragLen.toNat)

/-- A reservation message: its endpoints are 10-bit endpoint IDs (R319). -/
def rsvOk (q : RsvMsg) : Bool := decide (q.src < 1024) && decide (q.dst < 1024)

/-- A population of DIMMs: at most 2 DIMMs, RANK of at most 2 bits, CID of at most 3 (R128, R133). -/
def popOk (p : Population) : Bool := decide (p.dimms < 3) && decide (p.rankBits < 3) && decide (p.cidBits < 4)

/-- Every number in a command lies in its range. -/
def Instr.wf : Instr → Bool
  | .rdCur r => reqOk r
  | .rdShared r => reqOk r
  | .rdOwn r => reqOk r
  | .upgrade r => reqOk r
  | .wrFull r => reqOk r
  | .wrPart r => reqOk r
  | .atAdd r => reqOk r
  | .atSwap r => reqOk r
  | .atCas r => reqOk r
  | .atAnd r => reqOk r
  | .atOr r => reqOk r
  | .atXor r => reqOk r
  | .atSmin r => reqOk r
  | .atSmax r => reqOk r
  | .atUmin r => reqOk r
  | .atUmax r => reqOk r
  | .evictClean r => reqOk r
  | .evictDirty r => reqOk r
  | .cmpAck p => decide (p.port < 4)
  | .rspI p => decide (p.port < 4)
  | .rspS p => decide (p.port < 4)
  | .rspIClean p => decide (p.port < 4)
  | .rspIData p => decide (p.port < 4)
  | .rspSData p => decide (p.port < 4)
  | .rspFwd p => decide (p.port < 4)
  | .snpInv r => reqOk r
  | .snpShare r => reqOk r
  | .snpFwdS r => reqOk r
  | .dataE p => decide (p.port < 4)
  | .dataS p => decide (p.port < 4)
  | .dataF p => decide (p.port < 4)
  | .dataI p => decide (p.port < 4)
  | .cmpE p => decide (p.port < 4)
  | .cmp p => decide (p.port < 4)
  | .atmData p => decide (p.port < 4)
  | .wbAck p => decide (p.port < 4)
  | .errCmp p => decide (p.port < 4)
  | .lateAlarm p => decide (p.port < 4)
  | .mgmtRd m => decide (m.port < 4)
  | .mgmtWr m => decide (m.port < 4)
  | .spdmMsg m => spdmOk m
  | .latTol port _ _ _ _ _ => decide (port < 4)
  | .powerWarn port _ _ _ => decide (port < 4)
  | .snoopTimeoutExpiry _ _ => true
  | .deviceRequestTimeout _ _ => true
  | .dramReadComplete _ _ => true
  | .lineRereadComplete _ _ => true
  | .tagTestComplete _ _ => true
  | .verdictArrival port _ _ => decide (port < 4)
  | .keyContextFill _ => true
  | .warmLineDecode _ _ => true
  | .demandFaultReadComplete page _ => decide (page < 2 ^ 33)
  | .demandFaultInstallComplete page => decide (page < 2 ^ 33)
  | .lineEviction _ => true
  | .partialLineMerge _ _ => true
  | .decayEpochAdvance => true
  | .scannerVisit => true
  | .demotionComplete page => decide (page < 2 ^ 33)
  | .promotionComplete page => decide (page < 2 ^ 33)
  | .compactionMoveComplete page => decide (page < 2 ^ 33)
  | .relocationLineCopy page _ => decide (page < 2 ^ 33)
  | .rekeyPageConversion engine => decide (engine < 16)
  | .refreshDue ch _ rank cid ba => decide (ch < 16) && decide (rank < 4) && decide (cid < 8) && decide (ba < 4)
  | .rdWindowStart => true
  | .rdThresholdReached ch bank row => decide (ch < 16) && decide (bank < 2 ^ 15) && decide (row < 2 ^ 17)
  | .writeDrainEntry ch => decide (ch < 16)
  | .writeDrainExit ch => decide (ch < 16)
  | .thermalSensorRead ch slot _ => decide (ch < 16) && decide (slot < 2)
  | .pmicStatusRead ch slot _ => decide (ch < 16) && decide (slot < 2)
  | .pmicInterrupt ch slot _ => decide (ch < 16) && decide (slot < 2)
  | .dimmAlert ch _ rank _ => decide (ch < 16) && decide (rank < 4)
  | .devMarkWinStart => true
  | .devMarked ch _ rank cid dev => decide (ch < 16) && decide (rank < 4) && decide (cid < 8) && decide (dev < 16)
  | .scrubRead ch => decide (ch < 16)
  | .selfRefreshEntry ch => decide (ch < 16)
  | .selfRefreshExit ch _ _ => decide (ch < 16)
  | .fullTraining ch _ pop => decide (ch < 16) && popOk pop
  | .calRecordRestore ch _ pop => decide (ch < 16) && popOk pop
  | .dirtyCeilingWindow => true
  | .flushBwProbe _ => true
  | .wbAgeExpiry page => decide (page < 2 ^ 33)
  | .segmentWritesComplete _ => true
  | .segCommit _ => true
  | .nvmeWriteFailed _ => true
  | .mapBlockWriteback block => decide (block < 2 ^ 25)
  | .hotListRewrite => true
  | .smartLogPoll ssd _ _ => decide (ssd < 32)
  | .ledgerTimeoutExpiry ssd => decide (ssd < 32)
  | .ssdResetTimeout ssd => decide (ssd < 32)
  | .ssdReady ssd _ => decide (ssd < 32)
  | .holdupEntry => true
  | .holdupFreeze => true
  | .dirtyListCommitted => true
  | .holdupFlushCommitted => true
  | .holdDoneWritten => true
  | .watchEntry => true
  | .holdupEnergyCheck _ => true
  | .feedReturnInHoldup => true
  | .watchPeriodSample _ _ => true
  | .watchExit => true
  | .tideResume _ => true
  | .slowPeriodCalibration _ => true
  | .ledgerReplay => true
  | .manifestChoice => true
  | .pendingFrameRestore frame => decide (frame < 2 ^ 25)
  | .backgroundRestorePage => true
  | .restoreFirstPassEnd => true
  | .feedsFailInRecovery => true
  | .budgetWindowStart => true
  | .ageLimitExpiry _ _ => true
  | .overdueLimitReached _ _ => true
  | .capHoldRelease port _ => decide (port < 4)
  | .detectStep port _ => decide (port < 4)
  | .ts1 port lane _ => decide (port < 4) && decide (lane < 16)
  | .ts2 port lane _ => decide (port < 4) && decide (lane < 16)
  | .pollTimeout port => decide (port < 4)
  | .configTimeout port => decide (port < 4)
  | .eqTimeout port => decide (port < 4)
  | .retrainTimeout port => decide (port < 4)
  | .ts1LossTimeout port => decide (port < 4)
  | .payloadFlit port _ => decide (port < 4)
  | .idleFlit port _ => decide (port < 4)
  | .badFlit port _ => decide (port < 4)
  | .ackTimeoutExpiry port => decide (port < 4)
  | .laneFailed port lane _ _ => decide (port < 4) && decide (lane < 16)
  | .wPropose port _ _ => decide (port < 4)
  | .wAccept port _ _ => decide (port < 4)
  | .wReject port _ _ => decide (port < 4)
  | .wSwitch port _ _ => decide (port < 4)
  | .lpReq port _ _ => decide (port < 4)
  | .lpAck port _ _ => decide (port < 4)
  | .lpNak port _ _ => decide (port < 4)
  | .linkOff port _ _ => decide (port < 4)
  | .widthCapChange port code => decide (port < 4) && decide (code.toNat < 5)
  | .lmcTimeoutExpiry port => decide (port < 4)
  | .laneLockTimeout port => decide (port < 4)
  | .lowPowerExit port => decide (port < 4)
  | .lowPowerExitTimeout port => decide (port < 4)
  | .tagQuietExpiry _ _ => true
  | .eventMsg port event => decide (port < 4) && decide (event < 4096)
  | .rsvReq q => rsvOk q
  | .rsvGrant q => rsvOk q
  | .rsvRevoke q => rsvOk q
  | .rsvReturn q => rsvOk q
  | .domainDrainComplete dom => decide (dom < 152)
  | .domainWake dom => decide (dom < 152)
  | .domainWakeComplete dom => decide (dom < 152)
  | .nocUe router port => decide (router < 96) && decide (port < 5)
  | .bridgeUnitReplay bridge => decide (bridge < 16)
  | .routeEpochSwitch => true
  | .epochRetirement => true
  | .routeStuck => true
  | .freeze _ => true
  | .freezeDumpComplete => true
  | .release => true
  | .ringEnable path ring _ => decide (path < 7) && decide (ring < 32768)
  | .ringDisable path ring _ => decide (path < 7) && decide (ring < 32768)
  | .ringDbSqTail path _ ring _ => decide (path < 7) && decide (ring < 32768)
  | .ringDbCqHead path _ ring _ => decide (path < 7) && decide (ring < 32768)
  | .ringFetch cpx => decide (cpx < 2)
  | .completionPost ring idx => decide (ring < 32768) && decide (idx < 65536)
  | .moverUnitComplete ring idx => decide (ring < 32768) && decide (idx < 65536)
  | .copy ring idx => decide (ring < 32768) && decide (idx < 65536)
  | .fill ring idx => decide (ring < 32768) && decide (idx < 65536)
  | .compare ring idx => decide (ring < 32768) && decide (idx < 65536)
  | .zero ring idx => decide (ring < 32768) && decide (idx < 65536)
  | .pinHot ring idx => decide (ring < 32768) && decide (idx < 65536)
  | .unpin ring idx => decide (ring < 32768) && decide (idx < 65536)
  | .demote ring idx => decide (ring < 32768) && decide (idx < 65536)
  | .prefetch ring idx => decide (ring < 32768) && decide (idx < 65536)
  | .persistBarrier ring idx => decide (ring < 32768) && decide (idx < 65536)
  | .snapshot ring idx => decide (ring < 32768) && decide (idx < 65536)
  | .snapshotPointFixed ring idx => decide (ring < 32768) && decide (idx < 65536)
  | .queryTier ring idx => decide (ring < 32768) && decide (idx < 65536)
  | .scrubRange ring idx => decide (ring < 32768) && decide (idx < 65536)
  | .keyLoad ring idx => decide (ring < 32768) && decide (idx < 65536)
  | .keyRetire ring idx => decide (ring < 32768) && decide (idx < 65536)
  | .rekeyStart ring idx => decide (ring < 32768) && decide (idx < 65536)
  | .retireFrame ring idx => decide (ring < 32768) && decide (idx < 65536)
  | .retireBank ring idx => decide (ring < 32768) && decide (idx < 65536)
  | .calRestoreFactory ring idx => decide (ring < 32768) && decide (idx < 65536)
  | .go path => decide (path < 7)
  | .bootCopyTry => true
  | .spiNorWrite _ _ => true
  | .resetNAssert _ => true
  | .resetNRelease _ => true
  | .pwrokDeassert _ => true
  | .pwrokAssert _ => true
  | .harnessingComplete => true
  | .serviceEntry => true
  | .aonRestart => true
  | .drainToStall path => decide (path < 7)
  | .drainToMaint path => decide (path < 7)
  | .leaveMaint path => decide (path < 7)
  | .drainLimit => true
  | .drainCleanPoint => true
  | .gaitChange => true
  | .gaitDeepen => true
  | .groupIdleExpiry grp => decide (grp < 16)
  | .prepareAllAgreed grp => decide (grp < 16)
  | .refuse dom _ => decide (dom < 152)
  | .prepareAnswerTimeout dom => decide (dom < 152)
  | .backoffExpiry grp => decide (grp < 16)
  | .fastTrip ch _ => decide (ch < 51)
  | .faultTimerExpiry ch _ => decide (ch < 51)
  | .inrushTimeout ch => decide (ch < 51)
  | .gateFullyOn ch _ => decide (ch < 51)
  | .presenceAsserted ch => decide (ch < 51)
  | .presenceRemoved ch => decide (ch < 51)
  | .insertDebounceComplete ch => decide (ch < 51)
  | .cooldownElapsed ch => decide (ch < 51)
  | .retryCountClear ch => decide (ch < 51)
  | .ppDamaged ch => decide (ch < 51)
  | .feedQualified feed => decide (feed < 2)
  | .feedDisqualified feed _ => decide (feed < 2)
  | .feedReturnHoldExpiry => true
  | .breakTimeExpiry => true
  | .energyFrame _ _ _ => true
  | .storeTestStart => true
  | .storeTest _ _ => true
  | .ppdLink => true
  | .bayWarnLeadExpiry bayNo => decide (bayNo < 16)
  | .perstDelayExpiry bayNo => decide (bayNo < 16)
  | .commandedOff path ch => decide (path < 7) && decide (ch < 51)
  | .commandedOn path ch => decide (path < 7) && decide (ch < 51)
  | .logEntryArrival _ => true
  | .logRateWindowStart => true
  | .extendedLogCopy => true
  | .aonLogAck path _ => decide (path < 7)
  | .eventAck path event _ => decide (path < 7) && decide (event < 4096)
  | .samplerThreshold n => decide (n < 16)
  | .sampleCapture n _ _ _ _ _ _ => decide (n < 16)
  | .sampleNoRequestTimeout n => decide (n < 16)
  | .sampleRingConsume path _ => decide (path < 7)
  | .frameWinStart => true
  | .frameRetired dfa => decide (dfa < 2 ^ 31)
  | .bankSuspect bank => decide (bank < 2 ^ 15)
  | .paritySweep _ _ => true
  | .write32 _ => true
  | .read32 _ => true
  | .write64 _ => true
  | .read64 _ => true
  | .i3cPrivateRead => true
  | .registerWrite path _ _ _ _ => decide (path < 7)
  | .indirectDataAccess path _ _ _ _ => decide (path < 7)
  | .deviceCold path _ _ _ => decide (path < 7)
  | .deviceWarm path _ _ _ => decide (path < 7)
  | .afl path _ _ _ => decide (path < 7)
  | .pe path _ _ _ => decide (path < 7)
  | .bay path _ _ _ => decide (path < 7)
  | .mgt path _ _ _ => decide (path < 7)
  | .programOwner path _ slot => decide (path < 7) && decide (slot < 4)
  | .revokeOwner path _ slot => decide (path < 7) && decide (slot < 4)
  | .programBoard path _ slot => decide (path < 7) && decide (slot < 4)
  | .otpProgramDone _ => true
  | .svnCommitFw path _ => decide (path < 7)
  | .svnCommitHarness path _ => decide (path < 7)
  | .disable path port => decide (path < 7) && decide (port < 4)
  | .disableClear path port => decide (path < 7) && decide (port < 4)
  | .dieHot sensor _ => decide (sensor < 17)
  | .thermtrip sensor _ => decide (sensor < 17)
  | .thermtripRecovery _ => true
  | .xtalFail _ => true
  | .refclkLoss _ inst => decide (inst < 2)
  | .dramCommandSlot ch _ => decide (ch < 16)
  | .pciePeerAccess peNo _ _ _ _ _ => decide (peNo < 2)
  | .debugAccess _ _ _ => true
  | .linkIdleEntry port => decide (port < 4)
  | .dynamicAddressAssignment _ => true
  | .ppdPowerOn _ _ => true
  | .aonSupplyLoss => true

end Sys2Proof
end

