-- ==== Sys2Proof/Tests/Slice0.lean ====
section
/-! SUPPORT. Tests: an ill-formed term for each check of WellFormed, values that the spec works out, and for each statement a state and
operands that meet its hypotheses. -/

namespace Sys2Proof.Tests

open Sys2Proof Sys2Proof.Machine

set_option Elab.async false

/-! ## States -/

/-- A PARAM record of all instances (R363). -/
def par (table index v : Nat) : BitVec 128 := BitVec.ofNat 128 (1 + table * 2 ^ 8 + index * 2 ^ 16 + 0xFF * 2 ^ 24 + v * 2 ^ 64)
/-- A record: its type in [7:0], the rest above. -/
def rec_ (ty : Nat) (rest : Nat) : BitVec 128 := BitVec.ofNat 128 (ty + rest * 2 ^ 8)
/-- A training set of 30 bytes with its CRC (R258). -/
def mkTs (b : BitVec 256) : BitVec 256 := b ||| place 256 240 (crc16 (bytesOf b 30))
/-- A flit with its check bytes. -/
def mkFlit (b : BitVec 2048) : BitVec 2048 := flitEncode b
/-- A partner: node 5, every lane good (R258). -/
def peer : BitVec 256 := place 256 24 (5 : BitVec 17) ||| place 256 152 (0xFFFF : BitVec 16)
/-- Section 1 of the configuration: node 1; nodes 1 and 5 share the whole space. -/
def sec1 : List (BitVec 128) := [par 0x0D 0 1, rec_ 0x11 (1 * 2 ^ 6), rec_ 0x11 (5 * 2 ^ 6)]
/-- A configuration of 1 GiB with one channel. -/
def conf : SMap (List (BitVec 128)) := [(1, sec1), (2, [par 0x0D 2 (2 ^ 30), rec_ 0x20 0])]
/-- The same in Direct topology. -/
def confDirect : SMap (List (BitVec 128)) := [(1, par 0x0D 1 0 :: sec1), (2, [par 0x0D 2 (2 ^ 30), rec_ 0x20 0])]
/-- A port in ACTIVE with its partner, at full width. -/
def up : Port := { st := .active, partner := peer, partnerUp := true, features := 0xF, width := 4, rate := 0, detected := 0xFFFF }
/-- A device in Service, with port 0 up. -/
def svc : State := { aon := { mode := .service }, cfg := conf, port := [(0, up)] }
/-- The same with port 0 as given. -/
def withPort (q : Port) : State := { svc with port := [(0, q)] }
/-- The same in Direct topology. -/
def withPortD (q : Port) : State := { svc with cfg := confDirect, port := [(0, q)] }

/-! ## Well-formedness -/

/-- Ill-formed terms: the check of `reqOk` refuses each. -/
theorem test_wf_request :
    ([.rdCur { port := 4 }, .rdShared { port := 4 }, .rdOwn { port := 4 }, .upgrade { port := 4 }, .wrFull { port := 4 }, .wrPart { port := 4 },
      .atAdd { port := 4 }, .atSwap { port := 4 }, .atCas { port := 4 }, .atAnd { port := 4 }, .atOr { port := 4 }, .atXor { port := 4 },
      .atSmin { port := 4 }, .atSmax { port := 4 }, .atUmin { port := 4 }, .atUmax { port := 4 }, .evictClean { port := 4 }, .evictDirty { port := 4 },
      .snpInv { port := 4 }, .snpShare { port := 4 }, .snpFwdS { port := 4 }] : List Instr).all (fun i => !i.wf) = true := by
  decide +kernel

/-- Ill-formed terms: the check of `port` refuses each. -/
theorem test_wf_port :
    ([.cmpAck { port := 4 }, .rspI { port := 4 }, .rspS { port := 4 }, .rspIClean { port := 4 }, .rspIData { port := 4 }, .rspSData { port := 4 },
      .rspFwd { port := 4 }, .dataE { port := 4 }, .dataS { port := 4 }, .dataF { port := 4 }, .dataI { port := 4 }, .cmpE { port := 4 },
      .cmp { port := 4 }, .atmData { port := 4 }, .wbAck { port := 4 }, .errCmp { port := 4 }, .lateAlarm { port := 4 }, .mgmtRd { port := 4 },
      .mgmtWr { port := 4 }, .latTol 4 0 0 false 0 0, .powerWarn 4 0 0 0, .verdictArrival 4 0 0, .capHoldRelease 4 0, .detectStep 4 0,
      .ts1 4 0 0, .ts2 4 0 0, .pollTimeout 4, .configTimeout 4, .eqTimeout 4, .retrainTimeout 4,
      .ts1LossTimeout 4, .payloadFlit 4 0, .idleFlit 4 0, .badFlit 4 0, .ackTimeoutExpiry 4, .laneFailed 4 0 false 0,
      .wPropose 4 0 0, .wAccept 4 0 0, .wReject 4 0 0, .wSwitch 4 0 0, .lpReq 4 0 0, .lpAck 4 0 0,
      .lpNak 4 0 0, .linkOff 4 0 0, .widthCapChange 4 0, .lmcTimeoutExpiry 4, .laneLockTimeout 4, .lowPowerExit 4,
      .lowPowerExitTimeout 4, .eventMsg 4 0, .nocUe 0 5, .disable 0 4, .disableClear 0 4, .linkIdleEntry 4] : List Instr).all (fun i => !i.wf) = true := by
  decide +kernel

/-- Ill-formed terms: the check of `spdmOk` refuses each. -/
theorem test_wf_spdm :
    ([.spdmMsg { fragLen := 2, bytes := [1] }, .spdmMsg { port := 4 }] : List Instr).all (fun i => !i.wf) = true := by
  decide +kernel

/-- Ill-formed terms: the check of `page` refuses each. -/
theorem test_wf_page :
    ([.demandFaultReadComplete (2 ^ 33) false, .demandFaultInstallComplete (2 ^ 33), .demotionComplete (2 ^ 33), .promotionComplete (2 ^ 33), .compactionMoveComplete (2 ^ 33), .relocationLineCopy (2 ^ 33) 0,
      .wbAgeExpiry (2 ^ 33)] : List Instr).all (fun i => !i.wf) = true := by
  decide +kernel

/-- Ill-formed terms: the check of `engine` refuses each. -/
theorem test_wf_engine :
    ([.rekeyPageConversion 16] : List Instr).all (fun i => !i.wf) = true := by
  decide +kernel

/-- Ill-formed terms: the check of `ch` refuses each. -/
theorem test_wf_ch :
    ([.refreshDue 16 false 0 0 0, .rdThresholdReached 16 0 0, .writeDrainEntry 16, .writeDrainExit 16, .thermalSensorRead 16 0 0, .pmicStatusRead 16 0 false,
      .pmicInterrupt 16 0 false, .dimmAlert 16 false 0 false, .devMarked 16 false 0 0 0, .scrubRead 16, .selfRefreshEntry 16, .selfRefreshExit 16 false false,
      .fullTraining 16 false {}, .calRecordRestore 16 false {}, .fastTrip 51 0, .faultTimerExpiry 51 0, .inrushTimeout 51, .gateFullyOn 51 false,
      .presenceAsserted 51, .presenceRemoved 51, .insertDebounceComplete 51, .cooldownElapsed 51, .retryCountClear 51, .ppDamaged 51,
      .commandedOff 0 51, .commandedOn 0 51, .dramCommandSlot 16 false] : List Instr).all (fun i => !i.wf) = true := by
  decide +kernel

/-- Ill-formed terms: the check of `rank` refuses each. -/
theorem test_wf_rank :
    ([.refreshDue 0 false 4 0 0, .dimmAlert 0 false 4 false, .devMarked 0 false 4 0 0] : List Instr).all (fun i => !i.wf) = true := by
  decide +kernel

/-- Ill-formed terms: the check of `cid` refuses each. -/
theorem test_wf_cid :
    ([.refreshDue 0 false 0 8 0, .devMarked 0 false 0 8 0] : List Instr).all (fun i => !i.wf) = true := by
  decide +kernel

/-- Ill-formed terms: the check of `ba` refuses each. -/
theorem test_wf_ba :
    ([.refreshDue 0 false 0 0 4] : List Instr).all (fun i => !i.wf) = true := by
  decide +kernel

/-- Ill-formed terms: the check of `bank` refuses each. -/
theorem test_wf_bank :
    ([.rdThresholdReached 0 (2 ^ 15) 0, .bankSuspect (2 ^ 15)] : List Instr).all (fun i => !i.wf) = true := by
  decide +kernel

/-- Ill-formed terms: the check of `row` refuses each. -/
theorem test_wf_row :
    ([.rdThresholdReached 0 0 (2 ^ 17)] : List Instr).all (fun i => !i.wf) = true := by
  decide +kernel

/-- Ill-formed terms: the check of `slot` refuses each. -/
theorem test_wf_slot :
    ([.thermalSensorRead 0 2 0, .pmicStatusRead 0 2 false, .pmicInterrupt 0 2 false, .programOwner 0 0 4, .revokeOwner 0 0 4, .programBoard 0 0 4] : List Instr).all (fun i => !i.wf) = true := by
  decide +kernel

/-- Ill-formed terms: the check of `dev` refuses each. -/
theorem test_wf_dev :
    ([.devMarked 0 false 0 0 16] : List Instr).all (fun i => !i.wf) = true := by
  decide +kernel

/-- Ill-formed terms: the check of `popOk` refuses each. -/
theorem test_wf_population :
    ([.fullTraining 0 false { cidBits := 4 }, .fullTraining 0 false { dimms := 3 }, .fullTraining 0 false { rankBits := 3 }, .calRecordRestore 0 false { cidBits := 4 }, .calRecordRestore 0 false { dimms := 3 }, .calRecordRestore 0 false { rankBits := 3 }] : List Instr).all (fun i => !i.wf) = true := by
  decide +kernel

/-- Ill-formed terms: the check of `block` refuses each. -/
theorem test_wf_block :
    ([.mapBlockWriteback (2 ^ 25)] : List Instr).all (fun i => !i.wf) = true := by
  decide +kernel

/-- Ill-formed terms: the check of `ssd` refuses each. -/
theorem test_wf_ssd :
    ([.smartLogPoll 32 false false, .ledgerTimeoutExpiry 32, .ssdResetTimeout 32, .ssdReady 32 {}] : List Instr).all (fun i => !i.wf) = true := by
  decide +kernel

/-- Ill-formed terms: the check of `frame` refuses each. -/
theorem test_wf_frame :
    ([.pendingFrameRestore (2 ^ 25)] : List Instr).all (fun i => !i.wf) = true := by
  decide +kernel

/-- Ill-formed terms: the check of `lane` refuses each. -/
theorem test_wf_lane :
    ([.ts1 0 16 0, .ts2 0 16 0, .laneFailed 0 16 false 0] : List Instr).all (fun i => !i.wf) = true := by
  decide +kernel

/-- Ill-formed terms: the check of `cap` refuses each. -/
theorem test_wf_cap :
    ([.widthCapChange 0 5] : List Instr).all (fun i => !i.wf) = true := by
  decide +kernel

/-- Ill-formed terms: the check of `event` refuses each. -/
theorem test_wf_event :
    ([.eventMsg 0 4096, .eventAck 0 4096 0] : List Instr).all (fun i => !i.wf) = true := by
  decide +kernel

/-- Ill-formed terms: the check of `rsvOk` refuses each. -/
theorem test_wf_reservation :
    ([.rsvReq { src := 1024 }, .rsvReq { dst := 1024 }, .rsvGrant { src := 1024 }, .rsvGrant { dst := 1024 }, .rsvRevoke { src := 1024 }, .rsvRevoke { dst := 1024 },
      .rsvReturn { src := 1024 }, .rsvReturn { dst := 1024 }] : List Instr).all (fun i => !i.wf) = true := by
  decide +kernel

/-- Ill-formed terms: the check of `dom` refuses each. -/
theorem test_wf_dom :
    ([.domainDrainComplete 152, .domainWake 152, .domainWakeComplete 152, .refuse 152 0, .prepareAnswerTimeout 152] : List Instr).all (fun i => !i.wf) = true := by
  decide +kernel

/-- Ill-formed terms: the check of `router` refuses each. -/
theorem test_wf_router :
    ([.nocUe 96 0] : List Instr).all (fun i => !i.wf) = true := by
  decide +kernel

/-- Ill-formed terms: the check of `bridge` refuses each. -/
theorem test_wf_bridge :
    ([.bridgeUnitReplay 16] : List Instr).all (fun i => !i.wf) = true := by
  decide +kernel

/-- Ill-formed terms: the check of `path` refuses each. -/
theorem test_wf_path :
    ([.ringEnable 7 0 0, .ringDisable 7 0 0, .ringDbSqTail 7 0 0 0, .ringDbCqHead 7 0 0 0, .go 7, .drainToStall 7,
      .drainToMaint 7, .leaveMaint 7, .commandedOff 7 0, .commandedOn 7 0, .aonLogAck 7 0, .eventAck 7 0 0,
      .sampleRingConsume 7 0, .registerWrite 7 0 0 0 false, .indirectDataAccess 7 0 false 0 0, .deviceCold 7 0 false 0, .deviceWarm 7 0 false 0, .afl 7 0 false 0,
      .pe 7 0 false 0, .bay 7 0 false 0, .mgt 7 0 false 0, .programOwner 7 0 0, .revokeOwner 7 0 0, .programBoard 7 0 0,
      .svnCommitFw 7 0, .svnCommitHarness 7 0, .disable 7 0, .disableClear 7 0] : List Instr).all (fun i => !i.wf) = true := by
  decide +kernel

/-- Ill-formed terms: the check of `ring` refuses each. -/
theorem test_wf_ring :
    ([.ringEnable 0 32768 0, .ringDisable 0 32768 0, .ringDbSqTail 0 0 32768 0, .ringDbCqHead 0 0 32768 0, .completionPost 32768 0, .moverUnitComplete 32768 0,
      .copy 32768 0, .fill 32768 0, .compare 32768 0, .zero 32768 0, .pinHot 32768 0, .unpin 32768 0,
      .demote 32768 0, .prefetch 32768 0, .persistBarrier 32768 0, .snapshot 32768 0, .snapshotPointFixed 32768 0, .queryTier 32768 0,
      .scrubRange 32768 0, .keyLoad 32768 0, .keyRetire 32768 0, .rekeyStart 32768 0, .retireFrame 32768 0, .retireBank 32768 0,
      .calRestoreFactory 32768 0] : List Instr).all (fun i => !i.wf) = true := by
  decide +kernel

/-- Ill-formed terms: the check of `cpx` refuses each. -/
theorem test_wf_cpx :
    ([.ringFetch 2] : List Instr).all (fun i => !i.wf) = true := by
  decide +kernel

/-- Ill-formed terms: the check of `idx` refuses each. -/
theorem test_wf_idx :
    ([.completionPost 0 65536, .moverUnitComplete 0 65536, .copy 0 65536, .fill 0 65536, .compare 0 65536, .zero 0 65536,
      .pinHot 0 65536, .unpin 0 65536, .demote 0 65536, .prefetch 0 65536, .persistBarrier 0 65536, .snapshot 0 65536,
      .snapshotPointFixed 0 65536, .queryTier 0 65536, .scrubRange 0 65536, .keyLoad 0 65536, .keyRetire 0 65536, .rekeyStart 0 65536,
      .retireFrame 0 65536, .retireBank 0 65536, .calRestoreFactory 0 65536] : List Instr).all (fun i => !i.wf) = true := by
  decide +kernel

/-- Ill-formed terms: the check of `grp` refuses each. -/
theorem test_wf_grp :
    ([.groupIdleExpiry 16, .prepareAllAgreed 16, .backoffExpiry 16] : List Instr).all (fun i => !i.wf) = true := by
  decide +kernel

/-- Ill-formed terms: the check of `feed` refuses each. -/
theorem test_wf_feed :
    ([.feedQualified 2, .feedDisqualified 2 0] : List Instr).all (fun i => !i.wf) = true := by
  decide +kernel

/-- Ill-formed terms: the check of `bayNo` refuses each. -/
theorem test_wf_bayNo :
    ([.bayWarnLeadExpiry 16, .perstDelayExpiry 16] : List Instr).all (fun i => !i.wf) = true := by
  decide +kernel

/-- Ill-formed terms: the check of `n` refuses each. -/
theorem test_wf_n :
    ([.samplerThreshold 16, .sampleCapture 16 0 0 0 0 0 none, .sampleNoRequestTimeout 16] : List Instr).all (fun i => !i.wf) = true := by
  decide +kernel

/-- Ill-formed terms: the check of `dfa` refuses each. -/
theorem test_wf_dfa :
    ([.frameRetired (2 ^ 31)] : List Instr).all (fun i => !i.wf) = true := by
  decide +kernel

/-- Ill-formed terms: the check of `sensor` refuses each. -/
theorem test_wf_sensor :
    ([.dieHot 17 0, .thermtrip 17 0] : List Instr).all (fun i => !i.wf) = true := by
  decide +kernel

/-- Ill-formed terms: the check of `inst` refuses each. -/
theorem test_wf_inst :
    ([.refclkLoss false 2] : List Instr).all (fun i => !i.wf) = true := by
  decide +kernel

/-- Ill-formed terms: the check of `peNo` refuses each. -/
theorem test_wf_peNo :
    ([.pciePeerAccess 2 0 0 false 0 0] : List Instr).all (fun i => !i.wf) = true := by
  decide +kernel

/-- Terms at the ends of their ranges pass. -/
theorem test_wf_ends :
    ([.rdCur { port := 3 }, .cmpAck { port := 3 }, .spdmMsg { port := 3, fragLen := 1, bytes := [7] }, .rsvReq { src := 1023, dst := 1023 },
      .demotionComplete (2 ^ 33 - 1), .refreshDue 15 true 3 7 3, .fullTraining 15 true { dimms := 2, rankBits := 2, cidBits := 3 },
      .ssdResetTimeout 31, .domainWake 151, .nocUe 95 4, .copy 32767 65535, .commandedOn 6 50, .eventAck 6 4095 0] : List Instr).all
      Instr.wf = true := by
  decide +kernel

/-! ## Link -/

def tsEq : BitVec 256 := mkTs (place 256 0 (0x4B : BitVec 8) ||| place 256 144 (1 : BitVec 6))
def ts2 : BitVec 256 := mkTs (place 256 0 (0x2D : BitVec 8) ||| peer)

theorem witness_LinkTrains :
    (portEnabled (withPort {}) 0 = true ∧ txPermitted (withPort {}) = true ∧ (portOf (withPort {}) 0).st = .off) ∧
    (tsValid (tsNorm tsEq) = true ∧ (tsNorm tsEq).extractLsb' 0 8 = (0x4B : BitVec 8)) ∧
    (tsValid (tsNorm ts2) = true ∧ (tsNorm ts2).extractLsb' 0 8 = (0x2D : BitVec 8)) ∧
    ((portOf (withPort { st := .poll }) 0).st = .poll ∧ (portOf (withPort { st := .config }) 0).st = .config) ∧
    ((portOf (withPort { st := .eq }) 0).eqTried = false ∧ 0 < (portOf (withPort { st := .eq }) 0).rate.toNat) ∧
    ((portOf (withPortD { up with st := .retrain }) 0).lossTrain = false ∧ direct (withPortD up) = true ∧
      tsPeerSession (tsNorm ts2) = (portOf (withPortD { up with st := .retrain }) 0).session ∧
      tsSession (tsNorm ts2) = (portOf (withPortD { up with st := .retrain }) 0).peerSession) := by decide +kernel

def offer : Port := { up with cap := 2, lmc := none }
def offered : Port := { up with lmc := some { op := 1, id := 9, arg := 2 } }
def switching : Port := { up with lmc := some { op := 4, id := 9, arg := 2 } }
def widening : Port := { up with width := 1, lmc := some { op := 1, id := 9, arg := 2 }, lmcAccepted := some { op := 2, id := 9, arg := 2 } }
def sleepy : Port := { up with lmc := some { op := 5, id := 9, arg := 1 } }
def gaited (q : Port) : State := { withPort q with aon := { mode := .service, gait := 1 } }

theorem witness_LinkManages :
    (linkRuns (withPort offer) 0 = true ∧ (portOf (withPort offer) 0).lmcSeen = none ∧ inBand offer = true ∧ offer.lmcAccepted = none ∧
      offer.txSwitch = false ∧ offer.lmc = none ∧ fieldNat (2 : BitVec 16) 2 0 ≤ 4 ∧
      widthUpTo offer (min (fieldNat (2 : BitVec 16) 2 0) (widthCap (withPort offer) 0)) = some (2, 0) ∧ 2 ≠ offer.width.toNat) ∧
    (linkRuns (withPort offered) 0 = true ∧ offered.lmcSeen = none ∧ addedLocked offered (fieldNat (2 : BitVec 16) 2 0) = true) ∧
    (linkRuns (withPort widening) 0 = true ∧ widening.lmcSeen = none ∧ addedLocked widening (fieldNat (2 : BitVec 16) 2 0) = false) ∧
    (linkRuns (withPort switching) 0 = true ∧ widthUpTo switching (fieldNat (2 : BitVec 16) 2 0) = some (2, 0)) ∧
    (linkIdle up = true ∧ up.lp = 0 ∧ deepestLp (gaited up) ≠ 0 ∧ fieldNat (1 : BitVec 16) 1 0 = 1) ∧
    (linkRuns (withPort sleepy) 0 = true) ∧ (linkRuns (withPortD up) 0 = true ∧ direct (withPortD up) = true) ∧
    (inBand { up with features := 0 } = false ∧ up.cap ≠ 2 ∧ up.retrains = [] ∧ aflParam (withPort { up with features := 0 }) 0 9 ≠ 0) ∧
    (offered.lmc.isSome = true) ∧
    ((portOf (withPort widening) 0).lmcAccepted = some { op := 2, id := 9, arg := 2 } ∧ widening.rxSwitch = false) := by decide +kernel

def flitPay : BitVec 2048 := mkFlit 1
def flitIdle : BitVec 2048 := mkFlit (place 2048 32 (7 : BitVec 12))
def flitBad : BitVec 2048 := 0x0123456789ABCDEF0123456789ABCDEF

theorem witness_LinkCarries :
    (linkIdle up = true ∧ up.lmc = none ∧ deepestLp (gaited up) ≠ 0) ∧
    (linkRuns (withPort { up with lp := 1, exiting := true }) 0 = true ∧ aflParam (withPort { up with lp := 1 }) 0 9 ≠ 0) ∧
    ((portOf (withPort { up with replay := [default] }) 0).replay ≠ [] ∧ up.replays + 1 < aflParam (withPort up) 0 8) ∧
    (aflParam (withPort up) 0 10 ≤ 1024) ∧
    ((flitDecode (fromLanes up (flitPay ^^^ flitKey up []))).any (fun d => decide (fieldNat d.1 3 0 = 1 ∧ d.1.extractLsb' 4 12 = up.expect ∧
      (∀ i ∈ List.range 15, slotKind d.1 i = 0) ∧ (slotOf d.1 0).getLsbD 28 = false ∧ fieldNat (slotOf d.1 0) 87 84 = 0)) = true) ∧
    ((flitDecode (fromLanes up (flitIdle ^^^ flitKey up []))).any (fun d => decide (fieldNat d.1 3 0 = 0 ∧ d.1.extractLsb' 4 12 = up.expect ∧
      (slotOf d.1 0).getLsbD 28 = false ∧ fieldNat (slotOf d.1 0) 87 84 = 0)) = true) ∧
    flitDecode (fromLanes up flitBad) = none ∧ (∀ d ∈ (withPort up).quay.devReqs, d.held = none) := by decide +kernel

/-! ## Home -/

/-- A request of node 5 to line 0x123. -/
def rq : Req := { port := 0, src := 5, dst := 1, tag := 7, line := 0x123, mask := 0xF0, data := 0x1122334455667788 }

theorem quiet_svc : Quiet svc := ⟨rfl, rfl, rfl, rfl, rfl, rfl, rfl⟩
theorem untouched_svc : Untouched svc 0x123 := ⟨by decide +kernel, by decide +kernel, by decide +kernel, by decide +kernel, by decide +kernel⟩

theorem witness_ServedAtOnce : ServedAtOnce svc rq ∧ dirLine svc (reqLine svc rq) = 0 :=
  ⟨{ mode := by decide +kernel, quiet := quiet_svc, hold := by decide +kernel, restored := by decide +kernel, cmds := by decide +kernel,
     home := by decide +kernel, other := by decide +kernel, inside := by decide +kernel, member := by decide +kernel,
     up := by decide +kernel,
     line := ⟨by decide +kernel, by decide +kernel, by decide +kernel, by decide +kernel, by decide +kernel⟩ }, by decide +kernel⟩

/-- Line 0x123 with its directory set holding entry `e` in place 0. -/
def withDir (e : BitVec 128) : State := { svc with quay := { dirValid := [(dirKey svc 0x123 / 64, true)],
                                                             dir := [(dirKey svc 0x123, setField (0 : BitVec 512) 0 e)] } }
def shared5 : State := withDir (mkShared 0x123 [5] none)
def owned5 : State := withDir (mkOwned 0x123 5)

theorem witness_UpgradeIsGranted :
    ServedAtOnce shared5 rq ∧ (List.range 4).any (fun k => eBad (setEntry (dirLine shared5 (reqLine shared5 rq)) k)) = false ∧
    dirFind (dirLine shared5 (reqLine shared5 rq)) (reqLine shared5 rq) = some 0 ∧
    entryKind (setEntry (dirLine shared5 (reqLine shared5 rq)) 0) = .shared ∧
    ePtrs (setEntry (dirLine shared5 (reqLine shared5 rq)) 0) = [rq.src] :=
  ⟨{ mode := by decide +kernel, quiet := ⟨rfl, rfl, rfl, rfl, rfl, rfl, rfl⟩, hold := by decide +kernel, restored := by decide +kernel,
     cmds := by decide +kernel, home := by decide +kernel, other := by decide +kernel, inside := by decide +kernel,
     member := by decide +kernel, up := by decide +kernel,
     line := ⟨by decide +kernel, by decide +kernel, by decide +kernel, by decide +kernel, by decide +kernel⟩ },
   by decide +kernel, by decide +kernel, by decide +kernel, by decide +kernel⟩

theorem witness_NoticesAreTaken :
    ServedAtOnce owned5 rq ∧ (List.range 4).any (fun k => eBad (setEntry (dirLine owned5 (reqLine owned5 rq)) k)) = false ∧
    dirFind (dirLine owned5 (reqLine owned5 rq)) (reqLine owned5 rq) = some 0 ∧
    entryKind (setEntry (dirLine owned5 (reqLine owned5 rq)) 0) = .owned ∧
    ePtr (setEntry (dirLine owned5 (reqLine owned5 rq)) 0) 0 = rq.src ∧ rq.poison = false :=
  ⟨{ mode := by decide +kernel, quiet := ⟨rfl, rfl, rfl, rfl, rfl, rfl, rfl⟩, hold := by decide +kernel, restored := by decide +kernel,
     cmds := by decide +kernel, home := by decide +kernel, other := by decide +kernel, inside := by decide +kernel,
     member := by decide +kernel, up := by decide +kernel,
     line := ⟨by decide +kernel, by decide +kernel, by decide +kernel, by decide +kernel, by decide +kernel⟩ },
   by decide +kernel, by decide +kernel, by decide +kernel, by decide +kernel, by decide +kernel⟩

theorem witness_WritesAreHeld : rq.mask ≠ 0 ∧ rq.mask ≠ BitVec.allOnes 64 ∧ rq.poison = false := by decide +kernel
def atom : Req := { rq with opndSize := 1, opndOff := 2, operand := 5 }
theorem witness_AtomicsAreExecuted : atomicOk atom = true ∧ reqLine svc atom = reqLine svc rq := by decide +kernel

/-- A grant of line 0x123 to node 5 that waits for CMP_ACK. -/
def grant : Txn := { req := rq, line := 0x123, phase := .ack }
def granted : State := { svc with quay := { txns := [grant] } }
def outA (h : Holder) : SnoopOut := { node := 5, tag := 7, holder := h }
def outB : SnoopOut := { node := 6, tag := 8 }
def snoopTxn (h : Holder) : Txn := { req := { rq with src := 9, op := 3 }, line := 0x123, snoops := [outA h, outB] }
/-- Two snoops of a read of line 0x123, the first of a node that is a holder as given. -/
def snooping (h : Holder) : State := { svc with quay := { txns := [snoopTxn h] } }
def rsp : Rsp := { port := 0, src := 5, dst := 1, tag := 7, data := 0xABCD }

theorem witness_SnoopAwaited (h : Holder) : SnoopAwaited (snooping h) rsp (snoopTxn h) (outA h) outB :=
  ⟨rfl, rfl, rfl, rfl, rfl, ⟨rfl, rfl, rfl, rfl, rfl, rfl⟩, by cases h <;> decide +kernel, ⟨rfl, rfl⟩, by decide +kernel, rfl⟩

theorem witness_AnswersReachHome :
    (granted.quay.txns = [grant] ∧ grant.phase = .ack ∧ grant.wbWait = [] ∧ grant.req.src = rsp.src ∧ grant.req.tag = rsp.tag ∧
      rsp.dst = nodeId granted) ∧ HomeIdle granted ∧
    Untouched (snooping .owner) 0x123 ∧ rsp.poison = false :=
  ⟨by decide +kernel, ⟨rfl, rfl, rfl, rfl, rfl, rfl⟩,
   ⟨by decide +kernel, by decide +kernel, by decide +kernel, by decide +kernel, by decide +kernel⟩, rfl⟩

theorem witness_SnoopsAreAnswered : svc.aon.mode = .service ∧ rq.dst = nodeId svc ∧ portUp svc rq.port = true := by decide +kernel

/-- The device waits for node 5's answer to its read of line 3 there. -/
def asking (op : BitVec 8) : State := { svc with quay := { devReqs := [{ dst := 5, tag := 7, op := op, line := 3 }] } }
def answered : State := { svc with quay := { devReqs := [{ dst := 5, tag := 7, op := 2, line := 3, status := some 0 }] } }

/-- The same with a speculative answer that waits for two more flits. -/
def waitingSpec : DevReq := { dst := 5, tag := 7, op := 2, line := 3, held := some (0x49, 5), spec := 2 }
def speculating : State := { svc with quay := { devReqs := [waitingSpec] } }

theorem witness_RepliesAreTaken :
    ReplyAwaited (asking 2) rsp { dst := 5, tag := 7, op := 2, line := 3 } ∧
    ReplyAwaited (asking 0x40) rsp { dst := 5, tag := 7, op := 0x40, line := 3 } ∧ (asking 2).quay.txns = [] ∧ rsp.status.toNat < 5 ∧
    rsp.fwd = false ∧ rsp.spec = false ∧ ReplyAwaited answered rsp { dst := 5, tag := 7, op := 2, line := 3, status := some 0 } ∧
    ReplyAwaited speculating rsp waitingSpec ∧ waitingSpec.held.isSome = true :=
  ⟨⟨rfl, rfl, ⟨rfl, rfl⟩, by decide +kernel, by decide +kernel⟩, ⟨rfl, rfl, ⟨rfl, rfl⟩, by decide +kernel, by decide +kernel⟩, rfl,
   by decide +kernel, rfl, rfl, ⟨rfl, rfl, ⟨rfl, rfl⟩, by decide +kernel, by decide +kernel⟩,
   ⟨rfl, rfl, ⟨rfl, rfl⟩, by decide +kernel, by decide +kernel⟩, rfl⟩

/-! ## DRAM, pages and channels -/

def pop1 : Population := { dimms := 1, gib := 16, maxRate := 8800, id0 := 1 }
/-- A channel that runs, with 16 GiB. -/
def ch0 : Channel := { trained := true, pop := pop1 }
/-- `svc` with channel 0 as given. -/
def withChan (c : Channel) : State := { svc with dram := { ch := [(0, c)] } }
def mem : State := withChan ch0
/-- Page 4, which holds line 0x123, Hot in frame 7. -/
def hot7 : BitVec 128 := mkHot 0 7 3 0
def withDesc (d : BitVec 128) (s : State) : State := { s with quay.desc := [(4, d)] }
def fetchTxn : Txn := { req := { rq with op := 1 }, line := 0x123, phase := .data }
/-- Line 0x123 is being read from its berth for node 5. -/
def fetching (again : Bool) : State :=
  { withDesc hot7 mem with dram.reads := [{ addr := 7 * 64 + 0x23, line := 0x123, again := again }], quay.txns := [fetchTxn] }

theorem witness_LinesReturn (again : Bool) :
    DataAwaited (fetching again) fetchTxn ∧ BerthLine (fetching again) fetchTxn.line (7 * 64 + 0x23) ∧
    ReadsAs (fetching again) (7 * 64 + 0x23) 0 0 := by
  cases again <;>
    exact ⟨⟨by decide +kernel, ⟨rfl, rfl, rfl, rfl, rfl, rfl⟩, rfl, rfl, by decide +kernel, by decide +kernel⟩,
      ⟨by decide +kernel, by decide +kernel, by decide +kernel, by decide +kernel, by decide +kernel⟩, by decide +kernel, by decide +kernel⟩

/-- One page of zeros, encoded, and a Warm run of it in granule frame 9. -/
def zeroPage : List (BitVec 512 × Bool) := List.replicate 64 (0, false)
def zeroRun : List (BitVec 512) := (encodePage zeroPage).flatten
def warm9 : BitVec 128 := mkWarm 0 (9 * 64) [1, 1, 1, 1] 3 0
def zeroBytes : List Host.Cell :=
  (List.range 4).foldl (fun m i =>
    (List.range 80).foldl (fun m j => sset 0 m ((9 * 64 + i) * 80 + j) ((plainStore (zeroRun.getD i 0) false).extractLsb' (8 * j) 8)) m) []
/-- Page 4 Warm in frame 9, with frame 10 open. -/
def warmed : State :=
  { withDesc warm9 mem with dram.mem := zeroBytes, dram.frameMap := [(9, mkGranFrame 4 4 1), (10, mkGranFrame 0 0 0)],
                            dram.runIdx := [(9, setRun 0 0 (some (0, 4)))], dram.openGran := [10] }
def decodeTxn : Txn := { fetchTxn with run := some (9 * 64) }
def warmRead : State := { warmed with quay.txns := [decodeTxn] }
def spec (good done : Bool) : Spec := { node := 5, tag := 7, line := 0x123, good := good, done := done }
def withSpec (good done : Bool) : State := { withDesc hot7 mem with quay.specs := [spec good done] }
/-- A device with its key wrapping key, whose key context 1 is Active. -/
def keyed : State := { mem with sec.kwk := some 3, dram.keyTable := [(1, setField (0 : BitVec 512) 320 (1 : BitVec 3))] }

theorem witness_VerdictsAndContexts :
    DataAwaited warmRead decodeTxn ∧
    (decodeTxn.run = some (dGranule (descOf warmRead (pageOf 0x123))) ∧ dState (descOf warmRead (pageOf 0x123)) = .warm ∧
      warmLine warmRead (pageOf 0x123) ((0x123 : Line).toNat % 64) = some (0, false) ∧ keyGone warmRead (pageOf 0x123) = false ∧
      (neededGranules warmRead (pageOf 0x123) ((0x123 : Line).toNat % 64)).all (fun k =>
        match granuleCheck warmRead (pageOf 0x123) (descOf warmRead (pageOf 0x123)) k with | .valid _ none => true | _ => false) = true) ∧
    (berthLine (withSpec true false) (pageOf (BitVec.ofNat 39 0x123)) (0x123 % 64) = some (0, false) ∧
      qline (withSpec true false) (BitVec.ofNat 39 0x123) = none ∧
      (bankLines (withSpec true false) (bankOf (withSpec true false) (BitVec.ofNat 39 0x123))).length < dataCap (withSpec true false)) ∧
    (portOf (withSpec false true) 0).egress = [] ∧
    kState (keyEntry keyed 1) = 1 :=
  ⟨⟨by decide +kernel, ⟨rfl, rfl, rfl, rfl, rfl, rfl⟩, rfl, rfl, by decide +kernel, by decide +kernel⟩,
   ⟨by decide +kernel, by decide +kernel, by decide +kernel, by decide +kernel, by decide +kernel⟩,
   ⟨by decide +kernel, by decide +kernel, by decide +kernel⟩,
   by decide +kernel, by decide +kernel⟩

/-- An image of a page of zeros in segment 1 of SSD 0, and its check words. -/
def imageTags : BitVec 512 :=
  (List.range 4).foldl (fun acc g => setField acc (64 * g) (crc64 (bytesOf (zeroRun.getD g 0) 64))) 0
def cold1 : BitVec 128 := mkCold 0 64 0 [1, 1, 1, 1]
def colded : State :=
  { withDesc cold1 mem with
    led.ssd := [(0, { present := true, ready := true, blocks := 2 ^ 20, queues := true })]
    led.segs := [(1, some { start := 64, written := true, committed := true, live := 5, bytes := 4096 })]
    led.flash := [(64 * 64, zeroRun.getD 0 0), (64 * 64 + 1, zeroRun.getD 1 0), (64 * 64 + 2, zeroRun.getD 2 0),
                  (64 * 64 + 3, zeroRun.getD 3 0), (64 * 64 + 4, imageTags)]
    led.mirror := [(4, cold1)] }
def opn (k : OpKind) : PageOp := { page := 4, kind := k }
/-- The state with one operation of page 4. -/
def withOp (o : PageOp) (s : State) : State := { s with tier.ops := [o] }

theorem opAlone (o : PageOp) (s : State) (h : o.page = 4)
    (a : o.poisonAfter = false ∧ o.orphan = [] ∧ o.evict = [] ∧ o.pin = false ∧ o.hot = 0 ∧ o.restore = 0)
    (r : s.dram.retireList = [] ∧ s.tier.orphanWait = []) (q : Quiet s) : OpAlone (withOp o s) 4 o.kind o :=
  ⟨rfl, h, rfl, a, r.1, r.2, q⟩

theorem alone_opn (k : OpKind) (s : State) (r : s.dram.retireList = [] ∧ s.tier.orphanWait = []) (q : Quiet s) :
    OpAlone (withOp (opn k) s) 4 k (opn k) := opAlone (opn k) s rfl ⟨rfl, rfl, rfl, rfl, rfl, rfl⟩ r q

def wantFault : PageOp := { page := 4, kind := .fault, read := true }

theorem witness_PageOperationsEnd_faults :
    OpAlone (withOp wantFault colded) 4 .fault wantFault ∧ OpAlone (withOp (opn .fault) colded) 4 .fault (opn .fault) ∧
    coldImage (withOp wantFault colded) 4 = some zeroRun ∧ zeroRun.length ≤ 63 ∧
    (granFrame (descDie (withOp wantFault colded) 4) zeroRun.length wantFault.always (withOp wantFault colded)).isSome = true :=
  ⟨opAlone wantFault colded rfl ⟨rfl, rfl, rfl, rfl, rfl, rfl⟩ ⟨rfl, rfl⟩ ⟨rfl, rfl, rfl, rfl, rfl, rfl, rfl⟩,
   alone_opn .fault colded ⟨rfl, rfl⟩ ⟨rfl, rfl, rfl, rfl, rfl, rfl, rfl⟩, by decide +kernel, by decide +kernel, by decide +kernel⟩

/-- Page 4, Hot, is being demoted; `demotedV` is the state after its lines have been read. -/
def demoted : State := withOp (opn .demotion) (withDesc hot7 mem)
def demotedV : State := (storedLines 4 (readPage 0 4 demoted)).2

theorem witness_PageOperationsEnd_demotion :
    OpAlone demoted 4 .demotion (opn .demotion) ∧ dState (descOf demoted 4) = .hot ∧
    (storedLines 4 (readPage (opn .demotion).cls 4 demoted)).1 = zeroPage ∧ demotedV.tier = demoted.tier ∧
    demotedV.dram.retireList = [] ∧ demotedV.quay = demoted.quay ∧ Quiet demoted ∧ dState (descOf demotedV 4) = .hot ∧
    ∀ x ∈ zeroPage, x = (0, false) :=
  ⟨alone_opn .demotion (withDesc hot7 mem) ⟨rfl, rfl⟩ ⟨rfl, rfl, rfl, rfl, rfl, rfl, rfl⟩, by decide +kernel, by decide +kernel,
   by decide +kernel, by decide +kernel, by decide +kernel, ⟨rfl, rfl, rfl, rfl, rfl, rfl, rfl⟩, by decide +kernel,
   fun _ h => List.eq_of_mem_replicate h⟩

def moving : PageOp := { page := 4, kind := .compaction, dst := 9 }
def moved : State := withOp moving warmed

theorem witness_PageOperationsEnd_warm :
    OpAlone (withOp (opn .promotion) warmed) 4 .promotion (opn .promotion) ∧
    dState (descOf (withOp (opn .promotion) warmed) 4) = .warm ∧ warmLines (withOp (opn .promotion) warmed) 4 = some zeroPage ∧
    ((decodeTile (opn .promotion).cls 4 (withOp (opn .promotion) warmed)).all (fun v =>
      let w := readGranules (opn .promotion).cls 4 (List.range ((dSizesW (descOf (withOp (opn .promotion) warmed) 4)).foldl (· + ·) 0)) v
      w.tier.ops = [opn .promotion] && w.tier.orphanWait = [] && w.dram.retireList = [] && decide (w.quay.txns = [] ∧ HomeIdle w) &&
      descOf w 4 = descOf (withOp (opn .promotion) warmed) 4 && (newBerth 4 zeroPage (opn .promotion).always w).isSome)) = true ∧
    (decodeTile (opn .promotion).cls 4 (withOp (opn .promotion) warmed)).isSome = true ∧
    OpAlone moved 4 .compaction moving ∧ dGranule (descOf moved 4) / 64 = moving.dst ∧
    openFor moved ((dSizesW (descOf moved 4)).foldl (· + ·) 0) = some 10 ∧ 10 ≠ moving.dst ∧ moving.dst ∉ moved.dram.openGran ∧
    (readRun moved 4).isSome = true :=
  ⟨alone_opn .promotion warmed ⟨rfl, rfl⟩ ⟨rfl, rfl, rfl, rfl, rfl, rfl, rfl⟩, by decide +kernel, by decide +kernel, by decide +kernel,
   by decide +kernel,
   opAlone moving warmed rfl ⟨rfl, rfl, rfl, rfl, rfl, rfl⟩ ⟨rfl, rfl⟩ ⟨rfl, rfl, rfl, rfl, rfl, rfl, rfl⟩, by decide +kernel, by decide +kernel,
   by decide +kernel, by decide +kernel, by decide +kernel⟩

/-- Page 4 Retired: frame 7 is being copied to frame 8, with five lines copied. -/
def leaving : BitVec 128 := dCommon 0 .retired ||| place 128 48 (7 : BitVec 31) ||| place 128 79 (8 : BitVec 31) ||| place 128 110 (5 : BitVec 7)
def relocated : State := withOp (opn .relocation) (withDesc leaving mem)
/-- Engine 0 rekeys page 4, sealed and Unbacked, from key 1 to key 2. -/
def rekeying : State :=
  { withDesc (dSeal 0 true 1) mem with led.engines := [(0, { active := true, first := 0, last := 9, old := 1, new := 2 })] }

theorem witness_PageOperationsEnd_moves :
    OpAlone relocated 4 .relocation (opn .relocation) ∧
    (dState (descOf relocated 4) = .retired ∧ dSealed (descOf relocated 4) = false ∧ dCopied (descOf relocated 4) < 63) ∧
    ReadsAs relocated (dDfa (descOf relocated 4) * 64 + dCopied (descOf relocated 4)) 0 0 ∧
    ((engineOf rekeying 0).active = true ∧ rekeying.led.pending = false ∧ rekeying.aon.mode = .service ∧
      rekeyNext rekeying (engineOf rekeying 0) = some 4) ∧ Quiet rekeying ∧ opOf rekeying 4 = none ∧
    dState (descOf rekeying 4) = .unbacked :=
  ⟨alone_opn .relocation (withDesc leaving mem) ⟨rfl, rfl⟩ ⟨rfl, rfl, rfl, rfl, rfl, rfl, rfl⟩, by decide +kernel,
   ⟨by decide +kernel, by decide +kernel⟩, by decide +kernel, ⟨rfl, rfl, rfl, rfl, rfl, rfl, rfl⟩, by decide +kernel, by decide +kernel⟩

def held (q : QLine) : State := { mem with quay.lines := [(0x123, q)] }
/-- The line held, with a read of it that waits for the merge. -/
def merging (q : QLine) : State := { mem with quay.lines := [(0x123, q)], quay.merges := [0x123] }
def halfLine : QLine := { data := 5, mask := 0xFF, dirty := true }
def dirtyLine : QLine := { data := 5, mask := BitVec.allOnes 64, dirty := true }
/-- A dirty line of page 4, which is Hot. -/
def leavingLine : State := withDesc hot7 (held dirtyLine)
def cleanLine : QLine := { data := 5, mask := BitVec.allOnes 64 }
/-- A device in Recovery whose scanner stands at frame 7. -/
def scanning (e : BitVec 64) (d : BitVec 128) : State :=
  { mem with aon := { mode := .recovery }, tier := { scanPos := 7, decayEpoch := 2 }, dram.frameMap := sset 0 [] 7 e, quay.desc := sset 0 [] 4 d }

theorem witness_LinesAndScanner :
    (Quiet (held cleanLine) ∧ qline (held cleanLine) 0x123 = some cleanLine ∧ cleanLine.dirty = false) ∧
    (qline leavingLine 0x123 = some dirtyLine ∧ (loadCtr (pageOf 0x123) leavingLine).quay.lines = leavingLine.quay.lines ∧
      ((loadCtr (pageOf 0x123) leavingLine).quay.txns = [] ∧ HomeIdle (loadCtr (pageOf 0x123) leavingLine)) ∧
      opOf (loadCtr (pageOf 0x123) leavingLine) (pageOf 0x123) = none ∧
      dState (descOf (loadCtr (pageOf 0x123) leavingLine) (pageOf 0x123)) = .hot ∧
      (lineAddr (descOf (loadCtr (pageOf 0x123) leavingLine) (pageOf 0x123)) ((0x123 : Line).toNat % 64)).isSome = true ∧
      dSealed (descOf (loadCtr (pageOf 0x123) leavingLine) (pageOf 0x123)) = false) ∧
    (qline (merging halfLine) 0x123 = some halfLine ∧ halfLine.mask ≠ BitVec.allOnes 64 ∧
      (merging halfLine).quay.merges.contains (0x123 : Line).toNat = true ∧ (∀ r ∈ (merging halfLine).dram.reads, r.merge = false) ∧
      ((loadCtr (pageOf 0x123) (merging halfLine)).quay.txns = [] ∧ HomeIdle (loadCtr (pageOf 0x123) (merging halfLine))) ∧
      dState (descOf (loadCtr (pageOf 0x123) (merging halfLine)) (pageOf 0x123)) = .unbacked) ∧
    (svc.aon.mode ≠ .watch ∧ svc.time.stopped = false) ∧
    ((scanning 0 0).tier.scanPos + 1 < totalFrames (scanning 0 0) ∧ fUse (frameEntry (scanning 0 0) 7) = 0) ∧
    Quiet (scanning (mkBerthFrame 4) hot7) ∧ (scanning (mkBerthFrame 4) hot7).tier.scanPos + 1 < totalFrames (scanning (mkBerthFrame 4) hot7) ∧
    fUse (frameEntry (scanning (mkBerthFrame 4) hot7) 7) = 1 ∧
    framePending (scanning (mkBerthFrame 4) hot7) (fPage (frameEntry (scanning (mkBerthFrame 4) hot7) 7)) = false ∧
    dReserved (descRaw (scanning (mkBerthFrame 4) hot7) (fPage (frameEntry (scanning (mkBerthFrame 4) hot7) 7))) = false :=
  ⟨⟨⟨rfl, rfl, rfl, rfl, rfl, rfl, rfl⟩, by decide +kernel, by decide +kernel⟩, by decide +kernel, by decide +kernel, by decide +kernel,
   by decide +kernel, ⟨rfl, rfl, rfl, rfl, rfl, rfl, rfl⟩, by decide +kernel, by decide +kernel, by decide +kernel, by decide +kernel⟩

def dq : DramReq := { addr := 64, row := 3, bank := 2 }
def tabled : State := withChan { ch0 with rowTable := [(2, [(3, BitVec.ofNat 16 9999)])] }
def loaded : State := withChan { ch0 with writeQ := List.replicate 60 dq }
def drains (n : Nat) : State := withChan { ch0 with writeQ := List.replicate n dq, wdrain := ch0.wdrain ||| 1 }
def reading : State := withChan { ch0 with readQ := [dq] }

theorem witness_ChannelsRefreshAndDrain :
    (chanRuns mem 0 = true ∧ (chan mem 0).readQ = [] ∧ (chan mem 0).writeQ = []) ∧
    (chanRuns reading 0 = true ∧ (∃ q ∈ (chan reading 0).readQ, refKeyOf q.bank = refKey false 0 0 0) ∧
      sget 0 (chan reading 0).owed (refKey false 0 0 0) < 4) ∧
    ((3, BitVec.ofNat 16 9999) ∈ sget [] (chan tabled 0).rowTable 2 ∧ dchParam tabled 0 5 ≤ (BitVec.ofNat 16 9999).toNat) ∧
    (chanRuns loaded 0 = true ∧ draining (chan loaded 0) = false ∧ drainHi (chan loaded 0) ≤ (chan loaded 0).writeQ.length) ∧
    draining (chan (drains 3) 0) = true ∧ (chan (drains 3) 0).writeQ.length ≤ drainLo (chan (drains 3) 0) := by
  decide +kernel

def corrected : State := withChan { ch0 with corr := [(0, 100)] }

theorem witness_ChannelsAreWatched :
    (0 < (chan mem 0).pop.dimms ∧ (chan mem 0).offline = false ∧ chanRuns mem 0 = true ∧ (chan mem 0).replays < 3) ∧ Quiet mem ∧
    (0 = (if false then 32 else 0) + 0 * 2 ^ (chan corrected 0).pop.cidBits + 0 ∧
      dchParam corrected 0 10 ≤ sget 0 (chan corrected 0).corr (0 * 16 + 0) ∧ sget 0xF (chan corrected 0).marks 0 = 0xF) :=
  ⟨by decide +kernel, ⟨rfl, rfl, rfl, rfl, rfl, rfl, rfl⟩, by decide +kernel⟩

/-- A device in Harnessing, whose SPI NOR holds a calibration record of channel 0. -/
def harness0 : State := { mem with aon := { mode := .harnessing }, dram := {} }
def harnessCal : State :=
  { writeRecord 0 { mem with aon := { mode := .harnessing }, dram.ch := [(0, { ch0 with rate := 8800 })] } with dram := {} }
def headOf (s : State) : BitVec 512 := ((newestSlot s 0).map Prod.snd).getD 0
def sleeping : State := { withChan { ch0 with selfRefresh := true } with sec.chSave := [(0, { valid := true, scrubPos := 3 })] }
def hitRow : State := withChan { ch0 with readQ := [dq], openRows := [(2, some { row := 3 })] }
/-- Page 4 is Hot in frame 7, the only frame in use: the scrubber comes to its first line; one bit of it is wrong where `bad`. -/
def scrubbing (bad : Bool) : State :=
  { withDesc hot7 mem with dram.frameMap := [(7, mkBerthFrame 4)], dram.mem := if bad then [(7 * 64 * 80, 1)] else [] }

theorem witness_ChannelsTrainAndServe :
    (mem.aon.mode = .service ∧ chanRuns mem 0 = true ∧ (chan mem 0).readQ.length < 8 ∧ scrubPaced mem 0 = true ∧
      (mem.time.tide - (chan mem 0).scrubStart).toNat < dchParam mem 0 12 ∧ nextScrub mem 0 = none) ∧
    ((chan sleeping 0).selfRefresh = true ∧ (chan sleeping 0).offline = false ∧ (sget {} sleeping.sec.chSave 0).valid = true) ∧
    (0 < numChans harness0 ∧ popTrains (modChan 0 (fun x => { x with pop := pop1 }) harness0) 0 pop1 = true) ∧
    (popTrains (modChan 0 (fun x => { x with pop := pop1 }) harnessCal) 0 pop1 = true ∧
      newestSlot harnessCal 0 = some (0, headOf harnessCal) ∧ fieldNat (headOf harnessCal) 7 4 = 0 ∧
      fieldNat (headOf harnessCal) 23 8 = setRate (modChan 0 (fun x => { x with pop := pop1 }) harnessCal) 0 pop1 ∧
      (headOf harnessCal).extractLsb' 24 48 = pop1.id0 ∧
      (headOf harnessCal).extractLsb' 72 48 = pop1.id1) ∧
    (chanRuns reading 0 = true ∧ (chan reading 0).owed = [] ∧ (chan reading 0).mitig = [] ∧ (chan reading 0).readQ = [dq] ∧
      (chan reading 0).writeQ = [] ∧ dq.sub = false ∧ (chan reading 0).throttle ≠ 0xF ∧ draining (chan reading 0) = false ∧
      (chan reading 0).openRows = [] ∧ (chan reading 0).rfmDue = [] ∧ (chan reading 0).readWait = [] ∧
      scaleOf reading (instDch 0) ≠ 0) ∧
    (chan hitRow 0).openRows = [(dq.bank, some { row := 3 })] ∧ hitRow.time.tide = 0 ∧ dchParam hitRow 0 3 ≠ 0 ∧
      dchParam hitRow 0 4 ≠ 0 := by
  decide +kernel

theorem scrub_writes (bad : Bool) (x : Coord) (h : coord (scrubbing bad) (7 * 64) = some x) : (chan (scrubbing bad) x.ch).writeQ = [] := by
  have k : (coord (scrubbing bad) (7 * 64)).all (fun x => decide ((chan (scrubbing bad) x.ch).writeQ = [])) = true := by
    cases bad <;> decide +kernel
  rw [h] at k
  exact of_decide_eq_true k

theorem witness_ChannelsTrainAndServe_scrub (bad : Bool) :
    nextScrub (scrubbing bad) 0 = some (7 * 64, 7 * 64) ∧ BerthScrub (scrubbing bad) (7 * 64) ∧
    plainCheckLine (dramContent (scrubbing bad) (7 * 64)) (markOf (scrubbing bad) (7 * 64)) = .valid 0 (if bad then some 0 else none) := by
  cases bad <;>
    exact ⟨by decide +kernel, ⟨by decide +kernel, by decide +kernel, by decide +kernel, by decide +kernel, by decide +kernel,
      by decide +kernel, scrub_writes _, ⟨rfl, rfl, rfl, rfl, rfl, rfl, rfl⟩⟩, by decide +kernel⟩

/-! ## The ledger -/

/-- `svc` with one ledger SSD. -/
def confLed : SMap (List (BitVec 128)) := conf ++ [(9, [rec_ 0x38 0])]
def ssd0 : Ssd := { present := true, ready := true, blocks := 2 ^ 40, queues := true }
def led : State := { mem with cfg := confLed, led.ssd := [(0, ssd0)] }
/-- Page 4 Warm in frame 9, dirty. -/
def dirtied : State := { warmed with cfg := confLed, led := { ssd := [(0, ssd0)], order := [4] }, quay := { desc := [(4, setField warm9 24 (1 : BitVec 1))] } }
def seg1 : Segment := { start := 64, entries := [4], live := 5, bytes := 4096 }
/-- Page 4 in segment 1, which is as given, with its SEG record. -/
def packed (g : Segment) : State :=
  { dirtied with led.segs := [(1, some g)], led.logbook := [(0, place 512 0 (1 : BitVec 8) ||| place 512 8 (1 : BitVec 64))] }
def failing : State := { led with led.segs := [(1, some seg1)] }
/-- Page 4, dirty, being installed. -/
def ageing : State := { dirtied with tier.ops := [opn .rekey] }

/-- A manifest of a ledger of one SSD, with eight segments. -/
def man : Manifest := { generation := 3, ledgerId := 7, segCount := 8, ssdCount := 1, idents := [(0, 9)] }
/-- Page 4, Cold, whose image is the one live image of segment 1, which is sparse. -/
def sumCold : BitVec 128 := mkSum 4 false false 0 [1, 1, 1, 1] 0 false
def segThin : Segment := { start := 48, entries := [sumCold], written := true, committed := true, live := 1 }
def sparse : State :=
  { colded with cfg := confLed, led.manifest := some man, led.segs := [(1, some segThin)], led.nextSeq := 2, led.segTable := true,
                led.idleSecs := 600 }
/-- Page 4, dirty, with a ledger that has room for its snapshot. -/
def packing : State := { dirtied with led.manifest := some man }
def written1 : State := { dirtied with led.segs := [(1, some seg1)] }
/-- The segment of page 4, which is dirty and being installed, fails. -/
def losing : State := { ageing with led.segs := [(1, some seg1)], tier.ops := [opn .fault] }
def mapping : State := { led with led.mapDirty := [(0, 1)] }

theorem witness_PagesAreWrittenBack :
    LedgerRests svc ∧ (svc.aon.mode = .service ∧ svc.led.order = []) ∧
    (600 ≤ { svc with led.idleSecs := 600 }.led.idleSecs ∧ svc.led.segs = []) ∧
    LedgerRests ageing ∧ (dDirty (descOf ageing 4) = true ∧ inFlight ageing 4 = false ∧ pageBars ageing 4 false = true) ∧
    (sget none (packed seg1).led.segs 1 = some seg1 ∧ seg1.written = false ∧ seg1.committed = false ∧ seg1.entries ≠ []) ∧
    LedgerRests (packed { seg1 with written := true }) ∧
    (recorded (packed { seg1 with written := true }) 1 = true ∧ seg1.stale = [] ∧
      (packed { seg1 with written := true }).led.segTable = false ∧ opOf (packed { seg1 with written := true }) (sumPage 4) = none ∧
      dState (descRaw (packed { seg1 with written := true }) (sumPage 4)) = .warm ∧
      dReserved (descRaw (packed { seg1 with written := true }) (sumPage 4)) = false) ∧
    LedgerRests failing ∧ (sget none failing.led.segs 1 = some seg1 ∧
      ∀ e ∈ seg1.entries, dDirty (descOf failing (sumPage e)) = false ∧ opOf failing (sumPage e) = none) ∧
    LedgerRests losing ∧ (dDirty (descOf losing 4) = true ∧ pageBars losing 4 false = true ∧
      (opOf losing 4).map PageOp.kind = some .fault) ∧
    LedgerRests mapping ∧ mapWritable mapping 0 = true :=
  ⟨⟨rfl, rfl, rfl, rfl, rfl, rfl, rfl, rfl⟩, by decide +kernel, by decide +kernel, ⟨rfl, rfl, rfl, rfl, rfl, rfl, rfl, rfl⟩,
   by decide +kernel, by decide +kernel, ⟨rfl, rfl, rfl, rfl, rfl, rfl, rfl, rfl⟩, by decide +kernel,
   ⟨rfl, rfl, rfl, rfl, rfl, rfl, rfl, rfl⟩,
   ⟨by decide +kernel, List.forall_mem_singleton.2 ⟨by decide +kernel, by decide +kernel⟩⟩, ⟨rfl, rfl, rfl, rfl, rfl, rfl, rfl, rfl⟩,
   by decide +kernel, ⟨rfl, rfl, rfl, rfl, rfl, rfl, rfl, rfl⟩, by decide +kernel⟩

theorem witness_PagesAreWrittenBack_probe :
    Quiet sparse ∧ (sparse.aon.mode = .service ∧ segSparse sparse segThin = true ∧ entryLive sparse segThin sumCold = true ∧
      ssdUp sparse (ledSsd (dLedAddr (sget 0 sparse.led.mirror (sumPage sumCold)))) = true ∧
      (entryImage sparse (sumPage sumCold) (sget 0 sparse.led.mirror (sumPage sumCold))).isSome = true ∧
      ((segmentFor 4 (imageLen (sumSizes sumCold)) sparse).bind (fun x => imageOf x.2 false 0 x.1 4 zeroRun)).isSome = true) :=
  ⟨⟨rfl, rfl, rfl, rfl, rfl, rfl, rfl⟩, by decide +kernel⟩

theorem witness_PagesAreWrittenBack_age :
    LedgerRests packing ∧ (dDirty (descOf packing 4) = true ∧ pageBars packing 4 false = false ∧ packing.led.segs = [] ∧
      dState (descOf packing 4) = .warm ∧ (readRun packing 4).isSome = true ∧ (packPage 4 (queuePage 4 packing)).isSome = true ∧
      (∀ u ∈ packPage 4 (queuePage 4 packing), u.quay.txns = [] ∧ HomeIdle u)) ∧ (∀ q ∈ quayLines packing 4, q = none) :=
  ⟨⟨rfl, rfl, rfl, rfl, rfl, rfl, rfl, rfl⟩, by decide +kernel, by decide +kernel⟩

theorem witness_PagesAreWrittenBack_record :
    sget none written1.led.segs 1 = some seg1 ∧ written1.led.mapDirty = [] ∧ recorded written1 1 = false ∧ 0 < param written1 0x07 12 := by
  decide +kernel

/-- A device in Harnessing whose SSD 0 has not reported. -/
def reporting : State := { led with aon := { mode := .harnessing, loaded := true }, led := {} }
def ident : Identity := { nguid := 9, blocks := 2 ^ 40 }
def resetting : State := { led with led.ssd := [(0, { ssd0 with resetting := true, ready := false })] }

theorem witness_SsdsAreWatched :
    LedgerRests led ∧ ((ssdIndices led).contains 0 = true ∧ (ssdOf led 0).present = true ∧ (ssdOf led 0).ready = true ∧
      led.led.segs = [] ∧ led.led.mirror = [] ∧ (ssdOf led 0).failed = false ∧ (ssdOf led 0).resets = []) ∧
    LedgerRests resetting ∧ ((ssdOf resetting 0).resetting = true ∧ (ssdOf resetting 0).failed = false) ∧
    LedgerRests reporting ∧ ((ssdIndices reporting).contains 0 = true ∧ reporting.aon.mode = .harnessing ∧
      inPlace reporting 0 ident = true ∧ failedItem reporting ident = 0 ∧ reporting.led.chosen = false ∧
      (ssdOf reporting 0).failed = false ∧ reporting.led.openOwed = false) ∧
    failedItem reporting { ident with protection := true } = 2 :=
  ⟨⟨rfl, rfl, rfl, rfl, rfl, rfl, rfl, rfl⟩, by decide +kernel, ⟨rfl, rfl, rfl, rfl, rfl, rfl, rfl, rfl⟩, by decide +kernel,
   ⟨rfl, rfl, rfl, rfl, rfl, rfl, rfl, rfl⟩, by decide +kernel, by decide +kernel⟩

/-- A device in Holdup at a step of Table 7.10, with no feed. -/
def holding (n : Nat) : State := { mem with aon := { mode := .holdup }, led := { hStep := n }, port := [] }
/-- A device in Watch, with the power path powered and answering. -/
def watching : State := { svc with aon := { mode := .watch }, time.stopped := true, ppd.linkUp := true, port := [] }
def withFeed (s : State) : State := { s with ppd.ch := [(0, { qual := true })] }
/-- Page 4, dirty, is the dirty list, in one fragment; `o` are the page operations. -/
def listing (o : List PageOp) : State :=
  { packing with aon := { mode := .holdup }, led.hStep := 2, led.listPages := [4], led.listSeq := 5, led.frags := [(0, 500)], tier.ops := o }

theorem witness_OutageIsHeld_list :
    LedgerRests (listing [opn .rekey]) ∧ ((listing []).led.segs = [] ∧ firstReady (listing []) = some 0 ∧
      dDirty (descOf (listing []) 4) = true ∧ pageBars (listing [opn .rekey]) 4 false = true ∧ pageBars (listing []) 4 false = false ∧
      (packPage 4 { writeList { listing [] with led.hStep := 3 } with led.queue := [4] }).isSome = true ∧
      (∀ u ∈ packPage 4 { writeList { listing [] with led.hStep := 3 } with led.queue := [4] }, u.quay.txns = [] ∧ HomeIdle u)) :=
  ⟨⟨rfl, rfl, rfl, rfl, rfl, rfl, rfl, rfl⟩, by decide +kernel⟩

theorem witness_OutageIsHeld :
    Quiet svc ∧ (anyFeed svc = false ∧ svc.tier.ops = [] ∧ svc.reins.hold = []) ∧
    LedgerRests (holding 2) ∧ ((holding 1).aon.mode = .holdup ∧ (holding 2).led.listPages = [] ∧ (holding 2).led.segs = []) ∧
    (dirtyPages (holding 3) = 0 ∧ (holding 3).tier.ops = [] ∧ (holding 3).quay.lines = []) ∧
    (∀ p, (portOf (holding 5) p).st = .off ∧ (portOf (holding 5) p).held = false) ∧
    (anyFeed (withFeed (holding 3)) = true ∧ param watching 0x07 2 < 10 ^ 6 ∧ watching.ppd.linkUp = true ∧
      slotFaulted watching = none) ∧
    Quiet (withFeed watching) ∧ anyFeed (withFeed watching) = true ∧ slotFaulted (withFeed watching) = none ∧
    watching.aon.dramRetained = false ∧ watching.port = [] :=
  ⟨⟨rfl, rfl, rfl, rfl, rfl, rfl, rfl⟩, by decide +kernel, ⟨rfl, rfl, rfl, rfl, rfl, rfl, rfl, rfl⟩, by decide +kernel, by decide +kernel,
   fun _ => ⟨rfl, rfl⟩, by decide +kernel, ⟨rfl, rfl, rfl, rfl, rfl, rfl, rfl⟩, by decide +kernel, by decide +kernel, by decide +kernel, rfl⟩

def choosing : State := { reporting with led.ssd := [(0, { ssd0 with nguid := 9, manifest := some (manFor man 0) })] }
/-- A device in Recovery, with the restore in a phase. -/
def recovering (n : Nat) : State := { mem with aon := { mode := .recovery }, led := { chosen := true, restorePhase := n }, port := [] }
def pendingFrames : State :=
  { recovering 1 with cfg := confLed, led.ssd := [(0, ssd0)], led.pending := true, led.flashMap := [(4, withChk8 cold1)] }
/-- The restore reads page 4, Cold and in category 3 of the hot list. -/
def restoringHot : State :=
  { colded with aon := { mode := .recovery }, cfg := confLed, led.restorePhase := 2, led.hotList := [(4, 3)], port := [] }

theorem witness_OutageIsRecovered_pages :
    (restoredDesc pendingFrames 4).1 ≠ 0 ∧ atWm restoringHot 8 = false ∧ nextHot restoringHot 3 0 = some 4 ∧
    dState (descOf (descFix 4 restoringHot) 4) = .cold ∧ opOf (descFix 4 restoringHot) 4 = none ∧
    faultRoom (descFix 4 restoringHot) = true ∧ capRoom (descFix 4 restoringHot) (restoreClass (descFix 4 restoringHot)) = true := by
  decide +kernel

theorem copies_choosing : copies choosing = [(0, manFor man 0)] := by
  have l : (ssdIndices choosing).filter (ssdUp choosing) = [0] := by decide +kernel
  have c : ssdCopy (ssdOf choosing 0) = some (true, manFor man 0) := Laws.ssdCopy_written _ man 0 rfl rfl
  simp [copies, l, c]
theorem newest_choosing : newest (copies choosing) = some (manFor man 0) := by simp [copies_choosing, newest]
theorem fault_choosing : manifestFault choosing (manFor man 0) = none :=
  Laws.manifestFault_single _ _ copies_choosing (by decide +kernel) (by decide +kernel)
    (show sget 0 man.idents 0 = 9 by decide +kernel) (show man.fmtMajor = 1 by decide +kernel) (show man.fmtMinor = 0 by decide +kernel)

theorem witness_OutageIsRecovered :
    ({ svc with time.stopped := true }.time.stopped = true ∧ svc.aon.mode ≠ .watch ∧ svc.time.slowFail = false ∧
      svc.time.stopped = false ∧ svc.time.fastFail = false) ∧
    (choosing.aon.mode = .harnessing ∧ choosing.aon.loaded = true ∧ param choosing 0x07 17 = 0 ∧
      (∀ i ∈ ssdIndices choosing, ssdUp choosing i = true)) ∧ newest (copies choosing) = some (manFor man 0) ∧
    manifestFault choosing (manFor man 0) = none ∧
    ((recovering 0).led.chosen = true ∧ (recovering 0).led.pending = false ∧ (recovering 0).led.segTable = false) ∧
    Quiet pendingFrames ∧ (pendingFrames.led.pending = true ∧ sget false pendingFrames.led.restored 0 = false ∧
      256 * 0 < numPages pendingFrames) ∧
    (numPages { recovering 1 with led.restorePos := 2 ^ 20 } ≤ 256 * 2 ^ 20 ∧ 256 * (recovering 1).led.restorePos < numPages (recovering 1)) ∧
    LedgerRests (recovering 2) ∧ (recovering 2).led.segTable = false ∧
    Quiet { recovering 2 with aon.dramRetained := true } ∧ anyFeed { recovering 2 with aon.dramRetained := true } = false ∧
    (recovering 2).tier.ops = [] ∧ (recovering 2).reins.hold = [] ∧ anyFeed reporting = false ∧ reporting.aon.writeAccepted = false :=
  ⟨by decide +kernel, by decide +kernel, newest_choosing, fault_choosing, by decide +kernel, ⟨rfl, rfl, rfl, rfl, rfl, rfl, rfl⟩,
   by decide +kernel, by decide +kernel, ⟨rfl, rfl, rfl, rfl, rfl, rfl, rfl, rfl⟩, rfl, ⟨rfl, rfl, rfl, rfl, rfl, rfl, rfl⟩,
   by decide +kernel, rfl, rfl, by decide +kernel, rfl⟩

def waiter : Waiter := { req := rq, due := some 5 }
def lateReq : State := { svc with quay := { busy := [waiter] } }
/-- A request held at port 0, in Maintenance. -/
def heldReq : State := { svc with aon := { mode := .maintenance }, reins := { hold := [(0, [waiter])] } }
/-- A request held at port 0, in Service. -/
def waitRd : Waiter := { req := { rq with op := 1 } }
def heldRd : State := { svc with reins := { hold := [(0, [waitRd])] } }

theorem witness_ReinsAreApplied_service :
    (sget [] heldRd.reins.hold 0 = [waitRd] ∧ capRoom heldRd waitRd.req.cls = true ∧ dirLine heldRd (reqLine heldRd waitRd.req) = 0) ∧
    ServedAtOnce { heldRd with reins.hold := sset [] heldRd.reins.hold 0 [] } waitRd.req :=
  ⟨by decide +kernel,
   { mode := by decide +kernel, quiet := ⟨rfl, rfl, rfl, rfl, rfl, rfl, rfl⟩, hold := by decide +kernel, restored := by decide +kernel,
     cmds := by decide +kernel, home := by decide +kernel, other := by decide +kernel, inside := by decide +kernel,
     member := by decide +kernel, up := by decide +kernel,
     line := ⟨by decide +kernel, by decide +kernel, by decide +kernel, by decide +kernel, by decide +kernel⟩ }⟩

theorem witness_ReinsAreApplied :
    Quiet svc ∧ (lateReq.quay.txns = [] ∧ lateReq.reins.waiters = [] ∧ lateReq.quay.busy = [waiter] ∧ waiter.due = some 5 ∧
      waiter.overdue = false) ∧
    heldReq.aon.mode = .maintenance ∧ sget [] heldReq.reins.hold 0 = [waiter] ∧
    capRoom heldReq waiter.req.cls = true ∧ waiter.req.src ≠ nodeId heldReq ∧
    portUp heldReq waiter.req.port = true :=
  ⟨⟨rfl, rfl, rfl, rfl, rfl, rfl, rfl⟩, by decide +kernel, rfl, by decide +kernel, by decide +kernel, by decide +kernel, by decide +kernel⟩

/-! ## The network -/

/-- A request of endpoint 1 for room at the tile in column 1 of row 0 of die 0. -/
def ask : RsvMsg := { src := 1, dst := 8, res := 0, count := 4 }
/-- Tile 1, the one at endpoint 8, as given. -/
def tile1 (d : Domain) : State := { svc with noc := { dom := [(1, d)] } }
def askedFor : State := { svc with noc := { asked := [(rsvKey 1 8 0, 4)], granted := [(rsvKey 1 8 0, 4)] } }
def unusedRoom : State := { svc with noc := { granted := [(rsvKey 1 8 0, 4)], unused := [(rsvKey 1 8 0, 4)] } }

/-- What holds of the default and of every entry holds of every read. -/
theorem sget_all {α : Type} {P : α → Prop} {d : α} {m : SMap α} (hd : P d) (hm : ∀ e ∈ m, P e.2) (k : Nat) : P (sget d m k) := by
  induction m with
  | nil => exact hd
  | cons e r ih =>
    simp only [List.mem_cons, forall_eq_or_imp] at hm
    unfold sget
    split
    · exact hm.1
    · exact ih hm.2

theorem witness_ReservationsAreKept :
    (1 ≤ ask.count ∧ ask.count ≤ 255 ∧ sget 0 svc.noc.asked (rsvKey ask.src ask.dst ask.res) = 0 ∧ svc.noc.waiting = [] ∧
      svc.noc.bridge = [] ∧ svc.noc.queues = [] ∧ svc.noc.fifo = [] ∧
      mayGrant svc ask.dst = true ∧ rsvRoom svc ask.dst ask.res ask.count ≠ 0) ∧
    (epDomain ask.dst = some 1 ∧ (domOf (tile1 { st := .asleep }) 1).st = .asleep) ∧
    (ask.count ≤ sget 0 askedFor.noc.asked (rsvKey ask.src ask.dst ask.res) ∧
      ask.count + sget 0 askedFor.noc.unused (rsvKey ask.src ask.dst ask.res) ≤
        sget 0 askedFor.noc.granted (rsvKey ask.src ask.dst ask.res)) ∧
    sget 0 unusedRoom.noc.unused (rsvKey ask.src ask.dst ask.res) ≠ 0 := by
  decide +kernel

theorem witness_DomainsSleepAndWake :
    ((domOf (tile1 { st := .entering }) 1).st = .entering ∧ (domOf (tile1 { st := .entering }) 1).inflight = 0) ∧
    (∀ k, (domOf (tile1 { st := .entering }) k).wakeEvent = false) ∧
    (domExists (tile1 { st := .asleep }) 1 = true ∧
      ∀ k ∈ groupDoms (tile1 { st := .asleep }) (domGroup (tile1 { st := .asleep }) 1),
        (domOf (tile1 { st := .asleep }) k).st ≠ .entering) ∧
    (domOf (tile1 { st := .waking }) 1).st = .waking ∧ (domOf (tile1 { st := .waking }) 1).heldRsv = [] :=
  ⟨by decide +kernel, sget_all (P := fun d : Domain => d.wakeEvent = false) rfl (by decide +kernel), by decide +kernel, by decide +kernel⟩

def switchOwed : State := { svc with noc := { ackPending := true } }
def retiring (n : Nat) : State := { svc with noc := { retiring := some false, injected := [(0, 5)], ejected := [(0, n)] } }
def frozen : State := { svc with frz := { held := true }, noc := { rings := [(2, [7, 8])] } }

theorem witness_MeshIsWatched :
    (svc.frz.held = false ∧ (bridgeOf svc 0).down = false ∧ svc.fuse.variantH = false ∧ (bridgeOf svc 0).replays < 7) ∧
    (bridgeOf { svc with noc.bridge := [(0, { replays := 7 })] } 0).replays = 7 ∧
    (switchOwed.noc.ackPending = true ∧ switchOwed.noc.retiring = none) ∧
    ((retiring 5).noc.retiring = some false ∧ sget 0 (retiring 5).noc.injected 0 = sget 0 (retiring 5).noc.ejected 0) ∧
    (sget 0 (retiring 4).noc.injected 0 ≠ sget 0 (retiring 4).noc.ejected 0 ∧ (retiring 4).frz.held = false) ∧
    frozen.frz.held = true ∧ frozen.frz.ignored ≠ 0xFF ∧ frozen.frz.routersDone = 0 := by
  decide +kernel

theorem witness_DumpHoldsTheRings :
    frozen.frz.held = true ∧ frozen.frz.routersDone = 0 ∧ (∀ k, (sget [] frozen.noc.rings k).length ≤ 64) ∧ 2 < 48 * numDies frozen ∧
    (sget [] frozen.noc.rings 2).reverse[1]? = some 7 ∧ ∃ t, exec .freezeDumpComplete frozen = .next t :=
  ⟨rfl, rfl, sget_all (P := fun l : List (BitVec 256) => l.length ≤ 64) (by decide) (by decide), by decide +kernel, by decide +kernel,
   ⟨_, rfl⟩⟩

/-! ## Command rings -/

/-- Ring 0 as software writes it: 64 entries at page 10, 256 completions at page 20, version 1, privileged. -/
def ctx0 : BitVec 256 :=
  place 256 2 (1 : BitVec 1) ||| place 256 30 (1 : BitVec 4) ||| place 256 34 (6 : BitVec 5) ||| place 256 39 (8 : BitVec 5) |||
  place 256 44 (10 : BitVec 33) ||| place 256 77 (20 : BitVec 33) ||| place 256 22 (63 : BitVec 8)
/-- Ring 0 running, with one entry submitted. -/
def ctx1 : BitVec 256 := ctx0 ||| 1 ||| place 256 160 (5 : BitVec 3) ||| place 256 208 (1 : BitVec 16)
def withCtx (c : BitVec 256) (s : State) : State := { s with rings.ctx := [(0, c)] }
/-- A submission entry: opcode, SRC, DST, LENGTH, ARG0. -/
def sqe (op src dst len arg0 : Nat) : BitVec 512 :=
  BitVec.ofNat 512 (op + src * 2 ^ 64 + dst * 2 ^ 128 + len * 2 ^ 192 + arg0 * 2 ^ 256)
def cmd (e : BitVec 512) : RCmd := { entry := e }
def withCmd (c : RCmd) (s : State) : State := { s with rings.cmds := [c] }
/-- The entry of a FILL of line 0x123, in the Quay data partition at SQ_HEAD. -/
def fetchable : State := { withCtx ctx1 mem with quay.lines := [(640, some { data := sqe 2 0 (0x123 * 64) 64 9, mask := BitVec.allOnes 64 })] }
def ending : RCmd := { cmd 0 with started := true, finished := true }
def posting : State := withCmd ending (withCtx ctx1 mem)

theorem witness_RingsRun :
    (ringExists (withCtx ctx0 mem) 0 = true ∧ rEnable (ctxOf (withCtx ctx0 mem) 0) = false ∧ rState (ctxOf (withCtx ctx0 mem) 0) = 0 ∧
      enableCheck (withCtx ctx0 mem) 0 (setField (ctxOf (withCtx ctx0 mem) 0) 0 (((ctx0.extractLsb' 0 32) ||| 1) &&& 0xFFFFF007)) = 0) ∧
    Quiet (withCtx ctx0 mem) ∧
    ((ctxOf (withCtx ctx1 mem) 0).extractLsb' 0 32 = ctx1.extractLsb' 0 32 ∧
      ctx1.extractLsb' 0 32 &&& 0xFFFFF007 = ctx1.extractLsb' 0 32 ∧ rEnable (ctxOf (withCtx ctx1 mem) 0) = true ∧
      rInProg (ctxOf (withCtx ctx1 mem) 0) = 0 ∧ rState (ctxOf (withCtx ctx1 mem) 0) = 1 ∧
      fieldNat (63 : BitVec 32) 15 0 < 2 ^ rSqLog (ctxOf (withCtx ctx1 mem) 0) ∧
      fieldNat (255 : BitVec 32) 15 0 < 2 ^ rCqLog (ctxOf (withCtx ctx1 mem) 0)) ∧
    pickRing fetchable 0 = some 0 ∧
    (readLine (BitVec.ofNat 39 (rSqBase (ctxOf fetchable 0) * 64 + rSqHead (ctxOf fetchable 0))) (rClass (ctxOf fetchable 0)) 0xFFF
        fetchable).1 = .bytes (sqe 2 0 (0x123 * 64) 64 9) ∧
    Quiet (readLine (BitVec.ofNat 39 (rSqBase (ctxOf fetchable 0) * 64 + rSqHead (ctxOf fetchable 0))) (rClass (ctxOf fetchable 0)) 0xFFF
        fetchable).2 ∧
    checkEntry (readLine (BitVec.ofNat 39 (rSqBase (ctxOf fetchable 0) * 64 + rSqHead (ctxOf fetchable 0))) (rClass (ctxOf fetchable 0))
        0xFFF fetchable).2
      (rSetInProg (rInProg (ctxOf fetchable 0) + 1)
        (setField (ctxOf fetchable 0) 192 (BitVec.ofNat 16 ((rSqHead (ctxOf fetchable 0) + 1) % 2 ^ rSqLog (ctxOf fetchable 0)))))
      (sqe 2 0 (0x123 * 64) 64 9) = none ∧
    Quiet posting ∧ (posting.rings.cmds = [ending] ∧ ending.finished = true ∧ ending.lost = false ∧ posting.led.pending = false) ∧
    (1280 = BitVec.ofNat 39 (rCqBase (ctxOf posting ending.ring) * 64 + rCqTail (ctxOf posting ending.ring) / 4) ∧
      dirLine posting 1280 = 0 ∧ unfoldLine (indexBits posting) (foldLine (indexBits posting) 1280) = 1280) ∧
    Untouched posting 1280 :=
  ⟨by decide +kernel, ⟨rfl, rfl, rfl, rfl, rfl, rfl, rfl⟩, by decide +kernel, by decide +kernel, by decide +kernel,
   ⟨by decide +kernel, by decide +kernel, by decide +kernel, by decide +kernel, by decide +kernel⟩, by decide +kernel,
   ⟨rfl, rfl, rfl, rfl, rfl, rfl, rfl⟩, by decide +kernel, by decide +kernel,
   ⟨by decide +kernel, by decide +kernel, by decide +kernel, by decide +kernel, by decide +kernel⟩⟩

theorem commandAlone (c : RCmd) (op : Nat) (s : State) (h : eOp c.entry = op)
    (f : c.started = false ∧ c.finished = false ∧ c.pos = 0 ∧ c.waits = [] ∧ c.first = [] ∧ c.firstBad = none ∧ c.result = 0 ∧ c.detail = 0)
    (o : s.tier.ops = []) (p : s.led.pending = false) (q : Quiet s) : CommandAlone (withCmd c s) c op := ⟨rfl, h, f, o, p, q⟩

/-- The command of an entry stands alone in a state where nothing goes on. -/
theorem alone_cmd (e : BitVec 512) (op : Nat) (s : State) (h : eOp e = op) (o : s.tier.ops = []) (p : s.led.pending = false) (q : Quiet s) :
    CommandAlone (withCmd (cmd e) s) (cmd e) op := commandAlone (cmd e) op s h ⟨rfl, rfl, rfl, rfl, rfl, rfl, rfl, rfl⟩ o p q

def filling : RCmd := { cmd (sqe 2 0 (0x123 * 64) 64 9) with started := true }
/-- A COPY and a COMPARE of line 0x123 and line 0x523. -/
def unitOf (op : Nat) : RCmd := { cmd (sqe op (0x123 * 64) (0x523 * 64) 64 0) with started := true }

theorem witness_MoversRun_units :
    (eLen (unitOf 1).entry = 64 ∧ eSrc (unitOf 1).entry = (0x123 : Line).toNat * 64 ∧ eDst (unitOf 1).entry = (0x523 : Line).toNat * 64 ∧
      eOp (unitOf 1).entry = 0x01 ∧ eOp (unitOf 3).entry = 0x03 ∧ pageOf 0x123 ≠ pageOf 0x523 ∧
      dirLine (withCmd (unitOf 1) mem) 0x123 = 0 ∧ dirLine (withCmd (unitOf 1) mem) 0x523 = 0) ∧
    Quiet (withCmd (unitOf 1) mem) ∧ Untouched (withCmd (unitOf 1) mem) 0x123 ∧ Untouched (withCmd (unitOf 1) mem) 0x523 :=
  ⟨by decide +kernel, ⟨rfl, rfl, rfl, rfl, rfl, rfl, rfl⟩,
   ⟨by decide +kernel, by decide +kernel, by decide +kernel, by decide +kernel, by decide +kernel⟩,
   ⟨by decide +kernel, by decide +kernel, by decide +kernel, by decide +kernel, by decide +kernel⟩⟩
def fixing : RCmd := { cmd (sqe 0x0A 0x8000 0x4000 4096 0) with started := true }

theorem witness_MoversRun :
    CommandAlone (withCmd (cmd (sqe 1 0x8000 0x4000 64 0)) mem) (cmd (sqe 1 0x8000 0x4000 64 0)) 0x01 ∧
    CommandAlone (withCmd (cmd (sqe 2 0 0x4000 0 9)) mem) (cmd (sqe 2 0 0x4000 0 9)) 0x02 ∧
    CommandAlone (withCmd (cmd (sqe 3 0x8000 0x4000 64 0)) mem) (cmd (sqe 3 0x8000 0x4000 64 0)) 0x03 ∧
    CommandAlone (withCmd (cmd (sqe 0x0A 0x8000 0x4000 4096 0)) mem) (cmd (sqe 0x0A 0x8000 0x4000 4096 0)) 0x0A ∧
    (eLen (sqe 1 0x8000 0x4000 64 0) ≠ 0 ∧ eLen (sqe 2 0 0x4000 0 9) = 0) ∧
    (eOp filling.entry = 0x02 ∧ eLen filling.entry = 64 ∧ eDst filling.entry = (0x123 : Line).toNat * 64 ∧
      dirLine (withCmd filling mem) 0x123 = 0) ∧
    Quiet (withCmd filling mem) ∧ Untouched (withCmd filling mem) 0x123 ∧
    CommandAlone (withCmd (cmd (sqe 4 0 0x4000 4096 0)) (withDesc hot7 mem)) (cmd (sqe 4 0 0x4000 4096 0)) 0x04 ∧
    (eLen (sqe 4 0 0x4000 4096 0) = 4096 ∧ eDst (sqe 4 0 0x4000 4096 0) = 4 * 4096 ∧ (withDesc hot7 mem).quay.dir = [] ∧
      dReserved (descRaw (withDesc hot7 mem) 4) = false) ∧
    isSnapshot fixing = true ∧ Quiet (withCmd fixing mem) :=
  ⟨alone_cmd _ _ mem (by decide +kernel) rfl rfl ⟨rfl, rfl, rfl, rfl, rfl, rfl, rfl⟩, alone_cmd _ _ mem (by decide +kernel) rfl rfl ⟨rfl, rfl, rfl, rfl, rfl, rfl, rfl⟩,
   alone_cmd _ _ mem (by decide +kernel) rfl rfl ⟨rfl, rfl, rfl, rfl, rfl, rfl, rfl⟩, alone_cmd _ _ mem (by decide +kernel) rfl rfl ⟨rfl, rfl, rfl, rfl, rfl, rfl, rfl⟩,
   by decide +kernel, by decide +kernel, ⟨rfl, rfl, rfl, rfl, rfl, rfl, rfl⟩,
   ⟨by decide +kernel, by decide +kernel, by decide +kernel, by decide +kernel, by decide +kernel⟩,
   alone_cmd _ _ (withDesc hot7 mem) (by decide +kernel) rfl rfl ⟨rfl, rfl, rfl, rfl, rfl, rfl, rfl⟩, by decide +kernel, by decide +kernel,
   ⟨rfl, rfl, rfl, rfl, rfl, rfl, rfl⟩⟩

def hotMem : State := withDesc hot7 mem
def pinned : State := withDesc (dFlag hot7 26 true) mem
/-- Page 4 Hot and clean, with a ledger copy. -/
def copied : State := { colded with quay.desc := [(4, dFlag hot7 25 true)] }
/-- A command on page 4. -/
def on4 (op : Nat) : BitVec 512 := sqe op 0 0x4000 4096 1
def query : BitVec 512 := sqe 0x0B 0x4000 (0x500 * 64) 4096 0

theorem reads_hot4 : ∀ i < 64, lineOffline (withCmd (cmd (on4 0x0C)) hotMem) (7 * 64 + i) = false ∧
    plainCheckLine (dramContent (withCmd (cmd (on4 0x0C)) hotMem) (7 * 64 + i) ^^^ 0)
      (markOf (withCmd (cmd (on4 0x0C)) hotMem) (7 * 64 + i)) = .valid 0 none := by
  decide +kernel

theorem witness_PageCommandsRun :
    CommandAlone (withCmd (cmd (on4 5)) hotMem) (cmd (on4 5)) 0x05 ∧
    (eLen (on4 5) = 4096 ∧ eDst (on4 5) = 4 * 4096 ∧ dState (descOf hotMem 4) = .hot ∧ dPin (descOf hotMem 4) = false ∧
      dReserved (descRaw hotMem 4) = false ∧ pinFits hotMem [4] = true) ∧
    CommandAlone (withCmd (cmd (on4 6)) pinned) (cmd (on4 6)) 0x06 ∧
    (dPin (descOf pinned 4) = true ∧ dReserved (descRaw pinned 4) = false ∧ queuePageOf pinned 4 = false) ∧
    CommandAlone (withCmd (cmd (on4 7)) copied) (cmd (on4 7)) 0x07 ∧
    ((eArg0 (on4 7)).getLsbD 0 = true ∧ dState (descOf copied 4) = .hot ∧ dReserved (descRaw copied 4) = false ∧ coldOk copied 4 = true) ∧
    CommandAlone (withCmd (cmd (on4 8)) colded) (cmd (on4 8)) 0x08 ∧ (colded.aon.mode = .service ∧ dState (descOf colded 4) = .cold) ∧
    CommandAlone (withCmd (cmd (sqe 9 0 0 4096 0)) hotMem) (cmd (sqe 9 0 0 4096 0)) 0x09 ∧
    (∀ e ∈ hotMem.quay.desc, dDirty (dView e.2) = false) ∧
    CommandAlone (withCmd (cmd query) hotMem) (cmd query) 0x0B ∧
    (eSrc query = 4 * 4096 ∧ eDst query = (0x500 : Line).toNat * 64 ∧ dirLine (withCmd (cmd query) hotMem) 0x500 = 0) ∧
    Untouched (withCmd (cmd query) hotMem) 0x500 ∧
    CommandAlone (withCmd (cmd (on4 0x0C)) hotMem) (cmd (on4 0x0C)) 0x0C ∧ dSealed (descOf (withCmd (cmd (on4 0x0C)) hotMem) 4) = false ∧
    ∀ i, i < 64 → ∃ y, ReadsAs (withCmd (cmd (on4 0x0C)) hotMem) (dDfa (descOf (withCmd (cmd (on4 0x0C)) hotMem) 4) * 64 + i) 0 y :=
  ⟨alone_cmd _ _ hotMem (by decide +kernel) rfl rfl ⟨rfl, rfl, rfl, rfl, rfl, rfl, rfl⟩, by decide +kernel,
   alone_cmd _ _ pinned (by decide +kernel) rfl rfl ⟨rfl, rfl, rfl, rfl, rfl, rfl, rfl⟩, by decide +kernel,
   alone_cmd _ _ copied (by decide +kernel) rfl rfl ⟨rfl, rfl, rfl, rfl, rfl, rfl, rfl⟩, by decide +kernel,
   alone_cmd _ _ colded (by decide +kernel) rfl rfl ⟨rfl, rfl, rfl, rfl, rfl, rfl, rfl⟩, by decide +kernel,
   alone_cmd _ _ hotMem (by decide +kernel) rfl rfl ⟨rfl, rfl, rfl, rfl, rfl, rfl, rfl⟩, List.forall_mem_singleton.2 (by decide +kernel),
   alone_cmd _ _ hotMem (by decide +kernel) rfl rfl ⟨rfl, rfl, rfl, rfl, rfl, rfl, rfl⟩, by decide +kernel,
   ⟨by decide +kernel, by decide +kernel, by decide +kernel, by decide +kernel, by decide +kernel⟩,
   alone_cmd _ _ hotMem (by decide +kernel) rfl rfl ⟨rfl, rfl, rfl, rfl, rfl, rfl, rfl⟩, by decide +kernel,
   fun i h => ⟨0, by simpa [ReadsAs, show dDfa (descOf (withCmd (cmd (on4 0x0C)) hotMem) 4) = 7 from by decide +kernel] using reads_hot4 i h⟩⟩

/-- A PERSIST_BARRIER of the whole space, with page 4 Warm and dirty. -/
def barrier : RCmd := cmd (sqe 9 0 0 0 0)
def dirtyMem : State := { warmed with quay := { desc := [(4, setField warm9 24 (1 : BitVec 1))] } }

theorem witness_PageCommandsRun_barrier :
    CommandAlone (withCmd barrier dirtyMem) barrier 0x09 ∧
    (eLen barrier.entry = 0 ∧ dDirty (dView (setField warm9 24 (1 : BitVec 1))) = true ∧
      dState (dView (setField warm9 24 (1 : BitVec 1))) = .warm ∧ dSealed (dView (setField warm9 24 (1 : BitVec 1))) = false ∧
      (readRun (withCmd barrier dirtyMem) 4).isSome = true ∧ (∀ q ∈ quayLines (withCmd barrier dirtyMem) 4, q = none)) :=
  ⟨alone_cmd _ _ dirtyMem (by decide +kernel) rfl rfl ⟨rfl, rfl, rfl, rfl, rfl, rfl, rfl⟩, by decide +kernel⟩

/-- KEY_LOAD of key 1 with the transport key of slot 0. -/
def loadCmd : BitVec 512 := sqe 0x10 5 0 0 0 ||| place 512 384 (1 : BitVec 64)
def ktkMem : State := { mem with sec.kwk := some 3, sec.ktk := [(0, some 4)] }
def rekeyCmd : BitVec 512 := sqe 0x12 0x4000 0 4096 (1 + 2 * 2 ^ 32)
def wrapped : BitVec 512 := setField (0 : BitVec 512) 320 (1 : BitVec 3)
/-- Keys 1 and 2 Active, their contexts in the key partition. -/
def twoKeys : State :=
  { mem with dram.keyTable := [(1, wrapped), (2, wrapped)], quay.keyCtx := [(16, some { keyId := 1 }), (32, some { keyId := 2 })] }
/-- RETIRE_BANK of a bank that no frame lies in. -/
def noFrames : State := svc

theorem free_frames : ∀ f, regionOf mem f = none ∧ fUse (frameEntry mem f) = 0 := by
  intro f
  have r : regionOf mem f = none := by
    have e : regions mem = [] := by decide +kernel
    simp [regionOf, e]
  exact ⟨r, by simp [frameEntry, r, show mem.dram.frameMap = [] from rfl, sget, fUse]; decide +kernel⟩

theorem witness_SystemCommandsRun_bank :
    mem.dram.retireList = [] ∧ ∀ f, f < totalFrames mem → frameInBank mem (eArg0 (sqe 0x14 0 0 0 0)).toNat f = true →
      regionOf mem f = none ∧ (fUse (frameEntry mem f) = 0 ∨ fUse (frameEntry mem f) = 4) :=
  ⟨rfl, fun f _ _ => ⟨(free_frames f).1, .inl (free_frames f).2⟩⟩

theorem witness_SystemCommandsRun :
    CommandAlone (withCmd (cmd loadCmd) ktkMem) (cmd loadCmd) 0x10 ∧
    (keyState (withCmd (cmd loadCmd) ktkMem) ((eArg2 loadCmd).extractLsb' 0 20) ≠ 1 ∧
      sget none ktkMem.sec.ktk (fieldNat (eArg2 loadCmd) 35 32) = some 4) ∧
    CommandAlone (withCmd (cmd (sqe 0x11 0 0 0 1)) twoKeys) (cmd (sqe 0x11 0 0 0 1)) 0x11 ∧
    (1 = (eArg0 (sqe 0x11 0 0 0 1)).extractLsb' 0 20 ∧ keyState twoKeys 1 = 1 ∧ firstPass twoKeys = false ∧
      kPages (keyEntry twoKeys 1) = 0 ∧ kSrc (keyEntry twoKeys 1) = false ∧ kDst (keyEntry twoKeys 1) = false) ∧
    CommandAlone (withCmd (cmd rekeyCmd) twoKeys) (cmd rekeyCmd) 0x12 ∧
    (1 = (eArg0 rekeyCmd).extractLsb' 0 20 ∧ 2 = (eArg0 rekeyCmd).extractLsb' 32 20 ∧ eLen rekeyCmd ≠ 0 ∧
      keyState twoKeys 2 = 1 ∧ twoKeys.led.engines = []) ∧
    CommandAlone (withCmd (cmd (sqe 0x13 0 0 0 77)) mem) (cmd (sqe 0x13 0 0 0 77)) 0x13 ∧
    (regionOf mem (eArg0 (sqe 0x13 0 0 0 77)).toNat = none ∧ (eArg0 (sqe 0x13 0 0 0 77)).toNat < totalFrames mem ∧
      fUse (frameEntry mem (eArg0 (sqe 0x13 0 0 0 77)).toNat) = 0 ∧ mem.dram.retireList = []) ∧
    CommandAlone (withCmd (cmd (sqe 0x14 0 0 0 0)) noFrames) (cmd (sqe 0x14 0 0 0 0)) 0x14 ∧
    (∀ f, f < totalFrames (withCmd (cmd (sqe 0x14 0 0 0 0)) noFrames) →
      frameInBank (withCmd (cmd (sqe 0x14 0 0 0 0)) noFrames) (eArg0 (sqe 0x14 0 0 0 0)).toNat f = true →
      regionOf (withCmd (cmd (sqe 0x14 0 0 0 0)) noFrames) f = none ∧ fUse (frameEntry (withCmd (cmd (sqe 0x14 0 0 0 0)) noFrames) f) = 4) ∧
    CommandAlone (withCmd (cmd (sqe 0x15 0 0 0 0)) mem) (cmd (sqe 0x15 0 0 0 0)) 0x15 :=
  ⟨alone_cmd _ _ ktkMem (by decide +kernel) rfl rfl ⟨rfl, rfl, rfl, rfl, rfl, rfl, rfl⟩, by decide +kernel,
   alone_cmd _ _ twoKeys (by decide +kernel) rfl rfl ⟨rfl, rfl, rfl, rfl, rfl, rfl, rfl⟩, by decide +kernel,
   alone_cmd _ _ twoKeys (by decide +kernel) rfl rfl ⟨rfl, rfl, rfl, rfl, rfl, rfl, rfl⟩, by decide +kernel,
   alone_cmd _ _ mem (by decide +kernel) rfl rfl ⟨rfl, rfl, rfl, rfl, rfl, rfl, rfl⟩, by decide +kernel,
   alone_cmd _ _ noFrames (by decide +kernel) rfl rfl ⟨rfl, rfl, rfl, rfl, rfl, rfl, rfl⟩,
   fun f h => absurd h (by have : totalFrames (withCmd (cmd (sqe 0x14 0 0 0 0)) noFrames) = 0 := by decide +kernel
                           omega),
   alone_cmd _ _ mem (by decide +kernel) rfl rfl ⟨rfl, rfl, rfl, rfl, rfl, rfl, rfl⟩⟩

/-! ## Power -/

/-- `svc` with channels of the power path as given. -/
def power (l : SMap PChan) : State := { svc with ppd := { powered := true, ch := l }, fuse := { boardProg := true } }
def slotIn (st : PSt) : State := power [(3, { st := st, present := true, cfg := cfgDefault 3 })]
/-- No channel waits for its inrush. -/
theorem none_queued {m : SMap PChan} {s : State} (e : s.ppd.ch = m) (h : ∀ x ∈ m, x.2.queued = false) : ∀ j, (pch s j).queued = false := by
  subst e
  exact sget_all (P := fun c : PChan => c.queued = false) rfl h

theorem witness_ChannelsTrip :
    (pch (slotIn .on) 3).st = .on ∧ (pch (slotIn .inrush) 3).st = .inrush ∧ (∀ j, (pch (slotIn .on) j).queued = false) :=
  ⟨by decide +kernel, by decide +kernel, none_queued rfl (List.forall_mem_singleton.2 rfl)⟩

/-- A slot that AUTO_ON does not raise. -/
def manualSlot : State := power [(3, { st := .debounce, present := true })]

theorem witness_ChannelsPowerUp :
    ((pch (slotIn .inrush) 3).st = .inrush ∧ (pch (slotIn .inrush) 3).queued = false) ∧ Quiet (slotIn .inrush) ∧
    (isSlot 3 = true ∧ chExists (slotIn .absent) 3 = true ∧ (pch (slotIn .absent) 3).st = .absent ∧
      (pch (slotIn .on) 3).present = true ∧ (pch (slotIn .on) 3).st ≠ .damaged ∧ (pch manualSlot 3).st = .debounce ∧
      cAutoOn (pch manualSlot 3).cfg = false) ∧
    (∀ j, (pch (slotIn .debounce) j).queued = false) ∧
    (inInrush (slotIn .debounce) < 8 ∧ (pch (slotIn .debounce) 3).st = .debounce ∧ cAutoOn (pch (slotIn .debounce) 3).cfg = true ∧
      powersRails (slotIn .debounce).aon.mode = true ∧ (slotIn .debounce).fuse.boardProg = true) ∧
    (∀ j, (pch (slotIn .cooldown) j).queued = false) ∧ (inInrush (slotIn .cooldown) < 8 ∧ (pch (slotIn .cooldown) 3).st = .cooldown) ∧
    (isFeed 0 = true ∧ (pch (power [(0, { st := .cooldown })]) 0).st = .cooldown ∧ (pch (power [(3, { pg := true })]) 3).pg = true) ∧
    (chExists (slotIn .off) 3 = true ∧ damageTest 3 (pch (slotIn .off) 3) ≠ 0) :=
  ⟨by decide +kernel, ⟨rfl, rfl, rfl, rfl, rfl, rfl, rfl⟩, by decide +kernel, none_queued rfl (List.forall_mem_singleton.2 rfl), by decide +kernel,
   none_queued rfl (List.forall_mem_singleton.2 rfl), by decide +kernel, by decide +kernel, by decide +kernel⟩

def holdOn : PChan := { st := .on, pg := true, cfg := cfgDefault 2 }
def carrier : PChan := { st := .on, pg := true, qual := true, carrying := true, cfg := cfgDefault 1 }
def standby : PChan := { st := .standby, qual := true, cfg := cfgDefault 0 }
/-- Feeds 0 and 1 and HOLD as given, the store at 14 V. -/
def feeds (a b h : PChan) : State := { power [(0, a), (1, b), (2, h)] with ppd := { powered := true, vStore := 14000, ch := [(0, a), (1, b), (2, h)] } }
def coming : PChan := { st := .debounce, cfg := cfgDefault 0 }
/-- A changeover to feed 0, in its break. -/
def breaking : State := { feeds standby standby holdOn with ppd.newFeed := some 0 }
def bayOn : State := power [(35, { st := .on, present := true, pg := true, cfg := cfgDefault 35 })]

theorem witness_FeedsCarryTheBus :
    ((feeds coming {} holdOn).ppd.powered = true ∧ (pch (feeds coming {} holdOn) 0).st = .debounce ∧
      (pch (feeds coming {} holdOn) 0).cmdOff = false ∧ (feeds coming {} holdOn).ppd.newFeed = none ∧
      (pch (feeds coming {} holdOn) (1 - 0)).carrying = false ∧ (pch (feeds coming carrier holdOn) 0).st = .debounce ∧
      (pch (feeds coming carrier holdOn) (1 - 0)).carrying = true) ∧
    ((pch (feeds standby carrier holdOn) 1).qual = true ∧ (pch (feeds standby carrier holdOn) 1).carrying = true ∧
      holdReady (feeds standby carrier holdOn) = true) ∧
    (ppdParam (feeds standby carrier holdOn) 4 = 0 ∧ (pch (feeds standby carrier holdOn) 0).qual = true ∧
      (pch (feeds standby carrier holdOn) 0).st = .standby ∧ (feeds standby carrier holdOn).ppd.newFeed = none) ∧
    (breaking.ppd.newFeed = some 0 ∧ breaking.ppd.breakDone = false ∧ breaking.ppd.testing = false ∧
      (pch breaking (0 : BitVec 1).toNat).st = .standby) ∧
    (chExists (slotIn .on) 3 = true ∧ (slotIn .on).ppd.linkUp = true ∧ (pch (slotIn .on) 3).st = .on ∧ offRefused (slotIn .on) 3 = false ∧
      isBay 3 = false) ∧ Quiet (slotIn .on) ∧
    (chExists (feeds coming carrier holdOn) 1 = true ∧ (pch (feeds coming carrier holdOn) 1).st = .on ∧
      offRefused (feeds coming carrier holdOn) 1 = true) ∧
    (chExists bayOn 35 = true ∧ (pch bayOn 35).st = .on ∧ offRefused bayOn 35 = false ∧ isBay 35 = true) ∧
    ((pch (slotIn .off) 3).st = .off ∧ (slotIn .off).fuse.boardProg = true ∧ inInrush (slotIn .off) < 8 ∧
      chExists (feeds {} {} {}) 0 = true ∧ (pch (feeds {} {} {}) 0).st = .off ∧ (pch (feeds {} {} {}) 2).st = .off) ∧
    ∀ j, (pch (slotIn .off) j).queued = false :=
  ⟨by decide +kernel, by decide +kernel, by decide +kernel, by decide +kernel, by decide +kernel, ⟨rfl, rfl, rfl, rfl, rfl, rfl, rfl⟩,
   by decide +kernel, by decide +kernel, by decide +kernel, none_queued rfl (List.forall_mem_singleton.2 rfl)⟩

def testedStore : State := { breaking with ppd.testing := true, ppd.testV1 := 14000 }
def warnedBay : State := power [(35, { st := .on, present := true, pg := true, warned := true })]

theorem witness_StoreIsMeasured :
    ((feeds {} carrier holdOn).ppd.powered = true ∧ (pch (feeds {} carrier holdOn) 2).st = .on ∧ (pch (feeds {} carrier holdOn) 2).pg = true ∧
      (pch (feeds {} carrier holdOn) 2).timer = false ∧ ppdParam (feeds {} carrier holdOn) 10 < 14000) ∧
    chExists (slotIn .on) 3 = true ∧
    ((feeds {} carrier holdOn).aon.mode = .service ∧ (pch (feeds {} carrier holdOn) 1).carrying = true ∧
      (pch (feeds {} carrier holdOn) (1 - 1)).carrying = false ∧ holdReady (feeds {} carrier holdOn) = true ∧
      (feeds {} carrier holdOn).ppd.newFeed = none ∧ (feeds {} carrier holdOn).ppd.testing = false) ∧
    (testedStore.ppd.testing = true ∧ testedStore.ppd.newFeed = some 0 ∧
      testedStore.ppd.testV1.toNat ≤ (testedStore.ppd.testV1.toNat - 13900) * 200 ∧
      (testedStore.ppd.testV1.toNat - 13999) * 200 < testedStore.ppd.testV1.toNat) ∧
    svc.ppd.linkUp = true ∧ ((pch warnedBay (0 + 35)).warned = true ∧ (pch warnedBay (0 + 35)).st = .on) ∧ (pch bayOn (0 + 35)).pg = true := by
  decide +kernel

/-- SSD 0, answering, and no port. -/
def ledDark : State := { led with port := [] }

theorem witness_HeatClocksAndSupplies :
    (105 ≤ 120 ∧ sensorExists svc 16 = true ∧ sensorExists svc 17 = false ∧ svc.aon.dieHot = false ∧ sget 0 svc.log.rate (epAon.toNat * 256 + 0x6D) < 16 ∧ svc.aon.thermTrip = false) ∧
    ({ svc with aon.thermTrip := true }.aon.thermTrip = true ∧ svc.time.slowFail = false ∧ svc.time.fastFail = false ∧
      svc.time.stopped = false) ∧
    (diesDark ledDark = false ∧ 0 < numDies ledDark) ∧ Quiet ledDark ∧ (∀ p, portUp ledDark p = false) ∧ LedgerRests ledDark ∧
    ledDark.led.segs = [] ∧ (∀ i, (ssdOf ledDark i).resets = []) ∧ (ssdIndices ledDark).Nodup ∧ (ssdIndices ledDark = [0] ∧
      peOf ledDark 0 = 0 ∧ (ssdOf ledDark 0).present = true ∧ (ssdOf ledDark 0).failed = false) ∧
    (State.reset.ppd.powered = false ∧ State.reset.fuse.boardProg = false ∧ State.reset.fuse.variantH = false) :=
  ⟨by decide +kernel, by decide +kernel, by decide +kernel, ⟨rfl, rfl, rfl, rfl, rfl, rfl, rfl⟩, fun _ => rfl, ⟨rfl, rfl, rfl, rfl, rfl, rfl, rfl, rfl⟩, rfl,
   sget_all (P := fun x : Ssd => x.resets = []) rfl (List.forall_mem_singleton.2 rfl), by decide +kernel, by decide +kernel, by decide +kernel⟩

/-- Page 4 sealed, in frame 7. -/
def sealedMem : State := { mem with quay.desc := [(4, dSeal hot7 true 1)], dram.frameMap := [(7, mkBerthFrame 4)], aon := { mode := .service, loaded := true } }

/-- The same with its channel offline. -/
def offMem : State := { sealedMem with dram.ch := [(0, { ch0 with offline := true })] }

theorem witness_OutsidersAreConfined :
    (svc.aon.mode = .service ∧ (0 : Nat) < numDies svc ∧ (0x48C8 : BitVec 64).toNat < capacity svc ∧ svc.reins.hold = [] ∧
      svc.rings.cmds = [] ∧ svc.led.pending = false ∧ 0x123 = BitVec.ofNat 39 ((0x48C8 : BitVec 64).toNat / 64) ∧
      unfoldLine (indexBits svc) (foldLine (indexBits svc) 0x123) = 0x123 ∧ dirLine svc 0x123 = 0) ∧ Quiet svc ∧ Untouched svc 0x123 ∧
    (diesDark sealedMem = false ∧ 0 < numDies sealedMem ∧ (0x4000 : BitVec 64).toNat < capacity sealedMem ∧
      dSealed (descOf sealedMem (pageOf (BitVec.ofNat 39 ((0x4000 : BitVec 64).toNat / 64)))) = true ∧
      sget 0 sealedMem.log.rate ((epPe 0).toNat * 256 + 5) < 16) ∧
    (sealedMem.aon.loaded = true ∧ 7 < totalFrames sealedMem ∧ debugBarred sealedMem 8 = false ∧ lineOffline sealedMem (8 * 64) = false ∧
      debugBarred sealedMem 7 = true ∧ totalFrames sealedMem ≤ (BitVec.ofNat 37 (2 ^ 36)).toNat / 64 ∧
      lineOffline offMem (8 * 64) = true ∧ debugBarred offMem 8 = false ∧ 7 < totalFrames offMem) ∧
    ∀ c, (chan sealedMem c).writeQ.length < 64 :=
  ⟨by decide +kernel, quiet_svc, untouched_svc, by decide +kernel, by decide +kernel,
   sget_all (P := fun c : Channel => c.writeQ.length < 64) (by decide) (by decide)⟩

/-! ## Reset, boot and modes -/

/-- A device with a programmed board configuration in Stall, with RESET_N and PWROK as given. -/
def stalled (low ok : Bool) : State := { aon := { resetLow := low, pwrok := ok }, fuse := { boardProg := true } }

theorem witness_ResetInputsAct :
    ((stalled false true).aon.resetLow = false ∧ (stalled false true).aon.pwrok = true ∧ (stalled true true).aon.mode = .stall ∧
      (stalled true true).fuse.boardProg = true ∧ (stalled true true).aon.resetLow = true ∧ (stalled true true).aon.pwrok = true ∧
      (stalled false false).aon.resetLow = false ∧ (stalled false false).aon.pwrok = false) ∧
    { stalled false true with aon.restart := true }.aon.restart = true ∧ mayHarness { stalled false true with aon.restart := true } = true := by
  decide +kernel

/-- A device in Harnessing before its images are loaded. -/
def booting : State := { aon := { mode := .harnessing } }

theorem witness_BootChoosesACopy :
    (booting.aon.mode = .harnessing ∧ booting.aon.loaded = false) ∧ Quiet booting ∧ FirstCopy booting false ∧
    svc.aon.loaded = false ∧ { svc with aon.loaded := true }.aon.loaded = true :=
  ⟨by decide +kernel, ⟨rfl, rfl, rfl, rfl, rfl, rfl, rfl⟩, Or.inl ⟨by decide +kernel, rfl⟩, rfl, rfl⟩

/-- The header of an image without sections: the magic number alone (R366). -/
def bareImage : List (BitVec 128) := (0x534E5248 : BitVec 128) :: List.replicate 7 0
/-- PATCH_BASE is 0, and the Quay data partition holds the image in lines 0 and 1. -/
def patching : State :=
  { svc with mgt.fwRuns := [(0, true)],
             quay := { lines := [(0, some { data := 0x534E5248, mask := BitVec.allOnes 64 }), (1, some { data := 0, mask := BitVec.allOnes 64 })] } }
def patchRead (s : State) : Option (List Got) × State :=
  readLines (BitVec.ofNat 8 (designated patching 0)) (BitVec.ofNat 12 (fieldNat (classRec patching (designated patching 0)) 66 55))
    (linesOf 0 128) s
def patchRead1 : State := (patchRead { patching with mgt.patchStat := mkPatchStat 0 0 false true }).2
def patchRead2 : State := (patchRead patchRead1).2

theorem witness_PatchesAreJudged :
    ({ patching with mgt.patchStat := 1 }.aon.mode ≠ .stall ∧ { patching with mgt.patchStat := 1 }.aon.mode ≠ .watch ∧
      sget false { patching with mgt.patchStat := 1 }.mgt.fwRuns 0 = true ∧ patchBusy { patching with mgt.patchStat := 1 } = true) ∧
    ({ patching with aon := { mode := .drain } }.aon.mode ≠ .service ∧ { patching with aon := { mode := .drain } }.aon.mode ≠ .maintenance ∧
      patchBusy { patching with aon := { mode := .drain } } = false) ∧
    (patching.aon.mode = .service ∧ sget false patching.mgt.fwRuns 0 = true ∧ patchBusy patching = false ∧
      0 = patching.mgt.patchBase.toNat % 2 ^ 45 / 64 * 64 ∧ imgSigned bareImage + imgSigLen bareImage = 0 ∧
      0 + max 0 128 ≤ capacity patching) ∧
    ((patchRead { patching with mgt.patchStat := mkPatchStat 0 0 false true }).1.bind wordsOf = some bareImage ∧
      fieldNat (imgHeader bareImage) 31 0 = 0x534E5248 ∧ capacity patchRead1 = capacity patching ∧ ceilDiv (max 0 128) 64 * 64 = 128 ∧
      (patchRead patchRead1).1.bind wordsOf = some bareImage) ∧
    Quiet patchRead2 ∧ (patchRead2.led.queue = [] ∧ patchRead2.aon.mode = .service) ∧
    ∀ c ∈ imgSecs (bareImage.take (ceilDiv 0 16)), c.ty ≠ 5 ∧ c.ty ≠ 6 :=
  ⟨by decide +kernel, by decide +kernel, by decide +kernel, by decide +kernel,
   ⟨by decide +kernel, by decide +kernel, by decide +kernel, by decide +kernel, by decide +kernel⟩, by decide +kernel, by decide +kernel⟩

/-- A REGION record: code, first frame, frames, channel set. -/
def region (code first n k : Nat) : BitVec 128 := rec_ 0x22 (code + first * 2 ^ 8 + n * 2 ^ 39 + k * 2 ^ 71)
/-- Section 2 with a channel set on each die and every region that 1 GiB needs. -/
def sec2 : List (BitVec 128) :=
  [par 0x0D 2 (2 ^ 30), rec_ 0x20 (2 * 2 ^ 5), rec_ 0x20 (1 + 2 * 2 ^ 5 + 8 * 2 ^ 8),
   region 0x01 0 1024 0, region 0x02 1024 1 0, region 0x04 2048 16384 0, region 0x0F 20480 16384 0, region 0x10 40000 261 0,
   region 0x11 41000 1024 0, region 0x13 65536 393216 0, region 0x14 500000 256 0, region 0x15 45000 4 0,
   region 0x03 5000000 1 1, region 0x05 5000001 16384 1, region 0x15 5100000 4 1] ++
  (List.range 16).map (fun i => region (0x20 + i) (524288 + 65536 * i) 65536 0)
/-- A device whose two channels have trained, in a mode. -/
def trainedIn (m : Mode) : State :=
  { svc with cfg := [(1, sec1), (2, sec2)], aon := { mode := m, loaded := true }, dram := { ch := [(0, ch0), (8, ch0)] },
             led := { chosen := true }, port := [] }
/-- Recovery that is complete with retained DRAM. -/
def complete : State := { trainedIn .recovery with aon := { mode := .recovery }, led := { chosen := true, pending := true } }
def drainingTo (m closing : Bool) : State :=
  { svc with aon := { mode := .drain, drainToMaint := m, drainClosing := closing }, cfg := confDirect, port := [] }

theorem witness_ModesFollowTheTable :
    ((trainedIn .harnessing).aon.mode = .harnessing ∧ trained (trainedIn .harnessing) = true ∧ (trainedIn .harnessing).led.chosen = true ∧
      (trainedIn .harnessing).led.inconsistent = 0 ∧ populationFault (trainedIn .harnessing) = none ∧
      check06 (trainedIn .harnessing) = true ∧ (trainedIn .harnessing).aon.maintNext = false) ∧
    (complete.aon.mode = .recovery ∧ recovered complete = true ∧ complete.reins.hold = []) ∧ Quiet complete ∧
    LedgerRests svc ∧ (svc.led.order = [] ∧ (trainedIn .recovery).aon.mode ≠ .service ∧ (trainedIn .recovery).aon.mode ≠ .maintenance) ∧
    ((trainedIn .maintenance).aon.mode = .maintenance ∧ trained (trainedIn .maintenance) = true ∧
      (trainedIn .maintenance).led.chosen = true) ∧
    LedgerRests (drainingTo false false) ∧ (direct (drainingTo false false) = true ∧ dirtyPages (drainingTo false true) = 0 ∧
      dirtyPages (drainingTo true true) = 0) ∧ Quiet (drainingTo true true) ∧ (∀ p, portUp (drainingTo true true) p = false) :=
  ⟨by decide +kernel, by decide +kernel, ⟨rfl, rfl, rfl, rfl, rfl, rfl, rfl⟩, ⟨rfl, rfl, rfl, rfl, rfl, rfl, rfl, rfl⟩, by decide +kernel, by decide +kernel,
   ⟨rfl, rfl, rfl, rfl, rfl, rfl, rfl, rfl⟩, by decide +kernel, ⟨rfl, rfl, rfl, rfl, rfl, rfl, rfl⟩, fun _ => rfl⟩

/-- Service in a gait, with group 0 in a phase and its tiles in a state. -/
def striding (g : Nat) (p : GrpSt) (d : DomSt) : State :=
  { svc with aon := { mode := .service, gait := BitVec.ofNat 2 g }, port := [],
             noc := { grp := [(0, { phase := p })], dom := (groupDoms svc 0).map (fun n => (n, { st := d })) } }

theorem witness_GaitsAndSleepEntries :
    ((striding 3 .awake .awake).aon.mode = .service ∧ gaitGoal { striding 3 .awake .awake with aon.gaitMax := 1 } < 3 ∧
      0 < gaitGoal (striding 0 .awake .awake)) ∧
    ((striding 1 .awake .awake).mgt.holdGallop = false ∧ gaitPermits (striding 1 .awake .awake) 1 0 = true ∧
      (grpOf (striding 1 .awake .awake) 0).phase = .awake ∧ (grpOf (striding 1 .awake .awake) 0).running = false ∧
      ∀ n ∈ groupDoms (striding 1 .awake .awake) 0,
        (domOf (striding 1 .awake .awake) n).st = .awake ∧ domBusy (striding 1 .awake .awake) n = false) ∧
    ((grpOf (striding 1 .prepare .prepared) 0).phase = .prepare ∧ groupDoms (striding 1 .prepare .prepared) 0 ≠ [] ∧
      ∀ n ∈ groupDoms (striding 1 .prepare .prepared) 0,
        (domOf (striding 1 .prepare .prepared) n).st = .prepared ∧ domBusy (striding 1 .prepare .prepared) n = false) ∧
    (grpOf (striding 1 .prepare .prepared) (domGroup (striding 1 .prepare .prepared) 1)).phase = .prepare := by
  decide +kernel

/-! ## Messages, the log and registers -/

/-- `svc` with management and events enabled on every port. -/
def confMgmt : SMap (List (BitVec 128)) := [(1, par 0x0D 7 1 :: par 0x0D 6 1 :: sec1), (2, [par 0x0D 2 (2 ^ 30), rec_ 0x20 0])]
def managed : State := { svc with cfg := confMgmt }
def manag (off : Nat) : Mgmt := { port := 0, src := 5, dst := 1, tag := 7, be := 0x0F, offset := BitVec.ofNat 26 off, data := 0x84018080 }
def frag (i : Nat) (last : Bool) : Spdm :=
  { port := 0, src := 5, dst := 1, tag := 7, fragLen := 2, fragIndex := BitVec.ofNat 8 i, last := last, bytes := [1, 2] }

theorem witness_ManagementIsServed :
    (managed.aon.mode = .service ∧ managed.reins.hold = [] ∧ (manag 0x58).dst = nodeId managed ∧ mgmtEnable managed (manag 0x58).port = true ∧
      portUp managed (manag 0x58).port = true ∧ (manag 0x58).offset = 0x58 ∧ (manag 0x58).wide = false ∧ (manag 0x58).be = 0x0F ∧
      1 ≤ fieldNat (manag 0x58).data 29 20 ∧ 1 ≤ fieldNat (manag 0x58).data 19 12 ∧ 1 ≤ fieldNat (manag 0x58).data 11 4 ∧
      (manag 0x50000).offset = 0x50000) ∧ Quiet managed ∧
    ((frag 0 false).dst = nodeId managed ∧ mgmtEnable managed (frag 0 false).port = true ∧ 1 ≤ (frag 0 false).fragLen.toNat ∧
      (frag 0 false).fragLen.toNat ≤ 208 ∧ (frag 0 false).fragIndex = 0 ∧ (sget {} managed.mgt.spdm (spdmKey (frag 0 false))).active = false ∧
      (sget {} managed.mgt.spdm (spdmKey (frag 0 false))).bytes = [] ∧ (frag 0 true).last = true ∧ (frag 1 true).fragIndex ≠ 0) :=
  ⟨by decide +kernel, ⟨rfl, rfl, rfl, rfl, rfl, rfl, rfl⟩, by decide +kernel⟩

/-- Event 3 has been counted on a device that sends events. -/
def counted : State := { managed with ev.count := [(3, 2)], ev.ctl := [(3, some 1)] }
/-- A grant as the only work of the home. -/
def slowGrant : State := { granted with cfg := conf }
def lateTxn : Txn := { req := { rq with src := 9, op := 3 }, line := 0x123, snoops := [outA .owner, outB] }

theorem witness_MessagesAndTimeouts :
    (diesDark svc = false ∧ 1 = nodeId svc ∧ (portOf svc 0).features.getLsbD 1 = true ∧ (2 : BitVec 3).toNat < 6) ∧
    eventDue counted 0 3 = true ∧
    (direct slowGrant = false ∧ slowGrant.quay.txns = [grant] ∧ slowGrant.quay.busy = [] ∧ slowGrant.quay.notices = [] ∧
      slowGrant.quay.parked = [] ∧ slowGrant.reins.waiters = [] ∧ grant.phase = .ack ∧ grant.snoops = [] ∧ grant.wbWait = [] ∧
      grant.req.src = 5 ∧ grant.req.tag = 7) ∧
    (direct (snooping .owner) = false ∧ (snooping .owner).quay.txns = [lateTxn] ∧ lateTxn.snoops = [outA .owner, outB] ∧
      lateTxn.phase = .snoop ∧ lateTxn.victim = none ∧ (outA .owner).node = 5 ∧ (outA .owner).tag = 7 ∧ (outA .owner).holder = .owner ∧
      outB.node ≠ 5) ∧
    ((asking 2).quay.devReqs = [{ dst := 5, tag := 7, op := 2, line := 3 }] ∧ direct (asking 2) = false) := by
  decide +kernel

/-- An entry of class 1 waits to be stored. -/
def arriving (n : Nat) : State := { svc with log := { inbox := [setField (0 : BitVec 512) 4 (1 : BitVec 2)], count := n } }
/-- Slots 0 to 2 hold entries with SEQ 0 to 2. -/
def logged : State :=
  { svc with log := { count := 3, seq := 3, slots := [(1, setField (0 : BitVec 512) 40 (1 : BitVec 24)), (2, setField (0 : BitVec 512) 40 (2 : BitVec 24))] } }
def copying : State := { svc with mgt := { extQ := [7, 8] } }

theorem witness_TheLogKeepsEntries :
    ((arriving 447).log.count ≤ 447 ∧ 447 < (arriving 448).log.count ∧ (entClass (setField (0 : BitVec 512) 4 (1 : BitVec 2))).toNat < 2 ∧
      (arriving 448).log.lost ≠ 0xFFFF) ∧
    (copying.mgt.extQ = [7, 8] ∧ copying.aon.mode = .service ∧ { copying with aon.mode := .stall }.aon.mode = .stall ∧
      copying.log.extLost ≠ 0xFFFF) ∧
    (1 < logged.log.count ∧ entSeq (sget 0 logged.log.slots ((logged.log.head + 1) % 512)) = (1 : BitVec 32).extractLsb' 0 24 ∧
      ∀ i, i < 1 → entSeq (sget 0 logged.log.slots ((logged.log.head + i) % 512)) ≠ (1 : BitVec 32).extractLsb' 0 24) ∧
    (∀ i, i < logged.log.count → entSeq (sget 0 logged.log.slots ((logged.log.head + i) % 512)) ≠ (9 : BitVec 32).extractLsb' 0 24) ∧
    eventImpl counted.fuse.variantH 3 = true ∧ (2 : BitVec 48) ≤ sget 0 counted.ev.count 3 ∧ sget 0 counted.ev.count 3 < (3 : BitVec 48) := by
  decide +kernel

/-- Sampler 4 as given; the ring of 64 lines at 0x8000. -/
def sampling (p : Sampler) : State := { svc with mgt := { smp := [(4, p)], smpBase := 0x8000 } }
def armed : State := sampling { cfg := 0x80002000, armed := true }
def fullRing : State := { armed with mgt.smpWr := 64 }
/-- Frame 77 has many corrections, and so has bank 3. -/
def corrections : State :=
  { mem with tier := { frameTable := [(77, 5000)], bankTable := [(3, { count := 5000, dfas := [1, 2, 3, 4] })] } }
/-- The same without a channel: no frame lies in a bank. -/
def bankRetired : State := { corrections with dram := {}, aon := { mode := .service, ceCfg := 0xC4018080 } }

theorem witness_SamplesAndCorrections :
    (smpOn (smpOf (sampling { cfg := 0x80002000, count := 3 }) 4) = true ∧
      fieldNat (smpOf (sampling { cfg := 0x80002000, count := 3 }) 4).cfg 27 12 <
        (smpOf (sampling { cfg := 0x80002000, count := 3 }) 4).count) ∧
    ((smpOf fullRing 4).armed = true ∧ smpFull fullRing = true) ∧ Quiet fullRing ∧
    ((smpOf armed 4).armed = true ∧ smpFull armed = false ∧ armed.led.pending = false ∧ armed.rings.cmds = [] ∧
      dirLine armed (smpLine armed) = 0) ∧ Quiet armed ∧ Untouched armed (smpLine armed) ∧
    (corrections.aon.ceCfg.getLsbD 31 = true ∧ fieldNat corrections.aon.ceCfg 11 4 ≤ frameCorrections corrections 77 ∧
      77 < totalFrames corrections ∧ regionOf corrections 77 = none ∧ fUse (frameEntry corrections 77) = 0 ∧
      corrections.tier.ops = [] ∧ corrections.dram.retireList = []) ∧ Quiet corrections ∧
    (fieldNat corrections.aon.ceCfg 29 20 ≤ (sget {} corrections.tier.bankTable 3).count ∧
      4 ≤ (sget {} corrections.tier.bankTable 3).dfas.length ∧ (sget {} corrections.tier.bankTable 3).logged = false ∧
      corrections.aon.ceCfg.getLsbD 30 = false) ∧
    (fieldNat bankRetired.aon.ceCfg 29 20 ≤ (sget {} bankRetired.tier.bankTable 3).count ∧ bankRetired.aon.ceCfg.getLsbD 30 = true) ∧
    Quiet bankRetired ∧
    (∀ f, f < totalFrames bankRetired → frameInBank bankRetired 3 f = true →
      regionOf bankRetired f = none ∧ fUse (frameEntry bankRetired f) = 0) :=
  ⟨by decide +kernel, by decide +kernel, ⟨rfl, rfl, rfl, rfl, rfl, rfl, rfl⟩, by decide +kernel, ⟨rfl, rfl, rfl, rfl, rfl, rfl, rfl⟩,
   ⟨by decide +kernel, by decide +kernel, by decide +kernel, by decide +kernel, by decide +kernel⟩, by decide +kernel,
   ⟨rfl, rfl, rfl, rfl, rfl, rfl, rfl⟩, by decide +kernel, by decide +kernel, ⟨rfl, rfl, rfl, rfl, rfl, rfl, rfl⟩,
   fun f h => absurd h (by have : totalFrames bankRetired = 0 := by decide +kernel
                           omega)⟩

def frame (off : Nat) (be : BitVec 8) (d : Nat) : I3cFrame := { offset := BitVec.ofNat 32 off, be := be, data := BitVec.ofNat 64 d }
/-- IDX of the OTP staging words stands at word 3. -/
def staged : State := { svc with aon := { mode := .service, xidx := [(0, 0x8004000C)] } }

theorem witness_TheWindowReadsAndWrites :
    (svc.aon.otpBusy = false ∧ svc.aon.mode = .service ∧ (frame 0x58 0x0F 0x84018080).i2c = false ∧ (frame 0x58 0x0F 0x84018080).lenOk = true ∧
      (frame 0x58 0x0F 0x84018080).offset = 0x58 ∧ (frame 0x58 0x0F 0x84018080).be = 0x0F ∧
      1 ≤ fieldNat (frame 0x58 0x0F 0x84018080).data 29 20 ∧ 1 ≤ fieldNat (frame 0x58 0x0F 0x84018080).data 19 12 ∧
      1 ≤ fieldNat (frame 0x58 0x0F 0x84018080).data 11 4) ∧
    ((frame 0x380010 0xFF 64).offset = 0x380010 ∧ (domOf svc 150).st = .awake ∧ (frame 0x5A 0x0F 0).offset = 0x5A ∧
      { frame 0x58 0x0F 0 with lenOk := false }.lenOk = false) ∧
    (1 ≤ fieldNat (0x028A4000 : BitVec 64) 31 22 ∧ fieldNat (0x028A4000 : BitVec 64) 31 22 ≤ 1000 ∧
      1 ≤ fieldNat (0x028A4000 : BitVec 64) 21 16 ∧ fieldNat (0x028A4000 : BitVec 64) 15 12 ≤ 13 ∧
      fieldNat (0x028A4000 : BitVec 64) 11 9 ≤ 6) ∧
    (staged.aon.otpBusy = false ∧ sget 0 staged.aon.xidx 0 = 0x80040000 + BitVec.ofNat 32 (4 * 3)) := by
  decide +kernel

def directDown : State := { svc with cfg := confDirect, port := [] }
/-- Port 0 held OFF by DISABLE. -/
def disabled : State := withPortD { disable := true }

theorem witness_ResetsActThroughAon :
    (needsForce svc.aon.mode = true ∧ needsForce (trainedIn .maintenance).aon.mode = false ∧ (0x5A : BitVec 8) ≠ 0xA5) ∧
    (diesDark directDown = false ∧ 0 < numPorts directDown ∧ portUp directDown 0 = false ∧ (portOf directDown 0).st ≠ .eq ∧
      portUp (withPortD up) 0 = true ∧ direct (withPortD up) = true) ∧
    LedgerRests ledDark ∧ (∀ k, (ssdOf ledDark k).resets = []) ∧ (ssdIndices ledDark).Nodup ∧
    ((0 : Nat) < numBays svc ∧ ledgerBay svc (0 + 35) = false ∧ 0 < numDies svc) ∧
    ((portOf (withPortD up) 0).disable = false ∧ (portOf disabled 0).disable = true ∧ (portOf disabled 0).st = .off ∧
      aflParam disabled 0 0 ≠ 0 ∧ (portOf disabled 0).refLost = false ∧ txPermitted disabled = true ∧ direct disabled = true) :=
  ⟨by decide +kernel, by decide +kernel, ⟨rfl, rfl, rfl, rfl, rfl, rfl, rfl, rfl⟩,
   sget_all (P := fun x : Ssd => x.resets = []) rfl (List.forall_mem_singleton.2 rfl), by decide +kernel, by decide +kernel, by decide +kernel⟩

theorem witness_FusesAreProgrammed :
    ((trainedIn .maintenance).aon.otpBusy = false ∧ (trainedIn .maintenance).aon.mode = .maintenance ∧
      (sget {} (trainedIn .maintenance).fuse.ownerSlot 2).programmed = false ∧
      (trainedIn .maintenance).aon.hzOwner ≠ some (BitVec.ofNat 2 2)) ∧
    (State.reset.aon.mode = .stall ∧ State.reset.fuse.boardProg = false ∧ svc.aon.mode ≠ .maintenance) ∧
    { svc with aon.otpBusy := true, aon.otpOp := 3 }.aon.otpBusy = true ∧ { svc with aon.otpBusy := true, aon.otpOp := 3 }.aon.otpOp = 3 ∧
    svc.aon.otpBusy = false := by
  decide +kernel

/-! ## The machine -/

theorem atHome_svc : AtHome svc rq :=
  ⟨by decide +kernel, quiet_svc, by decide +kernel, by decide +kernel, by decide +kernel, by decide +kernel, by decide +kernel,
   by decide +kernel, by decide +kernel, by decide +kernel⟩

theorem witness_UnbackedReadsZero :
    AtHome svc rq ∧ dirLine svc (reqLine svc rq) = 0 ∧ qline svc (reqLine svc rq) = none ∧ svc.tier.ops = [] ∧
    dState (descOf svc (pageOf (reqLine svc rq))) = .unbacked :=
  ⟨atHome_svc, by decide +kernel, by decide +kernel, by decide +kernel, by decide +kernel⟩

/-- The first 1 GiB is a sealed range of key 1, whose context is Empty. -/
def unkeyed : State := { svc with cfg := conf ++ [(8, [rec_ 0x30 (0 + 1 * 2 ^ 16 + 1 * 2 ^ 32)])] }

theorem witness_UnkeyedWritesFail :
    AtHome unkeyed rq ∧ dirLine unkeyed (reqLine unkeyed rq) = 0 ∧ qline unkeyed (reqLine unkeyed rq) = none ∧ unkeyed.tier.ops = [] ∧
    descRaw unkeyed (pageOf (reqLine unkeyed rq)) = 0 ∧ sealRange unkeyed (pageOf (reqLine unkeyed rq)) = some (1, false) ∧
    unkeyed.led.engines = [] ∧ keyCtxOf unkeyed 1 = none ∧ rq.mask ≠ 0 :=
  ⟨⟨by decide +kernel, ⟨rfl, rfl, rfl, rfl, rfl, rfl, rfl⟩, by decide +kernel, by decide +kernel, by decide +kernel, by decide +kernel,
    by decide +kernel, by decide +kernel, by decide +kernel, by decide +kernel⟩, by decide +kernel, by decide +kernel, by decide +kernel,
   by decide +kernel, by decide +kernel, by decide +kernel, by decide +kernel, by decide +kernel⟩

theorem witness_PersistLevelIsOnePair :
    ((frame 0x40 0xFF 0).offset = 0x40 ∧ (frame 0x40 0xFF 0).be = 0xFF ∧ (frame 0x40 0xFF 0).lenOk = true ∧ svc.led.order = []) ∧
    LedgerRests svc := ⟨by decide +kernel, rfl, rfl, rfl, rfl, rfl, rfl, rfl, rfl⟩

theorem witness_TimeToServiceIsRecorded :
    (complete.aon.mode = .recovery ∧ recovered complete = true ∧ complete.reins.hold = [] ∧
      (complete.time.tide - complete.aon.returnTide).toNat / 1000000 < 2 ^ 20) ∧ Quiet complete :=
  ⟨by decide +kernel, ⟨rfl, rfl, rfl, rfl, rfl, rfl, rfl⟩⟩

theorem witness_AtomicsCompute : atom.opndSize = 1 ∧ { atom with opndOff := 0 }.opndOff = 0 ∧ { atom with opndSize := 0 }.opndSize = 0 := by
  decide +kernel

theorem witness_EmptyQueueTicks :
    State.reset.pending = [] ∧ clockRuns State.reset = false ∧ clockRuns { svc with ppd := { powered := true } } = true := by decide +kernel

/-- `svc` with a page of DRAM in use, and a command at the front of its queue. -/
def queued : State := { warmed with pending := [.decayEpochAdvance] }

theorem witness_CommandsKeepTheirFrame :
    (footprint .decayEpochAdvance).mem = false ∧ (footprint .decayEpochAdvance).port = false ∧ (footprint .decayEpochAdvance).mode = false ∧
    ∃ t, exec .decayEpochAdvance warmed = .next t := ⟨by decide +kernel, by decide +kernel, by decide +kernel, _, rfl⟩

theorem witness_StepKeepsInv : Inv queued ∧ ∃ t, step queued = .next t :=
  ⟨(by decide +kernel : Memory.wf queued.dram.mem = true), _, rfl⟩

/-! ## Values that the spec works out -/

/-- The example under R21: a basin of four devices that interleaves at 256 B folds bits [3:2]. -/
theorem test_fold : foldLine [2, 3] 0x21_2345_678B = 0x4_8D15_9E27 ∧ unfoldLine [2, 3] 0x4_8D15_9E27 = 0x21_2345_678B ∧
    pageOf 0x21_2345_678B = 0x848D_159E := by decide +kernel

/-- The Warm descriptor after step 6 of Table 2.6. -/
theorem test_warm_descriptor :
    mkWarm (dFlag 0 25 true) 0x0100_0051 [2, 1, 1, 1] 0 0x33 = 0x0000_0010_8440_0100_0051_3300_0200_0002 := by decide +kernel

/-- Line 11 of Table 3.8. -/
def line11 : BitVec 512 :=
  (([0x7F3A_1000, 0x7F3A_1040, 0, 0, 5, 5, 0x7F3A_2310, 0x4E4F_4347, 0x7F3A_1040, 0x4E4F_4347] : List Nat).zipIdx).foldl
    (fun a p => a ||| place 512 (32 * p.2) (BitVec.ofNat 32 p.1)) 0
def bale11 : List (BitVec 512) := encodeBale ((List.range 16).map (fun i => (if i = 11 then line11 else 0, false)))
/-- The bale of the example of 03_bale_format.md: 2 granules, ZERO_MAP, bytes 4 and 5, DICT[0], END[10] and END[11], and the record. -/
theorem test_bale_header :
    bale11.length = 2 ∧ (bale11.getD 0 0).extractLsb' 0 48 = 0x0211_0000_F7FF ∧ (bale11.getD 0 0).extractLsb' 48 32 = 0x7F3A_1000 ∧
    bEnd (bale11.getD 0 0) 10 = 0 ∧ bEnd (bale11.getD 0 0) 11 = 21 := by decide +kernel
theorem test_bale_record :
    (bytesOf (bale11.getD 1 0) 21) = [0x00, 0x12, 0xE0, 0xCC, 0x2A, 0x00, 0x00, 0x00, 0x40, 0x05, 0x00, 0x00, 0x00, 0x10, 0x13, 0x47, 0x43,
      0x4F, 0x4E, 0x40, 0x1C] ∧ decodeLine bale11 11 = .ok line11 := by decide +kernel

/-- Keystream block 2 and the mask block of the example of 04_sealing.md. -/
theorem test_seal_block :
    sealBlock 5 3 0x21_2345_678B 0 0 false false 2 = 0x0000_0000_0000_0005_0684_8D15_9E2C_0002 ∧
    sealBlock 5 3 0x21_2345_678B 0 0 false true 0 = 0x0000_0000_0000_0005_0684_8D15_9E2C_0004 := by decide +kernel

/-- The default XOR map: row bits 0 and 4, 7 on BG0 and BG1, as the example under R134 uses them. -/
def maps134 (i : Nat) : BitVec 17 := if i = 1 then 0x00001 else if i = 2 then 0x00090 else 0
/-- The coordinates of line 11 in the example under R134. -/
theorem test_coordinates :
    coordOf 2 2 0 maps134 0x48_D15B = { ch := 2, sub := 1, col := 45, bg := 0, ba := 2, rank := 2, cid := 0, row := 0x91 } ∧
    chanOf [{ chans := List.range 16, w := 4, gran := 2, frames := 2 ^ 30 }] 0x48D_158B = some (2, 0x48_D15B) := by decide +kernel

/-- The example under R149: device 3 returns byte 0 wrong by 0x5A. -/
theorem test_correction :
    plainCheckLine (plainStore line11 false ^^^ place 640 192 (0x5A : BitVec 64)) none = .valid (plainStore line11 false) (some 3) ∧
    plainCheckLine (plainStore line11 true) none = .poisoned (plainStore line11 true) none := by decide +kernel

/-- The home bank and the directory set of the example of 06_coherence.md, and the entry after step 6. -/
theorem test_directory :
    bankOf svc 0x21_2345_678B = 1 ∧ dirSet 22 0x21_2345_678B = 0x34_5E30 ∧
    mkOwned 0x21_2345_678B 0x1_0004 = 0x0000_0000_0000_1000_4000_2821_2345_678B := by decide +kernel

/-- The inputs of the example of 07_persistence.md: 1,000 J, 1,200 W, 90 GB/s. -/
def ceilingIn : State :=
  { led with cfg := [(9, [rec_ 0x38 0, par 7 6 1200000])], led.powerHist := [900000], led.bwHist := List.replicate 16 90000000000, led.bwSsds := List.replicate 16 1 }
theorem test_ceiling : dirtyCeiling ceilingIn 1000000 = 9843750 := by decide +kernel

/-- The request header and the CMP of the example of 10_transactions.md. -/
theorem test_headers :
    reqHdr 0x09 0x0_0123 0x1_0004 0x0A5 0x4_8D15_9E27 0x01E 0 0 0 = 0x0000_000F_048D_159E_2702_9600_0801_2309 ∧
    rspHdr 0x4D 0x1_0004 0x0_0123 0x0A5 0 { persisted := true } = 0x1002_9402_4700_044D := by decide +kernel

/-- The link header of the example of 09_akfatur_link.md: a response header in slot 1, its line in slots 2 to 5. -/
def header9 : BitVec 128 := 0x0000_0002_3C40_0003_FE81_24C0_01F3_2A71
theorem test_link_header :
    header9.extractLsb' 4 12 = 0x2A7 ∧ header9.extractLsb' 16 12 = 0x1F3 ∧
    (List.range 6).map (fun i => slotKind (place 2048 0 header9) (i + 1)) = [2, 3, 3, 3, 3, 0] := by decide +kernel

/-- The entry and the completion of the example of 12_command_rings.md: OPCODE 0x0A, CMD_ID 0x0017, DEADLINE 0x0FA. -/
def entry12 : BitVec 512 := sqe 0 0x0848_D159_E000 0x4000_0000 0x2000 0 ||| 0xFA_0017_000A
theorem test_completion :
    eOp entry12 = 0x0A ∧ eCmdId entry12 = 0x17 ∧ eDeadline entry12 = 0xFA ∧
    bytesOf (cqEntry { cmd entry12 with idx := 5, result := 0x2000 } (place 256 162 (1 : BitVec 1) ||| place 256 192 (6 : BitVec 16)) true) 16 =
      [3, 0, 5, 0, 0x17, 0, 6, 0, 0, 0x20, 0, 0, 0, 0, 0, 0] := by decide +kernel

/-- The default roles of tiles 32 to 63 (R365), and the WB_AGE record of the example of 13_harness.md. -/
theorem test_roles :
    (List.range 32).foldl (fun (a : BitVec 128) i => a ||| place 128 (4 * i) (BitVec.ofNat 4 (tileRole svc (32 + i)))) 0 =
      0x0000_2221_1110_0000_2221_1110_0000_2221 ∧
    bytesOf (par 7 8 20000000) 16 = [1, 7, 8, 0xFF, 0, 0, 0, 0, 0, 0x2D, 0x31, 1, 0, 0, 0, 0] := by decide +kernel
/-- Tile 41 becomes a decompressor. -/
theorem test_role_patch :
    tileRole { svc with cfg := [(7, [0, 0x0000_2221_1110_0000_2221_1100_0000_2221, 0])] } 41 = 0 ∧ tileRole svc 41 = 1 := by decide +kernel

/-- Where the tide counter and DECAY_EPOCH stand after it resumes. -/
def onNextTide (s : State) (n : Nat) : Option (Nat × Nat) :=
  match execTideResume n s with
  | .next t => some (t.time.tide.toNat, t.tier.decayEpoch.toNat)
  | _ => none
/-- The advance of the example of 14_modes_and_gaits.md, and its LAST_BOUND. -/
def watched : State := { svc with time := { stopped := true, slowPeriod := 31253120 } }
theorem test_tide_advance :
    tideAdvance watched 250712 = 7651886928 ∧ tideBound watched 7651886928 = 1530394 ∧
    onNextTide watched 250712 = some (7651886928, 8) := by decide +kernel
/-- SLOW_PERIOD of 781,328 crystal cycles. -/
theorem test_slow_period : (match execSlowPeriodCalibration 781328 svc with | .next t => t.time.slowPeriod.toNat | _ => 0) = 31253120 := by
  decide +kernel

/-- The formula of R432 at 14 V, 6 V, 12.5 F and an efficiency of 0.9. -/
theorem test_e_store : eStoreOf 9000 12500 14000 6000 = 900000 := by decide +kernel

/-- PPD_CH40_STAT after steps 4 and 5 of Table 15.10. -/
theorem test_channel_stat :
    chanStat 40 { st := .cooldown, retry := 1, present := true, lastFault := 2, trips := 1 } = 0x6302_0001 ∧
    chanStat 40 { st := .absent, trips := 1 } = 0x1000_0001 := by decide +kernel

/-- The header word and LOC of the example of 16_errors_and_counters.md (the SEQ is stored on arrival). -/
theorem test_log_entry :
    (setField (logEntry { cause := 0x10, kind := 1, src := epDch 2 } 0) 40 (0x1234 : BitVec 24)).extractLsb' 0 64 = 0x0012_3400_0011_1410 ∧
    mkLoc 2 1 2 0 0 2 0x91 45 3 = 0x1AD_0048_C052 := by decide +kernel

/-- The private writes of the example of 17_registers.md: PPD_IDX, then a READ32 of PPD_DATA that returns PPD_CH40_STAT. -/
def bay5 : State :=
  { power [(40, { st := .cooldown, retry := 1, present := true, lastFault := 2, trips := 1 })] with
    aon := { mode := .service, ppdIdx := [(0, 0x8000_0508)] } }
theorem test_ppd_idx :
    (match execWrite32 (frame 0x68 0x0F 0x8000_0508) (power []) with | .next t => (sget 0 t.aon.ppdIdx 0, t.aon.i3cStatus) | _ => (0, 9)) =
      (0x8000_0508, 0) := by decide +kernel
theorem test_ppd_data :
    (match execRead32 (frame 0x6C 0x0F 0) bay5 with | .next t => (t.aon.i3cStatus, t.aon.i3cData, sget 0 t.aon.ppdIdx 0) | _ => (9, [], 0)) =
      (0, [1, 0, 2, 0x63], 0x8000_050C) := by decide +kernel

/-- AES-256 on the example of FIPS 197, appendix C.3 (log entry 7). -/
theorem test_aes :
    (bytesOf (aes256 (wordOf 256 ((List.range 32).map (BitVec.ofNat 8))) (wordOf 128 ((List.range 16).map (fun i => BitVec.ofNat 8 (17 * i))))) 16) =
      [0x8E, 0xA2, 0xB7, 0xCA, 0x51, 0x67, 0x45, 0xBF, 0xEA, 0xFC, 0x49, 0x90, 0x4B, 0x49, 0x60, 0x89] := by decide +kernel

end Sys2Proof.Tests
end

section
/-! PROOFS. What the shared operations of the modes do to the parts that the statements about the modes speak of: a quiet home, a change
of mode, the records of the ledger, the ports that close. -/

namespace Sys2Proof.Laws

open Sys2Proof Sys2Proof.Machine

/-! ## What an operation leaves alone -/

theorem within_quay {p : Parts} {s t : State} (h : Within p s t) (k : p.quay = false) : t.quay = s.quay := keeps_quay h.same k
theorem within_led {p : Parts} {s t : State} (h : Within p s t) (k : p.led = false) : t.led = s.led := keeps_led h.same k
theorem within_reins {p : Parts} {s t : State} (h : Within p s t) (k : p.reins = false) : t.reins = s.reins := keeps_reins h.same k
theorem within_port {p : Parts} {s t : State} (h : Within p s t) (k : p.port = false) : t.port = s.port := keeps_port h.same k
theorem within_aon {p : Parts} {s t : State} (h : Within p s t) (k : p.aon = false) (m : p.mode = false) : t.aon = s.aon :=
  keeps_aon h.same k m
theorem within_mem {p : Parts} {s t : State} (h : Within p s t) (k : p.mem = false) : t.dram.mem = s.dram.mem := keeps_mem h.same k
theorem within_mode {p : Parts} {s t : State} (h : Within p s t) (k : p.mode = false) : t.aon.mode = s.aon.mode :=
  (keeps_mode h.same k).1

/-- What changes no mode keeps the last transition. -/
theorem entered_of_within {p : Parts} {s t : State} {old m : Mode} {code : BitVec 8} (h : Within p s t) (k : p.mode = false)
    (e : Entered s old m code) : Entered t old m code := by
  obtain ⟨hm, hp, hc⟩ := keeps_mode h.same k
  exact ⟨hm.trans e.1, hp.trans e.2.1, hc.trans e.2.2⟩

/-! ## A quiet home -/

/-- Nothing waits, so nothing goes on. -/
theorem settle_of_quiet {s : State} (h : Quiet s) : settle s = s := by
  obtain ⟨txns, busy, notices, parked, parkWait, fills, waiters⟩ := h
  exact settle_quiet txns busy notices parked waiters parkWait fills

/-- A home is quiet still after what touches neither the banks nor the reservation points. -/
theorem quiet_of_kept {s t : State} (h : Quiet s) (q : t.quay = s.quay) (w : t.reins.waiters = s.reins.waiters) : Quiet t := by
  simpa only [Quiet, HomeIdle, q, w] using h

/-- A port that holds no request releases none. -/
theorem releasePort_of_holdEmpty {s : State} (p : Nat) (h : s.reins.hold = []) : releasePort s p = s := by
  have e : { s with reins.hold := sset [] s.reins.hold p [] } = s := by
    rw [h]; exact congrArg (fun l => { s with reins.hold := l }) h.symm
  unfold releasePort
  rw [e, h]
  rfl

theorem releasePorts_of_holdEmpty {s : State} (l : List Nat) (h : s.reins.hold = []) : l.foldl releasePort s = s :=
  List.foldl_fixed' (fun p => releasePort_of_holdEmpty p h) l

/-! ## A change of mode -/

theorem coreSupply_aon (s : State) : ∃ v, (coreSupply s).aon = { s.aon with vddMv := v } := by
  unfold coreSupply
  split
  · exact ⟨s.aon.vddMv, rfl⟩
  · exact ⟨_, rfl⟩

theorem coreSupply_port (s : State) : (coreSupply s).port = s.port := within_port (coreSupply_within s) rfl

theorem refreshPA_aon (s : State) : ∃ b n, (refreshPA s).aon = { s.aon with paBits := b, changeCount := n } := by
  unfold refreshPA
  dsimp only
  split
  · exact ⟨paReasons s, s.aon.changeCount, rfl⟩
  · exact ⟨paReasons s, s.aon.changeCount + 1, within_aon (sendAll_within ..) rfl rfl⟩

/-- What a change of mode does to AON: besides the mode, its cause and the gait only levels that are derived. -/
theorem changeMode_aon (code : BitVec 8) (m : Mode) (s : State) : ∃ g tol v b n, (changeMode code m s).aon =
    { s.aon with mode := m, prevMode := s.aon.mode, modeCause := code, gait := g, tolSrc := tol, i3cWatch := false, vddMv := v,
                 paBits := b, changeCount := n } := by
  unfold changeMode
  dsimp only
  split
  all_goals
    obtain ⟨b, n, e⟩ := refreshPA_aon _
    rw [e, logIt_aon]
  · exact ⟨_, _, _, _, _, rfl⟩
  · obtain ⟨v, e'⟩ := coreSupply_aon _
    rw [e']
    exact ⟨_, _, _, _, _, rfl⟩

theorem changeMode_entered (code : BitVec 8) (m : Mode) {s : State} {old : Mode} (h : s.aon.mode = old) :
    Entered (changeMode code m s) old m code := by
  obtain ⟨g, tol, v, b, n, e⟩ := changeMode_aon code m s
  simp [Entered, e, h]

theorem changeMode_quay (code : BitVec 8) (m : Mode) (s : State) : (changeMode code m s).quay = s.quay :=
  within_quay (changeMode_within code m s) rfl

theorem changeMode_led (code : BitVec 8) (m : Mode) (s : State) : (changeMode code m s).led = s.led :=
  within_led (changeMode_within code m s) rfl

theorem changeMode_mem (code : BitVec 8) (m : Mode) (s : State) : (changeMode code m s).dram.mem = s.dram.mem :=
  within_mem (changeMode_within code m s) rfl

theorem changeMode_reins (code : BitVec 8) (m : Mode) (s : State) : ∃ b, (changeMode code m s).reins =
    { s.reins with capLogged := [], on := b } := by
  unfold changeMode
  dsimp only
  rw [within_reins (refreshPA_within _) rfl, logIt_reins]
  split
  · exact ⟨_, rfl⟩
  · rw [within_reins (coreSupply_within _) rfl]; exact ⟨_, rfl⟩

theorem quiet_changeMode (code : BitVec 8) (m : Mode) {s : State} (h : Quiet s) : Quiet (changeMode code m s) := by
  obtain ⟨b, e⟩ := changeMode_reins code m s
  exact quiet_of_kept h (changeMode_quay ..) (by rw [e])

theorem portUp_of_port {s t : State} (h : t.port = s.port) (p : Nat) : portUp t p = portUp s p := by
  rw [portUp, portOf, h, portUp, portOf]

/-- With every port down a message to the partners reaches none. -/
theorem sendAll_of_down (op : BitVec 8) (body : BitVec 86) {s : State} (h : ∀ p, portUp s p = false) : sendAll op body s = s :=
  List.foldl_fixed' (fun p => by simp [h p]) _

theorem refreshPA_port_of_down {s : State} (h : ∀ p, portUp s p = false) : (refreshPA s).port = s.port := by
  unfold refreshPA
  dsimp only
  split
  · rfl
  · rw [sendAll_of_down]
    exact h

theorem changeMode_port_of_down (code : BitVec 8) (m : Mode) {s : State} (h : ∀ p, portUp s p = false) :
    (changeMode code m s).port = s.port := by
  unfold changeMode
  dsimp only
  split
  · rw [refreshPA_port_of_down, logIt_port]
    exact fun p => (portUp_of_port (logIt_port _ _) p).trans (h p)
  · rw [refreshPA_port_of_down, logIt_port, coreSupply_port]
    exact fun p => (portUp_of_port ((logIt_port _ _).trans (coreSupply_port _)) p).trans (h p)

/-! ## Records of the ledger -/

/-- The requests that wait at the ports and at the reservation points, and the ceiling C, are in `t` as in `s`. -/
structure WaitsKept (s t : State) : Prop where
  hold : t.reins.hold = s.reins.hold
  waiters : t.reins.waiters = s.reins.waiters
  ceiling : t.led.c = s.led.c

theorem WaitsKept.refl (s : State) : WaitsKept s s := ⟨rfl, rfl, rfl⟩

theorem WaitsKept.trans {r s t : State} (h : WaitsKept r s) (k : WaitsKept s t) : WaitsKept r t :=
  ⟨k.hold.trans h.hold, k.waiters.trans h.waiters, k.ceiling.trans h.ceiling⟩

theorem WaitsKept.after {r s t : State} (k : WaitsKept s t) (h : WaitsKept r s) : WaitsKept r t := h.trans k

theorem WaitsKept.foldl {α : Type} {f : State → α → State} (hf : ∀ t a, WaitsKept t (f t a)) (l : List α) (s : State) :
    WaitsKept s (l.foldl f s) := by
  induction l generalizing s with
  | nil => exact .refl s
  | cons a l ih => exact (hf s a).trans (ih (f s a))

theorem countUse_waits (inst : Nat) (c : BitVec 8) (n : Nat) (s : State) : WaitsKept s (countUse inst c n s) := by
  unfold countUse
  dsimp only
  split
  · exact .refl s
  · split <;> exact ⟨rfl, rfl, rfl⟩

theorem nvmeWrite_waits (ssd n : Nat) (cls : BitVec 8) (s : State) : WaitsKept s (nvmeWrite ssd n cls s) :=
  (countUse_waits ..).after ⟨by simp [peEv], by simp [peEv], by simp [peEv]⟩

theorem putMapBlock_waits (block : Nat) (s : State) : WaitsKept s (putMapBlock block s) := by
  unfold putMapBlock
  dsimp only
  exact (nvmeWrite_waits ..).after ⟨rfl, rfl, rfl⟩

theorem ringRoom_waits (ssd : Nat) (s : State) : WaitsKept s (ringRoom ssd s) := by
  have blocks (l : List Nat) : WaitsKept s (l.foldl (fun t b => if mapWritable t b then putMapBlock b t else t) s) :=
    .foldl (fun t b => by split; exacts [putMapBlock_waits b t, .refl t]) l s
  unfold ringRoom
  dsimp only
  split
  · exact .refl s
  · split
    · exact (blocks _).trans ⟨rfl, rfl, rfl⟩
    · exact ⟨rfl, rfl, rfl⟩

theorem addRec_waits (ty : BitVec 8) (body : BitVec 512) (s : State) : WaitsKept s (addRec ty body s) := by
  unfold addRec
  split
  · exact (ringRoom_waits _ s).trans ⟨rfl, rfl, rfl⟩
  · exact .refl s

theorem payOpen_waits (s : State) : WaitsKept s (payOpen s) := by
  unfold payOpen
  split
  · exact (addRec_waits ..).after ⟨rfl, rfl, rfl⟩
  · exact .refl s

/-- With no page in the write-back order there is none to queue. -/
theorem queueAll_of_orderEmpty {s : State} (h : s.led.order = []) : queueAll s = s := by simp [queueAll, h]

theorem packQueued_of_queueEmpty {s : State} (h : s.led.queue = []) : packQueued s = s := by simp [packQueued, h]

/-! ## Ports that close -/

theorem param_of_kept {s t : State} (c : t.cfg = s.cfg) (f : t.fuse = s.fuse) (table index : Nat) :
    param t table index = param s table index := by
  simp only [param, paramAt, paramRec, recsOf, typedRecs, sectionRecs, c, f]

theorem direct_of_kept {s t : State} (c : t.cfg = s.cfg) (f : t.fuse = s.fuse) : direct t = direct s := by
  unfold direct
  rw [param_of_kept c f]

/-- In Direct topology the end of a session may be logged, and the port is set to OFF (R286). -/
theorem endSession_of_direct (p : Nat) {s : State} (h : direct s = true) : ∃ f u, endSession p s = modPort p f u ∧
    (∀ q, (f q).st = .off) ∧ Within { log := true, ev := true, mgt := true } s u := by
  have kept (f : Port → Port) (u : State) (w : Within { log := true, ev := true, mgt := true } s u) : direct (modPort p f u) = true :=
    (direct_of_kept (keeps_cfg w.same rfl) (keeps_fuse w.same rfl)).trans h
  unfold endSession
  dsimp only
  rw [if_neg (by simp only [kept _ _ (w_ite (logDown_within p 3 s) (.refl _ s)), Bool.not_true, Bool.and_false, Bool.false_eq_true, not_false_eq_true])]
  exact ⟨_, _, rfl, fun q => rfl, w_ite (logDown_within p 3 s) (.refl _ s)⟩

theorem portOf_of_port {s t : State} (h : t.port = s.port) (p : Nat) : portOf t p = portOf s p := by
  simp only [portOf, h]

theorem sendLinkOff_other {p q : Nat} (h : q ≠ p) (arg : BitVec 16) (s : State) : portOf (sendLinkOff p arg s) q = portOf s q := by
  unfold sendLinkOff
  split
  · exact (portOf_modPort_other h ..).trans (portOf_of_port (by simp) q)
  · rfl

/-- A port closes at the end of the serving phase (R391 step 3): the body of the loop of `startClosing`. -/
def closePort (s : State) (p : Nat) : State :=
  if (portOf s p).st = .off && !(portOf s p).held then s else endSession p (sendLinkOff p 1 s)

theorem startClosing_eq {s : State} (m : s.aon.mode = .drain) (c : s.aon.drainClosing = false) : startClosing s =
    packQueued (queueAll ((List.range (numPorts s)).foldl closePort { s with aon.drainClosing := true })) := by
  simp only [startClosing, m, c]
  rfl

theorem closePort_within {s : State} (p : Nat) (h : direct s = true) :
    Within { log := true, ev := true, port := true, mgt := true } s (closePort s p) := by
  unfold closePort
  split
  · exact .refl ..
  · have w := (sendLinkOff_within p 1 s).mono (q := { log := true, ev := true, port := true, mgt := true }) rfl
    obtain ⟨f, u, e, -, wu⟩ := endSession_of_direct p
      ((direct_of_kept (keeps_cfg w.same rfl) (keeps_fuse w.same rfl)).trans h)
    rw [e]
    exact (modPort_within p f u).to rfl (wu.to rfl w)

/-- The port that closes is OFF after it, and a port that was OFF stays OFF. -/
theorem closePort_off {s : State} (p q : Nat) (h : direct s = true) (k : q = p ∨ (portOf s q).st = .off) :
    (portOf (closePort s p) q).st = .off := by
  unfold closePort
  split
  · next c =>
    rcases k with rfl | k
    · simp only [Bool.and_eq_true, decide_eq_true_eq] at c
      exact c.1
    · exact k
  · have w := sendLinkOff_within p 1 s
    obtain ⟨f, u, e, off, wu⟩ := endSession_of_direct p
      ((direct_of_kept (keeps_cfg w.same rfl) (keeps_fuse w.same rfl)).trans h)
    rw [e]
    by_cases hq : q = p
    · subst hq; rw [portOf_modPort]; exact off _
    · rw [portOf_modPort_other hq, portOf_of_port (within_port wu rfl), sendLinkOff_other hq]
      exact k.resolve_left hq

theorem closePorts_within (l : List Nat) {s : State} (h : direct s = true) :
    Within { log := true, ev := true, port := true, mgt := true } s (l.foldl closePort s) := by
  induction l generalizing s with
  | nil => exact .refl ..
  | cons p l ih =>
    have w := closePort_within p h
    exact w.trans (ih ((direct_of_kept (keeps_cfg w.same rfl) (keeps_fuse w.same rfl)).trans h))

theorem closePorts_off (l : List Nat) {s : State} (q : Nat) (h : direct s = true) (k : q ∈ l ∨ (portOf s q).st = .off) :
    (portOf (l.foldl closePort s) q).st = .off := by
  induction l generalizing s with
  | nil => simpa using k
  | cons p l ih =>
    have w := closePort_within p h
    refine ih ((direct_of_kept (keeps_cfg w.same rfl) (keeps_fuse w.same rfl)).trans h) ?_
    rcases k with k | k
    · rcases List.mem_cons.1 k with rfl | k
      · exact .inr (closePort_off q q h (.inl rfl))
      · exact .inl k
    · exact .inr (closePort_off p q h (.inr k))

/-! ## Ports that start again -/

theorem newSession_of_down {s : State} (p : Nat) (h : portUp s p = false) :
    newSession s p = modPort p (fun q => { q with session := 0, peerSession := 0, resumed := false }) s := by
  unfold newSession
  simp only [portUp, Bool.or_eq_false_iff, decide_eq_false_iff_not] at h
  simp [h]

theorem portUp_newSession {s : State} (p q : Nat) (h : ∀ q, portUp s q = false) : portUp (newSession s p) q = false := by
  rw [newSession_of_down p (h p)]
  by_cases hq : q = p
  · subst hq
    have := h q
    simpa only [portUp, portOf_modPort] using this
  · have := h q
    simpa only [portUp, portOf_modPort_other hq] using this

/-- Ports that are down start a new session and touch nothing else. -/
theorem newSessions_within_of_down (l : List Nat) {s : State} (h : ∀ q, portUp s q = false) :
    Within { port := true } s (l.foldl newSession s) := by
  induction l generalizing s with
  | nil => exact .refl ..
  | cons p l ih =>
    have w : Within { port := true } s (newSession s p) := by
      rw [newSession_of_down p (h p)]; exact modPort_within ..
    exact w.trans (ih (fun q => portUp_newSession p q h))

end Sys2Proof.Laws
end

section
/-! PROOFS. The way to Service and out of it (R10, R388, R391, R393, Table 14.2). -/

namespace Sys2Proof.Laws

open Sys2Proof Sys2Proof.Machine

/-! ## The end of Harnessing, and the entry to Recovery -/

theorem newSessions_within (l : List Nat) (s : State) : Within homeParts s (l.foldl newSession s) :=
  w_foldl (Within.refl _ s) fun t p w => (newSession_within t p).to rfl w

theorem enterRecovery_entered (code : BitVec 8) {s : State} {old : Mode} (h : s.aon.mode = old) :
    Entered (enterRecovery code s) old .recovery code := by
  have reset : (resetRings (resetDirectory s)).aon.mode = old :=
    (within_mode (resetRings_within _) rfl).trans ((within_mode (resetDirectory_within s) rfl).trans h)
  unfold enterRecovery
  dsimp only
  refine entered_of_within (newSessions_within _ _) rfl (entered_of_within (powerRails_within _) rfl
    (entered_of_within (railsUp_within _) rfl (changeMode_entered _ _ ?_)))
  rw [within_mode (restoreBase_within _) rfl]
  exact reset

/-- What HARNESSING_COMPLETE does first: DRAM leaves its reset, and the ready SSDs are counted. -/
def harnessingEnds (s : State) : State :=
  { s with pin.drst := [], led.satSsd := (List.range 2).foldl (fun m p =>
      sset 0 m p (((ssdIndices s).filter (fun i => ssdUp s i && peOf s i = p)).length)) [] }

/-- With no fault of the population or of the placement the end of Harnessing turns on MAINT_NEXT alone. -/
theorem execHarnessingComplete_of_trained {s : State} (mode : s.aon.mode = .harnessing) (tr : trained s = true)
    (chosen : s.led.chosen = true) (cons : s.led.inconsistent = 0) (pop : populationFault s = none) (chk : check06 s = true) :
    execHarnessingComplete s = .next (if s.aon.maintNext then
      settle (resetDirectory (changeMode 0x04 .maintenance (createTree { harnessingEnds s with aon.maintNext := false })))
      else settle (enterRecovery 0x03 (harnessingEnds s))) := by
  have pop' (d : SMap Bool) (n : SMap Nat) : populationFault { s with pin.drst := d, led.satSsd := n } = none := pop
  have chk' (d : SMap Bool) (n : SMap Nat) : check06 { s with pin.drst := d, led.satSsd := n } = true := chk
  unfold execHarnessingComplete
  rw [if_neg (by simp [mode, tr, chosen])]
  simp only [pop', chk', Option.orElse_none, if_true, Option.isSome_none, Bool.false_or]
  cases next : s.aon.maintNext
  · rw [if_neg (by simp [cons])]; rfl
  · rw [if_pos (by simp)]; rfl

theorem harnessingComplete_to_recovery {s : State} (mode : s.aon.mode = .harnessing) (tr : trained s = true)
    (chosen : s.led.chosen = true) (cons : s.led.inconsistent = 0) (pop : populationFault s = none) (chk : check06 s = true)
    (next : s.aon.maintNext = false) : ∃ t, exec .harnessingComplete s = .next t ∧ Entered t .harnessing .recovery 0x03 := by
  refine ⟨_, execHarnessingComplete_of_trained mode tr chosen cons pop chk, ?_⟩
  rw [next, if_neg Bool.false_ne_true]
  exact entered_of_within (settle_within _) rfl (enterRecovery_entered 0x03 mode)

theorem harnessingComplete_to_maintenance {s : State} (mode : s.aon.mode = .harnessing) (tr : trained s = true)
    (chosen : s.led.chosen = true) (cons : s.led.inconsistent = 0) (pop : populationFault s = none) (chk : check06 s = true)
    (next : s.aon.maintNext = true) : ∃ t, exec .harnessingComplete s = .next t ∧ Entered t .harnessing .maintenance 0x04 := by
  refine ⟨_, execHarnessingComplete_of_trained mode tr chosen cons pop chk, ?_⟩
  rw [next, if_pos rfl]
  have tree := within_mode (createTree_within { harnessingEnds s with aon.maintNext := false }) rfl
  exact entered_of_within (settle_within _) rfl (entered_of_within (resetDirectory_within _) rfl
    (changeMode_entered _ _ (tree.trans mode)))

/-! ## The entry to Service -/

theorem noteTol_aon (s : State) : ∃ x, (noteTol s).aon = { s.aon with tolSrc := x } := by
  unfold noteTol
  split
  · exact ⟨_, rfl⟩
  · exact ⟨s.aon.tolSrc, rfl⟩

theorem setDirCopy_aon (one : Bool) (d : BitVec 512) (s : State) : (setDirCopy one d s).aon = s.aon := by
  unfold setDirCopy
  split <;> rfl

/-- After a boot is confirmed none is on trial. -/
theorem confirmBoot_aon (s : State) : (confirmBoot s).aon = { s.aon with trial := false } := by
  unfold confirmBoot
  dsimp only
  split
  · exact congrArg (fun a : Aon => { a with trial := false }) (setDirCopy_aon ..)
  · next h =>
    simp only [Bool.or_eq_true, not_or, Bool.not_eq_true] at h
    exact congrArg (fun b => { s.aon with trial := b }) h.1

/-- What SERVICE_ENTRY records first: the time to service with its case, and the ceiling's windows from their start. -/
def serviceRecorded (s : State) : State :=
  { s with aon.rcase := if s.aon.dramRetained then 1 else 2, aon.dramRetained := true,
           aon.resumeMs := BitVec.ofNat 20 (min ((s.time.tide - s.aon.returnTide).toNat / 1000000) 1048575), led.windows := 0, led.c := 0,
           led.powerHist := [], led.bwHist := [], led.bwSsds := [], led.idleSecs := 0, led.measured := 0, led.satNs := 0,
           led.winBytes := 0, led.openOwed := true }

/-- The state in which Service is entered, before held requests are released. -/
def serviceOpened (s : State) : State := confirmBoot (payOpen (noteTol (changeMode 0x06 .service (serviceRecorded s))))

theorem execServiceEntry_of_recovered {s : State} (mode : s.aon.mode = .recovery) (rec : recovered s = true) :
    execServiceEntry s =
      .next (settle ((List.range (numPorts (serviceOpened s))).foldl releasePort (serviceOpened s))) := by
  unfold execServiceEntry
  rw [if_neg (by simp [mode, rec])]
  rfl

theorem serviceOpened_aon (s : State) : ∃ g tol v b n, (serviceOpened s).aon =
    { (serviceRecorded s).aon with mode := .service, prevMode := s.aon.mode, modeCause := 0x06, gait := g, tolSrc := tol, i3cWatch := false,
                                   vddMv := v, paBits := b, changeCount := n, trial := false } := by
  obtain ⟨g, tol, v, b, n, changed⟩ := changeMode_aon 0x06 .service (serviceRecorded s)
  obtain ⟨tol', noted⟩ := noteTol_aon (changeMode 0x06 .service (serviceRecorded s))
  refine ⟨g, tol', v, b, n, ?_⟩
  unfold serviceOpened
  rw [confirmBoot_aon, within_aon (payOpen_within _) rfl rfl, noted, changed]
  rfl

theorem serviceOpened_waits (s : State) : WaitsKept (serviceRecorded s) (serviceOpened s) := by
  have changed : WaitsKept (serviceRecorded s) (changeMode 0x06 .service (serviceRecorded s)) := by
    obtain ⟨b, e⟩ := changeMode_reins 0x06 .service (serviceRecorded s)
    exact ⟨by rw [e], by rw [e], by rw [changeMode_led]⟩
  have noted (u : State) : WaitsKept u (noteTol u) := by
    have r := within_reins (noteTol_within u) rfl
    exact ⟨by rw [r], by rw [r], by rw [within_led (noteTol_within u) rfl]⟩
  have confirmed (u : State) : WaitsKept u (confirmBoot u) := by
    have r := within_reins (confirmBoot_within u) rfl
    exact ⟨by rw [r], by rw [r], by rw [within_led (confirmBoot_within u) rfl]⟩
  exact ((changed.trans (noted _)).trans (payOpen_waits _)).trans (confirmed _)

theorem serviceOpened_quay (s : State) : (serviceOpened s).quay = s.quay := by
  unfold serviceOpened
  rw [within_quay (confirmBoot_within _) rfl, within_quay (payOpen_within _) rfl, within_quay (noteTol_within _) rfl, changeMode_quay]
  rfl

/-- A quiet home with no request held enters Service and does nothing else. -/
theorem exec_serviceEntry {s : State} (mode : s.aon.mode = .recovery) (rec : recovered s = true) (quiet : Quiet s)
    (hold : s.reins.hold = []) : exec .serviceEntry s = .next (serviceOpened s) := by
  have kept := serviceOpened_waits s
  have e := execServiceEntry_of_recovered mode rec
  rw [releasePorts_of_holdEmpty _ (kept.hold.trans hold),
    settle_of_quiet (quiet_of_kept quiet (serviceOpened_quay s) kept.waiters)] at e
  exact e

/-! ## Requests of AON_MODE_CTL over I3C -/

/-- Over I3C a request that Table 14.2 permits is done and answered OK (R393). -/
theorem modeReq_granted {ok : State → Bool} {s : State} (f : State → State) (h : ok s = true) :
    modeReq ok f 0 s = .next (i3cDone 0 [] (f s)) := by
  unfold modeReq
  rw [h]
  rfl

/-- Over I3C a request that Table 14.2 does not permit is answered ERR_REG (R393). -/
theorem modeReq_refused {ok : State → Bool} {s : State} (f : State → State) (h : ok s = false) :
    modeReq ok f 0 s = .next (i3cDone 1 [] s) := by
  unfold modeReq
  rw [h]
  rfl

/-- A state with Drain requested, before the mode changes. -/
def drainAsked (maint : Bool) (s : State) : State := { s with aon.drainToMaint := maint, aon.drainClosing := false }

/-- With no page to write back and a quiet home the entry to Drain is the change of mode. -/
theorem startDrain_of_rest (maint : Bool) {s : State} (rest : LedgerRests s) (order : s.led.order = []) :
    startDrain maint s = changeMode 0x07 .drain (drainAsked maint s) := by
  have led : (changeMode 0x07 .drain (drainAsked maint s)).led = s.led := changeMode_led ..
  have quiet : Quiet (drainAsked maint s) := rest.quiet
  unfold startDrain
  dsimp only
  rw [queueAll_of_orderEmpty, packQueued_of_queueEmpty, settle_of_quiet]
  · rfl
  · exact quiet_changeMode 0x07 .drain quiet
  · exact (congrArg Ledger.queue led).trans rest.queue
  · exact (congrArg Ledger.order led).trans order

theorem startDrain_entered (maint : Bool) {s : State} (rest : LedgerRests s) (order : s.led.order = []) :
    Entered (startDrain maint s) s.aon.mode .drain 0x07 ∧ (startDrain maint s).aon.drainToMaint = maint ∧
      (startDrain maint s).aon.drainClosing = false := by
  rw [startDrain_of_rest maint rest order]
  obtain ⟨g, tol, v, b, n, e⟩ := changeMode_aon 0x07 .drain (drainAsked maint s)
  exact ⟨changeMode_entered _ _ rfl, by rw [e]; rfl, by rw [e]; rfl⟩

theorem drain_enters {ok : State → Bool} (maint : Bool) {s : State} (rest : LedgerRests s) (order : s.led.order = []) (h : ok s = true) :
    ∃ t, modeReq ok (startDrain maint) 0 s = .next t ∧ Entered t s.aon.mode .drain 0x07 ∧ t.aon.drainToMaint = maint ∧
      t.aon.drainClosing = false ∧ t.aon.i3cStatus = 0 := by
  obtain ⟨entered, asked, closing⟩ := startDrain_entered maint rest order
  rw [modeReq_granted _ h]
  generalize startDrain maint s = u at entered asked closing
  exact ⟨_, rfl, entered, asked, closing, rfl⟩

theorem drainToStall_enters {s : State} (rest : LedgerRests s) (order : s.led.order = [])
    (mode : s.aon.mode = .service ∨ s.aon.mode = .maintenance) : ∃ t, exec (.drainToStall 0) s = .next t ∧
      Entered t s.aon.mode .drain 0x07 ∧ t.aon.drainToMaint = false ∧ t.aon.drainClosing = false ∧ t.aon.i3cStatus = 0 := by
  show ∃ t, execDrainToStall 0 s = .next t ∧ _
  unfold execDrainToStall
  exact drain_enters false rest order (by simpa using mode)

theorem drainToMaint_enters {s : State} (rest : LedgerRests s) (order : s.led.order = []) (mode : s.aon.mode = .service) :
    ∃ t, exec (.drainToMaint 0) s = .next t ∧ Entered t .service .drain 0x07 ∧ t.aon.drainToMaint = true ∧
      t.aon.drainClosing = false ∧ t.aon.i3cStatus = 0 := by
  show ∃ t, execDrainToMaint 0 s = .next t ∧ _
  unfold execDrainToMaint
  rw [← mode]
  exact drain_enters true rest order (by simp)

theorem drainToStall_refused {s : State} (svc : s.aon.mode ≠ .service) (mnt : s.aon.mode ≠ .maintenance) :
    exec (.drainToStall 0) s = .next (i3cDone 1 [] s) := by
  show execDrainToStall 0 s = _
  unfold execDrainToStall
  exact modeReq_refused _ (by simp [svc, mnt])

theorem drainToMaint_refused {s : State} (svc : s.aon.mode ≠ .service) : exec (.drainToMaint 0) s = .next (i3cDone 1 [] s) := by
  show execDrainToMaint 0 s = _
  unfold execDrainToMaint
  exact modeReq_refused _ (by simp [svc])

theorem leaveMaint_enters {s : State} (mode : s.aon.mode = .maintenance) (tr : trained s = true) (chosen : s.led.chosen = true) :
    ∃ t, exec (.leaveMaint 0) s = .next t ∧ Entered t .maintenance .recovery 0x11 ∧ t.aon.i3cStatus = 0 := by
  have entered := entered_of_within (settle_within _) rfl (enterRecovery_entered 0x11 mode)
  show ∃ t, execLeaveMaint 0 s = .next t ∧ _
  unfold execLeaveMaint
  rw [modeReq_granted _ (by simp [mode, tr, chosen])]
  generalize settle (enterRecovery 0x11 s) = u at entered
  exact ⟨_, rfl, entered, rfl⟩

/-! ## The end of Drain -/

/-- DRAIN_LIMIT logs the end of the serving phase with the pages that are dirty (R391). -/
def drainLimitLogged (s : State) : State := logIt { cause := 0x6A, src := epAon, args := [dirtyPages s] } s

/-- The state in which the ports close. -/
def drainClosingFrom (s : State) : State := { drainLimitLogged s with aon.drainClosing := true }

theorem direct_drainClosingFrom {s : State} (h : direct s = true) : direct (drainClosingFrom s) = true :=
  (direct_of_kept (logIt_cfg ..) (logIt_fuse ..)).trans h

/-- The state in which every port has closed. -/
def portsClosed (s : State) : State := (List.range (numPorts s)).foldl closePort (drainClosingFrom s)

theorem portsClosed_within {s : State} (h : direct s = true) :
    Within { log := true, ev := true, port := true, mgt := true } (drainClosingFrom s) (portsClosed s) :=
  closePorts_within _ (direct_drainClosingFrom h)

theorem portsClosed_off {s : State} (h : direct s = true) {p : Nat} (hp : p < numPorts s) : (portOf (portsClosed s) p).st = .off :=
  closePorts_off _ p (direct_drainClosingFrom h) (.inl (List.mem_range.2 hp))

theorem numPorts_of_fuse {s t : State} (h : t.fuse = s.fuse) : numPorts t = numPorts s := by
  unfold numPorts
  rw [h]

theorem execDrainLimit_of_serving {s : State} (mode : s.aon.mode = .drain) (closing : s.aon.drainClosing = false) :
    execDrainLimit s = .next (settle (packQueued (queueAll (portsClosed s)))) := by
  have aon : (drainLimitLogged s).aon = s.aon := logIt_aon ..
  have ports : numPorts (drainLimitLogged s) = numPorts s := numPorts_of_fuse (logIt_fuse ..)
  unfold execDrainLimit portsClosed
  rw [if_neg (by simp [mode, closing]), ← ports]
  exact congrArg (fun t => Host.Outcome.next (settle t)) (startClosing_eq ((congrArg Aon.mode aon).trans mode)
    ((congrArg Aon.drainClosing aon).trans closing))

theorem drainLimit_closes {s : State} (mode : s.aon.mode = .drain) (closing : s.aon.drainClosing = false) (rest : LedgerRests s)
    (order : s.led.order = []) (dir : direct s = true) : ∃ t, exec .drainLimit s = .next t ∧ t.aon.drainClosing = true ∧
      t.aon.mode = .drain ∧ ∀ p, p < numPorts s → (portOf t p).st = .off := by
  have closed := portsClosed_within dir
  have aon := within_aon closed rfl rfl
  have led : (portsClosed s).led = s.led := (within_led closed rfl).trans (logIt_led ..)
  have quay : (portsClosed s).quay = s.quay := (within_quay closed rfl).trans (logIt_quay ..)
  have reins : (portsClosed s).reins = s.reins := (within_reins closed rfl).trans (logIt_reins ..)
  have run := execDrainLimit_of_serving mode closing
  rw [queueAll_of_orderEmpty (by rw [led, order]), packQueued_of_queueEmpty (by rw [led, rest.queue]),
    settle_of_quiet (quiet_of_kept rest.quiet quay (by rw [reins]))] at run
  have drain : (drainClosingFrom s).aon.mode = .drain := (congrArg Aon.mode (logIt_aon ..)).trans mode
  exact ⟨portsClosed s, run, by rw [aon]; rfl, by rw [aon, drain], fun p hp => portsClosed_off dir hp⟩

theorem toStall_entered (code : BitVec 8) {s : State} {old : Mode} (h : s.aon.mode = old) : Entered (toStall code s) old .stall code := by
  have off := (within_mode (dramLost_within (diesOff s)) rfl).trans ((within_mode (diesOff_within s) rfl).trans h)
  unfold toStall
  exact changeMode_entered _ _ off

/-- At Stall DRAM holds nothing. -/
theorem toStall_mem (code : BitVec 8) (s : State) : (toStall code s).dram.mem = [] := by
  unfold toStall
  exact changeMode_mem ..

/-- What the clean point writes first: HOLD_DONE, and a flush of the SSDs (R391 step 3). -/
def cleanPointWritten (s : State) : State := flushSsds (addRec 4 (holdDoneBody (BitVec.ofNat 64 (topSeq s)) true true false) s)

theorem cleanPointWritten_within (s : State) : Within { ev := true, led := true, reins := true, mgt := true } s (cleanPointWritten s) :=
  (flushSsds_within _).to rfl (addRec_within 4 (holdDoneBody (BitVec.ofNat 64 (topSeq s)) true true false) s)

theorem cleanPointWritten_mode (s : State) : (cleanPointWritten s).aon.mode = s.aon.mode :=
  within_mode (cleanPointWritten_within s) rfl

theorem cleanPointWritten_quay (s : State) : (cleanPointWritten s).quay = s.quay := within_quay (cleanPointWritten_within s) rfl

theorem cleanPointWritten_port (s : State) : (cleanPointWritten s).port = s.port := within_port (cleanPointWritten_within s) rfl

theorem cleanPointWritten_mem (s : State) : (cleanPointWritten s).dram.mem = s.dram.mem :=
  within_mem (cleanPointWritten_within s) rfl

theorem cleanPointWritten_waiters (s : State) : (cleanPointWritten s).reins.waiters = s.reins.waiters := by
  unfold cleanPointWritten
  rw [within_reins (flushSsds_within _) rfl]
  exact (addRec_waits ..).waiters

/-- No request for Drain stands. -/
def drainDone (s : State) : State := { s with aon.drainToMaint := false, aon.drainClosing := false }

@[simp] theorem drainDone_mode (s : State) : (drainDone s).aon.mode = s.aon.mode := rfl
@[simp] theorem drainDone_quay (s : State) : (drainDone s).quay = s.quay := rfl
@[simp] theorem drainDone_mem (s : State) : (drainDone s).dram.mem = s.dram.mem := rfl
@[simp] theorem drainDone_reins (s : State) : (drainDone s).reins = s.reins := rfl
@[simp] theorem drainDone_port (s : State) : (drainDone s).port = s.port := rfl

/-- A device whose rails go down at the clean point. -/
def cleanPointDark (s : State) : State := allRailsOff (warnBays true (warnBays false (drainDone (cleanPointWritten s))))

/-- The device in Maintenance from the clean point, before its ports train again. -/
def cleanPointMaint (s : State) : State := changeMode 0x0B .maintenance (drainDone (cleanPointWritten s))

theorem cleanPointMaint_entered {s : State} (mode : s.aon.mode = .drain) : Entered (cleanPointMaint s) .drain .maintenance 0x0B := by
  unfold cleanPointMaint
  exact changeMode_entered _ _ (by rw [drainDone_mode, cleanPointWritten_mode, mode])

theorem cleanPointMaint_mem (s : State) : (cleanPointMaint s).dram.mem = s.dram.mem := by
  unfold cleanPointMaint
  rw [changeMode_mem, drainDone_mem, cleanPointWritten_mem]

/-- From a quiet home the clean point leaves a quiet home. -/
theorem cleanPointMaint_quiet {s : State} (quiet : Quiet s) : Quiet (cleanPointMaint s) := by
  have done : Quiet (drainDone (cleanPointWritten s)) :=
    quiet_of_kept quiet (by rw [drainDone_quay, cleanPointWritten_quay]) (by rw [drainDone_reins, cleanPointWritten_waiters])
  unfold cleanPointMaint
  exact quiet_changeMode _ _ done

theorem cleanPointMaint_down {s : State} (down : ∀ p, portUp s p = false) (p : Nat) : portUp (cleanPointMaint s) p = false := by
  have done (p : Nat) : portUp (drainDone (cleanPointWritten s)) p = false :=
    (portUp_of_port (by rw [drainDone_port, cleanPointWritten_port]) p).trans (down p)
  unfold cleanPointMaint
  rw [portUp_of_port (changeMode_port_of_down _ _ done)]
  exact done p

theorem execDrainCleanPoint_of_clean {s : State} (mode : s.aon.mode = .drain) (closing : s.aon.drainClosing = true)
    (clean : dirtyPages s = 0) : execDrainCleanPoint s = if s.aon.drainToMaint
      then .next (settle ((List.range (numPorts (drainDone (cleanPointWritten s)))).foldl newSession (cleanPointMaint s)))
      else .next (toStall 0x0B (cleanPointDark s)) := by
  unfold execDrainCleanPoint cleanPointMaint cleanPointDark cleanPointWritten
  rw [if_neg (by simp [mode, closing, clean])]
  rfl

theorem cleanPoint_to_stall {s : State} (mode : s.aon.mode = .drain) (closing : s.aon.drainClosing = true) (clean : dirtyPages s = 0)
    (maint : s.aon.drainToMaint = false) :
    ∃ t, exec .drainCleanPoint s = .next t ∧ Entered t .drain .stall 0x0B ∧ t.dram.mem = [] := by
  have run := execDrainCleanPoint_of_clean mode closing clean
  rw [maint, if_neg Bool.false_ne_true] at run
  have dark : (cleanPointDark s).aon.mode = .drain := by
    unfold cleanPointDark
    rw [within_mode (allRailsOff_within _) rfl, within_mode (warnBays_within ..) rfl, within_mode (warnBays_within ..) rfl,
      drainDone_mode, cleanPointWritten_mode, mode]
  exact ⟨_, run, toStall_entered 0x0B dark, toStall_mem ..⟩

theorem cleanPoint_to_maintenance {s : State} (mode : s.aon.mode = .drain) (closing : s.aon.drainClosing = true) (clean : dirtyPages s = 0)
    (maint : s.aon.drainToMaint = true) (quiet : Quiet s) (down : ∀ p, portUp s p = false) :
    ∃ t, exec .drainCleanPoint s = .next t ∧ Entered t .drain .maintenance 0x0B ∧ t.dram.mem = s.dram.mem := by
  have run := execDrainCleanPoint_of_clean mode closing clean
  rw [maint, if_pos rfl] at run
  have sessions := newSessions_within_of_down (List.range (numPorts (drainDone (cleanPointWritten s)))) (cleanPointMaint_down down)
  rw [settle_of_quiet (quiet_of_kept (cleanPointMaint_quiet quiet) (within_quay sessions rfl)
    (congrArg Reins.waiters (within_reins sessions rfl)))] at run
  exact ⟨_, run, entered_of_within sessions rfl (cleanPointMaint_entered mode),
    (within_mem sessions rfl).trans (cleanPointMaint_mem s)⟩

/-! ## The statements -/

/-- Settles O41: each transition by its own lemma. -/
theorem modesFollowTheTable : Obligations.ModesFollowTheTable := by
  refine ⟨?_, ?_, ?_, ?_, ?_, ?_, ?_⟩
  · exact fun s mode tr chosen cons pop chk => ⟨harnessingComplete_to_recovery mode tr chosen cons pop chk,
      harnessingComplete_to_maintenance mode tr chosen cons pop chk⟩
  · intro s mode rec quiet hold
    obtain ⟨g, tol, v, b, n, e⟩ := serviceOpened_aon s
    have c : (serviceOpened s).led.c = 0 := (serviceOpened_waits s).ceiling
    refine ⟨_, exec_serviceEntry mode rec quiet hold, ?_⟩
    simp [Entered, e, c, mode, serviceRecorded]
  · exact fun s rest order => ⟨drainToStall_enters rest order, drainToMaint_enters rest order⟩
  · exact fun s svc => ⟨drainToStall_refused svc, drainToMaint_refused svc⟩
  · exact fun s mode tr chosen => leaveMaint_enters mode tr chosen
  · exact fun s mode closing rest order dir => drainLimit_closes mode closing rest order dir
  · exact fun s mode closing clean => ⟨cleanPoint_to_stall mode closing clean, cleanPoint_to_maintenance mode closing clean⟩

/-- Settles O53: the milliseconds recorded are the whole ones of the time since the feed's return, which the field can hold. -/
theorem timeToServiceIsRecorded : Obligations.TimeToServiceIsRecorded := by
  intro s mode rec quiet hold short
  obtain ⟨g, tol, v, b, n, e⟩ := serviceOpened_aon s
  have ms : (serviceOpened s).aon.resumeMs.toNat = (s.time.tide - s.aon.returnTide).toNat / 1000000 := by
    have whole : (serviceOpened s).aon.resumeMs = BitVec.ofNat 20 (min ((s.time.tide - s.aon.returnTide).toNat / 1000000) 1048575) := by
      rw [e]; rfl
    rw [whole, BitVec.toNat_ofNat]
    omega
  refine ⟨_, exec_serviceEntry mode rec quiet hold, ?_, ?_, ?_⟩
  · omega
  · omega
  · rw [e]; rfl

end Sys2Proof.Laws
end

section
/-! PROOFS. The view of the state that the statements about pages take (R31, R47 to R73, R123): the Quay cache without its counters, the
page operation table, the frames that wait for their retirement. One lemma for each operation says what it does to the view. -/

namespace Sys2Proof.Laws

open Sys2Proof Sys2Proof.Machine

/-- What the statements about pages look at. The descriptors stand apart from the rest of the Quay cache; its counters are left out. -/
structure PageView where
  cfg : SMap (List (BitVec 128))
  fuse : Fuses
  quay : Quay
  desc : SMap (BitVec 128)
  waiters : List Waiter
  ops : List PageOp
  orphanWait : List (Nat × Nat)
  epoch : BitVec 8
  retire : List Nat

/-- The view of a state. -/
def pageView (s : State) : PageView :=
  { cfg := s.cfg, fuse := s.fuse, quay := { s.quay with ctr := [], ctrDirty := [], desc := [] }, desc := s.quay.desc,
    waiters := s.reins.waiters, ops := s.tier.ops, orphanWait := s.tier.orphanWait, epoch := s.tier.decayEpoch,
    retire := s.dram.retireList }

/-- A view with the descriptor of one page written. -/
def PageView.withDesc (v : PageView) (page : Nat) (d : BitVec 128) : PageView := { v with desc := sset 0 v.desc page d }

/-- A view with the page operation table written. -/
def PageView.withOps (v : PageView) (l : List PageOp) : PageView := { v with ops := l }

/-! ## What equal views share -/

theorem cfg_of_view {s t : State} (h : pageView t = pageView s) : t.cfg = s.cfg := congrArg PageView.cfg h
theorem fuse_of_view {s t : State} (h : pageView t = pageView s) : t.fuse = s.fuse := congrArg PageView.fuse h
theorem desc_of_view {s t : State} (h : pageView t = pageView s) : t.quay.desc = s.quay.desc := congrArg PageView.desc h
theorem ops_of_view {s t : State} (h : pageView t = pageView s) : t.tier.ops = s.tier.ops := congrArg PageView.ops h
theorem descOf_of_view {s t : State} (h : pageView t = pageView s) (page : Nat) : descOf t page = descOf s page := by
  rw [descOf, descRaw, desc_of_view h]; rfl
theorem epoch_of_view {s t : State} (h : pageView t = pageView s) : t.tier.decayEpoch = s.tier.decayEpoch := congrArg PageView.epoch h
theorem param_of_view {s t : State} (h : pageView t = pageView s) (table index : Nat) : param t table index = param s table index :=
  param_of_kept (cfg_of_view h) (fuse_of_view h) table index

theorem descRaw_of_withDesc {t : State} {v : PageView} {page : Nat} {d : BitVec 128} (h : pageView t = v.withDesc page d) :
    descRaw t page = d := by
  have desc : t.quay.desc = sset 0 v.desc page d := congrArg PageView.desc h
  rw [descRaw, desc, sget_sset_same]
theorem retire_of_withDesc {s t : State} {page : Nat} {d : BitVec 128} (h : pageView t = (pageView s).withDesc page d) :
    t.dram.retireList = s.dram.retireList := congrArg PageView.retire h
theorem opOf_of_withDesc {s t : State} {page : Nat} {d : BitVec 128} (h : pageView t = (pageView s).withDesc page d) (q : Nat) :
    opOf t q = opOf s q := by
  have ops : t.tier.ops = s.tier.ops := congrArg PageView.ops h
  rw [opOf, ops, opOf]

/-- A home is quiet when it is so in another state with the same banks and reservation points in view. -/
theorem quiet_of_view {s t : State} {v : PageView} (e : pageView t = v) (sameQuay : v.quay = (pageView s).quay)
    (sameWaiters : v.waiters = (pageView s).waiters) (h : Quiet s) : Quiet t := by
  have q : (pageView t).quay = (pageView s).quay := e ▸ sameQuay
  have w : (pageView t).waiters = (pageView s).waiters := e ▸ sameWaiters
  obtain ⟨txns, busy, notices, parked, parkWait, fills, waiters⟩ := h
  exact ⟨(congrArg Quay.txns q).trans txns, (congrArg Quay.busy q).trans busy, (congrArg Quay.notices q).trans notices,
    (congrArg Quay.parked q).trans parked, (congrArg Quay.parkWait q).trans parkWait, (congrArg Quay.fills q).trans fills,
    Eq.trans w waiters⟩

theorem quiet_of_withDesc {s t : State} {page : Nat} {d : BitVec 128} (h : pageView t = (pageView s).withDesc page d) (q : Quiet s) :
    Quiet t := quiet_of_view h rfl rfl q
theorem quiet_of_withOps {s t : State} {l : List PageOp} (h : pageView t = (pageView s).withOps l) (q : Quiet s) : Quiet t :=
  quiet_of_view h rfl rfl q

/-! ## Operations that leave the view alone -/

/-- An operation that touches no part in view but the reins leaves the view alone where it leaves the reservation points alone. -/
theorem view_of_within {p : Parts} {s t : State} (h : Within p s t)
    (k : (p.cfg || p.fuse || p.quay || p.tier || p.dram || p.mem) = false) (w : t.reins.waiters = s.reins.waiters) :
    pageView t = pageView s := by
  simp only [Bool.or_eq_false_iff] at k
  obtain ⟨⟨⟨⟨⟨cfg, fuse⟩, quay⟩, tier⟩, dram⟩, mem⟩ := k
  simp only [pageView, keeps_cfg h.same cfg, keeps_fuse h.same fuse, within_quay h quay, w, keeps_tier h.same tier,
    keeps_dram h.same dram mem]

theorem view_foldl {α : Type} {f : State → α → State} (hf : ∀ t a, pageView (f t a) = pageView t) (l : List α) (s : State) :
    pageView (l.foldl f s) = pageView s := by
  induction l generalizing s with
  | nil => rfl
  | cons a l ih => exact (ih (f s a)).trans (hf s a)

@[simp] theorem view_evAdd (id n : Nat) (s : State) : pageView (evAdd id n s) = pageView s := by simp [pageView]
@[simp] theorem view_evDch (c e : Nat) (s : State) : pageView (evDch c e s) = pageView s := view_evAdd ..
@[simp] theorem view_evQb (b e : Nat) (s : State) : pageView (evQb b e s) = pageView s := view_evAdd ..
@[simp] theorem view_evTile (t e n : Nat) (s : State) : pageView (evTile t e n s) = pageView s := view_evAdd ..
@[simp] theorem view_logIt (r : LogRec) (s : State) : pageView (logIt r s) = pageView s := by simp [pageView]
@[simp] theorem view_refreshPA (s : State) : pageView (refreshPA s) = pageView s :=
  view_of_within (refreshPA_within s) rfl (by rw [within_reins (refreshPA_within s) rfl])
@[simp] theorem view_tileUnits (t n inp pay ovh : Nat) (ok : Bool) (s : State) :
    pageView (tileUnits t n inp pay ovh ok s) = pageView s :=
  view_of_within (tileUnits_within ..) rfl (by rw [within_reins (tileUnits_within ..) rfl])
@[simp] theorem view_countUse (inst : Nat) (c : BitVec 8) (n : Nat) (s : State) : pageView (countUse inst c n s) = pageView s :=
  view_of_within (countUse_within ..) rfl (countUse_waits ..).waiters
@[simp] theorem view_addRec (ty : BitVec 8) (body : BitVec 512) (s : State) : pageView (addRec ty body s) = pageView s :=
  view_of_within (addRec_within ..) rfl (addRec_waits ..).waiters
@[simp] theorem view_workDone (cls : BitVec 8) (due : Option Nat) (s : State) : pageView (workDone cls due s) = pageView s :=
  view_of_within (workDone_within ..) rfl (by rw [within_reins (workDone_within ..) rfl])

/-! ## Channels and stored lines -/

@[simp] theorem view_modChan (c : Nat) (f : Channel → Channel) (s : State) : pageView (modChan c f s) = pageView s := rfl
@[simp] theorem view_markOver (addr : Nat) (s : State) : pageView (markOver addr s) = pageView s := rfl
@[simp] theorem view_chargeWrites (w : Work) (old s : State) : pageView (chargeWrites w old s) = pageView s := rfl
@[simp] theorem view_doWork (w : Work) (f : State → State) (s : State) : pageView (doWork w f s) = pageView (f s) := rfl

@[simp] theorem view_storeWrite (c : Nat) (q : DramReq) (s : State) : pageView (storeWrite c q s) = pageView s := by
  simp only [storeWrite, view_evDch, view_countUse]
  rfl

@[simp] theorem view_popWrite (c : Nat) (s : State) : pageView (popWrite c s) = pageView s := by
  unfold popWrite
  split <;> simp

@[simp] theorem view_dramWrite (addr : Nat) (st : BitVec 640) (s : State) : pageView (dramWrite addr st s) = pageView s := by
  unfold dramWrite
  dsimp only
  split
  · rfl
  · split <;> split <;> simp

@[simp] theorem view_correctiveRewrite (addr : Nat) (st : BitVec 640) (s : State) :
    pageView (correctiveRewrite addr st s) = pageView s := by
  unfold correctiveRewrite
  split
  · rfl
  · split
    · simp
    · dsimp only
      split <;> simp

@[simp] theorem view_readNow (cls : BitVec 8) (addr : Nat) (s : State) : pageView (readNow cls addr s) = pageView s := by
  unfold readNow
  split
  · rfl
  · split <;> simp

@[simp] theorem view_putForm (addr : Nat) (f : Option (BitVec 640)) (s : State) : pageView (putForm addr f s) = pageView s := by
  cases f <;> simp [putForm]

/-! ## Counters and keys (R97, R104 to R109) -/

@[simp] theorem view_setNode (kt : Bool) (level idx : Nat) (x : BitVec 512) (s : State) :
    pageView (setNode kt level idx x s) = pageView s := by
  unfold setNode holdNode
  dsimp only
  split <;> rfl

@[simp] theorem view_storeNode (kt : Bool) (level idx : Nat) (ctr : BitVec 64 × BitVec 7) (x : BitVec 512) (poison : Bool) (s : State) :
    pageView (storeNode kt level idx ctr x poison s) = pageView s :=
  view_foldl (fun t c => by split <;> simp) _ s

@[simp] theorem view_writeNode (kt : Bool) (level idx : Nat) (s : State) : pageView (writeNode kt level idx s) = pageView s := by
  unfold writeNode
  dsimp only
  split
  · rw [view_storeNode]
    cases kt <;> rfl
  · split
    · rw [view_foldl (fun t j => by split <;> simp), view_setNode]
      rfl
    · rw [view_storeNode, view_setNode]
      rfl

@[simp] theorem view_ctrRoom (n : Nat) (s : State) : pageView (ctrRoom n s) = pageView s := by
  induction n generalizing s with
  | zero => rfl
  | succ n ih =>
    unfold ctrRoom
    split
    · rfl
    · split
      · rfl
      · dsimp only
        rw [ih]
        split
        · exact (view_writeNode ..)
        · rfl

@[simp] theorem view_setCtr (page : Nat) (c : BitVec 512) (s : State) : pageView (setCtr page c s) = pageView s := by
  simp [setCtr]

@[simp] theorem view_setKeyEntry (k : BitVec 20) (e : BitVec 512) (s : State) : pageView (setKeyEntry k e s) = pageView s :=
  view_setNode ..

@[simp] theorem view_keyCount (k : BitVec 20) (up : Bool) (s : State) : pageView (keyCount k up s) = pageView s := by
  simp [keyCount]

/-- A descriptor update changes one descriptor of the view. -/
@[simp] theorem view_setDesc (page : Nat) (d : BitVec 128) (s : State) :
    pageView (setDesc page d s) = (pageView s).withDesc page d := by
  have update (u : State) (h : pageView u = (pageView s).withDesc page d) (b c : Bool) (k l : BitVec 20)
      (x y : Bool) : pageView (if x = y then (if c then keyCount l true (if b then keyCount k false u else u) else
        (if b then keyCount k false u else u)) else refreshPA (if c then keyCount l true (if b then keyCount k false u else u) else
        (if b then keyCount k false u else u))) = (pageView s).withDesc page d := by
    cases b <;> cases c <;> split <;> simp [h]
  exact update _ rfl ..

end Sys2Proof.Laws
end

section
/-! PROOFS. Frames, runs and berths under the view (R52 to R54, R66 to R73, R103 to R106), and how an operation that holds its page alone
ends (R47, R48). -/

namespace Sys2Proof.Laws

open Sys2Proof Sys2Proof.Machine

/-! ## Frames and runs -/

@[simp] theorem view_setFrame (dfa : Nat) (e : BitVec 64) (s : State) : pageView (setFrame dfa e s) = pageView s := rfl

/-- With no frame waiting for its retirement, a frame that is freed retires none. -/
theorem view_freeFrame (dfa : Nat) {s : State} (h : s.dram.retireList = []) : pageView (freeFrame dfa s) = pageView s := by
  unfold freeFrame
  split
  · rfl
  · rw [h, List.contains_nil, if_neg (by simp)]
    rfl

theorem view_freeRun (gaddr g : Nat) {s : State} (h : s.dram.retireList = []) : pageView (freeRun gaddr g s) = pageView s := by
  unfold freeRun
  dsimp only
  split
  · refine (view_freeFrame _ ?_).trans ?_
    · exact h
    · simp only [pageView]
  · simp only [pageView, setFrame]

theorem view_retireRun (gaddr : Nat) (sizes : List Nat) {s : State} (h : s.dram.retireList = []) :
    pageView (retireRun gaddr sizes s) = pageView s := by
  unfold retireRun
  dsimp only
  split
  · exact view_freeRun _ _ h
  · rfl

theorem view_takeFrame {die d : Nat} {s t : State} (h : takeFrame die s = some (d, t)) : pageView t = pageView s := by
  unfold takeFrame at h
  split at h
  · cases h; rfl
  · split at h <;> cases h
    rfl

theorem view_allocFrame {die d : Nat} {always : Bool} {s t : State} (h : allocFrame die always s = some (d, t)) :
    pageView t = pageView s := by
  unfold allocFrame at h
  split at h
  · cases h
  · split at h
    · next r hr => cases h; exact view_takeFrame hr
    · split at h
      · cases h
      · exact view_takeFrame h

theorem view_closeFullest (s : State) : pageView (closeFullest s) = pageView s := by
  unfold closeFullest
  split
  · rfl
  · dsimp only
    split <;> rfl

theorem view_granFrame {die g f : Nat} {always : Bool} {s t : State} (h : granFrame die g always s = some (f, t)) :
    pageView t = pageView s := by
  unfold granFrame at h
  split at h
  · cases h; rfl
  · obtain ⟨⟨d, u⟩, hu, e⟩ := Option.map_eq_some_iff.1 h
    cases e
    exact (view_closeFullest u).trans (view_allocFrame hu)

@[simp] theorem view_placeRun (f page g : Nat) (s : State) : pageView (placeRun f page g s).2 = pageView s := rfl

/-! ## Berths and granules -/

@[simp] theorem view_rewriteBerth (page : Nat) (new : Option (Nat × BitVec 512 × Bool)) (s : State) :
    pageView (rewriteBerth page new s) = pageView s := by
  unfold rewriteBerth
  dsimp only
  rw [view_setCtr]
  refine view_foldl (fun t j => ?_) _ s
  split
  · rfl
  · split <;> simp only [apply_ite pageView, view_logIt, view_putForm, ite_self]

@[simp] theorem view_writeBerth (page i : Nat) (x : BitVec 512) (poison : Bool) (s : State) :
    pageView (writeBerth page i x poison s) = pageView s := by
  unfold writeBerth
  dsimp only
  split
  · rfl
  · split
    · simp
    · split <;> simp

@[simp] theorem view_fillRun (page gaddr : Nat) (isSealed : Bool) (key : BitVec 20) (g : List (BitVec 512)) (s : State) :
    pageView (fillRun page gaddr isSealed key g s) = pageView s := by
  unfold fillRun
  dsimp only
  split <;> (try rw [view_setCtr]) <;> exact view_foldl (fun t p => view_putForm ..) _ s

@[simp] theorem view_fillBerth (page dfa : Nat) (isSealed : Bool) (key : BitVec 20) (lines : List (BitVec 512 × Bool)) (s : State) :
    pageView (fillBerth page dfa isSealed key lines s) = pageView s := by
  unfold fillBerth
  dsimp only
  split <;> (try rw [view_setCtr]) <;> exact view_foldl (fun t p => view_putForm ..) _ s

theorem view_newBerth {page f : Nat} {lines : List (BitVec 512 × Bool)} {always : Bool} {s t : State}
    (h : newBerth page lines always s = some (f, t)) : pageView t = pageView s := by
  obtain ⟨⟨d, u⟩, hu, e⟩ := Option.map_eq_some_iff.1 h
  cases e
  exact (view_fillBerth ..).trans ((view_setFrame ..).trans (view_allocFrame hu))

theorem view_countCorrection (addr : Nat) (s : State) : pageView (countCorrection addr s) = pageView s := by
  unfold countCorrection
  dsimp only
  split <;> rfl

theorem view_correctedAs (r : LogRec) (addr : Nat) (st : BitVec 640) (dev : Nat) (newer : Bool) (s : State) :
    pageView (correctedAs r addr st dev newer s) = pageView s := by
  unfold correctedAs
  split
  · rfl
  · dsimp only
    split <;> split <;> simp [view_countCorrection]

@[simp] theorem view_noteCheck (addr line : Nat) (k : Check) (newer : Bool) (s : State) :
    pageView (noteCheck addr line k newer s) = pageView s := by
  unfold noteCheck
  split
  · exact view_correctedAs ..
  · exact view_correctedAs ..
  · rfl

@[simp] theorem view_readGranules (cls : BitVec 8) (page : Nat) (gs : List Nat) (s : State) :
    pageView (readGranules cls page gs s) = pageView s :=
  view_foldl (fun t g => by simp) gs s

@[simp] theorem view_noteTransient (r : LogRec) (addr : Nat) (s : State) : pageView (noteTransient r addr s) = pageView s := by
  unfold noteTransient
  split
  · simp
  · rfl

/-! ## The end of an operation -/

/-- What holds a page alone does so in another state with the same view but for the descriptors. -/
theorem alone_of_view {s t : State} {page : Nat} {k : OpKind} {o : PageOp} {m : SMap (BitVec 128)} (h : OpAlone s page k o)
    (v : pageView t = { pageView s with desc := m }) : OpAlone t page k o where
  ops := (congrArg PageView.ops v).trans h.ops
  page := h.page
  kind := h.kind
  after := h.after
  retire := (congrArg PageView.retire v).trans h.retire
  waits := (congrArg PageView.orphanWait v).trans h.waits
  quiet := quiet_of_view v rfl rfl h.quiet

theorem opOf_of_alone {s : State} {page : Nat} {k : OpKind} {o : PageOp} (h : OpAlone s page k o) : opOf s page = some o := by
  simp [opOf, h.ops, h.page]

/-- A change of the operation that holds its page alone. -/
theorem view_modOp {s u : State} {page : Nat} {k : OpKind} {o : PageOp} (h : OpAlone s page k o) (v : pageView u = pageView s)
    (f : PageOp → PageOp) : pageView (modOp page f u) = (pageView s).withOps [f o] := by
  have ops : (modOp page f u).tier.ops = [f o] := by simp [modOp, setOps, ops_of_view v, h.ops, h.page]
  rw [← v, ← ops]
  rfl

theorem retryOrphans_of_none {s : State} (h : s.tier.orphanWait = []) : retryOrphans s = s := by
  unfold retryOrphans
  rw [h]
  exact congrArg (fun l => { s with tier.orphanWait := l }) h.symm

/-- The deadline of an operation that ends is judged, unless a request opened it (R249). -/
def opJudged (o : PageOp) (s : State) : State := if o.kind = .fault && o.restore = 0 then s else workDone o.cls o.due s

theorem view_opJudged (o : PageOp) (s : State) : pageView (opJudged o s) = pageView s := by
  unfold opJudged
  split <;> simp

/-- An operation that holds its page alone, with nothing deferred to its end, leaves the table and is judged when it ends. -/
theorem finishOp_of_alone {s : State} {page : Nat} {k : OpKind} {o : PageOp} (h : OpAlone s page k o) :
    finishOp page s = endOp page (opJudged o s) := by
  obtain ⟨poison, orphan, evict, pin, -, -⟩ := h.after
  have waits : (endOp page (opJudged o s)).tier.orphanWait = [] := (congrArg PageView.orphanWait (view_opJudged o s) :).trans h.waits
  have retire : (endOp page (opJudged o s)).dram.retireList = [] := (congrArg PageView.retire (view_opJudged o s) :).trans h.retire
  unfold finishOp
  rw [opOf_of_alone h]
  simp only [poison, orphan, evict, pin, Bool.false_and, List.foldl_nil, Bool.false_eq_true, if_false]
  change List.foldl _ (retryOrphans (endOp page (opJudged o s))) (retryOrphans (endOp page (opJudged o s))).dram.retireList = _
  rw [retryOrphans_of_none waits, retire]
  rfl

/-- Its end empties the page operation table. -/
theorem view_finishOp {s : State} {page : Nat} {k : OpKind} {o : PageOp} (h : OpAlone s page k o) :
    pageView (finishOp page s) = (pageView s).withOps [] := by
  have ops : (endOp page (opJudged o s)).tier.ops = [] := by
    simp only [endOp, setOps, ops_of_view (view_opJudged o s), h.ops]
    simp [h.page]
  rw [finishOp_of_alone h, ← view_opJudged o s, ← ops]
  rfl

/-- An operation that has changed nothing in view but one descriptor ends with that descriptor and a free page. -/
theorem pageIs_of_finish {s t : State} {page : Nat} {k : OpKind} {o : PageOp} {d : BitVec 128} (h : OpAlone s page k o)
    (v : pageView t = (pageView s).withDesc page d) :
    PageIs (finishOp page t) page d ∧ Quiet (finishOp page t) := by
  have e := view_finishOp (alone_of_view h v)
  rw [v] at e
  have desc : (finishOp page t).quay.desc = sset 0 s.quay.desc page d := congrArg PageView.desc e
  have ops : (finishOp page t).tier.ops = [] := congrArg PageView.ops e
  refine ⟨⟨?_, ?_⟩, quiet_of_view e rfl rfl h.quiet⟩
  · rw [descRaw, desc, sget_sset_same]
  · simp [opOf, ops]

end Sys2Proof.Laws
end

section
/-! PROOFS. The page operations end in one descriptor update (R35, R36, R52 to R55, R69, R71, R123). -/

namespace Sys2Proof.Laws

open Sys2Proof Sys2Proof.Machine

/-! ## What is only counted -/

/-- An operation that only counts gives the same state with other counters. -/
theorem eq_of_counted {s t : State} (h : Within { ev := true, reins := true, mgt := true } s t) :
    t = { s with ev := t.ev, reins := t.reins, mgt := t.mgt } := by
  obtain ⟨h, -⟩ := h
  rw [← keeps_fuse h rfl, ← keeps_aon h rfl rfl, ← keeps_time h rfl rfl, ← keeps_log h rfl, ← keeps_sec h rfl, ← keeps_frz h rfl,
    ← keeps_pin h rfl, ← keeps_quay h rfl, ← keeps_dram h rfl rfl, ← keeps_tier h rfl, ← keeps_led h rfl, ← keeps_port h rfl,
    ← keeps_noc h rfl, ← keeps_rings h rfl, ← keeps_nor h rfl, ← keeps_ppd h rfl, ← keeps_cfg h rfl, ← keeps_free h rfl,
    ← keeps_pending h rfl]

theorem nodeAt_counted (s : State) (ev : AonEvents) (reins : Reins) (mgt : Mgt) (kt : Bool) (n idx : Nat) :
    nodeAt { s with ev := ev, reins := reins, mgt := mgt } kt n idx = nodeAt s kt n idx := by
  induction n generalizing idx with
  | zero => rfl
  | succ n ih => simp only [nodeAt, ih]; rfl

/-- An image reads the same whatever has been counted. -/
theorem coldImage_of_counted {s t : State} (h : Within { ev := true, reins := true, mgt := true } s t) (page : Nat) :
    coldImage t page = coldImage s page := by
  rw [eq_of_counted h]
  simp only [coldImage, entryImage, heldImage, readImage, ledgerKeys, keyEntry, nodeAt_counted]
  rfl

/-! ## Demand faults (R35, R36) -/

theorem heldImage_of_coldImage {s : State} {page : Nat} {g : List (BitVec 512)} (h : coldImage s page = some g) :
    ssdUp s (ledSsd (dLedAddr (descOf s page))) = true ∧ heldImage s page (descOf s page) = some g := by
  unfold coldImage entryImage at h
  split at h
  · exact ⟨‹_›, h⟩
  · cases h

/-- An image that can be read does not wait for its SSD. -/
theorem imageWaits_of_coldImage {s : State} {page : Nat} {g : List (BitVec 512)} (h : coldImage s page = some g) :
    imageWaits s (descOf s page) = false := by
  simp [imageWaits, (heldImage_of_coldImage h).1]

@[simp] theorem view_countRead (page : Nat) (o : PageOp) (ok : Bool) (s : State) : pageView (countRead page o ok s) = pageView s := by
  refine view_of_within (countRead_within ..) rfl ?_
  unfold countRead countXfer
  refine (countUse_waits ..).waiters.trans ?_
  cases ok <;> simp [peEv]

/-- A home with no transaction has none that waits for a demand fault. -/
theorem faultTxn_of_quiet {s : State} (h : Quiet s) (page : Nat) : faultTxn s page = none := by
  simp [faultTxn, h.1]

/-- The state in which the NVMe Read of a fault is noted. -/
def readNoted (page : Nat) (o : PageOp) (s : State) : State :=
  modOp page (fun o => { o with read := true }) (countRead page o true s)

theorem view_readNoted {s : State} {page : Nat} {o : PageOp} (h : OpAlone s page .fault o) :
    pageView (readNoted page o s) = (pageView s).withOps [{ o with read := true }] := view_modOp h (view_countRead ..) _

theorem faultRead_noted {s : State} {page : Nat} {o : PageOp} {g : List (BitVec 512)} (h : OpAlone s page .fault o)
    (image : coldImage s page = some g) (unread : o.read = false) :
    exec (.demandFaultReadComplete page true) s = .next (readNoted page o s) := by
  have quiet := quiet_of_withOps (view_readNoted h) h.quiet
  show execDemandFaultReadComplete page true s = _
  unfold execDemandFaultReadComplete
  rw [opOf_of_alone h]
  simp only [h.kind, unread, imageWaits_of_coldImage image, coldImage_of_counted (countRead_within page o true s), image]
  simp only [readNoted] at quiet ⊢
  simp [faultTxn_of_quiet quiet]

/-- An image installed as a run changes one descriptor (R105). -/
theorem view_installWarm {s t : State} {page : Nat} {o : PageOp} {g : List (BitVec 512)} (h : installWarm page o g s = some t) :
    ∃ a, pageView t = (pageView s).withDesc page
      (mkWarm (descOf s page) a (dSizesC (descOf s page)) (max o.hot (param s 0x02 0)) s.tier.decayEpoch.toNat) := by
  obtain ⟨⟨f, u⟩, frame, rfl⟩ := Option.map_eq_some_iff.1 h
  have filled : pageView (doWork o.work (fillRun page (placeRun f page g.length u).1 (dSealed (descOf s page)) (dKey (descOf s page)) g)
      (placeRun f page g.length u).2) = pageView s := by simp [view_granFrame frame]
  refine ⟨(placeRun f page g.length u).1, ?_⟩
  dsimp only
  rw [view_setDesc, filled, param_of_view filled, epoch_of_view filled]

theorem faultInstall_warm {s : State} {page : Nat} {o : PageOp} {g : List (BitVec 512)} (h : OpAlone s page .fault o)
    (image : coldImage s page = some g) (read : o.read = true) (short : g.length ≤ 63)
    (frame : (granFrame (descDie s page) g.length o.always s).isSome = true) :
    ∃ u a, exec (.demandFaultInstallComplete page) s = .next u ∧
      PageIs u page (mkWarm (descOf s page) a (dSizesC (descOf s page)) (param s 0x02 0) s.tier.decayEpoch.toNat) := by
  obtain ⟨-, -, -, -, hot, restore⟩ := h.after
  have whole : installImage page o g s = installWarm page o g s := by
    unfold installImage
    rw [if_neg (by simp [restore]; omega)]
  obtain ⟨t, installed⟩ : ∃ t, installWarm page o g s = some t := Option.isSome_iff_exists.1 (by simp [installWarm, frame])
  obtain ⟨a, view⟩ := view_installWarm installed
  rw [hot, Nat.zero_max] at view
  obtain ⟨done, quiet⟩ := pageIs_of_finish h view
  refine ⟨finishOp page t, a, ?_, done⟩
  show execDemandFaultInstallComplete page s = _
  unfold execDemandFaultInstallComplete
  rw [opOf_of_alone h]
  simp only [h.kind, read, (heldImage_of_coldImage image).2, whole, installed]
  simp [hot, settle_of_quiet quiet]

/-! ## Demotions and promotions (R32, R52, R53) -/

theorem view_demoteLines_of_zeros {s : State} {page : Nat} {o : PageOp} {l : List (BitVec 512 × Bool)} (h : OpAlone s page .demotion o)
    (zeros : ∀ x ∈ l, x = (0, false)) :
    pageView (demoteLines page o l s) = (pageView s).withDesc page (dCommon (descOf s page) .unbacked) := by
  have all : l.all (fun x => x.1 = 0 && !x.2) = true := List.all_eq_true.2 fun x hx => by simp [zeros x hx]
  unfold demoteLines
  dsimp only
  rw [if_pos all, view_freeFrame _ ((retire_of_withDesc (view_setDesc ..)).trans h.retire), view_setDesc]

theorem demotion_of_zeros {s v : State} {page : Nat} {o : PageOp} {l : List (BitVec 512 × Bool)} (h : OpAlone s page .demotion o)
    (hot : dState (descOf s page) = .hot) (lines : storedLines page (readPage o.cls page s) = (l, v)) (hv : OpAlone v page .demotion o)
    (hotv : dState (descOf v page) = .hot) (zeros : ∀ x ∈ l, x = (0, false)) :
    ∃ u, exec (.demotionComplete page) s = .next u ∧ PageIs u page (dCommon (descOf v page) .unbacked) := by
  have packed := view_tileUnits o.tile 64 64 1536 0 true v
  have alone : OpAlone (tileUnits o.tile 64 64 1536 0 true v) page .demotion o := alone_of_view hv (m := v.quay.desc) packed
  have view := view_demoteLines_of_zeros alone zeros
  obtain ⟨done, quiet⟩ := pageIs_of_finish alone view
  refine ⟨_, ?_, descOf_of_view packed page ▸ done⟩
  show execDemotionComplete page s = _
  unfold execDemotionComplete
  rw [opOf_of_alone h]
  simp [h.kind, hot, lines, descOf_of_view packed, hotv, settle_of_quiet quiet]

theorem promotion_to_hot {s v w : State} {page : Nat} {o : PageOp} {l : List (BitVec 512 × Bool)} (h : OpAlone s page .promotion o)
    (warm : dState (descOf s page) = .warm) (lines : warmLines s page = some l) (tile : decodeTile o.cls page s = some v)
    (read : readGranules o.cls page (List.range ((dSizesW (descOf s page)).foldl (· + ·) 0)) v = w) (hw : OpAlone w page .promotion o)
    (desc : descOf w page = descOf s page) (berth : (newBerth page l o.always w).isSome = true) :
    ∃ u f, exec (.promotionComplete page) s = .next u ∧
      PageIs u page (mkHot (descOf s page) f (dHot (descOf s page)) (dStamp (descOf s page))) := by
  obtain ⟨⟨f, t⟩, placed⟩ := Option.isSome_iff_exists.1 berth
  have filled := view_newBerth placed
  have hot : pageView (setDesc page (mkHot (descOf t page) f (dHot (descOf s page)) (dStamp (descOf s page))) (chargeWrites o.work s t)) =
      (pageView w).withDesc page (mkHot (descOf s page) f (dHot (descOf s page)) (dStamp (descOf s page))) := by
    rw [view_setDesc, view_chargeWrites, filled, descOf_of_view filled, desc]
  have freed := view_retireRun (dGranule (descOf s page)) (dSizesW (descOf s page)) ((retire_of_withDesc hot).trans hw.retire)
  obtain ⟨done, quiet⟩ := pageIs_of_finish hw (freed.trans hot)
  refine ⟨_, f, ?_, done⟩
  show execPromotionComplete page s = _
  unfold execPromotionComplete promoteDone
  rw [opOf_of_alone h]
  simp only [h.kind, warm, lines, tile, read, placed]
  exact congrArg Host.Outcome.next (settle_of_quiet quiet)

/-! ## Compaction (R69) -/

theorem storeWrite_frameMap (c : Nat) (q : DramReq) (s : State) : (storeWrite c q s).dram.frameMap = s.dram.frameMap := by
  unfold storeWrite
  rw [evDch_dram, keeps_dram (countUse_within ..).same rfl rfl, evDch_dram]

theorem popWrite_frameMap (c : Nat) (s : State) : (popWrite c s).dram.frameMap = s.dram.frameMap := by
  unfold popWrite
  split
  · rfl
  · exact storeWrite_frameMap ..

theorem correctiveRewrite_frameMap (addr : Nat) (st : BitVec 640) (s : State) :
    (correctiveRewrite addr st s).dram.frameMap = s.dram.frameMap := by
  unfold correctiveRewrite
  split
  · rfl
  · split
    · rw [evDch_dram]
    · dsimp only
      split
      · exact popWrite_frameMap ..
      · rfl

theorem correctedAs_frameMap (r : LogRec) (addr : Nat) (st : BitVec 640) (dev : Nat) (newer : Bool) (s : State) :
    (correctedAs r addr st dev newer s).dram.frameMap = s.dram.frameMap := by
  have counted (c : Nat) (f : Channel → Channel) (r : LogRec) (u : State) :
      (countCorrection addr (modChan c f (logIt r u))).dram.frameMap = u.dram.frameMap := by
    rw [keeps_dram (countCorrection_within ..).same rfl rfl, ← logIt_dram r u]
    rfl
  unfold correctedAs
  split
  · rfl
  · dsimp only
    split <;> split <;> simp only [counted, correctiveRewrite_frameMap, evDch_dram]

theorem noteCheck_frameMap (addr line : Nat) (k : Check) (newer : Bool) (s : State) :
    (noteCheck addr line k newer s).dram.frameMap = s.dram.frameMap := by
  unfold noteCheck
  split
  · exact correctedAs_frameMap ..
  · exact correctedAs_frameMap ..
  · rfl

/-- Granules that are read take no frame. -/
theorem frameEntry_readGranules (cls : BitVec 8) (page : Nat) (gs : List Nat) (s : State) (f : Nat) :
    frameEntry (readGranules cls page gs s) f = frameEntry s f := by
  have view := view_readGranules cls page gs s
  have map : (readGranules cls page gs s).dram.frameMap = s.dram.frameMap :=
    List.foldlRecOn (motive := fun t : State => t.dram.frameMap = s.dram.frameMap) gs _ rfl fun t h g _ => by
      rw [noteCheck_frameMap, keeps_dram (readNow_within ..).same rfl rfl, h]
  have region : regionOf (readGranules cls page gs s) f = regionOf s f := by
    simp only [regionOf, regions, recsOf, typedRecs, sectionRecs, cfg_of_view view, fuse_of_view view]
  rw [frameEntry, region, map, frameEntry]

/-- An open frame that has room is filled below its end. -/
theorem fFill_of_openFor {s : State} {n f : Nat} (h : openFor s n = some f) : fFill (frameEntry s f) < 64 := by
  have room := (List.mem_filter.1 (List.min?_mem h)).2
  simp only [Bool.and_eq_true, decide_eq_true_eq] at room
  omega

/-- The run takes its place at FILL of the frame, in one descriptor update. -/
theorem view_moveRun {s : State} {page f n : Nat} {o : PageOp} (retire : s.dram.retireList = []) :
    pageView (moveRun page f n o s) = (pageView s).withDesc page
      (setField (descOf s page) 48 (BitVec.ofNat 37 (f * 64 + fFill (frameEntry s f)))) := by
  have start : (placeRun f page n (readGranules o.cls page (List.range n) s)).1 = f * 64 + fFill (frameEntry s f) := by
    rw [← frameEntry_readGranules o.cls page (List.range n) s f]
    rfl
  have placed : pageView (placeRun f page n (readGranules o.cls page (List.range n) s)).2 = pageView s := by
    rw [view_placeRun, view_readGranules]
  unfold moveRun
  generalize placeRun f page n (readGranules o.cls page (List.range n) s) = r at start placed ⊢
  obtain ⟨a, u⟩ := r
  have moved := view_setDesc page (setField (descOf s page) 48 (BitVec.ofNat 37 a))
    (doWork o.work (fun v => (List.range n).foldl (fun t g => dramWrite (a + g) (dramContent t (dGranule (descOf s page) + g)) t) v) u)
  rw [view_doWork, view_foldl (fun t g => view_dramWrite ..), placed] at moved
  dsimp only at start ⊢
  rw [← start]
  exact (view_retireRun _ _ ((retire_of_withDesc moved).trans retire)).trans moved

theorem compaction_moves {s : State} {page f : Nat} {o : PageOp} (h : OpAlone s page .compaction o) (warm : dState (descOf s page) = .warm)
    (here : dGranule (descOf s page) / 64 = o.dst) (room : openFor s ((dSizesW (descOf s page)).foldl (· + ·) 0) = some f)
    (closed : o.dst ∉ s.dram.openGran) (run : (readRun s page).isSome = true) :
    ∃ u a, exec (.compactionMoveComplete page) s = .next u ∧ a / 64 = f ∧
      PageIs u page (setField (descOf s page) 48 (BitVec.ofNat 37 a)) := by
  have opened : { s with dram.openGran := s.dram.openGran.filter (· ≠ o.dst) } = s := by
    rw [List.filter_eq_self.2 fun a ha => by simp; rintro rfl; exact closed ha]
  obtain ⟨done, quiet⟩ := pageIs_of_finish h (view_moveRun (f := f) (n := (dSizesW (descOf s page)).foldl (· + ·) 0) (o := o) h.retire)
  have fill := fFill_of_openFor room
  refine ⟨_, _, ?_, ?_, done⟩
  · show execCompactionMoveComplete page s = _
    unfold execCompactionMoveComplete
    rw [opOf_of_alone h]
    simp only [h.kind, warm, here]
    rw [opened]
    simp [granFrame, room, run, settle_of_quiet quiet]
  · omega

/-! ## Relocation (R71) -/

/-- The check of an unsealed line that reads good (R114, R149). -/
theorem readCheck_of_readsAs {s : State} {addr : Nat} {err y : BitVec 640} (h : ReadsAs s addr err y) (key : BitVec 20) (p : SealPos) :
    readCheck s false key p addr (dramContent s addr ^^^ err) = (.valid y none, some (devLine (devs y), false)) := by
  obtain ⟨online, good⟩ := h
  simp [readCheck, online, good]

/-- The operation of a relocation is no longer at the second read of a line (R154). -/
def rereadEnded (page : Nat) (o : PageOp) (r : LogRec) (addr : Nat) (s : State) : State :=
  if o.again then noteTransient r addr (modOp page (fun o => { o with again := false }) s) else s

theorem view_rereadEnded {s : State} {page : Nat} {k : OpKind} {o : PageOp} (h : OpAlone s page k o) (r : LogRec) (addr : Nat) {u : State}
    (v : pageView u = pageView s) : pageView (rereadEnded page o r addr u) = (pageView s).withOps [{ o with again := false }] := by
  cases again : o.again with
  | true => rw [rereadEnded, if_pos again, view_noteTransient, view_modOp h v]
  | false =>
    have same : { o with again := false } = o := by rw [← again]
    rw [rereadEnded, again, if_neg (by simp), same, v, ← h.ops]
    rfl

theorem relocation_copies {s : State} {page : Nat} {o : PageOp} {err y : BitVec 640} (h : OpAlone s page .relocation o)
    (retired : dState (descOf s page) = .retired) (plain : dSealed (descOf s page) = false) (more : dCopied (descOf s page) < 63)
    (reads : ReadsAs s (dDfa (descOf s page) * 64 + dCopied (descOf s page)) err y) :
    ∃ u, exec (.relocationLineCopy page err) s = .next u ∧ u.tier.ops = [{ o with again := false }] ∧
      descRaw u page = setField (descOf s page) 110 (BitVec.ofNat 7 (dCopied (descOf s page) + 1)) := by
  let addr := dDfa (descOf s page) * 64 + dCopied (descOf s page)
  let line := (lineOf page (dCopied (descOf s page))).toNat
  let t := doWork o.work (dramWrite (dNewDfa (descOf s page) * 64 + dCopied (descOf s page)) y)
    (rereadEnded page o (lineRec (readNow o.cls addr s) addr line) addr (readNow o.cls addr s))
  have vt : pageView t = (pageView s).withOps [{ o with again := false }] := by
    rw [view_doWork, view_dramWrite, view_rereadEnded h _ _ (view_readNow ..)]
  have desc : descOf t page = descOf s page := by
    have descs : t.quay.desc = s.quay.desc := congrArg PageView.desc vt
    rw [descOf, descRaw, descs, descOf, descRaw]
  have view := view_setDesc page (setField (descOf s page) 110 (BitVec.ofNat 7 (dCopied (descOf s page) + 1))) t
  have quiet := quiet_of_withDesc view (quiet_of_withOps vt h.quiet)
  rw [vt] at view
  refine ⟨_, ?_, (congrArg PageView.ops view :), descRaw_of_withDesc view⟩
  · show execRelocationLineCopy page err s = _
    unfold execRelocationLineCopy
    rw [opOf_of_alone h]
    simp only [h.kind, retired, plain, readCheck_of_readsAs reads, noteCheck]
    refine congrArg Host.Outcome.next (Eq.trans ?_ (settle_of_quiet quiet))
    have unfinished : ¬ dCopied (descOf s page) + 1 = 64 := by omega
    show copiedLine page (dCopied (descOf s page)) t = _
    rw [copiedLine, if_neg unfinished, desc]

/-! ## Rekeying (R123, R124) -/

theorem view_setEngine (n : Nat) (e : Rekey) (s : State) : pageView (setEngine n e s) = pageView s := rfl
theorem view_endCmd (ring idx : Nat) (status : BitVec 6) (detail : BitVec 8) (result : BitVec 64) (s : State) :
    pageView (endCmd ring idx status detail result s) = pageView s := rfl

@[simp] theorem view_rekeyAdvance (n : Nat) (s : State) : pageView (rekeyAdvance n s) = pageView s := by
  unfold rekeyAdvance
  dsimp only
  split
  · rfl
  · split
    · split
      · rw [view_addRec, view_setEngine]
      · rw [view_setEngine]
    · split <;> simp [apply_ite pageView, view_endCmd, view_setEngine]

theorem rekeyCount_view (n : Nat) (s : State) : pageView (rekeyCount n s) = pageView s := by
  rw [rekeyCount, view_rekeyAdvance, view_setEngine]

theorem rekey_of_unbacked {s : State} {n page : Nat} (active : (engineOf s n).active = true) (restored : s.led.pending = false)
    (mode : s.aon.mode = .service) (next : rekeyNext s (engineOf s n) = some page) (quiet : Quiet s) (free : opOf s page = none)
    (unbacked : dState (descOf s page) = .unbacked) :
    ∃ u, exec (.rekeyPageConversion n) s = .next u ∧ PageIs u page (dSeal (descOf s page) true (engineOf s n).new) := by
  have view := (rekeyCount_view n _).trans (view_setDesc page (dSeal (descOf s page) true (engineOf s n).new) s)
  have rest := quiet_of_withDesc view quiet
  refine ⟨_, ?_, descRaw_of_withDesc view, (opOf_of_withDesc view page).trans free⟩
  show execRekeyPageConversion n s = _
  unfold execRekeyPageConversion
  simp [active, restored, mode, next, free, quiet.1, unbacked, lineAddr, settle_of_quiet rest]

/-! ## The statement -/

/-- Settles O14: each operation by its own lemma. -/
theorem pageOperationsEnd : Obligations.PageOperationsEnd := by
  refine ⟨?_, ?_, ?_, ?_, ?_, ?_⟩
  · intro s page o g h image
    refine ⟨fun unread => ⟨readNoted page o s, faultRead_noted h image unread, congrArg PageView.ops (view_readNoted h),
      congrArg PageView.desc (view_readNoted h)⟩, ?_⟩
    exact fun read short frame => faultInstall_warm h image read short frame
  · exact fun s v page o l h hot lines hv hotv zeros => demotion_of_zeros h hot lines hv hotv zeros
  · exact fun s v w page o l h warm lines tile read hw desc berth => promotion_to_hot h warm lines tile read hw desc berth
  · exact fun s page f o h warm here room _ closed run => compaction_moves h warm here room closed run
  · exact fun s page o err y h retired plain more reads => relocation_copies h retired plain more reads
  · exact fun s n page active restored mode next quiet free unbacked => rekey_of_unbacked active restored mode next quiet free unbacked

end Sys2Proof.Laws
end

section
/-! PROOFS. The reads of an Unbacked line (R26, R175, R176): the statement fails where the line waits to be orphaned (R47, R57). -/

namespace Sys2Proof.Laws

open Sys2Proof Sys2Proof.Machine

/-- A device in Service: node 1 shares 1 GiB with node 5, whose link at port 0 is up. Line 35 of the Unbacked page 4 waits for an entry of
the page operation table to be orphaned. -/
def orphanWaits : State :=
  { aon := { mode := .service }
    cfg := [(1, [BitVec.ofNat 128 (1 + 0x0D * 2 ^ 8 + 0xFF * 2 ^ 24 + 1 * 2 ^ 64), BitVec.ofNat 128 (0x11 + 1 * 2 ^ 14),
      BitVec.ofNat 128 (0x11 + 5 * 2 ^ 14)]), (2, [BitVec.ofNat 128 (1 + 0x0D * 2 ^ 8 + 2 * 2 ^ 16 + 0xFF * 2 ^ 24 + 2 ^ 30 * 2 ^ 64)])]
    port := [(0, { st := .active })]
    tier := { orphanWait := [(4, 35)] } }

/-- A read of that line by node 5. -/
def orphanRead : Req := { port := 0, src := 5, dst := 1, tag := 7, line := 0x123 }

theorem orphanRead_servedAtOnce : ServedAtOnce orphanWaits orphanRead where
  mode := rfl
  quiet := ⟨rfl, rfl, rfl, rfl, rfl, rfl, rfl⟩
  hold := rfl
  restored := rfl
  cmds := rfl
  home := by decide +kernel
  other := by decide +kernel
  inside := by decide +kernel
  member := by decide +kernel
  up := by decide +kernel
  line := ⟨by decide +kernel, by decide +kernel, by decide +kernel, by decide +kernel, rfl⟩

/-- RD_CUR of the line ends with ERR_DATA, and no grant stays open. -/
theorem orphanRead_fails : ∃ t, exec (.rdCur orphanRead) orphanWaits = .next t ∧ t.quay.txns = [] ∧
    (portOf t 0).egress = [{ hdr := rspHdr 0x5E 5 1 7 1 {} }] :=
  ⟨homeRequest 0x01 orphanRead orphanWaits, rfl, by decide +kernel, by decide +kernel⟩

/-- Refutes O4: `Untouched` asks that no page operation stand in the table, not that no line of the page wait for an entry of it. A read of
such a line ends with ERR_DATA (R57), where the statement has it granted. -/
theorem not_readsAreServed : ¬ Obligations.ReadsAreServed := by
  intro h
  obtain ⟨⟨t, -, run, -, -, ⟨x, open', -⟩, -⟩, -⟩ := h orphanWaits orphanRead orphanRead_servedAtOnce (by decide +kernel)
  obtain ⟨u, run', closed, -⟩ := orphanRead_fails
  cases run.symm.trans run'
  rw [closed] at open'
  cases open'

end Sys2Proof.Laws
end

section
/-! PROOFS. What a read of a DRAM line finds after a write of it (R137, R138): the line in the write queue of its channel, else the
stored bytes. -/

namespace Sys2Proof.Laws

open Sys2Proof Sys2Proof.Machine

/-! ## Stored bytes -/

theorem getLsbD_wordOf (n : Nat) (l : List Byte) (j : Nat) :
    (wordOf n l).getLsbD j = (decide (j < n) && (l.getD (j / 8) 0).getLsbD (j % 8)) := by
  induction l generalizing j with
  | nil => simp [wordOf]
  | cons b r ih =>
    rw [wordOf, BitVec.getLsbD_or, BitVec.getLsbD_setWidth, BitVec.getLsbD_shiftLeft, ih]
    by_cases h : j < 8
    · rw [Nat.div_eq_of_lt h, Nat.mod_eq_of_lt h]
      simp [h]
    · obtain ⟨k, rfl⟩ := Nat.exists_eq_add_of_le (Nat.le_of_not_lt h)
      have row : (8 + k) / 8 = k / 8 + 1 := by omega
      have col : (8 + k) % 8 = k % 8 := by omega
      have bound : (8 + k < n) ↔ (k < n - 8) := by omega
      have within (x : Bool) : (decide (k < n - 8) && (decide (k < n) && x)) = (decide (k < n - 8) && x) := by
        by_cases j : k < n - 8
        · simp [j, show k < n by omega]
        · simp [j]
      simp [row, col, h, bound, within]

/-- A word is spelled by its bytes. -/
theorem wordOf_bytesOf {k : Nat} (x : BitVec (8 * k)) : wordOf (8 * k) (bytesOf x k) = x := by
  refine BitVec.eq_of_getLsbD_eq fun j hj => ?_
  have row : j / 8 < k := by omega
  rw [getLsbD_wordOf, bytesOf]
  simp [hj, row, byteAt, Nat.mod_lt, Nat.div_add_mod]

theorem sget_writeStored (m : List Host.Cell) (addr i : Nat) (x : BitVec 640) (h : i < 80) :
    sget 0 (writeStored m addr x) (addr * 80 + i) = byteAt x i := by
  have written : writeStored m addr x = ((List.range 80).map (addr * 80 + ·)).foldl
      (fun n k => sset 0 n k (byteAt x (k - addr * 80))) m := by
    simp [writeStored, List.foldl_map]
  rw [written, sget_foldl_sset, if_pos (List.mem_map.2 ⟨i, List.mem_range.2 h, rfl⟩), Nat.add_sub_cancel_left]

/-- The 80 stored bytes of a line read as they were written. -/
theorem readStored_writeStored (m : List Host.Cell) (addr : Nat) (x : BitVec 640) : readStored (writeStored m addr x) addr = x := by
  have bytes : (List.range 80).map (fun i => sget 0 (writeStored m addr x) (addr * 80 + i)) = bytesOf x 80 :=
    List.map_congr_left fun i hi => sget_writeStored m addr i x (List.mem_range.1 hi)
  rw [readStored, bytes]
  exact wordOf_bytesOf (k := 80) x

/-! ## Coordinates -/

/-- The configuration, the population and the ROW_MASK registers of the channels are in `t` as in `s`: every line lies where it lay. -/
structure SamePlaces (s t : State) : Prop where
  cfg : t.cfg = s.cfg
  fuse : t.fuse = s.fuse
  pop : ∀ c, (chan t c).pop = (chan s c).pop
  xmap : ∀ c, (chan t c).xmap = (chan s c).xmap

theorem SamePlaces.trans {r s t : State} (h : SamePlaces r s) (k : SamePlaces s t) : SamePlaces r t :=
  ⟨k.cfg.trans h.cfg, k.fuse.trans h.fuse, fun c => (k.pop c).trans (h.pop c), fun c => (k.xmap c).trans (h.xmap c)⟩

theorem SamePlaces.chanSets {s t : State} (h : SamePlaces s t) : chanSets t = chanSets s := by
  simp only [Machine.chanSets, recsOf, typedRecs, sectionRecs, h.cfg, h.fuse, h.pop]

theorem SamePlaces.coord {s t : State} (h : SamePlaces s t) (addr : Nat) : coord t addr = coord s addr := by
  simp only [Machine.coord, h.chanSets, h.pop, show ∀ c, xmaskOf t c = xmaskOf s c from fun c => by
    funext i; rw [xmaskOf, h.xmap, xmaskOf]]

theorem samePlaces_modChan (c : Nat) (f : Channel → Channel) (s : State) (pop : (f (chan s c)).pop = (chan s c).pop)
    (xmap : (f (chan s c)).xmap = (chan s c).xmap) : SamePlaces s (modChan c f s) := by
  refine ⟨rfl, rfl, fun d => ?_, fun d => ?_⟩ <;> by_cases h : d = c
  · subst h; rw [chan_modChan, pop]
  · rw [chan_modChan_other h]
  · subst h; rw [chan_modChan, xmap]
  · rw [chan_modChan_other h]

/-! ## Write queues -/

/-- A write that is issued leaves the channels as they are. -/
theorem storeWrite_ch (c : Nat) (q : DramReq) (s : State) : (storeWrite c q s).dram.ch = s.dram.ch := by
  unfold storeWrite
  rw [evDch_dram, keeps_dram (countUse_within ..).same rfl rfl, evDch_dram]

theorem any_tail {α : Type} {p : α → Bool} {l : List α} (h : l.any p = false) : l.tail.any p = false := by
  cases l with
  | nil => rfl
  | cons a r => exact (Bool.or_eq_false_iff.1 h).2

/-- The view that the places of lines take of a channel. -/
theorem samePlaces_of_ch {s t : State} (cfg : t.cfg = s.cfg) (fuse : t.fuse = s.fuse) (ch : t.dram.ch = s.dram.ch) : SamePlaces s t :=
  have chans (c : Nat) : chan t c = chan s c := congrArg (fun m => sget ({} : Channel) m c) ch
  ⟨cfg, fuse, fun c => congrArg Channel.pop (chans c), fun c => congrArg Channel.xmap (chans c)⟩

theorem samePlaces_evDch (c e : Nat) (s : State) : SamePlaces s (evDch c e s) :=
  samePlaces_of_ch (by simp) (by simp) (by simp)

theorem chan_evDch (c e d : Nat) (s : State) : chan (evDch c e s) d = chan s d := by rw [chan, evDch_dram, chan]

/-- The oldest write of a queue leaves it. -/
def dequeued (c : Nat) (r : List DramReq) (s : State) : State := modChan c (fun ch => { ch with writeQ := r }) s

theorem samePlaces_dequeued (c : Nat) (r : List DramReq) (s : State) : SamePlaces s (dequeued c r s) :=
  samePlaces_modChan c (fun ch => { ch with writeQ := r }) s rfl rfl

theorem popWrite_of_nil {c : Nat} {s : State} (h : (chan s c).writeQ = []) : popWrite c s = s := by
  unfold popWrite
  rw [h]

theorem popWrite_of_cons {c : Nat} {s : State} {q : DramReq} {r : List DramReq} (h : (chan s c).writeQ = q :: r) :
    popWrite c s = storeWrite c q (dequeued c r s) := by
  unfold popWrite
  rw [h]
  rfl

theorem samePlaces_popWrite (c : Nat) (s : State) : SamePlaces s (popWrite c s) := by
  cases h : (chan s c).writeQ with
  | nil =>
    rw [popWrite_of_nil h]
    exact samePlaces_of_ch rfl rfl rfl
  | cons q r =>
    rw [popWrite_of_cons h]
    have w := storeWrite_within c q (dequeued c r s)
    exact (samePlaces_dequeued c r s).trans (samePlaces_of_ch (keeps_cfg w.same rfl) (keeps_fuse w.same rfl) (storeWrite_ch ..))

/-- The queue after its oldest write has been issued holds the other writes. -/
theorem popWrite_writeQ (c : Nat) (s : State) : (chan (popWrite c s) c).writeQ = (chan s c).writeQ.tail := by
  cases h : (chan s c).writeQ with
  | nil => rw [popWrite_of_nil h, h]; rfl
  | cons q r =>
    rw [popWrite_of_cons h, chan, storeWrite_ch]
    exact congrArg Channel.writeQ (chan_modChan c (fun ch => { ch with writeQ := r }) s)

/-! ## Lines that were written -/

theorem dramContent_of_nowhere {s : State} {addr : Nat} (h : coord s addr = none) : dramContent s addr = readStored s.dram.mem addr := by
  simp [dramContent, h]

theorem dramContent_of_coord {s : State} {addr : Nat} {c : Coord} {q : DramReq} (h : coord s addr = some c)
    (k : (chan s c.ch).writeQ.find? (fun q => q.addr = addr) = some q) : dramContent s addr = q.data := by
  simp [dramContent, h, k]

/-- A line that no channel holds is stored at once. -/
def storedAt (addr : Nat) (st : BitVec 640) (s : State) : State := { s with dram.mem := writeStored s.dram.mem addr st }

theorem dramContent_storedAt {addr : Nat} {st : BitVec 640} {s : State} (h : coord s addr = none) :
    dramContent (storedAt addr st s) addr = st := by
  have nowhere : coord (storedAt addr st s) addr = none := h
  rw [dramContent_of_nowhere nowhere, storedAt, readStored_writeStored]

/-- A write of a line that has a place in its queue changes what the queue holds for it. -/
def requeued (addr : Nat) (st : BitVec 640) (ch : Channel) : Channel :=
  { ch with writeQ := ch.writeQ.map (fun q => if q.addr = addr then { q with data := st, corrective := false } else q) }

/-- A write of a line takes the last place of its queue. -/
def enqueued (q : DramReq) (ch : Channel) : Channel := { ch with writeQ := ch.writeQ ++ [q] }

theorem dramContent_requeued {addr : Nat} {st : BitVec 640} {c : Coord} {s : State} (here : coord s addr = some c)
    (held : (chan s c.ch).writeQ.any (fun q => q.addr = addr) = true) :
    dramContent (modChan c.ch (requeued addr st) s) addr = st := by
  have place := ((samePlaces_modChan c.ch (requeued addr st) s rfl rfl).coord addr).trans here
  obtain ⟨q, found⟩ : ∃ q, (chan s c.ch).writeQ.find? (fun q => q.addr = addr) = some q :=
    Option.isSome_iff_exists.1 (by simpa using held)
  have addrIs : q.addr = addr := by simpa using List.find?_some found
  have queue : (chan (modChan c.ch (requeued addr st) s) c.ch).writeQ.find? (fun q => q.addr = addr) =
      some { q with data := st, corrective := false } := by
    have same : ((fun q : DramReq => decide (q.addr = addr)) ∘ fun q =>
        if q.addr = addr then { q with data := st, corrective := false } else q) = fun q => decide (q.addr = addr) := by
      funext q
      by_cases h : q.addr = addr <;> simp [h]
    rw [chan_modChan, requeued, List.find?_map, same, found]
    simp [addrIs]
  exact dramContent_of_coord place queue

theorem dramContent_enqueued {addr : Nat} {q : DramReq} {c : Coord} {s : State} (here : coord s addr = some c)
    (free : (chan s c.ch).writeQ.any (fun q => q.addr = addr) = false) (at' : q.addr = addr) :
    dramContent (modChan c.ch (enqueued q) s) addr = q.data := by
  have place := ((samePlaces_modChan c.ch (enqueued q) s rfl rfl).coord addr).trans here
  have none' : (chan s c.ch).writeQ.find? (fun q => q.addr = addr) = none := by
    simpa [List.find?_eq_none] using free
  have queue : (chan (modChan c.ch (enqueued q) s) c.ch).writeQ.find? (fun q => q.addr = addr) = some q := by
    rw [chan_modChan, enqueued, List.find?_append, none']
    simp [at']
  exact dramContent_of_coord place queue

/-- A line that was written reads as it was written. -/
theorem dramContent_dramWrite (addr : Nat) (st : BitVec 640) (s : State) : dramContent (dramWrite addr st s) addr = st := by
  cases here : coord (markOver addr s) addr with
  | none =>
    simp only [dramWrite, here]
    exact dramContent_storedAt here
  | some c =>
    simp only [dramWrite, here]
    by_cases held : (chan (markOver addr s) c.ch).writeQ.any (fun q => q.addr = addr) = true
    · rw [if_pos held]
      split
      · refine dramContent_requeued (c := c) (((samePlaces_evDch ..).coord addr).trans here) ?_
        rw [chan_evDch]
        exact held
      · exact dramContent_requeued here held
    · rw [if_neg held]
      rw [Bool.not_eq_true] at held
      split
      · refine dramContent_enqueued (c := c) (((samePlaces_popWrite ..).coord addr).trans here) ?_ rfl
        rw [popWrite_writeQ]
        exact any_tail held
      · exact dramContent_enqueued here held rfl

/-! ## Work -/

/-- A piece of work gives the writes that it makes its class, its DUE and its hint: where a line lies and what it holds stay. -/
def charged (w : Work) (was : List DramReq) (ch : Channel) : Channel :=
  { ch with writeQ := ch.writeQ.map (fun q =>
    if was.contains q then q else { q with cls := w.cls, due := w.due, hint := w.hint.getD q.hint }) }

theorem sget_map {α : Type} (d : α) (f : Nat → α → α) (m : SMap α) (k : Nat) (h : f k d = d) :
    sget d (m.map (fun e => (e.1, f e.1 e.2))) k = f k (sget d m k) := by
  induction m with
  | nil => exact h.symm
  | cons e m ih =>
    obtain ⟨j, v⟩ := e
    by_cases at' : j = k
    · subst at'; simp [sget]
    · simpa [sget, at'] using ih

theorem chan_chargeWrites (w : Work) (old s : State) (c : Nat) :
    chan (chargeWrites w old s) c = charged w (chan old c).writeQ (chan s c) :=
  sget_map ({} : Channel) (fun c ch => charged w (chan old c).writeQ ch) s.dram.ch c rfl

theorem samePlaces_chargeWrites (w : Work) (old s : State) : SamePlaces s (chargeWrites w old s) :=
  ⟨rfl, rfl, fun c => by rw [chan_chargeWrites]; rfl, fun c => by rw [chan_chargeWrites]; rfl⟩

theorem find_charged (w : Work) (was : List DramReq) (ch : Channel) (addr : Nat) :
    ((charged w was ch).writeQ.find? (fun q => q.addr = addr)).map DramReq.data =
      (ch.writeQ.find? (fun q => q.addr = addr)).map DramReq.data := by
  have sameAddr : ((fun q : DramReq => decide (q.addr = addr)) ∘ fun q =>
      if was.contains q then q else { q with cls := w.cls, due := w.due, hint := w.hint.getD q.hint }) =
        fun q => decide (q.addr = addr) := by
    funext q
    simp only [Function.comp_apply]
    split <;> rfl
  rw [charged, List.find?_map, sameAddr, Option.map_map]
  congr 1
  funext q
  simp only [Function.comp_apply]
  split <;> rfl

/-- The bytes of a line as the queues and the stored bytes give them. -/
theorem dramContent_eq (s : State) (addr : Nat) : dramContent s addr = ((coord s addr).bind fun c =>
    ((chan s c.ch).writeQ.find? (fun q => q.addr = addr)).map DramReq.data).getD (readStored s.dram.mem addr) := by
  unfold dramContent
  cases coord s addr with
  | none => rfl
  | some c => cases h : (chan s c.ch).writeQ.find? (fun q => q.addr = addr) <;> simp [h]

theorem dramContent_chargeWrites (w : Work) (old s : State) (addr : Nat) :
    dramContent (chargeWrites w old s) addr = dramContent s addr := by
  simp only [dramContent_eq, (samePlaces_chargeWrites w old s).coord, chan_chargeWrites, find_charged]
  rfl

end Sys2Proof.Laws
end

section
/-! PROOFS. Lines that leave the Quay data partition, merges, the decay epoch and the scanner (R29, R31, R60, R61, R63). -/

namespace Sys2Proof.Laws

open Sys2Proof Sys2Proof.Machine

/-! ## Evictions (R31) -/

theorem quiet_dropLine {l : Line} {s : State} (h : Quiet s) : Quiet (dropLine l s) := h

theorem qline_dropLine (l : Line) (s : State) : qline (dropLine l s) l = none :=
  sget_sset_same none s.quay.lines l.toNat none

theorem dramContent_dropLine (l : Line) (s : State) (a : Nat) : dramContent (dropLine l s) a = dramContent s a := rfl

/-- With no transaction a line leaves when it is told to. -/
theorem lineEviction_of_quiet {s : State} {l : Line} (quiet : Quiet s) (after : Quiet (evictLine l s)) :
    exec (.lineEviction l) s = .next (evictLine l s) := by
  have free : lineBusy s l = false := by simp [lineBusy, quiet.1]
  show execLineEviction l s = _
  rw [execLineEviction, if_neg (by simp [free]), settle_of_quiet after]

theorem evictLine_clean {s : State} {l : Line} {q : QLine} (held : qline s l = some q) (clean : q.dirty = false) :
    evictLine l s = dropLine l s := by
  simp [evictLine, held, clean]

/-- A whole dirty line of a Hot page goes to its berth. -/
theorem evictLine_hot {s v : State} {l : Line} {q : QLine} (held : qline s l = some q) (dirty : q.dirty = true)
    (whole : q.mask = BitVec.allOnes 64) (load : loadCtr (pageOf l) s = v) (free : opOf v (pageOf l) = none)
    (hot : dState (descOf v (pageOf l)) = .hot) :
    evictLine l s = dropLine l (doWork { cls := q.cls } (writeBerth (pageOf l) (l.toNat % 64) q.data q.poison) v) := by
  unfold evictLine
  rw [held]
  simp only [dirty, load, free, hot, whole, Bool.not_true, Bool.false_eq_true, Option.isSome_none, if_false, if_true]

/-- The line of a page that is not sealed lies in its berth under the plain code. -/
theorem writeBerth_unsealed {page i a : Nat} {s : State} (berth : lineAddr (descOf s page) i = some a)
    (plain : dSealed (descOf s page) = false) (x : BitVec 512) (p : Bool) :
    writeBerth page i x p s = dramWrite a (plainStore x p) s := by
  unfold writeBerth
  simp only [berth, plain, Bool.not_false, if_true]

/-! ## Merges (R29) -/

/-- The held bytes of an Unbacked page stand over zeros. -/
theorem mergeRead_unbacked {s : State} {l : Line} (q : QLine) (err : BitVec 640) (again : Bool)
    (unbacked : dState (descOf s (pageOf l)) = .unbacked) :
    mergeRead l q err again s = (.line (overlay q.mask q.data 0) q.poison, s) := by
  unfold mergeRead
  dsimp only
  rw [unbacked]

/-- The merge of a line waits no more. -/
def unmerging (l : Line) (s : State) : State := { s with quay.merges := s.quay.merges.filter (· ≠ l.toNat) }

/-- The merged line of an Unbacked page stays dirty in the Quay cache. -/
def mergedLine (l : Line) (q : QLine) (s : State) : State :=
  setQline l { q with data := overlay q.mask q.data 0, mask := BitVec.allOnes 64, dirty := true } (unmerging l s)

theorem mergeDone_unbacked {s : State} {l : Line} (q : QLine) (unbacked : dState (descOf s (pageOf l)) = .unbacked) :
    mergeDone l q (overlay q.mask q.data 0) q.poison s = mergedLine l q s := by
  have stays : dState (descOf (unmerging l s) (pageOf l)) = .unbacked := unbacked
  show (if dState (descOf (unmerging l s) (pageOf l)) = .hot && (opOf (unmerging l s) (pageOf l)).isNone then _ else _) = _
  rw [stays, if_neg (by simp)]
  rfl

theorem mergeLine_unbacked {s v : State} {l : Line} {q : QLine} {err : BitVec 640} (held : qline s l = some q)
    (part : q.mask ≠ BitVec.allOnes 64) (asked : s.quay.merges.contains l.toNat = true) (reads : ∀ r ∈ s.dram.reads, r.merge = false)
    (load : loadCtr (pageOf l) s = v) (unbacked : dState (descOf v (pageOf l)) = .unbacked) :
    mergeLine l err s = mergedLine l q (evQb (bankOf s l) 16 v) := by
  have first : s.dram.reads.any (fun r => r.merge && r.line = l.toNat) = false :=
    List.any_eq_false.2 fun r hr => by simp [reads r hr]
  have here : dState (descOf (evQb (bankOf s l) 16 v) (pageOf l)) = .unbacked := by
    rw [descOf_of_view (view_evQb ..)]; exact unbacked
  rw [mergeLine, if_pos (by rw [asked, first]; rfl), mergeNow, held]
  simp only [part, if_false, load, mergeRead_unbacked q err false here, mergeDone_unbacked q here]

theorem qline_setQline (l : Line) (q : QLine) (s : State) : qline (setQline l q s) l = some q :=
  sget_sset_same none s.quay.lines l.toNat (some q)

theorem quiet_mergedLine {l : Line} {q : QLine} {s : State} (h : Quiet s) : Quiet (mergedLine l q s) := h

theorem mergedLine_mem (l : Line) (q : QLine) (s : State) : (mergedLine l q s).dram.mem = s.dram.mem := rfl

/-! ## Line evictions, merges and the decay epoch -/

theorem lineEviction_clean {s : State} {l : Line} {q : QLine} (quiet : Quiet s) (held : qline s l = some q) (clean : q.dirty = false) :
    exec (.lineEviction l) s = .next (dropLine l s) := by
  have left := evictLine_clean held clean
  rw [lineEviction_of_quiet quiet (left ▸ quiet_dropLine quiet), left]

theorem lineEviction_hot {s v : State} {l : Line} {q : QLine} {a : Nat} (quiet : Quiet s) (held : qline s l = some q)
    (dirty : q.dirty = true) (whole : q.mask = BitVec.allOnes 64) (load : loadCtr (pageOf l) s = v) (quietv : Quiet v)
    (free : opOf v (pageOf l) = none) (hot : dState (descOf v (pageOf l)) = .hot)
    (berth : lineAddr (descOf v (pageOf l)) (l.toNat % 64) = some a) :
    ∃ u, exec (.lineEviction l) s = .next u ∧ qline u l = none ∧
      (dSealed (descOf v (pageOf l)) = false → dramContent u a = plainStore q.data q.poison) := by
  have left := evictLine_hot held dirty whole load free hot
  have written : Quiet (doWork { cls := q.cls } (writeBerth (pageOf l) (l.toNat % 64) q.data q.poison) v) :=
    quiet_of_view ((view_doWork ..).trans (view_writeBerth ..)) rfl rfl quietv
  refine ⟨evictLine l s, lineEviction_of_quiet quiet ?_, ?_, fun plain => ?_⟩ <;> rw [left]
  · exact quiet_dropLine written
  · exact qline_dropLine ..
  · rw [dramContent_dropLine, doWork, dramContent_chargeWrites, writeBerth_unsealed berth plain, dramContent_dramWrite]

theorem partialLineMerge_unbacked {s v : State} {l : Line} {q : QLine} {err : BitVec 640} (held : qline s l = some q)
    (part : q.mask ≠ BitVec.allOnes 64) (asked : s.quay.merges.contains l.toNat = true) (reads : ∀ r ∈ s.dram.reads, r.merge = false)
    (load : loadCtr (pageOf l) s = v) (quiet : Quiet v) (unbacked : dState (descOf v (pageOf l)) = .unbacked) :
    ∃ u, exec (.partialLineMerge l err) s = .next u ∧ u.dram.mem = v.dram.mem ∧
      qline u l = some { q with data := overlay q.mask q.data 0, mask := BitVec.allOnes 64, dirty := true } := by
  have counted : Quiet (evQb (bankOf s l) 16 v) := quiet_of_view (view_evQb ..) rfl rfl quiet
  refine ⟨mergedLine l q (evQb (bankOf s l) 16 v), ?_, ?_, qline_setQline ..⟩
  · show execPartialLineMerge l err s = _
    rw [execPartialLineMerge, mergeLine_unbacked held part asked reads load unbacked, settle_of_quiet (quiet_mergedLine counted)]
  · rw [mergedLine_mem, evQb_dram]

theorem decayEpochAdvance_counts {s : State} (mode : s.aon.mode ≠ .watch) (running : s.time.stopped = false) :
    exec .decayEpochAdvance s = .next (evMgt 0 15 { s with tier.decayEpoch := s.tier.decayEpoch + 1 }) := by
  show execDecayEpochAdvance s = _
  rw [execDecayEpochAdvance, if_neg (by simp [mode, running])]

/-! ## The scanner (R60 to R63) -/

/-- The scanner notes that frames were short in this lap (R63). -/
def lapNoted (s : State) : State := if belowWm s 8 then { s with tier.lapLow := true } else s

theorem lapNoted_cases (s : State) : lapNoted s = s ∨ lapNoted s = { s with tier.lapLow := true } := by
  unfold lapNoted
  split
  · exact .inr rfl
  · exact .inl rfl

/-- What the scanner does not note is as it was. -/
theorem lapNoted_keeps {α : Type} (f : State → α) (h : ∀ s b, f { s with tier.lapLow := b } = f s) (s : State) :
    f (lapNoted s) = f s := by
  obtain e | e := lapNoted_cases s <;> rw [e]
  exact h s true

/-- The scanner goes on to the next frame. -/
def scanned (s : State) (t : State) : State := { t with tier.scanPos := s.tier.scanPos + 1 }

theorem keyCount_ch (k : BitVec 20) (up : Bool) (s : State) : (keyCount k up s).dram.ch = s.dram.ch := by
  simp only [keyCount, setKeyEntry, setNode, holdNode]
  split <;> rfl

theorem refreshPA_ch (s : State) : (refreshPA s).dram.ch = s.dram.ch :=
  congrArg Dram.ch (keeps_dram (refreshPA_within s).same rfl rfl)

/-- A descriptor update leaves the channels as they are. -/
theorem setDesc_ch (page : Nat) (d : BitVec 128) (s : State) : (setDesc page d s).dram.ch = s.dram.ch := by
  have counted (b : Bool) (k : BitVec 20) (up : Bool) (u : State) : (if b = true then keyCount k up u else u).dram.ch = u.dram.ch := by
    cases b <;> simp [keyCount_ch]
  have told (x y : Bool) (u : State) : (if x = y then u else refreshPA u).dram.ch = u.dram.ch := by
    split <;> simp [refreshPA_ch]
  unfold setDesc
  dsimp only
  rw [told, counted, counted]

theorem totalFrames_of_samePlaces {s t : State} (h : SamePlaces s t) : totalFrames t = totalFrames s := by
  rw [totalFrames, h.chanSets, totalFrames]

theorem samePlaces_lapNoted (s : State) : SamePlaces s (lapNoted s) := by
  unfold lapNoted
  split <;> exact samePlaces_of_ch rfl rfl rfl

theorem samePlaces_setDesc (page : Nat) (d : BitVec 128) (s : State) : SamePlaces s (setDesc page d s) :=
  samePlaces_of_ch (congrArg PageView.cfg (view_setDesc page d s)) (congrArg PageView.fuse (view_setDesc page d s)) (setDesc_ch page d s)

/-- The visit of a frame that is free or a berth, where the scanner does not act. -/
def frameVisited (s : State) : State :=
  if fUse (frameEntry s s.tier.scanPos) = 1 then visitPage false (fPage (frameEntry s s.tier.scanPos)) (lapNoted s) else lapNoted s

/-- Before the last frame the scanner goes on without an end of the lap. -/
theorem scannerVisit_on {s : State} (recovery : s.aon.mode = .recovery) (more : s.tier.scanPos + 1 < totalFrames s)
    (use : fUse (frameEntry s s.tier.scanPos) ≤ 1) (places : SamePlaces s (frameVisited s)) (quiet : Quiet (frameVisited s)) :
    exec .scannerVisit s = .next (scanned s (frameVisited s)) := by
  have sameEntry : frameEntry (lapNoted s) s.tier.scanPos = frameEntry s s.tier.scanPos :=
    lapNoted_keeps (fun u => frameEntry u s.tier.scanPos) (fun _ _ => rfl) s
  have frames : ¬ totalFrames (scanned s (frameVisited s)) ≤ s.tier.scanPos + 1 := by
    have same : totalFrames (scanned s (frameVisited s)) = totalFrames s := totalFrames_of_samePlaces (t := frameVisited s) places
    omega
  have settled : settle (scanned s (frameVisited s)) = scanned s (frameVisited s) := settle_of_quiet quiet
  have visit : execScannerVisit s = .next (settle (if totalFrames (scanned s (frameVisited s)) ≤ s.tier.scanPos + 1 then
      lapEnd (scanned s (frameVisited s)) else scanned s (frameVisited s))) := by
    unfold execScannerVisit
    dsimp only
    rw [if_neg (by simp [recovery]), ← lapNoted, sameEntry]
    obtain free | berth : fUse (frameEntry s s.tier.scanPos) = 0 ∨ fUse (frameEntry s s.tier.scanPos) = 1 := by omega
    · rw [show frameVisited s = lapNoted s from if_neg (by simp [free]), free]
      rfl
    · rw [show frameVisited s = visitPage false (fPage (frameEntry s s.tier.scanPos)) (lapNoted s) from if_pos berth, berth, recovery]
      rfl
  exact visit.trans (by rw [if_neg frames, settled])

/-- A descriptor that is no reserved form is not put right. -/
theorem descFix_of_sound {s : State} {page : Nat} (sound : dReserved (descRaw s page) = false) : descFix page s = s := by
  rw [descFix, if_pos (by simp [sound])]

/-- A page of the pool whose descriptor is a descriptor decays at its visit. -/
theorem visitPage_decays {s : State} {page : Nat} (present : framePending s page = false) (sound : dReserved (descRaw s page) = false) :
    visitPage false page s = setDesc page (decay s (descOf s page)) s := by
  unfold visitPage
  rw [if_neg (by simp [present]), descFix_of_sound sound]
  rfl

theorem lapNoted_quay (s : State) : (lapNoted s).quay = s.quay := lapNoted_keeps State.quay (fun _ _ => rfl) s

theorem quiet_lapNoted {s : State} (h : Quiet s) : Quiet (lapNoted s) := by
  obtain e | e := lapNoted_cases s <;> rw [e]
  · exact h
  · exact h

/-- The visit of a free frame. -/
theorem scannerVisit_free {s : State} (recovery : s.aon.mode = .recovery) (more : s.tier.scanPos + 1 < totalFrames s) (quiet : Quiet s)
    (free : fUse (frameEntry s s.tier.scanPos) = 0) :
    ∃ u, exec .scannerVisit s = .next u ∧ u.tier.scanPos = s.tier.scanPos + 1 ∧ u.quay.desc = s.quay.desc := by
  have visited : frameVisited s = lapNoted s := if_neg (by simp [free])
  refine ⟨scanned s (frameVisited s), scannerVisit_on recovery more (by omega) ?_ ?_, rfl, ?_⟩ <;> rw [visited]
  · exact samePlaces_lapNoted s
  · exact quiet_lapNoted quiet
  · exact congrArg Quay.desc (lapNoted_quay s)

/-- The visit of a berth. -/
theorem scannerVisit_berth {s : State} {page : Nat} (recovery : s.aon.mode = .recovery) (more : s.tier.scanPos + 1 < totalFrames s)
    (quiet : Quiet s) (berth : fUse (frameEntry s s.tier.scanPos) = 1) (page' : fPage (frameEntry s s.tier.scanPos) = page)
    (present : framePending s page = false) (sound : dReserved (descRaw s page) = false) :
    ∃ u, exec .scannerVisit s = .next u ∧ u.tier.scanPos = s.tier.scanPos + 1 ∧ descRaw u page = decay s (descOf s page) := by
  have visited : frameVisited s = setDesc page (decay s (descOf s page)) (lapNoted s) := by
    have kept : decay (lapNoted s) (descOf (lapNoted s) page) = decay s (descOf s page) :=
      lapNoted_keeps (fun u => decay u (descOf u page)) (fun _ _ => rfl) s
    rw [frameVisited, if_pos berth, page', visitPage_decays, kept]
    · exact (lapNoted_keeps (fun u => framePending u page) (fun _ _ => rfl) s).trans present
    · exact (lapNoted_keeps (fun u => dReserved (descRaw u page)) (fun _ _ => rfl) s).trans sound
  have view := view_setDesc page (decay s (descOf s page)) (lapNoted s)
  refine ⟨scanned s (frameVisited s), scannerVisit_on recovery more (by omega) ?_ ?_, rfl, ?_⟩ <;> rw [visited]
  · exact (samePlaces_lapNoted s).trans (samePlaces_setDesc ..)
  · exact quiet_of_withDesc view (quiet_lapNoted quiet)
  · exact descRaw_of_withDesc view

/-- Settles O15: each event of the Quay data partition and of the scanner by the lemma of its own function. -/
theorem linesAndScanner : Obligations.LinesAndScanner := by
  unfold Obligations.LinesAndScanner
  refine ⟨?_, ?_, ?_, ?_, ?_⟩
  · intro s l q quiet held clean
    exact ⟨dropLine l s, lineEviction_clean quiet held clean, qline_dropLine l s, rfl, rfl⟩
  · intro s v l q a quiet held dirty whole load quietv free hot berth
    exact lineEviction_hot quiet held dirty whole load quietv free hot berth
  · intro s v l q err quiet held part asked reads load quietv unbacked
    exact partialLineMerge_unbacked held part asked reads load quietv unbacked
  · intro s mode running
    exact ⟨_, decayEpochAdvance_counts mode running, by rw [evMgt_tier], by rw [evMgt_tier]⟩
  · intro s recovery more quiet
    exact ⟨scannerVisit_free recovery more quiet, fun berth present sound =>
      scannerVisit_berth recovery more quiet berth rfl present sound⟩

end Sys2Proof.Laws
end

section
/-! PROOFS. How a request reaches its home bank (R173, R174, R241): what its steps leave as it was, and that a request of an idle home is
started at once. -/

namespace Sys2Proof.Laws

open Sys2Proof Sys2Proof.Machine

/-! ## What a port's partner sees -/

/-- From `s` to `t` the device is configured and stores what it did, and port `p` has kept its link and what it was to send. -/
structure Heard (p : Nat) (s t : State) : Prop where
  cfg : t.cfg = s.cfg
  fuse : t.fuse = s.fuse
  mem : t.dram.mem = s.dram.mem
  up : portUp t p = portUp s p
  sent : ∃ pre, (portOf t p).egress = (portOf s p).egress ++ pre

theorem Heard.refl (p : Nat) (s : State) : Heard p s s := ⟨rfl, rfl, rfl, rfl, [], (List.append_nil _).symm⟩

theorem Heard.trans {p : Nat} {r s t : State} (h : Heard p r s) (k : Heard p s t) : Heard p r t := by
  obtain ⟨a, ha⟩ := h.sent
  obtain ⟨b, hb⟩ := k.sent
  exact ⟨k.cfg.trans h.cfg, k.fuse.trans h.fuse, k.mem.trans h.mem, k.up.trans h.up, a ++ b, by rw [hb, ha, List.append_assoc]⟩

theorem heard_of_kept {s t : State} (cfg : t.cfg = s.cfg) (fuse : t.fuse = s.fuse) (mem : t.dram.mem = s.dram.mem) (port : t.port = s.port)
    (p : Nat) : Heard p s t :=
  ⟨cfg, fuse, mem, portUp_of_port port p, [], by rw [portOf_of_port port, List.append_nil]⟩

theorem heard_of_within {q : Parts} {s t : State} (h : Within q s t) (k : (q.cfg || q.fuse || q.mem || q.port) = false) (p : Nat) :
    Heard p s t := by
  simp only [Bool.or_eq_false_iff] at k
  obtain ⟨⟨⟨cfg, fuse⟩, mem⟩, port⟩ := k
  exact heard_of_kept (keeps_cfg h.same cfg) (keeps_fuse h.same fuse) (within_mem h mem) (within_port h port) p

theorem heard_modPort (p a : Nat) (f : Port → Port) (s : State) (up : (f (portOf s a)).st = (portOf s a).st)
    (sent : ∃ pre, (f (portOf s a)).egress = (portOf s a).egress ++ pre) : Heard p s (modPort a f s) := by
  by_cases h : p = a
  · subst h
    exact ⟨rfl, rfl, rfl, by simp only [portUp, portOf_modPort, up], by rw [portOf_modPort]; exact sent⟩
  · have same := portOf_modPort_other h f s
    exact ⟨rfl, rfl, rfl, by simp only [portUp, same], [], by rw [same, List.append_nil]⟩

theorem heard_sendPkt (p a : Nat) (k : Pkt) (s : State) : Heard p s (sendPkt a k s) := by
  unfold sendPkt
  split
  · exact heard_modPort p a _ s rfl ⟨[k], rfl⟩
  · exact .refl p s

theorem heard_foldl {α : Type} {p : Nat} {f : State → α → State} (hf : ∀ t a, Heard p t (f t a)) (l : List α) (s : State) :
    Heard p s (l.foldl f s) := by
  induction l generalizing s with
  | nil => exact .refl p s
  | cons a l ih => exact (hf s a).trans (ih (f s a))

theorem heard_sendAll (p : Nat) (op : BitVec 8) (body : BitVec 86) (s : State) : Heard p s (sendAll op body s) :=
  heard_foldl (fun t a => by
    split
    · exact heard_sendPkt ..
    · exact .refl p t) _ s

theorem heard_refreshPA (p : Nat) (s : State) : Heard p s (refreshPA s) := by
  unfold refreshPA
  dsimp only
  split
  · refine heard_of_kept ?_ ?_ ?_ ?_ p <;> rfl
  · refine Heard.trans ?_ (heard_sendAll ..)
    refine heard_of_kept ?_ ?_ ?_ ?_ p <;> rfl

theorem heard_keyCount (p : Nat) (k : BitVec 20) (up : Bool) (s : State) : Heard p s (keyCount k up s) :=
  heard_of_within (keyCount_within ..) rfl p

/-- A descriptor update may tell every partner of Persistence Assured (R190). -/
theorem heard_setDesc (p page : Nat) (d : BitVec 128) (s : State) : Heard p s (setDesc page d s) := by
  have counted (b : Bool) (k : BitVec 20) (up : Bool) (u : State) : Heard p u (if b = true then keyCount k up u else u) := by
    cases b
    · exact .refl p u
    · exact heard_keyCount ..
  have told (x y : Bool) (u : State) : Heard p u (if x = y then u else refreshPA u) := by
    split
    · exact .refl p u
    · exact heard_refreshPA ..
  unfold setDesc
  dsimp only
  refine Heard.trans (Heard.trans ?_ ((counted ..).trans (counted ..))) (told ..)
  refine heard_of_kept ?_ ?_ ?_ ?_ p <;> rfl

/-- A packet sent through a port that is up is the last one of its egress queue. -/
theorem sent_of_heard {p : Nat} {s t : State} (h : Heard p s t) (up : portUp s p = true) (k : Pkt) : Sent p k s (sendPkt p k t) := by
  obtain ⟨pre, sent⟩ := h.sent
  have here : portUp t p = true := h.up.trans up
  exact ⟨pre, by rw [sendPkt, if_pos (by simp [here]), portOf_modPort, sent]⟩

theorem sent_of_egress {p : Nat} {k : Pkt} {s t u : State} (h : Sent p k s t) (e : (portOf u p).egress = (portOf t p).egress) :
    Sent p k s u := by
  obtain ⟨pre, sent⟩ := h
  exact ⟨pre, e.trans sent⟩

/-! ## What a home does not change before it serves a request -/

/-- The Quay cache without the lists of the directory sets and descriptors that its partitions hold. -/
def homeQuay (s : State) : Quay := { s.quay with dirIn := [], descIn := [] }

/-- The home takes up and serves requests in `t` as in `s`. -/
structure SameHome (p : Nat) (s t : State) : Prop extends Heard p s t where
  mode : t.aon.mode = s.aon.mode
  quay : homeQuay t = homeQuay s
  ops : t.tier.ops = s.tier.ops
  hold : t.reins.hold = s.reins.hold
  waiters : t.reins.waiters = s.reins.waiters
  pending : t.led.pending = s.led.pending
  cmds : t.rings.cmds = s.rings.cmds

theorem SameHome.refl (p : Nat) (s : State) : SameHome p s s := ⟨.refl p s, rfl, rfl, rfl, rfl, rfl, rfl, rfl⟩

theorem SameHome.trans {p : Nat} {r s t : State} (h : SameHome p r s) (k : SameHome p s t) : SameHome p r t :=
  ⟨h.toHeard.trans k.toHeard, k.mode.trans h.mode, k.quay.trans h.quay, k.ops.trans h.ops, k.hold.trans h.hold,
    k.waiters.trans h.waiters, k.pending.trans h.pending, k.cmds.trans h.cmds⟩

/-- What only counts leaves the home as it was where it leaves alone what waits. -/
theorem sameHome_of_within {s t : State} (h : Within { ev := true, reins := true, mgt := true } s t)
    (hold : t.reins.hold = s.reins.hold) (waiters : t.reins.waiters = s.reins.waiters) (p : Nat) : SameHome p s t :=
  ⟨heard_of_within h rfl p, within_mode h rfl, by rw [homeQuay, within_quay h rfl, homeQuay], by rw [keeps_tier h.same rfl], hold,
    waiters, by rw [within_led h rfl], by rw [keeps_rings h.same rfl]⟩

theorem sameHome_evAdd (p id n : Nat) (s : State) : SameHome p s (evAdd id n s) :=
  sameHome_of_within ((evAdd_within id n s).mono rfl) (by simp) (by simp) p
theorem sameHome_evAfl (p a e : Nat) (s : State) : SameHome p s (evAfl a e s) := sameHome_evAdd ..
theorem sameHome_evQb (p b e : Nat) (s : State) : SameHome p s (evQb b e s) := sameHome_evAdd ..
theorem sameHome_evDch (p c e : Nat) (s : State) : SameHome p s (evDch c e s) := sameHome_evAdd ..

theorem sameHome_countUse (p inst : Nat) (c : BitVec 8) (n : Nat) (s : State) : SameHome p s (countUse inst c n s) :=
  sameHome_of_within ((countUse_within ..).mono rfl) (countUse_waits ..).hold (countUse_waits ..).waiters p

theorem sameHome_readNow (p : Nat) (cls : BitVec 8) (addr : Nat) (s : State) : SameHome p s (readNow cls addr s) := by
  unfold readNow
  split
  · exact .refl p s
  · split
    · exact sameHome_evDch ..
    · exact (sameHome_evDch ..).trans ((sameHome_countUse ..).trans (sameHome_evDch ..))

theorem sameHome_takeRx (p a : Nat) (op : BitVec 8) (src : Node) (tag : Tag) (s : State) : SameHome p s (takeRx a op src tag s) := by
  have w := takeRx_within a op src tag s
  refine ⟨?_, within_mode w rfl, by rw [homeQuay, within_quay w rfl, homeQuay], by rw [keeps_tier w.same rfl],
    by rw [within_reins w rfl], by rw [within_reins w rfl], by rw [within_led w rfl], by rw [keeps_rings w.same rfl]⟩
  unfold takeRx
  dsimp only
  split
  · exact .refl p s
  · split
    · exact heard_modPort p a (fun _ => _) s rfl ⟨[], (List.append_nil _).symm⟩
    · exact heard_modPort p a (fun _ => _) s rfl ⟨[], (List.append_nil _).symm⟩

theorem sameHome_outUp (p : Nat) (c : BitVec 8) (s : State) : SameHome p s (outUp c s) :=
  sameHome_of_within ((outUp_within c s).mono rfl) rfl rfl p

/-- A partition that takes an entry. -/
theorem sameHome_held (p : Nat) (dirs descs : List Nat) (s : State) :
    SameHome p s { s with quay.dirIn := dirs, quay.descIn := descs } := 
  ⟨by refine heard_of_kept ?_ ?_ ?_ ?_ p <;> rfl, rfl, rfl, rfl, rfl, rfl, rfl, rfl⟩

/-- An entry that a partition does not hold is read where the tables of DRAM have it. -/
theorem sameHome_lookup {p : Nat} {s u : State} (h : SameHome p s u) (written : Bool) (line : Option Nat) (cls : BitVec 8) :
    SameHome p s (if written then (match line with | some a => readNow cls a u | none => u) else u) := by
  cases written
  · exact h
  · cases line
    · exact h
    · exact h.trans (sameHome_readNow ..)

theorem sameHome_useDir (p : Nat) (l : Line) (cls : BitVec 8) (s : State) : SameHome p s (useDir l cls s) := by
  unfold useDir
  dsimp only
  split
  · exact .refl p s
  · exact sameHome_lookup ((sameHome_held p _ s.quay.descIn s).trans (sameHome_evQb p (bankOf s l) 8 _)) _ _ cls

theorem sameHome_useDesc (p page : Nat) (cls : BitVec 8) (s : State) : SameHome p s (useDesc page cls s) := by
  unfold useDesc
  dsimp only
  split
  · exact .refl p s
  · exact sameHome_lookup ((sameHome_held p s.quay.dirIn _ s).trans (sameHome_evQb p (descBank s page) 6 _)) _ _ cls

/-! ## What follows where the home is the same -/

section
variable {p : Nat} {s t : State} (h : SameHome p s t)
include h

theorem SameHome.recsOf (ty rt : Nat) : recsOf t ty rt = recsOf s ty rt := by
  simp only [Machine.recsOf, typedRecs, sectionRecs, h.cfg, h.fuse]
theorem SameHome.param (table index : Nat) : param t table index = param s table index := param_of_kept h.cfg h.fuse table index
theorem SameHome.nodeId : nodeId t = nodeId s := by rw [Machine.nodeId, h.param, Machine.nodeId]
theorem SameHome.capacity : capacity t = capacity s := by rw [Machine.capacity, h.param, Machine.capacity]
theorem SameHome.reqLine (r : Req) : reqLine t r = reqLine s r := by
  simp only [Machine.reqLine, indexBits, h.recsOf]
theorem SameHome.bankOf (l : Line) : bankOf t l = bankOf s l := by simp only [Machine.bankOf, h.recsOf, h.fuse]
theorem SameHome.domainOf (l : Line) : domainOf t l = domainOf s l := by rw [Machine.domainOf, h.recsOf, Machine.domainOf]
theorem SameHome.members (l : Line) : members t l = members s l := by
  rw [Machine.members, h.domainOf, domainMembers, h.recsOf, Machine.members, domainMembers]
theorem SameHome.sealRange (page : Nat) : sealRange t page = sealRange s page := by simp only [Machine.sealRange, h.recsOf]
theorem SameHome.inQuay {α : Type} (f : Quay → α) : f (homeQuay t) = f (homeQuay s) := congrArg f h.quay
theorem SameHome.lines : t.quay.lines = s.quay.lines := h.inQuay Quay.lines
theorem SameHome.dir : t.quay.dir = s.quay.dir := h.inQuay Quay.dir
theorem SameHome.dirValid : t.quay.dirValid = s.quay.dirValid := h.inQuay Quay.dirValid
theorem SameHome.descRaw (page : Nat) : descRaw t page = descRaw s page :=
  h.inQuay (fun q : Quay => sget 0 q.desc page)
theorem SameHome.qline (l : Line) : qline t l = qline s l := by rw [Machine.qline, h.lines, Machine.qline]
theorem SameHome.bankLines (b : Nat) : bankLines t b = bankLines s b := by simp only [Machine.bankLines, h.lines, h.bankOf]
theorem SameHome.dataCap : dataCap t = dataCap s := by simp only [Machine.dataCap, h.recsOf]
theorem SameHome.dirKey (l : Line) : dirKey t l = dirKey s l := by
  rw [Machine.dirKey, dirM, numBanks, h.bankOf, h.param, h.fuse, Machine.dirKey, dirM, numBanks]
theorem SameHome.dirLine (l : Line) : dirLine t l = dirLine s l := by
  rw [Machine.dirLine, h.dirKey, h.dirValid, h.dir, Machine.dirLine]

theorem SameHome.quiet (q : Quiet s) : Quiet t := by
  obtain ⟨txns, busy, notices, parked, parkWait, fills, waiters⟩ := q
  exact ⟨(h.inQuay Quay.txns).trans txns, (h.inQuay Quay.busy).trans busy, (h.inQuay Quay.notices).trans notices,
    (h.inQuay Quay.parked).trans parked, (h.inQuay Quay.parkWait).trans parkWait,
    (h.inQuay Quay.fills).trans fills, h.waiters.trans waiters⟩

theorem SameHome.untouched {l : Line} (u : Untouched s l) : Untouched t l where
  page := (h.descRaw _).trans u.page
  line := (h.qline l).trans u.line
  room := by rw [h.bankOf, h.bankLines, h.dataCap]; exact u.room
  plain := (h.sealRange _).trans u.plain
  ops := h.ops.trans u.ops

end

/-- A request that its home bank serves at once is so wherever the home is the same. -/
theorem servedAtOnce_of_sameHome {s t : State} {r : Req} (h : SameHome r.port s t) (k : ServedAtOnce s r) : ServedAtOnce t r where
  mode := h.mode.trans k.mode
  quiet := h.quiet k.quiet
  hold := h.hold.trans k.hold
  restored := h.pending.trans k.restored
  cmds := h.cmds.trans k.cmds
  home := k.home.trans h.nodeId.symm
  other := by rw [h.nodeId]; exact k.other
  inside := by rw [h.reqLine, h.capacity]; exact k.inside
  member := by rw [h.reqLine, h.members]; exact k.member
  up := h.up.trans k.up
  line := by rw [h.reqLine]; exact h.untouched k.line

/-- A request under the opcode of the command that brings it. -/
def asked (op : BitVec 8) (r : Req) : Req := { r with op := op }

/-- It is served at once under any opcode. -/
theorem servedAtOnce_asked {s : State} {r : Req} (h : ServedAtOnce s r) (op : BitVec 8) : ServedAtOnce s (asked op r) :=
  ⟨⟨h.mode, h.quiet, h.hold, h.restored, h.cmds, h.home, h.other, h.inside, h.member, h.up⟩, h.line⟩

end Sys2Proof.Laws
end

section
/-! PROOFS. A write of an untouched line that no node holds starts when it arrives (R28, R29, R173, R174, R182, R243). -/

namespace Sys2Proof.Laws

open Sys2Proof Sys2Proof.Machine

/-! ## Receipt and admission -/

/-- The request is counted and leaves the receive buffer (R275). -/
def received (r : Req) (s : State) : State := takeRx r.port r.op r.src r.tag (evAfl r.port 14 s)

theorem sameHome_received (p : Nat) (r : Req) (s : State) : SameHome p s (received r s) :=
  (sameHome_evAfl ..).trans (sameHome_takeRx ..)

/-- With nothing outstanding no request is a duplicate. -/
theorem duplicate_of_quiet {s : State} (h : Quiet s) (hold : s.reins.hold = []) (r : Req) : duplicate s r = false := by
  obtain ⟨txns, busy, -, -, -, -, waiters⟩ := h
  simp [duplicate, txns, busy, waiters, hold]

/-- In Service a request of the device's own space is admitted. -/
theorem homeRequest_served {s : State} {r : Req} (h : ServedAtOnce s r) :
    homeRequest r.op r s = admitNew (rxTick r.port r.op r.src r.tag (evAfl r.port 14 s)) r (received r s) := by
  have k := servedAtOnce_of_sameHome (sameHome_evAfl r.port r.port 14 s) h
  have fresh := duplicate_of_quiet k.quiet k.hold r
  have right : ¬ (decide (r.dst ≠ nodeId (evAfl r.port 14 s)) ||
      decide (capacity (evAfl r.port 14 s) ≤ dla (reqLine (evAfl r.port 14 s) r))) = true := by
    simpa [k.home.symm] using k.inside
  unfold homeRequest
  rw [if_neg (by simp [h.mode])]
  dsimp only
  rw [if_neg (by simp [fresh]), if_neg right, k.mode]
  rfl

/-- What waits for its bank on behalf of a request that arrives now. -/
def arrival (at' : Nat) (r : Req) (s : State) : Waiter := { req := r, due := dueOf at' r.deadline, stamp := s.reins.stamp }

/-- The request has its place in the order of arrivals, and its class one transaction more. -/
def accepted (r : Req) (s : State) : State := outUp r.cls { s with reins.stamp := s.reins.stamp + 1 }

/-- The request is counted at its home bank. -/
def entered (r : Req) (s : State) : State := evQb (bankOf (accepted r s) (reqLine (accepted r s) r)) 0 (accepted r s)

theorem sameHome_accepted (p : Nat) (r : Req) (s : State) : SameHome p s (accepted r s) :=
  have stamped : SameHome p s { s with reins.stamp := s.reins.stamp + 1 } :=
    ⟨by refine heard_of_kept ?_ ?_ ?_ ?_ p <;> rfl, rfl, rfl, rfl, rfl, rfl, rfl, rfl⟩
  stamped.trans (sameHome_outUp ..)

theorem sameHome_entered (p : Nat) (r : Req) (s : State) : SameHome p s (entered r s) :=
  (sameHome_accepted ..).trans (sameHome_evQb ..)

/-! ## What a write of an untouched line that no node holds finds -/

/-- An uncached write that Table 6.4 applies to as it is. -/
structure PlainWrite (s : State) (r : Req) : Prop extends ServedAtOnce s r where
  op : r.op = 0x08 ∨ (r.op = 0x09 ∧ r.mask ≠ 0 ∧ r.mask ≠ BitVec.allOnes 64)
  unheld : dirLine s (reqLine s r) = 0
  clean : r.poison = false

theorem plainWrite_of_sameHome {s t : State} {r : Req} (h : SameHome r.port s t) (k : PlainWrite s r) : PlainWrite t r where
  toServedAtOnce := servedAtOnce_of_sameHome h k.toServedAtOnce
  op := k.op
  unheld := by rw [h.reqLine, h.dirLine]; exact k.unheld
  clean := k.clean

theorem opOf_of_untouched {s : State} {l : Line} (h : Untouched s l) (page : Nat) : opOf s page = none := by simp [opOf, h.ops]

theorem descOf_of_untouched {s : State} {l : Line} (h : Untouched s l) : descOf s (pageOf l) = 0 := by
  rw [descOf, h.page]
  decide

theorem takesKey_of_untouched {s : State} {l : Line} (h : Untouched s l) : takesKey s (pageOf l) = none := by
  simp [takesKey, newKey, h.plain]

theorem makeRoom_of_untouched {s : State} {l : Line} (h : Untouched s l) : makeRoom l s = some s := by
  rw [makeRoom, if_pos (by simp [h.room])]

theorem setEntry_zero (i : Nat) : setEntry 0 i = 0 := BitVec.extractLsb'_zero

theorem eState_zero : eState 0 = 0 := by decide

theorem dirFind_zero (l : Line) : dirFind 0 l = none := by
  simp only [dirFind, List.find?_eq_none, setEntry_zero, eState_zero]
  simp

theorem dirEntry_of_zero {s : State} {l : Line} (h : dirLine s l = 0) : dirEntry s l = 0 := by
  have unmarked : dirAny 0 = false := by
    simp only [dirAny, setEntry_zero, eState_zero]
    simp
  simp only [dirEntry, h, dirFind_zero, unmarked]
  simp

theorem dirFix_of_zero {s : State} {l : Line} (h : dirLine s l = 0) : dirFix l s = s := by
  have sound : eBad 0 = false := by decide
  unfold dirFix
  simp only [h, setEntry_zero, sound]
  simp

/-- The directory records nothing of a line that no node holds and none takes. -/
theorem setDir_zero {s : State} {l : Line} (h : dirLine s l = 0) : setDir l 0 s = s := by
  unfold setDir
  simp only [h, dirFind_zero]
  simp

theorem descFix_of_untouched {s : State} {l : Line} (h : Untouched s l) : descFix (pageOf l) s = s :=
  descFix_of_sound (by rw [h.page]; decide)

theorem keyGone_of_untouched {s : State} {l : Line} (h : Untouched s l) : keyGone s (pageOf l) = false := by
  have unsealed : dSealed (descOf s (pageOf l)) = false := by rw [descOf_of_untouched h]; decide
  simp [keyGone, unsealed]

theorem isStore_of_write {s : State} {r : Req} (h : PlainWrite s r) : isStore r.op = true := by
  obtain op | ⟨op, -, -⟩ := h.op <;> rw [op] <;> decide

/-- Table 6.4 applies to the write as it is. -/
theorem effective_of_write {s : State} {r : Req} (h : PlainWrite s r) : effective s r = r := by
  obtain op | ⟨op, -, part⟩ := h.op
  · simp [effective, op]
  · simp only [effective, op, part]
    simp

/-- A write takes no entry of the directory. -/
theorem entryAfter_of_write {s : State} {r : Req} (h : PlainWrite s r) (e : Bool) (l : Line) :
    entryAfter e 0 l r.op r.src [] 0 = 0 := by
  have kind : entryKind 0 = .none := by decide
  rw [entryAfter, kind]
  obtain op | ⟨op, -, -⟩ := h.op <;> simp [op]

theorem needsEntry_of_write {s : State} {r : Req} (h : PlainWrite s r) : needsEntry s r = false := by
  simp only [needsEntry, effective_of_write h, entryAfter_of_write h]
  simp

theorem canStart_of_write {s : State} {r : Req} (h : PlainWrite s r) : canStart s r = true := by
  have free : lineBusy s (reqLine s r) = false := by simp [lineBusy, h.quiet.1]
  have unbarred : pageBars s (pageOf (reqLine s r)) (isStore r.op) = false := by simp [pageBars, opOf_of_untouched h.line]
  have present : framePending s (pageOf (reqLine s r)) = false := by simp [framePending, h.restored]
  have unmoved : snapHeld s (reqLine s r) (isStore r.op) = false := by simp [snapHeld, h.cmds]
  have alone : needsRecall s r = false := by simp [needsRecall, needsEntry_of_write h]
  simp [canStart, free, unbarred, present, unmoved, alone, makeRoom_of_untouched h.line]

/-! ## The start -/

theorem enterBank_write {s : State} {w : Waiter} (h : PlainWrite s w.req) :
    enterBank w s = startReq w (evQb (bankOf s (reqLine s w.req)) 0 s) := by
  have unaborted : abortFor (pageOf (reqLine s w.req)) s = s := by simp [abortFor, opOf_of_untouched h.line]
  have first : firstForLine s w = true := by simp [firstForLine, h.quiet.2]
  unfold enterBank
  simp only [isStore_of_write h, unaborted, canStart_of_write h, first, Bool.and_self, if_true]

/-- A write is admitted, starts at once, and what can go on after it does. -/
theorem admitNew_write {s : State} {r : Req} (at' : Nat) (h : PlainWrite s r) :
    admitNew at' r s = settle (startReq (arrival at' r s) (entered r s)) := by
  have k := plainWrite_of_sameHome (sameHome_accepted r.port r s) h
  have room : bankHeld (accepted r s) (bankOf (accepted r s) (reqLine (accepted r s) r)) < 960 := by
    simp [bankHeld, k.quiet.1, k.quiet.2]
  have entry : enterBank (arrival at' r s) (accepted r s) = startReq (arrival at' r s) (entered r s) :=
    enterBank_write (w := arrival at' r s) k
  show settle (if bankHeld (accepted r s) (bankOf (accepted r s) (reqLine (accepted r s) r)) < 960 then
    enterBank (arrival at' r s) (accepted r s) else _) = _
  rw [if_pos room, entry]

/-- The transaction of a write. -/
def writeTxn (w : Waiter) (l : Line) : Txn := { req := w.req, line := l.toNat, due := w.due, overdue := w.overdue }

theorem startReq_write {s : State} {w : Waiter} {l : Line} (h : PlainWrite s w.req) (line : reqLine s w.req = l) (kept : w.lost = false) :
    startReq w s = launch (writeTxn w l) s := by
  subst line
  have masked : (decide (w.req.op = 0x09) && decide (w.req.mask = 0)) = false := by
    obtain op | ⟨-, some', -⟩ := h.op
    · simp [op]
    · simpa using fun _ => some'
  have plain : isAtomic w.req.op = false := by obtain op | ⟨op, -, -⟩ := h.op <;> rw [op] <;> decide
  have notRead (gone : Bool) : (gone && decide (w.req.op ≠ 0x08) && decide (w.req.op ≠ 0x09)) = false := by
    obtain op | ⟨op, -, -⟩ := h.op <;> simp [op]
  have notUpgrade : decide (w.req.op = 0x04) = false := by obtain op | ⟨op, -, -⟩ := h.op <;> simp [op]
  have key : keyRefuses s w.req = none := by simp [keyRefuses, takesKey_of_untouched h.line]
  have unowned : entryKind 0 = .none := by decide
  have noRecall : needsRecall s w.req = false := by simp [needsRecall, needsEntry_of_write h]
  unfold startReq
  simp only [descFix_of_untouched h.line, dirFix_of_zero h.unheld, effective_of_write h, kept, masked, plain, notRead, notUpgrade,
    keyGone_of_untouched h.line, key, dirEntry_of_zero h.unheld, unowned, noRecall, needsEntry_of_write h, Bool.and_false, Bool.false_and,
    Bool.false_eq_true, if_false, reduceCtorEq, decide_false]
  rfl

/-- The transaction is served: it has looked in the directory. -/
def servedTxn (w : Waiter) (l : Line) : Txn := { writeTxn w l with entry := 0, victim := none, phase := .snoop }

theorem txnLine_of_toNat {t : Txn} {l : Line} (h : t.line = l.toNat) : txnLine t = l := by simp [txnLine, h]

theorem txnLine_write (w : Waiter) (l : Line) : txnLine (servedTxn w l) = l := txnLine_of_toNat rfl

/-- No other node holds the line: the transaction is complete when it is launched. -/
theorem launch_write {s : State} {w : Waiter} {l : Line} (h : PlainWrite s w.req) (line : reqLine s w.req = l) :
    launch (writeTxn w l) s = complete (servedTxn w l) (useDir l w.req.cls s) := by
  have unheld : dirLine s l = 0 := line ▸ h.unheld
  have same := sameHome_useDir w.req.port l w.req.cls s
  have entry : dirEntry (useDir l w.req.cls s) l = 0 := dirEntry_of_zero ((same.dirLine l).trans unheld)
  have own : txnLine (writeTxn w l) = l := txnLine_of_toNat rfl
  have unsnooped (m : List Node) (f hit : Bool) (op : BitVec 8) (n : Node) : planSnoops m f hit 0 op n = [] := rfl
  unfold launch
  simp only [own, show (writeTxn w l).req = w.req from rfl, entry, unsnooped, sendSnoops]
  rfl

/-- A write is laid over the home copy. -/
def heldWrite (r : Req) (l : Line) (s : State) : State :=
  writeQuay l (if r.op = 0x08 then BitVec.allOnes 64 else r.mask) r.data false r.cls r.src r.tag s

/-- The write is answered with CMP. -/
def answeredWrite (r : Req) (s : State) : State :=
  sendPkt r.port { hdr := rspHdr 0x4D r.src (nodeId s) r.tag 0 { persisted := assured s } } s

/-- The write ends with its answer. -/
def endedWrite (w : Waiter) (l : Line) (s : State) : State := dropTxn l.toNat (countEnd w.req w.due (answeredWrite w.req s))

theorem complete_write {s : State} {w : Waiter} {l : Line} (h : PlainWrite s w.req) (line : reqLine s w.req = l)
    (away : w.req.src ≠ nodeId (heldWrite w.req l s)) :
    complete (servedTxn w l) s = endedWrite w l (heldWrite w.req l s) := by
  have unheld : dirLine s l = 0 := line ▸ h.unheld
  have store : (decide (w.req.op = 0x08) || decide (w.req.op = 0x09)) = true := by obtain op | ⟨op, -, -⟩ := h.op <;> simp [op]
  have entry : afterOk s (servedTxn w l) = 0 := entryAfter_of_write h (grantE s) _
  have foreign : isOwn (heldWrite w.req l s) w.req = false := by simp [isOwn, away]
  unfold complete
  simp only [txnLine_write, show (servedTxn w l).req = w.req from rfl,
    show (servedTxn w l).fwdDone = false from rfl, store, entry, setDir_zero unheld, h.clean, Bool.false_eq_true, if_false,
    if_true]
  show closeTxn (servedTxn w l) (countEnd w.req w.due (sendRsp w.req 0x4D 0
    { persisted := assured (heldWrite w.req l s) } [] (heldWrite w.req l s))) = _
  rw [sendRsp, if_neg (by simp [foreign])]
  rfl

end Sys2Proof.Laws
end

section
/-! PROOFS. An uncached write of an untouched line that no node holds (R28, R29, R42, R182, R195): it is held in the Quay data partition and
answered with CMP. -/

namespace Sys2Proof.Laws

open Sys2Proof Sys2Proof.Machine

/-! ## The report of a write (R42) -/

/-- The descriptor of an Unbacked page that was written: DIRTY. -/
def writtenDesc : BitVec 128 := dFlag (dFlag 0 24 true) 27 false

theorem writtenDesc_dirty : dDirty writtenDesc = true := by decide

theorem writtenDesc_unbacked : dState writtenDesc = .unbacked := by decide

theorem zeroDesc_clean : dDirty 0 = false := by decide

theorem touch_writtenDesc (s : State) : touch s true writtenDesc = writtenDesc := by
  rw [touch, writtenDesc_unbacked]

theorem clearMask_writtenDesc (s : State) (i : Nat) : clearMask s writtenDesc i = writtenDesc := by
  rw [clearMask, writtenDesc_unbacked]
  simp

/-- The page of a reported write is dirty, and its class a dirtying class. -/
def reported (page : Nat) (cls : BitVec 8) (s : State) : State :=
  joinDirty page (some cls) (setDesc page writtenDesc (staleSegs page (useDesc page cls s)))

/-- A write of a page that holds no storage and no key, with no operation on it, makes it dirty and changes nothing else of it. -/
theorem reportWrite_unbacked {s : State} {l : Line} (page : descRaw s (pageOf l) = 0) (ops : s.tier.ops = [])
    (plain : sealRange s (pageOf l) = none) (full : Bool) (cls : BitVec 8) :
    reportWrite l full cls s = reported (pageOf l) cls s := by
  have unaborted : abortFor (pageOf l) s = s := by simp [abortFor, opOf, ops]
  have same := sameHome_useDesc 0 (pageOf l) cls s
  have desc : descOf (useDesc (pageOf l) cls s) (pageOf l) = 0 := by
    rw [descOf, same.descRaw, page]
    decide
  have key : takesKey (useDesc (pageOf l) cls s) (pageOf l) = none := by simp [takesKey, newKey, same.sealRange, plain]
  have masked (s : State) : (if full = true then clearMask s writtenDesc (l.toNat % 64) else writtenDesc) = writtenDesc := by
    rw [clearMask_writtenDesc, ite_self]
  unfold reportWrite
  simp only [unaborted, desc, key, zeroDesc_clean, ← writtenDesc.eq_1, touch_writtenDesc, masked, writtenDesc_unbacked, reduceCtorEq,
    decide_false, Bool.false_and, Bool.false_eq_true, if_false]
  rfl

/-! ## The line in the Quay data partition (R28, R29) -/

/-- The held line of a write: every byte, or the bytes of its mask over zeros. -/
def newLine (mask : BitVec 64) (x : BitVec 512) (cls : BitVec 8) (node : Node) (tag : Tag) (stamp : Nat) : QLine :=
  { data := if mask = BitVec.allOnes 64 then x else overlay mask x 0, mask := mask, dirty := true, cls := cls, node := node, tag := tag,
    stamp := stamp }

/-- The line is placed, and a merge of it that is wanted no more is dropped. -/
def placedLine (l : Line) (q : QLine) (s : State) : State :=
  setQline l q { s with aon.writeAccepted := true, quay.useStamp := s.quay.useStamp + 1,
                        quay.merges := if q.mask = BitVec.allOnes 64 then s.quay.merges.filter (· ≠ l.toNat) else s.quay.merges }

theorem writeQuay_placed {s : State} {l : Line} (h : Untouched s l) (mask : BitVec 64) (x : BitVec 512) (cls : BitVec 8) (node : Node)
    (tag : Tag) : writeQuay l mask x false cls node tag s =
      reportWrite l (mask = BitVec.allOnes 64) cls (placedLine l (newLine mask x cls node tag s.quay.useStamp) s) := by
  unfold writeQuay
  simp only [makeRoom_of_untouched h, Option.getD_some, h.line, Option.getD_none]
  by_cases full : mask = BitVec.allOnes 64
  · subst full
    rfl
  · simp only [full, newLine, placedLine, useLine, show (0 : BitVec 64) ||| mask = mask from BitVec.zero_or, Bool.or_self, decide_false,
      Bool.false_eq_true, if_false]

/-- The write of an untouched line. -/
def wroteLine (l : Line) (q : QLine) (s : State) : State := reported (pageOf l) q.cls (placedLine l q s)

theorem writeQuay_untouched {s : State} {l : Line} (h : Untouched s l) (mask : BitVec 64) (x : BitVec 512) (cls : BitVec 8) (node : Node)
    (tag : Tag) : writeQuay l mask x false cls node tag s = wroteLine l (newLine mask x cls node tag s.quay.useStamp) s := by
  have page : descRaw (placedLine l (newLine mask x cls node tag s.quay.useStamp) s) (pageOf l) = 0 := h.page
  have ops : (placedLine l (newLine mask x cls node tag s.quay.useStamp) s).tier.ops = [] := h.ops
  have plain : sealRange (placedLine l (newLine mask x cls node tag s.quay.useStamp) s) (pageOf l) = none := h.plain
  rw [writeQuay_placed h, reportWrite_unbacked page ops plain]
  rfl

/-! ## What the write of a line leaves -/

theorem view_joinDirty (page : Nat) (cls : BitVec 8) (s : State) : pageView (joinDirty page (some cls) s) = pageView s := by
  unfold joinDirty
  dsimp only
  split <;> rfl

theorem heard_reported (p page : Nat) (cls : BitVec 8) (s : State) : Heard p s (reported page cls s) :=
  have used := (sameHome_useDesc p page cls s).toHeard
  have stale := heard_of_within (staleSegs_within page (useDesc page cls s)) rfl p
  have joined := heard_of_within (joinDirty_within page (some cls) (setDesc page writtenDesc (staleSegs page (useDesc page cls s)))) rfl p
  used.trans (stale.trans ((heard_setDesc ..).trans joined))

theorem heard_placedLine (p : Nat) (l : Line) (q : QLine) (s : State) : Heard p s (placedLine l q s) := by
  refine heard_of_kept ?_ ?_ ?_ ?_ p <;> rfl

theorem heard_wroteLine (p : Nat) (l : Line) (q : QLine) (s : State) : Heard p s (wroteLine l q s) :=
  (heard_placedLine ..).trans (heard_reported ..)

theorem view_reported (page : Nat) (cls : BitVec 8) (s : State) :
    pageView (reported page cls s) = (pageView (useDesc page cls s)).withDesc page writtenDesc :=
  (view_joinDirty ..).trans (view_setDesc ..)

/-- What the statements say of the Quay cache beside the descriptors. -/
structure QuayKept (s t : State) : Prop where
  lines : t.quay.lines = s.quay.lines
  dir : t.quay.dir = s.quay.dir
  quiet : Quiet s → Quiet t

theorem quayKept_reported (page : Nat) (cls : BitVec 8) (s : State) : QuayKept s (reported page cls s) := by
  have same := sameHome_useDesc 0 page cls s
  have view := view_reported page cls s
  have lines : (reported page cls s).quay.lines = (useDesc page cls s).quay.lines := congrArg (fun v => v.quay.lines) view
  have dir : (reported page cls s).quay.dir = (useDesc page cls s).quay.dir := congrArg (fun v => v.quay.dir) view
  exact ⟨lines.trans same.lines, dir.trans same.dir, fun q => quiet_of_withDesc view (same.quiet q)⟩

theorem qline_placedLine (l : Line) (q : QLine) (s : State) : qline (placedLine l q s) l = some q :=
  sget_sset_same none s.quay.lines l.toNat (some q)

/-- The line that was written is held, its page is dirty, and nothing waits. -/
theorem wroteLine_held (l : Line) (q : QLine) {s : State} (quiet : Quiet s) :
    qline (wroteLine l q s) l = some q ∧ dDirty (descRaw (wroteLine l q s) (pageOf l)) = true ∧
      (wroteLine l q s).quay.dir = s.quay.dir ∧ Quiet (wroteLine l q s) := by
  have kept := quayKept_reported (pageOf l) q.cls (placedLine l q s)
  have desc : descRaw (wroteLine l q s) (pageOf l) = writtenDesc := descRaw_of_withDesc (view_reported ..)
  refine ⟨?_, by rw [desc, writtenDesc_dirty], kept.dir, kept.quiet quiet⟩
  rw [wroteLine, qline, kept.lines]
  exact qline_placedLine l q s

/-! ## The answer -/

theorem endedWrite_quay (w : Waiter) (l : Line) (s : State) :
    (endedWrite w l s).quay = { s.quay with txns := s.quay.txns.filter (fun t => t.line ≠ l.toNat) } := by
  have sent := within_quay (sendPkt_within w.req.port
    { hdr := rspHdr 0x4D w.req.src (nodeId s) w.req.tag 0 { persisted := assured s } } s) rfl
  have counted := within_quay (countEnd_within w.req w.due (answeredWrite w.req s)) rfl
  exact congrArg (fun q : Quay => { q with txns := q.txns.filter (fun t => t.line ≠ l.toNat) }) (counted.trans sent)

theorem countEnd_waiters (r : Req) (due : Option Nat) (s : State) : (countEnd r due s).reins.waiters = s.reins.waiters := by
  unfold countEnd
  dsimp only
  split
  · rfl
  · split <;> rfl

/-- With its only transaction ended the home is quiet. -/
theorem quiet_endedWrite {w : Waiter} {l : Line} {s : State} (h : Quiet s) : Quiet (endedWrite w l s) := by
  obtain ⟨txns, busy, notices, parked, parkWait, fills, waiters⟩ := h
  have quay := endedWrite_quay w l s
  have sent := within_reins (sendPkt_within w.req.port
    { hdr := rspHdr 0x4D w.req.src (nodeId s) w.req.tag 0 { persisted := assured s } } s) rfl
  refine ⟨?_, (congrArg Quay.busy quay).trans busy, (congrArg Quay.notices quay).trans notices, (congrArg Quay.parked quay).trans parked,
    (congrArg Quay.parkWait quay).trans parkWait, (congrArg Quay.fills quay).trans fills,
    (countEnd_waiters ..).trans ((congrArg Reins.waiters sent).trans waiters)⟩
  rw [quay, txns]
  rfl

theorem sent_endedWrite {w : Waiter} {l : Line} {s t : State} (h : Heard w.req.port s t) (up : portUp s w.req.port = true) :
    Sent w.req.port { hdr := rspHdr 0x4D w.req.src (nodeId t) w.req.tag 0 { persisted := assured t } } s (endedWrite w l t) :=
  sent_of_egress (sent_of_heard h up _)
    (congrArg Port.egress (portOf_of_port (within_port (countEnd_within w.req w.due (answeredWrite w.req t)) rfl) w.req.port))

theorem endedWrite_mem (w : Waiter) (l : Line) (s : State) : (endedWrite w l s).dram.mem = s.dram.mem :=
  (within_mem (countEnd_within w.req w.due (answeredWrite w.req s)) rfl).trans (within_mem (sendPkt_within ..) rfl)

/-- What a write leaves: CMP is sent, the line is held, its page is dirty, nothing waits, the directory and DRAM are as they were. -/
structure WriteHeld (s : State) (r : Req) (t : State) (f : RspFlags) (q : QLine) : Prop where
  sent : Sent r.port { hdr := rspHdr 0x4D r.src (nodeId s) r.tag 0 f } s t
  line : qline t (reqLine s r) = some q
  page : dDirty (descRaw t (pageOf (reqLine s r))) = true
  txns : t.quay.txns = []
  dir : t.quay.dir = s.quay.dir
  mem : t.dram.mem = s.dram.mem

/-- The state in which the write is laid down. -/
def writing (r : Req) (s : State) : State := useDir (reqLine s r) r.cls (entered r (received r s))

theorem sameHome_writing (p : Nat) (r : Req) (s : State) : SameHome p s (writing r s) :=
  (sameHome_received ..).trans ((sameHome_entered ..).trans (sameHome_useDir ..))

/-- The line that a write leaves in the Quay data partition. -/
def writeLine (r : Req) (s : State) : QLine :=
  newLine (if r.op = 0x08 then BitVec.allOnes 64 else r.mask) r.data r.cls r.src r.tag s.quay.useStamp

/-- The state in which the write has been laid down and is answered. -/
def written (r : Req) (s : State) : State := wroteLine (reqLine s r) (writeLine r (writing r s)) (writing r s)

theorem heard_written (p : Nat) (r : Req) (s : State) : Heard p s (written r s) :=
  (sameHome_writing ..).toHeard.trans (heard_wroteLine ..)

theorem heldWrite_writing {s : State} {r : Req} (h : PlainWrite s r) : heldWrite r (reqLine s r) (writing r s) = written r s :=
  writeQuay_untouched ((sameHome_writing r.port r s).untouched h.line) ..

theorem nodeId_of_heard {p : Nat} {s t : State} (h : Heard p s t) : nodeId t = nodeId s := by
  rw [nodeId, param_of_kept h.cfg h.fuse, nodeId]

/-- A write runs from its receipt to its answer. -/
theorem homeRequest_write {s : State} {r : Req} (h : PlainWrite s r) :
    ∃ w : Waiter, w.req = r ∧ homeRequest r.op r s = endedWrite w (reqLine s r) (written r s) := by
  have received' := sameHome_received r.port r s
  have entered' := received'.trans (sameHome_entered r.port r (received r s))
  have writing' := sameHome_writing r.port r s
  have atWriting := plainWrite_of_sameHome writing' h
  have away : r.src ≠ nodeId (heldWrite r (reqLine s r) (writing r s)) := by
    rw [heldWrite_writing h, nodeId_of_heard (heard_written r.port r s)]
    exact h.other
  have quiet : Quiet (written r s) := (wroteLine_held _ _ atWriting.quiet).2.2.2
  obtain ⟨w, rfl, kept, admitted⟩ : ∃ w : Waiter, w.req = r ∧ w.lost = false ∧
      homeRequest r.op r s = settle (startReq w (entered r (received r s))) :=
    ⟨arrival _ r (received r s), rfl, rfl,
      (homeRequest_served h.toServedAtOnce).trans (admitNew_write _ (plainWrite_of_sameHome received' h))⟩
  refine ⟨w, rfl, ?_⟩
  calc homeRequest w.req.op w.req s
    _ = settle (startReq w (entered w.req (received w.req s))) := admitted
    _ = settle (launch (writeTxn w (reqLine s w.req)) (entered w.req (received w.req s))) := by
      rw [startReq_write (plainWrite_of_sameHome entered' h) (entered'.reqLine _) kept]
    _ = settle (complete (servedTxn w (reqLine s w.req)) (writing w.req s)) := by
      rw [launch_write (plainWrite_of_sameHome entered' h) (entered'.reqLine _)]
      rfl
    _ = settle (endedWrite w (reqLine s w.req) (written w.req s)) := by
      rw [complete_write atWriting (writing'.reqLine _) away, heldWrite_writing h]
    _ = endedWrite w (reqLine s w.req) (written w.req s) := settle_of_quiet (quiet_endedWrite quiet)

theorem homeRequest_writeHeld {s : State} {r : Req} (h : PlainWrite s r) :
    ∃ f, WriteHeld s r (homeRequest r.op r s) f (writeLine r (writing r s)) := by
  obtain ⟨w, rfl, run⟩ := homeRequest_write h
  have heard := heard_written w.req.port w.req s
  obtain ⟨line, page, dir, quiet⟩ := wroteLine_held (reqLine s w.req) (writeLine w.req (writing w.req s))
    ((sameHome_writing w.req.port w.req s).quiet h.quiet)
  have quay := endedWrite_quay w (reqLine s w.req) (written w.req s)
  refine ⟨{ persisted := assured (written w.req s) }, ?_, ?_, ?_, ?_, ?_, ?_⟩ <;> rw [run]
  · rw [← nodeId_of_heard heard]
    exact sent_endedWrite heard h.up
  · exact (congrArg (fun q : Quay => sget none q.lines (reqLine s w.req).toNat) quay).trans line
  · exact (congrArg (fun q : Quay => dDirty (sget 0 q.desc (pageOf (reqLine s w.req)))) quay).trans page
  · exact (quiet_endedWrite quiet).1
  · exact (congrArg Quay.dir quay).trans (dir.trans (sameHome_writing 0 w.req s).dir)
  · exact (endedWrite_mem ..).trans heard.mem

/-- Settles O6: the write runs from its receipt to its answer, and the line that it leaves has every byte, or the bytes of its mask. -/
theorem writesAreHeld : Obligations.WritesAreHeld := by
  unfold Obligations.WritesAreHeld
  intro s r served unheld clean
  refine ⟨?_, fun some' part => ?_⟩
  · have write : PlainWrite s (asked 0x08 r) := ⟨servedAtOnce_asked served 0x08, .inl rfl, unheld, clean⟩
    obtain ⟨f, sent, line, page, txns, dir, mem⟩ := homeRequest_writeHeld write
    exact ⟨homeRequest 0x08 r s, f, writeLine (asked 0x08 r) (writing (asked 0x08 r) s), rfl, sent, line, rfl, rfl, rfl, rfl, page, txns,
      dir, mem⟩
  · have write : PlainWrite s (asked 0x09 r) := ⟨servedAtOnce_asked served 0x09, .inr ⟨rfl, some', part⟩, unheld, clean⟩
    obtain ⟨f, sent, line, page, txns, dir, mem⟩ := homeRequest_writeHeld write
    exact ⟨homeRequest 0x09 r s, f, writeLine (asked 0x09 r) (writing (asked 0x09 r) s), rfl, sent, line, if_neg part, rfl, rfl, page, txns,
      dir, mem⟩

end Sys2Proof.Laws
end

section
/-! PROOFS. Reads of a line in an Unbacked page (R49): the statement fails where the line waits to be orphaned (R47, R57). -/

namespace Sys2Proof.Laws

open Sys2Proof Sys2Proof.Machine

/-- The answer to a read of a line that waits to be orphaned carries no line. -/
theorem orphanRead_sends_no_line {t : State} {h : BitVec 128} (run : exec (.rdCur orphanRead) orphanWaits = .next t) :
    ¬ Sent 0 { hdr := h, body := lineSlots 0 } orphanWaits t := by
  rintro ⟨pre, sent⟩
  obtain ⟨u, run', -, egress⟩ := orphanRead_fails
  cases run.symm.trans run'
  have last := congrArg List.getLast? (egress.symm.trans sent)
  simp [lineSlots] at last

/-- Refutes O50: the statement asks that no page operation stand in the table, not that no line of the page wait for an entry of it. A
read of a line that waits to be orphaned is answered ERR_DATA (R57), though its page is Unbacked. -/
theorem not_unbackedReadsZero : ¬ Obligations.UnbackedReadsZero := by
  intro h
  obtain ⟨t, op, f, run, sent, -⟩ := h .rdCur (by simp) orphanWaits orphanRead orphanRead_servedAtOnce.toAtHome (by decide +kernel)
    (by decide +kernel) rfl (by decide +kernel)
  exact orphanRead_sends_no_line run sent

end Sys2Proof.Laws
end

section
/-! PROOFS. A ring command that stands alone (R346): it starts at once, and its end leaves its status, its detail and its result for the post. -/

namespace Sys2Proof.Laws

open Sys2Proof Sys2Proof.Machine

/-! ## The start -/

/-- `x`, a stage of the command `c` that has not ended, stands alone in the rings, and nothing waits at the home. -/
structure Underway (u : State) (c x : RCmd) : Prop where
  cmds : u.rings.cmds = [x]
  ring : x.ring = c.ring
  idx : x.idx = c.idx
  entry : x.entry = c.entry
  going : x.finished = false
  quiet : Quiet u

/-- The command as it starts. -/
def startedCmd (c : RCmd) : RCmd := { c with started := true }

/-- The state in which the command has started. -/
def begun (c : RCmd) (s : State) : State := { s with rings.cmds := [startedCmd c] }

theorem modCmd_of_single {s : State} {x : RCmd} (h : s.rings.cmds = [x]) (f : RCmd → RCmd) :
    modCmd x.ring x.idx f s = { s with rings.cmds := [f x] } := by
  simp [modCmd, h]

section
variable {s : State} {c : RCmd} {op : Nat} (h : CommandAlone s c op)
include h

theorem underway_begun : Underway (begun c s) c (startedCmd c) := by
  obtain ⟨-, unended, -⟩ := h.fresh
  exact ⟨rfl, rfl, rfl, rfl, unended, h.quiet⟩

theorem cmdOf_of_alone : cmdOf s c.ring c.idx = some c := by simp [cmdOf, h.cmds]

/-- No command stands before it, and no SNAPSHOT beside it. -/
theorem mayStart_of_alone : mayStart s c = true := by
  have first : earlier s c = [] := by simp [earlier, h.cmds]
  have few : (s.rings.cmds.filter isSnapshot).length < 4 := by
    rw [h.cmds]
    exact (List.length_filter_le ..).trans_lt (by simp)
  simp [mayStart, first, few]

theorem runCmd_of_alone (first more : RCmd → State → State) :
    runCmd op first more c.ring c.idx s = .next (settle (first (startedCmd c) (begun c s))) := by
  obtain ⟨unstarted, unended, -⟩ := h.fresh
  have start : modCmd c.ring c.idx (fun x => { x with started := true }) s = begun c s := modCmd_of_single h.cmds _
  unfold runCmd
  rw [cmdOf_of_alone h]
  dsimp only
  rw [if_neg (by simp [h.op, unended]), if_neg (by simp [unstarted]), if_neg (by simp [mayStart_of_alone h]), start]
  rfl

end

/-! ## The end -/

theorem quiet_saveCmd (c : RCmd) {s : State} (h : Quiet s) : Quiet (saveCmd c s) := h

section
variable {u : State} {c x : RCmd} (h : Underway u c x)
include h

/-- What touches neither the rings nor what waits at the home leaves the command under way. -/
theorem Underway.keep {v : State} (rings : v.rings = u.rings) (quiet : Quiet v) : Underway v c x :=
  ⟨rings ▸ h.cmds, h.ring, h.idx, h.entry, h.going, quiet⟩

theorem Underway.within {p : Parts} {v : State} (w : Within p u v) (k : p.rings = false) (quiet : Quiet v) : Underway v c x :=
  h.keep (keeps_rings w.same k) quiet

/-- The command goes on as `y`. -/
theorem Underway.save {y : RCmd} (ring : y.ring = c.ring) (idx : y.idx = c.idx) (entry : y.entry = c.entry) (going : y.finished = false) :
    Underway (saveCmd y u) c y := by
  refine ⟨?_, ring, idx, entry, going, h.quiet⟩
  rw [saveCmd, ring, idx, ← h.ring, ← h.idx, modCmd_of_single h.cmds]

theorem Underway.ended {y : RCmd} (ring : y.ring = c.ring) (idx : y.idx = c.idx) (status : BitVec 6) (detail : BitVec 8) (result : Nat) :
    Ended (finish y status detail result u) c status detail result := by
  refine ⟨{ x with started := true, finished := true, status := status, detail := detail, result := BitVec.ofNat 64 result }, ?_,
    h.ring, h.idx, h.entry, rfl, rfl, rfl, rfl⟩
  simp [finish, endCmd, h.cmds, ring, idx, h.ring, h.idx, h.going]

end

/-- A run that comes to the end of the command. -/
theorem ends_of_run {s u : State} {c x y : RCmd} {i : Instr} {status : BitVec 6} {detail : BitVec 8} {result : Nat} {P : State → Prop}
    (run : exec i s = .next (settle (finish y status detail result u))) (going : Underway u c x) (ring : y.ring = c.ring)
    (idx : y.idx = c.idx) (rest : P (finish y status detail result u)) :
    ∃ t, exec i s = .next t ∧ Ended t c status detail result ∧ P t := by
  have quiet : Quiet (finish y status detail result u) := going.quiet
  exact ⟨_, run.trans (congrArg _ (settle_of_quiet quiet)), going.ended ring idx status detail result, rest⟩

end Sys2Proof.Laws
end

section
/-! PROOFS. PIN_HOT, UNPIN, DEMOTE and PREFETCH of one page (R65, R356). -/

namespace Sys2Proof.Laws

open Sys2Proof Sys2Proof.Machine

/-! ## One page -/

theorem rangePages_page (page : Nat) : rangePages (page * 4096) 4096 = [page] := by simp [rangePages]

theorem framePending_of_restored {s : State} (restored : s.led.pending = false) (page : Nat) : framePending s page = false := by
  simp [framePending, restored]

theorem opOf_of_none {s : State} (ops : s.tier.ops = []) (page : Nat) : opOf s page = none := by simp [opOf, ops]

/-! ## States of descriptors -/

/-- A value that is placed above the lowest `k` bits leaves them zero. -/
theorem extractLsb'_place_above {w : Nat} (n : Nat) {lo k : Nat} (above : k ≤ lo) (v : BitVec w) : (place n lo v).extractLsb' 0 k = 0 := by
  ext i hi
  have low : i < lo := by omega
  simp [place, low]

theorem dStateRaw_dFlag (d : BitVec 128) {bit : Nat} (above : 3 ≤ bit) (v : Bool) : dStateRaw (dFlag d bit v) = dStateRaw d := by
  have low : (dFlag d bit v).extractLsb' 0 3 = d.extractLsb' 0 3 := by
    ext i hi
    have : i < bit := by omega
    simp [dFlag, setField, this]
    grind
  rw [dStateRaw, low, dStateRaw]

theorem dView_of_sound {d : BitVec 128} (sound : dReserved d = false) : dView d = d := by simp [dView, sound]

/-- A reserved descriptor is seen as Poisoned (R45). -/
theorem dState_of_reserved {d : BitVec 128} (reserved : dReserved d = true) : dState (dView d) = .poisoned := by
  have low (m : BitVec 64) : dStateRaw (mkMasked d .poisoned none m) = some .poisoned := by
    have code : (mkMasked d .poisoned none m).extractLsb' 0 3 = 5 := by
      have common : (dCommon d .poisoned).extractLsb' 0 3 = 5 := by
        simp [dCommon, BitVec.extractLsb'_or, BitVec.extractLsb'_and, pageStCode]
      simp [mkMasked, BitVec.extractLsb'_or, extractLsb'_place_above, common]
    simp [dStateRaw, code]
  have view : dView d = mkMasked d .poisoned none (BitVec.allOnes 64) := by simp [dView, reserved]
  have kept : dReserved (mkMasked d .poisoned none (BitVec.allOnes 64)) = false := by simp [dReserved, low]
  rw [view, dState, dView_of_sound kept, low]
  rfl

theorem sound_of_state {s : State} {page : Nat} (state : dState (descOf s page) ≠ .poisoned) : dReserved (descRaw s page) = false := by
  by_contra reserved
  exact state (dState_of_reserved (by simpa using reserved))

/-- A Hot descriptor stays Hot under a flag. -/
theorem dState_dFlag_of_hot {d : BitVec 128} (sound : dReserved d = false) (hot : dState d = .hot) {bit : Nat} (above : 3 ≤ bit)
    (v : Bool) : dState (dView (dFlag d bit v)) = .hot := by
  have raw : dStateRaw d = some .hot := by
    rw [dState, dView_of_sound sound] at hot
    cases e : dStateRaw d <;> simp_all
  have flagged : dStateRaw (dFlag d bit v) = some .hot := (dStateRaw_dFlag d above v).trans raw
  have kept : dReserved (dFlag d bit v) = false := by simp [dReserved, flagged]
  rw [dView_of_sound kept, dState, dView_of_sound kept, flagged]
  rfl

/-! ## PIN_HOT and UNPIN -/

theorem view_pinMirror (page : Nat) (v : Bool) (s : State) : pageView (pinMirror page v s) = pageView s :=
  view_of_within (pinMirror_within ..) rfl (by rw [within_reins (pinMirror_within ..) rfl])

theorem pinMirror_pending (page : Nat) (v : Bool) (s : State) : (pinMirror page v s).led.pending = s.led.pending := by
  unfold pinMirror setMirror mapChanged
  dsimp only
  split <;> rfl

section
variable {s : State} {page : Nat} {v : Bool} (sound : dReserved (descRaw s page) = false) (other : dPin (descOf s page) = !v)
include sound other

theorem setPin_of_sound : setPin page v s = pinMirror page v (setDesc page (dFlag (descOf s page) 26 v) s) := by
  unfold setPin
  simp [descFix_of_sound sound, other]

theorem view_setPin : pageView (setPin page v s) = (pageView s).withDesc page (dFlag (descOf s page) 26 v) := by
  rw [setPin_of_sound sound other, view_pinMirror, view_setDesc]

theorem setPin_pending : (setPin page v s).led.pending = s.led.pending := by
  rw [setPin_of_sound sound other, pinMirror_pending, within_led (setDesc_within ..) rfl]

end

theorem underway_setPin {u : State} {c x : RCmd} {page : Nat} {v : Bool} (h : Underway u c x) (sound : dReserved (descRaw u page) = false)
    (other : dPin (descOf u page) = !v) : Underway (setPin page v u) c x :=
  h.within (setPin_within ..) rfl (quiet_of_withDesc (view_setPin sound other) h.quiet)

/-- PIN_HOT ends when its page is where it brings it to. -/
theorem pinMore_done {c : RCmd} {page : Nat} {u : State} (waits : c.waits = [page]) (done : pinDone u page = true) :
    pinMore c u = finish c 0 0 (eLen c.entry / 4096) (saveCmd { c with waits := [] } u) := by
  simp [pinMore, waits, done]

theorem pinDone_of_hot {u : State} {page : Nat} (ops : u.tier.ops = []) (restored : u.led.pending = false)
    (hot : dState (descOf u page) = .hot) : pinDone u page = true := by
  simp [pinDone, opOf_of_none ops, framePending_of_restored restored, hot]

section
variable {s : State} {c : RCmd} {page : Nat}

theorem exec_pinHot (h : CommandAlone s c 0x05) (len : eLen c.entry = 4096) (dst : eDst c.entry = page * 4096)
    (fits : pinFits s [page] = true) :
    exec (.pinHot c.ring c.idx) s =
      .next (settle (pinMore { startedCmd c with waits := [page] } (setPin page true (begun c s)))) := by
  have fits' : pinFits (begun c s) [page] = true := fits
  show execPinHot c.ring c.idx s = _
  rw [execPinHot, runCmd_of_alone h]
  simp [startedCmd, len, dst, rangePages_page, fits']

theorem pinHot_ends (h : CommandAlone s c 0x05) (len : eLen c.entry = 4096) (dst : eDst c.entry = page * 4096)
    (hot : dState (descOf s page) = .hot) (unpinned : dPin (descOf s page) = false) (sound : dReserved (descRaw s page) = false)
    (fits : pinFits s [page] = true) :
    ∃ t, exec (.pinHot c.ring c.idx) s = .next t ∧ Ended t c 0 0 1 ∧ descRaw t page = dFlag (descOf s page) 26 true := by
  have view := view_setPin (s := begun c s) (v := true) sound unpinned
  have pinned : descRaw (setPin page true (begun c s)) page = dFlag (descOf s page) 26 true := descRaw_of_withDesc view
  have still : dState (descOf (setPin page true (begun c s)) page) = .hot := by
    rw [descOf, pinned, descOf, dView_of_sound sound]
    exact dState_dFlag_of_hot sound (dView_of_sound sound ▸ hot) (by omega) true
  have done : pinDone (setPin page true (begun c s)) page = true :=
    pinDone_of_hot ((congrArg PageView.ops view).trans h.ops) ((setPin_pending (s := begun c s) (v := true) sound unpinned).trans h.restored) still
  have going := underway_setPin (underway_begun h) (v := true) sound unpinned
  have run := exec_pinHot h len dst fits
  rw [pinMore_done rfl done, show eLen (startedCmd c).entry = 4096 from len] at run
  exact ends_of_run run (going.save (y := { startedCmd c with waits := [] }) rfl rfl rfl going.going) rfl rfl pinned

theorem exec_unpin (h : CommandAlone s c 0x06) (len : eLen c.entry = 4096) (dst : eDst c.entry = page * 4096)
    (free : queuePageOf s page = false) :
    exec (.unpin c.ring c.idx) s = .next (settle (finish (startedCmd c) 0 0 1 (setPin page false (begun c s)))) := by
  have free' : queuePageOf (begun c s) page = false := free
  show execUnpin c.ring c.idx s = _
  rw [execUnpin, runCmd_of_alone h]
  simp [startedCmd, len, dst, rangePages_page, free', twoCounts]

theorem unpin_ends (h : CommandAlone s c 0x06) (len : eLen c.entry = 4096) (dst : eDst c.entry = page * 4096)
    (pinned : dPin (descOf s page) = true) (sound : dReserved (descRaw s page) = false) (free : queuePageOf s page = false) :
    ∃ t, exec (.unpin c.ring c.idx) s = .next t ∧ Ended t c 0 0 1 ∧ descRaw t page = dFlag (descOf s page) 26 false :=
  have view := view_setPin (s := begun c s) (v := false) sound pinned
  ends_of_run (exec_unpin h len dst free) (underway_setPin (underway_begun h) (v := false) sound pinned) rfl rfl
    (descRaw_of_withDesc view)

end

/-! ## DEMOTE -/

/-- A page that may move to Cold does so at once. -/
theorem demotePage_moves {s : State} {page : Nat} (ops : s.tier.ops = []) (restored : s.led.pending = false)
    (sound : dReserved (descRaw s page) = false) (hot : dState (descOf s page) = .hot) (ok : coldOk s page = true) :
    demotePage true page s = (.moved, moveToCold page s) := by
  have unpinned : dPin (descOf s page) = false := by
    simp only [coldOk, Bool.and_eq_true, Bool.not_eq_true'] at ok
    exact ok.1.2
  simp [demotePage, opOf_of_none ops, framePending_of_restored restored, descFix_of_sound sound, hot, ok, unpinned]

/-- The page's storage is freed and its rekey's mark falls back: neither changes what the descriptor update has left in the Quay cache. -/
theorem moveToCold_quay (page : Nat) (s : State) : (moveToCold page s).quay = (setDesc page (coldDesc s page) s).quay :=
  (within_quay (freeStorage_within ..) rfl).trans (within_quay (remark_within ..) rfl)

theorem moveToCold_reins (page : Nat) (s : State) : (moveToCold page s).reins = s.reins := within_reins (moveToCold_within ..) rfl

theorem descRaw_moveToCold (page : Nat) (s : State) : descRaw (moveToCold page s) page = coldDesc s page := by
  rw [descRaw, moveToCold_quay]
  exact descRaw_of_withDesc (view_setDesc page (coldDesc s page) s)

theorem underway_moveToCold {u : State} {c x : RCmd} (h : Underway u c x) (page : Nat) : Underway (moveToCold page u) c x := by
  have updated : Quiet (setDesc page (coldDesc u page) u) := quiet_of_withDesc (view_setDesc ..) h.quiet
  refine h.within (moveToCold_within ..) rfl (quiet_of_kept updated (moveToCold_quay ..) ?_)
  rw [moveToCold_reins, within_reins (setDesc_within ..) rfl]

/-- The command when its page has moved. -/
def demoted (c : RCmd) : RCmd := { c with waits := [], first := [], result := 1 }

theorem demoteMore_moved {c : RCmd} {page : Nat} {u v : State} (waits : c.waits = []) (first : c.first = [page]) (result : c.result = 0)
    (toCold : (eArg0 c.entry).getLsbD 0 = true) (moved : demotePage true page u = (.moved, v)) :
    demoteMore c u = finish c 0 0 1 (saveCmd (demoted c) v) := by
  have none : BitVec.ofNat 64 (twoCounts (fieldNat (0 : BitVec 64) 31 0 + 0) (fieldNat (0 : BitVec 64) 63 32 + 0)) = 0 := by decide
  have one : BitVec.ofNat 64 (twoCounts (fieldNat (0 : BitVec 64) 31 0 + 1) (fieldNat (0 : BitVec 64) 63 32 + 0)) = 1 := by decide
  unfold demoteMore
  simp only [waits, first, result, toCold, List.filter_nil, List.length_nil, Nat.sub_zero, none, List.foldl_cons, List.foldl_nil, moved, one]
  rfl

section
variable {s : State} {c : RCmd} {page : Nat}

theorem exec_demote (h : CommandAlone s c 0x07) (len : eLen c.entry = 4096) (dst : eDst c.entry = page * 4096) :
    exec (.demote c.ring c.idx) s = .next (settle (demoteMore { startedCmd c with first := [page] } (begun c s))) := by
  show execDemote c.ring c.idx s = _
  rw [execDemote, runCmd_of_alone h]
  simp [startedCmd, len, dst, rangePages_page]

theorem demote_ends (h : CommandAlone s c 0x07) (len : eLen c.entry = 4096) (dst : eDst c.entry = page * 4096)
    (toCold : (eArg0 c.entry).getLsbD 0 = true) (hot : dState (descOf s page) = .hot) (sound : dReserved (descRaw s page) = false)
    (ok : coldOk s page = true) :
    ∃ t, exec (.demote c.ring c.idx) s = .next t ∧ Ended t c 0 0 1 ∧ descRaw t page = coldDesc s page := by
  obtain ⟨-, -, -, waits, -, -, result, -⟩ := h.fresh
  have moved := demotePage_moves (s := begun c s) h.ops h.restored sound hot ok
  have going := underway_moveToCold (underway_begun h) page
  have run := exec_demote h len dst
  rw [demoteMore_moved (c := { startedCmd c with first := [page] }) waits rfl result toCold moved] at run
  exact ends_of_run run (going.save (y := demoted { startedCmd c with first := [page] }) rfl rfl rfl going.going) rfl rfl
    (descRaw_moveToCold page (begun c s))

end

/-! ## PREFETCH -/

theorem openFault_of_none {page : Nat} {s : State} (mode : s.aon.mode = .service) (ops : s.tier.ops = []) (w : Work)
    (f : PageOp → PageOp) : openFault w page f s =
      evQb (descBank s page) 18 { s with tier.ops := [f { page := page, kind := .fault, cls := w.cls, due := w.due }] } := by
  have runs : tierRuns s = true := by simp [tierRuns, mode]
  have room : faultRoom s = true := by simp [faultRoom, opRoom, opCount, ops]
  simp [openFault, runs, opOf_of_none ops, room, setOps, ops]

/-- The demand fault that a PREFETCH opens (R65, R345). -/
def prefetchFault (s : State) (c : RCmd) (page : Nat) : PageOp :=
  { page := page, kind := .fault, hot := param s 0x02 4, cls := cmdClass s c, due := dueOf (tick s) (eDeadline c.entry) }

/-- The state in which that fault has opened. -/
def prefetching (c : RCmd) (page : Nat) (s : State) : State :=
  evQb (descBank s page) 18 { s with tier.ops := [prefetchFault s c page] }

theorem prefetching_ops (c : RCmd) (page : Nat) (s : State) : (prefetching c page s).tier.ops = [prefetchFault s c page] := by
  simp [prefetching]

theorem prefetching_quay (c : RCmd) (page : Nat) (s : State) : (prefetching c page s).quay = s.quay := by simp [prefetching]

theorem quiet_prefetching {c : RCmd} {page : Nat} {s : State} (h : Quiet s) : Quiet (prefetching c page s) :=
  quiet_of_kept h (prefetching_quay ..) (by simp [prefetching])

/-- PREFETCH waits for the fault that it has opened. -/
theorem prefetchMore_opens {c : RCmd} {page : Nat} {u : State} (waits : c.waits = [page]) (first : c.first = []) (mode : u.aon.mode = .service)
    (ops : u.tier.ops = []) (restored : u.led.pending = false) (cold : dState (descOf u page) = .cold) :
    prefetchMore c u = saveCmd { c with first := [page], result := c.result + 1 } (prefetching c page u) := by
  have sound : dReserved (descRaw u page) = false := sound_of_state (by simp [cold])
  have cold' : dState (descOf (prefetching c page u) page) = .cold := by
    rw [descOf, descRaw, prefetching_quay]
    exact cold
  have opened : openFault (accessWork (cmdClass u c) (eDeadline c.entry) u) page (fun o => { o with hot := max o.hot (param u 0x02 4) }) u =
      prefetching c page u := by
    rw [openFault_of_none mode ops]
    simp [prefetching, prefetchFault, accessWork]
  have there : opOf (prefetching c page u) page = some (prefetchFault u c page) := by
    simp [opOf, prefetching_ops, prefetchFault]
  have fault : (prefetchFault u c page).kind = .fault := rfl
  unfold prefetchMore
  simp [waits, first, framePending_of_restored restored, descFix_of_sound sound, cold, opened, there, fault, cold']

section
variable {s : State} {c : RCmd} {page : Nat}

theorem exec_prefetch (h : CommandAlone s c 0x08) (len : eLen c.entry = 4096) (dst : eDst c.entry = page * 4096) :
    exec (.prefetch c.ring c.idx) s = .next (settle (prefetchMore { startedCmd c with waits := [page] } (begun c s))) := by
  show execPrefetch c.ring c.idx s = _
  rw [execPrefetch, runCmd_of_alone h]
  simp [startedCmd, len, dst, rangePages_page]

theorem prefetch_opens (h : CommandAlone s c 0x08) (len : eLen c.entry = 4096) (dst : eDst c.entry = page * 4096)
    (mode : s.aon.mode = .service) (cold : dState (descOf s page) = .cold) :
    ∃ t, exec (.prefetch c.ring c.idx) s = .next t ∧ t.tier.ops = [prefetchFault s c page] := by
  obtain ⟨-, -, -, -, first, -⟩ := h.fresh
  have opened := prefetchMore_opens (c := { startedCmd c with waits := [page] }) (u := begun c s) rfl first mode h.ops h.restored cold
  have run := exec_prefetch h len dst
  rw [opened, settle_of_quiet (quiet_saveCmd _ (quiet_prefetching (underway_begun h).quiet))] at run
  exact ⟨_, run, prefetching_ops { startedCmd c with waits := [page] } page (begun c s)⟩

end

end Sys2Proof.Laws
end

section
/-! PROOFS. PERSIST_BARRIER (R353): the pages that it waits for, and the writeback of one dirty page (R33, R195, R203, R208). -/

namespace Sys2Proof.Laws

open Sys2Proof Sys2Proof.Machine

/-! ## The set of a barrier -/

/-- The dirty pages of the range of a barrier, or of the whole space. -/
def barrierPages (c : RCmd) (s : State) : List Nat :=
  (s.quay.desc.filter (fun e => dDirty (dView e.2) &&
    (eLen c.entry = 0 || (eSrc c.entry / 4096 ≤ e.1 && e.1 < eSrc c.entry / 4096 + eLen c.entry / 4096)))).map Prod.fst

/-- Pages are queued for writeback. -/
def queuedAll (ps : List Nat) (s : State) : State := ps.foldl (fun t p => queuePage p (staleSegs p t)) s

/-- The pages of a barrier go first in the queue. -/
def barrierSet (c : RCmd) (ps : List Nat) (s : State) : State :=
  { queuedAll ps s with
    led.queue := (queuedAll ps s).led.queue.filter (fun p => ps.contains p) ++ (queuedAll ps s).led.queue.filter (fun p => !ps.contains p),
    led.barriers := (queuedAll ps s).led.barriers ++ [(c.ring, c.idx, ps)] }

/-- The command with the number of its pages. -/
def barrierCmd (c : RCmd) (ps : List Nat) : RCmd := { startedCmd c with result := BitVec.ofNat 64 ps.length }

theorem exec_persistBarrier {s : State} {c : RCmd} (h : CommandAlone s c 0x09) :
    exec (.persistBarrier c.ring c.idx) s = .next (settle (barrierEnd (barrierCmd c (barrierPages c s))
      (packQueued (saveCmd (barrierCmd c (barrierPages c s)) (barrierSet c (barrierPages c s) (begun c s)))))) := by
  show execPersistBarrier c.ring c.idx s = _
  rw [execPersistBarrier, runCmd_of_alone h]
  rfl

theorem barrierEnd_of_clean {c : RCmd} {ps : List Nat} {s : State} (only : s.led.barriers = [(c.ring, c.idx, ps)])
    (clean : ∀ p ∈ ps, dDirty (descOf s p) = false) :
    barrierEnd c s = finish c 0 0 c.result.toNat { s with led.barriers := [] } := by
  have all : ps.all (fun p => !dDirty (descOf s p)) = true := by simpa using clean
  simp [barrierEnd, only, all]

theorem barrierEnd_of_dirty {c : RCmd} {ps : List Nat} {page : Nat} {s : State} (only : s.led.barriers = [(c.ring, c.idx, ps)])
    (waits : page ∈ ps) (dirty : dDirty (descOf s page) = true) : barrierEnd c s = s := by
  have some' : ps.all (fun p => !dDirty (descOf s p)) = false := by
    simp only [List.all_eq_false]
    exact ⟨page, waits, by simp [dirty]⟩
  simp [barrierEnd, only, some']

/-! ## A barrier with nothing to wait for -/

theorem barrierPages_of_clean {c : RCmd} {s : State} (clean : ∀ e ∈ s.quay.desc, dDirty (dView e.2) = false) : barrierPages c s = [] := by
  have none : s.quay.desc.filter (fun e => dDirty (dView e.2) &&
      (eLen c.entry = 0 || (eSrc c.entry / 4096 ≤ e.1 && e.1 < eSrc c.entry / 4096 + eLen c.entry / 4096))) = [] := by
    rw [List.filter_eq_nil_iff]
    intro e he
    simp [clean e he]
  rw [barrierPages, none, List.map_nil]

theorem barrier_ends {s : State} {c : RCmd} (h : CommandAlone s c 0x09) (queue : s.led.queue = []) (barriers : s.led.barriers = [])
    (clean : ∀ e ∈ s.quay.desc, dDirty (dView e.2) = false) :
    ∃ t, exec (.persistBarrier c.ring c.idx) s = .next t ∧ Ended t c 0 0 0 ∧ t.led.barriers = [] ∧ t.quay.desc = s.quay.desc := by
  have set := (underway_begun h).keep (v := barrierSet c [] (begun c s)) rfl h.quiet
  have going := set.save (y := barrierCmd c []) rfl rfl rfl set.going
  have rests : (saveCmd (barrierCmd c []) (barrierSet c [] (begun c s))).led.queue = [] := by
    simp [saveCmd, modCmd, barrierSet, queuedAll, begun, queue]
  have only : (saveCmd (barrierCmd c []) (barrierSet c [] (begun c s))).led.barriers =
      [((barrierCmd c []).ring, (barrierCmd c []).idx, [])] := by
    simp [saveCmd, modCmd, barrierSet, queuedAll, begun, barriers, barrierCmd, startedCmd]
  have run := exec_persistBarrier h
  rw [barrierPages_of_clean clean, packQueued_of_queueEmpty rests, barrierEnd_of_clean only (by simp)] at run
  exact ends_of_run run (going.keep rfl going.quiet) rfl rfl ⟨rfl, rfl⟩

/-! ## The writeback of a page -/

theorem mem_of_sget {α : Type} {d v : α} {m : SMap α} {k : Nat} (h : sget d m k = v) (new : v ≠ d) : (k, v) ∈ m := by
  induction m with
  | nil => exact absurd h.symm new
  | cons e m ih =>
    obtain ⟨j, w⟩ := e
    rw [sget] at h
    split at h
    · subst_vars
      exact List.mem_cons_self
    · exact List.mem_cons_of_mem _ (ih h)

/-- A segment that has not committed holds a fresh copy of the page. -/
theorem inFlight_of_segment {s : State} {page seq : Nat} {g : Segment} {e : BitVec 128} (stands : sget none s.led.segs seq = some g)
    (uncommitted : g.committed = false) (fresh : g.stale = []) (entry : e ∈ g.entries) (names : sumPage e = page) :
    inFlight s page = true := by
  rw [inFlight, List.any_eq_true]
  refine ⟨_, mem_of_sget stands (by simp), ?_⟩
  have holds : g.entries.any (fun x => sumPage x = page) = true := List.any_eq_true.2 ⟨e, entry, by simp [names]⟩
  simp [uncommitted, fresh, holds]

theorem sumPage_mkSum {page : Nat} (inside : page < 2 ^ 33) (zero isSealed : Bool) (key : BitVec 20) (sizes : List Nat) (off : Nat)
    (pin : Bool) : sumPage (mkSum page zero isSealed key sizes off pin) = page := by
  have low : (mkSum page zero isSealed key sizes off pin).extractLsb' 0 33 = BitVec.ofNat 33 page := by
    have first : (place 128 0 (BitVec.ofNat 33 page)).extractLsb' 0 33 = BitVec.ofNat 33 page := by
      rw [place, BitVec.shiftLeft_zero, BitVec.extractLsb'_setWidth_of_le (by omega)]
      exact BitVec.extractLsb'_eq_self
    cases isSealed <;> simp [mkSum, BitVec.extractLsb'_or, extractLsb'_place_above, first]
  have field (x : BitVec 128) : fieldNat x 32 0 = (x.extractLsb' 0 33).toNat := by simp [fieldNat]
  rw [sumPage, field, low, BitVec.toNat_ofNat, Nat.mod_eq_of_lt inside]

/-- A segment with one image more. -/
def withImage (g : Segment) (page : Nat) (isSealed : Bool) (key : BitVec 20) (sizes : List Nat) (pin : Bool) : Segment :=
  { g with entries := g.entries ++ [mkSum page false isSealed key sizes (segUsed g) pin], bytes := g.bytes + 4096 }

theorem sget_appendImage {s : State} {seq : Nat} {g : Segment} (stands : sget none s.led.segs seq = some g) (page : Nat) (isSealed : Bool)
    (key : BitVec 20) (img : List Nat × List (BitVec 512)) (pin : Bool) :
    sget none (appendImage seq page isSealed key (some img) false pin s).led.segs seq =
      some (withImage g page isSealed key img.1 pin) := by
  simp only [appendImage, stands]
  exact sget_sset_same ..

theorem inFlight_appendImage {s : State} {page seq : Nat} {g : Segment} (stands : sget none s.led.segs seq = some g)
    (uncommitted : g.committed = false) (fresh : g.stale = []) (inside : page < 2 ^ 33) (isSealed : Bool) (key : BitVec 20)
    (img : List Nat × List (BitVec 512)) (pin : Bool) :
    inFlight (appendImage seq page isSealed key (some img) false pin s) page = true :=
  inFlight_of_segment (sget_appendImage stands page isSealed key img pin) uncommitted fresh
    (List.mem_append_right _ List.mem_cons_self) (sumPage_mkSum inside ..)

/-- What the writeback of a page does not change: the barriers that stand and the pages that are queued. -/
structure QueueKept (s t : State) : Prop where
  barriers : t.led.barriers = s.led.barriers
  queue : t.led.queue = s.led.queue

theorem queueKept_appendImage (seq page : Nat) (isSealed : Bool) (key : BitVec 20) (img : Option (List Nat × List (BitVec 512)))
    (clean pin : Bool) (s : State) : QueueKept s (appendImage seq page isSealed key img clean pin s) := by
  unfold appendImage
  split
  · exact ⟨rfl, rfl⟩
  · cases img <;> exact ⟨rfl, rfl⟩

/-- A segment that is opened is empty (R208). -/
theorem openLedgerSegment_opens {s t : State} {seq : Nat} (h : openLedgerSegment s = some (seq, t)) :
    ∃ g, sget none t.led.segs seq = some g ∧ g.committed = false ∧ g.stale = [] ∧ QueueKept s t := by
  obtain ⟨⟨i, k⟩, -, e⟩ := Option.map_eq_some_iff.1 h
  cases e
  exact ⟨{ ssd := BitVec.ofNat 5 i, start := segBase s + 256 * k }, by simp, rfl, rfl, by simp [peEv, deallocate],
    by simp [peEv, deallocate]⟩

theorem segmentFor_of_none {page n : Nat} {s : State} (segs : s.led.segs = []) : segmentFor page n s = openLedgerSegment s := by
  simp [segmentFor, segs]

/-- The image of a Warm page of which the Quay cache holds nothing is its run, which is read (R33). -/
theorem snapImage_of_warm {page : Nat} {s : State} {g : List (BitVec 512)} (warm : dState (descOf s page) = .warm)
    (run : readRun s page = some g) (unheld : ∀ q ∈ quayLines s page, q = none) :
    snapImage page s =
      some (some (dSizesW (descOf s page), g), readGranules (ledgerClass s) page (List.range g.length) s) := by
  unfold snapImage
  dsimp only
  rw [if_pos, run]
  · rfl
  · simp only [warm, decide_true, Bool.true_and, List.all_eq_true]
    intro q hq
    rw [unheld q hq]

/-- The page has gone into a segment that has not committed; what the Quay cache holds, what waits and what is queued is as it was. -/
structure Packed (page : Nat) (s u : State) : Prop where
  flight : inFlight u page = true
  kept : QueueKept s u
  quay : u.quay = s.quay
  waiters : u.reins.waiters = s.reins.waiters

theorem packPage_of_warm {page : Nat} {s : State} {g : List (BitVec 512)} (inside : page < 2 ^ 33) (segs : s.led.segs = [])
    (warm : dState (descOf s page) = .warm) (run : readRun s page = some g) (unheld : ∀ q ∈ quayLines s page, q = none) :
    packPage page s = none ∨ ∃ u, packPage page s = some u ∧ Packed page s u := by
  have reads := readGranules_within (ledgerClass s) page (List.range g.length) s
  have view := view_readGranules (ledgerClass s) page (List.range g.length) s
  have pack := segmentFor_of_none (page := page) (n := imageLen (dSizesW (descOf s page)))
    ((congrArg Ledger.segs (within_led reads rfl)).trans segs)
  unfold packPage
  rw [snapImage_of_warm warm run unheld]
  dsimp only
  rw [pack]
  cases opened : openLedgerSegment (readGranules (ledgerClass s) page (List.range g.length) s) with
  | none => exact .inl rfl
  | some x =>
    obtain ⟨seq, w⟩ := x
    obtain ⟨seg, stands, uncommitted, fresh, kept⟩ := openLedgerSegment_opens opened
    have opens := (openLedgerSegment_within _).imp _ _ opened
    dsimp only
    cases image : imageOf w (dSealed (descOf (readGranules (ledgerClass s) page (List.range g.length) s) page))
      (dKey (descOf (readGranules (ledgerClass s) page (List.range g.length) s) page)) seq page g with
    | none => exact .inl rfl
    | some data =>
      refine .inr ⟨_, rfl, inFlight_appendImage stands uncommitted fresh inside .., ?_, ?_, ?_⟩
      · obtain ⟨barriers, queue⟩ := queueKept_appendImage seq page _ _ (some (dSizesW (descOf s page), data)) false _ w
        have same := within_led reads rfl
        exact ⟨barriers.trans (kept.barriers.trans (congrArg Ledger.barriers same)),
          queue.trans (kept.queue.trans (congrArg Ledger.queue same))⟩
      · exact (within_quay (appendImage_within ..) rfl).trans ((within_quay opens rfl).trans (within_quay reads rfl))
      · rw [within_reins (appendImage_within ..) rfl, within_reins opens rfl]
        exact congrArg PageView.waiters view

/-- A page leaves the queue. -/
def unqueued (page : Nat) (s : State) : State := { s with led.queue := s.led.queue.filter (· ≠ page) }

theorem packQueued_of_single {page : Nat} {s : State} (queue : s.led.queue = [page]) (dirty : dDirty (descOf s page) = true)
    (segs : s.led.segs = []) (ops : s.tier.ops = []) :
    packQueued s = (packPage page s).elim s (unqueued page) := by
  have idle : inFlight s page = false := by simp [inFlight, segs]
  have free : pageBars s page false = false := by simp [pageBars, opOf_of_none ops]
  simp only [packQueued, queue, List.foldl_cons, List.foldl_nil, dirty, idle, free, Bool.not_true, Bool.or_self, Bool.false_eq_true,
    if_false]
  cases packPage page s <;> rfl

/-- The page waits in the queue still, or is on its way. -/
structure WritesBack (page : Nat) (s t : State) : Prop where
  onItsWay : page ∈ t.led.queue ∨ inFlight t page = true
  barriers : t.led.barriers = s.led.barriers
  quay : t.quay = s.quay
  waiters : t.reins.waiters = s.reins.waiters

theorem packQueued_writesBack {page : Nat} {s : State} {g : List (BitVec 512)} (queue : s.led.queue = [page])
    (dirty : dDirty (descOf s page) = true) (ops : s.tier.ops = []) (inside : page < 2 ^ 33) (segs : s.led.segs = [])
    (warm : dState (descOf s page) = .warm) (run : readRun s page = some g) (unheld : ∀ q ∈ quayLines s page, q = none) :
    WritesBack page s (packQueued s) := by
  rw [packQueued_of_single queue dirty segs ops]
  obtain waits | ⟨u, packed, flight, kept, quay, waiters⟩ := packPage_of_warm inside segs warm run unheld
  · rw [waits]
    exact ⟨.inl (by simp [queue]), rfl, rfl, rfl⟩
  · rw [packed]
    exact ⟨.inr flight, kept.barriers, quay, waiters⟩

/-! ## A barrier that waits for a page -/

theorem barrierPages_of_single {c : RCmd} {s : State} {page : Nat} {d : BitVec 128} (all : eLen c.entry = 0)
    (desc : s.quay.desc = [(page, d)]) (dirty : dDirty (dView d) = true) : barrierPages c s = [page] := by
  simp [barrierPages, all, desc, dirty]

/-- The state in which one page of a barrier is written back. -/
def barrierBegun (c : RCmd) (page : Nat) (s : State) : State :=
  { s with rings.cmds := [barrierCmd c [page]], led.queue := [page], led.segs := [], led.barriers := [(c.ring, c.idx, [page])] }

theorem barrierSet_of_single {c : RCmd} {page : Nat} {s : State} (queue : s.led.queue = []) (barriers : s.led.barriers = [])
    (segs : s.led.segs = []) : saveCmd (barrierCmd c [page]) (barrierSet c [page] (begun c s)) = barrierBegun c page s := by
  simp [saveCmd, modCmd, barrierSet, queuedAll, queuePage, staleSegs, begun, barrierBegun, barrierCmd, startedCmd, queue, barriers, segs]

theorem readRun_barrierBegun (c : RCmd) (p : Nat) (s : State) (page : Nat) : readRun (barrierBegun c p s) page = readRun s page := rfl

theorem barrier_waits {s : State} {c : RCmd} {page : Nat} {d : BitVec 128} {g : List (BitVec 512)} (h : CommandAlone s c 0x09)
    (all : eLen c.entry = 0) (queue : s.led.queue = []) (barriers : s.led.barriers = []) (segs : s.led.segs = [])
    (desc : s.quay.desc = [(page, d)]) (inside : page < 2 ^ 33) (dirty : dDirty (dView d) = true) (warm : dState (dView d) = .warm)
    (run : readRun s page = some g) (unheld : ∀ q ∈ quayLines s page, q = none) :
    ∃ t x, exec (.persistBarrier c.ring c.idx) s = .next t ∧ t.led.barriers = [(c.ring, c.idx, [page])] ∧ t.rings.cmds = [x] ∧
      x.started = true ∧ x.finished = false ∧ x.result = 1 ∧ (page ∈ t.led.queue ∨ inFlight t page = true) := by
  obtain ⟨-, unended, -⟩ := h.fresh
  have view : descOf s page = dView d := by simp [descOf, descRaw, desc, sget]
  obtain ⟨onItsWay, stands, quay, waiters⟩ := packQueued_writesBack (s := barrierBegun c page s) rfl (view ▸ dirty) h.ops inside rfl
    (view ▸ warm) ((readRun_barrierBegun ..).trans run) unheld
  have still : dDirty (descOf (packQueued (barrierBegun c page s)) page) = true := by
    rw [descOf, descRaw, quay]
    exact (view ▸ dirty : dDirty (descOf s page) = true)
  have quiet : Quiet (packQueued (barrierBegun c page s)) := quiet_of_kept (s := barrierBegun c page s) h.quiet quay waiters
  have run := exec_persistBarrier h
  rw [barrierPages_of_single all desc dirty, barrierSet_of_single queue barriers segs,
    barrierEnd_of_dirty (c := barrierCmd c [page]) stands List.mem_cons_self still, settle_of_quiet quiet] at run
  exact ⟨_, barrierCmd c [page], run, stands, congrArg Rings.cmds (keeps_rings (packQueued_within _).same rfl), rfl, unended, rfl, onItsWay⟩

end Sys2Proof.Laws
end

section
/-! PROOFS. QUERY_TIER and SCRUB_RANGE of one page (R355, R356). -/

namespace Sys2Proof.Laws

open Sys2Proof Sys2Proof.Machine

/-! ## QUERY_TIER -/

section
variable {s : State} {l : Line} (untouched : Untouched s l) (unheld : dirLine s l = 0)
include untouched unheld

/-- An untouched line that no node holds and no SNAPSHOT reads can be written now. -/
theorem storeReady_of_untouched (quiet : Quiet s) (restored : s.led.pending = false) (unmoved : snapHeld s l true = false)
    (cls : BitVec 8) (deadline : BitVec 12) : storeReady l cls deadline s = (true, s) := by
  have free : lineBusy s l = false := by simp [lineBusy, quiet.1]
  have unbarred : pageBars s (pageOf l) true = false := by simp [pageBars, opOf_of_none untouched.ops]
  have unowned : entryKind 0 = .none := by decide
  have unsnooped : ownSnoops s 8#8 l = [] := by rw [ownSnoops, dirEntry_of_zero unheld, planSnoops, unowned]
  simp [storeReady, free, unbarred, framePending_of_restored restored, unmoved, descFix_of_untouched untouched, dirFix_of_zero unheld,
    unsnooped, makeRoom_of_untouched untouched]

/-- One record is written as the first 16 bytes of its line. -/
theorem storeRecords_single (cls : BitVec 8) (r : BitVec 128) :
    storeRecords cls 1 l [r] s = (0, writeQuay l 0xFFFF (place 512 0 r) false cls (nodeId s) 0 s) := by
  have unowned : entryKind 0#128 ≠ .any := by decide
  have undirected : setDir l 0#128 s = s := setDir_zero unheld
  simp [storeRecords, takesKey_of_untouched untouched, dirEntry_of_zero unheld, unowned, undirected]

end

/-- A command that is no SNAPSHOT holds no write. -/
theorem snapHeld_of_other {s : State} {x : RCmd} (cmds : s.rings.cmds = [x]) (other : eOp x.entry ≠ 0x0A) (l : Line) :
    snapHeld s l true = false := by
  have plain : isSnapshot x = false := by simpa [isSnapshot, eOp] using fun _ _ => other
  simp [snapHeld, cmds, snapWants, plain]

theorem untouched_begun {s : State} {l : Line} (h : Untouched s l) (c : RCmd) : Untouched (begun c s) l :=
  ⟨h.page, h.line, h.room, h.plain, h.ops⟩

/-- The line that one record leaves in the Quay data partition. -/
def recordLine (s : State) (cls : BitVec 8) (r : BitVec 128) : QLine :=
  newLine 0xFFFF (place 512 0 r) cls (nodeId s) 0 s.quay.useStamp

theorem recordLine_data (s : State) (cls : BitVec 8) (r : BitVec 128) :
    (recordLine s cls r).data = overlay 0xFFFF (place 512 0 r) 0 := by
  simp only [recordLine, newLine]
  exact if_neg (by decide)

section
variable {s : State} {c : RCmd} {page : Nat} {l : Line}

theorem exec_queryTier (h : CommandAlone s c 0x0B) (len : eLen c.entry = 4096) :
    exec (.queryTier c.ring c.idx) s = .next (settle (queryMore (startedCmd c) (begun c s))) := by
  show execQueryTier c.ring c.idx s = _
  rw [execQueryTier, runCmd_of_alone h]
  simp [startedCmd, len]

theorem queryMore_single {u : State} (len : eLen c.entry = 4096) (src : eSrc c.entry = page * 4096) (dst : eDst c.entry = l.toNat * 64)
    (sound : dReserved (descRaw u page) = false) (restored : u.led.pending = false)
    (ready : storeReady l (cmdClass u c) (eDeadline c.entry) u = (true, u)) {v : State}
    (stored : storeRecords (cmdClass u c) 1 l [tierRecord u page] u = (0, v)) : queryMore c u = finish c 0 0 1 v := by
  have pages : rangePages (eSrc c.entry) (eLen c.entry) = [page] := by rw [src, len, rangePages_page]
  have lines : linesOf (l.toNat * 64) 64 = [l] := by simp [linesOf]
  unfold queryMore
  simp [pages, dst, lines, storesReady, ready, stored, sound, framePending_of_restored restored]

theorem queryTier_ends (h : CommandAlone s c 0x0B) (len : eLen c.entry = 4096) (src : eSrc c.entry = page * 4096)
    (dst : eDst c.entry = l.toNat * 64) (sound : dReserved (descRaw s page) = false) (untouched : Untouched s l)
    (unheld : dirLine s l = 0) :
    ∃ t q, exec (.queryTier c.ring c.idx) s = .next t ∧ Ended t c 0 0 1 ∧ qline t l = some q ∧ q.mask = 0xFFFF ∧
      q.data = overlay 0xFFFF (place 512 0 (tierRecord s page)) 0 := by
  have going := underway_begun h
  have here := untouched_begun untouched c
  have unheld' : dirLine (begun c s) l = 0 := unheld
  have unmoved := snapHeld_of_other going.cmds (by rw [going.entry, h.op]; decide) l
  have ready := storeReady_of_untouched here unheld' going.quiet h.restored unmoved (cmdClass (begun c s) (startedCmd c))
    (eDeadline (startedCmd c).entry)
  have stored := storeRecords_single here unheld' (cmdClass (begun c s) (startedCmd c)) (tierRecord (begun c s) page)
  have run := exec_queryTier h len
  rw [queryMore_single (c := startedCmd c) (u := begun c s) len src dst sound h.restored ready stored] at run
  have written := writeQuay_untouched here 0xFFFF (place 512 0 (tierRecord (begun c s) page)) (cmdClass (begun c s) (startedCmd c))
    (nodeId (begun c s)) 0
  obtain ⟨held, -, -, quiet⟩ := wroteLine_held l
    (recordLine (begun c s) (cmdClass (begun c s) (startedCmd c)) (tierRecord (begun c s) page)) going.quiet
  obtain ⟨t, run, ended, held⟩ := ends_of_run (P := fun t => qline t l = _) run
    (going.within (writeQuay_within ..) rfl (written ▸ quiet)) rfl rfl (written ▸ held)
  exact ⟨t, _, run, ended, held, rfl, recordLine_data ..⟩

end

/-! ## SCRUB_RANGE -/

/-- From `s` to `t` only counters and budgets have changed, and nothing waits that did not. -/
structure Counted (s t : State) : Prop where
  within : Within { ev := true, reins := true, mgt := true } s t
  waiters : t.reins.waiters = s.reins.waiters

theorem Counted.refl (s : State) : Counted s s := ⟨.refl _ s, rfl⟩

theorem Counted.trans {r s t : State} (h : Counted r s) (k : Counted s t) : Counted r t :=
  ⟨h.within.trans k.within, k.waiters.trans h.waiters⟩

theorem counted_readNow (cls : BitVec 8) (addr : Nat) (s : State) : Counted s (readNow cls addr s) :=
  ⟨readNow_within .., (sameHome_readNow 0 cls addr s).waiters⟩

theorem Counted.descOf {s t : State} (h : Counted s t) (page : Nat) : descOf t page = descOf s page := by
  rw [Machine.descOf, descRaw, within_quay h.within rfl, Machine.descOf, descRaw]

theorem Counted.readsAs {s t : State} (h : Counted s t) {addr : Nat} {err y : BitVec 640} (reads : ReadsAs s addr err y) :
    ReadsAs t addr err y := by
  rw [eq_of_counted h.within]
  exact reads

theorem useCtx_unsealed (addr : Nat) (k : BitVec 20) (s : State) : useCtx addr false k s = s := by
  unfold useCtx
  split <;> rfl

/-- A good line is only read. -/
theorem scrubOne_of_good {page addr : Nat} {s : State} {y : BitVec 640} (plain : dSealed (descOf s page) = false)
    (good : ReadsAs s addr 0 y) (cls : BitVec 8) (line : Nat) (pos : SealPos) (lost : State → State) (a b : Nat) :
    scrubOne cls page addr line pos lost (a, b, s) = (a, b, readNow cls addr s) := by
  have check (k : BitVec 20) : readCheck (readNow cls addr s) false k pos addr (dramContent (readNow cls addr s) addr) =
      (.valid y none, some (devLine (devs y), false)) := by
    have := readCheck_of_readsAs ((counted_readNow cls addr s).readsAs good) k pos
    have clean : dramContent (readNow cls addr s) addr ^^^ 0 = dramContent (readNow cls addr s) addr := BitVec.xor_zero
    rwa [clean] at this
  simp [scrubOne, plain, useCtx_unsealed, check]

/-- What SCRUB_RANGE does at one line of a Hot page. -/
def scrubLine (cls : BitVec 8) (page : Nat) (y : Nat × Nat × State) (i : Nat) : Nat × Nat × State :=
  match dState (descOf y.2.2 page), lineAddr (descOf y.2.2 page) i with
  | .hot, some a => scrubOne cls page a (lineOf page i).toNat (berthPos (ctrOf y.2.2 page) page i)
      (lineUncorrectable page i a (dramContent y.2.2 a) none) y
  | _, _ => y

theorem scrubPage_of_hot {page : Nat} {x : Nat × Nat × State} (hot : dState (descOf x.2.2 page) = .hot) (cls : BitVec 8) :
    scrubPage cls page x = (List.range 64).foldl (scrubLine cls page) x := by
  unfold scrubPage
  rw [hot]
  rfl

section
variable {s : State} {page : Nat} (hot : dState (descOf s page) = .hot) (plain : dSealed (descOf s page) = false)
include hot plain

theorem scrubLine_of_good {i : Nat} {y : BitVec 640} (good : ReadsAs s (dDfa (descOf s page) * 64 + i) 0 y) (cls : BitVec 8) (a b : Nat) :
    scrubLine cls page (a, b, s) i = (a, b, readNow cls (dDfa (descOf s page) * 64 + i) s) := by
  have place : lineAddr (descOf s page) i = some (dDfa (descOf s page) * 64 + i) := by rw [lineAddr, hot]
  unfold scrubLine
  dsimp only
  rw [hot, place]
  exact scrubOne_of_good plain good ..

theorem scrubLines_of_good (cls : BitVec 8) (a b : Nat) (l : List Nat)
    (good : ∀ i ∈ l, ∃ y, ReadsAs s (dDfa (descOf s page) * 64 + i) 0 y) :
    ∃ u, l.foldl (scrubLine cls page) (a, b, s) = (a, b, u) ∧ Counted s u := by
  induction l generalizing s with
  | nil => exact ⟨s, rfl, .refl s⟩
  | cons i l ih =>
    obtain ⟨y, here⟩ := good i List.mem_cons_self
    have read := counted_readNow cls (dDfa (descOf s page) * 64 + i) s
    have same := read.descOf page
    obtain ⟨u, run, counted⟩ := ih (by rw [same, hot]) (by rw [same, plain]) fun j hj => by
      obtain ⟨z, there⟩ := good j (List.mem_cons_of_mem i hj)
      exact ⟨z, by rw [same]; exact read.readsAs there⟩
    exact ⟨u, by rw [List.foldl_cons, scrubLine_of_good hot plain here, run], read.trans counted⟩

theorem scrubPage_of_good (good : ∀ i, i < 64 → ∃ y, ReadsAs s (dDfa (descOf s page) * 64 + i) 0 y) (cls : BitVec 8) :
    ∃ u, scrubPage cls page (0, 0, s) = (0, 0, u) ∧ Counted s u := by
  rw [scrubPage_of_hot (x := (0, 0, s)) hot]
  exact scrubLines_of_good hot plain cls 0 0 _ fun i hi => good i (List.mem_range.1 hi)

end

theorem Underway.counted {u v : State} {c x : RCmd} (h : Underway u c x) (k : Counted u v) : Underway v c x :=
  h.within k.within rfl (quiet_of_kept h.quiet (within_quay k.within rfl) k.waiters)

theorem exec_scrubRange {s u : State} {c : RCmd} {page : Nat} (h : CommandAlone s c 0x0C) (len : eLen c.entry = 4096)
    (dst : eDst c.entry = page * 4096) (run : scrubPage (cmdClass (begun c s) (startedCmd c)) page (0, 0, begun c s) = (0, 0, u)) :
    exec (.scrubRange c.ring c.idx) s = .next (settle (finish (startedCmd c) 0 0 0 u)) := by
  have pages : rangePages (eDst (startedCmd c).entry) (eLen (startedCmd c).entry) = [page] := by
    show rangePages (eDst c.entry) (eLen c.entry) = [page]
    rw [dst, len, rangePages_page]
  show execScrubRange c.ring c.idx s = _
  rw [execScrubRange, runCmd_of_alone h]
  simp [pages, run, twoCounts]

theorem scrubRange_ends {s : State} {c : RCmd} {page : Nat} (h : CommandAlone s c 0x0C) (len : eLen c.entry = 4096)
    (dst : eDst c.entry = page * 4096) (hot : dState (descOf s page) = .hot) (plain : dSealed (descOf s page) = false)
    (good : ∀ i, i < 64 → ∃ y, ReadsAs s (dDfa (descOf s page) * 64 + i) 0 y) :
    ∃ t, exec (.scrubRange c.ring c.idx) s = .next t ∧ Ended t c 0 0 0 ∧ t.dram = s.dram ∧ t.quay = s.quay := by
  obtain ⟨u, run, counted⟩ := scrubPage_of_good (s := begun c s) hot plain good (cmdClass (begun c s) (startedCmd c))
  exact ends_of_run (exec_scrubRange h len dst run) ((underway_begun h).counted counted) rfl rfl
    ⟨(keeps_dram counted.within.same rfl rfl :), (within_quay counted.within rfl :)⟩

/-! ## The statement -/

/-- Settles O30: each command by the lemma of its own run. -/
theorem pageCommandsRun : Obligations.PageCommandsRun := by
  unfold Obligations.PageCommandsRun
  refine ⟨?_, ?_, ?_, ?_, ?_, ?_, ?_, ?_⟩
  · intro s c page h len dst hot unpinned sound fits
    exact pinHot_ends h len dst hot unpinned sound fits
  · intro s c page h len dst pinned sound free
    exact unpin_ends h len dst pinned sound free
  · intro s c page h len dst toCold hot sound ok
    exact demote_ends h len dst toCold hot sound ok
  · intro s c page h len dst mode cold
    exact prefetch_opens h len dst mode cold
  · intro s c h queue barriers clean
    exact barrier_ends h queue barriers clean
  · intro s c page d g h all queue barriers segs desc inside dirty warm _ run unheld
    exact barrier_waits h all queue barriers segs desc inside dirty warm run unheld
  · intro s c page l h len src dst sound untouched unheld
    exact queryTier_ends h len src dst sound untouched unheld
  · intro s c page h len dst hot plain good
    exact scrubRange_ends h len dst hot plain good

end Sys2Proof.Laws
end

section
/-! PROOFS. What a decode of a Warm line leaves alone (R82, R86): the home but for its transactions, the ports, and all that a read of
DRAM finds. -/

namespace Sys2Proof.Laws

open Sys2Proof Sys2Proof.Machine

/-! ## What a decode keeps -/

/-- A channel without the reads that wait and the key contexts that its sealing unit holds. -/
def storedChan (c : Channel) : Channel := { c with readQ := [], readWait := [], ctxs := [] }

/-- The Quay cache without its transactions. -/
def storedQuay (s : State) : Quay := { s.quay with txns := [] }

/-- From `s` to `t` reads of DRAM find what they found, and the home and the ports are as they were but for the transactions. -/
structure ReadsKept (s t : State) : Prop where
  cfg : t.cfg = s.cfg
  fuse : t.fuse = s.fuse
  sec : t.sec = s.sec
  port : t.port = s.port
  waiters : t.reins.waiters = s.reins.waiters
  quay : storedQuay t = storedQuay s
  mem : t.dram.mem = s.dram.mem
  keyTable : t.dram.keyTable = s.dram.keyTable
  chans : ∀ c, storedChan (chan t c) = storedChan (chan s c)

theorem ReadsKept.refl (s : State) : ReadsKept s s := ⟨rfl, rfl, rfl, rfl, rfl, rfl, rfl, rfl, fun _ => rfl⟩

theorem ReadsKept.trans {r s t : State} (h : ReadsKept r s) (k : ReadsKept s t) : ReadsKept r t :=
  ⟨k.cfg.trans h.cfg, k.fuse.trans h.fuse, k.sec.trans h.sec, k.port.trans h.port, k.waiters.trans h.waiters, k.quay.trans h.quay,
    k.mem.trans h.mem, k.keyTable.trans h.keyTable, fun c => (k.chans c).trans (h.chans c)⟩

theorem ReadsKept.foldl {α : Type} {f : State → α → State} (l : List α) (hf : ∀ t, ∀ a ∈ l, ReadsKept t (f t a)) (s : State) :
    ReadsKept s (l.foldl f s) :=
  List.foldlRecOn (motive := ReadsKept s) l f (.refl s) fun t h a ha => h.trans (hf t a ha)

/-- What only logs and counts keeps what reads find where it leaves alone what waits. -/
theorem readsKept_of_within {s t : State} (h : Within { log := true, ev := true, reins := true, mgt := true } s t)
    (waiters : t.reins.waiters = s.reins.waiters) : ReadsKept s t :=
  have dram : t.dram = s.dram := keeps_dram h.same rfl rfl
  ⟨keeps_cfg h.same rfl, keeps_fuse h.same rfl, keeps_sec h.same rfl, within_port h rfl, waiters,
    by rw [storedQuay, within_quay h rfl, storedQuay], by rw [dram], by rw [dram], fun c => by rw [chan, dram, chan]⟩

/-- The reads of a channel and its key contexts may change. -/
theorem readsKept_modChan (c : Nat) (f : Channel → Channel) (s : State) (same : ∀ ch, storedChan (f ch) = storedChan ch) :
    ReadsKept s (modChan c f s) := by
  refine ⟨rfl, rfl, rfl, rfl, rfl, rfl, rfl, rfl, fun d => ?_⟩
  by_cases h : d = c
  · subst h
    rw [chan_modChan, same]
  · rw [chan_modChan_other h]

/-! ## What reads find -/

section
variable {s t : State} (h : ReadsKept s t)
include h

theorem ReadsKept.ofChan {α : Type} (f : Channel → α) (same : ∀ ch, f ch = f (storedChan ch)) (c : Nat) :
    f (chan t c) = f (chan s c) := by
  rw [same, h.chans, ← same]

theorem ReadsKept.writeQ (c : Nat) : (chan t c).writeQ = (chan s c).writeQ := h.ofChan _ (fun _ => rfl) c
theorem ReadsKept.marks (c : Nat) : (chan t c).marks = (chan s c).marks := h.ofChan _ (fun _ => rfl) c
theorem ReadsKept.pop (c : Nat) : (chan t c).pop = (chan s c).pop := h.ofChan _ (fun _ => rfl) c
theorem ReadsKept.offline (c : Nat) : (chan t c).offline = (chan s c).offline := h.ofChan _ (fun _ => rfl) c

theorem ReadsKept.samePlaces : SamePlaces s t :=
  ⟨h.cfg, h.fuse, h.pop, h.ofChan Channel.xmap fun _ => rfl⟩

theorem ReadsKept.coord (addr : Nat) : coord t addr = coord s addr := h.samePlaces.coord addr
theorem ReadsKept.dramContent (addr : Nat) : dramContent t addr = dramContent s addr := by
  simp only [dramContent_eq, h.coord, h.writeQ, h.mem]
theorem ReadsKept.markOf (addr : Nat) : markOf t addr = markOf s addr := by
  simp only [Machine.markOf, h.coord, h.marks, h.pop]
theorem ReadsKept.lineOffline (addr : Nat) : lineOffline t addr = lineOffline s addr := by
  simp only [Machine.lineOffline, h.samePlaces.chanSets, h.offline]
theorem ReadsKept.recsOf (ty rt : Nat) : recsOf t ty rt = recsOf s ty rt := by
  simp only [Machine.recsOf, typedRecs, sectionRecs, h.cfg, h.fuse]
theorem ReadsKept.inQuay {α : Type} (f : Quay → α) : f (storedQuay t) = f (storedQuay s) := congrArg f h.quay

theorem ReadsKept.descOf (page : Nat) : descOf t page = descOf s page := h.inQuay fun q => dView (sget 0 q.desc page)
theorem ReadsKept.heldCtx (k : BitVec 20) : heldCtx t k = heldCtx s k := by
  simp only [Machine.heldCtx, show t.quay.keyCtx = s.quay.keyCtx from h.inQuay Quay.keyCtx]
theorem ReadsKept.heldNode (kt : Bool) (level idx : Nat) : heldNode t kt level idx = heldNode s kt level idx := by
  simp only [Machine.heldNode, h.keyTable, show t.quay.ctr = s.quay.ctr from h.inQuay Quay.ctr,
    show t.quay.ctrDirty = s.quay.ctrDirty from h.inQuay Quay.ctrDirty]
theorem ReadsKept.nodeLine (kt : Bool) (level idx copy : Nat) : nodeLine t kt level idx copy = nodeLine s kt level idx copy := by
  simp only [Machine.nodeLine, regionLine, regions, h.recsOf]
theorem ReadsKept.nodeCheck (kt : Bool) (level idx : Nat) (ctr : BitVec 64 × BitVec 7) (a : Nat) (err : BitVec 640) :
    nodeCheck t kt level idx ctr a err = nodeCheck s kt level idx ctr a err := by
  simp only [Machine.nodeCheck, nodeSeal, h.lineOffline, h.dramContent, h.markOf, h.sec]
theorem ReadsKept.nodeStored (kt : Bool) (level idx : Nat) (ctr : BitVec 64 × BitVec 7) :
    nodeStored t kt level idx ctr = nodeStored s kt level idx ctr := by
  simp only [Machine.nodeStored, h.nodeLine, h.nodeCheck]
theorem ReadsKept.nodeAt (kt : Bool) (n idx : Nat) : nodeAt t kt n idx = nodeAt s kt n idx := by
  induction n generalizing idx with
  | zero => simp only [Machine.nodeAt, h.heldNode, h.nodeStored, rootCtr, h.sec]
  | succ n ih => simp only [Machine.nodeAt, h.heldNode, h.nodeStored, ih]
theorem ReadsKept.keyEntry (k : BitVec 20) : keyEntry t k = keyEntry s k := by rw [Machine.keyEntry, h.nodeAt, Machine.keyEntry]
theorem ReadsKept.ctrOf (page : Nat) : ctrOf t page = ctrOf s page := by rw [Machine.ctrOf, h.nodeAt, Machine.ctrOf]
theorem ReadsKept.keyCtxOf (k : BitVec 20) : keyCtxOf t k = keyCtxOf s k := by
  simp only [Machine.keyCtxOf, h.keyEntry, h.heldCtx, h.sec]
theorem ReadsKept.keyGone (page : Nat) : keyGone t page = keyGone s page := by
  simp only [Machine.keyGone, h.descOf, h.keyCtxOf]
theorem ReadsKept.granuleCheck (page : Nat) (d : BitVec 128) (g : Nat) : granuleCheck t page d g = granuleCheck s page d g := by
  simp only [Machine.granuleCheck, readCheck, sealKeyOf, h.ctrOf, h.dramContent, h.lineOffline, h.markOf, h.keyCtxOf]

theorem ReadsKept.heard (p : Nat) : Heard p s t := heard_of_kept h.cfg h.fuse h.mem h.port p

theorem ReadsKept.homeIdle (rest : HomeIdle s) : HomeIdle t := by
  obtain ⟨busy, notices, parked, parkWait, fills, waiters⟩ := rest
  exact ⟨(h.inQuay Quay.busy).trans busy, (h.inQuay Quay.notices).trans notices, (h.inQuay Quay.parked).trans parked,
    (h.inQuay Quay.parkWait).trans parkWait, (h.inQuay Quay.fills).trans fills, h.waiters.trans waiters⟩

end

/-! ## The steps of a decode -/

theorem readsKept_tileLine (t inp : Nat) (poison ok : Bool) (s : State) : ReadsKept s (tileLine t inp poison ok s) :=
  have w := tileLine_within t inp poison ok s
  readsKept_of_within (w.mono rfl) (by rw [within_reins w rfl])

theorem readsKept_noteTransient (r : LogRec) (addr : Nat) (s : State) : ReadsKept s (noteTransient r addr s) :=
  have w := noteTransient_within r addr s
  readsKept_of_within (w.mono rfl) (by rw [within_reins w rfl])

theorem readsKept_readNow (cls : BitVec 8) (addr : Nat) (s : State) : ReadsKept s (readNow cls addr s) :=
  readsKept_of_within ((readNow_within cls addr s).mono rfl) (sameHome_readNow 0 cls addr s).waiters

theorem readsKept_putTxn (t : Txn) (s : State) : ReadsKept s (putTxn t s) := ⟨rfl, rfl, rfl, rfl, rfl, rfl, rfl, rfl, fun _ => rfl⟩

theorem readsKept_dropQueued (addr : Nat) (s : State) : ReadsKept s (dropQueued addr s) := by
  unfold dropQueued
  split
  · refine readsKept_modChan _ _ s fun ch => ?_
    split
    · rfl
    · split <;> rfl
  · exact .refl s

theorem readsKept_useCtx (addr : Nat) (isSealed : Bool) (k : BitVec 20) (s : State) : ReadsKept s (useCtx addr isSealed k s) := by
  unfold useCtx
  split
  · split
    · exact readsKept_modChan _ _ s fun _ => rfl
    · exact .refl s
  · exact .refl s

/-- A granule that checks without a correction leaves nothing to note. -/
theorem readsKept_noteCheck {k : Check} {y : BitVec 640} (clean : k = .valid y none) (addr line : Nat) (newer : Bool) (s : State) :
    ReadsKept s (noteCheck addr line k newer s) := by
  rw [clean]
  exact .refl s

theorem readsKept_readGranules {page : Nat} {gs : List Nat} {s : State}
    (clean : ∀ k ∈ gs, ∃ y, granuleCheck s page (descOf s page) k = .valid y none) (cls : BitVec 8) :
    ReadsKept s (readGranules cls page gs s) :=
  .foldl gs (fun t k hk => by
    obtain ⟨y, valid⟩ := clean k hk
    exact (readsKept_readNow ..).trans (readsKept_noteCheck valid ..)) s

/-- The reads of a decode whose granules check without a correction (R82). -/
theorem readsKept_decodeReads {page i : Nat} {s : State}
    (clean : ∀ k ∈ neededGranules s page i, ∃ y, granuleCheck s page (descOf s page) k = .valid y none) (g : Nat) (cls : BitVec 8) :
    ReadsKept s (decodeReads page i g cls s) := by
  unfold decodeReads
  dsimp only
  split
  · exact .refl s
  · next k body needed =>
    rw [needed] at clean
    obtain ⟨y, valid⟩ := clean k List.mem_cons_self
    have used := readsKept_useCtx (g + k) (dSealed (descOf s page)) (dKey (descOf s page)) (dropQueued (g + k) s)
    have header := (readsKept_dropQueued (g + k) s).trans (used.trans (readsKept_noteCheck valid (g + k) (page * 64) false _))
    refine header.trans (readsKept_readGranules (fun j hj => ?_) cls)
    obtain ⟨z, valid'⟩ := clean j (List.mem_cons_of_mem k hj)
    exact ⟨z, by rw [header.descOf, header.granuleCheck, valid']⟩

/-- What changes only the frame map, the run index and the lists of frames keeps what reads find. -/
theorem readsKept_of_frames {s t : State} (h : Within { dram := true } s t) (ch : t.dram.ch = s.dram.ch)
    (keyTable : t.dram.keyTable = s.dram.keyTable) : ReadsKept s t :=
  ⟨keeps_cfg h.same rfl, keeps_fuse h.same rfl, keeps_sec h.same rfl, within_port h rfl, by rw [within_reins h rfl],
    by rw [storedQuay, within_quay h rfl, storedQuay], within_mem h rfl, keyTable, fun c => by rw [chan, ch, chan]⟩

/-- A frame that is freed leaves the channels and the key table alone. -/
theorem freeFrame_ch_keyTable (dfa : Nat) (s : State) :
    (freeFrame dfa s).dram.ch = s.dram.ch ∧ (freeFrame dfa s).dram.keyTable = s.dram.keyTable := by
  unfold freeFrame
  split
  · exact ⟨rfl, rfl⟩
  · split <;> exact ⟨rfl, rfl⟩

theorem readsKept_freeRun (gaddr g : Nat) (s : State) : ReadsKept s (freeRun gaddr g s) := by
  obtain ⟨ch, keyTable⟩ : (freeRun gaddr g s).dram.ch = s.dram.ch ∧ (freeRun gaddr g s).dram.keyTable = s.dram.keyTable := by
    unfold freeRun
    dsimp only
    split
    · exact freeFrame_ch_keyTable ..
    · exact ⟨rfl, rfl⟩
  exact readsKept_of_frames (freeRun_within ..) ch keyTable

/-- No read of DRAM looks at the tiering engine. -/
theorem readsKept_tier (s : State) (x : Tier) : ReadsKept s { s with tier := x } :=
  ⟨rfl, rfl, rfl, rfl, rfl, rfl, rfl, rfl, fun _ => rfl⟩

/-- The end of a decode may free the run that it was made from (R86). -/
theorem readsKept_endDecode (g : Nat) (s : State) : ReadsKept s (endDecode g s) := by
  unfold endDecode
  dsimp only
  split
  · exact readsKept_tier ..
  · exact (readsKept_tier ..).trans (.foldl _ (fun t r _ => readsKept_freeRun ..) _)

end Sys2Proof.Laws
end

section
/-! PROOFS. A read that waits for its line is granted it when the line comes (R175, Table 6.4). -/

namespace Sys2Proof.Laws

open Sys2Proof Sys2Proof.Machine

/-! ## A home that waits for an acknowledgement -/

theorem settleN_of_none {s : State} (h : nextReady s = none) (n : Nat) : settleN n s = s := by
  cases n <;> simp [settleN, h]

/-- With one transaction, which waits for its CMP_ACK, nothing goes on. -/
theorem settle_of_acked {s : State} {y : Txn} (txns : s.quay.txns = [y]) (ack : y.phase = .ack) (rest : HomeIdle s) : settle s = s := by
  obtain ⟨busy, notices, parked, parkWait, fills, waiters⟩ := rest
  have sated : dataIdle s y = false := by simp [dataIdle, ack]
  refine settleN_of_none ?_ _
  simp [nextReady, nextReady.waiting, txns, busy, notices, parked, parkWait, fills, waiters, sated, bestWaiter]

/-! ## The grant of a read -/

/-- A write of a directory entry changes the directory. -/
theorem setDir_quay (l : Line) (e : BitVec 128) (s : State) :
    ∃ d v, (setDir l e s).quay = { s.quay with dir := d, dirValid := v } := by
  have put (k : Nat) (x : BitVec 512) : ∃ d v, (dirPut k x s).quay = { s.quay with dir := d, dirValid := v } := by
    unfold dirPut
    split <;> exact ⟨_, _, rfl⟩
  unfold setDir
  dsimp only
  split
  · exact put ..
  · split
    · exact ⟨s.quay.dir, s.quay.dirValid, rfl⟩
    · split
      · exact put ..
      · exact ⟨s.quay.dir, s.quay.dirValid, rfl⟩

/-- The transaction of a grant waits for CMP_ACK. -/
def granted (t : Txn) : Txn := { t with phase := .ack, snoops := [], takes := false }

/-- The packet that grants a line to a reader that keeps no copy of it. -/
def dataI (t : Txn) (x : BitVec 512) (s : State) : Pkt :=
  { hdr := rspHdr 0x4B t.req.src (nodeId s) t.req.tag 0 {}, body := lineSlots x }

/-- The directory entry of the grant is written. -/
def entryWritten (t : Txn) (s : State) : State := setDir (txnLine t) (afterOk s t) s

/-- The line has been sent. -/
def lineSent (t : Txn) (x : BitVec 512) (s : State) : State :=
  countEnd t.req t.due (sendPkt t.req.port (dataI t x s) (entryWritten t s))

theorem heard_entryWritten (p : Nat) (t : Txn) (s : State) : Heard p s (entryWritten t s) :=
  heard_of_within (setDir_within (txnLine t) (afterOk s t) s) rfl p

section
variable {s : State} {t : Txn}

theorem nodeId_lineSent (x : BitVec 512) : nodeId (lineSent t x s) = nodeId s :=
  nodeId_of_heard (p := t.req.port)
    ((heard_entryWritten ..).trans ((heard_sendPkt ..).trans (heard_of_within (countEnd_within ..) rfl _)))

/-- A read by RD_CUR of another node is answered with the line. -/
theorem deliver_read (op : t.req.op = 0x01) (other : t.req.src ≠ nodeId s) (x : BitVec 512) :
    deliver t x false false s = putTxn (granted t) (lineSent t x s) := by
  have node : nodeId (entryWritten t s) = nodeId s := nodeId_of_heard (heard_entryWritten t.req.port t s)
  have foreign : isOwn (entryWritten t s) t.req = false := by simp [isOwn, node, other]
  have foreign' : isOwn (lineSent t x s) t.req = false := by simp [isOwn, nodeId_lineSent, other]
  have plain : isAtomic t.req.op = false := by rw [op]; decide
  have read : (0x01 ≤ t.req.op.toNat && t.req.op.toNat ≤ 0x04) = true := by rw [op]; decide
  have grant : grantOp (grantE s) t.entry t.req.op t.req.src = 0x4B := by rw [grantOp, if_pos op]
  have sent : sendRsp t.req 0x4B 0 {} (lineSlots x) (entryWritten t s) = sendPkt t.req.port (dataI t x s) (entryWritten t s) := by
    rw [sendRsp, if_neg (by simp [foreign]), node, dataI]
  unfold deliver
  simp only [plain, read, grant, Bool.false_eq_true, if_false, if_true]
  show awaitAck t (countEnd t.req t.due (sendRsp t.req 0x4B 0 {} (lineSlots x) (entryWritten t s))) = _
  rw [sent, awaitAck, ← lineSent, if_neg (by simp [foreign'])]
  rfl

/-- The home is as it was but for its directory. -/
theorem lineSent_quay (x : BitVec 512) : ∃ d v, (lineSent t x s).quay = { s.quay with dir := d, dirValid := v } := by
  obtain ⟨d, v, e⟩ := setDir_quay (txnLine t) (afterOk s t) s
  exact ⟨d, v, (within_quay (countEnd_within ..) rfl).trans ((within_quay (sendPkt_within ..) rfl).trans e)⟩

theorem lineSent_waiters (x : BitVec 512) : (lineSent t x s).reins.waiters = s.reins.waiters :=
  (countEnd_waiters ..).trans (congrArg Reins.waiters
    ((within_reins (sendPkt_within ..) rfl).trans (within_reins (setDir_within (txnLine t) (afterOk s t) s) rfl)))

theorem homeIdle_granted (rest : HomeIdle s) (x : BitVec 512) : HomeIdle (putTxn (granted t) (lineSent t x s)) := by
  obtain ⟨busy, notices, parked, parkWait, fills, waiters⟩ := rest
  obtain ⟨d, v, quay⟩ := lineSent_quay (s := s) (t := t) x
  refine ⟨?_, ?_, ?_, ?_, ?_, (lineSent_waiters x).trans waiters⟩ <;> simp [putTxn, quay, busy, notices, parked, parkWait, fills]

theorem txns_granted {y : Txn} (txns : s.quay.txns = [y]) (line : y.line = t.line) (x : BitVec 512) :
    (putTxn (granted t) (lineSent t x s)).quay.txns = [granted t] := by
  obtain ⟨d, v, quay⟩ := lineSent_quay (s := s) (t := t) x
  simp [putTxn, quay, txns, line, granted]

end

/-- The one transaction of an idle home, a read by RD_CUR of a node behind a port that is up, is delivered its line, and waits for
CMP_ACK. -/
theorem delivered_read {s u : State} {t y : Txn} (heard : Heard t.req.port s u) (up : portUp s t.req.port = true) (op : t.req.op = 0x01)
    (other : t.req.src ≠ nodeId s) (txns : u.quay.txns = [y]) (line : y.line = t.line) (rest : HomeIdle u) (x : BitVec 512) :
    Delivered s t x (settle (deliver t x false false u)) := by
  have node := nodeId_of_heard heard
  have acked := txns_granted txns line x
  have sent : Sent t.req.port (dataI t x u) s (lineSent t x u) :=
    sent_of_egress (sent_of_heard (heard.trans (heard_entryWritten ..)) up _)
      (congrArg Port.egress (portOf_of_port (within_port (countEnd_within ..) rfl) _))
  rw [deliver_read op (node ▸ other), settle_of_acked acked rfl (homeIdle_granted rest x)]
  rw [dataI, node] at sent
  exact ⟨⟨{}, sent⟩, granted t, acked, rfl, rfl⟩

end Sys2Proof.Laws
end

section
/-! PROOFS. Tag tests, verdicts and key contexts (R98, R116, R117). -/

namespace Sys2Proof.Laws

open Sys2Proof Sys2Proof.Machine

/-! ## Tag tests and verdicts (R116, R117) -/

/-- With room in its bank a line is filled at once. -/
theorem fillLine_of_room {l : Line} {s : State} (room : (bankLines s (bankOf s l)).length < dataCap s) (x : BitVec 512) (cls : BitVec 8) :
    fillLine l x cls s = useLine l { data := x, mask := BitVec.allOnes 64, cls := cls } s := by
  unfold fillLine
  rw [makeRoom, if_pos (by simp [room])]

/-- The one verdict that is out has been found. -/
def tested (x : Spec) (s : State) : State := { s with quay.specs := [{ x with done := true }] }

theorem tagTestComplete_fills {s : State} {x : Spec} {v : BitVec 512} (specs : s.quay.specs = [x]) (out : x.done = false)
    (good : x.good = true) (berth : berthLine s (pageOf (BitVec.ofNat 39 x.line)) (x.line % 64) = some (v, false))
    (unheld : qline s (BitVec.ofNat 39 x.line) = none)
    (room : (bankLines s (bankOf s (BitVec.ofNat 39 x.line))).length < dataCap s) :
    exec (.tagTestComplete x.node x.tag) s =
      .next (useLine (BitVec.ofNat 39 x.line) { data := v, mask := BitVec.allOnes 64, cls := x.cls } (tested x s)) := by
  have berth' : berthLine (tested x s) (pageOf (BitVec.ofNat 39 x.line)) (x.line % 64) = some (v, false) := berth
  have unheld' : qline (tested x s) (BitVec.ofNat 39 x.line) = none := unheld
  have find : s.quay.specs.find? (fun y => y.node = x.node && y.tag = x.tag && !y.done) = some x := by simp [specs, out]
  have marked : s.quay.specs.map (fun y => if y.node = x.node && y.tag = x.tag && !y.done then { y with done := true } else y) =
      [{ x with done := true }] := by simp [specs, out]
  show execTagTestComplete x.node x.tag s = _
  unfold execTagTestComplete
  rw [find]
  dsimp only
  rw [marked, if_pos good, ← tested, berth']
  dsimp only
  rw [if_pos (by simp [unheld']), fillLine_of_room (s := tested x s) room]

theorem qline_useLine (l : Line) (q : QLine) (s : State) : qline (useLine l q s) l = some { q with stamp := s.quay.useStamp } :=
  qline_setQline ..

/-- The one verdict that is out has reached its port. -/
def judged (s : State) : State := { s with quay.specs := [] }

/-- The late alarm of a speculative response (R116). -/
def alarm (x : Spec) (s : State) : Pkt := { hdr := rspHdr 0x5F x.node (nodeId s) x.tag 1 {} }

/-- A port's queue with an alarm in it: behind the speculative response that it follows, else at its front. -/
def alarmed (x : Spec) (k : Pkt) (q : Port) : Port :=
  let i := match q.egress.findIdx? (fun p => pktDst p = x.node && pktTag p = x.tag && p.hdr.getLsbD 61) with
    | some i => i + 1
    | none => 0
  { q with egress := q.egress.take i ++ k :: q.egress.drop i }

/-- The alarm of a port with nothing to send is the one packet of its queue. -/
theorem alarmed_of_idle (x : Spec) (k : Pkt) {q : Port} (idle : q.egress = []) : (alarmed x k q).egress = [k] := by
  simp [alarmed, idle]

/-- The arrival of the verdict takes it out of the table; a good one does nothing else, a bad one sends the alarm. -/
theorem verdictArrival_taken {s : State} {x : Spec} (specs : s.quay.specs = [x]) (found : x.done = true) :
    exec (.verdictArrival x.port.toNat x.node x.tag) s =
    if x.good then .next (judged s) else
      .next (evAfl x.port.toNat 13 (modPort x.port.toNat (alarmed x (alarm x s)) (judged s))) := by
  have find : s.quay.specs.find? (fun y => y.node = x.node && y.tag = x.tag && y.done && y.port.toNat = x.port.toNat) = some x := by
    simp [specs, found]
  have left : s.quay.specs.filter (fun y => !(y.node = x.node && y.tag = x.tag && y.done)) = [] := by simp [specs, found]
  show execVerdictArrival x.port.toNat x.node x.tag s = _
  unfold execVerdictArrival
  rw [find]
  dsimp only
  rw [left]
  rfl

/-- A bad verdict leaves the port as an alarm, and no other port sends anything. -/
theorem verdictArrival_alarms {s : State} {x : Spec} (specs : s.quay.specs = [x]) (found : x.done = true) (bad : x.good = false)
    (idle : (portOf s x.port.toNat).egress = []) :
    ∃ u, exec (.verdictArrival x.port.toNat x.node x.tag) s = .next u ∧ u.quay.specs = [] ∧
      (portOf u x.port.toNat).egress = [alarm x s] ∧ OtherPortsKept x.port.toNat s u := by
  have run := verdictArrival_taken specs found
  rw [if_neg (by simp [bad])] at run
  refine ⟨_, run, ?_, ?_, fun q other => ?_⟩
  · rw [evAfl_quay]
    rfl
  · rw [portOf_of_port (evAfl_port ..), portOf_modPort]
    exact alarmed_of_idle x _ idle
  · rw [portOf_of_port (evAfl_port ..), portOf_modPort_other other]
    rfl

/-! ## Key contexts (R98) -/

/-- An expanded context takes a way of its key's set, and nothing else in the Quay cache changes but the pointer of the set. -/
theorem placeCtx_way (c : KeyCtx) (s : State) : ∃ i p, i < 16 ∧ (placeCtx c s).quay =
    { s.quay with keyCtx := sset none s.quay.keyCtx (c.keyId.toNat % 256 * 16 + i) (some c), keyPtr := p } := by
  unfold placeCtx
  dsimp only
  split
  next i own => exact ⟨i, s.quay.keyPtr, List.mem_range.1 (List.mem_of_find?_eq_some own), rfl⟩
  next =>
    split
    next i free => exact ⟨i, s.quay.keyPtr, List.mem_range.1 (List.mem_of_find?_eq_some free), rfl⟩
    next =>
      refine ⟨_, _, ?_, rfl⟩
      cases turn : ((List.range 16).map (fun i => (sget 0 s.quay.keyPtr (c.keyId.toNat % 256) + i) % 16)).find?
          (fun i => !ctxBusy s (sget none s.quay.keyCtx (c.keyId.toNat % 256 * 16 + i))) with
      | none => exact Nat.mod_lt _ (by decide)
      | some i =>
        obtain ⟨j, -, rfl⟩ := List.mem_map.1 (List.mem_of_find?_eq_some turn)
        exact Nat.mod_lt _ (by decide)

theorem keyContextFill_expands {s : State} {k : BitVec 20} (active : kState (keyEntry s k) = 1) {w : BitVec 256} {h : BitVec 64}
    (ctx : keyCtxOf s k = some (w, h)) :
    exec (.keyContextFill k) s = .next (placeCtx { keyId := k, kwork := w, h := h, st := 1 } s) := by
  show execKeyContextFill k s = _
  rw [execKeyContextFill, if_neg (by simp [active]), ctx]

theorem keyContextFill_logs {s : State} {k : BitVec 20} (active : kState (keyEntry s k) = 1) (ctx : keyCtxOf s k = none) :
    exec (.keyContextFill k) s = .next (logIt { cause := 0x02, key := k } s) := by
  show execKeyContextFill k s = _
  rw [execKeyContextFill, if_neg (by simp [active]), ctx]

/-- The fill of an Active entry's context: into a way of its set, or nowhere when the entry does not unwrap. -/
theorem keyContextFill_runs {s : State} {k : BitVec 20} (active : kState (keyEntry s k) = 1) :
    ∃ u, exec (.keyContextFill k) s = .next u ∧ u.quay.lines = s.quay.lines ∧ u.quay.desc = s.quay.desc ∧
      match keyCtxOf s k with
      | some (w, h) => ∃ i, i < 16 ∧ sget none u.quay.keyCtx (k.toNat % 256 * 16 + i) = some { keyId := k, kwork := w, h := h, st := 1 }
      | none => u.quay.keyCtx = s.quay.keyCtx := by
  cases ctx : keyCtxOf s k with
  | none => exact ⟨_, keyContextFill_logs active ctx, by rw [logIt_quay], by rw [logIt_quay], by rw [logIt_quay]⟩
  | some c =>
    obtain ⟨w, h⟩ := c
    obtain ⟨i, p, way, placed⟩ := placeCtx_way { keyId := k, kwork := w, h := h, st := 1 } s
    refine ⟨_, keyContextFill_expands active ctx, by rw [placed], by rw [placed], i, way, ?_⟩
    rw [placed]
    dsimp only
    exact sget_sset_same ..

end Sys2Proof.Laws
end

section
/-! PROOFS. A Warm line that decodes goes to its requester (R82, R86), and the statement of its family. -/

namespace Sys2Proof.Laws

open Sys2Proof Sys2Proof.Machine

/-! ## A Warm line that decodes (R82, R86) -/

/-- The transaction whose decode has ended. -/
def undecoding (t : Txn) : Txn := { t with run := none, again := false }

/-- The granules of a line have been read, and a read that failed at first is logged (R154). -/
def granulesRead (page i g : Nat) (t : Txn) (s : State) : State :=
  if t.again then noteTransient { cause := 0x11, kind := 2, addr := g, args := wide page } g (decodeReads page i g t.req.cls s)
  else decodeReads page i g t.req.cls s

/-- The decode of the run has ended. -/
def decodeEnded (page i g : Nat) (t : Txn) (s : State) : State := endDecode g (putTxn (undecoding t) (granulesRead page i g t s))

/-- The line has left its tile. -/
def lineDecoded (page i g : Nat) (t : Txn) (s : State) : State :=
  tileLine t.tile (neededGranules (decodeEnded page i g t s) page i).length false true (decodeEnded page i g t s)

theorem granulesRead_quay (page i g : Nat) (t : Txn) (s : State) : (granulesRead page i g t s).quay = s.quay := by
  have read := within_quay (decodeReads_within page i g t.req.cls s) rfl
  unfold granulesRead
  split
  · exact (within_quay (noteTransient_within ..) rfl).trans read
  · exact read

theorem txns_lineDecoded {s : State} {t : Txn} (txns : s.quay.txns = [t]) (page i g : Nat) :
    (lineDecoded page i g t s).quay.txns = [undecoding t] := by
  have quay : (lineDecoded page i g t s).quay = (putTxn (undecoding t) (granulesRead page i g t s)).quay :=
    (within_quay (tileLine_within ..) rfl).trans (within_quay (endDecode_within ..) rfl)
  rw [quay, putTxn, granulesRead_quay, txns]
  simp [undecoding]

section
variable {s : State} {page i : Nat}
  (clean : ∀ k ∈ neededGranules s page i, ∃ y, granuleCheck s page (descOf s page) k = .valid y none)
include clean

theorem readsKept_granulesRead (g : Nat) (t : Txn) : ReadsKept s (granulesRead page i g t s) := by
  have read := readsKept_decodeReads clean g t.req.cls
  unfold granulesRead
  split
  · exact read.trans (readsKept_noteTransient ..)
  · exact read

theorem readsKept_decodeEnded (g : Nat) (t : Txn) : ReadsKept s (decodeEnded page i g t s) :=
  (readsKept_granulesRead clean g t).trans ((readsKept_putTxn ..).trans (readsKept_endDecode ..))

theorem readsKept_lineDecoded (g : Nat) (t : Txn) : ReadsKept s (lineDecoded page i g t s) :=
  (readsKept_decodeEnded clean g t).trans (readsKept_tileLine ..)

end

theorem exec_warmLineDecode {s : State} {l : Line} {t : Txn} {x : BitVec 512} (txns : s.quay.txns = [t]) (line : t.line = l.toNat)
    (run : t.run = some (dGranule (descOf s (pageOf l)))) (warm : dState (descOf s (pageOf l)) = .warm)
    (decoded : warmLine s (pageOf l) (l.toNat % 64) = some (x, false))
    (key : keyGone (decodeEnded (pageOf l) (l.toNat % 64) (dGranule (descOf s (pageOf l))) t s) (pageOf l) = false) :
    exec (.warmLineDecode l none) s = .next (settle (deliver (undecoding t) x false false
      (lineDecoded (pageOf l) (l.toNat % 64) (dGranule (descOf s (pageOf l))) t s))) := by
  have find : s.quay.txns.find? (fun t => t.line = l.toNat && t.run.isSome) = some t := by simp [txns, line, run]
  simp only [decodeEnded, granulesRead, undecoding] at key
  show execWarmLineDecode l none s = _
  unfold execWarmLineDecode
  rw [find]
  simp only [run, Option.getD_some, warm, decide_true, Bool.and_self, if_true, decoded, Option.filter_none, Option.any_some,
    Option.isSome_some, key, Bool.false_eq_true, if_false]
  rfl

theorem warmLineDecode_delivers {s : State} {l : Line} {t : Txn} {x : BitVec 512} (h : DataAwaited s t) (line : t.line = l.toNat)
    (run : t.run = some (dGranule (descOf s (pageOf l)))) (warm : dState (descOf s (pageOf l)) = .warm)
    (decoded : warmLine s (pageOf l) (l.toNat % 64) = some (x, false)) (key : keyGone s (pageOf l) = false)
    (clean : ∀ k ∈ neededGranules s (pageOf l) (l.toNat % 64),
      ∃ y, granuleCheck s (pageOf l) (descOf s (pageOf l)) k = .valid y none) :
    ∃ u, exec (.warmLineDecode l none) s = .next u ∧ Delivered s t x u := by
  have ended := readsKept_decodeEnded clean (dGranule (descOf s (pageOf l))) t
  have kept := readsKept_lineDecoded clean (dGranule (descOf s (pageOf l))) t
  refine ⟨_, exec_warmLineDecode h.txns line run warm decoded ((ended.keyGone _).trans key), ?_⟩
  exact delivered_read (t := undecoding t) (kept.heard _) h.up h.op h.other (txns_lineDecoded h.txns ..) rfl (kept.homeIdle h.rest) x

/-! ## The statement -/

/-- Settles O13: each command by the lemma of its own run. -/
theorem verdictsAndContexts : Obligations.VerdictsAndContexts := by
  unfold Obligations.VerdictsAndContexts
  refine ⟨?_, ?_, ?_, ?_⟩
  · intro s l t x awaited line run warm decoded key clean
    exact warmLineDecode_delivers awaited line run warm decoded key clean
  · rintro s _ _ x v specs rfl rfl out good berth unheld room
    exact ⟨_, _, tagTestComplete_fills specs out good berth unheld room, rfl, qline_useLine .., rfl, rfl, rfl⟩
  · rintro s _ _ _ x specs rfl rfl found rfl
    refine ⟨fun good => ⟨judged s, ?_, rfl, rfl⟩, fun bad idle => verdictArrival_alarms specs found bad idle⟩
    rw [verdictArrival_taken specs found, if_pos good]
  · intro s k active
    exact keyContextFill_runs active

end Sys2Proof.Laws
end

section
/-! PROOFS. What a step keeps: the parts outside the command's footprint, and the canonical form of DRAM (log entry 4). -/

namespace Sys2Proof.Laws

open Sys2Proof Sys2Proof.Machine

/-- Every command stays within its footprint, by the lemma of its meaning. -/
theorem exec_within : ∀ (c : Instr) (s : State), WOut (footprint c) s (exec c s)
  | .rdCur r, s => execRdCur_within r s
  | .rdShared r, s => execRdShared_within r s
  | .rdOwn r, s => execRdOwn_within r s
  | .upgrade r, s => execUpgrade_within r s
  | .wrFull r, s => execWrFull_within r s
  | .wrPart r, s => execWrPart_within r s
  | .atAdd r, s => execAtAdd_within r s
  | .atSwap r, s => execAtSwap_within r s
  | .atCas r, s => execAtCas_within r s
  | .atAnd r, s => execAtAnd_within r s
  | .atOr r, s => execAtOr_within r s
  | .atXor r, s => execAtXor_within r s
  | .atSmin r, s => execAtSmin_within r s
  | .atSmax r, s => execAtSmax_within r s
  | .atUmin r, s => execAtUmin_within r s
  | .atUmax r, s => execAtUmax_within r s
  | .evictClean r, s => execEvictClean_within r s
  | .evictDirty r, s => execEvictDirty_within r s
  | .cmpAck p, s => execCmpAck_within p s
  | .rspI p, s => execRspI_within p s
  | .rspS p, s => execRspS_within p s
  | .rspIClean p, s => execRspIClean_within p s
  | .rspIData p, s => execRspIData_within p s
  | .rspSData p, s => execRspSData_within p s
  | .rspFwd p, s => execRspFwd_within p s
  | .snpInv r, s => execSnpInv_within r s
  | .snpShare r, s => execSnpShare_within r s
  | .snpFwdS r, s => execSnpFwdS_within r s
  | .dataE p, s => execDataE_within p s
  | .dataS p, s => execDataS_within p s
  | .dataF p, s => execDataF_within p s
  | .dataI p, s => execDataI_within p s
  | .cmpE p, s => execCmpE_within p s
  | .cmp p, s => execCmp_within p s
  | .atmData p, s => execAtmData_within p s
  | .wbAck p, s => execWbAck_within p s
  | .errCmp p, s => execErrCmp_within p s
  | .lateAlarm p, s => execLateAlarm_within p s
  | .mgmtRd m, s => execMgmtRd_within m s
  | .mgmtWr m, s => execMgmtWr_within m s
  | .spdmMsg m, s => execSpdmMsg_within m s
  | .latTol port src dst noReq scale value, s => execLatTol_within port src dst noReq scale value s
  | .powerWarn port src tide cause, s => execPowerWarn_within port src tide cause s
  | .snoopTimeoutExpiry node tag, s => execSnoopTimeoutExpiry_within node tag s
  | .deviceRequestTimeout node tag, s => execDeviceRequestTimeout_within node tag s
  | .dramReadComplete addr err, s => execDramReadComplete_within addr err s
  | .lineRereadComplete addr err, s => execLineRereadComplete_within addr err s
  | .tagTestComplete node tag, s => execTagTestComplete_within node tag s
  | .verdictArrival port node tag, s => execVerdictArrival_within port node tag s
  | .keyContextFill keyId, s => execKeyContextFill_within keyId s
  | .warmLineDecode line bad, s => execWarmLineDecode_within line bad s
  | .demandFaultReadComplete page ok, s => execDemandFaultReadComplete_within page ok s
  | .demandFaultInstallComplete page, s => execDemandFaultInstallComplete_within page s
  | .lineEviction line, s => execLineEviction_within line s
  | .partialLineMerge line err, s => execPartialLineMerge_within line err s
  | .decayEpochAdvance, s => execDecayEpochAdvance_within s
  | .scannerVisit, s => execScannerVisit_within s
  | .demotionComplete page, s => execDemotionComplete_within page s
  | .promotionComplete page, s => execPromotionComplete_within page s
  | .compactionMoveComplete page, s => execCompactionMoveComplete_within page s
  | .relocationLineCopy page err, s => execRelocationLineCopy_within page err s
  | .rekeyPageConversion engine, s => execRekeyPageConversion_within engine s
  | .refreshDue ch sub rank cid ba, s => execRefreshDue_within ch sub rank cid ba s
  | .rdWindowStart, s => execRdWindowStart_within s
  | .rdThresholdReached ch bank row, s => execRdThresholdReached_within ch bank row s
  | .writeDrainEntry ch, s => execWriteDrainEntry_within ch s
  | .writeDrainExit ch, s => execWriteDrainExit_within ch s
  | .thermalSensorRead ch slot temp, s => execThermalSensorRead_within ch slot temp s
  | .pmicStatusRead ch slot fault, s => execPmicStatusRead_within ch slot fault s
  | .pmicInterrupt ch slot fault, s => execPmicInterrupt_within ch slot fault s
  | .dimmAlert ch sub rank ok, s => execDimmAlert_within ch sub rank ok s
  | .devMarkWinStart, s => execDevMarkWinStart_within s
  | .devMarked ch sub rank cid dev, s => execDevMarked_within ch sub rank cid dev s
  | .scrubRead ch, s => execScrubRead_within ch s
  | .selfRefreshEntry ch, s => execSelfRefreshEntry_within ch s
  | .selfRefreshExit ch patternOk trainOk, s => execSelfRefreshExit_within ch patternOk trainOk s
  | .fullTraining ch ok pop, s => execFullTraining_within ch ok pop s
  | .calRecordRestore ch checksOk pop, s => execCalRecordRestore_within ch checksOk pop s
  | .dirtyCeilingWindow, s => execDirtyCeilingWindow_within s
  | .flushBwProbe bytes, s => execFlushBwProbe_within bytes s
  | .wbAgeExpiry page, s => execWbAgeExpiry_within page s
  | .segmentWritesComplete seq, s => execSegmentWritesComplete_within seq s
  | .segCommit seq, s => execSegCommit_within seq s
  | .nvmeWriteFailed seq, s => execNvmeWriteFailed_within seq s
  | .mapBlockWriteback block, s => execMapBlockWriteback_within block s
  | .hotListRewrite, s => execHotListRewrite_within s
  | .smartLogPoll ssd critical fatal, s => execSmartLogPoll_within ssd critical fatal s
  | .ledgerTimeoutExpiry ssd, s => execLedgerTimeoutExpiry_within ssd s
  | .ssdResetTimeout ssd, s => execSsdResetTimeout_within ssd s
  | .ssdReady ssd ident, s => execSsdReady_within ssd ident s
  | .holdupEntry, s => execHoldupEntry_within s
  | .holdupFreeze, s => execHoldupFreeze_within s
  | .dirtyListCommitted, s => execDirtyListCommitted_within s
  | .holdupFlushCommitted, s => execHoldupFlushCommitted_within s
  | .holdDoneWritten, s => execHoldDoneWritten_within s
  | .watchEntry, s => execWatchEntry_within s
  | .holdupEnergyCheck eStore, s => execHoldupEnergyCheck_within eStore s
  | .feedReturnInHoldup, s => execFeedReturnInHoldup_within s
  | .watchPeriodSample eStore slotFault, s => execWatchPeriodSample_within eStore slotFault s
  | .watchExit, s => execWatchExit_within s
  | .tideResume slowCycles, s => execTideResume_within slowCycles s
  | .slowPeriodCalibration crystalCycles, s => execSlowPeriodCalibration_within crystalCycles s
  | .ledgerReplay, s => execLedgerReplay_within s
  | .manifestChoice, s => execManifestChoice_within s
  | .pendingFrameRestore frame, s => execPendingFrameRestore_within frame s
  | .backgroundRestorePage, s => execBackgroundRestorePage_within s
  | .restoreFirstPassEnd, s => execRestoreFirstPassEnd_within s
  | .feedsFailInRecovery, s => execFeedsFailInRecovery_within s
  | .budgetWindowStart, s => execBudgetWindowStart_within s
  | .ageLimitExpiry src tag, s => execAgeLimitExpiry_within src tag s
  | .overdueLimitReached src tag, s => execOverdueLimitReached_within src tag s
  | .capHoldRelease port cls, s => execCapHoldRelease_within port cls s
  | .detectStep port lanes, s => execDetectStep_within port lanes s
  | .ts1 port lane ts, s => execTs1_within port lane ts s
  | .ts2 port lane ts, s => execTs2_within port lane ts s
  | .pollTimeout port, s => execPollTimeout_within port s
  | .configTimeout port, s => execConfigTimeout_within port s
  | .eqTimeout port, s => execEqTimeout_within port s
  | .retrainTimeout port, s => execRetrainTimeout_within port s
  | .ts1LossTimeout port, s => execTs1LossTimeout_within port s
  | .payloadFlit port flit, s => execPayloadFlit_within port flit s
  | .idleFlit port flit, s => execIdleFlit_within port flit s
  | .badFlit port flit, s => execBadFlit_within port flit s
  | .ackTimeoutExpiry port, s => execAckTimeoutExpiry_within port s
  | .laneFailed port lane dir symbols, s => execLaneFailed_within port lane dir symbols s
  | .wPropose port id arg, s => execWPropose_within port id arg s
  | .wAccept port id arg, s => execWAccept_within port id arg s
  | .wReject port id arg, s => execWReject_within port id arg s
  | .wSwitch port id arg, s => execWSwitch_within port id arg s
  | .lpReq port id arg, s => execLpReq_within port id arg s
  | .lpAck port id arg, s => execLpAck_within port id arg s
  | .lpNak port id arg, s => execLpNak_within port id arg s
  | .linkOff port id arg, s => execLinkOff_within port id arg s
  | .widthCapChange port code, s => execWidthCapChange_within port code s
  | .lmcTimeoutExpiry port, s => execLmcTimeoutExpiry_within port s
  | .laneLockTimeout port, s => execLaneLockTimeout_within port s
  | .lowPowerExit port, s => execLowPowerExit_within port s
  | .lowPowerExitTimeout port, s => execLowPowerExitTimeout_within port s
  | .tagQuietExpiry node tag, s => execTagQuietExpiry_within node tag s
  | .eventMsg port event, s => execEventMsg_within port event s
  | .rsvReq q, s => execRsvReq_within q s
  | .rsvGrant q, s => execRsvGrant_within q s
  | .rsvRevoke q, s => execRsvRevoke_within q s
  | .rsvReturn q, s => execRsvReturn_within q s
  | .domainDrainComplete dom, s => execDomainDrainComplete_within dom s
  | .domainWake dom, s => execDomainWake_within dom s
  | .domainWakeComplete dom, s => execDomainWakeComplete_within dom s
  | .nocUe router port, s => execNocUe_within router port s
  | .bridgeUnitReplay bridge, s => execBridgeUnitReplay_within bridge s
  | .routeEpochSwitch, s => execRouteEpochSwitch_within s
  | .epochRetirement, s => execEpochRetirement_within s
  | .routeStuck, s => execRouteStuck_within s
  | .freeze trigger, s => execFreeze_within trigger s
  | .freezeDumpComplete, s => execFreezeDumpComplete_within s
  | .release, s => execRelease_within s
  | .ringEnable path ring word, s => execRingEnable_within path ring word s
  | .ringDisable path ring word, s => execRingDisable_within path ring word s
  | .ringDbSqTail path node ring value, s => execRingDbSqTail_within path node ring value s
  | .ringDbCqHead path node ring value, s => execRingDbCqHead_within path node ring value s
  | .ringFetch cpx, s => execRingFetch_within cpx s
  | .completionPost ring idx, s => execCompletionPost_within ring idx s
  | .moverUnitComplete ring idx, s => execMoverUnitComplete_within ring idx s
  | .copy ring idx, s => execCopy_within ring idx s
  | .fill ring idx, s => execFill_within ring idx s
  | .compare ring idx, s => execCompare_within ring idx s
  | .zero ring idx, s => execZero_within ring idx s
  | .pinHot ring idx, s => execPinHot_within ring idx s
  | .unpin ring idx, s => execUnpin_within ring idx s
  | .demote ring idx, s => execDemote_within ring idx s
  | .prefetch ring idx, s => execPrefetch_within ring idx s
  | .persistBarrier ring idx, s => execPersistBarrier_within ring idx s
  | .snapshot ring idx, s => execSnapshot_within ring idx s
  | .snapshotPointFixed ring idx, s => execSnapshotPointFixed_within ring idx s
  | .queryTier ring idx, s => execQueryTier_within ring idx s
  | .scrubRange ring idx, s => execScrubRange_within ring idx s
  | .keyLoad ring idx, s => execKeyLoad_within ring idx s
  | .keyRetire ring idx, s => execKeyRetire_within ring idx s
  | .rekeyStart ring idx, s => execRekeyStart_within ring idx s
  | .retireFrame ring idx, s => execRetireFrame_within ring idx s
  | .retireBank ring idx, s => execRetireBank_within ring idx s
  | .calRestoreFactory ring idx, s => execCalRestoreFactory_within ring idx s
  | .go path, s => execGo_within path s
  | .bootCopyTry, s => execBootCopyTry_within s
  | .spiNorWrite region words, s => execSpiNorWrite_within region words s
  | .resetNAssert ns, s => execResetNAssert_within ns s
  | .resetNRelease ns, s => execResetNRelease_within ns s
  | .pwrokDeassert ns, s => execPwrokDeassert_within ns s
  | .pwrokAssert ns, s => execPwrokAssert_within ns s
  | .harnessingComplete, s => execHarnessingComplete_within s
  | .serviceEntry, s => execServiceEntry_within s
  | .aonRestart, s => execAonRestart_within s
  | .drainToStall path, s => execDrainToStall_within path s
  | .drainToMaint path, s => execDrainToMaint_within path s
  | .leaveMaint path, s => execLeaveMaint_within path s
  | .drainLimit, s => execDrainLimit_within s
  | .drainCleanPoint, s => execDrainCleanPoint_within s
  | .gaitChange, s => execGaitChange_within s
  | .gaitDeepen, s => execGaitDeepen_within s
  | .groupIdleExpiry grp, s => execGroupIdleExpiry_within grp s
  | .prepareAllAgreed grp, s => execPrepareAllAgreed_within grp s
  | .refuse dom reason, s => execRefuse_within dom reason s
  | .prepareAnswerTimeout dom, s => execPrepareAnswerTimeout_within dom s
  | .backoffExpiry grp, s => execBackoffExpiry_within grp s
  | .fastTrip ch mA, s => execFastTrip_within ch mA s
  | .faultTimerExpiry ch mA, s => execFaultTimerExpiry_within ch mA s
  | .inrushTimeout ch, s => execInrushTimeout_within ch s
  | .gateFullyOn ch pgOk, s => execGateFullyOn_within ch pgOk s
  | .presenceAsserted ch, s => execPresenceAsserted_within ch s
  | .presenceRemoved ch, s => execPresenceRemoved_within ch s
  | .insertDebounceComplete ch, s => execInsertDebounceComplete_within ch s
  | .cooldownElapsed ch, s => execCooldownElapsed_within ch s
  | .retryCountClear ch, s => execRetryCountClear_within ch s
  | .ppDamaged ch, s => execPpDamaged_within ch s
  | .feedQualified feed, s => execFeedQualified_within feed s
  | .feedDisqualified feed why, s => execFeedDisqualified_within feed why s
  | .feedReturnHoldExpiry, s => execFeedReturnHoldExpiry_within s
  | .breakTimeExpiry, s => execBreakTimeExpiry_within s
  | .energyFrame vStore busV samples, s => execEnergyFrame_within vStore busV samples s
  | .storeTestStart, s => execStoreTestStart_within s
  | .storeTest v2 eOut, s => execStoreTest_within v2 eOut s
  | .ppdLink, s => execPpdLink_within s
  | .bayWarnLeadExpiry bay, s => execBayWarnLeadExpiry_within bay s
  | .perstDelayExpiry bay, s => execPerstDelayExpiry_within bay s
  | .commandedOff path ch, s => execCommandedOff_within path ch s
  | .commandedOn path ch, s => execCommandedOn_within path ch s
  | .logEntryArrival n, s => execLogEntryArrival_within n s
  | .logRateWindowStart, s => execLogRateWindowStart_within s
  | .extendedLogCopy, s => execExtendedLogCopy_within s
  | .aonLogAck path value, s => execAonLogAck_within path value s
  | .eventAck path event count, s => execEventAck_within path event count s
  | .samplerThreshold n, s => execSamplerThreshold_within n s
  | .sampleCapture n op line node tag cls due, s => execSampleCapture_within n op line node tag cls due s
  | .sampleNoRequestTimeout n, s => execSampleNoRequestTimeout_within n s
  | .sampleRingConsume path value, s => execSampleRingConsume_within path value s
  | .frameWinStart, s => execFrameWinStart_within s
  | .frameRetired dfa, s => execFrameRetired_within dfa s
  | .bankSuspect bank, s => execBankSuspect_within bank s
  | .paritySweep offset mismatch, s => execParitySweep_within offset mismatch s
  | .write32 f, s => execWrite32_within f s
  | .read32 f, s => execRead32_within f s
  | .write64 f, s => execWrite64_within f s
  | .read64 f, s => execRead64_within f s
  | .i3cPrivateRead, s => execI3cPrivateRead_within s
  | .registerWrite path offset be data wide, s => execRegisterWrite_within path offset be data wide s
  | .indirectDataAccess path offset write be data, s => execIndirectDataAccess_within path offset write be data s
  | .deviceCold path key force inst, s => execDeviceCold_within path key force inst s
  | .deviceWarm path key force inst, s => execDeviceWarm_within path key force inst s
  | .afl path key force inst, s => execAfl_within path key force inst s
  | .pe path key force inst, s => execPe_within path key force inst s
  | .bay path key force inst, s => execBay_within path key force inst s
  | .mgt path key force inst, s => execMgt_within path key force inst s
  | .programOwner path key slot, s => execProgramOwner_within path key slot s
  | .revokeOwner path key slot, s => execRevokeOwner_within path key slot s
  | .programBoard path key slot, s => execProgramBoard_within path key slot s
  | .otpProgramDone readBackOk, s => execOtpProgramDone_within readBackOk s
  | .svnCommitFw path key, s => execSvnCommitFw_within path key s
  | .svnCommitHarness path key, s => execSvnCommitHarness_within path key s
  | .disable path port, s => execDisable_within path port s
  | .disableClear path port, s => execDisableClear_within path port s
  | .dieHot sensor temp, s => execDieHot_within sensor temp s
  | .thermtrip sensor temp, s => execThermtrip_within sensor temp s
  | .thermtripRecovery temp, s => execThermtripRecovery_within temp s
  | .xtalFail slow, s => execXtalFail_within slow s
  | .refclkLoss pcie inst, s => execRefclkLoss_within pcie inst s
  | .dramCommandSlot ch sub, s => execDramCommandSlot_within ch sub s
  | .pciePeerAccess peNo reqId addr write mask data, s => execPciePeerAccess_within peNo reqId addr write mask data s
  | .debugAccess addr write data, s => execDebugAccess_within addr write data s
  | .linkIdleEntry port, s => execLinkIdleEntry_within port s
  | .dynamicAddressAssignment addr, s => execDynamicAddressAssignment_within addr s
  | .ppdPowerOn slots bays, s => execPpdPowerOn_within slots bays s
  | .aonSupplyLoss, s => execAonSupplyLoss_within s

theorem exec_keeps_inv {c : Instr} {s t : State} (inv : Inv s) (run : exec c s = .next t) : Inv t :=
  ((exec_within c s).imp t run).wf inv

/-- Settles O60: on an empty queue a tick keeps memory's form, and otherwise the command at the front does. -/
theorem stepKeepsInv : Obligations.StepKeepsInv := by
  unfold Obligations.StepKeepsInv
  intro s t inv run
  cases queue : s.pending with
  | nil =>
    have ticked : tideTick s = t := by simpa [step, queue] using run
    exact ticked ▸ (tideTick_within s).wf inv
  | cons c rest =>
    have ran : exec c { s with pending := rest } = .next t := by simpa only [step, queue] using run
    exact exec_keeps_inv (s := { s with pending := rest }) inv ran

end Sys2Proof.Laws
end

section
/-! PROOFS. The responses to the device's own requests (R117, R164, R178 to R180, R308, R309): what each leaves of the one request that is
outstanding, and of its line. -/

namespace Sys2Proof.Laws

open Sys2Proof Sys2Proof.Machine

/-! ## Maps with one entry written again -/

theorem length_sdel_le {α : Type} (m : SMap α) (k : Nat) : (sdel m k).length ≤ m.length := by
  induction m with
  | nil => simp [sdel]
  | cons e r ih =>
    obtain ⟨i, v⟩ := e
    by_cases here : i = k <;> simp [sdel, here] <;> omega

theorem length_sins {α : Type} (m : SMap α) (k : Nat) (v : α) : (sins k v m).length = m.length + 1 := by
  induction m with
  | nil => rfl
  | cons e r ih =>
    obtain ⟨i, w⟩ := e
    by_cases before : k < i <;> simp [sins, before, ih]

theorem length_sset_le {α : Type} [DecidableEq α] (d : α) (m : SMap α) (k : Nat) (v : α) : (sset d m k v).length ≤ m.length + 1 := by
  have del := length_sdel_le m k
  unfold sset
  split
  · omega
  · rw [length_sins]; omega

theorem sdel_of_absent {α : Type} {m : SMap α} {k : Nat} (absent : ∀ e ∈ m, e.1 ≠ k) : sdel m k = m := by
  induction m with
  | nil => rfl
  | cons e r ih =>
    obtain ⟨i, v⟩ := e
    have ne : i ≠ k := absent (i, v) (by simp)
    simp [sdel, ne, ih fun e he => absent e (by simp [he])]

theorem sdel_sins_of_absent {α : Type} {m : SMap α} {k : Nat} (absent : ∀ e ∈ m, e.1 ≠ k) (v : α) : sdel (sins k v m) k = m := by
  induction m with
  | nil => simp [sins, sdel]
  | cons e r ih =>
    obtain ⟨i, w⟩ := e
    have ne : i ≠ k := absent (i, w) (by simp)
    have rest : ∀ e ∈ r, e.1 ≠ k := fun e he => absent e (by simp [he])
    by_cases before : k < i
    · simp [sins, sdel, before, ne, sdel_of_absent rest]
    · simp [sins, sdel, before, ne, ih rest]

/-- The last write of an entry is the one that counts. -/
theorem sset_sset {α : Type} [DecidableEq α] (d : α) (m : SMap α) (k : Nat) (v w : α) : sset d (sset d m k v) k w = sset d m k w := by
  have same : sdel (sset d m k v) k = sdel m k := by
    rw [sset]
    split
    · exact sdel_of_absent (sdel_keys m k)
    · exact sdel_sins_of_absent (sdel_keys m k) v
  rw [sset, same, sset]

/-! ## Lines of another home -/

theorem remoteOf_setRemote (home : Node) (line : Line) (v : RLine) (s : State) : remoteOf (setRemote home line v s) home line = v :=
  sget_sset_same ..

theorem setRemote_setRemote (home : Node) (line : Line) (v w : RLine) (s : State) :
    setRemote home line w (setRemote home line v s) = setRemote home line w s := by
  simp only [setRemote, sset_sset]

theorem remoteOf_of_quay {s t : State} (h : t.quay = s.quay) (home : Node) (line : Line) : remoteOf t home line = remoteOf s home line := by
  rw [remoteOf, h, remoteOf]

/-- A line more of another home fits where the partition has room for one. -/
theorem remoteFit_setRemote {s : State} (room : s.quay.remote.length < remoteRoom s) (home : Node) (line : Line) (v : RLine) :
    remoteFit (setRemote home line v s) = setRemote home line v s := by
  have fits : (setRemote home line v s).quay.remote.length ≤ remoteRoom (setRemote home line v s) :=
    (length_sset_le ..).trans room
  rw [remoteFit, if_pos fits]

theorem remoteRoom_of_kept {s t : State} (c : t.cfg = s.cfg) (f : t.fuse = s.fuse) : remoteRoom t = remoteRoom s := by
  have recs : ∀ ty rt, recsOf t ty rt = recsOf s ty rt := fun ty rt => by simp only [recsOf, typedRecs, sectionRecs, c, f]
  simp only [remoteRoom, holdingLines, parkReserve, sharers, quayPart, numBanks, recs, param_of_kept c f, f]

/-! ## The receipt of a response -/

/-- A response has left the receive buffer of its port, and is counted. -/
def answerTaken (op : BitVec 8) (p : Rsp) (s : State) : State := evAfl p.port 15 (takeRx p.port op p.src p.tag s)

theorem answerTaken_within (op : BitVec 8) (p : Rsp) (s : State) :
    Within { port := true, ev := true, mgt := true } s (answerTaken op p s) :=
  ((takeRx_within ..).mono rfl).trans ((evAfl_within ..).mono rfl)

theorem answerTaken_quay (op : BitVec 8) (p : Rsp) (s : State) : (answerTaken op p s).quay = s.quay :=
  within_quay (answerTaken_within op p s) rfl

theorem replyAwaited_taken {s : State} {p : Rsp} {d : DevReq} (h : ReplyAwaited s p d) (op : BitVec 8) :
    ReplyAwaited (answerTaken op p s) p d := by
  have kept := answerTaken_within op p s
  have cfg := keeps_cfg kept.same rfl
  have fuse := keeps_fuse kept.same rfl
  have quay := answerTaken_quay op p s
  exact
    { mode := (within_mode kept rfl).trans h.mode
      reqs := by rw [quay]; exact h.reqs
      named := h.named
      home := by rw [nodeId, param_of_kept cfg fuse]; exact h.home
      room := by rw [quay, remoteRoom_of_kept cfg fuse]; exact h.room }

/-! ## What is done of the request -/

/-- The request after its response. -/
def answeredReq (op : BitVec 8) (st : BitVec 4) (data : BitVec 512) (d : DevReq) : DevReq :=
  { d with status := some st, data := if op = 0x4B || op = 0x4E then data else d.data, held := none, spec := 0 }

/-- The one request that is outstanding has become `d`. -/
def withReq (d : DevReq) (s : State) : State := { s with quay.devReqs := [d] }

/-- The line as a grant leaves it, with the store that waited for a DATA_E laid down in it. -/
def grantedLine (op : BitVec 8) (d : DevReq) (old : RLine) (data : BitVec 512) : RLine :=
  if op = 0x48 ∧ (d.op = 0x03 ∨ d.op = 0x04) then { st := .m, data := d.data } else installed op d old data

/-- A store finds the line that DATA_E installed in E, and leaves it in M. -/
theorem cacheAccess_installed (d : DevReq) (line : Line) (old : RLine) (data : BitVec 512) (s : State) :
    cacheAccess d.dst line (some d.data) (setRemote d.dst line (installed 0x48 d old data) s) =
      setRemote d.dst line { st := .m, data := d.data } s := by
  have exclusive : installed 0x48 d old data = { st := .e, data := data } := rfl
  simp only [exclusive, cacheAccess, remoteOf_setRemote, Bool.false_eq_true, if_false]
  exact setRemote_setRemote ..

section

variable {s : State} {p : Rsp} {d : DevReq}

theorem map_awaited (status : d.status = none) (f : DevReq → DevReq) :
    [d].map (fun x => if x.dst = d.dst && x.tag = d.tag && x.status.isNone then f x else x) = [f d] := by simp [status]

/-- A response that grants no copy ends the request only. -/
theorem finishReq_noCopy {op : BitVec 8} (reqs : s.quay.devReqs = [d]) (status : d.status = none) (none : op = 0x5E ∨ op = 0x4B)
    (st : BitVec 4) (data : BitVec 512) : finishReq op st data d s = withReq (answeredReq op st data d) s := by
  have noCopy : (op = 0x5E || op = 0x4B) = true := by simpa using none
  simp only [finishReq, reqs, map_awaited status, noCopy, if_true, withReq, answeredReq]

/-- A response that grants a copy installs it, and the store that waits for it. -/
theorem finishReq_copy {op : BitVec 8} (reqs : s.quay.devReqs = [d]) (status : d.status = none)
    (room : s.quay.remote.length < remoteRoom s) (copy : op ≠ 0x5E ∧ op ≠ 0x4B) (st : BitVec 4) (data : BitVec 512) :
    finishReq op st data d s = setRemote d.dst (BitVec.ofNat 39 d.line)
      (grantedLine op d (remoteOf s d.dst (BitVec.ofNat 39 d.line)) data) (withReq (answeredReq op st data d) s) := by
  have fits := remoteFit_setRemote (s := withReq (answeredReq op st data d) s) room d.dst (BitVec.ofNat 39 d.line)
  have noCopy : ¬ (op = 0x5E || op = 0x4B) = true := by simpa using copy
  simp only [finishReq, reqs, map_awaited status, if_neg noCopy]
  by_cases store : op = 0x48 ∧ (d.op = 0x03 ∨ d.op = 0x04)
  · have laid : (op = 0x48 && (d.op = 0x03 || d.op = 0x04)) = true := by simpa using store
    rw [if_pos laid, grantedLine, if_pos store]
    obtain ⟨rfl, -⟩ := store
    exact (congrArg remoteFit (cacheAccess_installed ..)).trans (fits _)
  · have none : ¬ (op = 0x48 && (d.op = 0x03 || d.op = 0x04)) = true := by simpa using store
    rw [if_neg none, grantedLine, if_neg store]
    exact fits _

/-- A speculative response waits for two flits more (R117). -/
theorem holdSpec_of_awaited (reqs : s.quay.devReqs = [d]) (status : d.status = none) (op : BitVec 8) (data : BitVec 512) :
    holdSpec op data d s = withReq { d with held := some (op, data), spec := 2 } s := by
  unfold holdSpec
  rw [reqs, map_awaited status]
  rfl

theorem sendCmpAck_quay (d : DevReq) (s : State) : (sendCmpAck d s).quay = s.quay := by
  unfold sendCmpAck
  split
  · exact within_quay (sendPkt_within ..) rfl
  · rfl

/-! ## The responses -/

/-- STATUS of a response as the request keeps it: OK but for an error. -/
def keptStatus (op : BitVec 8) (p : Rsp) : BitVec 4 := if op = 0x5E then (if 5 ≤ p.status.toNat then 2 else p.status) else 0

theorem devResponse_awaited {op : BitVec 8} (h : ReplyAwaited s p d) (status : d.status = none) (held : d.held = none)
    (direct : op = 0x49 → p.fwd = false) :
    devResponse op p s = sendCmpAck d (if p.spec && op ≠ 0x5E then holdSpec op p.data d (answerTaken op p s)
      else finishReq op (keptStatus op p) p.data d (answerTaken op p s)) := by
  obtain ⟨_, reqs, ⟨dst, tag⟩, home, _⟩ := replyAwaited_taken h op
  have mine : ¬ (op = 0x49 && p.fwd) = true := by simpa using direct
  have found : (answerTaken op p s).quay.devReqs.find? (fun d => d.dst = p.src && d.tag = p.tag && d.status.isNone) = some d := by
    simp [reqs, dst, tag, status]
  unfold devResponse
  rw [← answerTaken]
  simp only [h.mode, if_neg mine, home, ne_eq, not_true_eq_false, if_false, found, held, Option.isSome_none, reduceCtorEq,
    decide_false, Bool.or_self, Bool.false_eq_true, keptStatus]

section

variable {op : BitVec 8} (h : ReplyAwaited s p d) (status : d.status = none) (held : d.held = none) (direct : op = 0x49 → p.fwd = false)
include h status held direct

theorem devResponse_noCopy (certain : p.spec = false ∨ op = 0x5E) (none : op = 0x5E ∨ op = 0x4B) (line : Line) :
    (devResponse op p s).quay.devReqs = [answeredReq op (keptStatus op p) p.data d] ∧
      remoteOf (devResponse op p s) d.dst line = remoteOf s d.dst line := by
  have done : ¬ (p.spec && op ≠ 0x5E) = true := by rcases certain with e | e <;> simp [e]
  have ended := finishReq_noCopy (replyAwaited_taken h op).reqs status none (keptStatus op p) p.data
  rw [devResponse_awaited h status held direct, if_neg done, ended, sendCmpAck_quay, remoteOf_of_quay (sendCmpAck_quay ..)]
  exact ⟨rfl, remoteOf_of_quay (answerTaken_quay op p s) ..⟩

theorem devResponse_copy (certain : p.spec = false) (copy : op ≠ 0x5E ∧ op ≠ 0x4B) :
    (devResponse op p s).quay.devReqs = [answeredReq op 0 p.data d] ∧ remoteOf (devResponse op p s) d.dst (BitVec.ofNat 39 d.line) =
      grantedLine op d (remoteOf s d.dst (BitVec.ofNat 39 d.line)) p.data := by
  have taken := replyAwaited_taken h op
  have ok : keptStatus op p = 0 := if_neg copy.1
  have done : ¬ (p.spec && op ≠ 0x5E) = true := by simp [certain]
  have ended := finishReq_copy taken.reqs status taken.room copy 0 p.data
  rw [devResponse_awaited h status held direct, if_neg done, ok, ended, sendCmpAck_quay, remoteOf_of_quay (sendCmpAck_quay ..),
    remoteOf_setRemote, remoteOf_of_quay (answerTaken_quay op p s)]
  exact ⟨rfl, rfl⟩

theorem devResponse_spec (spec : p.spec = true) (data : op ≠ 0x5E) (line : Line) :
    (devResponse op p s).quay.devReqs = [{ d with held := some (op, p.data), spec := 2 }] ∧
      remoteOf (devResponse op p s) d.dst line = remoteOf s d.dst line := by
  have waits : (p.spec && op ≠ 0x5E) = true := by simpa [spec] using data
  have kept := holdSpec_of_awaited (replyAwaited_taken h op).reqs status op p.data
  rw [devResponse_awaited h status held direct, if_pos waits, kept, sendCmpAck_quay, remoteOf_of_quay (sendCmpAck_quay ..)]
  exact ⟨rfl, remoteOf_of_quay (answerTaken_quay op p s) ..⟩

end

/-- WB_ACK frees the entry of the notice that it answers (R180). -/
theorem wbAck_frees (h : ReplyAwaited s p d) (status : d.status = none) (notice : d.op = 0x40 ∨ d.op = 0x41) :
    exec (.wbAck p) s = .next (setRemote d.dst d.line {} { answerTaken 0x4F p s with quay.devReqs := [] }) := by
  obtain ⟨_, reqs, ⟨dst, tag⟩, home, _⟩ := replyAwaited_taken h 0x4F
  have named : (decide (d.op = 0x40) || decide (d.op = 0x41)) = true := by simpa using notice
  have found : (answerTaken 0x4F p s).quay.devReqs.find? (fun d => d.dst = p.src && d.tag = p.tag && d.status.isNone &&
      (d.op = 0x40 || d.op = 0x41)) = some d := by
    rw [reqs]
    simp only [List.find?_cons, dst, tag, status, named, decide_true, Option.isNone_none, Bool.and_self]
  show execWbAck p s = _
  unfold execWbAck
  rw [← answerTaken]
  simp only [h.mode, home, ne_eq, not_true_eq_false, if_false, found, reduceCtorEq, decide_false, Bool.or_self, Bool.false_eq_true]
  simp only [reqs, List.filter_cons, decide_true, Bool.and_self, Bool.not_true, Bool.false_eq_true, if_false, List.filter_nil]

theorem exec_errCmp_of_quiet (txns : s.quay.txns = []) : exec (.errCmp p) s = .next (devResponse 0x5E p s) := by
  show execErrCmp p s = _
  simp [execErrCmp, txns]

/-- LATE_ALARM makes an ERR_DATA of the response that came before it; the line is dropped unless the response still waits (R309). -/
theorem lateAlarm_takes_back (h : ReplyAwaited s p d) (came : d.status = some 0 ∨ d.held.isSome = true) :
    exec (.lateAlarm p) s = .next (if d.held.isSome then withReq { d with status := some 1, held := none, spec := 0 } (answerTaken 0x5F p s)
      else setRemote d.dst d.line {} (withReq { d with status := some 1, held := none, spec := 0 } (answerTaken 0x5F p s))) := by
  obtain ⟨_, reqs, ⟨dst, tag⟩, home, _⟩ := replyAwaited_taken h 0x5F
  have early : (decide (d.status = some 0) || d.held.isSome) = true := by simpa using came
  have found : (answerTaken 0x5F p s).quay.devReqs.find? (fun d => d.dst = p.src && d.tag = p.tag &&
      (d.status = some 0 || d.held.isSome)) = some d := by
    rw [reqs]
    simp only [List.find?_cons, dst, tag, early, decide_true, Bool.and_self]
  show execLateAlarm p s = _
  unfold execLateAlarm
  rw [← answerTaken]
  simp only [h.mode, home, ne_eq, not_true_eq_false, if_false, found, reduceCtorEq, decide_false, Bool.or_self, Bool.false_eq_true]
  simp only [reqs, List.map_cons, List.map_nil, decide_true, Bool.and_self, early, if_true, withReq]

end

/-! ## The statement -/

/-- Settles O11: the responses that grant a copy, those that wait, those that grant none, and the alarm, each by its lemma. -/
theorem repliesAreTaken : Obligations.RepliesAreTaken := by
  unfold Obligations.RepliesAreTaken
  refine ⟨?_, ?_, ?_, ?_, ?_⟩
  · intro k mem s p d awaited status held direct
    have run : exec (k.1 p) s = .next (devResponse k.2 p s) := by fin_cases mem <;> rfl
    have copy : k.2 ≠ 0x5E ∧ k.2 ≠ 0x4B := by fin_cases mem <;> decide
    have data : ¬ (k.2 = 0x4B || k.2 = 0x4E) = true := by fin_cases mem <;> decide
    refine ⟨fun certain => ⟨_, run, ?_⟩, fun spec => ⟨_, run, devResponse_spec awaited status held (fun _ => direct) spec copy.1 _⟩⟩
    obtain ⟨reqs, line⟩ := devResponse_copy awaited status held (fun _ => direct) certain copy
    exact ⟨by rw [reqs, answeredReq, if_neg data, ← held], line⟩
  · intro k mem s p d awaited status held certain
    have run : exec (k.1 p) s = .next (devResponse k.2 p s) := by fin_cases mem <;> rfl
    have data : k.2 = 0x4B ∨ k.2 = 0x4E := by fin_cases mem <;> decide
    have kept : answeredReq k.2 0 p.data d = { d with status := some 0, data := p.data, spec := 0 } := by
      rw [answeredReq, if_pos (by simpa using data), ← held]
    have direct : k.2 = 0x49 → p.fwd = false := by rcases data with e | e <;> simp [e]
    refine ⟨_, run, ?_⟩
    rw [← kept]
    rcases data with e | e
    · have ok : keptStatus k.2 p = 0 := if_neg (by simp [e])
      exact ok ▸ devResponse_noCopy awaited status held direct (.inl certain) (.inr e) _
    · obtain ⟨reqs, line⟩ := devResponse_copy awaited status held direct certain (by simp [e])
      exact ⟨reqs, by rw [e] at line ⊢; exact line⟩
  · intro s p d awaited status notice
    exact ⟨_, wbAck_frees awaited status notice, rfl, remoteOf_setRemote ..⟩
  · intro s p d awaited status held txns small
    refine ⟨_, exec_errCmp_of_quiet txns, ?_⟩
    have kept : answeredReq 0x5E (keptStatus 0x5E p) p.data d = { d with status := some p.status, spec := 0 } := by
      have own : keptStatus 0x5E p = p.status := (if_pos rfl).trans (if_neg (by omega))
      rw [answeredReq, own, ← held]
      rfl
    rw [← kept]
    exact devResponse_noCopy awaited status held (fun e => absurd e (by decide)) (.inr rfl) (.inl rfl) _
  · intro s p d awaited
    refine ⟨fun ok none => ?_, fun _ waits => ?_⟩
    · refine ⟨_, lateAlarm_takes_back awaited (.inl ok), ?_⟩
      rw [none]
      exact ⟨rfl, remoteOf_setRemote ..⟩
    · refine ⟨_, lateAlarm_takes_back awaited (.inr waits), ?_⟩
      rw [if_pos waits]
      exact ⟨rfl, remoteOf_of_quay (answerTaken_quay 0x5F p s) ..⟩

end Sys2Proof.Laws
end

section
/-! PROOFS. Writes of a page whose key is not Active (R92): the statement fails where the bank's data partition is full and no line can
leave it (R31, R67, R243). -/

namespace Sys2Proof.Laws

open Sys2Proof Sys2Proof.Machine

/-- A line that was written whole. -/
def wholeLine : QLine := { data := 1, mask := BitVec.allOnes 64, dirty := true }

/-- A device in Service: node 1 shares 2 GiB with node 5, whose link at port 0 is up, and the first of them is a sealed range of key 1,
which was never loaded. The data partition of a bank holds 16 lines, and that of bank 1 is full of written lines of four Unbacked pages of
the other GiB; there is no frame to evict them to. -/
def fullBank : State :=
  { aon := { mode := .service }
    cfg := [(1, [BitVec.ofNat 128 (1 + 0x0D * 2 ^ 8 + 0xFF * 2 ^ 24 + 1 * 2 ^ 64), BitVec.ofNat 128 (0x11 + 1 * 2 ^ 14),
      BitVec.ofNat 128 (0x11 + 5 * 2 ^ 14)]), (2, [BitVec.ofNat 128 (1 + 0x0D * 2 ^ 8 + 2 * 2 ^ 16 + 0xFF * 2 ^ 24 + 2 ^ 31 * 2 ^ 64),
      BitVec.ofNat 128 (0x23 + 1 * 2 ^ 8)]), (8, [BitVec.ofNat 128 (0x30 + 1 * 2 ^ 24 + 1 * 2 ^ 40)])]
    port := [(0, { st := .active })]
    quay := { lines := (List.range 16).map (fun k => (2 ^ 24 + 17 * k, some wholeLine))
              desc := (List.range 4).map (fun k => (2 ^ 18 + k, writtenDesc)) } }

/-- A write of a line of bank 1 in the sealed range by node 5. -/
def unkeyedWrite : Req := { port := 0, src := 5, dst := 1, tag := 7, line := 0x122, mask := 0xF0, data := 1 }

theorem unkeyedWrite_atHome : AtHome fullBank unkeyedWrite where
  mode := rfl
  quiet := ⟨rfl, rfl, rfl, rfl, rfl, rfl, rfl⟩
  hold := rfl
  restored := rfl
  cmds := rfl
  home := by decide +kernel
  other := by decide +kernel
  inside := by decide +kernel
  member := by decide +kernel
  up := by decide +kernel

/-- The write waits for room in its bank (R243), and no answer is sent. -/
theorem unkeyedWrite_waits : ∃ t, exec (.wrFull unkeyedWrite) fullBank = .next t ∧
    t.quay.busy.map (fun w => w.req.tag) = [7] ∧ (portOf t 0).egress = [] :=
  ⟨homeRequest 0x08 unkeyedWrite fullBank, rfl, by decide +kernel, by decide +kernel⟩

/-- Refutes O51: the statement does not ask for room in the data partition of the line's bank. A write starts only with room for its line
(R243); with every line of the bank dirty and no frame free it waits, where the statement has it answered with ERR_NODATA. -/
theorem not_unkeyedWritesFail : ¬ Obligations.UnkeyedWritesFail := by
  unfold Obligations.UnkeyedWritesFail
  intro h
  obtain ⟨t, run, ⟨pre, sent⟩, -⟩ := h .wrFull (by simp) fullBank unkeyedWrite 1 false unkeyedWrite_atHome (by decide +kernel)
    (by decide +kernel) rfl (by decide +kernel) (by decide +kernel) rfl (by decide +kernel) (by decide +kernel)
  obtain ⟨u, run', -, silent⟩ := unkeyedWrite_waits
  cases run.symm.trans run'
  simp [unkeyedWrite, silent] at sent

end Sys2Proof.Laws
end

section
/-! PROOFS. Lines of berths that return good (R114, R149, R154): each goes to the request that waits for it, and fills the Quay data
partition. -/

namespace Sys2Proof.Laws

open Sys2Proof Sys2Proof.Machine

/-! ## What a read that has returned leaves -/

section

variable {s v : State} (h : ReadsKept s v)
include h

theorem ReadsKept.readsAs {addr : Nat} {err y : BitVec 640} (reads : ReadsAs s addr err y) : ReadsAs v addr err y := by
  obtain ⟨online, good⟩ := reads
  exact ⟨(h.lineOffline addr).trans online, by rw [h.dramContent, h.markOf, good]⟩

theorem ReadsKept.room {l : Line} (room : (bankLines s (bankOf s l)).length < dataCap s) :
    (bankLines v (bankOf v l)).length < dataCap v := by
  have banks : ∀ l, bankOf v l = bankOf s l := fun l => by simp only [bankOf, h.recsOf, h.fuse]
  have held : ∀ b, bankLines v b = bankLines s b := fun b => by
    simp only [bankLines, banks, show v.quay.lines = s.quay.lines from h.inQuay Quay.lines]
  rw [banks, held, dataCap, h.recsOf]
  exact room

theorem ReadsKept.regionOf (dfa : Nat) : regionOf v dfa = regionOf s dfa := by simp only [Machine.regionOf, regions, h.recsOf]

end

/-- The one read that is out has returned. -/
def readReturned (addr : Nat) (s : State) : State := dropQueued addr { s with dram.reads := [] }

theorem dropRead_of_single {s : State} {r : LineRead} {addr : Nat} {again : Bool} (reads : s.dram.reads = [r]) (here : r.addr = addr)
    (time : r.again = again) : dropRead addr again s = { s with dram.reads := [] } := by
  simp [dropRead, reads, here, time]

theorem readsKept_readReturned (addr : Nat) (s : State) : ReadsKept s (readReturned addr s) :=
  ReadsKept.trans (s := { s with dram.reads := [] }) ⟨rfl, rfl, rfl, rfl, rfl, rfl, rfl, rfl, fun _ => rfl⟩ (readsKept_dropQueued ..)

theorem readReturned_txns (addr : Nat) (s : State) : (readReturned addr s).quay.txns = s.quay.txns := by
  rw [readReturned, within_quay (dropQueued_within ..) rfl]

theorem readReturned_reads (addr : Nat) (s : State) : (readReturned addr s).dram.reads = [] := by
  unfold readReturned dropQueued
  split <;> rfl

/-! ## The delivery -/

/-- The line is delivered, and the Quay data partition holds it clean; no read is out, and DRAM stores what it did. -/
structure LineServed (s : State) (t : Txn) (x : BitVec 512) (u : State) : Prop where
  sent : Delivered s t x u
  reads : u.dram.reads = []
  line : ∃ q, qline u (txnLine t) = some q ∧ q.data = x ∧ q.mask = BitVec.allOnes 64 ∧ q.dirty = false
  mem : u.dram.mem = s.dram.mem

/-- The line as a fill for the transaction brings it. -/
def filledLine (t : Txn) (x : BitVec 512) : QLine := { data := x, mask := BitVec.allOnes 64, cls := t.req.cls }

/-- The partition has taken the line. -/
def lineFilled (t : Txn) (x : BitVec 512) (v : State) : State := useLine (txnLine t) (filledLine t x) v

theorem lineSent_within (t : Txn) (x : BitVec 512) (s : State) :
    Within { quay := true, port := true, reins := true } s (lineSent t x s) :=
  ((setDir_within ..).mono rfl).trans (((sendPkt_within ..).mono rfl).trans ((countEnd_within ..).mono rfl))

/-- A line that comes for the one transaction of the home fills the partition and is delivered. -/
theorem lineServed_of_delivery {s v : State} {t : Txn} (h : DataAwaited s t) (kept : ReadsKept s v) (txns : v.quay.txns = [t])
    (reads : v.dram.reads = []) (room : (bankLines s (bankOf s (txnLine t))).length < dataCap s) (x : BitVec 512) :
    LineServed s t x (settle (deliver t x false false (fillLine (txnLine t) x t.req.cls v))) := by
  have filled : Within { quay := true } v (lineFilled t x v) := useLine_within ..
  have heard : Heard t.req.port s (lineFilled t x v) := (kept.heard _).trans (heard_of_within filled rfl _)
  have rest : HomeIdle (lineFilled t x v) := kept.homeIdle h.rest
  have only : (lineFilled t x v).quay.txns = [t] := txns
  have sent := delivered_read heard h.up h.op h.other only rfl rest x
  have other : t.req.src ≠ nodeId (lineFilled t x v) := nodeId_of_heard heard ▸ h.other
  have run : settle (deliver t x false false (lineFilled t x v)) = putTxn (granted t) (lineSent t x (lineFilled t x v)) := by
    rw [deliver_read h.op other, settle_of_acked (txns_granted only rfl x) rfl (homeIdle_granted rest x)]
  have dram : (lineSent t x (lineFilled t x v)).dram = v.dram :=
    (keeps_dram (lineSent_within ..).same rfl rfl).trans (keeps_dram filled.same rfl rfl)
  obtain ⟨d, e, quay⟩ := lineSent_quay (s := lineFilled t x v) (t := t) x
  rw [fillLine_of_room (kept.room room)]
  change LineServed s t x (settle (deliver t x false false (lineFilled t x v)))
  refine ⟨sent, ?_, ⟨{ filledLine t x with stamp := v.quay.useStamp }, ?_, rfl, rfl, rfl⟩, ?_⟩ <;> rw [run]
  · exact (congrArg Dram.reads dram).trans reads
  · exact (congrArg (fun k : Quay => sget none k.lines (txnLine t).toNat) quay).trans (qline_useLine ..)
  · exact (congrArg Dram.mem dram).trans kept.mem

/-! ## Reads and re-reads of an unsealed berth line -/

section

variable {s v : State} {t : Txn} {addr : Nat} {err y : BitVec 640} (berth : BerthLine s t.line addr) (reads : ReadsAs s addr err y)
  (kept : ReadsKept s v) (txns : v.quay.txns = [t]) (phase : t.phase = .data)
include berth kept txns phase

/-- Where the line has been sought, what it reads, and who waits for it. -/
theorem berth_found : pageOf (BitVec.ofNat 39 t.line) = t.line / 64 ∧ lineAddr (descOf v (t.line / 64)) (t.line % 64) = some addr ∧
    dSealed (descOf v (t.line / 64)) = false ∧ waitingTxn v t.line = some t := by
  have page : pageOf (BitVec.ofNat 39 t.line) = t.line / 64 := by
    rw [pageOf, BitVec.toNat_ofNat, Nat.mod_eq_of_lt berth.range]
  refine ⟨page, ?_, ?_, ?_⟩
  · rw [kept.descOf]; exact berth.place
  · rw [kept.descOf]; exact berth.plain
  · simp [waitingTxn, txns, phase]

include reads

theorem berthRead_good (newer : Bool) : berthRead addr t.line err newer v =
    deliver t (devLine (devs y)) false false (fillLine (txnLine t) (devLine (devs y)) t.req.cls v) := by
  obtain ⟨page, place, plain, waits⟩ := berth_found berth kept txns phase
  have certain : ∀ st, specOk v (t.line / 64) t st = false := fun st => by simp [specOk, plain]
  unfold berthRead
  simp only [page, place, plain, waits, keyGone, Bool.false_and, Bool.false_eq_true, ne_eq, not_true_eq_false, if_false,
    readCheck_of_readsAs (kept.readsAs reads), useCtx_unsealed, noteCheck, certain]
  rfl

theorem berthReread_good (who : Node × Tag) (newer : Bool) : berthReread addr t.line err who newer v =
    deliver t (devLine (devs y)) false false (fillLine (txnLine t) (devLine (devs y)) t.req.cls
      (noteTransient { cause := 0x11, kind := 1, addr := t.line * 64 } addr v)) := by
  obtain ⟨page, place, plain, waits⟩ := berth_found berth kept txns phase
  unfold berthReread
  simp only [page, place, plain, waits, Bool.false_eq_true, ne_eq, not_true_eq_false, if_false,
    readCheck_of_readsAs (kept.readsAs reads), useCtx_unsealed, noteCheck]
  rfl

end

section

variable {s : State} {a : LineAddr} {err y : BitVec 640} {r : LineRead} {t : Txn} (out : s.dram.reads = [r]) (here : r.addr = a.toNat)
  (h : DataAwaited s t) (line : r.line = t.line) (berth : BerthLine s t.line a.toNat) (reads : ReadsAs s a.toNat err y)
include out here h line berth reads

theorem dramReadComplete_serves (first : r.again = false) :
    ∃ u, exec (.dramReadComplete a err) s = .next u ∧ LineServed s t (devLine (devs y)) u := by
  have kept := readsKept_readReturned a.toNat s
  have txns := (readReturned_txns a.toNat s).trans h.txns
  have find : s.dram.reads.find? (fun r => r.addr = a.toNat && !r.again) = some r := by simp [out, here, first]
  refine ⟨_, ?_, lineServed_of_delivery h kept txns (readReturned_reads ..) berth.room _⟩
  show execDramReadComplete a err s = _
  rw [execDramReadComplete, berth.frame]
  dsimp only
  rw [find]
  dsimp only
  rw [dropRead_of_single out here first, line, ← readReturned, berthRead_good berth reads kept txns h.phase]

theorem lineRereadComplete_serves (second : r.again = true) (unmerged : r.merge = false) :
    ∃ u, exec (.lineRereadComplete a err) s = .next u ∧ LineServed s t (devLine (devs y)) u := by
  have kept := readsKept_readReturned a.toNat s
  have txns := (readReturned_txns a.toNat s).trans h.txns
  have find : s.dram.reads.find? (fun r => r.addr = a.toNat && r.again) = some r := by simp [out, here, second]
  have noted := noteTransient_within { cause := 0x11, kind := 1, addr := t.line * 64 } a.toNat (readReturned a.toNat s)
  have reads' : (noteTransient { cause := 0x11, kind := 1, addr := t.line * 64 } a.toNat (readReturned a.toNat s)).dram.reads = [] :=
    (congrArg Dram.reads (keeps_dram noted.same rfl rfl)).trans (readReturned_reads ..)
  refine ⟨_, ?_, lineServed_of_delivery h (kept.trans (readsKept_noteTransient ..))
    ((congrArg Quay.txns (within_quay noted rfl)).trans txns) reads' berth.room _⟩
  show execLineRereadComplete a err s = _
  rw [execLineRereadComplete, find]
  dsimp only
  rw [dropRead_of_single out here second, ← readReturned, kept.regionOf, berth.frame]
  dsimp only
  rw [unmerged, if_neg (by simp), line, berthReread_good berth reads kept txns h.phase]

end

/-! ## The statement -/

/-- Settles O12: the read and the re-read, each by its lemma. -/
theorem linesReturn : Obligations.LinesReturn := by
  unfold Obligations.LinesReturn
  intro s a err y r t out here awaited line berth reads
  refine ⟨fun first => ?_, fun second unmerged => ?_⟩
  · obtain ⟨u, run, sent, done, ⟨q, held, data, mask, clean⟩, mem⟩ :=
      dramReadComplete_serves out here awaited line berth reads first
    exact ⟨u, q, run, sent, done, held, data, mask, clean, mem⟩
  · obtain ⟨u, run, sent, done, ⟨q, held, data, mask, clean⟩, mem⟩ :=
      lineRereadComplete_serves out here awaited line berth reads second unmerged
    exact ⟨u, q, run, sent, done, held, data, mask, clean, mem⟩

end Sys2Proof.Laws
end

section
/-! PROOFS. The ring commands over keys (R95, R96, R122): what the key table holds once the device has written an entry, and the runs of
KEY_LOAD, KEY_RETIRE and REKEY_START. -/

namespace Sys2Proof.Laws

open Sys2Proof Sys2Proof.Machine

/-! ## Bits of key entries -/

theorem getLsbD_setField_bit (x : BitVec 512) (i : Nat) (inside : i < 512) : (setField x i (1 : BitVec 1)).getLsbD i = true := by
  simp [setField, inside]

theorem fieldNat_eq_extractLsb' {n : Nat} (x : BitVec n) (hi lo : Nat) : fieldNat x hi lo = (x.extractLsb' lo (hi + 1 - lo)).toNat := by
  simp [fieldNat, Nat.shiftRight_eq_div_pow]

/-- The entry that a retired key leaves: STATE Retired and the tide time of its load (Table 4.1). -/
def retiredEntry (e : BitVec 512) : BitVec 512 := place 512 320 (2 : BitVec 3) ||| place 512 368 (e.extractLsb' 368 64)

/-- What is placed above a field leaves it zero. -/
theorem extractLsb'_place_below {w : Nat} (n : Nat) {lo a k : Nat} (below : a + k ≤ lo) (v : BitVec w) :
    (place n lo v).extractLsb' a k = 0 := by
  ext i small
  have low : a + i < lo := by omega
  simp [place, low]

theorem extractLsb'_place_same {w n lo : Nat} (inside : lo + w ≤ n) (v : BitVec w) : (place n lo v).extractLsb' lo w = v := by
  ext i small
  have there : lo + i < n := by omega
  simp [place, there, small, BitVec.getLsbD_eq_getElem]

theorem kState_retiredEntry (e : BitVec 512) : kState (retiredEntry e) = 2 := by
  have state : (retiredEntry e).extractLsb' 320 3 = 2 := by
    rw [retiredEntry, BitVec.extractLsb'_or, extractLsb'_place_same (by decide), extractLsb'_place_below 512 (by decide)]
    exact BitVec.or_zero
  rw [kState, fieldNat_eq_extractLsb', state]
  rfl

theorem kWrapped_retiredEntry (e : BitVec 512) : kWrapped (retiredEntry e) = 0 := by
  rw [kWrapped, retiredEntry, BitVec.extractLsb'_or, extractLsb'_place_below 512 (by decide), extractLsb'_place_below 512 (by decide)]
  exact BitVec.or_zero

/-! ## Entries that the device holds (R93, R111) -/

/-- The device holds `e` as the entry of a key, and has not written it to DRAM. -/
structure EntryHeld (k : BitVec 20) (e : BitVec 512) (s : State) : Prop where
  dirty : treeKey true 0 k.toNat ∈ s.quay.ctrDirty
  table : sget 0 s.dram.keyTable k.toNat = e

theorem EntryHeld.keyEntry {k : BitVec 20} {e : BitVec 512} {s : State} (h : EntryHeld k e s) : keyEntry s k = e := by
  have marked : s.quay.ctrDirty.contains (treeKey true 0 k.toNat) = true := by simpa using h.dirty
  have held : heldNode s true 0 k.toNat = some e := by
    simp only [heldNode, marked, Bool.or_true, if_true, decide_true, Bool.and_self, h.table]
  show (nodeAt s true (2 + 1) k.toNat).getD 0 = e
  rw [nodeAt, show treeTop true - (2 + 1) = 0 from rfl, held]
  rfl

theorem EntryHeld.kept {k : BitVec 20} {e : BitVec 512} {s t : State} (h : EntryHeld k e s) (quay : t.quay.ctrDirty = s.quay.ctrDirty)
    (dram : t.dram.keyTable = s.dram.keyTable) : EntryHeld k e t :=
  ⟨quay ▸ h.dirty, dram ▸ h.table⟩

theorem EntryHeld.within {p : Parts} {k : BitVec 20} {e : BitVec 512} {s t : State} (h : EntryHeld k e s) (w : Within p s t)
    (only : (p.quay || p.dram || p.mem) = false) : EntryHeld k e t := by
  simp only [Bool.or_eq_false_iff] at only
  obtain ⟨⟨quay, dram⟩, mem⟩ := only
  exact h.kept (by rw [within_quay w quay]) (by rw [keeps_dram w.same dram mem])

/-- The write of an entry marks it, and unmarks none. -/
theorem mem_ctrDirty_setKeyEntry (k : BitVec 20) (e : BitVec 512) (s : State) (n : Nat) :
    n ∈ (setKeyEntry k e s).quay.ctrDirty ↔ n = treeKey true 0 k.toNat ∨ n ∈ s.quay.ctrDirty := by
  show n ∈ (if s.quay.ctrDirty.contains (treeKey true 0 k.toNat) then s.quay.ctrDirty
    else s.quay.ctrDirty ++ [treeKey true 0 k.toNat]) ↔ _
  split
  next marked =>
    have mem : treeKey true 0 k.toNat ∈ s.quay.ctrDirty := by simpa using marked
    exact ⟨.inr, fun h => h.elim (fun e => e ▸ mem) id⟩
  next => simp [or_comm]

theorem entryHeld_setKeyEntry (k : BitVec 20) (e : BitVec 512) (s : State) : EntryHeld k e (setKeyEntry k e s) :=
  ⟨(mem_ctrDirty_setKeyEntry ..).2 (.inl rfl), sget_sset_same 0 s.dram.keyTable k.toNat e⟩

/-- The end of a command and the start of a rekey engine touch no entry. -/
theorem EntryHeld.finish {k : BitVec 20} {e : BitVec 512} {s : State} (h : EntryHeld k e s) (c : RCmd) (status : BitVec 6)
    (detail : BitVec 8) (result : Nat) : EntryHeld k e (finish c status detail result s) := ⟨h.dirty, h.table⟩

theorem EntryHeld.setEngine {k : BitVec 20} {e : BitVec 512} {s : State} (h : EntryHeld k e s) (n : Nat) (x : Rekey) :
    EntryHeld k e (setEngine n x s) := ⟨h.dirty, h.table⟩

theorem EntryHeld.placeCtx {k : BitVec 20} {e : BitVec 512} {s : State} (h : EntryHeld k e s) (x : KeyCtx) :
    EntryHeld k e (placeCtx x s) := by
  obtain ⟨i, p, -, quay⟩ := placeCtx_way x s
  have dirty : (Machine.placeCtx x s).quay.ctrDirty = s.quay.ctrDirty := by rw [quay]
  exact h.kept dirty (congrArg Dram.keyTable (keeps_dram (placeCtx_within x s).same rfl rfl))

theorem EntryHeld.other {k j : BitVec 20} {e : BitVec 512} {s : State} (h : EntryHeld k e s) (ne : k ≠ j) (x : BitVec 512) :
    EntryHeld k e (setKeyEntry j x s) :=
  ⟨(mem_ctrDirty_setKeyEntry ..).2 (.inr h.dirty),
    (sget_sset_other 0 s.dram.keyTable x fun same => ne (BitVec.eq_of_toNat_eq same)).trans h.table⟩

/-! ## The write of an entry's block (R200) -/

theorem writeKeyCopy_waits (block copy : Nat) (s : State) : WaitsKept s (writeKeyCopy block copy s) := by
  unfold writeKeyCopy
  dsimp only
  split
  · exact .refl s
  · refine (nvmeWrite_waits ..).after ?_
    split <;> exact ⟨rfl, rfl, rfl⟩

theorem flushKeyBlock_waits (k : BitVec 20) (s : State) : WaitsKept s (flushKeyBlock k s) :=
  (writeKeyCopy_waits ..).trans (writeKeyCopy_waits ..)

/-- The entry of a key is written, and so is its block on flash. -/
def entryWrittenOut (k : BitVec 20) (e : BitVec 512) (s : State) : State := flushKeyBlock k (setKeyEntry k e s)

theorem entryHeld_writtenOut (k : BitVec 20) (e : BitVec 512) (s : State) : EntryHeld k e (entryWrittenOut k e s) :=
  (entryHeld_setKeyEntry k e s).within (flushKeyBlock_within ..) rfl

theorem entryWrittenOut_keyCtx (k : BitVec 20) (e : BitVec 512) (s : State) : (entryWrittenOut k e s).quay.keyCtx = s.quay.keyCtx := by
  rw [entryWrittenOut, within_quay (flushKeyBlock_within ..) rfl]
  rfl

section

variable {u : State} {c x : RCmd} (h : Underway u c x)
include h

theorem underway_setKeyEntry (k : BitVec 20) (e : BitVec 512) : Underway (setKeyEntry k e u) c x :=
  h.keep (keeps_rings (setNode_within ..).same rfl) (quiet_of_view (view_setKeyEntry k e u) rfl rfl h.quiet)

theorem underway_entryWrittenOut (k : BitVec 20) (e : BitVec 512) : Underway (entryWrittenOut k e u) c x := by
  have set := underway_setKeyEntry h k e
  have flushed := flushKeyBlock_within k (setKeyEntry k e u)
  exact set.within flushed rfl (quiet_of_kept set.quiet (within_quay flushed rfl) (flushKeyBlock_waits ..).waiters)

theorem underway_placeCtx (k : KeyCtx) : Underway (placeCtx k u) c x := by
  have placed := placeCtx_within k u
  obtain ⟨i, p, -, quay⟩ := placeCtx_way k u
  obtain ⟨txns, busy, notices, parked, parkWait, fills, waiters⟩ := h.quiet
  refine h.within placed rfl ⟨?_, ?_, ?_, ?_, ?_, ?_, by rw [within_reins placed rfl, waiters]⟩ <;> rw [quay] <;> assumption

theorem underway_addRec (ty : BitVec 8) (body : BitVec 512) : Underway (addRec ty body u) c x :=
  h.within (addRec_within ty body u) rfl
    (quiet_of_kept h.quiet (within_quay (addRec_within ty body u) rfl) (addRec_waits ty body u).waiters)

end

/-! ## What a command finds when it has started -/

theorem readsKept_begun (c : RCmd) (s : State) : ReadsKept s (begun c s) := ⟨rfl, rfl, rfl, rfl, rfl, rfl, rfl, rfl, fun _ => rfl⟩

theorem keyEntry_begun (c : RCmd) (s : State) (k : BitVec 20) : keyEntry (begun c s) k = keyEntry s k := (readsKept_begun c s).keyEntry k

theorem keyState_begun (c : RCmd) (s : State) (k : BitVec 20) : keyState (begun c s) k = keyState s k := by
  simp only [keyState, keyEntry_begun, (readsKept_begun c s).keyCtxOf]

/-! ## KEY_LOAD -/

section

variable {u : State} {c : RCmd} {ktk kwk key : BitVec 256}

/-- The key that KEY_LOAD names. -/
def loadKey (c : RCmd) : BitVec 20 := (eArg2 c.entry).extractLsb' 0 20

/-- The key has been entered under its pages and the time. -/
def keyEntered (c : RCmd) (kwk key : BitVec 256) (u : State) : State :=
  entryWrittenOut (loadKey c) (loadedEntry kwk key (kPages (keyEntry u (loadKey c))) u.time.tide) u

/-- The expanded context of a key that was loaded. -/
def loadedCtx (c : RCmd) (key : BitVec 256) (v : State) : KeyCtx :=
  { keyId := loadKey c, st := 1, kwork := workKey key v.sec.treeNonce, h := hashKey key v.sec.treeNonce }

/-- The key has been entered, and its context placed. -/
def keyLoaded (c : RCmd) (kwk key : BitVec 256) (u : State) : State :=
  placeCtx (loadedCtx c key (keyEntered c kwk key u)) (keyEntered c kwk key u)

theorem entryHeld_keyLoaded (c : RCmd) (kwk key : BitVec 256) (u : State) :
    EntryHeld (loadKey c) (loadedEntry kwk key (kPages (keyEntry u (loadKey c))) u.time.tide) (keyLoaded c kwk key u) :=
  (entryHeld_writtenOut ..).placeCtx _

section

variable (free : keyState u (loadKey c) ≠ 1) (transport : sget none u.sec.ktk (fieldNat (eArg2 c.entry) 35 32) = some ktk)
include free transport

theorem keyLoadRun_enters (unwrap : transportedKey u ktk (c.entry.extractLsb' 64 320) = some (kwk, key)) :
    keyLoadRun c u = finish c 0 0 0 (keyLoaded c kwk key u) := by
  unfold keyLoadRun
  rw [← loadKey, transport]
  dsimp only
  rw [if_neg free, unwrap]
  rfl

theorem keyLoadRun_refuses (unwrap : transportedKey u ktk (c.entry.extractLsb' 64 320) = none) :
    keyLoadRun c u = finish c 6 2 0 u := by
  unfold keyLoadRun
  rw [← loadKey, transport]
  dsimp only
  rw [if_neg free, unwrap]

end

theorem keyLoad_runs {s : State} (h : CommandAlone s c 0x10) (inactive : keyState s (loadKey c) ≠ 1)
    (transport : sget none s.sec.ktk (fieldNat (eArg2 c.entry) 35 32) = some ktk) :
    ∃ t, exec (.keyLoad c.ring c.idx) s = .next t ∧
      match transportedKey s ktk (c.entry.extractLsb' 64 320) with
      | some (kwk, key) => Ended t c 0 0 0 ∧ keyEntry t (loadKey c) =
          loadedEntry kwk key (kPages (keyEntry s (loadKey c))) s.time.tide
      | none => Ended t c 6 2 0 ∧ t.dram = s.dram := by
  have going := underway_begun h
  have run : exec (.keyLoad c.ring c.idx) s = .next (settle (keyLoadRun (startedCmd c) (begun c s))) := by
    show execKeyLoad c.ring c.idx s = _
    rw [execKeyLoad, runCmd_of_alone h]
  have free : keyState (begun c s) (loadKey (startedCmd c)) ≠ 1 := by rwa [keyState_begun]
  cases unwrap : transportedKey s ktk (c.entry.extractLsb' 64 320) with
  | none =>
    rw [keyLoadRun_refuses free transport unwrap] at run
    exact ends_of_run (P := fun t => t.dram = s.dram) run going rfl rfl rfl
  | some pair =>
    obtain ⟨kwk, key⟩ := pair
    have held := entryHeld_keyLoaded (startedCmd c) kwk key (begun c s)
    rw [keyEntry_begun] at held
    rw [keyLoadRun_enters free transport unwrap] at run
    exact ends_of_run (P := fun t => keyEntry t (loadKey c) = _) run (underway_placeCtx (underway_entryWrittenOut going ..) _) rfl rfl
      (held.finish ..).keyEntry

end

/-! ## KEY_RETIRE -/

/-- The key has left the key partition, and its entry is Retired. -/
def keyRetired (k : BitVec 20) (u : State) : State := entryWrittenOut k (retiredEntry (keyEntry u k)) (dropCtx k u)

theorem keyRetired_keyCtx (k : BitVec 20) (u : State) : ∀ e ∈ (keyRetired k u).quay.keyCtx, e.2.map KeyCtx.keyId ≠ some k := by
  intro e mem
  rw [keyRetired, entryWrittenOut_keyCtx] at mem
  simpa using (List.mem_filter.1 mem).2

theorem underway_keyRetired {u : State} {c x : RCmd} (h : Underway u c x) (k : BitVec 20) : Underway (keyRetired k u) c x :=
  underway_entryWrittenOut (u := dropCtx k u) (h.keep rfl h.quiet) ..

theorem exec_keyRetire {s : State} {c : RCmd} {k : BitVec 20} (h : CommandAlone s c 0x11) (named : k = (eArg0 c.entry).extractLsb' 0 20)
    (active : keyState s k = 1) (later : firstPass s = false) (unused : kPages (keyEntry s k) = 0) (src : kSrc (keyEntry s k) = false)
    (dst : kDst (keyEntry s k) = false) :
    exec (.keyRetire c.ring c.idx) s = .next (settle (finish (startedCmd c) 0 0 0 (keyRetired k (begun c s)))) := by
  have later' : firstPass (begun c s) = false := later
  show execKeyRetire c.ring c.idx s = _
  rw [execKeyRetire, runCmd_of_alone h]
  dsimp only
  rw [show (startedCmd c).entry = c.entry from rfl, ← named, keyState_begun, active, if_neg (by simp), later', if_neg (by simp),
    keyEntry_begun, unused, src, dst, if_neg (by simp), keyRetired, keyEntry_begun]
  rfl

theorem keyRetire_ends {s : State} {c : RCmd} {k : BitVec 20} (h : CommandAlone s c 0x11) (named : k = (eArg0 c.entry).extractLsb' 0 20)
    (active : keyState s k = 1) (later : firstPass s = false) (unused : kPages (keyEntry s k) = 0) (src : kSrc (keyEntry s k) = false)
    (dst : kDst (keyEntry s k) = false) :
    ∃ t, exec (.keyRetire c.ring c.idx) s = .next t ∧ Ended t c 0 0 0 ∧ kState (keyEntry t k) = 2 ∧ kWrapped (keyEntry t k) = 0 ∧
      ∀ e ∈ t.quay.keyCtx, e.2.map KeyCtx.keyId ≠ some k := by
  have held : EntryHeld k _ (keyRetired k (begun c s)) := entryHeld_writtenOut ..
  refine ends_of_run (P := fun t => kState (keyEntry t k) = 2 ∧ kWrapped (keyEntry t k) = 0 ∧
      ∀ e ∈ t.quay.keyCtx, e.2.map KeyCtx.keyId ≠ some k) (exec_keyRetire h named active later unused src dst)
    (underway_keyRetired (underway_begun h) k) rfl rfl ⟨?_, ?_, keyRetired_keyCtx k (begun c s)⟩
  · rw [(held.finish ..).keyEntry, kState_retiredEntry]
  · rw [(held.finish ..).keyEntry, kWrapped_retiredEntry]

/-! ## REKEY_START -/

theorem ringRoom_engines (ssd : Nat) (s : State) : (ringRoom ssd s).led.engines = s.led.engines := by
  have block (b : Nat) (t : State) : (putMapBlock b t).led.engines = t.led.engines := by
    unfold putMapBlock
    dsimp only
    rw [within_led (nvmeWrite_within ..) rfl]
  have blocks (l : List Nat) (t : State) :
      (l.foldl (fun t b => if mapWritable t b then putMapBlock b t else t) t).led.engines = t.led.engines :=
    List.foldlRecOn (motive := fun v : State => v.led.engines = t.led.engines) l _ rfl fun v hv b _ => by
      split
      · exact (block b v).trans hv
      · exact hv
  unfold ringRoom
  dsimp only
  split
  · rfl
  · split
    · exact blocks _ s
    · rfl

theorem addRec_engines (ty : BitVec 8) (body : BitVec 512) (s : State) : (addRec ty body s).led.engines = s.led.engines := by
  unfold addRec
  split
  · exact ringRoom_engines ..
  · rfl

/-- The flags of the two keys of a rekey are set. -/
def rekeyFlagged (old new : BitVec 20) (s : State) : State :=
  let v := setKeyEntry old (setField (keyEntry s old) 323 (1 : BitVec 1)) s
  setKeyEntry new (setField (keyEntry v new) 324 (1 : BitVec 1)) v

/-- The engine of a rekey that starts. -/
def rekeyEngine (c : RCmd) (old new : BitVec 20) (s : State) : Rekey :=
  { active := true, first := eSrc c.entry / 4096, last := eSrc c.entry / 4096 + eLen c.entry / 4096 - 1, tide := eSrc c.entry / 4096,
    old := old, new := new, ring := some (c.ring, c.idx), cls := cmdClass s c }

/-- Engine 0 has taken the range. -/
def rekeyStarted (c : RCmd) (old new : BitVec 20) (s : State) : State :=
  addRec 5 (rekeyBody 0 (rekeyEngine c old new s) false) (setEngine 0 (rekeyEngine c old new s) (rekeyFlagged old new s))

theorem rekeyStart_takes_engine {s : State} {c : RCmd} {old new : BitVec 20} (h : CommandAlone s c 0x12)
    (from' : old = (eArg0 c.entry).extractLsb' 0 20) (to' : new = (eArg0 c.entry).extractLsb' 32 20) (some' : eLen c.entry ≠ 0)
    (oldActive : keyState s old = 1) (newActive : keyState s new = 1) (ne : old ≠ new) (free : s.led.engines = []) :
    exec (.rekeyStart c.ring c.idx) s = .next (settle (rekeyStarted c old new (begun c s))) := by
  have engines : (begun c s).led.engines = [] := free
  have idle : ∀ n, (engineOf (begun c s) n).active = false := fun n => by rw [engineOf, engines]; rfl
  have first : (List.range 16).find? (fun n => !(engineOf (begun c s) n).active) = some 0 := by
    simp [List.range_succ_eq_map, idle]
  show execRekeyStart c.ring c.idx s = _
  rw [execRekeyStart, runCmd_of_alone h]
  dsimp only
  rw [show (startedCmd c).entry = c.entry from rfl, ← from', ← to', if_neg some',
    if_neg (by simp [keyState_begun, oldActive, newActive, ne]), first]
  dsimp only
  rw [engines, if_neg (by simp)]
  rfl

theorem rekeyStart_runs {s : State} {c : RCmd} {old new : BitVec 20} (h : CommandAlone s c 0x12)
    (from' : old = (eArg0 c.entry).extractLsb' 0 20) (to' : new = (eArg0 c.entry).extractLsb' 32 20) (some' : eLen c.entry ≠ 0)
    (oldActive : keyState s old = 1) (newActive : keyState s new = 1) (ne : old ≠ new) (free : s.led.engines = []) :
    ∃ t, exec (.rekeyStart c.ring c.idx) s = .next t ∧ t.rings.cmds = [{ c with started := true }] ∧ kSrc (keyEntry t old) = true ∧
      kDst (keyEntry t new) = true ∧ engineOf t 0 = rekeyEngine c old new s := by
  have flagged : Underway (rekeyFlagged old new (begun c s)) c (startedCmd c) :=
    underway_setKeyEntry (underway_setKeyEntry (underway_begun h) ..) ..
  have engaged : Underway (setEngine 0 (rekeyEngine c old new (begun c s)) (rekeyFlagged old new (begun c s))) c (startedCmd c) :=
    flagged.keep rfl flagged.quiet
  have going : Underway (rekeyStarted c old new (begun c s)) c (startedCmd c) := underway_addRec engaged ..
  have source : EntryHeld old _ (rekeyFlagged old new (begun c s)) := (entryHeld_setKeyEntry ..).other ne _
  have target : EntryHeld new _ (rekeyFlagged old new (begun c s)) := entryHeld_setKeyEntry ..
  have engine : engineOf (rekeyStarted c old new (begun c s)) 0 = rekeyEngine c old new s := by
    rw [engineOf, rekeyStarted, addRec_engines]
    exact sget_sset_same ({} : Rekey) s.led.engines 0 (rekeyEngine c old new s)
  refine ⟨_, (rekeyStart_takes_engine h from' to' some' oldActive newActive ne free).trans
    (congrArg _ (settle_of_quiet going.quiet)), going.cmds, ?_, ?_, engine⟩
  · rw [rekeyStarted, ((source.setEngine ..).within (addRec_within ..) rfl).keyEntry]
    exact getLsbD_setField_bit _ 323 (by decide)
  · rw [rekeyStarted, ((target.setEngine ..).within (addRec_within ..) rfl).keyEntry]
    exact getLsbD_setField_bit _ 324 (by decide)

end Sys2Proof.Laws
end

section
/-! PROOFS. The ring commands over frames and calibration (R70, R135, R161, R356): the frames that a retirement marks, and the runs of
RETIRE_FRAME, RETIRE_BANK and CAL_RESTORE_FACTORY. -/

namespace Sys2Proof.Laws

open Sys2Proof Sys2Proof.Machine

/-! ## Retirement of free frames (R70) -/

/-- A frame of the pool that nothing uses. -/
structure FrameFree (s : State) (f : Nat) : Prop where
  outside : regionOf s f = none
  inside : f < totalFrames s
  unused : fUse (frameEntry s f) = 0

theorem frameEntry_outside {s : State} {f : Nat} (h : regionOf s f = none) : frameEntry s f = sget 0 s.dram.frameMap f := by
  rw [frameEntry, h]
  rfl

/-- The frames of `l`, and no other, have been marked retired in `t`; what the command and its home hold is as it was in `s`. -/
structure FramesRetired (l : List Nat) (s t : State) : Prop where
  places : SamePlaces s t
  rings : t.rings = s.rings
  quay : t.quay = s.quay
  waiters : t.reins.waiters = s.reins.waiters
  ops : t.tier.ops = s.tier.ops
  waiting : s.dram.retireList = [] → t.dram.retireList = []
  map : ∀ f, sget 0 t.dram.frameMap f = if f ∈ l then 4 else sget 0 s.dram.frameMap f

theorem regionOf_of_kept {s t : State} (cfg : t.cfg = s.cfg) (fuse : t.fuse = s.fuse) (f : Nat) : regionOf t f = regionOf s f := by
  simp only [regionOf, regions, recsOf, typedRecs, sectionRecs, cfg, fuse]

theorem regionOf_of_samePlaces {s t : State} (h : SamePlaces s t) (f : Nat) : regionOf t f = regionOf s f :=
  regionOf_of_kept h.cfg h.fuse f

theorem FramesRetired.trans {l k : List Nat} {r s t : State} (h : FramesRetired l r s) (g : FramesRetired k s t) :
    FramesRetired (l ++ k) r t := by
  refine ⟨h.places.trans g.places, g.rings.trans h.rings, g.quay.trans h.quay, g.waiters.trans h.waiters, g.ops.trans h.ops,
    fun none => g.waiting (h.waiting none), fun f => ?_⟩
  rw [g.map, h.map]
  by_cases hl : f ∈ l <;> by_cases hk : f ∈ k <;> simp [hl, hk]

/-- What is logged or recorded marks no frame. -/
theorem framesRetired_of_within {s t : State} (w : Within { log := true, ev := true, led := true, mgt := true } s t) :
    FramesRetired [] s t := by
  have dram := keeps_dram w.same rfl rfl
  exact ⟨samePlaces_of_ch (keeps_cfg w.same rfl) (keeps_fuse w.same rfl) (congrArg Dram.ch dram), keeps_rings w.same rfl, within_quay w rfl,
    congrArg Reins.waiters (within_reins w rfl), congrArg Tier.ops (keeps_tier w.same rfl),
    fun none => (congrArg Dram.retireList dram).trans none, fun f => by simp [dram]⟩

theorem framesRetired_markRetired (f : Nat) (s : State) : FramesRetired [f] s (markRetired f s) := by
  refine ⟨samePlaces_of_ch rfl rfl rfl, rfl, rfl, rfl, rfl, fun none => ?_, fun g => ?_⟩
  · show s.dram.retireList.filter _ = []
    rw [none, List.filter_nil]
  · show sget 0 (sset 0 s.dram.frameMap f 4) g = _
    by_cases same : g = f
    · simp [same]
    · simp [same, sget_sset_other]

section

variable {s t : State} {l : List Nat} (h : FramesRetired l s t)
include h

theorem FramesRetired.frameEntry_of_mem {f : Nat} (mem : f ∈ l) (outside : regionOf s f = none) : frameEntry t f = 4 := by
  rw [frameEntry_outside ((regionOf_of_samePlaces h.places f).trans outside), h.map, if_pos mem]

theorem FramesRetired.frameEntry_of_not_mem {f : Nat} (other : f ∉ l) : frameEntry t f = frameEntry s f := by
  rw [frameEntry, regionOf_of_samePlaces h.places, h.map, if_neg other, frameEntry]

theorem FramesRetired.free {f : Nat} (free : FrameFree s f) (other : f ∉ l) : FrameFree t f :=
  ⟨(regionOf_of_samePlaces h.places f).trans free.outside, by rw [totalFrames_of_samePlaces h.places]; exact free.inside,
    by rw [h.frameEntry_of_not_mem other]; exact free.unused⟩

theorem FramesRetired.underway {c x : RCmd} (going : Underway s c x) : Underway t c x :=
  going.keep h.rings (quiet_of_kept going.quiet h.quay h.waiters)

end

/-- A free frame is marked at once. -/
theorem framesRetired_retireFrame {f : Nat} {s : State} (reason : Nat) (free : FrameFree s f) (waiting : s.dram.retireList = [])
    (ops : s.tier.ops = []) : FramesRetired [f] s (retireFrame f reason s) := by
  have still : beingRelocated s f = false := by simp [beingRelocated, waiting, ops]
  have noted : FramesRetired [] s (logIt { cause := 0x0B, kind := 2, addr := f * 64, args := [reason] } s) :=
    framesRetired_of_within (.to (logIt_within ..) rfl (.refl ..))
  have listed (e : BitVec 64) (u : State) : FramesRetired [] u (recordRetired e (f * 64) u) :=
    framesRetired_of_within (recordRetired_within ..)
  have marked {u : State} (told : FramesRetired [] s u) : FramesRetired [f] s (pursueRetire f u) := by
    rw [pursueRetire, (told.free free (by simp)).unused]
    exact told.trans (framesRetired_markRetired f u)
  rw [retireFrame, if_neg (by simp [free.outside, free.inside, free.unused, still])]
  dsimp only
  split
  · exact marked noted
  · exact marked (noted.trans (listed _ _))

theorem framesRetired_all (reason : Nat) {l : List Nat} {s : State} (free : ∀ f ∈ l, FrameFree s f) (once : l.Nodup)
    (waiting : s.dram.retireList = []) (ops : s.tier.ops = []) :
    FramesRetired l s (l.foldl (fun t f => retireFrame f reason t) s) := by
  induction l generalizing s with
  | nil => exact framesRetired_of_within (.refl ..)
  | cons f l ih =>
    obtain ⟨fresh, once⟩ := List.nodup_cons.1 once
    have first := framesRetired_retireFrame reason (free f (by simp)) waiting ops
    refine first.trans (ih (fun g mem => first.free (free g (List.mem_cons_of_mem f mem)) ?_) once (first.waiting waiting)
      (first.ops.trans ops))
    simpa using ne_of_mem_of_not_mem mem fresh

/-! ## The end of a retirement -/

/-- A command whose frames are retired ends. -/
theorem retireMore_done {y : RCmd} {s : State} (done : ∀ f ∈ y.waits, fUse (frameEntry s f) = 4) :
    retireMore y s = finish { y with waits := [] } 0 y.detail y.result.toNat (saveCmd { y with waits := [] } s) := by
  have left : y.waits.filter (fun f => fUse (frameEntry s f) ≠ 4) = [] := by
    rw [List.filter_eq_nil_iff]
    intro f mem
    simp [done f mem]
  rw [retireMore, left]
  rfl

theorem retireMore_ends {s u : State} {c x y : RCmd} {i : Instr} {P : State → Prop} (run : exec i s = .next (settle (retireMore y u)))
    (going : Underway u c x) (ring : y.ring = c.ring) (idx : y.idx = c.idx) (entry : y.entry = c.entry) (unended : y.finished = false)
    (done : ∀ f ∈ y.waits, fUse (frameEntry u f) = 4)
    (rest : P (finish { y with waits := [] } 0 y.detail y.result.toNat (saveCmd { y with waits := [] } u))) :
    ∃ t, exec i s = .next t ∧ Ended t c 0 y.detail y.result.toNat ∧ P t := by
  rw [retireMore_done done] at run
  exact ends_of_run run (going.save (y := { y with waits := [] }) ring idx entry unended) ring idx rest

/-! ## RETIRE_FRAME -/

theorem samePlaces_begun (c : RCmd) (s : State) : SamePlaces s (begun c s) := samePlaces_of_ch rfl rfl rfl

theorem exec_retireFrame {s : State} {c : RCmd} (h : CommandAlone s c 0x13) (free : FrameFree s (eArg0 c.entry).toNat) :
    exec (.retireFrame c.ring c.idx) s = .next (settle (retireMore
      { startedCmd c with waits := [(eArg0 c.entry).toNat], detail := if listFull s then 1 else 0 }
      (retireFrame (eArg0 c.entry).toNat 1 (begun c s)))) := by
  have outside : (regionOf (begun c s) (eArg0 c.entry).toNat).isSome = false := by
    rw [regionOf_of_samePlaces (samePlaces_begun c s), free.outside]
    rfl
  have unused : fUse (frameEntry (begun c s) (eArg0 c.entry).toNat) = 0 := free.unused
  show execRetireFrame c.ring c.idx s = _
  rw [execRetireFrame, runCmd_of_alone h]
  dsimp only
  rw [show (startedCmd c).entry = c.entry from rfl, outside, if_neg (by simp), unused, if_neg (by simp)]
  rfl

theorem retireFrame_ends {s : State} {c : RCmd} (h : CommandAlone s c 0x13) (free : FrameFree s (eArg0 c.entry).toNat)
    (waiting : s.dram.retireList = []) :
    ∃ t, exec (.retireFrame c.ring c.idx) s = .next t ∧ Ended t c 0 (if listFull s then 1 else 0) 0 ∧
      fUse (frameEntry t (eArg0 c.entry).toNat) = 4 := by
  obtain ⟨-, unended, -, -, -, -, unset, -⟩ := h.fresh
  have marked : FramesRetired _ (begun c s) (retireFrame (eArg0 c.entry).toNat 1 (begun c s)) :=
    framesRetired_retireFrame 1 ⟨free.outside, free.inside, free.unused⟩ waiting h.ops
  have retired : fUse (frameEntry (retireFrame (eArg0 c.entry).toNat 1 (begun c s)) (eArg0 c.entry).toNat) = 4 := by
    rw [marked.frameEntry_of_mem (by simp) free.outside]
    rfl
  have ends := retireMore_ends (P := fun t => fUse (frameEntry t (eArg0 c.entry).toNat) = 4) (exec_retireFrame h free)
    (marked.underway (underway_begun h)) rfl rfl rfl unended (by simpa using retired) retired
  rwa [show (startedCmd c).result = 0 from unset] at ends

/-! ## RETIRE_BANK -/

theorem frameInBank_of_samePlaces {s t : State} (h : SamePlaces s t) : frameInBank t = frameInBank s := by
  funext b f
  simp only [frameInBank, h.coord]

/-- The frames with a line in the bank that are not retired yet. -/
def bankInUse (s : State) (b : Nat) : List Nat :=
  ((List.range (totalFrames s)).filter (frameInBank s b)).filter (fun f => fUse (frameEntry s f) ≠ 4)

theorem mem_bankInUse {s : State} {b f : Nat} :
    f ∈ bankInUse s b ↔ (f < totalFrames s ∧ frameInBank s b f = true) ∧ fUse (frameEntry s f) ≠ 4 := by
  simp [bankInUse, and_assoc, and_comm]

theorem bankInUse_nodup (s : State) (b : Nat) : (bankInUse s b).Nodup := (List.nodup_range.filter _).filter _

/-- The start of a command brings no frame into use. -/
theorem bankInUse_begun (s : State) (c : RCmd) (b : Nat) : bankInUse (begun c s) b = bankInUse s b := by
  have places := samePlaces_begun c s
  simp only [bankInUse, totalFrames_of_samePlaces places, frameInBank_of_samePlaces places, frameEntry, regionOf_of_samePlaces places]
  rfl

/-- The bank is recorded. -/
def bankRecorded (b : Nat) (s : State) : State := recordRetired (place 64 62 (2 : BitVec 2) ||| BitVec.ofNat 64 b) 0 s

theorem bankRecorded_dram (b : Nat) (s : State) : (bankRecorded b s).dram = s.dram := keeps_dram (recordRetired_within ..).same rfl rfl

/-- The bank is recorded and its frames are retired, or wait for it. -/
def bankRetired (b : Nat) (s : State) : State := (bankInUse s b).foldl (fun t f => retireFrame f 4 t) (bankRecorded b s)

theorem framesRetired_bankRecorded (b : Nat) (s : State) : FramesRetired [] s (bankRecorded b s) :=
  framesRetired_of_within (recordRetired_within ..)

/-- RETIRE_BANK as it waits for its frames. -/
def bankCmd (s : State) (c : RCmd) : RCmd :=
  { startedCmd c with waits := bankInUse s (eArg0 c.entry).toNat,
                      result := BitVec.ofNat 64 (bankInUse s (eArg0 c.entry).toNat).length, detail := if listFull s then 1 else 0 }

section

variable {s : State} {c : RCmd} (h : CommandAlone s c 0x14)
  (clear : ∀ f, f < totalFrames s → frameInBank s (eArg0 c.entry).toNat f = true → regionOf s f = none)
include h clear

theorem exec_retireBank :
    exec (.retireBank c.ring c.idx) s =
      .next (settle (retireMore (bankCmd s c) (bankRetired (eArg0 c.entry).toNat (begun c s)))) := by
  have places := samePlaces_begun c s
  have frames : totalFrames (begun c s) = totalFrames s := totalFrames_of_samePlaces places
  have inBank := frameInBank_of_samePlaces places
  have outside : ((List.range (totalFrames s)).filter (frameInBank s (eArg0 c.entry).toNat)).any
      (fun f => (regionOf (begun c s) f).isSome) = false := by
    simp only [List.any_eq_false, List.mem_filter, List.mem_range, and_imp]
    intro f small mem
    simp [regionOf_of_samePlaces places, clear f small mem]
  show execRetireBank c.ring c.idx s = _
  rw [execRetireBank, runCmd_of_alone h]
  dsimp only
  rw [show (startedCmd c).entry = c.entry from rfl, frames, inBank, outside, if_neg (by simp)]
  rfl

theorem retireBank_ends {u : State} {P : State → Prop}
    (run : exec (.retireBank c.ring c.idx) s = .next (settle (retireMore (bankCmd s c) u)))
    (marked : FramesRetired (bankInUse s (eArg0 c.entry).toNat) (begun c s) u)
    (rest : P (finish { bankCmd s c with waits := [] } 0 (bankCmd s c).detail (bankCmd s c).result.toNat
      (saveCmd { bankCmd s c with waits := [] } u))) :
    ∃ t, exec (.retireBank c.ring c.idx) s = .next t ∧
      Ended t c 0 (if listFull s then 1 else 0) (BitVec.ofNat 64 (bankInUse s (eArg0 c.entry).toNat).length).toNat ∧ P t := by
  obtain ⟨-, unended, -⟩ := h.fresh
  refine retireMore_ends run (marked.underway (underway_begun h)) rfl rfl rfl unended (fun f mem => ?_) rest
  obtain ⟨⟨small, inBank⟩, -⟩ := mem_bankInUse.1 mem
  rw [marked.frameEntry_of_mem mem (clear f small inBank)]
  rfl

end

/-- Where every frame of the bank is retired already, the command ends at once. -/
theorem retireBank_again {s : State} {c : RCmd} (h : CommandAlone s c 0x14)
    (frames : ∀ f, f < totalFrames s → frameInBank s (eArg0 c.entry).toNat f = true → regionOf s f = none ∧ fUse (frameEntry s f) = 4) :
    ∃ t, exec (.retireBank c.ring c.idx) s = .next t ∧ Ended t c 0 (if listFull s then 1 else 0) 0 ∧ t.dram.frameMap = s.dram.frameMap := by
  have clear := fun f small mem => (frames f small mem).1
  have all : bankInUse s (eArg0 c.entry).toNat = [] :=
    List.eq_nil_iff_forall_not_mem.2 fun f mem => (mem_bankInUse.1 mem).2 (frames f (mem_bankInUse.1 mem).1.1 (mem_bankInUse.1 mem).1.2).2
  have none : bankRetired (eArg0 c.entry).toNat (begun c s) = bankRecorded (eArg0 c.entry).toNat (begun c s) := by
    rw [bankRetired, bankInUse_begun, all]
    rfl
  have run := exec_retireBank h clear
  rw [none] at run
  have marked := framesRetired_bankRecorded (eArg0 c.entry).toNat (begun c s)
  have same : (bankRecorded (eArg0 c.entry).toNat (begun c s)).dram.frameMap = s.dram.frameMap :=
    congrArg Dram.frameMap (bankRecorded_dram _ (begun c s))
  have ends := retireBank_ends (P := fun t => t.dram.frameMap = s.dram.frameMap) h clear run (all.symm ▸ marked) same
  rwa [all] at ends

/-- The free frames of the bank are marked at once. -/
theorem retireBank_free {s : State} {c : RCmd} (h : CommandAlone s c 0x14) (waiting : s.dram.retireList = [])
    (frames : ∀ f, f < totalFrames s → frameInBank s (eArg0 c.entry).toNat f = true → regionOf s f = none ∧
      (fUse (frameEntry s f) = 0 ∨ fUse (frameEntry s f) = 4)) :
    ∃ t n, exec (.retireBank c.ring c.idx) s = .next t ∧ Ended t c 0 (if listFull s then 1 else 0) n ∧
      ∀ f, f < totalFrames s → frameInBank s (eArg0 c.entry).toNat f = true → fUse (frameEntry t f) = 4 := by
  have clear := fun f small mem => (frames f small mem).1
  have recorded := framesRetired_bankRecorded (eArg0 c.entry).toNat (begun c s)
  have free : ∀ f ∈ bankInUse s (eArg0 c.entry).toNat, FrameFree (begun c s) f := fun f mem => by
    obtain ⟨⟨small, inBank⟩, used⟩ := mem_bankInUse.1 mem
    exact ⟨clear f small inBank, small, (frames f small inBank).2.resolve_right used⟩
  have marked : FramesRetired (bankInUse s (eArg0 c.entry).toNat) (begun c s) (bankRetired (eArg0 c.entry).toNat (begun c s)) := by
    rw [bankRetired, bankInUse_begun]
    exact recorded.trans (framesRetired_all 4 (fun f mem => recorded.free (free f mem) (by simp)) (bankInUse_nodup ..)
      (recorded.waiting waiting) (recorded.ops.trans h.ops))
  have retired (f : Nat) (small : f < totalFrames s) (inBank : frameInBank s (eArg0 c.entry).toNat f = true) :
      fUse (frameEntry (bankRetired (eArg0 c.entry).toNat (begun c s)) f) = 4 := by
    by_cases mem : f ∈ bankInUse s (eArg0 c.entry).toNat
    · rw [marked.frameEntry_of_mem mem (clear f small inBank)]
      rfl
    · rw [marked.frameEntry_of_not_mem mem]
      by_contra used
      exact mem (mem_bankInUse.2 ⟨⟨small, inBank⟩, used⟩)
  have run := exec_retireBank h clear
  generalize bankRetired (eArg0 c.entry).toNat (begun c s) = u at run marked retired
  obtain ⟨t, run, ended, all⟩ := retireBank_ends h clear run marked (P := fun t => ∀ f, f < totalFrames s →
    frameInBank s (eArg0 c.entry).toNat f = true → fUse (frameEntry t f) = 4) retired
  exact ⟨t, _, run, ended, all⟩

/-! ## CAL_RESTORE_FACTORY -/

/-- The trims take their factory values, and no record is valid. -/
def factoryTrims (s : State) : State := { s with nor.trims := s.fuse.factoryTrim, nor.cal := [], nor.calBody := [] }

theorem calRestore_ends {s : State} {c : RCmd} (h : CommandAlone s c 0x15) (service : s.aon.mode = .service) :
    ∃ t, exec (.calRestoreFactory c.ring c.idx) s = .next t ∧ Ended t c 0 0 0 ∧ t.nor.trims = s.fuse.factoryTrim ∧ t.nor.cal = [] ∧
      t.nor.calBody = [] := by
  have going := underway_begun h
  have run : exec (.calRestoreFactory c.ring c.idx) s = .next (settle (finish (startedCmd c) 0 0 0 (factoryTrims (begun c s)))) := by
    have mode : (begun c s).aon.mode = .service := service
    show execCalRestoreFactory c.ring c.idx s = _
    rw [execCalRestoreFactory, runCmd_of_alone h]
    dsimp only
    rw [mode, if_neg (by simp)]
    rfl
  exact ends_of_run (P := fun t => t.nor.trims = s.fuse.factoryTrim ∧ t.nor.cal = [] ∧ t.nor.calBody = []) run
    (going.keep rfl going.quiet) rfl rfl ⟨rfl, rfl, rfl⟩

/-! ## The commands over keys, frames and calibration -/

/-- Settles O31: each command runs alone to its end, KEY_RETIRE and KEY_LOAD by what the device holds of the entry that they write,
the retirements by the frames that they mark. -/
theorem systemCommandsRun : Obligations.SystemCommandsRun :=
  ⟨fun _ _ _ => keyLoad_runs, fun _ _ _ => keyRetire_ends, fun _ _ _ _ => rekeyStart_runs,
    fun _ _ h outside inside unused => retireFrame_ends h ⟨outside, inside, unused⟩, fun _ _ => retireBank_again,
    fun _ _ => retireBank_free, fun _ _ => calRestore_ends⟩

end Sys2Proof.Laws
end

section
/-! PROOFS. Accesses of PCIe peers (R127): a write of an untouched line runs as one of the device's own, and a sealed page is out of
reach. -/

namespace Sys2Proof.Laws

open Sys2Proof Sys2Proof.Machine

/-! ## A partial write of the device's own finds what one of another node finds -/

/-- A partial write of the device's own, of an untouched line that no node holds, where nothing waits. -/
structure OwnWrite (s : State) (r : Req) : Prop where
  quiet : Quiet s
  restored : s.led.pending = false
  cmds : s.rings.cmds = []
  own : r.src = nodeId s
  op : r.op = 0x09
  some' : r.mask ≠ 0
  part : r.mask ≠ BitVec.allOnes 64
  unheld : dirLine s (reqLine s r) = 0
  clean : r.poison = false
  line : Untouched s (reqLine s r)

theorem ownWrite_of_sameHome {p : Nat} {s t : State} {r : Req} (h : SameHome p s t) (k : OwnWrite s r) : OwnWrite t r where
  quiet := h.quiet k.quiet
  restored := h.pending.trans k.restored
  cmds := h.cmds.trans k.cmds
  own := k.own.trans h.nodeId.symm
  op := k.op
  some' := k.some'
  part := k.part
  unheld := by rw [h.reqLine, h.dirLine]; exact k.unheld
  clean := k.clean
  line := by rw [h.reqLine]; exact h.untouched k.line

theorem entryAfter_partialWrite (e : Bool) (l : Line) (n : Node) : entryAfter e 0 l 0x09 n [] 0 = 0 := by
  have kind : entryKind 0 = .none := by decide
  rw [entryAfter, kind]
  simp

section

variable {s : State} {r : Req} (h : OwnWrite s r)
include h

theorem OwnWrite.effective : effective s r = r := by
  simp only [Machine.effective, h.op, h.part]
  simp

theorem OwnWrite.needsEntry : needsEntry s r = false := by
  simp only [Machine.needsEntry, h.effective, h.op, entryAfter_partialWrite]
  simp

theorem OwnWrite.needsRecall : needsRecall s r = false := by simp [Machine.needsRecall, h.needsEntry]

theorem OwnWrite.canStart : canStart s r = true := by
  have free : lineBusy s (reqLine s r) = false := by simp [lineBusy, h.quiet.1]
  have unbarred : pageBars s (pageOf (reqLine s r)) (isStore r.op) = false := by simp [pageBars, opOf_of_untouched h.line]
  have present : framePending s (pageOf (reqLine s r)) = false := by simp [framePending, h.restored]
  have unmoved : snapHeld s (reqLine s r) (isStore r.op) = false := by simp [snapHeld, h.cmds]
  simp [Machine.canStart, free, unbarred, present, unmoved, h.needsRecall, makeRoom_of_untouched h.line]

end

/-! ## Its run -/

section

variable {s : State} {w : Waiter} {l : Line} (h : OwnWrite s w.req)
include h

theorem enterBank_ownWrite : enterBank w s = startReq w (evQb (bankOf s (reqLine s w.req)) 0 s) := by
  have store : isStore w.req.op = true := by rw [h.op]; decide
  have unaborted : abortFor (pageOf (reqLine s w.req)) s = s := by simp [abortFor, opOf_of_untouched h.line]
  have first : firstForLine s w = true := by simp [firstForLine, h.quiet.2]
  unfold enterBank
  simp only [store, unaborted, h.canStart, first, Bool.and_self, if_true]

theorem startReq_ownWrite (line : reqLine s w.req = l) (kept : w.lost = false) : startReq w s = launch (writeTxn w l) s := by
  subst line
  have plain : isAtomic 0x09 = false := by decide
  have notRead (gone : Bool) : (gone && decide ((0x09 : BitVec 8) ≠ 0x08) && decide ((0x09 : BitVec 8) ≠ 0x09)) = false := by simp
  have notUpgrade : decide ((0x09 : BitVec 8) = 0x04) = false := by decide
  have key : keyRefuses s w.req = none := by simp [keyRefuses, takesKey_of_untouched h.line]
  have unowned : entryKind 0 = .none := by decide
  unfold startReq
  simp only [descFix_of_untouched h.line, dirFix_of_zero h.unheld, h.effective, kept, h.op, h.some', plain, notRead, notUpgrade,
    keyGone_of_untouched h.line, key, dirEntry_of_zero h.unheld, unowned, h.needsRecall, h.needsEntry, Bool.and_false, Bool.false_and,
    Bool.false_eq_true, if_false, reduceCtorEq, decide_false]
  rfl

theorem launch_ownWrite (line : reqLine s w.req = l) :
    launch (writeTxn w l) s = complete (servedTxn w l) (useDir l w.req.cls s) := by
  have unheld : dirLine s l = 0 := line ▸ h.unheld
  have same := sameHome_useDir 0 l w.req.cls s
  have entry : dirEntry (useDir l w.req.cls s) l = 0 := dirEntry_of_zero ((same.dirLine l).trans unheld)
  have own : txnLine (writeTxn w l) = l := txnLine_of_toNat rfl
  have unsnooped (m : List Node) (f hit : Bool) (op : BitVec 8) (n : Node) : planSnoops m f hit 0 op n = [] := rfl
  unfold launch
  simp only [own, show (writeTxn w l).req = w.req from rfl, entry, unsnooped, sendSnoops]
  rfl

/-- A write of the device's own ends without a packet. -/
def endedOwn (w : Waiter) (l : Line) (s : State) : State := dropTxn l.toNat (countEnd w.req w.due s)

theorem complete_ownWrite (line : reqLine s w.req = l) (own : w.req.src = nodeId (heldWrite w.req l s)) :
    complete (servedTxn w l) s = endedOwn w l (heldWrite w.req l s) := by
  have unheld : dirLine s l = 0 := line ▸ h.unheld
  have store : (decide (w.req.op = 0x08) || decide (w.req.op = 0x09)) = true := by simp [h.op]
  have entry : afterOk s (servedTxn w l) = 0 := by
    rw [afterOk]
    show entryAfter (grantE s) 0 _ w.req.op w.req.src [] 0 = 0
    rw [h.op, entryAfter_partialWrite]
  have device : isOwn (heldWrite w.req l s) w.req = true := by simp [isOwn, own]
  have silent (f : RspFlags) : sendRsp w.req 0x4D 0 f [] (heldWrite w.req l s) = heldWrite w.req l s := by
    rw [sendRsp, if_pos device, ownRsp, if_pos (by simp [h.op])]
  unfold complete
  simp only [txnLine_write, show (servedTxn w l).req = w.req from rfl, show (servedTxn w l).fwdDone = false from rfl, store, entry,
    setDir_zero unheld, h.clean, Bool.false_eq_true, if_false, if_true]
  show closeTxn (servedTxn w l) (countEnd w.req w.due (sendRsp w.req 0x4D 0
    { persisted := assured (heldWrite w.req l s) } [] (heldWrite w.req l s))) = _
  rw [silent]
  rfl

end

theorem endedOwn_quay (w : Waiter) (l : Line) (s : State) :
    (endedOwn w l s).quay = { s.quay with txns := s.quay.txns.filter (fun t => t.line ≠ l.toNat) } :=
  congrArg (fun q : Quay => { q with txns := q.txns.filter (fun t => t.line ≠ l.toNat) })
    (within_quay (countEnd_within w.req w.due s) rfl)

theorem quiet_endedOwn {w : Waiter} {l : Line} {s : State} (h : Quiet s) : Quiet (endedOwn w l s) := by
  obtain ⟨txns, busy, notices, parked, parkWait, fills, waiters⟩ := h
  have quay := endedOwn_quay w l s
  refine ⟨?_, (congrArg Quay.busy quay).trans busy, (congrArg Quay.notices quay).trans notices, (congrArg Quay.parked quay).trans parked,
    (congrArg Quay.parkWait quay).trans parkWait, (congrArg Quay.fills quay).trans fills, (countEnd_waiters ..).trans waiters⟩
  rw [quay, txns]
  rfl

/-- The state in which the write is laid down. -/
def ownWriting (r : Req) (s : State) : State := useDir (reqLine s r) r.cls (entered r s)

/-- The state in which the write has been laid down. -/
def ownWritten (r : Req) (s : State) : State := wroteLine (reqLine s r) (writeLine r (ownWriting r s)) (ownWriting r s)

theorem sameHome_ownWriting (r : Req) (s : State) : SameHome 0 s (ownWriting r s) := (sameHome_entered ..).trans (sameHome_useDir ..)

theorem heard_ownWritten (r : Req) (s : State) : Heard 0 s (ownWritten r s) :=
  (sameHome_ownWriting r s).toHeard.trans (heard_wroteLine ..)

section

variable {s : State} {r : Req} (h : OwnWrite s r)
include h

theorem heldWrite_own : heldWrite r (reqLine s r) (ownWriting r s) = ownWritten r s :=
  writeQuay_untouched ((sameHome_ownWriting r s).untouched h.line) ..

/-- A write of the device's own runs from its admission to its end. -/
theorem admitNew_ownWrite (at' : Nat) : admitNew at' r s = endedOwn (arrival at' r s) (reqLine s r) (ownWritten r s) := by
  have accepted' := sameHome_accepted 0 r s
  have entered' := sameHome_entered 0 r s
  have writing' := sameHome_ownWriting r s
  have atWriting := ownWrite_of_sameHome writing' h
  have k := ownWrite_of_sameHome accepted' h
  have room : bankHeld (accepted r s) (bankOf (accepted r s) (reqLine (accepted r s) r)) < 960 := by
    simp [bankHeld, k.quiet.1, k.quiet.2]
  have device : r.src = nodeId (heldWrite r (reqLine s r) (ownWriting r s)) := by
    rw [heldWrite_own h, nodeId_of_heard (heard_ownWritten r s)]
    exact h.own
  have quiet : Quiet (ownWritten r s) := (wroteLine_held _ _ atWriting.quiet).2.2.2
  calc admitNew at' r s
    _ = settle (enterBank (arrival at' r s) (accepted r s)) := by
      show settle (if bankHeld (accepted r s) (bankOf (accepted r s) (reqLine (accepted r s) r)) < 960 then
        enterBank (arrival at' r s) (accepted r s) else _) = _
      rw [if_pos room]
    _ = settle (startReq (arrival at' r s) (entered r s)) := by
      rw [enterBank_ownWrite (w := arrival at' r s) k]
      rfl
    _ = settle (launch (writeTxn (arrival at' r s) (reqLine s r)) (entered r s)) := by
      rw [startReq_ownWrite (w := arrival at' r s) (ownWrite_of_sameHome entered' h) (entered'.reqLine r) rfl]
    _ = settle (complete (servedTxn (arrival at' r s) (reqLine s r)) (ownWriting r s)) := by
      rw [launch_ownWrite (w := arrival at' r s) (ownWrite_of_sameHome entered' h) (entered'.reqLine r)]
      rfl
    _ = settle (endedOwn (arrival at' r s) (reqLine s r) (ownWritten r s)) := by
      rw [complete_ownWrite (w := arrival at' r s) atWriting (writing'.reqLine r) device]
      exact congrArg (fun t => settle (endedOwn (arrival at' r s) (reqLine s r) t)) (heldWrite_own h)
    _ = endedOwn (arrival at' r s) (reqLine s r) (ownWritten r s) := settle_of_quiet (quiet_endedOwn quiet)

theorem admitNew_ownWrite_held (at' : Nat) : ∃ q, qline (admitNew at' r s) (reqLine s r) = some q ∧ q.mask = r.mask ∧
    q.data = overlay r.mask r.data 0 ∧ q.dirty = true ∧ (admitNew at' r s).quay.txns = [] ∧
    (admitNew at' r s).dram.mem = s.dram.mem := by
  obtain ⟨line, -, -, quiet⟩ := wroteLine_held (reqLine s r) (writeLine r (ownWriting r s)) ((sameHome_ownWriting r s).quiet h.quiet)
  have quay := endedOwn_quay (arrival at' r s) (reqLine s r) (ownWritten r s)
  have partial' : (if r.op = 0x08 then BitVec.allOnes 64 else r.mask) = r.mask := by simp [h.op]
  refine ⟨writeLine r (ownWriting r s), ?_, ?_, ?_, rfl, ?_, ?_⟩
  · rw [admitNew_ownWrite h]
    exact (congrArg (fun q : Quay => sget none q.lines (reqLine s r).toNat) quay).trans line
  · rw [writeLine, partial']
    rfl
  · rw [writeLine, partial', newLine, if_neg h.part]
  · rw [admitNew_ownWrite h]
    exact (quiet_endedOwn quiet).1
  · rw [admitNew_ownWrite h]
    exact (within_mem (countEnd_within ..) rfl).trans (heard_ownWritten r s).mem

end

/-! ## The peer's access -/

/-- The write that a peer behind root port `pe` asks for, as the device's own. -/
def peerWrite (s : State) (pe : Nat) (a m : BitVec 64) (x : BitVec 512) : Req :=
  { op := 0x09, src := nodeId s, dst := nodeId s, tag := BitVec.ofNat 14 (pe + 1),
    line := foldLine (indexBits s) (BitVec.ofNat 39 (a.toNat / 64)), cls := BitVec.ofNat 8 (designated s 4),
    deadline := BitVec.ofNat 12 (fieldNat (classRec s (designated s 4)) 66 55), mask := m, data := x }

theorem exec_peerWrite {s : State} {pe : Nat} {a : BitVec 64} (service : s.aon.mode = .service) (port : pe < numDies s)
    (inside : a.toNat < capacity s) (reachable : peerOpen s (pageOf (BitVec.ofNat 39 (a.toNat / 64))) = true) (id : BitVec 16)
    (m : BitVec 64) (x : BitVec 512) :
    exec (.pciePeerAccess pe id a true m x) s = .next (admitNew (tick s) (peerWrite s pe a m x) s) := by
  show execPciePeerAccess pe id a true m x s = _
  unfold execPciePeerAccess
  rw [if_neg (by simp [diesDark, service, port, inside]), if_neg (by simp [reachable]), if_pos (by simp [service])]
  rfl

theorem peerOpen_of_untouched {s : State} {l : Line} (h : Untouched s l) : peerOpen s (pageOf l) = true := by
  have unsealed : dSealed (descOf s (pageOf l)) = false := by rw [descOf_of_untouched h]; decide
  simp [peerOpen, unsealed, h.plain]

theorem peerWrite_held (s : State) (pe : Nat) (id : BitVec 16) (a m : BitVec 64) (x : BitVec 512) (l : Line)
    (service : s.aon.mode = .service) (port : pe < numDies s) (inside : a.toNat < capacity s) (quiet : Quiet s)
    (restored : s.led.pending = false) (cmds : s.rings.cmds = []) (named : l = BitVec.ofNat 39 (a.toNat / 64))
    (folds : unfoldLine (indexBits s) (foldLine (indexBits s) l) = l) (line : Untouched s l) (unheld : dirLine s l = 0) (some' : m ≠ 0)
    (part : m ≠ BitVec.allOnes 64) :
    ∃ t q, exec (.pciePeerAccess pe id a true m x) s = .next t ∧ qline t l = some q ∧ q.mask = m ∧ q.data = overlay m x 0 ∧
      q.dirty = true ∧ t.quay.txns = [] ∧ t.dram.mem = s.dram.mem := by
  subst named
  have here : reqLine s (peerWrite s pe a m x) = BitVec.ofNat 39 (a.toNat / 64) := folds
  have write : OwnWrite s (peerWrite s pe a m x) :=
    ⟨quiet, restored, cmds, rfl, rfl, some', part, here.symm ▸ unheld, rfl, here.symm ▸ line⟩
  obtain ⟨q, held⟩ := admitNew_ownWrite_held write (tick s)
  rw [here] at held
  exact ⟨_, q, exec_peerWrite service port inside (peerOpen_of_untouched line) id m x, held⟩

/-- What an access of a sealed page is answered: a read, with Completer Abort. -/
def peerAborted (pe : Nat) (w : Bool) (s : State) : State :=
  if w then s else { s with quay.peerAns := sset none s.quay.peerAns pe (some { abort := true }) }

theorem peerAborted_quay (pe : Nat) (w : Bool) (s : State) : (peerAborted pe w s).quay =
    if w then s.quay else { s.quay with peerAns := sset none s.quay.peerAns pe (some { abort := true }) } := by
  cases w <;> rfl

/-- An entry is written while its window holds fewer than 16 of the cause. -/
theorem logIt_inbox {r : LogRec} {s : State} (room : sget 0 s.log.rate (r.src.toNat * 256 + r.cause.toNat) < 16) :
    (logIt r s).log.inbox = s.log.inbox ++ [logEntry r s.time.tide] := by
  unfold logIt
  dsimp only
  rw [if_pos room]

theorem peerAccess_refused (s : State) (pe : Nat) (id : BitVec 16) (a : BitVec 64) (w : Bool) (m : BitVec 64) (x : BitVec 512)
    (up : diesDark s = false) (port : pe < numDies s) (inside : a.toNat < capacity s)
    (sealed : dSealed (descOf s (pageOf (BitVec.ofNat 39 (a.toNat / 64)))) = true)
    (room : sget 0 s.log.rate ((epPe pe).toNat * 256 + 5) < 16) :
    ∃ t, exec (.pciePeerAccess pe id a w m x) s = .next t ∧
      t.log.inbox = s.log.inbox ++ [logEntry { cause := 0x05, src := epPe pe, kind := 1, addr := a.toNat, args := [id.toNat, pe] }
        s.time.tide] ∧ t.dram = s.dram ∧
      t.quay = if w then s.quay else { s.quay with peerAns := sset none s.quay.peerAns pe (some { abort := true }) } := by
  have closed : peerOpen s (pageOf (BitVec.ofNat 39 (a.toNat / 64))) = false := by simp [peerOpen, sealed]
  have run : exec (.pciePeerAccess pe id a w m x) s = .next (driveAlert (evPe pe 10 (logIt
      { cause := 0x05, src := epPe pe, kind := 1, addr := a.toNat, args := [id.toNat, pe] } (peerAborted pe w s)))) := by
    show execPciePeerAccess pe id a w m x s = _
    unfold execPciePeerAccess
    rw [if_neg (by simp [up, port, inside]), if_pos (by simp [closed])]
    rfl
  have log : (peerAborted pe w s).log = s.log := by cases w <;> rfl
  have tide : (peerAborted pe w s).time = s.time := by cases w <;> rfl
  have dram : (peerAborted pe w s).dram = s.dram := by cases w <;> rfl
  refine ⟨_, run, ?_, by rw [driveAlert_dram, evPe_dram, logIt_dram, dram],
    by rw [driveAlert_quay, evPe_quay, logIt_quay, peerAborted_quay]⟩
  rw [driveAlert_log, evPe_log, logIt_inbox (by rw [log]; exact room), log, tide]

end Sys2Proof.Laws
end

section
/-! PROOFS. The debug access port (R126, R132, R156), and the accesses from outside. -/

namespace Sys2Proof.Laws

open Sys2Proof Sys2Proof.Machine

/-! ## A write of a line and the other lines (R137, R138) -/

theorem readStored_writeStored_other {a b : Nat} (ne : b ≠ a) (m : List Host.Cell) (x : BitVec 640) :
    readStored (writeStored m a x) b = readStored m b := by
  have apart : ∀ i < 80, sget 0 (writeStored m a x) (b * 80 + i) = sget 0 m (b * 80 + i) := fun i small => by
    have written : writeStored m a x = ((List.range 80).map (a * 80 + ·)).foldl (fun n k => sset 0 n k (byteAt x (k - a * 80))) m := by
      simp [writeStored, List.foldl_map]
    rw [written, sget_foldl_sset, if_neg]
    intro mem
    obtain ⟨j, inside, same⟩ := List.mem_map.1 mem
    have := List.mem_range.1 inside
    omega
  rw [readStored, readStored, List.map_congr_left fun i mem => apart i (List.mem_range.1 mem)]

/-- Where every line has its place, its stored bytes and its write in the queue of its channel, it reads the same. -/
theorem dramContent_of_queues {s t : State} {b : Nat} (places : SamePlaces s t) (mem : readStored t.dram.mem b = readStored s.dram.mem b)
    (queue : ∀ c, (chan t c).writeQ.find? (fun q => q.addr = b) = (chan s c).writeQ.find? (fun q => q.addr = b)) :
    dramContent t b = dramContent s b := by
  simp only [dramContent, places.coord, mem, queue]

/-- What touches neither the channels nor the stored bytes. -/
theorem dramContent_of_kept {s t : State} (cfg : t.cfg = s.cfg) (fuse : t.fuse = s.fuse) (ch : t.dram.ch = s.dram.ch)
    (mem : t.dram.mem = s.dram.mem) (b : Nat) : dramContent t b = dramContent s b :=
  dramContent_of_queues (samePlaces_of_ch cfg fuse ch) (by rw [mem]) fun c => by rw [chan, ch, chan]

theorem dramContent_modChan {c b : Nat} {f : Channel → Channel} {s : State} (pop : (f (chan s c)).pop = (chan s c).pop)
    (xmap : (f (chan s c)).xmap = (chan s c).xmap)
    (queue : (f (chan s c)).writeQ.find? (fun q => q.addr = b) = (chan s c).writeQ.find? (fun q => q.addr = b)) :
    dramContent (modChan c f s) b = dramContent s b := by
  refine dramContent_of_queues (samePlaces_modChan c f s pop xmap) rfl fun d => ?_
  by_cases same : d = c
  · rw [same, chan_modChan, queue]
  · rw [chan_modChan_other same]

theorem dramContent_requeued_other {a b c : Nat} (ne : b ≠ a) (st : BitVec 640) (s : State) :
    dramContent (modChan c (requeued a st) s) b = dramContent s b := by
  refine dramContent_modChan rfl rfl ?_
  rw [requeued]
  induction (chan s c).writeQ with
  | nil => rfl
  | cons q l ih =>
    by_cases here : q.addr = a
    · simpa [List.find?_cons, here, Ne.symm ne] using ih
    · by_cases there : q.addr = b
      · simp [there, ne]
      · simpa [List.find?_cons, here, there] using ih

theorem dramContent_enqueued_other {a b c : Nat} (ne : b ≠ a) {q : DramReq} (at' : q.addr = a) (s : State) :
    dramContent (modChan c (enqueued q) s) b = dramContent s b := by
  refine dramContent_modChan rfl rfl ?_
  simp [enqueued, List.find?_append, at', Ne.symm ne]

theorem dramContent_storedAt_other {a b : Nat} (ne : b ≠ a) (st : BitVec 640) (s : State) :
    dramContent (storedAt a st s) b = dramContent s b :=
  dramContent_of_queues (samePlaces_of_ch rfl rfl rfl) (readStored_writeStored_other ne s.dram.mem st) fun _ => rfl

theorem dramContent_markOver (a b : Nat) (s : State) : dramContent (markOver a s) b = dramContent s b :=
  dramContent_of_kept rfl rfl rfl rfl b

theorem dramContent_evDch (c e b : Nat) (s : State) : dramContent (evDch c e s) b = dramContent s b :=
  dramContent_of_kept (by simp) (by simp) (by simp) (by simp) b

/-- With room in the queues the write of a line leaves every other line as it was. -/
theorem dramContent_dramWrite_other {a b : Nat} (ne : b ≠ a) (st : BitVec 640) {s : State} (room : ∀ c, (chan s c).writeQ.length < 64) :
    dramContent (dramWrite a st s) b = dramContent s b := by
  have roomy (c : Nat) : ¬ 64 ≤ (chan (markOver a s) c).writeQ.length := Nat.not_le.2 (room c)
  unfold dramWrite
  dsimp only
  split
  · exact (dramContent_storedAt_other ne st _).trans (dramContent_markOver a b s)
  · next c _ =>
    split
    · refine (dramContent_requeued_other ne st _).trans ?_
      split
      · rw [dramContent_evDch, dramContent_markOver]
      · rw [dramContent_markOver]
    · rw [if_neg (roomy _)]
      exact (dramContent_enqueued_other ne (by rfl) _).trans (dramContent_markOver a b s)

/-! ## A line as given (R126) -/

/-- The structure that a reserved line holds lies beside the stored lines. -/
theorem dramContent_putReserved (code idx : Nat) (x : BitVec 512) (s : State) (b : Nat) :
    dramContent (putReserved code idx x s) b = dramContent s b := by
  refine dramContent_of_kept (keeps_cfg (putReserved_within ..).same rfl) (keeps_fuse (putReserved_within ..).same rfl) ?_
    (keeps_mem (putReserved_within ..).same rfl) b
  unfold putReserved
  split
  · rfl
  · rfl
  · rfl
  · rfl
  · split <;> rfl

theorem dramContent_runIdx (m : SMap (BitVec 512)) (s : State) (b : Nat) :
    dramContent { s with dram.runIdx := m } b = dramContent s b :=
  dramContent_of_kept rfl rfl rfl rfl b

theorem dramContent_putStored (a : Nat) (st : BitVec 640) (s : State) (b : Nat) :
    dramContent (putStored a st s) b = dramContent (dramWrite a st s) b := by
  unfold putStored
  dsimp only
  split
  · split
    · rfl
    · exact dramContent_putReserved ..
  · split
    · exact dramContent_runIdx ..
    · rfl
  · rfl

/-- Outside the reserved regions the write reaches nothing of the Quay cache. -/
theorem putStored_quay {a : Nat} (st : BitVec 640) {s : State} (outside : regionOf s (a / 64) = none) :
    (putStored a st s).quay = s.quay := by
  have wrote := dramWrite_within a st s
  have still := (regionOf_of_kept (keeps_cfg wrote.same rfl) (keeps_fuse wrote.same rfl) (a / 64)).trans outside
  have quay := within_quay wrote rfl
  unfold putStored
  dsimp only
  rw [still]
  split
  · next found => cases found
  · split <;> exact quay
  · exact quay

/-! ## The debug access port -/

section

variable {s : State} {a : LineAddr} (up : diesDark s = false) (loaded : s.aon.loaded = true)
include up loaded

theorem debugAccess_invalid (beyond : totalFrames s ≤ a.toNat / 64) (w : Bool) (x : BitVec 640) :
    exec (.debugAccess a w x) s = .fault .invalidFrame := by
  show execDebugAccess a w x s = _
  rw [execDebugAccess, if_neg (by simp [up, loaded]), if_pos beyond]

variable (inside : a.toNat / 64 < totalFrames s)
include inside

theorem debugAccess_barred (barred : debugBarred s (a.toNat / 64) = true) (w : Bool) (x : BitVec 640) :
    ∃ t, exec (.debugAccess a w x) s = .next t ∧ t.dram = s.dram ∧ t.quay = s.quay ∧
      t.aon.dbgData = if w then s.aon.dbgData else 0 := by
  have run : exec (.debugAccess a w x) s = .next (driveAlert (logIt
      { cause := 0x04, src := epAon, kind := 2, addr := a.toNat, args := [if w then 2 else 1] }
      (if w then s else { s with aon.dbgData := 0 }))) := by
    show execDebugAccess a w x s = _
    rw [execDebugAccess, if_neg (by simp [up, loaded]), if_neg (Nat.not_le.2 inside), if_pos barred]
  refine ⟨_, run, ?_, ?_, ?_⟩
  · rw [driveAlert_dram, logIt_dram]
    split <;> rfl
  · rw [driveAlert_quay, logIt_quay]
    split <;> rfl
  · rw [driveAlert_aon, logIt_aon]
    split <;> rfl

variable (allowed : debugBarred s (a.toNat / 64) = false)
include allowed

theorem debugAccess_offline (offline : lineOffline s a.toNat = true) (w : Bool) (x : BitVec 640) :
    exec (.debugAccess a w x) s = .next s := by
  show execDebugAccess a w x s = _
  rw [execDebugAccess, if_neg (by simp [up, loaded]), if_neg (Nat.not_le.2 inside), if_neg (by simp [allowed]), if_pos offline]

variable (online : lineOffline s a.toNat = false)
include online

theorem debugAccess_reads (x : BitVec 640) :
    exec (.debugAccess a false x) s = .next { s with aon.dbgData := lineStored s a.toNat } := by
  show execDebugAccess a false x s = _
  rw [execDebugAccess, if_neg (by simp [up, loaded]), if_neg (Nat.not_le.2 inside), if_neg (by simp [allowed]),
    if_neg (by simp [online]), if_neg (by simp)]

theorem debugAccess_writes (room : ∀ c, (chan s c).writeQ.length < 64) (x : BitVec 640) :
    ∃ t, exec (.debugAccess a true x) s = .next t ∧ dramContent t a.toNat = x ∧
      (∀ b, b ≠ a.toNat → dramContent t b = dramContent s b) ∧ (regionOf s (a.toNat / 64) = none → t.quay = s.quay) := by
  have run : exec (.debugAccess a true x) s = .next (putStored a.toNat x s) := by
    show execDebugAccess a true x s = _
    rw [execDebugAccess, if_neg (by simp [up, loaded]), if_neg (Nat.not_le.2 inside), if_neg (by simp [allowed]),
      if_neg (by simp [online]), if_pos rfl]
  refine ⟨_, run, ?_, fun b ne => ?_, putStored_quay x⟩
  · rw [dramContent_putStored, dramContent_dramWrite]
  · rw [dramContent_putStored, dramContent_dramWrite_other ne x room]

end

/-! ## Accesses from outside -/

/-- Settles O37: a peer's write runs as one of the device's own to a held line, and an access of a sealed page is logged and goes no
further; the debug access port writes one line, where its frame is allowed and its channel set answers. -/
theorem outsidersAreConfined : Obligations.OutsidersAreConfined := by
  unfold Obligations.OutsidersAreConfined
  refine ⟨?_, peerAccess_refused, ?_, ?_⟩
  · intro s pe id a m x l service port inside quiet _ cmds restored named folds line unheld some' part
    exact peerWrite_held s pe id a m x l service port inside quiet restored cmds named folds line unheld some' part
  · intro s a x up loaded inside room
    refine ⟨fun allowed online => ⟨?_, ?_⟩, fun w allowed offline => ?_, fun w barred => ?_⟩
    · exact debugAccess_writes up loaded inside allowed online room x
    · exact debugAccess_reads up loaded inside allowed online x
    · exact debugAccess_offline up loaded inside allowed offline w x
    · exact debugAccess_barred up loaded inside barred w x
  · intro s a w x up loaded beyond
    exact debugAccess_invalid up loaded beyond w x

end Sys2Proof.Laws
end

section
/-! PROOFS. The channels of DRAM one by one: what a change of some of them leaves of the others, and which operations leave all of them
alone. -/

namespace Sys2Proof.Laws

open Sys2Proof Sys2Proof.Machine

/-! ## What leaves the channels alone -/

theorem chan_of_within {p : Parts} {s t : State} (h : Within p s t) (dram : p.dram = false) (mem : p.mem = false) (c : Nat) :
    chan t c = chan s c := by
  rw [chan, keeps_dram h.same dram mem, chan]

theorem chan_evAdd (id n : Nat) (s : State) (c : Nat) : chan (evAdd id n s) c = chan s c := chan_of_within (evAdd_within ..) rfl rfl c
theorem chan_logIt (r : LogRec) (s : State) (c : Nat) : chan (logIt r s) c = chan s c := chan_of_within (logIt_within ..) rfl rfl c
theorem chan_writeRecord (n : Nat) (s : State) (c : Nat) : chan (writeRecord n s) c = chan s c :=
  chan_of_within (writeRecord_within ..) rfl rfl c

/-! ## Changes of channels -/

/-- What a change of one channel leaves of every channel, that one among them. -/
theorem chanPart_modChan {α : Type} (g : Channel → α) (a : Nat) {f : Channel → Channel} (s : State)
    (same : g (f (chan s a)) = g (chan s a)) (c : Nat) : g (chan (modChan a f s) c) = g (chan s c) := by
  by_cases h : c = a
  · rw [h, chan_modChan, same]
  · rw [chan_modChan_other h]

/-- Where channels change one after another, each by a change that may as well come twice, the channels of the list have changed once. -/
theorem chan_foldl_modChan {f : Nat → Channel → Channel} (twice : ∀ x ch, f x (f x ch) = f x ch) (l : List Nat) (s : State)
    (c : Nat) : chan (l.foldl (fun t x => modChan x (f x) t) s) c = if c ∈ l then f c (chan s c) else chan s c := by
  induction l generalizing s with
  | nil => rfl
  | cons a l ih =>
    rw [List.foldl_cons, ih]
    by_cases here : c = a
    · subst here
      simp [twice]
    · simp [here, chan_modChan_other here]

/-! ## Changes of one channel only -/

theorem onlyChan_modChan (c : Nat) (f : Channel → Channel) (s : State) : OnlyChan c s (modChan c f s) :=
  ⟨(modChan_within ..).same, fun _ other => chan_modChan_other other f s⟩

theorem onlyChan_setChan (c : Nat) (ch : Channel) (s : State) : OnlyChan c s (setChan c ch s) :=
  ⟨(setChan_within ..).same, fun _ other => chan_setChan_other other ch s⟩

theorem OnlyChan.trans {c : Nat} {r s t : State} (h : OnlyChan c r s) (k : OnlyChan c s t) : OnlyChan c r t :=
  ⟨Eq.trans k.1 h.1, fun d other => (k.2 d other).trans (h.2 d other)⟩

end Sys2Proof.Laws
end

section
/-! PROOFS. Refresh, row disturbance and write drain of a channel (R139 to R144). -/

namespace Sys2Proof.Laws

open Sys2Proof Sys2Proof.Machine

/-! ## Refresh (R141) -/

/-- A refresh of a bank address has come due: the phase has moved on, and one more refresh is owed. -/
def refreshOwed (c key ba : Nat) (s : State) : State :=
  modChan c (fun ch => { ch with owed := smod 0 ch.owed key (· + 1) })
    (modChan c (fun ch => { ch with refPhase := sset 0 ch.refPhase (key / 4) ((ba + 1) % 4) }) s)

theorem chan_refreshOwed (c key ba : Nat) (s : State) : chan (refreshOwed c key ba s) c =
    { chan s c with owed := smod 0 (chan s c).owed key (· + 1), refPhase := sset 0 (chan s c).refPhase (key / 4) ((ba + 1) % 4) } := by
  simp [refreshOwed]

theorem onlyChan_refreshOwed (c key ba : Nat) (s : State) : OnlyChan c s (refreshOwed c key ba s) :=
  OnlyChan.trans (onlyChan_modChan ..) (onlyChan_modChan ..)

theorem chan_issueRefresh (c key n : Nat) (s : State) : chan (issueRefresh c key n s) c =
    closeRows (fun b => refKeyOf b = key) { chan s c with owed := smod 0 (chan s c).owed key (· - n) } := by
  rw [issueRefresh, chan_evAdd, chan_modChan]

theorem issueRefresh_mem (c key n : Nat) (s : State) : (issueRefresh c key n s).dram.mem = s.dram.mem :=
  within_mem (issueRefresh_within ..) rfl

section

variable {s : State} {c : Nat} (runs : chanRuns s c = true) (sub : Bool) (rank cid ba : Nat)
include runs

theorem refreshDue_idle (reads : (chan s c).readQ = []) (writes : (chan s c).writeQ = []) :
    ∃ u, exec (.refreshDue c sub rank cid ba) s = .next u ∧ sget 0 (chan u c).owed (refKey sub rank cid ba) = 0 ∧
      (chan u c).mitig = (chan s c).mitig ∧ u.dram.mem = s.dram.mem := by
  generalize keyIs : refKey sub rank cid ba = key
  refine ⟨issueRefresh c key (sget 0 (chan s c).owed key + 1) (refreshOwed c key ba s), ?_, ?_, ?_, ?_⟩
  · show execRefreshDue c sub rank cid ba s = _
    simp [execRefreshDue, runs, reads, writes, keyIs, refreshOwed]
  · rw [chan_issueRefresh, chan_refreshOwed]
    simp [closeRows, smod]
  · rw [chan_issueRefresh, chan_refreshOwed]
    rfl
  · rw [issueRefresh_mem]
    rfl

theorem refreshDue_postponed (busy : ∃ q ∈ (chan s c).readQ, refKeyOf q.bank = refKey sub rank cid ba)
    (few : sget 0 (chan s c).owed (refKey sub rank cid ba) < 4) :
    ∃ u, exec (.refreshDue c sub rank cid ba) s = .next u ∧ OnlyChan c s u ∧ (chan u c).readQ = (chan s c).readQ ∧
      sget 0 (chan u c).owed (refKey sub rank cid ba) = sget 0 (chan s c).owed (refKey sub rank cid ba) + 1 := by
  have queued : (chan s c).readQ.any (fun q => refKeyOf q.bank = refKey sub rank cid ba) = true := by
    simpa using busy
  refine ⟨refreshOwed c (refKey sub rank cid ba) ba s, ?_, onlyChan_refreshOwed .., ?_, ?_⟩
  · show execRefreshDue c sub rank cid ba s = _
    rw [execRefreshDue, if_neg (by simp [runs])]
    dsimp only
    rw [queued, Bool.true_or, if_pos (by simp [few])]
    rfl
  · rw [chan_refreshOwed]
  · rw [chan_refreshOwed]
    simp [smod]

end

/-! ## Row disturbance (R143) -/

theorem rdWindowStart_clears (s : State) :
    ∃ u, exec .rdWindowStart s = .next u ∧ ∀ c, c < 16 → (chan u c).rowTable = [] ∧ (chan u c).mitig = (chan s c).mitig := by
  refine ⟨_, rfl, fun c small => ?_⟩
  rw [chan_foldl_modChan (f := fun _ ch => { ch with rowTable := [] }) (fun _ _ => rfl), if_pos (List.mem_range.2 small)]
  exact ⟨rfl, rfl⟩

/-- The count of a row goes back to 0. -/
def rowReset (row : Nat) (t : List (Nat × BitVec 16)) : List (Nat × BitVec 16) := t.map (fun e => if e.1 = row then (e.1, 0) else e)

/-- A mitigation of a row is queued, and the row's count goes back to 0. -/
def mitigationQueued (bank row : Nat) (ch : Channel) : Channel :=
  { ch with rowTable := sset [] ch.rowTable bank (rowReset row (sget [] ch.rowTable bank)), mitig := ch.mitig ++ [(bank, row)] }

theorem count_of_mem_rowReset {row : Nat} {m : BitVec 16} {t : List (Nat × BitVec 16)} (h : (row, m) ∈ rowReset row t) : m = 0 := by
  obtain ⟨e, _, same⟩ := List.mem_map.1 h
  by_cases here : e.1 = row
  · rw [if_pos here] at same
    exact (congrArg Prod.snd same).symm
  · rw [if_neg here] at same
    exact absurd (congrArg Prod.fst same) here

theorem rdThresholdReached_mitigates {s : State} {c bank row : Nat} {n : BitVec 16}
    (counted : (row, n) ∈ sget [] (chan s c).rowTable bank) (reached : dchParam s c 5 ≤ n.toNat) :
    ∃ u, exec (.rdThresholdReached c bank row) s = .next u ∧ (chan u c).mitig = (chan s c).mitig ++ [(bank, row)] ∧
      (∀ m, (row, m) ∈ sget [] (chan u c).rowTable bank → m = 0) ∧ OnlyChan c s u := by
  have found : (sget [] (chan s c).rowTable bank).any (fun e => e.1 = row && dchParam s c 5 ≤ e.2.toNat) = true :=
    List.any_eq_true.2 ⟨(row, n), counted, by simp [reached]⟩
  refine ⟨modChan c (mitigationQueued bank row) s, ?_, ?_, fun m h => ?_, onlyChan_modChan ..⟩
  · show execRdThresholdReached c bank row s = _
    rw [execRdThresholdReached, if_pos found]
    rfl
  · rw [chan_modChan, mitigationQueued]
  · rw [chan_modChan, mitigationQueued, sget_sset_same] at h
    exact count_of_mem_rowReset h

/-! ## Write drain (R140) -/

theorem writeDrainEntry_full {s : State} {c : Nat} (runs : chanRuns s c = true) (resting : draining (chan s c) = false)
    (full : drainHi (chan s c) ≤ (chan s c).writeQ.length) :
    ∃ u, exec (.writeDrainEntry c) s = .next u ∧ draining (chan u c) = true ∧ (chan u c).writeQ = (chan s c).writeQ := by
  refine ⟨evDch c 11 (setChan c { chan s c with wdrain := (chan s c).wdrain ||| 1, drainOpp := false } s), ?_, ?_, ?_⟩
  · show execWriteDrainEntry c s = _
    simp [execWriteDrainEntry, runs, resting, full]
  · rw [chan_evDch, chan_setChan]
    simp [draining]
  · rw [chan_evDch, chan_setChan]

theorem writeDrainExit_low {s : State} {c : Nat} (mode : s.aon.mode = .service) (going : draining (chan s c) = true)
    (low : (chan s c).writeQ.length ≤ drainLo (chan s c)) :
    ∃ u, exec (.writeDrainExit c) s = .next u ∧ draining (chan u c) = false ∧ (chan u c).writeQ = (chan s c).writeQ ∧
      OnlyChan c s u := by
  refine ⟨setChan c { chan s c with wdrain := (chan s c).wdrain &&& 0xFFFFFFFE, drainOpp := false } s, ?_, ?_, ?_, onlyChan_setChan ..⟩
  · show execWriteDrainExit c s = _
    simp [execWriteDrainExit, mode, going, low]
  · rw [chan_setChan]
    simp [draining]
  · rw [chan_setChan]

/-! ## The statement -/

/-- Settles O16: each event of the channel by its lemma. -/
theorem channelsRefreshAndDrain : Obligations.ChannelsRefreshAndDrain := by
  unfold Obligations.ChannelsRefreshAndDrain
  refine ⟨fun s c sub rank cid ba runs => ⟨refreshDue_idle runs sub rank cid ba, refreshDue_postponed runs sub rank cid ba⟩,
    rdWindowStart_clears, fun s c bank row n => rdThresholdReached_mitigates, fun s c => writeDrainEntry_full,
    fun s c => writeDrainExit_low⟩

end Sys2Proof.Laws
end

section
/-! PROOFS. What watches over a channel: the thermal sensors and the PMICs of its DIMMs, their alerts, and the marks of failing devices
(R131, R142, R150, R155, R156). -/

namespace Sys2Proof.Laws

open Sys2Proof Sys2Proof.Machine

/-! ## Temperature (R142) -/

/-- A channel whose hottest DIMM is at `hot` degrees, with the throttle step that its threshold gives. -/
def warmedTo (th hot : Nat) (temps : SMap Nat) (ch : Channel) : Channel :=
  { ch with temps := temps, halved := 85 ≤ hot, throttle := throttleOf th hot, aboveLimit := 95 ≤ hot }

theorem thermalSensorRead_throttles {s : State} {c slot : Nat} (temp : Nat) (there : slot < (chan s c).pop.dimms) :
    ∃ u, exec (.thermalSensorRead c slot temp) s = .next u ∧ (chan u c).temps = sset 0 (chan s c).temps slot temp ∧
      (chan u c).halved = decide (85 ≤ ((sset 0 (chan s c).temps slot temp).map Prod.snd).foldl max 0) ∧
      (chan u c).throttle = throttleOf (dchParam s c 14) (((sset 0 (chan s c).temps slot temp).map Prod.snd).foldl max 0) := by
  generalize tempsAre : sset 0 (chan s c).temps slot temp = temps
  generalize hotIs : (temps.map Prod.snd).foldl max 0 = hot
  obtain ⟨u, run, here⟩ : ∃ u, exec (.thermalSensorRead c slot temp) s = .next u ∧
      chan u c = warmedTo (dchParam s c 14) hot temps (chan s c) := by
    show ∃ u, execThermalSensorRead c slot temp s = .next u ∧ _
    rw [execThermalSensorRead, if_neg (Nat.not_le.2 there)]
    dsimp only
    rw [tempsAre, hotIs]
    split
    · exact ⟨_, rfl, by rw [chan_logIt, chan_setChan]; rfl⟩
    · exact ⟨_, rfl, by rw [chan_setChan]; rfl⟩
  exact ⟨u, run, by rw [here]; rfl, by rw [here]; rfl, by rw [here]; rfl⟩

/-! ## Channel sets that go offline (R156) -/

/-- A channel is of its set. -/
theorem mem_setOf (s : State) (c : Nat) : c ∈ Machine.setOf s c := by
  unfold Machine.setOf
  cases found : (chanSets s).find? (fun x => x.chans.contains c) with
  | none => exact List.mem_singleton_self c
  | some x => simpa using List.find?_some found

/-- A channel out of service, with nothing queued. -/
def takenOffline (why : BitVec 3) (ch : Channel) : Channel :=
  { ch with offline := true, offlineWhy := why, readQ := [], readWait := [], writeQ := [], owed := [], mitig := [], raa := [],
            rfmDue := [], openRows := [] }

theorem chan_goOffline {s : State} {c : Nat} (online : (chan s c).offline = false) (why : Nat) :
    chan (goOffline c why s) c = takenOffline (BitVec.ofNat 3 why) (chan s c) := by
  rw [goOffline, if_neg (by simp [online])]
  dsimp only
  rw [chan_logIt]
  have changed := chan_foldl_modChan (f := fun x => takenOffline (if x = c then BitVec.ofNat 3 why else 4)) (fun _ _ => rfl)
    (Machine.setOf s c) s c
  rw [if_pos (mem_setOf s c), if_pos rfl] at changed
  exact changed

theorem quiet_goOffline (c why : Nat) {s : State} (quiet : Quiet s) : Quiet (goOffline c why s) :=
  have w := goOffline_within c why s
  quiet_of_kept quiet (within_quay w rfl) (by rw [within_reins w rfl])

section

variable {k : Nat → Nat → Bool → Instr}
  (either : k ∈ ([Instr.pmicStatusRead, Instr.pmicInterrupt] : List (Nat → Nat → Bool → Instr))) {s : State} {c slot : Nat}
  (there : slot < (chan s c).pop.dimms)
include either there

/-- Either report of a PMIC: a fault takes the channel offline, and without one nothing happens. -/
theorem pmic_reports (fault : Bool) : exec (k c slot fault) s = .next (if fault then settle (goOffline c 1 s) else s) := by
  have read : exec (k c slot fault) s = .next (if fault && slot < (chan s c).pop.dimms then settle (goOffline c 1 s) else s) := by
    simp only [List.mem_cons, List.not_mem_nil, or_false] at either
    rcases either with rfl | rfl <;> rfl
  rw [read, decide_eq_true there, Bool.and_true]

theorem pmic_takesOffline (online : (chan s c).offline = false) (quiet : Quiet s) :
    (∃ u, exec (k c slot true) s = .next u ∧ (chan u c).offline = true ∧ (chan u c).offlineWhy = 1 ∧ (chan u c).readQ = [] ∧
      u.dram.mem = s.dram.mem) ∧ exec (k c slot false) s = .next s := by
  have here := chan_goOffline online 1
  refine ⟨⟨goOffline c 1 s, ?_, by rw [here]; rfl, by rw [here]; rfl, by rw [here]; rfl, within_mem (goOffline_within ..) rfl⟩,
    pmic_reports either there false⟩
  rw [pmic_reports either there true, if_pos rfl, settle_of_quiet (quiet_goOffline c 1 quiet)]

end

/-! ## Alerts (R155) -/

theorem online_of_chanRuns {s : State} {c : Nat} (runs : chanRuns s c = true) : (chan s c).offline = false := by
  simp only [chanRuns, Bool.and_eq_true, Bool.not_eq_true'] at runs
  exact runs.1.2

theorem dimmAlert_replays {s : State} {c : Nat} (runs : chanRuns s c = true) (few : (chan s c).replays < 3) (sub ok : Bool) (rank : Nat) :
    ∃ u, exec (.dimmAlert c sub rank ok) s = .next u ∧ (chan u c).replays = (if ok then 0 else (chan s c).replays + 1) ∧
      (chan u c).offline = false := by
  obtain ⟨u, run, here⟩ : ∃ u, exec (.dimmAlert c sub rank ok) s = .next u ∧
      chan u c = { chan s c with replays := if ok then 0 else (chan s c).replays + 1 } := by
    show ∃ u, execDimmAlert c sub rank ok s = .next u ∧ _
    rw [execDimmAlert, if_neg (by simp [runs])]
    dsimp only
    rw [if_neg (by omega)]
    exact ⟨_, rfl, by rw [chan_logIt, chan_evDch, chan_modChan]⟩
  exact ⟨u, run, by rw [here], by rw [here]; exact online_of_chanRuns runs⟩

/-! ## Device marks (R150) -/

theorem devMarkWinStart_clears (s : State) :
    ∃ u, exec .devMarkWinStart s = .next u ∧ ∀ c, c < 16 → (chan u c).corr = [] ∧ (chan u c).marks = (chan s c).marks := by
  refine ⟨_, rfl, fun c small => ?_⟩
  rw [chan_foldl_modChan (f := fun _ ch => { ch with corr := [] }) (fun _ _ => rfl), if_pos (List.mem_range.2 small)]
  exact ⟨rfl, rfl⟩

theorem devMarked_marks {s : State} {c rank cid dev k : Nat} {sub : Bool}
    (key : k = (if sub then 32 else 0) + rank * 2 ^ (chan s c).pop.cidBits + cid)
    (reached : dchParam s c 10 ≤ sget 0 (chan s c).corr (k * 16 + dev)) (unmarked : sget 0xF (chan s c).marks k = 0xF)
    (small : dev ≤ 9) :
    ∃ u, exec (.devMarked c sub rank cid dev) s = .next u ∧ sget 0xF (chan u c).marks k = BitVec.ofNat 4 dev ∧
      ∀ j, j ≠ k → sget 0xF (chan u c).marks j = sget 0xF (chan s c).marks j := by
  obtain ⟨u, run, here⟩ : ∃ u, exec (.devMarked c sub rank cid dev) s = .next u ∧
      (chan u c).marks = sset 0xF (chan s c).marks k (BitVec.ofNat 4 dev) := by
    show ∃ u, execDevMarked c sub rank cid dev s = .next u ∧ _
    rw [execDevMarked]
    dsimp only
    rw [← key, unmarked, if_neg (by simp [Nat.not_lt.2 reached, Nat.not_lt.2 small])]
    exact ⟨_, rfl, by rw [chan_logIt, chan_writeRecord, chan_modChan]⟩
  exact ⟨u, run, by rw [here, sget_sset_same], fun j other => by rw [here, sget_sset_other _ _ _ other]⟩

/-! ## The statement -/

/-- Settles O17: each report by the lemma of its own command. -/
theorem channelsAreWatched : Obligations.ChannelsAreWatched := by
  unfold Obligations.ChannelsAreWatched
  exact ⟨fun s c slot temp => thermalSensorRead_throttles temp,
    fun k either s c slot there online quiet => pmic_takesOffline either there online quiet,
    fun s c sub ok rank runs few => dimmAlert_replays runs few sub ok rank,
    devMarkWinStart_clears,
    fun s c rank cid dev k sub => devMarked_marks⟩

end Sys2Proof.Laws
end

section
/-! PROOFS. The scrubber (R151 to R153): what a read of an unsealed line of a berth finds, and what it leaves. -/

namespace Sys2Proof.Laws

open Sys2Proof Sys2Proof.Machine

/-! ## What lines read -/

/-- The parts of a channel that say where its lines lie and what a read of them finds. -/
structure LineParts where
  pop : Population
  xmap : SMap (BitVec 17)
  offline : Bool
  marks : SMap (BitVec 4)
  writeQ : List DramReq

/-- Those parts of a channel. -/
def lineParts (ch : Channel) : LineParts :=
  { pop := ch.pop, xmap := ch.xmap, offline := ch.offline, marks := ch.marks, writeQ := ch.writeQ }

/-- From `s` to `t` every line of DRAM reads as it did, and pages and frames are as they were. -/
structure LinesKept (s t : State) : Prop where
  view : pageView t = pageView s
  mem : t.dram.mem = s.dram.mem
  frameMap : t.dram.frameMap = s.dram.frameMap
  parts : ∀ c, lineParts (chan t c) = lineParts (chan s c)

theorem LinesKept.trans {r s t : State} (h : LinesKept r s) (k : LinesKept s t) : LinesKept r t :=
  ⟨k.view.trans h.view, k.mem.trans h.mem, k.frameMap.trans h.frameMap, fun c => (k.parts c).trans (h.parts c)⟩

theorem linesKept_modChan (c : Nat) (f : Channel → Channel) (s : State) (same : lineParts (f (chan s c)) = lineParts (chan s c)) :
    LinesKept s (modChan c f s) :=
  ⟨rfl, rfl, rfl, chanPart_modChan lineParts c s same⟩

theorem linesKept_of_dram {s t : State} (view : pageView t = pageView s) (dram : t.dram = s.dram) : LinesKept s t :=
  ⟨view, by rw [dram], by rw [dram], fun c => by rw [chan, dram, chan]⟩

theorem linesKept_evDch (c e : Nat) (s : State) : LinesKept s (evDch c e s) := linesKept_of_dram (by simp) (by simp)

theorem linesKept_readNow (cls : BitVec 8) (addr : Nat) (s : State) : LinesKept s (readNow cls addr s) :=
  linesKept_of_dram (by simp) (keeps_dram (readNow_within ..).same rfl rfl)

section

variable {s t : State} (h : LinesKept s t)
include h

theorem LinesKept.samePlaces : SamePlaces s t :=
  ⟨cfg_of_view h.view, fuse_of_view h.view, fun c => congrArg LineParts.pop (h.parts c), fun c => congrArg LineParts.xmap (h.parts c)⟩

theorem LinesKept.writeQ (c : Nat) : (chan t c).writeQ = (chan s c).writeQ := congrArg LineParts.writeQ (h.parts c)

theorem LinesKept.lineOffline (addr : Nat) : lineOffline t addr = lineOffline s addr := by
  have offline (c : Nat) : (chan t c).offline = (chan s c).offline := congrArg LineParts.offline (h.parts c)
  simp only [Machine.lineOffline, h.samePlaces.chanSets, offline]

theorem LinesKept.dramContent (addr : Nat) : dramContent t addr = dramContent s addr :=
  dramContent_of_queues h.samePlaces (by rw [h.mem]) fun c => by rw [h.writeQ]

theorem LinesKept.markOf (addr : Nat) : markOf t addr = markOf s addr := by
  have marks (c : Nat) : (chan t c).marks = (chan s c).marks := congrArg LineParts.marks (h.parts c)
  simp only [Machine.markOf, h.samePlaces.coord, marks, h.samePlaces.pop]

theorem LinesKept.frameEntry (f : Nat) : frameEntry t f = frameEntry s f := by
  rw [Machine.frameEntry, regionOf_of_samePlaces h.samePlaces, h.frameMap, Machine.frameEntry]

theorem LinesKept.berthScrub {addr : Nat} (berth : BerthScrub s addr) : BerthScrub t addr where
  pool := (regionOf_of_samePlaces h.samePlaces _).trans berth.pool
  berth := by rw [h.frameEntry]; exact berth.berth
  place := by rw [h.frameEntry, descOf_of_view h.view]; exact berth.place
  plain := by rw [h.frameEntry, descOf_of_view h.view]; exact berth.plain
  there := by rw [h.samePlaces.coord]; exact berth.there
  online := (h.lineOffline addr).trans berth.online
  writes := fun x here => (h.writeQ x.ch).trans (berth.writes x ((h.samePlaces.coord addr).symm.trans here))
  quiet := quiet_of_view h.view rfl rfl berth.quiet

theorem LinesKept.check (addr : Nat) :
    plainCheckLine (Machine.dramContent t addr) (Machine.markOf t addr) =
      plainCheckLine (Machine.dramContent s addr) (Machine.markOf s addr) := by
  rw [h.dramContent, h.markOf]

end

/-! ## A line is rewritten as corrected (R138, R149) -/

/-- The corrective rewrite of a line. -/
def rewriteReq (c : Coord) (addr : Nat) (st : BitVec 640) (s : State) : DramReq :=
  { mkDramReq c addr (deviceClass s) with data := st, corrective := true }

theorem correctiveRewrite_of_noWrites {s : State} {addr : Nat} {c : Coord} (here : coord s addr = some c)
    (empty : (chan s c.ch).writeQ = []) (st : BitVec 640) :
    correctiveRewrite addr st s = modChan c.ch (enqueued (rewriteReq c addr st s)) s := by
  simp only [correctiveRewrite, here, empty]
  rfl

/-- The correction of a line is logged and counted, unless its device is marked failed. -/
def correctionNoted (r : LogRec) (c : Coord) (addr dev : Nat) (s : State) : State :=
  if markOf s addr = some dev then s
  else
    let t := logIt { r with cause := 0x10, addr := r.addr, src := epDch c.ch, loc := locOf s addr dev } s
    countCorrection addr (modChan c.ch (fun ch => { ch with corr := smod 0 ch.corr (devKey t c dev) (· + 1) }) t)

theorem correctedAs_of_coord {s : State} {addr : Nat} {c : Coord} (here : coord s addr = some c) (r : LogRec) (st : BitVec 640)
    (dev : Nat) : correctedAs r addr st dev false s = correctionNoted r c addr dev (correctiveRewrite addr st (evDch c.ch 12 s)) := by
  simp only [correctedAs, here, Bool.false_eq_true, if_false, correctionNoted]

theorem linesKept_correctionNoted (r : LogRec) (c : Coord) (addr dev : Nat) (s : State) :
    LinesKept s (correctionNoted r c addr dev s) := by
  unfold correctionNoted
  split
  · exact linesKept_of_dram rfl rfl
  · exact (linesKept_of_dram (by simp) (by simp)).trans ((linesKept_modChan c.ch _ _ rfl).trans
      (linesKept_of_dram (view_countCorrection ..) (keeps_dram (countCorrection_within ..).same rfl rfl)))

theorem correctionNoted_scrubPos (r : LogRec) (c : Coord) (addr dev : Nat) (s : State) (d : Nat) :
    (chan (correctionNoted r c addr dev s) d).scrubPos = (chan s d).scrubPos := by
  unfold correctionNoted
  split
  · rfl
  · rw [chan_of_within (countCorrection_within ..) rfl rfl, chanPart_modChan Channel.scrubPos _ _ rfl, chan_logIt]

section

variable {s : State} {addr : Nat} {c : Coord} (here : coord s addr = some c) (empty : (chan s c.ch).writeQ = []) (r : LogRec)
  (st : BitVec 640) (dev : Nat)
include here empty

/-- A line that no write waits for is corrected: its rewrite takes the first place of the queue, and the correction is noted. -/
theorem correctedAs_of_noWrites : ∃ q : DramReq, q.addr = addr ∧ q.data = st ∧
    correctedAs r addr st dev false s = correctionNoted r c addr dev (modChan c.ch (enqueued q) (evDch c.ch 12 s)) := by
  have here' : coord (evDch c.ch 12 s) addr = some c := ((samePlaces_evDch ..).coord addr).trans here
  have empty' : (chan (evDch c.ch 12 s) c.ch).writeQ = [] := by rw [chan_evDch, empty]
  exact ⟨rewriteReq c addr st (evDch c.ch 12 s), rfl, rfl,
    by rw [correctedAs_of_coord here, correctiveRewrite_of_noWrites here' empty']⟩

theorem dramContent_correctedAs : dramContent (correctedAs r addr st dev false s) addr = st := by
  obtain ⟨q, at', data, run⟩ := correctedAs_of_noWrites here empty r st dev
  have here' : coord (evDch c.ch 12 s) addr = some c := ((samePlaces_evDch ..).coord addr).trans here
  rw [run, (linesKept_correctionNoted ..).dramContent, dramContent_enqueued here' (by rw [chan_evDch, empty]; rfl) at', data]

theorem correctedAs_scrubPos (d : Nat) : (chan (correctedAs r addr st dev false s) d).scrubPos = (chan s d).scrubPos := by
  obtain ⟨q, _, _, run⟩ := correctedAs_of_noWrites here empty r st dev
  rw [run, correctionNoted_scrubPos, chanPart_modChan Channel.scrubPos _ _ rfl, chan_evDch]

end

/-! ## The check of a scrubbed line (R151, R153) -/

theorem loadCtr_of_plain {s : State} {page : Nat} (plain : dSealed (descOf s page) = false) : loadCtr page s = s := by
  rw [loadCtr, if_pos (by simp [plain])]

/-- A scrubbed line of a berth is handled by what its check finds. -/
theorem scrubCheck_berth {s : State} {addr : Nat} (berth : BerthScrub s addr) {y : BitVec 640} {dev : Option Nat}
    (good : plainCheckLine (dramContent s addr) (markOf s addr) = .valid y dev) (cls : BitVec 8) :
    ∃ line, scrubCheck cls addr s = noteCheck addr line (.valid y dev) false s := by
  have entry : frameEntry s (addr / 64) = sget 0 s.dram.frameMap (addr / 64) := by
    rw [frameEntry, berth.pool]
    rfl
  have hot := berth.berth
  have place := berth.place
  have plain := berth.plain
  rw [entry] at hot place plain
  refine ⟨(lineOf (fPage (sget 0 s.dram.frameMap (addr / 64))) (addr % 64)).toNat, ?_⟩
  unfold scrubCheck
  simp only [berth.pool, hot, place, plain, Bool.false_and, Bool.or_false, ne_eq, not_true_eq_false, decide_false, Bool.false_eq_true,
    if_false, loadCtr_of_plain plain, useCtx_unsealed, readCheck, berth.online, good]

theorem noteCheck_good (addr line : Nat) (y : BitVec 640) (newer : Bool) (s : State) :
    noteCheck addr line (.valid y none) newer s = s := rfl

theorem noteCheck_corrected (addr line : Nat) (y : BitVec 640) (dev : Nat) (newer : Bool) (s : State) :
    noteCheck addr line (.valid y (some dev)) newer s = correctedAs (lineRec s addr line) addr y dev newer s := rfl

/-! ## A scrub read (R152) -/

/-- The scrubber has read a line. -/
def scrubSeen (ch addr : Nat) (s : State) : State := readNow (roleWork s 1).cls addr (evDch ch 15 s)

theorem linesKept_scrubSeen (ch addr : Nat) (s : State) : LinesKept s (scrubSeen ch addr s) :=
  (linesKept_evDch ..).trans (linesKept_readNow ..)

theorem chan_scrubSeen (ch addr : Nat) (s : State) (c : Nat) : chan (scrubSeen ch addr s) c = chan s c := by
  rw [scrubSeen, chan_of_within (readNow_within ..) rfl rfl, chan_evDch]

section

variable {s : State} {addr : Nat} (berth : BerthScrub s addr) {y : BitVec 640}
include berth

/-- A scrubbed line has been handled by what its check finds, and the writes that this made are charged. -/
theorem scrubLine_berth {dev : Option Nat} (good : plainCheckLine (dramContent s addr) (markOf s addr) = .valid y dev) (ch : Nat) :
    ∃ line, Machine.scrubLine ch addr s =
      chargeWrites (roleWork s 1) (scrubSeen ch addr s) (noteCheck addr line (.valid y dev) false (scrubSeen ch addr s)) := by
  have kept := linesKept_scrubSeen ch addr s
  obtain ⟨line, run⟩ := scrubCheck_berth (kept.berthScrub berth) ((kept.check addr).trans good) (roleWork s 1).cls
  have quiet : Quiet (chargeWrites (roleWork s 1) (scrubSeen ch addr s) (noteCheck addr line (.valid y dev) false (scrubSeen ch addr s))) :=
    quiet_of_view ((view_chargeWrites ..).trans ((view_noteCheck ..).trans kept.view)) rfl rfl berth.quiet
  refine ⟨line, ?_⟩
  show settle (chargeWrites _ (scrubSeen ch addr s) (scrubCheck _ addr (scrubSeen ch addr s))) = _
  rw [run, settle_of_quiet quiet]

theorem scrubLine_good (good : plainCheckLine (dramContent s addr) (markOf s addr) = .valid y none) (ch : Nat) :
    (∀ c, (chan (Machine.scrubLine ch addr s) c).scrubPos = (chan s c).scrubPos) ∧
      (Machine.scrubLine ch addr s).dram.mem = s.dram.mem ∧ (Machine.scrubLine ch addr s).quay.desc = s.quay.desc := by
  obtain ⟨line, run⟩ := scrubLine_berth berth good ch
  have kept := linesKept_scrubSeen ch addr s
  rw [run, noteCheck_good]
  refine ⟨fun c => ?_, (within_mem (chargeWrites_within ..) rfl).trans kept.mem, desc_of_view ((view_chargeWrites ..).trans kept.view)⟩
  rw [chan_chargeWrites, charged, chan_scrubSeen]

theorem scrubLine_corrected {dev : Nat} (good : plainCheckLine (dramContent s addr) (markOf s addr) = .valid y (some dev)) (ch : Nat) :
    (∀ c, (chan (Machine.scrubLine ch addr s) c).scrubPos = (chan s c).scrubPos) ∧
      dramContent (Machine.scrubLine ch addr s) addr = y := by
  obtain ⟨line, run⟩ := scrubLine_berth berth good ch
  have seen := (linesKept_scrubSeen ch addr s).berthScrub berth
  obtain ⟨x, here⟩ := Option.isSome_iff_exists.1 seen.there
  have empty := seen.writes x here
  rw [run, noteCheck_corrected]
  refine ⟨fun c => ?_, ?_⟩
  · rw [chan_chargeWrites, charged, correctedAs_scrubPos here empty, chan_scrubSeen]
  · rw [dramContent_chargeWrites, dramContent_correctedAs here empty]

end

/-- The scrubber of a channel passes to the line after `a`. -/
def scrubPassed (a : Nat) (last : Option (BitVec 64)) (ch : Channel) : Channel := { ch with scrubPos := a + 1, scrubLast := last }

theorem linesKept_scrubPassed (c a : Nat) (last : Option (BitVec 64)) (s : State) : LinesKept s (modChan c (scrubPassed a last) s) :=
  linesKept_modChan c _ s rfl

section

variable {s : State} {c : Nat} (runs : chanRuns s c = true) (mode : s.aon.mode = .service) (few : (chan s c).readQ.length < 8)
  (paced : scrubPaced s c = true) (early : (s.time.tide - (chan s c).scrubStart).toNat < dchParam s c 12)
include runs mode few paced early

/-- A scrub read that may be made is made. -/
theorem scrubRead_next : ∃ behind, exec (.scrubRead c) s = .next (scrubNext c behind s) := by
  refine ⟨(chan s c).scrubPos * dchParam s c 12 < (s.time.tide - (chan s c).scrubStart).toNat * ((chan s c).pop.gib * 2 ^ 24), ?_⟩
  show execScrubRead c s = _
  rw [execScrubRead, if_neg (by simp [runs, mode])]
  dsimp only
  rw [decide_eq_false (Nat.not_le.2 early), Bool.false_and, if_neg Bool.false_ne_true, decide_eq_false (Nat.not_le.2 few), paced,
    Bool.not_true, Bool.false_or, Bool.false_and, if_neg Bool.false_ne_true]

/-- After the last line a new lap starts. -/
theorem scrubRead_newLap (last : nextScrub s c = none) :
    ∃ u, exec (.scrubRead c) s = .next u ∧ (chan u c).scrubPos = 0 ∧ (chan u c).scrubStart = s.time.tide ∧ OnlyChan c s u := by
  obtain ⟨behind, run⟩ := scrubRead_next runs mode few paced early
  rw [run, scrubNext, last]
  exact ⟨_, rfl, by rw [chan_modChan], by rw [chan_modChan], onlyChan_modChan ..⟩

theorem scrubRead_passes {a addr : Nat} (next : nextScrub s c = some (a, addr)) :
    ∃ last, exec (.scrubRead c) s = .next (Machine.scrubLine c addr (modChan c (scrubPassed a last) s)) := by
  obtain ⟨behind, run⟩ := scrubRead_next runs mode few paced early
  refine ⟨if behind then (chan s c).scrubLast else some s.time.tide, ?_⟩
  rw [run, scrubNext, next]
  rfl

variable {a addr : Nat} (next : nextScrub s c = some (a, addr)) (berth : BerthScrub s addr) {y : BitVec 640}
include next berth

theorem scrubRead_good (good : plainCheckLine (dramContent s addr) (markOf s addr) = .valid y none) :
    ∃ u, exec (.scrubRead c) s = .next u ∧ (chan u c).scrubPos = a + 1 ∧ u.dram.mem = s.dram.mem ∧ u.quay.desc = s.quay.desc := by
  obtain ⟨last, run⟩ := scrubRead_passes runs mode few paced early next
  have kept := linesKept_scrubPassed c a last s
  obtain ⟨pos, mem, desc⟩ := scrubLine_good (kept.berthScrub berth) ((kept.check addr).trans good) c
  exact ⟨_, run, by rw [pos, chan_modChan]; rfl, mem.trans kept.mem, desc.trans (desc_of_view kept.view)⟩

theorem scrubRead_corrected {dev : Nat} (good : plainCheckLine (dramContent s addr) (markOf s addr) = .valid y (some dev)) :
    ∃ u, exec (.scrubRead c) s = .next u ∧ (chan u c).scrubPos = a + 1 ∧ dramContent u addr = y := by
  obtain ⟨last, run⟩ := scrubRead_passes runs mode few paced early next
  have kept := linesKept_scrubPassed c a last s
  obtain ⟨pos, content⟩ := scrubLine_corrected (kept.berthScrub berth) ((kept.check addr).trans good) c
  exact ⟨_, run, by rw [pos, chan_modChan]; rfl, content⟩

end

end Sys2Proof.Laws
end

section
/-! PROOFS. Self-refresh and training of a channel (R129, R130, R158 to R162). -/

namespace Sys2Proof.Laws

open Sys2Proof Sys2Proof.Machine

/-! ## Self-refresh (R158, R159) -/

/-- An activation counts in the row table of its channel, and may call for Refresh Management. -/
theorem chan_activate (c bank row : Nat) (s : State) : ∃ rows raa due,
    chan (activate c bank row s) c = { chan s c with rowTable := rows, raa := raa, rfmDue := due } := by
  rw [activate, chan_evDch, chan_modChan]
  unfold countRaa
  split
  · exact ⟨_, (chan s c).raa, (chan s c).rfmDue, rfl⟩
  · exact ⟨_, _, _, rfl⟩

/-- A channel without its open rows and what counts their activations. -/
def rowless (ch : Channel) : Channel := { ch with openRows := [], rowTable := [], raa := [], rfmDue := [] }

theorem rowless_activate (c bank row : Nat) (s : State) : rowless (chan (activate c bank row s) c) = rowless (chan s c) := by
  obtain ⟨rows, raa, due, here⟩ := chan_activate c bank row s
  rw [here]
  rfl

theorem rowless_foldl {α : Type} {f : State → α → State} {d : Nat} (hf : ∀ t a, rowless (chan (f t a) d) = rowless (chan t d))
    (l : List α) (s : State) : rowless (chan (l.foldl f s) d) = rowless (chan s d) := by
  induction l generalizing s with
  | nil => rfl
  | cons a l ih => exact (ih (f s a)).trans (hf s a)

theorem rowless_mitigate (c bank row : Nat) (s : State) : rowless (chan (mitigate c bank row s) c) = rowless (chan s c) := by
  have closed : rowless (chan (evDch c 9 (modChan c (closeRows (· = bank)) s)) c) = rowless (chan s c) := by
    rw [chan_evDch, chan_modChan]
    rfl
  unfold mitigate
  dsimp only
  split
  · exact closed
  · exact (rowless_foldl (fun t v => rowless_activate c bank v t) _ _).trans closed

theorem chan_drainWrites (c : Nat) (s : State) : chan (drainWrites c s) c = { chan s c with writeQ := [] } := by
  have stored (l : List DramReq) (t : State) : (l.foldl (fun t r => storeWrite c r t) t).dram.ch = t.dram.ch := by
    induction l generalizing t with
    | nil => rfl
    | cons q l ih => exact (ih _).trans (storeWrite_ch c q t)
  rw [drainWrites, chan, stored]
  exact chan_modChan ..

/-- The writes of a channel are stored and its mitigations carried out. -/
def emptied (c : Nat) (s : State) : State := (chan s c).mitig.foldl (fun t m => mitigate c m.1 m.2 t) (drainWrites c s)

theorem rowless_emptied (c : Nat) (s : State) : rowless (chan (emptied c s) c) = rowless { chan s c with writeQ := [] } := by
  rw [← chan_drainWrites, emptied]
  exact rowless_foldl (f := fun t (m : Nat × Nat) => mitigate c m.1 m.2 t) (fun t m => rowless_mitigate c m.1 m.2 t) _ _

/-- What is saved of a channel over self-refresh. -/
def savedOf (ch : Channel) : ChSave :=
  { valid := true, marks := ch.marks, scrubPos := ch.scrubPos, refPhase := ch.refPhase, phy := ch.phy }

/-- A channel in self-refresh. -/
def asleepFrom (tide : BitVec 64) (ch : Channel) : Channel :=
  { ch with readQ := [], readWait := [], openRows := [], rowTable := [], mitig := [], owed := [], raa := [], rfmDue := [],
            selfRefresh := true, scrubStart := tide - ch.scrubStart, drained := true, wdrain := ch.wdrain &&& 0xFFFFFFFE,
            drainOpp := false }

theorem selfRefreshEntry_sleeps {s : State} {c : Nat} (runs : chanRuns s c = true) :
    ∃ u, exec (.selfRefreshEntry c) s = .next u ∧ (chan u c).selfRefresh = true ∧ (chan u c).drained = true ∧
      (chan u c).writeQ = [] ∧ sget {} u.sec.chSave c = savedOf (chan s c) := by
  obtain ⟨u, tide, run, here, save⟩ : ∃ u tide, exec (.selfRefreshEntry c) s = .next u ∧
      chan u c = asleepFrom tide (chan (emptied c s) c) ∧ sget {} u.sec.chSave c = savedOf (chan (emptied c s) c) := by
    refine ⟨_, (emptied c s).time.tide, rfl, ?_, ?_⟩
    · rw [enterSelfRefresh, if_neg (by simp [runs])]
      dsimp only
      rw [chan_evAdd, chan_evDch]
      exact chan_setChan ..
    · rw [enterSelfRefresh, if_neg (by simp [runs])]
      dsimp only
      rw [evAdd_sec, evDch_sec, sget_sset_same]
      rfl
  have kept := rowless_emptied c s
  refine ⟨u, run, by rw [here]; rfl, by rw [here]; rfl, ?_, ?_⟩
  · rw [here]
    exact congrArg Channel.writeQ kept
  · rw [save]
    exact (congrArg savedOf kept :)

theorem selfRefreshExit_restores {s : State} {c : Nat} (ok : Bool) (asleep : (chan s c).selfRefresh = true)
    (online : (chan s c).offline = false) (valid : (sget {} s.sec.chSave c).valid = true) :
    ∃ u, exec (.selfRefreshExit c true ok) s = .next u ∧ (chan u c).selfRefresh = false ∧
      (chan u c).marks = (sget {} s.sec.chSave c).marks ∧ (chan u c).phy = (sget {} s.sec.chSave c).phy ∧
      (chan u c).scrubPos = (sget {} s.sec.chSave c).scrubPos ∧ OnlyChan c s u := by
  obtain ⟨ch, run, awake, marks, phy, pos⟩ : ∃ ch, exec (.selfRefreshExit c true ok) s = .next (setChan c ch s) ∧
      ch.selfRefresh = false ∧ ch.marks = (sget {} s.sec.chSave c).marks ∧ ch.phy = (sget {} s.sec.chSave c).phy ∧
      ch.scrubPos = (sget {} s.sec.chSave c).scrubPos := by
    show ∃ ch, execSelfRefreshExit c true ok s = _ ∧ _
    rw [execSelfRefreshExit, if_neg (by simp [asleep, online])]
    dsimp only
    rw [if_pos rfl]
    exact ⟨_, rfl, rfl, if_pos valid, if_pos valid, if_pos valid⟩
  refine ⟨_, run, ?_, ?_, ?_, ?_, onlyChan_setChan ..⟩ <;> rw [chan_setChan]
  · exact awake
  · exact marks
  · exact phy
  · exact pos

/-! ## Training (R160, R162) -/

/-- Rates of a set are levelled: of a channel only the rate may change. -/
theorem chan_levelRates (c : Nat) (s : State) (d : Nat) : ∃ r, chan (levelRates c s) d = { chan s d with rate := r } := by
  unfold levelRates
  dsimp only
  generalize BitVec.ofNat 16 _ = r
  rw [chan_foldl_modChan (f := fun _ ch => { ch with rate := r }) (fun _ _ => rfl)]
  split
  · exact ⟨r, rfl⟩
  · exact ⟨(chan s d).rate, rfl⟩

/-- What stands in the socket of a channel is noted. -/
def populated (c : Nat) (pop : Population) (s : State) : State := modChan c (fun x => { x with pop := pop }) s

theorem chan_populated (c : Nat) (pop : Population) (s : State) :
    chan (populated c pop s) c = { chan s c with pop := pop } := chan_modChan ..

theorem online_of_popTrains {s : State} {c : Nat} {p : Population} (trains : popTrains s c p = true) : (chan s c).offline = false := by
  simp only [popTrains, Bool.and_eq_true, Bool.not_eq_true'] at trains
  exact trains.1.1.1

/-- A channel that full training has given new values. -/
def newlyTrained (marks : SMap (BitVec 4)) (v : BitVec 32) (ch : Channel) : Channel :=
  { ch with trained := true, calRestored := false, marks := marks, phy := sset 0 ch.phy 0 v }

theorem endTraining_eq (c : Nat) (marks : SMap (BitVec 4)) (s : State) : endTraining c marks s =
    writeRecord c (levelRates c (modChan c (newlyTrained marks (draw 32 s).1) (draw 32 s).2)) := rfl

theorem endTraining_trains (c : Nat) (marks : SMap (BitVec 4)) (s : State) :
    (chan (endTraining c marks s) c).trained = true ∧ (chan (endTraining c marks s) c).calRestored = false ∧
      (chan (endTraining c marks s) c).pop = (chan s c).pop ∧ (chan (endTraining c marks s) c).scrubStart = (chan s c).scrubStart ∧
      (endTraining c marks s).dram.mem = s.dram.mem := by
  obtain ⟨r, here⟩ := chan_levelRates c (modChan c (newlyTrained marks (draw 32 s).1) (draw 32 s).2) c
  rw [chan_modChan] at here
  rw [endTraining_eq, chan_writeRecord, here]
  refine ⟨rfl, rfl, rfl, rfl, ?_⟩
  rw [within_mem (writeRecord_within ..) rfl, within_mem (levelRates_within ..) rfl]
  rfl

/-- A channel that a calibration record has restored. -/
def calibrated (h : BitVec 512) (body : SMap (BitVec 32)) (tide : BitVec 64) (ch : Channel) : Channel :=
  { ch with trained := true, calRestored := true, marks := markOfRecord h, phy := body, scrubStart := tide }

section

variable {s : State} {c : Nat} {pop : Population} (there : c < numChans s) (mode : s.aon.mode = .harnessing)
  (trains : popTrains (populated c pop s) c pop = true)
include there mode trains

theorem fullTraining_trains :
    ∃ u, exec (.fullTraining c true pop) s = .next u ∧ (chan u c).trained = true ∧ (chan u c).calRestored = false ∧
      (chan u c).pop = pop ∧ (chan u c).scrubStart = s.time.tide ∧ u.dram.mem = s.dram.mem := by
  obtain ⟨marks, run⟩ : ∃ marks, exec (.fullTraining c true pop) s =
      .next (endTraining c marks (modChan c (fun x => { x with scrubStart := s.time.tide }) (populated c pop s))) := by
    show ∃ marks, execFullTraining c true pop s = _
    rw [execFullTraining, if_neg (by simp [Nat.not_le.2 there, mode])]
    dsimp only
    rw [← populated, online_of_popTrains trains, trains]
    exact ⟨_, rfl⟩
  obtain ⟨trained, restored, popIs, start, mem⟩ :=
    endTraining_trains c marks (modChan c (fun x => { x with scrubStart := s.time.tide }) (populated c pop s))
  rw [chan_modChan, chan_populated] at popIs start
  exact ⟨_, run, trained, restored, popIs, start, mem⟩

theorem calRecordRestore_restores {i : Nat} {h : BitVec 512} (newest : newestSlot s c = some (i, h)) (named : fieldNat h 7 4 = c)
    (rate : fieldNat h 23 8 = setRate (populated c pop s) c pop) (id0 : h.extractLsb' 24 48 = pop.id0)
    (id1 : h.extractLsb' 72 48 = pop.id1) :
    ∃ u, exec (.calRecordRestore c true pop) s = .next u ∧ (chan u c).trained = true ∧ (chan u c).calRestored = true ∧
      (chan u c).marks = markOfRecord h ∧ (chan u c).phy = sget [] s.nor.calBody i ∧ u.nor = s.nor := by
  have newest' : newestSlot (populated c pop s) c = some (i, h) := newest
  have run : exec (.calRecordRestore c true pop) s =
      .next (levelRates c (modChan c (calibrated h (sget [] s.nor.calBody i) s.time.tide) (populated c pop s))) := by
    show execCalRecordRestore c true pop s = _
    rw [execCalRecordRestore, if_neg (by simp [Nat.not_le.2 there, mode])]
    dsimp only
    rw [← populated, online_of_popTrains trains, trains, newest']
    dsimp only
    simp only [named, rate, id0, id1, decide_true, Bool.and_self, Bool.not_true, Bool.false_eq_true, if_false, if_true]
    rfl
  obtain ⟨r, here⟩ := chan_levelRates c (modChan c (calibrated h (sget [] s.nor.calBody i) s.time.tide) (populated c pop s)) c
  rw [chan_modChan] at here
  refine ⟨_, run, by rw [here]; rfl, by rw [here]; rfl, by rw [here]; rfl, by rw [here]; rfl, ?_⟩
  rw [keeps_nor (levelRates_within ..).same rfl]
  rfl

end

end Sys2Proof.Laws
end

section
/-! PROOFS. A command slot of a channel with one read (R136, R139); the scrubber, self-refresh, training and the slot together. -/

namespace Sys2Proof.Laws

open Sys2Proof Sys2Proof.Machine

/-! ## What stays where a slot only counts -/

theorem dchParam_of_kept {s t : State} (cfg : t.cfg = s.cfg) (fuse : t.fuse = s.fuse) (c i : Nat) : dchParam t c i = dchParam s c i := by
  simp only [dchParam, paramAt, paramRec, recsOf, typedRecs, sectionRecs, cfg, fuse]

theorem regulates_of_kept {s t : State} (aon : t.aon = s.aon) (reins : t.reins = s.reins) : regulates t = regulates s := by
  simp only [regulates, aon, reins]

theorem scaleOf_of_kept {s t : State} (reins : t.reins = s.reins) (i : Nat) : scaleOf t i = scaleOf s i := by
  simp only [scaleOf, reins]

/-! ## The slot begins (R136, R448) -/

/-- The clock has counted: it has one slot of each subchannel. -/
def slotCounted (c : Nat) (sub : Bool) (s : State) : State := if sub then s else clockCounts c s

theorem slotCounted_within (c : Nat) (sub : Bool) (s : State) : Within { ev := true, mgt := true } s (slotCounted c sub s) := by
  unfold slotCounted
  split
  · exact .refl _ s
  · exact clockCounts_within c s

/-- A command slot has begun: the clock has counted, and idle rows have closed. -/
def slotBegun (c : Nat) (sub : Bool) (s : State) : State := idleClose c sub (slotCounted c sub s)

theorem slotBegun_within (c : Nat) (sub : Bool) (s : State) :
    Within { ev := true, dram := true, mgt := true } s (slotBegun c sub s) :=
  ((slotCounted_within ..).mono rfl).trans ((idleClose_within ..).mono rfl)

theorem chan_slotBegun_of_closed {s : State} {c : Nat} (sub : Bool) (closed : (chan s c).openRows = []) :
    chan (slotBegun c sub s) c = chan s c := by
  rw [slotBegun, idleClose, chan_modChan, chan_of_within (slotCounted_within ..) rfl rfl, closed, List.filter_nil, ← closed]

/-- A row that has just been accessed stays open. -/
theorem chan_slotBegun_of_fresh {s : State} {c bank : Nat} {r : OpenRow} (sub : Bool) (opened : (chan s c).openRows = [(bank, some r)])
    (now : r.last = s.time.tide) (limit : dchParam s c 3 ≠ 0) (limit' : dchParam s c 4 ≠ 0) :
    chan (slotBegun c sub s) c = chan s c := by
  have counted := slotCounted_within c sub s
  have time : (slotCounted c sub s).time = s.time := keeps_time counted.same rfl rfl
  have params (i : Nat) : dchParam (slotCounted c sub s) c i = dchParam s c i :=
    dchParam_of_kept (keeps_cfg counted.same rfl) (keeps_fuse counted.same rfl) c i
  have stays : 0 < (if r.hint = 0 then dchParam s c 3 else dchParam s c 4) := by
    split
    · exact Nat.pos_of_ne_zero limit
    · exact Nat.pos_of_ne_zero limit'
  rw [slotBegun, idleClose, chan_modChan, chan_of_within counted rfl rfl, opened]
  simp only [List.filter_cons, time, params, now, BitVec.sub_self, BitVec.toNat_zero, stays, decide_true, Bool.or_true, if_true,
    List.filter_nil]
  rw [← opened]

/-! ## The one read of a channel (R139) -/

/-- What waits at a channel is one read, with no refresh, mitigation or RFM command before it. -/
structure OneRead (ch : Channel) (q : DramReq) : Prop where
  owed : ch.owed = []
  mitig : ch.mitig = []
  rfmDue : ch.rfmDue = []
  readQ : ch.readQ = [q]
  readWait : ch.readWait = []
  writeQ : ch.writeQ = []
  throttle : ch.throttle ≠ 0xF
  reading : draining ch = false

/-- A row serves its one read with no other that waits for the bank. -/
theorem capped_of_oneRead {s : State} {c : Nat} {q : DramReq} (h : OneRead (chan s c) q) : capped' s c q = false := by
  unfold capped'
  dsimp only
  split
  · simp [h.readQ, h.writeQ]
  · rfl

/-- An urgent command counts as one (R139). -/
def urgencyCounted (c : Nat) (q : DramReq) (s : State) : State :=
  if dramSlack (tick s) q * 16 ≤ dchParam s c 0 then evDch c 17 s else s

theorem urgencyCounted_within (c : Nat) (q : DramReq) (s : State) : Within { ev := true, mgt := true } s (urgencyCounted c q s) := by
  unfold urgencyCounted
  split
  · exact evAdd_within ..
  · exact .refl _ s

/-- The command of a slot whose channel has one read: a column command when the row of the read is open, else one for the row. -/
def oneCommand (c : Nat) (q : DramReq) (s : State) : State :=
  if rowOpen (chan s c) q then columnCmd c q false (urgencyCounted c q s) else rowCmd c q (evDch c 1 s)

theorem dramCommandSlot_oneRead {s : State} {c : Nat} {sub : Bool} {q : DramReq} (runs : chanRuns s c = true)
    (one : OneRead (chan s c) q) (half : q.sub = sub) (open' : regulates s = true → scaleOf s (instDch c) ≠ 0)
    (same : chan (slotBegun c sub s) c = chan s c) :
    exec (.dramCommandSlot c sub) s = .next (oneCommand c q (slotBegun c sub s)) := by
  have begun := slotBegun_within c sub s
  have reins : (slotBegun c sub s).reins = s.reins := within_reins begun rfl
  have may : ((chan s c).throttle = 0xF || (regulates (slotBegun c sub s) && scaleOf (slotBegun c sub s) (instDch c) = 0)) = false := by
    rw [regulates_of_kept (keeps_aon begun.same rfl rfl) reins, scaleOf_of_kept reins]
    rw [decide_eq_false one.throttle, Bool.false_or]
    simpa using open'
  have here : OneRead (chan (slotBegun c sub s) c) q := same ▸ one
  have uncapped := capped_of_oneRead here
  show execDramCommandSlot c sub s = _
  rw [execDramCommandSlot, if_neg (by simp [runs])]
  dsimp only
  rw [← slotCounted, ← slotBegun]
  rw [← same] at may
  generalize slotBegun c sub s = v at *
  simp only [here.owed, here.mitig, here.rfmDue, here.readQ, here.reading, may, half, List.find?_nil, List.filter_cons, List.filter_nil,
    decide_true, if_true, Bool.false_eq_true, if_false]
  unfold oneCommand urgencyCounted
  by_cases opened : rowOpen (chan v c) q = true
  · by_cases urgent : dramSlack (tick v) q * 16 ≤ dchParam v c 0
    · simp [opened, urgent, leastOf]
    · simp [opened, urgent, leastOf, uncapped]
  · simp [opened, leastOf]

/-! ## The two commands (R136, R139) -/

/-- The row of a request is open, with no hit yet. -/
def rowOpened (q : DramReq) (tide : BitVec 64) (ch : Channel) : Channel :=
  { ch with openRows := sset none ch.openRows q.bank (some { row := q.row, hint := q.hint, hits := 0, last := tide }) }

theorem rowCmd_activates {s : State} {c : Nat} (q : DramReq) (closed : (chan s c).openRows = []) :
    (chan (rowCmd c q s) c).readQ = (chan s c).readQ ∧
      sget none (chan (rowCmd c q s) c).openRows q.bank = some { row := q.row, hint := q.hint, hits := 0, last := s.time.tide } := by
  obtain ⟨rows, raa, due, here⟩ : ∃ rows raa due, chan (rowCmd c q s) c =
      { rowOpened q s.time.tide (chan s c) with rowTable := rows, raa := raa, rfmDue := due } := by
    rw [rowCmd, closed]
    obtain ⟨rows, raa, due, here⟩ := chan_activate c q.bank q.row (modChan c (rowOpened q s.time.tide) s)
    rw [chan_modChan] at here
    exact ⟨rows, raa, due, here⟩
  rw [here]
  simp [rowOpened]

/-- A column command of a read has been issued, and counts for its class. -/
def readIssued (c : Nat) (q : DramReq) (s : State) : State := evDch c 0 (countUse (instDch c) q.cls 1 (evDch c 4 s))

theorem readIssued_within (c : Nat) (q : DramReq) (s : State) : Within { ev := true, reins := true, mgt := true } s (readIssued c q s) :=
  ((evAdd_within ..).mono rfl).trans (((countUse_within ..).mono rfl).trans ((evAdd_within ..).mono rfl))

/-- A read has left its queue, another may have come for it, and the rows are as given. -/
def readTaken (q : DramReq) (rows : SMap (Option OpenRow)) (ch : Channel) : Channel :=
  { refillReads { ch with readQ := dropReq q ch.readQ } with openRows := rows }

/-- The column command of a read takes it from the queue, and governs the row of its bank. -/
theorem columnCmd_read (c : Nat) (q : DramReq) (s : State) : ∃ t rows, t.dram = s.dram ∧ columnCmd c q false s =
    setChan c (readTaken q rows (chan s c)) t := by
  have issued := readIssued_within c q s
  have dram : (readIssued c q s).dram = s.dram := keeps_dram issued.same rfl rfl
  unfold columnCmd
  dsimp only
  rw [if_neg Bool.false_ne_true, if_neg Bool.false_ne_true, ← readIssued, chan_of_within issued rfl rfl]
  refine ⟨_, _, ?_, rfl⟩
  split
  · exact (evDch_dram ..).trans dram
  · exact dram

theorem columnCmd_serves {s : State} {c : Nat} {q : DramReq} (reads : (chan s c).readQ = [q]) (waits : (chan s c).readWait = []) :
    (chan (columnCmd c q false s) c).readQ = [] ∧ (columnCmd c q false s).dram.mem = s.dram.mem := by
  obtain ⟨t, rows, dram, run⟩ := columnCmd_read c q s
  rw [run]
  refine ⟨?_, by rw [within_mem (setChan_within ..) rfl, dram]⟩
  rw [chan_setChan]
  simp [readTaken, refillReads, dropReq, reads, waits]

section

variable {s : State} {c : Nat} {sub : Bool} {q : DramReq} (runs : chanRuns s c = true) (one : OneRead (chan s c) q) (half : q.sub = sub)
  (open' : regulates s = true → scaleOf s (instDch c) ≠ 0)
include runs one half open'

theorem dramCommandSlot_activates (closed : (chan s c).openRows = []) :
    ∃ u, exec (.dramCommandSlot c sub) s = .next u ∧ (chan u c).readQ = [q] ∧ u.dram.mem = s.dram.mem ∧
      sget none (chan u c).openRows q.bank = some { row := q.row, hint := q.hint, hits := 0, last := s.time.tide } := by
  have same := chan_slotBegun_of_closed sub closed
  have begun := slotBegun_within c sub s
  have shut : rowOpen (chan (slotBegun c sub s) c) q = false := by rw [same, rowOpen, closed]; rfl
  have run := dramCommandSlot_oneRead runs one half open' same
  rw [oneCommand, if_neg (by simp [shut])] at run
  have here : chan (evDch c 1 (slotBegun c sub s)) c = chan s c := (chan_evDch ..).trans same
  have time : (evDch c 1 (slotBegun c sub s)).time = s.time := (evDch_time ..).trans (keeps_time begun.same rfl rfl)
  obtain ⟨reads, row⟩ := rowCmd_activates (s := evDch c 1 (slotBegun c sub s)) q (here ▸ closed)
  refine ⟨_, run, ?_, ?_, ?_⟩
  · rw [reads, here, one.readQ]
  · rw [within_mem (rowCmd_within ..) rfl, evDch_dram, within_mem begun rfl]
  · rw [row, time]

theorem dramCommandSlot_serves {r : OpenRow} (opened : (chan s c).openRows = [(q.bank, some r)]) (hit : r.row = q.row)
    (now : r.last = s.time.tide) (limit : dchParam s c 3 ≠ 0) (limit' : dchParam s c 4 ≠ 0) :
    ∃ u, exec (.dramCommandSlot c sub) s = .next u ∧ (chan u c).readQ = [] ∧ u.dram.mem = s.dram.mem := by
  have same := chan_slotBegun_of_fresh sub opened now limit limit'
  have begun := slotBegun_within c sub s
  have open'' : rowOpen (chan (slotBegun c sub s) c) q = true := by simp [same, rowOpen, opened, sget, hit]
  have run := dramCommandSlot_oneRead runs one half open' same
  rw [oneCommand, if_pos open''] at run
  have counted := urgencyCounted_within c q (slotBegun c sub s)
  have here : chan (urgencyCounted c q (slotBegun c sub s)) c = chan s c := (chan_of_within counted rfl rfl c).trans same
  obtain ⟨reads, mem⟩ := columnCmd_serves (q := q) (here ▸ one.readQ) (here ▸ one.readWait)
  exact ⟨_, run, reads, mem.trans ((within_mem counted rfl).trans (within_mem begun rfl))⟩

end

/-! ## The statement -/

/-- Settles O18: the scrubber, self-refresh, training and the command slot, each by the lemmas of its own commands. -/
theorem channelsTrainAndServe : Obligations.ChannelsTrainAndServe := by
  unfold Obligations.ChannelsTrainAndServe
  refine ⟨?_, fun s c => selfRefreshEntry_sleeps, fun s c ok => selfRefreshExit_restores ok, ?_, ?_⟩
  · intro s c runs mode few paced early
    refine ⟨scrubRead_newLap runs mode few paced early, fun a addr y next berth => ⟨?_, fun dev => ?_⟩⟩
    · exact scrubRead_good runs mode few paced early next berth
    · exact scrubRead_corrected runs mode few paced early next berth
  · intro s c pop there mode trains
    exact ⟨fullTraining_trains there mode trains, fun i h => calRecordRestore_restores there mode trains⟩
  · intro s c sub q runs owed mitig rfmDue readQ readWait writeQ half throttle open' reading
    have one : OneRead (chan s c) q := ⟨owed, mitig, rfmDue, readQ, readWait, writeQ, throttle, reading⟩
    exact ⟨dramCommandSlot_activates runs one half open', fun r => dramCommandSlot_serves runs one half open'⟩

end Sys2Proof.Laws
end

section
/-! PROOFS. An UPGRADE and the atomics on an untouched line (R176, R183): the statements fail where the line waits to be orphaned (R47,
R57). -/

namespace Sys2Proof.Laws

open Sys2Proof Sys2Proof.Machine

/-- An atomic on a line that waits to be orphaned stores nothing. -/
theorem orphanAtomic_stores_nothing : ∃ t, exec (.atAdd orphanRead) orphanWaits = .next t ∧
    qline t (reqLine orphanWaits orphanRead) = none :=
  ⟨homeRequest 0x10 orphanRead orphanWaits, rfl, by decide +kernel⟩

/-- Refutes O7: `Untouched` asks that no page operation stand in the table, not that no line of the page wait for an entry of it. An atomic
on such a line ends with ERR_DATA (R57) and stores nothing, where the statement has its result in the Quay data partition. -/
theorem not_atomicsAreExecuted : ¬ Obligations.AtomicsAreExecuted := by
  unfold Obligations.AtomicsAreExecuted
  intro h
  obtain ⟨t, -, q, run, -, held, -⟩ := h (.atAdd, 0x10) (by simp [atomicRows]) orphanWaits orphanRead orphanRead_servedAtOnce
    (by decide +kernel) (by decide +kernel)
  obtain ⟨u, run', unheld⟩ := orphanAtomic_stores_nothing
  cases run.symm.trans run'
  cases held.symm.trans unheld

/-- The same device; node 5 is the only sharer of the line that waits to be orphaned. -/
def orphanShared : State :=
  { orphanWaits with quay := { dirValid := [(dirKey orphanWaits 0x123 / 64, true)]
                               dir := [(dirKey orphanWaits 0x123, setField (0 : BitVec 512) 0 (mkShared 0x123 [5] none))] } }

theorem orphanUpgrade_servedAtOnce : ServedAtOnce orphanShared orphanRead where
  mode := rfl
  quiet := ⟨rfl, rfl, rfl, rfl, rfl, rfl, rfl⟩
  hold := rfl
  restored := rfl
  cmds := rfl
  home := by decide +kernel
  other := by decide +kernel
  inside := by decide +kernel
  member := by decide +kernel
  up := by decide +kernel
  line := ⟨by decide +kernel, by decide +kernel, by decide +kernel, by decide +kernel, rfl⟩

/-- The UPGRADE of its only sharer is not granted. -/
theorem orphanUpgrade_fails : ∃ t, exec (.upgrade orphanRead) orphanShared = .next t ∧ t.quay.txns = [] :=
  ⟨homeRequest 0x04 orphanRead orphanShared, rfl, by decide +kernel⟩

/-- Refutes O5: `Untouched` asks that no page operation stand in the table, not that no line of the page wait for an entry of it. An UPGRADE
of such a line ends with ERR_DATA (R57), where the statement has it granted. -/
theorem not_upgradeIsGranted : ¬ Obligations.UpgradeIsGranted := by
  unfold Obligations.UpgradeIsGranted
  intro h
  obtain ⟨t, -, run, -, -, ⟨x, open', -⟩, -⟩ := h orphanShared orphanRead 0 orphanUpgrade_servedAtOnce (by decide +kernel)
    (by decide +kernel) (by decide +kernel) (by decide +kernel)
  obtain ⟨u, run', closed⟩ := orphanUpgrade_fails
  cases run.symm.trans run'
  rw [closed] at open'
  cases open'

end Sys2Proof.Laws
end

section
/-! PROOFS. The arithmetic of the atomics (R183, R303). -/

namespace Sys2Proof.Laws

open Sys2Proof Sys2Proof.Machine

/-! ## A field of a word -/

theorem getLsbD_setField {n w : Nat} (x : BitVec n) (lo : Nat) (v : BitVec w) (i : Nat) (inside : i < n) :
    (setField x lo v).getLsbD i = if lo ≤ i ∧ i < lo + w then v.getLsbD (i - lo) else x.getLsbD i := by
  by_cases below : i < lo
  · simp [setField, inside, below, Nat.not_le.2 below]
  · by_cases field : i < lo + w
    · have here : i - lo < w := by omega
      simp [setField, inside, below, field, here, Nat.le_of_not_lt below]
    · have past : w ≤ i - lo := by omega
      simp [setField, inside, field, BitVec.getLsbD_of_ge v (i - lo) past, Nat.not_lt.2 past]

/-- A field that was written reads as written. -/
theorem extractLsb'_setField_same {n w lo : Nat} (x : BitVec n) (v : BitVec w) (room : lo + w ≤ n) :
    (setField x lo v).extractLsb' lo w = v := by
  ext i small
  rw [BitVec.getElem_extractLsb', getLsbD_setField x lo v (lo + i) (by omega), if_pos (by omega), Nat.add_sub_cancel_left,
    BitVec.getLsbD_eq_getElem]

/-- What lies above a field that was written reads as before. -/
theorem extractLsb'_setField_above {n w lo a k : Nat} (x : BitVec n) (v : BitVec w) (above : lo + w ≤ a) (room : a + k ≤ n) :
    (setField x lo v).extractLsb' a k = x.extractLsb' a k := by
  ext i small
  rw [BitVec.getElem_extractLsb', BitVec.getElem_extractLsb', getLsbD_setField x lo v (a + i) (by omega), if_neg (by omega)]

/-! ## The results -/

/-- The results of the ten atomics on an old value, with their opcodes (R183, Table 10.1). -/
def atomicResults {w : Nat} (old a b : BitVec w) : List (BitVec 8 × BitVec w) :=
  [(0x10, old + a), (0x11, a), (0x12, if old = a then b else old), (0x13, old &&& a), (0x14, old ||| a), (0x15, old ^^^ a),
    (0x16, if a.toInt < old.toInt then a else old), (0x17, if old.toInt < a.toInt then a else old),
    (0x18, if a.toNat < old.toNat then a else old), (0x19, if old.toNat < a.toNat then a else old)]

/-- The signed and unsigned orders of bit vectors are those of the integers that they stand for. -/
theorem atomicResult_of_mem {w : Nat} {old a b : BitVec w} {k : BitVec 8 × BitVec w} (row : k ∈ atomicResults old a b) :
    atomicResult w k.1 old a b = k.2 := by
  fin_cases row <;> simp [atomicResult, BitVec.slt_iff_toInt_lt, BitVec.ult_iff_toNat_lt]

/-- An atomic of 8 B at the start of the line. -/
theorem atomicLine_wide {r : Req} (start : r.opndOff = 0) (size : r.opndSize = 1) (op : BitVec 8) (x : BitVec 512) :
    atomicLine { r with op := op } x = (setField x 0 (atomicResult 64 op (x.extractLsb' 0 64) (r.operand.extractLsb' 0 64)
      (r.operand.extractLsb' 64 64)), x.extractLsb' 0 64) := by
  simp [atomicLine, start, size]

/-- An atomic of 4 B at the start of the line. -/
theorem atomicLine_narrow {r : Req} (start : r.opndOff = 0) (size : r.opndSize = 0) (op : BitVec 8) (x : BitVec 512) :
    atomicLine { r with op := op } x = (setField x 0 (atomicResult 32 op (x.extractLsb' 0 32) (r.operand.extractLsb' 0 32)
      (r.operand.extractLsb' 64 32)), (x.extractLsb' 0 32).setWidth 64) := by
  simp [atomicLine, start, size]

/-- Settles O54: an atomic lays its result over its field, which reads as the result, and leaves the line above the field as it was. -/
theorem atomicsCompute : Obligations.AtomicsCompute := by
  unfold Obligations.AtomicsCompute
  refine ⟨?_, ?_⟩
  · rintro x r old a b start size rfl rfl rfl k row
    rw [atomicLine_wide start size, atomicResult_of_mem row]
    exact ⟨rfl, extractLsb'_setField_same x k.2 (by omega), extractLsb'_setField_above x k.2 (by omega) (by omega)⟩
  · rintro x r old a b start size rfl rfl rfl k row
    rw [atomicLine_narrow start size, atomicResult_of_mem row]
    exact ⟨rfl, extractLsb'_setField_same x k.2 (by omega), extractLsb'_setField_above x k.2 (by omega) (by omega)⟩

end Sys2Proof.Laws
end

section
/-! PROOFS. Snoops that reach the device as a caching node (R178, R179, Table 6.6). -/

namespace Sys2Proof.Laws

open Sys2Proof Sys2Proof.Machine

/-- The snoop has left the receive buffer of its port, and is counted. -/
def snoopTaken (k : SnoopKind) (r : Req) (s : State) : State := evAfl r.port 14 (takeRx r.port (snoopOp k) r.src r.tag s)

theorem sameHome_snoopTaken (p : Nat) (k : SnoopKind) (r : Req) (s : State) : SameHome p s (snoopTaken k r s) :=
  (sameHome_takeRx ..).trans (sameHome_evAfl ..)

theorem snoopTaken_quay (k : SnoopKind) (r : Req) (s : State) : (snoopTaken k r s).quay = s.quay :=
  (within_quay (evAfl_within ..) rfl).trans (within_quay (takeRx_within ..) rfl)

/-- What Table 6.6 has the device answer to a snoop. -/
def snoopAnswer (k : SnoopKind) (r : Req) (s : State) : BitVec 8 × Bool × RLine := cacheAnswer k (remoteOf s r.src r.line)

/-- The line after the snoop (Table 6.6). -/
def snooped (k : SnoopKind) (r : Req) (s : State) : State := setRemote r.src r.line (snoopAnswer k r s).2.2 (snoopTaken k r s)

theorem heard_snooped (p : Nat) (k : SnoopKind) (r : Req) (s : State) : Heard p s (snooped k r s) :=
  (sameHome_snoopTaken p k r s).toHeard.trans (heard_of_within (setRemote_within ..) rfl p)

/-- The response to a snoop of a line, by the device as node `n`. -/
def snoopRsp (n : Node) (k : SnoopKind) (r : Req) (s : State) (f : RspFlags) : Pkt :=
  { hdr := rspHdr (snoopAnswer k r s).1 r.src n r.tag 0 f,
    body := if (snoopAnswer k r s).2.1 then lineSlots (remoteOf s r.src r.line).data else [] }

/-- In Service a snoop of the device is answered from its line, after the data that an F holder forwards. -/
theorem answerSnoop_served {r : Req} {s : State} (mode : s.aon.mode = .service) (home : r.dst = nodeId s) (k : SnoopKind) :
    ∃ u f, answerSnoop k r s = sendPkt r.port (snoopRsp (nodeId u) k r s f) u ∧ Heard r.port s u ∧ u.quay = (snooped k r s).quay := by
  have node : nodeId (snoopTaken k r s) = nodeId s := (sameHome_snoopTaken 0 k r s).nodeId
  have line : remoteOf (snoopTaken k r s) r.src r.line = remoteOf s r.src r.line := remoteOf_of_quay (snoopTaken_quay k r s) ..
  have laid := heard_snooped r.port k r s
  unfold answerSnoop
  rw [if_neg (by simp [mode])]
  dsimp only
  rw [← snoopTaken, if_neg (by simp [home, node]), line, ← snoopAnswer, ← snooped]
  split
  · exact ⟨_, _, rfl, laid.trans (heard_sendPkt ..), within_quay (sendPkt_within ..) rfl⟩
  · exact ⟨_, _, rfl, laid, rfl⟩

theorem remoteOf_setRemote_other {home n : Node} {line l : Line} (other : remoteKey n l ≠ remoteKey home line) (v : RLine) (s : State) :
    remoteOf (setRemote home line v s) n l = remoteOf s n l := sget_sset_other _ _ _ other

/-- Settles O10: the answer is sent last, and after the line was laid down no packet changes it. -/
theorem snoopsAreAnswered : Obligations.SnoopsAreAnswered := by
  unfold Obligations.SnoopsAreAnswered
  intro k row s r mode home up
  have run : exec (k.1 r) s = .next (answerSnoop k.2 r s) := by fin_cases row <;> rfl
  obtain ⟨u, f, answer, heard, quay⟩ := answerSnoop_served mode home k.2
  have sent := sent_of_heard heard up (snoopRsp (nodeId u) k.2 r s f)
  rw [← answer, nodeId_of_heard heard] at sent
  have lines : (answerSnoop k.2 r s).quay = (snooped k.2 r s).quay := by
    rw [answer, within_quay (sendPkt_within ..) rfl, quay]
  refine ⟨answerSnoop k.2 r s, f, run, sent, ?_, fun n l other => ?_, (answerSnoop_within k.2 r s).same⟩
  · exact (remoteOf_of_quay lines ..).trans (remoteOf_setRemote ..)
  · calc remoteOf (answerSnoop k.2 r s) n l
      _ = remoteOf (snooped k.2 r s) n l := remoteOf_of_quay lines n l
      _ = remoteOf (snoopTaken k.2 r s) n l := remoteOf_setRemote_other other ..
      _ = remoteOf s n l := remoteOf_of_quay (snoopTaken_quay k.2 r s) n l

end Sys2Proof.Laws
end

section
/-! PROOFS. What a change of lines and descriptors leaves of the home banks, and when nothing goes on there (R173, R174). -/

namespace Sys2Proof.Laws

open Sys2Proof Sys2Proof.Machine

/-! ## The banks beside their lines and descriptors -/

/-- The Quay cache without its lines, its descriptors and counters, and the lists of what its partitions hold. -/
def bankQuay (s : State) : Quay :=
  { s.quay with lines := [], merges := [], useStamp := 0, desc := [], ctr := [], ctrDirty := [], dirIn := [], descIn := [] }

/-- From `s` to `t` the home banks have changed at most in their lines, descriptors and counters, and the configuration is the same. -/
structure BanksKept (s t : State) : Prop where
  cfg : t.cfg = s.cfg
  fuse : t.fuse = s.fuse
  waiters : t.reins.waiters = s.reins.waiters
  quay : bankQuay t = bankQuay s

theorem BanksKept.refl (s : State) : BanksKept s s := ⟨rfl, rfl, rfl, rfl⟩

theorem BanksKept.trans {r s t : State} (h : BanksKept r s) (k : BanksKept s t) : BanksKept r t :=
  ⟨k.cfg.trans h.cfg, k.fuse.trans h.fuse, k.waiters.trans h.waiters, k.quay.trans h.quay⟩

theorem banksKept_of_sameHome {p : Nat} {s t : State} (h : SameHome p s t) : BanksKept s t :=
  ⟨h.cfg, h.fuse, h.waiters, h.inQuay fun q : Quay =>
    { q with lines := [], merges := [], useStamp := 0, desc := [], ctr := [], ctrDirty := [], dirIn := [], descIn := [] }⟩

/-- What touches neither the Quay cache nor the reins. -/
theorem banksKept_of_within {q : Parts} {s t : State} (h : Within q s t) (k : (q.cfg || q.fuse || q.quay || q.reins) = false) :
    BanksKept s t := by
  simp only [Bool.or_eq_false_iff] at k
  obtain ⟨⟨⟨cfg, fuse⟩, quay⟩, reins⟩ := k
  exact ⟨keeps_cfg h.same cfg, keeps_fuse h.same fuse, by rw [within_reins h reins], by rw [bankQuay, within_quay h quay, bankQuay]⟩

/-- The page operation table and the lines that wait for an entry of it are no part of the banks. -/
theorem banksKept_of_view {s t : State} {m : SMap (BitVec 128)} {l : List PageOp} {w : List (Nat × Nat)}
    (v : pageView t = { pageView s with desc := m, ops := l, orphanWait := w }) : BanksKept s t :=
  ⟨congrArg PageView.cfg v, congrArg PageView.fuse v, congrArg PageView.waiters v, congrArg (fun v : PageView =>
    { v.quay with lines := [], merges := [], useStamp := 0, desc := [], ctr := [], ctrDirty := [], dirIn := [], descIn := [] }) v⟩

section
variable {s t : State} (h : BanksKept s t)
include h

theorem BanksKept.inQuay {α : Type} (f : Quay → α) : f (bankQuay t) = f (bankQuay s) := congrArg f h.quay
theorem BanksKept.txns : t.quay.txns = s.quay.txns := h.inQuay Quay.txns
theorem BanksKept.notices : t.quay.notices = s.quay.notices := h.inQuay Quay.notices
theorem BanksKept.quiet : t.quay.quiet = s.quay.quiet := h.inQuay Quay.quiet
theorem BanksKept.dir : t.quay.dir = s.quay.dir := h.inQuay Quay.dir
theorem BanksKept.dirValid : t.quay.dirValid = s.quay.dirValid := h.inQuay Quay.dirValid
theorem BanksKept.nodeId : nodeId t = nodeId s := by rw [Machine.nodeId, param_of_kept h.cfg h.fuse, Machine.nodeId]
theorem BanksKept.recsOf (ty rt : Nat) : recsOf t ty rt = recsOf s ty rt := by
  simp only [Machine.recsOf, typedRecs, sectionRecs, h.cfg, h.fuse]
theorem BanksKept.bankOf (l : Line) : bankOf t l = bankOf s l := by simp only [Machine.bankOf, h.recsOf, h.fuse]
theorem BanksKept.dirKey (l : Line) : dirKey t l = dirKey s l := by
  rw [Machine.dirKey, dirM, numBanks, h.bankOf, param_of_kept h.cfg h.fuse, h.fuse, Machine.dirKey, dirM, numBanks]
theorem BanksKept.dirLine (l : Line) : dirLine t l = dirLine s l := by
  rw [Machine.dirLine, h.dirKey, h.dirValid, h.dir, Machine.dirLine]

theorem BanksKept.homeIdle (rest : HomeIdle s) : HomeIdle t := by
  obtain ⟨busy, notices, parked, parkWait, fills, waiters⟩ := rest
  exact ⟨(h.inQuay Quay.busy).trans busy, h.notices.trans notices, (h.inQuay Quay.parked).trans parked,
    (h.inQuay Quay.parkWait).trans parkWait, (h.inQuay Quay.fills).trans fills, h.waiters.trans waiters⟩

end

/-- A write of an untouched line. -/
theorem banksKept_wroteLine (l : Line) (q : QLine) (s : State) : BanksKept s (wroteLine l q s) :=
  have laid : BanksKept s (placedLine l q s) := ⟨rfl, rfl, rfl, rfl⟩
  (laid.trans (banksKept_of_sameHome (sameHome_useDesc 0 (pageOf l) q.cls (placedLine l q s)))).trans (banksKept_of_view (view_reported ..))

/-! ## Data that a node gives up -/

/-- Modified data of an untouched line are written to the home copy whole (R182, Table 6.5). -/
theorem writeHome_untouched {s : State} {l : Line} (h : Untouched s l) (x : BitVec 512) (cls op : BitVec 8) (node : Node) (tag : Tag) :
    writeHome l x false cls op node tag s = wroteLine l (newLine (BitVec.allOnes 64) x cls node tag s.quay.useStamp) s := by
  unfold writeHome
  simp only [descFix_of_untouched h, takesKey_of_untouched h, Bool.false_eq_true, if_false]
  exact writeQuay_untouched h ..

/-! ## Nothing goes on -/

theorem nextReady_of_quiet {s : State} (h : Quiet s) : nextReady s = none := by
  obtain ⟨txns, busy, notices, parked, parkWait, fills, waiters⟩ := h
  simp [nextReady, nextReady.waiting, txns, busy, notices, parked, parkWait, fills, waiters, bestWaiter]

/-- A notice waits; one thing goes on, and nothing after it. -/
theorem settle_once {s u : State} (next : nextReady s = some u) (done : Quiet u) (waits : s.quay.notices ≠ []) : settle s = u := by
  have waiting : 0 < s.quay.notices.length := List.length_pos_iff.2 waits
  obtain ⟨k, count⟩ : ∃ k, 2 * (s.quay.notices.length + s.quay.parked.length + s.quay.parkWait.length + s.quay.busy.length +
      s.quay.txns.length + s.reins.waiters.length + s.quay.fills.length) = k + 1 := Nat.exists_eq_succ_of_ne_zero (by omega)
  rw [settle, count, settleN, next]
  exact settleN_of_none (nextReady_of_quiet done) k

/-- With one transaction, which waits for no data, nothing goes on. -/
theorem settle_of_dataless {s : State} {y : Txn} (txns : s.quay.txns = [y]) (waits : y.phase ≠ .data) (rest : HomeIdle s) :
    settle s = s := by
  obtain ⟨busy, notices, parked, parkWait, fills, waiters⟩ := rest
  have sated : dataIdle s y = false := by simp [dataIdle, waits]
  refine settleN_of_none ?_ _
  simp [nextReady, nextReady.waiting, txns, busy, notices, parked, parkWait, fills, waiters, sated, bestWaiter]

end Sys2Proof.Laws
end

section
/-! PROOFS. Eviction notices of a line's owner (R174, R176, R180, Table 6.4). -/

namespace Sys2Proof.Laws

open Sys2Proof Sys2Proof.Machine

/-! ## The entry of a line -/

/-- The entry of a line in its set is written in its place (R167, R170). -/
theorem setDir_of_found {s : State} {l : Line} {i : Nat} (found : dirFind (dirLine s l) l = some i) (e : BitVec 128) :
    setDir l e s = { s with quay.dir := sset 0 s.quay.dir (dirKey s l) (setField (dirLine s l) (128 * i) e) } := by
  have valid : sget false s.quay.dirValid (dirKey s l / 64) = true := by
    by_contra unwritten
    rw [dirLine, if_neg unwritten, dirFind_zero] at found
    cases found
  unfold setDir
  simp only [found, dirPut, valid, if_true]

/-! ## Receipt -/

/-- A notice of the owner of an untouched line, which a home with nothing waiting takes at once. -/
structure OwnerNotice (s : State) (n : Req) (i : Nat) : Prop extends ServedAtOnce s n where
  sound : (List.range 4).any (fun k => eBad (setEntry (dirLine s (reqLine s n)) k)) = false
  found : dirFind (dirLine s (reqLine s n)) (reqLine s n) = some i
  owned : entryKind (setEntry (dirLine s (reqLine s n)) i) = .owned
  owner : ePtr (setEntry (dirLine s (reqLine s n)) i) 0 = n.src
  op : n.op = 0x40 ∨ n.op = 0x41 ∧ n.poison = false

theorem ownerNotice_of_sameHome {s t : State} {n : Req} {i : Nat} (h : SameHome n.port s t) (k : OwnerNotice s n i) :
    OwnerNotice t n i where
  toServedAtOnce := servedAtOnce_of_sameHome h k.toServedAtOnce
  sound := by rw [h.reqLine, h.dirLine]; exact k.sound
  found := by rw [h.reqLine, h.dirLine]; exact k.found
  owned := by rw [h.reqLine, h.dirLine]; exact k.owned
  owner := by rw [h.reqLine, h.dirLine]; exact k.owner
  op := k.op

/-- The notice has left the receive buffer of its port. -/
def noticeTaken (n : Req) (s : State) : State := takeRx n.port n.op n.src n.tag (evAfl n.port 15 s)

/-- The notice is counted at its home bank. -/
def noticeCounted (n : Req) (s : State) : State :=
  evQb (bankOf (noticeTaken n s) (reqLine (noticeTaken n s) n)) 13 (noticeTaken n s)

theorem sameHome_noticeCounted (p : Nat) (n : Req) (s : State) : SameHome p s (noticeCounted n s) :=
  ((sameHome_evAfl ..).trans (sameHome_takeRx ..)).trans (sameHome_evQb ..)

/-- The command gives the opcode of its notice. -/
theorem homeNotice_asked (op : BitVec 8) (r : Req) (s : State) : homeNotice op (asked op r) s = homeNotice op r s := by
  have same : { asked op r with op := op } = { r with op := op } := rfl
  unfold homeNotice
  rw [same]

/-- In Service a notice takes an entry of its home bank (R305). -/
theorem homeNotice_served {s : State} {n : Req} (h : ServedAtOnce s n) :
    homeNotice n.op n s = settle { noticeCounted n s with quay.notices := [n] } := by
  have k := servedAtOnce_of_sameHome (sameHome_evAfl n.port n.port 15 s) h
  obtain ⟨-, -, none', -⟩ := k.quiet
  have room : noticeRoom (evAfl n.port 15 s) n = true := by
    rw [noticeRoom, none']
    simp
  have here : ¬ n.dst ≠ nodeId (evAfl n.port 15 s) := not_not.2 k.home
  have same : { n with op := n.op } = n := rfl
  unfold homeNotice
  rw [if_neg (by simp [h.mode])]
  dsimp only
  rw [same, if_neg here, if_neg (Nat.not_le.2 k.inside), k.mode, if_neg (by simp), if_pos room, none', ← noticeTaken, ← noticeCounted,
    List.nil_append]

/-! ## What a notice leaves -/

/-- The line that a dirty notice leaves in the Quay data partition. -/
def noticeLine (n : Req) (s : State) : QLine := newLine (BitVec.allOnes 64) n.data n.cls n.src n.tag s.quay.useStamp

/-- The data of a dirty notice are written. -/
def noticeWritten (n : Req) (s : State) : State := if n.op = 0x41 then wroteLine (reqLine s n) (noticeLine n s) s else s

/-- The entry of the line is freed. -/
def entryFreed (n : Req) (i : Nat) (s : State) : State :=
  { noticeWritten n s with
    quay.dir := sset 0 s.quay.dir (dirKey s (reqLine s n)) (setField (dirLine s (reqLine s n)) (128 * i) (0 : BitVec 128)) }

/-- The answer to a notice. -/
def wbAck (n : Req) (s : State) : Pkt := { hdr := rspHdr 0x4F n.src (nodeId s) n.tag 0 { persisted := assured s } }

theorem banksKept_noticeWritten (n : Req) (s : State) : BanksKept s (noticeWritten n s) := by
  unfold noticeWritten
  split
  · exact banksKept_wroteLine ..
  · exact .refl s

theorem quiet_entryFreed {s : State} (h : Quiet s) (n : Req) (i : Nat) : Quiet (entryFreed n i s) :=
  have kept := banksKept_noticeWritten n s
  ⟨kept.txns.trans h.1, kept.homeIdle h.2⟩

theorem heard_entryFreed (p : Nat) (n : Req) (i : Nat) (s : State) : Heard p s (entryFreed n i s) := by
  have freed : Heard p (noticeWritten n s) (entryFreed n i s) := by refine heard_of_kept ?_ ?_ ?_ ?_ p <;> rfl
  refine Heard.trans ?_ freed
  unfold noticeWritten
  split
  · exact heard_wroteLine ..
  · exact .refl p s

/-! ## The notice is taken -/

section
variable {s : State} {n : Req} {i : Nat} (h : OwnerNotice s n i)
include h

theorem OwnerNotice.unawaited : noticeAwaited s n = false := by simp [noticeAwaited, h.quiet.1]

theorem OwnerNotice.ready : noticeReady s n = true := by
  have free : lineBusy s (reqLine s n) = false := by simp [lineBusy, h.quiet.1]
  have unbarred : pageBars s (pageOf (reqLine s n)) true = false := by simp [pageBars, opOf_of_untouched h.line]
  have present : framePending s (pageOf (reqLine s n)) = false := by simp [framePending, h.restored]
  simp [noticeReady, free, unbarred, present]

/-- The notice is the one thing that goes on. -/
theorem settle_notice (quiet : Quiet (takeNotice n s)) : settle { s with quay.notices := [n] } = takeNotice n s := by
  obtain ⟨-, -, notices, -⟩ := h.quiet
  have ready : noticeReady { s with quay.notices := [n] } n = true := h.ready
  have taken : { s with quay.notices := [] } = s := congrArg (fun l => { s with quay.notices := l }) notices.symm
  have next : nextReady { s with quay.notices := [n] } = some (takeNotice n s) := by
    simp [nextReady, ready, taken]
  exact settle_once next quiet (List.cons_ne_nil n [])

theorem takeNotice_owner : takeNotice n s = sendPkt n.port (wbAck n (entryFreed n i s)) (entryFreed n i s) := by
  have kept := banksKept_noticeWritten n s
  have entry : dirEntry s (reqLine s n) = setEntry (dirLine s (reqLine s n)) i := by simp only [dirEntry, h.found]
  have sound : dirFix (reqLine s n) s = s := by simp only [dirFix, h.sound, Bool.false_eq_true, if_false]
  have written : (if n.op = 0x41 then writeHome (reqLine s n) n.data n.poison n.cls n.op n.src n.tag s else s) = noticeWritten n s := by
    obtain op | ⟨op, clean⟩ := h.op
    · simp [noticeWritten, op]
    · rw [clean, writeHome_untouched h.line, noticeWritten, noticeLine]
  have freed : setDir (reqLine s n) 0 (noticeWritten n s) = entryFreed n i s := by
    rw [setDir_of_found (by rw [kept.dirLine]; exact h.found), kept.dir, kept.dirKey, kept.dirLine, entryFreed]
  have foreign : isOwn (entryFreed n i s) n = false := by
    simp [isOwn, nodeId_of_heard (heard_entryFreed n.port n i s), h.other]
  unfold takeNotice
  simp only [sound, h.unawaited, entry, h.owned, h.owner, written, freed, Bool.false_eq_true, if_false, if_true]
  rw [sendWbAck, sendRsp, if_neg (by simp [foreign]), wbAck]

/-- A notice of the owner runs from its receipt to its answer. -/
theorem homeNotice_owner : ∃ u, homeNotice n.op n s = sendPkt n.port (wbAck n (entryFreed n i u)) (entryFreed n i u) ∧ Quiet u ∧
    SameHome n.port s u := by
  have counted := sameHome_noticeCounted n.port n s
  have k := ownerNotice_of_sameHome counted h
  have taken := takeNotice_owner k
  have quiet : Quiet (takeNotice n (noticeCounted n s)) := by
    rw [taken]
    exact quiet_of_kept (quiet_entryFreed k.quiet n i) (within_quay (sendPkt_within ..) rfl) (by rw [within_reins (sendPkt_within ..) rfl])
  exact ⟨noticeCounted n s, by rw [homeNotice_served h.toServedAtOnce, settle_notice k quiet, taken], k.quiet, counted⟩

/-- What a notice of the owner leaves: WB_ACK is sent, the entry is freed, a dirty line is held whole, and nothing waits. -/
theorem notice_taken : ∃ f u, Sent n.port { hdr := rspHdr 0x4F n.src (nodeId s) n.tag 0 f } s (homeNotice n.op n s) ∧
    (homeNotice n.op n s).quay.dir = sset 0 s.quay.dir (dirKey s (reqLine s n))
      (setField (dirLine s (reqLine s n)) (128 * i) (0 : BitVec 128)) ∧
    (homeNotice n.op n s).quay.lines = (noticeWritten n u).quay.lines ∧ SameHome n.port s u ∧ Quiet u ∧
    (homeNotice n.op n s).quay.notices = [] ∧ (homeNotice n.op n s).dram.mem = s.dram.mem := by
  obtain ⟨u, run, quiet, same⟩ := homeNotice_owner h
  have heard := same.toHeard.trans (heard_entryFreed n.port n i u)
  obtain ⟨-, -, notices, -⟩ := quiet_entryFreed quiet n i
  have sent := sent_of_heard heard h.up (wbAck n (entryFreed n i u))
  have quay : (homeNotice n.op n s).quay = (entryFreed n i u).quay := by rw [run, within_quay (sendPkt_within ..) rfl]
  rw [← run, wbAck, nodeId_of_heard heard] at sent
  refine ⟨_, u, sent, ?_, ?_, same, quiet, ?_, ?_⟩
  · rw [quay, ← same.dirKey, ← same.dirLine, ← same.reqLine, ← same.dir]
    rfl
  · rw [quay]
    rfl
  · rw [quay]
    exact notices
  · rw [run, within_mem (sendPkt_within ..) rfl]
    exact heard.mem

end

/-- Settles O8: the home takes the notice as soon as it comes, and the entry is freed after a dirty line has been written. -/
theorem noticesAreTaken : Obligations.NoticesAreTaken := by
  unfold Obligations.NoticesAreTaken
  intro s r i served sound found owned owner
  refine ⟨?_, fun clean => ?_⟩
  · have notice : OwnerNotice s (asked 0x40 r) i := ⟨servedAtOnce_asked served 0x40, sound, found, owned, owner, .inl rfl⟩
    obtain ⟨f, u, sent, dir, lines, same, -, notices, mem⟩ := notice_taken notice
    refine ⟨homeNotice 0x40 r s, f, rfl, ?_⟩
    rw [← homeNotice_asked]
    exact ⟨sent, dir, lines.trans same.lines, notices, mem⟩
  · have notice : OwnerNotice s (asked 0x41 r) i := ⟨servedAtOnce_asked served 0x41, sound, found, owned, owner, .inr ⟨rfl, clean⟩⟩
    obtain ⟨f, u, sent, dir, lines, same, quiet, notices, mem⟩ := notice_taken notice
    have written : noticeWritten (asked 0x41 r) u = wroteLine (reqLine u (asked 0x41 r)) (noticeLine (asked 0x41 r) u) u := if_pos rfl
    have held := (wroteLine_held (reqLine u (asked 0x41 r)) (noticeLine (asked 0x41 r) u) quiet).1
    rw [← written, same.reqLine] at held
    refine ⟨homeNotice 0x41 r s, f, noticeLine (asked 0x41 r) u, rfl, ?_⟩
    rw [← homeNotice_asked]
    exact ⟨sent, dir, (congrArg (sget none · (reqLine s r).toNat) lines).trans held, rfl, rfl, rfl, notices, mem⟩

end Sys2Proof.Laws
end

section
/-! PROOFS. Answers that reach the home (R175, R177, R184, R296, Table 6.5): CMP_ACK, and the response to one of two snoops that are
outstanding. -/

namespace Sys2Proof.Laws

open Sys2Proof Sys2Proof.Machine

/-! ## Orphaned lines (R57, R184) -/

theorem view_orphanLater (page i : Nat) (s : State) : ∃ w, pageView (orphanLater page i s) = { pageView s with orphanWait := w } := by
  unfold orphanLater
  split
  · exact ⟨_, rfl⟩
  · exact ⟨_, rfl⟩

/-- A line that is orphaned now changes a descriptor, enters an operation in the table, or waits for an entry of it. -/
theorem banksKept_orphanNow (page i : Nat) (s : State) : BanksKept s (orphanNow page i s) := by
  have written (d : BitVec 128) : BanksKept s (setDesc page d s) := banksKept_of_view (view_setDesc page d s)
  have entered (room : Bool) (f : List PageOp → List PageOp) :
      BanksKept s (if room then setOps f s else orphanLater page i s) := by
    cases room
    · obtain ⟨w, e⟩ := view_orphanLater page i s
      exact banksKept_of_view e
    · exact ⟨rfl, rfl, rfl, rfl⟩
  unfold orphanNow
  dsimp only
  split
  · exact written _
  · exact written _
  · exact written _
  · exact written _
  · exact entered ..
  · exact entered ..
  · exact entered ..

theorem banksKept_evAdd (id n : Nat) (s : State) : BanksKept s (evAdd id n s) := banksKept_of_view (view_evAdd id n s)

/-- A demotion that stops leaves the page operation table, and may rewrite a berth. -/
theorem banksKept_abortDemotion (page : Nat) (s : State) : BanksKept s (abortDemotion page s) := by
  have left : BanksKept s (endOp page s) := ⟨rfl, rfl, rfl, rfl⟩
  have ended : BanksKept s (evQb (descBank s page) 23 (endOp page s)) := left.trans (banksKept_evAdd ..)
  have rewritten (u : State) : BanksKept u (if dSealed (descOf u page) then rewriteBerth page none u else u) := by
    split
    · exact banksKept_of_view (view_rewriteBerth ..)
    · exact .refl u
  unfold abortDemotion
  cases opOf s page with
  | none => exact ended.trans (rewritten _)
  | some o => exact ended.trans ((banksKept_evAdd ..).trans (rewritten _))

theorem banksKept_orphanLine (l : Line) (s : State) : BanksKept s (orphanLine l s) := by
  have dropped : BanksKept s (dropLine l s) := ⟨rfl, rfl, rfl, rfl⟩
  refine dropped.trans ?_
  unfold orphanLine
  dsimp only
  split
  · exact banksKept_orphanNow ..
  · split
    · exact (banksKept_abortDemotion ..).trans (banksKept_orphanNow ..)
    · exact ⟨rfl, rfl, rfl, rfl⟩

/-! ## CMP_ACK (R175) -/

/-- A grant, alone at its home, ends with its CMP_ACK. -/
theorem settle_ackGrant {s : State} {x : Txn} {n : Node} {g : Tag} (txns : s.quay.txns = [x]) (phase : x.phase = .ack)
    (wbWait : x.wbWait = []) (src : x.req.src = n) (tag : x.req.tag = g) (rest : HomeIdle s) :
    settle (ackGrant n g s) = { s with quay.txns := [] } := by
  have found : s.quay.txns.find? (fun t => t.phase = .ack && t.req.src = n && t.req.tag = g) = some x := by
    simp [txns, phase, src, tag]
  have closed : ackGrant n g s = { s with quay.txns := [] } := by
    unfold ackGrant
    rw [found]
    simp [closeTxn, wbWait, dropTxn, txns]
  rw [closed]
  exact settle_of_quiet ⟨rfl, rest⟩

/-! ## One of two snoops is answered -/

/-- The transaction once the first of its two snoops is answered. -/
def snoopLeft (x : Txn) (b : SnoopOut) : Txn := { x with snoops := [b] }

theorem snoops_left {x : Txn} {a b : SnoopOut} (snoops : x.snoops = [a, b]) (other : b.node ≠ a.node) :
    x.snoops.filter (fun o => !decide (o.node = a.node) || !decide (o.tag = a.tag)) = [b] := by
  simp [snoops, other]

/-- An error or a timeout in the place of an owner's response: its line is orphaned (R184). -/
theorem snoopReport_lost {x : Txn} {a b : SnoopOut} (snoops : x.snoops = [a, b]) (other : b.node ≠ a.node) (own : x.victim = none)
    (holder : a.holder = .owner) {r : Report} (lost : r.op = 0 ∨ r.op = 1) (now : r.fromWb = false) (s : State) :
    ∃ u, snoopReport a r x s = ({ snoopLeft x b with orphan := if r.op = 0 then 1 else 2, owner := a.node }, u) ∧ BanksKept s u := by
  have left := snoops_left snoops other
  have orphaned := banksKept_orphanLine (snoopLine (snoopLeft x b)) s
  refine ⟨(ownerLost (if r.op = 0 then 1 else 2) a (snoopLeft x b) s).2, ?_, orphaned.trans (banksKept_of_view (view_logIt ..))⟩
  rcases lost with op | op <;> simp [snoopReport, holder, op, now, left, ownerLost, own, snoopLeft]

/-- The transaction, alone at its home, has one more snoop outstanding: it waits. -/
theorem putTxn_waits {s u : State} {x y : Txn} {b : SnoopOut} (kept : BanksKept s u) (txns : s.quay.txns = [x]) (rest : HomeIdle s)
    (line : y.line = x.line) (snoops : y.snoops = [b]) (phase : y.phase = .snoop) :
    advance y.line (putTxn y u) = putTxn y u ∧ settle (putTxn y u) = putTxn y u ∧ (putTxn y u).quay.txns = [y] := by
  have alone : (putTxn y u).quay.txns = [y] := by simp [putTxn, kept.txns, txns, line]
  have found : txnOf (putTxn y u) y.line = some y := by simp [txnOf, alone]
  refine ⟨?_, settle_of_dataless alone (by simp [phase]) (kept.homeIdle rest), alone⟩
  unfold advance
  simp [found, snoops]

theorem snoopAwaited_of_within {q : Parts} {s t : State} {p : Rsp} {x : Txn} {a b : SnoopOut} (h : Within q s t)
    (k : (q.cfg || q.fuse || q.quay || q.reins) = false) (m : q.mode = false) (w : SnoopAwaited s p x a b) : SnoopAwaited t p x a b :=
  have kept := banksKept_of_within h k
  { mode := (within_mode h m).trans w.mode
    txns := kept.txns.trans w.txns
    snoops := w.snoops
    phase := w.phase
    own := w.own
    rest := kept.homeIdle w.rest
    home := w.home.trans kept.nodeId.symm
    answers := w.answers
    other := w.other
    now := w.now }

section
variable {s : State} {p : Rsp} {x : Txn} {a b : SnoopOut} (h : SnoopAwaited s p x a b)
include h

theorem snoopAwaited_taken (op : BitVec 8) : SnoopAwaited (answerTaken op p s) p x a b :=
  snoopAwaited_of_within (answerTaken_within op p s) rfl rfl h

theorem snoopAwaited_left : x.snoops.filter (fun o => !decide (o.node = a.node) || !decide (o.tag = a.tag)) = [b] :=
  snoops_left h.snoops (h.answers.1 ▸ h.other)

/-- What the home does with a response to the first of the two snoops. -/
def homeReport (op : BitVec 8) (p : Rsp) (a : SnoopOut) (x : Txn) (s : State) : Txn × State :=
  snoopReport a { op := op, fromWb := p.fromWb, poison := p.poison, data := p.data } x (answerTaken op p s)

/-- In Service the response to a snoop reaches the transaction that awaits it. -/
theorem homeSnoopRsp_awaited (op : BitVec 8) : homeSnoopRsp op p s =
    settle (advance (homeReport op p a x s).1.line (putTxn (homeReport op p a x s).1 (homeReport op p a x s).2)) := by
  have taken := snoopAwaited_taken h op
  obtain ⟨node, tag⟩ := h.answers
  have open' : (answerTaken op p s).quay.txns.find? (fun t => t.snoops.any (fun o => o.node = p.src && o.tag = p.tag)) = some x := by
    simp [taken.txns, h.snoops, node, tag]
  have sent : x.snoops.find? (fun o => o.node = p.src && o.tag = p.tag) = some a := by simp [h.snoops, node, tag]
  unfold homeSnoopRsp
  rw [if_neg (by simp [h.mode])]
  dsimp only
  rw [← answerTaken, if_neg (not_not.2 taken.home), open']
  dsimp only
  rw [sent]
  rfl

/-- The response leaves the transaction waiting for the other snoop, as the home's report has changed it. -/
theorem homeSnoopRsp_waits {op : BitVec 8} {y : Txn} {u : State} (report : homeReport op p a x s = (y, u)) (kept : BanksKept s u)
    (line : y.line = x.line) (snoops : y.snoops = [b]) (phase : y.phase = .snoop) :
    homeSnoopRsp op p s = putTxn y u ∧ (putTxn y u).quay.txns = [y] := by
  obtain ⟨waits, settled, alone⟩ := putTxn_waits kept h.txns h.rest line snoops phase
  rw [homeSnoopRsp_awaited h, report, waits, settled]
  exact ⟨rfl, alone⟩

end

/-! ## What the home does with each response (Table 6.5) -/

theorem qline_wroteLine (l : Line) (q : QLine) (s : State) : qline (wroteLine l q s) l = some q := by
  rw [qline, wroteLine, (quayKept_reported ..).lines]
  exact qline_placedLine l q s

section
variable {s : State} {p : Rsp} {x : Txn} {a b : SnoopOut} (h : SnoopAwaited s p x a b)
include h

/-- RSP_I of a sharer, and RSP_I_CLEAN of an owner: the holder has no copy. -/
theorem homeReport_drops {op : BitVec 8} (none' : a.holder = .sharer ∧ op = 0x58 ∨ a.holder = .owner ∧ op = 0x5A) :
    homeReport op p a x s = (snoopLeft x b, answerTaken op p s) := by
  have left := snoopAwaited_left h
  obtain ⟨holder, op⟩ | ⟨holder, op⟩ := none' <;> simp [homeReport, snoopReport, holder, op, left, h.now, snoopLeft]

/-- RSP_S of a sharer: it keeps its copy. -/
theorem homeReport_keeps (holder : a.holder = .sharer) :
    homeReport 0x59 p a x s = ({ snoopLeft x b with kept := x.kept ++ [a.node] }, answerTaken 0x59 p s) := by
  have left := snoopAwaited_left h
  simp [homeReport, snoopReport, holder, left, h.now, snoopLeft]

/-- RSP_FWD of the furnisher: the requester is served. -/
theorem homeReport_forwards (holder : a.holder = .furnisher) :
    homeReport 0x5D p a x s = ({ snoopLeft x b with fwdDone := true, fwdBy := some a.node }, answerTaken 0x5D p s) := by
  have left := snoopAwaited_left h
  simp [homeReport, snoopReport, holder, left, h.now, snoopLeft]

/-- The modified line of an owner is written to the home copy. -/
def dataLine (op : BitVec 8) (p : Rsp) (a : SnoopOut) (x : Txn) (s : State) : QLine :=
  newLine (BitVec.allOnes 64) p.data x.req.cls a.node a.tag (answerTaken op p s).quay.useStamp

/-- RSP_I_DATA and RSP_S_DATA of an owner: its line is written to the home copy, and with RSP_S_DATA it keeps a copy. -/
theorem homeReport_writes {op : BitVec 8} (holder : a.holder = .owner) (data : op = 0x5B ∨ op = 0x5C) (untouched : Untouched s (txnLine x))
    (clean : p.poison = false) : homeReport op p a x s =
      (if op = 0x5C then { snoopLeft x b with kept := x.kept ++ [a.node] } else snoopLeft x b,
        wroteLine (txnLine x) (dataLine op p a x s) (answerTaken op p s)) := by
  have left := snoopAwaited_left h
  have same : SameHome p.port s (answerTaken op p s) := (sameHome_takeRx ..).trans (sameHome_evAfl ..)
  have written := writeHome_untouched (same.untouched untouched) p.data x.req.cls op a.node a.tag
  rw [← dataLine] at written
  rw [← written]
  rcases data with op | op <;> simp [homeReport, snoopReport, holder, op, left, h.now, snoopLeft, snoopLine, h.own, txnLine, clean]

/-- An error of an owner: its line is orphaned (R184). -/
theorem homeReport_orphans (holder : a.holder = .owner) :
    ∃ u, homeReport 0 p a x s = ({ snoopLeft x b with orphan := 1, owner := a.node }, u) ∧ BanksKept s u := by
  obtain ⟨u, report, kept⟩ := snoopReport_lost h.snoops (h.answers.1 ▸ h.other) h.own holder
    (r := { op := 0, fromWb := p.fromWb, poison := p.poison, data := p.data }) (.inl rfl) h.now (answerTaken 0 p s)
  exact ⟨u, report, (banksKept_of_within (answerTaken_within 0 p s) rfl).trans kept⟩

/-! ## The answers -/

/-- A response that brings no data leaves the lines as they were. -/
theorem homeSnoopRsp_dataless {op : BitVec 8} {y : Txn} (report : homeReport op p a x s = (y, answerTaken op p s))
    (line : y.line = x.line) (snoops : y.snoops = [b]) (phase : y.phase = .snoop) :
    (homeSnoopRsp op p s).quay.txns = [y] ∧ (homeSnoopRsp op p s).quay.lines = s.quay.lines := by
  obtain ⟨run, alone⟩ := homeSnoopRsp_waits h report (banksKept_of_within (answerTaken_within op p s) rfl) line snoops phase
  rw [run]
  exact ⟨alone, (congrArg Quay.lines (answerTaken_quay op p s) :)⟩

/-- The line of a response with data is held. -/
theorem homeSnoopRsp_data {op : BitVec 8} (holder : a.holder = .owner) (data : op = 0x5B ∨ op = 0x5C)
    (untouched : Untouched s (txnLine x)) (clean : p.poison = false) :
    (homeSnoopRsp op p s).quay.txns = [if op = 0x5C then { snoopLeft x b with kept := x.kept ++ [a.node] } else snoopLeft x b] ∧
      qline (homeSnoopRsp op p s) (txnLine x) = some (dataLine op p a x s) := by
  have kept := (banksKept_of_within (answerTaken_within op p s) rfl).trans
    (banksKept_wroteLine (txnLine x) (dataLine op p a x s) (answerTaken op p s))
  obtain ⟨run, alone⟩ := homeSnoopRsp_waits h (homeReport_writes h holder data untouched clean) kept
    (by split <;> rfl) (by split <;> rfl) (by split <;> exact h.phase)
  rw [run]
  exact ⟨alone, qline_wroteLine (txnLine x) (dataLine op p a x s) (answerTaken op p s)⟩

/-- ERR_CMP of an owner orphans the line. -/
theorem errCmp_orphans (holder : a.holder = .owner) : ∃ t, exec (.errCmp p) s = .next t ∧
    t.quay.txns = [{ x with snoops := [b], orphan := 1, owner := a.node }] := by
  have taken : SnoopAwaited (takeRx p.port 0x5E p.src p.tag s) p x a b := snoopAwaited_of_within (takeRx_within ..) rfl rfl h
  obtain ⟨u, report, kept⟩ := homeReport_orphans taken holder
  obtain ⟨run, alone⟩ := homeSnoopRsp_waits taken report kept rfl rfl h.phase
  have awaited : s.quay.txns.any (fun t => t.snoops.any (fun o => o.node = p.src && o.tag = p.tag)) = true := by
    simp [h.txns, h.snoops, h.answers]
  have snoop : execErrCmp p s = .next (homeSnoopRsp 0 p (takeRx p.port 0x5E p.src p.tag s)) := by
    rw [execErrCmp, if_pos (by simp [h.mode, h.home, awaited])]
  exact ⟨_, snoop, by rw [run]; exact alone⟩

end

/-- CMP_ACK in Service. -/
theorem cmpAck_ends {s : State} {p : Rsp} {x : Txn} (mode : s.aon.mode = .service) (txns : s.quay.txns = [x]) (phase : x.phase = .ack)
    (wbWait : x.wbWait = []) (src : x.req.src = p.src) (tag : x.req.tag = p.tag) (home : p.dst = nodeId s) (rest : HomeIdle s) :
    exec (.cmpAck p) s = .next { answerTaken 0x50 p s with quay.txns := [] } := by
  have kept := banksKept_of_within (answerTaken_within 0x50 p s) rfl
  have here : ¬ p.dst ≠ nodeId (answerTaken 0x50 p s) := not_not.2 (home.trans kept.nodeId.symm)
  show execCmpAck p s = _
  unfold execCmpAck
  rw [if_neg (by simp [mode])]
  dsimp only
  rw [← answerTaken, if_neg here, settle_ackGrant (kept.txns.trans txns) phase wbWait src tag (kept.homeIdle rest)]

/-- Settles O9: CMP_ACK, and the first of two responses for each kind of holder, by their lemmas. -/
theorem answersReachHome : Obligations.AnswersReachHome := by
  unfold Obligations.AnswersReachHome
  refine ⟨?_, ?_, ?_, ?_, ?_⟩
  · intro s p x mode txns phase wbWait src tag home rest
    have taken := answerTaken_within 0x50 p s
    have quay := within_quay taken rfl
    exact ⟨_, cmpAck_ends mode txns phase wbWait src tag home rest, rfl, (congrArg Quay.dir quay :), (congrArg Quay.lines quay :),
      (within_mem taken rfl :)⟩
  · intro s p x a b h holder
    obtain ⟨dropped, lines⟩ := homeSnoopRsp_dataless h (homeReport_drops h (.inl ⟨holder, rfl⟩)) rfl rfl h.phase
    obtain ⟨kept, lines'⟩ := homeSnoopRsp_dataless h (homeReport_keeps h holder) rfl rfl h.phase
    exact ⟨⟨homeSnoopRsp 0x58 p s, rfl, dropped, lines⟩, ⟨homeSnoopRsp 0x59 p s, rfl, kept, lines'⟩⟩
  · intro s p x a b h holder
    obtain ⟨clean, lines⟩ := homeSnoopRsp_dataless h (homeReport_drops h (.inr ⟨holder, rfl⟩)) rfl rfl h.phase
    refine ⟨⟨homeSnoopRsp 0x5A p s, rfl, clean, lines⟩, fun untouched sound => ⟨?_, ?_⟩⟩
    · obtain ⟨txns, line⟩ := homeSnoopRsp_data h holder (.inl rfl) untouched sound
      exact ⟨homeSnoopRsp 0x5B p s, dataLine 0x5B p a x s, rfl, txns, line, rfl, rfl⟩
    · obtain ⟨txns, line⟩ := homeSnoopRsp_data h holder (.inr rfl) untouched sound
      exact ⟨homeSnoopRsp 0x5C p s, dataLine 0x5C p a x s, rfl, txns, line, rfl, rfl⟩
  · intro s p x a b h holder
    obtain ⟨forwarded, lines⟩ := homeSnoopRsp_dataless h (homeReport_forwards h holder) rfl rfl h.phase
    exact ⟨homeSnoopRsp 0x5D p s, rfl, forwarded, lines⟩
  · exact fun s p x a b h holder => errCmp_orphans h holder

end Sys2Proof.Laws
end

section
/-! PROOFS. Messages of link partners, and the timeouts of Fabric topology (R177, R185, R292, R310, R312, R313). -/

namespace Sys2Proof.Laws

open Sys2Proof Sys2Proof.Machine

/-! ## Messages (R312, R313) -/

/-- A packet that leaves the receive buffer changes nothing of the link's features. -/
theorem features_takeRx (p : Nat) (op : BitVec 8) (src : Node) (tag : Tag) (s : State) :
    (portOf (takeRx p op src tag s) p).features = (portOf s p).features := by
  unfold takeRx
  dsimp only
  split
  · rfl
  · split <;> rw [portOf_setPort]

/-- LAT_TOL is kept by its port in nanoseconds (R312). -/
theorem latTol_kept {s : State} {p : Nat} {src dst : Node} {noReq : Bool} {scale : BitVec 3} (lit : diesDark s = false)
    (home : dst = nodeId s) (feature : (portOf s p).features.getLsbD 1 = true) (defined : noReq = true ∨ scale.toNat < 6)
    (v : BitVec 10) : ∃ t, exec (.latTol p src dst noReq scale v) s = .next t ∧ (portOf t p).latTol = some (tolWord noReq scale v) := by
  have here (op : BitVec 8) (tag : Tag) : ¬ dst ≠ nodeId (evAfl p 15 (takeRx p op src tag s)) :=
    not_not.2 (home.trans ((sameHome_takeRx p p op src tag s).trans (sameHome_evAfl ..)).nodeId.symm)
  have able (op : BitVec 8) (tag : Tag) : (portOf (evAfl p 15 (takeRx p op src tag s)) p).features.getLsbD 1 = true := by
    rw [portOf_of_port (within_port (evAfl_within ..) rfl), features_takeRx, feature]
  have known : (!noReq && decide (6 ≤ scale.toNat)) = false := by
    rcases defined with none' | small
    · simp [none']
    · simp [small]
  have run : ∃ u, exec (.latTol p src dst noReq scale v) s =
      .next (gaitFall (modPort p (fun q => { q with latTol := some (tolWord noReq scale v) }) u)) := by
    show ∃ u, execLatTol p src dst noReq scale v s = _
    unfold execLatTol
    simp only [lit, here, able, known, Bool.not_true, Bool.false_eq_true, if_false]
    exact ⟨_, rfl⟩
  obtain ⟨u, run⟩ := run
  refine ⟨_, run, ?_⟩
  rw [portOf_of_port (within_port (gaitFall_within _) rfl), portOf_modPort]

/-- A peer's POWER_WARN is counted, and no more (R313). -/
theorem powerWarn_counted {s : State} (lit : diesDark s = false) (p : Nat) (src : Node) (tide : BitVec 64) (c : BitVec 4) :
    ∃ t, exec (.powerWarn p src tide c) s = .next t ∧ t.quay.peerWarn = s.quay.peerWarn + 1 ∧ t.pin = s.pin ∧ t.aon = s.aon := by
  have pin (tag : Tag) : (takeRx p 0x71 src tag s).pin = s.pin := keeps_pin (takeRx_within ..).same rfl
  have aon (tag : Tag) : (takeRx p 0x71 src tag s).aon = s.aon := within_aon (takeRx_within ..) rfl rfl
  show ∃ t, execPowerWarn p src tide c s = .next t ∧ _
  rw [execPowerWarn, if_neg (by simp [lit])]
  exact ⟨_, rfl, congrArg Quay.peerWarn (within_quay (evAfl_within ..) rfl), (keeps_pin (evAfl_within ..).same rfl).trans (pin _),
    (keeps_aon (evAfl_within ..).same rfl rfl).trans (aon _)⟩

/-- The event has been sent on a port with its count as it stands, in this window (R313). -/
def eventMarked (p e : Nat) (s : State) : State :=
  { s with ev.sentCount := sset 0 s.ev.sentCount (key2 e p) (sget 0 s.ev.count e), ev.sentWin := sset false s.ev.sentWin (key2 e p) true }

theorem sentWin_eventMarked (p e : Nat) (s : State) : sget false (eventMarked p e s).ev.sentWin (key2 e p) = true :=
  sget_sset_same false s.ev.sentWin (key2 e p) true

theorem sentCount_eventMarked (p e : Nat) (s : State) : sget 0 (eventMarked p e s).ev.sentCount (key2 e p) = sget 0 s.ev.count e :=
  sget_sset_same ..

/-- An event that is due is sent, and not again in its window (R313). -/
theorem eventMsg_sent {s : State} {p e : Nat} (due : eventDue s p e = true) : ∃ t, exec (.eventMsg p e) s = .next t ∧
    Sent p { hdr := msgHdr 0x73 (partnerNode (portOf s p)) (nodeId s) (eventBody s e) } s t ∧
    sget false t.ev.sentWin (key2 e p) = true ∧ sget 0 t.ev.sentCount (key2 e p) = sget 0 s.ev.count e ∧ eventDue t p e = false := by
  have up : portUp s p = true := by
    simp only [eventDue, Bool.and_eq_true] at due
    obtain ⟨⟨⟨⟨-, up⟩, -⟩, -⟩, -⟩ := due
    exact up
  have sent := sent_of_heard (.refl p s) up { hdr := msgHdr 0x73 (partnerNode (portOf s p)) (nodeId s) (eventBody s e) }
  have counted : ∀ k : Pkt, (sendPkt p k s).ev = s.ev := fun k => keeps_ev (sendPkt_within p k s).same rfl
  have run : exec (.eventMsg p e) s =
      .next (eventMarked p e (sendPkt p { hdr := msgHdr 0x73 (partnerNode (portOf s p)) (nodeId s) (eventBody s e) } s)) := by
    show execEventMsg p e s = _
    rw [execEventMsg, if_neg (by simp [due])]
    rfl
  exact ⟨_, run, sent, sentWin_eventMarked .., (sentCount_eventMarked ..).trans (by rw [counted]),
    by rw [eventDue, sentWin_eventMarked, Bool.not_true, Bool.and_false]⟩

/-! ## Timeouts (R177, R185, R310) -/

/-- A tag rests for TAG_QUIET (R292). -/
def resting (q : Node × Tag) (s : State) : State :=
  { s with quay.quiet := if s.quay.quiet.contains q then s.quay.quiet else s.quay.quiet ++ [q] }

theorem contains_resting (q : Node × Tag) (s : State) : (resting q s).quay.quiet.contains q = true := by
  unfold resting
  dsimp only
  split
  · assumption
  · simp

section
variable {s : State} {n : Node} {g : Tag} {x : Txn} (fabric : direct s = false) (txns : s.quay.txns = [x]) (rest : HomeIdle s)
include fabric txns rest

/-- A late CMP_ACK counts as received. -/
theorem lateAck_received (phase : x.phase = .ack) (snoops : x.snoops = []) (wbWait : x.wbWait = []) (src : x.req.src = n)
    (tag : x.req.tag = g) : exec (.snoopTimeoutExpiry n g) s = .next { s with quay.txns := [] } := by
  have unawaited : s.quay.txns.any (fun t => t.snoops.any (fun o => o.node = n && o.tag = g)) = false := by simp [txns, snoops]
  show execSnoopTimeoutExpiry n g s = _
  rw [execSnoopTimeoutExpiry, if_neg (by simp [fabric]), if_neg (by simp [unawaited]),
    settle_ackGrant txns phase wbWait src tag rest]

/-- A late response of an owner orphans the line, and its tag rests (R292). -/
theorem lateSnoop_fails {a b : SnoopOut} (snoops : x.snoops = [a, b]) (phase : x.phase = .snoop) (own : x.victim = none)
    (node : a.node = n) (tag : a.tag = g) (holder : a.holder = .owner) (other : b.node ≠ n) :
    ∃ t, exec (.snoopTimeoutExpiry n g) s = .next t ∧ t.quay.quiet.contains (n, g) = true ∧
      t.quay.txns = [{ x with snoops := [b], orphan := 2, owner := n }] := by
  subst node tag
  have sent : x.snoops.find? (fun o => o.node = a.node && o.tag = a.tag) = some a := by simp [snoops]
  have found : s.quay.txns.find? (fun t => t.snoops.any (fun o => o.node = a.node && o.tag = a.tag)) = some x := by
    simp [txns, snoops]
  have awaited : s.quay.txns.any (fun t => t.snoops.any (fun o => o.node = a.node && o.tag = a.tag)) = true := by simp [txns, snoops]
  obtain ⟨u, report, kept⟩ := snoopReport_lost snoops other own holder (r := { op := 1 }) (.inr rfl) rfl (resting (a.node, a.tag) s)
  obtain ⟨waits, settled, alone⟩ := putTxn_waits (y := { snoopLeft x b with orphan := 2, owner := a.node }) kept txns rest rfl rfl phase
  have fails : snoopFails a.node a.tag true s = putTxn { snoopLeft x b with orphan := 2, owner := a.node } u := by
    unfold snoopFails
    rw [found]
    dsimp only
    rw [sent]
    show advance (snoopReport a { op := 1 } x (resting (a.node, a.tag) s)).1.line
      (putTxn (snoopReport a { op := 1 } x (resting (a.node, a.tag) s)).1 (snoopReport a { op := 1 } x (resting (a.node, a.tag) s)).2) = _
    rw [report]
    exact waits
  refine ⟨_, ?_, ?_, alone⟩
  · show execSnoopTimeoutExpiry a.node a.tag s = _
    rw [execSnoopTimeoutExpiry, if_neg (by simp [fabric]), if_pos awaited, fails, settled]
  · exact (congrArg (List.contains · (a.node, a.tag)) kept.quiet).trans (contains_resting ..)

end

/-- The device's own request that is late completes as ERR_NODATA, or as a notice is dropped (R310); its tag rests (R292). -/
theorem lateRequest_ends {s : State} {d : DevReq} (fabric : direct s = false) (reqs : s.quay.devReqs = [d]) (status : d.status = none) :
    ∃ t, exec (.deviceRequestTimeout d.dst d.tag) s = .next t ∧ t.quay.quiet.contains (d.dst, d.tag) = true ∧
      t.quay.devReqs = if d.op = 0x40 ∨ d.op = 0x41 then [] else [{ d with status := some 2 }] := by
  have found : s.quay.devReqs.find? (fun x => x.dst = d.dst && x.tag = d.tag && x.status.isNone) = some d := by simp [reqs, status]
  have run : exec (.deviceRequestTimeout d.dst d.tag) s = .next (synthetic (portTo s d.dst) d s) := by
    show execDeviceRequestTimeout d.dst d.tag s = _
    rw [execDeviceRequestTimeout, if_neg (by simp [fabric]), found]
  have rests := contains_resting (d.dst, d.tag) s
  have quay (u : State) : (evAfl (portTo s d.dst) 17 u).quay = u.quay := within_quay (evAfl_within ..) rfl
  refine ⟨_, run, ?_⟩
  by_cases notice : d.op = 0x40 ∨ d.op = 0x41
  · have dropped : (d.op = 0x40 || d.op = 0x41) = true := by simpa using notice
    simp only [synthetic, dropped, if_true, if_pos notice]
    rw [quay]
    exact ⟨rests, by simp [setRemote, reqs]⟩
  · have kept : (d.op = 0x40 || d.op = 0x41) = false := by simpa using notice
    simp only [synthetic, kept, Bool.false_eq_true, if_false, if_neg notice]
    rw [quay]
    exact ⟨rests, by simp [reqs, status]⟩

/-- Settles O44: each message and each timeout by its lemma. -/
theorem messagesAndTimeouts : Obligations.MessagesAndTimeouts := by
  unfold Obligations.MessagesAndTimeouts
  refine ⟨?_, ?_, ?_, fun s n g => rfl, ?_, ?_⟩
  · exact fun s p src dst noReq scale v lit home feature defined => latTol_kept lit home feature defined v
  · exact fun s p src tide c lit => powerWarn_counted lit p src tide c
  · exact fun s p e due => eventMsg_sent due
  · refine fun s n g x fabric txns rest => ⟨fun phase snoops wbWait src tag => ?_, ?_⟩
    · exact ⟨_, lateAck_received fabric txns rest phase snoops wbWait src tag, rfl, rfl, rfl⟩
    · exact fun a b snoops phase own node tag holder other => lateSnoop_fails fabric txns rest snoops phase own node tag holder other
  · rintro s n g d fabric reqs rfl rfl status
    exact lateRequest_ends fabric reqs status

end Sys2Proof.Laws
end

section
/-! PROOFS. The ledger at rest (R191, R192): with nothing queued for writeback the end of a command of the ledger only brings
AON_PERSIST_STAT up to date, and the ceiling window publishes its pair. -/

namespace Sys2Proof.Laws

open Sys2Proof Sys2Proof.Machine

/-! ## The end of a command of the ledger -/

@[simp] theorem refreshPA_led (s : State) : (refreshPA s).led = s.led := within_led (refreshPA_within s) rfl
@[simp] theorem refreshPA_quay (s : State) : (refreshPA s).quay = s.quay := within_quay (refreshPA_within s) rfl
@[simp] theorem refreshPA_mode (s : State) : (refreshPA s).aon.mode = s.aon.mode := within_mode (refreshPA_within s) rfl

theorem quiet_refreshPA {s : State} (quiet : Quiet s) : Quiet (refreshPA s) :=
  quiet_of_kept quiet (refreshPA_quay s) (by rw [within_reins (refreshPA_within s) rfl])

/-- A ledger at rest is so in a state with the same queue and the same home. -/
theorem rests_of_kept {s t : State} (rest : LedgerRests s) (queue : t.led.queue = s.led.queue) (quay : t.quay = s.quay)
    (waiters : t.reins.waiters = s.reins.waiters) : LedgerRests t :=
  ⟨queue.trans rest.queue, quiet_of_kept rest.quiet quay waiters⟩

/-- With nothing queued and a quiet home no page is written back and nothing goes on. -/
theorem settle_packQueued_of_rests {s : State} (rest : LedgerRests s) : settle (refreshPA (packQueued s)) = refreshPA s := by
  rw [packQueued_of_queueEmpty rest.queue, settle_of_quiet (quiet_refreshPA rest.quiet)]

/-! ## The ceiling window (R191, R192) -/

/-- The window that ends is counted, and the next one starts empty; what is queued and what is dirty stay. -/
theorem closeWindow_led (s : State) : (closeWindow s).led.windows = s.led.windows + 1 ∧ (closeWindow s).led.winBytes = 0 ∧
    (closeWindow s).led.powerMax = 0 ∧ (closeWindow s).led.queue = s.led.queue ∧ (closeWindow s).led.order = s.led.order := by
  unfold closeWindow
  dsimp only
  split
  · exact ⟨rfl, rfl, rfl, rfl, rfl⟩
  · split <;> exact ⟨rfl, rfl, rfl, rfl, rfl⟩

/-- A window has closed with the ceiling `c`, and its pair is published. -/
def windowClosed (c : Nat) (s : State) : State := publishLevels { closeWindow s with led.c := c }

theorem windowClosed_mode (c : Nat) (s : State) : (windowClosed c s).aon.mode = s.aon.mode :=
  (congrArg Aon.mode (within_aon (closeWindow_within s) rfl rfl) :)

theorem windowClosed_order (c : Nat) (s : State) : (windowClosed c s).led.order = s.led.order := by
  obtain ⟨-, -, -, -, order⟩ := closeWindow_led s
  exact order

theorem rests_windowClosed (c : Nat) {s : State} (rest : LedgerRests s) : LedgerRests (windowClosed c s) := by
  obtain ⟨-, -, -, queue, -⟩ := closeWindow_led s
  have same := closeWindow_within s
  exact rests_of_kept rest queue (within_quay same rfl :) (congrArg Reins.waiters (within_reins same rfl) :)

/-- What is published is the ceiling and the dirty pages of the window (R191). -/
theorem windowClosed_pair (c : Nat) (s : State) : (windowClosed c s).aon.ceilPages = BitVec.ofNat 32 c ∧
    (windowClosed c s).aon.dirtyPages = BitVec.ofNat 32 (dirtyPages s) := by
  have quay : (closeWindow s).quay = s.quay := within_quay (closeWindow_within s) rfl
  refine ⟨rfl, ?_⟩
  show BitVec.ofNat 32 (dirtyPages { closeWindow s with led.c := c }) = _
  rw [dirtyPages, dirtyPages, quay]

theorem startClosing_of_service {s : State} (mode : s.aon.mode = .service) : startClosing s = s := by
  rw [startClosing, if_pos (by simp [mode])]

/-- What the window computes as its ceiling in Service: none in the first window. -/
def windowCeiling (s : State) : Nat := if (closeWindow s).led.windows ≤ 1 then 0 else dirtyCeiling (closeWindow s) s.led.eLow

/-- The dirty pages are queued where they reach DIRTY_SOFT of the ceiling (R195). -/
def softQueued (s : State) : State :=
  if s.aon.mode = .drain || param s 0x07 7 * s.led.c ≤ dirtyPages s * 10000 then queueAll s else s

theorem softQueued_of_orderEmpty {s : State} (order : s.led.order = []) : softQueued s = s := by
  rw [softQueued, queueAll_of_orderEmpty order, ite_self]

/-- In Service, with no dirty page in the order of writeback, the window only computes and publishes its pair. -/
theorem exec_dirtyCeilingWindow {s : State} (mode : s.aon.mode = .service) (rest : LedgerRests s) (order : s.led.order = []) :
    exec .dirtyCeilingWindow s = .next (refreshPA (windowClosed (windowCeiling s) s)) := by
  have closed := rests_windowClosed (windowCeiling s) rest
  have serves : (refreshPA (windowClosed (windowCeiling s) s)).aon.mode = .service := by
    rw [refreshPA_mode, windowClosed_mode, mode]
  have run : execDirtyCeilingWindow s =
      (fun u => .next (settle (if dirtyPages u = 0 then startClosing u else u)) : State → Out)
        (refreshPA (packQueued (softQueued (windowClosed (windowCeiling s) s)))) := by
    unfold execDirtyCeilingWindow
    rw [if_neg (by simp [mode]), if_neg (by simp [mode])]
    dsimp only
    unfold softQueued
    rw [windowClosed_mode]
    rfl
  show execDirtyCeilingWindow s = _
  rw [run, softQueued_of_orderEmpty ((windowClosed_order ..).trans order), packQueued_of_queueEmpty closed.queue]
  dsimp only
  rw [startClosing_of_service serves, ite_self, settle_of_quiet (quiet_refreshPA closed.quiet)]

theorem refreshPA_pair (s : State) : (refreshPA s).aon.ceilPages = s.aon.ceilPages ∧ (refreshPA s).aon.dirtyPages = s.aon.dirtyPages := by
  obtain ⟨b, n, e⟩ := refreshPA_aon s
  rw [e]
  exact ⟨rfl, rfl⟩

/-- The window closes and publishes its pair (R191, R192). -/
theorem ceilingWindow_publishes {s : State} (mode : s.aon.mode = .service) (rest : LedgerRests s) (order : s.led.order = []) :
    ∃ t, exec .dirtyCeilingWindow s = .next t ∧ t.led.windows = s.led.windows + 1 ∧ t.led.winBytes = 0 ∧ t.led.powerMax = 0 ∧
      t.aon.ceilPages = BitVec.ofNat 32 t.led.c ∧ t.aon.dirtyPages = BitVec.ofNat 32 (dirtyPages s) ∧
      (s.led.windows = 0 → t.led.c = 0) := by
  obtain ⟨windows, bytes, power, -, -⟩ := closeWindow_led s
  obtain ⟨ceil, dirty⟩ := windowClosed_pair (windowCeiling s) s
  obtain ⟨sameCeil, sameDirty⟩ := refreshPA_pair (windowClosed (windowCeiling s) s)
  refine ⟨_, exec_dirtyCeilingWindow mode rest order, ?_⟩
  rw [refreshPA_led, sameCeil, sameDirty]
  exact ⟨windows, bytes, power, ceil, dirty, fun first => if_pos (by omega)⟩

/-! ## AON_PERSIST_LEVEL (R191, R464) -/

theorem setWidth_or_place (hi lo : BitVec 32) : lo.setWidth 64 ||| place 64 32 hi = hi ++ lo := by
  refine BitVec.eq_of_getLsbD_eq fun i small => ?_
  rw [BitVec.getLsbD_append]
  by_cases low : i < 32
  · simp [place, low, small]
  · simp [place, low, small, BitVec.getLsbD_of_ge lo i (by omega)]

/-- With every byte enabled an access gives the whole pair. -/
theorem byteMask_all : byteMask 64 0xFF = BitVec.allOnes 64 := by decide

/-- A 64-bit read over I3C in Service answers with the two counts. -/
theorem read64_persistLevel {s : State} {f : I3cFrame} (free : s.aon.otpBusy = false) (mode : s.aon.mode = .service) (i3c : f.i2c = false)
    (len : f.lenOk = true) (offset : f.offset = 0x40) (be : f.be = 0xFF) :
    exec (.read64 f) s = .next (i3cDone 0 (bytesOf (s.aon.ceilPages ++ s.aon.dirtyPages) 8) s) := by
  have good : accessBad s 0x40 true 0xFF = false := by simp [accessBad, blkOf, isPair, blkPresent]
  have answer : access 0 (nodeId s) 0x40 true false 0xFF f.data s =
      ({ ok := true, data := s.aon.ceilPages ++ s.aon.dirtyPages }, s) := by
    rw [access, good]
    show accessWide 0 (nodeId s) 0x40 false 0xFF f.data s = _
    rw [← setWidth_or_place, ← BitVec.and_allOnes (x := _ ||| _), ← byteMask_all]
    rfl
  have awake : i3cNack f s = false := by simp [i3cNack, free, mode]
  show i3cCommand 4 0 true false f s = _
  rw [i3cCommand, awake, offset, be]
  simp only [len, i3c]
  show Host.Outcome.next (accessRow 0 0x40 true false 0xFF f.data s) = _
  rw [accessRow, if_neg (by simp [pathOk, free])]
  show Host.Outcome.next (busyStatus (leaveData 0 8 (access 0 (nodeId s) 0x40 true false 0xFF f.data s).1 false
    (regDone 0 none (access 0 (nodeId s) 0x40 true false 0xFF f.data s).1.ok (access 0 (nodeId s) 0x40 true false 0xFF f.data s).2))) = _
  rw [answer, busyStatus]
  exact congrArg Host.Outcome.next (if_neg fun busy => Bool.false_ne_true (free.symm.trans busy))

/-- Settles O52: the read gives the pair, which only the window publishes. -/
theorem persistLevelIsOnePair : Obligations.PersistLevelIsOnePair := by
  unfold Obligations.PersistLevelIsOnePair
  refine ⟨fun s f free mode i3c len offset be => read64_persistLevel free mode i3c len offset be, fun s mode rest order => ?_⟩
  obtain ⟨t, run, -, -, -, ceil, dirty, -⟩ := ceilingWindow_publishes mode rest order
  exact ⟨t, run, ceil, dirty⟩

end Sys2Proof.Laws
end

section
/-! PROOFS. The SSDs of the ledger set (R211 to R214, R497, Table 7.9): one that is marked failed, reset, ready or rejected. -/

namespace Sys2Proof.Laws

open Sys2Proof Sys2Proof.Machine

/-! ## What leaves the SSDs alone -/

@[simp] theorem peEv_led (s : State) (ssd e n : Nat) (t : State) : (peEv s ssd e n t).led = t.led := evAdd_led ..

theorem ssdOf_of_led {s t : State} (same : t.led = s.led) (i : Nat) : ssdOf t i = ssdOf s i := by rw [ssdOf, same, ssdOf]

theorem rests_peEv (s : State) (ssd e n : Nat) {t : State} (rest : LedgerRests t) : LedgerRests (peEv s ssd e n t) :=
  have same := peEv_within s ssd e n t
  rests_of_kept rest (by rw [peEv_led]) (within_quay same rfl) (by rw [within_reins same rfl])

theorem rests_logIt (r : LogRec) {s : State} (rest : LedgerRests s) : LedgerRests (logIt r s) :=
  rests_of_kept rest (by rw [logIt_led]) (logIt_quay ..) (by rw [logIt_reins])

theorem rests_setSsd (i : Nat) (d : Ssd) {s : State} (rest : LedgerRests s) : LedgerRests (setSsd i d s) := rests_of_kept rest rfl rfl rfl

/-! ## An SSD that fails (R213, R214, R497) -/

/-- The SSD is marked failed, and that is logged. -/
def failedSsd (i reason : Nat) (s : State) : State :=
  logIt { cause := 0x7C, args := [i, reason] } (modSsd i (fun d => { d with failed := true, resetting := false }) s)

theorem ssdOf_failedSsd (i reason : Nat) (s : State) :
    ssdOf (failedSsd i reason s) i = { ssdOf s i with failed := true, resetting := false } := by
  rw [failedSsd, ssdOf_of_led (logIt_led ..), ssdOf_modSsd]

section
variable {s : State} {i : Nat} (rest : LedgerRests s)
include rest

/-- An SSD that holds no segment on its way and no image is marked failed, and no more. -/
theorem markFailed_of_empty (reason : Nat) (sound : (ssdOf s i).failed = false) (segs : s.led.segs = []) (mirror : s.led.mirror = []) :
    settle (markFailed i reason s) = refreshPA (failedSsd i reason s) := by
  have marked : LedgerRests (failedSsd i reason s) := rests_logIt _ (rests_setSsd _ _ rest)
  have noSegs : (failedSsd i reason s).led.segs = [] := by rw [failedSsd, logIt_led]; exact segs
  have noImages : (failedSsd i reason s).led.mirror = [] := by rw [failedSsd, logIt_led]; exact mirror
  unfold markFailed
  rw [if_neg (by simp [sound])]
  dsimp only
  rw [← failedSsd, noSegs, List.filterMap_nil, List.foldl_nil, noImages]
  exact settle_packQueued_of_rests marked

theorem markFailed_marks (reason : Nat) (sound : (ssdOf s i).failed = false) (segs : s.led.segs = []) (mirror : s.led.mirror = []) :
    ssdOf (settle (markFailed i reason s)) i = { ssdOf s i with failed := true, resetting := false } := by
  rw [markFailed_of_empty rest reason sound segs mirror, ssdOf_of_led (refreshPA_led _), ssdOf_failedSsd]

/-- What a SMART log poll notes of the SSD before it judges. -/
def smartNoted (i : Nat) (critical : Bool) (s : State) : State := modSsd i (fun d => { d with critical := critical }) (peEv s i 12 1 s)

omit rest in
theorem ssdOf_smartNoted (critical : Bool) : ssdOf (smartNoted i critical s) i = { ssdOf s i with critical := critical } := by
  rw [smartNoted, ssdOf_modSsd, ssdOf_of_led (peEv_led ..)]

/-- A critical warning marks the SSD failed (R213, R214). -/
theorem smartLogPoll_judges (critical : Bool) (member : (ssdIndices s).contains i = true) (present : (ssdOf s i).present = true)
    (ready : (ssdOf s i).ready = true) (segs : s.led.segs = []) (mirror : s.led.mirror = []) :
    ∃ t, exec (.smartLogPoll i critical false) s = .next t ∧ (ssdOf t i).critical = critical ∧
      (ssdOf t i).failed = (critical || (ssdOf s i).failed) := by
  have noted : LedgerRests (smartNoted i critical s) := rests_setSsd _ _ (rests_peEv _ _ _ _ rest)
  have led : (peEv s i 12 1 s).led = s.led := peEv_led ..
  have run : exec (.smartLogPoll i critical false) s = .next (settle (if critical then markFailed i 2 (smartNoted i critical s)
      else refreshPA (smartNoted i critical s))) := by
    show execSmartLogPoll i critical false s = _
    rw [execSmartLogPoll, if_neg (by simp only [member, present, ready]; decide)]
    rfl
  refine ⟨_, run, ?_⟩
  cases critical
  case false =>
    rw [if_neg Bool.false_ne_true, settle_of_quiet (quiet_refreshPA noted.quiet), ssdOf_of_led (refreshPA_led _), ssdOf_smartNoted]
    exact ⟨rfl, rfl⟩
  case true =>
    rw [if_pos rfl]
    cases before : (ssdOf s i).failed
    case false =>
      rw [markFailed_marks noted 2 (by rw [ssdOf_smartNoted, before]) ((congrArg Ledger.segs led :).trans segs)
        ((congrArg Ledger.mirror led :).trans mirror), ssdOf_smartNoted]
      exact ⟨rfl, rfl⟩
    case true =>
      rw [markFailed, if_pos (by rw [ssdOf_smartNoted, before]), settle_of_quiet noted.quiet, ssdOf_smartNoted]
      exact ⟨rfl, before⟩

/-- A reset that does not complete marks the SSD failed (R497). -/
theorem ssdResetTimeout_fails (resetting : (ssdOf s i).resetting = true) (sound : (ssdOf s i).failed = false) (segs : s.led.segs = [])
    (mirror : s.led.mirror = []) :
    ∃ t, exec (.ssdResetTimeout i) s = .next t ∧ (ssdOf t i).failed = true ∧ (ssdOf t i).resetting = false := by
  have run : exec (.ssdResetTimeout i) s = .next (settle (markFailed i 5 s)) := by
    show execSsdResetTimeout i s = _
    rw [execSsdResetTimeout, if_pos resetting]
  exact ⟨_, run, by rw [markFailed_marks rest 5 sound segs mirror], by rw [markFailed_marks rest 5 sound segs mirror]⟩

/-! ## A command that times out (R214) -/

/-- The controller of the SSD is reset for the first time. -/
def resetSsd (i : Nat) (s : State) : State :=
  modSsd i (fun d => { d with resets := [s.time.tide], resetting := true, ready := false, queues := false })
    (peEv s i 7 1 (peEv s i 8 1 s))

/-- The first command of an SSD that times out resets its controller. -/
theorem ledgerTimeout_resets (member : (ssdIndices s).contains i = true) (present : (ssdOf s i).present = true)
    (sound : (ssdOf s i).failed = false) (resets : (ssdOf s i).resets = []) (segs : s.led.segs = []) :
    ∃ t, exec (.ledgerTimeoutExpiry i) s = .next t ∧ (ssdOf t i).resetting = true ∧ (ssdOf t i).ready = false ∧
      (ssdOf t i).resets = [s.time.tide] ∧ (ssdOf t i).failed = false := by
  have counted : (peEv s i 7 1 (peEv s i 8 1 s)).led = s.led := (peEv_led ..).trans (peEv_led ..)
  have rests : LedgerRests (resetSsd i s) := rests_setSsd _ _ (rests_peEv _ _ _ _ (rests_peEv _ _ _ _ rest))
  have kept : loseWrites i (resetSsd i s) = resetSsd i s := by
    rw [loseWrites, show (resetSsd i s).led.segs = [] from (congrArg Ledger.segs counted :).trans segs]
    rfl
  have reset : ssdOf (resetSsd i s) i = { ssdOf s i with resets := [s.time.tide], resetting := true, ready := false, queues := false } := by
    rw [resetSsd, ssdOf_modSsd, ssdOf_of_led counted]
  have run : exec (.ledgerTimeoutExpiry i) s = .next (settle (refreshPA (packQueued (resetSsd i s)))) := by
    show Host.Outcome.next (settle (nvmeTimeout i s)) = _
    rw [nvmeTimeout, if_neg (by simp only [member, present, sound]; decide), resets]
    exact congrArg (fun u => Host.Outcome.next (settle (refreshPA (packQueued u)))) kept
  rw [settle_packQueued_of_rests rests] at run
  refine ⟨_, run, ?_⟩
  rw [ssdOf_of_led (refreshPA_led _), reset]
  exact ⟨rfl, rfl, rfl, sound⟩

end

/-! ## An SSD that comes up (R211, R213, R216) -/

section
variable {s : State} {i : Nat} {d : Identity} (member : (ssdIndices s).contains i = true) (mode : s.aon.mode = .harnessing)
  (place' : inPlace s i d = true)
include member mode place'

/-- An SSD whose items hold has its queues and is ready. -/
theorem ssdReady_readies (good : failedItem s d = 0) (unchosen : s.led.chosen = false) (sound : (ssdOf s i).failed = false)
    (paid : s.led.openOwed = false) (rest : LedgerRests s) :
    ∃ t, exec (.ssdReady i d) s = .next t ∧ (ssdOf t i).ready = true ∧ (ssdOf t i).queues = true ∧ (ssdOf t i).adminQ = 64 ∧
      (ssdOf t i).ioQ = param s 0x07 15 ∧ (ssdOf t i).present = true ∧ (ssdOf t i).rejected = false ∧ (ssdOf t i).nguid = d.nguid ∧
      (ssdOf t i).blocks = d.blocks := by
  have run : exec (.ssdReady i d) s = .next (settle (refreshPA (packQueued (setSsd i (makeQueues s i
      { ssdOf s i with present := true, resetting := false, nguid := d.nguid, blocks := d.blocks, rejected := false, ready := true,
                       queues := false }) s)))) := by
    show execSsdReady i d s = _
    rw [execSsdReady, if_neg (by simp only [member, mode, place']; decide), good]
    simp [unchosen, sound, payOpen, setSsd, paid]
  rw [settle_packQueued_of_rests (rests_setSsd _ _ rest)] at run
  refine ⟨_, run, ?_⟩
  rw [ssdOf_of_led (refreshPA_led _), ssdOf_setSsd]
  exact ⟨rfl, rfl, rfl, rfl, rfl, rfl, rfl, rfl⟩

/-- An SSD that fails an item is rejected. -/
theorem ssdReady_rejects (bad : failedItem s d ≠ 0) :
    ∃ t, exec (.ssdReady i d) s = .next t ∧ (ssdOf t i).rejected = true ∧ (ssdOf t i).ready = false := by
  have run : exec (.ssdReady i d) s = .next (refreshPA (logIt { cause := 0x7B, args := [(bayOf s i).getD 0, failedItem s d] }
      (setSsd i { ssdOf s i with present := true, resetting := false, nguid := d.nguid, blocks := d.blocks, rejected := true,
                                 ready := false, queues := false } s))) := by
    show execSsdReady i d s = _
    rw [execSsdReady, if_neg (by simp only [member, mode, place']; decide)]
    dsimp only
    rw [if_pos bad]
  refine ⟨_, run, ?_⟩
  rw [ssdOf_of_led ((refreshPA_led _).trans (logIt_led ..)), ssdOf_setSsd]
  exact ⟨rfl, rfl⟩

end

/-- Settles O20: each event of an SSD by its lemma. -/
theorem ssdsAreWatched : Obligations.SsdsAreWatched := by
  unfold Obligations.SsdsAreWatched
  refine ⟨?_, ?_, ?_, ?_⟩
  · exact fun s i critical member present ready rest segs mirror => smartLogPoll_judges rest critical member present ready segs mirror
  · exact fun s i member present sound resets rest segs => ledgerTimeout_resets rest member present sound resets segs
  · exact fun s i resetting sound rest segs mirror => ssdResetTimeout_fails rest resetting sound segs mirror
  · exact fun s i d member mode place' => ⟨ssdReady_readies member mode place', ssdReady_rejects member mode place'⟩

end Sys2Proof.Laws
end

section
/-! PROOFS. The return from an outage: the tide counter, the manifest, the replay and the restore of frames (R199, R225 to R227, R407,
R408). -/

namespace Sys2Proof.Laws

open Sys2Proof Sys2Proof.Machine

/-! ## The tide counter (R407, R408) -/

/-- The decay epochs that end within an advance: at most 8 (R407). -/
def epochsPassed (n : Nat) (s : State) : Nat :=
  min 8 ((s.time.tide.toNat + tideAdvance s n) / max 1 (param s 0x02 2) - s.time.tide.toNat / max 1 (param s 0x02 2))

/-- The state in which the tide counter goes on after `n` cycles of the slow crystal; the 1 ms windows of the log and of the event messages
have ended (R407, R408, log entry 88). -/
def tideAdvanced (n : Nat) (s : State) : State :=
  { s with
    time.tide := s.time.tide + BitVec.ofNat 64 (tideAdvance s n), time.stopped := false,
    time.cumNs := s.time.cumNs + tideBound s (tideAdvance s n),
    time.lastBound := BitVec.ofNat 32 (min (tideBound s (tideAdvance s n)) (2 ^ 32 - 1)),
    time.watchTicks := s.time.watchTicks + BitVec.ofNat 64 (tideAdvance s n / 16),
    time.modeTicks := smod 0 s.time.modeTicks 5 (· + BitVec.ofNat 64 (tideAdvance s n / 16)),
    tier.decayEpoch := s.tier.decayEpoch + BitVec.ofNat 8 (epochsPassed n s), log.rate := [], ev.sentWin := [] }

/-- The domains have slept over the advance, and the feed that woke AON returned in it. -/
def tideCounted (n : Nat) (s : State) : State :=
  (List.range 152).foldl (fun u d => modDom d (fun x => { x with asleepT := x.asleepT + BitVec.ofNat 64 (tideAdvance s n / 16) }) u)
    (feedReturn s.time.tide.toNat (tideAdvance s n / 16) (evAdd 0x9AF (epochsPassed n s) (tideAdvanced n s)))

theorem tideCounted_within (n : Nat) (s : State) :
    Within { aon := true, ev := true, noc := true, mgt := true, free := true } (tideAdvanced n s) (tideCounted n s) :=
  w_foldl ((feedReturn_within ..).to rfl ((evAdd_within ..).mono rfl)) fun _ _ h => (modDom_within ..).to rfl h

/-- Where the tide counter stood it goes on from the advance. -/
theorem tideResume_advances {s : State} (n : Nat) (stopped : s.time.stopped = true) (mode : s.aon.mode ≠ .watch)
    (crystal : s.time.slowFail = false) :
    ∃ t, exec (.tideResume n) s = .next t ∧ t.time.stopped = false ∧
      t.time.tide = s.time.tide + BitVec.ofNat 64 (n * s.time.slowPeriod.toNat / 1024 / 16 * 16) ∧
      t.time.lastBound = BitVec.ofNat 32 (min (tideBound s (n * s.time.slowPeriod.toNat / 1024 / 16 * 16)) (2 ^ 32 - 1)) ∧
      t.log.rate = [] := by
  have advance : tideAdvance s n = n * s.time.slowPeriod.toNat / 1024 / 16 * 16 := by simp [tideAdvance, crystal]
  have run : exec (.tideResume n) s = .next (tideCounted n s) := by
    show execTideResume n s = _
    rw [execTideResume, if_neg (by simp [stopped, mode])]
    rfl
  have kept := (tideCounted_within n s).same
  refine ⟨_, run, ?_⟩
  rw [keeps_time kept rfl rfl, keeps_log kept rfl, ← advance]
  exact ⟨rfl, rfl, rfl, rfl⟩

/-! ## The manifest (R199) -/

/-- With every SSD of the set up and no new ledger asked for, a consistent newest manifest is chosen. -/
theorem manifestChoice_takesNewest {s : State} {m : Manifest} (mode : s.aon.mode = .harnessing) (loaded : s.aon.loaded = true)
    (kept : param s 0x07 17 = 0) (up : ∀ i ∈ ssdIndices s, ssdUp s i = true) (best : newest (copies s) = some m)
    (sound : manifestFault s m = none) :
    exec .manifestChoice s = .next { s with led.manifest := some m, led.chosen := true, led.inconsistent := 0 } := by
  have missing : (ssdIndices s).find? (fun i => !ssdUp s i) = none := List.find?_eq_none.2 fun i hi => by simp [up i hi]
  have choice : execManifestChoice.choose s = { s with led.manifest := some m, led.chosen := true, led.inconsistent := 0 } := by
    rw [execManifestChoice.choose, best]
    dsimp only
    rw [sound]
  show execManifestChoice s = _
  rw [execManifestChoice, if_neg (by simp [mode, loaded]), if_neg (by simp [kept]), missing]
  exact congrArg Host.Outcome.next choice

/-! ## A frame is restored (R227) -/

/-- What the restore of pages leaves alone: the ledger but for the mirror, and the view but for the descriptors. -/
structure RestoreKept (s t : State) : Prop where
  led : ∃ m, t.led = { s.led with mirror := m }
  view : ∃ m, pageView t = { pageView s with desc := m }

theorem RestoreKept.refl (s : State) : RestoreKept s s := ⟨⟨s.led.mirror, rfl⟩, ⟨s.quay.desc, rfl⟩⟩

theorem RestoreKept.trans {r s t : State} (h : RestoreKept r s) (k : RestoreKept s t) : RestoreKept r t := by
  obtain ⟨⟨m, led⟩, ⟨d, view⟩⟩ := h
  obtain ⟨⟨n, led'⟩, ⟨e, view'⟩⟩ := k
  exact ⟨⟨n, by rw [led', led]⟩, ⟨e, by rw [view', view]⟩⟩

theorem RestoreKept.of_same {s t : State} (led : t.led = s.led) (view : pageView t = pageView s) : RestoreKept s t :=
  ⟨⟨s.led.mirror, led⟩, ⟨s.quay.desc, view⟩⟩

theorem RestoreKept.ssdUp {s t : State} (h : RestoreKept s t) (i : Nat) : ssdUp t i = ssdUp s i := by
  obtain ⟨⟨m, led⟩, -⟩ := h
  simp only [Machine.ssdUp, ssdOf, led]

theorem RestoreKept.mapSsd {s t : State} (h : RestoreKept s t) (block : Nat) : mapSsd t block = mapSsd s block := by
  obtain ⟨⟨m, led⟩, ⟨d, view⟩⟩ := h
  have cfg : t.cfg = s.cfg := (congrArg PageView.cfg view :)
  have fuse : t.fuse = s.fuse := (congrArg PageView.fuse view :)
  simp only [Machine.mapSsd, ledgerN, ssdIndices, recsOf, typedRecs, sectionRecs, led, cfg, fuse]

/-- What a page is restored to depends on neither the mirror nor the descriptors. -/
theorem RestoreKept.restoredDesc {s t : State} (h : RestoreKept s t) (page : Nat) : restoredDesc t page = restoredDesc s page := by
  have up := h.ssdUp
  have map := h.mapSsd
  obtain ⟨⟨m, led⟩, -⟩ := h
  simp only [Machine.restoredDesc, up, map, led]

theorem RestoreKept.quiet {s t : State} (h : RestoreKept s t) (quiet : Quiet s) : Quiet t := by
  obtain ⟨-, ⟨d, view⟩⟩ := h
  exact quiet_of_view view rfl rfl quiet

/-- A page is restored by one descriptor update, unless its descriptor stays 0. -/
theorem view_restorePage (s : State) (page : Nat) : pageView (restorePage s page) =
    if (restoredDesc s page).1 = 0 then pageView s else (pageView s).withDesc page (restoredDesc s page).1 := by
  unfold restorePage
  dsimp only
  split
  · rw [view_logIt]
    show pageView (if _ then s else setDesc page _ s) = _
    rw [apply_ite pageView, view_setDesc]
  · show pageView (if _ then s else setDesc page _ s) = _
    rw [apply_ite pageView, view_setDesc]

theorem led_restorePage (s : State) (page : Nat) : ∃ m, (restorePage s page).led = { s.led with mirror := m } := by
  have described (d : BitVec 128) : (if d = 0 then s else setDesc page d s).led = s.led := by
    split
    · rfl
    · exact within_led (setDesc_within ..) rfl
  unfold restorePage
  dsimp only
  split
  · rw [logIt_led]
    exact ⟨_, by rw [described]⟩
  · exact ⟨_, by rw [described]⟩

theorem restoreKept_restorePage (s : State) (page : Nat) : RestoreKept s (restorePage s page) := by
  refine ⟨led_restorePage s page, ?_⟩
  rw [view_restorePage]
  split
  · exact ⟨s.quay.desc, rfl⟩
  · exact ⟨_, rfl⟩

theorem descRaw_restorePage_other (s : State) {page q : Nat} (other : q ≠ page) : descRaw (restorePage s page) q = descRaw s q := by
  have desc := congrArg PageView.desc (view_restorePage s page)
  rw [descRaw, show (restorePage s page).quay.desc = _ from desc]
  split
  · rfl
  · exact sget_sset_other _ _ _ other

theorem descRaw_restorePage (s : State) (page : Nat) (kept : (restoredDesc s page).1 ≠ 0) :
    descRaw (restorePage s page) page = (restoredDesc s page).1 := by
  have view := view_restorePage s page
  rw [if_neg kept] at view
  exact descRaw_of_withDesc view

theorem restoreKept_pages (l : List Nat) (s : State) : RestoreKept s (l.foldl restorePage s) := by
  induction l generalizing s with
  | nil => exact .refl s
  | cons a l ih => exact (restoreKept_restorePage s a).trans (ih _)

/-- A page that has been restored stays so while others are. -/
theorem descRaw_pages_of_restored {page : Nat} (l : List Nat) {s : State} (kept : (restoredDesc s page).1 ≠ 0)
    (done : descRaw s page = (restoredDesc s page).1) : descRaw (l.foldl restorePage s) page = (restoredDesc s page).1 := by
  induction l generalizing s with
  | nil => exact done
  | cons a l ih =>
    have same := (restoreKept_restorePage s a).restoredDesc page
    rw [List.foldl_cons, ← same]
    refine ih (by rwa [same]) ?_
    rw [same]
    by_cases this : page = a
    · subst this
      exact descRaw_restorePage s page kept
    · rw [descRaw_restorePage_other s this, done]

theorem descRaw_pages {page : Nat} {l : List Nat} (s : State) (mem : page ∈ l) (kept : (restoredDesc s page).1 ≠ 0) :
    descRaw (l.foldl restorePage s) page = (restoredDesc s page).1 := by
  induction l generalizing s with
  | nil => cases mem
  | cons a l ih =>
    have same := (restoreKept_restorePage s a).restoredDesc page
    rw [List.foldl_cons, ← same]
    by_cases this : page = a
    · subst this
      exact descRaw_pages_of_restored l (by rwa [same]) (by rw [same]; exact descRaw_restorePage s page kept)
    · exact ih _ ((List.mem_cons.1 mem).resolve_left this) (by rwa [same])

/-- The read of a map block is counted. -/
def mapBlockRead (frame : Nat) (s : State) : State :=
  countXfer (mapSsd s frame) (restoreClass s) 4096
    (peEv s (mapSsd s frame) 0 1 (peEv s (mapSsd s frame) 4 1 (peEv s (mapSsd s frame) 14 1 s)))

/-- The pages of a frame. -/
def framePages (frame : Nat) (s : State) : List Nat := ((List.range 256).map (· + 256 * frame)).filter (· < numPages s)

theorem mem_framePages {frame page : Nat} {s : State} (low : 256 * frame ≤ page) (high : page < 256 * frame + 256)
    (inside : page < numPages s) : page ∈ framePages frame s :=
  List.mem_filter.2 ⟨List.mem_map.2 ⟨page - 256 * frame, List.mem_range.2 (by omega), by omega⟩, by simpa using inside⟩

theorem led_mapBlockRead (frame : Nat) (s : State) : (mapBlockRead frame s).led = s.led := by
  rw [mapBlockRead, within_led (countXfer_within ..) rfl, peEv_led, peEv_led, peEv_led]

theorem view_mapBlockRead (frame : Nat) (s : State) : pageView (mapBlockRead frame s) = pageView s := by
  rw [mapBlockRead, countXfer, view_countUse, peEv, view_evAdd, peEv, view_evAdd, peEv, view_evAdd]

/-- The pages of a frame are restored, and it counts as restored. -/
def framePagesRestored (frame : Nat) (s : State) : State :=
  { (framePages frame s).foldl restorePage s with
    led.restored := sset false ((framePages frame s).foldl restorePage s).led.restored frame true }

theorem restoreFrame_eq (frame : Nat) (s : State) : restoreFrame frame s = framePagesRestored frame (mapBlockRead frame s) := rfl

theorem framePages_mapBlockRead (frame : Nat) (s : State) : framePages frame (mapBlockRead frame s) = framePages frame s := by
  have pages : numPages (mapBlockRead frame s) = numPages s := by
    rw [numPages, numPages, capacity, capacity, param_of_view (view_mapBlockRead frame s)]
  rw [framePages, pages, framePages]

/-- What the restore of a frame leaves: the frame counts as restored, and its pages have what their map entries say. -/
structure FrameRestored (frame : Nat) (s t : State) : Prop where
  restored : t.led.restored = sset false s.led.restored frame true
  pos : t.led.restorePos = s.led.restorePos
  quiet : Quiet s → Quiet t
  pages : ∀ page, 256 * frame ≤ page → page < 256 * frame + 256 → page < numPages s → (restoredDesc s page).1 ≠ 0 →
    descRaw t page = (restoredDesc s page).1

theorem frameRestored_restoreFrame (frame : Nat) (s : State) : FrameRestored frame s (restoreFrame frame s) := by
  have read : RestoreKept s (mapBlockRead frame s) := .of_same (led_mapBlockRead frame s) (view_mapBlockRead frame s)
  have kept := read.trans (restoreKept_pages (framePages frame s) (mapBlockRead frame s))
  obtain ⟨m, led⟩ := kept.led
  rw [restoreFrame_eq, framePagesRestored, framePages_mapBlockRead]
  refine ⟨?_, ?_, fun quiet => kept.quiet quiet, fun page low high inside nonzero => ?_⟩
  · show sset false _ frame true = _
    rw [led]
  · show ((framePages frame s).foldl restorePage (mapBlockRead frame s)).led.restorePos = _
    rw [led]
  · have same := read.restoredDesc page
    rw [← same]
    exact descRaw_pages _ (mem_framePages low high inside) (by rwa [same])

/-- A pending frame is restored to what its map entries say. -/
theorem pendingFrame_restores {s : State} {f : Nat} (quiet : Quiet s) (pending : s.led.pending = true)
    (unrestored : sget false s.led.restored f = false) (inside : 256 * f < numPages s) :
    ∃ t, exec (.pendingFrameRestore f) s = .next t ∧ t.led.restored = sset false s.led.restored f true ∧
      ∀ page, 256 * f ≤ page → page < 256 * f + 256 → page < numPages s → (restoredDesc s page).1 ≠ 0 →
        descRaw t page = (restoredDesc s page).1 := by
  have frame := frameRestored_restoreFrame f s
  have run : exec (.pendingFrameRestore f) s = .next (settle (restoreFrame f s)) := by
    show execPendingFrameRestore f s = _
    rw [execPendingFrameRestore, if_neg (by simp [pending, unrestored, inside])]
  rw [settle_of_quiet (frame.quiet quiet)] at run
  exact ⟨_, run, frame.restored, frame.pages⟩

end Sys2Proof.Laws
end

section
/-! PROOFS. The restore in the background and the failure of the feeds in Recovery and in Harnessing (R225 to R230). -/

namespace Sys2Proof.Laws

open Sys2Proof Sys2Proof.Machine

/-! ## The first pass (R226, R228, R229) -/

/-- A replay leaves every frame pending (R226). -/
theorem ledgerReplay_leavesPending {s : State} (mode : s.aon.mode = .recovery) (chosen : s.led.chosen = true)
    (fresh : s.led.pending = false) (first : s.led.segTable = false) :
    ∃ t, exec .ledgerReplay s = .next t ∧ t.led.pending = true ∧ t.led.restored = [] ∧ t.led.restorePhase = 1 ∧
      t.led.restorePos = 0 ∧ t.aon.restoring = true := by
  refine ⟨_, if_neg ?_, rfl, rfl, rfl, rfl, rfl⟩
  simp [mode, chosen, fresh, first]

section
variable {s : State} (mode : s.aon.mode = .recovery)
include mode

/-- In Recovery the background restore goes by its phase. -/
theorem exec_backgroundRestorePage_frames (phase : s.led.restorePhase = 1) : exec .backgroundRestorePage s =
    if numPages s ≤ 256 * s.led.restorePos then .next { s with led.restorePhase := 2, led.restorePos := 0 }
    else .next (settle { (if sget false s.led.restored s.led.restorePos then s else restoreFrame s.led.restorePos s) with
      led.restorePos := s.led.restorePos + 1 }) := by
  show execBackgroundRestorePage s = _
  rw [execBackgroundRestorePage, if_neg (by simp [mode]), phase]
  rfl

/-- The next frame is restored, unless an access has restored it already. -/
theorem backgroundRestore_nextFrame (phase : s.led.restorePhase = 1) (more : 256 * s.led.restorePos < numPages s) (quiet : Quiet s) :
    ∃ t, exec .backgroundRestorePage s = .next t ∧ t.led.restorePos = s.led.restorePos + 1 ∧
      sget false t.led.restored s.led.restorePos = true ∧
      (sget false s.led.restored s.led.restorePos = false → ∀ page, 256 * s.led.restorePos ≤ page →
        page < 256 * s.led.restorePos + 256 → page < numPages s → (restoredDesc s page).1 ≠ 0 →
        descRaw t page = (restoredDesc s page).1) := by
  have frame := frameRestored_restoreFrame s.led.restorePos s
  have run := exec_backgroundRestorePage_frames mode phase
  rw [if_neg (Nat.not_le.2 more)] at run
  cases done : sget false s.led.restored s.led.restorePos
  case true =>
    have still : Quiet { s with led.restorePos := s.led.restorePos + 1 } := quiet
    rw [if_pos done, settle_of_quiet still] at run
    exact ⟨_, run, rfl, done, fun fresh => nomatch fresh⟩
  case false =>
    have still : Quiet { restoreFrame s.led.restorePos s with led.restorePos := s.led.restorePos + 1 } := frame.quiet quiet
    rw [if_neg (by simp [done]), settle_of_quiet still] at run
    refine ⟨_, run, rfl, ?_, fun _ => frame.pages⟩
    show sget false (restoreFrame s.led.restorePos s).led.restored _ = true
    rw [frame.restored, sget_sset_same]

/-- The last frame ends the first pass of the background restore. -/
theorem backgroundRestore_framesDone (phase : s.led.restorePhase = 1) (done : numPages s ≤ 256 * s.led.restorePos) :
    exec .backgroundRestorePage s = .next { s with led.restorePhase := 2, led.restorePos := 0 } := by
  rw [exec_backgroundRestorePage_frames mode phase, if_pos done]

/-! ## The hot list (R228) -/

/-- Above the watermark the pages of a category are read, category 3 in phase 2 and so on. -/
theorem exec_backgroundRestorePage_hot {cat : Nat} (category : cat = 5 - s.led.restorePhase) (from' : 2 ≤ s.led.restorePhase)
    (upto : s.led.restorePhase ≤ 4) (above : atWm s 8 = false) :
    exec .backgroundRestorePage s = .next (restoreHot cat s) := by
  have phases : s.led.restorePhase = 2 ∨ s.led.restorePhase = 3 ∨ s.led.restorePhase = 4 := by omega
  show execBackgroundRestorePage s = _
  rw [execBackgroundRestorePage, if_neg (by simp [mode]), category]
  rcases phases with phase | phase | phase <;> simp [phase, above]

/-- What a page of a category is read toward. -/
def restoreGoal (cat : Nat) (s : State) : Nat := if 2 ≤ cat && !atWm s 7 then 2 else 1

/-- The demand fault that reads a page of the hot list. -/
def restoreOp (cat p : Nat) (s : State) : PageOp :=
  { page := p, kind := .fault, cls := (roleWork s 3).cls, due := (roleWork s 3).due, restore := max 0 (restoreGoal cat s) }

/-- The page is being read, and the list goes on behind it. -/
def hotOpened (cat p : Nat) (s : State) : State :=
  { evQb (descBank s p) 18 (setOps (· ++ [restoreOp cat p s]) s) with led.restorePos := p + 1 }

/-- A Cold page of the hot list that no operation holds is read in RESTORE_CLASS. -/
theorem restoreHot_opens {v : State} {cat p : Nat} (next : nextHot s cat s.led.restorePos = some p) (fix : descFix p s = v)
    (cold : dState (descOf v p) = .cold) (free : opOf v p = none) (room : faultRoom v = true)
    (classRoom : capRoom v (restoreClass v) = true) : restoreHot cat s = hotOpened cat p v := by
  have runs : tierRuns v = true := by
    have same : v.aon.mode = s.aon.mode := fix ▸ within_mode (descFix_within p s) rfl
    simp [tierRuns, same, mode]
  have opened : openFault (roleWork v 3) p (fun o => { o with restore := max o.restore (restoreGoal cat v) }) v =
      evQb (descBank v p) 18 (setOps (· ++ [restoreOp cat p v]) v) := by
    rw [openFault, if_neg (by simp [runs]), free]
    exact if_pos room
  rw [restoreHot, next]
  dsimp only
  rw [fix, if_neg (by simp [cold]), if_neg (by simp [free, room, classRoom])]
  exact congrArg (fun u : State => { u with led.restorePos := p + 1 }) opened

end

theorem ops_hotOpened (cat p : Nat) (s : State) : (hotOpened cat p s).tier.ops = s.tier.ops ++ [restoreOp cat p s] := by
  show (evQb (descBank s p) 18 (setOps (· ++ [restoreOp cat p s]) s)).tier.ops = _
  rw [evQb_tier]
  rfl

theorem restoreOp_goal {cat p : Nat} {s : State} (high : 2 ≤ cat) (above : atWm s 7 = false) : (restoreOp cat p s).restore = 2 := by
  show max 0 (restoreGoal cat s) = 2
  rw [restoreGoal, if_pos (by simp [high, above])]
  rfl

/-- The live counts stand, and with them the segment table (R229). -/
def firstPassEnded (s : State) : State :=
  { s with led.segs := s.led.segs.map (fun e => (e.1, e.2.map (fun g => { g with live := liveOf s g }))), led.segTable := true,
           led.pending := false, led.overlay := [], led.restored := [] }

/-- The first pass ends: the segment table stands, and no frame is pending (R229). -/
theorem restoreFirstPassEnd_ends {s : State} (phase : 2 ≤ s.led.restorePhase) (first : s.led.segTable = false) (rest : LedgerRests s) :
    ∃ t, exec .restoreFirstPassEnd s = .next t ∧ t.led.segTable = true ∧ t.led.pending = false ∧ t.led.overlay = [] ∧
      t.quay.desc = s.quay.desc := by
  have rests : LedgerRests (firstPassEnded s) := rests_of_kept rest rfl rfl rfl
  have run : exec .restoreFirstPassEnd s = .next (settle (refreshPA (packQueued (firstPassEnded s)))) :=
    if_neg (by simp [first, Nat.not_lt.2 phase])
  rw [settle_packQueued_of_rests rests] at run
  refine ⟨_, run, ?_⟩
  rw [refreshPA_led, refreshPA_quay]
  exact ⟨rfl, rfl, rfl, rfl⟩

/-! ## Feeds that fail (R217, R230) -/

/-- With no tier operation and no transaction there is nothing to bring to rest. -/
theorem restTiers_of_idle {s : State} (quiet : Quiet s) (ops : s.tier.ops = []) : restTiers s = s := by
  have same : { s with tier := { s.tier with orphanWait := s.tier.orphanWait ++ [], ops := [] } } = s := by rw [List.append_nil, ← ops]
  unfold restTiers
  rw [quiet.1, ops]
  simp only [List.filter_nil, List.map_nil, List.flatMap_nil, List.foldl_nil, setOps, ops]
  rw [same, settle_of_quiet quiet]

/-- The state in which Holdup starts, before the rings, the bays and the ports follow. -/
def holdupNoted (code : BitVec 8) (s : State) : State :=
  let t := sendAll 0x71 (place 86 0 (1 : BitVec 4) ||| place 86 4 (changeMode code .holdup s).time.tide) (changeMode code .holdup s)
  { t with
    led.hStep := 1, led.grace := [], led.listPages := [], led.listSeq := 0, led.frags := [], led.allDone := false,
    led.feedBack := false, aon.drainToMaint := false, aon.drainClosing := false, aon.released := false,
    mgt.patchStat := t.mgt.patchStat &&& 0xFFFFFFFC }

theorem startHoldup_eq (code : BitVec 8) (s : State) : startHoldup code s = settle
    ((List.range (numPorts (warnBays false (restTiers (holdupRings (holdupNoted code s)))))).foldl releasePort
      (warnBays false (restTiers (holdupRings (holdupNoted code s))))) := rfl

theorem holdupNoted_within (code : BitVec 8) (s : State) :
    Within { aon := true, led := true, port := true, mgt := true } (changeMode code .holdup s) (holdupNoted code s) :=
  have sent := (sendAll_within 0x71 (place 86 0 (1 : BitVec 4) ||| place 86 4 (changeMode code .holdup s).time.tide)
    (changeMode code .holdup s)).mono (q := { aon := true, led := true, port := true, mgt := true }) rfl
  ⟨sent.same, sent.wf⟩

/-- The rings have come to rest, and the bays that are not of the ledger are warned. -/
def holdupStarted (code : BitVec 8) (s : State) : State := warnBays false (holdupRings (holdupNoted code s))

theorem holdupStarted_within (code : BitVec 8) (s : State) :
    Within { aon := true, led := true, port := true, mgt := true, rings := true, pin := true, ppd := true } (changeMode code .holdup s)
      (holdupStarted code s) :=
  (warnBays_within ..).to rfl ((holdupRings_within _).to rfl ((holdupNoted_within code s).mono rfl))

section
variable {code : BitVec 8} {s : State} (quiet : Quiet s) (ops : s.tier.ops = []) (hold : s.reins.hold = [])
include quiet ops hold

/-- With nothing waiting Holdup starts with what is noted, the rings and the warning of the bays. -/
theorem startHoldup_of_idle : startHoldup code s = holdupStarted code s := by
  have noted := (holdupRings_within (holdupNoted code s)).to (q := { aon := true, led := true, port := true, mgt := true, rings := true })
    rfl ((holdupNoted_within code s).mono rfl)
  have started := holdupStarted_within code s
  have changed := quiet_changeMode code .holdup quiet
  have tier : (changeMode code .holdup s).tier = s.tier := keeps_tier (changeMode_within ..).same rfl
  have changedHold : (changeMode code .holdup s).reins.hold = [] := by
    obtain ⟨b, e⟩ := changeMode_reins code .holdup s
    rw [e, hold]
  have idle : restTiers (holdupRings (holdupNoted code s)) = holdupRings (holdupNoted code s) :=
    restTiers_of_idle (quiet_of_kept changed (within_quay noted rfl) (by rw [within_reins noted rfl]))
      (by rw [keeps_tier noted.same rfl, tier, ops])
  rw [startHoldup_eq, idle, ← holdupStarted, releasePorts_of_holdEmpty _ (by rw [within_reins started rfl, changedHold]),
    settle_of_quiet (quiet_of_kept changed (within_quay started rfl) (by rw [within_reins started rfl]))]

/-- Holdup starts with step 1 of Table 7.10, from the mode that it leaves. -/
theorem startHoldup_enters {old : Mode} (mode : s.aon.mode = old) :
    Entered (startHoldup code s) old .holdup code ∧ (startHoldup code s).led.hStep = 1 := by
  rw [startHoldup_of_idle quiet ops hold]
  refine ⟨entered_of_within (holdupStarted_within code s) rfl (changeMode_entered code .holdup mode), ?_⟩
  rw [holdupStarted, within_led (warnBays_within ..) rfl]
  rfl

/-- Feeds that fail in Recovery lead to Holdup while DRAM is retained (Table 14.2, 0x09). -/
theorem feedsFail_toHoldup (feedless : anyFeed s = false) (mode : s.aon.mode = .recovery) (retained : s.aon.dramRetained = true) :
    ∃ t, exec .feedsFailInRecovery s = .next t ∧ Entered t .recovery .holdup 0x09 ∧ t.led.hStep = 1 := by
  refine ⟨startHoldup 0x09 s, ?_, startHoldup_enters quiet ops hold mode⟩
  show execFeedsFailInRecovery s = _
  rw [execFeedsFailInRecovery, if_neg (by simp [feedless]), if_pos (by simp [mode, retained])]

end

/-- Feeds that fail in Harnessing lead to Stall (Table 14.2, 0x0A). -/
theorem feedsFail_toStall {s : State} (feedless : anyFeed s = false) (mode : s.aon.mode = .harnessing)
    (lost : s.aon.dramRetained = false) (unwritten : s.aon.writeAccepted = false) :
    ∃ t, exec .feedsFailInRecovery s = .next t ∧ Entered t .harnessing .stall 0x0A := by
  have dark : (allRailsOff s).aon.mode = .harnessing := (within_mode (allRailsOff_within s) rfl).trans mode
  refine ⟨toStall 0x0A (allRailsOff s), ?_, toStall_entered 0x0A dark⟩
  show execFeedsFailInRecovery s = _
  rw [execFeedsFailInRecovery, if_neg (by simp [feedless]), if_neg (by simp [mode]), if_pos (by simp [mode, lost, unwritten])]

/-! ## The statement -/

/-- Settles O22: each step of the return by its lemma. -/
theorem outageIsRecovered : Obligations.OutageIsRecovered := by
  unfold Obligations.OutageIsRecovered
  refine ⟨?_, ?_, ?_, ?_, ?_, ?_, ?_, ?_, ?_, ?_⟩
  · exact fun s n stopped mode crystal => tideResume_advances n stopped mode crystal
  · exact fun s n mode runs slow fast => if_neg (by simp [mode, runs, slow, fast])
  · exact fun s m mode loaded kept up best sound => manifestChoice_takesNewest mode loaded kept up best sound
  · exact fun s mode chosen fresh first => ledgerReplay_leavesPending mode chosen fresh first
  · exact fun s f quiet pending unrestored inside => pendingFrame_restores quiet pending unrestored inside
  · exact fun s mode phase => ⟨backgroundRestore_framesDone mode phase, backgroundRestore_nextFrame mode phase⟩
  · intro s v cat p mode category from' upto above next fix cold free room classRoom
    refine ⟨_, restoreOp cat p v, exec_backgroundRestorePage_hot mode category from' upto above, ?_⟩
    rw [restoreHot_opens mode next fix cold free room classRoom]
    exact ⟨rfl, ops_hotOpened cat p v, rfl, rfl, rfl, restoreOp_goal⟩
  · exact fun s phase first rest => restoreFirstPassEnd_ends phase first rest
  · exact fun s feedless mode retained quiet ops hold => feedsFail_toHoldup quiet ops hold feedless mode retained
  · exact fun s feedless mode lost unwritten => feedsFail_toStall feedless mode lost unwritten

end Sys2Proof.Laws
end

section
/-! PROOFS. The logbook and the map blocks (R202, R206, R207): what their writes keep, the record of a segment whose writes complete, a map
block that goes to flash, and the hot list (R201). -/

namespace Sys2Proof.Laws

open Sys2Proof Sys2Proof.Machine

/-! ## What writes of the logbook and of map blocks keep -/

/-- A property that a map block's write and a change of the logbook keep: what room in a ring keeps (R206). -/
structure KeptByRing (P : State → Prop) : Prop where
  block : ∀ b t, P t → P (putMapBlock b t)
  logbook : ∀ l (t : State), P t → P { t with led.logbook := l }

/-- A property that the RSEQ and the horizon of the map do not concern either: what records of every kind keep (R206, R207). -/
structure KeptByLog (P : State → Prop) : Prop extends KeptByRing P where
  record : ∀ l n (t : State), P t → P { t with led.logbook := l, led.rseq := n }
  horizon : ∀ n m (t : State), P t → P { t with led.horizon := n, led.horizonLogged := m }

section
variable {P : State → Prop}

theorem KeptByRing.ringRoom (h : KeptByRing P) (ssd : Nat) {s : State} (p : P s) : P (ringRoom ssd s) := by
  have blocks (l : List Nat) : P (l.foldl (fun t b => if mapWritable t b then putMapBlock b t else t) s) := by
    induction l generalizing s with
    | nil => exact p
    | cons b l ih =>
      rw [List.foldl_cons]
      split
      · exact ih (h.block b s p)
      · exact ih p
  unfold Machine.ringRoom
  dsimp only
  split
  · exact p
  · split
    · exact h.logbook _ _ (blocks _)
    · exact h.logbook _ _ p

variable (h : KeptByLog P)
include h

theorem KeptByLog.addRecord (ssd : Nat) (ty : BitVec 8) (body : BitVec 512) {s : State} (p : P s) : P (addRecord ssd ty body s) :=
  h.record _ _ _ (h.ringRoom ssd p)

theorem KeptByLog.addRec (ty : BitVec 8) (body : BitVec 512) {s : State} (p : P s) : P (addRec ty body s) := by
  unfold Machine.addRec
  split
  · exact h.addRecord _ ty body p
  · exact p

theorem KeptByLog.mapFirst {s : State} (p : P s) : P (mapFirst s) := by
  unfold Machine.mapFirst
  dsimp only
  split
  · exact p
  · split
    · split
      · exact h.block _ s p
      · exact p
    · exact p

theorem KeptByLog.advanceHorizon {s : State} (p : P s) : P (advanceHorizon s) := by
  unfold Machine.advanceHorizon
  dsimp only
  split
  · exact h.addRec _ _ (h.horizon (BitVec.ofNat 64 (mapHorizon s)) (BitVec.ofNat 64 (mapHorizon s)) s p :)
  · exact h.horizon (BitVec.ofNat 64 (mapHorizon s)) s.led.horizonLogged s p

theorem KeptByLog.writeCommits {s : State} (p : P s) : P (writeCommits s) := by
  unfold Machine.writeCommits
  generalize s.led.segs = l
  induction l generalizing s with
  | nil => exact p
  | cons e l ih =>
    refine ih ?_
    dsimp only
    split
    · split
      · split
        · exact h.mapFirst p
        · exact h.addRecord _ _ _ (h.mapFirst p)
      · exact p
    · exact p

end

/-- The pages of a map block. -/
def blockPages (block : Nat) : List Nat := (List.range 256).map (· + 256 * block)

/-- Of the ledger the write of a map block changes what stands on flash, which blocks have changed, and the horizon. -/
theorem led_putMapBlock (block : Nat) (s : State) : ∃ h, (putMapBlock block s).led =
    { s.led with flashMap := (blockPages block).foldl (fun f p => sset 0 f p (sget 0 s.led.mirror p)) s.led.flashMap,
                 mapDirty := sset 0 s.led.mapDirty block 0, horizon := h } := by
  unfold putMapBlock
  dsimp only
  rw [within_led (nvmeWrite_within ..) rfl]
  exact ⟨_, rfl⟩

theorem rests_putMapBlock (block : Nat) {s : State} (rest : LedgerRests s) : LedgerRests (putMapBlock block s) := by
  obtain ⟨h, led⟩ := led_putMapBlock block s
  exact rests_of_kept rest (by rw [led]) (within_quay (putMapBlock_within block s) rfl) (putMapBlock_waits block s).waiters

theorem rests_keptByLog : KeptByLog LedgerRests where
  block b _ rest := rests_putMapBlock b rest
  logbook _ _ rest := rests_of_kept rest rfl rfl rfl
  record _ _ _ rest := rests_of_kept rest rfl rfl rfl
  horizon _ _ _ rest := rests_of_kept rest rfl rfl rfl

/-! ## A map block goes to flash (R202, R207) -/

/-- The block stands on flash as the mirror `m` has it, and has not changed since. -/
structure BlockStands (m : SMap (BitVec 128)) (block : Nat) (t : State) : Prop where
  mirror : t.led.mirror = m
  unchanged : sget 0 t.led.mapDirty block = 0
  flash : ∀ i, i < 256 → sget 0 t.led.flashMap (i + 256 * block) = sget 0 m (i + 256 * block)

theorem blockStands_putMapBlock (block : Nat) (s : State) : BlockStands s.led.mirror block (putMapBlock block s) := by
  obtain ⟨h, led⟩ := led_putMapBlock block s
  have mem {i : Nat} (small : i < 256) : i + 256 * block ∈ blockPages block := List.mem_map.2 ⟨i, List.mem_range.2 small, rfl⟩
  refine ⟨by rw [led], ?_, fun i small => ?_⟩
  · rw [led]
    dsimp only
    rw [sget_sset_same]
  · rw [led]
    dsimp only
    rw [sget_foldl_sset, if_pos (mem small)]

/-- It stands still after the write of another block, which comes from the same mirror. -/
theorem blockStands_keptByLog (m : SMap (BitVec 128)) (block : Nat) : KeptByLog (BlockStands m block) where
  block b t stands := by
    obtain ⟨mirror, unchanged, flash⟩ := stands
    obtain ⟨h, led⟩ := led_putMapBlock b t
    refine ⟨by rw [led]; exact mirror, ?_, fun i small => ?_⟩
    · rw [led]
      dsimp only
      rw [sget_sset, unchanged, ite_self]
    · rw [led]
      dsimp only
      rw [sget_foldl_sset, mirror, flash i small, ite_self]
  logbook _ _ stands := ⟨stands.mirror, stands.unchanged, stands.flash⟩
  record _ _ _ stands := ⟨stands.mirror, stands.unchanged, stands.flash⟩
  horizon _ _ _ stands := ⟨stands.mirror, stands.unchanged, stands.flash⟩

theorem mapBlockWriteback_writes {s : State} {block : Nat} (mode : s.aon.mode = .service) (rest : LedgerRests s)
    (writable : mapWritable s block = true) :
    ∃ t, exec (.mapBlockWriteback block) s = .next t ∧ sget 0 t.led.mapDirty block = 0 ∧
      ∀ i, i < 256 → sget 0 t.led.flashMap (i + 256 * block) = sget 0 s.led.mirror (i + 256 * block) := by
  have rests := rests_keptByLog.writeCommits (rests_keptByLog.advanceHorizon (rests_putMapBlock block rest))
  obtain ⟨-, unchanged, flash⟩ := (blockStands_keptByLog s.led.mirror block).writeCommits
    ((blockStands_keptByLog _ _).advanceHorizon (blockStands_putMapBlock block s))
  have run : exec (.mapBlockWriteback block) s =
      .next (settle (refreshPA (packQueued (writeCommits (advanceHorizon (putMapBlock block s)))))) := by
    show execMapBlockWriteback block s = _
    rw [execMapBlockWriteback, if_neg (by simp [mode, writable])]
  rw [settle_packQueued_of_rests rests] at run
  refine ⟨_, run, ?_⟩
  rw [refreshPA_led]
  exact ⟨unchanged, flash⟩

/-! ## Records (R206, Table 7.8) -/

theorem extractLsb'_place_beyond {w : Nat} (n : Nat) {lo a : Nat} (beyond : lo + w ≤ a) (k : Nat) (v : BitVec w) :
    (place n lo v).extractLsb' a k = 0 := by
  ext i small
  have past : w ≤ a + i - lo := by omega
  simp [place, BitVec.getLsbD_of_ge v _ past]

theorem mkRecord_eq (ty : BitVec 8) (body : BitVec 512) (rseq : BitVec 64) : ∃ crc : BitVec 64, mkRecord ty body rseq =
    place 512 0 ty ||| body ||| place 512 384 rseq ||| place 512 448 crc := by
  rw [show place 512 0 ty = ty.setWidth 512 from BitVec.shiftLeft_zero ..]
  exact ⟨crc64 (bytesOf (ty.setWidth 512 ||| body ||| place 512 384 rseq) 56), rfl⟩

/-- The fields of a record are those of its body between the type and RSEQ. -/
theorem recType_mkRecord (ty : BitVec 8) {body : BitVec 512} (rseq : BitVec 64) (clear : body.extractLsb' 0 8 = 0) :
    recType (mkRecord ty body rseq) = ty.toNat := by
  obtain ⟨crc, e⟩ := mkRecord_eq ty body rseq
  have field : (mkRecord ty body rseq).extractLsb' 0 8 = ty := by
    simp [e, BitVec.extractLsb'_or, extractLsb'_place_same, extractLsb'_place_above, clear]
  exact (fieldNat_eq_extractLsb' _ 7 0).trans (congrArg BitVec.toNat field)

theorem recSeq_mkRecord (ty : BitVec 8) (body : BitVec 512) (rseq : BitVec 64) :
    recSeq (mkRecord ty body rseq) = (body.extractLsb' 8 64).toNat := by
  obtain ⟨crc, e⟩ := mkRecord_eq ty body rseq
  have field : (mkRecord ty body rseq).extractLsb' 8 64 = body.extractLsb' 8 64 := by
    simp [e, BitVec.extractLsb'_or, extractLsb'_place_beyond, extractLsb'_place_below]
  exact (fieldNat_eq_extractLsb' _ 71 8).trans (congrArg BitVec.toNat field)

theorem recRseq_mkRecord (ty : BitVec 8) {body : BitVec 512} (rseq : BitVec 64) (clear : body.extractLsb' 384 64 = 0) :
    recRseq (mkRecord ty body rseq) = rseq.toNat := by
  obtain ⟨crc, e⟩ := mkRecord_eq ty body rseq
  have field : (mkRecord ty body rseq).extractLsb' 384 64 = rseq := by
    simp [e, BitVec.extractLsb'_or, extractLsb'_place_beyond, extractLsb'_place_below, extractLsb'_place_same, clear]
  exact (fieldNat_eq_extractLsb' _ 447 384).trans (congrArg BitVec.toNat field)

/-- The body of a SEG_COMMIT leaves the type and RSEQ clear and names the segment (Table 7.8). -/
theorem commitBody_fields (s : State) (seq : Nat) (g : Segment) : (commitBody s seq g).extractLsb' 0 8 = 0 ∧
    (commitBody s seq g).extractLsb' 8 64 = BitVec.ofNat 64 seq ∧ (commitBody s seq g).extractLsb' 384 64 = 0 := by
  refine ⟨?_, ?_, ?_⟩
  · simp [commitBody, BitVec.extractLsb'_or, extractLsb'_place_above]
  · simp [commitBody, BitVec.extractLsb'_or, extractLsb'_place_same, extractLsb'_place_below]
  · simp [commitBody, BitVec.extractLsb'_or, extractLsb'_place_beyond]

theorem commitRecord_fields (s : State) {seq : Nat} (small : seq < 2 ^ 64) (g : Segment) (rseq : BitVec 64) :
    recType (mkRecord 1 (commitBody s seq g) rseq) = 1 ∧ recSeq (mkRecord 1 (commitBody s seq g) rseq) = seq ∧
      recRseq (mkRecord 1 (commitBody s seq g) rseq) = rseq.toNat := by
  obtain ⟨type, names, above⟩ := commitBody_fields s seq g
  refine ⟨recType_mkRecord 1 rseq type, ?_, recRseq_mkRecord 1 rseq above⟩
  rw [recSeq_mkRecord, names, BitVec.toNat_ofNat, Nat.mod_eq_of_lt small]

/-! ## The writes of a segment complete (R207) -/

/-- The segment has been written, and its SEG_COMMIT may follow. -/
def writesDone (seq : Nat) (g : Segment) (s : State) : State :=
  let t := nvmeWrite g.ssd.toNat (ceilDiv (64 + 16 * g.entries.length) 4096 + ceilDiv (segUsed g) 64) (ledgerClass s) s
  { t with led.segs := sset none t.led.segs seq (some { g with written := true }) }

theorem writesDone_within (seq : Nat) (g : Segment) (s : State) :
    Within { ev := true, led := true, reins := true, mgt := true } s (writesDone seq g s) :=
  w_led ((nvmeWrite_within ..).mono rfl) rfl

theorem led_writesDone (seq : Nat) (g : Segment) (s : State) :
    (writesDone seq g s).led = { s.led with segs := sset none s.led.segs seq (some { g with written := true }) } := by
  have same := within_led (nvmeWrite_within g.ssd.toNat
    (ceilDiv (64 + 16 * g.entries.length) 4096 + ceilDiv (segUsed g) 64) (ledgerClass s) s) rfl
  rw [writesDone, same]

theorem exec_segmentWritesComplete {s : State} {seq : Nat} {g : Segment} (stands : sget none s.led.segs seq = some g)
    (unwritten : g.written = false) (uncommitted : g.committed = false) (entries : g.entries ≠ []) :
    exec (.segmentWritesComplete seq) s = .next (writeCommits (writesDone seq g s)) := by
  show execSegmentWritesComplete seq s = _
  rw [execSegmentWritesComplete, stands]
  exact if_neg (by simp [unwritten, uncommitted, entries])

/-- What the logbook leaves of the segments: which there are, and which pages wait for their writeback. -/
theorem segs_keptByLog (l : SMap (Option Segment)) (o : List Nat) : KeptByLog fun t => t.led.segs = l ∧ t.led.order = o where
  block b t kept := by
    obtain ⟨h, led⟩ := led_putMapBlock b t
    rw [led]
    exact kept
  logbook _ _ kept := kept
  record _ _ _ kept := kept
  horizon _ _ _ kept := kept

/-- A segment whose writes complete is marked written. -/
theorem segmentWritesComplete_marks {s : State} {seq : Nat} {g : Segment} (stands : sget none s.led.segs seq = some g)
    (unwritten : g.written = false) (uncommitted : g.committed = false) (entries : g.entries ≠ []) :
    ∃ t, exec (.segmentWritesComplete seq) s = .next t ∧ sget none t.led.segs seq = some { g with written := true } ∧
      t.led.order = s.led.order ∧ t.quay.desc = s.quay.desc := by
  have led := led_writesDone seq g s
  obtain ⟨segs, order⟩ := (segs_keptByLog _ _).writeCommits (s := writesDone seq g s)
    ⟨congrArg Ledger.segs led, congrArg Ledger.order led⟩
  have quay : (writeCommits (writesDone seq g s)).quay = s.quay :=
    within_quay ((writeCommits_within _).to rfl (writesDone_within seq g s)) rfl
  exact ⟨_, exec_segmentWritesComplete stands unwritten uncommitted entries, by rw [segs, sget_sset_same], order, by rw [quay]⟩

/-- With no changed map block the room in a ring comes from its own records. -/
theorem rseq_ringRoom (ssd : Nat) (s : State) : (ringRoom ssd s).led.rseq = s.led.rseq :=
  KeptByRing.ringRoom (P := fun t => t.led.rseq = s.led.rseq)
    ⟨fun b t kept => by
      obtain ⟨h, led⟩ := led_putMapBlock b t
      rw [led]
      exact kept, fun _ _ kept => kept⟩ ssd rfl

/-- A record that is added stands in the logbook. -/
theorem mem_logbook_addRecord (ssd : Nat) (ty : BitVec 8) (body : BitVec 512) (s : State) :
    (ssd, mkRecord ty body s.led.rseq) ∈ (addRecord ssd ty body s).led.logbook := by
  rw [← rseq_ringRoom ssd s]
  exact List.mem_append_right _ List.mem_cons_self

theorem mapFirst_of_unchanged {s : State} (none' : s.led.mapDirty = []) : mapFirst s = s := by simp [mapFirst, none']

section
variable {s : State} {seq : Nat} {g : Segment} (segs : s.led.segs = [(seq, some g)]) (written : g.written = true)
  (uncommitted : g.committed = false) (fresh : recorded s seq = false)
include segs uncommitted fresh

/-- A segment that waits for its record is not behind the map (R207). -/
theorem lagFull_of_fresh (lag : 0 < param s 0x07 12) : lagFull s = false := by
  have none' : ledgerLag s = 0 := by simp [ledgerLag, segs, uncommitted, fresh]
  simp [lagFull, none', Nat.ne_of_gt lag]

include written

/-- The SEG_COMMIT of the one segment that waits for it is written. -/
theorem writeCommits_of_single (mapDirty : s.led.mapDirty = []) (lag : 0 < param s 0x07 12) :
    writeCommits s = addRecord g.ssd.toNat 1 (commitBody s seq g) s := by
  simp [writeCommits, segs, written, uncommitted, fresh, mapFirst_of_unchanged mapDirty,
    lagFull_of_fresh segs uncommitted fresh lag]

end

/-- A segment whose writes complete has its SEG_COMMIT in the logbook. -/
theorem segmentWritesComplete_records {s : State} {seq : Nat} {g : Segment} (segs : s.led.segs = [(seq, some g)])
    (unwritten : g.written = false) (uncommitted : g.committed = false) (entries : g.entries ≠ []) (small : seq < 2 ^ 64)
    (mapDirty : s.led.mapDirty = []) (fresh : recorded s seq = false) (lag : 0 < param s 0x07 12) :
    ∃ t r, exec (.segmentWritesComplete seq) s = .next t ∧ (g.ssd.toNat, r) ∈ t.led.logbook ∧ recType r = 1 ∧ recSeq r = seq ∧
      recRseq r = s.led.rseq.toNat := by
  have led := led_writesDone seq g s
  have same := (writesDone_within seq g s).same
  have single : (writesDone seq g s).led.segs = [(seq, some { g with written := true })] := by
    rw [led, segs]
    simp [sset, sdel, sins]
  have freshStill : recorded (writesDone seq g s) seq = false := by
    rw [recorded, led]
    exact fresh
  have lagStill : 0 < param (writesDone seq g s) 0x07 12 := by
    rwa [param_of_kept (keeps_cfg same rfl) (keeps_fuse same rfl)]
  have run := exec_segmentWritesComplete (s := s) (seq := seq) (by simp [segs, sget]) unwritten uncommitted entries
  rw [writeCommits_of_single single rfl uncommitted freshStill (by rw [led]; exact mapDirty) lagStill] at run
  have fields := commitRecord_fields (writesDone seq g s) small { g with written := true } (writesDone seq g s).led.rseq
  rw [show (writesDone seq g s).led.rseq = s.led.rseq by rw [led]] at fields
  refine ⟨_, mkRecord 1 (commitBody (writesDone seq g s) seq { g with written := true }) s.led.rseq, run, ?_, fields⟩
  have mem := mem_logbook_addRecord g.ssd.toNat 1 (commitBody (writesDone seq g s) seq { g with written := true }) (writesDone seq g s)
  rwa [show (writesDone seq g s).led.rseq = s.led.rseq by rw [led]] at mem

/-! ## The hot list (R201) -/

/-- A page with no descriptor is in no category. -/
theorem hotCategory_of_unlisted {s : State} {page : Nat} (unlisted : descRaw s page = 0) : hotCategory s page = 0 := by
  have unbacked : dState (descOf s page) = .unbacked := by
    rw [descOf, unlisted]
    decide
  unfold hotCategory
  dsimp only
  rw [unbacked]

theorem sget_filter_key {α : Type} (d : α) (m : SMap α) (on : Nat → Bool) (k : Nat) :
    sget d (m.filter (fun e => on e.1)) k = if on k then sget d m k else d := by
  induction m with
  | nil => simp [sget]
  | cons e m ih =>
    obtain ⟨j, v⟩ := e
    by_cases this : j = k
    · subst this
      cases kept : on j <;> simp [sget, kept, ih]
    · cases kept : on j <;> simp [sget, kept, this, ih]

/-- What a run over the descriptors writes: the value of each page that is listed and meant. -/
theorem sget_foldl_meant {α β : Type} [DecidableEq α] (d : α) (f : Nat → α) (on : Nat → Bool) (l : SMap β)
    (m : SMap α) (k : Nat) :
    sget d (l.foldl (fun m e => if on e.1 then sset d m e.1 (f e.1) else m) m) k =
      if on k ∧ k ∈ l.map Prod.fst then f k else sget d m k := by
  induction l generalizing m with
  | nil => simp
  | cons e l ih =>
    rw [List.foldl_cons, ih, List.map_cons]
    by_cases this : k = e.1
    · subst this
      cases meant : on e.1 <;> simp
    · have other : sget d (if on e.1 then sset d m e.1 (f e.1) else m) k = sget d m k := by
        split
        · exact sget_sset_other d m _ this
        · rfl
      simp only [other, List.mem_cons, this, false_or]

theorem sget_of_unlisted {α : Type} (d : α) {m : SMap α} {k : Nat} (unlisted : k ∉ m.map Prod.fst) : sget d m k = d := by
  induction m with
  | nil => rfl
  | cons e m ih =>
    obtain ⟨j, v⟩ := e
    simp only [List.map_cons, List.mem_cons, not_or] at unlisted
    rw [sget, if_neg (Ne.symm unlisted.1), ih unlisted.2]

/-- A block that is rewritten holds the categories that its pages have now; one that is not stays. -/
theorem sget_hotList_writeHotList (on : Nat → Bool) (s : State) (page : Nat) : sget 0 (writeHotList on s).led.hotList page =
    if on (hotSsd s page) then hotCategory s page else sget 0 s.led.hotList page := by
  refine (sget_foldl_meant 0 (hotCategory s) (fun p => on (hotSsd s p)) s.quay.desc
    (s.led.hotList.filter (fun e => !on (hotSsd s e.1))) page).trans ?_
  rw [sget_filter_key 0 _ (fun p => !on (hotSsd s p))]
  cases meant : on (hotSsd s page)
  case false => simp
  case true =>
    by_cases listed : page ∈ s.quay.desc.map Prod.fst
    · simp [listed]
    · simp [listed, hotCategory_of_unlisted (sget_of_unlisted 0 listed)]

theorem hotListRewrite_rewrites {s : State} (mode : s.aon.mode = .service) :
    ∃ t, exec .hotListRewrite s = .next t ∧ ∀ page, sget 0 t.led.hotList page =
      (if ssdUp s (hotSsd s page) then hotCategory s page else sget 0 s.led.hotList page) := by
  refine ⟨writeHotList (ssdUp s) s, ?_, sget_hotList_writeHotList (ssdUp s) s⟩
  show execHotListRewrite s = _
  rw [execHotListRewrite, if_neg (by simp [mode])]

end Sys2Proof.Laws
end

section
/-! PROOFS. Segments of the ledger and the writeback of pages (R192, R193, R195, R203, R207, R209, R214). -/

namespace Sys2Proof.Laws

open Sys2Proof Sys2Proof.Machine

/-! ## One page in the queue (R195) -/

theorem queuePage_of_empty {s : State} (page : Nat) (queue : s.led.queue = []) : queuePage page s = { s with led.queue := [page] } := by
  simp [queuePage, queue]

section
variable {s : State} {page : Nat} (queue : s.led.queue = [page]) (dirty : dDirty (descOf s page) = true)
  (idle : inFlight s page = false)
include queue dirty idle

/-- A dirty page whose operation bars its read stays in the queue. -/
theorem packQueued_of_barred (bars : pageBars s page false = true) : packQueued s = s := by
  simp [packQueued, queue, dirty, idle, bars]

/-- A dirty page whose snapshot finds its place leaves the queue. -/
theorem packQueued_of_packed {u : State} (free : pageBars s page false = false) (packed : packPage page s = some u) :
    packQueued s = unqueued page u := by
  simp only [packQueued, queue, List.foldl_cons, List.foldl_nil, dirty, idle, free, packed, Bool.not_true, Bool.or_self,
    Bool.false_eq_true, if_false]
  rfl

end

section
variable {s : State} {page : Nat} (rest : LedgerRests s) (dirty : dDirty (descOf s page) = true) (idle : inFlight s page = false)
include rest dirty

theorem exec_wbAgeExpiry : exec (.wbAgeExpiry page) s = .next (settle (refreshPA (packQueued { s with led.queue := [page] }))) := by
  show execWbAgeExpiry page s = _
  rw [execWbAgeExpiry, if_neg (by simp [dirty]), queuePage_of_empty page rest.queue]

include idle

/-- A page that reaches WB_AGE is queued. -/
theorem wbAgeExpiry_queues (bars : pageBars s page false = true) :
    ∃ t, exec (.wbAgeExpiry page) s = .next t ∧ t.led.queue = [page] := by
  have run := exec_wbAgeExpiry rest dirty
  have quiet : Quiet { s with led.queue := [page] } := rest.quiet
  rw [packQueued_of_barred (s := { s with led.queue := [page] }) rfl dirty idle bars, settle_of_quiet (quiet_refreshPA quiet)] at run
  exact ⟨_, run, by rw [refreshPA_led]⟩

/-- It leaves the queue when its snapshot stands in a segment. -/
theorem wbAgeExpiry_packs {u : State} {g : List (BitVec 512)} (free : pageBars s page false = false) (inside : page < 2 ^ 33)
    (segs : s.led.segs = []) (warm : dState (descOf s page) = .warm) (read : readRun s page = some g)
    (unheld : ∀ q ∈ quayLines s page, q = none) (packed : packPage page (queuePage page s) = some u) (quiet : Quiet u) :
    ∃ t, exec (.wbAgeExpiry page) s = .next t ∧ t.led.queue = [] ∧ inFlight t page = true ∧ t.led.segs = u.led.segs ∧
      t.led.flash = u.led.flash := by
  have run := exec_wbAgeExpiry rest dirty
  rw [queuePage_of_empty page rest.queue] at packed
  have flies : Packed page { s with led.queue := [page] } u := by
    obtain waits | ⟨v, packs, flies⟩ := packPage_of_warm (s := { s with led.queue := [page] }) inside segs warm read unheld
    · exact nomatch packed.symm.trans waits
    · cases packed.symm.trans packs
      exact flies
  have still : Quiet (unqueued page u) := quiet
  rw [packQueued_of_packed (s := { s with led.queue := [page] }) rfl dirty idle free packed,
    settle_of_quiet (quiet_refreshPA still)] at run
  refine ⟨_, run, ?_⟩
  rw [refreshPA_led, inFlight, refreshPA_led]
  refine ⟨?_, flies.flight, rfl, rfl⟩
  have queue : u.led.queue = [page] := flies.kept.queue
  simp [unqueued, queue]

end

/-! ## Compaction (R193, R209) -/

section
variable {s : State}

theorem exec_flushBwProbe (n : Nat) (mode : s.aon.mode = .service) (idle : 600 ≤ s.led.idleSecs) :
    exec (.flushBwProbe n) s = .next (settle (refreshPA (recordBw (10 * n) (compactLedger s)))) := by
  show execFlushBwProbe n s = _
  rw [execFlushBwProbe, if_neg (by simp [mode, Nat.not_lt.2 idle])]

/-- What a probe records of the ledger that it has compacted: the figures of its window. -/
theorem led_recordBw (bytes : Nat) (s : State) : (recordBw bytes s).led.bwHist = (bytes :: s.led.bwHist).take 16 ∧
    (recordBw bytes s).led.idleSecs = 0 ∧ (recordBw bytes s).led.segs = s.led.segs := ⟨rfl, rfl, rfl⟩

/-- A probe whose compaction leaves the home alone ends with the figures of its window. -/
theorem flushBwProbe_records {u : State} (n : Nat) (mode : s.aon.mode = .service) (idle : 600 ≤ s.led.idleSecs) (quiet : Quiet s)
    (compacted : compactLedger s = u) (quay : u.quay = s.quay) (waiters : u.reins.waiters = s.reins.waiters) :
    exec (.flushBwProbe n) s = .next (refreshPA (recordBw (10 * n) u)) := by
  have still : Quiet (recordBw (10 * n) u) := quiet_of_kept quiet quay waiters
  rw [exec_flushBwProbe n mode idle, compacted, settle_of_quiet (quiet_refreshPA still)]

/-- With no segment there is nothing to compact. -/
theorem flushBwProbe_of_none (n : Nat) (mode : s.aon.mode = .service) (idle : 600 ≤ s.led.idleSecs) (quiet : Quiet s)
    (segs : s.led.segs = []) : ∃ t, exec (.flushBwProbe n) s = .next t ∧ t.led.bwHist = (10 * n :: s.led.bwHist).take 16 ∧
      t.led.idleSecs = 0 := by
  have compacted : compactLedger s = s := by simp [compactLedger, segs]
  refine ⟨_, flushBwProbe_records n mode idle quiet compacted rfl rfl, ?_⟩
  rw [refreshPA_led]
  exact ⟨rfl, rfl⟩

/-- A segment that is opened holds nothing yet, and the figures of the windows stay. -/
theorem openLedgerSegment_empty {t : State} {seq : Nat} (h : openLedgerSegment s = some (seq, t)) :
    (∃ g, sget none t.led.segs seq = some g ∧ g.entries = [] ∧ g.committed = false ∧ g.stale = []) ∧
      t.led.bwHist = s.led.bwHist := by
  obtain ⟨⟨i, k⟩, -, e⟩ := Option.map_eq_some_iff.1 h
  cases e
  exact ⟨⟨{ ssd := BitVec.ofNat 5 i, start := segBase s + 256 * k }, by simp, rfl, rfl, rfl⟩, by simp [deallocate]⟩

/-- With the one segment committed a new one is opened. -/
theorem segmentFor_of_committed {q : Nat} {g : Segment} (page n : Nat) (segs : s.led.segs = [(q, some g)])
    (committed : g.committed = true) : segmentFor page n s = openLedgerSegment s := by
  simp [segmentFor, segs, committed]

theorem committed_of_sparse {g : Segment} (sparse : segSparse s g = true) : g.committed = true := by
  simp only [segSparse, Bool.and_eq_true] at sparse
  obtain ⟨⟨committed, -⟩, -⟩ := sparse
  exact committed

theorem sumPage_lt (e : BitVec 128) : sumPage e < 2 ^ 33 := by
  rw [sumPage, fieldNat_eq_extractLsb']
  exact BitVec.isLt _

/-- A segment with the copy of a live image more: the copy changes no DIRTY (R209). -/
def withCopy (g : Segment) (page : Nat) (isSealed : Bool) (key : BitVec 20) (sizes : List Nat) (pin : Bool) : Segment :=
  { withImage g page isSealed key sizes pin with stale := g.stale ++ [page] }

theorem sget_appendImage_clean {seq : Nat} {g : Segment} (stands : sget none s.led.segs seq = some g) (page : Nat) (isSealed : Bool)
    (key : BitVec 20) (img : List Nat × List (BitVec 512)) (pin : Bool) :
    sget none (appendImage seq page isSealed key (some img) true pin s).led.segs seq =
      some (withCopy g page isSealed key img.1 pin) := by
  simp only [appendImage, stands]
  exact sget_sset_same ..

theorem bwHist_appendImage (seq page : Nat) (isSealed : Bool) (key : BitVec 20) (img : Option (List Nat × List (BitVec 512)))
    (clean pin : Bool) (s : State) : (appendImage seq page isSealed key img clean pin s).led.bwHist = s.led.bwHist := by
  unfold appendImage
  split
  · rfl
  · cases img <;> rfl

section
variable {q m : Nat} {g : Segment} {e : BitVec 128} {img data : List (BitVec 512)} {u : State}
  (segs : s.led.segs = [(q, some g)]) (sparse : segSparse s g = true) (entries : g.entries = [e])
  (live : entryLive s g e = true) (up : ssdUp s (ledSsd (dLedAddr (sget 0 s.led.mirror (sumPage e)))) = true)
  (image : entryImage s (sumPage e) (sget 0 s.led.mirror (sumPage e)) = some img)
  (room : segmentFor (sumPage e) (imageLen (sumSizes e)) s = some (m, u))
  (encoded : imageOf u (sumSealed e) (sumKey e) m (sumPage e) img = some data)
include segs sparse entries live up image room encoded

/-- The one live image of a sparse segment is copied. -/
theorem compactSegment_of_single : compactSegment q s =
    appendImage m (sumPage e) (sumSealed e) (sumKey e) (some (sumSizes e, data)) true (sumPin e) u := by
  simp only [compactSegment, segs, sget, if_true, sparse, entries, List.filter_cons_of_pos live, List.filter_nil, List.foldl_cons,
    List.foldl_nil, List.any_cons, List.any_nil, committed_of_sparse sparse, up, image, room, encoded, Bool.not_true, Bool.false_and,
    Bool.or_false, Bool.false_eq_true, if_false]

/-- A probe compacts the one sparse segment into a new one. -/
theorem flushBwProbe_compacts (n : Nat) (mode : s.aon.mode = .service) (idle : 600 ≤ s.led.idleSecs) (quiet : Quiet s)
    (table : s.led.segTable = true) :
    ∃ t h x, exec (.flushBwProbe n) s = .next t ∧ t.led.bwHist = (10 * n :: s.led.bwHist).take 16 ∧ t.led.idleSecs = 0 ∧
      sget none t.led.segs m = some h ∧ h.entries = [x] ∧ sumPage x = sumPage e ∧ h.stale = [sumPage e] ∧ h.committed = false := by
  have opened := (segmentFor_of_committed _ _ segs (committed_of_sparse sparse)).symm.trans room
  have opens := (openLedgerSegment_within s).imp _ _ opened
  obtain ⟨⟨h, stands, none', uncommitted, fresh⟩, hist⟩ := openLedgerSegment_empty opened
  have copies := appendImage_within m (sumPage e) (sumSealed e) (sumKey e) (some (sumSizes e, data)) true (sumPin e) u
  have compacted : compactLedger s =
      appendImage m (sumPage e) (sumSealed e) (sumKey e) (some (sumSizes e, data)) true (sumPin e) u := by
    rw [compactLedger, if_neg (by simp [table, mode]), segs]
    exact compactSegment_of_single segs sparse entries live up image room encoded
  have run := flushBwProbe_records n mode idle quiet compacted ((within_quay copies rfl).trans (within_quay opens rfl))
    (by rw [within_reins copies rfl, within_reins opens rfl])
  refine ⟨_, withCopy h (sumPage e) (sumSealed e) (sumKey e) (sumSizes e) (sumPin e),
    mkSum (sumPage e) false (sumSealed e) (sumKey e) (sumSizes e) (segUsed h) (sumPin e), run, ?_⟩
  obtain ⟨bw, secs, sameSegs⟩ := led_recordBw (10 * n)
    (appendImage m (sumPage e) (sumSealed e) (sumKey e) (some (sumSizes e, data)) true (sumPin e) u)
  rw [refreshPA_led, bw, secs, sameSegs, bwHist_appendImage, hist]
  refine ⟨rfl, rfl, sget_appendImage_clean stands .., ?_, sumPage_mkSum (sumPage_lt e) .., ?_, uncommitted⟩
  · simp [withCopy, withImage, none']
  · simp [withCopy, fresh]

end

end

end Sys2Proof.Laws
end

section
/-! PROOFS. Segments that commit and segments that fail (R34, R202, R207, R214), and the statement of the writeback of pages. -/

namespace Sys2Proof.Laws

open Sys2Proof Sys2Proof.Machine

/-! ## A segment that fails (R34, R214) -/

/-- The segment is given up. -/
def segmentLost (seq : Nat) (s : State) : State := { s with led.segs := sset none s.led.segs seq none }

/-- What becomes of a page whose snapshot was in a segment that is given up. -/
def requeueEntry (s : State) (e : BitVec 128) : State :=
  let t := if (opOf s (sumPage e)).any (fun o => o.kind = .rekey) then finishOp (sumPage e) s else s
  if dDirty (descOf t (sumPage e)) then queuePage (sumPage e) t else t

theorem requeueEntry_of_clean {s : State} {e : BitVec 128} (clean : dDirty (descOf s (sumPage e)) = false)
    (free : opOf s (sumPage e) = none) : requeueEntry s e = s := by
  simp [requeueEntry, clean, free]

theorem requeueEntry_of_dirty {s : State} {e : BitVec 128} (dirty : dDirty (descOf s (sumPage e)) = true)
    (other : ∀ o, opOf s (sumPage e) = some o → o.kind ≠ .rekey) : requeueEntry s e = queuePage (sumPage e) s := by
  have kept : (opOf s (sumPage e)).any (fun o => o.kind = .rekey) = false := by
    cases op : opOf s (sumPage e) with
    | none => rfl
    | some o => simp [other o op]
  simp [requeueEntry, kept, dirty]

/-- What changes nothing entry by entry changes nothing. -/
theorem foldl_of_fixed {α β : Type} {f : β → α → β} {b : β} : ∀ {l : List α}, (∀ a ∈ l, f b a = b) → l.foldl f b = b
  | [], _ => rfl
  | a :: l, fixed => by
    rw [List.foldl_cons, fixed a List.mem_cons_self]
    exact foldl_of_fixed fun c mem => fixed c (List.mem_cons_of_mem a mem)

section
variable {s : State} {seq : Nat} {g : Segment} (rest : LedgerRests s) (stands : sget none s.led.segs seq = some g)
  (uncommitted : g.committed = false)

/-- The failure is counted at the root port of the SSD. -/
def failureCounted (g : Segment) (s : State) : State := peEv s g.ssd.toNat 6 1 s

include stands uncommitted

theorem exec_nvmeWriteFailed : exec (.nvmeWriteFailed seq) s =
    .next (settle (refreshPA (packQueued (g.entries.foldl requeueEntry (segmentLost seq (failureCounted g s)))))) := by
  have still : sget none (failureCounted g s).led.segs seq = some g := by rw [failureCounted, peEv_led, stands]
  have fails : failSegment seq (failureCounted g s) = g.entries.foldl requeueEntry (segmentLost seq (failureCounted g s)) := by
    rw [failSegment, still]
    exact if_neg (by simp [uncommitted])
  show execNvmeWriteFailed seq s = _
  rw [execNvmeWriteFailed, stands, ← fails]
  exact if_neg (by simp [uncommitted])

omit stands uncommitted in
theorem descOf_segmentLost (page : Nat) : descOf (segmentLost seq (failureCounted g s)) page = descOf s page :=
  descOf_of_view (s := s) (view_evAdd ..) page

omit stands uncommitted in
theorem opOf_segmentLost (page : Nat) : opOf (segmentLost seq (failureCounted g s)) page = opOf s page := by
  have ops : (failureCounted g s).tier.ops = s.tier.ops := ops_of_view (view_evAdd ..)
  show (failureCounted g s).tier.ops.find? (fun o => o.page = page) = _
  rw [ops, opOf]

omit stands uncommitted in
theorem segs_segmentLost : (segmentLost seq (failureCounted g s)).led.segs = sset none s.led.segs seq none := by
  show sset none (failureCounted g s).led.segs seq none = _
  rw [failureCounted, peEv_led]

include rest

omit stands uncommitted in
theorem rests_segmentLost : LedgerRests (segmentLost seq (failureCounted g s)) :=
  rests_of_kept (rests_peEv s g.ssd.toNat 6 1 rest) rfl rfl rfl

/-- A segment whose pages are clean is only given up. -/
theorem nvmeWriteFailed_givesUp (clean : ∀ e ∈ g.entries, dDirty (descOf s (sumPage e)) = false ∧ opOf s (sumPage e) = none) :
    ∃ t, exec (.nvmeWriteFailed seq) s = .next t ∧ t.led.segs = sset none s.led.segs seq none ∧ t.led.queue = [] := by
  have rests : LedgerRests (segmentLost seq (failureCounted g s)) := rests_segmentLost rest
  have fixed : g.entries.foldl requeueEntry (segmentLost seq (failureCounted g s)) = segmentLost seq (failureCounted g s) :=
    foldl_of_fixed fun e mem => requeueEntry_of_clean (by rw [descOf_segmentLost, (clean e mem).1])
      (by rw [opOf_segmentLost, (clean e mem).2])
  have run := exec_nvmeWriteFailed stands uncommitted
  rw [fixed, settle_packQueued_of_rests rests] at run
  refine ⟨_, run, ?_⟩
  rw [refreshPA_led]
  exact ⟨segs_segmentLost, rests.queue⟩

omit stands in
/-- A page that is dirty still is queued again, and waits while its operation bars its read. -/
theorem nvmeWriteFailed_requeues {e : BitVec 128} (entries : g.entries = [e]) (segs : s.led.segs = [(seq, some g)])
    (dirty : dDirty (descOf s (sumPage e)) = true) (bars : pageBars s (sumPage e) false = true)
    (other : ∀ o, opOf s (sumPage e) = some o → o.kind ≠ .rekey) :
    ∃ t, exec (.nvmeWriteFailed seq) s = .next t ∧ t.led.segs = [] ∧ t.led.queue = [sumPage e] := by
  have rests : LedgerRests (segmentLost seq (failureCounted g s)) := rests_segmentLost rest
  have none' : (segmentLost seq (failureCounted g s)).led.segs = [] := by
    rw [segs_segmentLost, segs]
    simp [sset, sdel]
  have dirtyStill : dDirty (descOf (segmentLost seq (failureCounted g s)) (sumPage e)) = true := by rw [descOf_segmentLost, dirty]
  have barsStill : pageBars (segmentLost seq (failureCounted g s)) (sumPage e) false = true := by
    rw [pageBars, opOf_segmentLost]
    exact bars
  have run := exec_nvmeWriteFailed (s := s) (seq := seq) (by simp [segs, sget]) uncommitted
  rw [entries, List.foldl_cons, List.foldl_nil, requeueEntry_of_dirty dirtyStill (by rw [opOf_segmentLost]; exact other),
    queuePage_of_empty _ rests.queue] at run
  generalize segmentLost seq (failureCounted g s) = u at run rests none' dirtyStill barsStill
  have quiet : Quiet { u with led.queue := [sumPage e] } := rests.quiet
  rw [packQueued_of_barred (s := { u with led.queue := [sumPage e] }) rfl dirtyStill (by simp [inFlight, none']) barsStill,
    settle_of_quiet (quiet_refreshPA quiet)] at run
  refine ⟨_, run, ?_⟩
  rw [refreshPA_led]
  exact ⟨none', rfl⟩

end

/-! ## A segment that commits (R202, R207) -/

/-- The one segment has committed. -/
def OneCommitted (seq : Nat) (s : State) : Prop := ∃ g, s.led.segs = [(seq, some g)] ∧ g.committed = true

theorem OneCommitted.sget {seq : Nat} {s : State} (one : OneCommitted seq s) :
    ∃ g, sget none s.led.segs seq = some g ∧ g.committed = true := by
  obtain ⟨g, segs, committed⟩ := one
  exact ⟨g, by simp [segs, Machine.sget], committed⟩

/-- Live counts change no more than the live counts. -/
theorem led_addLive {seq : Nat} (a n : Nat) (up : Bool) {s : State} (one : OneCommitted seq s) :
    ∃ l, (addLive a n up s).led = { s.led with segs := l } ∧ OneCommitted seq (addLive a n up s) := by
  obtain ⟨g, segs, committed⟩ := one
  unfold addLive
  split
  · next q h at' =>
    have named : q = seq ∧ h = g := by
      simp only [segAt, segs, List.findSome?_cons, List.findSome?_nil] at at'
      split at at'
      · next found =>
        split at found <;> cases found
        cases at'
        exact ⟨rfl, rfl⟩
      · cases at'
    obtain ⟨rfl, rfl⟩ := named
    refine ⟨_, rfl, { h with live := if up then h.live + n else h.live - n }, ?_, committed⟩
    simp [segs, sset, sdel, sins]
  · exact ⟨s.led.segs, rfl, g, segs, committed⟩

/-- The image that the mirror named before counts as live no more. -/
def oldUncounted (e : BitVec 128) (s : State) : State :=
  if mirrorLen (sget 0 s.led.mirror (sumPage e)) = 0 then s
  else addLive (dLedAddr (sget 0 s.led.mirror (sumPage e))) (mirrorLen (sget 0 s.led.mirror (sumPage e))) false s

/-- The map entry that the summary entry makes. -/
def newEntry (g : Segment) (e : BitVec 128) (s : State) : BitVec 128 := mapEntry g e (dPin (descOf (oldUncounted e s) (sumPage e)))

/-- The mirror, the changed blocks and the live counts follow the summary entry. -/
def entryMapped (seq : Nat) (g : Segment) (e : BitVec 128) (s : State) : State :=
  addLive (ledBlock g.ssd.toNat g.start) (mirrorLen (newEntry g e s)) true
    (setMirror (sumPage e) seq (newEntry g e s) (oldUncounted e s))

/-- What the commit of an entry changes of the ledger leaves the queue, the table and the order of the dirty pages. -/
structure CommitKept (seq : Nat) (s t : State) : Prop where
  one : OneCommitted seq t
  queue : t.led.queue = s.led.queue
  order : t.led.order = s.led.order
  table : t.led.segTable = s.led.segTable
  within : Within { led := true } s t

theorem CommitKept.trans {seq : Nat} {r s t : State} (h : CommitKept seq r s) (k : CommitKept seq s t) : CommitKept seq r t :=
  ⟨k.one, k.queue.trans h.queue, k.order.trans h.order, k.table.trans h.table, h.within.trans k.within⟩

theorem commitKept_addLive {seq : Nat} (a n : Nat) (up : Bool) {s : State} (one : OneCommitted seq s) :
    CommitKept seq s (addLive a n up s) := by
  obtain ⟨l, led, still⟩ := led_addLive a n up one
  exact ⟨still, by rw [led], by rw [led], by rw [led], addLive_within a n up s⟩

theorem led_setMirror (page q : Nat) (e : BitVec 128) (s : State) : ∃ m d, (setMirror page q e s).led =
    { s.led with mirror := m, mapDirty := d } := by
  unfold setMirror mapChanged
  dsimp only
  split <;> exact ⟨_, _, rfl⟩

theorem commitKept_setMirror {seq : Nat} (page q : Nat) (e : BitVec 128) {s : State} (one : OneCommitted seq s) :
    CommitKept seq s (setMirror page q e s) := by
  obtain ⟨m, d, led⟩ := led_setMirror page q e s
  obtain ⟨g, segs, committed⟩ := one
  exact ⟨⟨g, by rw [led]; exact segs, committed⟩, by rw [led], by rw [led], by rw [led], setMirror_within page q e s⟩

theorem commitKept_oldUncounted {seq : Nat} (e : BitVec 128) {s : State} (one : OneCommitted seq s) :
    CommitKept seq s (oldUncounted e s) := by
  unfold oldUncounted
  split
  · exact ⟨one, rfl, rfl, rfl, .refl ..⟩
  · exact commitKept_addLive _ _ false one

theorem commitKept_entryMapped {seq : Nat} (g : Segment) (e : BitVec 128) {s : State} (one : OneCommitted seq s) :
    CommitKept seq s (entryMapped seq g e s) := by
  have first := commitKept_oldUncounted e one
  have second := first.trans (commitKept_setMirror (sumPage e) seq (newEntry g e s) first.one)
  exact second.trans (commitKept_addLive _ _ true second.one)

/-- The page waits for no writeback any more. -/
def pageClean (page : Nat) (s : State) : State :=
  { s with led.order := s.led.order.filter (· ≠ page), led.grace := s.led.grace.filter (· ≠ page),
           led.queue := s.led.queue.filter (· ≠ page) }

/-- The descriptor of a page in DRAM whose snapshot has committed: clean, with an image in the ledger. -/
def cleanDesc (d : BitVec 128) : BitVec 128 := dFlag (dFlag d 24 false) 25 true

theorem cleanDesc_flags (d : BitVec 128) : dDirty (cleanDesc d) = false ∧ dLedger (cleanDesc d) = true := by
  constructor
  · rw [dDirty, cleanDesc, dFlag, getLsbD_setField _ _ _ _ (by decide), if_neg (by decide), dFlag,
      getLsbD_setField _ _ _ _ (by decide), if_pos (by decide)]
    rfl
  · rw [dLedger, cleanDesc, dFlag, getLsbD_setField _ _ _ _ (by decide), if_pos (by decide)]
    rfl

/-- The commit of the entry of a Warm page cleans its descriptor. -/
theorem commitEntry_of_warm {seq : Nat} {g : Segment} {e : BitVec 128} {s : State} (one : OneCommitted seq s) (stale : g.stale = [])
    (warm : dState (descRaw s (sumPage e)) = .warm) : commitEntry seq g e s =
      setDesc (sumPage e) (cleanDesc (descRaw s (sumPage e))) (pageClean (sumPage e) (entryMapped seq g e s)) := by
  have quay := within_quay (commitKept_entryMapped g e one).within rfl
  have same : descRaw (entryMapped seq g e s) (sumPage e) = descRaw s (sumPage e) := by rw [descRaw, quay, descRaw]
  have fresh : (!g.stale.contains (sumPage e)) = true := by simp [stale]
  have newest : newerCommitted s seq (sumPage e) = false := by
    obtain ⟨h, segs, -⟩ := one
    simp [newerCommitted, segs]
  rw [← same] at warm ⊢
  unfold commitEntry
  dsimp only
  rw [if_neg (by simp [newest]), ← oldUncounted, ← newEntry, ← entryMapped]
  generalize entryMapped seq g e s = v at warm ⊢
  rw [if_neg (by simp [warm]), if_neg (by simp [warm]), if_pos fresh, fresh, Bool.not_true, Bool.and_false]
  rfl

theorem view_pageClean (page : Nat) (s : State) : pageView (pageClean page s) = pageView s := rfl
theorem oneCommitted_pageClean {seq : Nat} (page : Nat) {s : State} (one : OneCommitted seq s) : OneCommitted seq (pageClean page s) := one
theorem table_pageClean (page : Nat) (s : State) : (pageClean page s).led.segTable = s.led.segTable := rfl
theorem queue_pageClean (page : Nat) {s : State} (queue : s.led.queue = []) : (pageClean page s).led.queue = [] := by
  simp [pageClean, queue]
theorem not_mem_order_pageClean (page : Nat) (s : State) : page ∉ (pageClean page s).led.order := by simp [pageClean]

/-- What stands once an entry has been taken: the segment is committed, the page is in neither order nor queue. -/
structure EntryStands (seq page : Nat) (s t : State) : Prop where
  one : OneCommitted seq t
  table : t.led.segTable = s.led.segTable
  order : page ∉ t.led.order
  queue : s.led.queue = [] → t.led.queue = []

theorem EntryStands.of_led {seq page : Nat} {s t u : State} (h : EntryStands seq page s t) (led : u.led = t.led) :
    EntryStands seq page s u := by
  obtain ⟨⟨g, segs, committed⟩, table, order, queue⟩ := h
  exact ⟨⟨g, by rw [led, segs], committed⟩, by rw [led, table], by rwa [led], by rwa [led]⟩

/-- A barrier that no longer waits for a page concerns nothing of this. -/
theorem EntryStands.barrierPage {seq page : Nat} {s t : State} (h : EntryStands seq page s t) (p : Nat) :
    EntryStands seq page s (barrierPage p t) := ⟨h.one, h.table, h.order, h.queue⟩

/-- A segment is marked committed, and its bytes count for the window. -/
def markCommitted (seq : Nat) (g : Segment) (s : State) : State :=
  { s with led.segs := sset none s.led.segs seq (some { g with committed := true }), led.winBytes := s.led.winBytes + g.bytes }

theorem oneCommitted_markCommitted {s : State} {seq : Nat} {g : Segment} (segs : s.led.segs = [(seq, some g)]) :
    OneCommitted seq (markCommitted seq g s) := by
  refine ⟨{ g with committed := true }, ?_, rfl⟩
  simp [markCommitted, segs, sset, sdel, sins]

theorem view_markCommitted (seq : Nat) (g : Segment) (s : State) : pageView (markCommitted seq g s) = pageView s := rfl
theorem queue_markCommitted (seq : Nat) (g : Segment) (s : State) : (markCommitted seq g s).led.queue = s.led.queue := rfl
theorem table_markCommitted (seq : Nat) (g : Segment) (s : State) : (markCommitted seq g s).led.segTable = s.led.segTable := rfl

/-- The writes of a commit to the SSD are counted. -/
def commitWritten (g : Segment) (s : State) : State := nvmeWrite g.ssd.toNat 1 (ledgerClass s) (peEv s g.ssd.toNat 9 1 s)

theorem led_commitWritten (g : Segment) (s : State) : (commitWritten g s).led = s.led :=
  (within_led (nvmeWrite_within ..) rfl).trans (peEv_led ..)
theorem view_commitWritten (g : Segment) (s : State) : pageView (commitWritten g s) = pageView s :=
  (view_of_within (nvmeWrite_within ..) rfl (nvmeWrite_waits ..).waiters).trans (view_evAdd ..)

/-- The segment has committed: its writes are counted, and it is marked. -/
def commitCounted (seq : Nat) (g : Segment) (s : State) : State := markCommitted seq g (commitWritten g s)

theorem view_commitCounted (seq : Nat) (g : Segment) (s : State) : pageView (commitCounted seq g s) = pageView s :=
  (view_markCommitted ..).trans (view_commitWritten g s)

section
variable {s : State} {seq : Nat} {g : Segment} {e : BitVec 128} (segs : s.led.segs = [(seq, some g)])
include segs

theorem oneCommitted_commitCounted : OneCommitted seq (commitCounted seq g s) :=
  oneCommitted_markCommitted ((congrArg Ledger.segs (led_commitWritten g s)).trans segs)

/-- The entry has been mapped, and its page waits for no writeback. -/
def entryTaken (seq : Nat) (g : Segment) (e : BitVec 128) (s : State) : State :=
  pageClean (sumPage e) (entryMapped seq g e (commitCounted seq g s))

theorem entryStands_entryTaken : EntryStands seq (sumPage e) s (entryTaken seq g e s) := by
  have kept := commitKept_entryMapped g e (oneCommitted_commitCounted segs)
  have table : (commitCounted seq g s).led.segTable = s.led.segTable := by
    rw [commitCounted, table_markCommitted, led_commitWritten]
  have queue : (commitCounted seq g s).led.queue = s.led.queue := by
    rw [commitCounted, queue_markCommitted, led_commitWritten]
  refine ⟨oneCommitted_pageClean _ kept.one, ?_, not_mem_order_pageClean _ _, fun rests => queue_pageClean _ ?_⟩
  · rw [entryTaken, table_pageClean, kept.table, table]
  · rw [kept.queue, queue, rests]

theorem view_entryTaken : pageView (entryTaken seq g e s) = pageView s := by
  have mapped := (commitKept_entryMapped g e (oneCommitted_commitCounted segs)).within
  rw [entryTaken, view_pageClean, view_of_within mapped rfl (by rw [within_reins mapped rfl]), view_commitCounted]

variable (stale : g.stale = []) (warm : dState (descRaw s (sumPage e)) = .warm)
include stale warm

theorem commitEntry_commitCounted : commitEntry seq g e (commitCounted seq g s) =
    setDesc (sumPage e) (cleanDesc (descRaw s (sumPage e))) (entryTaken seq g e s) := by
  have desc : descRaw (commitCounted seq g s) (sumPage e) = descRaw s (sumPage e) := by
    rw [descRaw, desc_of_view (view_commitCounted seq g s), descRaw]
  rw [commitEntry_of_warm (oneCommitted_commitCounted segs) stale (by rw [desc, warm]), desc, entryTaken]

/-- Of the view the commit of an entry changes the descriptor of its page. -/
theorem view_commitEntry : pageView (commitEntry seq g e (commitCounted seq g s)) =
    (pageView s).withDesc (sumPage e) (cleanDesc (descRaw s (sumPage e))) := by
  rw [commitEntry_commitCounted segs stale warm, view_setDesc, view_entryTaken segs]

theorem led_commitEntry : (commitEntry seq g e (commitCounted seq g s)).led = (entryTaken seq g e s).led := by
  rw [commitEntry_commitCounted segs stale warm, within_led (setDesc_within ..) rfl]

end

theorem view_barrierPage (page : Nat) (s : State) : pageView (barrierPage page s) = pageView s := rfl

/-- The state in which the one entry of the segment has been committed. -/
def entryCommitted (seq : Nat) (g : Segment) (e : BitVec 128) (s : State) : State :=
  barrierPage (sumPage e) (commitEntry seq g e (commitCounted seq g s))

theorem descRaw_refreshPA (s : State) (page : Nat) : descRaw (refreshPA s) page = descRaw s page := by
  rw [descRaw, refreshPA_quay, descRaw]

/-- A written segment whose record stands commits its entries one by one. -/
theorem execSegCommit_of_stands {s : State} {seq : Nat} {g : Segment} (stands : sget none s.led.segs seq = some g)
    (written : g.written = true) (uncommitted : g.committed = false) (known : recorded s seq = true) :
    execSegCommit seq s = .next (settle (refreshPA (packQueued (compactLedger
      (g.entries.foldl (fun t e => if g.stale.contains (sumPage e) then endColdRekey (sumPage e) t
        else barrierPage (sumPage e) (endColdRekey (sumPage e) t))
        (g.entries.foldl (fun t e => commitEntry seq g e t) (commitCounted seq g s))))))) := by
  rw [execSegCommit, stands]
  dsimp only
  rw [if_neg (by simp [written, uncommitted, known]), ← commitWritten, ← markCommitted, ← commitCounted]

section
variable {s : State} {seq : Nat} {g : Segment} {e : BitVec 128} (segs : s.led.segs = [(seq, some g)]) (stale : g.stale = [])
  (warm : dState (descRaw s (sumPage e)) = .warm) (rest : LedgerRests s) (table : s.led.segTable = false)
include segs stale warm

theorem view_entryCommitted : pageView (entryCommitted seq g e s) =
    (pageView s).withDesc (sumPage e) (cleanDesc (descRaw s (sumPage e))) :=
  (view_barrierPage ..).trans (view_commitEntry segs stale warm)

theorem entryStands_entryCommitted : EntryStands seq (sumPage e) s (entryCommitted seq g e s) :=
  ((entryStands_entryTaken segs).of_led (led_commitEntry segs stale warm)).barrierPage _

include rest

theorem rests_entryCommitted : LedgerRests (entryCommitted seq g e s) :=
  ⟨(entryStands_entryCommitted segs stale warm).queue rest.queue, quiet_of_withDesc (view_entryCommitted segs stale warm) rest.quiet⟩

include table

/-- The one segment commits: what follows finds nothing more to do. -/
theorem exec_segCommit (written : g.written = true) (uncommitted : g.committed = false) (known : recorded s seq = true)
    (entries : g.entries = [e]) (free : opOf s (sumPage e) = none) :
    exec (.segCommit seq) s = .next (refreshPA (entryCommitted seq g e s)) := by
  have noRekey : endColdRekey (sumPage e) (commitEntry seq g e (commitCounted seq g s)) = commitEntry seq g e (commitCounted seq g s) := by
    rw [endColdRekey, opOf_of_withDesc (view_commitEntry segs stale warm), free]
  have firstPass : (entryCommitted seq g e s).led.segTable = false :=
    (entryStands_entryCommitted segs stale warm).table.trans table
  have compacted : compactLedger (entryCommitted seq g e s) = entryCommitted seq g e s := by simp [compactLedger, firstPass]
  have stands : sget none s.led.segs seq = some g := by simp [segs, sget]
  have run : execSegCommit seq s = .next (settle (refreshPA (packQueued (compactLedger (entryCommitted seq g e s))))) := by
    rw [execSegCommit_of_stands stands written uncommitted known, entries]
    simp only [List.foldl_cons, List.foldl_nil, stale, List.contains_nil, Bool.false_eq_true, if_false]
    rw [noRekey, ← entryCommitted]
  show execSegCommit seq s = _
  rw [run, compacted, settle_packQueued_of_rests (rests_entryCommitted segs stale warm rest)]

/-- A segment that commits cleans its page. -/
theorem segCommit_cleans (written : g.written = true) (uncommitted : g.committed = false) (known : recorded s seq = true)
    (entries : g.entries = [e]) (free : opOf s (sumPage e) = none) :
    ∃ t h, exec (.segCommit seq) s = .next t ∧ sget none t.led.segs seq = some h ∧ h.committed = true ∧
      dDirty (descRaw t (sumPage e)) = false ∧ dLedger (descRaw t (sumPage e)) = true ∧ sumPage e ∉ t.led.order := by
  have stands := entryStands_entryCommitted segs stale warm
  obtain ⟨h, single, committed⟩ := stands.one.sget
  have desc : descRaw (refreshPA (entryCommitted seq g e s)) (sumPage e) = cleanDesc (descRaw s (sumPage e)) := by
    rw [descRaw_refreshPA]
    exact descRaw_of_withDesc (view_entryCommitted segs stale warm)
  obtain ⟨clean, inLedger⟩ := cleanDesc_flags (descRaw s (sumPage e))
  refine ⟨_, h, exec_segCommit segs stale warm rest table written uncommitted known entries free, ?_⟩
  rw [desc, refreshPA_led]
  exact ⟨single, committed, clean, inLedger, stands.order⟩

end

/-! ## The statement -/

/-- Settles O19: each step of the writeback by its lemma. -/
theorem pagesAreWrittenBack : Obligations.PagesAreWrittenBack := by
  unfold Obligations.PagesAreWrittenBack
  refine ⟨?_, ?_, ?_, ?_, ?_, ?_, ?_, ?_⟩
  · exact fun s mode rest order => ceilingWindow_publishes mode rest order
  · refine fun s n mode idle quiet => ⟨flushBwProbe_of_none n mode idle quiet, ?_⟩
    exact fun q m g e img data u table segs sparse entries live up image room encoded =>
      flushBwProbe_compacts segs sparse entries live up image room encoded n mode idle quiet table
  · refine fun s page rest dirty idle => ⟨wbAgeExpiry_queues rest dirty idle, ?_⟩
    exact fun u g free inside segs warm read unheld packed quiet =>
      wbAgeExpiry_packs rest dirty idle free inside segs warm read unheld packed quiet
  · refine fun s seq g stands unwritten uncommitted entries => ⟨segmentWritesComplete_marks stands unwritten uncommitted entries, ?_⟩
    exact fun segs small mapDirty fresh lag => segmentWritesComplete_records segs unwritten uncommitted entries small mapDirty fresh lag
  · exact fun s seq g e rest segs written uncommitted known entries stale table free warm _ =>
      segCommit_cleans segs stale warm rest table written uncommitted known entries free
  · refine fun s seq g rest stands uncommitted => ⟨nvmeWriteFailed_givesUp rest stands uncommitted, ?_⟩
    exact fun e entries segs dirty bars other => nvmeWriteFailed_requeues rest uncommitted entries segs dirty bars other
  · exact fun s block mode rest writable => mapBlockWriteback_writes mode rest writable
  · exact fun s mode => hotListRewrite_rewrites mode

end Sys2Proof.Laws
end

section
/-! PROOFS. The age limit (R242): the statement fails where the request that has waited is the device's own. The event then names, with
the same TAG, other work of the device too, and that work is marked with it (log entry 109). -/

namespace Sys2Proof.Laws

open Sys2Proof Sys2Proof.Machine

/-- The one waiting request is ordered as if its class were not lowered. -/
def onlyAged (w : Waiter) (s : State) : State := { s with quay.busy := [{ w with aged := true }] }

theorem ageOwn_quay (tag : Tag) (s : State) : (ageOwn tag s).quay = s.quay := by
  unfold ageOwn
  split <;> rfl

/-- What the event does to the one waiting request: beside it, what `ageOwn` marks where the request comes from the device's node. -/
theorem ageLimitExpiry_of_one {s : State} {w : Waiter} (txns : s.quay.txns = []) (waiters : s.reins.waiters = [])
    (busy : s.quay.busy = [w]) :
    exec (.ageLimitExpiry w.req.src w.req.tag) s =
      .next (if w.req.src = nodeId s then ageOwn w.req.tag (onlyAged w s) else onlyAged w s) := by
  have aged : ({ s with reins.waiters := [], quay.busy := [{ w with aged := true }] } : State) = onlyAged w s :=
    congrArg (fun l => { onlyAged w s with reins.waiters := l }) waiters.symm
  have node : nodeId (onlyAged w s) = nodeId s := rfl
  have noTxn : (if w.req.src = nodeId s then ageOwn w.req.tag (onlyAged w s) else onlyAged w s).quay.txns = [] := by
    split
    · rw [ageOwn_quay]
      exact txns
    · exact txns
  show execAgeLimitExpiry w.req.src w.req.tag s = _
  simp only [execAgeLimitExpiry, waiters, busy, List.map_nil, List.map_cons, decide_true, Bool.and_self, if_true]
  rw [aged, node, noTxn]
  rfl

/-- A write that a ring command makes of a line of page 4: its source is the device's node, and its TAG is 0 (`startOwn`). -/
def ownWrite : Waiter := { req := { op := 0x09, src := 1, dst := 1, line := 0x123 } }

/-- A device in Service, node 1: the write waits in the busy queue while page 4 is relocated (R47), and another write waits in the write
queue of channel 0. -/
def ownWriteWaits : State :=
  { aon := { mode := .service }
    cfg := [(1, [BitVec.ofNat 128 (1 + 0x0D * 2 ^ 8 + 0xFF * 2 ^ 24 + 1 * 2 ^ 64), BitVec.ofNat 128 (0x11 + 1 * 2 ^ 14)])]
    tier := { ops := [{ page := 4, kind := .relocation }] }
    quay := { busy := [ownWrite] }
    dram := { ch := [(0, { writeQ := [{ addr := 5 }] })] } }

/-- Refutes O23: the clause of the age limit has the waiting request alone marked, and does not ask that it come from another node. The
age limit of a request of the device's own with TAG 0 marks the oldest waiting write of each channel too. -/
theorem not_reinsAreApplied : ¬ Obligations.ReinsAreApplied := by
  unfold Obligations.ReinsAreApplied
  rintro ⟨-, ages, -⟩
  have run := (ageLimitExpiry_of_one (s := ownWriteWaits) (w := ownWrite) rfl rfl rfl).symm.trans (ages ownWriteWaits ownWrite rfl rfl rfl)
  have own : ownWrite.req.src = nodeId ownWriteWaits := by decide +kernel
  rw [if_pos own] at run
  have same : ageOwn ownWrite.req.tag (onlyAged ownWrite ownWriteWaits) = onlyAged ownWrite ownWriteWaits := Host.Outcome.next.inj run
  have marked : (chan (ageOwn ownWrite.req.tag (onlyAged ownWrite ownWriteWaits)) 0).writeQ = [{ addr := 5, aged := true }] := by
    decide +kernel
  rw [same] at marked
  exact absurd marked (by decide +kernel)

end Sys2Proof.Laws
end

section
/-! PROOFS. The ports one by one: what an operation on one port leaves of the others, and what the events, the log and the flits that a port
sends leave of it (R271, R273, R280, R446, R449). -/

namespace Sys2Proof.Laws

open Sys2Proof Sys2Proof.Machine

/-! ## What leaves the ports alone -/

@[simp] theorem portOf_evAdd (id n : Nat) (s : State) (p : Nat) : portOf (evAdd id n s) p = portOf s p := portOf_of_port (evAdd_port ..) p
@[simp] theorem portOf_evAfl (a e : Nat) (s : State) (p : Nat) : portOf (evAfl a e s) p = portOf s p := portOf_of_port (evAfl_port ..) p
@[simp] theorem portOf_logIt (r : LogRec) (s : State) (p : Nat) : portOf (logIt r s) p = portOf s p := portOf_of_port (logIt_port ..) p
@[simp] theorem portOf_logDown (a reason : Nat) (s : State) (p : Nat) : portOf (logDown a reason s) p = portOf s p :=
  portOf_of_port (within_port (logDown_within ..) rfl) p

/-! ## Changes of one port only -/

theorem othersKept_of_port (p : Nat) {s t : State} (h : t.port = s.port) : OtherPortsKept p s t := fun q _ => portOf_of_port h q

theorem othersKept_trans {p : Nat} {r s t : State} (h : OtherPortsKept p r s) (k : OtherPortsKept p s t) : OtherPortsKept p r t :=
  fun q n => (k q n).trans (h q n)

theorem othersKept_setPort (p : Nat) (v : Port) (s : State) : OtherPortsKept p s (setPort p v s) := fun _ n => portOf_setPort_other n v s

theorem othersKept_modPort (p : Nat) (f : Port → Port) (s : State) : OtherPortsKept p s (modPort p f s) :=
  fun _ n => portOf_modPort_other n f s

theorem othersKept_evAfl (p a e : Nat) (s : State) : OtherPortsKept p s (evAfl a e s) := othersKept_of_port p (evAfl_port ..)

theorem othersKept_logIt (p : Nat) (r : LogRec) (s : State) : OtherPortsKept p s (logIt r s) := othersKept_of_port p (logIt_port ..)

theorem onlyPort_setPort (p : Nat) (v : Port) (s : State) : OnlyPort p s (setPort p v s) :=
  ⟨(setPort_within p v s).same, othersKept_setPort p v s⟩

theorem onlyPort_modPort (p : Nat) (f : Port → Port) (s : State) : OnlyPort p s (modPort p f s) :=
  ⟨(modPort_within p f s).same, othersKept_modPort p f s⟩

theorem onlyPort_trans {p : Nat} {r s t : State} (h : OnlyPort p r s) (k : OnlyPort p s t) : OnlyPort p r t :=
  ⟨k.1.trans h.1, othersKept_trans h.2 k.2⟩

/-! ## Parameters of a port (R381) -/

theorem paramAt_of_kept {s t : State} (c : t.cfg = s.cfg) (f : t.fuse = s.fuse) (table index inst : Nat) :
    paramAt t table index inst = paramAt s table index inst := by
  simp only [paramAt, paramRec, recsOf, typedRecs, sectionRecs, c, f]

/-- A port's parameters stay while the port stays in training or up, and keeps what a patch has not yet changed. -/
theorem aflParam_of_kept {s t : State} (c : t.cfg = s.cfg) (f : t.fuse = s.fuse) {p : Nat} (st : (portOf t p).st = (portOf s p).st)
    (latch : (portOf t p).latch = (portOf s p).latch) (i : Nat) : aflParam t p i = aflParam s p i := by
  simp only [aflParam, st, latch, paramAt_of_kept c f]

theorem aflParam_setPort {s : State} {p : Nat} {v : Port} (st : v.st = (portOf s p).st) (latch : v.latch = (portOf s p).latch) (i : Nat) :
    aflParam (setPort p v s) p i = aflParam s p i :=
  aflParam_of_kept (s := s) (t := setPort p v s) rfl rfl (by rw [portOf_setPort, st]) (by rw [portOf_setPort, latch]) i

/-! ## Flits that a port sends (R253, R273, R280) -/

/-- One flit of a replay, after an IDLE flit where 2,047 have gone without one: the body of the loop of `resend`. -/
def resendFlit (q : Port) (f : Flit) : Port :=
  let q := if 2047 ≤ q.sinceIdle then transmit (place 2048 4 f.seq) { q with sinceIdle := 0 } else q
  transmit f.body { q with sinceIdle := q.sinceIdle + 1 }

theorem resendFlit_eq (q : Port) (f : Flit) : ∃ line scr n, resendFlit q f = { q with txLine := line, txScr := scr, sinceIdle := n } := by
  unfold resendFlit
  dsimp only
  split
  · exact ⟨_, _, _, rfl⟩
  · exact ⟨_, _, _, rfl⟩

theorem resendFlits_eq (l : List Flit) (q : Port) :
    ∃ line scr n, l.foldl resendFlit q = { q with txLine := line, txScr := scr, sinceIdle := n } := by
  induction l generalizing q with
  | nil => exact ⟨q.txLine, q.txScr, q.sinceIdle, rfl⟩
  | cons f l ih =>
    obtain ⟨line, scr, n, one⟩ := resendFlit_eq q f
    obtain ⟨line', scr', n', rest⟩ := ih (resendFlit q f)
    exact ⟨line', scr', n', by rw [List.foldl_cons, rest, one]⟩

/-- A replay changes of its port only what goes out on its lanes. -/
theorem portOf_resend (p : Nat) (s : State) :
    ∃ line scr n, portOf (resend p s) p = { portOf s p with txLine := line, txScr := scr, sinceIdle := n } := by
  unfold resend
  dsimp only
  split
  · exact ⟨(portOf s p).txLine, (portOf s p).txScr, (portOf s p).sinceIdle, rfl⟩
  · obtain ⟨line, scr, n, sent⟩ := resendFlits_eq (portOf s p).replay (portOf s p)
    refine ⟨line, scr, n, ?_⟩
    rw [← sent]
    split
    · simp only [portOf_evAdd, portOf_modPort]
      rfl
    · simp only [portOf_evAdd, portOf_modPort]
      rfl

theorem othersKept_resend (p : Nat) (s : State) : OtherPortsKept p s (resend p s) := by
  intro q other
  unfold resend
  dsimp only
  split
  · rfl
  · split
    · simp only [portOf_evAdd, portOf_modPort_other other]
    · simp only [portOf_evAdd, portOf_modPort_other other]

/-- One flit of a burst, with its link management command: the body of the loop of `idleBurst`. -/
def burstFlit (m : Nat → Option Lmc) (q : Port) (k : Nat) : Port :=
  transmit (place 2048 4 q.seq) { q with answer := (m k).or q.answer }

theorem burstFlits_eq (m : Nat → Option Lmc) (l : List Nat) (q : Port) :
    ∃ line scr a, l.foldl (burstFlit m) q = { q with txLine := line, txScr := scr, answer := a } := by
  induction l generalizing q with
  | nil => exact ⟨q.txLine, q.txScr, q.answer, rfl⟩
  | cons k l ih =>
    obtain ⟨line, scr, a, rest⟩ := ih (burstFlit m q k)
    exact ⟨line, scr, a, rest⟩

/-- A burst of IDLE flits changes of its port only what goes out on its lanes. -/
theorem portOf_idleBurst (p : Nat) (m : Nat → Option Lmc) (s : State) :
    ∃ line scr, portOf (idleBurst p m s) p = { portOf s p with txLine := line, txScr := scr, sinceIdle := 0 } := by
  obtain ⟨line, scr, a, sent⟩ := burstFlits_eq m (List.range 8) (portOf s p)
  refine ⟨line, scr, ?_⟩
  unfold idleBurst
  simp only [portOf_modPort, portOf_evAdd]
  exact congrArg (fun q : Port => { q with answer := (portOf s p).answer, sinceIdle := 0 }) sent

theorem othersKept_idleBurst (p : Nat) (m : Nat → Option Lmc) (s : State) : OtherPortsKept p s (idleBurst p m s) := by
  intro q other
  unfold idleBurst
  simp only [portOf_modPort_other other, portOf_evAdd]

/-! ## An acknowledgement (R271, R273) -/

theorem acked_eq (a : BitVec 12) (q : Port) : ∃ l n seen, acked a q = { q with replay := l, replays := n, nakSeen := seen } := by
  unfold acked
  split
  · exact ⟨_, _, _, rfl⟩
  · exact ⟨q.replay, q.replays, q.nakSeen, rfl⟩

/-! ## A retrain starts (R276 to R278) -/

/-- A port that enters RETRAIN with no retrain before it in the last second. -/
def retraining (why : Nat) (now : BitVec 64) (q : Port) : Port :=
  { dropExchange q with st := .retrain, lp := 0, exiting := false, lossTrain := false, retrainWhy := why, eqDone := 0, tsGot := false,
                        eqTried := false, laneErr := [], badRun := 0, retrains := [now] }

theorem startRetrain_of_first {s : State} {p : Nat} (why : Nat) (first : (portOf s p).retrains = []) (limit : aflParam s p 9 ≠ 0) :
    startRetrain p why s = evAfl p 10 (setPort p (retraining why s.time.tide (portOf s p)) s) := by
  simp only [startRetrain, first, List.filter_nil, List.length_nil, Nat.le_zero, limit, decide_false, Bool.false_and, Bool.false_eq_true,
    if_false, List.nil_append]
  rfl

theorem portOf_startRetrain_of_first {s : State} {p : Nat} (why : Nat) (first : (portOf s p).retrains = []) (limit : aflParam s p 9 ≠ 0) :
    portOf (startRetrain p why s) p = retraining why s.time.tide (portOf s p) := by
  rw [startRetrain_of_first why first limit, portOf_evAfl, portOf_setPort]

theorem othersKept_startRetrain (p why : Nat) (s : State) : OtherPortsKept p s (startRetrain p why s) := by
  unfold startRetrain
  exact othersKept_trans (othersKept_setPort _ _ _) (othersKept_evAfl _ _ _ _)

end Sys2Proof.Laws
end

section
/-! PROOFS. Training (R257, R259, R276, R288, Table 9.4). -/

namespace Sys2Proof.Laws

open Sys2Proof Sys2Proof.Machine

/-! ## Receiver detection and training sets -/

theorem detectStep_polls {s : State} {p : Nat} {lanes : BitVec 16} (enabled : portEnabled s p = true) (permitted : txPermitted s = true)
    (found : lanes ≠ 0) (st : (portOf s p).st = .off ∨ (portOf s p).st = .detect) :
    ∃ t, exec (.detectStep p lanes) s = .next t ∧ (portOf t p).st = .poll ∧ (portOf t p).detected = lanes ∧
      (portOf t p).laneFail = 0 ∧ OnlyPort p s t := by
  have waits : (decide ((portOf s p).st = .off) || decide ((portOf s p).st = .detect)) = true := by simpa using st
  refine ⟨_, (if_neg (by simp [enabled, permitted, waits])).trans (if_neg found), ?_, ?_, ?_, onlyPort_setPort ..⟩
  · rw [portOf_setPort]
  · rw [portOf_setPort]
  · rw [portOf_setPort]

theorem ts1_appliesEq {s : State} {p lane : Nat} {ts : BitVec 256} (valid : tsValid (tsNorm ts) = true)
    (kind : (tsNorm ts).extractLsb' 0 8 = (0x4B : BitVec 8)) (st : (portOf s p).st = .eq) :
    ∃ t, exec (.ts1 p lane ts) s = .next t ∧ (portOf t p).st = .eq ∧ (portOf t p).partner = tsNorm ts ∧
      sget 0 (portOf t p).coef (trueLane (portOf s p) lane) =
        applyEq (sget 0 (portOf s p).coef (trueLane (portOf s p) lane)) (tsEqReq (tsNorm ts)) ∧ OnlyPort p s t := by
  have run : exec (.ts1 p lane ts) s = .next (noteEq p lane (tsNorm ts) (setPort p { portOf s p with
      coef := smod 0 (portOf s p).coef (trueLane (portOf s p) lane) (fun c => applyEq c (tsEqReq (tsNorm ts))) } s)) := by
    show execTs1 p lane ts s = _
    simp [execTs1, valid, kind, st]
  refine ⟨_, run, ?_, ?_, ?_, onlyPort_trans (onlyPort_setPort ..) (onlyPort_modPort ..)⟩
  · simpa [noteEq] using st
  · simp [noteEq]
  · simp [noteEq, smod]

/-! ## The end of a retrain (R262, R276) -/

/-- The port as a retrain that keeps the link-layer state leaves it, before its replay. -/
def retrained (q : Port) : Port :=
  loadScr { acked (tsRxAck q.partner) q with st := .active, exiting := false, retrainWhy := 0, txTs := [] }

theorem retrained_st (q : Port) : (retrained q).st = .active := rfl

theorem retrained_partner (q : Port) : (retrained q).partner = q.partner := by
  obtain ⟨l, n, seen, e⟩ := acked_eq (tsRxAck q.partner) q
  simp [retrained, loadScr, e]

theorem enterActive_of_kept {s : State} {p : Nat} (up : (portOf s p).lossTrain = false) (kept : keepsState (portOf s p) = true) :
    ∃ r, enterActive p s = logIt r (resend p (setPort p (retrained (portOf s p)) s)) := by
  simp only [enterActive, up, kept, Bool.not_false, Bool.not_true, Bool.and_false, Bool.false_eq_true, if_false, if_true]
  exact ⟨_, rfl⟩

theorem portOf_enterActive_of_kept {s : State} {p : Nat} (up : (portOf s p).lossTrain = false) (kept : keepsState (portOf s p) = true) :
    (portOf (enterActive p s) p).st = .active ∧ (portOf (enterActive p s) p).partner = (portOf s p).partner := by
  obtain ⟨r, run⟩ := enterActive_of_kept up kept
  obtain ⟨line, scr, n, sent⟩ := portOf_resend p (setPort p (retrained (portOf s p)) s)
  rw [run, portOf_logIt, sent, portOf_setPort]
  exact ⟨retrained_st (portOf s p), retrained_partner (portOf s p)⟩

theorem othersKept_enterActive_of_kept {s : State} {p : Nat} (up : (portOf s p).lossTrain = false)
    (kept : keepsState (portOf s p) = true) : OtherPortsKept p s (enterActive p s) := by
  obtain ⟨r, run⟩ := enterActive_of_kept up kept
  rw [run]
  exact othersKept_trans (othersKept_setPort _ _ _) (othersKept_trans (othersKept_resend _ _) (othersKept_logIt _ _ _))

/-- A port in RETRAIN takes its partner's words and chooses its width again (R261). -/
theorem ts2Retrain_eq (p : Nat) (t : BitVec 256) (s : State) :
    ∃ w g, ts2Retrain p t s = enterActive p (setPort p { portOf s p with partner := t, partnerUp := true, width := w, group := g } s) := by
  unfold ts2Retrain
  dsimp only
  split
  · exact ⟨_, _, rfl⟩
  · exact ⟨(portOf s p).width, (portOf s p).group, rfl⟩

theorem ts2_endsRetrain {s : State} {p lane : Nat} {ts : BitVec 256} (valid : tsValid (tsNorm ts) = true)
    (kind : (tsNorm ts).extractLsb' 0 8 = (0x2D : BitVec 8)) (st : (portOf s p).st = .retrain) (up : (portOf s p).lossTrain = false)
    (own : tsPeerSession (tsNorm ts) = (portOf s p).session) (peer : tsSession (tsNorm ts) = (portOf s p).peerSession) :
    ∃ t, exec (.ts2 p lane ts) s = .next t ∧ (portOf t p).st = .active ∧ (portOf t p).partner = tsNorm ts ∧ OtherPortsKept p s t := by
  obtain ⟨w, g, chosen⟩ := ts2Retrain_eq p (tsNorm ts) s
  have run : exec (.ts2 p lane ts) s = .next (ts2Retrain p (tsNorm ts) s) := by
    show execTs2 p lane ts s = _
    simp [execTs2, valid, kind, st]
  rw [chosen] at run
  let u := setPort p { portOf s p with partner := tsNorm ts, partnerUp := true, width := w, group := g } s
  have held : (portOf u p).lossTrain = false := by simpa [u] using up
  have kept : keepsState (portOf u p) = true := by simp [u, keepsState, own, peer]
  obtain ⟨active, partner⟩ := portOf_enterActive_of_kept held kept
  refine ⟨_, run, active, partner.trans ?_, othersKept_trans (othersKept_setPort _ _ _) (othersKept_enterActive_of_kept held kept)⟩
  simp [u]

/-! ## Timeouts (Table 9.4) -/

theorem pollTimeout_detects {s : State} {p : Nat} (st : (portOf s p).st = .poll) :
    ∃ t, exec (.pollTimeout p) s = .next t ∧ (portOf t p).st = .detect ∧ OnlyPort p s t :=
  ⟨_, congrArg Host.Outcome.next (if_pos st), congrArg Port.st (portOf_modPort ..), onlyPort_modPort ..⟩

theorem configTimeout_detects {s : State} {p : Nat} (st : (portOf s p).st = .config) :
    ∃ t, exec (.configTimeout p) s = .next t ∧ (portOf t p).st = .detect ∧ OnlyPort p s t :=
  ⟨_, congrArg Host.Outcome.next (if_pos st), congrArg Port.st (portOf_modPort ..), onlyPort_modPort ..⟩

theorem eqTimeout_lowersRate {s : State} {p : Nat} (st : (portOf s p).st = .eq) (fresh : (portOf s p).eqTried = false)
    (lower : 0 < (portOf s p).rate.toNat) :
    ∃ t, exec (.eqTimeout p) s = .next t ∧ (portOf t p).st = .eq ∧ (portOf t p).rate.toNat = (portOf s p).rate.toNat - 1 ∧
      (portOf t p).eqTried = true ∧ OnlyPort p s t := by
  refine ⟨_, (if_neg (not_not_intro st)).trans (if_pos (by simp [fresh, lower])), ?_, ?_, ?_, onlyPort_setPort ..⟩
  · rw [portOf_setPort, startEq]
  · rw [portOf_setPort, startEq, BitVec.toNat_ofNat]
    have := (portOf s p).rate.isLt
    omega
  · rw [portOf_setPort]

theorem retrainTimeout_equalizes {s : State} {p : Nat} (st : (portOf s p).st = .retrain) :
    ∃ t, exec (.retrainTimeout p) s = .next t ∧ (portOf t p).st = .eq ∧ (portOf t p).rate = (portOf s p).rate ∧ OnlyPort p s t := by
  refine ⟨_, congrArg Host.Outcome.next (if_pos st), ?_, ?_, onlyPort_setPort ..⟩
  · rw [portOf_setPort, startEq]
  · rw [portOf_setPort, startEq, BitVec.ofNat_toNat, BitVec.setWidth_eq]

/-! ## A link is lost in Direct topology (R288) -/

/-- The port of a link that is lost holds its session and its replay buffer and trains again from DETECT. -/
def heldPort (now : BitVec 64) (q : Port) : Port :=
  { dropExchange q with st := .detect, lp := 0, exiting := false, lossTrain := true, tsRun := [], detected := 0, eqDone := 0, myDone := 0,
                        tsGot := false, txTs := [], resumed := false, lossTide := now, held := true }

theorem linkLost_of_direct (p reason : Nat) {s : State} (d : direct s = true) :
    ∃ now, linkLost p reason s = modPort p (heldPort now) (logDown p reason s) := by
  have logged := logDown_within p reason s
  have d' : direct (logDown p reason s) = true := (direct_of_kept (keeps_cfg logged.same rfl) (keeps_fuse logged.same rfl)).trans d
  unfold linkLost
  dsimp only
  rw [if_pos d']
  exact ⟨_, rfl⟩

theorem ts1LossTimeout_holds {s : State} {p : Nat} (st : (portOf s p).st = .retrain) (up : (portOf s p).lossTrain = false)
    (d : direct s = true) :
    ∃ t, exec (.ts1LossTimeout p) s = .next t ∧ (portOf t p).st = .detect ∧ (portOf t p).held = true ∧
      (portOf t p).session = (portOf s p).session ∧ (portOf t p).replay = (portOf s p).replay ∧ OtherPortsKept p s t := by
  obtain ⟨now, lost⟩ := linkLost_of_direct p 1 d
  have run : exec (.ts1LossTimeout p) s = .next (modPort p (heldPort now) (logDown p 1 s)) := by
    show execTs1LossTimeout p s = _
    simp [execTs1LossTimeout, st, trainFails, up, lost]
  have own : portOf (modPort p (heldPort now) (logDown p 1 s)) p = heldPort now (portOf s p) := by rw [portOf_modPort, portOf_logDown]
  refine ⟨_, run, ?_, ?_, ?_, ?_, othersKept_trans (othersKept_of_port p (within_port (logDown_within ..) rfl)) (othersKept_modPort _ _ _)⟩
  all_goals
    rw [own]
    rfl

/-! ## The statement -/

/-- Settles O1: each step of training by its lemma. -/
theorem linkTrains : Obligations.LinkTrains := by
  unfold Obligations.LinkTrains
  refine ⟨?_, ?_, ?_, ?_, ?_, ?_, ?_, ?_⟩
  · exact fun s p lanes enabled permitted found st => detectStep_polls enabled permitted found st
  · exact fun s p lane ts valid kind st => ts1_appliesEq valid kind st
  · exact fun s p lane ts valid kind st up own peer => ts2_endsRetrain valid kind st up own peer
  · exact fun s p st => pollTimeout_detects st
  · exact fun s p st => configTimeout_detects st
  · exact fun s p st fresh lower => eqTimeout_lowersRate st fresh lower
  · exact fun s p st => retrainTimeout_equalizes st
  · exact fun s p st up d => ts1LossTimeout_holds st up d

end Sys2Proof.Laws
end

section
/-! PROOFS. Link management of a link in ACTIVE: width changes, low-power requests, LINK_OFF, caps and timers (R279 to R284, R286). -/

namespace Sys2Proof.Laws

open Sys2Proof Sys2Proof.Machine

/-! ## A command acts once (R280) -/

/-- A link management command has been noted as the last one acted on. -/
def noted (p : Nat) (op : BitVec 4) (id : BitVec 8) (arg : BitVec 16) (s : State) : State :=
  setPort p { portOf s p with lmcSeen := some { op := op, id := id, arg := arg } } s

theorem onceLmc_of_first {s : State} {p : Nat} (op : BitVec 4) (id : BitVec 8) (arg : BitVec 16) (f : State → State)
    (runs : linkRuns s p = true) (first : (portOf s p).lmcSeen = none) : onceLmc p op id arg f s = f (noted p op id arg s) := by
  simp only [onceLmc, runs, first, Bool.not_true, Bool.false_eq_true, if_false]
  rfl

theorem portOf_noted (p : Nat) (op : BitVec 4) (id : BitVec 8) (arg : BitVec 16) (s : State) :
    portOf (noted p op id arg s) p = { portOf s p with lmcSeen := some { op := op, id := id, arg := arg } } := portOf_setPort ..

theorem onlyPort_noted (p : Nat) (op : BitVec 4) (id : BitVec 8) (arg : BitVec 16) (s : State) : OnlyPort p s (noted p op id arg s) :=
  onlyPort_setPort ..

theorem widthCap_noted (p : Nat) (op : BitVec 4) (id : BitVec 8) (arg : BitVec 16) (s : State) :
    widthCap (noted p op id arg s) p = widthCap s p := by
  have limit : aflParam (noted p op id arg s) p 3 = aflParam s p 3 :=
    aflParam_setPort (v := { portOf s p with lmcSeen := some { op := op, id := id, arg := arg } }) rfl rfl 3
  simp only [widthCap, limit, portOf_noted]

/-! ## Proposals (R281) -/

theorem acceptWidth_eq (id : BitVec 8) (w : Nat) (q : Port) : acceptWidth id w q =
    { q with lmcAccepted := some { op := 2, id := id, arg := BitVec.ofNat 16 w },
             answer := if addedLocked q w then some { op := 2, id := id, arg := BitVec.ofNat 16 w } else none } := by
  have locked : addedLocked { q with lmcAccepted := some { op := 2, id := id, arg := BitVec.ofNat 16 w } } w = addedLocked q w := rfl
  unfold acceptWidth
  dsimp only
  rw [locked]
  split
  · rfl
  · rfl

/-- A proposal that finds no exchange under way is accepted with the width that the cap and the lanes allow. -/
theorem onPropose_accepts {s : State} {p : Nat} (id : BitVec 8) {arg : BitVec 16} {w g : Nat} (band : inBand (portOf s p) = true)
    (noneAccepted : (portOf s p).lmcAccepted = none) (still : (portOf s p).txSwitch = false) (own : (portOf s p).lmc = none)
    (code : fieldNat arg 2 0 ≤ 4) (lanes : widthUpTo (portOf s p) (min (fieldNat arg 2 0) (widthCap s p)) = some (w, g))
    (change : w ≠ (portOf s p).width.toNat) : onPropose p id arg s = setPort p (acceptWidth id w (portOf s p)) s := by
  simp [onPropose, Nat.not_lt.2 code, band, noneAccepted, still, own, lanes, change]

theorem wPropose_accepts {s : State} {p : Nat} {id : BitVec 8} {arg : BitVec 16} {w g : Nat} (runs : linkRuns s p = true)
    (first : (portOf s p).lmcSeen = none) (band : inBand (portOf s p) = true) (noneAccepted : (portOf s p).lmcAccepted = none)
    (still : (portOf s p).txSwitch = false) (own : (portOf s p).lmc = none) (code : fieldNat arg 2 0 ≤ 4)
    (lanes : widthUpTo (portOf s p) (min (fieldNat arg 2 0) (widthCap s p)) = some (w, g)) (change : w ≠ (portOf s p).width.toNat) :
    ∃ t, exec (.wPropose p id arg) s = .next t ∧
      (portOf t p).answer = (if addedLocked (portOf s p) w then some { op := 2, id := id, arg := BitVec.ofNat 16 w } else none) ∧
      (portOf t p).lmcAccepted = some { op := 2, id := id, arg := BitVec.ofNat 16 w } ∧ (portOf t p).width = (portOf s p).width ∧
      OnlyPort p s t := by
  have seen := portOf_noted p 1 id arg s
  have accepts := onPropose_accepts (s := noted p 1 id arg s) (p := p) id (by rw [seen]; exact band) (by rw [seen]; exact noneAccepted)
    (by rw [seen]; exact still) (by rw [seen]; exact own) code (by rw [seen, widthCap_noted]; exact lanes) (by rw [seen]; exact change)
  refine ⟨_, congrArg Host.Outcome.next ((onceLmc_of_first 1 id arg _ runs first).trans accepts), ?_, ?_, ?_,
    onlyPort_trans (onlyPort_noted ..) (onlyPort_setPort ..)⟩
  · rw [portOf_setPort, acceptWidth_eq, seen]
    rfl
  · rw [portOf_setPort, acceptWidth_eq]
  · rw [portOf_setPort, acceptWidth_eq, seen]

/-! ## Answers to a proposal (R281) -/

theorem portOf_sendSwitch (p : Nat) (id : BitVec 8) (w : Nat) (s : State) : (portOf (sendSwitch p id w s) p).txSwitch = true := by
  simp only [sendSwitch, portOf_modPort]
  split
  · rfl
  · rfl

theorem othersKept_sendSwitch (p : Nat) (id : BitVec 8) (w : Nat) (s : State) : OtherPortsKept p s (sendSwitch p id w s) :=
  othersKept_trans (othersKept_idleBurst _ _ _) (othersKept_modPort _ _ _)

theorem portOf_proposerSwitch (p : Nat) (id : BitVec 8) (w : Nat) (s : State) : portOf (proposerSwitch p id w s) p =
    { portOf (sendSwitch p id w s) p with lmc := some { op := 4, id := id, arg := BitVec.ofNat 16 w }, accepted := false } :=
  portOf_modPort ..

theorem othersKept_proposerSwitch (p : Nat) (id : BitVec 8) (w : Nat) (s : State) : OtherPortsKept p s (proposerSwitch p id w s) :=
  othersKept_trans (othersKept_sendSwitch _ _ _ _) (othersKept_modPort _ _ _)

theorem wAccept_switches {s : State} {p : Nat} {id : BitVec 8} {arg : BitVec 16} {m : Lmc} (runs : linkRuns s p = true)
    (first : (portOf s p).lmcSeen = none) (own : (portOf s p).lmc = some m) (op : m.op = 1) (same : m.id = id)
    (locked : addedLocked (portOf s p) (fieldNat arg 2 0) = true) :
    ∃ t, exec (.wAccept p id arg) s = .next t ∧ (portOf t p).txSwitch = true ∧
      (portOf t p).lmc = some { op := 4, id := id, arg := BitVec.ofNat 16 (fieldNat arg 2 0) } ∧
      ChangesOnly { port := true, ev := true, mgt := true } s t ∧ OtherPortsKept p s t := by
  have locked' : addedLocked (portOf (noted p 2 id arg s) p) (fieldNat arg 2 0) = true := by rw [portOf_noted]; exact locked
  have switches : onAccept p id arg (noted p 2 id arg s) = proposerSwitch p id (fieldNat arg 2 0) (noted p 2 id arg s) := by
    simp only [onAccept, locked', if_true]
    simp [portOf_noted, own, op, same]
  have run : exec (.wAccept p id arg) s = .next (proposerSwitch p id (fieldNat arg 2 0) (noted p 2 id arg s)) :=
    congrArg Host.Outcome.next ((onceLmc_of_first 2 id arg _ runs first).trans switches)
  refine ⟨_, run, ?_, ?_, ((execWAccept_within p id arg s).imp _ run).same,
    othersKept_trans (onlyPort_noted _ _ _ _ _).2 (othersKept_proposerSwitch _ _ _ _)⟩
  · rw [portOf_proposerSwitch]
    exact portOf_sendSwitch ..
  · rw [portOf_proposerSwitch]

theorem wAccept_holds {s : State} {p : Nat} {id : BitVec 8} {arg : BitVec 16} {m : Lmc} (runs : linkRuns s p = true)
    (first : (portOf s p).lmcSeen = none) (own : (portOf s p).lmc = some m) (op : m.op = 1) (same : m.id = id)
    (unlocked : addedLocked (portOf s p) (fieldNat arg 2 0) = false) :
    ∃ t, exec (.wAccept p id arg) s = .next t ∧ (portOf t p).accepted = true ∧ (portOf t p).txSwitch = (portOf s p).txSwitch ∧
      OnlyPort p s t := by
  have unlocked' : addedLocked (portOf (noted p 2 id arg s) p) (fieldNat arg 2 0) = false := by rw [portOf_noted]; exact unlocked
  have holds : onAccept p id arg (noted p 2 id arg s) = setPort p { portOf (noted p 2 id arg s) p with
      lmc := some { m with arg := BitVec.ofNat 16 (fieldNat arg 2 0) }, accepted := true } (noted p 2 id arg s) := by
    simp only [onAccept, unlocked', Bool.false_eq_true, if_false]
    simp [portOf_noted, own, op, same]
  refine ⟨_, congrArg Host.Outcome.next ((onceLmc_of_first 2 id arg _ runs first).trans holds), ?_, ?_,
    onlyPort_trans (onlyPort_noted ..) (onlyPort_setPort ..)⟩
  · rw [portOf_setPort]
  · rw [portOf_setPort, portOf_noted]

theorem wReject_ends {s : State} {p : Nat} {id : BitVec 8} {arg : BitVec 16} {m : Lmc} (runs : linkRuns s p = true)
    (first : (portOf s p).lmcSeen = none) (own : (portOf s p).lmc = some m) (op : m.op = 1) (same : m.id = id) :
    ∃ t, exec (.wReject p id arg) s = .next t ∧ (portOf t p).lmc = none ∧ (portOf t p).width = (portOf s p).width ∧ OnlyPort p s t := by
  have ends : ∃ v, onReject p id arg (noted p 3 id arg s) = setPort p v (noted p 3 id arg s) ∧ v.lmc = none ∧
      v.width = (portOf s p).width := by
    simp only [onReject, portOf_noted, own, op, same, decide_true, Bool.and_self, if_true]
    exact ⟨_, rfl, rfl, rfl⟩
  obtain ⟨v, ends, lmc, width⟩ := ends
  refine ⟨_, congrArg Host.Outcome.next ((onceLmc_of_first 3 id arg _ runs first).trans ends), ?_, ?_,
    onlyPort_trans (onlyPort_noted ..) (onlyPort_setPort ..)⟩
  · rw [portOf_setPort, lmc]
  · rw [portOf_setPort, width]

/-! ## The switch (R281) -/

/-- A width change completes: the port receives on the target group. -/
theorem portOf_finishWidth {s : State} {p c w g : Nat} (lanes : widthUpTo (portOf s p) c = some (w, g)) :
    ∃ rx tx, portOf (finishWidth p c s) p =
      { dropExchange (portOf s p) with width := BitVec.ofNat 3 w, group := BitVec.ofNat 4 g, rxScr := rx, txScr := tx } := by
  simp only [finishWidth, lanes, portOf_evAfl, portOf_setPort]
  exact ⟨_, _, rfl⟩

theorem othersKept_finishWidth (p c : Nat) (s : State) : OtherPortsKept p s (finishWidth p c s) := by
  unfold finishWidth
  dsimp only
  split
  · exact othersKept_trans (othersKept_setPort _ _ _) (othersKept_evAfl _ _ _ _)
  · exact othersKept_setPort _ _ _

theorem wSwitch_completes {s : State} {p : Nat} {id : BitVec 8} {arg : BitVec 16} {m : Lmc} {w g : Nat} (runs : linkRuns s p = true)
    (first : (portOf s p).lmcSeen = none) (own : (portOf s p).lmc = some m) (op : m.op = 4) (same : m.id = id)
    (lanes : widthUpTo (portOf s p) (fieldNat arg 2 0) = some (w, g)) :
    ∃ t, exec (.wSwitch p id arg) s = .next t ∧ (portOf t p).width = BitVec.ofNat 3 w ∧ (portOf t p).group = BitVec.ofNat 4 g ∧
      (portOf t p).lmc = none ∧ OtherPortsKept p s t := by
  have switches : onSwitch p id arg (finishWidth p) (noted p 4 id arg s) =
      finishWidth p (fieldNat arg 2 0) (modPort p (fun q => { q with rxSwitch := true }) (noted p 4 id arg s)) := by
    simp [onSwitch, portOf_noted, own, op, same]
  obtain ⟨rx, tx, moved⟩ := portOf_finishWidth (s := modPort p (fun q => { q with rxSwitch := true }) (noted p 4 id arg s)) (p := p)
    (c := fieldNat arg 2 0) (w := w) (g := g) (by rw [portOf_modPort, portOf_noted]; exact lanes)
  refine ⟨_, congrArg Host.Outcome.next ((onceLmc_of_first 4 id arg _ runs first).trans switches), ?_, ?_, ?_,
    othersKept_trans (onlyPort_noted _ _ _ _ _).2 (othersKept_trans (othersKept_modPort _ _ _) (othersKept_finishWidth _ _ _))⟩
  · rw [moved]
  · rw [moved]
  · rw [moved]
    rfl

/-! ## Low-power requests (R283) -/

/-- The port enters a low-power state; but for that and the end of the exchange only what goes out on its lanes changes. -/
theorem portOf_enterLp (p lp : Nat) (s : State) : ∃ line scr, portOf (enterLp p lp s) p =
    { portOf s p with lp := BitVec.ofNat 2 lp, lmc := none, answer := none, txLine := line, txScr := scr, sinceIdle := 0 } := by
  obtain ⟨line, scr, sent⟩ := portOf_idleBurst p (fun _ => none) s
  refine ⟨line, scr, ?_⟩
  rw [enterLp, portOf_evAfl, portOf_modPort, sent]

theorem othersKept_enterLp (p lp : Nat) (s : State) : OtherPortsKept p s (enterLp p lp s) :=
  othersKept_trans (othersKept_idleBurst _ _ _) (othersKept_trans (othersKept_modPort _ _ _) (othersKept_evAfl _ _ _ _))

theorem lp_enterLp (p lp : Nat) (s : State) : (portOf (enterLp p lp s) p).lp = BitVec.ofNat 2 lp := by
  obtain ⟨line, scr, e⟩ := portOf_enterLp p lp s
  rw [e]

/-- An idle link that is awake, with no exchange under way, enters what is asked as far as the gait permits it. -/
theorem onLpReq_enters {s : State} {p : Nat} (id : BitVec 8) {arg : BitVec 16} (own : (portOf s p).lmc = none)
    (noneAccepted : (portOf s p).lmcAccepted = none) (idle : linkIdle (portOf s p) = true) (awake : (portOf s p).lp = 0)
    (deep : deepestLp s ≠ 0) (ask : fieldNat arg 1 0 = 1 ∨ fieldNat arg 1 0 = 2) : onLpReq p id arg s =
      enterLp p (min (fieldNat arg 1 0) (deepestLp s))
        (setPort p (answerLmc 6 id (min (fieldNat arg 1 0) (deepestLp s)) (portOf s p)) s) := by
  have asks : fieldNat arg 1 0 ≠ 0 := by omega
  have known : ¬ 2 < fieldNat arg 1 0 := by omega
  simp [onLpReq, own, noneAccepted, idle, awake, deep, asks, known]

theorem lpReq_enters {s : State} {p : Nat} {id : BitVec 8} {arg : BitVec 16} (runs : linkRuns s p = true)
    (first : (portOf s p).lmcSeen = none) (own : (portOf s p).lmc = none) (noneAccepted : (portOf s p).lmcAccepted = none)
    (idle : linkIdle (portOf s p) = true) (awake : (portOf s p).lp = 0) (deep : deepestLp s ≠ 0)
    (ask : fieldNat arg 1 0 = 1 ∨ fieldNat arg 1 0 = 2) :
    ∃ t, exec (.lpReq p id arg) s = .next t ∧ (portOf t p).lp = BitVec.ofNat 2 (min (fieldNat arg 1 0) (deepestLp s)) ∧
      OtherPortsKept p s t := by
  have seen := portOf_noted p 5 id arg s
  have enters := onLpReq_enters (s := noted p 5 id arg s) (p := p) id (by rw [seen]; exact own) (by rw [seen]; exact noneAccepted)
    (by rw [seen]; exact idle) (by rw [seen]; exact awake) deep ask
  exact ⟨_, congrArg Host.Outcome.next ((onceLmc_of_first 5 id arg _ runs first).trans enters), lp_enterLp ..,
    othersKept_trans (onlyPort_noted _ _ _ _ _).2 (othersKept_trans (othersKept_setPort _ _ _) (othersKept_enterLp _ _ _))⟩

theorem lpAck_enters {s : State} {p : Nat} {id : BitVec 8} {arg : BitVec 16} {m : Lmc} (runs : linkRuns s p = true)
    (first : (portOf s p).lmcSeen = none) (own : (portOf s p).lmc = some m) (op : m.op = 5) (same : m.id = id)
    (granted : fieldNat arg 1 0 = 1 ∨ fieldNat arg 1 0 = 2) :
    ∃ t, exec (.lpAck p id arg) s = .next t ∧ (portOf t p).lp = BitVec.ofNat 2 (fieldNat arg 1 0) ∧ OtherPortsKept p s t := by
  have enters : onLpAck p id arg (noted p 6 id arg s) = enterLp p (fieldNat arg 1 0) (noted p 6 id arg s) := by
    simp [onLpAck, portOf_noted, own, op, same, granted]
  exact ⟨_, congrArg Host.Outcome.next ((onceLmc_of_first 6 id arg _ runs first).trans enters), lp_enterLp ..,
    othersKept_trans (onlyPort_noted _ _ _ _ _).2 (othersKept_enterLp _ _ _)⟩

theorem lpNak_ends {s : State} {p : Nat} {id : BitVec 8} (arg : BitVec 16) {m : Lmc} (runs : linkRuns s p = true)
    (first : (portOf s p).lmcSeen = none) (own : (portOf s p).lmc = some m) (op : m.op = 5) (same : m.id = id) :
    ∃ t, exec (.lpNak p id arg) s = .next t ∧ (portOf t p).lmc = none ∧ (portOf t p).lp = (portOf s p).lp ∧ OnlyPort p s t := by
  have ends : onLpNak p id (noted p 7 id arg s) = setPort p { portOf (noted p 7 id arg s) p with lmc := none } (noted p 7 id arg s) := by
    simp [onLpNak, portOf_noted, own, op, same]
  refine ⟨_, congrArg Host.Outcome.next ((onceLmc_of_first 7 id arg _ runs first).trans ends), ?_, ?_,
    onlyPort_trans (onlyPort_noted ..) (onlyPort_setPort ..)⟩
  · rw [portOf_setPort]
  · rw [portOf_setPort, portOf_noted]

/-! ## LINK_OFF (R286) -/

/-- In Direct topology the session of a link in ACTIVE ends with LINK_DOWN logged; what it holds is settled when a new one starts (R290). -/
theorem endSession_of_active {s : State} {p : Nat} (active : (portOf s p).st = .active) (d : direct s = true) :
    ∃ f, endSession p s = modPort p f (logDown p 3 s) ∧ (∀ q, (f q).st = .off) ∧ ∀ q, (f q).session = 0 := by
  have logged := logDown_within p 3 s
  have kept (f : Port → Port) : direct (modPort p f (logDown p 3 s)) = true :=
    (direct_of_kept (keeps_cfg logged.same rfl) (keeps_fuse logged.same rfl)).trans d
  simp only [endSession, active, decide_true, Bool.true_or, if_true, kept, Bool.not_true, Bool.and_false, Bool.false_eq_true, if_false]
  exact ⟨_, rfl, fun _ => rfl, fun _ => rfl⟩

theorem linkOff_endsSession {s : State} {p : Nat} (id : BitVec 8) (arg : BitVec 16) (runs : linkRuns s p = true) (d : direct s = true) :
    ∃ t, exec (.linkOff p id arg) s = .next t ∧ (portOf t p).st = .off ∧ (portOf t p).session = 0 ∧ OtherPortsKept p s t := by
  obtain ⟨f, ends, off, session⟩ := endSession_of_active (of_decide_eq_true runs) d
  refine ⟨_, congrArg Host.Outcome.next ((if_pos runs).trans ends), ?_, ?_,
    othersKept_trans (othersKept_of_port p (within_port (logDown_within p 3 s) rfl)) (othersKept_modPort _ _ _)⟩
  · rw [portOf_modPort, off]
  · rw [portOf_modPort, session]

/-! ## Caps and timers (R279 to R281) -/

theorem widthCapChange_retrains {s : State} {p : Nat} {code : BitVec 3} (runs : linkRuns s p = true) (band : inBand (portOf s p) = false)
    (small : code.toNat ≤ 4) (change : (portOf s p).cap ≠ code) (first : (portOf s p).retrains = []) (limit : aflParam s p 9 ≠ 0) :
    ∃ t, exec (.widthCapChange p code) s = .next t ∧ (portOf t p).cap = code ∧ (portOf t p).st = .retrain ∧ OtherPortsKept p s t := by
  let u := modPort p (fun q => { q with cap := code }) s
  have own : portOf u p = { portOf s p with cap := code } := portOf_modPort ..
  have runs' : linkRuns u p = true := by rw [linkRuns, own]; exact runs
  have band' : inBand (portOf u p) = false := by rw [own]; exact band
  have first' : (portOf u p).retrains = [] := by rw [own]; exact first
  have limit' : aflParam u p 9 ≠ 0 := (aflParam_setPort (v := { portOf s p with cap := code }) rfl rfl 9).trans_ne limit
  have run : exec (.widthCapChange p code) s = .next (startRetrain p 3 u) := by
    show execWidthCapChange p code s = _
    rw [execWidthCapChange, if_neg (by simp [Nat.not_lt.2 small, change])]
    exact (if_neg (c := (!linkRuns u p) = true) (by simp [runs'])).trans (if_pos (c := (!inBand (portOf u p)) = true) (by simp [band']))
  refine ⟨_, run, ?_, ?_, othersKept_trans (othersKept_modPort _ _ _) (othersKept_startRetrain _ _ _)⟩
  · rw [portOf_startRetrain_of_first 3 first' limit', own]
    rfl
  · rw [portOf_startRetrain_of_first 3 first' limit']
    rfl

theorem lmcTimeoutExpiry_ends {s : State} {p : Nat} (own : (portOf s p).lmc.isSome = true) :
    ∃ t, exec (.lmcTimeoutExpiry p) s = .next t ∧ (portOf t p).lmc = none ∧ (portOf t p).lmcAccepted = none ∧
      (portOf t p).width = (portOf s p).width ∧ OtherPortsKept p s t := by
  have run : ∃ scr, exec (.lmcTimeoutExpiry p) s = .next (evAfl p 12 (setPort p { dropExchange (portOf s p) with txScr := scr } s)) := by
    show ∃ scr, execLmcTimeoutExpiry p s = _
    simp only [execLmcTimeoutExpiry, own, Bool.true_or, if_true]
    split
    · exact ⟨_, rfl⟩
    · exact ⟨(portOf s p).txScr, rfl⟩
  obtain ⟨scr, run⟩ := run
  refine ⟨_, run, ?_, ?_, ?_, othersKept_trans (othersKept_setPort _ _ _) (othersKept_evAfl _ _ _ _)⟩
  all_goals
    rw [portOf_evAfl, portOf_setPort]
    rfl

theorem laneLockTimeout_rejects {s : State} {p : Nat} {m : Lmc} (accepted : (portOf s p).lmcAccepted = some m)
    (unlocked : addedLocked (portOf s p) (fieldNat m.arg 2 0) = false) (still : (portOf s p).rxSwitch = false) :
    ∃ t, exec (.laneLockTimeout p) s = .next t ∧ (portOf t p).answer = some { op := 3, id := m.id, arg := 4 } ∧
      (portOf t p).lmcAccepted = none ∧ OnlyPort p s t := by
  have run : exec (.laneLockTimeout p) s =
      .next (setPort p { answerLmc 3 m.id 4 (portOf s p) with lmcAccepted := none, locked := 0 } s) := by
    show execLaneLockTimeout p s = _
    simp [execLaneLockTimeout, accepted, unlocked, still]
  refine ⟨_, run, ?_, ?_, onlyPort_setPort ..⟩
  · rw [portOf_setPort]
    rfl
  · rw [portOf_setPort]

/-! ## The statement -/

/-- Settles O2: each step of link management by its lemma. -/
theorem linkManages : Obligations.LinkManages := by
  unfold Obligations.LinkManages
  refine ⟨?_, ?_, ?_, ?_, ?_, ?_, ?_, ?_, ?_⟩
  · exact fun s p id arg w g runs first band noneAccepted still own code lanes change =>
      wPropose_accepts runs first band noneAccepted still own code lanes change
  · exact fun s p id arg m runs first own op same =>
      ⟨fun locked => wAccept_switches runs first own op same locked, fun unlocked => wAccept_holds runs first own op same unlocked,
       wReject_ends runs first own op same⟩
  · exact fun s p id arg m w g runs first own op same lanes => wSwitch_completes runs first own op same lanes
  · exact fun s p id arg runs first own noneAccepted idle awake deep ask => lpReq_enters runs first own noneAccepted idle awake deep ask
  · exact fun s p id arg m runs first own op same =>
      ⟨fun granted => lpAck_enters runs first own op same granted, lpNak_ends arg runs first own op same⟩
  · exact fun s p id arg runs d => linkOff_endsSession id arg runs d
  · exact fun s p code runs band small change first limit => widthCapChange_retrains runs band small change first limit
  · exact fun s p own => lmcTimeoutExpiry_ends own
  · exact fun s p m accepted unlocked still => laneLockTimeout_rejects accepted unlocked still

end Sys2Proof.Laws
end

section
/-! PROOFS. The rest of a link in ACTIVE: low power, replay, failed lanes, and the flits that its lanes bring (R253, R268, R272, R273, R277,
R283, R284). -/

namespace Sys2Proof.Laws

open Sys2Proof Sys2Proof.Machine

/-! ## Low power (R283, R284) -/

theorem linkIdleEntry_asks {s : State} {p : Nat} (runs : linkRuns s p = true) (awake : (portOf s p).lp = 0)
    (idle : linkIdle (portOf s p) = true) (own : (portOf s p).lmc = none) (noneAccepted : (portOf s p).lmcAccepted = none)
    (deep : deepestLp s ≠ 0) :
    ∃ t, exec (.linkIdleEntry p) s = .next t ∧ OnlyPort p s t ∧
      (portOf t p).lmc = some { op := 5, id := (portOf s p).lmcNext, arg := BitVec.ofNat 16 (deepestLp s) } := by
  have asks : exec (.linkIdleEntry p) s = .next (setPort p (startLmc 5 (BitVec.ofNat 16 (deepestLp s)) (portOf s p)) s) :=
    if_neg (by simp [runs, awake, idle, own, noneAccepted, deep])
  refine ⟨_, asks, onlyPort_setPort .., ?_⟩
  rw [portOf_setPort]
  rfl

theorem lowPowerExit_exits {s : State} {p : Nat} (runs : linkRuns s p = true) (asleep : (portOf s p).lp ≠ 0) :
    ∃ t, exec (.lowPowerExit p) s = .next t ∧ (portOf t p).exiting = true ∧ (portOf t p).lp = (portOf s p).lp ∧ OnlyPort p s t := by
  refine ⟨_, congrArg Host.Outcome.next (if_pos (by simpa [runs] using asleep)), ?_, ?_, onlyPort_modPort ..⟩
  · rw [portOf_modPort]
  · rw [portOf_modPort]

theorem lowPowerExitTimeout_retrains {s : State} {p : Nat} (runs : linkRuns s p = true) (asleep : (portOf s p).lp ≠ 0)
    (exiting : (portOf s p).exiting = true) (first : (portOf s p).retrains = []) (limit : aflParam s p 9 ≠ 0) :
    ∃ t, exec (.lowPowerExitTimeout p) s = .next t ∧ (portOf t p).st = .retrain ∧ (portOf t p).lp = 0 ∧ OtherPortsKept p s t := by
  refine ⟨_, congrArg Host.Outcome.next (if_pos (by simpa [runs, exiting] using asleep)), ?_, ?_, othersKept_startRetrain _ _ _⟩
  all_goals
    rw [portOf_startRetrain_of_first 4 first limit]
    rfl

/-! ## Replay (R273) -/

theorem ackTimeoutExpiry_replays {s : State} {p : Nat} (active : (portOf s p).st = .active) (awake : (portOf s p).lp = 0)
    (sent : (portOf s p).replay ≠ []) (limit : (portOf s p).replays + 1 < aflParam s p 8) :
    ∃ t, exec (.ackTimeoutExpiry p) s = .next t ∧ (portOf t p).replays = (portOf s p).replays + 1 ∧
      (portOf t p).replay = (portOf s p).replay ∧ OtherPortsKept p s t := by
  have starts : ∃ seen, startReplay p s =
      resend p (evAfl p 8 (setPort p { portOf s p with replays := (portOf s p).replays + 1, nakSeen := seen } s)) := by
    simp only [startReplay, List.isEmpty_iff, sent, if_false, Nat.not_le.2 limit]
    exact ⟨_, rfl⟩
  obtain ⟨seen, starts⟩ := starts
  obtain ⟨line, scr, n, resent⟩ := portOf_resend p
    (evAfl p 8 (setPort p { portOf s p with replays := (portOf s p).replays + 1, nakSeen := seen } s))
  rw [portOf_evAfl, portOf_setPort] at resent
  refine ⟨_, congrArg Host.Outcome.next ((if_pos (by simp [active, awake])).trans starts), ?_, ?_,
    othersKept_trans (othersKept_setPort _ _ _) (othersKept_trans (othersKept_evAfl _ _ _ _) (othersKept_resend _ _))⟩
  · rw [resent]
  · rw [resent]

/-! ## A lane fails (R277) -/

theorem laneFailed_retrains {s : State} {p lane symbols : Nat} (runs : linkRuns s p = true) (known : lane < 16)
    (many : aflParam s p 10 ≤ symbols) (first : (portOf s p).retrains = []) (limit : aflParam s p 9 ≠ 0) :
    ∃ t, exec (.laneFailed p lane false symbols) s = .next t ∧ (portOf t p).st = .retrain ∧
      (portOf t p).laneFail = (portOf s p).laneFail ||| place 16 lane (1 : BitVec 1) ∧ OtherPortsKept p s t := by
  have run : ∃ r, exec (.laneFailed p lane false symbols) s = .next (startRetrain p 2 (logIt r (setPort p
      { portOf s p with laneFail := (portOf s p).laneFail ||| place 16 lane (1 : BitVec 1) } s))) := by
    have enough : ¬ max symbols (sget 0 (portOf s p).laneErr lane) < aflParam s p 10 := by omega
    show ∃ r, execLaneFailed p lane false symbols s = _
    unfold execLaneFailed
    dsimp only
    rw [if_neg (by simp [runs, Nat.not_le.2 known, enough])]
    exact ⟨_, rfl⟩
  obtain ⟨r, run⟩ := run
  let v : Port := { portOf s p with laneFail := (portOf s p).laneFail ||| place 16 lane (1 : BitVec 1) }
  have own : portOf (logIt r (setPort p v s)) p = v := by rw [portOf_logIt, portOf_setPort]
  have first' : (portOf (logIt r (setPort p v s)) p).retrains = [] := by rw [own]; exact first
  have limit' : aflParam (logIt r (setPort p v s)) p 9 ≠ 0 :=
    (aflParam_of_kept (s := s) (by simp) (by simp) (by rw [own]) (by rw [own]) 9).trans_ne limit
  refine ⟨_, run, ?_, ?_, othersKept_trans (othersKept_setPort _ _ _)
    (othersKept_trans (othersKept_logIt _ _ _) (othersKept_startRetrain _ _ _))⟩
  all_goals
    rw [portOf_startRetrain_of_first 2 first' limit', own]
    rfl

/-! ## What a receiver keeps (R268, R272, R274) -/

/-- What a port has of the flits received: the SEQ that it expects, its ACK and NAK, the partner's credits, and the run of bad flits. -/
def receipt (q : Port) : BitVec 12 × BitVec 12 × Bool × BitVec 12 × BitVec 12 × Nat :=
  (q.expect, q.ack, q.nak, q.freedReq, q.freedRsp, q.badRun)

theorem receipt_finishWidth (p c : Nat) (s : State) : receipt (portOf (finishWidth p c s) p) = receipt (portOf s p) := by
  cases lanes : widthUpTo (portOf s p) c with
  | some d =>
    obtain ⟨rx, tx, e⟩ := portOf_finishWidth (w := d.1) (g := d.2) lanes
    rw [e]
    rfl
  | none =>
    simp only [finishWidth, lanes, portOf_setPort]
    rfl

/-- A receiver that is about to move counts a flit (R281), whatever it was. -/
theorem receipt_countSwitch (p : Nat) (s : State) : receipt (portOf (countSwitch p s) p) = receipt (portOf s p) := by
  unfold countSwitch
  split
  · rfl
  · exact receipt_finishWidth ..
  · rw [portOf_modPort]
    rfl

theorem othersKept_countSwitch (p : Nat) (s : State) : OtherPortsKept p s (countSwitch p s) := by
  unfold countSwitch
  split
  · exact othersKept_of_port p rfl
  · exact othersKept_finishWidth _ _ _
  · exact othersKept_modPort _ _ _

theorem receiveFlit_of_awake {s : State} {p : Nat} (f : BitVec 2048) (runs : linkRuns s p = true) (awake : (portOf s p).lp = 0) :
    receiveFlit p f s = countSwitch p (takeFlit p f s) := if_neg (by simp [runs, awake])

/-! ## A good flit (R268, R269, R271, R272) -/

/-- A good flit is counted, its corrected symbols too, and the descramblers advance: what `takeFlit` does before it reads the flit. -/
def goodFlit (p : Nat) (fixes : List Nat) (s : State) : State :=
  evAfl p 5 (countFixes p fixes (modPort p (fun q => { q with badRun := 0, rxScr := scrNext q q.rxScr }) s))

theorem goodFlit_eq (p : Nat) (fixes : List Nat) (s : State) :
    evAfl p 5 (countFixes p fixes (modPort p (fun q => { q with badRun := 0, rxScr := scrNext q q.rxScr }) s)) = goodFlit p fixes s := rfl

theorem portOf_goodFlit (p : Nat) (fixes : List Nat) (s : State) :
    ∃ err scr, portOf (goodFlit p fixes s) p = { portOf s p with badRun := 0, rxScr := scr, laneErr := err } := by
  simp only [goodFlit, countFixes, portOf_evAfl, portOf_modPort, portOf_evAdd]
  exact ⟨_, _, rfl⟩

theorem othersKept_goodFlit (p : Nat) (fixes : List Nat) (s : State) : OtherPortsKept p s (goodFlit p fixes s) := by
  intro q other
  simp only [goodFlit, countFixes, portOf_evAfl, portOf_modPort_other other, portOf_evAdd]

theorem goodFlit_quay (p : Nat) (fixes : List Nat) (s : State) : (goodFlit p fixes s).quay = s.quay := by simp [goodFlit, countFixes]

/-- With no speculative response held there is none that a PAYLOAD flit releases (R117). -/
theorem specFlit_of_noneHeld (p : Nat) {s : State} (h : ∀ d ∈ s.quay.devReqs, d.held = none) : specFlit p s = s := by
  have due : s.quay.devReqs.filter (fun d => (d.held.isSome && d.status.isNone && decide (portTo s d.dst = p)) && decide (d.spec ≤ 1)) = [] :=
    List.filter_eq_nil_iff.2 (fun d hd => by simp [h d hd])
  have same : s.quay.devReqs.map (fun d => if (d.held.isSome && d.status.isNone && decide (portTo s d.dst = p)) = true then
      { d with spec := d.spec - 1 } else d) = s.quay.devReqs :=
    (List.map_congr_left (fun d hd => by simp [h d hd])).trans (List.map_id _)
  simp only [specFlit, due, same, List.foldl_nil]

/-- Slots that hold nothing deliver nothing (R269). -/
theorem takeSlots_of_empty (p : Nat) {f : BitVec 2048} (empty : ∀ i, i < 15 → slotKind f i = 0) (n i : Nat) (s : State)
    (inside : i + n ≤ 15) : takeSlots p f n i s = (none, s) := by
  induction n generalizing i with
  | zero => rfl
  | succ n ih =>
    simp only [takeSlots, empty i (by omega)]
    exact ih (i + 1) (by omega)

/-- A header with neither a NAK nor a link management command acknowledges and carries credits (R271, R274). -/
theorem takeHeader_of_plain (p : Nat) {f : BitVec 2048} (s : State) (nak : (slotOf f 0).getLsbD 28 = false)
    (op : fieldNat (slotOf f 0) 87 84 = 0) : takeHeader p f s = modPort p (fun q => { acked ((slotOf f 0).extractLsb' 16 12) q with
      freedReq := (slotOf f 0).extractLsb' 32 12, freedRsp := (slotOf f 0).extractLsb' 44 12 }) s := by
  simp only [takeHeader, headerLmc, nak, op, Bool.false_and, Bool.false_eq_true, if_false]

theorem receipt_takeHeader_of_plain (p : Nat) {f : BitVec 2048} (s : State) (nak : (slotOf f 0).getLsbD 28 = false)
    (op : fieldNat (slotOf f 0) 87 84 = 0) : receipt (portOf (takeHeader p f s) p) = ((portOf s p).expect, (portOf s p).ack,
      (portOf s p).nak, (slotOf f 0).extractLsb' 32 12, (slotOf f 0).extractLsb' 44 12, (portOf s p).badRun) := by
  obtain ⟨l, n, seen, e⟩ := acked_eq ((slotOf f 0).extractLsb' 16 12) (portOf s p)
  rw [takeHeader_of_plain p s nak op, portOf_modPort, e]
  rfl

theorem othersKept_takeHeader_of_plain (p : Nat) {f : BitVec 2048} (s : State) (nak : (slotOf f 0).getLsbD 28 = false)
    (op : fieldNat (slotOf f 0) 87 84 = 0) : OtherPortsKept p s (takeHeader p f s) := by
  rw [takeHeader_of_plain p s nak op]
  exact othersKept_modPort _ _ _

/-! ## Flits received (R253, R268, R272) -/

/-- A good PAYLOAD flit in sequence that carries no slots. -/
theorem takeFlit_of_payload {s : State} {p : Nat} {flit f : BitVec 2048} {fixes : List Nat}
    (good : flitDecode (fromLanes (portOf s p) flit) = some (f, fixes)) (kind : fieldNat f 3 0 = 1)
    (seq : f.extractLsb' 4 12 = (portOf s p).expect) (empty : ∀ i, i < 15 → slotKind f i = 0)
    (noneHeld : ∀ d ∈ s.quay.devReqs, d.held = none) : takeFlit p flit s = takeHeader p f (setPort p { portOf (goodFlit p fixes s) p with
      expect := (portOf s p).expect + 1, ack := (portOf s p).expect, nak := false } (goodFlit p fixes s)) := by
  obtain ⟨err, scr, own⟩ := portOf_goodFlit p fixes s
  have inSequence : (portOf (goodFlit p fixes s) p).expect = (portOf s p).expect := by rw [own]
  have free (v : Port) : specFlit p (setPort p v (goodFlit p fixes s)) = setPort p v (goodFlit p fixes s) :=
    specFlit_of_noneHeld p (by simpa only [setPort_quay, goodFlit_quay] using noneHeld)
  simp only [takeFlit, good, goodFlit_eq, kind, seq, inSequence, if_true, free, takeSlots_of_empty p empty 14 1 _ (Nat.le_refl 15)]

/-- A good IDLE flit with the SEQ that is expected shows no gap. -/
theorem takeFlit_of_idle {s : State} {p : Nat} {flit f : BitVec 2048} {fixes : List Nat}
    (good : flitDecode (fromLanes (portOf s p) flit) = some (f, fixes)) (kind : fieldNat f 3 0 = 0)
    (seq : f.extractLsb' 4 12 = (portOf s p).expect) : takeFlit p flit s = takeHeader p f (goodFlit p fixes s) := by
  obtain ⟨err, scr, own⟩ := portOf_goodFlit p fixes s
  have inSequence : (portOf (goodFlit p fixes s) p).expect = (portOf s p).expect := by rw [own]
  have noGap : (f.extractLsb' 4 12 - (portOf (goodFlit p fixes s) p).expect).toNat = 0 := by
    rw [seq, inSequence, BitVec.sub_self]
    rfl
  simp [takeFlit, good, goodFlit_eq, kind, noGap]

/-- A flit that fails FEC is NAKed. -/
theorem takeFlit_of_bad {s : State} {p : Nat} {flit : BitVec 2048} (bad : flitDecode (fromLanes (portOf s p) flit) = none) :
    takeFlit p flit s = evAfl p 7 (modPort p (fun q => { q with nak := true, badRun := q.badRun + 1, rxScr := scrNext q q.rxScr }) s) := by
  simp only [takeFlit, bad]

theorem payloadFlit_advances {s : State} {p : Nat} {flit f : BitVec 2048} {fixes : List Nat} (runs : linkRuns s p = true)
    (awake : (portOf s p).lp = 0) (good : flitDecode (fromLanes (portOf s p) flit) = some (f, fixes)) (kind : fieldNat f 3 0 = 1)
    (seq : f.extractLsb' 4 12 = (portOf s p).expect) (empty : ∀ i, i < 15 → slotKind f i = 0)
    (nak : (slotOf f 0).getLsbD 28 = false) (op : fieldNat (slotOf f 0) 87 84 = 0) (noneHeld : ∀ d ∈ s.quay.devReqs, d.held = none) :
    ∃ t, exec (.payloadFlit p flit) s = .next t ∧ (portOf t p).expect = (portOf s p).expect + 1 ∧
      (portOf t p).ack = (portOf s p).expect ∧ (portOf t p).nak = false ∧ OtherPortsKept p s t := by
  have takes := takeFlit_of_payload good kind seq empty noneHeld
  have had := receipt_countSwitch p (takeFlit p flit s)
  rw [takes, receipt_takeHeader_of_plain p _ nak op, portOf_setPort] at had
  simp only [receipt, Prod.mk.injEq] at had
  obtain ⟨expect, ack, noNak, -⟩ := had
  refine ⟨_, congrArg Host.Outcome.next ((receiveFlit_of_awake flit runs awake).trans (congrArg (countSwitch p) takes)), expect, ack, noNak, ?_⟩
  exact othersKept_trans (othersKept_goodFlit p fixes s) (othersKept_trans (othersKept_setPort _ _ _)
    (othersKept_trans (othersKept_takeHeader_of_plain p _ nak op) (othersKept_countSwitch p _)))

theorem idleFlit_carriesCredits {s : State} {p : Nat} {flit f : BitVec 2048} {fixes : List Nat} (runs : linkRuns s p = true)
    (awake : (portOf s p).lp = 0) (good : flitDecode (fromLanes (portOf s p) flit) = some (f, fixes)) (kind : fieldNat f 3 0 = 0)
    (seq : f.extractLsb' 4 12 = (portOf s p).expect) (nak : (slotOf f 0).getLsbD 28 = false) (op : fieldNat (slotOf f 0) 87 84 = 0) :
    ∃ t, exec (.idleFlit p flit) s = .next t ∧ (portOf t p).expect = (portOf s p).expect ∧
      (portOf t p).freedReq = (slotOf f 0).extractLsb' 32 12 ∧ (portOf t p).freedRsp = (slotOf f 0).extractLsb' 44 12 ∧
      OtherPortsKept p s t := by
  have takes := takeFlit_of_idle good kind seq
  have had := receipt_countSwitch p (takeFlit p flit s)
  obtain ⟨err, scr, own⟩ := portOf_goodFlit p fixes s
  rw [takes, receipt_takeHeader_of_plain p _ nak op, own] at had
  simp only [receipt, Prod.mk.injEq] at had
  obtain ⟨expect, -, -, freedReq, freedRsp, -⟩ := had
  refine ⟨_, congrArg Host.Outcome.next ((receiveFlit_of_awake flit runs awake).trans (congrArg (countSwitch p) takes)), expect, freedReq,
    freedRsp, ?_⟩
  exact othersKept_trans (othersKept_goodFlit p fixes s)
    (othersKept_trans (othersKept_takeHeader_of_plain p _ nak op) (othersKept_countSwitch p _))

theorem badFlit_naks {s : State} {p : Nat} {flit : BitVec 2048} (runs : linkRuns s p = true) (awake : (portOf s p).lp = 0)
    (bad : flitDecode (fromLanes (portOf s p) flit) = none) :
    ∃ t, exec (.badFlit p flit) s = .next t ∧ (portOf t p).nak = true ∧ (portOf t p).badRun = (portOf s p).badRun + 1 ∧
      (portOf t p).expect = (portOf s p).expect ∧ OtherPortsKept p s t := by
  have takes := takeFlit_of_bad bad
  have had := receipt_countSwitch p (takeFlit p flit s)
  rw [takes, portOf_evAfl, portOf_modPort] at had
  simp only [receipt, Prod.mk.injEq] at had
  obtain ⟨expect, -, nak, -, -, run⟩ := had
  refine ⟨_, congrArg Host.Outcome.next ((receiveFlit_of_awake flit runs awake).trans (congrArg (countSwitch p) takes)), nak, run, expect, ?_⟩
  exact othersKept_trans (othersKept_modPort _ _ _) (othersKept_trans (othersKept_evAfl _ _ _ _) (othersKept_countSwitch p _))

/-! ## The statement -/

/-- Settles O3: each step of a link in ACTIVE by its lemma. -/
theorem linkCarries : Obligations.LinkCarries := by
  unfold Obligations.LinkCarries
  refine ⟨?_, ?_, ?_, ?_, ?_, ?_, ?_⟩
  · exact fun s p runs awake idle own noneAccepted deep => linkIdleEntry_asks runs awake idle own noneAccepted deep
  · exact fun s p runs asleep => ⟨lowPowerExit_exits runs asleep,
      fun exiting first limit => lowPowerExitTimeout_retrains runs asleep exiting first limit⟩
  · exact fun s p active awake sent limit => ackTimeoutExpiry_replays active awake sent limit
  · exact fun s p lane symbols runs known many first limit => laneFailed_retrains runs known many first limit
  · exact fun s p flit f fixes runs awake good kind seq empty nak op noneHeld =>
      payloadFlit_advances runs awake good kind seq empty nak op noneHeld
  · exact fun s p flit f fixes runs awake good kind seq nak op => idleFlit_carriesCredits runs awake good kind seq nak op
  · exact fun s p flit runs awake bad => badFlit_naks runs awake bad

end Sys2Proof.Laws
end

section
/-! PROOFS. Packets of the management class: register accesses over a port and SPDM fragments (R95, R314, R315, R464). -/

namespace Sys2Proof.Laws

open Sys2Proof Sys2Proof.Machine

/-! ## Receipt (R275, R314) -/

/-- A packet of the management class is counted and leaves the receive buffer. -/
def mgmtTaken (port : Nat) (op : BitVec 8) (src : Node) (tag : Tag) (s : State) : State := evAfl port 14 (takeRx port op src tag s)

theorem sameHome_mgmtTaken (p port : Nat) (op : BitVec 8) (src : Node) (tag : Tag) (s : State) :
    SameHome p s (mgmtTaken port op src tag s) := (sameHome_takeRx ..).trans (sameHome_evAfl ..)

/-- A packet that leaves the receive buffer changes nothing of the link's partner. -/
theorem partner_takeRx (p : Nat) (op : BitVec 8) (src : Node) (tag : Tag) (s : State) :
    (portOf (takeRx p op src tag s) p).partnerUp = (portOf s p).partnerUp ∧
      (portOf (takeRx p op src tag s) p).partner = (portOf s p).partner := by
  unfold takeRx
  dsimp only
  split
  · exact ⟨rfl, rfl⟩
  · split <;> rw [portOf_setPort] <;> exact ⟨rfl, rfl⟩

theorem mgmtEnable_mgmtTaken (p : Nat) (op : BitVec 8) (src : Node) (tag : Tag) (s : State) :
    mgmtEnable (mgmtTaken p op src tag s) p = mgmtEnable s p := by
  have same := sameHome_mgmtTaken p p op src tag s
  obtain ⟨up, partner⟩ := partner_takeRx p op src tag s
  have port : portOf (mgmtTaken p op src tag s) p = portOf (takeRx p op src tag s) p := portOf_evAfl ..
  have recs (i n : Nat) : paramRec (mgmtTaken p op src tag s) 0x0D i n = paramRec s 0x0D i n := by
    rw [paramRec, same.recsOf, paramRec]
  rw [mgmtEnable, portBit, recs, recs, port, partnerRole, up, partner]
  rfl

/-- A packet of the management class for this device, on a port with MGMT_ENABLE, in Service with nothing under way at home. -/
structure MgmtReaches (s : State) (port : Nat) (dst : Node) : Prop where
  mode : s.aon.mode = .service
  quiet : Quiet s
  hold : s.reins.hold = []
  home : dst = nodeId s
  enabled : mgmtEnable s port = true

/-- It is served once it is received. -/
theorem mgmtClass_serves {s : State} {port : Nat} {dst : Node} (h : MgmtReaches s port dst) (op : BitVec 8) (src : Node) (tag : Tag)
    (k : Pkt) (serve : State → State) :
    mgmtClass port op src dst tag k serve s = serve (mgmtTaken port op src tag s) := by
  have same := sameHome_mgmtTaken port port op src tag s
  have fresh := duplicate_of_quiet (same.quiet h.quiet) (same.hold.trans h.hold) { src := src, tag := tag }
  have here : ¬ dst ≠ nodeId (mgmtTaken port op src tag s) := not_not.2 (h.home.trans same.nodeId.symm)
  have enabled := (mgmtEnable_mgmtTaken port op src tag s).trans h.enabled
  unfold mgmtClass
  rw [if_neg (by simp [diesDark, h.mode]), if_neg (by simp [mgmtWaits, h.mode])]
  dsimp only
  rw [← mgmtTaken, if_neg (Bool.eq_false_iff.1 fresh), if_neg here, if_neg (by simp [enabled])]

/-! ## Register accesses (R314, R463, R464) -/

theorem byteMask_word : byteMask 32 0x0F = BitVec.allOnes 32 := by decide

theorem accessBad_ceCfg (s : State) : accessBad s 0x58 false 0x0F = false := by simp [accessBad, blkOf, blkPresent]

theorem regRead_ceCfg (s : State) (path : Nat) : regRead s path 0x58 = some s.aon.ceCfg := rfl

/-- A 32-bit read of a register gives the bytes that it enables. -/
theorem accessWord_reads {s : State} {path off : Nat} {old : BitVec 32} (read : regRead s path off = some old) (node : Node) (be : BitVec 8)
    (data : BitVec 64) : accessWord path node off false be data s =
      ({ ok := true, data := (old &&& byteMask 32 be).setWidth 64 }, stepIdx path off s) := by
  unfold accessWord
  rw [read]
  rfl

/-- A 32-bit write that its register takes replaces the bytes that it enables. -/
theorem accessWord_writes {s t : State} {path off : Nat} {old : BitVec 32} {node : Node} {be : BitVec 8} {data : BitVec 64}
    (read : regRead s path off = some old)
    (taken : regWrite path node off (old &&& ~~~byteMask 32 be ||| data.extractLsb' 0 32 &&& byteMask 32 be) (byteMask 32 be) s = (true, t)) :
    accessWord path node off true be data s = ({ ok := true }, stepIdx path off t) := by
  unfold accessWord
  rw [read]
  dsimp only
  rw [if_pos rfl, taken]
  rfl

theorem access_readCeCfg (path : Nat) (node : Node) (data : BitVec 64) (s : State) :
    access path node 0x58 false false 0x0F data s = ({ ok := true, data := s.aon.ceCfg.setWidth 64 }, s) := by
  have read := accessWord_reads (regRead_ceCfg s path) node 0x0F data
  rw [byteMask_word, BitVec.and_allOnes] at read
  rw [access, accessBad_ceCfg]
  exact read

/-- A field of the low word is a field of the pair. -/
theorem fieldNat_lowWord (x : BitVec 64) {hi : Nat} (low : hi < 32) (lo : Nat) :
    fieldNat (x.extractLsb' 0 32) hi lo = fieldNat x hi lo := by
  rw [fieldNat_eq_extractLsb', fieldNat_eq_extractLsb']
  refine congrArg BitVec.toNat (BitVec.eq_of_getLsbD_eq fun i inside => ?_)
  simp [show lo + i < 32 by omega]

theorem access_writeCeCfg (path : Nat) (node : Node) {data : BitVec 64} (bank : 1 ≤ fieldNat data 29 20) (window : 1 ≤ fieldNat data 19 12)
    (frame : 1 ≤ fieldNat data 11 4) (s : State) : access path node 0x58 false true 0x0F data s =
      ({ ok := true }, { s with aon.ceCfg := data.extractLsb' 0 32 &&& 0xFFFFFFF0 }) := by
  have word : s.aon.ceCfg &&& ~~~byteMask 32 0x0F ||| data.extractLsb' 0 32 &&& byteMask 32 0x0F = data.extractLsb' 0 32 := by
    rw [byteMask_word, BitVec.not_allOnes, BitVec.and_zero, BitVec.zero_or, BitVec.and_allOnes]
  have written : ceCfgWrite (data.extractLsb' 0 32) s = (true, { s with aon.ceCfg := data.extractLsb' 0 32 &&& 0xFFFFFFF0 }) :=
    if_pos (by simp [fieldNat_lowWord, bank, window, frame])
  rw [access, accessBad_ceCfg]
  exact accessWord_writes (node := node) (regRead_ceCfg s path) ((congrArg (ceCfgWrite · s) word).trans written)

/-- No block holds the offset. -/
theorem access_unmapped (path : Nat) (node : Node) (wide write : Bool) (be : BitVec 8) (data : BitVec 64) (s : State) :
    access path node 0x50000 wide write be data s = ({}, s) := by
  rw [access, if_pos (by simp [accessBad, blkOf, blkPresent])]

/-- The packet that answers an access (R314). -/
def mgmtAnswer (write : Bool) (a : Answer) (m : Mgmt) (n : Node) : Pkt :=
  if !a.ok then { hdr := rspHdr 0x5E m.src n m.tag 4 {}, body := [] }
  else if write then { hdr := rspHdr 0x61 m.src n m.tag 0 {}, body := [] }
  else { hdr := rspHdr 0x60 m.src n m.tag 0 {}, body := [a.data.setWidth 128] }

/-- The access ends and is counted. -/
def accessCounted (m : Mgmt) (cpx : Option Nat) (ok : Bool) (s : State) : State := evMgt (m.port / 2) 3 (regDone (m.port + 1) cpx ok s)

/-- Over a port the end of an access leaves no status for I3C: it only counts. -/
theorem accessCounted_counts (m : Mgmt) (cpx : Option Nat) (ok : Bool) (s : State) :
    SameHome m.port s (accessCounted m cpx ok s) ∧ (accessCounted m cpx ok s).aon = s.aon := by
  have ends : SameHome m.port s (regDone (m.port + 1) cpx ok s) ∧ (regDone (m.port + 1) cpx ok s).aon = s.aon := by
    unfold regDone
    simp only [Nat.succ_ne_zero, if_false]
    split
    · exact ⟨sameHome_evAdd .., evAdd_aon ..⟩
    · exact ⟨.refl .., rfl⟩
  obtain ⟨same, aon⟩ := ends
  exact ⟨same.trans (sameHome_evAdd ..), (evAdd_aon ..).trans aon⟩

/-- An access that leaves the home as it was is answered on its port, and nothing follows. -/
theorem mgmtAccess_answers {write : Bool} {m : Mgmt} {s t : State} {a : Answer}
    (done : access (m.port + 1) m.src m.offset.toNat m.wide write m.be m.data s = (a, t)) (same : SameHome m.port s t) (quiet : Quiet s) :
    ∃ u, SameHome m.port s u ∧ u.aon = t.aon ∧ mgmtAccess write m s = sendPkt m.port (mgmtAnswer write a m (nodeId u)) u := by
  obtain ⟨counts, aon⟩ := accessCounted_counts m (serving t (m.port + 1) m.offset.toNat) a.ok t
  refine ⟨_, same.trans counts, aon, ?_⟩
  generalize served : accessCounted m (serving t (m.port + 1) m.offset.toNat) a.ok t = u at counts
  have ends : mgmtAccess write m s = settle (sendPkt m.port (mgmtAnswer write a m (nodeId u)) u) := by
    unfold mgmtAccess
    dsimp only
    rw [done]
    dsimp only
    rw [← accessCounted, served, mgmtAnswer]
    split
    · rfl
    · split <;> rfl
  have sent := sendPkt_within m.port (mgmtAnswer write a m (nodeId u)) u
  rw [ends, settle_of_quiet (quiet_of_kept ((same.trans counts).quiet quiet) (within_quay sent rfl) (congrArg _ (within_reins sent rfl)))]

/-- A packet that reaches the device, and the answer that its access gives: it is sent on the packet's port. -/
theorem mgmtClass_answers {write : Bool} {m : Mgmt} {s t : State} {a : Answer} (h : MgmtReaches s m.port m.dst)
    (up : portUp s m.port = true) (op : BitVec 8) (k : Pkt) (same : SameHome m.port (mgmtTaken m.port op m.src m.tag s) t)
    (done : access (m.port + 1) m.src m.offset.toNat m.wide write m.be m.data (mgmtTaken m.port op m.src m.tag s) = (a, t)) :
    (mgmtClass m.port op m.src m.dst m.tag k (mgmtAccess write m) s).aon.ceCfg = t.aon.ceCfg ∧
      Sent m.port (mgmtAnswer write a m (nodeId s)) s (mgmtClass m.port op m.src m.dst m.tag k (mgmtAccess write m) s) := by
  have received := sameHome_mgmtTaken m.port m.port op m.src m.tag s
  obtain ⟨u, served, aon, answers⟩ := mgmtAccess_answers done same (received.quiet h.quiet)
  have heard := received.trans served
  rw [mgmtClass_serves h, answers]
  refine ⟨?_, ?_⟩
  · rw [within_aon (sendPkt_within ..) rfl rfl, aon]
  · rw [heard.nodeId]
    exact sent_of_heard heard.toHeard up _

section
variable {s : State} {m : Mgmt} (h : MgmtReaches s m.port m.dst) (up : portUp s m.port = true)
include h up

/-- MGMT_RD of AON_CE_CFG is answered with its value. -/
theorem mgmtRd_ceCfg (offset : m.offset = 0x58) (word : m.wide = false) (be : m.be = 0x0F) :
    ∃ t, exec (.mgmtRd m) s = .next t ∧ t.aon.ceCfg = s.aon.ceCfg ∧
      Sent m.port { hdr := rspHdr 0x60 m.src (nodeId s) m.tag 0 {}, body := [s.aon.ceCfg.setWidth 128] } s t := by
  have kept : (mgmtTaken m.port 0x30 m.src m.tag s).aon = s.aon :=
    (evAdd_aon ..).trans (within_aon (takeRx_within ..) rfl rfl)
  have done := access_readCeCfg (m.port + 1) m.src m.data (mgmtTaken m.port 0x30 m.src m.tag s)
  obtain ⟨value, sent⟩ := mgmtClass_answers (write := false) h up 0x30 (mgmtPkt 0x30 m) (.refl ..)
    (by rw [offset, word, be]; exact done)
  refine ⟨_, rfl, value.trans (congrArg Aon.ceCfg kept), ?_⟩
  rw [kept] at sent
  have widened : (s.aon.ceCfg.setWidth 64).setWidth 128 = s.aon.ceCfg.setWidth 128 := by simp
  rwa [← widened]

/-- MGMT_WR of AON_CE_CFG takes effect and is answered. -/
theorem mgmtWr_ceCfg (offset : m.offset = 0x58) (word : m.wide = false) (be : m.be = 0x0F) (bank : 1 ≤ fieldNat m.data 29 20)
    (window : 1 ≤ fieldNat m.data 19 12) (frame : 1 ≤ fieldNat m.data 11 4) :
    ∃ t, exec (.mgmtWr m) s = .next t ∧ t.aon.ceCfg = m.data.extractLsb' 0 32 &&& 0xFFFFFFF0 ∧
      Sent m.port { hdr := rspHdr 0x61 m.src (nodeId s) m.tag 0 {}, body := [] } s t := by
  have written (u : State) (v : BitVec 32) : SameHome m.port u { u with aon.ceCfg := v } :=
    ⟨by refine heard_of_kept ?_ ?_ ?_ ?_ _ <;> rfl, rfl, rfl, rfl, rfl, rfl, rfl, rfl⟩
  have done := access_writeCeCfg (m.port + 1) m.src bank window frame (mgmtTaken m.port 0x31 m.src m.tag s)
  obtain ⟨value, sent⟩ := mgmtClass_answers (write := true) h up 0x31 (mgmtPkt 0x31 m) (written ..)
    (by rw [offset, word, be]; exact done)
  exact ⟨_, rfl, value, sent⟩

/-- An access to an offset that no block holds is answered ERR_REG. -/
theorem mgmt_unmapped (offset : m.offset = 0x50000) (write : Bool) (op : BitVec 8) (k : Pkt) :
    Sent m.port { hdr := rspHdr 0x5E m.src (nodeId s) m.tag 4 {}, body := [] } s
      (mgmtClass m.port op m.src m.dst m.tag k (mgmtAccess write m) s) := by
  have done := access_unmapped (m.port + 1) m.src m.wide write m.be m.data (mgmtTaken m.port op m.src m.tag s)
  exact (mgmtClass_answers h up op k (.refl ..) (by rw [offset]; exact done)).2

end

/-! ## SPDM (R95, R315) -/

/-- What the reassembly of SPDM messages and its results are made of. -/
def spdmView (s : State) : SMap Reassembly × AonSec × Nat := (s.mgt.spdm, s.sec, s.free)

theorem spdmView_evAdd (id n : Nat) (s : State) : spdmView (evAdd id n s) = spdmView s := by
  unfold evAdd
  split <;> rfl

theorem spdmView_logIt (r : LogRec) (s : State) : spdmView (logIt r s) = spdmView s := by
  unfold logIt
  dsimp only
  split
  · rfl
  · exact spdmView_evAdd ..

theorem spdmView_pktInvalid (port : Nat) (op : BitVec 8) (src : Node) (tag : Tag) (reason : Nat) (s : State) :
    spdmView (pktInvalid port op src tag reason s) = spdmView s := (spdmView_evAdd ..).trans (spdmView_logIt ..)

theorem spdmView_of_within {p : Parts} {s t : State} (h : Within p s t) (k : (p.mgt || p.sec || p.free) = false) :
    spdmView t = spdmView s := by
  simp only [Bool.or_eq_false_iff] at k
  obtain ⟨⟨mgt, sec⟩, free⟩ := k
  rw [spdmView, keeps_mgt h.same mgt, keeps_sec h.same sec, keeps_free h.same free, spdmView]

theorem spdmView_mgmtTaken (port : Nat) (op : BitVec 8) (src : Node) (tag : Tag) (s : State) :
    spdmView (mgmtTaken port op src tag s) = spdmView s :=
  (spdmView_evAdd ..).trans (spdmView_of_within (takeRx_within ..) rfl)

/-- The answer to a message touches only its port. -/
theorem spdmView_sendPkts (port : Nat) (l : List Pkt) (s : State) : spdmView (l.foldl (fun t k => sendPkt port k t) s) = spdmView s :=
  spdmView_of_within (p := { port := true }) (w_foldl (.refl ..) fun _ _ sent => .to (sendPkt_within ..) rfl sent) rfl

/-- The secrets once a whole message is processed: a key transport slot that it names is filled. -/
def spdmSecrets (k : Nat) (bytes : List Byte) (a : AonSec) : AonSec :=
  match Config.spdmKtk k bytes with
  | some (slot, key) => { a with ktk := sset none a.ktk slot.toNat (some key) }
  | none => a

theorem spdmView_spdmDone (m : Spdm) (bytes : List Byte) (s : State) :
    spdmView (spdmDone m bytes s) = (s.mgt.spdm, spdmSecrets s.free bytes s.sec, s.free + 1) := by
  have spdm : (evMgt (m.port / 2) 5 { s with free := s.free + 1 }).mgt.spdm = s.mgt.spdm := congrArg Prod.fst (spdmView_evAdd ..)
  unfold spdmDone spdmSecrets
  dsimp only
  rw [spdmView_sendPkts]
  cases Config.spdmKtk s.free bytes <;> simp [spdmView, spdm]

/-- The reassembly under the fragment's key as it now stands; none in progress is the empty one. -/
def spdmKept (m : Spdm) (r : Reassembly) (s : State) : State := { s with mgt.spdm := sset {} s.mgt.spdm (spdmKey m) r }

theorem sget_spdmKept (m : Spdm) (r : Reassembly) (s : State) : sget {} (spdmKept m r s).mgt.spdm (spdmKey m) = r :=
  sget_sset_same ..

/-- The first fragment of a message, which is its last one too or waits for the others. -/
theorem spdmFragment_first {m : Spdm} {s : State} (some' : 1 ≤ m.fragLen.toNat) (fits : m.fragLen.toNat ≤ 208) (first : m.fragIndex = 0)
    (idle : (sget {} s.mgt.spdm (spdmKey m)).active = false) (none' : (sget {} s.mgt.spdm (spdmKey m)).bytes = []) :
    spdmFragment m s = if m.last then spdmDone m (m.bytes.take m.fragLen.toNat) (spdmKept m {} s)
      else spdmKept m { active := true, msgId := m.msgId, nextIdx := 1, bytes := m.bytes.take m.fragLen.toNat } s := by
  have filled : ¬ m.fragLen = 0 := fun zero => by simp [zero] at some'
  unfold spdmFragment
  simp only [idle, none', first]
  rw [if_neg (by simpa [fits] using filled)]
  rfl

/-- A later fragment with no reassembly in progress discards what there was. -/
theorem spdmFragment_gap {m : Spdm} {s : State} (later : m.fragIndex ≠ 0) (idle : (sget {} s.mgt.spdm (spdmKey m)).active = false) :
    spdmFragment m s = pktInvalid m.port 0x32 m.src m.tag 7 (spdmKept m {} s) := by
  unfold spdmFragment
  simp only [idle]
  rw [if_pos (by simp only [Bool.or_eq_true, decide_eq_true_eq]; exact .inl (.inr later))]
  rfl

section
variable {s : State} {m : Spdm} (h : MgmtReaches s m.port m.dst)
include h

theorem exec_spdmMsg_reaches : exec (.spdmMsg m) s = .next (spdmFragment m (mgmtTaken m.port 0x32 m.src m.tag s)) :=
  congrArg Host.Outcome.next (mgmtClass_serves h ..)

/-- The first fragment of a message waits for the others, or alone ends it. -/
theorem spdmMsg_first (some' : 1 ≤ m.fragLen.toNat) (fits : m.fragLen.toNat ≤ 208) (first : m.fragIndex = 0)
    (idle : (sget {} s.mgt.spdm (spdmKey m)).active = false) (none' : (sget {} s.mgt.spdm (spdmKey m)).bytes = []) :
    (m.last = false → ∃ t, exec (.spdmMsg m) s = .next t ∧ sget {} t.mgt.spdm (spdmKey m) =
      { active := true, msgId := m.msgId, nextIdx := 1, bytes := m.bytes.take m.fragLen.toNat }) ∧
    (m.last = true → ∃ t, exec (.spdmMsg m) s = .next t ∧ (sget {} t.mgt.spdm (spdmKey m)).active = false ∧
      t.sec = spdmSecrets s.free (m.bytes.take m.fragLen.toNat) s.sec) := by
  have kept := spdmView_mgmtTaken m.port 0x32 m.src m.tag s
  simp only [spdmView, Prod.mk.injEq] at kept
  obtain ⟨spdm, sec, free⟩ := kept
  have run := exec_spdmMsg_reaches h
  rw [spdmFragment_first some' fits first (by rw [spdm, idle]) (by rw [spdm, none'])] at run
  refine ⟨fun more => ?_, fun last => ?_⟩
  · rw [if_neg (by simp [more])] at run
    exact ⟨_, run, sget_spdmKept ..⟩
  · rw [if_pos last] at run
    have done := spdmView_spdmDone m (m.bytes.take m.fragLen.toNat) (spdmKept m {} (mgmtTaken m.port 0x32 m.src m.tag s))
    simp only [spdmView, Prod.mk.injEq] at done
    obtain ⟨ended, secrets, -⟩ := done
    refine ⟨_, run, ?_, ?_⟩
    · rw [ended, sget_spdmKept]
    · rw [secrets, spdmKept, sec, free]

/-- A fragment out of sequence discards the reassembly. -/
theorem spdmMsg_gap (later : m.fragIndex ≠ 0) (idle : (sget {} s.mgt.spdm (spdmKey m)).active = false) :
    ∃ t, exec (.spdmMsg m) s = .next t ∧ sget {} t.mgt.spdm (spdmKey m) = {} ∧ t.sec = s.sec := by
  have kept := spdmView_mgmtTaken m.port 0x32 m.src m.tag s
  have logged := spdmView_pktInvalid m.port 0x32 m.src m.tag 7 (spdmKept m {} (mgmtTaken m.port 0x32 m.src m.tag s))
  simp only [spdmView, Prod.mk.injEq] at kept logged
  obtain ⟨spdm, sec, -⟩ := kept
  obtain ⟨ended, secrets, -⟩ := logged
  have run := exec_spdmMsg_reaches h
  rw [spdmFragment_gap later (by rw [spdm, idle])] at run
  refine ⟨_, run, ?_, ?_⟩
  · rw [ended, sget_spdmKept]
  · rw [secrets, spdmKept, sec]

end

/-! ## The statement -/

/-- Settles O43: each access and each fragment by its lemma. -/
theorem managementIsServed : Obligations.ManagementIsServed := by
  unfold Obligations.ManagementIsServed
  refine ⟨fun s m mode quiet hold home enabled up => ?_, fun s m mode quiet hold home enabled => ?_⟩
  · have reaches : MgmtReaches s m.port m.dst := ⟨mode, quiet, hold, home, enabled⟩
    exact ⟨fun offset word be => ⟨mgmtRd_ceCfg reaches up offset word be, mgmtWr_ceCfg reaches up offset word be⟩,
      fun offset => ⟨⟨_, rfl, mgmt_unmapped reaches up offset false 0x30 _⟩, ⟨_, rfl, mgmt_unmapped reaches up offset true 0x31 _⟩⟩⟩
  · have reaches : MgmtReaches s m.port m.dst := ⟨mode, quiet, hold, home, enabled⟩
    refine ⟨fun some' fits first idle none' => ?_, spdmMsg_gap reaches⟩
    obtain ⟨waits, ends⟩ := spdmMsg_first reaches some' fits first idle none'
    refine ⟨waits, fun last => ?_⟩
    obtain ⟨t, run, ended, secrets⟩ := ends last
    refine ⟨t, run, ended, ?_⟩
    rw [secrets, spdmSecrets]
    cases Config.spdmKtk s.free (m.bytes.take m.fragLen.toNat) with
    | some named => rfl
    | none => rfl

end Sys2Proof.Laws
end

section
/-! PROOFS. What every command does (95_what_each_step_holds.md): it answers a next state but where the spec states no effect (R132, R482),
it keeps its frame, and the one at the front of the queue runs; the tick of an empty queue, and the state after reset. -/

namespace Sys2Proof.Laws

open Sys2Proof Sys2Proof.Machine

/-! ## Commands that answer a next state -/

/-- The answer is a next state. -/
def Goes (o : Out) : Prop := ∃ t, o = .next t

theorem goes_next (t : State) : Goes (.next t) := ⟨t, rfl⟩

theorem goes_ite {c : Prop} [Decidable c] {a b : Out} (ha : Goes a) (hb : Goes b) : Goes (if c then a else b) := by
  split <;> assumption

theorem goes_either {c : Prop} [Decidable c] {a b : State} : Goes (if c then .next a else .next b) := goes_ite (goes_next a) (goes_next b)

theorem runCmd_goes {op : Nat} {first more : RCmd → State → State} {ring idx : Nat} {s : State} :
    Goes (runCmd op first more ring idx s) := by
  unfold runCmd
  split
  · exact goes_next _
  · exact goes_ite (goes_next _) (goes_ite (goes_next _) goes_either)

/-! ### Commands that ask for conditions -/

theorem execCmpAck_goes (p : Rsp) (s : State) : Goes (execCmpAck p s) := goes_ite (goes_next _) goes_either
theorem execErrCmp_goes (p : Rsp) (s : State) : Goes (execErrCmp p s) := goes_either
theorem execLatTol_goes (port : Nat) (src dst : Node) (noReq : Bool) (scale : BitVec 3) (value : BitVec 10) (s : State) :
    Goes (execLatTol port src dst noReq scale value s) := goes_ite (goes_next _) (goes_ite (goes_next _) (goes_ite (goes_next _) goes_either))
theorem execPowerWarn_goes (port : Nat) (src : Node) (tide : BitVec 64) (cause : BitVec 4) (s : State) :
    Goes (execPowerWarn port src tide cause s) := goes_either
theorem execSnoopTimeoutExpiry_goes (node : Node) (tag : Tag) (s : State) :
    Goes (execSnoopTimeoutExpiry node tag s) := goes_ite (goes_next _) goes_either
theorem execLineEviction_goes (line : Line) (s : State) : Goes (execLineEviction line s) := goes_either
theorem execDecayEpochAdvance_goes (s : State) : Goes (execDecayEpochAdvance s) := goes_either
theorem execScannerVisit_goes (s : State) : Goes (execScannerVisit s) := goes_either
theorem execRefreshDue_goes (ch : Nat) (sub : Bool) (rank cid ba : Nat) (s : State) :
    Goes (execRefreshDue ch sub rank cid ba s) := goes_ite (goes_next _) (goes_ite (goes_next _) goes_either)
theorem execRdThresholdReached_goes (ch bank row : Nat) (s : State) : Goes (execRdThresholdReached ch bank row s) := goes_either
theorem execWriteDrainEntry_goes (ch : Nat) (s : State) : Goes (execWriteDrainEntry ch s) := goes_either
theorem execWriteDrainExit_goes (ch : Nat) (s : State) : Goes (execWriteDrainExit ch s) := goes_either
theorem execThermalSensorRead_goes (ch slot temp : Nat) (s : State) :
    Goes (execThermalSensorRead ch slot temp s) := goes_ite (goes_next _) goes_either
theorem execDimmAlert_goes (ch : Nat) (sub : Bool) (rank : Nat) (ok : Bool) (s : State) :
    Goes (execDimmAlert ch sub rank ok s) := goes_ite (goes_next _) goes_either
theorem execDevMarked_goes (ch : Nat) (sub : Bool) (rank cid dev : Nat) (s : State) :
    Goes (execDevMarked ch sub rank cid dev s) := goes_either
theorem execScrubRead_goes (ch : Nat) (s : State) : Goes (execScrubRead ch s) := goes_either
theorem execSelfRefreshExit_goes (ch : Nat) (patternOk trainOk : Bool) (s : State) :
    Goes (execSelfRefreshExit ch patternOk trainOk s) := goes_ite (goes_next _) goes_either
theorem execFullTraining_goes (ch : Nat) (ok : Bool) (pop : Population) (s : State) :
    Goes (execFullTraining ch ok pop s) := goes_ite (goes_next _) (goes_ite (goes_next _) (goes_ite (goes_next _) goes_either))
theorem execDirtyCeilingWindow_goes (s : State) : Goes (execDirtyCeilingWindow s) := goes_ite (goes_next _) goes_either
theorem execFlushBwProbe_goes (bytes : Nat) (s : State) : Goes (execFlushBwProbe bytes s) := goes_either
theorem execWbAgeExpiry_goes (page : Nat) (s : State) : Goes (execWbAgeExpiry page s) := goes_either
theorem execMapBlockWriteback_goes (block : Nat) (s : State) : Goes (execMapBlockWriteback block s) := goes_either
theorem execHotListRewrite_goes (s : State) : Goes (execHotListRewrite s) := goes_either
theorem execSmartLogPoll_goes (ssd : Nat) (critical fatal : Bool) (s : State) : Goes (execSmartLogPoll ssd critical fatal s) := goes_either
theorem execSsdResetTimeout_goes (ssd : Nat) (s : State) : Goes (execSsdResetTimeout ssd s) := goes_either
theorem execSsdReady_goes (ssd : Nat) (ident : Identity) (s : State) : Goes (execSsdReady ssd ident s) := goes_ite (goes_next _) goes_either
theorem execHoldupEntry_goes (s : State) : Goes (execHoldupEntry s) := goes_either
theorem execHoldupFreeze_goes (s : State) : Goes (execHoldupFreeze s) := goes_either
theorem execDirtyListCommitted_goes (s : State) : Goes (execDirtyListCommitted s) := goes_either
theorem execHoldupFlushCommitted_goes (s : State) : Goes (execHoldupFlushCommitted s) := goes_ite (goes_next _) goes_either
theorem execHoldDoneWritten_goes (s : State) : Goes (execHoldDoneWritten s) := goes_ite (goes_next _) goes_either
theorem execWatchEntry_goes (s : State) : Goes (execWatchEntry s) := goes_either
theorem execHoldupEnergyCheck_goes (eStore : Nat) (s : State) : Goes (execHoldupEnergyCheck eStore s) := goes_either
theorem execFeedReturnInHoldup_goes (s : State) : Goes (execFeedReturnInHoldup s) := goes_ite (goes_next _) goes_either
theorem execTideResume_goes (slowCycles : Nat) (s : State) : Goes (execTideResume slowCycles s) := goes_either
theorem execSlowPeriodCalibration_goes (crystalCycles : Nat) (s : State) : Goes (execSlowPeriodCalibration crystalCycles s) := goes_either
theorem execLedgerReplay_goes (s : State) : Goes (execLedgerReplay s) := goes_either
theorem execPendingFrameRestore_goes (frame : Nat) (s : State) : Goes (execPendingFrameRestore frame s) := goes_either
theorem execRestoreFirstPassEnd_goes (s : State) : Goes (execRestoreFirstPassEnd s) := goes_either
theorem execFeedsFailInRecovery_goes (s : State) :
    Goes (execFeedsFailInRecovery s) := goes_ite (goes_next _) (goes_ite (goes_next _) goes_either)
theorem execDetectStep_goes (port : Nat) (lanes : BitVec 16) (s : State) :
    Goes (execDetectStep port lanes s) := goes_ite (goes_next _) goes_either
theorem execEqTimeout_goes (port : Nat) (s : State) : Goes (execEqTimeout port s) := goes_ite (goes_next _) goes_either
theorem execLaneFailed_goes (port lane : Nat) (dir : Bool) (symbols : Nat) (s : State) :
    Goes (execLaneFailed port lane dir symbols s) := goes_either
theorem execWidthCapChange_goes (port : Nat) (code : BitVec 3) (s : State) :
    Goes (execWidthCapChange port code s) := goes_ite (goes_next _) (goes_ite (goes_next _) (goes_ite (goes_next _) goes_either))
theorem execLmcTimeoutExpiry_goes (port : Nat) (s : State) : Goes (execLmcTimeoutExpiry port s) := goes_either
theorem execEventMsg_goes (port event : Nat) (s : State) : Goes (execEventMsg port event s) := goes_either
theorem execRsvGrant_goes (q : RsvMsg) (s : State) : Goes (execRsvGrant q s) := goes_either
theorem execRsvRevoke_goes (q : RsvMsg) (s : State) : Goes (execRsvRevoke q s) := goes_either
theorem execDomainDrainComplete_goes (dom : Nat) (s : State) : Goes (execDomainDrainComplete dom s) := goes_ite (goes_next _) goes_either
theorem execDomainWakeComplete_goes (dom : Nat) (s : State) : Goes (execDomainWakeComplete dom s) := goes_either
theorem execBridgeUnitReplay_goes (bridge : Nat) (s : State) : Goes (execBridgeUnitReplay bridge s) := goes_ite (goes_next _) goes_either
theorem execFreezeDumpComplete_goes (s : State) : Goes (execFreezeDumpComplete s) := goes_either
theorem execRingEnable_goes (path ring : Nat) (word : BitVec 32) (s : State) : Goes (execRingEnable path ring word s) := goes_either
theorem execRingDisable_goes (path ring : Nat) (word : BitVec 32) (s : State) : Goes (execRingDisable path ring word s) := goes_either
theorem execRingDbSqTail_goes (path : Nat) (node : Node) (ring : Nat) (value : BitVec 32) (s : State) :
    Goes (execRingDbSqTail path node ring value s) := goes_either
theorem execRingDbCqHead_goes (path : Nat) (node : Node) (ring : Nat) (value : BitVec 32) (s : State) :
    Goes (execRingDbCqHead path node ring value s) := goes_either
theorem execCopy_goes (ring idx : Nat) (s : State) : Goes (execCopy ring idx s) := runCmd_goes
theorem execFill_goes (ring idx : Nat) (s : State) : Goes (execFill ring idx s) := runCmd_goes
theorem execCompare_goes (ring idx : Nat) (s : State) : Goes (execCompare ring idx s) := runCmd_goes
theorem execZero_goes (ring idx : Nat) (s : State) : Goes (execZero ring idx s) := runCmd_goes
theorem execPinHot_goes (ring idx : Nat) (s : State) : Goes (execPinHot ring idx s) := runCmd_goes
theorem execUnpin_goes (ring idx : Nat) (s : State) : Goes (execUnpin ring idx s) := runCmd_goes
theorem execDemote_goes (ring idx : Nat) (s : State) : Goes (execDemote ring idx s) := runCmd_goes
theorem execPrefetch_goes (ring idx : Nat) (s : State) : Goes (execPrefetch ring idx s) := runCmd_goes
theorem execPersistBarrier_goes (ring idx : Nat) (s : State) : Goes (execPersistBarrier ring idx s) := runCmd_goes
theorem execSnapshot_goes (ring idx : Nat) (s : State) : Goes (execSnapshot ring idx s) := runCmd_goes
theorem execQueryTier_goes (ring idx : Nat) (s : State) : Goes (execQueryTier ring idx s) := runCmd_goes
theorem execScrubRange_goes (ring idx : Nat) (s : State) : Goes (execScrubRange ring idx s) := runCmd_goes
theorem execKeyLoad_goes (ring idx : Nat) (s : State) : Goes (execKeyLoad ring idx s) := runCmd_goes
theorem execKeyRetire_goes (ring idx : Nat) (s : State) : Goes (execKeyRetire ring idx s) := runCmd_goes
theorem execRekeyStart_goes (ring idx : Nat) (s : State) : Goes (execRekeyStart ring idx s) := runCmd_goes
theorem execRetireFrame_goes (ring idx : Nat) (s : State) : Goes (execRetireFrame ring idx s) := runCmd_goes
theorem execRetireBank_goes (ring idx : Nat) (s : State) : Goes (execRetireBank ring idx s) := runCmd_goes
theorem execCalRestoreFactory_goes (ring idx : Nat) (s : State) : Goes (execCalRestoreFactory ring idx s) := runCmd_goes
theorem execGo_goes (path : Nat) (s : State) : Goes (execGo path s) := goes_either
theorem execResetNRelease_goes (ns : Nat) (s : State) : Goes (execResetNRelease ns s) := goes_either
theorem execPwrokAssert_goes (ns : Nat) (s : State) : Goes (execPwrokAssert ns s) := goes_either
theorem execHarnessingComplete_goes (s : State) : Goes (execHarnessingComplete s) := goes_ite (goes_next _) goes_either
theorem execServiceEntry_goes (s : State) : Goes (execServiceEntry s) := goes_either
theorem execDrainToStall_goes (path : Nat) (s : State) : Goes (execDrainToStall path s) := goes_ite (goes_next _) goes_either
theorem execDrainToMaint_goes (path : Nat) (s : State) : Goes (execDrainToMaint path s) := goes_ite (goes_next _) goes_either
theorem execLeaveMaint_goes (path : Nat) (s : State) : Goes (execLeaveMaint path s) := goes_ite (goes_next _) goes_either
theorem execDrainLimit_goes (s : State) : Goes (execDrainLimit s) := goes_either
theorem execDrainCleanPoint_goes (s : State) : Goes (execDrainCleanPoint s) := goes_ite (goes_next _) goes_either
theorem execGroupIdleExpiry_goes (grp : Nat) (s : State) : Goes (execGroupIdleExpiry grp s) := goes_either
theorem execPrepareAllAgreed_goes (grp : Nat) (s : State) : Goes (execPrepareAllAgreed grp s) := goes_either
theorem execInrushTimeout_goes (ch : Nat) (s : State) : Goes (execInrushTimeout ch s) := goes_either
theorem execGateFullyOn_goes (ch : Nat) (pgOk : Bool) (s : State) : Goes (execGateFullyOn ch pgOk s) := goes_either
theorem execPresenceAsserted_goes (ch : Nat) (s : State) : Goes (execPresenceAsserted ch s) := goes_either
theorem execPresenceRemoved_goes (ch : Nat) (s : State) : Goes (execPresenceRemoved ch s) := goes_either
theorem execInsertDebounceComplete_goes (ch : Nat) (s : State) :
    Goes (execInsertDebounceComplete ch s) := goes_ite (goes_next _) goes_either
theorem execCooldownElapsed_goes (ch : Nat) (s : State) : Goes (execCooldownElapsed ch s) := goes_ite (goes_next _) goes_either
theorem execRetryCountClear_goes (ch : Nat) (s : State) : Goes (execRetryCountClear ch s) := goes_either
theorem execPpDamaged_goes (ch : Nat) (s : State) : Goes (execPpDamaged ch s) := goes_either
theorem execFeedQualified_goes (feed : Nat) (s : State) : Goes (execFeedQualified feed s) := goes_either
theorem execFeedDisqualified_goes (feed : Nat) (why : BitVec 4) (s : State) : Goes (execFeedDisqualified feed why s) := goes_either
theorem execFeedReturnHoldExpiry_goes (s : State) : Goes (execFeedReturnHoldExpiry s) := goes_either
theorem execEnergyFrame_goes (vStore busV : Nat) (samples : List ChanSample) (s : State) :
    Goes (execEnergyFrame vStore busV samples s) := goes_either
theorem execPpdLink_goes (s : State) : Goes (execPpdLink s) := goes_either
theorem execBayWarnLeadExpiry_goes (bay : Nat) (s : State) : Goes (execBayWarnLeadExpiry bay s) := goes_either
theorem execPerstDelayExpiry_goes (bay : Nat) (s : State) : Goes (execPerstDelayExpiry bay s) := goes_either
theorem execAonLogAck_goes (path : Nat) (value : BitVec 32) (s : State) : Goes (execAonLogAck path value s) := goes_either
theorem execEventAck_goes (path event : Nat) (count : BitVec 48) (s : State) : Goes (execEventAck path event count s) := goes_either
theorem execSamplerThreshold_goes (n : Nat) (s : State) : Goes (execSamplerThreshold n s) := goes_either
theorem execSampleCapture_goes (n : Nat) (op : BitVec 8) (line : Line) (node : Node) (tag : Tag) (cls : BitVec 8) (due : Option (BitVec 24))
    (s : State) :
    Goes (execSampleCapture n op line node tag cls due s) := goes_either
theorem execSampleNoRequestTimeout_goes (n : Nat) (s : State) : Goes (execSampleNoRequestTimeout n s) := goes_either
theorem execSampleRingConsume_goes (path : Nat) (value : BitVec 32) (s : State) : Goes (execSampleRingConsume path value s) := goes_either
theorem execFrameRetired_goes (dfa : Nat) (s : State) : Goes (execFrameRetired dfa s) := goes_either
theorem execBankSuspect_goes (bank : Nat) (s : State) : Goes (execBankSuspect bank s) := goes_either
theorem execWrite32_goes (f : I3cFrame) (s : State) : Goes (execWrite32 f s) := goes_ite (goes_next _) (goes_ite (goes_next _) goes_either)
theorem execRead32_goes (f : I3cFrame) (s : State) : Goes (execRead32 f s) := goes_ite (goes_next _) (goes_ite (goes_next _) goes_either)
theorem execWrite64_goes (f : I3cFrame) (s : State) : Goes (execWrite64 f s) := goes_ite (goes_next _) (goes_ite (goes_next _) goes_either)
theorem execRead64_goes (f : I3cFrame) (s : State) : Goes (execRead64 f s) := goes_ite (goes_next _) (goes_ite (goes_next _) goes_either)
theorem execI3cPrivateRead_goes (s : State) : Goes (execI3cPrivateRead s) := goes_either
theorem execIndirectDataAccess_goes (path : Nat) (offset : BitVec 26) (write : Bool) (be : BitVec 4) (data : BitVec 32) (s : State) :
    Goes (execIndirectDataAccess path offset write be data s) := goes_either
theorem execDeviceCold_goes (path : Nat) (key : BitVec 8) (force : Bool) (inst : Nat) (s : State) :
    Goes (execDeviceCold path key force inst s) := goes_either
theorem execDeviceWarm_goes (path : Nat) (key : BitVec 8) (force : Bool) (inst : Nat) (s : State) :
    Goes (execDeviceWarm path key force inst s) := goes_either
theorem execAfl_goes (path : Nat) (key : BitVec 8) (force : Bool) (inst : Nat) (s : State) :
    Goes (execAfl path key force inst s) := goes_either
theorem execPe_goes (path : Nat) (key : BitVec 8) (force : Bool) (inst : Nat) (s : State) :
    Goes (execPe path key force inst s) := goes_either
theorem execBay_goes (path : Nat) (key : BitVec 8) (force : Bool) (inst : Nat) (s : State) :
    Goes (execBay path key force inst s) := goes_either
theorem execMgt_goes (path : Nat) (key : BitVec 8) (force : Bool) (inst : Nat) (s : State) :
    Goes (execMgt path key force inst s) := goes_either
theorem execProgramOwner_goes (path : Nat) (key : BitVec 8) (slot : Nat) (s : State) :
    Goes (execProgramOwner path key slot s) := goes_either
theorem execRevokeOwner_goes (path : Nat) (key : BitVec 8) (slot : Nat) (s : State) : Goes (execRevokeOwner path key slot s) := goes_either
theorem execProgramBoard_goes (path : Nat) (key : BitVec 8) (slot : Nat) (s : State) :
    Goes (execProgramBoard path key slot s) := goes_either
theorem execOtpProgramDone_goes (readBackOk : Bool) (s : State) : Goes (execOtpProgramDone readBackOk s) := goes_either
theorem execSvnCommitFw_goes (path : Nat) (key : BitVec 8) (s : State) : Goes (execSvnCommitFw path key s) := goes_either
theorem execSvnCommitHarness_goes (path : Nat) (key : BitVec 8) (s : State) : Goes (execSvnCommitHarness path key s) := goes_either
theorem execDieHot_goes (sensor : Nat) (temp : Nat) (s : State) : Goes (execDieHot sensor temp s) := goes_either
theorem execThermtrip_goes (sensor : Nat) (temp : Nat) (s : State) :
    Goes (execThermtrip sensor temp s) := goes_ite (goes_next _) goes_either
theorem execThermtripRecovery_goes (temp : Nat) (s : State) : Goes (execThermtripRecovery temp s) := goes_either
theorem execXtalFail_goes (slow : Bool) (s : State) : Goes (execXtalFail slow s) := goes_ite goes_either goes_either
theorem execRefclkLoss_goes (pcie : Bool) (inst : Nat) (s : State) : Goes (execRefclkLoss pcie inst s) := goes_ite (goes_next _) goes_either
theorem execPciePeerAccess_goes (peNo : Nat) (reqId : BitVec 16) (addr : BitVec 64) (write : Bool) (mask : BitVec 64) (data : BitVec 512)
    (s : State) :
    Goes (execPciePeerAccess peNo reqId addr write mask data s) := goes_ite (goes_next _) (goes_ite (goes_next _) goes_either)
theorem execLinkIdleEntry_goes (port : Nat) (s : State) : Goes (execLinkIdleEntry port s) := goes_either
theorem execPpdPowerOn_goes (slots : BitVec 32) (bays : BitVec 16) (s : State) : Goes (execPpdPowerOn slots bays s) := goes_either

/-! ### Commands that look something up -/

theorem execWbAck_goes (p : Rsp) (s : State) : Goes (execWbAck p s) := by
  unfold execWbAck
  dsimp only
  repeat' split
  all_goals exact goes_next _

theorem execLateAlarm_goes (p : Rsp) (s : State) : Goes (execLateAlarm p s) := by
  unfold execLateAlarm
  dsimp only
  repeat' split
  all_goals exact goes_next _

theorem execDeviceRequestTimeout_goes (node : Node) (tag : Tag) (s : State) : Goes (execDeviceRequestTimeout node tag s) := by
  unfold execDeviceRequestTimeout
  repeat' split
  all_goals exact goes_next _

theorem execDramReadComplete_goes (addr : LineAddr) (err : BitVec 640) (s : State) : Goes (execDramReadComplete addr err s) := by
  unfold execDramReadComplete
  repeat' split
  all_goals exact goes_next _

theorem execLineRereadComplete_goes (addr : LineAddr) (err : BitVec 640) (s : State) : Goes (execLineRereadComplete addr err s) := by
  unfold execLineRereadComplete
  dsimp only
  repeat' split
  all_goals exact goes_next _

theorem execTagTestComplete_goes (node : Node) (tag : Tag) (s : State) : Goes (execTagTestComplete node tag s) := by
  unfold execTagTestComplete
  dsimp only
  repeat' split
  all_goals exact goes_next _

theorem execVerdictArrival_goes (port : Nat) (node : Node) (tag : Tag) (s : State) : Goes (execVerdictArrival port node tag s) := by
  unfold execVerdictArrival
  dsimp only
  repeat' split
  all_goals exact goes_next _

theorem execKeyContextFill_goes (keyId : BitVec 20) (s : State) : Goes (execKeyContextFill keyId s) := by
  unfold execKeyContextFill
  repeat' split
  all_goals exact goes_next _

theorem execWarmLineDecode_goes (line : Line) (bad : Option Nat) (s : State) : Goes (execWarmLineDecode line bad s) := by
  unfold execWarmLineDecode
  dsimp only
  repeat' split
  all_goals exact goes_next _

theorem execDemandFaultReadComplete_goes (page : Nat) (ok : Bool) (s : State) : Goes (execDemandFaultReadComplete page ok s) := by
  unfold execDemandFaultReadComplete
  dsimp only
  repeat' split
  all_goals exact goes_next _

theorem execDemandFaultInstallComplete_goes (page : Nat) (s : State) : Goes (execDemandFaultInstallComplete page s) := by
  unfold execDemandFaultInstallComplete
  dsimp only
  repeat' split
  all_goals exact goes_next _

theorem execDemotionComplete_goes (page : Nat) (s : State) : Goes (execDemotionComplete page s) := by
  unfold execDemotionComplete
  dsimp only
  repeat' split
  all_goals exact goes_next _

theorem execCompactionMoveComplete_goes (page : Nat) (s : State) : Goes (execCompactionMoveComplete page s) := by
  unfold execCompactionMoveComplete
  dsimp only
  repeat' split
  all_goals exact goes_next _

theorem execRelocationLineCopy_goes (page : Nat) (err : BitVec 640) (s : State) : Goes (execRelocationLineCopy page err s) := by
  unfold execRelocationLineCopy
  dsimp only
  repeat' split
  all_goals exact goes_next _

theorem execRekeyPageConversion_goes (engine : Nat) (s : State) : Goes (execRekeyPageConversion engine s) := by
  unfold execRekeyPageConversion
  dsimp only
  repeat' split
  all_goals exact goes_next _

theorem execCalRecordRestore_goes (ch : Nat) (checksOk : Bool) (pop : Population) (s : State) : Goes (execCalRecordRestore ch checksOk pop s) := by
  unfold execCalRecordRestore
  dsimp only
  repeat' split
  all_goals exact goes_next _

theorem execSegmentWritesComplete_goes (seq : Nat) (s : State) : Goes (execSegmentWritesComplete seq s) := by
  unfold execSegmentWritesComplete
  dsimp only
  repeat' split
  all_goals exact goes_next _

theorem execSegCommit_goes (seq : Nat) (s : State) : Goes (execSegCommit seq s) := by
  unfold execSegCommit
  dsimp only
  repeat' split
  all_goals exact goes_next _

theorem execNvmeWriteFailed_goes (seq : Nat) (s : State) : Goes (execNvmeWriteFailed seq s) := by
  unfold execNvmeWriteFailed
  repeat' split
  all_goals exact goes_next _

theorem execWatchPeriodSample_goes (eStore : Nat) (slotFault : Option Nat) (s : State) : Goes (execWatchPeriodSample eStore slotFault s) := by
  unfold execWatchPeriodSample
  dsimp only
  repeat' split
  all_goals exact goes_next _

theorem execWatchExit_goes (s : State) : Goes (execWatchExit s) := by
  unfold execWatchExit
  repeat' split
  all_goals exact goes_next _

theorem execManifestChoice_goes (s : State) : Goes (execManifestChoice s) := by
  unfold execManifestChoice
  dsimp only
  repeat' split
  all_goals exact goes_next _

theorem execBackgroundRestorePage_goes (s : State) : Goes (execBackgroundRestorePage s) := by
  unfold execBackgroundRestorePage
  dsimp only
  repeat' split
  all_goals exact goes_next _

theorem execAgeLimitExpiry_goes (src : Node) (tag : Tag) (s : State) : Goes (execAgeLimitExpiry src tag s) := by
  unfold execAgeLimitExpiry
  dsimp only
  repeat' split
  all_goals exact goes_next _

theorem execOverdueLimitReached_goes (src : Node) (tag : Tag) (s : State) : Goes (execOverdueLimitReached src tag s) := by
  unfold execOverdueLimitReached
  dsimp only
  repeat' split
  all_goals exact goes_next _

theorem execCapHoldRelease_goes (port : Nat) (cls : BitVec 8) (s : State) : Goes (execCapHoldRelease port cls s) := by
  unfold execCapHoldRelease
  dsimp only
  repeat' split
  all_goals exact goes_next _

theorem execTs1_goes (port lane : Nat) (ts : BitVec 256) (s : State) : Goes (execTs1 port lane ts s) := by
  unfold execTs1
  dsimp only
  repeat' split
  all_goals exact goes_next _

theorem execTs2_goes (port lane : Nat) (ts : BitVec 256) (s : State) : Goes (execTs2 port lane ts s) := by
  unfold execTs2
  dsimp only
  repeat' split
  all_goals exact goes_next _

theorem execLaneLockTimeout_goes (port : Nat) (s : State) : Goes (execLaneLockTimeout port s) := by
  unfold execLaneLockTimeout
  dsimp only
  repeat' split
  all_goals exact goes_next _

theorem execRsvReq_goes (q : RsvMsg) (s : State) : Goes (execRsvReq q s) := by
  unfold execRsvReq
  dsimp only
  repeat' split
  all_goals exact goes_next _

theorem execDomainWake_goes (dom : Nat) (s : State) : Goes (execDomainWake dom s) := by
  unfold execDomainWake
  dsimp only
  repeat' split
  all_goals exact goes_next _

theorem execEpochRetirement_goes (s : State) : Goes (execEpochRetirement s) := by
  unfold execEpochRetirement
  dsimp only
  repeat' split
  all_goals exact goes_next _

theorem execRouteStuck_goes (s : State) : Goes (execRouteStuck s) := by
  unfold execRouteStuck
  dsimp only
  repeat' split
  all_goals exact goes_next _

theorem execRingFetch_goes (cpx : Nat) (s : State) : Goes (execRingFetch cpx s) := by
  unfold execRingFetch
  dsimp only
  repeat' split
  all_goals exact goes_next _

theorem execCompletionPost_goes (ring idx : Nat) (s : State) : Goes (execCompletionPost ring idx s) := by
  unfold execCompletionPost
  dsimp only
  repeat' split
  all_goals exact goes_next _

theorem execMoverUnitComplete_goes (ring idx : Nat) (s : State) : Goes (execMoverUnitComplete ring idx s) := by
  unfold execMoverUnitComplete
  repeat' split
  all_goals exact goes_next _

theorem execSnapshotPointFixed_goes (ring idx : Nat) (s : State) : Goes (execSnapshotPointFixed ring idx s) := by
  unfold execSnapshotPointFixed
  repeat' split
  all_goals exact goes_next _

theorem execBootCopyTry_goes (s : State) : Goes (execBootCopyTry s) := by
  unfold execBootCopyTry
  repeat' split
  all_goals exact goes_next _

theorem execSpiNorWrite_goes (region : NorRegion) (words : List (BitVec 128)) (s : State) : Goes (execSpiNorWrite region words s) := by
  unfold execSpiNorWrite
  dsimp only
  repeat' split
  all_goals exact goes_next _

theorem execBreakTimeExpiry_goes (s : State) : Goes (execBreakTimeExpiry s) := by
  unfold execBreakTimeExpiry
  dsimp only
  repeat' split
  all_goals exact goes_next _

theorem execStoreTestStart_goes (s : State) : Goes (execStoreTestStart s) := by
  unfold execStoreTestStart
  dsimp only
  repeat' split
  all_goals exact goes_next _

theorem execStoreTest_goes (v2 eOut : Nat) (s : State) : Goes (execStoreTest v2 eOut s) := by
  unfold execStoreTest
  dsimp only
  repeat' split
  all_goals exact goes_next _

theorem execExtendedLogCopy_goes (s : State) : Goes (execExtendedLogCopy s) := by
  unfold execExtendedLogCopy
  dsimp only
  repeat' split
  all_goals exact goes_next _

theorem execParitySweep_goes (offset : BitVec 26) (mismatch : Bool) (s : State) : Goes (execParitySweep offset mismatch s) := by
  unfold execParitySweep
  dsimp only
  repeat' split
  all_goals exact goes_next _

theorem execDramCommandSlot_goes (ch : Nat) (sub : Bool) (s : State) : Goes (execDramCommandSlot ch sub s) := by
  unfold execDramCommandSlot
  dsimp only
  repeat' split
  all_goals exact goes_next _

/-! ### Commands for which the spec states no effect on some operands -/

/-- What a command answers: a next state, or a stop where the spec states no effect. -/
def Answers (c : Instr) (s : State) : Prop :=
  Goes (exec c s) ∨
  (exec c s = .fault .undefinedPulse ∧ ∃ ns, 100 ≤ ns ∧ ns < 1000 ∧
    ((c = .resetNAssert ns ∧ s.aon.resetLow = false) ∨ (c = .pwrokDeassert ns ∧ s.aon.pwrok = true))) ∨
  (exec c s = .fault .invalidFrame ∧ ∃ a w x, c = .debugAccess a w x ∧ diesDark s = false ∧ s.aon.loaded = true ∧
    totalFrames s ≤ a.toNat / 64)

/-- A low pulse of a reset input has its effect, but for one between 100 ns and 1 µs (R482). -/
theorem resetPulse_goes_or_stops (ns : Nat) (f : State → State) (s : State) :
    Goes (resetPulse ns f s) ∨ resetPulse ns f s = .fault .undefinedPulse ∧ 100 ≤ ns ∧ ns < 1000 := by
  unfold resetPulse
  split
  · exact .inl (goes_next _)
  · split
    · exact .inr ⟨rfl, by omega, by assumption⟩
    · exact .inl (goes_next _)

theorem resetNAssert_answers (ns : Nat) (s : State) : Answers (.resetNAssert ns) s := by
  cases low : s.aon.resetLow with
  | true => exact .inl ⟨s, if_pos low⟩
  | false =>
    have run : exec (.resetNAssert ns) s = resetPulse ns (fun t => { t with aon.resetLow := true }) s := if_neg (by simp [low])
    unfold Answers
    rw [run]
    rcases resetPulse_goes_or_stops ns (fun t => { t with aon.resetLow := true }) s with goes | ⟨stop, lo, hi⟩
    · exact .inl goes
    · exact .inr (.inl ⟨stop, ns, lo, hi, .inl ⟨rfl, low⟩⟩)

theorem pwrokDeassert_answers (ns : Nat) (s : State) : Answers (.pwrokDeassert ns) s := by
  cases ok : s.aon.pwrok with
  | false => exact .inl ⟨s, if_pos (by simp [ok])⟩
  | true =>
    have run : exec (.pwrokDeassert ns) s = resetPulse ns (fun t => { t with aon.pwrok := false }) s := if_neg (by simp [ok])
    unfold Answers
    rw [run]
    rcases resetPulse_goes_or_stops ns (fun t => { t with aon.pwrok := false }) s with goes | ⟨stop, lo, hi⟩
    · exact .inl goes
    · exact .inr (.inl ⟨stop, ns, lo, hi, .inr ⟨rfl, ok⟩⟩)

/-- The debug port answers, but for a frame beyond the last channel set (R132). -/
theorem debugAccess_answers (a : LineAddr) (w : Bool) (x : BitVec 640) (s : State) : Answers (.debugAccess a w x) s := by
  by_cases dead : (diesDark s || !s.aon.loaded) = true
  · exact .inl ⟨s, if_pos dead⟩
  by_cases beyond : totalFrames s ≤ a.toNat / 64
  · have stop : exec (.debugAccess a w x) s = .fault .invalidFrame := (if_neg dead).trans (if_pos beyond)
    simp only [Bool.or_eq_true, Bool.not_eq_true', not_or, Bool.not_eq_true, Bool.not_eq_false] at dead
    exact .inr (.inr ⟨stop, a, w, x, rfl, dead.1, dead.2, beyond⟩)
  · refine .inl ?_
    show Goes (execDebugAccess a w x s)
    unfold execDebugAccess
    rw [if_neg dead, if_neg beyond]
    exact goes_ite (goes_next _) (goes_ite (goes_next _) goes_either)

/-- Every command, branch by branch of its meaning. -/
theorem exec_answers : ∀ (c : Instr) (s : State), Answers c s
  | .rdCur _, _ => .inl (goes_next _)
  | .rdShared _, _ => .inl (goes_next _)
  | .rdOwn _, _ => .inl (goes_next _)
  | .upgrade _, _ => .inl (goes_next _)
  | .wrFull _, _ => .inl (goes_next _)
  | .wrPart _, _ => .inl (goes_next _)
  | .atAdd _, _ => .inl (goes_next _)
  | .atSwap _, _ => .inl (goes_next _)
  | .atCas _, _ => .inl (goes_next _)
  | .atAnd _, _ => .inl (goes_next _)
  | .atOr _, _ => .inl (goes_next _)
  | .atXor _, _ => .inl (goes_next _)
  | .atSmin _, _ => .inl (goes_next _)
  | .atSmax _, _ => .inl (goes_next _)
  | .atUmin _, _ => .inl (goes_next _)
  | .atUmax _, _ => .inl (goes_next _)
  | .evictClean _, _ => .inl (goes_next _)
  | .evictDirty _, _ => .inl (goes_next _)
  | .cmpAck p, s => .inl (execCmpAck_goes p s)
  | .rspI _, _ => .inl (goes_next _)
  | .rspS _, _ => .inl (goes_next _)
  | .rspIClean _, _ => .inl (goes_next _)
  | .rspIData _, _ => .inl (goes_next _)
  | .rspSData _, _ => .inl (goes_next _)
  | .rspFwd _, _ => .inl (goes_next _)
  | .snpInv _, _ => .inl (goes_next _)
  | .snpShare _, _ => .inl (goes_next _)
  | .snpFwdS _, _ => .inl (goes_next _)
  | .dataE _, _ => .inl (goes_next _)
  | .dataS _, _ => .inl (goes_next _)
  | .dataF _, _ => .inl (goes_next _)
  | .dataI _, _ => .inl (goes_next _)
  | .cmpE _, _ => .inl (goes_next _)
  | .cmp _, _ => .inl (goes_next _)
  | .atmData _, _ => .inl (goes_next _)
  | .wbAck p, s => .inl (execWbAck_goes p s)
  | .errCmp p, s => .inl (execErrCmp_goes p s)
  | .lateAlarm p, s => .inl (execLateAlarm_goes p s)
  | .mgmtRd _, _ => .inl (goes_next _)
  | .mgmtWr _, _ => .inl (goes_next _)
  | .spdmMsg _, _ => .inl (goes_next _)
  | .latTol port src dst noReq scale value, s => .inl (execLatTol_goes port src dst noReq scale value s)
  | .powerWarn port src tide cause, s => .inl (execPowerWarn_goes port src tide cause s)
  | .snoopTimeoutExpiry node tag, s => .inl (execSnoopTimeoutExpiry_goes node tag s)
  | .deviceRequestTimeout node tag, s => .inl (execDeviceRequestTimeout_goes node tag s)
  | .dramReadComplete addr err, s => .inl (execDramReadComplete_goes addr err s)
  | .lineRereadComplete addr err, s => .inl (execLineRereadComplete_goes addr err s)
  | .tagTestComplete node tag, s => .inl (execTagTestComplete_goes node tag s)
  | .verdictArrival port node tag, s => .inl (execVerdictArrival_goes port node tag s)
  | .keyContextFill keyId, s => .inl (execKeyContextFill_goes keyId s)
  | .warmLineDecode line bad, s => .inl (execWarmLineDecode_goes line bad s)
  | .demandFaultReadComplete page ok, s => .inl (execDemandFaultReadComplete_goes page ok s)
  | .demandFaultInstallComplete page, s => .inl (execDemandFaultInstallComplete_goes page s)
  | .lineEviction line, s => .inl (execLineEviction_goes line s)
  | .partialLineMerge _ _, _ => .inl (goes_next _)
  | .decayEpochAdvance, s => .inl (execDecayEpochAdvance_goes s)
  | .scannerVisit, s => .inl (execScannerVisit_goes s)
  | .demotionComplete page, s => .inl (execDemotionComplete_goes page s)
  | .promotionComplete _, _ => .inl (goes_next _)
  | .compactionMoveComplete page, s => .inl (execCompactionMoveComplete_goes page s)
  | .relocationLineCopy page err, s => .inl (execRelocationLineCopy_goes page err s)
  | .rekeyPageConversion engine, s => .inl (execRekeyPageConversion_goes engine s)
  | .refreshDue ch sub rank cid ba, s => .inl (execRefreshDue_goes ch sub rank cid ba s)
  | .rdWindowStart, _ => .inl (goes_next _)
  | .rdThresholdReached ch bank row, s => .inl (execRdThresholdReached_goes ch bank row s)
  | .writeDrainEntry ch, s => .inl (execWriteDrainEntry_goes ch s)
  | .writeDrainExit ch, s => .inl (execWriteDrainExit_goes ch s)
  | .thermalSensorRead ch slot temp, s => .inl (execThermalSensorRead_goes ch slot temp s)
  | .pmicStatusRead _ _ _, _ => .inl (goes_next _)
  | .pmicInterrupt _ _ _, _ => .inl (goes_next _)
  | .dimmAlert ch sub rank ok, s => .inl (execDimmAlert_goes ch sub rank ok s)
  | .devMarkWinStart, _ => .inl (goes_next _)
  | .devMarked ch sub rank cid dev, s => .inl (execDevMarked_goes ch sub rank cid dev s)
  | .scrubRead ch, s => .inl (execScrubRead_goes ch s)
  | .selfRefreshEntry _, _ => .inl (goes_next _)
  | .selfRefreshExit ch patternOk trainOk, s => .inl (execSelfRefreshExit_goes ch patternOk trainOk s)
  | .fullTraining ch ok pop, s => .inl (execFullTraining_goes ch ok pop s)
  | .calRecordRestore ch checksOk pop, s => .inl (execCalRecordRestore_goes ch checksOk pop s)
  | .dirtyCeilingWindow, s => .inl (execDirtyCeilingWindow_goes s)
  | .flushBwProbe bytes, s => .inl (execFlushBwProbe_goes bytes s)
  | .wbAgeExpiry page, s => .inl (execWbAgeExpiry_goes page s)
  | .segmentWritesComplete seq, s => .inl (execSegmentWritesComplete_goes seq s)
  | .segCommit seq, s => .inl (execSegCommit_goes seq s)
  | .nvmeWriteFailed seq, s => .inl (execNvmeWriteFailed_goes seq s)
  | .mapBlockWriteback block, s => .inl (execMapBlockWriteback_goes block s)
  | .hotListRewrite, s => .inl (execHotListRewrite_goes s)
  | .smartLogPoll ssd critical fatal, s => .inl (execSmartLogPoll_goes ssd critical fatal s)
  | .ledgerTimeoutExpiry _, _ => .inl (goes_next _)
  | .ssdResetTimeout ssd, s => .inl (execSsdResetTimeout_goes ssd s)
  | .ssdReady ssd ident, s => .inl (execSsdReady_goes ssd ident s)
  | .holdupEntry, s => .inl (execHoldupEntry_goes s)
  | .holdupFreeze, s => .inl (execHoldupFreeze_goes s)
  | .dirtyListCommitted, s => .inl (execDirtyListCommitted_goes s)
  | .holdupFlushCommitted, s => .inl (execHoldupFlushCommitted_goes s)
  | .holdDoneWritten, s => .inl (execHoldDoneWritten_goes s)
  | .watchEntry, s => .inl (execWatchEntry_goes s)
  | .holdupEnergyCheck eStore, s => .inl (execHoldupEnergyCheck_goes eStore s)
  | .feedReturnInHoldup, s => .inl (execFeedReturnInHoldup_goes s)
  | .watchPeriodSample eStore slotFault, s => .inl (execWatchPeriodSample_goes eStore slotFault s)
  | .watchExit, s => .inl (execWatchExit_goes s)
  | .tideResume slowCycles, s => .inl (execTideResume_goes slowCycles s)
  | .slowPeriodCalibration crystalCycles, s => .inl (execSlowPeriodCalibration_goes crystalCycles s)
  | .ledgerReplay, s => .inl (execLedgerReplay_goes s)
  | .manifestChoice, s => .inl (execManifestChoice_goes s)
  | .pendingFrameRestore frame, s => .inl (execPendingFrameRestore_goes frame s)
  | .backgroundRestorePage, s => .inl (execBackgroundRestorePage_goes s)
  | .restoreFirstPassEnd, s => .inl (execRestoreFirstPassEnd_goes s)
  | .feedsFailInRecovery, s => .inl (execFeedsFailInRecovery_goes s)
  | .budgetWindowStart, _ => .inl (goes_next _)
  | .ageLimitExpiry src tag, s => .inl (execAgeLimitExpiry_goes src tag s)
  | .overdueLimitReached src tag, s => .inl (execOverdueLimitReached_goes src tag s)
  | .capHoldRelease port cls, s => .inl (execCapHoldRelease_goes port cls s)
  | .detectStep port lanes, s => .inl (execDetectStep_goes port lanes s)
  | .ts1 port lane ts, s => .inl (execTs1_goes port lane ts s)
  | .ts2 port lane ts, s => .inl (execTs2_goes port lane ts s)
  | .pollTimeout _, _ => .inl (goes_next _)
  | .configTimeout _, _ => .inl (goes_next _)
  | .eqTimeout port, s => .inl (execEqTimeout_goes port s)
  | .retrainTimeout _, _ => .inl (goes_next _)
  | .ts1LossTimeout _, _ => .inl (goes_next _)
  | .payloadFlit _ _, _ => .inl (goes_next _)
  | .idleFlit _ _, _ => .inl (goes_next _)
  | .badFlit _ _, _ => .inl (goes_next _)
  | .ackTimeoutExpiry _, _ => .inl (goes_next _)
  | .laneFailed port lane dir symbols, s => .inl (execLaneFailed_goes port lane dir symbols s)
  | .wPropose _ _ _, _ => .inl (goes_next _)
  | .wAccept _ _ _, _ => .inl (goes_next _)
  | .wReject _ _ _, _ => .inl (goes_next _)
  | .wSwitch _ _ _, _ => .inl (goes_next _)
  | .lpReq _ _ _, _ => .inl (goes_next _)
  | .lpAck _ _ _, _ => .inl (goes_next _)
  | .lpNak _ _ _, _ => .inl (goes_next _)
  | .linkOff _ _ _, _ => .inl (goes_next _)
  | .widthCapChange port code, s => .inl (execWidthCapChange_goes port code s)
  | .lmcTimeoutExpiry port, s => .inl (execLmcTimeoutExpiry_goes port s)
  | .laneLockTimeout port, s => .inl (execLaneLockTimeout_goes port s)
  | .lowPowerExit _, _ => .inl (goes_next _)
  | .lowPowerExitTimeout _, _ => .inl (goes_next _)
  | .tagQuietExpiry _ _, _ => .inl (goes_next _)
  | .eventMsg port event, s => .inl (execEventMsg_goes port event s)
  | .rsvReq q, s => .inl (execRsvReq_goes q s)
  | .rsvGrant q, s => .inl (execRsvGrant_goes q s)
  | .rsvRevoke q, s => .inl (execRsvRevoke_goes q s)
  | .rsvReturn _, _ => .inl (goes_next _)
  | .domainDrainComplete dom, s => .inl (execDomainDrainComplete_goes dom s)
  | .domainWake dom, s => .inl (execDomainWake_goes dom s)
  | .domainWakeComplete dom, s => .inl (execDomainWakeComplete_goes dom s)
  | .nocUe _ _, _ => .inl (goes_next _)
  | .bridgeUnitReplay bridge, s => .inl (execBridgeUnitReplay_goes bridge s)
  | .routeEpochSwitch, _ => .inl (goes_next _)
  | .epochRetirement, s => .inl (execEpochRetirement_goes s)
  | .routeStuck, s => .inl (execRouteStuck_goes s)
  | .freeze _, _ => .inl (goes_next _)
  | .freezeDumpComplete, s => .inl (execFreezeDumpComplete_goes s)
  | .release, _ => .inl (goes_next _)
  | .ringEnable path ring word, s => .inl (execRingEnable_goes path ring word s)
  | .ringDisable path ring word, s => .inl (execRingDisable_goes path ring word s)
  | .ringDbSqTail path node ring value, s => .inl (execRingDbSqTail_goes path node ring value s)
  | .ringDbCqHead path node ring value, s => .inl (execRingDbCqHead_goes path node ring value s)
  | .ringFetch cpx, s => .inl (execRingFetch_goes cpx s)
  | .completionPost ring idx, s => .inl (execCompletionPost_goes ring idx s)
  | .moverUnitComplete ring idx, s => .inl (execMoverUnitComplete_goes ring idx s)
  | .copy ring idx, s => .inl (execCopy_goes ring idx s)
  | .fill ring idx, s => .inl (execFill_goes ring idx s)
  | .compare ring idx, s => .inl (execCompare_goes ring idx s)
  | .zero ring idx, s => .inl (execZero_goes ring idx s)
  | .pinHot ring idx, s => .inl (execPinHot_goes ring idx s)
  | .unpin ring idx, s => .inl (execUnpin_goes ring idx s)
  | .demote ring idx, s => .inl (execDemote_goes ring idx s)
  | .prefetch ring idx, s => .inl (execPrefetch_goes ring idx s)
  | .persistBarrier ring idx, s => .inl (execPersistBarrier_goes ring idx s)
  | .snapshot ring idx, s => .inl (execSnapshot_goes ring idx s)
  | .snapshotPointFixed ring idx, s => .inl (execSnapshotPointFixed_goes ring idx s)
  | .queryTier ring idx, s => .inl (execQueryTier_goes ring idx s)
  | .scrubRange ring idx, s => .inl (execScrubRange_goes ring idx s)
  | .keyLoad ring idx, s => .inl (execKeyLoad_goes ring idx s)
  | .keyRetire ring idx, s => .inl (execKeyRetire_goes ring idx s)
  | .rekeyStart ring idx, s => .inl (execRekeyStart_goes ring idx s)
  | .retireFrame ring idx, s => .inl (execRetireFrame_goes ring idx s)
  | .retireBank ring idx, s => .inl (execRetireBank_goes ring idx s)
  | .calRestoreFactory ring idx, s => .inl (execCalRestoreFactory_goes ring idx s)
  | .go path, s => .inl (execGo_goes path s)
  | .bootCopyTry, s => .inl (execBootCopyTry_goes s)
  | .spiNorWrite region words, s => .inl (execSpiNorWrite_goes region words s)
  | .resetNAssert _, _ => resetNAssert_answers ..
  | .resetNRelease ns, s => .inl (execResetNRelease_goes ns s)
  | .pwrokDeassert _, _ => pwrokDeassert_answers ..
  | .pwrokAssert ns, s => .inl (execPwrokAssert_goes ns s)
  | .harnessingComplete, s => .inl (execHarnessingComplete_goes s)
  | .serviceEntry, s => .inl (execServiceEntry_goes s)
  | .aonRestart, _ => .inl (goes_next _)
  | .drainToStall path, s => .inl (execDrainToStall_goes path s)
  | .drainToMaint path, s => .inl (execDrainToMaint_goes path s)
  | .leaveMaint path, s => .inl (execLeaveMaint_goes path s)
  | .drainLimit, s => .inl (execDrainLimit_goes s)
  | .drainCleanPoint, s => .inl (execDrainCleanPoint_goes s)
  | .gaitChange, _ => .inl (goes_next _)
  | .gaitDeepen, _ => .inl (goes_next _)
  | .groupIdleExpiry grp, s => .inl (execGroupIdleExpiry_goes grp s)
  | .prepareAllAgreed grp, s => .inl (execPrepareAllAgreed_goes grp s)
  | .refuse _ _, _ => .inl (goes_next _)
  | .prepareAnswerTimeout _, _ => .inl (goes_next _)
  | .backoffExpiry _, _ => .inl (goes_next _)
  | .fastTrip _ _, _ => .inl (goes_next _)
  | .faultTimerExpiry _ _, _ => .inl (goes_next _)
  | .inrushTimeout ch, s => .inl (execInrushTimeout_goes ch s)
  | .gateFullyOn ch pgOk, s => .inl (execGateFullyOn_goes ch pgOk s)
  | .presenceAsserted ch, s => .inl (execPresenceAsserted_goes ch s)
  | .presenceRemoved ch, s => .inl (execPresenceRemoved_goes ch s)
  | .insertDebounceComplete ch, s => .inl (execInsertDebounceComplete_goes ch s)
  | .cooldownElapsed ch, s => .inl (execCooldownElapsed_goes ch s)
  | .retryCountClear ch, s => .inl (execRetryCountClear_goes ch s)
  | .ppDamaged ch, s => .inl (execPpDamaged_goes ch s)
  | .feedQualified feed, s => .inl (execFeedQualified_goes feed s)
  | .feedDisqualified feed why, s => .inl (execFeedDisqualified_goes feed why s)
  | .feedReturnHoldExpiry, s => .inl (execFeedReturnHoldExpiry_goes s)
  | .breakTimeExpiry, s => .inl (execBreakTimeExpiry_goes s)
  | .energyFrame vStore busV samples, s => .inl (execEnergyFrame_goes vStore busV samples s)
  | .storeTestStart, s => .inl (execStoreTestStart_goes s)
  | .storeTest v2 eOut, s => .inl (execStoreTest_goes v2 eOut s)
  | .ppdLink, s => .inl (execPpdLink_goes s)
  | .bayWarnLeadExpiry bay, s => .inl (execBayWarnLeadExpiry_goes bay s)
  | .perstDelayExpiry bay, s => .inl (execPerstDelayExpiry_goes bay s)
  | .commandedOff _ _, _ => .inl (goes_next _)
  | .commandedOn _ _, _ => .inl (goes_next _)
  | .logEntryArrival _, _ => .inl (goes_next _)
  | .logRateWindowStart, _ => .inl (goes_next _)
  | .extendedLogCopy, s => .inl (execExtendedLogCopy_goes s)
  | .aonLogAck path value, s => .inl (execAonLogAck_goes path value s)
  | .eventAck path event count, s => .inl (execEventAck_goes path event count s)
  | .samplerThreshold n, s => .inl (execSamplerThreshold_goes n s)
  | .sampleCapture n op line node tag cls due, s => .inl (execSampleCapture_goes n op line node tag cls due s)
  | .sampleNoRequestTimeout n, s => .inl (execSampleNoRequestTimeout_goes n s)
  | .sampleRingConsume path value, s => .inl (execSampleRingConsume_goes path value s)
  | .frameWinStart, _ => .inl (goes_next _)
  | .frameRetired dfa, s => .inl (execFrameRetired_goes dfa s)
  | .bankSuspect bank, s => .inl (execBankSuspect_goes bank s)
  | .paritySweep offset mismatch, s => .inl (execParitySweep_goes offset mismatch s)
  | .write32 f, s => .inl (execWrite32_goes f s)
  | .read32 f, s => .inl (execRead32_goes f s)
  | .write64 f, s => .inl (execWrite64_goes f s)
  | .read64 f, s => .inl (execRead64_goes f s)
  | .i3cPrivateRead, s => .inl (execI3cPrivateRead_goes s)
  | .registerWrite _ _ _ _ _, _ => .inl (goes_next _)
  | .indirectDataAccess path offset write be data, s => .inl (execIndirectDataAccess_goes path offset write be data s)
  | .deviceCold path key force inst, s => .inl (execDeviceCold_goes path key force inst s)
  | .deviceWarm path key force inst, s => .inl (execDeviceWarm_goes path key force inst s)
  | .afl path key force inst, s => .inl (execAfl_goes path key force inst s)
  | .pe path key force inst, s => .inl (execPe_goes path key force inst s)
  | .bay path key force inst, s => .inl (execBay_goes path key force inst s)
  | .mgt path key force inst, s => .inl (execMgt_goes path key force inst s)
  | .programOwner path key slot, s => .inl (execProgramOwner_goes path key slot s)
  | .revokeOwner path key slot, s => .inl (execRevokeOwner_goes path key slot s)
  | .programBoard path key slot, s => .inl (execProgramBoard_goes path key slot s)
  | .otpProgramDone readBackOk, s => .inl (execOtpProgramDone_goes readBackOk s)
  | .svnCommitFw path key, s => .inl (execSvnCommitFw_goes path key s)
  | .svnCommitHarness path key, s => .inl (execSvnCommitHarness_goes path key s)
  | .disable _ _, _ => .inl (goes_next _)
  | .disableClear _ _, _ => .inl (goes_next _)
  | .dieHot sensor temp, s => .inl (execDieHot_goes sensor temp s)
  | .thermtrip sensor temp, s => .inl (execThermtrip_goes sensor temp s)
  | .thermtripRecovery temp, s => .inl (execThermtripRecovery_goes temp s)
  | .xtalFail slow, s => .inl (execXtalFail_goes slow s)
  | .refclkLoss pcie inst, s => .inl (execRefclkLoss_goes pcie inst s)
  | .dramCommandSlot ch sub, s => .inl (execDramCommandSlot_goes ch sub s)
  | .pciePeerAccess peNo reqId addr write mask data, s => .inl (execPciePeerAccess_goes peNo reqId addr write mask data s)
  | .debugAccess _ _ _, _ => debugAccess_answers ..
  | .linkIdleEntry port, s => .inl (execLinkIdleEntry_goes port s)
  | .dynamicAddressAssignment _, _ => .inl (goes_next _)
  | .ppdPowerOn slots bays, s => .inl (execPpdPowerOn_goes slots bays s)
  | .aonSupplyLoss, _ => .inl (goes_next _)

/-- Settles O58: every command answers, branch by branch of its meaning. -/
theorem commandsAlwaysAnswer : Obligations.CommandsAlwaysAnswer := exec_answers

/-! ## The frame -/

/-- No command changes the queue. -/
theorem footprint_pending : ∀ c : Instr, (footprint c).pending = false := by
  intro c
  cases c <;> rfl

/-- Settles O59: each command stays within its footprint, and what it speaks of is read from the parts that stay. -/
theorem commandsKeepTheirFrame : Obligations.CommandsKeepTheirFrame := by
  intro c s t run
  have frame := ((exec_within c s).imp t run).same
  refine ⟨frame, keeps_pending frame (footprint_pending c), fun mem a => ?_, fun port p => ?_, fun mode => (keeps_mode frame mode).1⟩
  · exact congrArg (sget 0 · a) (keeps_mem frame mem)
  · exact congrArg (sget {} · p) (keeps_port frame port)

/-! ## The step -/

/-- Settles O55: by the definition of the step on a queue that is not empty. -/
theorem frontCommandRuns : Obligations.FrontCommandRuns := fun _ _ _ => rfl

/-- A tick advances the tide counter by 16 ns and the counter of the mode by one (R407, R456). -/
theorem tideTick_time {s : State} (runs : clockRuns s = true) : (tideTick s).time = (tickCounters s).time := by
  have later := (tickWork_within (tickMs (tickSat (tickSlots (tickCounters s))))).same
  have ms := (tickMs_within (tickSat (tickSlots (tickCounters s)))).same
  have sat := (tickSat_within (tickSlots (tickCounters s))).same
  have slots := (tickSlots_within (tickCounters s)).same
  unfold tideTick
  rw [if_pos runs, driveAlert_time, keeps_time later rfl rfl, keeps_time ms rfl rfl, keeps_time sat rfl rfl, keeps_time slots rfl rfl]

/-- Settles O56: a tick works on what its counters show, and keeps modes, fuses and the power path. -/
theorem emptyQueueTicks : Obligations.EmptyQueueTicks := by
  intro s queue
  have run : step s = .next (tideTick s) := by simp [step, queue]
  refine ⟨fun stopped => ?_, fun runs => ?_⟩
  · rw [run, tideTick, if_neg (by simp [stopped])]
  · have frame := (tideTick_within s).same
    have time := tideTick_time runs
    refine ⟨_, run, by rw [time]; rfl, ?_, (keeps_mode frame rfl).1, keeps_fuse frame rfl, keeps_ppd frame rfl,
      (keeps_pending frame rfl).trans queue⟩
    rw [time]
    exact sget_sset_same ..

/-! ## The state after reset -/

/-- Settles O57: by the reset values. -/
theorem resetValues : Obligations.ResetValues := by
  refine ⟨rfl, rfl, rfl, ?_⟩
  refine ⟨?_, ?_, ?_, ?_, ?_, ?_, ?_, ?_, ?_, ?_, ?_, ?_, ?_, ?_, fun _ => rfl, fun _ => rfl, fun _ => rfl, fun _ => rfl, ?_⟩
  all_goals decide


end Sys2Proof.Laws
end

section
/-! PROOFS. Reservations (R328 to R331): a packet that crosses the mesh leaves the counts of the reservations alone, and what each of the
four messages does to them. -/

namespace Sys2Proof.Laws

open Sys2Proof Sys2Proof.Machine

/-! ## Packets on the mesh -/

/-- Only packets have moved: of the network the capture rings, the queues of routers and sources and the totals have changed. -/
def OnlyTraffic (s t : State) : Prop :=
  ∃ rings queues fifo injected ejected, t = { s with noc := { s.noc with
    rings := rings, queues := queues, fifo := fifo, injected := injected, ejected := ejected } }

theorem OnlyTraffic.refl (s : State) : OnlyTraffic s s := ⟨_, _, _, _, _, rfl⟩

theorem OnlyTraffic.trans {r s t : State} (h : OnlyTraffic r s) (k : OnlyTraffic s t) : OnlyTraffic r t := by
  obtain ⟨_, _, _, _, _, rfl⟩ := h
  obtain ⟨_, _, _, _, _, rfl⟩ := k
  exact ⟨_, _, _, _, _, rfl⟩

theorem capture_traffic (r inP outP : Nat) (h : BitVec 256) (s : State) : OnlyTraffic s (capture r inP outP h s) := by
  unfold capture
  split
  · exact .refl s
  · exact ⟨_, _, _, _, _, rfl⟩

theorem waitUnit_traffic (r inP : Nat) (h : BitVec 256) (s : State) : OnlyTraffic s (waitUnit r inP h s) := ⟨_, _, _, _, _, rfl⟩

theorem forward_traffic (d lp : Nat) (h : BitVec 256) (n r inP : Nat) (s : State) : OnlyTraffic s (forward d lp h n r inP s).2 := by
  induction n generalizing r inP s with
  | zero => exact .refl s
  | succ n ih =>
    unfold forward
    dsimp only
    split
    · exact waitUnit_traffic ..
    · split
      · split
        · exact waitUnit_traffic ..
        · exact (capture_traffic ..).trans (ih ..)
      · exact capture_traffic ..

theorem sendRsv_traffic (op : BitVec 8) (src dst : Nat) (q : RsvMsg) (s : State) : OnlyTraffic s (sendRsv op src dst q s).2 := by
  unfold sendRsv
  dsimp only
  split
  · exact ⟨_, _, _, _, _, rfl⟩
  · exact (forward_traffic ..).trans ⟨_, _, _, _, _, rfl⟩

section
variable {s t : State} (h : OnlyTraffic s t)
include h

theorem OnlyTraffic.dom : t.noc.dom = s.noc.dom := by obtain ⟨_, _, _, _, _, rfl⟩ := h; rfl
theorem OnlyTraffic.granted : t.noc.granted = s.noc.granted := by obtain ⟨_, _, _, _, _, rfl⟩ := h; rfl
theorem OnlyTraffic.unused : t.noc.unused = s.noc.unused := by obtain ⟨_, _, _, _, _, rfl⟩ := h; rfl
theorem OnlyTraffic.waiting : t.noc.waiting = s.noc.waiting := by obtain ⟨_, _, _, _, _, rfl⟩ := h; rfl
theorem OnlyTraffic.asked : t.noc.asked = s.noc.asked := by obtain ⟨_, _, _, _, _, rfl⟩ := h; rfl
theorem OnlyTraffic.mayGrant (e : Nat) : mayGrant t e = Machine.mayGrant s e := by obtain ⟨_, _, _, _, _, rfl⟩ := h; rfl
theorem OnlyTraffic.rsvRoom (e : Nat) (res : BitVec 4) (n : Nat) : rsvRoom t e res n = Machine.rsvRoom s e res n := by
  obtain ⟨_, _, _, _, _, rfl⟩ := h; rfl

end

/-- Nothing waits on the mesh: no unit in a router or at a source, and every bridge port is up. -/
structure MeshIdle (s : State) : Prop where
  bridge : s.noc.bridge = []
  queues : s.noc.queues = []
  fifo : s.noc.fifo = []

theorem capture_idle {r inP outP : Nat} {h : BitVec 256} {s : State} (i : MeshIdle s) : MeshIdle (capture r inP outP h s) := by
  unfold capture
  split
  · exact i
  · exact ⟨i.bridge, i.queues, i.fifo⟩

/-- On an idle mesh every packet arrives, by whatever routes. -/
theorem forward_arrives {d lp : Nat} {h : BitVec 256} {n r inP : Nat} {s : State} (i : MeshIdle s) :
    (forward d lp h n r inP s).1 = true := by
  induction n generalizing r inP s with
  | zero => rfl
  | succ n ih =>
    have empty (r inP : Nat) : routerQueue s r inP h = [] := by simp [routerQueue, i.queues, sget]
    have up (out : Nat) : (bridgeAt s r out).down = false := by simp [bridgeAt, bridgeOf, i.bridge, sget]
    unfold forward
    simp only [empty, up, linkCredits, List.isEmpty_nil, List.length_nil, Bool.not_true, Bool.and_false, Bool.or_false]
    split
    · contradiction
    · split
      · split
        · contradiction
        · exact ih (capture_idle i)
      · rfl

theorem sendRsv_arrives {op : BitVec 8} {src dst : Nat} {q : RsvMsg} {s : State} (i : MeshIdle s) : (sendRsv op src dst q s).1 = true := by
  unfold sendRsv
  simp only [i.fifo, i.queues, linkCredits, routerQueue, sget, List.isEmpty_nil, List.length_nil, Bool.not_true, Bool.false_or]
  split
  · simp_all
  · exact forward_arrives i

/-! ## Grants -/

/-- Grants leave or join the packets of the domain that a destination belongs to. -/
theorem grantRsv_traffic (q : RsvReq) (n : Nat) (s : State) : ∃ inUse dom, OnlyTraffic { s with noc := { s.noc with
    waiting := s.noc.waiting.erase q, inUse := inUse, dom := dom,
    granted := smod 0 s.noc.granted (rsvKey q.src q.dst q.res) (· + n) } } (grantRsv q n s) := by
  unfold grantRsv
  dsimp only
  split
  · exact ⟨_, _, sendRsv_traffic ..⟩
  · exact ⟨_, _, sendRsv_traffic ..⟩

/-- The one request that waits at a destination that grants is granted what is free. -/
theorem grantAll_one {s : State} {q : RsvReq} (waits : s.noc.waiting = [q]) (may : mayGrant s q.dst = true)
    (free : rsvRoom s q.dst q.res q.count ≠ 0) :
    grantAll q.dst q.res 1 s = grantRsv q (rsvRoom s q.dst q.res q.count) s := by
  unfold grantAll
  simp only [may, waits, bestRsv, List.filter_cons, List.filter_nil, decide_true, Bool.and_self, if_true, Bool.not_true]
  rw [if_neg (by simp), if_neg free]
  rfl

/-- With no request waiting a destination grants nothing. -/
theorem grantAll_none {s : State} {dst : Nat} {res : BitVec 4} {n : Nat} (waits : s.noc.waiting = []) : grantAll dst res n s = s := by
  cases n with
  | zero => rfl
  | succ n =>
    unfold grantAll
    simp [waits, bestRsv]

theorem dropGrants_noc (src dst : Nat) (res : BitVec 4) (n : Nat) (s : State) : ∃ inUse dom, dropGrants src dst res n s =
    { s with noc := { s.noc with inUse := inUse, dom := dom,
                                 granted := smod 0 s.noc.granted (rsvKey src dst res) (· - n) } } := by
  unfold dropGrants
  dsimp only
  split
  · exact ⟨_, _, rfl⟩
  · exact ⟨_, _, rfl⟩

/-- Reservations that are freed are pooled at their source up to POOL_MAX (R329). -/
theorem poolGrant_pools (src dst : Nat) (res : BitVec 4) (freed : Nat) (s : State) :
    ∃ p, p ≤ param s 0x0B 0 - sget 0 s.noc.unused (rsvKey src dst res) ∧ (poolGrant src dst res freed s).noc.asked = s.noc.asked ∧
      sget 0 (poolGrant src dst res freed s).noc.unused (rsvKey src dst res) = sget 0 s.noc.unused (rsvKey src dst res) + p ∧
      sget 0 (poolGrant src dst res freed s).noc.granted (rsvKey src dst res) = sget 0 s.noc.granted (rsvKey src dst res) + p := by
  unfold poolGrant
  dsimp only
  split
  · exact ⟨0, Nat.zero_le _, rfl, rfl, rfl⟩
  · refine ⟨min (rsvRoom s dst res freed) (param s 0x0B 0 - sget 0 s.noc.unused (rsvKey src dst res)), Nat.min_le_right .., ?_⟩
    rw [(sendRsv_traffic ..).asked, (sendRsv_traffic ..).unused, (sendRsv_traffic ..).granted]
    split
    · exact ⟨rfl, sget_sset_same .., sget_sset_same ..⟩
    · exact ⟨rfl, sget_sset_same .., sget_sset_same ..⟩

/-! ## The messages -/

/-- The request that RSV_REQ brings. -/
def rsvReqOf (q : RsvMsg) : RsvReq :=
  { src := q.src, dst := q.dst, res := q.res, count := q.count, due := q.due.map BitVec.toNat, cls := q.cls }

/-- A source has asked, and its request has crossed the mesh. -/
def rsvAsked (q : RsvMsg) (s : State) : State :=
  (sendRsv 0x80 q.src q.dst q { s with noc.asked := sset 0 s.noc.asked (rsvKey q.src q.dst q.res) q.count }).2

theorem rsvAsked_traffic (q : RsvMsg) (s : State) :
    OnlyTraffic { s with noc.asked := sset 0 s.noc.asked (rsvKey q.src q.dst q.res) q.count } (rsvAsked q s) := sendRsv_traffic ..

/-- The domain that holds back requests of a destination at its gateway. -/
def rsvHolder (s : State) (dst : Nat) : Option Nat :=
  match epDomain dst with
  | some n => if (domOf s n).st = .awake || (domOf s n).st = .prepared then none else some n
  | none => none

theorem rsvHolder_of_mayGrant {s : State} {dst : Nat} (may : mayGrant s dst = true) : rsvHolder s dst = none := by
  unfold mayGrant at may
  unfold rsvHolder
  split at may
  · next none' => rw [none']
  · next n some' =>
    simp only [Bool.and_eq_true] at may
    simp only [some']
    exact if_pos may.1.1

theorem rsvHolder_of_asleep {s : State} {dst n : Nat} (dom : epDomain dst = some n) (asleep : (domOf s n).st = .asleep) :
    rsvHolder s dst = some n := by
  simp [rsvHolder, dom, asleep]

theorem OnlyTraffic.rsvHolder {s t : State} (h : OnlyTraffic s t) (dst : Nat) : rsvHolder t dst = Laws.rsvHolder s dst := by
  obtain ⟨_, _, _, _, _, rfl⟩ := h; rfl

section
variable {s : State} {q : RsvMsg} (some' : 1 ≤ q.count) (fits : q.count ≤ 255)
  (fresh : sget 0 s.noc.asked (rsvKey q.src q.dst q.res) = 0) (idle : MeshIdle s) (rest : s.noc.waiting = [])
include some' fits fresh idle rest

/-- A request that crosses an idle mesh is ordered at its destination, or held at the gateway of a domain that is not awake. -/
theorem exec_rsvReq : exec (.rsvReq q) s = .next (match rsvHolder s q.dst with
    | some n => modDom n (fun d => { d with heldRsv := d.heldRsv ++ [rsvReqOf q], wakeEvent := true }) (rsvAsked q s)
    | none => grantAll q.dst q.res 1 { rsvAsked q s with noc.waiting := [rsvReqOf q] }) := by
  have there : (sendRsv 0x80 q.src q.dst q { s with noc.asked := sset 0 s.noc.asked (rsvKey q.src q.dst q.res) q.count }).1 = true :=
    sendRsv_arrives ⟨idle.bridge, idle.queues, idle.fifo⟩
  have waits : (rsvAsked q s).noc.waiting = [] := (rsvAsked_traffic q s).waiting.trans rest
  have held : rsvHolder s q.dst = rsvHolder (rsvAsked q s) q.dst := ((rsvAsked_traffic q s).rsvHolder q.dst).symm
  show execRsvReq q s = _
  unfold execRsvReq
  rw [if_neg (by simp [fresh]; omega), held]
  dsimp only
  rw [there, if_neg (by simp)]
  show (match rsvHolder (rsvAsked q s) q.dst with
    | some n => Host.Outcome.next (modDom n (fun d => { d with heldRsv := d.heldRsv ++ [rsvReqOf q], wakeEvent := true }) (rsvAsked q s))
    | none => .next (grantAll q.dst q.res ((rsvAsked q s).noc.waiting.length + 1)
        { rsvAsked q s with noc.waiting := (rsvAsked q s).noc.waiting ++ [rsvReqOf q] })) = _
  rw [waits]
  split <;> rfl

theorem rsvReq_grants (may : mayGrant s q.dst = true) (free : rsvRoom s q.dst q.res q.count ≠ 0) :
    ∃ t, exec (.rsvReq q) s = .next t ∧ t.noc.waiting = [] ∧ sget 0 t.noc.asked (rsvKey q.src q.dst q.res) = q.count ∧
      sget 0 t.noc.granted (rsvKey q.src q.dst q.res) =
        sget 0 s.noc.granted (rsvKey q.src q.dst q.res) + rsvRoom s q.dst q.res q.count := by
  have sent := rsvAsked_traffic q s
  have run := exec_rsvReq some' fits fresh idle rest
  generalize rsvAsked q s = u at sent run
  have room : rsvRoom { u with noc.waiting := [rsvReqOf q] } q.dst q.res q.count = rsvRoom s q.dst q.res q.count :=
    sent.rsvRoom q.dst q.res q.count
  rw [rsvHolder_of_mayGrant may] at run
  have one := grantAll_one (s := { u with noc.waiting := [rsvReqOf q] }) (q := rsvReqOf q) rfl ((sent.mayGrant q.dst).trans may)
    (by rw [show rsvRoom _ (rsvReqOf q).dst (rsvReqOf q).res (rsvReqOf q).count = _ from room]; exact free)
  obtain ⟨inUse, dom, moved⟩ := grantRsv_traffic (rsvReqOf q) (rsvRoom s q.dst q.res q.count) { u with noc.waiting := [rsvReqOf q] }
  refine ⟨_, run.trans (congrArg Host.Outcome.next (one.trans (by
    rw [show rsvRoom _ (rsvReqOf q).dst (rsvReqOf q).res (rsvReqOf q).count = _ from room]))), ?_, ?_, ?_⟩
  · rw [moved.waiting]; simp
  · rw [moved.asked, show u.noc.asked = _ from sent.asked]; exact sget_sset_same ..
  · rw [moved.granted, show u.noc.granted = _ from sent.granted]; exact sget_sset_same ..

theorem rsvReq_held {n : Nat} (dom : epDomain q.dst = some n) (asleep : (domOf s n).st = .asleep) :
    ∃ t, exec (.rsvReq q) s = .next t ∧ (domOf t n).wakeEvent = true ∧ (domOf t n).heldRsv.length = (domOf s n).heldRsv.length + 1 ∧
      t.noc.waiting = [] ∧ t.noc.granted = s.noc.granted := by
  have sent := rsvAsked_traffic q s
  have run := exec_rsvReq some' fits fresh idle rest
  generalize rsvAsked q s = u at sent run
  have same : domOf u n = domOf s n := congrArg (sget ({} : Domain) · n) sent.dom
  rw [rsvHolder_of_asleep dom asleep] at run
  exact ⟨_, run, by simp, by simp [same], sent.waiting.trans rest, sent.granted⟩

end

/-- A grant of `n` has come for a source that used all of it: what it asked for is met, and the packets of the epoch are counted. -/
def rsvUsed (q : RsvMsg) (s : State) : State :=
  { s with noc := { s.noc with
      asked := sset 0 s.noc.asked (rsvKey q.src q.dst q.res) 0,
      unused := smod 0 s.noc.unused (rsvKey q.src q.dst q.res) (· + 0),
      injected := smod 0 s.noc.injected (if s.noc.epoch then 1 else 0) (· + q.count),
      ejected := smod 0 s.noc.ejected (if s.noc.epoch then 1 else 0) (· + q.count) } }

/-- With no request waiting, a grant that is used is only counted, and freed entries may be pooled. -/
theorem exec_rsvGrant {s : State} {q : RsvMsg} (rest : s.noc.waiting = []) (some' : 1 ≤ q.count)
    (asked : q.count ≤ sget 0 s.noc.asked (rsvKey q.src q.dst q.res))
    (held : q.count + sget 0 s.noc.unused (rsvKey q.src q.dst q.res) ≤ sget 0 s.noc.granted (rsvKey q.src q.dst q.res)) :
    exec (.rsvGrant q) s = .next (poolGrant q.src q.dst q.res q.count (dropGrants q.src q.dst q.res q.count (rsvUsed q s))) := by
  have all : min q.count (sget 0 s.noc.granted (rsvKey q.src q.dst q.res) - sget 0 s.noc.unused (rsvKey q.src q.dst q.res)) = q.count := by
    omega
  obtain ⟨inUse, dom, dropped⟩ := dropGrants_noc q.src q.dst q.res q.count (rsvUsed q s)
  show execRsvGrant q s = _
  unfold execRsvGrant
  dsimp only
  rw [all, if_neg (by simp; omega), Nat.min_eq_left asked, Nat.sub_self]
  show Host.Outcome.next (poolGrant _ _ _ _ (grantAll _ _ _ (dropGrants _ _ _ _ (rsvUsed q s)))) = _
  rw [grantAll_none]
  rw [dropped]
  exact rest

theorem rsvGrant_uses {s : State} {q : RsvMsg} (rest : s.noc.waiting = []) (some' : 1 ≤ q.count)
    (asked : q.count ≤ sget 0 s.noc.asked (rsvKey q.src q.dst q.res))
    (held : q.count + sget 0 s.noc.unused (rsvKey q.src q.dst q.res) ≤ sget 0 s.noc.granted (rsvKey q.src q.dst q.res)) :
    ∃ t p, exec (.rsvGrant q) s = .next t ∧ sget 0 t.noc.asked (rsvKey q.src q.dst q.res) = 0 ∧
      sget 0 t.noc.unused (rsvKey q.src q.dst q.res) = sget 0 s.noc.unused (rsvKey q.src q.dst q.res) + p ∧
      sget 0 t.noc.granted (rsvKey q.src q.dst q.res) = sget 0 s.noc.granted (rsvKey q.src q.dst q.res) - q.count + p ∧
      p ≤ param s 0x0B 0 - sget 0 s.noc.unused (rsvKey q.src q.dst q.res) := by
  have run := exec_rsvGrant rest some' asked held
  obtain ⟨inUse, dom, dropped⟩ := dropGrants_noc q.src q.dst q.res q.count (rsvUsed q s)
  have unused : sget 0 (rsvUsed q s).noc.unused (rsvKey q.src q.dst q.res) = sget 0 s.noc.unused (rsvKey q.src q.dst q.res) :=
    sget_sset_same (0 : Nat) ..
  rw [dropped] at run
  obtain ⟨p, most, askedIs, unusedIs, grantedIs⟩ := poolGrant_pools q.src q.dst q.res q.count { rsvUsed q s with noc := { (rsvUsed q s).noc with
    inUse := inUse, dom := dom, granted := smod 0 (rsvUsed q s).noc.granted (rsvKey q.src q.dst q.res) (· - q.count) } }
  refine ⟨_, p, run, ?_, ?_, ?_, ?_⟩
  · rw [askedIs]
    exact sget_sset_same 0 s.noc.asked (rsvKey q.src q.dst q.res) 0
  · rw [unusedIs]
    exact congrArg (· + p) unused
  · rw [grantedIs]
    exact congrArg (· + p) (sget_sset_same ..)
  · rw [← unused]
    exact most

theorem rsvRevoke_returns {s : State} {q : RsvMsg} (left : sget 0 s.noc.unused (rsvKey q.src q.dst q.res) ≠ 0) :
    ∃ t, exec (.rsvRevoke q) s = .next t ∧ sget 0 t.noc.unused (rsvKey q.src q.dst q.res) = 0 ∧ t.noc.granted = s.noc.granted ∧
      t.noc.dom = s.noc.dom := by
  have sent := sendRsv_traffic 0x83 q.src q.dst { q with count := sget 0 s.noc.unused (rsvKey q.src q.dst q.res) }
    { s with noc.unused := sset 0 s.noc.unused (rsvKey q.src q.dst q.res) 0 }
  refine ⟨_, if_neg left, ?_, sent.granted, sent.dom⟩
  rw [sent.unused]
  exact sget_sset_same 0 s.noc.unused (rsvKey q.src q.dst q.res) 0

theorem rsvReturn_drops {s : State} {q : RsvMsg} (rest : s.noc.waiting = [])
    (held : q.count + sget 0 s.noc.unused (rsvKey q.src q.dst q.res) ≤ sget 0 s.noc.granted (rsvKey q.src q.dst q.res)) :
    ∃ t, exec (.rsvReturn q) s = .next t ∧ t.noc.asked = s.noc.asked ∧
      sget 0 t.noc.granted (rsvKey q.src q.dst q.res) = sget 0 s.noc.granted (rsvKey q.src q.dst q.res) - q.count := by
  have all : min q.count (sget 0 s.noc.granted (rsvKey q.src q.dst q.res) - sget 0 s.noc.unused (rsvKey q.src q.dst q.res)) = q.count := by
    omega
  obtain ⟨inUse, dom, dropped⟩ := dropGrants_noc q.src q.dst q.res q.count s
  have run : exec (.rsvReturn q) s = .next (dropGrants q.src q.dst q.res q.count s) := by
    show execRsvReturn q s = _
    unfold execRsvReturn
    dsimp only
    rw [all, grantAll_none]
    rw [dropped]
    exact rest
  rw [dropped] at run
  exact ⟨_, run, rfl, sget_sset_same ..⟩

/-- Settles O24: each message by its lemma. -/
theorem reservationsAreKept : Obligations.ReservationsAreKept := by
  refine ⟨fun s q some' fits fresh rest bridge queues fifo => ?_, fun s q rest some' asked held => rsvGrant_uses rest some' asked held,
    fun s q left => rsvRevoke_returns left, fun s q rest held => rsvReturn_drops rest held⟩
  have idle : MeshIdle s := ⟨bridge, queues, fifo⟩
  exact ⟨rsvReq_grants some' fits fresh idle rest, fun n dom asleep => rsvReq_held some' fits fresh idle rest dom asleep⟩

end Sys2Proof.Laws
end

section
/-! PROOFS. Domains that power down and wake (R330, R331, R396), errors of the mesh and the bridge, route epochs and the freeze (R320, R322,
R332, R333, R335). -/

namespace Sys2Proof.Laws

open Sys2Proof Sys2Proof.Machine

/-! ## Domains -/

/-- A change of several domains that may be made twice reaches exactly those of the list. -/
theorem domOf_foldl_modDom {f : Domain → Domain} (twice : ∀ d, f (f d) = f d) (l : List Nat) (s : State) (n : Nat) :
    domOf (l.foldl (fun t k => modDom k f t) s) n = if n ∈ l then f (domOf s n) else domOf s n := by
  induction l generalizing s with
  | nil => rfl
  | cons k l ih =>
    rw [List.foldl_cons, ih]
    by_cases here : n = k
    · subst here
      simp [twice]
    · simp [domOf_modDom_other here, here]

theorem domOf_of_noc {s t : State} (h : t.noc = s.noc) (n : Nat) : domOf t n = domOf s n := by
  unfold domOf
  rw [h]

section
variable {s t : State} (cfg : t.cfg = s.cfg) (fuse : t.fuse = s.fuse)

include cfg in
theorem domGroup_of_kept (n : Nat) : domGroup t n = domGroup s n := by
  unfold domGroup sectionRecs
  rw [cfg]

include fuse in
theorem domExists_of_kept (n : Nat) : domExists t n = domExists s n := by
  unfold domExists numTiles numChans numBanks numPorts numDies
  rw [fuse]

include cfg fuse in
theorem groupDoms_of_kept (g : Nat) : groupDoms t g = groupDoms s g := by
  simp only [groupDoms, domGroup_of_kept cfg, domExists_of_kept fuse]

end

theorem mem_groupDoms {s : State} {n : Nat} (small : n < 152) (there : domExists s n = true) : n ∈ groupDoms s (domGroup s n) := by
  simp [groupDoms, small, there]

/-- A group that falls asleep changes only the records of its refusals. -/
theorem groupAsleep_domains (g n : Nat) (s : State) :
    (domOf (groupAsleep g s) n).st = (domOf s n).st ∧ (domOf (groupAsleep g s) n).wakeEvent = (domOf s n).wakeEvent := by
  unfold groupAsleep
  split
  · rw [domOf_foldl_modDom (f := fun d => { d with refLogged := false, refusals := 0 }) (fun _ => rfl)]
    split
    · exact ⟨rfl, rfl⟩
    · exact ⟨rfl, rfl⟩
  · exact ⟨rfl, rfl⟩

theorem coreSupply_noc (s : State) : (coreSupply s).noc = s.noc := keeps_noc (coreSupply_within s).same rfl

/-- What a domain whose drain is complete does before it powers down: a channel enters self-refresh (R158). -/
def beforeSleep (n : Nat) (s : State) : State := if 96 ≤ n && n < 112 then enterSelfRefresh (n - 96) s else s

theorem beforeSleep_noc (n : Nat) (s : State) : (beforeSleep n s).noc = s.noc := by
  unfold beforeSleep
  split
  · exact keeps_noc (enterSelfRefresh_within ..).same rfl
  · rfl

/-- A domain has powered down. -/
def domainDown (n : Nat) (s : State) : State :=
  coreSupply (groupAsleep (domGroup (beforeSleep n s) n) (modDom n (fun d => { d with st := .asleep }) (beforeSleep n s)))

theorem domainDown_wakeEvent (n k : Nat) (s : State) : (domOf (domainDown n s) k).wakeEvent = (domOf s k).wakeEvent := by
  have before : domOf (beforeSleep n s) k = domOf s k := domOf_of_noc (beforeSleep_noc n s) k
  have supply (t : State) : domOf (coreSupply t) k = domOf t k := domOf_of_noc (coreSupply_noc t) k
  unfold domainDown
  rw [supply, (groupAsleep_domains ..).2]
  by_cases here : k = n
  · subst here
    simp [before]
  · rw [domOf_modDom_other here, before]

theorem domainDown_asleep (n : Nat) (s : State) : (domOf (domainDown n s) n).st = .asleep := by
  have supply (t : State) : domOf (coreSupply t) n = domOf t n := domOf_of_noc (coreSupply_noc t) n
  unfold domainDown
  rw [supply, (groupAsleep_domains ..).1]
  simp

/-- A domain whose grants are all used powers down (R330). -/
theorem domainDrainComplete_sleeps {s : State} {n : Nat} (entering : (domOf s n).st = .entering) (used : (domOf s n).inflight = 0)
    (calm : ∀ k, (domOf s k).wakeEvent = false) :
    ∃ t, exec (.domainDrainComplete n) s = .next t ∧ (domOf t n).st = .asleep := by
  refine ⟨domainDown n s, ?_, domainDown_asleep n s⟩
  show execDomainDrainComplete n s = _
  unfold execDomainDrainComplete
  dsimp only
  rw [if_neg (by simp [entering, used])]
  refine if_neg ?_
  show ¬ ((grpOf (domainDown n s) (domGroup (beforeSleep n s) n)).phase = .asleep &&
    (groupDoms (domainDown n s) (domGroup (beforeSleep n s) n)).any (fun k => (domOf (domainDown n s) k).wakeEvent)) = true
  simp [domainDown_wakeEvent, calm]

/-- A group that wakes takes each of its sleeping domains along (R395, R396). -/
theorem domOf_wakeGroup {s : State} {g n : Nat} (member : n ∈ groupDoms s g) (asleep : (domOf s n).st = .asleep) :
    (domOf (wakeGroup g s) n).st = .waking ∧ (domOf (wakeGroup g s) n).wakeEvent = false := by
  have supply (t : State) : domOf (coreSupply t) n = domOf t n := domOf_of_noc (coreSupply_noc t) n
  unfold wakeGroup
  rw [supply, domOf_foldl_modDom (f := fun d => if d.st = .asleep then { d with st := .waking, wakeEvent := false } else d)]
  · rw [if_pos member]
    show (if (domOf s n).st = .asleep then _ else _ : Domain).st = _ ∧ (if (domOf s n).st = .asleep then _ else _ : Domain).wakeEvent = _
    rw [if_pos asleep]
    exact ⟨rfl, rfl⟩
  · intro d
    by_cases down : d.st = .asleep <;> simp [down]

theorem domainWake_wakes {s : State} {n : Nat} (small : n < 152) (there : domExists s n = true) (asleep : (domOf s n).st = .asleep)
    (none' : ∀ k ∈ groupDoms s (domGroup s n), (domOf s k).st ≠ .entering) :
    ∃ t, exec (.domainWake n) s = .next t ∧ (domOf t n).st = .waking ∧ (domOf t n).wakeEvent = false := by
  refine ⟨wakeGroup (domGroup s n) s, ?_, domOf_wakeGroup (mem_groupDoms small there) asleep⟩
  show execDomainWake n s = _
  unfold execDomainWake
  rw [asleep]
  exact if_neg (by simpa using none')

theorem domainWakeComplete_wakes {s : State} {n : Nat} (tile : n < 96) (waking : (domOf s n).st = .waking)
    (none' : (domOf s n).heldRsv = []) :
    exec (.domainWakeComplete n) s = .next (setDom n { domOf s n with st := .awake, heldRsv := [], wakeEvent := false } s) := by
  show execDomainWakeComplete n s = _
  unfold execDomainWakeComplete
  dsimp only
  rw [if_neg (by simp [waking]; omega), none']
  rfl

/-- Settles O25: the drain, the wake and its completion, each by its lemma. -/
theorem domainsSleepAndWake : Obligations.DomainsSleepAndWake :=
  ⟨fun _ _ entering used calm => domainDrainComplete_sleeps entering used calm,
    fun _ _ small there asleep none' => domainWake_wakes small there asleep none',
    fun _ _ tile waking none' => domainWakeComplete_wakes tile waking none'⟩

/-! ## Errors, epochs and the freeze -/

theorem freezeNow_noc (k : Nat) (s : State) : (freezeNow k s).noc = s.noc := keeps_noc (freezeNow_within k s).same rfl

/-- With no dump held a freeze holds the capture (R335). -/
theorem freezeNow_frz {s : State} (k : Nat) (free : s.frz.held = false) :
    (freezeNow k s).frz = { s.frz with held := true, routersDone := 0 } := by
  unfold freezeNow
  rw [if_neg (by simp [free]), logIt_frz]

theorem nocUe_freezes {s : State} (r p : Nat) (free : s.frz.held = false) :
    ∃ t, exec (.nocUe r p) s = .next t ∧ t.frz.held = true ∧ t.noc.stuckConsumed = s.noc.stuckConsumed + 1 ∧ t.noc.dom = s.noc.dom := by
  refine ⟨_, rfl, ?_, ?_, ?_⟩
  · rw [freezeNow_frz]
    rw [logIt_frz]
    exact free
  · rw [freezeNow_noc, logIt_noc]
  · rw [freezeNow_noc, logIt_noc]

section
variable {s : State} {b : Nat} (up : (bridgeOf s b).down = false) (variant : s.fuse.variantH = false)
include up variant

theorem bridgeUnitReplay_counts (few : (bridgeOf s b).replays < 7) : exec (.bridgeUnitReplay b) s =
    .next { s with noc.bridge := sset {} s.noc.bridge b { bridgeOf s b with replays := (bridgeOf s b).replays + 1 } } := by
  show execBridgeUnitReplay b s = _
  unfold execBridgeUnitReplay
  dsimp only
  rw [if_neg (by simp [up, variant]), if_pos (by omega)]

theorem bridgeUnitReplay_eighth (seven : (bridgeOf s b).replays = 7) :
    ∃ t, exec (.bridgeUnitReplay b) s = .next t ∧ (bridgeOf t b).down = true := by
  have run : exec (.bridgeUnitReplay b) s = _ := (if_neg (by simp [up, variant])).trans (if_neg (by omega))
  refine ⟨_, run, ?_⟩
  unfold bridgeOf
  rw [logIt_noc]
  exact congrArg BridgePort.down (sget_sset_same {} s.noc.bridge b { bridgeOf s b with replays := 8, down := true })

end

theorem routeEpochSwitch_stamps {s : State} (acked : s.noc.ackPending = true) (none' : s.noc.retiring = none) :
    ∃ t, exec .routeEpochSwitch s = .next t ∧ t.noc.epoch = (!s.noc.epoch) ∧ t.noc.retiring = some s.noc.epoch ∧
      t.noc.ackPending = false ∧ t.noc.routes = s.noc.routes := by
  have run : exec .routeEpochSwitch s = .next (evMgt 0 8
      { s with noc.epoch := !s.noc.epoch, noc.retiring := some s.noc.epoch, noc.ackPending := false }) :=
    congrArg Host.Outcome.next (if_pos (by simp [acked, none']))
  exact ⟨_, run, by simp⟩

section
variable {s : State} {e : Bool} (old : s.noc.retiring = some e)
include old

theorem epochRetirement_retires (equal : sget 0 s.noc.injected (if e then 1 else 0) = sget 0 s.noc.ejected (if e then 1 else 0)) :
    exec .epochRetirement s = .next { s with noc.retiring := none } := by
  show execEpochRetirement s = _
  unfold execEpochRetirement
  simp only [old]
  rw [if_pos equal]

theorem routeStuck_freezes (unequal : sget 0 s.noc.injected (if e then 1 else 0) ≠ sget 0 s.noc.ejected (if e then 1 else 0))
    (free : s.frz.held = false) : ∃ t, exec .routeStuck s = .next t ∧ t.frz.held = true ∧ t.noc = s.noc := by
  have run : ∃ r, exec .routeStuck s = .next (freezeNow 4 (logIt r s)) := by
    show ∃ r, execRouteStuck s = .next (freezeNow 4 (logIt r s))
    unfold execRouteStuck
    simp only [old]
    rw [if_neg unequal]
    exact ⟨_, rfl⟩
  obtain ⟨r, run⟩ := run
  refine ⟨_, run, ?_, by rw [freezeNow_noc, logIt_noc]⟩
  rw [freezeNow_frz]
  rw [logIt_frz]
  exact free

end

theorem freeze_counted {s : State} (k : BitVec 4) (held : s.frz.held = true) (more : s.frz.ignored ≠ 0xFF) :
    exec (.freeze k) s = .next { s with frz.ignored := s.frz.ignored + 1 } := by
  show Host.Outcome.next (freezeNow k.toNat s) = _
  unfold freezeNow
  rw [if_pos held, if_neg more]

/-- The freeze area with the ring of each of the first `n` routers, its oldest header first. -/
def dumpArea (s : State) (n : Nat) : SMap (BitVec 256) :=
  (List.range n).foldl (fun m r => ((sget [] s.noc.rings r).reverse.zipIdx).foldl (fun m e => sset 0 m (64 * r + e.2) e.1) m) []

theorem exec_freezeDumpComplete {s : State} (held : s.frz.held = true) (open' : s.frz.routersDone = 0) : exec .freezeDumpComplete s =
    .next { s with frz.area := dumpArea s (48 * numDies s), frz.routersDone := BitVec.ofNat 8 (48 * numDies s) } :=
  if_neg (by simp [held, open'])

/-- Settles O26: each event by its lemma. -/
theorem meshIsWatched : Obligations.MeshIsWatched := by
  refine ⟨fun s r p free => nocUe_freezes r p free,
    fun s b up variant => ⟨bridgeUnitReplay_counts up variant, bridgeUnitReplay_eighth up variant⟩,
    fun s acked none' => routeEpochSwitch_stamps acked none',
    fun s e old => ⟨epochRetirement_retires old, routeStuck_freezes old⟩,
    fun s k free => ⟨_, rfl, freezeNow_frz _ free, freezeNow_noc ..⟩,
    fun s k held more => freeze_counted k held more,
    fun s held open' => ⟨_, exec_freezeDumpComplete held open', rfl, held, rfl⟩,
    fun s held => congrArg Host.Outcome.next (if_pos held)⟩

/-! ## What the dump holds -/

/-- Entries laid down one after another from `base` on: one that is in the list is found there, and nothing else has changed. -/
theorem sget_foldl_zipIdx (base : Nat) (l : List (BitVec 256)) (from' : Nat) (m : SMap (BitVec 256)) (k : Nat) :
    sget 0 ((l.zipIdx from').foldl (fun m e => sset 0 m (base + e.2) e.1) m) k =
      if base + from' ≤ k ∧ k < base + from' + l.length then l.getD (k - base - from') 0 else sget 0 m k := by
  induction l generalizing from' m with
  | nil => simp
  | cons h l ih =>
    rw [List.zipIdx_cons, List.foldl_cons, ih, sget_sset]
    by_cases here : k = base + from'
    · subst here
      simp
    · by_cases later : base + (from' + 1) ≤ k ∧ k < base + (from' + 1) + l.length
      · rw [if_pos later, if_pos (by simp; omega)]
        obtain ⟨d, hd⟩ : ∃ d, k - base - from' = d + 1 := ⟨k - base - from' - 1, by omega⟩
        rw [show k - base - (from' + 1) = d by omega, hd]
        rfl
      · rw [if_neg later, if_neg here, if_neg (by simp; omega)]

/-- The part of the freeze area that belongs to a router holds its ring, and the rings of later routers leave it alone. -/
theorem sget_dumpArea {s : State} (small : ∀ k, (sget [] s.noc.rings k).length ≤ 64) {n r i : Nat} {h : BitVec 256} (below : r < n)
    (there : (sget [] s.noc.rings r).reverse[i]? = some h) : sget 0 (dumpArea s n) (64 * r + i) = h := by
  have inside : i < (sget [] s.noc.rings r).length := by
    obtain ⟨inside, -⟩ := List.getElem?_eq_some_iff.1 there
    simpa using inside
  induction n with
  | zero => omega
  | succ n ih =>
    have size := small n
    have mine := small r
    have step : dumpArea s (n + 1) = ((sget [] s.noc.rings n).reverse.zipIdx).foldl (fun m e => sset 0 m (64 * n + e.2) e.1)
        (dumpArea s n) := by
      simp [dumpArea, List.range_succ]
    rw [step, sget_foldl_zipIdx]
    by_cases here : r = n
    · subst here
      rw [if_pos (by simp; omega)]
      simp [List.getD, there]
    · rw [if_neg (by simp; omega)]
      exact ih (by omega)

/-- Settles O27: the area is laid down ring by ring, and the 64 entries of a ring fill its own part. -/
theorem dumpHoldsTheRings : Obligations.DumpHoldsTheRings := by
  intro s t r i h held open' run small below there
  rw [exec_freezeDumpComplete held open'] at run
  obtain rfl := Host.Outcome.next.inj run
  exact sget_dumpArea small below there

end Sys2Proof.Laws
end

section
/-! PROOFS. Channels of the power path: what each shared operation of Machine/PowerPath.lean does to a channel, trips (R422 to R425),
and presence, inrush, retry and damage (R419, R420, R424 to R427). -/

namespace Sys2Proof.Laws

open Sys2Proof Sys2Proof.Machine

/-! ## What an operation does to a channel -/

theorem pch_of_ppd {s t : State} (h : t.ppd = s.ppd) (n : Nat) : pch t n = pch s n := by
  unfold pch
  rw [h]

@[simp] theorem settle_ppd (s : State) : (settle s).ppd = s.ppd := keeps_ppd (settle_within s).same rfl
@[simp] theorem refreshPA_ppd (s : State) : (refreshPA s).ppd = s.ppd := keeps_ppd (refreshPA_within s).same rfl
@[simp] theorem bayReset_ppd (n : Nat) (s : State) : (bayReset n s).ppd = s.ppd := keeps_ppd (bayReset_within n s).same rfl
@[simp] theorem bayWarn_ppd (n : Nat) (s : State) : (bayWarn n s).ppd = s.ppd := keeps_ppd (bayWarn_within n s).same rfl

@[simp] theorem pch_settle (s : State) (j : Nat) : pch (settle s) j = pch s j := pch_of_ppd (settle_ppd s) j
@[simp] theorem pch_refreshPA (s : State) (j : Nat) : pch (refreshPA s) j = pch s j := pch_of_ppd (refreshPA_ppd s) j
@[simp] theorem pch_bayReset (n : Nat) (s : State) (j : Nat) : pch (bayReset n s) j = pch s j := pch_of_ppd (bayReset_ppd n s) j
@[simp] theorem pch_bayWarn (n : Nat) (s : State) (j : Nat) : pch (bayWarn n s) j = pch s j := pch_of_ppd (bayWarn_ppd n s) j
@[simp] theorem pch_logIt (r : LogRec) (s : State) (j : Nat) : pch (logIt r s) j = pch s j := pch_of_ppd (logIt_ppd r s) j
@[simp] theorem pch_evPp (a b : Nat) (s : State) (j : Nat) : pch (evPp a b s) j = pch s j := pch_of_ppd (evPp_ppd a b s) j

/-- A channel whose gate is pulled down. -/
def downed (st : PSt) (c : PChan) : PChan :=
  { c with st := st, pg := false, timer := false, carrying := false, queued := false, warned := false }

@[simp] theorem pch_gateDown (st : PSt) (n : Nat) (s : State) : pch (gateDown st n s) n = downed st (pch s n) := by
  simp [gateDown, downed]

theorem pch_gateDown_other {n j : Nat} (h : j ≠ n) (st : PSt) (s : State) : pch (gateDown st n s) j = pch s j := by
  simp [gateDown, pch_modPch_other h]

/-- A channel whose inrush starts. -/
def rushing (c : PChan) : PChan := { c with st := .inrush, queued := false, warned := false }

theorem beginInrush_ppd (n : Nat) (s : State) : (beginInrush n s).ppd = (modPch n rushing s).ppd := by
  unfold beginInrush
  split
  · exact evPp_ppd ..
  · exact evPp_ppd ..

@[simp] theorem pch_beginInrush (n : Nat) (s : State) : pch (beginInrush n s) n = rushing (pch s n) := by
  rw [pch_of_ppd (beginInrush_ppd n s), pch_modPch]

theorem pch_beginInrush_other {n j : Nat} (h : j ≠ n) (s : State) : pch (beginInrush n s) j = pch s j := by
  rw [pch_of_ppd (beginInrush_ppd n s), pch_modPch_other h]

/-- Only HOLD's QUAL is brought up to date. -/
theorem pch_ppdOutputs (s : State) (j : Nat) :
    pch (ppdOutputs s) j = if j = 2 then { pch s 2 with qual := holdReady s } else pch s j := by
  have outputs : (ppdOutputs s).ppd.ch = (modPch 2 (fun c => { c with qual := holdReady s }) s).ppd.ch := by
    unfold ppdOutputs
    rw [refreshPA_ppd]
    dsimp only
    split <;> rfl
  have same : pch (ppdOutputs s) j = pch (modPch 2 (fun c => { c with qual := holdReady s }) s) j := by
    unfold pch
    rw [outputs]
  rw [same]
  split
  next hold => rw [hold, pch_modPch]
  next other => exact pch_modPch_other other ..

theorem pch_ppdOutputs_other {j : Nat} (h : j ≠ 2) (s : State) : pch (ppdOutputs s) j = pch s j := by
  rw [pch_ppdOutputs, if_neg h]

/-- But for QUAL, a channel is as it was. -/
theorem ppdOutputs_keeps {α : Type} (f : PChan → α) (s : State) (j : Nat)
    (blind : ∀ (c : PChan) q, f { c with qual := q } = f c) : f (pch (ppdOutputs s) j) = f (pch s j) := by
  rw [pch_ppdOutputs]
  split
  next hold => rw [hold, blind]
  next => rfl

@[simp] theorem queued_ppdOutputs (s : State) (j : Nat) : (pch (ppdOutputs s) j).queued = (pch s j).queued :=
  ppdOutputs_keeps PChan.queued s j fun _ _ => rfl
@[simp] theorem st_ppdOutputs (s : State) (j : Nat) : (pch (ppdOutputs s) j).st = (pch s j).st :=
  ppdOutputs_keeps PChan.st s j fun _ _ => rfl
@[simp] theorem pg_ppdOutputs (s : State) (j : Nat) : (pch (ppdOutputs s) j).pg = (pch s j).pg :=
  ppdOutputs_keeps PChan.pg s j fun _ _ => rfl
@[simp] theorem timer_ppdOutputs (s : State) (j : Nat) : (pch (ppdOutputs s) j).timer = (pch s j).timer :=
  ppdOutputs_keeps PChan.timer s j fun _ _ => rfl
@[simp] theorem carrying_ppdOutputs (s : State) (j : Nat) : (pch (ppdOutputs s) j).carrying = (pch s j).carrying :=
  ppdOutputs_keeps PChan.carrying s j fun _ _ => rfl
@[simp] theorem lastFault_ppdOutputs (s : State) (j : Nat) : (pch (ppdOutputs s) j).lastFault = (pch s j).lastFault :=
  ppdOutputs_keeps PChan.lastFault s j fun _ _ => rfl
@[simp] theorem cmdOff_ppdOutputs (s : State) (j : Nat) : (pch (ppdOutputs s) j).cmdOff = (pch s j).cmdOff :=
  ppdOutputs_keeps PChan.cmdOff s j fun _ _ => rfl

/-! ## Channels that wait for their inrush (R420) -/

/-- Only a channel that waits can start. -/
theorem pch_fillInrush {s : State} {j : Nat} (h : (pch s j).queued = false ∨ j < 3) : pch (fillInrush s) j = pch s j := by
  have step (l : List Nat) : ∀ u, pch u j = pch s j →
      pch (l.foldl (fun t k => if (pch t (k + 3)).queued && inInrush t < 8 then beginInrush (k + 3) t else t) u) j = pch s j := by
    induction l with
    | nil => exact fun _ e => e
    | cons k l ih =>
      intro u e
      refine ih _ ?_
      dsimp only
      split
      next starts =>
        have other : j ≠ k + 3 := by
          rintro rfl
          simp [e, h.resolve_right (by omega)] at starts
        rw [pch_beginInrush_other other, e]
      next => exact e
  exact step _ s rfl

/-- A walk whose steps but one leave the state as it is takes that step. -/
theorem foldl_only {α β : Type} {f : β → α → β} {u v : β} {a : α} {l : List α} (others : ∀ k ∈ l, k ≠ a → f u k = u)
    (once : f u a = v) (rest : ∀ k, f v k = v) (here : a ∈ l) : l.foldl f u = v := by
  induction l with
  | nil => cases here
  | cons k l ih =>
    rw [List.foldl_cons]
    by_cases at' : k = a
    · subst at'
      rw [once]
      exact List.foldl_fixed' rest l
    · rw [others k (by simp) at']
      exact ih (fun k m => others k (by simp [m])) (by simpa [Ne.symm at'] using here)

/-- A change of a channel that keeps its state. -/
theorem inInrush_modPch {f : PChan → PChan} (kept : ∀ c, (f c).st = c.st) (n : Nat) (s : State) :
    inInrush (modPch n f s) = inInrush s := by
  unfold inInrush
  congr 1
  refine List.filter_congr fun k _ => ?_
  by_cases at' : k + 3 = n
  · simp [at', kept]
  · rw [pch_modPch_other at']

/-- A channel that is to be powered starts at once when no other waits and fewer than 8 rise. -/
theorem wantInrush_alone {s : State} {n : Nat} (low : 3 ≤ n) (high : n < 51) (free : ∀ j, (pch s j).queued = false) (few : inInrush s < 8) :
    wantInrush n s = beginInrush n (modPch n (fun c => { c with queued := true }) s) := by
  have same : inInrush (modPch n (fun c => { c with queued := true }) s) = inInrush s := by
    refine inInrush_modPch ?_ n s
    exact fun _ => rfl
  have back : n - 3 + 3 = n := by omega
  unfold wantInrush fillInrush
  refine foldl_only (a := n - 3) (fun k _ other => ?_) ?_ (fun k => ?_) (List.mem_range.mpr (by omega))
  · rw [pch_modPch_other (by omega)]
    simp [free]
  · simp [back, same, few]
  · by_cases at' : k + 3 = n
    · simp [at', rushing]
    · rw [pch_beginInrush_other at', pch_modPch_other at']
      simp [free]

theorem pch_wantInrush {s : State} {n : Nat} (low : 3 ≤ n) (high : n < 51) (free : ∀ j, (pch s j).queued = false) (few : inInrush s < 8) :
    pch (wantInrush n s) n = rushing (pch s n) ∧ ∀ j, j ≠ n → pch (wantInrush n s) j = pch s j := by
  rw [wantInrush_alone low high free few]
  refine ⟨by simp [rushing], fun j other => ?_⟩
  rw [pch_beginInrush_other other, pch_modPch_other other]

/-! ## What the operations leave of the power path besides its channels -/

/-- The power path without its channels and without e_store. -/
def ppdRest (s : State) : Ppd := { s.ppd with ch := [], eStore := 0 }

theorem newFeed_eq_rest (s : State) : s.ppd.newFeed = (ppdRest s).newFeed := rfl

theorem ppdRest_of_ppd {s t : State} (h : t.ppd = s.ppd) : ppdRest t = ppdRest s := by
  unfold ppdRest
  rw [h]

@[simp] theorem ppdRest_modPch (n : Nat) (f : PChan → PChan) (s : State) : ppdRest (modPch n f s) = ppdRest s := rfl
@[simp] theorem ppdRest_logIt (r : LogRec) (s : State) : ppdRest (logIt r s) = ppdRest s := ppdRest_of_ppd (logIt_ppd r s)
@[simp] theorem ppdRest_gateDown (st : PSt) (n : Nat) (s : State) : ppdRest (gateDown st n s) = ppdRest s :=
  (ppdRest_of_ppd (bayReset_ppd ..)).trans rfl
@[simp] theorem ppdRest_beginInrush (n : Nat) (s : State) : ppdRest (beginInrush n s) = ppdRest s :=
  (ppdRest_of_ppd (beginInrush_ppd ..)).trans rfl

@[simp] theorem ppdRest_fillInrush (s : State) : ppdRest (fillInrush s) = ppdRest s := by
  have step (l : List Nat) : ∀ u, ppdRest u = ppdRest s →
      ppdRest (l.foldl (fun t k => if (pch t (k + 3)).queued && inInrush t < 8 then beginInrush (k + 3) t else t) u) = ppdRest s := by
    induction l with
    | nil => exact fun _ e => e
    | cons k l ih =>
      intro u e
      refine ih _ ?_
      dsimp only
      split
      · rw [ppdRest_beginInrush, e]
      · exact e
  exact step _ s rfl

@[simp] theorem ppdRest_ppdOutputs (s : State) : ppdRest (ppdOutputs s) = ppdRest s := by
  unfold ppdOutputs
  rw [ppdRest_of_ppd (refreshPA_ppd ..)]
  dsimp only
  split <;> rfl

theorem ppdParam_of_rest {s t : State} (h : ppdRest t = ppdRest s) (k : Nat) : ppdParam t k = ppdParam s k := by
  unfold ppdParam
  rw [show t.ppd.paramSet = s.ppd.paramSet from (congrArg Ppd.paramSet h :),
    show t.ppd.param = s.ppd.param from (congrArg Ppd.param h :)]

theorem holdReady_of_rest {s t : State} (h : ppdRest t = ppdRest s) (hold : pch t 2 = pch s 2) : holdReady t = holdReady s := by
  unfold holdReady
  rw [hold, ppdParam_of_rest h, show t.ppd.vStore = s.ppd.vStore from (congrArg Ppd.vStore h :)]

/-! ## A feed that is lost -/

/-- HOLD carries the card while it is closed-ready. -/
def holdTakes (s : State) : State := if holdReady s then modPch 2 (fun c => { c with carrying := true }) s else s

theorem pch_holdTakes {s : State} {j : Nat} (h : j ≠ 2) : pch (holdTakes s) j = pch s j := by
  unfold holdTakes
  split
  · exact pch_modPch_other h ..
  · rfl

theorem startChange_ch (o f why : Nat) (s : State) : (startChange (some o) f why s).ppd.ch = (holdTakes s).ppd.ch := rfl

theorem pch_startChange (o f why : Nat) (s : State) (j : Nat) : pch (startChange (some o) f why s) j = pch (holdTakes s) j := by
  unfold pch
  rw [startChange_ch]

/-- The changeover that the lost feed was part of is over. -/
def noChange (s : State) : State := { s with
  ppd := { s.ppd with testing := false, newFeed := none, breakDone := false }, reins := { s.reins with bridging := false } }

theorem loseFeed_eq (f why : Nat) (was : Bool) (s : State) : loseFeed f why was s =
    if !was && s.ppd.newFeed ≠ some (BitVec.ofNat 1 f) then s
    else if (pch (holdTakes (noChange s)) (1 - f)).qual then startChange (some f) (1 - f) why (holdTakes (noChange s))
    else holdTakes (noChange s) := rfl

/-- HOLD alone can change: it carries the card. -/
theorem pch_loseFeed {s : State} {j : Nat} (h : j ≠ 2) (f why : Nat) (was : Bool) : pch (loseFeed f why was s) j = pch s j := by
  rw [loseFeed_eq]
  split
  · rfl
  · split
    · rw [pch_startChange, pch_holdTakes h, pch_holdTakes h]
      rfl
    · rw [pch_holdTakes h]
      rfl

end Sys2Proof.Laws
end

section
/-! PROOFS. Trips (R420, R422 to R425), presence, inrush, retry and damage of power path channels (R419, R420, R424 to R427). -/

namespace Sys2Proof.Laws

open Sys2Proof Sys2Proof.Machine

/-! ## Trips -/

/-- A channel after its trip, but for QUAL. -/
def tripped (n fault mA : Nat) (c : PChan) : PChan :=
  { downed (if c.retry.toNat = (if n = 2 then 0 else cRetries c.cfg) then .latched else .cooldown) c with
    retry := if c.retry = 7 then 7 else c.retry + 1, trips := if c.trips = 0xFFFF then 0xFFFF else c.trips + 1,
    lastFault := BitVec.ofNat 4 fault, measI := BitVec.ofNat 32 mA }

@[simp] theorem pch_logIf (c : Prop) [Decidable c] (r : LogRec) (s : State) (j : Nat) :
    pch (if c then logIt r s else s) j = pch s j := by
  split
  · exact pch_logIt ..
  · rfl

/-- The gate goes down and the trip is noted; nothing else of the power path is touched before the outputs are brought up to date. -/
theorem trip_shape {s : State} {n : Nat} (fault mA : Nat) (live : (pch s n).st = .inrush ∨ (pch s n).st = .on) :
    ∃ u, pch u n = tripped n fault mA (pch s n) ∧ (∀ j, j ≠ n → pch u j = pch s j) ∧
      trip n fault mA s = if isFeed n then
          ppdOutputs (loseFeed n 1 (pch s n).carrying (logIt { cause := 0x74, src := epPpd, args := [n, fault] }
            (modPch n (fun c => { c with qual := false }) u)))
        else fillInrush (ppdOutputs u) := by
  have trips : ¬ (!((pch s n).st = .inrush || (pch s n).st = .on)) = true := by
    rcases live with e | e <;> simp [e]
  unfold trip
  dsimp only
  rw [if_neg trips]
  refine ⟨_, ?_, fun j other => ?_, rfl⟩
  · simp [tripped, downed]
  · simp [pch_modPch_other other, pch_gateDown_other other]

theorem pch_trip {s : State} {n : Nat} (fault mA : Nat) (live : (pch s n).st = .inrush ∨ (pch s n).st = .on) :
    ∃ q, pch (trip n fault mA s) n = { tripped n fault mA (pch s n) with qual := q } := by
  obtain ⟨u, here, -, shape⟩ := trip_shape fault mA live
  rw [shape]
  split
  next feed =>
    have notHold : n ≠ 2 := by rintro rfl; simp [isFeed] at feed
    rw [pch_ppdOutputs_other notHold, pch_loseFeed notHold, pch_logIt, pch_modPch, here]
    exact ⟨false, rfl⟩
  next =>
    rw [pch_fillInrush (.inl (by simp [here, tripped, downed])), pch_ppdOutputs]
    split
    next hold => subst hold; rw [here]; exact ⟨_, rfl⟩
    next => rw [here]; exact ⟨_, rfl⟩

/-- A slot's or a bay's trip is its own affair when no channel waits. -/
theorem pch_trip_other {s : State} {n j : Nat} (fault mA : Nat) (live : (pch s n).st = .inrush ∨ (pch s n).st = .on) (rail : 3 ≤ n)
    (free : ∀ k, (pch s k).queued = false) (other : j ≠ n) (notHold : j ≠ 2) : pch (trip n fault mA s) j = pch s j := by
  obtain ⟨u, -, others, shape⟩ := trip_shape fault mA live
  have notFeed : ¬ isFeed n = true := by simp [isFeed]; omega
  rw [shape, if_neg notFeed, pch_fillInrush (.inl (by simp [others j other, free])), pch_ppdOutputs_other notHold, others j other]

/-- What a fast trip and a fault timer leave of the channel. -/
theorem trip_result {s : State} {n : Nat} (fault mA : Nat) (live : (pch s n).st = .inrush ∨ (pch s n).st = .on) :
    let t := trip n fault mA s
    (pch t n).st = (if (pch s n).retry.toNat = (if n = 2 then 0 else cRetries (pch s n).cfg) then .latched else .cooldown) ∧
      (pch t n).pg = false ∧ (pch t n).timer = false ∧ (pch t n).lastFault = BitVec.ofNat 4 fault ∧
      (pch t n).retry = (if (pch s n).retry = 7 then 7 else (pch s n).retry + 1) ∧
      (pch t n).trips = (if (pch s n).trips = 0xFFFF then 0xFFFF else (pch s n).trips + 1) ∧ (pch t n).cfg = (pch s n).cfg ∧
      (3 ≤ n → (∀ j, (pch s j).queued = false) → ∀ j, j ≠ n → j ≠ 2 → pch t j = pch s j) := by
  obtain ⟨q, result⟩ := pch_trip fault mA live
  dsimp only
  refine ⟨?_, ?_, ?_, ?_, ?_, ?_, ?_, fun rail free j other notHold => pch_trip_other fault mA live rail free other notHold⟩
  all_goals rw [result]; rfl

/-- Settles O32: a trip takes the channel's gate down and notes its cause; what follows for the bus and for waiting channels does not
touch the channel again. -/
theorem channelsTrip : Obligations.ChannelsTrip := by
  unfold Obligations.ChannelsTrip
  refine ⟨fun k here s n mA live => ?_, fun s n rising => ?_⟩
  · simp only [List.mem_cons, List.not_mem_nil, or_false] at here
    rcases here with rfl | rfl
    · exact ⟨_, rfl, trip_result 1 mA live⟩
    · exact ⟨_, rfl, trip_result 2 mA live⟩
  · obtain ⟨st, pg, -, fault, -⟩ := trip_result (n := n) (s := s) 8 0 (.inl rising)
    refine ⟨trip n 8 0 s, if_pos rising, fault, pg, ?_⟩
    rw [st]
    exact ite_eq_or_eq ..

/-! ## Presence, inrush, retry and damage -/

section
variable {s : State} {n : Nat}

/-- The state in which the gate of channel `n` is fully on. -/
def gateOn (n : Nat) (s : State) : State :=
  let s := modPch n (fun c => { c with st := .on, pg := true, timer := false, carrying := isFeed n || c.carrying }) s
  if isFeed n then endChange n (modPch 2 (fun c => { c with carrying := false }) s) else s

theorem exec_gateFullyOn (rising : (pch s n).st = .inrush) :
    exec (.gateFullyOn n true) s = .next (settle (ppdOutputs (fillInrush (gateOn n s)))) := by
  unfold exec execGateFullyOn gateOn
  dsimp only
  by_cases feed : isFeed n = true
  · simp [feed, rising]
  · simp [feed, rising]

theorem endChange_ch (f : Nat) (s : State) : (endChange f s).ppd.ch = s.ppd.ch := by
  unfold endChange
  split
  · exact (congrArg Ppd.ch (logIt_ppd ..) :)
  · rfl

theorem pch_endChange (f : Nat) (s : State) (j : Nat) : pch (endChange f s) j = pch s j := by
  unfold pch
  rw [endChange_ch]

theorem pch_gateOn (n : Nat) (s : State) : pch (gateOn n s) n =
    { pch s n with st := .on, pg := true, timer := false, carrying := isFeed n || (pch s n).carrying } := by
  unfold gateOn
  dsimp only
  split
  next feed =>
    have notHold : n ≠ 2 := by rintro rfl; simp [isFeed] at feed
    rw [pch_endChange, pch_modPch_other notHold, pch_modPch]
  next => exact pch_modPch ..

theorem gateOn_hold (feed : isFeed n = true) : (pch (gateOn n s) 2).carrying = false := by
  unfold gateOn
  dsimp only
  rw [if_pos feed, pch_endChange, pch_modPch]

theorem endChange_ends {f : Nat} {s : State} (new : s.ppd.newFeed = some (BitVec.ofNat 1 f)) :
    (endChange f s).ppd.newFeed = none ∧ (endChange f s).reins.bridging = false := by
  unfold endChange
  rw [if_pos new]
  exact ⟨rfl, rfl⟩

/-- The changeover to the feed that asserts PG ends. -/
theorem gateOn_ends (feed : isFeed n = true) (new : s.ppd.newFeed = some (BitVec.ofNat 1 n)) :
    (gateOn n s).ppd.newFeed = none ∧ (gateOn n s).reins.bridging = false := by
  unfold gateOn
  dsimp only
  rw [if_pos feed]
  exact endChange_ends new

theorem endChange_waiters (f : Nat) (s : State) : (endChange f s).reins.waiters = s.reins.waiters := by
  unfold endChange
  split
  · exact (congrArg Reins.waiters (logIt_reins ..) :)
  · rfl

theorem gateOn_kept (n : Nat) (s : State) : (gateOn n s).quay = s.quay ∧ (gateOn n s).reins.waiters = s.reins.waiters := by
  unfold gateOn
  dsimp only
  split
  · exact ⟨keeps_quay (endChange_within n _).same rfl, endChange_waiters n _⟩
  · exact ⟨rfl, rfl⟩

theorem gateFullyOn_on (rising : (pch s n).st = .inrush) (still : (pch s n).queued = false) (quiet : Quiet s) :
    ∃ t, exec (.gateFullyOn n true) s = .next t ∧ (pch t n).st = .on ∧ (pch t n).pg = true ∧ (pch t n).timer = false ∧
      (isFeed n = true → (pch t n).carrying = true ∧ (pch t 2).carrying = false) ∧
      (isFeed n = true → s.ppd.newFeed = some (BitVec.ofNat 1 n) → t.ppd.newFeed = none ∧ t.reins.bridging = false) := by
  have reins : (ppdOutputs (fillInrush (gateOn n s))).reins = (gateOn n s).reins :=
    (keeps_reins (ppdOutputs_within _).same rfl).trans (keeps_reins (fillInrush_within _).same rfl)
  have quay : (ppdOutputs (fillInrush (gateOn n s))).quay = (gateOn n s).quay :=
    (keeps_quay (ppdOutputs_within _).same rfl).trans (keeps_quay (fillInrush_within _).same rfl)
  obtain ⟨sameQuay, sameWaiters⟩ := gateOn_kept n s
  refine ⟨_, exec_gateFullyOn rising, ?_⟩
  rw [settle_of_quiet (quiet_of_kept quiet (quay.trans sameQuay) ((congrArg Reins.waiters reins).trans sameWaiters))]
  have here : pch (fillInrush (gateOn n s)) n = pch (gateOn n s) n := pch_fillInrush (.inl (by rw [pch_gateOn]; exact still))
  refine ⟨by simp [here, pch_gateOn], by simp [here, pch_gateOn], by simp [here, pch_gateOn], fun feed => ⟨?_, ?_⟩,
    fun feed new => ⟨?_, ?_⟩⟩
  · simp [here, pch_gateOn, feed]
  · rw [carrying_ppdOutputs, pch_fillInrush (.inr (by decide)), gateOn_hold feed]
  · rw [newFeed_eq_rest, ppdRest_ppdOutputs, ppdRest_fillInrush, ← newFeed_eq_rest]
    exact (gateOn_ends feed new).1
  · rw [reins]
    exact (gateOn_ends feed new).2

section
variable (rail : isSlot n = true ∨ isBay n = true)
include rail

theorem rail_bounds : 3 ≤ n ∧ n < 51 := by
  rcases rail with e | e
  · simp only [isSlot, Bool.and_eq_true, decide_eq_true_eq] at e
    omega
  · simp only [isBay, Bool.and_eq_true, decide_eq_true_eq] at e
    omega

theorem rail_or : (isSlot n || isBay n) = true := by simpa using rail

theorem presenceAsserted_debounces (there : chExists s n = true) (absent : (pch s n).st = .absent) :
    ∃ t, exec (.presenceAsserted n) s = .next t ∧ (pch t n).st = .debounce ∧ (pch t n).present = true ∧ (pch t n).retry = 0 ∧
      ∀ j, j ≠ n → pch t j = pch s j := by
  have runs : exec (.presenceAsserted n) s = .next (logIt { cause := 0x75, src := epPpd, args := [n, 1] }
      (modPch n (fun c => { c with st := .debounce, present := true, retry := 0, lastFault := 0 }) s)) := by
    unfold exec execPresenceAsserted
    simp [rail_or rail, there, absent]
  exact ⟨_, runs, by simp, by simp, by simp, fun j other => by simp [pch_modPch_other other]⟩

omit rail in
/-- What follows for the DRAM channel of a removed slot and the SSDs of a removed bay touches no channel of the power path. -/
theorem slotGone_bayGone_ppd (bay slot : Bool) (n why : Nat) (live : Bool) (s : State) :
    (let s := if slot then goOffline ((n - 3) / 2) why s else s
     if bay then (ssdsOfBay s (n - 35)).foldl (fun t i =>
        let was := (ssdOf t i).present
        let t := modSsd i (fun d => { d with present := false, ready := false, queues := false }) t
        if live && was then markFailed i 4 t else t) s else s).ppd = s.ppd := by
  have slots : (if slot then goOffline ((n - 3) / 2) why s else s).ppd = s.ppd := by
    split
    · exact keeps_ppd (goOffline_within ..).same rfl
    · rfl
  dsimp only
  generalize (if slot then goOffline ((n - 3) / 2) why s else s) = u at slots
  rw [← slots]
  split
  · refine List.foldlRecOn _ _ (motive := fun t : State => t.ppd = u.ppd) rfl fun t kept i _ => ?_
    split
    · exact (keeps_ppd (markFailed_within ..).same rfl).trans kept
    · exact kept
  · rfl

theorem presenceRemoved_absent (there : chExists s n = true) (present : (pch s n).present = true) (sound : (pch s n).st ≠ .damaged) :
    ∃ t, exec (.presenceRemoved n) s = .next t ∧ (pch t n).st = .absent ∧ (pch t n).present = false ∧ (pch t n).pg = false := by
  have runs : ∃ u, pch u n = { downed .absent (pch s n) with present := false, retry := 0, lastFault := 0, cmdOff := false } ∧
      exec (.presenceRemoved n) s = .next (settle (fillInrush (refreshPA u))) := by
    unfold exec execPresenceRemoved
    simp only [rail_or rail, there, present, sound, Bool.not_true, Bool.or_self, if_false, Bool.false_eq_true]
    refine ⟨_, ?_, rfl⟩
    refine (pch_of_ppd ((slotGone_bayGone_ppd (isBay n) (isSlot n && _ && _) n _ _ _).trans (logIt_ppd ..)) n).trans ?_
    simp
  obtain ⟨u, here, runs⟩ := runs
  have left : pch (fillInrush (refreshPA u)) n = pch u n := by
    rw [pch_fillInrush (.inl (by rw [pch_refreshPA, here]; rfl)), pch_refreshPA]
  refine ⟨_, runs, ?_, ?_, ?_⟩
  all_goals simp only [pch_settle, left, here, downed]

theorem insertDebounce_off (debounced : (pch s n).st = .debounce) (manual : cAutoOn (pch s n).cfg = false) :
    exec (.insertDebounceComplete n) s = .next (setPch n { pch s n with st := .off } s) := by
  unfold exec execInsertDebounceComplete
  simp [rail_or rail, debounced, manual, modPch]

theorem insertDebounce_rises (debounced : (pch s n).st = .debounce) (auto : cAutoOn (pch s n).cfg = true)
    (mode : powersRails s.aon.mode = true) (board : s.fuse.boardProg = true) (free : ∀ j, (pch s j).queued = false)
    (few : inInrush s < 8) :
    ∃ t, exec (.insertDebounceComplete n) s = .next t ∧ (pch t n).st = .inrush ∧ ∀ j, j ≠ n → pch t j = pch s j := by
  have runs : exec (.insertDebounceComplete n) s = .next (wantInrush n s) := by
    unfold exec execInsertDebounceComplete
    simp [rail_or rail, debounced, auto, mode, board]
  obtain ⟨here, others⟩ := pch_wantInrush (rail_bounds rail).1 (rail_bounds rail).2 free few
  exact ⟨_, runs, by rw [here]; rfl, others⟩

theorem cooldownElapsed_rises (cooled : (pch s n).st = .cooldown) (free : ∀ j, (pch s j).queued = false) (few : inInrush s < 8) :
    ∃ t, exec (.cooldownElapsed n) s = .next t ∧ (pch t n).st = .inrush ∧ (pch t n).retry = (pch s n).retry := by
  obtain ⟨low, high⟩ := rail_bounds rail
  have notFeed : isFeed n = false := by simp [isFeed]; omega
  have runs : exec (.cooldownElapsed n) s = .next (wantInrush n s) := by
    unfold exec execCooldownElapsed
    simp [cooled, notFeed]
  obtain ⟨here, -⟩ := pch_wantInrush low high free few
  exact ⟨_, runs, by rw [here]; rfl, by rw [here]; rfl⟩

end

theorem cooldownElapsed_feed (feed : isFeed n = true) (cooled : (pch s n).st = .cooldown) :
    exec (.cooldownElapsed n) s = .next (setPch n { pch s n with st := .debounce } s) := by
  unfold exec execCooldownElapsed
  simp [cooled, feed, modPch]

theorem retryCountClear_clears (pg : (pch s n).pg = true) :
    exec (.retryCountClear n) s = .next (setPch n { pch s n with retry := 0 } s) := by
  unfold exec execRetryCountClear
  simp [pg, modPch]

theorem ppDamaged_damages (there : chExists s n = true) (fails : damageTest n (pch s n) ≠ 0) :
    ∃ t, exec (.ppDamaged n) s = .next t ∧ (pch t n).st = .damaged ∧ (pch t n).pg = false ∧
      (pch t n).lastFault = BitVec.ofNat 4 (damageTest n (pch s n)) := by
  have runs : ∃ u, pch u n = { downed .damaged (pch s n) with lastFault := BitVec.ofNat 4 (damageTest n (pch s n)), qual := false } ∧
      exec (.ppDamaged n) s = .next (ppdOutputs (if isFeed n then loseFeed n 1 (pch s n).carrying
        (logIt { cause := 0x74, src := epPpd, args := [n, damageTest n (pch s n)] } u) else u)) := by
    unfold exec execPpDamaged
    simp only [there, fails, decide_false, Bool.not_true, Bool.or_self, Bool.false_eq_true, if_false]
    exact ⟨_, by simp, rfl⟩
  obtain ⟨u, here, runs⟩ := runs
  have left : pch (if isFeed n then loseFeed n 1 (pch s n).carrying
      (logIt { cause := 0x74, src := epPpd, args := [n, damageTest n (pch s n)] } u) else u) n = pch u n := by
    split
    next feed =>
      have notHold : n ≠ 2 := by rintro rfl; simp [isFeed] at feed
      rw [pch_loseFeed notHold, pch_logIt]
    next => rfl
  refine ⟨_, runs, ?_, ?_, ?_⟩
  · rw [st_ppdOutputs, left, here]; rfl
  · rw [pg_ppdOutputs, left, here]; rfl
  · rw [lastFault_ppdOutputs, left, here]

end

/-- Settles O33: a channel's own row of Table 15.4 decides its next state, and the walk over waiting channels starts at most one that
waits. -/
theorem channelsPowerUp : Obligations.ChannelsPowerUp := by
  unfold Obligations.ChannelsPowerUp
  refine ⟨fun s n rising still quiet => gateFullyOn_on rising still quiet, fun s n rail there => ⟨fun absent => ?_, fun present sound => ?_,
    fun debounced manual => insertDebounce_off rail debounced manual, fun free few => ⟨fun debounced auto mode board => ?_, fun cooled => ?_⟩⟩,
    fun s n feed cooled => cooldownElapsed_feed feed cooled, fun s n pg => retryCountClear_clears pg,
    fun s n there fails => ppDamaged_damages there fails⟩
  · exact presenceAsserted_debounces rail there absent
  · exact presenceRemoved_absent rail there present sound
  · exact insertDebounce_rises rail debounced auto mode board free few
  · exact cooldownElapsed_rises rail cooled free few

end Sys2Proof.Laws
end

section
/-! PROOFS. Feeds and commands of the power path (R428 to R431, R436), the hold-up store and the bay outputs (R432 to R435). -/

namespace Sys2Proof.Laws

open Sys2Proof Sys2Proof.Machine

/-! ## The bus is handed over -/

theorem pch_startChange_first (f why : Nat) (s : State) (j : Nat) :
    pch (startChange none f why s) j = pch (holdTakes (beginInrush f s)) j := by
  unfold pch
  rfl

@[simp] theorem startChange_newFeed (old : Option Nat) (f why : Nat) (s : State) :
    (startChange old f why s).ppd.newFeed = some (BitVec.ofNat 1 f) := rfl

@[simp] theorem ppdOutputs_newFeed (s : State) : (ppdOutputs s).ppd.newFeed = s.ppd.newFeed := by
  rw [newFeed_eq_rest, ppdRest_ppdOutputs, ← newFeed_eq_rest]

theorem holdTakes_carries {s : State} (h : holdReady s = true ∨ (pch s 2).carrying = true) : (pch (holdTakes s) 2).carrying = true := by
  unfold holdTakes
  split
  next => rw [pch_modPch]
  next notReady => exact h.resolve_left notReady

theorem holdReady_gateDown {n : Nat} (h : n ≠ 2) (st : PSt) (s : State) : holdReady (gateDown st n s) = holdReady s :=
  holdReady_of_rest (ppdRest_gateDown ..) (pch_gateDown_other h.symm ..)

/-- QUAL of HOLD is not what makes it closed-ready. -/
theorem holdReady_ppdOutputs (s : State) : holdReady (ppdOutputs s) = holdReady s := by
  unfold holdReady
  rw [st_ppdOutputs, pg_ppdOutputs, timer_ppdOutputs, ppdParam_of_rest (ppdRest_ppdOutputs s),
    show (ppdOutputs s).ppd.vStore = s.ppd.vStore from (congrArg Ppd.vStore (ppdRest_ppdOutputs s) :)]

/-- The feed that carried the bus is lost while HOLD is closed-ready. -/
theorem loseFeed_carrying {s : State} {f : Nat} (why : Nat) (low : f < 2) (ready : holdReady s = true) :
    (pch (loseFeed f why true s) 2).carrying = true ∧
      (loseFeed f why true s).ppd.newFeed = if (pch s (1 - f)).qual then some (BitVec.ofNat 1 (1 - f)) else none := by
  have took : (pch (holdTakes (noChange s)) 2).carrying = true := holdTakes_carries (.inl ready)
  have other : (pch (holdTakes (noChange s)) (1 - f)).qual = (pch s (1 - f)).qual := by rw [pch_holdTakes (by omega)]; rfl
  rw [loseFeed_eq, if_neg (by simp), other]
  split
  · exact ⟨by rw [pch_startChange]; exact holdTakes_carries (.inr took), rfl⟩
  · refine ⟨took, ?_⟩
    unfold holdTakes
    split <;> rfl

section
variable {s : State} {f : Nat}

/-- A feed that has qualified, before the bus is handed to it (R428); at a cold start the device rails are on (R394). -/
def feedStands (f : Nat) (s : State) : State :=
  let first := !anyFeed s
  let s := modPch f (fun c => { c with qual := true, st := .standby }) s
  let s := if first then { s with aon.returnTide := s.time.tide } else s
  if first && s.aon.mode = .stall && s.pin.railEn = 0 && !s.aon.thermTrip then railsUp s else s

theorem feedStands_ppd (f : Nat) (s : State) :
    (feedStands f s).ppd = (modPch f (fun c => { c with qual := true, st := .standby }) s).ppd := by
  unfold feedStands railsUp
  dsimp only
  split <;> split <;> rfl

theorem exec_feedQualified (powered : s.ppd.powered = true) (debounced : (pch s f).st = .debounce) (on : (pch s f).cmdOff = false)
    (settled : s.ppd.newFeed = none) : exec (.feedQualified f) s = .next (ppdOutputs (if (pch (feedStands f s) (1 - f)).carrying
      then feedStands f s else startChange none f 0 (feedStands f s))) := by
  have none' : (feedStands f s).ppd.newFeed = none := by rw [feedStands_ppd]; exact settled
  show execFeedQualified f s = _
  unfold execFeedQualified
  simp only [powered, debounced, on, Bool.not_true, Bool.or_self, ne_eq, not_true, decide_false, Bool.false_eq_true, if_false]
  refine congrArg (fun t => (.next (ppdOutputs t) : Out)) (ite_congr rfl (fun _ => rfl) fun _ => if_neg ?_)
  show ¬ (feedStands f s).ppd.newFeed.isSome = true
  rw [none']
  simp

theorem feedQualified_takes (low : f < 2) (powered : s.ppd.powered = true) (debounced : (pch s f).st = .debounce)
    (on : (pch s f).cmdOff = false) (settled : s.ppd.newFeed = none) :
    ((pch s (1 - f)).carrying = false →
      ∃ t, exec (.feedQualified f) s = .next t ∧ (pch t f).qual = true ∧ (pch t f).st = .inrush ∧
        t.ppd.newFeed = some (BitVec.ofNat 1 f)) ∧
    ((pch s (1 - f)).carrying = true →
      ∃ t, exec (.feedQualified f) s = .next t ∧ (pch t f).qual = true ∧ (pch t f).st = .standby ∧ t.ppd.newFeed = none ∧
        pch t (1 - f) = pch s (1 - f)) := by
  have notHold : f ≠ 2 := by omega
  have here : pch (feedStands f s) f = { pch s f with qual := true, st := .standby } := by
    rw [pch_of_ppd (feedStands_ppd f s), pch_modPch]
  have other : pch (feedStands f s) (1 - f) = pch s (1 - f) := by
    rw [pch_of_ppd (feedStands_ppd f s), pch_modPch_other (by omega)]
  rw [exec_feedQualified powered debounced on settled, other]
  refine ⟨fun idle => ?_, fun carried => ?_⟩
  · rw [if_neg (by simp [idle])]
    have rises : pch (startChange none f 0 (feedStands f s)) f = rushing (pch (feedStands f s) f) := by
      rw [pch_startChange_first, pch_holdTakes notHold, pch_beginInrush]
    refine ⟨_, rfl, ?_, ?_, by simp⟩
    · rw [pch_ppdOutputs_other notHold, rises, here]; rfl
    · rw [pch_ppdOutputs_other notHold, rises]; rfl
  · rw [if_pos carried]
    refine ⟨_, rfl, ?_, ?_, ?_, ?_⟩
    · rw [pch_ppdOutputs_other notHold, here]
    · rw [pch_ppdOutputs_other notHold, here]
    · rw [ppdOutputs_newFeed, feedStands_ppd]; exact settled
    · rw [pch_ppdOutputs_other (by omega), other]

theorem feedDisqualified_yields {why : BitVec 4} (low : f < 2) (cause : why = 5 ∨ why = 6 ∨ why = 7) (qual : (pch s f).qual = true)
    (carries : (pch s f).carrying = true) (ready : holdReady s = true) :
    ∃ t, exec (.feedDisqualified f why) s = .next t ∧ (pch t f).qual = false ∧ (pch t f).st = .debounce ∧
      (pch t f).carrying = false ∧ (pch t f).lastFault = why ∧ (pch t 2).carrying = true ∧
      t.ppd.newFeed = (if (pch s (1 - f)).qual then some (BitVec.ofNat 1 (1 - f)) else none) := by
  have notHold : f ≠ 2 := by omega
  have runs : exec (.feedDisqualified f why) s = .next (settle (dropFeed f .debounce why.toNat s)) := by
    show execFeedDisqualified f why s = _
    unfold execFeedDisqualified
    rcases cause with rfl | rfl | rfl <;> simp [qual]
  obtain ⟨u, shape, here, others, rest⟩ : ∃ u, dropFeed f .debounce why.toNat s = ppdOutputs (loseFeed f 1 true u) ∧
      pch u f = { downed .debounce (pch s f) with qual := false, lastFault := why } ∧ (∀ j, j ≠ f → pch u j = pch s j) ∧
      ppdRest u = ppdRest s := by
    refine ⟨_, by unfold dropFeed; rw [carries], ?_, fun j other => ?_, ?_⟩
    · rcases cause with rfl | rfl | rfl <;> simp
    · rw [pch_logIt, pch_modPch_other other, pch_gateDown_other other]
    · simp
  have stillReady : holdReady u = true := by rw [holdReady_of_rest rest (others 2 notHold.symm), ready]
  obtain ⟨hold, new⟩ := loseFeed_carrying 1 low stillReady
  have left : pch (settle (dropFeed f .debounce why.toNat s)) f = pch u f := by
    rw [pch_settle, shape, pch_ppdOutputs_other notHold, pch_loseFeed notHold]
  refine ⟨_, runs, ?_, ?_, ?_, ?_, ?_, ?_⟩
  · rw [left, here]
  · rw [left, here]; rfl
  · rw [left, here]; rfl
  · rw [left, here]
  · rw [pch_settle, shape, carrying_ppdOutputs, hold]
  · rw [settle_ppd, shape, ppdOutputs_newFeed, new, others (1 - f) (by omega)]

/-- A planned changeover: the old feed stands by and HOLD carries the card. -/
theorem planned_change {old : Nat} (low : old < 2) (new why : Nat) (ready : holdReady s = true) :
    let t := startChange (some old) new why (gateDown .standby old s)
    pch t old = downed .standby (pch s old) ∧ (pch t 2).carrying = true ∧ t.ppd.newFeed = some (BitVec.ofNat 1 new) ∧
      t.ppd.breakDone = false ∧ t.ppd.vStore = s.ppd.vStore := by
  have notHold : old ≠ 2 := by omega
  refine ⟨?_, ?_, rfl, rfl, ?_⟩
  · rw [pch_startChange, pch_holdTakes notHold, pch_gateDown]
  · rw [pch_startChange]
    exact holdTakes_carries (.inl (by rw [holdReady_gateDown notHold, ready]))
  · show (holdTakes (gateDown .standby old s)).ppd.vStore = s.ppd.vStore
    have down : (gateDown .standby old s).ppd.vStore = s.ppd.vStore := (congrArg Ppd.vStore (ppdRest_gateDown .standby old s) :)
    unfold holdTakes
    split
    · exact down
    · exact down

theorem feedReturnHoldExpiry_returns (low : f < 2) (preferred : ppdParam s 4 = f) (qual : (pch s f).qual = true)
    (stands : (pch s f).st = .standby) (carries : (pch s (1 - f)).carrying = true) (settled : s.ppd.newFeed = none)
    (ready : holdReady s = true) :
    ∃ t, exec .feedReturnHoldExpiry s = .next t ∧ t.ppd.newFeed = some (BitVec.ofNat 1 f) ∧ (pch t (1 - f)).st = .standby ∧
      (pch t (1 - f)).carrying = false ∧ (pch t 2).carrying = true ∧ t.ppd.breakDone = false := by
  have runs : exec .feedReturnHoldExpiry s =
      .next (ppdOutputs (startChange (some (1 - f)) f 2 (gateDown .standby (1 - f) s))) := by
    show execFeedReturnHoldExpiry s = _
    unfold execFeedReturnHoldExpiry
    simp [preferred, qual, stands, carries, settled, show ¬ 1 < f by omega]
  obtain ⟨old, hold, new, break', -⟩ := planned_change (s := s) (show 1 - f < 2 by omega) f 2 ready
  refine ⟨_, runs, by rw [ppdOutputs_newFeed, new], ?_, ?_, by rw [carrying_ppdOutputs, hold], ?_⟩
  · rw [st_ppdOutputs, old]; rfl
  · rw [carrying_ppdOutputs, old]; rfl
  · exact (congrArg Ppd.breakDone (ppdRest_ppdOutputs _) :).trans break'

theorem breakTimeExpiry_rises {f : BitVec 1} (new : s.ppd.newFeed = some f) (waits : s.ppd.breakDone = false)
    (noTest : s.ppd.testing = false) (stands : (pch s f.toNat).st = .standby) :
    ∃ t, exec .breakTimeExpiry s = .next t ∧ (pch t f.toNat).st = .inrush ∧ t.ppd.breakDone = true ∧ t.ppd.newFeed = some f ∧
      ∀ j, j ≠ f.toNat → pch t j = pch s j := by
  have runs : exec .breakTimeExpiry s = .next (beginInrush f.toNat { s with ppd.breakDone := true }) := by
    show execBreakTimeExpiry s = _
    unfold execBreakTimeExpiry
    simp [new, waits, noTest, stands]
  refine ⟨_, runs, by rw [pch_beginInrush]; rfl, by rw [beginInrush_ppd]; rfl, by rw [beginInrush_ppd]; exact new, fun j other => ?_⟩
  rw [pch_beginInrush_other other]
  rfl

end

/-! ## Commands (R436) -/

section
variable {s : State} {n : Nat}

theorem pch_i3cDone (st : BitVec 8) (l : List Byte) (s : State) (j : Nat) : pch (i3cDone st l s) j = pch s j := rfl

theorem regDone_i3c (ok : Bool) (s : State) : regDone 0 none ok s = i3cDone (if ok then 0 else 1) [] s := by
  cases ok <;> rfl

theorem holdTakes_reins (s : State) : (holdTakes s).reins = s.reins := by
  unfold holdTakes
  split <;> rfl

theorem startChange_waiters (o f why : Nat) (s : State) : (startChange (some o) f why s).reins.waiters = s.reins.waiters := by
  show (holdTakes s).reins.waiters = _
  rw [holdTakes_reins]

theorem loseFeed_waiters (f why : Nat) (was : Bool) (s : State) :
    (loseFeed f why was s).reins.waiters = s.reins.waiters := by
  rw [loseFeed_eq]
  split
  · rfl
  · split
    · rw [startChange_waiters, holdTakes_reins]
      rfl
    · rw [holdTakes_reins]
      rfl

/-- A channel that is commanded off. -/
def offChan (c : PChan) : PChan := { downed .off c with retry := 0, cmdOff := true, qual := false }

theorem turned_off (n : Nat) (on : (pch s n).st = .on) : turnOff n (modPch n (fun c => { c with cmdOff := true }) s) =
    modPch n (fun c => { c with retry := 0 }) (gateDown .off n (modPch n (fun c => { c with cmdOff := true }) s)) := by
  unfold turnOff
  simp [on]

/-- OFF has taken the gate down; a feed has not yet given the bus away. -/
def offState (n : Nat) (s : State) : State :=
  modPch n (fun c => { c with qual := false }) (turnOff n (modPch n (fun c => { c with cmdOff := true }) s))

theorem offState_quay (n : Nat) (s : State) : (offState n s).quay = s.quay := by
  unfold offState
  rw [modPch_quay, keeps_quay (turnOff_within ..).same rfl, modPch_quay]

theorem offState_reins (n : Nat) (s : State) : (offState n s).reins = s.reins := by
  unfold offState
  rw [modPch_reins, keeps_reins (turnOff_within ..).same rfl, modPch_reins]

theorem pch_offState (on : (pch s n).st = .on) : pch (offState n s) n = offChan (pch s n) := by
  simp [offState, turned_off n on, offChan, downed]

/-- OFF of a channel that is ON and no bay: the gate goes down, and a feed gives the bus away. -/
theorem chanOff_on (there : chExists s n = true) (link : s.ppd.linkUp = true) (on : (pch s n).st = .on)
    (allowed : offRefused s n = false) (notBay : isBay n = false) :
    chanOff n s = (true, fillInrush (ppdOutputs
      (if isFeed n then loseFeed n 4 (pch s n).carrying (offState n s) else offState n s))) := by
  unfold chanOff offState
  simp [there, link, on, allowed, notBay]

theorem exec_commandedOff {ok : Bool} {u : State} (shape : chanOff n s = (ok, u)) (quiet : Quiet u) :
    exec (.commandedOff 0 n) s = .next (i3cDone (if ok then 0 else 1) [] u) := by
  show execCommandedOff 0 n s = _
  unfold execCommandedOff
  rw [shape]
  dsimp only
  rw [regDone_i3c, settle_of_quiet (quiet_of_kept quiet rfl rfl : Quiet (i3cDone (if ok then 0 else 1) [] u))]

theorem commandedOff_channel (there : chExists s n = true) (link : s.ppd.linkUp = true) (on : (pch s n).st = .on) (quiet : Quiet s)
    (allowed : offRefused s n = false) (notBay : isBay n = false) :
    ∃ t, exec (.commandedOff 0 n) s = .next t ∧ (pch t n).st = .off ∧ (pch t n).cmdOff = true ∧ t.aon.i3cStatus = 0 := by
  have shape := chanOff_on there link on allowed notBay
  obtain ⟨v, lost, here, quay, waiters⟩ : ∃ v, (if isFeed n then loseFeed n 4 (pch s n).carrying (offState n s) else offState n s) = v ∧
      pch v n = offChan (pch s n) ∧ v.quay = s.quay ∧ v.reins.waiters = s.reins.waiters := by
    refine ⟨_, rfl, ?_⟩
    rw [← pch_offState on, ← offState_quay n s, ← offState_reins n s]
    split
    next feed =>
      have notHold : n ≠ 2 := by rintro rfl; simp [isFeed] at feed
      exact ⟨pch_loseFeed notHold .., keeps_quay (loseFeed_within n 4 (pch s n).carrying (offState n s)).same rfl, loseFeed_waiters ..⟩
    next => exact ⟨rfl, rfl, rfl⟩
  rw [lost] at shape
  have left {α : Type} (g : PChan → α) (blind : ∀ (c : PChan) q, g { c with qual := q } = g c) :
      g (pch (fillInrush (ppdOutputs v)) n) = g (offChan (pch s n)) := by
    rw [pch_fillInrush (.inl (by rw [queued_ppdOutputs, here]; rfl)), ppdOutputs_keeps g v n blind, here]
  have calm : Quiet (fillInrush (ppdOutputs v)) := by
    have reins : (fillInrush (ppdOutputs v)).reins = v.reins :=
      (keeps_reins (fillInrush_within _).same rfl).trans (keeps_reins (ppdOutputs_within _).same rfl)
    refine quiet_of_kept quiet ?_ ((congrArg Reins.waiters reins).trans waiters)
    exact (keeps_quay (fillInrush_within _).same rfl).trans ((keeps_quay (ppdOutputs_within _).same rfl).trans quay)
  refine ⟨_, exec_commandedOff shape calm, ?_, ?_, rfl⟩
  · rw [pch_i3cDone, left PChan.st fun _ _ => rfl]
    rfl
  · rw [pch_i3cDone, left PChan.cmdOff fun _ _ => rfl]
    rfl

theorem getLsbD_set_bit {p : BitVec 16} {k : Nat} (small : k < 16) : (p ||| (1 <<< k)).getLsbD k = true := by
  simp [BitVec.getLsbD_ofNat, Nat.testBit_shiftLeft, small]

theorem bayWarn_quay (n : Nat) (s : State) : (bayWarn n s).quay = s.quay := keeps_quay (bayWarn_within n s).same rfl
theorem bayWarn_reins (n : Nat) (s : State) : (bayWarn n s).reins = s.reins := keeps_reins (bayWarn_within n s).same rfl
theorem chExists_modPch (k : Nat) (f : PChan → PChan) (j : Nat) : chExists (modPch k f s) j = chExists s j := rfl

theorem commandedOff_bay (there : chExists s n = true) (link : s.ppd.linkUp = true) (on : (pch s n).st = .on) (quiet : Quiet s)
    (allowed : offRefused s n = false) (bay : isBay n = true) :
    ∃ t, exec (.commandedOff 0 n) s = .next t ∧ (pch t n).st = .on ∧ (pch t n).warned = true ∧
      t.pin.pwrwarn.getLsbD (n - 35) = true ∧ t.aon.i3cStatus = 0 := by
  have index : n - 35 + 35 = n := by simp [isBay] at bay; omega
  have shape : chanOff n s = (true, bayWarn n (modPch n (fun c => { c with warned := true }) (modPch n (fun c => { c with cmdOff := true }) s))) := by
    unfold chanOff warnBay
    simp [there, link, on, allowed, bay, index, chExists_modPch]
  have calm : Quiet (bayWarn n (modPch n (fun c => { c with warned := true }) (modPch n (fun c => { c with cmdOff := true }) s))) :=
    quiet_of_kept quiet (bayWarn_quay ..) (congrArg Reins.waiters (bayWarn_reins ..))
  refine ⟨_, exec_commandedOff shape calm, ?_, ?_, ?_, rfl⟩
  · rw [pch_i3cDone, pch_bayWarn, pch_modPch, pch_modPch, on]
  · rw [pch_i3cDone, pch_bayWarn, pch_modPch]
  · unfold bayWarn
    rw [if_pos bay]
    have small : n - 35 < 16 := by simp [isBay] at bay; omega
    exact getLsbD_set_bit small

theorem commandedOff_refused (quiet : Quiet s) (refused : offRefused s n = true) :
    exec (.commandedOff 0 n) s = .next (i3cDone 1 [] s) := by
  have shape : chanOff n s = (false, s) := by
    unfold chanOff
    simp [refused]
  exact exec_commandedOff shape quiet

/-- A channel that is commanded on. -/
def onChan (c : PChan) : PChan := { c with cmdOff := false, retry := 0 }

theorem exec_commandedOn {u : State} (shape : chanOn n s = (true, u)) : exec (.commandedOn 0 n) s = .next (i3cDone 0 [] u) := by
  show execCommandedOn 0 n s = _
  unfold execCommandedOn
  rw [shape]
  dsimp only
  rw [regDone_i3c]
  rfl

theorem chanOn_shape (there : chExists s n = true) (link : s.ppd.linkUp = true) (rests : (pch s n).st = .off ∨ (pch s n).st = .latched)
    (powered : isFeed n = true ∨ s.fuse.boardProg = true) : chanOn n s =
      (if isFeed n then (true, modPch n (fun c => { c with st := .debounce }) (modPch n onChan s))
       else if n = 2 then (true, ppdOutputs (modPch n (fun c => { c with st := .on }) (modPch n onChan s)))
       else (true, wantInrush n (modPch n onChan s))) := by
  unfold chanOn
  rcases rests with e | e <;> rcases powered with p | p <;> simp [there, link, e, p] <;> rfl

theorem commandedOn_acts (there : chExists s n = true) (link : s.ppd.linkUp = true)
    (rests : (pch s n).st = .off ∨ (pch s n).st = .latched) :
    (isFeed n = true → ∃ t, exec (.commandedOn 0 n) s = .next t ∧ (pch t n).st = .debounce ∧ (pch t n).cmdOff = false ∧
      t.aon.i3cStatus = 0) ∧
    (n = 2 → s.fuse.boardProg = true → ∃ t, exec (.commandedOn 0 n) s = .next t ∧ (pch t n).st = .on ∧ (pch t n).cmdOff = false ∧
      t.aon.i3cStatus = 0) ∧
    (3 ≤ n → s.fuse.boardProg = true → (∀ j, (pch s j).queued = false) → inInrush s < 8 →
      ∃ t, exec (.commandedOn 0 n) s = .next t ∧ (pch t n).st = .inrush ∧ (pch t n).cmdOff = false ∧ (pch t n).retry = 0 ∧
        t.aon.i3cStatus = 0) := by
  refine ⟨fun feed => ?_, fun hold board => ?_, fun low board free few => ?_⟩
  · have shape := chanOn_shape there link rests (.inl feed)
    rw [if_pos feed] at shape
    refine ⟨_, exec_commandedOn shape, ?_, ?_, rfl⟩
    · rw [pch_i3cDone, pch_modPch]
    · rw [pch_i3cDone, pch_modPch, pch_modPch]; rfl
  · subst hold
    have shape := chanOn_shape there link rests (.inr board)
    rw [if_neg (by decide), if_pos rfl] at shape
    refine ⟨_, exec_commandedOn shape, ?_, ?_, rfl⟩
    · rw [pch_i3cDone, st_ppdOutputs, pch_modPch]
    · rw [pch_i3cDone, cmdOff_ppdOutputs, pch_modPch, pch_modPch]; rfl
  · have notFeed : ¬ isFeed n = true := by simp [isFeed]; omega
    have shape := chanOn_shape there link rests (.inr board)
    rw [if_neg notFeed, if_neg (by omega)] at shape
    have high : n < 51 := by
      unfold chExists at there
      split at there <;> simp at there <;> omega
    have free' (j : Nat) : (pch (modPch n onChan s) j).queued = false := by
      by_cases at' : j = n
      · subst at'
        rw [pch_modPch]
        exact free j
      · rw [pch_modPch_other at', free j]
    have few' : inInrush (modPch n onChan s) < 8 := by rwa [inInrush_modPch (f := onChan) fun _ => rfl]
    obtain ⟨here, -⟩ := pch_wantInrush low high free' few'
    refine ⟨_, exec_commandedOn shape, ?_, ?_, ?_, rfl⟩
    all_goals rw [pch_i3cDone, here, pch_modPch]; rfl

end

/-- Settles O34: each event of R428 to R431 and each command of R436 acts on its own channel and on HOLD's. -/
theorem feedsCarryTheBus : Obligations.FeedsCarryTheBus := by
  unfold Obligations.FeedsCarryTheBus
  refine ⟨fun s f low powered debounced on settled => feedQualified_takes low powered debounced on settled,
    fun s f why low cause qual carries ready => feedDisqualified_yields low cause qual carries ready,
    fun s f low preferred qual stands carries settled ready => feedReturnHoldExpiry_returns low preferred qual stands carries settled ready,
    fun s f new waits noTest stands => breakTimeExpiry_rises new waits noTest stands,
    fun s n there link on quiet => ⟨commandedOff_refused quiet, commandedOff_channel there link on quiet, commandedOff_bay there link on quiet⟩,
    fun s n there link rests => commandedOn_acts there link rests⟩

end Sys2Proof.Laws
end

section
/-! PROOFS. The hold-up store and the bay outputs (R432 to R435). -/

namespace Sys2Proof.Laws

open Sys2Proof Sys2Proof.Machine

section
variable {s : State}

/-! ## Frames of measurements (R418, R432) -/

/-- A frame's voltages and samples are taken. -/
def framed (v b : Nat) (l : List ChanSample) (s : State) : State :=
  l.foldl (fun t x => takeSample x t) { s with ppd := { s.ppd with vStore := BitVec.ofNat 32 v, busV := BitVec.ofNat 32 b } }

/-- e_store is taken while HOLD is closed-ready, and the energy that HOLD delivers is summed up. -/
def energyTaken (s : State) : State :=
  let s := if holdReady s then
      { s with ppd.eStore := BitVec.ofNat 32 (eStoreOf (ppdParam s 12) s.ppd.cEff.toNat s.ppd.vStore.toNat (ppdParam s 10)) } else s
  if (pch s 2).carrying then { s with ppd.bridgeUj := s.ppd.bridgeUj + (pch s 2).power.toNat } else s

/-- The lowest e_store and the highest card power of the window are kept. -/
def windowKept (s : State) : State :=
  { s with led.eLow := min s.led.eLow (aonEStore s), led.powerMax := max s.led.powerMax (cardPower s),
           ppd.goodTide := if s.ppd.linkUp then s.time.tide else s.ppd.goodTide }

theorem exec_energyFrame {v b : Nat} {l : List ChanSample} (powered : s.ppd.powered = true) :
    exec (.energyFrame v b l) s = .next (windowKept (energyTaken (ppdOutputs (framed v b l s)))) := by
  show execEnergyFrame v b l s = _
  unfold execEnergyFrame
  rw [powered]
  rfl

theorem pch_windowKept (s : State) (j : Nat) : pch (windowKept s) j = pch s j := rfl

theorem pch_energyTaken (s : State) (j : Nat) : pch (energyTaken s) j = pch s j := by
  unfold energyTaken
  dsimp only
  split <;> split <;> rfl

theorem ppdOutputs_holdPg (s : State) : (ppdOutputs s).pin.holdPg = holdReady s := by
  unfold ppdOutputs
  rw [keeps_pin (refreshPA_within _).same rfl]

theorem energyFrame_measures {v b : Nat} (powered : s.ppd.powered = true) (on : (pch s 2).st = .on) (pg : (pch s 2).pg = true)
    (noFault : (pch s 2).timer = false) (above : ppdParam s 10 < v) (small : v < 2 ^ 32) :
    ∃ t, exec (.energyFrame v b []) s = .next t ∧ t.ppd.vStore = BitVec.ofNat 32 v ∧ t.ppd.busV = BitVec.ofNat 32 b ∧
      t.ppd.eStore = BitVec.ofNat 32 (eStoreOf (ppdParam s 12) s.ppd.cEff.toNat v (ppdParam s 10)) ∧ t.pin.holdPg = true := by
  have volts : (BitVec.ofNat 32 v).toNat = v := by rw [BitVec.toNat_ofNat, Nat.mod_eq_of_lt small]
  have ready : holdReady (framed v b [] s) = true := by
    show (decide ((pch s 2).st = .on) && (pch s 2).pg && !(pch s 2).timer && decide (ppdParam s 10 < (BitVec.ofNat 32 v).toNat)) = true
    simp [on, pg, noFault, volts, above]
  have still : holdReady (ppdOutputs (framed v b [] s)) = true := by rw [holdReady_ppdOutputs, ready]
  have rest : ppdRest (ppdOutputs (framed v b [] s)) = ppdRest (framed v b [] s) := ppdRest_ppdOutputs _
  have vStore : (ppdOutputs (framed v b [] s)).ppd.vStore = BitVec.ofNat 32 v := (congrArg Ppd.vStore rest :)
  have busV : (ppdOutputs (framed v b [] s)).ppd.busV = BitVec.ofNat 32 b := (congrArg Ppd.busV rest :)
  have cEff : (ppdOutputs (framed v b [] s)).ppd.cEff = s.ppd.cEff := (congrArg Ppd.cEff rest :)
  have param (k : Nat) : ppdParam (ppdOutputs (framed v b [] s)) k = ppdParam s k := ppdParam_of_rest rest k
  have pin := ppdOutputs_holdPg (framed v b [] s)
  rw [ready] at pin
  refine ⟨_, exec_energyFrame powered, ?_⟩
  generalize ppdOutputs (framed v b [] s) = u at *
  unfold windowKept energyTaken
  rw [if_pos still, vStore, cEff, param, param, volts]
  dsimp only
  split
  · exact ⟨vStore, busV, rfl, pin⟩
  · exact ⟨vStore, busV, rfl, pin⟩

theorem pch_takeSample {x : ChanSample} (there : chExists s x.ch = true) : pch (takeSample x s) x.ch =
    { pch s x.ch with measI := BitVec.ofNat 32 x.mA, measV := BitVec.ofNat 32 x.mV, power := BitVec.ofNat 32 x.mW } := by
  unfold takeSample
  rw [if_pos there, pch_modPch]

theorem energyFrame_samples {v b : Nat} {x : ChanSample} (powered : s.ppd.powered = true) (there : chExists s x.ch = true) :
    ∃ t, exec (.energyFrame v b [x]) s = .next t ∧ (pch t x.ch).measI = BitVec.ofNat 32 x.mA ∧
      (pch t x.ch).measV = BitVec.ofNat 32 x.mV ∧ (pch t x.ch).power = BitVec.ofNat 32 x.mW ∧ (pch t x.ch).st = (pch s x.ch).st := by
  have sampled : pch (framed v b [x] s) x.ch = { pch s x.ch with
      measI := BitVec.ofNat 32 x.mA, measV := BitVec.ofNat 32 x.mV, power := BitVec.ofNat 32 x.mW } :=
    pch_takeSample (s := framed v b [] s) there
  have left {α : Type} (g : PChan → α) (blind : ∀ (c : PChan) q, g { c with qual := q } = g c) :
      g (pch (windowKept (energyTaken (ppdOutputs (framed v b [x] s)))) x.ch) = g (pch (framed v b [x] s) x.ch) := by
    rw [pch_windowKept, pch_energyTaken, ppdOutputs_keeps g _ _ blind]
  refine ⟨_, exec_energyFrame powered, ?_, ?_, ?_, ?_⟩
  · rw [left PChan.measI fun _ _ => rfl, sampled]
  · rw [left PChan.measV fun _ _ => rfl, sampled]
  · rw [left PChan.power fun _ _ => rfl, sampled]
  · rw [left PChan.st fun _ _ => rfl, sampled]

/-! ## The store test (R433) -/

theorem carrier_eq {f : Nat} (low : f < 2) (carries : (pch s f).carrying = true) (idle : (pch s (1 - f)).carrying = false) :
    carrier s = some f := by
  unfold carrier
  match f, low with
  | 0, _ => simp [List.range_succ, carries]
  | 1, _ =>
    have zero : (pch s 0).carrying = false := idle
    simp [List.range_succ, carries, zero]

theorem storeTestStart_starts {f : Nat} (mode : s.aon.mode = .service) (low : f < 2) (carries : (pch s f).carrying = true)
    (idle : (pch s (1 - f)).carrying = false) (ready : holdReady s = true) (settled : s.ppd.newFeed = none)
    (noTest : s.ppd.testing = false) :
    ∃ t, exec .storeTestStart s = .next t ∧ t.ppd.testing = true ∧ t.ppd.testV1 = s.ppd.vStore ∧ (pch t f).st = .standby ∧
      (pch t f).carrying = false ∧ (pch t 2).carrying = true ∧ t.ppd.newFeed = some (BitVec.ofNat 1 f) := by
  obtain ⟨old, hold, new, -, volts⟩ := planned_change low f 3 ready
  generalize shape : startChange (some f) f 3 (gateDown .standby f s) = u at old hold new volts
  have runs : exec .storeTestStart s = .next (ppdOutputs { u with ppd.testing := true, ppd.testV1 := u.ppd.vStore }) := by
    show execStoreTestStart s = _
    unfold execStoreTestStart
    rw [carrier_eq low carries idle]
    simp [mode, ready, settled, noTest, shape]
  have rest := ppdRest_ppdOutputs { u with ppd.testing := true, ppd.testV1 := u.ppd.vStore }
  refine ⟨_, runs, (congrArg Ppd.testing rest :), ((congrArg Ppd.testV1 rest :) : _ = u.ppd.vStore).trans volts, ?_, ?_, ?_, ?_⟩
  · rw [st_ppdOutputs]
    exact (congrArg PChan.st old :)
  · rw [carrying_ppdOutputs]
    exact (congrArg PChan.carrying old :)
  · rw [carrying_ppdOutputs]
    exact hold
  · rw [ppdOutputs_newFeed]
    exact new

/-- The test is over and the feed's inrush starts. -/
def testOver (f : BitVec 1) (v2 : Nat) (s : State) : State :=
  beginInrush f.toNat { s with ppd := { s.ppd with testing := false, breakDone := true, vStore := BitVec.ofNat 32 v2 } }

theorem ppdRest_testOver (f : BitVec 1) (v2 : Nat) (s : State) : ppdRest (testOver f v2 s) =
    { ppdRest s with testing := false, breakDone := true, vStore := BitVec.ofNat 32 v2 } := ppdRest_beginInrush ..

theorem testOver_rises (f : BitVec 1) (v2 : Nat) (s : State) : (pch (testOver f v2 s) f.toNat).st = .inrush := by
  unfold testOver
  rw [pch_beginInrush]
  rfl

/-- The measured capacitance and C_EFF are taken. -/
def capacityTaken (c e : Nat) (s : State) : State :=
  { s with ppd := { s.ppd with cMeas := BitVec.ofNat 32 c, cEff := BitVec.ofNat 32 e } }

theorem ppdRest_capacityTaken (c e : Nat) (s : State) :
    ppdRest (capacityTaken c e s) = { ppdRest s with cMeas := BitVec.ofNat 32 c, cEff := BitVec.ofNat 32 e } := rfl

section
variable {f : BitVec 1} {v2 e : Nat} (tests : s.ppd.testing = true) (new : s.ppd.newFeed = some f)
include tests new

theorem storeTest_measures (sinks : s.ppd.testV1.toNat ≤ (s.ppd.testV1.toNat - v2) * 200) :
    ∃ t, exec (.storeTest v2 e) s = .next t ∧ t.ppd.testing = false ∧ (pch t f.toNat).st = .inrush ∧
      t.ppd.cMeas = BitVec.ofNat 32 (cMeasOf e (ppdParam s 12) s.ppd.testV1.toNat v2) ∧
      t.ppd.cEff = BitVec.ofNat 32 (cEffOf (ppdParam s 11) (cMeasOf e (ppdParam s 12) s.ppd.testV1.toNat v2)) := by
  have param (k : Nat) : ppdParam (testOver f v2 s) k = ppdParam s k := by
    unfold ppdParam
    rw [show (testOver f v2 s).ppd.paramSet = s.ppd.paramSet from (congrArg Ppd.paramSet (ppdRest_testOver f v2 s) :),
      show (testOver f v2 s).ppd.param = s.ppd.param from (congrArg Ppd.param (ppdRest_testOver f v2 s) :)]
  obtain ⟨r, runs⟩ : ∃ r, exec (.storeTest v2 e) s = .next (ppdOutputs (logIt r (capacityTaken
      (cMeasOf e (ppdParam s 12) s.ppd.testV1.toNat v2)
      (cEffOf (ppdParam s 11) (cMeasOf e (ppdParam s 12) s.ppd.testV1.toNat v2)) (testOver f v2 s)))) := by
    rw [← param 12, ← param 11]
    refine ⟨{ cause := 0x76, src := epPpd, args := [e, s.ppd.testV1.toNat, v2,
      cMeasOf e (ppdParam (testOver f v2 s) 12) s.ppd.testV1.toNat v2,
      cEffOf (ppdParam (testOver f v2 s) 11) (cMeasOf e (ppdParam (testOver f v2 s) 12) s.ppd.testV1.toNat v2)] }, ?_⟩
    show execStoreTest v2 e s = _
    unfold execStoreTest
    rw [tests, new]
    exact if_neg (by omega)
  generalize cMeasOf e (ppdParam s 12) s.ppd.testV1.toNat v2 = c at *
  have rest : ppdRest (ppdOutputs (logIt r (capacityTaken c (cEffOf (ppdParam s 11) c) (testOver f v2 s)))) =
      { ppdRest s with testing := false, breakDone := true, vStore := BitVec.ofNat 32 v2,
                       cMeas := BitVec.ofNat 32 c, cEff := BitVec.ofNat 32 (cEffOf (ppdParam s 11) c) } := by
    rw [ppdRest_ppdOutputs, ppdRest_logIt, ppdRest_capacityTaken, ppdRest_testOver]
  refine ⟨_, runs, (congrArg Ppd.testing rest :), ?_, (congrArg Ppd.cMeas rest :), (congrArg Ppd.cEff rest :)⟩
  rw [st_ppdOutputs, pch_logIt]
  exact testOver_rises f v2 s

theorem storeTest_flat (flat : (s.ppd.testV1.toNat - v2) * 200 < s.ppd.testV1.toNat) :
    ∃ t, exec (.storeTest v2 e) s = .next t ∧ t.ppd.testing = false ∧ (pch t f.toNat).st = .inrush ∧
      t.ppd.cMeas = s.ppd.cMeas ∧ t.ppd.cEff = s.ppd.cEff := by
  have runs : exec (.storeTest v2 e) s = .next (ppdOutputs (testOver f v2 s)) := by
    show execStoreTest v2 e s = _
    unfold execStoreTest
    rw [tests, new]
    exact if_pos flat
  have rest := (ppdRest_ppdOutputs (testOver f v2 s)).trans (ppdRest_testOver f v2 s)
  exact ⟨_, runs, (congrArg Ppd.testing rest :), by rw [st_ppdOutputs]; exact testOver_rises f v2 s, (congrArg Ppd.cMeas rest :),
    (congrArg Ppd.cEff rest :)⟩

end

/-! ## The link and the bays (R434, R435) -/

theorem ppdLink_lost (link : s.ppd.linkUp = true) :
    ∃ t, exec .ppdLink s = .next t ∧ t.ppd.linkUp = false ∧ aonEStore t = 0 ∧ t.led.eLow = 0 ∧ t.ppd.ch = s.ppd.ch := by
  obtain ⟨r, runs⟩ : ∃ r, exec .ppdLink s = .next (logIt r { s with ppd.linkUp := false, led.eLow := 0 }) := by
    refine ⟨{ cause := 0x77, src := epAon, args := wide s.ppd.goodTide.toNat }, ?_⟩
    show execPpdLink s = _
    unfold execPpdLink
    rw [link]
    rfl
  refine ⟨_, runs, ?_, ?_, ?_, ?_⟩
  · rw [logIt_ppd]
  · unfold aonEStore
    rw [logIt_ppd]
    simp
  · rw [logIt_led]
  · rw [logIt_ppd]

theorem beginInrush_perst (n : Nat) (s : State) : (beginInrush n s).pin.perst = s.pin.perst := by
  unfold beginInrush
  have pin : (evPp n 1 (modPch n (fun c => { c with st := .inrush, queued := false, warned := false }) s)).pin = s.pin := evPp_pin ..
  split
  · exact (congrArg Pins.perst pin :)
  · exact (congrArg Pins.perst pin :)

theorem fillInrush_perst (s : State) : (fillInrush s).pin.perst = s.pin.perst := by
  unfold fillInrush
  refine List.foldlRecOn _ _ (motive := fun t : State => t.pin.perst = s.pin.perst) rfl fun t kept k _ => ?_
  split
  · rw [beginInrush_perst, kept]
  · exact kept

theorem gateDown_perst {b : Nat} (low : b < 16) (st : PSt) (s : State) : (gateDown st (b + 35) s).pin.perst.getLsbD b = true := by
  have bay : isBay (b + 35) = true := by simp [isBay]; omega
  unfold gateDown bayReset
  rw [if_pos bay, keeps_pin (bayDark_within ..).same rfl, Nat.add_sub_cancel]
  exact getLsbD_set_bit low

theorem bayWarnLeadExpiry_cuts {b : Nat} (low : b < 16) (warned : (pch s (b + 35)).warned = true) (on : (pch s (b + 35)).st = .on) :
    ∃ t, exec (.bayWarnLeadExpiry b) s = .next t ∧ (pch t (b + 35)).st = .off ∧ (pch t (b + 35)).pg = false ∧
      t.pin.perst.getLsbD b = true := by
  have off : turnOff (b + 35) s = modPch (b + 35) (fun c => { c with retry := 0 }) (gateDown .off (b + 35) s) := by
    unfold turnOff
    simp [on]
  have runs : exec (.bayWarnLeadExpiry b) s = .next (refreshPA (fillInrush (turnOff (b + 35) s))) := if_pos warned
  have left : pch (fillInrush (turnOff (b + 35) s)) (b + 35) = { downed .off (pch s (b + 35)) with retry := 0 } := by
    have here : pch (turnOff (b + 35) s) (b + 35) = { downed .off (pch s (b + 35)) with retry := 0 } := by
      rw [off, pch_modPch, pch_gateDown]
    rw [pch_fillInrush (.inl (by rw [here]; rfl)), here]
  refine ⟨_, runs, ?_, ?_, ?_⟩
  · rw [pch_refreshPA, left]; rfl
  · rw [pch_refreshPA, left]; rfl
  · rw [keeps_pin (refreshPA_within _).same rfl, fillInrush_perst, off]
    exact gateDown_perst low .off s

end

/-- Settles O35: a frame measures before it takes e_store, a test takes C_EFF from what HOLD delivered, and a bay's reset output follows
its rail. -/
theorem storeIsMeasured : Obligations.StoreIsMeasured := by
  unfold Obligations.StoreIsMeasured
  refine ⟨fun s v b powered on pg noFault above small => energyFrame_measures powered on pg noFault above small,
    fun s v b x powered there => energyFrame_samples powered there,
    fun s f mode low carries idle ready settled noTest => storeTestStart_starts mode low carries idle ready settled noTest,
    fun s f v2 e tests new => ⟨storeTest_measures tests new, storeTest_flat tests new⟩, fun s link => ppdLink_lost link,
    fun s b low warned on => bayWarnLeadExpiry_cuts low warned on, fun s b pg => if_pos pg⟩

end Sys2Proof.Laws
end

section
/-! PROOFS. The reset inputs (R388, R482): what a device-scope reset leaves, and the entry to Harnessing. -/

namespace Sys2Proof.Laws

open Sys2Proof Sys2Proof.Machine

/-! ## A device-scope reset (R17, Table 14.2) -/

/-- RW fields have their reset values, and Stall is entered. -/
def stalled (s : State) : State :=
  toStall 0x01 (ppdRegs { s with aon.gaitMax := 3, aon.xidx := [], aon.ppdIdx := [], aon.restart := false })

theorem stalled_entered (s : State) : Entered (stalled s) s.aon.mode .stall 0x01 := by
  unfold stalled
  refine toStall_entered 0x01 ?_
  rw [within_mode (ppdRegs_within _) rfl]

theorem deviceReset_eq (cold : Bool) (s : State) :
    deviceReset cold s = driveAlert (if cold then coldFields (stalled s) else stalled s) := rfl

theorem deviceReset_entered (cold : Bool) (s : State) : Entered (deviceReset cold s) s.aon.mode .stall 0x01 := by
  rw [deviceReset_eq]
  refine entered_of_within (driveAlert_within _) rfl ?_
  cases cold
  case false => exact stalled_entered s
  case true => exact entered_of_within (coldFields_within _) rfl (stalled_entered s)

/-- DRAM is not retained. -/
theorem deviceReset_mem (cold : Bool) (s : State) : (deviceReset cold s).dram.mem = [] := by
  rw [deviceReset_eq, driveAlert_dram]
  cases cold
  case false => exact toStall_mem ..
  case true => exact (within_mem (coldFields_within _) rfl).trans (toStall_mem ..)

theorem deviceReset_fuse (cold : Bool) (s : State) : (deviceReset cold s).fuse = s.fuse := keeps_fuse (deviceReset_within cold s).same rfl
theorem deviceReset_nor (cold : Bool) (s : State) : (deviceReset cold s).nor = s.nor := keeps_nor (deviceReset_within cold s).same rfl
theorem deviceReset_time (cold : Bool) (s : State) : (deviceReset cold s).time = s.time :=
  keeps_time (deviceReset_within cold s).same rfl rfl

/-! ## The entry to Harnessing (R394) -/

theorem changeMode_resetLow (code : BitVec 8) (m : Mode) (s : State) : (changeMode code m s).aon.resetLow = s.aon.resetLow := by
  obtain ⟨_, _, _, _, _, e⟩ := changeMode_aon code m s
  rw [e]

theorem changeMode_pwrok (code : BitVec 8) (m : Mode) (s : State) : (changeMode code m s).aon.pwrok = s.aon.pwrok := by
  obtain ⟨_, _, _, _, _, e⟩ := changeMode_aon code m s
  rw [e]

theorem clearBase_aon (s : State) : (clearBase s).aon = s.aon := rfl

theorem enterHarnessing_aon (code : BitVec 8) (s : State) :
    Entered (enterHarnessing code s) s.aon.mode .harnessing code ∧ (enterHarnessing code s).aon.resetLow = s.aon.resetLow ∧
      (enterHarnessing code s).aon.pwrok = s.aon.pwrok ∧ (enterHarnessing code s).aon.restart = false := by
  have mode : Entered (changeMode code .harnessing (clearBase s)) s.aon.mode .harnessing code := changeMode_entered code .harnessing rfl
  have low := changeMode_resetLow code .harnessing (clearBase s)
  have ok := changeMode_pwrok code .harnessing (clearBase s)
  unfold enterHarnessing
  generalize changeMode code .harnessing (clearBase s) = u at mode low ok
  dsimp only
  rw [Entered, driveAlert_aon, keeps_aon (powerRails_within _).same rfl rfl]
  exact ⟨mode, low, ok, rfl⟩

section
variable {s : State} {ns : Nat}

theorem resetNAssert_resets (high : s.aon.resetLow = false) :
    (1000 ≤ ns → ∃ t, exec (.resetNAssert ns) s = .next t ∧ Entered t s.aon.mode .stall 0x01 ∧ t.aon.resetLow = true ∧
      t.dram.mem = [] ∧ t.fuse = s.fuse ∧ t.nor = s.nor ∧ t.time = s.time) ∧
    (ns < 100 → exec (.resetNAssert ns) s = .next s) ∧
    (100 ≤ ns → ns < 1000 → exec (.resetNAssert ns) s = .fault .undefinedPulse) := by
  have run : exec (.resetNAssert ns) s = resetPulse ns (fun t => { t with aon.resetLow := true }) s := if_neg (by simp [high])
  rw [run]
  unfold resetPulse
  refine ⟨fun long => ?_, fun short => if_pos short, fun low below => ?_⟩
  · rw [if_neg (by omega), if_neg (by omega)]
    exact ⟨_, rfl, deviceReset_entered true s, rfl, deviceReset_mem true s, deviceReset_fuse true s, deviceReset_nor true s,
      deviceReset_time true s⟩
  · rw [if_neg (by omega), if_pos below]

theorem pwrokDeassert_resets (good : s.aon.pwrok = true) :
    (1000 ≤ ns → ∃ t, exec (.pwrokDeassert ns) s = .next t ∧ Entered t s.aon.mode .stall 0x01 ∧ t.aon.pwrok = false ∧
      t.dram.mem = [] ∧ t.fuse = s.fuse ∧ t.nor = s.nor ∧ t.time = s.time) ∧
    (ns < 100 → exec (.pwrokDeassert ns) s = .next s) ∧
    (100 ≤ ns → ns < 1000 → exec (.pwrokDeassert ns) s = .fault .undefinedPulse) := by
  have run : exec (.pwrokDeassert ns) s = resetPulse ns (fun t => { t with aon.pwrok := false }) s := if_neg (by simp [good])
  rw [run]
  unfold resetPulse
  refine ⟨fun long => ?_, fun short => if_pos short, fun low below => ?_⟩
  · rw [if_neg (by omega), if_neg (by omega)]
    exact ⟨_, rfl, deviceReset_entered true s, rfl, deviceReset_mem true s, deviceReset_fuse true s, deviceReset_nor true s,
      deviceReset_time true s⟩
  · rw [if_neg (by omega), if_pos below]

theorem resetNRelease_enters (long : 100 ≤ ns) (mode : s.aon.mode = .stall) (board : s.fuse.boardProg = true)
    (low : s.aon.resetLow = true) (good : s.aon.pwrok = true) :
    ∃ t, exec (.resetNRelease ns) s = .next t ∧ Entered t .stall .harnessing 0x02 ∧ t.aon.resetLow = false := by
  have may : mayHarness { s with aon.resetLow := false } = true := by simp [mayHarness, mode, board, good]
  have run : exec (.resetNRelease ns) s = .next (enterHarnessing 0x02 { s with aon.resetLow := false }) := by
    show execResetNRelease ns s = _
    unfold execResetNRelease
    rw [if_neg (by simp [low]; omega)]
    exact congrArg _ (if_pos may)
  obtain ⟨entered, high, -, -⟩ := enterHarnessing_aon 0x02 { s with aon.resetLow := false }
  rw [show ({ s with aon.resetLow := false } : State).aon.mode = .stall from mode] at entered
  exact ⟨_, run, entered, high⟩

theorem pwrokAssert_enters (long : 100 ≤ ns) (mode : s.aon.mode = .stall) (board : s.fuse.boardProg = true)
    (high : s.aon.resetLow = false) (bad : s.aon.pwrok = false) :
    ∃ t, exec (.pwrokAssert ns) s = .next t ∧ Entered t .stall .harnessing 0x02 ∧ t.aon.pwrok = true := by
  have may : mayHarness { s with aon.pwrok := true } = true := by simp [mayHarness, mode, board, high]
  have run : exec (.pwrokAssert ns) s = .next (enterHarnessing 0x02 { s with aon.pwrok := true }) := by
    show execPwrokAssert ns s = _
    unfold execPwrokAssert
    rw [if_neg (by simp [bad]; omega)]
    exact congrArg _ (if_pos may)
  obtain ⟨entered, -, good, -⟩ := enterHarnessing_aon 0x02 { s with aon.pwrok := true }
  rw [show ({ s with aon.pwrok := true } : State).aon.mode = .stall from mode] at entered
  exact ⟨_, run, entered, good⟩

theorem aonRestart_enters (owed : s.aon.restart = true) (may : mayHarness s = true) :
    ∃ t, exec .aonRestart s = .next t ∧ Entered t .stall .harnessing 0x12 ∧ t.aon.restart = false := by
  have mode : s.aon.mode = .stall := by
    simp only [mayHarness, Bool.and_eq_true, decide_eq_true_eq] at may
    exact may.1.2
  have run : exec .aonRestart s = .next (enterHarnessing 0x12 s) := congrArg _ (if_pos (by simp [owed, may]))
  obtain ⟨entered, -, -, done⟩ := enterHarnessing_aon 0x12 s
  rw [mode] at entered
  exact ⟨_, run, entered, done⟩

end

/-- Settles O38: a long pulse is a device-scope reset, and Harnessing is entered as soon as both inputs are high. -/
theorem resetInputsAct : Obligations.ResetInputsAct := by
  unfold Obligations.ResetInputsAct
  refine ⟨fun s ns high => resetNAssert_resets high, fun s ns good => pwrokDeassert_resets good,
    fun s ns long mode board => ⟨fun low good => resetNRelease_enters long mode board low good,
      fun high bad => pwrokAssert_enters long mode board high bad⟩, fun s owed may => aonRestart_enters owed may⟩

end Sys2Proof.Laws
end

section
/-! PROOFS. Thermal supervision (R493), lost clocks (R484), and the supplies of the PPD and of AON (R415). -/

namespace Sys2Proof.Laws

open Sys2Proof Sys2Proof.Machine

/-! ## Thermal supervision -/

/-- A reading is taken, and an excursion may end with it. -/
def sensed (sensor temp : Nat) (s : State) : State :=
  let s := { s with aon.sensors := sset 0 s.aon.sensors sensor temp }
  { s with aon.dieHot := s.aon.dieHot && s.aon.sensors.any (fun e => 100 ≤ e.2) }

theorem readSensor_eq (sensor temp : Nat) (s : State) : readSensor sensor temp s =
    if 105 ≤ temp && !(sensed sensor temp s).aon.dieHot then
      logIt { cause := 0x6D, src := epAon } { sensed sensor temp s with aon.dieHot := true }
    else sensed sensor temp s := rfl

theorem readSensor_mode (sensor temp : Nat) (s : State) : (readSensor sensor temp s).aon.mode = s.aon.mode := by
  rw [readSensor_eq]
  split
  · rw [logIt_aon]; rfl
  · rfl

theorem readSensor_thermTrip (sensor temp : Nat) (s : State) : (readSensor sensor temp s).aon.thermTrip = s.aon.thermTrip := by
  rw [readSensor_eq]
  split
  · rw [logIt_aon]; rfl
  · rfl

theorem driveAlert_railEn (s : State) : (driveAlert s).pin.railEn = s.pin.railEn := rfl

section
variable {s : State} {i temp : Nat}

theorem exec_dieHot (there : sensorExists s i = true) : exec (.dieHot i temp) s = .next (driveAlert (readSensor i temp s)) := if_pos there

theorem dieHot_logs (there : sensorExists s i = true) (hot : 105 ≤ temp) (first : s.aon.dieHot = false)
    (room : sget 0 s.log.rate (epAon.toNat * 256 + 0x6D) < 16) :
    ∃ t, exec (.dieHot i temp) s = .next t ∧ t.aon.dieHot = true ∧ sget 0 t.aon.sensors i = temp ∧
      t.log.inbox = s.log.inbox ++ [logEntry { cause := 0x6D, src := epAon } s.time.tide] ∧ t.aon.mode = s.aon.mode := by
  have starts : (105 ≤ temp && !(sensed i temp s).aon.dieHot) = true := by simp [sensed, hot, first]
  refine ⟨_, exec_dieHot there, ?_⟩
  rw [driveAlert_aon, driveAlert_log, readSensor_mode, readSensor_eq, if_pos starts, logIt_aon, logIt_inbox (by exact room)]
  exact ⟨rfl, sget_sset_same 0 _ i temp, rfl, rfl⟩

theorem dieHot_reads (there : sensorExists s i = true) (cool : temp < 105) :
    ∃ t, exec (.dieHot i temp) s = .next t ∧ sget 0 t.aon.sensors i = temp ∧ t.log = s.log := by
  refine ⟨_, exec_dieHot there, ?_⟩
  rw [driveAlert_aon, driveAlert_log, readSensor_eq, if_neg (by simp; omega)]
  exact ⟨sget_sset_same 0 _ i temp, rfl⟩

theorem noSensor (gone : sensorExists s i = false) : exec (.dieHot i temp) s = .next s ∧ exec (.thermtrip i temp) s = .next s :=
  ⟨if_neg (by simp [gone]), if_pos (by simp [gone])⟩

theorem thermtrip_resets (there : sensorExists s i = true) (trips : 120 ≤ temp) (first : s.aon.thermTrip = false) :
    ∃ t, exec (.thermtrip i temp) s = .next t ∧ Entered t s.aon.mode .stall 0x01 ∧ t.aon.thermTrip = true ∧ t.pin.railEn = 0x21 ∧
      t.dram.mem = [] ∧ t.time = s.time ∧ t.nor = s.nor ∧ t.fuse = s.fuse := by
  have run : exec (.thermtrip i temp) s = .next (driveAlert (logIt { cause := 0x6E, src := epAon }
      { railsWatch (deviceReset false (readSensor i temp s)) with aon.thermTrip := true })) := by
    show execThermtrip i temp s = _
    unfold execThermtrip
    rw [if_neg (by simp [there])]
    exact if_neg (by simp [readSensor_thermTrip, first]; omega)
  have entered := deviceReset_entered false (readSensor i temp s)
  rw [readSensor_mode] at entered
  have kept := (readSensor_within i temp s).same
  refine ⟨_, run, ?_, ?_, ?_, ?_, ?_, ?_, ?_⟩
  · rw [Entered, driveAlert_aon, logIt_aon]
    exact entered
  · rw [driveAlert_aon, logIt_aon]
  · rw [driveAlert_railEn, logIt_pin]
    rfl
  · rw [driveAlert_dram, logIt_dram]
    exact deviceReset_mem ..
  · rw [driveAlert_time, logIt_time]
    exact (deviceReset_time ..).trans (keeps_time kept rfl rfl)
  · rw [driveAlert_nor, logIt_nor]
    exact (deviceReset_nor ..).trans (keeps_nor kept rfl)
  · rw [driveAlert_fuse, logIt_fuse]
    exact (deviceReset_fuse ..).trans (keeps_fuse kept rfl)

theorem thermtripRecovery_recovers (cool : temp < 95) (tripped : s.aon.thermTrip = true) :
    ∃ t, exec (.thermtripRecovery temp) s = .next t ∧ t.aon.thermTrip = false ∧ t.pin.railEn = 0x3F ∧ t.aon.mode = s.aon.mode := by
  have run : exec (.thermtripRecovery temp) s = .next (railsUp { readSensor aonSensor temp s with aon.thermTrip := false }) :=
    if_neg (by simp [readSensor_thermTrip, tripped, cool])
  exact ⟨_, run, rfl, rfl, readSensor_mode ..⟩

/-! ## Lost clocks -/

theorem xtalFail_slow (runs : s.time.slowFail = false) :
    ∃ t, exec (.xtalFail true) s = .next t ∧ t.time = { s.time with slowFail := true } := by
  have run : exec (.xtalFail true) s =
      .next (driveAlert (logIt { cause := 0x6F, src := epAon } { s with time.slowFail := true })) := if_neg (by simp [runs])
  exact ⟨_, run, by rw [driveAlert_time, logIt_time]⟩

theorem xtalFail_fast (runs : s.time.fastFail = false) (on : s.time.stopped = false) :
    ∃ t, exec (.xtalFail false) s = .next t ∧ t.time = { s.time with fastFail := true, calValid := false } := by
  have run : exec (.xtalFail false) s =
      .next (driveAlert (logIt { cause := 0x6F, src := epAon } { s with time.fastFail := true, time.calValid := false })) :=
    if_neg (by simp [runs, on])
  exact ⟨_, run, by rw [driveAlert_time, logIt_time]⟩

end

/-! ## The AFL reference of a die is lost -/

/-- A port without its reference that is not up. -/
def refGone (q : Port) : Prop := q.refLost = true ∧ (q.st = .off ∨ q.st = .detect)

/-- Of a port that is not up only its own record changes. -/
theorem portRefLost_down {s : State} {p : Nat} (down : portUp s p = false) :
    refGone (portOf (portRefLost s p) p) ∧ (∀ j, j ≠ p → portOf (portRefLost s p) j = portOf s j) ∧
      (portRefLost s p).quay = s.quay ∧ (portRefLost s p).reins = s.reins := by
  unfold portRefLost
  simp only [down, Bool.false_eq_true, if_false]
  by_cases off : (portOf s p).st = .off
  · simp only [off, if_true]
    refine ⟨?_, fun j other => portOf_modPort_other other .., rfl, rfl⟩
    rw [portOf_modPort]
    exact ⟨rfl, .inl off⟩
  · simp only [off, if_false]
    refine ⟨?_, fun j other => ?_, rfl, rfl⟩
    · rw [portOf_modPort, backToDetect, portOf_modPort]
      exact ⟨rfl, .inr rfl⟩
    · rw [portOf_modPort_other other, backToDetect, portOf_modPort_other other]

theorem portUp_refGone {s : State} {p : Nat} (gone : refGone (portOf s p)) : portUp s p = false := by
  unfold portUp
  rcases gone.2 with e | e <;> rw [e] <;> rfl

theorem refLost_ports (l : List Nat) : ∀ s : State, (∀ p, portUp s p = false) →
    (∀ p ∈ l, refGone (portOf (l.foldl portRefLost s) p)) ∧ (∀ p, p ∉ l → portOf (l.foldl portRefLost s) p = portOf s p) ∧
      (l.foldl portRefLost s).quay = s.quay ∧ (l.foldl portRefLost s).reins = s.reins := by
  induction l with
  | nil => exact fun s _ => ⟨fun _ m => absurd m List.not_mem_nil, fun _ _ => rfl, rfl, rfl⟩
  | cons k l ih =>
    intro s down
    obtain ⟨gone, others, quay, reins⟩ := portRefLost_down (down k)
    have down' (p : Nat) : portUp (portRefLost s k) p = false := by
      by_cases here : p = k
      · subst here
        exact portUp_refGone gone
      · rw [portUp, others p here]
        exact down p
    obtain ⟨gone', others', quay', reins'⟩ := ih _ down'
    refine ⟨fun p m => ?_, fun p m => ?_, quay'.trans quay, reins'.trans reins⟩
    · by_cases later : p ∈ l
      · exact gone' p later
      · have here : p = k := by simpa [later] using m
        subst here
        rw [List.foldl_cons, others' p later]
        exact gone
    · rw [List.mem_cons, not_or] at m
      rw [List.foldl_cons, others' p m.2, others p m.1]

theorem refclkLoss_afl {s : State} {d : Nat} (up : diesDark s = false) (there : d < numDies s) (quiet : Quiet s)
    (down : ∀ p, portUp s p = false) :
    ∃ t, exec (.refclkLoss false d) s = .next t ∧
      (∀ p, p < numPorts s → p / 2 = d → (portOf t p).refLost = true ∧ ((portOf t p).st = .off ∨ (portOf t p).st = .detect)) ∧
      (∀ p, p / 2 ≠ d → portOf t p = portOf s p) := by
  have run : exec (.refclkLoss false d) s =
      .next (settle (((List.range (numPorts s)).filter (fun p => p / 2 = d)).foldl portRefLost s)) := by
    show execRefclkLoss false d s = _
    unfold execRefclkLoss
    rw [if_neg (by simp [up, there]), if_neg (by decide)]
  obtain ⟨gone, others, quay, reins⟩ := refLost_ports ((List.range (numPorts s)).filter (fun p => p / 2 = d)) s down
  rw [settle_of_quiet (quiet_of_kept quiet quay (by rw [reins]))] at run
  exact ⟨_, run, fun p small at' => gone p (by simp [small, at']), fun p away => others p (by simp [away])⟩

/-! ## The PCIe reference of a die is lost -/

section
variable {s : State}

theorem ssdIndices_of_kept {t : State} (cfg : t.cfg = s.cfg) : ssdIndices t = ssdIndices s := by
  simp [ssdIndices, recsOf, typedRecs, sectionRecs, cfg]

theorem rests_resetSsd (i : Nat) (rest : LedgerRests s) : LedgerRests (resetSsd i s) :=
  rests_setSsd _ _ (rests_peEv _ _ _ _ (rests_peEv _ _ _ _ rest))

/-- A command of an SSD in place times out: its controller is reset. -/
theorem nvmeTimeout_resets {i : Nat} (rest : LedgerRests s) (segs : s.led.segs = []) (resets : (ssdOf s i).resets = [])
    (member : (ssdIndices s).contains i = true) (present : (ssdOf s i).present = true) (sound : (ssdOf s i).failed = false) :
    nvmeTimeout i s = refreshPA (resetSsd i s) := by
  have counted : (peEv s i 7 1 (peEv s i 8 1 s)).led = s.led := (peEv_led ..).trans (peEv_led ..)
  have kept : loseWrites i (resetSsd i s) = resetSsd i s := by
    rw [loseWrites, show (resetSsd i s).led.segs = [] from (congrArg Ledger.segs counted :).trans segs]
    rfl
  have run : nvmeTimeout i s = refreshPA (packQueued (resetSsd i s)) := by
    rw [nvmeTimeout, if_neg (by simp only [member, present, sound]; decide), resets]
    exact congrArg (fun u => refreshPA (packQueued u)) kept
  rw [run, packQueued_of_queueEmpty (rests_resetSsd i rest).queue]

theorem ssdOf_resetSsd (i : Nat) (s : State) : ssdOf (resetSsd i s) i =
    { ssdOf s i with resets := [s.time.tide], resetting := true, ready := false, queues := false } := by
  rw [resetSsd, ssdOf_modSsd, ssdOf_of_led ((peEv_led ..).trans (peEv_led ..))]

theorem ssdOf_resetSsd_other {i j : Nat} (other : j ≠ i) (s : State) : ssdOf (resetSsd i s) j = ssdOf s j := by
  rw [resetSsd, ssdOf_modSsd_other other, ssdOf_of_led ((peEv_led ..).trans (peEv_led ..))]

theorem resetSsd_segs (i : Nat) (segs : s.led.segs = []) : (resetSsd i s).led.segs = [] :=
  (congrArg Ledger.segs ((peEv_led ..).trans (peEv_led ..)) :).trans segs

/-- The ledger rests and no segment is on its way, over the SSD set of `s`. -/
def SsdsRest (s t : State) : Prop := LedgerRests t ∧ t.led.segs = [] ∧ t.cfg = s.cfg

/-- An SSD of a lost root port. -/
def resets (d : Ssd) : Prop := d.resetting = true ∧ d.ready = false

theorem nvmeTimeout_one {t : State} {i : Nat} (r : SsdsRest s t) (fresh : (ssdOf t i).resets = []) :
    SsdsRest s (nvmeTimeout i t) ∧ (∀ j, j ≠ i → ssdOf (nvmeTimeout i t) j = ssdOf t j) ∧
      (i ∈ ssdIndices s → (ssdOf t i).present = true → (ssdOf t i).failed = false → resets (ssdOf (nvmeTimeout i t) i)) := by
  obtain ⟨rest, segs, cfg⟩ := r
  by_cases acts : (ssdIndices t).contains i = true ∧ (ssdOf t i).present = true ∧ (ssdOf t i).failed = false
  · obtain ⟨member, present, sound⟩ := acts
    rw [nvmeTimeout_resets rest segs fresh member present sound]
    have kept := keeps_cfg (refreshPA_within (resetSsd i t)).same rfl
    refine ⟨⟨rests_of_kept (rests_resetSsd i rest) (by rw [refreshPA_led]) (refreshPA_quay _)
      (by rw [within_reins (refreshPA_within _) rfl]), ?_, kept.trans ?_⟩, fun j other => ?_, fun _ _ _ => ?_⟩
    · rw [refreshPA_led, resetSsd_segs i segs]
    · exact (keeps_cfg (peEv_within ..).same rfl).trans ((keeps_cfg (peEv_within ..).same rfl).trans cfg)
    · rw [ssdOf_of_led (refreshPA_led _), ssdOf_resetSsd_other other]
    · rw [ssdOf_of_led (refreshPA_led _), ssdOf_resetSsd]
      exact ⟨rfl, rfl⟩
  · have idle : nvmeTimeout i t = t := if_pos (by
      by_contra no
      simp only [Bool.or_eq_true, not_or, Bool.not_eq_true', Bool.not_eq_false, Bool.not_eq_true] at no
      exact acts ⟨no.1.1, no.1.2, no.2⟩)
    rw [idle]
    refine ⟨⟨rest, segs, cfg⟩, fun _ _ => rfl, fun member present sound => absurd ⟨?_, present, sound⟩ acts⟩
    rw [ssdIndices_of_kept cfg]
    simpa using member

theorem nvmeTimeouts (l : List Nat) : ∀ t : State, SsdsRest s t → l.Nodup → (∀ i ∈ l, (ssdOf t i).resets = []) →
    SsdsRest s (l.foldl (fun t i => nvmeTimeout i t) t) ∧
      (∀ j, j ∉ l → ssdOf (l.foldl (fun t i => nvmeTimeout i t) t) j = ssdOf t j) ∧
      ∀ i ∈ l, i ∈ ssdIndices s → (ssdOf t i).present = true → (ssdOf t i).failed = false →
        resets (ssdOf (l.foldl (fun t i => nvmeTimeout i t) t) i) := by
  induction l with
  | nil => exact fun t r _ _ => ⟨r, fun _ _ => rfl, fun _ m => absurd m List.not_mem_nil⟩
  | cons k l ih =>
    intro t r once fresh
    rw [List.nodup_cons] at once
    obtain ⟨r', others, here⟩ := nvmeTimeout_one r (fresh k List.mem_cons_self)
    have apart {i : Nat} (m : i ∈ l) : i ≠ k := fun e => once.1 (e ▸ m)
    obtain ⟨rest, others', there⟩ := ih (nvmeTimeout k t) r' once.2 fun i m => by
      rw [others i (apart m)]
      exact fresh i (List.mem_cons_of_mem k m)
    refine ⟨rest, fun j m => ?_, fun i m member present sound => ?_⟩
    · rw [List.mem_cons, not_or] at m
      exact (others' j m.2).trans (others j m.1)
    · by_cases later : i ∈ l
      · have same := others i (apart later)
        exact there i later member (by rw [same]; exact present) (by rw [same]; exact sound)
      · have at' : i = k := by simpa [later] using m
        subst at'
        rw [List.foldl_cons, others' i later]
        exact here member present sound

/-- The SSDs of a root port whose commands end as timeouts are reset, and the ledger rests still. -/
theorem portTimeouts_resets (d : Nat) (rest : LedgerRests s) (segs : s.led.segs = []) (fresh : ∀ i, (ssdOf s i).resets = [])
    (once : (ssdIndices s).Nodup) :
    settle (portTimeouts d s) = portTimeouts d s ∧ ∀ i ∈ ssdIndices s, peOf s i = d → (ssdOf s i).present = true →
      (ssdOf s i).failed = false → resets (ssdOf (portTimeouts d s) i) := by
  obtain ⟨⟨rests, -, -⟩, -, lost⟩ := nvmeTimeouts ((ssdIndices s).filter (fun i => peOf s i = d)) s ⟨rest, segs, rfl⟩ (once.filter _)
    fun i _ => fresh i
  exact ⟨settle_of_quiet rests.quiet, fun i member at' present sound => lost i (by simp [member, at']) member present sound⟩

theorem refclkLoss_pcie {d : Nat} (up : diesDark s = false) (there : d < numDies s) (rest : LedgerRests s) (segs : s.led.segs = [])
    (fresh : ∀ i, (ssdOf s i).resets = []) (once : (ssdIndices s).Nodup) :
    ∃ t, exec (.refclkLoss true d) s = .next t ∧ ∀ i ∈ ssdIndices s, peOf s i = d → (ssdOf s i).present = true →
      (ssdOf s i).failed = false → (ssdOf t i).resetting = true ∧ (ssdOf t i).ready = false := by
  have run : exec (.refclkLoss true d) s = .next (settle (portTimeouts d s)) := by
    show execRefclkLoss true d s = _
    unfold execRefclkLoss
    rw [if_neg (by simp [up, there]), if_pos rfl]
  obtain ⟨still, lost⟩ := portTimeouts_resets d rest segs fresh once
  rw [still] at run
  exact ⟨_, run, lost⟩

end

/-! ## Supplies (R415) -/

section
variable {s : State}

theorem startChan_of_fuse {t u : State} (fuse : t.fuse = u.fuse) (slots : BitVec 32) (bays : BitVec 16) (n : Nat) :
    startChan t slots bays n = startChan u slots bays n := by
  unfold startChan freshChan boardWord chExists
  rw [fuse]

theorem pch_startChans (slots : BitVec 32) (bays : BitVec 16) (n : Nat) (l : List Nat) : ∀ u : State,
    pch (l.foldl (fun t n => setPch n (startChan t slots bays n) t) u) n =
      if n ∈ l then startChan u slots bays n else pch u n := by
  induction l with
  | nil => exact fun u => rfl
  | cons k l ih =>
    intro u
    rw [List.foldl_cons, ih, startChan_of_fuse (setPch_fuse ..)]
    by_cases here : n = k
    · subst here
      simp
    · simp [here, pch_setPch_other here]

/-- The PPD before its channels leave reset. -/
def ppdFresh (s : State) : State := freshParams { s with ppd := { powered := true, oldFeed := 0xF } }

/-- The PPD's channels have left reset. -/
def chansStarted (slots : BitVec 32) (bays : BitVec 16) (s : State) : State :=
  (List.range 51).foldl (fun t n => setPch n (startChan t slots bays n) t) (ppdFresh s)

theorem pch_chansStarted (slots : BitVec 32) (bays : BitVec 16) {n : Nat} (small : n < 51) :
    pch (chansStarted slots bays s) n = startChan s slots bays n := by
  unfold chansStarted
  rw [pch_startChans, if_pos (List.mem_range.mpr small)]
  exact startChan_of_fuse rfl slots bays n

theorem startChans_powered (slots : BitVec 32) (bays : BitVec 16) (l : List Nat) : ∀ u : State,
    (l.foldl (fun t n => setPch n (startChan t slots bays n) t) u).ppd.powered = u.ppd.powered := by
  induction l with
  | nil => exact fun _ => rfl
  | cons k l ih =>
    intro u
    rw [List.foldl_cons, ih]
    rfl

theorem chansStarted_powered (slots : BitVec 32) (bays : BitVec 16) (s : State) : (chansStarted slots bays s).ppd.powered = true := by
  unfold chansStarted
  rw [startChans_powered]
  rfl

/-- The PPD's outputs are at their reset levels. -/
def outputsReset (s : State) : State := { s with ppd.cEff := BitVec.ofNat 32 (ppdParam s 11), pin.pwrwarn := 0, pin.perst := 0xFFFF }

theorem pch_outputsReset (s : State) (n : Nat) : pch (outputsReset s) n = pch s n := rfl
theorem outputsReset_powered (s : State) : (outputsReset s).ppd.powered = s.ppd.powered := rfl
theorem outputsReset_perst (s : State) : (outputsReset s).pin.perst = 0xFFFF := rfl

theorem ppdOutputs_powered (s : State) : (ppdOutputs s).ppd.powered = s.ppd.powered :=
  (congrArg Ppd.powered (ppdRest_ppdOutputs s) :)

theorem ppdOutputs_perst (s : State) : (ppdOutputs s).pin.perst = s.pin.perst := by
  unfold ppdOutputs
  rw [keeps_pin (refreshPA_within _).same rfl]
  dsimp only
  split <;> rfl

/-- A channel of the -F variant when the PPD leaves reset with a blank board OTP. -/
theorem startChan_blank {n : Nat} (slots : BitVec 32) (bays : BitVec 16) (blank : s.fuse.boardProg = false)
    (full : s.fuse.variantH = false) (small : n < 51) : startChan s slots bays n =
      if isFeed n then { st := .debounce, cfg := cfgDefault n, lim := limDefault n }
      else if n = 2 then { cfg := cfgDefault n, lim := limDefault n }
      else { st := if (if isSlot n then slots.getLsbD (n - 3) else bays.getLsbD (n - 35)) then .off else .absent,
             present := if isSlot n then slots.getLsbD (n - 3) else bays.getLsbD (n - 35),
             cfg := cfgDefault n, lim := limDefault n } := by
  have there : chExists s n = true := by simp [chExists, full, small]
  unfold startChan freshChan
  simp [there, blank]

theorem ppdPowerOn_starts (slots : BitVec 32) (bays : BitVec 16) (off : s.ppd.powered = false) (blank : s.fuse.boardProg = false)
    (full : s.fuse.variantH = false) :
    ∃ t, exec (.ppdPowerOn slots bays) s = .next t ∧ t.ppd.powered = true ∧ t.pin.perst = 0xFFFF ∧
      (∀ f, f < 2 → pch t f = { st := .debounce, cfg := cfgDefault f, lim := limDefault f }) ∧ (pch t 2).st = .off ∧
      (∀ n, 3 ≤ n → n < 51 → pch t n =
        { st := if (if isSlot n then slots.getLsbD (n - 3) else bays.getLsbD (n - 35)) then .off else .absent,
          present := if isSlot n then slots.getLsbD (n - 3) else bays.getLsbD (n - 35), cfg := cfgDefault n, lim := limDefault n }) := by
  have run : exec (.ppdPowerOn slots bays) s = .next (ppdOutputs (outputsReset (chansStarted slots bays s))) := if_neg (by simp [off])
  have chan {n : Nat} (small : n < 51) (notHold : n ≠ 2) :
      pch (ppdOutputs (outputsReset (chansStarted slots bays s))) n = startChan s slots bays n := by
    rw [pch_ppdOutputs_other notHold, pch_outputsReset, pch_chansStarted slots bays small]
  refine ⟨_, run, ?_, ?_, fun f low => ?_, ?_, fun n low high => ?_⟩
  · rw [ppdOutputs_powered, outputsReset_powered, chansStarted_powered]
  · rw [ppdOutputs_perst, outputsReset_perst]
  · rw [chan (by omega) (by omega), startChan_blank slots bays blank full (by omega), if_pos (by simp [isFeed, low])]
  · rw [st_ppdOutputs, pch_outputsReset, pch_chansStarted slots bays (by decide), startChan_blank slots bays blank full (by decide),
      if_neg (by decide), if_pos rfl]
  · rw [chan high (by omega), startChan_blank slots bays blank full high, if_neg (by simp [isFeed]; omega), if_neg (by omega)]

/-- Without the AON supply only fuses, the SPI NOR and the SSDs keep what they hold. -/
theorem aonSupplyLoss_keeps (s : State) : ∃ t, exec .aonSupplyLoss s = .next t ∧ t.fuse = s.fuse ∧
    t.nor = { s.nor with triedOther := false } ∧ t.led.flash = s.led.flash ∧ t.led.manifest = s.led.manifest ∧
    t.led.logbook = s.led.logbook ∧ t.aon = State.reset.aon ∧ t.dram = State.reset.dram ∧ t.ppd = State.reset.ppd ∧
    t.time = State.reset.time ∧ t.port = [] :=
  ⟨_, rfl, rfl, rfl, rfl, rfl, rfl, rfl, rfl, rfl, rfl, rfl⟩

end

/-- Settles O36: each event of the sensors, the clocks and the supplies by its lemma. -/
theorem heatClocksAndSupplies : Obligations.HeatClocksAndSupplies := by
  unfold Obligations.HeatClocksAndSupplies
  refine ⟨?_, ?_, ?_, ?_, ?_, ?_, ?_, ?_, ?_, ?_, ?_⟩
  · exact fun s i temp there hot first room => dieHot_logs there hot first room
  · exact fun s i temp gone => noSensor gone
  · exact fun s i temp there cool => dieHot_reads there cool
  · exact fun s i temp there trips first => thermtrip_resets there trips first
  · exact fun s temp cool tripped => thermtripRecovery_recovers cool tripped
  · exact fun s runs => xtalFail_slow runs
  · exact fun s runs on => xtalFail_fast runs on
  · exact fun s d up there quiet down => refclkLoss_afl up there quiet down
  · exact fun s d up there rest segs fresh once => refclkLoss_pcie up there rest segs fresh once
  · exact fun s slots bays off blank full => ppdPowerOn_starts slots bays off blank full
  · exact aonSupplyLoss_keeps

end Sys2Proof.Laws
end

section
/-! PROOFS. OTP operations and the version floors (R416, R471). -/

namespace Sys2Proof.Laws

open Sys2Proof Sys2Proof.Machine

/-- A map that takes a list of words holds the value that every word of a key carries. -/
theorem sget_foldl_words {α : Type} [DecidableEq α] {d v : α} {k : Nat} {l : List (Nat × α)} (one : ∀ e ∈ l, e.1 = k → e.2 = v) :
    ∀ m : SMap α, (sget d m k = v ∨ ∃ e ∈ l, e.1 = k) → sget d (l.foldl (fun m e => sset d m e.1 e.2) m) k = v := by
  induction l with
  | nil => exact fun m h => h.resolve_right (by simp)
  | cons e l ih =>
    intro m h
    refine ih (fun x mem => one x (List.mem_cons_of_mem e mem)) _ ?_
    by_cases here : e.1 = k
    · left
      show sget d (sset d m e.1 e.2) k = v
      rw [here, one e List.mem_cons_self here]
      exact sget_sset_same d m k v
    · rcases h with held | ⟨x, mem, at'⟩
      · left
        exact (sget_sset_other _ _ _ (Ne.symm here)).trans held
      · right
        rcases List.mem_cons.mp mem with rfl | later
        · exact absurd at' here
        · exact ⟨x, later, at'⟩

section
variable {s : State}

/-! ## Requests (R471) -/

theorem otpRow_i3c (free : s.aon.otpBusy = false) (op slot : Nat) : otpRow 0 0xA5 op slot s =
    .next (busyStatus (regDone 0 (aonCpx 0) (otpReq 0 0xA5 op slot s).1 (otpReq 0 0xA5 op slot s).2)) :=
  if_neg (by simp [pathOk, free])

/-- An operation that nothing refuses starts. -/
theorem otpRow_starts (free : s.aon.otpBusy = false) {op slot : Nat} (some' : 0 < op) (few : op ≤ 3)
    (may : otpRefusal s op slot = 0) : otpRow 0 0xA5 op slot s = .next (otpStarted op slot s) := by
  have starts : otpReq 0 0xA5 op slot s = (true, { s with
      aon.otpResult := 0, aon.otpBusy := true, aon.otpOp := BitVec.ofNat 4 op, aon.otpSlot := BitVec.ofNat 2 slot }) := by
    unfold otpReq
    rw [if_neg (by simp; omega), may]
    rfl
  rw [otpRow_i3c free, starts]
  rfl

theorem programOwner_free {k : Nat} (mode : s.aon.mode = .maintenance) (unused : (sget {} s.fuse.ownerSlot k).programmed = false) :
    otpRefusal s 1 k = 0 := by
  show (if s.aon.mode ≠ .maintenance then 2 else if (sget {} s.fuse.ownerSlot k).programmed then 3 else 0 : BitVec 4) = 0
  rw [if_neg (by simp [mode]), if_neg (by rw [unused]; decide)]

theorem programOwner_refused (slot : Nat) (free : s.aon.otpBusy = false) (mode : s.aon.mode ≠ .maintenance) :
    ∃ t, exec (.programOwner 0 0xA5 slot) s = .next t ∧ t.aon.otpResult = 2 ∧ t.fuse = s.fuse ∧ t.aon.otpBusy = false := by
  have refused : otpReq 0 0xA5 1 slot s = (true, { s with aon.otpResult := 2 }) := by
    simp [otpReq, otpRefusal, mode]
  have run : exec (.programOwner 0 0xA5 slot) s = .next (busyStatus (regDone 0 (aonCpx 0) true { s with aon.otpResult := 2 })) :=
    (otpRow_i3c free 1 slot).trans (by rw [refused])
  have idle : busyStatus (regDone 0 (aonCpx 0) true { s with aon.otpResult := 2 }) = i3cDone 0 [] { s with aon.otpResult := 2 } :=
    if_neg (by simp [regDone, aonCpx, free])
  rw [idle] at run
  exact ⟨_, run, rfl, rfl, free⟩

/-! ## What is programmed -/

/-- The status that an operation leaves. -/
def otpDone (ok : Bool) (s : State) : State :=
  { s with aon := { s.aon with otpBusy := false, otpResult := if ok then 1 else 4, i3cStatus := 0 } }

theorem exec_otpProgramDone (busy : s.aon.otpBusy = true) (ok : Bool) :
    exec (.otpProgramDone ok) s = .next (otpDone ok (otpWrite ok s)) := if_neg (by simp [busy])

/-- An owner slot holds `v`. -/
def slotSet (k : Nat) (v : KeySlot) (s : State) : State := { s with fuse.ownerSlot := sset {} s.fuse.ownerSlot k v }

theorem slotSet_same (ok : Bool) (k : Nat) (v : KeySlot) (s : State) : sget {} (otpDone ok (slotSet k v s)).fuse.ownerSlot k = v :=
  sget_sset_same {} s.fuse.ownerSlot k v

theorem otpWrite_owner (op : s.aon.otpOp = 1) : otpWrite true s =
    slotSet s.aon.otpSlot.toNat { programmed := true, ecdsa := stagingBits s 0 12, hss := stagingBits s 12 12 } s := by
  unfold otpWrite
  rw [op]
  rfl

theorem otpWrite_revoke (op : s.aon.otpOp = 2) : otpWrite true s =
    slotSet s.aon.otpSlot.toNat { sget {} s.fuse.ownerSlot s.aon.otpSlot.toNat with revoked := true } s := by
  unfold otpWrite
  rw [op]
  rfl

theorem otpWrite_board (op : s.aon.otpOp = 3) : otpWrite true s =
    { s with fuse.boardProg := true, fuse.board := (boardWords s).foldl (fun m e => sset 0 m e.1 e.2) [] } := by
  unfold otpWrite
  rw [op]
  rfl

/-- The words of a channel stand at its place of the board OTP. -/
theorem mem_boardWords {e : Nat × BitVec 32} : e ∈ boardWords s ↔
    (∃ n, n < 51 ∧ (e = (32 * n, (pch s n).cfg) ∨ e = (32 * n + 4, (pch s n).lim) ∨ e = (32 * n + 12, sget 0 s.aon.staging n))) ∨
      ∃ k, k < 15 ∧ (0x800 + 4 * k, BitVec.ofNat 32 (ppdParam s k)) = e := by
  simp only [boardWords, List.mem_append, List.mem_flatMap, List.mem_range, List.mem_map, List.mem_cons, List.not_mem_nil, or_false]

/-- What the board OTP takes for a word of a channel. -/
def boardValue (s : State) (k : Nat) : BitVec 32 :=
  if k % 32 = 0 then (pch s (k / 32)).cfg else if k % 32 = 4 then (pch s (k / 32)).lim else sget 0 s.aon.staging (k / 32)

theorem boardWords_value {e : Nat × BitVec 32} (mem : e ∈ boardWords s) (low : e.1 < 0x800) : e.2 = boardValue s e.1 := by
  rcases mem_boardWords.mp mem with ⟨m, -, rfl | rfl | rfl⟩ | ⟨k, -, rfl⟩
  · simp [boardValue]
  · simp [boardValue, show (32 * m + 4) / 32 = m by omega, show (32 * m + 4) % 32 = 4 by omega]
  · simp [boardValue, show (32 * m + 12) / 32 = m by omega, show (32 * m + 12) % 32 = 12 by omega]
  · dsimp only at low
    omega

theorem sget_board {e : Nat × BitVec 32} (mem : e ∈ boardWords s) (low : e.1 < 0x800) :
    sget 0 ((boardWords s).foldl (fun m e => sset 0 m e.1 e.2) []) e.1 = e.2 :=
  sget_foldl_words (fun x there same => by
    rw [boardWords_value there (same ▸ low), same, ← boardWords_value mem low]) _ (.inr ⟨e, mem, rfl⟩)

theorem board_words {n : Nat} (small : n < 51) :
    let board := (boardWords s).foldl (fun m e => sset 0 m e.1 e.2) ([] : SMap (BitVec 32))
    sget 0 board (32 * n) = (pch s n).cfg ∧ sget 0 board (32 * n + 4) = (pch s n).lim ∧
      sget 0 board (32 * n + 12) = sget 0 s.aon.staging n :=
  ⟨sget_board (e := (32 * n, _)) (mem_boardWords.mpr (.inl ⟨n, small, .inl rfl⟩)) (by dsimp only; omega),
    sget_board (e := (32 * n + 4, _)) (mem_boardWords.mpr (.inl ⟨n, small, .inr (.inl rfl)⟩)) (by dsimp only; omega),
    sget_board (e := (32 * n + 12, _)) (mem_boardWords.mpr (.inl ⟨n, small, .inr (.inr rfl)⟩)) (by dsimp only; omega)⟩

/-! ## The version floors (R471) -/

theorem svnRow_commits (free : s.aon.otpBusy = false) (mode : s.aon.mode = .service ∨ s.aon.mode = .maintenance) (fw hz : Bool) :
    svnRow 0 0xA5 fw hz s = .next (i3cDone 0 [] { s with
      fuse.svnFw := if fw then max s.fuse.svnFw (min 64 s.aon.fwSvn.toNat) else s.fuse.svnFw,
      fuse.svnHarness := if hz then max s.fuse.svnHarness (min 64 s.aon.hzSvn.toNat) else s.fuse.svnHarness }) := by
  unfold svnRow svnReq
  rcases mode with e | e <;> simp [pathOk, free, e, regDone, i3cDone]

end

/-- Settles O49: an operation that nothing refuses starts, and programming writes what it is given. -/
theorem fusesAreProgrammed : Obligations.FusesAreProgrammed := by
  unfold Obligations.FusesAreProgrammed
  refine ⟨fun s k free few => ⟨fun mode unused => ?_, fun mode other => ?_, fun mode blank => ?_, programOwner_refused k free⟩,
    fun s busy => ⟨fun op => ?_, fun op => ?_, fun op => ?_, ?_⟩,
    fun s free mode => ⟨svnRow_commits free mode true false, svnRow_commits free mode false true⟩⟩
  · exact otpRow_starts (op := 1) free (by decide) (by decide) (programOwner_free mode unused)
  · exact otpRow_starts (op := 2) free (by decide) (by decide) (by simp [otpRefusal, mode, other])
  · exact otpRow_starts (op := 3) free (by decide) (by decide) (by simp [otpRefusal, mode, blank])
  · refine ⟨_, exec_otpProgramDone busy true, ?_⟩
    rw [otpWrite_owner op]
    exact ⟨rfl, rfl, slotSet_same .., rfl⟩
  · refine ⟨_, exec_otpProgramDone busy true, ?_⟩
    rw [otpWrite_revoke op]
    exact ⟨rfl, rfl, slotSet_same ..⟩
  · refine ⟨_, exec_otpProgramDone busy true, ?_⟩
    rw [otpWrite_board op]
    exact ⟨rfl, rfl, rfl, fun n small => board_words small⟩
  · exact ⟨_, exec_otpProgramDone busy false, rfl, rfl⟩

end Sys2Proof.Laws
end

section
/-! PROOFS. AON_RESET_CTL and the DISABLE bit of a port (R471, R474, Table 17.8). -/

namespace Sys2Proof.Laws

open Sys2Proof Sys2Proof.Machine

section
variable {s : State}

/-! ## Rows of AON_RESET_CTL -/

theorem resetRow_i3c (free : s.aon.otpBusy = false) (key : BitVec 8) (scope i : Nat) (force : Bool) :
    resetRow 0 key scope i force s =
      .next (i3cDone (if (resetReq 0 key scope i force s).1 then 0 else 1) [] (resetReq 0 key scope i force s).2) := by
  unfold resetRow
  rw [if_neg (by simp [pathOk, free])]
  exact congrArg _ (regDone_i3c ..)

theorem resetRow_done (free : s.aon.otpBusy = false) {key : BitVec 8} {scope i : Nat} {force ok : Bool} {t : State}
    (req : resetReq 0 key scope i force s = (ok, t)) : resetRow 0 key scope i force s = .next (i3cDone (if ok then 0 else 1) [] t) := by
  rw [resetRow_i3c free, req]

/-- Without the key there is no request. -/
theorem resetReq_keyless {key : BitVec 8} (wrong : key ≠ 0xA5) (scope i : Nat) (force : Bool) :
    resetReq 0 key scope i force s = (false, s) := if_pos (by simpa using wrong)

/-! ## A device-scope reset -/

theorem changeMode_ceCfg (code : BitVec 8) (m : Mode) (s : State) : (changeMode code m s).aon.ceCfg = s.aon.ceCfg := by
  obtain ⟨_, _, _, _, _, e⟩ := changeMode_aon code m s
  rw [e]

theorem ppdOutputs_ceCfg (s : State) : (ppdOutputs s).aon.ceCfg = s.aon.ceCfg := by
  unfold ppdOutputs
  dsimp only
  obtain ⟨_, _, e⟩ := refreshPA_aon _
  rw [e]
  split <;> rfl

/-- What no step of a walk changes, the walk leaves. -/
theorem foldl_keeps {α β γ : Type} {f : β → α → β} (g : β → γ) (kept : ∀ u k, g (f u k) = g u) (l : List α) :
    ∀ u, g (l.foldl f u) = g u := by
  induction l with
  | nil => exact fun _ => rfl
  | cons k l ih => exact fun u => (ih _).trans (kept u k)

theorem ppdRegs_ceCfg (s : State) : (ppdRegs s).aon.ceCfg = s.aon.ceCfg := by
  unfold ppdRegs
  split
  · rfl
  · dsimp only
    rw [ppdOutputs_ceCfg]
    exact foldl_keeps (fun t : State => t.aon.ceCfg) (fun _ _ => rfl) (List.range 51) (freshParams s)

theorem toStall_ceCfg (code : BitVec 8) (s : State) : (toStall code s).aon.ceCfg = s.aon.ceCfg := by
  unfold toStall
  dsimp only
  rw [changeMode_ceCfg]
  rfl

theorem stalled_ceCfg (s : State) : (stalled s).aon.ceCfg = s.aon.ceCfg := by
  unfold stalled
  rw [toStall_ceCfg, ppdRegs_ceCfg]

/-- AON_CE_CFG is an RWS register: a cold reset alone restores it (R17). -/
theorem deviceReset_ceCfg (s : State) :
    (deviceReset true s).aon.ceCfg = 0x84018080 ∧ (deviceReset false s).aon.ceCfg = s.aon.ceCfg := by
  rw [deviceReset_eq, deviceReset_eq, driveAlert_aon, driveAlert_aon]
  exact ⟨rfl, stalled_ceCfg s⟩

theorem resetDevice_aon (cold : Bool) (s : State) : Entered (resetDevice cold s) s.aon.mode .stall 0x01 ∧
    (resetDevice cold s).aon.restart = true ∧ (resetDevice cold s).dram.mem = [] ∧
      (resetDevice cold s).aon.ceCfg = (deviceReset cold s).aon.ceCfg := by
  have entered := deviceReset_entered cold s
  have mem := deviceReset_mem cold s
  unfold resetDevice
  dsimp only
  split
  · exact ⟨entered, rfl, mem, rfl⟩
  · exact ⟨entered, rfl, mem, rfl⟩

/-- A device reset is a request that needs FORCE in an operating mode. -/
theorem resetReq_device {force : Bool} (may : needsForce s.aon.mode = false ∨ force = true) (i : Nat) :
    resetReq 0 0xA5 1 i force s = (true, resetDevice true s) ∧ resetReq 0 0xA5 2 i force s = (true, resetDevice false s) := by
  have open' : ¬ (needsForce s.aon.mode && !force) = true := by rcases may with e | e <;> simp [e]
  exact ⟨if_neg open', if_neg open'⟩

theorem device_resets (free : s.aon.otpBusy = false) {force : Bool} (may : needsForce s.aon.mode = false ∨ force = true) (i : Nat) :
    (∃ t, exec (.deviceCold 0 0xA5 force i) s = .next t ∧ Entered t s.aon.mode .stall 0x01 ∧ t.aon.restart = true ∧
      t.dram.mem = [] ∧ t.aon.ceCfg = 0x84018080 ∧ t.aon.i3cStatus = 0) ∧
    (∃ t, exec (.deviceWarm 0 0xA5 force i) s = .next t ∧ Entered t s.aon.mode .stall 0x01 ∧ t.aon.restart = true ∧
      t.dram.mem = [] ∧ t.aon.ceCfg = s.aon.ceCfg ∧ t.aon.i3cStatus = 0) := by
  obtain ⟨cold, warm⟩ := resetReq_device may i
  obtain ⟨entered, restart, mem, ceCfg⟩ := resetDevice_aon true s
  obtain ⟨entered', restart', mem', ceCfg'⟩ := resetDevice_aon false s
  exact ⟨⟨_, resetRow_done free cold, entered, restart, mem, ceCfg.trans (deviceReset_ceCfg s).1, rfl⟩,
    ⟨_, resetRow_done free warm, entered', restart', mem', ceCfg'.trans (deviceReset_ceCfg s).2, rfl⟩⟩

theorem device_unforced (free : s.aon.otpBusy = false) (needs : needsForce s.aon.mode = true) (i : Nat) :
    exec (.deviceCold 0 0xA5 false i) s = .next (i3cDone 1 [] s) ∧ exec (.deviceWarm 0 0xA5 false i) s = .next (i3cDone 1 [] s) := by
  have closed : (needsForce s.aon.mode && !false) = true := by simp [needs]
  have cold : resetReq 0 0xA5 1 i false s = (false, s) := if_pos closed
  have warm : resetReq 0 0xA5 2 i false s = (false, s) := if_pos closed
  exact ⟨resetRow_done free cold, resetRow_done free warm⟩

theorem reset_keyless (free : s.aon.otpBusy = false) {key : BitVec 8} (wrong : key ≠ 0xA5) (force : Bool) (i : Nat) :
    ∀ c ∈ ([.deviceCold, .deviceWarm, .afl, .pe, .bay, .mgt] : List (Nat → BitVec 8 → Bool → Nat → Instr)),
      exec (c 0 key force i) s = .next (i3cDone 1 [] s) := by
  have row (scope : Nat) : resetRow 0 key scope i force s = .next (i3cDone 1 [] s) :=
    resetRow_done (ok := false) free (resetReq_keyless wrong scope i force)
  intro c mem
  simp only [List.mem_cons, List.not_mem_nil, or_false] at mem
  rcases mem with rfl | rfl | rfl | rfl | rfl | rfl
  · exact row 1
  · exact row 2
  · exact row 3
  · exact row 4
  · exact row 5
  · exact row 6

/-! ## The other scopes -/

theorem othersKept_i3cDone {p : Nat} {t : State} {st : BitVec 8} {l : List Byte} (h : OtherPortsKept p s t) :
    OtherPortsKept p s (i3cDone st l t) := h

section
variable {i : Nat} {force : Bool} (free : s.aon.otpBusy = false) (up : diesDark s = false)
include free up

theorem afl_detects (there : i < numPorts s) (down : portUp s i = false) (noEq : (portOf s i).st ≠ .eq) :
    ∃ t, exec (.afl 0 0xA5 force i) s = .next t ∧ (portOf t i).st = (if (portOf s i).st = .off then .off else .detect) ∧
      t.aon.i3cStatus = 0 ∧ OtherPortsKept i s t := by
  have req : resetReq 0 0xA5 3 i force s = (true, if (portOf s i).st = .off then s else backToDetect i s) := by
    unfold resetReq
    by_cases off : (portOf s i).st = .off <;> simp [show ¬ numPorts s ≤ i by omega, up, down, noEq, off]
  refine ⟨_, resetRow_done free req, ?_, rfl, ?_⟩
  · by_cases off : (portOf s i).st = .off
    · rw [if_pos off, if_pos off]
      exact off
    · rw [if_neg off, if_neg off]
      exact (congrArg Port.st (portOf_modPort ..) : (portOf (backToDetect i s) i).st = _)
  · refine othersKept_i3cDone ?_
    split
    · exact othersKept_of_port i rfl
    · exact othersKept_modPort i _ s

theorem afl_drops (there : i < numPorts s) (runs : portUp s i = true) (d : direct s = true) :
    ∃ t, exec (.afl 0 0xA5 force i) s = .next t ∧ (portOf t i).st = .detect ∧ (portOf t i).held = true ∧ t.aon.i3cStatus = 0 ∧
      OtherPortsKept i s t := by
  have req : resetReq 0 0xA5 3 i force s = (true, linkLost i 5 s) := by
    unfold resetReq
    simp [show ¬ numPorts s ≤ i by omega, up, runs]
  obtain ⟨now, lost⟩ := linkLost_of_direct i 5 d
  rw [lost] at req
  have own : portOf (modPort i (heldPort now) (logDown i 5 s)) i = heldPort now (portOf s i) := by rw [portOf_modPort, portOf_logDown]
  refine ⟨_, resetRow_done free req, ?_, ?_, rfl, othersKept_i3cDone
    (othersKept_trans (othersKept_of_port i (within_port (logDown_within ..) rfl)) (othersKept_modPort _ _ _))⟩
  · exact congrArg Port.st own
  · exact congrArg Port.held own

theorem pe_resets (there : i < numDies s) (rest : LedgerRests s) (segs : s.led.segs = []) (fresh : ∀ k, (ssdOf s k).resets = [])
    (once : (ssdIndices s).Nodup) :
    ∃ t, exec (.pe 0 0xA5 force i) s = .next t ∧ t.aon.i3cStatus = 0 ∧
      ∀ k ∈ ssdIndices s, peOf s k = i → (ssdOf s k).present = true → (ssdOf s k).failed = false →
        (ssdOf t k).resetting = true ∧ (ssdOf t k).ready = false := by
  obtain ⟨still, lost⟩ := portTimeouts_resets i rest segs fresh once
  have req : resetReq 0 0xA5 4 i force s = (true, portTimeouts i s) := by
    unfold resetReq
    simp [show ¬ numDies s ≤ i by omega, up, still]
  exact ⟨_, resetRow_done free req, rfl, lost⟩

theorem mgt_runs (there : i < numDies s) (may : s.aon.mode = .maintenance ∨ force = true) :
    exec (.mgt 0 0xA5 force i) s = .next (i3cDone 0 [] { s with mgt.fwRuns := sset false s.mgt.fwRuns i true }) := by
  have req : resetReq 0 0xA5 6 i force s = (true, { s with mgt.fwRuns := sset false s.mgt.fwRuns i true }) := by
    unfold resetReq
    rcases may with e | e <;> simp [show ¬ numDies s ≤ i by omega, up, e]
  exact resetRow_done free req

end

/-- The SSDs of a bay whose rail goes down are not ready. -/
theorem bayDark_ready (bay k : Nat) (s : State) (member : k ∈ ssdsOfBay s bay) : (ssdOf (bayDark bay s) k).ready = false := by
  have walk (l : List Nat) : ∀ u : State, (k ∈ l ∨ (ssdOf u k).ready = false) →
      (ssdOf (l.foldl (fun t i => modSsd i (fun d => { d with ready := false, queues := false }) t) u) k).ready = false := by
    induction l with
    | nil => exact fun u h => h.resolve_left List.not_mem_nil
    | cons j l ih =>
      intro u h
      refine ih _ ?_
      by_cases here : k = j
      · subst here
        exact .inr (congrArg Ssd.ready (ssdOf_modSsd ..))
      · refine h.imp (fun m => ?_) fun r => (congrArg Ssd.ready (ssdOf_modSsd_other here ..)).trans r
        exact (List.mem_cons.mp m).resolve_left here
  exact walk _ s (.inl member)

theorem bayReset_perst {b : Nat} (low : b < 16) (s : State) : (bayReset (b + 35) s).pin.perst.getLsbD b = true := by
  unfold bayReset
  rw [if_pos (by simp [isBay]; omega), keeps_pin (bayDark_within ..).same rfl, Nat.add_sub_cancel]
  exact getLsbD_set_bit low

theorem bay_asserts {i : Nat} {force : Bool} (free : s.aon.otpBusy = false) (there : i < numBays s)
    (may : ledgerBay s (i + 35) = false ∨ s.aon.mode = .maintenance) (quiet : Quiet s) :
    ∃ t, exec (.bay 0 0xA5 force i) s = .next t ∧ t.pin.perst.getLsbD i = true ∧ t.aon.i3cStatus = 0 ∧
      (∀ k ∈ ssdsOfBay s i, (ssdOf t k).ready = false) := by
  have low : i < 16 := by
    unfold numBays at there
    split at there <;> omega
  have bay : isBay (i + 35) = true := by simp [isBay]; omega
  have calm : Quiet (refreshPA (bayReset (i + 35) s)) :=
    quiet_refreshPA (quiet_of_kept quiet (keeps_quay (bayReset_within ..).same rfl)
      (congrArg Reins.waiters (keeps_reins (bayReset_within (i + 35) s).same rfl)))
  have req : resetReq 0 0xA5 5 i force s = (true, refreshPA (bayReset (i + 35) s)) := by
    unfold resetReq
    rcases may with e | e <;> simp [show ¬ numBays s ≤ i by omega, e, settle_of_quiet calm]
  refine ⟨_, resetRow_done free req, ?_, rfl, fun k member => ?_⟩
  · show (refreshPA (bayReset (i + 35) s)).pin.perst.getLsbD i = true
    rw [keeps_pin (refreshPA_within _).same rfl]
    exact bayReset_perst low s
  · show (ssdOf (refreshPA (bayReset (i + 35) s)) k).ready = false
    rw [ssdOf_of_led (refreshPA_led _), bayReset, if_pos bay, Nat.add_sub_cancel]
    exact bayDark_ready i k _ member

/-! ## Accesses over I3C (R462, R467) -/

theorem regDone_ok (cpx : Option Nat) (s : State) : regDone 0 cpx true s = i3cDone 0 [] s := by
  cases cpx <;> rfl

theorem busyStatus_idle {t : State} (idle : t.aon.otpBusy = false) : busyStatus t = t := if_neg (by simp [idle])

section
variable {t : State} {off : Nat} {wide : Bool} {be : BitVec 8} {data : BitVec 64} (free : s.aon.otpBusy = false)
  (idle : t.aon.otpBusy = false)
include free idle

/-- A write that its register takes. -/
theorem accessRow_writes (done : access 0 (nodeId s) off wide true be data s = ({ ok := true }, t)) :
    accessRow 0 off wide true be data s = i3cDone 0 [] t := by
  unfold accessRow
  rw [if_neg (by simp [pathOk, free]), show pathNode s 0 = nodeId s from rfl, done]
  dsimp only
  rw [regDone_ok]
  exact busyStatus_idle idle

/-- A read that is answered leaves its data to be read. -/
theorem accessRow_reads {x : BitVec 64} (done : access 0 (nodeId s) off wide false be data s = ({ ok := true, data := x }, t)) :
    accessRow 0 off wide false be data s = i3cDone 0 (bytesOf x (if wide then 8 else 4)) t := by
  unfold accessRow
  rw [if_neg (by simp [pathOk, free]), show pathNode s 0 = nodeId s from rfl, done]
  dsimp only
  rw [regDone_ok]
  exact busyStatus_idle idle

end

/-! ## The DISABLE bit (R474) -/

section
variable {p : Nat}

theorem blkOf_aflCtl (small : p < 4) : blkOf (0x300004 + 0x10000 * p) = (.afl, p, 4) := by
  unfold blkOf
  rw [if_neg (by omega), if_neg (by simp; omega), if_neg (by simp; omega), if_pos (by simp; omega)]
  congr 2 <;> omega

/-- A wake can change the core supply alone of AON. -/
theorem wakeGroup_aon (g : Nat) (s : State) : ∃ v, (wakeGroup g s).aon = { s.aon with vddMv := v } := by
  unfold wakeGroup
  exact (coreSupply_aon _).imp fun v e => e.trans
    (congrArg (fun a : Aon => { a with vddMv := v }) (foldl_keeps State.aon (by intros; rfl) _ _))

theorem wakeBlk_aon (b : Blk) (i : Nat) (s : State) : ∃ v, (wakeBlk b i s).aon = { s.aon with vddMv := v } := by
  have same : ∃ v, s.aon = { s.aon with vddMv := v } := ⟨_, rfl⟩
  unfold wakeBlk
  split
  · split
    · exact wakeGroup_aon ..
    · exact same
    · exact same
  · exact same

theorem regRead_aflCtl (small : p < 4) (path : Nat) (s : State) :
    regRead s path (0x300004 + 0x10000 * p) = some ((bit1 (portOf s p).disable).setWidth 32) := by
  unfold regRead
  rw [blkOf_aflCtl small]
  rfl

theorem regWrite_aflCtl (small : p < 4) (path : Nat) (node : Node) (v m : BitVec 32) (s : State) :
    regWrite path node (0x300004 + 0x10000 * p) v m s = (true, portDisable p (v.getLsbD 0) s) := by
  unfold regWrite
  rw [blkOf_aflCtl small]
  rfl

theorem stepIdx_aflCtl (small : p < 4) (path : Nat) (s : State) : stepIdx path (0x300004 + 0x10000 * p) s = s := by
  unfold stepIdx isData idxSpace
  rw [blkOf_aflCtl small]
  rfl

/-- The write of AFLn_CTL over I3C. -/
theorem access_aflCtl (there : p < numPorts s) (up : diesDark s = false) (node : Node) (d : Bool) :
    access 0 node (0x300004 + 0x10000 * p) false true 0xF (if d then 1 else 0) s =
      ({ ok := true }, portDisable p d (wakeBlk .afl p s)) := by
  have small : p < 4 := by
    unfold numPorts at there
    split at there <;> omega
  have good : accessBad s (0x300004 + 0x10000 * p) false 0xF = false := by
    unfold accessBad
    rw [blkOf_aflCtl small]
    simp [blkPresent, there, up]
    omega
  have bit (old : BitVec 32) : (old &&& ~~~byteMask 32 0xF ||| (if d then 1 else 0 : BitVec 64).extractLsb' 0 32 &&& byteMask 32 0xF).getLsbD 0
      = d := by
    rw [byteMask_word, BitVec.not_allOnes, BitVec.and_zero, BitVec.zero_or, BitVec.and_allOnes]
    cases d <;> decide
  unfold access
  rw [if_neg (by rw [good]; decide), blkOf_aflCtl small]
  dsimp only
  rw [if_neg (by decide), accessWord_writes (regRead_aflCtl small 0 _) (regWrite_aflCtl small ..), bit, stepIdx_aflCtl small]

/-- The row of DISABLE and DISABLE_CLEAR. -/
theorem disableRow_done (free : s.aon.otpBusy = false) (there : p < numPorts s) (up : diesDark s = false) (d : Bool)
    (idle : (portDisable p d (wakeBlk .afl p s)).aon.otpBusy = false) :
    disableRow 0 p d s = .next (i3cDone 0 [] (portDisable p d (wakeBlk .afl p s))) :=
  congrArg _ (accessRow_writes free idle (access_aflCtl there up (nodeId s) d))

/-- DISABLE = 1 ends the session and holds the port OFF. -/
theorem portDisable_sets {u : State} (d : direct u = true) (runs : (portOf u p).disable = false) :
    (portOf (portDisable p true u) p).disable = true ∧ (portOf (portDisable p true u) p).st = .off ∧
      (portDisable p true u).aon = u.aon := by
  have sent := sendLinkOff_within p 1 u
  obtain ⟨f, w, ends, off, logged⟩ := endSession_of_direct p
    ((direct_of_kept (keeps_cfg sent.same rfl) (keeps_fuse sent.same rfl)).trans d)
  have shape : portDisable p true u = modPort p (fun q => { q with disable := true }) (modPort p f w) := by
    unfold portDisable
    dsimp only
    rw [runs, if_neg (by decide), if_pos rfl, ends]
  rw [shape, portOf_modPort, portOf_modPort]
  exact ⟨rfl, off _, (keeps_aon logged.same rfl rfl).trans (keeps_aon sent.same rfl rfl)⟩

/-- DISABLE = 0 returns an enabled port to DETECT. -/
theorem portDisable_clears {u : State} (there : p < numPorts u) (held : (portOf u p).disable = true) (off : (portOf u p).st = .off)
    (enabled : aflParam u p 0 ≠ 0) (clock : (portOf u p).refLost = false) (tx : txPermitted u = true) :
    (portOf (portDisable p false u) p).disable = false ∧ (portOf (portDisable p false u) p).st = .detect ∧
      (portDisable p false u).aon = u.aon := by
  have own : portOf (modPort p (fun q => { q with disable := false }) u) p = { portOf u p with disable := false } := portOf_modPort ..
  have param' : aflParam (modPort p (fun q => { q with disable := false }) u) p 0 = aflParam u p 0 := by
    unfold aflParam
    rw [own]
    rfl
  have may : (portEnabled (modPort p (fun q => { q with disable := false }) u) p &&
      txPermitted (modPort p (fun q => { q with disable := false }) u) && (portOf u p).st = .off) = true := by
    unfold portEnabled
    rw [own, param', show txPermitted (modPort p _ u) = txPermitted u from rfl, tx, off]
    simp [clock, enabled]
    exact there
  have shape : portDisable p false u =
      modPort p (fun q => { q with st := .detect }) (modPort p (fun q => { q with disable := false }) u) := by
    unfold portDisable
    dsimp only
    rw [held, if_neg (by decide), if_neg (by decide), if_pos may]
  rw [shape, portOf_modPort, own]
  exact ⟨rfl, rfl, rfl⟩

section
variable (free : s.aon.otpBusy = false) (there : p < numPorts s) (up : diesDark s = false)
include free there up

theorem disable_holds (d : direct s = true) (runs : (portOf s p).disable = false) :
    ∃ t, exec (.disable 0 p) s = .next t ∧ (portOf t p).disable = true ∧ (portOf t p).st = .off ∧ t.aon.i3cStatus = 0 := by
  obtain ⟨v, woken⟩ := wakeBlk_aon .afl p s
  have kept := (wakeBlk_within .afl p s).same
  have same : portOf (wakeBlk .afl p s) p = portOf s p := portOf_of_port (keeps_port kept rfl) p
  obtain ⟨set, off, aon⟩ := portDisable_sets ((direct_of_kept (keeps_cfg kept rfl) (keeps_fuse kept rfl)).trans d)
    ((congrArg Port.disable same).trans runs)
  exact ⟨_, disableRow_done free there up true (by rw [aon, woken]; exact free), set, off, rfl⟩

theorem disableClear_detects (held : (portOf s p).disable = true) (off : (portOf s p).st = .off) (enabled : aflParam s p 0 ≠ 0)
    (clock : (portOf s p).refLost = false) (tx : txPermitted s = true) :
    ∃ t, exec (.disableClear 0 p) s = .next t ∧ (portOf t p).disable = false ∧ (portOf t p).st = .detect ∧ t.aon.i3cStatus = 0 := by
  obtain ⟨v, woken⟩ := wakeBlk_aon .afl p s
  have kept := (wakeBlk_within .afl p s).same
  have same : portOf (wakeBlk .afl p s) p = portOf s p := portOf_of_port (keeps_port kept rfl) p
  have param' : aflParam (wakeBlk .afl p s) p 0 = aflParam s p 0 := by
    unfold aflParam
    rw [same, paramAt_of_kept (keeps_cfg kept rfl) (keeps_fuse kept rfl)]
  have tx' : txPermitted (wakeBlk .afl p s) = true := by
    unfold txPermitted
    rw [woken, keeps_led kept rfl]
    exact tx
  have there' : p < numPorts (wakeBlk .afl p s) := by
    unfold numPorts
    rw [keeps_fuse kept rfl]
    exact there
  obtain ⟨set, detects, aon⟩ := portDisable_clears there' ((congrArg Port.disable same).trans held) ((congrArg Port.st same).trans off)
    (by rw [param']; exact enabled) ((congrArg Port.refLost same).trans clock) tx'
  exact ⟨_, disableRow_done free there up false (by rw [aon, woken]; exact free), set, detects, rfl⟩

end

end

end

/-- Settles O48: each scope of AON_RESET_CTL and each value of DISABLE by its lemma. -/
theorem resetsActThroughAon : Obligations.ResetsActThroughAon := by
  unfold Obligations.ResetsActThroughAon
  refine ⟨fun s force i free may => device_resets free may i, fun s i free needs => device_unforced free needs i,
    fun c mem s key force i free wrong => reset_keyless free wrong force i c mem, fun s force i free up => ⟨?_, ?_, ?_, ?_, ?_⟩,
    fun s p free up there d => ⟨fun runs => disable_holds free there up d runs,
      fun held off enabled clock tx => disableClear_detects free there up held off enabled clock tx⟩⟩
  · exact fun there down noEq => afl_detects free up there down noEq
  · exact fun there runs d => afl_drops free up there runs d
  · exact fun there rest segs fresh once => pe_resets free up there rest segs fresh once
  · exact fun there may quiet => bay_asserts free there may quiet
  · exact fun there may => mgt_runs free up there may

end Sys2Proof.Laws
end

section
/-! PROOFS. The management window (R461 to R468): register accesses over I3C, indirect data, and the parity sweep. -/

namespace Sys2Proof.Laws

open Sys2Proof Sys2Proof.Machine

section
variable {s : State}

/-! ## Words and pairs -/

theorem bytesOf_setWidth {n m k : Nat} (x : BitVec n) (small : 8 * k ≤ m) : bytesOf (x.setWidth m) k = bytesOf x k := by
  refine List.map_congr_left fun i mem => BitVec.eq_of_getLsbD_eq fun j low => ?_
  rw [List.mem_range] at mem
  simp [byteAt, low, show 8 * i + j < m by omega]

theorem halves_append (x : BitVec 64) : x.extractLsb' 32 32 ++ x.extractLsb' 0 32 = x := by
  refine BitVec.eq_of_getLsbD_eq fun i small => ?_
  rw [BitVec.getLsbD_append]
  by_cases low : i < 32
  · simp [low]
  · simp [low, show i - 32 < 32 by omega, show 32 + (i - 32) = i by omega]

/-- A 32-bit read of a whole word. -/
theorem access_word {path off : Nat} {node : Node} {data : BitVec 64} {old : BitVec 32} (good : accessBad s off false 0x0F = false)
    (asleep : wakeBlk (blkOf off).1 (blkOf off).2.1 s = s) (read : regRead s path off = some old) :
    access path node off false false 0x0F data s = ({ ok := true, data := old.setWidth 64 }, stepIdx path off s) := by
  have answer := accessWord_reads read node 0x0F data
  rw [byteMask_word, BitVec.and_allOnes] at answer
  rw [access, good]
  dsimp only
  rw [if_neg (by decide), asleep]
  exact answer

/-- A 32-bit write of a whole word. -/
theorem access_wordWrite {path off : Nat} {node : Node} {data : BitVec 64} {old : BitVec 32} {t : State}
    (good : accessBad s off false 0x0F = false) (asleep : wakeBlk (blkOf off).1 (blkOf off).2.1 s = s)
    (read : regRead s path off = some old) (taken : regWrite path node off (data.extractLsb' 0 32) (BitVec.allOnes 32) s = (true, t)) :
    access path node off false true 0x0F data s = ({ ok := true }, stepIdx path off t) := by
  rw [access, good]
  dsimp only
  rw [if_neg (by decide), asleep]
  refine accessWord_writes read ?_
  rw [byteMask_word, BitVec.not_allOnes, BitVec.and_zero, BitVec.zero_or, BitVec.and_allOnes]
  exact taken

/-- A 64-bit read of a pair. -/
theorem access_pair {path off : Nat} {node : Node} {data : BitVec 64} {lo hi : BitVec 32} (good : accessBad s off true 0xFF = false)
    (asleep : wakeBlk (blkOf off).1 (blkOf off).2.1 s = s) (low : regRead s path off = some lo) (high : regRead s path (off + 4) = some hi) :
    access path node off true false 0xFF data s = ({ ok := true, data := hi ++ lo }, s) := by
  rw [access, good]
  dsimp only
  rw [if_neg (by decide), if_pos rfl, asleep, accessWide, low, high]
  dsimp only
  rw [if_neg (by decide), byteMask_all, BitVec.and_allOnes, setWidth_or_place]

/-- A 64-bit write of a whole pair. -/
theorem accessWide_writes {path off : Nat} {node : Node} {data : BitVec 64} {lo hi : BitVec 32} (low : regRead s path off = some lo)
    (high : regRead s path (off + 4) = some hi) : accessWide path node off true 0xFF data s =
      ({ ok := (pairWrite path node off data (BitVec.allOnes 64) s).1 }, (pairWrite path node off data (BitVec.allOnes 64) s).2) := by
  rw [accessWide, low, high]
  dsimp only
  rw [if_pos rfl, byteMask_all, BitVec.not_allOnes, BitVec.and_zero, BitVec.zero_or, BitVec.and_allOnes]

/-! ## Commands over I3C (R462) -/

/-- The target takes commands of an I3C controller. -/
structure I3cTakes (s : State) (f : I3cFrame) : Prop where
  free : s.aon.otpBusy = false
  mode : s.aon.mode = .service
  i3c : f.i2c = false
  len : f.lenOk = true

theorem i3cCommand_runs {f : I3cFrame} (h : I3cTakes s f) (cmd : Byte) (n : Nat) (wide write : Bool) (inside : f.offset.toNat < 2 ^ 26) :
    i3cCommand cmd n wide write f s = .next (accessRow 0 f.offset.toNat wide write f.be f.data s) := by
  obtain ⟨free, mode, i3c, len⟩ := h
  unfold i3cCommand
  rw [if_neg (by simp [i3cNack, free, mode]), if_neg (by simp [len, i3c]), if_neg (by omega)]

theorem write32_done {f : I3cFrame} (h : I3cTakes s f) {off : Nat} (small : off < 2 ^ 26) (offset : f.offset = BitVec.ofNat 32 off)
    {t : State} (be : f.be = 0x0F) (done : access 0 (nodeId s) off false true 0x0F f.data s = ({ ok := true }, t))
    (idle : t.aon.otpBusy = false) : exec (.write32 f) s = .next (i3cDone 0 [] t) := by
  have at' : f.offset.toNat = off := by rw [offset, BitVec.toNat_ofNat, Nat.mod_eq_of_lt (by omega)]
  refine (i3cCommand_runs h 1 4 false true (by omega)).trans ?_
  rw [at', be, accessRow_writes h.free idle done]

theorem write64_done {f : I3cFrame} (h : I3cTakes s f) {off : Nat} (small : off < 2 ^ 26) (offset : f.offset = BitVec.ofNat 32 off)
    {t : State} (be : f.be = 0xFF) (done : access 0 (nodeId s) off true true 0xFF f.data s = ({ ok := true }, t))
    (idle : t.aon.otpBusy = false) : exec (.write64 f) s = .next (i3cDone 0 [] t) := by
  have at' : f.offset.toNat = off := by rw [offset, BitVec.toNat_ofNat, Nat.mod_eq_of_lt (by omega)]
  refine (i3cCommand_runs h 3 8 true true (by omega)).trans ?_
  rw [at', be, accessRow_writes h.free idle done]

theorem read32_done {f : I3cFrame} (h : I3cTakes s f) {off : Nat} (small : off < 2 ^ 26) (offset : f.offset = BitVec.ofNat 32 off)
    {x : BitVec 32} (be : f.be = 0x0F)
    (done : access 0 (nodeId s) off false false 0x0F f.data s = ({ ok := true, data := x.setWidth 64 }, s)) :
    exec (.read32 f) s = .next (i3cDone 0 (bytesOf x 4) s) := by
  have at' : f.offset.toNat = off := by rw [offset, BitVec.toNat_ofNat, Nat.mod_eq_of_lt (by omega)]
  refine (i3cCommand_runs h 2 0 false false (by omega)).trans ?_
  rw [at', be, accessRow_reads h.free h.free done, if_neg (by decide), bytesOf_setWidth x (by decide)]

theorem read64_done {f : I3cFrame} (h : I3cTakes s f) {off : Nat} (small : off < 2 ^ 26) (offset : f.offset = BitVec.ofNat 32 off)
    {x : BitVec 64} (be : f.be = 0xFF) (done : access 0 (nodeId s) off true false 0xFF f.data s = ({ ok := true, data := x }, s)) :
    exec (.read64 f) s = .next (i3cDone 0 (bytesOf x 8) s) := by
  have at' : f.offset.toNat = off := by rw [offset, BitVec.toNat_ofNat, Nat.mod_eq_of_lt (by omega)]
  refine (i3cCommand_runs h 4 0 true false (by omega)).trans ?_
  rw [at', be, accessRow_reads h.free h.free done, if_pos rfl]

theorem accessBad_aon {off : Nat} (inside : off < 0x40000) (aligned : off % 4 = 0) : accessBad s off false 0x0F = false := by
  simp [accessBad, blkOf, inside, blkPresent, aligned]

theorem wakeBlk_aonBlock {off : Nat} (inside : off < 0x40000) : wakeBlk (blkOf off).1 (blkOf off).2.1 s = s := by
  rw [blkOf, if_pos inside]
  rfl

/-! ## Registers (Tables 17.6, 17.7, 17.13) -/

section
variable {f : I3cFrame} (h : I3cTakes s f)
include h

theorem ceCfg_window (offset : f.offset = 0x58) (be : f.be = 0x0F) :
    (1 ≤ fieldNat f.data 29 20 → 1 ≤ fieldNat f.data 19 12 → 1 ≤ fieldNat f.data 11 4 →
      exec (.write32 f) s = .next (i3cDone 0 [] { s with aon.ceCfg := f.data.extractLsb' 0 32 &&& 0xFFFFFFF0 })) ∧
    exec (.read32 f) s = .next (i3cDone 0 (bytesOf s.aon.ceCfg 4) s) :=
  ⟨fun bank window frame => write32_done h (by decide) offset be (access_writeCeCfg 0 _ bank window frame s) h.free,
    read32_done h (by decide) offset be (access_readCeCfg 0 _ f.data s)⟩

theorem deviceId_window (offset : f.offset = 0) (be : f.be = 0x0F) :
    exec (.read32 f) s = .next (i3cDone 0 (bytesOf (deviceId s) 4) s) :=
  read32_done h (off := 0) (by decide) offset be
    (access_word (accessBad_aon (by decide) (by decide)) (wakeBlk_aonBlock (by decide)) rfl)

theorem tide_window (offset : f.offset = 0x20) (be : f.be = 0xFF) :
    exec (.read64 f) s = .next (i3cDone 0 (bytesOf s.time.tide 8) s) := by
  have good : accessBad s 0x20 true 0xFF = false := by simp [accessBad, blkOf, isPair, blkPresent]
  have whole := halves_append s.time.tide
  have done := access_pair (node := nodeId s) (path := 0) (data := f.data) good (wakeBlk_aonBlock (by decide))
    (show regRead s 0 0x20 = some (s.time.tide.extractLsb' 0 32) from rfl)
    (show regRead s 0 (0x20 + 4) = some (s.time.tide.extractLsb' 32 32) from rfl)
  rw [whole] at done
  exact read64_done h (by decide) offset be done

omit h in
/-- MGT_PATCH_BASE holds bits [44:0]. -/
theorem patchBase_words (old data : BitVec 64) :
    setField (setField old 0 (data.extractLsb' 0 32)) 32 (data.extractLsb' 32 32 &&& 0x1FFF) = data &&& 0x1FFFFFFFFFFF := by
  refine BitVec.eq_of_getLsbD_eq fun i small => ?_
  have mask : (data &&& 0x1FFFFFFFFFFF).getLsbD i = (data.getLsbD i && decide (i < 45)) := by
    rw [BitVec.getLsbD_and, show (0x1FFFFFFFFFFF : BitVec 64) = BitVec.ofNat 64 (2 ^ 45 - 1) from rfl, BitVec.getLsbD_ofNat,
      Nat.testBit_two_pow_sub_one]
    simp [small]
  have high (j : Nat) (inside : j < 32) : (0x1FFF : BitVec 32).getLsbD j = decide (j < 13) := by
    rw [show (0x1FFF : BitVec 32) = BitVec.ofNat 32 (2 ^ 13 - 1) from rfl, BitVec.getLsbD_ofNat, Nat.testBit_two_pow_sub_one]
    simp [inside]
  rw [getLsbD_setField _ _ _ _ small, getLsbD_setField _ _ _ _ small, mask]
  by_cases low : i < 32
  · rw [if_neg (by omega), if_pos (by omega), BitVec.getLsbD_extractLsb']
    simp [low, show i < 45 by omega]
  · rw [if_pos (by omega), BitVec.getLsbD_and, high _ (by omega), BitVec.getLsbD_extractLsb', show 32 + (i - 32) = i by omega]
    simp [show i - 32 < 32 by omega, show (i - 32 < 13) = (i < 45) from propext (by omega)]

omit h in
theorem regRead_patchBase (path : Nat) (s : State) : regRead s path 0x380010 = some (s.mgt.patchBase.extractLsb' 0 32) ∧
    regRead s path (0x380010 + 4) = some (s.mgt.patchBase.extractLsb' 32 32) := by
  have first : blkOf 0x380010 = (.mgt, 0, 0x10) := by decide
  have second : blkOf (0x380010 + 4) = (.mgt, 0, 0x14) := by decide
  unfold regRead
  rw [first, second]
  exact ⟨rfl, rfl⟩

theorem patchBase_window (offset : f.offset = 0x380010) (be : f.be = 0xFF) (awake : (domOf s 150).st = .awake) :
    exec (.write64 f) s = .next (i3cDone 0 [] { s with mgt.patchBase := f.data &&& 0x1FFFFFFFFFFF }) := by
  have good : accessBad s 0x380010 true 0xFF = false := by
    simp [accessBad, blkOf, isPair, blkPresent, diesDark, h.mode, numDies]
    split <;> decide
  have wake : wakeBlk (blkOf 0x380010).1 (blkOf 0x380010).2.1 s = s := by
    show wakeBlk .mgt 0 s = s
    unfold wakeBlk
    show (match (domOf s 150).st with | .asleep => _ | .entering => _ | _ => _) = _
    rw [awake]
  have done : access 0 (nodeId s) 0x380010 true true 0xFF f.data s =
      ({ ok := true }, { s with mgt.patchBase := f.data &&& 0x1FFFFFFFFFFF }) := by
    rw [access, good]
    dsimp only
    rw [if_neg (by decide), if_pos rfl, wake, accessWide_writes (regRead_patchBase 0 s).1 (regRead_patchBase 0 s).2]
    rw [← patchBase_words s.mgt.patchBase]
    rfl
  exact write64_done h (by decide) offset be done h.free

end

/-! ## Breaches, frames and the read of a response (R462, R464) -/

/-- An access that breaches R464 has no effect. -/
theorem accessRow_breach {off : Nat} {wide write : Bool} {be : BitVec 8} {data : BitVec 64} (free : s.aon.otpBusy = false)
    (bad : accessBad s off wide be = true) (alone : serving s 0 off = none) :
    accessRow 0 off wide write be data s = i3cDone 1 [] s := by
  have ended : access 0 (nodeId s) off wide write be data s = ({}, s) := by rw [access, if_pos bad]
  have left (n : Nat) (t : State) : leaveData 0 n {} write t = t := by simp [leaveData]
  unfold accessRow
  rw [if_neg (by simp [pathOk, free]), show pathNode s 0 = nodeId s from rfl, ended]
  dsimp only
  rw [alone, left, show regDone 0 none false s = i3cDone 1 [] s from rfl]
  exact busyStatus_idle free

theorem accessBad_unaligned (wide : Bool) (be : BitVec 8) : accessBad s 0x5A wide be = true := by
  cases wide <;> simp [accessBad, blkOf]

theorem i3cCommand_unaligned {f : I3cFrame} (h : I3cTakes s f) (offset : f.offset = 0x5A) (cmd : Byte) (n : Nat) (wide write : Bool) :
    i3cCommand cmd n wide write f s = .next (i3cDone 1 [] s) := by
  have at' : f.offset.toNat = 0x5A := by rw [offset]; rfl
  rw [i3cCommand_runs h cmd n wide write (by omega), at', accessRow_breach h.free (accessBad_unaligned wide f.be) rfl]

theorem i3cCommand_frame {f : I3cFrame} (free : s.aon.otpBusy = false) (mode : s.aon.mode ≠ .watch) (len : f.lenOk = false) (cmd : Byte)
    (n : Nat) (wide write : Bool) : i3cCommand cmd n wide write f s = .next (i3cDone 3 [] s) := by
  unfold i3cCommand
  rw [if_neg (by simp [i3cNack, free, mode]), if_pos (by simp [len])]
  rfl

/-- A statement of each of the four commands of R462. -/
theorem commands_all {P : (I3cFrame → Instr) → Prop} (write32 : P .write32) (read32 : P .read32) (write64 : P .write64)
    (read64 : P .read64) : ∀ c ∈ ([.write32, .read32, .write64, .read64] : List (I3cFrame → Instr)), P c := by
  simpa using ⟨write32, read32, write64, read64⟩

theorem privateRead_takes (free : s.aon.otpBusy = false) : exec .i3cPrivateRead s = .next { s with aon.i3cData := [] } :=
  if_neg (by simp [free])

/-! ## REGISTER_WRITE of AON_PWR_CFG (R464) -/

theorem registerWrite_pwrCfg (free : s.aon.otpBusy = false) (d : BitVec 64) (first : 1 ≤ fieldNat d 31 22) (most : fieldNat d 31 22 ≤ 1000)
    (second : 1 ≤ fieldNat d 21 16) (third : fieldNat d 15 12 ≤ 13) (fourth : fieldNat d 11 9 ≤ 6) :
    exec (.registerWrite 0 0x18 0x0F d false) s =
      .next (i3cDone 0 [] { s with aon.pwrCfg := d.extractLsb' 0 32 &&& 0xFFFFFE00 }) := by
  have taken : pwrCfgWrite (d.extractLsb' 0 32) s = (true, { s with aon.pwrCfg := d.extractLsb' 0 32 &&& 0xFFFFFE00 }) := by
    unfold pwrCfgWrite
    repeat rw [fieldNat_lowWord d (by decide)]
    simp [first, most, second, third, fourth]
  have done : access 0 (nodeId s) 0x18 false true 0x0F d s =
      ({ ok := true }, { s with aon.pwrCfg := d.extractLsb' 0 32 &&& 0xFFFFFE00 }) :=
    access_wordWrite (accessBad_aon (by decide) (by decide)) (wakeBlk_aonBlock (by decide))
      (show regRead s 0 0x18 = some s.aon.pwrCfg from rfl) taken
  exact congrArg Host.Outcome.next (accessRow_writes free (by exact free) done)

/-! ## Indirect data (R468) -/

section
variable {k : Nat} (free : s.aon.otpBusy = false) (inside : k < 0x400) (index : sget 0 s.aon.xidx 0 = 0x80040000 + BitVec.ofNat 32 (4 * k))

/-- The state after INC has advanced the index. -/
def idxAdvanced (k : Nat) (s : State) : State :=
  { s with aon.xidx := sset 0 s.aon.xidx 0 (0x80040000 + BitVec.ofNat 32 (4 * k + 4)) }

include inside index

theorem idxOf_staging : (idxOf s 0 0x64).toNat = 2 ^ 31 + (0x40000 + 4 * k) := by
  show (sget 0 s.aon.xidx 0).toNat = _
  rw [index, BitVec.toNat_add, BitVec.toNat_ofNat, show (0x80040000 : BitVec 32).toNat = 0x80040000 from rfl]
  omega

theorem idxOff_staging : idxOff (idxOf s 0 0x64) = 0x40000 + 4 * k := by
  show fieldNat (idxOf s 0 0x64) 30 0 = _
  rw [fieldNat_eq_extractLsb', BitVec.extractLsb'_toNat, idxOf_staging inside index]
  omega

theorem stepIdx_staging : stepIdx 0 0x64 s = idxAdvanced k s := by
  have inc : idxInc (idxOf s 0 0x64) = true := by
    show (idxOf s 0 0x64).getLsbD 31 = true
    rw [← BitVec.testBit_toNat, idxOf_staging inside index, Nat.testBit_two_pow_add_eq, Nat.testBit_lt_two_pow (by omega)]
    rfl
  have next : (0x80000000 : BitVec 32) ||| BitVec.ofNat 32 ((0x40000 + 4 * k + 4) % 2 ^ 31) =
      0x80040000 + BitVec.ofNat 32 (4 * k + 4) := by
    refine BitVec.eq_of_toNat_eq ?_
    have apart := Nat.two_pow_add_eq_or_of_lt (i := 31) (b := 0x40000 + 4 * k + 4) (by omega) 1
    rw [BitVec.toNat_or, BitVec.toNat_add, BitVec.toNat_ofNat, BitVec.toNat_ofNat, show (0x80000000 : BitVec 32).toNat = 2 ^ 31 * 1 from rfl,
      show (0x80040000 : BitVec 32).toNat = 0x80040000 from rfl, Nat.mod_eq_of_lt (show 0x40000 + 4 * k + 4 < 2 ^ 31 by omega),
      Nat.mod_eq_of_lt (show 0x40000 + 4 * k + 4 < 2 ^ 32 by omega)]
    omega
  unfold stepIdx
  rw [if_pos (by rw [inc]; decide), idxOff_staging inside index, next]
  rfl

omit index in
theorem aonIndirect_staging : aonIndirect s (0x40000 + 4 * k) = some (sget 0 s.aon.staging k) := by
  unfold aonIndirect
  rw [if_neg (by omega), if_neg (by simp), if_pos (by simp; omega), show (0x40000 + 4 * k - 0x40000) / 4 = k by omega]

theorem dataRead_staging : dataRead s 0 0x64 = some (sget 0 s.aon.staging k) := by
  show aonIndirect s (idxOff (idxOf s 0 0x64)) = _
  rw [idxOff_staging inside index, aonIndirect_staging inside]

theorem dataWrite_staging (d : BitVec 32) : dataWrite 0 0x64 d s = (true, { s with aon.staging := sset 0 s.aon.staging k d }) := by
  show aonIndirectWrite (idxOff (idxOf s 0 0x64)) d s = _
  rw [idxOff_staging inside index]
  unfold aonIndirectWrite
  rw [if_pos (by simp; omega), show (0x40000 + 4 * k - 0x40000) / 4 = k by omega]

include free

theorem indirectWrite_staging (d : BitVec 32) : ∃ t, exec (.indirectDataAccess 0 0x64 true 0xF d) s = .next t ∧
    sget 0 t.aon.staging k = d ∧ sget 0 t.aon.xidx 0 = 0x80040000 + BitVec.ofNat 32 (4 * k + 4) ∧ t.aon.i3cStatus = 0 := by
  have taken := dataWrite_staging inside index (((BitVec.setWidth 64 d).extractLsb' 0 32))
  have word : (d.setWidth 64).extractLsb' 0 32 = d := by
    refine BitVec.eq_of_getLsbD_eq fun i small => ?_
    simp [small, show i < 64 by omega]
  have done := access_wordWrite (data := d.setWidth 64) (off := 0x64) (path := 0) (node := nodeId s)
    (accessBad_aon (by decide) (by decide)) (wakeBlk_aonBlock (by decide)) (dataRead_staging inside index) taken
  rw [stepIdx_staging inside (by exact index), word] at done
  refine ⟨i3cDone 0 [] (idxAdvanced k { s with aon.staging := sset 0 s.aon.staging k d }),
    congrArg Host.Outcome.next (accessRow_writes free (by exact free) done), ?_, ?_, rfl⟩
  · exact sget_sset_same 0 s.aon.staging k d
  · exact sget_sset_same 0 s.aon.xidx 0 _

theorem indirectRead_staging (d : BitVec 32) : ∃ t, exec (.indirectDataAccess 0 0x64 false 0xF d) s = .next t ∧
    t.aon.staging = s.aon.staging ∧ t.aon.i3cData = bytesOf (sget 0 s.aon.staging k) 4 ∧
    sget 0 t.aon.xidx 0 = 0x80040000 + BitVec.ofNat 32 (4 * k + 4) := by
  have done := access_word (data := d.setWidth 64) (off := 0x64) (path := 0) (node := nodeId s)
    (accessBad_aon (by decide) (by decide)) (wakeBlk_aonBlock (by decide)) (dataRead_staging inside index)
  rw [stepIdx_staging inside index] at done
  refine ⟨i3cDone 0 (bytesOf (sget 0 s.aon.staging k) 4) (idxAdvanced k s), congrArg Host.Outcome.next ?_, rfl, rfl,
    sget_sset_same 0 s.aon.xidx 0 _⟩
  refine (accessRow_reads free (by exact free) done).trans ?_
  rw [if_neg (by decide), bytesOf_setWidth _ (by decide)]

end

/-! ## The parity sweep (R466) -/

theorem paritySweep_ceCfg (s : State) : exec (.paritySweep 0x58 false) s = .next s ∧
    ∃ t, exec (.paritySweep 0x58 true) s = .next t ∧ t.aon = { s.aon with ceCfg := 0x84018080 } ∧
      (sget 0 s.log.rate (epAon.toNat * 256 + 0x6C) < 16 → t.log.inbox = s.log.inbox ++
        [logEntry { cause := 0x6C, src := epAon, kind := 5, addr := 0x58 } s.time.tide]) :=
  ⟨rfl, logIt { cause := 0x6C, src := epAon, kind := 5, addr := 0x58 } { s with aon.ceCfg := 0x84018080 }, rfl, logIt_aon _ _,
    fun room => logIt_inbox (s := { s with aon.ceCfg := 0x84018080 }) room⟩

/-- Settles O47: the access over I3C reaches the register that its offset names, and a breach or a broken frame ends before it. -/
theorem theWindowReadsAndWrites : Obligations.TheWindowReadsAndWrites := by
  refine ⟨fun s f free mode i3c len => ?_, fun s f free mode len => ?_, fun s free => privateRead_takes free, fun s a => rfl,
    fun s d free first most second third fourth => registerWrite_pwrCfg free d first most second third fourth,
    fun s k d free inside index => ⟨indirectWrite_staging free inside index d, indirectRead_staging free inside index d⟩,
    paritySweep_ceCfg⟩
  · have h : I3cTakes s f := ⟨free, mode, i3c, len⟩
    refine ⟨ceCfg_window h, deviceId_window h, patchBase_window h, tide_window h, fun offset => ?_⟩
    have ends := i3cCommand_unaligned h offset
    exact commands_all (ends 1 4 false true) (ends 2 0 false false) (ends 3 8 true true) (ends 4 0 true false)
  · have ends := i3cCommand_frame (f := f) free mode len
    exact commands_all (ends 1 4 false true) (ends 2 0 false false) (ends 3 8 true true) (ends 4 0 true false)

end

end Sys2Proof.Laws
end

section
/-! PROOFS. The error log, the extended log and the acknowledgement of events (R444 to R447, R450). -/

namespace Sys2Proof.Laws

open Sys2Proof Sys2Proof.Machine

section
variable {s : State}

/-! ## The log writer (R445) -/

/-- The stored entries, their numbers and LOST are the same. -/
structure SameEntries (l m : AonLog) : Prop where
  slots : m.slots = l.slots
  count : m.count = l.count
  head : m.head = l.head
  seq : m.seq = l.seq
  lost : m.lost = l.lost

theorem logIt_entries (r : LogRec) (s : State) : SameEntries s.log (logIt r s).log := by
  unfold logIt
  dsimp only
  split
  · exact ⟨rfl, rfl, rfl, rfl, rfl⟩
  · rw [keeps_log (evAdd_within ..).same rfl]
    exact ⟨rfl, rfl, rfl, rfl, rfl⟩

theorem freezeNow_entries (trigger : Nat) (s : State) : SameEntries s.log (freezeNow trigger s).log := by
  unfold freezeNow
  split
  · exact ⟨rfl, rfl, rfl, rfl, rfl⟩
  · exact logIt_entries _ { s with frz.held := true, frz.routersDone := 0 }

/-- The log when an entry finds room. -/
def storedLog (e : BitVec 512) (l : AonLog) : AonLog :=
  { l with slots := sset 0 l.slots ((l.head + l.count) % 512) (setField e 40 l.seq), count := l.count + 1, seq := l.seq + 1 }

/-- The log when an entry is lost. -/
def lostLog (l : AonLog) : AonLog := { l with lost := if l.lost = 0xFFFF then 0xFFFF else l.lost + 1, seq := l.seq + 1 }

/-- What follows the write of the log leaves its entries. -/
theorem entryCounted_entries (fatal : Bool) (i j : Nat) {t : State} {l : AonLog} (written : t.log = l) :
    SameEntries l (if fatal then freezeNow 2 (evAdd i 1 (evAdd j 1 t)) else evAdd i 1 (evAdd j 1 t)).log := by
  have counted : (evAdd i 1 (evAdd j 1 t)).log = l := by
    rw [keeps_log (evAdd_within ..).same rfl, keeps_log (evAdd_within ..).same rfl, written]
  split
  · have frozen := freezeNow_entries 2 (evAdd i 1 (evAdd j 1 t))
    rwa [counted] at frozen
  · rw [counted]
    exact ⟨rfl, rfl, rfl, rfl, rfl⟩

theorem takeEntry_entries (s : State) (e : BitVec 512) :
    SameEntries (if logStored s.log.count (entClass e) then storedLog e s.log else lostLog s.log) (takeEntry s e).log := by
  unfold takeEntry
  dsimp only
  cases keep : logStored s.log.count (entClass e)
  · refine entryCounted_entries _ _ _ ?_
    rfl
  · refine entryCounted_entries _ _ _ ?_
    rfl

/-- Entries have left their blocks for the log writer. -/
def entryArrived (n : Nat) (s : State) : State :=
  { s with log.inbox := s.log.inbox.drop n,
           log.ptr := if 2 ≤ (s.log.inbox.take n).length then (s.log.ptr + 1) % (logSources s).length else s.log.ptr }

/-- One entry that arrives alone. -/
theorem logEntryArrival_one {e : BitVec 512} {n : Nat} (inbox : s.log.inbox = [e]) (some' : 1 ≤ n) :
    ∃ t, exec (.logEntryArrival n) s = .next t ∧
      SameEntries (if logStored s.log.count (entClass e) then storedLog e s.log else lostLog s.log) t.log := by
  have now : s.log.inbox.take n = [e] := by rw [inbox, List.take_of_length_le (by simpa using some')]
  have taken := takeEntry_entries (entryArrived n s) e
  refine ⟨driveAlert (takeEntry (entryArrived n s) e), ?_, ?_⟩
  · show execLogEntryArrival n s = _
    unfold execLogEntryArrival entryArrived
    rw [now]
    rfl
  · rw [driveAlert_log]
    cases keep : logStored s.log.count (entClass e)
    · rw [if_neg (show ¬ logStored (entryArrived n s).log.count (entClass e) = true by exact ne_true_of_eq_false keep)] at taken
      obtain ⟨slots, count, head, seq, lost⟩ := taken
      exact ⟨slots, count, head, seq, lost⟩
    · rw [if_pos (show logStored (entryArrived n s).log.count (entClass e) = true from keep)] at taken
      obtain ⟨slots, count, head, seq, lost⟩ := taken
      exact ⟨slots, count, head, seq, lost⟩

theorem logEntryArrival_stored {e : BitVec 512} {n : Nat} (inbox : s.log.inbox = [e]) (some' : 1 ≤ n) (room : s.log.count ≤ 447) :
    ∃ t, exec (.logEntryArrival n) s = .next t ∧
      sget 0 t.log.slots ((s.log.head + s.log.count) % 512) = setField e 40 s.log.seq ∧ t.log.count = s.log.count + 1 ∧
      t.log.head = s.log.head ∧ t.log.seq = s.log.seq + 1 ∧ t.log.lost = s.log.lost := by
  obtain ⟨t, ran, entries⟩ := logEntryArrival_one inbox some'
  rw [if_pos (by simp [logStored, room])] at entries
  obtain ⟨slots, count, head, seq, lost⟩ := entries
  exact ⟨t, ran, by rw [slots]; exact sget_sset_same 0 _ _ _, count, head, seq, lost⟩

theorem logEntryArrival_lost {e : BitVec 512} {n : Nat} (inbox : s.log.inbox = [e]) (some' : 1 ≤ n) (full : 447 < s.log.count)
    (low : (entClass e).toNat < 2) (more : s.log.lost ≠ 0xFFFF) :
    ∃ t, exec (.logEntryArrival n) s = .next t ∧
      t.log.slots = s.log.slots ∧ t.log.count = s.log.count ∧ t.log.seq = s.log.seq + 1 ∧ t.log.lost = s.log.lost + 1 := by
  obtain ⟨t, ran, entries⟩ := logEntryArrival_one inbox some'
  rw [if_neg (by simp [logStored]; omega)] at entries
  obtain ⟨slots, count, head, seq, lost⟩ := entries
  exact ⟨t, ran, slots, count, seq, lost.trans (if_neg more)⟩

/-! ## The extended log (R447) -/

theorem extendedLogCopy_service {e : BitVec 512} {r : List (BitVec 512)} (queue : s.mgt.extQ = e :: r) (mode : s.aon.mode = .service) :
    exec .extendedLogCopy s =
      .next { s with mgt.extQ := r, mgt.xlog := sset 0 s.mgt.xlog s.mgt.xlogWr e, mgt.xlogWr := (s.mgt.xlogWr + 1) % 16384 } := by
  show execExtendedLogCopy s = _
  unfold execExtendedLogCopy
  rw [queue]
  exact if_neg (by simp [extBlocked, mode])

theorem extendedLogCopy_dark {e : BitVec 512} {r : List (BitVec 512)} (queue : s.mgt.extQ = e :: r)
    (mode : s.aon.mode = .stall ∨ s.aon.mode = .watch) (more : s.log.extLost ≠ 0xFFFF) :
    exec .extendedLogCopy s = .next { s with mgt.extQ := r, log.extLost := s.log.extLost + 1 } := by
  have blocked : extBlocked s = true := by
    obtain stall | watch := mode
    · simp [extBlocked, stall]
    · simp [extBlocked, watch]
  show execExtendedLogCopy s = _
  unfold execExtendedLogCopy
  rw [queue]
  dsimp only
  rw [if_pos blocked, if_neg more]

/-! ## Acknowledgement (R445, R450) -/

theorem ackCount_first {k : Nat} {q : BitVec 24} (inside : k < s.log.count)
    (found : entSeq (sget 0 s.log.slots ((s.log.head + k) % 512)) = q)
    (first : ∀ i, i < k → entSeq (sget 0 s.log.slots ((s.log.head + i) % 512)) ≠ q) : ackCount s q = some (k + 1) := by
  have found' : (List.range s.log.count).find? (fun i => entSeq (sget 0 s.log.slots ((s.log.head + i) % 512)) = q) = some k := by
    rw [List.find?_range_eq_some]
    exact ⟨decide_eq_true found, List.mem_range.2 inside, fun i less => by rw [decide_eq_false (first i less)]; rfl⟩
  rw [ackCount, found']
  rfl

theorem ackCount_none {q : BitVec 24} (absent : ∀ i, i < s.log.count → entSeq (sget 0 s.log.slots ((s.log.head + i) % 512)) ≠ q) :
    ackCount s q = none := by
  have missing : (List.range s.log.count).find? (fun i => entSeq (sget 0 s.log.slots ((s.log.head + i) % 512)) = q) = none := by
    rw [List.find?_range_eq_none]
    exact fun i less => by rw [decide_eq_false (absent i less)]; rfl
  rw [ackCount, missing]
  rfl

theorem aonLogAck_takes {v : BitVec 32} {k : Nat} (found : ackCount s (v.extractLsb' 0 24) = some k) :
    exec (.aonLogAck 0 v) s = .next (i3cDone 0 [] (freeEntries k s)) := by
  show execAonLogAck 0 v s = _
  unfold execAonLogAck logAck
  rw [if_neg (by simp [pathOk]), found]
  rfl

theorem aonLogAck_refused {v : BitVec 32} (absent : ackCount s (v.extractLsb' 0 24) = none) :
    exec (.aonLogAck 0 v) s = .next (i3cDone 1 [] s) := by
  show execAonLogAck 0 v s = _
  unfold execAonLogAck logAck
  rw [if_neg (by simp [pathOk]), absent]
  rfl

theorem eventAck_takes {id : Nat} {v : BitVec 48} (known : eventImpl s.fuse.variantH id = true) (upTo : v ≤ sget 0 s.ev.count id) :
    ∃ t, exec (.eventAck 0 id v) s = .next t ∧ sget 0 t.ev.ack id = v ∧ t.ev.count = s.ev.count ∧ t.aon.i3cStatus = 0 := by
  have taken : eventAck id v s = (true, driveAlert { s with ev.ack := sset 0 s.ev.ack id v }) :=
    if_neg (by simp [known]; exact upTo)
  refine ⟨i3cDone 0 [] (driveAlert { s with ev.ack := sset 0 s.ev.ack id v }), ?_, sget_sset_same 0 s.ev.ack id v, rfl, rfl⟩
  show execEventAck 0 id v s = _
  unfold execEventAck
  rw [if_neg (by simp [pathOk]), taken]
  rfl

theorem eventAck_refused {id : Nat} {v : BitVec 48} (above : sget 0 s.ev.count id < v) :
    exec (.eventAck 0 id v) s = .next (i3cDone 1 [] s) := by
  have refused : eventAck id v s = (false, s) :=
    if_pos (by rw [decide_eq_true above, Bool.or_true])
  show execEventAck 0 id v s = _
  unfold execEventAck
  rw [if_neg (by simp [pathOk]), refused]
  rfl

/-- Settles O45: one entry arrives and is stored or lost, and what follows it leaves the log's entries. -/
theorem theLogKeepsEntries : Obligations.TheLogKeepsEntries :=
  ⟨fun _ _ _ inbox some' => ⟨logEntryArrival_stored inbox some', logEntryArrival_lost inbox some'⟩, fun _ => rfl,
    fun _ _ _ queue => ⟨extendedLogCopy_service queue, extendedLogCopy_dark queue⟩,
    fun _ _ _ inside found first => ⟨_, aonLogAck_takes (ackCount_first inside found first), rfl, rfl, rfl, rfl⟩,
    fun _ _ absent => aonLogAck_refused (ackCount_none absent),
    fun _ _ _ known => ⟨eventAck_takes known, eventAck_refused⟩⟩

end

end Sys2Proof.Laws
end

section
/-! PROOFS. Threshold samplers, frame retirement and suspect banks (R454 to R459). -/

namespace Sys2Proof.Laws

open Sys2Proof Sys2Proof.Machine

section
variable {s : State}

/-! ## A line that the device stores (R351) -/

theorem evAdd_smpWr (id n : Nat) (s : State) : (evAdd id n s).mgt.smpWr = s.mgt.smpWr := by
  unfold evAdd
  split <;> rfl

theorem readNow_smpWr (cls : BitVec 8) (addr : Nat) (s : State) : (readNow cls addr s).mgt.smpWr = s.mgt.smpWr := by
  unfold readNow
  split
  · rfl
  · split
    · exact evAdd_smpWr ..
    · refine (evAdd_smpWr ..).trans ?_
      rw [keeps_mgt (countUse_within ..).same rfl]
      exact evAdd_smpWr ..

theorem useDesc_smpWr (page : Nat) (cls : BitVec 8) (s : State) : (useDesc page cls s).mgt.smpWr = s.mgt.smpWr := by
  have counted (b e : Nat) (t : State) : (evQb b e t).mgt.smpWr = t.mgt.smpWr := evAdd_smpWr ..
  unfold useDesc
  dsimp only
  split
  · rfl
  · split
    · split
      · rw [readNow_smpWr, counted]
      · rw [counted]
    · rw [counted]

theorem wroteLine_smpWr (l : Line) (q : QLine) (s : State) : (wroteLine l q s).mgt.smpWr = s.mgt.smpWr := by
  rw [wroteLine, reported, keeps_mgt (joinDirty_within ..).same rfl, keeps_mgt (setDesc_within ..).same rfl,
    keeps_mgt (staleSegs_within ..).same rfl, useDesc_smpWr]
  rfl

theorem storeLine_of_untouched {l : Line} (untouched : Untouched s l) (unheld : dirLine s l = 0) (x : BitVec 512) (cls : BitVec 8) :
    storeLine l x false cls s =
      (true, wroteLine l (newLine (BitVec.allOnes 64) x cls (nodeId s) 0 s.quay.useStamp) s) := by
  have unowned : entryKind 0 ≠ .any := by decide
  unfold storeLine
  dsimp only
  rw [takesKey_of_untouched untouched, dirEntry_of_zero unheld]
  dsimp only [Option.filter]
  rw [if_neg unowned, setDir_zero unheld, if_neg (by decide), writeQuay_untouched untouched]

/-! ## Sample records (Table 16.10) -/

theorem bit82 (x : BitVec 512) : x.getLsbD 82 = (x.extractLsb' 82 1).getLsbD 0 := by simp

section
variable (s : State) (n skid : Nat) (noReq : Bool) (op : BitVec 8) (line : Line) (node : Node) (g : Tag) (cls : BitVec 8)
  (due : Option (BitVec 24))

/-- The fields that no request gives. -/
theorem smpRecord_fields : (smpRecord s n skid noReq).extractLsb' 0 64 = s.time.tide ∧
    (smpRecord s n skid noReq).extractLsb' 82 1 = bit1 noReq ∧ (smpRecord s n skid noReq).extractLsb' 84 4 = BitVec.ofNat 4 n ∧
    (smpRecord s n skid noReq).extractLsb' 88 424 = 0 := by
  simp [smpRecord, BitVec.extractLsb'_or, extractLsb'_place_below, extractLsb'_place_beyond, extractLsb'_place_same]

theorem smpRequest_fields : (smpRequest op line node g cls due).extractLsb' 0 64 = 0 ∧
    (smpRequest op line node g cls due).extractLsb' 82 1 = 0 ∧ (smpRequest op line node g cls due).extractLsb' 84 4 = 0 ∧
    (smpRequest op line node g cls due).extractLsb' 160 39 = line ∧ (smpRequest op line node g cls due).extractLsb' 88 8 = op := by
  simp [smpRequest, BitVec.extractLsb'_or, extractLsb'_place_below, extractLsb'_place_beyond, extractLsb'_place_same]

end

/-! ## The ring of samples (R454) -/

theorem quiet_setSmp (n : Nat) (v : Sampler) (h : Quiet s) : Quiet (setSmp n v s) := h

theorem smpOf_setSmp (n : Nat) (v : Sampler) (s : State) : smpOf (setSmp n v s) n = v :=
  sget_sset_same ({} : Sampler) s.mgt.smp n v

theorem newLine_whole (x : BitVec 512) (cls : BitVec 8) (node : Node) (g : Tag) (stamp : Nat) :
    (newLine (BitVec.allOnes 64) x cls node g stamp).data = x := by
  simp [newLine]

/-- The record has been stored, and the sampler counts anew. -/
structure Sampled (s : State) (n : Nat) (x : BitVec 512) (t : State) : Prop where
  held : ∃ q, qline t (smpLine s) = some q ∧ q.dirty = true ∧ q.mask = BitVec.allOnes 64 ∧ q.data = x
  next : t.mgt.smpWr = s.mgt.smpWr + 1
  idle : (smpOf t n).armed = false
  quiet : Quiet t

/-- The record finds room in the ring and its line can be written. -/
structure SampleRoom (s : State) : Prop where
  quiet : Quiet s
  room : smpFull s = false
  restored : s.led.pending = false
  cmds : s.rings.cmds = []
  line : Untouched s (smpLine s)
  unheld : dirLine s (smpLine s) = 0

/-- What `writeSample` makes of a record whose line is ready. -/
def sampleStored (n : Nat) (x : BitVec 512) (cls : BitVec 8) (s : State) : State :=
  setSmp n { smpOf (storeLine (smpLine s) x false cls s).2 n with armed := false }
    { (storeLine (smpLine s) x false cls s).2 with mgt.smpWr := (storeLine (smpLine s) x false cls s).2.mgt.smpWr + 1 }

theorem sampled_stored (h : SampleRoom s) (n : Nat) (x : BitVec 512) (cls : BitVec 8) : Sampled s n x (sampleStored n x cls s) := by
  unfold sampleStored
  rw [storeLine_of_untouched h.line h.unheld]
  dsimp only
  obtain ⟨held, -, -, quiet⟩ :=
    wroteLine_held (smpLine s) (newLine (BitVec.allOnes 64) x cls (nodeId s) 0 s.quay.useStamp) h.quiet
  have next := wroteLine_smpWr (smpLine s) (newLine (BitVec.allOnes 64) x cls (nodeId s) 0 s.quay.useStamp) s
  generalize wroteLine (smpLine s) (newLine (BitVec.allOnes 64) x cls (nodeId s) 0 s.quay.useStamp) s = u at held quiet next
  exact ⟨⟨_, held, rfl, rfl, newLine_whole ..⟩, congrArg (· + 1) next, by rw [smpOf_setSmp], quiet⟩

theorem writeSample_stores (h : SampleRoom s) (n : Nat) (req : BitVec 512) (noReq : Bool) :
    ∃ skid, Sampled s n (smpRecord s n skid noReq ||| req) (writeSample n req noReq s) := by
  have unmoved : snapHeld s (smpLine s) true = false := by simp [snapHeld, h.cmds]
  have taken : writeSample n req noReq s = if noReq then sampleStored n (smpRecord s n 0 noReq ||| req) (BitVec.ofNat 8 (designated s 0)) s
      else sampleStored n (smpRecord s n ((draw 6 s).1.toNat % 33) noReq ||| req) (BitVec.ofNat 8 (designated s 0)) (draw 6 s).2 := by
    unfold writeSample
    dsimp only
    rw [if_neg (by simp [h.room]), storeReady_of_untouched h.line h.unheld h.quiet h.restored unmoved]
    dsimp only
    rw [if_neg (by decide)]
    cases noReq
    · rfl
    · rfl
  rw [taken]
  cases noReq
  · obtain ⟨held, next, idle, quiet⟩ := sampled_stored (s := (draw 6 s).2) ⟨h.quiet, h.room, h.restored, h.cmds,
      ⟨h.line.page, h.line.line, h.line.room, h.line.plain, h.line.ops⟩, h.unheld⟩ n
      (smpRecord s n ((draw 6 s).1.toNat % 33) false ||| req) (BitVec.ofNat 8 (designated s 0))
    exact ⟨_, held, next, idle, quiet⟩
  · exact ⟨0, sampled_stored h n _ _⟩

theorem sampleCapture_full {n : Nat} (small : n < 16) (armed : (smpOf s n).armed = true) (quiet : Quiet s) (full : smpFull s = true)
    (op : BitVec 8) (line : Line) (node : Node) (g : Tag) (cls : BitVec 8) (due : Option (BitVec 24)) :
    ∃ t, exec (.sampleCapture n op line node g cls due) s = .next t ∧ t.mgt.smpDropped = true ∧ (smpOf t n).armed = false ∧
      t.quay = s.quay ∧ t.mgt.smpWr = s.mgt.smpWr := by
  have dropped : writeSample n (smpRequest op line node g cls due) false s =
      setSmp n { smpOf s n with armed := false } { s with mgt.smpDropped := true } := if_pos full
  refine ⟨setSmp n { smpOf s n with armed := false } { s with mgt.smpDropped := true }, ?_, rfl, by rw [smpOf_setSmp], rfl, rfl⟩
  show execSampleCapture n op line node g cls due s = _
  unfold execSampleCapture
  rw [if_neg (by simp [armed]; omega), dropped]
  exact congrArg Host.Outcome.next (settle_of_quiet (s := setSmp n _ { s with mgt.smpDropped := true }) quiet)

theorem sampleCapture_stores (h : SampleRoom s) {n : Nat} (small : n < 16) (armed : (smpOf s n).armed = true) (op : BitVec 8) (line : Line)
    (node : Node) (g : Tag) (cls : BitVec 8) (due : Option (BitVec 24)) :
    ∃ t q, exec (.sampleCapture n op line node g cls due) s = .next t ∧ qline t (smpLine s) = some q ∧ q.dirty = true ∧
      q.mask = BitVec.allOnes 64 ∧ q.data.extractLsb' 0 64 = s.time.tide ∧ q.data.extractLsb' 160 39 = line ∧
      q.data.extractLsb' 88 8 = op ∧ q.data.getLsbD 82 = false ∧ q.data.extractLsb' 84 4 = BitVec.ofNat 4 n ∧
      t.mgt.smpWr = s.mgt.smpWr + 1 ∧ (smpOf t n).armed = false := by
  obtain ⟨skid, ⟨q, held, dirty, mask, data⟩, next, idle, quiet⟩ := writeSample_stores h n (smpRequest op line node g cls due) false
  obtain ⟨tide, request, number, none⟩ := smpRecord_fields s n skid false
  obtain ⟨below, unset, other, where', what⟩ := smpRequest_fields op line node g cls due
  have inside (a k : Nat) (low : 88 ≤ a) (high : a + k ≤ 512) : (smpRecord s n skid false).extractLsb' a k = 0 := by
    have part : (smpRecord s n skid false).extractLsb' a k = ((smpRecord s n skid false).extractLsb' 88 424).extractLsb' (a - 88) k := by
      refine BitVec.eq_of_getLsbD_eq fun i small => ?_
      simp [show a - 88 + i < 424 by omega, show 88 + (a - 88 + i) = a + i by omega]
    rw [part, none]
    simp
  refine ⟨settle (writeSample n (smpRequest op line node g cls due) false s), q, ?_, ?_⟩
  · show execSampleCapture n op line node g cls due s = _
    unfold execSampleCapture
    rw [if_neg (by simp [armed]; omega)]
  · rw [settle_of_quiet quiet, data]
    refine ⟨held, dirty, mask, ?_, ?_, ?_, ?_, ?_, next, idle⟩
    · rw [BitVec.extractLsb'_or, tide, below]
      exact BitVec.or_zero
    · rw [BitVec.extractLsb'_or, inside 160 39 (by decide) (by decide), where']
      exact BitVec.zero_or
    · rw [BitVec.extractLsb'_or, inside 88 8 (by decide) (by decide), what]
      exact BitVec.zero_or
    · rw [bit82, BitVec.extractLsb'_or, request, unset]
      rfl
    · rw [BitVec.extractLsb'_or, number, other]
      exact BitVec.or_zero

theorem sampleNoRequest_stores (h : SampleRoom s) {n : Nat} (small : n < 16) (armed : (smpOf s n).armed = true) :
    ∃ t q, exec (.sampleNoRequestTimeout n) s = .next t ∧ qline t (smpLine s) = some q ∧ q.dirty = true ∧
      q.mask = BitVec.allOnes 64 ∧ q.data.extractLsb' 0 64 = s.time.tide ∧ q.data.getLsbD 82 = true ∧
      q.data.extractLsb' 84 4 = BitVec.ofNat 4 n ∧ q.data.extractLsb' 88 424 = 0 ∧
      t.mgt.smpWr = s.mgt.smpWr + 1 ∧ (smpOf t n).armed = false := by
  obtain ⟨skid, ⟨q, held, dirty, mask, data⟩, next, idle, quiet⟩ := writeSample_stores h n 0 true
  obtain ⟨tide, request, number, none⟩ := smpRecord_fields s n skid true
  rw [show smpRecord s n skid true ||| 0 = smpRecord s n skid true from BitVec.or_zero] at data
  refine ⟨settle (writeSample n 0 true s), q, ?_, ?_⟩
  · show execSampleNoRequestTimeout n s = _
    unfold execSampleNoRequestTimeout
    rw [if_neg (by simp [armed]; omega)]
  · rw [settle_of_quiet quiet, data]
    refine ⟨held, dirty, mask, tide, ?_, number, none, next, idle⟩
    rw [bit82, request]
    rfl

theorem samplerThreshold_arms {n : Nat} (small : n < 16) (on : smpOn (smpOf s n) = true)
    (counted : fieldNat (smpOf s n).cfg 27 12 < (smpOf s n).count) :
    exec (.samplerThreshold n) s = .next (setSmp n { smpOf s n with armed := true, count := 0 } s) := by
  show execSamplerThreshold n s = _
  unfold execSamplerThreshold
  exact if_neg (by simp [on]; omega)

theorem sampleRingConsume_done (stall : s.aon.mode ≠ .stall) (watch : s.aon.mode ≠ .watch) (v : BitVec 32) :
    exec (.sampleRingConsume 0 v) s = .next (i3cDone 0 [] { s with mgt.smpRd := v }) := by
  show execSampleRingConsume 0 v s = _
  unfold execSampleRingConsume
  exact if_neg (by simp [stall, watch])

/-! ## Frames and banks (R457 to R459) -/

theorem frameRetired_retires {f : Nat} (auto : s.aon.ceCfg.getLsbD 31 = true)
    (many : fieldNat s.aon.ceCfg 11 4 ≤ frameCorrections s f) (quiet : Quiet s) (free : FrameFree s f) (ops : s.tier.ops = [])
    (waiting : s.dram.retireList = []) : ∃ t, exec (.frameRetired f) s = .next t ∧ fUse (frameEntry t f) = 4 ∧
      ∀ g, g ≠ f → frameEntry t g = frameEntry s g := by
  have marked := framesRetired_retireFrame 2 free waiting ops
  have still : Quiet (retireFrame f 2 s) := quiet_of_kept quiet marked.quay marked.waiters
  refine ⟨retireFrame f 2 s, ?_, ?_, fun g other => marked.frameEntry_of_not_mem (by simpa using other)⟩
  · show execFrameRetired f s = _
    unfold execFrameRetired
    rw [if_pos (by simp [auto, many]), settle_of_quiet still]
  · rw [marked.frameEntry_of_mem (by simp) free.outside]
    rfl

/-- The frames of the bank. -/
def bankFrames (s : State) (b : Nat) : List Nat := (List.range (totalFrames s)).filter (frameInBank s b)

theorem mem_bankFrames {b f : Nat} : f ∈ bankFrames s b ↔ f < totalFrames s ∧ frameInBank s b f = true := by
  simp [bankFrames]

/-- The bank is logged in this window. -/
def bankLogged (b : Nat) (s : State) : State :=
  { s with tier.bankTable := sset {} s.tier.bankTable b { sget {} s.tier.bankTable b with logged := true } }

/-- The bank's log entry. -/
def bankTold (b : Nat) (refused : Bool) (s : State) : State :=
  logIt { cause := 0x0C, loc := BitVec.ofNat 43 (b % 2 ^ 15) ||| place 43 39 (0xF : BitVec 4),
          args := [(sget {} s.tier.bankTable b).count, (sget {} s.tier.bankTable b).dfas.length, if refused then 1 else 0] } (bankLogged b s)

theorem framesRetired_bankTold (b : Nat) (refused : Bool) (s : State) : FramesRetired [] s (bankTold b refused s) := by
  have logged : FramesRetired [] s (bankLogged b s) :=
    ⟨samePlaces_of_ch rfl rfl rfl, rfl, rfl, rfl, rfl, id, fun f => by simp [bankLogged]⟩
  exact logged.trans (framesRetired_of_within (.to (logIt_within ..) rfl (.refl ..)))

theorem bankTold_logged (b : Nat) (refused : Bool) (s : State) : (sget {} (bankTold b refused s).tier.bankTable b).logged = true := by
  have kept : (bankTold b refused s).tier = (bankLogged b s).tier := logIt_tier ..
  rw [kept, show (bankLogged b s).tier.bankTable = sset {} s.tier.bankTable b { sget {} s.tier.bankTable b with logged := true } from rfl,
    sget_sset_same]

/-- The frames that a suspect bank loses under AUTO_RETIRE_BANK. -/
def suspectFrames (b : Nat) (s : State) : List Nat :=
  if s.aon.ceCfg.getLsbD 30 then (List.range (totalFrames (bankLogged b s))).filter (frameInBank (bankLogged b s) b) else []

theorem retireFrame_bankTable {f : Nat} (reason : Nat) (free : FrameFree s f) : (retireFrame f reason s).tier.bankTable = s.tier.bankTable := by
  have marked (u : State) (same : FramesRetired [] s u) : (pursueRetire f u).tier = u.tier := by
    rw [pursueRetire, (same.free free (by simp)).unused]
    rfl
  have noted : FramesRetired [] s (logIt { cause := 0x0B, kind := 2, addr := f * 64, args := [reason] } s) :=
    framesRetired_of_within (.to (logIt_within ..) rfl (.refl ..))
  unfold retireFrame
  split
  · rfl
  · dsimp only
    split
    · rw [marked _ noted, logIt_tier]
    · rw [marked _ (noted.trans (framesRetired_of_within (recordRetired_within ..))), keeps_tier (recordRetired_within ..).same rfl, logIt_tier]

/-- The free frames of a bank, each retired unless it is already. -/
theorem framesRetired_unless (reason : Nat) {l : List Nat} {s : State} (free : ∀ f ∈ l, FrameFree s f) (once : l.Nodup)
    (waiting : s.dram.retireList = []) (ops : s.tier.ops = []) :
    FramesRetired l s (l.foldl (fun t f => if fUse (frameEntry t f) = 4 then t else retireFrame f reason t) s) ∧
      (l.foldl (fun t f => if fUse (frameEntry t f) = 4 then t else retireFrame f reason t) s).tier.bankTable = s.tier.bankTable := by
  induction l generalizing s with
  | nil => exact ⟨framesRetired_of_within (.refl ..), rfl⟩
  | cons f l ih =>
    obtain ⟨fresh, once⟩ := List.nodup_cons.1 once
    have here := free f List.mem_cons_self
    have first := framesRetired_retireFrame reason here waiting ops
    rw [List.foldl_cons, if_neg (by rw [here.unused]; decide)]
    obtain ⟨rest, table⟩ := ih (fun g mem => first.free (free g (List.mem_cons_of_mem f mem))
      (by simpa using ne_of_mem_of_not_mem mem fresh)) once (first.waiting waiting) (first.ops.trans ops)
    exact ⟨first.trans rest, table.trans (retireFrame_bankTable reason here)⟩

section
variable {b : Nat} (many : fieldNat s.aon.ceCfg 29 20 ≤ (sget {} s.tier.bankTable b).count) (quiet : Quiet s)
  (distinct : 4 ≤ (sget {} s.tier.bankTable b).dfas.length) (new : (sget {} s.tier.bankTable b).logged = false)
include many quiet distinct new

omit quiet in
theorem exec_bankSuspect : exec (.bankSuspect b) s = .next (settle
    (if s.aon.ceCfg.getLsbD 30 && !(suspectFrames b s).any (fun f => (regionOf (bankLogged b s) f).isSome) then
      autoRetireBank b (suspectFrames b s) (bankTold b ((suspectFrames b s).any (fun f => (regionOf (bankLogged b s) f).isSome)) s)
    else bankTold b ((suspectFrames b s).any (fun f => (regionOf (bankLogged b s) f).isSome)) s)) := by
  show execBankSuspect b s = _
  unfold execBankSuspect
  exact if_neg (by simp [new, many, distinct])

theorem bankSuspect_told (manual : s.aon.ceCfg.getLsbD 30 = false) :
    ∃ t, exec (.bankSuspect b) s = .next t ∧ (sget {} t.tier.bankTable b).logged = true ∧ t.dram = s.dram := by
  have told := framesRetired_bankTold b false s
  have still : Quiet (bankTold b false s) := quiet_of_kept quiet told.quay told.waiters
  have none : suspectFrames b s = [] := if_neg (by rw [manual]; decide)
  refine ⟨bankTold b false s, ?_, bankTold_logged .., logIt_dram ..⟩
  rw [exec_bankSuspect many distinct new, none, manual, ← settle_of_quiet still]
  rfl

theorem bankSuspect_retires (auto : s.aon.ceCfg.getLsbD 30 = true) (ops : s.tier.ops = []) (waiting : s.dram.retireList = [])
    (frames : ∀ f, f < totalFrames s → frameInBank s b f = true → regionOf s f = none ∧ fUse (frameEntry s f) = 0) :
    ∃ t, exec (.bankSuspect b) s = .next t ∧ (sget {} t.tier.bankTable b).logged = true ∧
      ∀ f, f < totalFrames s → frameInBank s b f = true → fUse (frameEntry t f) = 4 := by
  have lost : suspectFrames b s = bankFrames s b := by
    have places : SamePlaces s (bankLogged b s) := samePlaces_of_ch rfl rfl rfl
    rw [suspectFrames, if_pos auto, totalFrames_of_samePlaces places, frameInBank_of_samePlaces places, bankFrames]
  have free : ∀ f ∈ bankFrames s b, FrameFree s f := fun f mem => by
    obtain ⟨small, inBank⟩ := mem_bankFrames.1 mem
    obtain ⟨outside, unused⟩ := frames f small inBank
    exact ⟨outside, small, unused⟩
  have clear : (bankFrames s b).any (fun f => (regionOf (bankLogged b s) f).isSome) = false := by
    rw [List.any_eq_false]
    intro f mem
    rw [regionOf_of_kept (t := bankLogged b s) (s := s) rfl rfl, (free f mem).outside]
    simp
  have told : FramesRetired [] s (bankRecorded b (bankTold b false s)) :=
    (framesRetired_bankTold b false s).trans (framesRetired_bankRecorded b _)
  obtain ⟨marked, table⟩ := framesRetired_unless 4 (fun f mem => told.free (free f mem) (by simp)) (List.nodup_range.filter _)
    (told.waiting waiting) (told.ops.trans ops)
  have retired := told.trans marked
  have logged : (sget {} (bankRecorded b (bankTold b false s)).tier.bankTable b).logged = true := by
    rw [bankRecorded, keeps_tier (recordRetired_within ..).same rfl]
    exact bankTold_logged ..
  refine ⟨autoRetireBank b (bankFrames s b) (bankTold b false s), ?_, ?_, fun f small inBank => ?_⟩
  · rw [exec_bankSuspect many distinct new, lost, clear, if_pos (by simp [auto])]
    exact congrArg Host.Outcome.next (settle_of_quiet (quiet_of_kept quiet retired.quay retired.waiters))
  · exact (congrArg (fun m => (sget ({} : BankCe) m b).logged) table).trans logged
  · have mem := mem_bankFrames.2 ⟨small, inBank⟩
    exact congrArg fUse (retired.frameEntry_of_mem (by simpa using mem) (free f mem).outside)

end

/-- Settles O46: a record is stored as a line of the device's own, and a retirement marks the free frames that it names. -/
theorem samplesAndCorrections : Obligations.SamplesAndCorrections := by
  refine ⟨fun s n small on counted => samplerThreshold_arms small on counted, fun s n op line node g cls due small armed quiet =>
    ⟨fun full => sampleCapture_full small armed quiet full op line node g cls due, fun room restored cmds untouched unheld => ?_⟩,
    fun s v stall watch => sampleRingConsume_done stall watch v, fun s => rfl,
    fun s f auto many quiet inside outside unused ops waiting =>
      frameRetired_retires auto many quiet ⟨outside, inside, unused⟩ ops waiting,
    fun s b many quiet distinct new => ⟨bankSuspect_told many quiet distinct new, bankSuspect_retires many quiet distinct new⟩⟩
  have h : SampleRoom s := ⟨quiet, room, restored, cmds, untouched, unheld⟩
  exact ⟨sampleCapture_stores h small armed op line node g cls due, sampleNoRequest_stores h small armed⟩

end

end Sys2Proof.Laws
end

section
/-! PROOFS. Gaits and the two-phase sleep entry (R399 to R403). -/

namespace Sys2Proof.Laws

open Sys2Proof Sys2Proof.Machine

section
variable {s : State}

/-! ## Gaits (R399) -/

/-- The gait registers of AON. -/
def gaitRegs (s : State) : BitVec 2 × BitVec 2 × BitVec 3 := (s.aon.gait, s.aon.gaitMax, s.aon.tolSrc)

theorem coreSupply_gaitRegs (s : State) : gaitRegs (coreSupply s) = gaitRegs s := by
  obtain ⟨v, aon⟩ := coreSupply_aon s
  simp only [gaitRegs, aon]

theorem foldl_modDom_gaitRegs (f : Nat → Domain → Domain) (l : List Nat) (s : State) :
    gaitRegs (l.foldl (fun t n => modDom n (f n) t) s) = gaitRegs s :=
  foldl_keeps (f := fun t n => modDom n (f n) t) gaitRegs (fun _ _ => rfl) l s

theorem wakeGroup_gaitRegs (g : Nat) (s : State) : gaitRegs (wakeGroup g s) = gaitRegs s := by
  unfold wakeGroup
  rw [coreSupply_gaitRegs]
  exact foldl_modDom_gaitRegs _ _ _

theorem wakeUnpermitted_gaitRegs (s : State) : gaitRegs (wakeUnpermitted s) = gaitRegs s := by
  refine foldl_keeps gaitRegs (fun t g => ?_) _ s
  split
  · rfl
  · split
    · exact wakeGroup_gaitRegs g t
    · exact foldl_modDom_gaitRegs _ _ _
    · exact foldl_modDom_gaitRegs _ _ _
    · rfl

theorem setGait_gaitRegs (g : Nat) (s : State) : gaitRegs (setGait g s) = (BitVec.ofNat 2 g, s.aon.gaitMax, s.aon.tolSrc) := by
  unfold setGait
  rw [coreSupply_gaitRegs, wakeUnpermitted_gaitRegs]
  rfl

/-- TOL_SRC has followed T. -/
def tolNoted (s : State) : State := { s with aon.tolSrc := BitVec.ofNat 3 (tolerance s).2 }

theorem gaitGoal_tolNoted (s : State) : gaitGoal (tolNoted s) = gaitGoal s := rfl

theorem noteTol_service (mode : s.aon.mode = .service) : noteTol s = tolNoted s := if_pos mode

theorem gaitFall_service (mode : s.aon.mode = .service) :
    gaitFall s = if gaitGoal s < s.aon.gait.toNat then setGait (gaitGoal s) (tolNoted s) else tolNoted s := by
  have still : (tolNoted s).aon.mode = .service := mode
  unfold gaitFall
  rw [noteTol_service mode]
  simp only [still, gaitGoal_tolNoted, show (tolNoted s).aon.gait = s.aon.gait from rfl, decide_true, Bool.true_and, decide_eq_true_eq]

theorem setGait_regs (s : State) : (setGait (gaitGoal s) (tolNoted s)).aon.gait = BitVec.ofNat 2 (gaitGoal s) ∧
    (setGait (gaitGoal s) (tolNoted s)).aon.gaitMax = s.aon.gaitMax ∧
    (setGait (gaitGoal s) (tolNoted s)).aon.tolSrc = BitVec.ofNat 3 (tolerance s).2 := by
  have regs := setGait_gaitRegs (gaitGoal s) (tolNoted s)
  simp only [gaitRegs, Prod.mk.injEq] at regs
  exact regs

theorem gaitChange_falls (mode : s.aon.mode = .service) (less : gaitGoal s < s.aon.gait.toNat) :
    ∃ t, exec .gaitChange s = .next t ∧ t.aon.gait = BitVec.ofNat 2 (gaitGoal s) ∧ t.aon.gaitMax = s.aon.gaitMax ∧
      t.aon.tolSrc = BitVec.ofNat 3 (tolerance s).2 :=
  ⟨_, congrArg Host.Outcome.next ((gaitFall_service mode).trans (if_pos less)), setGait_regs s⟩

theorem gaitChange_stays (mode : s.aon.mode = .service) (permitted : s.aon.gait.toNat ≤ gaitGoal s) :
    exec .gaitChange s = .next (tolNoted s) :=
  congrArg Host.Outcome.next ((gaitFall_service mode).trans (if_neg (by omega)))

theorem gaitDeepen_deepens (mode : s.aon.mode = .service) (more : s.aon.gait.toNat < gaitGoal s) :
    ∃ t, exec .gaitDeepen s = .next t ∧ t.aon.gait = BitVec.ofNat 2 (gaitGoal s) ∧ t.aon.gaitMax = s.aon.gaitMax := by
  obtain ⟨gait, most, -⟩ := setGait_regs s
  have still : (tolNoted s).aon.mode = .service := mode
  refine ⟨setGait (gaitGoal s) (tolNoted s), ?_, gait, most⟩
  show execGaitDeepen s = _
  unfold execGaitDeepen
  rw [noteTol_service mode]
  simp only [still, gaitGoal_tolNoted, show (tolNoted s).aon.gait = s.aon.gait from rfl, decide_true, Bool.true_and, decide_eq_true_eq]
  rw [if_pos more]

/-! ## PREPARE and COMMIT (R400, R401, R403) -/

theorem domBar_of_kept {t : State} (ch : t.dram.ch = s.dram.ch) (n : Nat) : domBar t n = domBar s n := by
  unfold domBar chan
  rw [ch]

/-- The domains without a bar agree. -/
theorem domOf_foldl_agreed (l : List Nat) (s : State) (n : Nat) :
    domOf (l.foldl (fun t k => if domBar t k then t else modDom k (fun d => { d with st := .prepared }) t) s) n =
      if n ∈ l ∧ domBar s n = false then { domOf s n with st := .prepared } else domOf s n := by
  induction l generalizing s with
  | nil => simp
  | cons k l ih =>
    rw [List.foldl_cons]
    cases bar : domBar s k
    · have still (m : Nat) : domBar (modDom k (fun d => { d with st := .prepared }) s) m = domBar s m := domBar_of_kept rfl m
      rw [if_neg (by decide), ih, still]
      by_cases here : n = k
      · subst here
        simp [bar]
      · rw [domOf_modDom_other here]
        simp only [List.mem_cons, here, false_or]
    · rw [if_pos rfl, ih]
      by_cases here : n = k
      · subst here
        simp [bar]
      · simp only [List.mem_cons, here, false_or]

theorem grpOf_foldl_agreed (l : List Nat) (g : Nat) (s : State) :
    grpOf (l.foldl (fun t k => if domBar t k then t else modDom k (fun d => { d with st := .prepared }) t) s) g = grpOf s g := by
  refine foldl_keeps (grpOf · g) (fun t k => ?_) l s
  split
  · rfl
  · rfl

theorem groupIdleExpiry_prepares {g : Nat} (mode : s.aon.mode = .service) (unheld : s.mgt.holdGallop = false)
    (permits : gaitPermits s s.aon.gait.toNat g = true) (awake : (grpOf s g).phase = .awake) (ready : (grpOf s g).running = false)
    (idle : ∀ n ∈ groupDoms s g, (domOf s n).st = .awake ∧ domBusy s n = false) :
    ∃ t, exec (.groupIdleExpiry g) s = .next t ∧ (grpOf t g).phase = .prepare ∧
      (∀ n ∈ groupDoms s g, (domOf t n).st = if domBar s n then .awake else .prepared) ∧
      (∀ n, n ∉ groupDoms s g → domOf t n = domOf s n) := by
  have all : (groupDoms s g).all (fun n => (domOf s n).st = .awake && !domBusy s n) = true := by
    rw [List.all_eq_true]
    intro n mem
    simp [idle n mem]
  refine ⟨(groupDoms s g).foldl (fun t n => if domBar t n then t else modDom n (fun d => { d with st := .prepared }) t)
      (setGrp g { grpOf s g with phase := .prepare } s), ?_, ?_, fun n mem => ?_, fun n other => ?_⟩
  · show execGroupIdleExpiry g s = _
    unfold execGroupIdleExpiry
    dsimp only
    rw [all, permits, if_neg (by simp [mode, unheld, awake, ready])]
  · rw [grpOf_foldl_agreed, grpOf_setGrp]
  · rw [domOf_foldl_agreed, domBar_of_kept (s := s) rfl]
    show (if n ∈ groupDoms s g ∧ domBar s n = false then { domOf s n with st := .prepared } else domOf s n : Domain).st = _
    cases bar : domBar s n
    · rw [if_pos ⟨mem, rfl⟩]
      rfl
    · rw [if_neg (by simp), (idle n mem).1]
      rfl
  · rw [domOf_foldl_agreed, if_neg (fun h => other h.1)]
    rfl

/-- What RSV_REVOKE moves leaves the domains and the groups alone. -/
theorem revokeAll_traffic (n : Nat) (s : State) : OnlyTraffic s (revokeAll n s) := by
  unfold revokeAll
  generalize s.noc.unused.filter _ = l
  induction l generalizing s with
  | nil => exact .refl s
  | cons e l ih => exact (sendRsv_traffic ..).trans (ih ..)

theorem OnlyTraffic.grp {t : State} (h : OnlyTraffic s t) : t.noc.grp = s.noc.grp := by
  obtain ⟨_, _, _, _, _, rfl⟩ := h
  rfl

theorem OnlyTraffic.domOf {t : State} (h : OnlyTraffic s t) (n : Nat) : domOf t n = Machine.domOf s n := by
  unfold Machine.domOf
  rw [h.dom]

/-- The domain stops granting. -/
def domCommitted (s : State) (n : Nat) : State := revokeAll n (modDom n (fun d => { d with st := .entering }) s)

theorem domOf_domCommitted (s : State) (k n : Nat) :
    domOf (domCommitted s k) n = if n = k then { domOf s n with st := .entering } else domOf s n := by
  rw [domCommitted, (revokeAll_traffic ..).domOf]
  by_cases here : n = k
  · subst here
    rw [if_pos rfl, domOf_modDom]
  · rw [if_neg here, domOf_modDom_other here]

theorem domOf_foldl_committed (l : List Nat) (s : State) (n : Nat) :
    domOf (l.foldl domCommitted s) n = if n ∈ l then { domOf s n with st := .entering } else domOf s n := by
  induction l generalizing s with
  | nil => rfl
  | cons k l ih =>
    rw [List.foldl_cons, ih, domOf_domCommitted]
    by_cases here : n = k
    · subst here
      simp
    · simp only [List.mem_cons, here, if_false, false_or]

theorem grpOf_foldl_committed (l : List Nat) (g : Nat) (s : State) : grpOf (l.foldl domCommitted s) g = grpOf s g := by
  refine foldl_keeps (grpOf · g) (fun t k => ?_) l s
  unfold domCommitted grpOf
  rw [(revokeAll_traffic ..).grp]
  rfl

theorem prepareAllAgreed_commits {g : Nat} (prepare : (grpOf s g).phase = .prepare)
    (agreed : ∀ n ∈ groupDoms s g, (domOf s n).st = .prepared ∧ domBusy s n = false) :
    ∃ t, exec (.prepareAllAgreed g) s = .next t ∧ (grpOf t g).phase = .commit ∧
      (∀ n ∈ groupDoms s g, (domOf t n).st = .entering) ∧ (∀ n, n ∉ groupDoms s g → domOf t n = domOf s n) := by
  have all : (groupDoms s g).all (fun n => (domOf s n).st = .prepared && !domBusy s n) = true := by
    rw [List.all_eq_true]
    intro n mem
    simp [agreed n mem]
  have counted (n : Nat) : domOf (evMgt 0 12 (modGrp g (fun x => { x with phase := .commit }) s)) n = domOf s n := domOf_of_noc (evMgt_noc ..) n
  refine ⟨(groupDoms s g).foldl domCommitted (evMgt 0 12 (modGrp g (fun x => { x with phase := .commit }) s)), ?_, ?_, fun n mem => ?_,
    fun n other => ?_⟩
  · show execPrepareAllAgreed g s = _
    unfold execPrepareAllAgreed
    dsimp only
    rw [all, if_neg (by simp [prepare])]
    rfl
  · rw [grpOf_foldl_committed]
    unfold grpOf
    rw [evMgt_noc]
    exact congrArg Group.phase (grpOf_modGrp g _ s)
  · rw [domOf_foldl_committed, if_pos mem]
  · rw [domOf_foldl_committed, if_neg other, counted]

/-! ## Refusals (R402) -/

/-- A prepared domain resumes. -/
def resumed (d : Domain) : Domain := if d.st = .prepared then { d with st := .awake } else d

theorem resumed_st (d : Domain) : (resumed d).st ≠ .prepared := by
  unfold resumed
  split
  · exact (by decide : DomSt.awake ≠ .prepared)
  · assumption

theorem resumed_twice (d : Domain) : resumed (resumed d) = resumed d := if_neg (resumed_st d)

theorem resumed_refusals (d : Domain) : (resumed d).refusals = d.refusals := by
  unfold resumed
  split <;> rfl

/-- The domains of the group have resumed. -/
def groupResumed (g : Nat) (s : State) : State := (groupDoms s g).foldl (fun t n => modDom n resumed t) s

theorem domOf_groupResumed (g n : Nat) (s : State) :
    domOf (groupResumed g s) n = if n ∈ groupDoms s g then resumed (domOf s n) else domOf s n :=
  domOf_foldl_modDom resumed_twice ..

theorem grpOf_groupResumed (g k : Nat) (s : State) : grpOf (groupResumed g s) k = grpOf s k :=
  foldl_keeps (f := fun t n => modDom n resumed t) (grpOf · k) (fun _ _ => rfl) _ s

theorem aon_groupResumed (g : Nat) (s : State) : (groupResumed g s).aon = s.aon :=
  foldl_keeps (f := fun t n => modDom n resumed t) State.aon (fun _ _ => rfl) _ s

/-- The group of a refusal, with its back-off. -/
def backedOff (g : Nat) (s : State) : Group :=
  { grpOf s g with phase := .awake, running := true,
                   backoff := if (grpOf s g).backoff = 0 then backoffBase s else min 64 (2 * (grpOf s g).backoff) }

/-- The refusal of a domain is counted. -/
def refusalCounted (n : Nat) (s : State) : State :=
  setDom n { domOf s n with refusals := (domOf s n).refusals + 1, refLogged := true } s

/-- The network after a refusal. -/
theorem refuseEntry_noc (g n reason : Nat) (s : State) :
    (refuseEntry g n reason s).noc = (setGrp g (backedOff g s) (refusalCounted n (groupResumed g s))).noc := by
  have same (t : State) (noc : t.noc = (refusalCounted n (groupResumed g s)).noc) (aon : t.aon = s.aon) :
      (setGrp g { grpOf (groupResumed g s) g with
        phase := .awake, running := true,
        backoff := if (grpOf (groupResumed g s) g).backoff = 0 then backoffBase t else min 64 (2 * (grpOf (groupResumed g s) g).backoff) } t).noc =
        (setGrp g (backedOff g s) (refusalCounted n (groupResumed g s))).noc := by
    unfold setGrp backedOff
    rw [noc, grpOf_groupResumed, backoffBase, aon, backoffBase]
  have resumed' : (refusalCounted n (groupResumed g s)).aon = s.aon := aon_groupResumed g s
  unfold refuseEntry
  dsimp only
  rw [evMgt_noc]
  refine same _ ?_ ?_
  · split
    · rfl
    · exact logIt_noc ..
  · split
    · exact resumed'
    · exact (logIt_aon ..).trans resumed'

theorem domOf_refusalCounted (n m : Nat) (s : State) : (domOf (refusalCounted n s) m).st = (domOf s m).st := by
  unfold refusalCounted
  by_cases here : m = n
  · rw [here, domOf_setDom]
  · rw [domOf_setDom_other here]

theorem refuseEntry_aborts (g n reason : Nat) (s : State) : (grpOf (refuseEntry g n reason s) g).phase = .awake ∧
    (grpOf (refuseEntry g n reason s) g).running = true ∧
    (grpOf (refuseEntry g n reason s) g).backoff = (if (grpOf s g).backoff = 0 then backoffBase s else min 64 (2 * (grpOf s g).backoff)) ∧
    (domOf (refuseEntry g n reason s) n).refusals = (domOf s n).refusals + 1 ∧
    ∀ m ∈ groupDoms s g, (domOf (refuseEntry g n reason s) m).st ≠ .prepared := by
  have group : grpOf (refuseEntry g n reason s) g = backedOff g s := by
    unfold grpOf
    rw [refuseEntry_noc]
    exact grpOf_setGrp ..
  have domain (m : Nat) : domOf (refuseEntry g n reason s) m = domOf (refusalCounted n (groupResumed g s)) m := by
    unfold domOf
    rw [refuseEntry_noc]
    rfl
  refine ⟨congrArg Group.phase group, congrArg Group.running group, congrArg Group.backoff group, ?_, fun m mem => ?_⟩
  · rw [domain, refusalCounted, domOf_setDom, domOf_groupResumed]
    split
    · rw [resumed_refusals]
    · rfl
  · rw [domain, domOf_refusalCounted, domOf_groupResumed, if_pos mem]
    exact resumed_st _

/-- Settles O42: each of a gait's and an entry's steps changes only the records that it names. -/
theorem gaitsAndSleepEntries : Obligations.GaitsAndSleepEntries := by
  refine ⟨fun s mode => ⟨gaitChange_falls mode, gaitChange_stays mode, gaitDeepen_deepens mode⟩,
    fun s g mode unheld permits awake ready idle => groupIdleExpiry_prepares mode unheld permits awake ready idle,
    fun s g prepare agreed => prepareAllAgreed_commits prepare agreed, fun s n prepare => ⟨fun r some' known => ?_, ?_⟩, fun s g => rfl⟩
  · refine ⟨_, congrArg Host.Outcome.next (if_pos ?_), refuseEntry_aborts (domGroup s n) n r.toNat s⟩
    simp [prepare, some', known]
  · obtain ⟨phase, running, -, refusals, resumed⟩ := refuseEntry_aborts (domGroup s n) n 5 s
    exact ⟨_, congrArg Host.Outcome.next (if_pos prepare), phase, running, refusals, resumed⟩

end

end Sys2Proof.Laws
end

section
/-! PROOFS. Harness patches (R379). -/

namespace Sys2Proof.Laws

open Sys2Proof Sys2Proof.Machine

section
variable {s : State}

/-! ## GO (R379) -/

theorem evAdd_patchStat (id n : Nat) (s : State) : (evAdd id n s).mgt.patchStat = s.mgt.patchStat := by
  unfold evAdd
  split <;> rfl

theorem logIt_patchStat (r : LogRec) (s : State) : (logIt r s).mgt.patchStat = s.mgt.patchStat := by
  unfold logIt
  dsimp only
  split
  · rfl
  · exact evAdd_patchStat ..

theorem rejectPatch_patchStat (code detail seq : Nat) (s : State) :
    (rejectPatch code detail seq s).mgt.patchStat = mkPatchStat detail code false false := by
  unfold rejectPatch
  exact (evAdd_patchStat ..).trans (logIt_patchStat ..)

theorem rejectPatch_aon (code detail seq : Nat) (s : State) : (rejectPatch code detail seq s).aon = s.aon :=
  keeps_aon (rejectPatch_within ..).same rfl rfl

theorem rejectPatch_cfg (code detail seq : Nat) (s : State) : (rejectPatch code detail seq s).cfg = s.cfg :=
  keeps_cfg (rejectPatch_within ..).same rfl

section
variable (stall : s.aon.mode ≠ .stall) (watch : s.aon.mode ≠ .watch) (runs : sget false s.mgt.fwRuns 0 = true)
include stall watch runs

theorem exec_go : exec (.go 0) s = .next (regDone 0 (some 0) (startPatch s).1 (startPatch s).2) := by
  show execGo 0 s = _
  unfold execGo
  exact if_neg (by simp [stall, watch, runs])

theorem go_busy (busy : patchBusy s = true) : ∃ t, exec (.go 0) s = .next t ∧ t.aon.i3cStatus = 1 ∧ t.mgt.patchStat = s.mgt.patchStat ∧
    t.aon.patchSeq = s.aon.patchSeq ∧ t.cfg = s.cfg := by
  have started : startPatch s = (false, s) := if_pos busy
  refine ⟨evMgt 0 4 (i3cDone 1 [] s), ?_, ?_, evAdd_patchStat .., ?_, evMgt_cfg ..⟩
  · rw [exec_go stall watch runs, started]
    rfl
  · rw [evMgt_aon]
    rfl
  · rw [evMgt_aon]
    rfl

theorem go_elsewhere (idle : patchBusy s = false) (service : s.aon.mode ≠ .service) (maintenance : s.aon.mode ≠ .maintenance) :
    ∃ t, exec (.go 0) s = .next t ∧ t.aon.i3cStatus = 0 ∧ t.mgt.patchStat = mkPatchStat 0 0x0C false false ∧
      t.aon.patchSeq = s.aon.patchSeq ∧ t.cfg = s.cfg := by
  have started : startPatch s = (true, rejectPatch 0x0C 0 0 s) := by
    unfold startPatch
    dsimp only
    rw [if_neg (by simp [idle]), if_neg (by simp [service, maintenance])]
  refine ⟨i3cDone 0 [] (rejectPatch 0x0C 0 0 s), ?_, rfl, rejectPatch_patchStat .., (congrArg Aon.patchSeq (rejectPatch_aon 0x0C 0 0 s) :),
    rejectPatch_cfg ..⟩
  rw [exec_go stall watch runs, started, regDone_ok]

end

/-! ## What a patch puts into effect in Service (R237, R332, R381) -/

/-- The class records of a patch wait for the next window. -/
def classesPatched (old s : State) : State :=
  if ((sectionRecs s 4).take 256).isEmpty then s
  else
    { s with cfg := sset [] s.cfg 4 ((List.range 256).map (classRec old) ++ (sectionRecs s 4).drop 256),
             reins.newRec := (((sectionRecs s 4).take 256).zipIdx).foldl (fun m p =>
               if ((List.range 256).map (classRec old)).getD p.2 0 = p.1 then m else sset none m p.2 (some p.1)) [] }

/-- A new window length waits for the next window. -/
def windowPatched (old s : State) : State :=
  if param s 0x08 0 = param old 0x08 0 then s else { s with reins.window := some (s.reins.window.getD (param old 0x08 0)) }

/-- The parameters of Table 9.11 wait for the port's next training. -/
def portsPatched (old s : State) : State :=
  (List.range (numPorts s)).foldl (fun t p => (List.range 13).foldl (fun t i =>
    if paramAt t 0x09 i p = paramAt old 0x09 i p then t
    else modPort p (fun q => if (sget none q.latch i).isSome then q else
      { q with latch := sset none q.latch i (some (paramAt old 0x09 i p)) }) t) t) s

/-- The route records wait for the new epoch. -/
def routesPatched (im : List (BitVec 128)) (old s : State) : State :=
  if !((patchSecs im).any (fun c => c.ty = 5)) || effSection old 5 = effSection s 5 then s
  else
    { s with
      noc.routes := s.noc.routes.filter (fun e => e.1 / 288 ≠ (if s.noc.epoch then 0 else 288) / 288) ++
        ((sectionRecs s 5).take (posLen s.fuse.variantH 5)).zipIdx.map (fun p => ((if s.noc.epoch then 0 else 288) + p.2, p.1)),
      noc.ackPending := true }

/-- The state before SSDs are replaced. -/
def recordsPatched (im : List (BitVec 128)) (s : State) : State :=
  routesPatched im s (portsPatched s (windowPatched s (classesPatched s (takePatch im s))))

/-- The SSDs that a patch replaces in Maintenance. -/
def ssdsPatched (im : List (BitVec 128)) (old s : State) : List Nat :=
  let changed := (ssdIndices s).filter (fun i =>
    (recsOf s 9 0x38).find? (fun r => fieldNat r 12 8 = i) ≠ (recsOf old 9 0x38).find? (fun r => fieldNat r 12 8 = i))
  if (patchSecs im).any (fun c => c.ty = 9) && s.aon.mode = .maintenance then
    changed ++ ((ssdIndices s).filter (fun i => (ssdOf s i).failed && !changed.contains i &&
      (patchSecs im).any (fun c => c.ty = 9 && (secRecs im c).any (fun r => fieldNat r 7 0 = 0x38 && fieldNat r 12 8 = i))))
  else []

theorem applyPatch_eq (im : List (BitVec 128)) (s : State) :
    applyPatch im s = (ssdsPatched im s (recordsPatched im s)).foldl (fun t i => replaceSsd i t) (recordsPatched im s) := by
  unfold applyPatch
  extract_lets old taken had pos was before classes counts window ports base recs noc routes changed swapped
  have first : classes = classesPatched s taken := rfl
  clear_value classes
  have second : window = windowPatched s classes := rfl
  clear_value window
  have third : ports = portsPatched s window := rfl
  clear_value ports
  have fourth : routes = routesPatched im s ports := rfl
  clear_value routes
  have fifth : swapped = ssdsPatched im s routes := rfl
  rw [fifth, fourth, third, second, first]
  rfl

/-- What a patch does not touch. -/
def patchKept (s : State) : Aon × Quay × List Waiter × Ledger := (s.aon, s.quay, s.reins.waiters, s.led)

theorem recordsPatched_kept (im : List (BitVec 128)) (s : State) : patchKept (recordsPatched im s) = patchKept (takePatch im s) := by
  have classes (t : State) : patchKept (classesPatched s t) = patchKept t := by
    unfold classesPatched
    split <;> rfl
  have window (t : State) : patchKept (windowPatched s t) = patchKept t := by
    unfold windowPatched
    split <;> rfl
  have ports (t : State) : patchKept (portsPatched s t) = patchKept t := by
    refine foldl_keeps patchKept (fun u p => foldl_keeps patchKept (fun u i => ?_) _ u) _ t
    split <;> rfl
  have routes (t : State) : patchKept (routesPatched im s t) = patchKept t := by
    unfold routesPatched
    split <;> rfl
  rw [recordsPatched, routes, ports, window, classes]

/-- No SSD is replaced in Service. -/
theorem applyPatch_service (mode : s.aon.mode = .service) (im : List (BitVec 128)) : applyPatch im s = recordsPatched im s := by
  have still : (recordsPatched im s).aon.mode = .service := by
    have aon : (recordsPatched im s).aon = (takePatch im s).aon := congrArg (·.1) (recordsPatched_kept im s)
    rw [aon]
    exact mode
  have none : ssdsPatched im s (recordsPatched im s) = [] := if_neg (by simp [still])
  rw [applyPatch_eq, none]
  rfl

/-! ## The verdict (R379) -/

/-- The patch is in effect and logged as done. -/
def patchDone (im : List (BitVec 128)) (s : State) : State :=
  let c := norCopy s s.aon.copyB
  let t := recordsPatched im (setNorCopy s.aon.copyB
    { c with log := c.log ++ [{ image := im, seq := BitVec.ofNat 32 (imgPatchSeq im), commit := true }] } s)
  evMgt 0 6 (logIt { cause := 0x63, args := [imgPatchSeq im, ((patchSecs im).map (fun c => 2 ^ c.ty)).foldl (· + ·) 0] }
    { t with mgt.patchStat := mkPatchStat 0 1 false false, mgt.holdGallop := false })

theorem patchDone_kept (im : List (BitVec 128)) (s : State) : patchKept (patchDone im s) = patchKept (takePatch im s) := by
  have counted (a b : Nat) (t : State) : patchKept (evMgt a b t) = patchKept t := by
    unfold patchKept
    rw [evMgt_aon, evMgt_quay, evMgt_reins, evMgt_led]
  have logged (r : LogRec) (t : State) : patchKept (logIt r t) = patchKept t := by
    unfold patchKept
    rw [logIt_aon, logIt_quay, logIt_reins, logIt_led]
  have stored (b : Bool) (c : NorCopy) : patchKept (takePatch im (setNorCopy b c s)) = patchKept (takePatch im s) := by
    unfold setNorCopy
    split <;> rfl
  unfold patchDone
  dsimp only
  rw [counted, logged]
  exact (recordsPatched_kept ..).trans (stored ..)

theorem patchDone_patchStat (im : List (BitVec 128)) (s : State) : (patchDone im s).mgt.patchStat = mkPatchStat 0 1 false false := by
  unfold patchDone
  exact (evAdd_patchStat ..).trans (logIt_patchStat ..)

theorem commitPatch_service (mode : s.aon.mode = .service) (im : List (BitVec 128)) :
    commitPatch im s = settle (refreshPA (packQueued (patchDone im s))) := by
  unfold commitPatch
  dsimp only
  rw [applyPatch_service]
  · rfl
  · rw [keeps_aon (setNorCopy_within ..).same rfl rfl]
    exact mode

section
variable {im : List (BitVec 128)} (mode : s.aon.mode = .service) (quiet : Quiet s) (queue : s.led.queue = [])
include mode quiet queue

/-- The patch is committed. -/
theorem commitPatch_commits : Quiet (commitPatch im s) ∧ (commitPatch im s).mgt.patchStat = mkPatchStat 0 1 false false ∧
    (commitPatch im s).aon.patchSeq = BitVec.ofNat 8 (imgPatchSeq im) ∧
    (commitPatch im s).aon.effDigest = chainDigest s.aon.effDigest (imgDigest im) := by
  have kept := patchDone_kept im s
  simp only [patchKept, Prod.mk.injEq] at kept
  obtain ⟨aon, quay, waiters, led⟩ := kept
  have still : Quiet (patchDone im s) := quiet_of_kept quiet quay waiters
  have done : commitPatch im s = refreshPA (patchDone im s) := by
    rw [commitPatch_service mode, packQueued_of_queueEmpty ((congrArg Ledger.queue led).trans queue),
      settle_of_quiet (quiet_refreshPA still)]
  obtain ⟨bits, changes, regs⟩ := refreshPA_aon (patchDone im s)
  rw [done, regs, aon, keeps_mgt (refreshPA_within ..).same rfl]
  exact ⟨quiet_refreshPA still, patchDone_patchStat im s, rfl, rfl⟩

omit mode queue in
theorem rejectPatch_quiet (code detail seq : Nat) : Quiet (rejectPatch code detail seq s) :=
  quiet_of_kept quiet (within_quay (rejectPatch_within ..) rfl) (congrArg Reins.waiters (within_reins (rejectPatch_within ..) rfl))

variable (plain : ∀ c ∈ imgSecs im, c.ty ≠ 5 ∧ c.ty ≠ 6)
include plain

omit quiet queue in
/-- A patch without routes and power groups is judged at once. -/
theorem judgePatch_plain : judgePatch im s = if (patchFault s true false im).1 = 0 then
      (if logFull s im then rejectPatch 0x0A 0 (imgPatchSeq im) s else commitPatch im s)
    else rejectPatch (patchFault s true false im).1 (patchFault s true false im).2 (imgPatchSeq im) s := by
  have names (ty : Nat) (other : ∀ c ∈ imgSecs im, c.ty ≠ ty) :
      (headerOk 2 im && (imgSecs im).any (fun c => c.ty = ty)) = false := by
    rw [Bool.and_eq_false_iff, List.any_eq_false]
    exact .inr fun c mem => by simpa using other c mem
  have routes := names 5 fun c mem => (plain c mem).1
  have groups := names 6 fun c mem => (plain c mem).2
  have outside : decide (s.aon.mode = .maintenance) = false := by simp [mode]
  unfold judgePatch
  dsimp only
  rw [if_neg (by rw [routes]; simp), outside]
  obtain ⟨code, detail⟩ := patchFault s true false im
  cases code
  · simp only [groups, Bool.false_and, Bool.false_eq_true, if_false, if_true]
  · rfl

theorem judgePatch_verdict : Quiet (judgePatch im s) ∧
    (patchFault s true false im = (0, 0) → logFull s im = false →
      (judgePatch im s).mgt.patchStat = mkPatchStat 0 1 false false ∧
      (judgePatch im s).aon.patchSeq = BitVec.ofNat 8 (imgPatchSeq im) ∧
      (judgePatch im s).aon.effDigest = chainDigest s.aon.effDigest (imgDigest im)) ∧
    (∀ code detail, code ≠ 0 → patchFault s true false im = (code, detail) →
      (judgePatch im s).mgt.patchStat = mkPatchStat detail code false false ∧ (judgePatch im s).cfg = s.cfg ∧
      (judgePatch im s).aon.patchSeq = s.aon.patchSeq ∧ (judgePatch im s).aon.effDigest = s.aon.effDigest) := by
  rw [judgePatch_plain mode plain]
  obtain ⟨settled, done⟩ := commitPatch_commits (im := im) mode quiet queue
  refine ⟨?_, fun sound room => ?_, fun code detail bad found => ?_⟩
  · split
    · split
      · exact rejectPatch_quiet quiet ..
      · exact settled
    · exact rejectPatch_quiet quiet ..
  · rw [sound, room]
    exact done
  · rw [found, if_neg bad, rejectPatch_aon]
    exact ⟨rejectPatch_patchStat .., rejectPatch_cfg .., rfl, rfl⟩

end

/-! ## The image is read (R379) -/

/-- A patch is in progress. -/
def patchStarted (s : State) : State := { s with mgt.patchStat := mkPatchStat 0 0 false true }

/-- Where the image stands. -/
def patchAt (s : State) : Nat := s.mgt.patchBase.toNat % 2 ^ 45 / 64 * 64

/-- The class and the deadline of the device's own reads. -/
def ownClass (s : State) : BitVec 8 := BitVec.ofNat 8 (designated s 0)

def ownDeadline (s : State) : BitVec 12 := BitVec.ofNat 12 (fieldNat (classRec s (designated s 0)) 66 55)

/-- The image of a patch can be read. -/
structure PatchRead (s u v : State) (h im : List (BitVec 128)) (l k : List Got) (n : Nat) : Prop where
  size : n = imgSigned h + imgSigLen h
  inside : patchAt s + max n 128 ≤ capacity s
  header : readLines (ownClass s) (ownDeadline s) (linesOf (patchAt s) 128) (patchStarted s) = (some l, u)
  headerWords : wordsOf l = some h
  magic : fieldNat (imgHeader h) 31 0 = 0x534E5248
  small : n ≤ 2 ^ 20
  still : capacity u = capacity s
  image : readLines (ownClass s) (ownDeadline s) (linesOf (patchAt s) (ceilDiv (max n 128) 64 * 64)) u = (some k, v)
  imageWords : wordsOf k = some im

theorem runPatch_judges {u v : State} {h im : List (BitVec 128)} {l k : List Got} {n : Nat} (r : PatchRead s u v h im l k n) :
    runPatch (patchStarted s) = judgePatch (im.take (ceilDiv n 16)) v := by
  obtain ⟨size, inside, header, headerWords, magic, small, still, image, imageWords⟩ := r
  have busy : patchBusy (patchStarted s) = true := (by decide : (mkPatchStat 0 0 false true).getLsbD 0 = true)
  have unwaited : (patchStarted s).mgt.patchStat.getLsbD 1 = false := (by decide : (mkPatchStat 0 0 false true).getLsbD 1 = false)
  have header' : readLines (BitVec.ofNat 8 (designated (patchStarted s) 0))
      (BitVec.ofNat 12 (fieldNat (classRec (patchStarted s) (designated (patchStarted s) 0)) 66 55))
      (linesOf ((patchStarted s).mgt.patchBase.toNat % 2 ^ 45 / 64 * 64) 128) (patchStarted s) = (some l, u) := header
  have image' : readLines (BitVec.ofNat 8 (designated (patchStarted s) 0))
      (BitVec.ofNat 12 (fieldNat (classRec (patchStarted s) (designated (patchStarted s) 0)) 66 55))
      (linesOf ((patchStarted s).mgt.patchBase.toNat % 2 ^ 45 / 64 * 64) (ceilDiv (max n 128) 64 * 64)) u = (some k, v) := image
  unfold runPatch
  dsimp only
  rw [if_neg (by rw [busy, unwaited]; simp), header']
  refine (if_neg (show ¬ capacity s < patchAt s + 128 by omega)).trans ?_
  dsimp only
  rw [headerWords]
  dsimp only
  rw [← size, if_neg (by simp [magic]; omega)]
  refine (if_neg (show ¬ capacity u < patchAt s + n by omega)).trans ?_
  rw [image']
  dsimp only
  rw [imageWords]

/-- GO in Service with an image that can be read. -/
theorem go_judges {u v : State} {h im : List (BitVec 128)} {l k : List Got} {n : Nat} (mode : s.aon.mode = .service)
    (runs : sget false s.mgt.fwRuns 0 = true) (idle : patchBusy s = false) (r : PatchRead s u v h im l k n)
    (quiet : Quiet (judgePatch (im.take (ceilDiv n 16)) v)) :
    exec (.go 0) s = .next (i3cDone 0 [] (judgePatch (im.take (ceilDiv n 16)) v)) := by
  have started : startPatch s = (true, judgePatch (im.take (ceilDiv n 16)) v) := by
    unfold startPatch
    dsimp only
    rw [if_neg (by simp [idle]), if_pos (by simp [mode])]
    show (true, settle (runPatch (patchStarted s))) = _
    rw [runPatch_judges r, settle_of_quiet quiet]
  rw [exec_go (by simp [mode]) (by simp [mode]) runs, started, regDone_ok]

/-- Settles O40: GO is answered by the mode, and the image that was read is committed or rejected by the checks. -/
theorem patchesAreJudged : Obligations.PatchesAreJudged := by
  refine ⟨fun s stall watch runs => ⟨go_busy stall watch runs, go_elsewhere stall watch runs⟩, ?_⟩
  intro s u v h im l k a n mode runs idle base size inside header headerWords magic small still image imageWords quiet queue vmode plain
  subst base
  have r : PatchRead s u v h im l k n := ⟨size, inside, header, headerWords, magic, small, still, image, imageWords⟩
  obtain ⟨settled, done, rejected⟩ := judgePatch_verdict vmode quiet queue plain
  exact ⟨_, go_judges mode runs idle r settled, rfl, done, rejected⟩

end

end Sys2Proof.Laws
end

section
/-! PROOFS. Boot and writes of the SPI NOR (R373, R375, R376). -/

namespace Sys2Proof.Laws

open Sys2Proof Sys2Proof.Machine

section
variable {s u : State} {b : Bool}

/-! ## What the verification of a copy reads (R372) -/

theorem checkCfg_reads (s t : State) : checkCfg { s with fuse := t.fuse, cfg := t.cfg } = checkCfg t := rfl

theorem verifySteps_reads (s t : State) (kind : Nat) (im : List (BitVec 128)) :
    verifySteps { s with fuse := t.fuse } kind im = verifySteps t kind im := rfl

theorem verifySteps_of_kept (fuse : u.fuse = s.fuse) (kind : Nat) (im : List (BitVec 128)) : verifySteps u kind im = verifySteps s kind im := by
  have reads := verifySteps_reads s u kind im
  rw [fuse] at reads
  exact reads.symm

theorem checkCfg_of_kept (fuse : u.fuse = s.fuse) (c : SMap (List (BitVec 128))) : checkCfg { u with cfg := c } = checkCfg { s with cfg := c } := by
  have same : ({ u with fuse := s.fuse, cfg := c } : State) = { u with cfg := c } := by rw [← fuse]
  exact (congrArg checkCfg same).symm.trans (checkCfg_reads u { s with cfg := c })

/-- The copies of the SPI NOR and the fuses are the same, and so is what a boot leaves of the home. -/
structure BootKept (s u : State) : Prop where
  fuse : u.fuse = s.fuse
  a : u.nor.a = s.nor.a
  b : u.nor.b = s.nor.b
  mode : u.aon.mode = s.aon.mode
  quay : u.quay = s.quay
  waiters : u.reins.waiters = s.reins.waiters

theorem BootKept.norCopy (h : BootKept s u) (b : Bool) : norCopy u b = Machine.norCopy s b := by
  unfold Machine.norCopy
  rw [h.a, h.b]

theorem BootKept.copyGood (h : BootKept s u) (b : Bool) : CopyGood u b ↔ CopyGood s b := by
  unfold CopyGood
  rw [h.norCopy, verifySteps_of_kept h.fuse, verifySteps_of_kept h.fuse]
  exact and_congr_right' (and_congr_right' (exists_congr fun c => and_congr (by rw [h.fuse]) (by rw [checkCfg_of_kept h.fuse])))

theorem BootKept.trans {v : State} (h : BootKept s u) (k : BootKept u v) : BootKept s v :=
  ⟨k.fuse.trans h.fuse, k.a.trans h.a, k.b.trans h.b, k.mode.trans h.mode, k.quay.trans h.quay, k.waiters.trans h.waiters⟩

theorem bootKept_logIt (r : LogRec) (s : State) : BootKept s (logIt r s) :=
  ⟨logIt_fuse .., congrArg Nor.a (logIt_nor ..), congrArg Nor.b (logIt_nor ..), congrArg Aon.mode (logIt_aon ..), logIt_quay ..,
    congrArg Reins.waiters (logIt_reins ..)⟩

/-! ## A copy is tried (R375) -/

/-- What a loaded copy shows, and what its loading keeps. -/
def bootRegs (s : State) : (Bool × Bool × BitVec 384 × BitVec 384 × Mode) × Quay × List Waiter :=
  ((s.aon.loaded, s.aon.copyB, s.aon.hzDigest, s.aon.fwDigest, s.aon.mode), s.quay, s.reins.waiters)

theorem logIt_bootRegs (r : LogRec) (s : State) : bootRegs (logIt r s) = bootRegs s := by
  simp only [bootRegs, logIt_aon, logIt_quay, logIt_reins]

theorem loadLog_bootRegs (signed copy : Bool) (l : List PatchEnt) (i : Nat) (s : State) : bootRegs (loadLog signed copy i l s) = bootRegs s := by
  induction l generalizing i s with
  | nil => rfl
  | cons e l ih =>
    unfold loadLog
    split
    · exact ih ..
    · split
      · exact (ih ..).trans rfl
      · exact (logIt_bootRegs ..).trans rfl

theorem loadConfig_bootRegs (s : State) : bootRegs (loadConfig s) = bootRegs s := by
  have maps (l : List Nat) (f : Nat → Channel → Channel) : bootRegs (l.foldl (fun t c => modChan c (f c) t) s) = bootRegs s :=
    foldl_keeps (f := fun t c => modChan c (f c) t) bootRegs (fun _ _ => rfl) l s
  unfold loadConfig
  extract_lets mapped routes base noc tier loaded
  have same : bootRegs loaded = bootRegs s :=
    maps _ (fun c ch => { ch with xmap := (List.range 6).foldl (fun m i => sset 0 m i (harnessMask s c i)) [] })
  split
  · exact same
  · exact same

/-- The copy has been loaded. -/
def CopyLoaded (s : State) (b : Bool) (v : State) : Prop :=
  bootRegs v = ((true, b, imgDigest (norCopy s b).hz, imgDigest (norCopy s b).fw, s.aon.mode), s.quay, s.reins.waiters)

theorem BootKept.loaded {v : State} (h : BootKept s u) (k : CopyLoaded u b v) : CopyLoaded s b v := by
  unfold CopyLoaded at k ⊢
  rw [k, h.norCopy, h.mode, h.quay, h.waiters]

/-- The firmware of the copy runs. -/
def firmwareRuns (b : Bool) (s : State) : State :=
  { s with sec.kwk := some (Config.derive s.fuse.devSecret []), aon.fwDigest := imgDigest (norCopy s b).fw, aon.fwSvn := imgSvn (norCopy s b).fw,
           mgt.fwRuns := (List.range (numDies s)).foldl (fun m k => sset false m k true) [] }

theorem bootKept_firmwareRuns (b : Bool) (s : State) : BootKept s (firmwareRuns b s) := ⟨rfl, rfl, rfl, rfl, rfl, rfl⟩

/-- The configuration of the copy is loaded, without its patches. -/
def copyConfigured (b : Bool) (c : NorCopy) (cfg : SMap (List (BitVec 128))) (u : State) : State :=
  { u with cfg := cfg, aon.hzDigest := imgDigest c.hz, aon.hzSvn := imgSvn c.hz, aon.hzOwner := ownerOf c.hz,
           aon.effDigest := imgDigest c.hz, aon.patchSeq := 0, aon.logBroken := false, aon.loaded := true, aon.copyB := b,
           aon.fmtMajor := BitVec.ofNat 4 (imgMajor c.hz), aon.fmtMinor := BitVec.ofNat 4 (imgMinor c.hz) }

/-- The checks of the configuration of a copy. -/
def cfgTried (b : Bool) (c : NorCopy) (u : State) : Option (SMap (List (BitVec 128))) → Option (Nat × Nat) × State
  | none => (some (1, 0x01), u)
  | some cfg =>
    if checkCfg { u with cfg := cfg } = 0 then (none, loadConfig (loadLog true b 0 c.log (copyConfigured b c cfg u)))
    else (some (1, checkCfg { u with cfg := cfg }), u)

/-- The firmware verifies the harness image. -/
def harnessTried (b : Bool) (c : NorCopy) (u : State) : Option (Nat × Nat) × State :=
  if verifySteps u 1 c.hz = 0 then cfgTried b c u (imageCfg u.fuse.variantH c.hz) else (some (1, verifySteps u 1 c.hz), u)

theorem tryCopy_eq (b : Bool) (s : State) : tryCopy b s =
    if verifySteps s 3 (norCopy s b).fw = 0 then harnessTried b (norCopy s b) (firmwareRuns b s)
    else (some (3, verifySteps s 3 (norCopy s b).fw), s) := by
  have checked (u : State) (c : NorCopy) (cfg : SMap (List (BitVec 128))) : cfgTried b c u (some cfg) =
      match checkCfg { u with cfg := cfg } with
      | 0 => (none, loadConfig (loadLog true b 0 c.log (copyConfigured b c cfg u)))
      | k => (some (1, k), u) := by
    dsimp only [cfgTried]
    generalize checkCfg { u with cfg := cfg } = k
    cases k <;> rfl
  have tried (u : State) (c : NorCopy) : harnessTried b c u =
      match verifySteps u 1 c.hz with
      | 0 => match imageCfg u.fuse.variantH c.hz with
        | none => (some (1, 0x01), u)
        | some cfg => match checkCfg { u with cfg := cfg } with
          | 0 => (none, loadConfig (loadLog true b 0 c.log (copyConfigured b c cfg u)))
          | k => (some (1, k), u)
      | n => (some (1, n), u) := by
    unfold harnessTried
    generalize verifySteps u 1 c.hz = n
    cases n
    · cases imageCfg u.fuse.variantH c.hz
      · rfl
      · exact checked ..
    · rfl
  rw [tried]
  unfold tryCopy
  dsimp only
  generalize verifySteps s 3 (norCopy s b).fw = n
  cases n
  · rfl
  · rfl

theorem tryCopy_good (good : CopyGood s b) : ∃ v, tryCopy b s = (none, v) ∧ CopyLoaded s b v := by
  obtain ⟨firmware, harness, cfg, image, checks⟩ := good
  have harness' : verifySteps (firmwareRuns b s) 1 (norCopy s b).hz = 0 := (verifySteps_of_kept rfl ..).trans harness
  have checks' : checkCfg { firmwareRuns b s with cfg := cfg } = 0 := (checkCfg_of_kept rfl cfg).trans checks
  have image' : imageCfg (firmwareRuns b s).fuse.variantH (norCopy s b).hz = some cfg := image
  refine ⟨loadConfig (loadLog true b 0 (norCopy s b).log (copyConfigured b (norCopy s b) cfg (firmwareRuns b s))), ?_,
    (loadConfig_bootRegs _).trans (loadLog_bootRegs ..)⟩
  rw [tryCopy_eq, if_pos firmware, harnessTried, if_pos harness', image', cfgTried, if_pos checks']

theorem tryCopy_bad (bad : ¬ CopyGood s b) : ∃ p v, tryCopy b s = (some p, v) ∧ BootKept s v := by
  have runs := bootKept_firmwareRuns b s
  rw [tryCopy_eq]
  by_cases firmware : verifySteps s 3 (norCopy s b).fw = 0
  · rw [if_pos firmware, harnessTried]
    by_cases harness : verifySteps (firmwareRuns b s) 1 (norCopy s b).hz = 0
    · rw [if_pos harness]
      cases image : imageCfg (firmwareRuns b s).fuse.variantH (norCopy s b).hz with
      | none => exact ⟨_, _, rfl, runs⟩
      | some cfg =>
        have unchecked : checkCfg { firmwareRuns b s with cfg := cfg } ≠ 0 := fun checks =>
          bad ⟨firmware, (verifySteps_of_kept rfl ..).symm.trans harness, cfg, image, (checkCfg_of_kept rfl cfg).symm.trans checks⟩
        rw [cfgTried, if_neg unchecked]
        exact ⟨_, _, rfl, runs⟩
    · rw [if_neg harness]
      exact ⟨_, _, rfl, runs⟩
  · rw [if_neg firmware]
    exact ⟨_, _, rfl, rfl, rfl, rfl, rfl, rfl, rfl⟩

theorem tryLogged_good (good : CopyGood s b) : ∃ v, tryLogged b s = (none, v) ∧ CopyLoaded s b v := by
  obtain ⟨v, tried, loaded⟩ := tryCopy_good good
  refine ⟨v, ?_, loaded⟩
  unfold tryLogged
  rw [tried]

theorem tryLogged_bad (bad : ¬ CopyGood s b) : ∃ p v, tryLogged b s = (some p, v) ∧ BootKept s v := by
  obtain ⟨⟨kind, k⟩, v, tried, kept⟩ := tryCopy_bad bad
  refine ⟨(kind, k), logIt { cause := 0x60, args := [if b then 1 else 0, kind, k] } v, ?_, kept.trans (bootKept_logIt ..)⟩
  unfold tryLogged
  rw [tried]

/-! ## The choice (R375) -/

/-- Copy `f` is tried first, and no trial boot is asked for. -/
theorem bootCopies_first {f : Bool} (first : FirstCopy s f) : bootCopies s = match tryLogged f s with
    | (none, s) => (true, { s with aon.trial := false, aon.fallback := false, nor.triedOther := false })
    | (some (_, a), s) => match tryLogged (!f) { s with nor.triedOther := true } with
      | (none, s) => (true, { s with aon.trial := false, aon.fallback := true })
      | (some (_, b), s) => (false, logIt { cause := 0x61, args := if f then [b, a] else [a, b] } s) := by
  have trial : ((dirInUse s).map (dirCopy s)).any dirTrial = false := by
    obtain ⟨none', -⟩ | ⟨one, found, untried, -⟩ := first
    · rw [none']
      rfl
    · rw [found]
      exact untried
  have pref : ((dirInUse s).map (dirCopy s)).any dirPrefersB = f := by
    obtain ⟨none', rfl⟩ | ⟨one, found, -, named⟩ := first
    · rw [none']
      rfl
    · rw [found]
      exact named
  unfold bootCopies
  dsimp only
  rw [trial, pref]
  rfl

theorem bootCopies_boots {f : Bool} (first : FirstCopy s f) :
    (CopyGood s f → ∃ v, bootCopies s = (true, { v with aon.trial := false, aon.fallback := false, nor.triedOther := false }) ∧
      CopyLoaded s f v) ∧
    (¬ CopyGood s f → CopyGood s (!f) → ∃ v, bootCopies s = (true, { v with aon.trial := false, aon.fallback := true }) ∧
      CopyLoaded s (!f) v) ∧
    (¬ CopyGood s f → ¬ CopyGood s (!f) → ∃ v, bootCopies s = (false, v) ∧ v.aon.mode = s.aon.mode) := by
  have other {p : Nat × Nat} {v : State} (kept : BootKept s v) : BootKept s { v with nor.triedOther := true } :=
    ⟨kept.fuse, kept.a, kept.b, kept.mode, kept.quay, kept.waiters⟩
  rw [bootCopies_first first]
  refine ⟨fun good => ?_, fun bad good => ?_, fun bad worse => ?_⟩
  · obtain ⟨v, tried, loaded⟩ := tryLogged_good good
    exact ⟨v, by rw [tried], loaded⟩
  · obtain ⟨p, v, tried, kept⟩ := tryLogged_bad bad
    have kept' := other (p := p) kept
    obtain ⟨w, tried', loaded⟩ := tryLogged_good ((kept'.copyGood (!f)).2 good)
    exact ⟨w, by rw [tried]; dsimp only; rw [tried'], kept'.loaded loaded⟩
  · obtain ⟨p, v, tried, kept⟩ := tryLogged_bad bad
    have kept' := other (p := p) kept
    obtain ⟨q, w, tried', kept''⟩ := tryLogged_bad (mt (kept'.copyGood (!f)).1 worse)
    exact ⟨logIt { cause := 0x61, args := if f then [q.2, p.2] else [p.2, q.2] } w, by rw [tried]; dsimp only; rw [tried'],
      (congrArg Aon.mode (logIt_aon ..)).trans (kept'.trans kept'').mode⟩

/-- BOOT_COPY_TRY with a copy that boots. -/
theorem bootCopyTry_boots {v : State} {c o : Bool} (mode : s.aon.mode = .harnessing) (unloaded : s.aon.loaded = false) (quiet : Quiet s)
    (chosen : bootCopies s = (true, v)) (regs : bootRegs v = ((true, c, imgDigest (norCopy s c).hz, imgDigest (norCopy s c).fw, s.aon.mode),
      s.quay, s.reins.waiters)) (fallback : v.aon.fallback = o) : ∃ t, exec .bootCopyTry s = .next t ∧ Booted s t c o := by
  simp only [bootRegs, Prod.mk.injEq] at regs
  obtain ⟨⟨loaded, copy, harness, firmware, mode'⟩, quay, waiters⟩ := regs
  obtain ⟨bits, changes, aon⟩ := refreshPA_aon v
  refine ⟨refreshPA v, ?_, ?_⟩
  · show execBootCopyTry s = _
    unfold execBootCopyTry
    rw [if_neg (by simp [mode, unloaded]), chosen]
    exact congrArg Host.Outcome.next (settle_of_quiet (quiet_refreshPA (quiet_of_kept quiet quay waiters)))
  · unfold Booted
    rw [aon]
    exact ⟨loaded, copy, fallback, harness, firmware, mode'⟩

theorem bootCopyTry_chooses {f : Bool} (mode : s.aon.mode = .harnessing) (unloaded : s.aon.loaded = false) (quiet : Quiet s)
    (first : FirstCopy s f) : ∃ t, exec .bootCopyTry s = .next t ∧
      (CopyGood s f → Booted s t f false) ∧ (¬ CopyGood s f → CopyGood s (!f) → Booted s t (!f) true) ∧
      (¬ CopyGood s f → ¬ CopyGood s (!f) → Entered t .harnessing .stall 0x05) := by
  obtain ⟨firstBoots, otherBoots, neither⟩ := bootCopies_boots first
  by_cases good : CopyGood s f
  · obtain ⟨v, chosen, loaded⟩ := firstBoots good
    obtain ⟨t, run, booted⟩ := bootCopyTry_boots mode unloaded quiet chosen (o := false) loaded rfl
    exact ⟨t, run, fun _ => booted, fun bad => absurd good bad, fun bad => absurd good bad⟩
  · by_cases other : CopyGood s (!f)
    · obtain ⟨v, chosen, loaded⟩ := otherBoots good other
      obtain ⟨t, run, booted⟩ := bootCopyTry_boots mode unloaded quiet chosen (o := true) loaded rfl
      exact ⟨t, run, fun h => absurd h good, fun _ _ => booted, fun _ bad => absurd other bad⟩
    · obtain ⟨v, chosen, mode'⟩ := neither good other
      refine ⟨toStall 0x05 v, ?_, fun h => absurd h good, fun _ h => absurd h other, fun _ _ => toStall_entered 0x05 (mode'.trans mode)⟩
      show execBootCopyTry s = _
      unfold execBootCopyTry
      rw [if_neg (by simp [mode, unloaded]), chosen]

/-! ## Writes (R373, R376) -/

theorem norCopy_setNorCopy (c : Bool) (x : NorCopy) (s : State) :
    norCopy (setNorCopy c x s) c = x ∧ norCopy (setNorCopy c x s) (!c) = norCopy s (!c) ∧ (setNorCopy c x s).nor.dir0 = s.nor.dir0 ∧
      (setNorCopy c x s).nor.dir1 = s.nor.dir1 := by
  cases c
  · exact ⟨rfl, rfl, rfl, rfl⟩
  · exact ⟨rfl, rfl, rfl, rfl⟩

theorem spiNorWrite_resting {c : Bool} (resting : s.aon.loaded = false ∨ c ≠ s.aon.copyB) (w : List (BitVec 128)) :
    exec (.spiNorWrite (.firmware c) w) s = .next (setNorCopy c { norCopy s c with fw := w } s) ∧
    exec (.spiNorWrite (.harness c) w) s = .next (setNorCopy c { norCopy s c with hz := w, log := [] } s) := by
  have idle : (s.aon.loaded && (c == s.aon.copyB)) = false := by
    obtain unloaded | other := resting
    · rw [unloaded]
      rfl
    · rw [beq_false_of_ne other, Bool.and_false]
  exact ⟨congrArg Host.Outcome.next (if_neg (ne_true_of_eq_false idle)), congrArg Host.Outcome.next (if_neg (ne_true_of_eq_false idle))⟩

theorem spiNorWrite_running {c : Bool} (loaded : s.aon.loaded = true) (own : c = s.aon.copyB) (w : List (BitVec 128)) :
    exec (.spiNorWrite (.firmware c) w) s = .next s ∧ exec (.spiNorWrite (.harness c) w) s = .next s := by
  have running : (s.aon.loaded && (c == s.aon.copyB)) = true := by simp [loaded, own]
  exact ⟨congrArg Host.Outcome.next (if_pos running), congrArg Host.Outcome.next (if_pos running)⟩

/-- One word of a directory line. -/
theorem spiNorWrite_dir (a b c d : BitVec 128) :
    (List.range 4).foldl (fun (x : BitVec 512) i => x ||| place 512 (128 * i) ([a, b, c, d].getD i (BitVec.allOnes 128))) 0 =
      place 512 0 a ||| place 512 128 b ||| place 512 256 c ||| place 512 384 d := by
  show 0 ||| place 512 0 a ||| place 512 128 b ||| place 512 256 c ||| place 512 384 d = _
  rw [show (0 : BitVec 512) ||| place 512 0 a = place 512 0 a from BitVec.zero_or]

/-- Settles O39: a copy is tried by what its verification reads, and a write changes only its region. -/
theorem bootChoosesACopy : Obligations.BootChoosesACopy := by
  refine ⟨fun s f mode unloaded quiet first => bootCopyTry_chooses mode unloaded quiet first, fun s c w => ⟨fun resting => ?_,
    fun loaded own => spiNorWrite_running loaded own w, rfl, rfl, _, rfl, rfl, rfl, fun k small => ?_⟩, fun s a b c d => ⟨?_, ?_⟩⟩
  · obtain ⟨firmware, harness⟩ := spiNorWrite_resting resting w
    exact ⟨⟨_, firmware, norCopy_setNorCopy ..⟩, _, harness, norCopy_setNorCopy ..⟩
  · exact (sget_foldl_sset (0 : BitVec 64) (fun k => (w.getD k 0).extractLsb' 0 64) _ [] k).trans (if_pos (List.mem_range.2 small))
  · exact congrArg (fun x => Host.Outcome.next { s with nor.dir0 := x }) (spiNorWrite_dir a b c d)
  · exact congrArg (fun x => Host.Outcome.next { s with nor.dir1 := x }) (spiNorWrite_dir a b c d)

end

end Sys2Proof.Laws
end

section
/-! PROOFS. The post of a completion (R346): the statement fails where the line of the completion queue waits to be orphaned (R57). -/

namespace Sys2Proof.Laws

open Sys2Proof Sys2Proof.Machine

/-- A command that has ended, not yet posted. -/
def endedCommand : RCmd := { started := true, finished := true }

/-- A running ring: 64 entries at page 10, 256 completions at page 20, one command in progress. -/
def runningRing : BitVec 256 :=
  place 256 0 (1 : BitVec 1) ||| place 256 34 (6 : BitVec 5) ||| place 256 39 (8 : BitVec 5) ||| place 256 44 (10 : BitVec 33) |||
  place 256 77 (20 : BitVec 33) ||| place 256 160 (1 : BitVec 2) ||| place 256 162 (1 : BitVec 1) ||| place 256 176 (1 : BitVec 16)

/-- A device in Service with the command to post. Line 0 of page 20, the first of the ring's completion queue, waits for an entry of the
page operation table to be orphaned. -/
def orphanPosting : State :=
  { aon := { mode := .service }, rings := { ctx := [(0, runningRing)], cmds := [endedCommand] }, tier := { orphanWait := [(20, 0)] } }

/-- The line of the completion is untouched, as the statement has it. -/
theorem untouched_orphanPosting : Untouched orphanPosting 1280 :=
  ⟨by decide +kernel, by decide +kernel, by decide +kernel, by decide +kernel, rfl⟩

/-- The completion is not written: the ring goes to fault (R346). -/
theorem orphanPosting_posts_nothing : ∃ t, exec (.completionPost 0 0) orphanPosting = .next t ∧ qline t 1280 = none :=
  ⟨settle (postCmd endedCommand orphanPosting), rfl, by decide +kernel⟩

/-- Refutes O28: `Untouched` asks that no page operation stand in the table, not that no line of the page wait for an entry of it. A
completion whose line waits to be orphaned is a ring fault (R346) and is not posted, where the statement has it in the Quay data
partition. -/
theorem not_ringsRun : ¬ Obligations.RingsRun := by
  unfold Obligations.RingsRun
  intro h
  obtain ⟨-, -, -, -, post⟩ := h
  obtain ⟨t, q, run, -, -, held, -⟩ := post orphanPosting endedCommand 1280 rfl rfl rfl ⟨rfl, rfl, rfl, rfl, rfl, rfl, rfl⟩ rfl
    (by decide +kernel) untouched_orphanPosting (by decide +kernel) (by decide +kernel)
  obtain ⟨u, run', unheld⟩ := orphanPosting_posts_nothing
  cases run.symm.trans run'
  cases held.symm.trans unheld

end Sys2Proof.Laws
end
